-- ==== Sys2Proof/Word.lean ====
section
/-! DEFINITION. The word types of the Prahild: scalar registers are 64 bits (R61), lanes 32 bits, local-store
bytes 8 bits. -/

namespace Sys2Proof

/-- A scalar register value (R74). -/
abbrev Word := BitVec 64

/-- A lane of a line register, a 32-bit field of a special register (R61). -/
abbrev Half := BitVec 32

/-- The smallest addressable unit (R3). -/
abbrev Byte := BitVec 8

end Sys2Proof
end

