-- ==== Sys2Proof/Config.lean ====
section
/-! DEFINITION. What an implementation fixes and the free values: constants without a body. No proof can see which
value one takes, so a claim that mentions one holds for every value. -/

namespace Sys2Proof.Config

/-- Which of the moves that may come next is made, a choice for each step number (R9 fixes only the rotation of each
core; 95_what_each_step_holds). -/
opaque pick : Nat → Nat

/-- How many cycles beyond one pass with a step (log 9). -/
opaque extraCycles : Nat → Nat

/-- Bytes of LP6 memory behind each die's interface (R121): one eighth of the module, 0 on a PRH-P8. -/
opaque lp6Share : Nat

/-- Which devices a route table holds (R295): the number of the load by firmware, and the device (log 6). -/
opaque routed : Nat → Nat → Bool

/-- The device that stands at a position of a device set (R139, R142): job, device-set handle, position (log 17). -/
opaque setDevice : Nat → Nat → Nat → Nat

/-- How many devices a device set holds: job, device-set handle; 0 where the handle names none (R256; log 17). -/
opaque setSize : Nat → Nat → Nat

/-- Bytes of the replica-store region of each die's HBM (Table 7.1), and bytes an entry of a log's ring takes in it (R248). -/
opaque replicaRoom : Nat
opaque ringEntry : Nat

/-- A state block that a rejoining replica copies from another device (R257): object, position, offset. -/
opaque farReplica : Nat → Nat → Nat → BitVec 8

/-- The contents of the boot ROM of each die, 256 KiB: die, offset (Table 7.1). No address reaches it. -/
opaque bootRom : Nat → Nat → BitVec 8

/-- Whether another device refuses a request that a step serves: its page table for the job holds no leaf of its own for the
address, or not the right (R284). -/
opaque farRefuses : Nat → Bool

/-- Unloaded load latency of another device, about 1,500 cycles (Table 7.4). -/
opaque farLatency : Nat → Nat

/-- Offset of a remap area in the firmware-reserved region (Table 15.4). -/
opaque remapArea : Nat → Nat

/-- An entry of an operator-store slot that its last writer did not write in the format read (Table 10.1: undefined):
cluster, slot, row, column. -/
opaque slotEntry : Nat → Nat → Nat → Nat → Nat

/-- Whether a digest and a signature pass the Ed448 check under the public key held in ROM, which the spec does not give
(R371). -/
opaque signed : List Byte → List Byte → Bool

/-- The signature of a report under the identity key, which no level of software can read (R373). -/
opaque identitySign : List Byte → List Byte

/-- Whether a die finds a job over its power cap at the end of a window: window, die, job. The spec does not say how power
is estimated (R377). -/
opaque overCap : Nat → Nat → Nat → Bool

/-- Whether a strand that would issue at a step is withheld, its job being over its cap (R377). -/
opaque holdsBack : Nat → Bool

/-- The error that arises in memory at a step, if one does: its cell, and whether it is corrected (R137). -/
opaque memError : Nat → Option (Nat × Bool)

/-- A value the spec does not state, drawn at the model's own counter (log 7). -/
opaque freeWord : Nat → BitVec 64

end Sys2Proof.Config
end

