-- ==== Sys2Proof/Syntax.lean ====
section
/-! DEFINITION. The instructions and unit steps of the Prahild: one constructor for each row of the opcode table
(222 words of 32 bits, 27 compact words, 71 steps of the units that have no word; these carry no operand: what a step
concerns stands beside it in the agenda, see State). Register numbers and codes are already constructors here; raw bits
stay in Decode. -/

namespace Sys2Proof

/-- A scalar register operand (R20): m0-m15, o0-o5, l0, l1, z, t0-t3, q, pw. -/
inductive Reg where
  | m (i : Fin 16) | o (i : Fin 6) | l0 | l1 | z | t (i : Fin 4) | q | pw
  deriving DecidableEq, Repr

/-- A line operand (R21): k0-k7 or t0-t3. -/
inductive LReg where
  | k (i : Fin 8) | t (i : Fin 4)
  deriving DecidableEq, Repr

/-- A predicate designator p0-p15 (R22). -/
abbrev Pred := Fin 16
/-- The guard field g3: 0 means always (R24). -/
abbrev Guard := Fin 8
/-- The lookahead count la4 (R25). -/
abbrev Look := Fin 16
/-- An element type code of Table 2.9 (R19). -/
abbrev Ty := Fin 16

/-- Rounding modes (R30). -/
inductive RMode where
  | rne | rz | ru | rd | rna
  deriving DecidableEq, Repr

/-- Access sizes of format M (R33): 1, 2, 4, 8 bytes. -/
inductive ASize where
  | b1 | b2 | b4 | b8
  deriving DecidableEq, Repr

/-- Scopes of FENCE and SIG (R135, Table 19.1). -/
inductive Scope where
  | strand | core | cluster | die | package | span
  deriving DecidableEq, Repr

/-- Kinds of FENCE (R135). -/
inductive FKind where
  | full | rel | acq
  deriving DecidableEq, Repr

/-- Relations of VCMP (R103). -/
inductive Rel where
  | eq | lt | le | un
  deriving DecidableEq, Repr

/-- Source kinds of VCVT (R106). -/
inductive VSrc where
  | fp32 | i32 | n32
  deriving DecidableEq, Repr

/-- Special registers (R71, Table 4.2), in the order of their numbers 0 to 17. -/
inductive SReg where
  | sid | clk | tix | tcnt | lrec | job | home | rac | trh | wsp | wlim | wdep | tvec | tcause | tval | xpc | plv | xplv
  deriving DecidableEq, Repr

/-- One constructor for each row of the opcode table. -/
inductive Instr where
  /-- ADD (R76): Writes the 64-bit wrapped sum of a and b to d. -/
  | add (d : Reg) (a : Reg) (b : Reg) (g : Guard)
  /-- SUB (R76): Writes the 64-bit wrapped difference a minus b to d. -/
  | sub (d : Reg) (a : Reg) (b : Reg) (g : Guard)
  /-- MUL (R76): Writes bits 63:0 of the product of a and b to d. -/
  | mul (d : Reg) (a : Reg) (b : Reg) (g : Guard)
  /-- MULH (R76): Writes the high 64 bits of the signed 128-bit product to d. -/
  | mulh (d : Reg) (a : Reg) (b : Reg) (g : Guard)
  /-- MULHN (R76): Writes the high 64 bits of the unsigned 128-bit product to d. -/
  | mulhn (d : Reg) (a : Reg) (b : Reg) (g : Guard)
  /-- DIV (R76): Long-latency signed division with defined results for zero divisor and overflow. -/
  | div (d : Reg) (a : Reg) (b : Reg) (g : Guard) (la : Look)
  /-- DIVN (R76): Long-latency unsigned division, all ones on a zero divisor. -/
  | divn (d : Reg) (a : Reg) (b : Reg) (g : Guard) (la : Look)
  /-- REM (R76): Long-latency signed remainder taking the sign of a. -/
  | rem (d : Reg) (a : Reg) (b : Reg) (g : Guard) (la : Look)
  /-- AND (R77): Bitwise and of a and b. -/
  | and (d : Reg) (a : Reg) (b : Reg) (g : Guard)
  /-- OR (R77): Bitwise or of a and b. -/
  | or (d : Reg) (a : Reg) (b : Reg) (g : Guard)
  /-- XOR (R77): Bitwise xor of a and b. -/
  | xor (d : Reg) (a : Reg) (b : Reg) (g : Guard)
  /-- ANDN (R77): Bitwise a and not b. -/
  | andn (d : Reg) (a : Reg) (b : Reg) (g : Guard)
  /-- ORN (R77): Bitwise a or not b. -/
  | orn (d : Reg) (a : Reg) (b : Reg) (g : Guard)
  /-- XNOR (R77): Bitwise not of a xor b. -/
  | xnor (d : Reg) (a : Reg) (b : Reg) (g : Guard)
  /-- MIN (R77): Signed minimum of a and b. -/
  | min (d : Reg) (a : Reg) (b : Reg) (g : Guard)
  /-- MAX (R77): Signed maximum of a and b. -/
  | max (d : Reg) (a : Reg) (b : Reg) (g : Guard)
  /-- SHL (R77): Shifts a left by b[5:0]. -/
  | shl (d : Reg) (a : Reg) (b : Reg) (g : Guard)
  /-- SHR (R77): Logical right shift of a by b[5:0]. -/
  | shr (d : Reg) (a : Reg) (b : Reg) (g : Guard)
  /-- SHA (R77): Arithmetic right shift of a by b[5:0]. -/
  | sha (d : Reg) (a : Reg) (b : Reg) (g : Guard)
  /-- ROT (R77): Rotates a left by b[5:0]. -/
  | rot (d : Reg) (a : Reg) (b : Reg) (g : Guard)
  /-- MINN (R77): Unsigned minimum of a and b. -/
  | minn (d : Reg) (a : Reg) (b : Reg) (g : Guard)
  /-- MAXN (R77): Unsigned maximum of a and b. -/
  | maxn (d : Reg) (a : Reg) (b : Reg) (g : Guard)
  /-- CLZ (R77): Counts leading zero bits of a. -/
  | clz (d : Reg) (a : Reg) (g : Guard)
  /-- POPC (R77): Counts one bits of a. -/
  | popc (d : Reg) (a : Reg) (g : Guard)
  /-- BEXT (R78): Packs the bits of a under mask b downward. -/
  | bext (d : Reg) (a : Reg) (b : Reg) (g : Guard)
  /-- BDEP (R78): Spreads the low bits of a to the positions of mask b. -/
  | bdep (d : Reg) (a : Reg) (b : Reg) (g : Guard)
  /-- BREV (R78): Reverses the 64 bits of a. -/
  | brev (d : Reg) (a : Reg) (g : Guard)
  /-- SCADD (R78): Writes a plus b times eight. -/
  | scadd (d : Reg) (a : Reg) (b : Reg) (g : Guard)
  /-- SEL (R78): Selects bits of a or b under the old d as mask. -/
  | sel (d : Reg) (a : Reg) (b : Reg) (g : Guard)
  /-- LUT3 (R79): Applies an eight-entry truth table bitwise to old d, a and b. -/
  | lut3 (d : Reg) (a : Reg) (b : Reg) (tbl : BitVec 8)
  /-- FSL (R79): Funnel shift left of the 128-bit value a:b. -/
  | fsl (d : Reg) (a : Reg) (b : Reg) (n : BitVec 6)
  /-- FSR (R79): Funnel shift right of the 128-bit value a:b. -/
  | fsr (d : Reg) (a : Reg) (b : Reg) (n : BitVec 6)
  /-- CMPEQ (R80): Sets a predicate when a equals b. -/
  | cmpeq (pd : Pred) (a : Reg) (b : Reg) (g : Guard)
  /-- CMPNE (R80): Sets a predicate when a differs from b. -/
  | cmpne (pd : Pred) (a : Reg) (b : Reg) (g : Guard)
  /-- CMPLT (R80): Sets a predicate when a is signed less than b. -/
  | cmplt (pd : Pred) (a : Reg) (b : Reg) (g : Guard)
  /-- CMPLE (R80): Sets a predicate when a is signed at most b. -/
  | cmple (pd : Pred) (a : Reg) (b : Reg) (g : Guard)
  /-- CMPLTN (R80): Sets a predicate when a is unsigned less than b. -/
  | cmpltn (pd : Pred) (a : Reg) (b : Reg) (g : Guard)
  /-- CMPLEN (R80): Sets a predicate when a is unsigned at most b. -/
  | cmplen (pd : Pred) (a : Reg) (b : Reg) (g : Guard)
  /-- TST (R80): Sets a predicate when a and b share a set bit. -/
  | tst (pd : Pred) (a : Reg) (b : Reg) (g : Guard)
  /-- PAND (R81): Predicate and. -/
  | pand (pd : Pred) (pa : Pred) (pb : Pred) (g : Guard)
  /-- POR (R81): Predicate or. -/
  | por (pd : Pred) (pa : Pred) (pb : Pred) (g : Guard)
  /-- PXOR (R81): Predicate xor. -/
  | pxor (pd : Pred) (pa : Pred) (pb : Pred) (g : Guard)
  /-- PNOT (R81): Predicate not. -/
  | pnot (pd : Pred) (pa : Pred) (g : Guard)
  /-- ADDI (R82): Adds the sign-extended immediate to a. -/
  | addi (d : Reg) (a : Reg) (imm : BitVec 12) (g : Guard)
  /-- ANDI (R82): Ands a with the sign-extended immediate. -/
  | andi (d : Reg) (a : Reg) (imm : BitVec 12) (g : Guard)
  /-- ORI (R82): Ors a with the sign-extended immediate. -/
  | ori (d : Reg) (a : Reg) (imm : BitVec 12) (g : Guard)
  /-- XORI (R82): Xors a with the sign-extended immediate. -/
  | xori (d : Reg) (a : Reg) (imm : BitVec 12) (g : Guard)
  /-- SHLI (R82): Shifts a left by an immediate amount. -/
  | shli (d : Reg) (a : Reg) (n : BitVec 6) (g : Guard)
  /-- SHRI (R82): Logical right shift by an immediate amount. -/
  | shri (d : Reg) (a : Reg) (n : BitVec 6) (g : Guard)
  /-- SHAI (R82): Arithmetic right shift by an immediate amount. -/
  | shai (d : Reg) (a : Reg) (n : BitVec 6) (g : Guard)
  /-- CMPEQI (R82): Sets a predicate when a equals the sign-extended 10-bit immediate. -/
  | cmpeqi (pd : Pred) (a : Reg) (imm : BitVec 10) (g : Guard)
  /-- CMPLTI (R82): Sets a predicate when a is signed less than the immediate. -/
  | cmplti (pd : Pred) (a : Reg) (imm : BitVec 10) (g : Guard)
  /-- CMPLTNI (R82): Sets a predicate when a is unsigned less than the zero-extended immediate. -/
  | cmpltni (pd : Pred) (a : Reg) (imm : BitVec 10) (g : Guard)
  /-- LUI (R83): Loads the sign-extended immediate shifted left by 12. -/
  | lui (d : Reg) (imm : BitVec 20)
  /-- ADDPC (R83): Writes pc plus twice the signed immediate. -/
  | addpc (d : Reg) (imm : BitVec 20)
  /-- FADD (R84): Binary32 addition. -/
  | fadd (d : Reg) (a : Reg) (b : Reg) (g : Guard)
  /-- FSUB (R84): Binary32 subtraction. -/
  | fsub (d : Reg) (a : Reg) (b : Reg) (g : Guard)
  /-- FMUL (R84): Binary32 multiplication. -/
  | fmul (d : Reg) (a : Reg) (b : Reg) (g : Guard)
  /-- FMA (R84): Binary32 fused multiply-add into old d. -/
  | fma (d : Reg) (a : Reg) (b : Reg) (g : Guard)
  /-- FDIV (R84): Long-latency correctly rounded binary32 division. -/
  | fdiv (d : Reg) (a : Reg) (b : Reg) (g : Guard) (la : Look)
  /-- FSQRT (R84): Long-latency correctly rounded binary32 square root. -/
  | fsqrt (d : Reg) (a : Reg) (g : Guard) (la : Look)
  /-- FMIN (R84): Binary32 minimum ignoring a lone NaN. -/
  | fmin (d : Reg) (a : Reg) (b : Reg) (g : Guard)
  /-- FMAX (R84): Binary32 maximum ignoring a lone NaN. -/
  | fmax (d : Reg) (a : Reg) (b : Reg) (g : Guard)
  /-- FCMPEQ (R85): Sets a predicate when two binary32 values are equal. -/
  | fcmpeq (pd : Pred) (a : Reg) (b : Reg) (g : Guard)
  /-- FCMPLT (R85): Sets a predicate when a is less than b in binary32. -/
  | fcmplt (pd : Pred) (a : Reg) (b : Reg) (g : Guard)
  /-- FCMPLE (R85): Sets a predicate when a is at most b in binary32. -/
  | fcmple (pd : Pred) (a : Reg) (b : Reg) (g : Guard)
  /-- FCMPUN (R85): Sets a predicate when either operand is NaN. -/
  | fcmpun (pd : Pred) (a : Reg) (b : Reg) (g : Guard)
  /-- CVT (R86): Converts between element types with a rounding mode and saturate flag. -/
  | cvt (d : Reg) (a : Reg) (src : Ty) (dst : Ty) (mode : RMode) (sat : Bool) (g : Guard)
  /-- DADD (R87): Binary64 addition on core 14 or 15. -/
  | dadd (d : Reg) (a : Reg) (b : Reg) (g : Guard) (la : Look)
  /-- DSUB (R87): Binary64 subtraction on core 14 or 15. -/
  | dsub (d : Reg) (a : Reg) (b : Reg) (g : Guard) (la : Look)
  /-- DMUL (R87): Binary64 multiplication on core 14 or 15. -/
  | dmul (d : Reg) (a : Reg) (b : Reg) (g : Guard) (la : Look)
  /-- DFMA (R87): Binary64 fused multiply-add on core 14 or 15. -/
  | dfma (d : Reg) (a : Reg) (b : Reg) (g : Guard) (la : Look)
  /-- DDIV (R87): Binary64 division on core 14 or 15. -/
  | ddiv (d : Reg) (a : Reg) (b : Reg) (g : Guard) (la : Look)
  /-- DSQRT (R87): Binary64 square root on core 14 or 15. -/
  | dsqrt (d : Reg) (a : Reg) (g : Guard) (la : Look)
  /-- SRD (R88): Reads a special register into d. -/
  | srd (d : Reg) (r : SReg) (g : Guard)
  /-- SWR (R71): Writes a special register from a, subject to its access level. -/
  | swr (r : SReg) (a : Reg) (g : Guard)
  /-- EXT (R88): Writes an extension register from a. -/
  | ext (k : Fin 8) (a : Reg) (g : Guard)
  /-- RDCYC (R88): Reads clk into d. -/
  | rdcyc (d : Reg)
  /-- TRAP (R360): Raises trap class 11 with the code in tval. -/
  | trap (code : BitVec 9)
  /-- BR (R90): Branches when the predicate is 1. -/
  | br (p : Pred) (off : BitVec 20)
  /-- BR_F (R90): Branches when the predicate is 0. -/
  | brF (p : Pred) (off : BitVec 20)
  /-- CALL (R91): Calls a pc-relative target, moving the register window and writing the link. -/
  | call (off : BitVec 25)
  /-- JR (R92): Jumps to the address in a. -/
  | jr (a : Reg) (g : Guard)
  /-- CALLR (R91): Calls the address in a, moving the register window. -/
  | callr (a : Reg) (g : Guard)
  /-- RET (R92): Returns to m7 and moves the window back. -/
  | ret (g : Guard)
  /-- LOOP (R93): Decrements d and branches while it is nonzero. -/
  | loop (d : Reg) (off : BitVec 12) (g : Guard)
  /-- SUSP (R223): Suspends the task until a message, a word condition or a time. -/
  | susp (a : Reg) (b : Reg) (g : Guard)
  /-- MIGR (R224): Migrates the strand to the home core of an address. -/
  | migr (d : Reg) (a : Reg) (g : Guard) (la : Look)
  /-- HOME (R224): Returns an abroad strand to its home slot. -/
  | home (g : Guard) (la : Look)
  /-- SPAWN (R219): Places a new task record in the cluster or die task queue. -/
  | spawn (d : Reg) (a : Reg) (b : Reg) (g : Guard) (la : Look)
  /-- SPAWNH (R219): Places a new task record in the run queue of an address's home core. -/
  | spawnh (d : Reg) (a : Reg) (b : Reg) (g : Guard) (la : Look)
  /-- SEND (R215): Offers a message to a destination slot's receive queue and returns a status. -/
  | send (d : Reg) (a : Reg) (b : Reg) (g : Guard) (la : Look)
  /-- QTEST (R217): Returns the number of entries in the receive queue. -/
  | qtest (d : Reg) (g : Guard)
  /-- LAUNCH (R235): Starts a launch record, beginning its preparation. -/
  | launch (d : Reg) (a : Reg) (b : Reg) (g : Guard) (la : Look)
  /-- GRUN (R236): Checks and starts a graph of launches. -/
  | grun (d : Reg) (a : Reg) (g : Guard) (la : Look)
  /-- CANCEL_LAUNCH (R237): Cancels a launch, discarding its records and ending its tasks. -/
  | cancelLaunch (d : Reg) (a : Reg) (b : Reg) (g : Guard) (la : Look)
  /-- CANCEL_GRAPH (R237): Cancels every started launch of a graph and skips the rest. -/
  | cancelGraph (d : Reg) (a : Reg) (b : Reg) (g : Guard) (la : Look)
  /-- CANCEL_JOB (R237): Cancels every graph and launch of a job and refuses further ones. -/
  | cancelJob (d : Reg) (a : Reg) (b : Reg) (g : Guard) (la : Look)
  /-- CALLM (R249): Appends a mutating call to a replayed object's log and receives its position and result. -/
  | callm (d : Reg) (a : Reg) (g : Guard) (la : Look)
  /-- CALLQ (R250): Runs a query method on the local replica once it has reached the floor. -/
  | callq (d : Reg) (a : Reg) (b : Reg) (g : Guard) (la : Look)
  /-- CALLW (R251): Waits until the local replica has applied the floor position. -/
  | callw (a : Reg) (b : Reg) (g : Guard) (la : Look)
  /-- STF (R148): Stores a scalar to a field element by logical index with a plane count and policy. -/
  | stf (d : Reg) (a : Reg) (b : Reg) (c : Fin 4) (md : Bool) (g : Guard) (la : Look)
  /-- LD (R125): Loads 1 to 8 bytes from a virtual address. -/
  | ld (d : Reg) (a : Reg) (off : BitVec 8) (sz : ASize) (sx : Bool) (la : Look)
  /-- ST (R125): Stores 1 to 8 bytes to a virtual address. -/
  | st (d : Reg) (a : Reg) (off : BitVec 8) (sz : ASize) (la : Look)
  /-- LDA (R125): Aligned atomic load of 4, 8 or a 16-byte pair. -/
  | lda (d : Reg) (a : Reg) (off : BitVec 8) (sz : ASize) (pair : Bool) (la : Look)
  /-- STA (R125): Aligned atomic store of 4, 8 or a 16-byte pair. -/
  | sta (d : Reg) (a : Reg) (off : BitVec 8) (sz : ASize) (pair : Bool) (la : Look)
  /-- LDL (R125): Loads from a local store by L-address. -/
  | ldl (d : Reg) (a : Reg) (off : BitVec 8) (sz : ASize) (sx : Bool) (la : Look)
  /-- STL (R125): Stores to a local store by L-address. -/
  | stl (d : Reg) (a : Reg) (off : BitVec 8) (sz : ASize) (la : Look)
  /-- LDX (R128): Loads 8 bytes at the sum of two registers. -/
  | ldx (d : Reg) (a : Reg) (b : Reg) (g : Guard) (la : Look)
  /-- STX (R128): Stores 8 bytes at the sum of two registers. -/
  | stx (d : Reg) (a : Reg) (b : Reg) (g : Guard) (la : Look)
  /-- LRW (R132): Joins a line's reservation queue and reads the word when granted. -/
  | lrw (d : Reg) (a : Reg) (g : Guard) (la : Look)
  /-- SCV (R132): Stores under the held reservation and passes it on. -/
  | scv (d : Reg) (a : Reg) (g : Guard) (la : Look)
  /-- RELQ (R132): Passes the held reservation on without a store. -/
  | relq (a : Reg) (g : Guard) (la : Look)
  /-- FENCE (R135): Holds later accesses until earlier ones of its kind are performed at its scope. -/
  | fence (scope : Scope) (kind : FKind) (g : Guard)
  /-- IFENCE (R136): Discards fetched words so the next instruction is fetched anew. -/
  | ifence (g : Guard)
  /-- VAMO_BF16 (R134): Adds 64 BF16 values from local store to a remote half-line at its home. -/
  | vamoBf16 (a : Reg) (b : Reg) (g : Guard) (la : Look)
  /-- VAMO_FP32 (R134): Adds 32 FP32 values from local store to a remote half-line at its home. -/
  | vamoFp32 (a : Reg) (b : Reg) (g : Guard) (la : Look)
  /-- AMOADD (R129): Atomic add at the line's home, returning the old value. -/
  | amoadd (d : Reg) (a : Reg) (b : Reg) (g : Guard) (la : Look)
  /-- AMOAND (R129): Atomic and at the line's home. -/
  | amoand (d : Reg) (a : Reg) (b : Reg) (g : Guard) (la : Look)
  /-- AMOOR (R129): Atomic or at the line's home. -/
  | amoor (d : Reg) (a : Reg) (b : Reg) (g : Guard) (la : Look)
  /-- AMOXOR (R129): Atomic xor at the line's home. -/
  | amoxor (d : Reg) (a : Reg) (b : Reg) (g : Guard) (la : Look)
  /-- AMOMIN (R129): Atomic signed minimum at the line's home. -/
  | amomin (d : Reg) (a : Reg) (b : Reg) (g : Guard) (la : Look)
  /-- AMOMAX (R129): Atomic signed maximum at the line's home. -/
  | amomax (d : Reg) (a : Reg) (b : Reg) (g : Guard) (la : Look)
  /-- AMOSWAP (R129): Atomic swap at the line's home. -/
  | amoswap (d : Reg) (a : Reg) (b : Reg) (g : Guard) (la : Look)
  /-- AMOCAS (R129): Atomic compare-and-swap against e0 at the line's home. -/
  | amocas (d : Reg) (a : Reg) (b : Reg) (g : Guard) (la : Look)
  /-- VADD (R100): Lane-wise addition. -/
  | vadd (d : LReg) (a : LReg) (b : LReg) (ty : Ty) (g : Guard)
  /-- VSUB (R100): Lane-wise subtraction. -/
  | vsub (d : LReg) (a : LReg) (b : LReg) (ty : Ty) (g : Guard)
  /-- VMUL (R100): Lane-wise multiplication. -/
  | vmul (d : LReg) (a : LReg) (b : LReg) (ty : Ty) (g : Guard)
  /-- VFMA (R100): Lane-wise fused multiply-add into old d. -/
  | vfma (d : LReg) (a : LReg) (b : LReg) (ty : Ty) (g : Guard)
  /-- VMIN (R100): Lane-wise minimum. -/
  | vmin (d : LReg) (a : LReg) (b : LReg) (ty : Ty) (g : Guard)
  /-- VMAX (R100): Lane-wise maximum. -/
  | vmax (d : LReg) (a : LReg) (b : LReg) (ty : Ty) (g : Guard)
  /-- VABS (R100): Lane-wise absolute value. -/
  | vabs (d : LReg) (a : LReg) (ty : Ty) (g : Guard)
  /-- VNEG (R100): Lane-wise negation. -/
  | vneg (d : LReg) (a : LReg) (ty : Ty) (g : Guard)
  /-- VEXP (R101): Lane-wise correctly rounded 2^x. -/
  | vexp (d : LReg) (a : LReg) (g : Guard)
  /-- VLOG (R101): Lane-wise correctly rounded log2 x. -/
  | vlog (d : LReg) (a : LReg) (g : Guard)
  /-- VRCP (R101): Lane-wise correctly rounded reciprocal. -/
  | vrcp (d : LReg) (a : LReg) (g : Guard)
  /-- VRSQ (R101): Lane-wise correctly rounded reciprocal square root. -/
  | vrsq (d : LReg) (a : LReg) (g : Guard)
  /-- VSIN (R101): Lane-wise correctly rounded sine of x turns. -/
  | vsin (d : LReg) (a : LReg) (g : Guard)
  /-- VCOS (R101): Lane-wise correctly rounded cosine of x turns. -/
  | vcos (d : LReg) (a : LReg) (g : Guard)
  /-- VAND (R102): Lane-wise bitwise and. -/
  | vand (d : LReg) (a : LReg) (b : LReg) (ty : Ty) (g : Guard)
  /-- VOR (R102): Lane-wise bitwise or. -/
  | vor (d : LReg) (a : LReg) (b : LReg) (ty : Ty) (g : Guard)
  /-- VXOR (R102): Lane-wise bitwise xor. -/
  | vxor (d : LReg) (a : LReg) (b : LReg) (ty : Ty) (g : Guard)
  /-- VSHL (R102): Lane-wise left shift. -/
  | vshl (d : LReg) (a : LReg) (b : LReg) (ty : Ty) (g : Guard)
  /-- VSHR (R102): Lane-wise right shift. -/
  | vshr (d : LReg) (a : LReg) (b : LReg) (ty : Ty) (g : Guard)
  /-- VCMP (R103): Lane-wise compare writing all-ones masks. -/
  | vcmp (rel : Rel) (d : Fin 8) (a : LReg) (b : LReg) (ty : Ty) (g : Guard)
  /-- VSEL (R102): Lane-wise select under the old d mask. -/
  | vsel (d : LReg) (a : LReg) (b : LReg) (ty : Ty) (g : Guard)
  /-- VBCAST (R104): Broadcasts a scalar into every lane. -/
  | vbcast (d : LReg) (a : Reg) (ty : Ty) (g : Guard)
  /-- VGET (R104): Reads one lane into a scalar. -/
  | vget (d : Reg) (a : LReg) (b : Reg) (ty : Ty) (g : Guard)
  /-- VPUT (R104): Writes a scalar into one lane. -/
  | vput (d : LReg) (a : Reg) (b : Reg) (ty : Ty) (g : Guard)
  /-- VSHUF (R104): Permutes lanes by an index line. -/
  | vshuf (d : LReg) (a : LReg) (b : LReg) (ty : Ty) (g : Guard)
  /-- VCMUL (R105): Complex multiplication of lane pairs. -/
  | vcmul (d : LReg) (a : LReg) (b : LReg) (g : Guard)
  /-- VCONJ (R105): Complex conjugate of lane pairs. -/
  | vconj (d : LReg) (a : LReg) (g : Guard)
  /-- VCVT (R106): Converts each lane under a control word. -/
  | vcvt (d : LReg) (a : LReg) (src : VSrc) (sat : Bool) (mode : Fin 4) (ty : Ty) (g : Guard)
  /-- VRND (R107): Computes the counter-based random value per lane. -/
  | vrnd (d : LReg) (a : LReg) (b : Reg) (ty : Ty) (g : Guard)
  /-- VRSUM (R108): Sums all lanes by the fixed tree into a scalar. -/
  | vrsum (d : Reg) (a : LReg) (ty : Ty) (g : Guard)
  /-- VRMAX (R108): Selects the highest lane in total order. -/
  | vrmax (d : Reg) (a : LReg) (ty : Ty) (g : Guard)
  /-- VRMIN (R108): Selects the lowest lane in total order. -/
  | vrmin (d : Reg) (a : LReg) (ty : Ty) (g : Guard)
  /-- VRMAXI (R108): Selects the highest lane and returns its index. -/
  | vrmaxi (d : Reg) (a : LReg) (ty : Ty) (g : Guard)
  /-- VRMINI (R108): Selects the lowest lane and returns its index. -/
  | vrmini (d : Reg) (a : LReg) (ty : Ty) (g : Guard)
  /-- VLD (R111): Loads a strided line of elements. -/
  | vld (d : LReg) (a : Reg) (b : Reg) (ty : Ty) (g : Guard)
  /-- VST (R111): Stores a strided line of elements. -/
  | vst (d : LReg) (a : Reg) (b : Reg) (ty : Ty) (g : Guard)
  /-- VGATH (R111): Gathers elements at lane offsets. -/
  | vgath (d : LReg) (a : Reg) (b : LReg) (ty : Ty) (g : Guard)
  /-- VSCAT (R111): Scatters elements to lane offsets. -/
  | vscat (d : LReg) (a : Reg) (b : LReg) (ty : Ty) (g : Guard)
  /-- STRM (R112): Binds a stream register to an address pattern. -/
  | strm (t : Fin 4) (a : Reg) (b : Reg) (ty : Ty) (g : Guard)
  /-- STRE (R114): Ends a stream binding, draining output pushes. -/
  | stre (t : Fin 4) (g : Guard)
  /-- VLDF (R149): Loads field elements into line lanes by a bit list. -/
  | vldf (a : Reg) (b : Reg) (k : Fin 8) (c : Fin 4) (md : Bool) (la : Look)
  /-- VSTF (R149): Stores line lanes into field elements by a bit list. -/
  | vstf (a : Reg) (b : Reg) (k : Fin 8) (c : Fin 4) (md : Bool) (la : Look)
  /-- PACC (R150): Atomically adds lane values to field elements at their homes. -/
  | pacc (a : Reg) (b : Reg) (k : Fin 8) (la : Look)
  /-- PAXPY (R150): Atomically adds alpha times lane values to field elements. -/
  | paxpy (a : Reg) (b : Reg) (k : Fin 8) (la : Look)
  /-- PEMA (R150): Atomically forms an exponential moving average in field elements. -/
  | pema (a : Reg) (b : Reg) (k : Fin 8) (la : Look)
  /-- LDF (R148): Loads a field element by logical index with a plane count and mode. -/
  | ldf (d : Reg) (a : Reg) (b : Reg) (c : Fin 4) (md : Bool) (g : Guard) (la : Look)
  /-- APPLY (R167): Multiplies a field by a stored matrix along named index bits into Y. -/
  | apply (a : Reg) (b : Reg) (c : Reg) (acc : Bool) (sat : Bool) (nomap : Bool) (la : Look)
  /-- APPLYC (R170): Controlled APPLY on batch values matching a control pattern. -/
  | applyc (a : Reg) (b : Reg) (c : Reg) (acc : Bool) (sat : Bool) (nomap : Bool) (la : Look)
  /-- PHASE (R184): Multiplies complex elements by a phase from bit products. -/
  | phase (a : Reg) (b : Reg) (c : Reg) (nomap : Bool) (la : Look)
  /-- DSCALE (R185): Multiplies elements by a broadcast field. -/
  | dscale (a : Reg) (b : Reg) (acc : Bool) (sat : Bool) (nomap : Bool) (la : Look)
  /-- REDB (R186): Sums a field over listed bits by the fixed tree. -/
  | redb (a : Reg) (b : Reg) (acc : Bool) (sat : Bool) (nomap : Bool) (la : Look)
  /-- MAXB (R187): Takes the maximum over listed bits with optional index. -/
  | maxb (a : Reg) (b : Reg) (nomap : Bool) (la : Look)
  /-- OPLD (R182): Loads matrices from a field into operator-store slots. -/
  | opld (a : Reg) (b : Reg) (c : Reg) (sat : Bool) (la : Look)
  /-- OPGEN (R183): Writes a generated standard matrix into operator-store slots, or clears them. -/
  | opgen (a : Reg) (la : Look)
  /-- OPWAIT (R188): Waits for a command id to retire and returns its status word. -/
  | opwait (a : Reg) (la : Look)
  /-- XFER (R196): Starts a chunked transfer with a transform between fields and linear memory. -/
  | xfer (a : Reg) (b : Reg) (c : Reg) (la : Look)
  /-- XFER_RETRY (R209): Supervisor form of XFER that performs a held failed chunk again. -/
  | xferRetry (a : Reg) (b : Reg) (c : Reg) (la : Look)
  /-- XFER_ABANDON (R209): Supervisor form of XFER that stops a held transfer and frees its entry. -/
  | xferAbandon (a : Reg) (b : Reg) (c : Reg) (la : Look)
  /-- CBLD (R205): Loads a transfer-unit code book from memory. -/
  | cbld (a : Reg) (b : Reg) (la : Look)
  /-- WAITT (R320): Waits until clk reaches a time. -/
  | waitt (d : Reg) (a : Reg) (g : Guard) (la : Look)
  /-- WAITC (R320): Waits until a counter word reaches a target, bounded by the armed deadline. -/
  | waitc (d : Reg) (a : Reg) (b : Reg) (g : Guard) (la : Look)
  /-- WAITB (R320): Waits until a word has every bit of a mask set. -/
  | waitb (d : Reg) (a : Reg) (b : Reg) (g : Guard) (la : Look)
  /-- WAITP (R322): Waits for a promise time then tests a word once, raising PROMISE_MISS if bits are missing. -/
  | waitp (p : Reg) (a : Reg) (b : Reg) (g : Guard) (la : Look)
  /-- SIG (R323): Releases at a scope and atomically adds to a counter word. -/
  | sig (scope : Scope) (a : Reg) (b : Reg) (g : Guard) (la : Look)
  /-- CNTSET (R324): Writes a counter word without release. -/
  | cntset (a : Reg) (b : Reg) (g : Guard) (la : Look)
  /-- ARMT (R321): Arms or disarms the deadline for the next bounded wait. -/
  | armt (a : Reg) (g : Guard)
  /-- BARW (R328): Arrives at a barrier group and waits for the phase. -/
  | barw (d : Reg) (a : Reg) (g : Guard) (la : Look)
  /-- OTSET (R266): Installs an object-table entry from an image. -/
  | otset (a : Reg) (b : Reg) (c : Reg) (la : Look)
  /-- OTGET (R267): Copies an object-table entry and its access word to memory. -/
  | otget (a : Reg) (b : Reg) (la : Look)
  /-- OTINV (R268): Invalidates an object-table entry and waits out its uses. -/
  | otinv (a : Reg) (la : Look)
  /-- FRENAME (R270): Swaps logical bits of a field's map without moving data. -/
  | frename (a : Reg) (b : Reg) (c : Reg) (la : Look)
  /-- FPERM (R271): Places logical bits at physical positions by a remap. -/
  | fperm (a : Reg) (b : Reg) (c : Reg) (la : Look)
  /-- FINFO (R269): Writes a field descriptor snapshot to memory. -/
  | finfo (a : Reg) (b : Reg) (la : Look)
  /-- OBJNEW (R256): Installs a replayed object on every die of its scope. -/
  | objnew (a : Reg) (b : Reg) (c : Reg) (la : Look)
  /-- OBJSYNC (R257): Rejoins the issuing die's excluded replica from a copy. -/
  | objsync (a : Reg) (la : Look)
  /-- LEASE_PIN (R288): Walks, pins and loads translations for every page of a lease set. -/
  | leasePin (a : Reg) (b : Reg) (c : Reg) (la : Look)
  /-- LEASE_UNPIN (R288): Releases the pins and pinned translations of a lease set. -/
  | leaseUnpin (a : Reg) (b : Reg) (c : Reg) (la : Look)
  /-- XINV (R291): Removes unpinned translations of a range from every translation cache. -/
  | xinv (a : Reg) (b : Reg) (c : Reg) (la : Look)
  /-- DLOGH (R290): Waits until the dirty-page logs of named clusters are merged. -/
  | dlogh (a : Reg) (la : Look)
  /-- PGMIG (R292): Migrates a page to a target frame, forwarding its lines. -/
  | pgmig (a : Reg) (b : Reg) (c : Reg) (la : Look)
  /-- SUBS (R303): Subscribes the die to a multicast group and sends a join. -/
  | subs (a : Reg) (b : Reg) (la : Look)
  /-- UNSUB (R304): Removes the die's subscription and sends a leave when none remains. -/
  | unsub (a : Reg) (la : Look)
  /-- CGLD (R309): Loads a collective graph into the collective engine. -/
  | cgld (a : Reg) (la : Look)
  /-- CGRUN (R310): Starts a run of a loaded collective graph. -/
  | cgrun (a : Reg) (b : Reg) (la : Look)
  /-- SPILL (R364): Evicts a slot's strand into a save area. -/
  | spill (a : Reg) (b : Reg) (la : Look)
  /-- RESTORE (R367): Places a spilled strand from its save area into a slot. -/
  | restore (a : Reg) (b : Reg) (la : Look)
  /-- BARCFG_CONFIGURE (R327): Configures a barrier group in the die's barrier unit. -/
  | barcfgConfigure (a : Reg) (b : Reg) (la : Look)
  /-- BARCFG_RELEASE (R327): Releases a barrier group, ending its waiters with status 2. -/
  | barcfgRelease (a : Reg) (b : Reg) (la : Look)
  /-- LEHR_ENTER (R380): Starts entry to the Lehr state. -/
  | lehrEnter (a : Reg) (la : Look)
  /-- LEHR_EXIT (R380): Starts exit from the Lehr state. -/
  | lehrExit (a : Reg) (la : Look)
  /-- LEHR_ARM (R380): Arms automatic Lehr entry and exit on PWR_WARN. -/
  | lehrArm (a : Reg) (la : Look)
  /-- LEHR_DISARM (R380): Disarms automatic Lehr entry so PWR_WARN only sends a message. -/
  | lehrDisarm (a : Reg) (la : Look)
  /-- COMPACT_MOV (R37): Compact alias of OR d, a, z. -/
  | compactMov (d : Reg) (a : Reg)
  /-- COMPACT_ADD (R37): Compact alias of ADD d, d, a. -/
  | compactAdd (d : Reg) (a : Reg)
  /-- COMPACT_SUB (R37): Compact alias of SUB d, d, a. -/
  | compactSub (d : Reg) (a : Reg)
  /-- COMPACT_AND (R37): Compact alias of AND d, d, a. -/
  | compactAnd (d : Reg) (a : Reg)
  /-- COMPACT_OR (R37): Compact alias of OR d, d, a. -/
  | compactOr (d : Reg) (a : Reg)
  /-- COMPACT_XOR (R37): Compact alias of XOR d, d, a. -/
  | compactXor (d : Reg) (a : Reg)
  /-- COMPACT_ANDN (R37): Compact alias of ANDN d, d, a. -/
  | compactAndn (d : Reg) (a : Reg)
  /-- COMPACT_SHL (R37): Compact alias of SHL d, d, a. -/
  | compactShl (d : Reg) (a : Reg)
  /-- COMPACT_SHR (R37): Compact alias of SHR d, d, a. -/
  | compactShr (d : Reg) (a : Reg)
  /-- COMPACT_SHA (R37): Compact alias of SHA d, d, a. -/
  | compactSha (d : Reg) (a : Reg)
  /-- COMPACT_ADDI (R37): Compact alias of ADDI d, d with a 5-bit signed immediate. -/
  | compactAddi (d : Reg) (imm : BitVec 5)
  /-- COMPACT_SHLI (R37): Compact alias of SHLI d, d by 0 to 31. -/
  | compactShli (d : Reg) (imm : BitVec 5)
  /-- COMPACT_SHRI (R37): Compact alias of SHRI d, d by 0 to 31. -/
  | compactShri (d : Reg) (imm : BitVec 5)
  /-- COMPACT_SHAI (R37): Compact alias of SHAI d, d by 0 to 31. -/
  | compactShai (d : Reg) (imm : BitVec 5)
  /-- COMPACT_MOVI (R37): Compact alias of ADDI d, z with a 5-bit signed immediate. -/
  | compactMovi (d : Reg) (imm : BitVec 5)
  /-- COMPACT_CMPEQ (R37): Compact alias of CMPEQ p1, d, a. -/
  | compactCmpeq (d : Reg) (a : Reg)
  /-- COMPACT_CMPLT (R37): Compact alias of CMPLT p1, d, a. -/
  | compactCmplt (d : Reg) (a : Reg)
  /-- COMPACT_CMPLTN (R37): Compact alias of CMPLTN p1, d, a. -/
  | compactCmpltn (d : Reg) (a : Reg)
  /-- COMPACT_LDL (R37): Compact alias of an 8-byte LDL at offset 0. -/
  | compactLdl (d : Reg) (a : Reg)
  /-- COMPACT_STL (R37): Compact alias of an 8-byte STL at offset 0. -/
  | compactStl (d : Reg) (a : Reg)
  /-- COMPACT_VADD (R37): Compact alias of VADD.FP32 d, d, a. -/
  | compactVadd (d : LReg) (a : LReg)
  /-- COMPACT_VMUL (R37): Compact alias of VMUL.FP32 d, d, a. -/
  | compactVmul (d : LReg) (a : LReg)
  /-- COMPACT_VFMA (R37): Compact alias of VFMA.FP32 d, d, a. -/
  | compactVfma (d : LReg) (a : LReg)
  /-- NOP (R88): Has no effect. -/
  | nop
  /-- IDLE (R362): Leaves the rotation until a message arrives, the armed deadline passes or the strand is ended. -/
  | idle
  /-- RTE (R361): Returns from a trap to xpc at the lower of xplv and plv. -/
  | rte
  /-- END (R220): Ends the task: ends streams, waits for stores, passes reservations, counts completion and frees the slot. -/
  | endTask
  /-- YIELD (R222): Returns the task record to the cluster queue when other work waits. -/
  | yield
  /-- COMPACT_NOP (R37): Compact alias of NOP. -/
  | compactNop
  /-- COMPACT_END (R37): Compact alias of END. -/
  | compactEnd
  /-- COMPACT_YIELD (R37): Compact alias of YIELD. -/
  | compactYield
  /-- COMPACT_RET (R37): Compact alias of RET. -/
  | compactRet
  /-- STREAM_FETCH_AHEAD (R113): An input stream's look-ahead fetch of pattern elements completes. -/
  | streamFetchAhead
  /-- TRAP_ENTRY (R358): A raised trap is taken at the end of its window: tcause, tval and xpc are written and pc goes to tvec. -/
  | trapEntry
  /-- RESULT_ARRIVAL (R26): The value owed to a pending register arrives and lands in its slot. -/
  | resultArrival
  /-- STORE_PERFORM (R126): A queued store is performed at its home. -/
  | storePerform
  /-- PAGE_WALK (R282): A translation miss walks the page table and fills the translation cache or faults. -/
  | pageWalk
  /-- REMOTE_ACCESS_REQUEST (R284): A request arriving from another device is performed at the same virtual address under the job's table. -/
  | remoteAccessRequest
  /-- REQUEST_TIMEOUT (R298): A fabric request unanswered for REQTO is timed out and reported. -/
  | requestTimeout
  /-- STALE_REPLY (R298): A reply whose generation does not match its tag is discarded and counted. -/
  | staleReply
  /-- PACKET_AGE_DISCARD (R298): A router discards a packet older than REQTO. -/
  | packetAgeDiscard
  /-- MESSAGE_ARRIVAL (R215): An offered message is enqueued in a destination receive queue or refused when full. -/
  | messageArrival
  /-- SEND_OFFER_ANSWER (R215): The answer to a SEND offer returns to the sender, which retries on refusal. -/
  | sendOfferAnswer
  /-- SEND_RETRY_LIMIT (R215): After 65,536 cycles SEND stops offering and completes with status 1. -/
  | sendRetryLimit
  /-- HARDWARE_MESSAGE_DELIVERY (R405): A unit offers a hardware message to its destination, retrying while the queue is full. -/
  | hardwareMessageDelivery
  /-- MIGRATION_ARRIVAL (R225): A migration packet enters a run queue and takes a free slot, performing any carried AMO or LRW. -/
  | migrationArrival
  /-- RESERVATION_GRANT (R132): A waiter reaching the head of a reservation queue reads the word and proceeds. -/
  | reservationGrant
  /-- SLOT_FILL (R241): A freed slot is filled from the run queue or the highest-priority task queue entry. -/
  | slotFill
  /-- RECORD_AGEING (R241): A record waiting over 1,024 cycles moves up one priority level. -/
  | recordAgeing
  /-- WAIT_SET_TIME_WAKE (R223): A wait-set entry whose time has come passes to the task queue. -/
  | waitSetTimeWake
  /-- LAUNCH_PREPARATION (R238): The launch unit walks and pins leased pages, places the image and starts generation. -/
  | launchPreparation
  /-- RECORD_GENERATION (R240): The launch unit generates the next task record into a cluster task queue. -/
  | recordGeneration
  /-- LAUNCH_COMPLETION (R240): When all tasks are counted and engines retired, the launch completes, releases pins and signals. -/
  | launchCompletion
  /-- COMMAND_ACCEPT (R160): The operator sequencer accepts a command, latching predecessors and performing checks. -/
  | commandAccept
  /-- COMMAND_START (R162): A ready command starts on the array once its predecessors' writes are performed. -/
  | commandStart
  /-- COMMAND_RETIRE (R162): A command retires with a status word, setting its id bit and releasing successors. -/
  | commandRetire
  /-- CHUNK_COMPLETE (R201): A transfer chunk's writes are performed and its bitmap bit is set. -/
  | chunkComplete
  /-- CHUNK_FAILED (R208): A chunk hits an error or untranslatable address, its entry is held and the gaffer is told. -/
  | chunkFailed
  /-- CODE_BOOK_LOADED (R205): A CBLD finishes replacing its code book. -/
  | codeBookLoaded
  /-- REMAP_GROUP_MOVE (R273): The Marver locks, journals, moves and marks done one group of bricks. -/
  | remapGroupMove
  /-- REMAP_PASS_END (R272): When every brick is done a pass ends and the next pass begins by a field-table call. -/
  | remapPassEnd
  /-- REMAP_COMMIT (R272): The last pass commits the new map and frees the remap area. -/
  | remapCommit
  /-- REMAP_GROUP_RETRY (R277): A remap held on an untranslatable page retries its group after an XINV or every 2^20 cycles. -/
  | remapGroupRetry
  /-- LOG_APPEND (R249): The log home appends an arriving mutating call or sleeps it while the ring is full. -/
  | logAppend
  /-- ENTRY_APPLY (R252): A Pontil runs a method for the next log entry and commits or discards its writes. -/
  | entryApply
  /-- QUERY_RUN (R250): A Pontil runs a waiting query between applied entries once its floor is met. -/
  | queryRun
  /-- REPLICA_REPORT (R255): A Pontil reports its applied position and the log home advances TRIM. -/
  | replicaReport
  /-- REPLICA_EXCLUSION (R257): An uncorrectable error excludes a die's replica and messages FAULTSID. -/
  | replicaExclusion
  /-- TIER_EPOCH_END (R293): At each epoch end hot LP6 pages exchange frames with cold HBM victims. -/
  | tierEpochEnd
  /-- MULTICAST_DELIVERY (R301): A replicated multicast packet is performed at a subscribed device or dropped. -/
  | multicastDelivery
  /-- JOIN_PACKET (R303): A join sets subscription bits at each router toward the root. -/
  | joinPacket
  /-- LEAVE_PACKET (R304): A leave clears subscription bits while bitmaps become empty. -/
  | leavePacket
  /-- REDUCE_CHUNK (R307): A REDUCE step combines its own chunk with children's chunks and sends or writes the result. -/
  | reduceChunk
  /-- COLLECTIVE_CHUNK_ARRIVAL (R310): A shipped chunk arrives and is written, buffered or discarded by run. -/
  | collectiveChunkArrival
  /-- COLLECTIVE_STEP_COMPLETE (R310): A collective step completes and decrements its successors' counters. -/
  | collectiveStepComplete
  /-- COLLECTIVE_STEP_TIMEOUT (R311): A step not completed within TIMEOUT cancels the run on every rank. -/
  | collectiveStepTimeout
  /-- COLLECTIVE_CANCEL_PACKET (R311): A cancel packet for a run stops it and adds 2^32 to the completion word. -/
  | collectiveCancelPacket
  /-- DEADLINE_EXPIRY (R321): An armed deadline passes and its bounded wait ends with status 1. -/
  | deadlineExpiry
  /-- WAITT_TIME_REACHED (R320): clk reaches a WAITT target and the wait completes. -/
  | waittTimeReached
  /-- PROMISE_REACHED (R322): clk reaches a WAITP promise and the word is tested once. -/
  | promiseReached
  /-- BARRIER_ARRIVAL (R328): A BARW arrival is counted, possibly completing the phase. -/
  | barrierArrival
  /-- BARRIER_RELEASE (R328): Sixteen cycles after completion the phase's waiters are released with d 0. -/
  | barrierRelease
  /-- WATCHDOG_EXPIRY (R363): A slot not issuing for 2^31 cycles sends message 0x0019 to its supervisor. -/
  | watchdogExpiry
  /-- CAP_WINDOW_END (R377): At each 2^16-cycle window a die withholds issue from jobs over their cap. -/
  | capWindowEnd
  /-- PWR_WARN_ASSERT (R378): PWR_WARN asserted while armed begins Lehr entry. -/
  | pwrWarnAssert
  /-- PWR_WARN_DEASSERT (R378): PWR_WARN deasserted while armed begins Lehr exit. -/
  | pwrWarnDeassert
  /-- LEHR_ENTRY_COMPLETE (R378): After spilling strands and parking engines, memories retain and clk halts. -/
  | lehrEntryComplete
  /-- LEHR_EXIT_COMPLETE (R379): Exit restores every strand and resumes clk and engines exactly. -/
  | lehrExitComplete
  /-- POWER_UP_BOOT (R371): At power-up or die reset the ROM fetches, verifies and places firmware. -/
  | powerUpBoot
  /-- CLUSTER_RESET (R61): Cluster reset clears local stores, queues, tags and core items. -/
  | clusterReset
  /-- MANAGEMENT_STATUS (R376): Management kind 0x01 returns the sequence numbers. -/
  | managementStatus
  /-- MANAGEMENT_ATTESTATION (R373): Management kind 0x02 returns a signed attestation report. -/
  | managementAttestation
  /-- CLUSTER_DRAIN (R381): Management kind 0x04 drains a cluster and moves its home role. -/
  | clusterDrain
  /-- CLUSTER_RETURN (R381): Management kind 0x05 returns a drained cluster to service. -/
  | clusterReturn
  /-- DIE_DRAIN (R382): A die is drained, its replicas excluded and its Pontil and system cores parked. -/
  | dieDrain
  /-- LINK_KEY_RENEWAL (R374): Fabric link keys are renewed every 2^32 flits. -/
  | linkKeyRenewal
  /-- OBITUARY (R383): An obituary from a failed device cancels affected collective runs. -/
  | obituary
  /-- LINK_LOSS (R383): A router that loses a link for 100 µs sends the obituary for the silent neighbour. -/
  | linkLoss
  /-- JOB_KILL (R369): A job is killed: its strands end at instruction boundaries and its commands, transfers and remaps stop at element, chunk or group boundaries. -/
  | jobKill
  /-- DEVICE_UNRECOVERABLE_FAULT (R383): A device that detects an unrecoverable fault sends an obituary within 1 ms to every device of its rank lists and its group. -/
  | deviceUnrecoverableFault
  /-- LINK_KEY_AGREEMENT (R374): When a fabric link comes into service, the two devices verify each other's attestation and agree AES-256-GCM keys by X448. -/
  | linkKeyAgreement
  /-- ACKNOWLEDGEMENT_ARRIVAL (R297): An acknowledgement packet for a store, SIG, VAMO or optimiser update reaches the requester, completing the waiting instruction and releasing held later accesses to the same bytes. -/
  | acknowledgementArrival
  /-- PAGE_MIGRATION_LINE_COPY (R292): The tier-migration engine locks one line at its old home, copies it and its reservation queue to the new home, marks it moved, and commits the page after the last line. -/
  | pageMigrationLineCopy
  deriving DecidableEq, Repr

end Sys2Proof
end

