-- ==== Sys2Proof/WellFormed.lean ====
section
/-! DEFINITION. Which instructions are legal: the field conditions of R39 step 2 that the constructors' types do not
already carry (R19, R22, R25, R33, R71, Table 6.1). A word whose fields break one of these raises the
illegal-instruction trap. -/

namespace Sys2Proof

/-- q may not stand in d5 (R22). -/
def Reg.dest : Reg → Bool
  | .q => false
  | _ => true

/-- An even m or o register, for the pair form (R33). -/
def Reg.evenPair : Reg → Bool
  | .m i => i.val % 2 == 0
  | .o i => i.val % 2 == 0
  | _ => false

/-- LOOP takes m and o registers only (R93). -/
def Reg.loopDest : Reg → Bool
  | .m _ => true
  | .o _ => true
  | _ => false

/-- SWR refuses read-only registers (R71, Table 4.2). -/
def SReg.writable : SReg → Bool
  | .rac | .trh | .wsp | .wlim | .tvec | .tcause | .tval | .xpc | .xplv => true
  | .sid | .clk | .tix | .tcnt | .lrec | .job | .home | .wdep | .plv => false

/-- I32, N32, FP32 (Table 6.1). -/
def Ty.real32 (t : Ty) : Bool := t.val == 2 || t.val == 6 || t.val == 12
/-- I32, FP32 (VABS). -/
def Ty.signed32 (t : Ty) : Bool := t.val == 2 || t.val == 12
/-- I32, N32 (VSHL, VSHR). -/
def Ty.int32 (t : Ty) : Bool := t.val == 2 || t.val == 6
/-- I32, N32, FP32, C32. -/
def Ty.lane32 (t : Ty) : Bool := t.real32 || t.val == 15
/-- The memory types of Table 6.3. -/
def Ty.memory (t : Ty) : Bool := t.val != 3 && t.val != 7 && t.val != 13
/-- The destinations of VCVT (Table 6.1). -/
def Ty.vcvt (t : Ty) : Bool :=
  t.val == 0 || t.val == 1 || t.val == 2 || t.val == 4 || t.val == 5 || t.val == 6 ||
    (8 ≤ t.val && t.val ≤ 12)
/-- CVT takes every type but C16 and C32 (R86). -/
def Ty.scalar (t : Ty) : Bool := t.val < 14

/-- The access form of LDA and STA (R33). -/
def pairForm (d : Reg) (sz : ASize) (pair : Bool) : Bool :=
  match sz, pair with
  | .b4, false => true
  | .b8, false => true
  | .b8, true => d.evenPair
  | _, _ => false

/-- Whether the fields of an instruction are ones it accepts (R39 step 2). Steps of the units have no word and are
always well formed. -/
def Instr.wf : Instr → Bool
  | .add d _ _ _ | .sub d _ _ _ | .mul d _ _ _ | .mulh d _ _ _ | .mulhn d _ _ _ | .div d _ _ _ _
  | .divn d _ _ _ _ | .rem d _ _ _ _ | .and d _ _ _ | .or d _ _ _ | .xor d _ _ _ | .andn d _ _ _
  | .orn d _ _ _ | .xnor d _ _ _ | .min d _ _ _ | .max d _ _ _ | .shl d _ _ _ | .shr d _ _ _ | .sha d _ _ _
  | .rot d _ _ _ | .minn d _ _ _ | .maxn d _ _ _ | .clz d _ _ | .popc d _ _ | .bext d _ _ _ | .bdep d _ _ _
  | .brev d _ _ | .scadd d _ _ _ | .sel d _ _ _ | .lut3 d _ _ _ | .fsl d _ _ _ | .fsr d _ _ _ | .addi d _ _ _
  | .andi d _ _ _ | .ori d _ _ _ | .xori d _ _ _ | .shli d _ _ _ | .shri d _ _ _ | .shai d _ _ _ | .lui d _
  | .addpc d _ | .fadd d _ _ _ | .fsub d _ _ _ | .fmul d _ _ _ | .fma d _ _ _ | .fdiv d _ _ _ _
  | .fsqrt d _ _ _ | .fmin d _ _ _ | .fmax d _ _ _ | .dadd d _ _ _ _ | .dsub d _ _ _ _ | .dmul d _ _ _ _
  | .dfma d _ _ _ _ | .ddiv d _ _ _ _ | .dsqrt d _ _ _ | .srd d _ _ | .rdcyc d | .migr d _ _ _
  | .spawn d _ _ _ _ | .spawnh d _ _ _ _ | .send d _ _ _ _ | .qtest d _ | .launch d _ _ _ _ | .grun d _ _ _
  | .cancelLaunch d _ _ _ _ | .cancelGraph d _ _ _ _ | .cancelJob d _ _ _ _ | .callm d _ _ _
  | .callq d _ _ _ _ | .stf d _ _ _ _ _ _ | .ld d _ _ _ _ _ | .st d _ _ _ _ | .ldl d _ _ _ _ _
  | .stl d _ _ _ _ | .ldx d _ _ _ _ | .stx d _ _ _ _ | .lrw d _ _ _ | .scv d _ _ _ | .amoadd d _ _ _ _
  | .amoand d _ _ _ _ | .amoor d _ _ _ _ | .amoxor d _ _ _ _ | .amomin d _ _ _ _ | .amomax d _ _ _ _
  | .amoswap d _ _ _ _ | .amocas d _ _ _ _ | .ldf d _ _ _ _ _ _ | .waitt d _ _ _ | .waitc d _ _ _ _
  | .waitb d _ _ _ _ | .barw d _ _ _ | .compactMov d _ | .compactAdd d _ | .compactSub d _ | .compactAnd d _
  | .compactOr d _ | .compactXor d _ | .compactAndn d _ | .compactShl d _ | .compactShr d _ | .compactSha d _
  | .compactAddi d _ | .compactShli d _ | .compactShri d _ | .compactShai d _ | .compactMovi d _
  | .compactLdl d _ | .compactStl d _ => d.dest
  | .cmpeq _ _ _ _ | .cmpne _ _ _ _ | .cmplt _ _ _ _ | .cmple _ _ _ _ | .cmpltn _ _ _ _ | .cmplen _ _ _ _
  | .tst _ _ _ _ | .pand _ _ _ _ | .por _ _ _ _ | .pxor _ _ _ _ | .pnot _ _ _ | .cmpeqi _ _ _ _
  | .cmplti _ _ _ _ | .cmpltni _ _ _ _ | .fcmpeq _ _ _ _ | .fcmplt _ _ _ _ | .fcmple _ _ _ _
  | .fcmpun _ _ _ _ | .ext _ _ _ | .trap _ | .br _ _ | .brF _ _ | .call _ | .jr _ _ | .callr _ _ | .ret _
  | .susp _ _ _ | .home _ _ | .callw _ _ _ _ | .relq _ _ _ | .fence _ _ _ | .ifence _ | .vamoBf16 _ _ _ _
  | .vamoFp32 _ _ _ _ | .vexp _ _ _ | .vlog _ _ _ | .vrcp _ _ _ | .vrsq _ _ _ | .vsin _ _ _ | .vcos _ _ _
  | .vcmul _ _ _ _ | .vconj _ _ _ | .stre _ _ | .vldf _ _ _ _ _ _ | .vstf _ _ _ _ _ _ | .pacc _ _ _ _
  | .paxpy _ _ _ _ | .pema _ _ _ _ | .apply _ _ _ _ _ _ _ | .applyc _ _ _ _ _ _ _ | .phase _ _ _ _ _
  | .dscale _ _ _ _ _ _ | .redb _ _ _ _ _ _ | .maxb _ _ _ _ | .opld _ _ _ _ _ | .opgen _ _ | .xfer _ _ _ _
  | .xferRetry _ _ _ _ | .xferAbandon _ _ _ _ | .cbld _ _ _ | .sig _ _ _ _ _ | .cntset _ _ _ _ | .armt _ _
  | .otset _ _ _ _ | .otget _ _ _ | .otinv _ _ | .frename _ _ _ _ | .fperm _ _ _ _ | .finfo _ _ _
  | .objnew _ _ _ _ | .objsync _ _ | .leasePin _ _ _ _ | .leaseUnpin _ _ _ _ | .xinv _ _ _ _ | .dlogh _ _
  | .pgmig _ _ _ _ | .subs _ _ _ | .unsub _ _ | .cgld _ _ | .cgrun _ _ _ | .spill _ _ _ | .restore _ _ _
  | .barcfgConfigure _ _ _ | .barcfgRelease _ _ _ | .lehrEnter _ _ | .lehrExit _ _ | .lehrArm _ _
  | .lehrDisarm _ _ | .compactCmpeq _ _ | .compactCmplt _ _ | .compactCmpltn _ _ | .compactVadd _ _
  | .compactVmul _ _ | .compactVfma _ _ | .nop | .idle | .rte | .endTask | .yield | .compactNop | .compactEnd
  | .compactYield | .compactRet | .streamFetchAhead | .trapEntry | .resultArrival | .storePerform | .pageWalk
  | .remoteAccessRequest | .requestTimeout | .staleReply | .packetAgeDiscard | .messageArrival
  | .sendOfferAnswer | .sendRetryLimit | .hardwareMessageDelivery | .migrationArrival | .reservationGrant
  | .slotFill | .recordAgeing | .waitSetTimeWake | .launchPreparation | .recordGeneration | .launchCompletion
  | .commandAccept | .commandStart | .commandRetire | .chunkComplete | .chunkFailed | .codeBookLoaded
  | .remapGroupMove | .remapPassEnd | .remapCommit | .remapGroupRetry | .logAppend | .entryApply | .queryRun
  | .replicaReport | .replicaExclusion | .tierEpochEnd | .multicastDelivery | .joinPacket | .leavePacket
  | .reduceChunk | .collectiveChunkArrival | .collectiveStepComplete | .collectiveStepTimeout
  | .collectiveCancelPacket | .deadlineExpiry | .waittTimeReached | .promiseReached | .barrierArrival
  | .barrierRelease | .watchdogExpiry | .capWindowEnd | .pwrWarnAssert | .pwrWarnDeassert
  | .lehrEntryComplete | .lehrExitComplete | .powerUpBoot | .clusterReset | .managementStatus
  | .managementAttestation | .clusterDrain | .clusterReturn | .dieDrain | .linkKeyRenewal | .obituary
  | .linkLoss | .jobKill | .deviceUnrecoverableFault | .linkKeyAgreement | .acknowledgementArrival
  | .pageMigrationLineCopy => true
  | .cvt d _ src dst _ _ _ => d.dest && src.scalar && dst.scalar
  | .swr r _ _ => r.writable
  | .loop d _ _ => d.loopDest
  | .lda d _ _ sz pair _ | .sta d _ _ sz pair _ => d.dest && pairForm d sz pair
  | .vadd _ _ _ ty _ | .vsub _ _ _ ty _ | .vmul _ _ _ ty _ | .vfma _ _ _ ty _ | .vmin _ _ _ ty _
  | .vmax _ _ _ ty _ | .vneg _ _ ty _ | .vand _ _ _ ty _ | .vor _ _ _ ty _ | .vxor _ _ _ ty _
  | .vsel _ _ _ ty _ | .vrnd _ _ _ ty _ => ty.real32
  | .vabs _ _ ty _ => ty.signed32
  | .vshl _ _ _ ty _ | .vshr _ _ _ ty _ => ty.int32
  | .vcmp rel _ _ _ ty _ => ty.real32 && (rel != .un || ty.val == 12)
  | .vbcast _ _ ty _ | .vput _ _ _ ty _ | .vshuf _ _ _ ty _ => ty.lane32
  | .vget d _ _ ty _ | .vrsum d _ ty _ => d.dest && ty.lane32
  | .vcvt _ _ _ _ _ ty _ => ty.vcvt
  | .vrmax d _ ty _ | .vrmin d _ ty _ | .vrmaxi d _ ty _ | .vrmini d _ ty _ => d.dest && ty.real32
  | .vld _ _ _ ty _ | .vst _ _ _ ty _ | .vgath _ _ _ ty _ | .vscat _ _ _ ty _ | .strm _ _ _ ty _ => ty.memory
  | .opwait _ la => la.val != 15
  | .waitp p _ _ _ _ => p.dest

end Sys2Proof
end

