-- ==== Sys2Proof/Decode.lean ====
section
/-! DEFINITION. The decoder and the encoder (02_instruction_words, R15-R40). A word is a Nat; it is first cut into
the fields of its format (Raw, Tables 2.1 to 2.7), the fields are then read as operands, and the result must be well
formed. Every encoding that is no instruction is rejected by name. -/

namespace Sys2Proof

/-- Why a word is no instruction (R38, R39 steps 1 and 2). All raise the illegal-instruction trap. -/
inductive Reject where
  | unassigned | reservedField | register | lookahead | typeCode | rounding | flag | form | truncated
  deriving DecidableEq, Repr

namespace Dec

/-- Bits lo+n-1 : lo of a word. -/
def fld (w lo n : Nat) : Nat := w / 2 ^ lo % 2 ^ n

def fin2 (x : Nat) : Fin 2 := Fin.ofNat 2 x
def fin4 (x : Nat) : Fin 4 := Fin.ofNat 4 x
def fin8 (x : Nat) : Fin 8 := Fin.ofNat 8 x
def fin16 (x : Nat) : Fin 16 := Fin.ofNat 16 x

/-- A field or a condition the format reserves (R23). -/
def need (c : Bool) (r : Reject) : Except Reject Unit := if c then .ok () else .error r
def zero (x : Nat) : Except Reject Unit := need (x == 0) .reservedField
/-- la4 of a short instruction (R25). -/
def short (l : Nat) : Except Reject Unit := need (l == 0) .lookahead

/-- R20. -/
def reg (c : Nat) : Except Reject Reg :=
  if h : c < 16 then .ok (.m ⟨c, h⟩)
  else if h : c - 16 < 6 then .ok (.o ⟨c - 16, h⟩)
  else if c = 22 then .ok .l0
  else if c = 23 then .ok .l1
  else if c = 24 then .ok .z
  else if h : c - 25 < 4 then .ok (.t ⟨c - 25, h⟩)
  else if c = 29 then .ok .q
  else if c = 30 then .ok .pw
  else .error .register

/-- R21. -/
def lreg (c : Nat) : Except Reject LReg :=
  if h : c < 8 then .ok (.k ⟨c, h⟩)
  else if h : c - 8 < 4 then .ok (.t ⟨c - 8, h⟩)
  else .error .register

/-- A predicate designator (R22). -/
def pred (c : Nat) : Except Reject Pred :=
  if h : c < 16 then .ok ⟨c, h⟩ else .error .register

/-- A k register in a c5 field of FIELD (R149). -/
def kreg (c : Nat) : Except Reject (Fin 8) :=
  if h : c < 8 then .ok ⟨c, h⟩ else .error .register

/-- The stream designator of STRM and STRE (R112). -/
def tdes (c : Nat) : Except Reject (Fin 4) :=
  if c < 8 then .error .register else if h : c - 8 < 4 then .ok ⟨c - 8, h⟩ else .error .register

/-- R30. -/
def rmode : Nat → Except Reject RMode
  | 0 => .ok .rne | 1 => .ok .rz | 2 => .ok .ru | 3 => .ok .rd | 4 => .ok .rna | _ => .error .rounding

/-- fl3 bits 1:0 (R33). -/
def asize : Nat → ASize
  | 0 => .b1 | 1 => .b2 | 2 => .b4 | _ => .b8

/-- R135. -/
def scope : Nat → Except Reject Scope
  | 0 => .ok .strand | 1 => .ok .core | 2 => .ok .cluster | 3 => .ok .die | 4 => .ok .package | 5 => .ok .span
  | _ => .error .form
def fkind : Nat → Except Reject FKind
  | 0 => .ok .full | 1 => .ok .rel | 2 => .ok .acq | _ => .error .form

/-- R103. -/
def rel : Nat → Rel
  | 0 => .eq | 1 => .lt | 2 => .le | _ => .un
/-- R106. -/
def vsrc : Nat → Except Reject VSrc
  | 0 => .ok .fp32 | 1 => .ok .i32 | 2 => .ok .n32 | _ => .error .form

/-- Table 4.2. -/
def sreg : Nat → Except Reject SReg
  | 0 => .ok .sid | 1 => .ok .clk | 2 => .ok .tix | 3 => .ok .tcnt | 4 => .ok .lrec | 5 => .ok .job
  | 6 => .ok .home | 7 => .ok .rac | 8 => .ok .trh | 9 => .ok .wsp | 10 => .ok .wlim | 11 => .ok .wdep
  | 12 => .ok .tvec | 13 => .ok .tcause | 14 => .ok .tval | 15 => .ok .xpc | 16 => .ok .plv | 17 => .ok .xplv
  | _ => .error .register

/-- The fields of a word by format; `none` is a reserved or permanently illegal major (R38). -/
inductive Raw where
  | a (op d a b f g l : Nat)
  | x (op a b c f l : Nat)
  | t (op d a b t z : Nat)
  | i (op d a i g : Nat)
  | m (op d a o f l : Nat)
  | u (op d i : Nat)
  | j (o : Nat)
  | b (s p o : Nat)
  | c (op d a : Nat)
  | none
  deriving DecidableEq, Repr

/-- The format Table 2.10 gives a major opcode. -/
inductive Fmt where
  | a | x | t | i | m | u | j | b | none
  deriving DecidableEq, Repr

def fmt (op : Nat) : Fmt :=
  if op < 0x04 then .a else if op < 0x06 then .t else if op < 0x08 then .a else if op < 0x0E then .i
  else if op < 0x10 then .u else if op < 0x12 then .a else if op < 0x13 then .i else if op < 0x14 then .a
  else if op < 0x15 then .i else if op < 0x16 then .b else if op < 0x17 then .j else if op < 0x18 then .a
  else if op < 0x19 then .i else if op < 0x1C then .a else if op < 0x20 then .none else if op < 0x26 then .m
  else if op < 0x2E then .a else if op < 0x2F then .x else if op < 0x30 then .a else if op < 0x32 then .x
  else if op < 0x33 then .a else if op < 0x36 then .x else .none

/-- The fields of a 32-bit word (R17). -/
def rawOf (w : Nat) : Raw :=
  let op := fld w 25 6
  match fmt op with
  | .a => .a op (fld w 20 5) (fld w 15 5) (fld w 10 5) (fld w 7 3) (fld w 4 3) (fld w 0 4)
  | .x => .x op (fld w 20 5) (fld w 15 5) (fld w 10 5) (fld w 4 6) (fld w 0 4)
  | .t => .t op (fld w 20 5) (fld w 15 5) (fld w 10 5) (fld w 2 8) (fld w 0 2)
  | .i => .i op (fld w 20 5) (fld w 15 5) (fld w 3 12) (fld w 0 3)
  | .m => .m op (fld w 20 5) (fld w 15 5) (fld w 7 8) (fld w 4 3) (fld w 0 4)
  | .u => .u op (fld w 20 5) (fld w 0 20)
  | .j => .j (fld w 0 25)
  | .b => .b (fld w 24 1) (fld w 20 4) (fld w 0 20)
  | .none => .none

/-- The fields of a compact word (R18). -/
def rawOf16 (w : Nat) : Raw := .c (fld w 10 5) (fld w 5 5) (fld w 0 5)

/-- The word of given fields. -/
def wordOf : Raw → Nat
  | .a op d a b f g l => 2 ^ 31 + op * 2 ^ 25 + d * 2 ^ 20 + a * 2 ^ 15 + b * 2 ^ 10 + f * 2 ^ 7 + g * 2 ^ 4 + l
  | .x op a b c f l => 2 ^ 31 + op * 2 ^ 25 + a * 2 ^ 20 + b * 2 ^ 15 + c * 2 ^ 10 + f * 2 ^ 4 + l
  | .t op d a b t z => 2 ^ 31 + op * 2 ^ 25 + d * 2 ^ 20 + a * 2 ^ 15 + b * 2 ^ 10 + t * 2 ^ 2 + z
  | .i op d a i g => 2 ^ 31 + op * 2 ^ 25 + d * 2 ^ 20 + a * 2 ^ 15 + i * 2 ^ 3 + g
  | .m op d a o f l => 2 ^ 31 + op * 2 ^ 25 + d * 2 ^ 20 + a * 2 ^ 15 + o * 2 ^ 7 + f * 2 ^ 4 + l
  | .u op d i => 2 ^ 31 + op * 2 ^ 25 + d * 2 ^ 20 + i
  | .j o => 2 ^ 31 + 0x16 * 2 ^ 25 + o
  | .b s p o => 2 ^ 31 + 0x15 * 2 ^ 25 + s * 2 ^ 24 + p * 2 ^ 20 + o
  | .c op d a => op * 2 ^ 10 + d * 2 ^ 5 + a
  | .none => 0

/-! The operand shapes. -/

def shA3 (mk : Reg → Reg → Reg → Guard → Instr) (d a b g l : Nat) : Except Reject Instr := do
  short l
  return mk (← reg d) (← reg a) (← reg b) (fin8 g)
def shA3L (mk : Reg → Reg → Reg → Guard → Look → Instr) (d a b g l : Nat) : Except Reject Instr := do
  return mk (← reg d) (← reg a) (← reg b) (fin8 g) (fin16 l)
def shA2 (mk : Reg → Reg → Guard → Instr) (d a b g l : Nat) : Except Reject Instr := do
  zero b
  short l
  return mk (← reg d) (← reg a) (fin8 g)
def shA2L (mk : Reg → Reg → Guard → Look → Instr) (d a b g l : Nat) : Except Reject Instr := do
  zero b
  return mk (← reg d) (← reg a) (fin8 g) (fin16 l)
def shA1 (mk : Reg → Guard → Instr) (d a b g l : Nat) : Except Reject Instr := do
  zero a
  zero b
  short l
  return mk (← reg d) (fin8 g)
def shAB (mk : Reg → Reg → Guard → Instr) (d a b g l : Nat) : Except Reject Instr := do
  zero d
  short l
  return mk (← reg a) (← reg b) (fin8 g)
def shABL (mk : Reg → Reg → Guard → Look → Instr) (d a b g l : Nat) : Except Reject Instr := do
  zero d
  return mk (← reg a) (← reg b) (fin8 g) (fin16 l)
def shAG (mk : Reg → Guard → Instr) (d a b g l : Nat) : Except Reject Instr := do
  zero d
  zero b
  short l
  return mk (← reg a) (fin8 g)
def shAGL (mk : Reg → Guard → Look → Instr) (d a b g l : Nat) : Except Reject Instr := do
  zero d
  zero b
  return mk (← reg a) (fin8 g) (fin16 l)
def shGL (mk : Guard → Look → Instr) (d a b g l : Nat) : Except Reject Instr := do
  zero d
  zero a
  zero b
  return mk (fin8 g) (fin16 l)
def shG0 (mk : Guard → Instr) (d a b g l : Nat) : Except Reject Instr := do
  zero d
  zero a
  zero b
  short l
  return mk (fin8 g)
def shN (mk : Instr) (d a b g l : Nat) : Except Reject Instr := do
  zero d
  zero a
  zero b
  zero g
  short l
  return mk
def shCMP3 (mk : Pred → Reg → Reg → Guard → Instr) (d a b g l : Nat) : Except Reject Instr := do
  short l
  return mk (← pred d) (← reg a) (← reg b) (fin8 g)
def shPR3 (mk : Pred → Pred → Pred → Guard → Instr) (d a b g l : Nat) : Except Reject Instr := do
  short l
  return mk (← pred d) (← pred a) (← pred b) (fin8 g)
def shPR2 (mk : Pred → Pred → Guard → Instr) (d a b g l : Nat) : Except Reject Instr := do
  zero b
  short l
  return mk (← pred d) (← pred a) (fin8 g)
def shLDF (mk : Reg → Reg → Reg → Fin 4 → Bool → Guard → Look → Instr) (d a b f g l : Nat) : Except Reject Instr := do
  return mk (← reg d) (← reg a) (← reg b) (fin4 (f % 4)) (f / 4 == 1) (fin8 g) (fin16 l)
def shFENCE (mk : Scope → FKind → Guard → Instr) (d a b g l : Nat) : Except Reject Instr := do
  zero a
  zero b
  short l
  return mk (← scope (d%8)) (← fkind (d/8)) (fin8 g)
def shSIG (mk : Scope → Reg → Reg → Guard → Look → Instr) (d a b g l : Nat) : Except Reject Instr := do
  return mk (← scope d) (← reg a) (← reg b) (fin8 g) (fin16 l)
def shWAITP (mk : Reg → Reg → Reg → Guard → Look → Instr) (d a b g l : Nat) : Except Reject Instr := do
  return mk (← reg d) (← reg a) (← reg b) (fin8 g) (fin16 l)
def shV3 (mk : LReg → LReg → LReg → Look → Guard → Instr) (d a b g l : Nat) : Except Reject Instr := do
  return mk (← lreg d) (← lreg a) (← lreg b) (fin16 l) (fin8 g)
def shV2 (mk : LReg → LReg → Look → Guard → Instr) (d a b g l : Nat) : Except Reject Instr := do
  zero b
  return mk (← lreg d) (← lreg a) (fin16 l) (fin8 g)
def shVBC (mk : LReg → Reg → Look → Guard → Instr) (d a b g l : Nat) : Except Reject Instr := do
  zero b
  return mk (← lreg d) (← reg a) (fin16 l) (fin8 g)
def shVGET (mk : Reg → LReg → Reg → Look → Guard → Instr) (d a b g l : Nat) : Except Reject Instr := do
  return mk (← reg d) (← lreg a) (← reg b) (fin16 l) (fin8 g)
def shVPUT (mk : LReg → Reg → Reg → Look → Guard → Instr) (d a b g l : Nat) : Except Reject Instr := do
  return mk (← lreg d) (← reg a) (← reg b) (fin16 l) (fin8 g)
def shVRND (mk : LReg → LReg → Reg → Look → Guard → Instr) (d a b g l : Nat) : Except Reject Instr := do
  return mk (← lreg d) (← lreg a) (← reg b) (fin16 l) (fin8 g)
def shVRED (mk : Reg → LReg → Look → Guard → Instr) (d a b g l : Nat) : Except Reject Instr := do
  zero b
  return mk (← reg d) (← lreg a) (fin16 l) (fin8 g)
def shVLD (mk : LReg → Reg → Reg → Look → Guard → Instr) (d a b g l : Nat) : Except Reject Instr := do
  return mk (← lreg d) (← reg a) (← reg b) (fin16 l) (fin8 g)
def shVGA (mk : LReg → Reg → LReg → Look → Guard → Instr) (d a b g l : Nat) : Except Reject Instr := do
  return mk (← lreg d) (← reg a) (← lreg b) (fin16 l) (fin8 g)
/-- A line instruction of one type (FP32 or C32): ty4 must be that code. -/
def shVE (t : Nat) (mk : LReg → LReg → Guard → Instr) (d a b g l : Nat) : Except Reject Instr := do
  zero b
  need (l == t) .typeCode
  return mk (← lreg d) (← lreg a) (fin8 g)
def shVE3 (t : Nat) (mk : LReg → LReg → LReg → Guard → Instr) (d a b g l : Nat) : Except Reject Instr := do
  need (l == t) .typeCode
  return mk (← lreg d) (← lreg a) (← lreg b) (fin8 g)
/-- R103. -/
def shVCMP (d a b g l : Nat) : Except Reject Instr := do
  return .vcmp (rel (d / 8)) (fin8 d) (← lreg a) (← lreg b) (fin16 l) (fin8 g)
/-- R106: ctl bits 4:3 source, 2 saturate, 1:0 mode. -/
def shVCVT (d a b g l : Nat) : Except Reject Instr := do
  return .vcvt (← lreg d) (← lreg a) (← vsrc (b / 8)) (b / 4 % 2 == 1) (fin4 b) (fin16 l) (fin8 g)
def shSTRM (d a b g l : Nat) : Except Reject Instr := do
  return .strm (← tdes d) (← reg a) (← reg b) (fin16 l) (fin8 g)
def shSTRE (d a b g l : Nat) : Except Reject Instr := do
  zero a
  zero b
  zero l
  return .stre (← tdes d) (fin8 g)
/-- R134. -/
def shVAMO (d a b g l : Nat) : Except Reject Instr := do
  if d = 11 then return .vamoBf16 (← reg a) (← reg b) (fin8 g) (fin16 l)
  else if d = 12 then return .vamoFp32 (← reg a) (← reg b) (fin8 g) (fin16 l)
  else throw .typeCode
/-- Format T (R34). -/
def shT8 (mk : Reg → Reg → Reg → BitVec 8 → Instr) (d a b t : Nat) : Except Reject Instr := do
  return mk (← reg d) (← reg a) (← reg b) (BitVec.ofNat 8 t)
def shFS (mk : Reg → Reg → Reg → BitVec 6 → Instr) (d a b t : Nat) : Except Reject Instr := do
  return mk (← reg d) (← reg a) (← reg b) (BitVec.ofNat 6 t)
/-- Format I (R32). -/
def shI12 (mk : Reg → Reg → BitVec 12 → Guard → Instr) (d a i g : Nat) : Except Reject Instr := do
  return mk (← reg d) (← reg a) (BitVec.ofNat 12 i) (fin8 g)
def shSHI (mk : Reg → Reg → BitVec 6 → Guard → Instr) (d a i g : Nat) : Except Reject Instr := do
  zero (i / 256)
  return mk (← reg d) (← reg a) (BitVec.ofNat 6 i) (fin8 g)
def shCMPI (mk : Pred → Reg → BitVec 10 → Guard → Instr) (d a i g : Nat) : Except Reject Instr := do
  return mk (← pred d) (← reg a) (BitVec.ofNat 10 i) (fin8 g)
def shCVT (d a i g : Nat) : Except Reject Instr := do
  return .cvt (← reg d) (← reg a) (fin16 i) (fin16 (i / 16)) (← rmode (i / 256 % 8)) (i / 2048 == 1) (fin8 g)
def shLOOP (d a i g : Nat) : Except Reject Instr := do
  zero a
  return .loop (← reg d) (BitVec.ofNat 12 i) (fin8 g)
def shSRD (d a n g : Nat) : Except Reject Instr := do
  zero a
  return .srd (← reg d) (← sreg n) (fin8 g)
def shSWR (d a n g : Nat) : Except Reject Instr := do
  zero d
  return .swr (← sreg n) (← reg a) (fin8 g)
def shEXT (d a n g : Nat) : Except Reject Instr := do
  zero d
  zero (n / 8)
  return .ext (fin8 n) (← reg a) (fin8 g)
def shD1 (d a n g : Nat) : Except Reject Instr := do
  zero a
  zero n
  zero g
  return .rdcyc (← reg d)
def shSys0 (mk : Instr) (d a n g : Nat) : Except Reject Instr := do
  zero d
  zero a
  zero n
  zero g
  return mk
def shTRAP (d a n g : Nat) : Except Reject Instr := do
  zero d
  zero a
  zero g
  return .trap (BitVec.ofNat 9 n)
/-- Format M (R33). -/
def shLDM (mk : Reg → Reg → BitVec 8 → ASize → Bool → Look → Instr) (d a o f l : Nat) : Except Reject Instr := do
  return mk (← reg d) (← reg a) (BitVec.ofNat 8 o) (asize (f % 4)) (f / 4 == 1) (fin16 l)
def shSTM (mk : Reg → Reg → BitVec 8 → ASize → Look → Instr) (d a o f l : Nat) : Except Reject Instr := do
  zero (f / 4)
  return mk (← reg d) (← reg a) (BitVec.ofNat 8 o) (asize (f % 4)) (fin16 l)
def shU (mk : Reg → BitVec 20 → Instr) (d i : Nat) : Except Reject Instr := do
  return mk (← reg d) (BitVec.ofNat 20 i)
/-- Format X; the flags of R35 and R36. -/
def shVLDF (mk : Reg → Reg → Fin 8 → Fin 4 → Bool → Look → Instr) (a b c f l : Nat) : Except Reject Instr := do
  return mk (← reg a) (← reg b) (← kreg c) (fin4 (f / 8)) (f / 32 == 1) (fin16 l)
def shOPT (mk : Reg → Reg → Fin 8 → Look → Instr) (a b c f l : Nat) : Except Reject Instr := do
  zero (f / 8)
  return mk (← reg a) (← reg b) (← kreg c) (fin16 l)
def shOP3 (mk : Reg → Reg → Reg → Bool → Bool → Bool → Look → Instr) (a b c f l : Nat) : Except Reject Instr := do
  return mk (← reg a) (← reg b) (← reg c) (f / 8 % 2 == 1) (f / 16 % 2 == 1) (f / 32 == 1) (fin16 l)
def shOPH (mk : Reg → Reg → Reg → Bool → Look → Instr) (a b c f l : Nat) : Except Reject Instr := do
  need (f / 8 % 4 == 0) .flag
  return mk (← reg a) (← reg b) (← reg c) (f / 32 == 1) (fin16 l)
def shOP2 (mk : Reg → Reg → Bool → Bool → Bool → Look → Instr) (a b c f l : Nat) : Except Reject Instr := do
  zero c
  return mk (← reg a) (← reg b) (f / 8 % 2 == 1) (f / 16 % 2 == 1) (f / 32 == 1) (fin16 l)
def shOPM (mk : Reg → Reg → Bool → Look → Instr) (a b c f l : Nat) : Except Reject Instr := do
  zero c
  need (f / 8 % 4 == 0) .flag
  return mk (← reg a) (← reg b) (f / 32 == 1) (fin16 l)
def shOPLD (mk : Reg → Reg → Reg → Bool → Look → Instr) (a b c f l : Nat) : Except Reject Instr := do
  need (f / 8 % 2 == 0 && f / 32 == 0) .flag
  return mk (← reg a) (← reg b) (← reg c) (f / 16 % 2 == 1) (fin16 l)
def shOPG (mk : Reg → Look → Instr) (a b c f l : Nat) : Except Reject Instr := do
  zero b
  zero c
  need (f / 8 == 0) .flag
  return mk (← reg a) (fin16 l)
def shX3 (mk : Reg → Reg → Reg → Look → Instr) (a b c l : Nat) : Except Reject Instr := do
  return mk (← reg a) (← reg b) (← reg c) (fin16 l)
def shX2 (mk : Reg → Reg → Look → Instr) (a b c l : Nat) : Except Reject Instr := do
  zero c
  return mk (← reg a) (← reg b) (fin16 l)
def shX1 (mk : Reg → Look → Instr) (a b c l : Nat) : Except Reject Instr := do
  zero b
  zero c
  return mk (← reg a) (fin16 l)
/-- The compact format (R37). -/
def shC2 (mk : Reg → Reg → Instr) (d a : Nat) : Except Reject Instr := do
  return mk (← reg d) (← reg a)
def shCI (mk : Reg → BitVec 5 → Instr) (d a : Nat) : Except Reject Instr := do
  return mk (← reg d) (BitVec.ofNat 5 a)
def shCV (mk : LReg → LReg → Instr) (d a : Nat) : Except Reject Instr := do
  return mk (← lreg d) (← lreg a)
def shC0 (mk : Instr) (d a : Nat) : Except Reject Instr := do
  zero d
  zero a
  return mk

/-- The instruction of the fields of formats A and V (Table 2.10). -/
def instrA (op d a b f g l : Nat) : Except Reject Instr :=
  match op with
  | 0x00 =>
    match f with
    | 0 => shA3 .add d a b g l
    | 1 => shA3 .sub d a b g l
    | 2 => shA3 .mul d a b g l
    | 3 => shA3 .mulh d a b g l
    | 4 => shA3 .mulhn d a b g l
    | 5 => shA3L .div d a b g l
    | 6 => shA3L .divn d a b g l
    | 7 => shA3L .rem d a b g l
    | _ => .error .unassigned
  | 0x01 =>
    match f with
    | 0 => shA3 .and d a b g l
    | 1 => shA3 .or d a b g l
    | 2 => shA3 .xor d a b g l
    | 3 => shA3 .andn d a b g l
    | 4 => shA3 .orn d a b g l
    | 5 => shA3 .xnor d a b g l
    | 6 => shA3 .min d a b g l
    | 7 => shA3 .max d a b g l
    | _ => .error .unassigned
  | 0x02 =>
    match f with
    | 0 => shA3 .shl d a b g l
    | 1 => shA3 .shr d a b g l
    | 2 => shA3 .sha d a b g l
    | 3 => shA3 .rot d a b g l
    | 4 => shA3 .minn d a b g l
    | 5 => shA3 .maxn d a b g l
    | 6 => shA2 .clz d a b g l
    | 7 => shA2 .popc d a b g l
    | _ => .error .unassigned
  | 0x03 =>
    match f with
    | 0 => shA3 .bext d a b g l
    | 1 => shA3 .bdep d a b g l
    | 2 => shA2 .brev d a b g l
    | 3 => shA3 .scadd d a b g l
    | 4 => shA3 .sel d a b g l
    | _ => .error .unassigned
  | 0x06 =>
    match f with
    | 0 => shCMP3 .cmpeq d a b g l
    | 1 => shCMP3 .cmpne d a b g l
    | 2 => shCMP3 .cmplt d a b g l
    | 3 => shCMP3 .cmple d a b g l
    | 4 => shCMP3 .cmpltn d a b g l
    | 5 => shCMP3 .cmplen d a b g l
    | 6 => shCMP3 .tst d a b g l
    | _ => .error .unassigned
  | 0x07 =>
    match f with
    | 0 => shPR3 .pand d a b g l
    | 1 => shPR3 .por d a b g l
    | 2 => shPR3 .pxor d a b g l
    | 3 => shPR2 .pnot d a b g l
    | _ => .error .unassigned
  | 0x10 =>
    match f with
    | 0 => shA3 .fadd d a b g l
    | 1 => shA3 .fsub d a b g l
    | 2 => shA3 .fmul d a b g l
    | 3 => shA3 .fma d a b g l
    | 4 => shA3L .fdiv d a b g l
    | 5 => shA2L .fsqrt d a b g l
    | 6 => shA3 .fmin d a b g l
    | 7 => shA3 .fmax d a b g l
    | _ => .error .unassigned
  | 0x11 =>
    match f with
    | 0 => shCMP3 .fcmpeq d a b g l
    | 1 => shCMP3 .fcmplt d a b g l
    | 2 => shCMP3 .fcmple d a b g l
    | 3 => shCMP3 .fcmpun d a b g l
    | _ => .error .unassigned
  | 0x13 =>
    match f with
    | 0 => shA3L .dadd d a b g l
    | 1 => shA3L .dsub d a b g l
    | 2 => shA3L .dmul d a b g l
    | 3 => shA3L .dfma d a b g l
    | 4 => shA3L .ddiv d a b g l
    | 5 => shA2L .dsqrt d a b g l
    | _ => .error .unassigned
  | 0x17 =>
    match f with
    | 0 => shAG .jr d a b g l
    | 1 => shAG .callr d a b g l
    | 2 => shG0 .ret d a b g l
    | _ => .error .unassigned
  | 0x19 =>
    match f with
    | 0 => shN .endTask d a b g l
    | 1 => shN .yield d a b g l
    | 2 => shAB .susp d a b g l
    | 3 => shA2L .migr d a b g l
    | 4 => shGL .home d a b g l
    | 5 => shA3L .spawn d a b g l
    | 6 => shA3L .spawnh d a b g l
    | 7 => shA3L .send d a b g l
    | _ => .error .unassigned
  | 0x1A =>
    match f with
    | 0 => shA1 .qtest d a b g l
    | 1 => shA3L .launch d a b g l
    | 2 => shA2L .grun d a b g l
    | 3 => shA3L .cancelLaunch d a b g l
    | 4 => shA2L .callm d a b g l
    | 5 => shA3L .callq d a b g l
    | 6 => shABL .callw d a b g l
    | _ => .error .unassigned
  | 0x1B => shLDF .stf d a b f g l
  | 0x26 =>
    match f with
    | 0 => shA3L .ldx d a b g l
    | 1 => shA3L .stx d a b g l
    | 2 => shA2L .lrw d a b g l
    | 3 => shA2L .scv d a b g l
    | 4 => shAGL .relq d a b g l
    | 5 => shFENCE .fence d a b g l
    | 6 => shG0 .ifence d a b g l
    | 7 => shVAMO d a b g l
    | _ => .error .unassigned
  | 0x27 =>
    match f with
    | 0 => shA3L .amoadd d a b g l
    | 1 => shA3L .amoand d a b g l
    | 2 => shA3L .amoor d a b g l
    | 3 => shA3L .amoxor d a b g l
    | 4 => shA3L .amomin d a b g l
    | 5 => shA3L .amomax d a b g l
    | 6 => shA3L .amoswap d a b g l
    | 7 => shA3L .amocas d a b g l
    | _ => .error .unassigned
  | 0x28 =>
    match f with
    | 0 => shV3 .vadd d a b g l
    | 1 => shV3 .vsub d a b g l
    | 2 => shV3 .vmul d a b g l
    | 3 => shV3 .vfma d a b g l
    | 4 => shV3 .vmin d a b g l
    | 5 => shV3 .vmax d a b g l
    | 6 => shV2 .vabs d a b g l
    | 7 => shV2 .vneg d a b g l
    | _ => .error .unassigned
  | 0x29 =>
    match f with
    | 0 => shVE 12 .vexp d a b g l
    | 1 => shVE 12 .vlog d a b g l
    | 2 => shVE 12 .vrcp d a b g l
    | 3 => shVE 12 .vrsq d a b g l
    | 4 => shVE 12 .vsin d a b g l
    | 5 => shVE 12 .vcos d a b g l
    | _ => .error .unassigned
  | 0x2A =>
    match f with
    | 0 => shV3 .vand d a b g l
    | 1 => shV3 .vor d a b g l
    | 2 => shV3 .vxor d a b g l
    | 3 => shV3 .vshl d a b g l
    | 4 => shV3 .vshr d a b g l
    | 5 => shVCMP d a b g l
    | 6 => shV3 .vsel d a b g l
    | _ => .error .unassigned
  | 0x2B =>
    match f with
    | 0 => shVBC .vbcast d a b g l
    | 1 => shVGET .vget d a b g l
    | 2 => shVPUT .vput d a b g l
    | 3 => shV3 .vshuf d a b g l
    | 4 => shVE3 15 .vcmul d a b g l
    | 5 => shVE 15 .vconj d a b g l
    | 6 => shVCVT d a b g l
    | 7 => shVRND .vrnd d a b g l
    | _ => .error .unassigned
  | 0x2C =>
    match f with
    | 0 => shVRED .vrsum d a b g l
    | 1 => shVRED .vrmax d a b g l
    | 2 => shVRED .vrmin d a b g l
    | 3 => shVRED .vrmaxi d a b g l
    | 4 => shVRED .vrmini d a b g l
    | _ => .error .unassigned
  | 0x2D =>
    match f with
    | 0 => shVLD .vld d a b g l
    | 1 => shVLD .vst d a b g l
    | 2 => shVGA .vgath d a b g l
    | 3 => shVGA .vscat d a b g l
    | 4 => shSTRM d a b g l
    | 5 => shSTRE d a b g l
    | _ => .error .unassigned
  | 0x2F => shLDF .ldf d a b f g l
  | 0x32 =>
    match f with
    | 0 => shA2L .waitt d a b g l
    | 1 => shA3L .waitc d a b g l
    | 2 => shA3L .waitb d a b g l
    | 3 => shWAITP .waitp d a b g l
    | 4 => shSIG .sig d a b g l
    | 5 => shABL .cntset d a b g l
    | 6 => shAG .armt d a b g l
    | 7 => shA2L .barw d a b g l
    | _ => .error .unassigned
  | _ => .error .unassigned

/-- Format X: FIELD and OPER select with fn6 bits 2:0, the other majors with all of fn6. -/
def instrX (op a b c f l : Nat) : Except Reject Instr :=
  match op with
  | 0x2E =>
    match f % 8 with
    | 0 => shVLDF .vldf a b c f l
    | 1 => shVLDF .vstf a b c f l
    | 2 => shOPT .pacc a b c f l
    | 3 => shOPT .paxpy a b c f l
    | 4 => shOPT .pema a b c f l
    | _ => .error .unassigned
  | 0x30 =>
    match f % 8 with
    | 0 => shOP3 .apply a b c f l
    | 1 => shOP3 .applyc a b c f l
    | 2 => shOPH .phase a b c f l
    | 3 => shOP2 .dscale a b c f l
    | 4 => shOP2 .redb a b c f l
    | 5 => shOPM .maxb a b c f l
    | 6 => shOPLD .opld a b c f l
    | 7 => shOPG .opgen a b c f l
    | _ => .error .unassigned
  | 0x31 =>
    match f with
    | 0 => shX1 .opwait a b c l
    | 1 => shX3 .xfer a b c l
    | 2 => shX2 .cbld a b c l
    | _ => .error .unassigned
  | 0x33 =>
    match f with
    | 0 => shX3 .otset a b c l
    | 1 => shX2 .otget a b c l
    | 2 => shX1 .otinv a b c l
    | 3 => shX3 .frename a b c l
    | 4 => shX3 .fperm a b c l
    | 5 => shX2 .finfo a b c l
    | 6 => shX3 .objnew a b c l
    | 7 => shX1 .objsync a b c l
    | _ => .error .unassigned
  | 0x34 =>
    match f with
    | 0 => shX3 .leasePin a b c l
    | 1 => shX3 .xinv a b c l
    | 2 => shX1 .dlogh a b c l
    | 3 => shX3 .pgmig a b c l
    | 4 => shX2 .subs a b c l
    | 5 => shX1 .unsub a b c l
    | 6 => shX1 .cgld a b c l
    | 7 => shX2 .cgrun a b c l
    | _ => .error .unassigned
  | 0x35 =>
    match f with
    | 0 => shX2 .spill a b c l
    | 1 => shX2 .restore a b c l
    | 2 => shX2 .barcfgConfigure a b c l
    | 3 => shX1 .lehrEnter a b c l
    | _ => .error .unassigned
  | _ => .error .unassigned

/-- Format T (R34): bits 1:0 are reserved, and bit 7 of the shift word. -/
def instrT (op d a b t z : Nat) : Except Reject Instr := do
  zero z
  match op with
  | 0x04 => shT8 .lut3 d a b t
  | 0x05 => do
    zero (t / 128)
    if t / 64 % 2 = 0 then shFS .fsl d a b t else shFS .fsr d a b t
  | _ => .error .unassigned

/-- Format I (R32). -/
def instrI (op d a i g : Nat) : Except Reject Instr :=
  match op with
  | 0x08 => shI12 .addi d a i g
  | 0x09 => shI12 .andi d a i g
  | 0x0A => shI12 .ori d a i g
  | 0x0B => shI12 .xori d a i g
  | 0x0C =>
    match i / 64 % 4 with
    | 0 => shSHI .shli d a i g
    | 1 => shSHI .shri d a i g
    | 2 => shSHI .shai d a i g
    | _ => .error .unassigned
  | 0x0D =>
    match i / 1024 with
    | 0 => shCMPI .cmpeqi d a i g
    | 1 => shCMPI .cmplti d a i g
    | 2 => shCMPI .cmpltni d a i g
    | _ => .error .unassigned
  | 0x12 => shCVT d a i g
  | 0x14 =>
    match i / 512 with
    | 0 => shSRD d a (i % 512) g
    | 1 => shSWR d a (i % 512) g
    | 2 => shEXT d a (i % 512) g
    | 3 => shD1 d a (i % 512) g
    | 4 => shSys0 .nop d a (i % 512) g
    | 5 => shSys0 .idle d a (i % 512) g
    | 6 => shTRAP d a (i % 512) g
    | 7 => shSys0 .rte d a (i % 512) g
    | _ => .error .unassigned
  | 0x18 => shLOOP d a i g
  | _ => .error .unassigned

/-- Format M (R33). -/
def instrM (op d a o f l : Nat) : Except Reject Instr :=
  match op with
  | 0x20 => shLDM .ld d a o f l
  | 0x21 => shSTM .st d a o f l
  | 0x22 => shLDM .lda d a o f l
  | 0x23 => shLDM .sta d a o f l
  | 0x24 => shLDM .ldl d a o f l
  | 0x25 => shSTM .stl d a o f l
  | _ => .error .unassigned

/-- The compact codes (Table 2.13). -/
def instrC (op d a : Nat) : Except Reject Instr :=
  match op with
  | 1 => shC2 .compactMov d a
  | 2 => shC2 .compactAdd d a
  | 3 => shC2 .compactSub d a
  | 4 => shC2 .compactAnd d a
  | 5 => shC2 .compactOr d a
  | 6 => shC2 .compactXor d a
  | 7 => shC2 .compactAndn d a
  | 8 => shC2 .compactShl d a
  | 9 => shC2 .compactShr d a
  | 10 => shC2 .compactSha d a
  | 11 => shCI .compactAddi d a
  | 12 => shCI .compactShli d a
  | 13 => shCI .compactShri d a
  | 14 => shCI .compactShai d a
  | 15 => shCI .compactMovi d a
  | 16 => shC2 .compactCmpeq d a
  | 17 => shC2 .compactCmplt d a
  | 18 => shC2 .compactCmpltn d a
  | 19 => shC2 .compactLdl d a
  | 20 => shC2 .compactStl d a
  | 21 => shCV .compactVadd d a
  | 22 => shCV .compactVmul d a
  | 23 => shCV .compactVfma d a
  | 24 => shC0 .compactNop d a
  | 25 => shC0 .compactEnd d a
  | 26 => shC0 .compactYield d a
  | 27 => shC0 .compactRet d a
  | _ => .error .unassigned

/-- The instruction of the fields of a word. -/
def instrOf : Raw → Except Reject Instr
  | .a op d a b f g l => instrA op d a b f g l
  | .x op a b c f l => instrX op a b c f l
  | .t op d a b t z => instrT op d a b t z
  | .i op d a i g => instrI op d a i g
  | .m op d a o f l => instrM op d a o f l
  | .u op d i => if op = 0x0E then shU .lui d i else if op = 0x0F then shU .addpc d i else .error .unassigned
  | .j o => .ok (.call (BitVec.ofNat 25 o))
  | .b s p o => if s = 1 then .ok (.br (fin16 p) (BitVec.ofNat 20 o)) else .ok (.brF (fin16 p) (BitVec.ofNat 20 o))
  | .c op d a => instrC op d a
  | .none => .error .unassigned

/-- R39 steps 1 and 2: the operands, then the conditions of WellFormed. -/
def checked (r : Raw) : Except Reject Instr :=
  match instrOf r with
  | .ok i => if i.wf then .ok i else .error .form
  | .error e => .error e

/-- A 32-bit instruction word. -/
def word32 (w : Nat) : Except Reject Instr := checked (rawOf w)
/-- A compact word. -/
def word16 (w : Nat) : Except Reject Instr := checked (rawOf16 w)

/-- A halfword in memory order (R3). -/
def halfword (b0 b1 : Byte) : Nat := b0.toNat + 256 * b1.toNat

/-- Fetch order of R15: the halfword at pc, and when its bit 15 is 1 it is bits 31:16 and the next one bits 15:0. The
answer is the instruction and the bytes that follow it. -/
def bytes : List Byte → Except Reject (Instr × List Byte)
  | b0 :: b1 :: rest =>
    if halfword b0 b1 < 2 ^ 15 then (word16 (halfword b0 b1)).map fun i => (i, rest)
    else
      match rest with
      | b2 :: b3 :: rest' => (word32 (halfword b0 b1 * 2 ^ 16 + halfword b2 b3)).map fun i => (i, rest')
      | _ => .error .truncated
  | _ => .error .truncated

end Dec

/-! The encoder, from the same tables. -/

/-- R20. -/
def Reg.code : Reg → Nat
  | .m i => i.val
  | .o i => 16 + i.val
  | .l0 => 22 | .l1 => 23 | .z => 24
  | .t i => 25 + i.val
  | .q => 29 | .pw => 30

/-- R21. -/
def LReg.code : LReg → Nat
  | .k i => i.val
  | .t i => 8 + i.val

def RMode.code : RMode → Nat
  | .rne => 0 | .rz => 1 | .ru => 2 | .rd => 3 | .rna => 4
def ASize.code : ASize → Nat
  | .b1 => 0 | .b2 => 1 | .b4 => 2 | .b8 => 3
def Scope.code : Scope → Nat
  | .strand => 0 | .core => 1 | .cluster => 2 | .die => 3 | .package => 4 | .span => 5
def FKind.code : FKind → Nat
  | .full => 0 | .rel => 1 | .acq => 2
def Rel.code : Rel → Nat
  | .eq => 0 | .lt => 1 | .le => 2 | .un => 3
def VSrc.code : VSrc → Nat
  | .fp32 => 0 | .i32 => 1 | .n32 => 2
def SReg.code : SReg → Nat
  | .sid => 0 | .clk => 1 | .tix => 2 | .tcnt => 3 | .lrec => 4 | .job => 5 | .home => 6 | .rac => 7 | .trh => 8
  | .wsp => 9 | .wlim => 10 | .wdep => 11 | .tvec => 12 | .tcause => 13 | .tval => 14 | .xpc => 15 | .plv => 16
  | .xplv => 17
def bit (b : Bool) : Nat := if b then 1 else 0

/-- The fields of an instruction's word; a step of a unit has none. -/
def Instr.raw : Instr → Dec.Raw
  | .add d a b g => .a 0x00 d.code a.code b.code 0 g.val 0
  | .sub d a b g => .a 0x00 d.code a.code b.code 1 g.val 0
  | .mul d a b g => .a 0x00 d.code a.code b.code 2 g.val 0
  | .mulh d a b g => .a 0x00 d.code a.code b.code 3 g.val 0
  | .mulhn d a b g => .a 0x00 d.code a.code b.code 4 g.val 0
  | .div d a b g la => .a 0x00 d.code a.code b.code 5 g.val la.val
  | .divn d a b g la => .a 0x00 d.code a.code b.code 6 g.val la.val
  | .rem d a b g la => .a 0x00 d.code a.code b.code 7 g.val la.val
  | .and d a b g => .a 0x01 d.code a.code b.code 0 g.val 0
  | .or d a b g => .a 0x01 d.code a.code b.code 1 g.val 0
  | .xor d a b g => .a 0x01 d.code a.code b.code 2 g.val 0
  | .andn d a b g => .a 0x01 d.code a.code b.code 3 g.val 0
  | .orn d a b g => .a 0x01 d.code a.code b.code 4 g.val 0
  | .xnor d a b g => .a 0x01 d.code a.code b.code 5 g.val 0
  | .min d a b g => .a 0x01 d.code a.code b.code 6 g.val 0
  | .max d a b g => .a 0x01 d.code a.code b.code 7 g.val 0
  | .shl d a b g => .a 0x02 d.code a.code b.code 0 g.val 0
  | .shr d a b g => .a 0x02 d.code a.code b.code 1 g.val 0
  | .sha d a b g => .a 0x02 d.code a.code b.code 2 g.val 0
  | .rot d a b g => .a 0x02 d.code a.code b.code 3 g.val 0
  | .minn d a b g => .a 0x02 d.code a.code b.code 4 g.val 0
  | .maxn d a b g => .a 0x02 d.code a.code b.code 5 g.val 0
  | .clz d a g => .a 0x02 d.code a.code 0 6 g.val 0
  | .popc d a g => .a 0x02 d.code a.code 0 7 g.val 0
  | .bext d a b g => .a 0x03 d.code a.code b.code 0 g.val 0
  | .bdep d a b g => .a 0x03 d.code a.code b.code 1 g.val 0
  | .brev d a g => .a 0x03 d.code a.code 0 2 g.val 0
  | .scadd d a b g => .a 0x03 d.code a.code b.code 3 g.val 0
  | .sel d a b g => .a 0x03 d.code a.code b.code 4 g.val 0
  | .lut3 d a b tbl => .t 0x04 d.code a.code b.code tbl.toNat 0
  | .fsl d a b n => .t 0x05 d.code a.code b.code (0 + n.toNat) 0
  | .fsr d a b n => .t 0x05 d.code a.code b.code (64 + n.toNat) 0
  | .cmpeq pd a b g => .a 0x06 pd.val a.code b.code 0 g.val 0
  | .cmpne pd a b g => .a 0x06 pd.val a.code b.code 1 g.val 0
  | .cmplt pd a b g => .a 0x06 pd.val a.code b.code 2 g.val 0
  | .cmple pd a b g => .a 0x06 pd.val a.code b.code 3 g.val 0
  | .cmpltn pd a b g => .a 0x06 pd.val a.code b.code 4 g.val 0
  | .cmplen pd a b g => .a 0x06 pd.val a.code b.code 5 g.val 0
  | .tst pd a b g => .a 0x06 pd.val a.code b.code 6 g.val 0
  | .pand pd pa pb g => .a 0x07 pd.val pa.val pb.val 0 g.val 0
  | .por pd pa pb g => .a 0x07 pd.val pa.val pb.val 1 g.val 0
  | .pxor pd pa pb g => .a 0x07 pd.val pa.val pb.val 2 g.val 0
  | .pnot pd pa g => .a 0x07 pd.val pa.val 0 3 g.val 0
  | .addi d a imm g => .i 0x08 d.code a.code imm.toNat g.val
  | .andi d a imm g => .i 0x09 d.code a.code imm.toNat g.val
  | .ori d a imm g => .i 0x0A d.code a.code imm.toNat g.val
  | .xori d a imm g => .i 0x0B d.code a.code imm.toNat g.val
  | .shli d a n g => .i 0x0C d.code a.code (0 + n.toNat) g.val
  | .shri d a n g => .i 0x0C d.code a.code (64 + n.toNat) g.val
  | .shai d a n g => .i 0x0C d.code a.code (128 + n.toNat) g.val
  | .cmpeqi pd a imm g => .i 0x0D pd.val a.code (0 + imm.toNat) g.val
  | .cmplti pd a imm g => .i 0x0D pd.val a.code (1024 + imm.toNat) g.val
  | .cmpltni pd a imm g => .i 0x0D pd.val a.code (2048 + imm.toNat) g.val
  | .lui d imm => .u 0x0E d.code imm.toNat
  | .addpc d imm => .u 0x0F d.code imm.toNat
  | .fadd d a b g => .a 0x10 d.code a.code b.code 0 g.val 0
  | .fsub d a b g => .a 0x10 d.code a.code b.code 1 g.val 0
  | .fmul d a b g => .a 0x10 d.code a.code b.code 2 g.val 0
  | .fma d a b g => .a 0x10 d.code a.code b.code 3 g.val 0
  | .fdiv d a b g la => .a 0x10 d.code a.code b.code 4 g.val la.val
  | .fsqrt d a g la => .a 0x10 d.code a.code 0 5 g.val la.val
  | .fmin d a b g => .a 0x10 d.code a.code b.code 6 g.val 0
  | .fmax d a b g => .a 0x10 d.code a.code b.code 7 g.val 0
  | .fcmpeq pd a b g => .a 0x11 pd.val a.code b.code 0 g.val 0
  | .fcmplt pd a b g => .a 0x11 pd.val a.code b.code 1 g.val 0
  | .fcmple pd a b g => .a 0x11 pd.val a.code b.code 2 g.val 0
  | .fcmpun pd a b g => .a 0x11 pd.val a.code b.code 3 g.val 0
  | .cvt d a src dst mode sat g => .i 0x12 d.code a.code (src.val + 16 * dst.val + 256 * mode.code + 2048 * bit sat) g.val
  | .dadd d a b g la => .a 0x13 d.code a.code b.code 0 g.val la.val
  | .dsub d a b g la => .a 0x13 d.code a.code b.code 1 g.val la.val
  | .dmul d a b g la => .a 0x13 d.code a.code b.code 2 g.val la.val
  | .dfma d a b g la => .a 0x13 d.code a.code b.code 3 g.val la.val
  | .ddiv d a b g la => .a 0x13 d.code a.code b.code 4 g.val la.val
  | .dsqrt d a g la => .a 0x13 d.code a.code 0 5 g.val la.val
  | .srd d r g => .i 0x14 d.code 0 r.code g.val
  | .swr r a g => .i 0x14 0 a.code (512 + r.code) g.val
  | .ext k a g => .i 0x14 0 a.code (1024 + k.val) g.val
  | .rdcyc d => .i 0x14 d.code 0 1536 0
  | .trap code => .i 0x14 0 0 (3072 + code.toNat) 0
  | .br p off => .b 1 p.val off.toNat
  | .brF p off => .b 0 p.val off.toNat
  | .call off => .j off.toNat
  | .jr a g => .a 0x17 0 a.code 0 0 g.val 0
  | .callr a g => .a 0x17 0 a.code 0 1 g.val 0
  | .ret g => .a 0x17 0 0 0 2 g.val 0
  | .loop d off g => .i 0x18 d.code 0 off.toNat g.val
  | .susp a b g => .a 0x19 0 a.code b.code 2 g.val 0
  | .migr d a g la => .a 0x19 d.code a.code 0 3 g.val la.val
  | .home g la => .a 0x19 0 0 0 4 g.val la.val
  | .spawn d a b g la => .a 0x19 d.code a.code b.code 5 g.val la.val
  | .spawnh d a b g la => .a 0x19 d.code a.code b.code 6 g.val la.val
  | .send d a b g la => .a 0x19 d.code a.code b.code 7 g.val la.val
  | .qtest d g => .a 0x1A d.code 0 0 0 g.val 0
  | .launch d a b g la => .a 0x1A d.code a.code b.code 1 g.val la.val
  | .grun d a g la => .a 0x1A d.code a.code 0 2 g.val la.val
  | .cancelLaunch d a b g la => .a 0x1A d.code a.code b.code 3 g.val la.val
  | .cancelGraph d a b g la => .a 0x1A d.code a.code b.code 3 g.val la.val
  | .cancelJob d a b g la => .a 0x1A d.code a.code b.code 3 g.val la.val
  | .callm d a g la => .a 0x1A d.code a.code 0 4 g.val la.val
  | .callq d a b g la => .a 0x1A d.code a.code b.code 5 g.val la.val
  | .callw a b g la => .a 0x1A 0 a.code b.code 6 g.val la.val
  | .stf d a b c md g la => .a 0x1B d.code a.code b.code (c.val + 4 * bit md) g.val la.val
  | .ld d a off sz sx la => .m 0x20 d.code a.code off.toNat (sz.code + 4 * bit sx) la.val
  | .st d a off sz la => .m 0x21 d.code a.code off.toNat sz.code la.val
  | .lda d a off sz pair la => .m 0x22 d.code a.code off.toNat (sz.code + 4 * bit pair) la.val
  | .sta d a off sz pair la => .m 0x23 d.code a.code off.toNat (sz.code + 4 * bit pair) la.val
  | .ldl d a off sz sx la => .m 0x24 d.code a.code off.toNat (sz.code + 4 * bit sx) la.val
  | .stl d a off sz la => .m 0x25 d.code a.code off.toNat sz.code la.val
  | .ldx d a b g la => .a 0x26 d.code a.code b.code 0 g.val la.val
  | .stx d a b g la => .a 0x26 d.code a.code b.code 1 g.val la.val
  | .lrw d a g la => .a 0x26 d.code a.code 0 2 g.val la.val
  | .scv d a g la => .a 0x26 d.code a.code 0 3 g.val la.val
  | .relq a g la => .a 0x26 0 a.code 0 4 g.val la.val
  | .fence scope kind g => .a 0x26 (scope.code + 8 * kind.code) 0 0 5 g.val 0
  | .ifence g => .a 0x26 0 0 0 6 g.val 0
  | .vamoBf16 a b g la => .a 0x26 11 a.code b.code 7 g.val la.val
  | .vamoFp32 a b g la => .a 0x26 12 a.code b.code 7 g.val la.val
  | .amoadd d a b g la => .a 0x27 d.code a.code b.code 0 g.val la.val
  | .amoand d a b g la => .a 0x27 d.code a.code b.code 1 g.val la.val
  | .amoor d a b g la => .a 0x27 d.code a.code b.code 2 g.val la.val
  | .amoxor d a b g la => .a 0x27 d.code a.code b.code 3 g.val la.val
  | .amomin d a b g la => .a 0x27 d.code a.code b.code 4 g.val la.val
  | .amomax d a b g la => .a 0x27 d.code a.code b.code 5 g.val la.val
  | .amoswap d a b g la => .a 0x27 d.code a.code b.code 6 g.val la.val
  | .amocas d a b g la => .a 0x27 d.code a.code b.code 7 g.val la.val
  | .vadd d a b ty g => .a 0x28 d.code a.code b.code 0 g.val ty.val
  | .vsub d a b ty g => .a 0x28 d.code a.code b.code 1 g.val ty.val
  | .vmul d a b ty g => .a 0x28 d.code a.code b.code 2 g.val ty.val
  | .vfma d a b ty g => .a 0x28 d.code a.code b.code 3 g.val ty.val
  | .vmin d a b ty g => .a 0x28 d.code a.code b.code 4 g.val ty.val
  | .vmax d a b ty g => .a 0x28 d.code a.code b.code 5 g.val ty.val
  | .vabs d a ty g => .a 0x28 d.code a.code 0 6 g.val ty.val
  | .vneg d a ty g => .a 0x28 d.code a.code 0 7 g.val ty.val
  | .vexp d a g => .a 0x29 d.code a.code 0 0 g.val 12
  | .vlog d a g => .a 0x29 d.code a.code 0 1 g.val 12
  | .vrcp d a g => .a 0x29 d.code a.code 0 2 g.val 12
  | .vrsq d a g => .a 0x29 d.code a.code 0 3 g.val 12
  | .vsin d a g => .a 0x29 d.code a.code 0 4 g.val 12
  | .vcos d a g => .a 0x29 d.code a.code 0 5 g.val 12
  | .vand d a b ty g => .a 0x2A d.code a.code b.code 0 g.val ty.val
  | .vor d a b ty g => .a 0x2A d.code a.code b.code 1 g.val ty.val
  | .vxor d a b ty g => .a 0x2A d.code a.code b.code 2 g.val ty.val
  | .vshl d a b ty g => .a 0x2A d.code a.code b.code 3 g.val ty.val
  | .vshr d a b ty g => .a 0x2A d.code a.code b.code 4 g.val ty.val
  | .vcmp rel kd a b ty g => .a 0x2A (kd.val + 8 * rel.code) a.code b.code 5 g.val ty.val
  | .vsel d a b ty g => .a 0x2A d.code a.code b.code 6 g.val ty.val
  | .vbcast d a ty g => .a 0x2B d.code a.code 0 0 g.val ty.val
  | .vget d a b ty g => .a 0x2B d.code a.code b.code 1 g.val ty.val
  | .vput d a b ty g => .a 0x2B d.code a.code b.code 2 g.val ty.val
  | .vshuf d a b ty g => .a 0x2B d.code a.code b.code 3 g.val ty.val
  | .vcmul d a b g => .a 0x2B d.code a.code b.code 4 g.val 15
  | .vconj d a g => .a 0x2B d.code a.code 0 5 g.val 15
  | .vcvt d a src sat mode ty g => .a 0x2B d.code a.code (8 * src.code + 4 * bit sat + mode.val) 6 g.val ty.val
  | .vrnd d a b ty g => .a 0x2B d.code a.code b.code 7 g.val ty.val
  | .vrsum d a ty g => .a 0x2C d.code a.code 0 0 g.val ty.val
  | .vrmax d a ty g => .a 0x2C d.code a.code 0 1 g.val ty.val
  | .vrmin d a ty g => .a 0x2C d.code a.code 0 2 g.val ty.val
  | .vrmaxi d a ty g => .a 0x2C d.code a.code 0 3 g.val ty.val
  | .vrmini d a ty g => .a 0x2C d.code a.code 0 4 g.val ty.val
  | .vld d a b ty g => .a 0x2D d.code a.code b.code 0 g.val ty.val
  | .vst d a b ty g => .a 0x2D d.code a.code b.code 1 g.val ty.val
  | .vgath d a b ty g => .a 0x2D d.code a.code b.code 2 g.val ty.val
  | .vscat d a b ty g => .a 0x2D d.code a.code b.code 3 g.val ty.val
  | .strm t a b ty g => .a 0x2D (8 + t.val) a.code b.code 4 g.val ty.val
  | .stre t g => .a 0x2D (8 + t.val) 0 0 5 g.val 0
  | .vldf a b k c md la => .x 0x2E a.code b.code k.val (0 + 8 * c.val + 32 * bit md) la.val
  | .vstf a b k c md la => .x 0x2E a.code b.code k.val (1 + 8 * c.val + 32 * bit md) la.val
  | .pacc a b k la => .x 0x2E a.code b.code k.val 2 la.val
  | .paxpy a b k la => .x 0x2E a.code b.code k.val 3 la.val
  | .pema a b k la => .x 0x2E a.code b.code k.val 4 la.val
  | .ldf d a b c md g la => .a 0x2F d.code a.code b.code (c.val + 4 * bit md) g.val la.val
  | .apply a b c acc sat nomap la => .x 0x30 a.code b.code c.code (0 + 8 * bit acc + 16 * bit sat + 32 * bit nomap) la.val
  | .applyc a b c acc sat nomap la => .x 0x30 a.code b.code c.code (1 + 8 * bit acc + 16 * bit sat + 32 * bit nomap) la.val
  | .phase a b c nomap la => .x 0x30 a.code b.code c.code (2 + 32 * bit nomap) la.val
  | .dscale a b acc sat nomap la => .x 0x30 a.code b.code 0 (3 + 8 * bit acc + 16 * bit sat + 32 * bit nomap) la.val
  | .redb a b acc sat nomap la => .x 0x30 a.code b.code 0 (4 + 8 * bit acc + 16 * bit sat + 32 * bit nomap) la.val
  | .maxb a b nomap la => .x 0x30 a.code b.code 0 (5 + 32 * bit nomap) la.val
  | .opld a b c sat la => .x 0x30 a.code b.code c.code (6 + 16 * bit sat) la.val
  | .opgen a la => .x 0x30 a.code 0 0 7 la.val
  | .opwait a la => .x 0x31 a.code 0 0 0 la.val
  | .xfer a b c la => .x 0x31 a.code b.code c.code 1 la.val
  | .xferRetry a b c la => .x 0x31 a.code b.code c.code 1 la.val
  | .xferAbandon a b c la => .x 0x31 a.code b.code c.code 1 la.val
  | .cbld a b la => .x 0x31 a.code b.code 0 2 la.val
  | .waitt d a g la => .a 0x32 d.code a.code 0 0 g.val la.val
  | .waitc d a b g la => .a 0x32 d.code a.code b.code 1 g.val la.val
  | .waitb d a b g la => .a 0x32 d.code a.code b.code 2 g.val la.val
  | .waitp p a b g la => .a 0x32 p.code a.code b.code 3 g.val la.val
  | .sig scope a b g la => .a 0x32 scope.code a.code b.code 4 g.val la.val
  | .cntset a b g la => .a 0x32 0 a.code b.code 5 g.val la.val
  | .armt a g => .a 0x32 0 a.code 0 6 g.val 0
  | .barw d a g la => .a 0x32 d.code a.code 0 7 g.val la.val
  | .otset a b c la => .x 0x33 a.code b.code c.code 0 la.val
  | .otget a b la => .x 0x33 a.code b.code 0 1 la.val
  | .otinv a la => .x 0x33 a.code 0 0 2 la.val
  | .frename a b c la => .x 0x33 a.code b.code c.code 3 la.val
  | .fperm a b c la => .x 0x33 a.code b.code c.code 4 la.val
  | .finfo a b la => .x 0x33 a.code b.code 0 5 la.val
  | .objnew a b c la => .x 0x33 a.code b.code c.code 6 la.val
  | .objsync a la => .x 0x33 a.code 0 0 7 la.val
  | .leasePin a b c la => .x 0x34 a.code b.code c.code 0 la.val
  | .leaseUnpin a b c la => .x 0x34 a.code b.code c.code 0 la.val
  | .xinv a b c la => .x 0x34 a.code b.code c.code 1 la.val
  | .dlogh a la => .x 0x34 a.code 0 0 2 la.val
  | .pgmig a b c la => .x 0x34 a.code b.code c.code 3 la.val
  | .subs a b la => .x 0x34 a.code b.code 0 4 la.val
  | .unsub a la => .x 0x34 a.code 0 0 5 la.val
  | .cgld a la => .x 0x34 a.code 0 0 6 la.val
  | .cgrun a b la => .x 0x34 a.code b.code 0 7 la.val
  | .spill a b la => .x 0x35 a.code b.code 0 0 la.val
  | .restore a b la => .x 0x35 a.code b.code 0 1 la.val
  | .barcfgConfigure a b la => .x 0x35 a.code b.code 0 2 la.val
  | .barcfgRelease a b la => .x 0x35 a.code b.code 0 2 la.val
  | .lehrEnter a la => .x 0x35 a.code 0 0 3 la.val
  | .lehrExit a la => .x 0x35 a.code 0 0 3 la.val
  | .lehrArm a la => .x 0x35 a.code 0 0 3 la.val
  | .lehrDisarm a la => .x 0x35 a.code 0 0 3 la.val
  | .compactMov d a => .c 1 d.code a.code
  | .compactAdd d a => .c 2 d.code a.code
  | .compactSub d a => .c 3 d.code a.code
  | .compactAnd d a => .c 4 d.code a.code
  | .compactOr d a => .c 5 d.code a.code
  | .compactXor d a => .c 6 d.code a.code
  | .compactAndn d a => .c 7 d.code a.code
  | .compactShl d a => .c 8 d.code a.code
  | .compactShr d a => .c 9 d.code a.code
  | .compactSha d a => .c 10 d.code a.code
  | .compactAddi d imm => .c 11 d.code imm.toNat
  | .compactShli d imm => .c 12 d.code imm.toNat
  | .compactShri d imm => .c 13 d.code imm.toNat
  | .compactShai d imm => .c 14 d.code imm.toNat
  | .compactMovi d imm => .c 15 d.code imm.toNat
  | .compactCmpeq d a => .c 16 d.code a.code
  | .compactCmplt d a => .c 17 d.code a.code
  | .compactCmpltn d a => .c 18 d.code a.code
  | .compactLdl d a => .c 19 d.code a.code
  | .compactStl d a => .c 20 d.code a.code
  | .compactVadd d a => .c 21 d.code a.code
  | .compactVmul d a => .c 22 d.code a.code
  | .compactVfma d a => .c 23 d.code a.code
  | .nop => .i 0x14 0 0 2048 0
  | .idle => .i 0x14 0 0 2560 0
  | .rte => .i 0x14 0 0 3584 0
  | .endTask => .a 0x19 0 0 0 0 0 0
  | .yield => .a 0x19 0 0 0 1 0 0
  | .compactNop => .c 24 0 0
  | .compactEnd => .c 25 0 0
  | .compactYield => .c 26 0 0
  | .compactRet => .c 27 0 0
  | .streamFetchAhead | .trapEntry | .resultArrival | .storePerform | .pageWalk | .remoteAccessRequest
  | .requestTimeout | .staleReply | .packetAgeDiscard | .messageArrival | .sendOfferAnswer | .sendRetryLimit
  | .hardwareMessageDelivery | .migrationArrival | .reservationGrant | .slotFill | .recordAgeing
  | .waitSetTimeWake | .launchPreparation | .recordGeneration | .launchCompletion | .commandAccept
  | .commandStart | .commandRetire | .chunkComplete | .chunkFailed | .codeBookLoaded | .remapGroupMove
  | .remapPassEnd | .remapCommit | .remapGroupRetry | .logAppend | .entryApply | .queryRun | .replicaReport
  | .replicaExclusion | .tierEpochEnd | .multicastDelivery | .joinPacket | .leavePacket | .reduceChunk
  | .collectiveChunkArrival | .collectiveStepComplete | .collectiveStepTimeout | .collectiveCancelPacket
  | .deadlineExpiry | .waittTimeReached | .promiseReached | .barrierArrival | .barrierRelease
  | .watchdogExpiry | .capWindowEnd | .pwrWarnAssert | .pwrWarnDeassert | .lehrEntryComplete
  | .lehrExitComplete | .powerUpBoot | .clusterReset | .managementStatus | .managementAttestation
  | .clusterDrain | .clusterReturn | .dieDrain | .linkKeyRenewal | .obituary | .linkLoss | .jobKill
  | .deviceUnrecoverableFault | .linkKeyAgreement | .acknowledgementArrival | .pageMigrationLineCopy => .none

/-- The first row of each group of rows that share one encoding (CANCEL, XFER, LEASE, BARCFG, LEHR): the instruction
the decoder gives for the shared word. -/
def Instr.canon : Instr → Instr
  | .cancelGraph d a b g la => .cancelLaunch d a b g la
  | .cancelJob d a b g la => .cancelLaunch d a b g la
  | .xferRetry a b c la => .xfer a b c la
  | .xferAbandon a b c la => .xfer a b c la
  | .leaseUnpin a b c la => .leasePin a b c la
  | .barcfgRelease a b la => .barcfgConfigure a b la
  | .lehrExit a la => .lehrEnter a la
  | .lehrArm a la => .lehrEnter a la
  | .lehrDisarm a la => .lehrEnter a la
  | i => i

/-- Whether an instruction is a compact one (Table 2.13). -/
def Instr.compact (i : Instr) : Bool :=
  match i.raw with
  | .c _ _ _ => true
  | _ => false

/-- Whether an instruction has a word at all: the steps of the units have none. -/
def Instr.hasWord (i : Instr) : Bool := i.raw != .none

/-- The instruction word: 16 bits for a compact instruction, 32 for any other. -/
def Instr.encode (i : Instr) : Nat := Dec.wordOf i.raw

/-- The length in bytes (R15). -/
def Instr.len (i : Instr) : Nat := if i.compact then 2 else 4

/-- The bytes of the instruction in memory (R15): the halfword with bits 31:16 first, each halfword little-endian. -/
def Instr.bytes (i : Instr) : List Byte :=
  let w := i.encode
  if i.compact then [BitVec.ofNat 8 w, BitVec.ofNat 8 (w / 2 ^ 8)]
  else [BitVec.ofNat 8 (w / 2 ^ 16), BitVec.ofNat 8 (w / 2 ^ 24), BitVec.ofNat 8 w, BitVec.ofNat 8 (w / 2 ^ 8)]

/-- The bytes of a word numbered as the opcode table numbers it: a compact word of 16 bits, or the 32-bit instruction
word whose bit 31 selects the long form. -/
def tableBytes (nbits w : Nat) : List Byte :=
  if nbits ≤ 16 then [BitVec.ofNat 8 w, BitVec.ofNat 8 (w / 2 ^ 8)]
  else [BitVec.ofNat 8 (w / 2 ^ 16), BitVec.ofNat 8 (w / 2 ^ 24), BitVec.ofNat 8 w, BitVec.ofNat 8 (w / 2 ^ 8)]

/-- What the decoder reads from the bytes of an opcode-table word. -/
def decodeTableWord (nbits w : Nat) : Option Instr :=
  match Dec.bytes (tableBytes nbits w) with
  | .ok (i, _) => some i
  | .error _ => none

end Sys2Proof
end

