-- ==== Sys2Proof/Machine/Bytes.lean ====
section
/-! DEFINITION. Little-endian bytes (R3) and bit fields of words. -/

namespace Sys2Proof.Machine

/-- The number that bytes spell, the first the least significant (R3). -/
def leNat : List Byte → Nat
  | [] => 0
  | b :: r => b.toNat + 256 * leNat r

/-- The n low bytes of a number, least significant first (R3). -/
def leBytes : Nat → Nat → List Byte
  | 0, _ => []
  | n + 1, v => BitVec.ofNat 8 v :: leBytes n (v / 256)

/-- Bits lo+n-1 : lo of a number. -/
def bitsOf (v lo n : Nat) : Nat := v / 2 ^ lo % 2 ^ n

/-- Bits lo+n-1 : lo of a word as a number. -/
def wbits (w : Word) (lo n : Nat) : Nat := bitsOf w.toNat lo n

/-- Bit i of a number. -/
def nbit (v i : Nat) : Bool := v / 2 ^ i % 2 == 1

/-- A number with bits lo+n-1 : lo replaced. -/
def setBits (v lo n x : Nat) : Nat := v - bitsOf v lo n * 2 ^ lo + (x % 2 ^ n) * 2 ^ lo

/-- A number with one bit set or cleared. -/
def setBit (v i : Nat) (b : Bool) : Nat := setBits v i 1 (if b then 1 else 0)

/-- A word from a number. -/
def toW (n : Nat) : Word := BitVec.ofNat 64 n

/-- The signed value of the low n bits of a number. -/
def sgn (n v : Nat) : Int := if v % 2 ^ n < 2 ^ (n - 1) then (v % 2 ^ n : Nat) else ((v % 2 ^ n : Nat) : Int) - 2 ^ n

end Sys2Proof.Machine
end

