-- ==== Sys2Proof/Machine/Map.lean ====
section
/-! DEFINITION. Finite tables as lists of key and value pairs in one canonical form: keys strictly rising. Memory is
such a table of bytes in which no entry holds 0, the value an unlisted address reads as. -/

namespace Sys2Proof.Machine

/-- A finite table; canonical when its keys strictly rise. -/
abbrev SMap (α : Type) := List (Nat × α)

/-- The entry of a key. -/
def SMap.find {α : Type} (k : Nat) : SMap α → Option α
  | [] => none
  | (a, v) :: r => if a = k then some v else SMap.find k r

/-- The table with one entry set, in its place by key. -/
def SMap.put {α : Type} (k : Nat) (v : α) : SMap α → SMap α
  | [] => [(k, v)]
  | (a, w) :: r => if a = k then (k, v) :: r else if k < a then (k, v) :: (a, w) :: r else (a, w) :: SMap.put k v r

/-- The table without one key. -/
def SMap.del {α : Type} (k : Nat) : SMap α → SMap α
  | [] => []
  | (a, w) :: r => if a = k then r else (a, w) :: SMap.del k r

/-- Every key of the table lies above a bound, and the keys strictly rise. -/
def SMap.sortedFrom {α : Type} : Nat → SMap α → Bool
  | _, [] => true
  | lo, (a, _) :: r => decide (lo ≤ a) && SMap.sortedFrom (a + 1) r

/-- The canonical form: strictly rising keys. -/
def SMap.sorted {α : Type} (m : SMap α) : Bool := SMap.sortedFrom 0 m

/-- Memory: what an address not listed reads as is 0 (log 4). -/
abbrev Memory := SMap Byte

/-- One byte. -/
def Memory.get (m : Memory) (a : Nat) : Byte := (SMap.find a m).getD 0

/-- One byte written; writing 0 removes the entry, so equal memories are equal lists. -/
def Memory.set (m : Memory) (a : Nat) (b : Byte) : Memory := if b = 0 then SMap.del a m else SMap.put a b m

/-- No entry holds the value an unlisted address reads as. -/
def Memory.noZero : Memory → Bool
  | [] => true
  | (_, b) :: r => decide (b ≠ 0) && Memory.noZero r

/-- The canonical form of memory. -/
def Memory.wf (m : Memory) : Bool := SMap.sorted m && Memory.noZero m

/-- Bytes written at a list of addresses. -/
def Memory.setAll : Memory → List (Nat × Byte) → Memory
  | m, [] => m
  | m, (a, b) :: r => Memory.setAll (m.set a b) r

/-- The bytes at a list of addresses. -/
def Memory.getAll (m : Memory) (as : List Nat) : List Byte := as.map m.get

end Sys2Proof.Machine
end

