-- ==== Sys2Proof/Machine/State.lean ====
section
/-! DEFINITION. The state of a Prahild package: plain data, everything the spec gives the machine. State.me is the
strand that issues, State.others are the other strands; the units of the device have their tables here, and
State.agenda lists the moves they are due to make (R332: engines act on their own). -/

namespace Sys2Proof.Machine

/-- Why the machine stops. -/
inductive Fault where
  /-- Every die's boot ROM has halted for want of a good firmware source (R371) and nothing is left to happen. Raised by
  step; safe: the part runs no instruction until it is reset. -/
  | bootHalted
  deriving DecidableEq, Repr

/-- Why an instruction has no meaning. -/
inductive Refusal where
  /-- An instruction whose meaning is not written. Raised by exec's refused arms only; safe. -/
  | notModelled (mnemonic : String)
  deriving DecidableEq, Repr

/-- A message entry (R214): H0 and the payload o0 to o5. H1 is never visible. -/
structure Msg where
  h0 : Word
  o : Vector Word 6
  deriving DecidableEq, Repr

/-- An element of an input stream fetched ahead (R113): its code, the tag of the request that asks another device for it
and whether it lies on an SO page, or what a read of it found: class, detail, tval. -/
inductive Ahead where
  | got (code : Nat)
  | asked (tag : Nat) (so : Bool)
  | lost (cls detail : Nat) (tval : Word)
  deriving DecidableEq, Repr

/-- A stream binding (R68, Table 6.4, Table 21.3): base, type, direction, dimensions, counts, strides, position, and
the elements fetched ahead of the position (R113). -/
structure Stream where
  base : Word
  ty : Ty
  out : Bool
  dims : Nat
  c : Vector Nat 3
  s : Vector Word 3
  pos : Nat
  ahead : List Ahead
  deriving DecidableEq, Repr

/-- What a strand is doing (Table 4.1, R366): its slot is idle (no strand), ready, parked (SUSP kind 0 or an unhandled
trap), spilled (a mailbox: the entries of its queue that are saved, and whether a message would wake the strand), or it is
in transit to a core with a reason of Table 12.4 (5: back home). Waiting is told by its pending list. -/
inductive Status where
  | idle | ready | parked (wakes : Bool) | spilled (saved : Nat) (wakes : Bool) | transit (core : Nat) (reason : Nat)
  deriving DecidableEq, Repr

/-- An object-table entry (R263): its 256 bytes as 32 words, word 0 lowest, and its access word. -/
structure Obj where
  img : BitVec 2048
  acc : BitVec 16
  deriving DecidableEq, Repr

/-- A field as a user of its descriptor sees it: its key, the descriptor, and the pairs of logical bits exchanged by FRENAMEs
that this user does not see yet (R172, R258). -/
structure View where
  key : Nat
  o : Obj
  ren : List (Nat × Nat) := []
  deriving DecidableEq, Repr

/-- How far the read of one element has come: not asked for, asked for with a tag, read, or failed (class, detail). -/
inductive Read where
  | todo
  | asked (tag : Nat)
  | got (bs : List Byte)
  | lost (cls detail : Nat)
  deriving DecidableEq, Repr

/-- Bytes of one element that go the same way (R298): the address tval shows, the device, their addresses there, the cells
of the replica they come to (R284), and how far their read has come. Bytes of this device are read at issue. -/
structure Run where
  tval : Word
  dev : Nat
  vas : List Nat
  rep : List Nat
  rd : Read
  deriving DecidableEq, Repr

/-- One element of an access: its runs in order; for an element of a field its index, and whether every plane present is
read (R46). -/
structure Elem where
  runs : List Run
  idx : Nat := 0
  full : Bool := true
  deriving DecidableEq, Repr

/-- What the elements of an access become: a scalar load, sign-extended or not, of one register or the pair of LDA; the lanes
of a line load of a type; the value of LDF or the lanes of VLDF, with the field, the plane count and the mode. -/
inductive Shape where
  | scalar (sx : Bool)
  | lanes (ty : Ty)
  | field (f : View) (c : Nat) (near : Bool)
  | fieldLanes (f : View) (c : Nat) (near : Bool)
  deriving DecidableEq, Repr

/-- What a pending register or an open wait depends on (R25, R26). -/
inductive Owe where
  /-- A fault found for a long-latency instruction, taken at the end of its window (R26): class, detail, tval. -/
  | fault (cls detail : Nat) (tval : Word)
  /-- A lease violation found for a long-latency instruction (R243): the address. -/
  | lease (addr : Word)
  /-- A promise or a status that completes when a time is reached: WAITT (R320). -/
  | time (t : Word)
  /-- A wait on a word (WAITC, WAITB; R320): its address operand, its target or mask, whether it is WAITB, and the
  deadline that bounds it (R321). -/
  | word (a : Word) (b : Word) (mask : Bool) (dl : Option Word)
  /-- WAITP (R322): promise, word, mask. -/
  | promise (p : Word) (a : Word) (b : Word)
  /-- BARW (R328): the group's job and handle, and the deadline that bounds it. -/
  | barrier (job h : Nat) (dl : Option Word)
  /-- A SEND (R215): the destination, the entry, the issue time, its number, and the offer in flight: the tag of the request
  for another device, 0 within the package. -/
  | send (dst : Nat) (m : Msg) (t : Word) (n : Nat) (offer : Option Nat)
  /-- OPWAIT (R188): the command id. -/
  | command (id : Nat)
  /-- A command, transfer or code-book load of the issuer that it waits for (R25): cluster, kind and number. -/
  | engine (cl : Nat) (kind : Nat) (id : Nat)
  /-- A load of which another device serves elements, or in which a memory error is still to arrive (R111, R137, R298):
  its elements in order, none for one that is not read, and what they become. -/
  | fetch (els : List (Option Elem)) (how : Shape)
  /-- A SIG, VAMO, SCV, RELQ, CNTSET or store to an SO page waiting for acknowledgements (R285, R298): the tags. -/
  | acks (tags : List Nat)
  /-- STF, VSTF or an optimiser whose elements another device writes (R150, R153): its number. -/
  | writes (n : Nat)
  /-- An AMO (op 0 to 7) or LRW (op 8) that goes to its line's home: with the strand in the migration packet (R129,
  R225), or as a request with a tag (R130). ea, b and e0 as read at issue. -/
  | atomic (op : Nat) (ea b c : Word) (tag : Option Nat)
  /-- The position of a CALLM (R249): job, object and the call's number. -/
  | callm (job h : Nat) (n : Nat)
  /-- The result of a CALLM or CALLQ, or a CALLW (R249-R251): the call's number. -/
  | query (n : Nat)
  /-- LRW waiting in the reservation queue of a line (R132). -/
  | reserve (line : Nat) (ea : Word)
  /-- DLOGH (R290): the cores whose logs are still to be merged, each with the records it held at issue. -/
  | logs (cores : List (Nat × Nat))
  /-- CANCEL waiting for the launches it cancelled (R237): job and handles. -/
  | cancel (job : Nat) (hs : List Nat)
  /-- A table instruction waiting for an event of its unit: the kind and the objects it names. -/
  | table (kind : Nat) (a b : Nat)
  /-- MIGR (R224): the sid of the core and slot it will hold there. -/
  | arrival
  /-- Values that have arrived. -/
  | value (vs : List Word)
  /-- p15 as a call leaves it, arrived (R249). -/
  | bit15 (b : Bool)
  deriving DecidableEq, Repr

/-- An instruction that has issued and not completed (R25, R26). -/
structure Pending where
  /-- The registers its value will be written to, m registers as named at window depth `depth`. -/
  dsts : List Reg
  depth : Nat
  /-- Where its value stands in the last-result file: 0 is l0, 1 is l1, more is shifted out (R65). -/
  lands : List Nat
  src : Owe
  /-- How many more instructions may issue before the strand waits for it (R25). -/
  left : Nat
  /-- How many instructions have issued after it (TCAUSE.WIN, R357). -/
  win : Nat
  xpc : BitVec 48
  /-- l0 and l1 before it, for an instruction that faults and so shifts nothing (R138). -/
  l0 : Word
  l1 : Word
  /-- Its own shifts of the last-result file, and all of them since just before it (R65). -/
  own : Nat
  sh : Nat
  /-- tvec and plv when it issued: its trap reads no later value (R89). -/
  tvec : BitVec 48
  plv : BitVec 2
  /-- The line register it will write (R99). -/
  line : Option (Fin 8) := none
  /-- Whether the strand waits for it at the end of its window; a line instruction has none (R26). -/
  holds : Bool := true
  /-- Whether it accesses an SO page (R285). -/
  so : Bool := false
  deriving DecidableEq, Repr

/-- A store waiting in the store queue (R126): its address as tval shows it, and for memory of this device its cells
and their bytes; for another device the device (or multicast number), the addresses of its bytes there, the bytes, and the
cells of the replica for a mode-C page (R284). kind: 1 a store of the store queue (R126); 10 an element of a line or field
store and 9 an element of an optimiser, which take no place among its 8 (kinds of Req). so: one on an SO page (R285). n: the
number of the field write it belongs to, 0 for none. -/
structure PendStore where
  dev : Nat
  job : Nat
  va : Nat
  vas : List Nat := []
  bytes : List Byte := []
  rep : List Nat := []
  cells : List (Nat × Byte) := []
  kind : Nat := 1
  so : Bool := false
  n : Nat := 0
  deriving DecidableEq, Repr

/-- How a task ends: counted in DONE, FAIL or CANC of its launch record (R220, R237, R243). -/
inductive Ending where
  | done | fail | canc
  deriving DecidableEq, Repr

/-- The ending a strand is under (R237, R243, R359): how it is counted, and the hardware message its gaffer receives (kind,
0 for none, and o1 to o4). -/
structure Doom where
  how : Ending
  kind : Nat
  o : Vector Word 4
  deriving DecidableEq, Repr

/-- A strand: the register items of Table 4.1 and what travels with it. -/
structure Strand where
  /-- The home slot's id (R72). -/
  sid : BitVec 32
  /-- The core it runs on, sid bits 15:4, and its slot there. -/
  core : Nat
  slot : Nat
  status : Status
  /-- Whether it is abroad under R40, where m registers are reached from afar. -/
  stay : Bool
  pc : BitVec 48
  /-- The 8 physical frames of 8 registers; frame f stands at f mod 8 (R62). -/
  frames : Vector Word 64
  /-- The oldest resident frame (R63). -/
  low : Nat
  o : Vector Word 6
  l0 : Word
  l1 : Word
  pw : BitVec 16
  e : Vector Word 8
  k : Vector (Vector Half 64) 8
  t : Vector (Option Stream) 4
  /-- The receive queue (R214), oldest first. -/
  q : List Msg
  tix : BitVec 32
  tcnt : BitVec 32
  lrec : BitVec 16
  job : BitVec 16
  rac : BitVec 20
  trh : BitVec 4
  wsp : BitVec 20
  wlim : BitVec 20
  wdep : BitVec 16
  tvec : BitVec 48
  tcause : BitVec 16
  tval : Word
  xpc : BitVec 48
  plv : BitVec 2
  xplv : BitVec 2
  prio : BitVec 2
  /-- The armed deadline (R321). -/
  armed : Option Word
  /-- The line whose reservation the strand holds (R132). -/
  resv : Option Nat
  stores : List PendStore
  pend : List Pending
  /-- The address of a store to another device that failed, reported at the next release at span scope (R298). -/
  spanErr : Option Word
  /-- What a store that had completed met: class and tval, taken before the next instruction (R137, R284). -/
  storeErr : Option (Nat × Word)
  /-- When the slot last issued, for the watchdog (R363). -/
  lastIssue : Word
  /-- After RESTORE in state 2, the instructions to skip once the one at pc has completed (R368). -/
  skip : Option Nat
  /-- The ending it is under: it issues no more, and ends once its stores are performed (R237, R243). -/
  doom : Option Doom
  /-- Whether its record came from SPAWN or SPAWNH (Table 12.2, T0). -/
  spawned : Bool
  deriving DecidableEq, Repr

/-- A continuation record with its tag (R213, Table 12.2). -/
structure Rec where
  job : BitVec 16
  pc : BitVec 48
  pw : BitVec 16
  lrec : BitVec 16
  prio : BitVec 2
  o : Vector Word 6
  tix : BitVec 32
  wake : Nat
  spawned : Bool
  t1 : Word
  t2 : Word
  /-- When it joined the level it waits at (R241). -/
  since : Word
  /-- Whether the launch unit generated it and it has not started since (R240). -/
  made : Bool
  deriving DecidableEq, Repr

/-- An entry of a core's run queue (Table 12.1): a migrating strand, by sid, or a SPAWNH record. -/
inductive RunEntry where
  | strand (sid : Nat)
  | spawn (r : Rec)
  deriving DecidableEq, Repr

/-- A reservation queue (R132): the line, its holder and its waiters in order. -/
structure Resv where
  line : Nat
  holder : Option Nat
  waiters : List Nat
  deriving DecidableEq, Repr

/-- A hardware message held by the unit that made it (R405). -/
structure HwMsg where
  dst : Nat
  msg : Msg
  deriving DecidableEq, Repr

/-- What a step of a unit concerns: the operands of the rows that have no word. -/
structure Arg where
  sid : Nat := 0
  dev : Nat := 0
  die : Nat := 0
  cl : Nat := 0
  core : Nat := 0
  job : Nat := 0
  h : Nat := 0
  n : Nat := 0
  m : Nat := 0
  rank : Nat := 0
  va : Nat := 0
  size : Nat := 0
  kind : Nat := 0
  v : Word := 0
  ws : List Word := []
  bs : List Byte := []
  kids : List (List Byte) := []
  flag : Bool := false
  /-- The cycle before which the move is not made. -/
  notBefore : Word := 0
  deriving DecidableEq, Repr

/-- The queues of Table 12.1. Clusters are numbered 16*die + cluster, cores by sid bits 15:4. -/
structure Queues where
  task : List (Nat × Rec)
  die : List (Nat × Rec)
  /-- Entries in overflow rings, oldest first: the queue (a cluster, or 1024 + die), the place in the ring, the record. Its
  bytes stand in the ring's memory (R212, R213). -/
  ring : List (Nat × Nat × Rec)
  waits : List (Nat × Rec)
  run : List (Nat × RunEntry)
  resv : List Resv
  /-- LRW requests that found a limit of R132 reached, in order of arrival: line and sid. -/
  input : List (Nat × Nat)
  /-- LRW requests of strands of other devices that wait at a line of this one, with the name each has in its queue. -/
  far : List (Nat × Arg)
  hw : List HwMsg
  /-- Issue pointer of each core, listed when it is not 15 (Table 4.1). -/
  ptr : SMap Nat
  deriving DecidableEq, Repr

/-- A cached leaf translation (R283, R289): cluster, job, page base and size in bytes, the leaf's address and word 0,
what it is pinned for, and the logged flag. -/
structure Tr where
  cl : Nat
  job : Nat
  base : Nat
  size : Nat
  pte : Nat
  w0 : Word
  /-- What keeps it: launches by key, and 0 for LEASE. -/
  pinners : List Nat
  logged : Bool
  deriving DecidableEq, Repr

/-- A move a unit is due to make: a row of the table that has no word, and what it concerns. -/
structure Due where
  ev : Instr
  arg : Arg
  deriving DecidableEq, Repr

/-- A request to another device in flight (R298). -/
structure Req where
  die : Nat
  sid : Nat
  gen : Nat
  dev : Nat
  job : Nat
  /-- The address it names, and those of its bytes. -/
  va : Nat
  vas : List Nat
  /-- 0 load, 1 store, 2 SIG, 3 VAMO.BF16, 4 VAMO.FP32, 5 SCV, 6 RELQ, 7 atomic or LRW, 8 message offer, 9 optimiser,
  10 store of one element, written whole or not at all. -/
  kind : Nat
  t : Word
  /-- What a store writes, and the cells of the replica it updates when acknowledged. -/
  bytes : List Byte
  rep : List Nat
  /-- The number of the field write it belongs to, 0 for none. -/
  n : Nat
  deriving DecidableEq, Repr

/-- A page migration in progress (R292): the address of its leaf entry, the old and new frames, the size, the lines
already moved, and the job and virtual address of the page; a swap partner of the tier policy (R293) stands as a
migration of its own. waiter is the sid of the PGMIG, if any. -/
structure Mig where
  pte : Nat
  old : Nat
  new : Nat
  size : Nat
  moved : Nat
  job : Nat
  va : Nat
  waiter : Option Nat
  swap : Bool
  deriving DecidableEq, Repr

/-- A pin (R287): who took it (a launch's key, 0 for LEASE), the leaf's address, and the page. -/
structure Pin where
  owner : Nat
  pte : Nat
  job : Nat
  va : Nat
  size : Nat
  deriving DecidableEq, Repr

/-- Launches and graphs at the launch units (R232-R240). Records are keyed by job * 65536 + handle. -/
structure Launches where
  pins : List Pin
  /-- Pinned pages an XINV met, with its issuer: their translations go at the last unpin (R291). -/
  deferred : List (Pin × Nat)
  /-- The die whose launch unit holds an active launch or graph. -/
  die : SMap Nat
  /-- A running graph's 64 dependency counts, 128 for a skipped node, and its 64 words of edges. -/
  counts : SMap (List Nat)
  /-- The record caches (R238): die, record, and whether neither it nor its lease set has been rewritten since its last
  completion; most recently used first. -/
  warm : List (Nat × Nat × Bool)
  /-- Cores outside its clusters that hold a launch's image: launch and core (R226). -/
  cores : List (Nat × Nat)
  /-- Records generated so far, by 8 * launch + die. -/
  gen : SMap Nat
  deriving DecidableEq, Repr

/-- A configured barrier group (R326-R328): its object, its members, the sense bit, the current and next arrival
bits (bit 16*cluster + core), its waiters by phase, the arrivals held, and the strands being released. -/
structure Barrier where
  die : Nat
  form : Nat
  group : Nat
  job : Nat
  h : Nat
  members : Nat
  sense : Bool
  cur : Nat
  nxt : Nat
  waitCur : List (Nat × Nat)
  waitNxt : List (Nat × Nat)
  held : List (Nat × Nat)
  releasing : List Nat
  deriving DecidableEq, Repr

/-- A packet put on the fabric (R297). -/
structure Packet where
  dev : Nat
  job : Nat
  /-- 0 store, 1 SIG, 2 VAMO, 3 message, 4 join, 5 leave, 6 collective chunk, 7 reduction chunk, 8 cancel,
  9 obituary, 10 acknowledgement, 11 load request, 12 log call. -/
  kind : Nat
  a : Nat
  b : Nat
  bytes : List Byte
  deriving DecidableEq, Repr

/-- A step of a loaded collective graph (Table 17.4): its four words, its counter, and its progress: bytes received or
shipped, chunks reduced, 1 for a SIGNAL made. -/
structure CStep where
  w : Vector Word 4
  count : Nat
  /-- 0 waiting, 1 ready, 2 done. -/
  st : Nat
  done : Nat
  since : Word
  deriving DecidableEq, Repr

/-- A chunk held for a step that is not ready or for a later run (R310): sending rank, MATCH, run, offset, bytes. -/
structure Chunk where
  rank : Nat
  tag : Nat
  run : Nat
  off : Nat
  bytes : List Byte
  deriving DecidableEq, Repr

/-- A loaded collective graph (R309, R310). -/
structure CGraph where
  key : Nat
  die : Nat
  steps : List CStep
  ranks : List Nat
  rank : Nat
  running : Bool
  run : Nat
  bases : Vector Word 4
  word : Nat
  /-- The launch of the strand that runs it. -/
  launch : Option Nat
  held : List Chunk
  deriving DecidableEq, Repr

/-- The fabric interface of the device (R295-R312). -/
structure Fabric where
  /-- Requests in flight, by 4096 * die + tag. -/
  reqs : SMap Req
  /-- Generations of tags that are not 0. -/
  gens : SMap Nat
  /-- Tags not to be reissued before a time (R298). -/
  rest : SMap Word
  /-- Match-table entries: die, job, GROUP, arrival word (R303). -/
  subs : List (Nat × Nat × Nat × Nat)
  /-- This device's router: subscription bitmaps and versions by GROUP (R300). -/
  bitmap : SMap Nat
  version : SMap Nat
  /-- Aperture contributions by tag * 2^28 + offset: the die whose interface took the byte, and the byte; an entry's presence
  is its mask bit (R306). -/
  apert : SMap (Nat × Byte)
  graphs : List CGraph
  out : List Packet
  /-- log2 of REQTO. -/
  reqto : Nat
  /-- Devices whose obituary has arrived (R383). -/
  dead : List Nat
  /-- Valid lines of mode-C replicas: job * 2^40 + physical line number of the replica (R284). -/
  valid : List Nat
  /-- Link-key epochs by device (R374), renewed every 2^32 flits. -/
  keys : SMap Nat
  /-- The number of the route table firmware loaded last (R295). -/
  routes : Nat
  /-- Additions to words that wait for room in a dirty-page log or for a locked brick: cluster, job, address, addend. -/
  adds : List (Nat × Nat × Nat × Nat)
  deriving DecidableEq, Repr

/-- The device at large (R371-R383). -/
structure Device where
  /-- Images the fabric and the management port offer, in the order they are tried (R371), and the BOOTSEL strap. -/
  fabricImages : List (List Byte)
  portImages : List (List Byte)
  bootsel : Bool
  /-- Fused rollback counters by die, listed when not 0. -/
  rollback : SMap Nat
  /-- Firmware measurement of each booted die. -/
  meas : SMap (List Byte)
  halted : List Nat
  /-- Management sequence numbers: last sent, last received; messages sent, with kind (R376). -/
  sent : Nat
  received : Nat
  outbox : List (Nat × Nat × List Byte)
  /-- The Lehr state: 0 running, 1 entering, 2 in the state, 3 leaving (R378). -/
  lehr : Nat
  lehrArmed : Bool
  pwrWarn : Bool
  /-- Clusters whose drain is under way, drained clusters, 16*die + cluster, and drained dies (R381, R382). -/
  closing : List Nat
  drained : List Nat
  drainedDies : List Nat
  /-- Die and job whose strands are withheld issue cycles in this window, and the number of the window (R377). -/
  withheld : List (Nat × Nat)
  capWindow : Nat
  /-- Key-store slots in use (R374). -/
  slots : List Nat
  /-- Pontils stopped by an unhandled trap (R359), by die. -/
  stopped : List Nat
  /-- Physical addresses of errors, logged at the gaffer of a cluster (R137). -/
  errlog : List (Nat × Nat)
  deriving DecidableEq, Repr

/-- An operator command at a sequencer (Tables 9.2, 9.3, 10.3): its cluster, id, fn6 code (0 APPLY to 7 OPGEN), operand
words a, b, c and e0 to e7 as read at issue, its flags, issuer, job, launch and die, its place in the order of
acceptance, the commands and remaps it waits for, its promise, and its course: 0 waiting, 1 running, 2 to retire; the
units of work done, what it has computed and is about to write (0 an element of Y, 1 one of I; the index; the bytes), and its
status word so far. -/
structure Cmd where
  cl : Nat
  id : Nat
  op : Nat
  a : Word
  b : Word
  c : Word
  e : Vector Word 8
  acc : Bool
  sat : Bool
  nomap : Bool
  la : Nat
  sid : Nat
  job : Nat
  launch : Option Nat
  die : Nat
  seq : Nat
  preds : List Nat
  remaps : List Nat
  promise : Word
  tags : List Nat
  st : Nat
  done : Nat
  puts : List (Nat × Nat × List Byte)
  status : Word
  deriving DecidableEq, Repr

/-- A transfer entry (Table 11.1): cluster and number, its place in the order of acceptance, XFER's operands, issuer, job,
launch and die, the remaps it waits for, its number of chunks, the chunks done, those that are to be reported as failed (with
the reason, the element's address and the physical address), those that have been, its bytes in all, the core whose local store
holds the bitmap, and the destination's map at acceptance, which says what the chunks of a REPACK are. -/
structure Xfer where
  cl : Nat
  n : Nat
  seq : Nat
  a : Word
  b : Word
  c : Word
  e0 : Word
  e1 : Word
  sid : Nat
  job : Nat
  launch : Option Nat
  die : Nat
  remaps : List Nat
  chunks : Nat
  done : List Nat
  spoiled : List (Nat × Nat × Nat × Nat)
  failed : List Nat
  bytes : Nat
  core : Nat
  map : List Nat
  deriving DecidableEq, Repr

/-- An XFER that waits for an entry of its unit (R198, R203): its number, its cluster, its operands and its issuer. -/
structure XWait where
  id : Nat
  cl : Nat
  a : Word
  b : Word
  c : Word
  e0 : Word
  e1 : Word
  sid : Nat
  deriving DecidableEq, Repr

/-- A code-book load in progress (R205): its number, cluster, book, CBLD's operands, the cells of the image, its issuer
and whether it waits. -/
structure BookLoad where
  id : Nat
  cl : Nat
  book : Nat
  a : Word
  b : Word
  keys : List Nat
  sid : Nat
  job : Nat
  detached : Bool
  deriving DecidableEq, Repr

/-- A strand that presents a command or OPWAIT at a sequencer and stalls at it (R160): the cluster, the strand, its pc, and the
instruction. -/
structure Offer where
  cl : Nat
  sid : Nat
  pc : BitVec 48
  ins : Instr
  deriving DecidableEq, Repr

/-- The operator sequencers, operator stores and transfer units (Tables 9.2, 10.1, 11.1). A bit of a retired bitmap is
clear while a command with its id is in flight. Slots are numbered 1024 * cluster + slot, rows 256 * slot number + row;
a row holds the format code it was written in and its leading entries, the others being +0. -/
structure Engines where
  cmds : List Cmd
  offers : List Offer
  /-- Numbers given to commands and remaps in order. -/
  next : Nat
  status : SMap Word
  tags : SMap Nat
  rows : SMap (Nat × List Nat)
  /-- Matrix buffers: cluster, first slot, slots, most recently used first. -/
  bufs : List (Nat × Nat × Nat)
  /-- Acceptance pointers, listed when not 16. -/
  ptr : SMap Nat
  xfers : List Xfer
  xwaits : List XWait
  books : SMap (List Nat)
  loads : List BookLoad
  /-- Outstanding byte counts by cluster. -/
  q : SMap Nat
  deriving DecidableEq, Repr

/-- What an entry of a field table's log changes (R258): the names of logical bits (FRENAME), the whole descriptor (OTSET,
OTINV), or the remap state (FPERM, remap decisions, starts, pass ends and commits). -/
inductive Change where
  | names (l : List (Nat × Nat))
  | whole
  | sweep
  deriving DecidableEq, Repr

/-- An entry of a field table's log: its position, the field, the descriptor before it, the change, and the number of the
call that made it, 0 for a Marver's or an acceptance's. -/
structure FEntry where
  pos : Nat
  key : Nat
  old : Obj
  change : Change
  call : Nat
  deriving DecidableEq, Repr

/-- A die's replica of a field table: A_die and the last A_die reported, whether it is included, the position it must reach
while it rejoins, and the applied changes the translation hardware has not taken up, each with the number that commands
accepted before it lie below (R172). -/
structure FRep where
  die : Nat
  pos : Nat
  told : Nat
  incl : Bool
  sync : Option Nat
  untaken : List (Nat × Nat)
  deriving DecidableEq, Repr

/-- The field table of a job (R258): the position of its last entry, TRIM, the entries kept, its replicas, and the calls that
sleep at a full ring (their number, object, kind and operands). The object table holds each field as the last entry leaves it; a replica is that with the entries it has not applied undone. -/
structure FieldTab where
  job : Nat
  tail : Nat
  trim : Nat
  log : List FEntry
  reps : List FRep
  asleep : List Arg
  deriving DecidableEq, Repr

/-- The part of a remap that one die's Marver sweeps (R272, R273): its cursor, the phase of its group (0 none, 1 locked and
read, 2 journal persisted, 3 written and marked done), the bricks of the group and the frames they lie in, with sizes, the
journal, and the address it is held on. -/
structure Mover where
  die : Nat
  cursor : Nat
  phase : Nat
  bricks : List Nat
  frames : List (Nat × Nat)
  journal : List (Nat × Byte)
  held : Option Nat
  deriving DecidableEq, Repr

/-- A remap requested on a field (R272-R277): the field, its number, the map after each pass, whether it has started,
its current pass, the bricks done (2^32 * holder + brick), the slot of its remap areas, its movers, and whether an error or
the end of its field has stopped it. -/
structure Remap where
  key : Nat
  ticket : Nat
  passes : List (List Nat)
  started : Bool
  pass : Nat
  done : List Nat
  area : Nat
  movers : List Mover
  stopped : Bool
  ended : Bool
  deriving DecidableEq, Repr

/-- A call on a replayed object (R249): its number, the caller's sid, the die it was issued on (8 on another device),
the method and o0 to o3. -/
structure Call where
  n : Nat
  sid : Nat
  die : Nat
  method : Nat
  o : Vector Word 4
  deriving DecidableEq, Repr

/-- A die's replica (R248): the bytes of its state block that are not 0, A_die, the last A_die reported, and, while it
rejoins, the position it must reach. -/
structure Replica where
  die : Nat
  block : SMap Byte
  pos : Nat
  told : Nat
  sync : Option Nat
  deriving DecidableEq, Repr

/-- A CALLQ, or a CALLW (wait), that waits for its floor, with its a operand (R250, R251). -/
structure Query where
  call : Call
  a : Word
  floor : Nat
  wait : Bool
  deriving DecidableEq, Repr

/-- A replayed object (R246-R257): its key, method table, method image, the entries kept (the last one at TAIL), calls
under way to the log home, calls asleep there, replicas, queries, and the last report of the other devices of its
span. -/
structure Replay where
  key : Nat
  methods : List Nat
  image : List Byte
  log : List Call
  sent : List Call
  asleep : List Call
  replicas : List Replica
  queries : List Query
  far : Nat
  deriving DecidableEq, Repr

/-- A SPILL under way (R364): the strand, its issuer, and the save area as the issuer's cluster translates it. -/
structure Spill where
  sid : Nat
  issuer : Nat
  cl : Nat
  job : Nat
  va : Nat
  deriving DecidableEq, Repr

/-- The tier policy (R293): accesses counted in this epoch by frame, the number of the last epoch ended, and leaves that
wait for a victim. -/
structure Tier where
  counts : SMap Nat
  epoch : Nat
  waiting : List Nat
  deriving DecidableEq, Repr

/-- The whole machine. -/
structure State where
  me : Strand
  others : List Strand
  mem : Memory
  /-- 32-byte ECC granules of memory with an uncorrectable error (R137), by key / 32. -/
  bad : List Nat
  clk : Word
  /-- The model's own: steps made, the argument of the free choices (log 7). -/
  ticks : Nat
  /-- The model's own: the counter free values are drawn at (log 7). -/
  free : Nat
  /-- The moves the units owe. -/
  agenda : List Due
  /-- What the move being made concerns. -/
  arg : Arg
  /-- Object-table entries by job * 65536 + handle, listed once written (R263). -/
  obj : SMap Obj
  /-- Translation caches, most recently used first (R283). -/
  tlb : List Tr
  migs : List Mig
  queues : Queues
  launches : Launches
  barriers : List Barrier
  fabric : Fabric
  device : Device
  engines : Engines
  remaps : List Remap
  /-- The remap each die's Marver served last (R276). -/
  marvers : SMap Nat
  /-- The field tables of the jobs (R258). -/
  fieldTabs : List FieldTab
  /-- Object caches (R262): cluster and key, most recently used first. -/
  objCache : List (Nat × Nat)
  tier : Tier
  replays : List Replay
  spills : List Spill
  deriving DecidableEq, Repr

/-- A strand at task start with an all-zero record, in a slot (R61, Table 4.1). -/
def Strand.fresh (sid : BitVec 32) (status : Status) (plv : BitVec 2) : Strand where
  sid := sid
  core := sid.toNat / 16 % 4096
  slot := sid.toNat % 16
  status := status
  stay := false
  pc := 0
  frames := Vector.replicate 64 0
  low := 0
  o := Vector.replicate 6 0
  l0 := 0
  l1 := 0
  pw := 1
  e := Vector.replicate 8 0
  k := Vector.replicate 8 (Vector.replicate 64 0)
  t := Vector.replicate 4 none
  q := []
  tix := 0
  tcnt := 0
  lrec := 0
  job := 0
  rac := 0
  trh := 0
  wsp := 0
  wlim := 0
  wdep := 0
  tvec := 0
  tcause := 0
  tval := 0
  xpc := 0
  plv := plv
  xplv := 0
  prio := 0
  armed := none
  resv := none
  stores := []
  pend := []
  spanErr := none
  storeErr := none
  lastIssue := 0
  skip := none
  doom := none
  spawned := false

/-- The sid of system core 0 of die 0, slot 0 (R371, Table 4.3). -/
def bootSid : BitVec 32 := 0x120#32

/-- The machine right after package power-up: every local store zero, every table empty, the boot ROM of die 0 about
to run at firmware level on system core 0 (R61, R118, R371). -/
def State.reset : State where
  me := Strand.fresh bootSid .idle 2
  others := []
  mem := []
  bad := []
  clk := 0
  ticks := 0
  free := 0
  agenda := (List.range 8).map fun d => { ev := .powerUpBoot, arg := { die := d } }
  arg := {}
  obj := []
  tlb := []
  migs := []
  queues := { task := [], die := [], ring := [], waits := [], run := [], resv := [], input := [], far := [], hw := [], ptr := [] }
  launches := { pins := [], deferred := [], die := [], counts := [], warm := [], cores := [], gen := [] }
  barriers := []
  fabric := { reqs := [], gens := [], rest := [], subs := [], bitmap := [], version := [], apert := [], graphs := [],
              out := [], reqto := 20, dead := [], valid := [], keys := [], routes := 0, adds := [] }
  device := { fabricImages := [], portImages := [], bootsel := false, rollback := [], meas := [], halted := [],
              sent := 0, received := 0, outbox := [], lehr := 0, lehrArmed := false, pwrWarn := false, closing := [], drained := [],
              drainedDies := [], withheld := [], capWindow := 0, slots := [], stopped := [], errlog := [] }
  engines := { cmds := [], offers := [], next := 0, status := [], tags := [], rows := [], bufs := [], ptr := [], xfers := [], xwaits := [],
               books := [], loads := [], q := [] }
  remaps := []
  marvers := []
  fieldTabs := []
  objCache := []
  tier := { counts := [], epoch := 0, waiting := [] }
  replays := []
  spills := []

end Sys2Proof.Machine
end

