-- ==== Sys2Proof/Machine/Ops.lean ====
section
/-! DEFINITION. The named operations the meanings share: places, memory cells, object records, messages, task endings,
taking a trap and returning from one, the monad of a meaning, and the wrappers that issue an instruction. -/

namespace Sys2Proof.Machine

/-! Places. A core index is sid bits 15:4 (Table 4.3): die, cluster, core field. -/

def coreOf (die cl c : Nat) : Nat := die * 512 + cl * 32 + c
def coreDie (k : Nat) : Nat := k / 512 % 8
def coreCl (k : Nat) : Nat := k / 32 % 16
def coreNo (k : Nat) : Nat := k % 32
/-- The cluster of a core among the 128 of the package. -/
def clusterOf (k : Nat) : Nat := k / 32 % 128
/-- Whether the core exists (Table 1.2). -/
def coreExists (k : Nat) : Bool := decide (coreNo k ≤ 16) || (decide (coreNo k ≤ 19) && coreCl k == 0)

def Strand.homeCore (t : Strand) : Nat := t.sid.toNat / 16 % 4096
/-- Whether the strand runs away from its home core (R221). -/
def Strand.abroad (t : Strand) : Bool := t.core != t.homeCore
/-- The special register `home` (R72). -/
def Strand.home (t : Strand) : BitVec 32 := t.sid &&& 0xFFFFFFF0#32
/-- The object key of the strand's launch, none when it belongs to no launch. -/
def Strand.launch? (t : Strand) : Option Nat :=
  if t.lrec = 0 then none else some (t.job.toNat * 65536 + t.lrec.toNat)
def Strand.task (t : Strand) : Bool := t.plv == 0
def Strand.isReady (t : Strand) : Bool := t.status == .ready

/-- The number of this device (SID.DEVICE). -/
def State.devNo (s : State) : Nat := s.me.sid.toNat / 65536

/-! Memory cells. HBM and LP6 cells are keyed by their physical address, below 2^48 (R121); a local-store byte by
2^48 plus its direct L-address (R119); the bytes of another device as this one reads and writes them above (log 5). -/

def lsKey (core off : Nat) : Nat := 2 ^ 48 + core * 2 ^ 20 + off % 2 ^ 20
def remKey (dev job va : Nat) : Nat := 2 ^ 60 + (dev * 65536 + job) * 2 ^ 56 + va
def isLs (k : Nat) : Bool := decide (2 ^ 48 ≤ k) && decide (k < 2 ^ 60)

def State.byte (s : State) (a : Nat) : Byte := s.mem.get a
def State.bytesAt (s : State) (a n : Nat) : List Byte := (List.range n).map fun i => s.mem.get (a + i)
/-- n consecutive bytes as a little-endian number (R3). -/
def State.num (s : State) (a n : Nat) : Nat := leNat (s.bytesAt a n)
def State.word (s : State) (a : Nat) : Word := toW (s.num a 8)
def State.setByte (s : State) (a : Nat) (b : Byte) : State := { s with mem := s.mem.set a b }
def State.setCells (s : State) (cs : List (Nat × Byte)) : State := { s with mem := s.mem.setAll cs }
/-- Consecutive bytes written. -/
def State.setBytes (s : State) (a : Nat) (bs : List Byte) : State :=
  { s with mem := s.mem.setAll ((List.range bs.length).zipWith (fun i b => (a + i, b)) bs) }
def State.setNum (s : State) (a n v : Nat) : State := s.setBytes a (leBytes n v)
def State.setWord (s : State) (a : Nat) (v : Word) : State := s.setNum a 8 v.toNat

/-- Whether a byte's ECC granule holds an uncorrectable error (R137). -/
def State.badAt (s : State) (a : Nat) : Bool := s.bad.contains (a / 32)

/-- An event counter of a die (R315): a word of local store of its system core 0. -/
def State.count (s : State) (die off : Nat) : State :=
  let a := lsKey (coreOf die 0 18) off
  s.setWord a (s.word a + 1)

/-! Object records (R263). -/

def objKey (job h : Nat) : Nat := job * 65536 + h
def Obj.fld (o : Obj) (w lo n : Nat) : Nat := bitsOf o.img.toNat (64 * w + lo) n
def Obj.setFld (o : Obj) (w lo n v : Nat) : Obj := { o with img := BitVec.ofNat 2048 (setBits o.img.toNat (64 * w + lo) n v) }
def Obj.word (o : Obj) (w : Nat) : Nat := o.fld w 0 64
def Obj.kind (o : Obj) : Nat := o.fld 0 0 8
def Obj.valid (o : Obj) : Bool := nbit o.acc.toNat 5
def Obj.empty : Obj := { img := 0, acc := 0 }

def State.obj? (s : State) (key : Nat) : Option Obj := SMap.find key s.obj
def State.objAt (s : State) (key : Nat) : Obj := (s.obj? key).getD Obj.empty
def State.setObj (s : State) (key : Nat) (o : Obj) : State := { s with obj := SMap.put key o s.obj }
def State.modObj (s : State) (key : Nat) (f : Obj → Obj) : State := s.setObj key (f (s.objAt key))
/-- One field of one record written. -/
def State.setObjFld (s : State) (key w lo n v : Nat) : State := s.modObj key fun o => o.setFld w lo n v

/-- The job record of a job number (R234): the valid entry of KIND 4 with that JOBNO (log 11). -/
def findJob (job : Nat) : SMap Obj → Option Nat
  | [] => none
  | (k, o) :: r => if o.valid && o.kind == 4 && o.fld 0 8 16 == job then some k else findJob job r
def State.jobRec? (s : State) (job : Nat) : Option Obj := (findJob job s.obj).map s.objAt
/-- FAULTSID of a job, 0xFFFFFFFF for none (R405). -/
def State.faultSid (s : State) (job : Nat) : Nat := ((s.jobRec? job).map fun o => o.fld 1 0 32).getD 0xFFFFFFFF

/-! Strands. -/

/-- The strand that owns a home slot, by the low 16 bits of its sid. -/
def State.strand? (s : State) (sid : Nat) : Option Strand :=
  if s.me.sid.toNat % 65536 = sid % 65536 then some s.me
  else s.others.find? fun t => t.sid.toNat % 65536 == sid % 65536

def State.modStrand (s : State) (sid : Nat) (f : Strand → Strand) : State :=
  if s.me.sid.toNat % 65536 = sid % 65536 then { s with me := f s.me }
  else { s with others := s.others.map fun t => if t.sid.toNat % 65536 == sid % 65536 then f t else t }

def State.strands (s : State) : List Strand := s.me :: s.others

/-- Every strand changed in one way. -/
def State.allStrands (s : State) (f : Strand → Strand) : State := { s with me := f s.me, others := s.others.map f }

/-- The strand made the one that moves; the one that was joins the others. -/
def State.focus (s : State) (sid : Nat) : State :=
  if s.me.sid.toNat % 65536 = sid % 65536 then s
  else
    match s.others.find? fun t => t.sid.toNat % 65536 == sid % 65536 with
    | none => s
    | some t => { s with me := t, others := s.me :: s.others.filter fun u => u.sid.toNat % 65536 != sid % 65536 }

/-- Whether a slot holds a strand in the sense of R215. -/
def State.slotTaken (s : State) (sid : Nat) : Bool :=
  match s.strand? sid with
  | some t => t.status != .idle
  | none => false

/-- Whether a slot of a core can be given to a strand: no strand's home and no strand abroad there. -/
def State.slotFree (s : State) (core slot : Nat) : Bool :=
  s.strands.all fun t => t.status == .idle ||
    (!(t.homeCore == core && t.sid.toNat % 16 == slot) &&
      !(t.core == core && t.slot == slot && t.abroad && t.status == .ready))

/-- A strand put into its home slot: it replaces what stood there. -/
def State.putStrand (s : State) (t : Strand) : State :=
  if s.me.sid.toNat % 65536 = t.sid.toNat % 65536 then { s with me := t }
  else { s with others := t :: s.others.filter fun u => u.sid.toNat % 65536 != t.sid.toNat % 65536 }

def State.due (s : State) (ev : Instr) (arg : Arg := {}) : State := { s with agenda := s.agenda ++ [({ ev := ev, arg := arg } : Due)] }

/-- One of several choices the spec leaves open; a lone one is taken without a choice. -/
def State.choose {α : Type} (s : State) : List α → Option α
  | [] => none
  | [x] => some x
  | x :: r => (x :: r)[Config.pick s.ticks % (r.length + 1)]?

/-! Messages (R214, R405). -/

/-- A hardware message: its kind stands in o0 and in H0 bits 47:32, the job it concerns in H0 bits 63:48 (R214). -/
def hwMsg (kind job : Nat) (o1 o2 o3 o4 : Word) : Msg where
  h0 := toW (0xFFFFFFFF + kind * 2 ^ 32 + job * 2 ^ 48)
  o := #v[toW kind, o1, o2, o3, o4, 0]

/-- A hardware message handed to the unit that holds it until it is taken; 0xFFFFFFFF is nobody (R405). -/
def State.hwSend (s : State) (dst kind job : Nat) (o1 o2 o3 o4 : Word) : State :=
  if dst = 0xFFFFFFFF then s
  else
    { s with queues := { s.queues with hw := s.queues.hw ++ [HwMsg.mk dst (hwMsg kind job o1 o2 o3 o4)] } }.due
      .hardwareMessageDelivery

/-- The same with every payload word given: o0 holds the kind in its low 16 bits (Table 11.5). -/
def State.hwPost (s : State) (dst job : Nat) (o : Vector Word 6) : State :=
  if dst = 0xFFFFFFFF then s
  else
    let m : Msg := { h0 := toW (0xFFFFFFFF + wbits o[0] 0 16 * 2 ^ 32 + job * 2 ^ 48), o }
    { s with queues := { s.queues with hw := s.queues.hw ++ [HwMsg.mk dst m] } }.due .hardwareMessageDelivery

/-- Slot 0 of the gaffer of a cluster of the package, and slot 0 of system core 0 of a die, as destinations: 2^32 marks a
slot of this device, whatever its number. -/
def gafferSid (cl : Nat) : Nat := 2 ^ 32 + coreOf (cl / 16) (cl % 16) 16 * 16
def sysSid (die : Nat) : Nat := 2 ^ 32 + coreOf die 0 18 * 16
/-- Whether a destination lies on this device. -/
def State.isHere (s : State) (dst : Nat) : Bool := dst / 2 ^ 32 == 1 || dst / 65536 == s.devNo

/-- An entry enqueued in a slot's receive queue; none when the queue is full. A parked strand resumes (R223). -/
def State.enqueue (s : State) (sid : Nat) (m : Msg) : Option State :=
  match s.strand? sid with
  | none => none
  | some t =>
    if 8 ≤ t.q.length then none
    else some (s.modStrand sid fun t =>
      { t with q := t.q ++ [m], status := if t.status == .parked true then .ready else t.status })

/-! Reservations (R132, R133). -/

def lineOf (pa : Nat) : Nat := pa / 256

/-- home_of of R121: the core that is home to a line of HBM or LP6; its gaffer is core 16. -/
def homeOf (pa : Nat) : Nat :=
  let lp6 := nbit pa 47
  let die := if lp6 then bitsOf pa 39 3 else bitsOf pa 37 3
  let n := if lp6 then bitsOf pa 8 31 else bitsOf pa 8 29
  let ch := (bitsOf n 0 5) ^^^ (bitsOf n 5 5) ^^^ (bitsOf n 10 5)
  coreOf die (ch / 2) (n % 17)

/-- A drained cluster's lines are served by cluster c xor 1, or by the next cluster in service (R381). -/
def nextInService (drained : List Nat) (die : Nat) : Nat → Nat → Nat
  | 0, c => c
  | n + 1, c => if drained.contains (die * 16 + c) then nextInService drained die n ((c + 1) % 16) else c
def State.serve (s : State) (k : Nat) : Nat :=
  let die := coreDie k
  if s.device.drained.contains (clusterOf k) then
    let c := coreCl k ^^^ 1
    coreOf die (nextInService s.device.drained die 16 c) (coreNo k)
  else k
/-- The core that serves a physical line. -/
def State.home (s : State) (pa : Nat) : Nat := s.serve (homeOf pa)

/-- The holder of a line leaves: the next waiter is granted, or the line is freed. -/
def State.passOn (s : State) (line : Nat) : State :=
  match s.queues.resv.find? fun r => r.line == line with
  | none => s
  | some r =>
    if r.waiters.isEmpty then
      { s with queues := { s.queues with resv := s.queues.resv.filter fun r => r.line != line } }
    else
      { s with queues := { s.queues with resv := s.queues.resv.map fun (r : Resv) =>
          if r.line == line then { r with holder := none } else r } }.due .reservationGrant { n := line }

/-- A waiter withdrawn from every reservation queue. -/
def State.unwait (s : State) (sid : Nat) : State :=
  { s with queues := { s.queues with
      resv := s.queues.resv.map fun (r : Resv) => { r with waiters := r.waiters.filter fun w => w != sid % 65536 }
      input := s.queues.input.filter fun x => x.2 != sid % 65536 } }

/-- A strand's reservation passed on by an event, and counted on the die of the line's home, where that is in this device
(R133). -/
def State.dropResv (s : State) : State :=
  match s.me.resv with
  | none => s
  | some line =>
    let s := ({ s with me := { s.me with resv := none } }).passOn line
    if 2 ^ 52 ≤ line then s else s.count (coreDie (homeOf (line * 256))) 0xFE048

/-! Barriers (R329): a withdrawn arrival clears its bit. -/

def clearBit (v i : Nat) : Nat := if nbit v i then v - 2 ^ i else v

def Barrier.withdraw (b : Barrier) (sid : Nat) : Barrier :=
  { b with
    cur := b.waitCur.foldl (fun v w => if w.1 == sid then clearBit v w.2 else v) b.cur
    nxt := b.waitNxt.foldl (fun v w => if w.1 == sid then clearBit v w.2 else v) b.nxt
    waitCur := b.waitCur.filter fun w => w.1 != sid
    waitNxt := b.waitNxt.filter fun w => w.1 != sid
    held := b.held.filter fun w => w.1 != sid }

def State.withdrawBar (s : State) (sid : Nat) : State :=
  { s with barriers := s.barriers.map fun b => b.withdraw (sid % 65536) }

/-! Memory errors (R137). -/

/-- The die that holds a cell of this device, for counters. -/
def cellDie (k : Nat) : Nat := if isLs k then coreDie (k / 2 ^ 20 % 4096) else coreDie (homeOf k)
/-- The cluster whose gaffer logs an error at a cell (R137). -/
def cellCluster (k : Nat) : Nat := if isLs k then clusterOf (k / 2 ^ 20 % 4096) else clusterOf (homeOf k)

/-- An uncorrectable error counted and logged (R137, Table 18.2). -/
def State.logError (s : State) (k : Nat) : State :=
  let s := s.count (cellDie k) 0xFE008
  { s with device := { s.device with errlog := s.device.errlog ++ [(cellCluster k, k)] } }

/-! The end of a task (R220, R237, R243). -/

/-- The word of the launch record that counts an ending (Table 13.1). -/
def Ending.word : Ending → Nat
  | .done => 10 | .fail => 11 | .canc => 12

/-- Whether every task of a launch is counted. -/
def launchCounted (o : Obj) : Bool := o.fld 10 0 40 + o.fld 11 0 40 + o.fld 12 0 40 == o.fld 9 0 40

/-- n tasks of a launch counted (R240). -/
def State.countTasks (s : State) (key : Nat) (how : Ending) (n : Nat) : State :=
  s.modObj key fun o => o.setFld how.word 0 40 (o.fld how.word 0 40 + n)

/-- A store of this device's memory performed: granules in error are not written (R137), and the error is taken before the
strand's next instruction. -/
def State.perform (s : State) (sid : Nat) (p : PendStore) : State :=
  let t := s.setCells (p.cells.filter fun c => !s.badAt c.1)
  match p.cells.find? fun c => s.badAt c.1 with
  | none => t
  | some c => (t.logError c.1).modStrand sid fun t => { t with storeErr := some (8, toW p.va) }

/-- A store (kind 1) or SIG (kind 2) on its way to the root of a multicast group (R301): where this device is the root
its delivery here is due. -/
def State.toGroup (s : State) (g job va kind : Nat) (bs : List Byte) : State :=
  s.due .multicastDelivery { flag := true, n := g, job, va, kind, bs }

/-- The moving strand is replaced by what its slot holds next; the slots it leaves are due to be filled (R241). -/
def State.freed (s : State) (t : Strand) : State :=
  let core := s.me.core
  let far := s.me.abroad
  let s := { s with me := t }.due .slotFill { core := t.homeCore }
  if far then s.due .slotFill { core } else s

/-- The strand's task ends at an instruction boundary with its stores performed: streams ended, reservation passed on, the
launch's counter advanced, the receive queue dropped and counted, the slot idle. -/
def State.endTask (s : State) (how : Ending) : State :=
  let s := s.dropResv
  let s := (s.unwait s.me.sid.toNat).withdrawBar s.me.sid.toNat
  let s := match s.me.launch? with
    | some key => s.countTasks key how 1
    | none => s
  let die := coreDie s.me.homeCore
  let s := s.me.q.foldl (fun s _ => s.count die 0xFE028) s
  s.freed (Strand.fresh s.me.sid .idle 0)

/-- Whether a store, SIG, VAMO, atomic or optimiser of the strand waits for its acknowledgement. -/
def State.unacked (s : State) : Bool :=
  s.fabric.reqs.any fun r => r.2.sid % 65536 == s.me.sid.toNat % 65536 && r.2.kind != 0 && r.2.kind != 8

/-- Whether the strand's stores are performed and acknowledged. -/
def State.storesDone (s : State) : Bool := s.me.stores.isEmpty && !s.unacked

/-- The strand starts for a core; it issues nothing until it holds a slot there. -/
def State.depart (s : State) (core reason : Nat) : State :=
  let s := if s.me.abroad then s.due .slotFill { core := s.me.core } else s
  { s with me := { s.me with status := .transit core reason } }.due .migrationArrival
    { sid := s.me.sid.toNat, core, n := reason }

/-- The ending a strand is under goes on: it waits for the strand's stores alone, an abroad strand returns home first, and
then the task ends and its gaffer is told (R237, R243). -/
def State.endDoomed (s : State) : State :=
  match s.me.doom with
  | none => s
  | some d =>
    let t := s.me
    let held := match t.status with
      | .idle | .spilled _ _ | .transit _ _ => true
      | _ => !s.storesDone
    if held then s
    else if t.abroad then s.depart t.homeCore 5
    else
      let s := s.endTask d.how
      if d.kind = 0 then s
      else s.hwSend (gafferSid (clusterOf t.homeCore)) d.kind t.job.toNat d.o[0] d.o[1] d.o[2] d.o[3]

/-- The strand is to end: it owes and awaits nothing any more, and its ending goes on at once. -/
def State.condemn (s : State) (d : Doom) : State :=
  ((({ s with me := { s.me with doom := some d, pend := [] } }).unwait s.me.sid.toNat).withdrawBar s.me.sid.toNat).endDoomed

/-! Traps (21_traps_and_preemption). -/

/-- tcause of a class, a window count and a detail (Table 21.2). -/
def causeWord (cls win detail : Nat) : BitVec 16 := BitVec.ofNat 16 (cls + win * 64 + detail * 1024)

/-- pc with bit 0 taken as 0. -/
def even48 (a : BitVec 48) : BitVec 48 := a &&& 0xFFFFFFFFFFFE#48

/-- Whether a trap of an instruction is unhandled under a trap vector (R359). -/
def unhandled (tvec : BitVec 48) (at_ : BitVec 48) : Bool := tvec == 0 || even48 tvec == at_

/-- A Pontil core (Table 1.2). -/
def isPontil (k : Nat) : Bool := coreNo k == 17 && coreCl k == 0

/-- A message to the management host, numbered 1, 2 and so on modulo 2^32 (R376); the last 256 are kept. -/
def State.report (s : State) (kind : Nat) (body : List Byte) : State :=
  let n := (s.device.sent + 1) % 2 ^ 32
  let box := s.device.outbox ++ [(n, kind, body)]
  { s with device := { s.device with sent := n, outbox := box.drop (box.length - 256) } }

/-- The outcome of an unhandled trap (R359) at a level: a task ends with FAIL and its gaffer is told; another strand's slot
parks and system core 0 is told; system core 0 reports over the management port; a Pontil stops. -/
def State.unhandledTrap (s : State) (plv : BitVec 2) (cause : BitVec 16) (tval : Word) (xpc : BitVec 48) : State :=
  let t := s.me
  let sid := t.sid.toNat
  let die := coreDie t.homeCore
  let c := cause.setWidth 64
  let x := xpc.setWidth 64
  let w := t.sid.setWidth 64
  if plv = 0 then s.condemn { how := .fail, kind := 0x18, o := #v[c, tval, x, w] }
  else
    let s := { s with me := { s.me with status := .parked false } }
    if t.homeCore % 512 = coreOf 0 0 18 then
      s.report 0x18 (leBytes 2 cause.toNat ++ leBytes 8 tval.toNat ++ leBytes 6 xpc.toNat ++ leBytes 4 sid)
    else
      let s := s.hwSend (sysSid die) 0x18 t.job.toNat c tval x w
      if isPontil t.homeCore then
        { s with device := { s.device with stopped := s.device.stopped ++ [die] } }.due .replicaExclusion
          { die, kind := 1 }
      else s

/-- The wait of a strand for what a command, transfer, code-book load, remap or run that it issued comes to: it runs on
whatever befalls the strand (Table 21.5). -/
def Pending.isEngine (p : Pending) : Bool :=
  match p.src with
  | .engine _ _ _ => true
  | .command _ => p.own == 0
  | .table 1 _ _ => true
  | .table 7 _ _ => true
  | _ => false

def Ahead.isLost : Ahead → Bool
  | .lost _ _ _ => true
  | _ => false

/-- A failed element fetched ahead has been raised: it is read again from there on (R113). -/
def Stream.forget (st : Stream) : Stream := { st with ahead := st.ahead.takeWhile fun x => !x.isLost }

/-- Taking a trap (R358) with the vector and the level in force when its instruction issued (R89): tcause, tval, xpc
written, xplv := plv, plv unchanged, pc at the vector with bit 0 taken as 0. Every other register stays as it is.
Instructions that issued before a SPILL withdrew this one count in WIN (R368). A store error reported here is reported no
more (R298). at_ is the address of the instruction that traps. -/
def State.takeTrap (s : State) (tvec : BitVec 48) (plv : BitVec 2) (cls win detail : Nat) (tval : Word)
    (xpc at_ : BitVec 48) : State :=
  let cause := causeWord cls (win + s.me.skip.getD 0) detail
  let s := { s with me := { s.me with skip := none } }
  if unhandled tvec at_ then s.unhandledTrap plv cause tval xpc
  else
    { s with me := { s.me with
        tcause := cause, tval := tval, xpc := xpc, xplv := plv, pc := even48 tvec
        t := s.me.t.map fun x => x.map Stream.forget
        pend := s.me.pend.map fun (p : Pending) => if p.isEngine then { p with holds := false } else p
        spanErr := if cls = 8 ∧ detail = 1 then none else s.me.spanErr } }

/-- A lease violation (R243): the task ends counted in FAIL, its gaffer is told, its handler is not entered. -/
def State.leaseEnd (s : State) (addr : Word) (pc : BitVec 48) : State :=
  s.condemn { how := .fail, kind := 0x13, o := #v[addr, pc.setWidth 64, s.me.sid.setWidth 64, 0] }

def Pending.isFault (p : Pending) : Bool :=
  match p.src with
  | .fault _ _ _ => true
  | .lease _ => true
  | _ => false

/-- A value owed that has arrived and is still to be delivered. -/
def Pending.isValue (p : Pending) : Bool :=
  match p.src with
  | .value _ => true
  | .bit15 _ => true
  | _ => false

/-- A place of the last-result file no value comes to: what would have arrived has been written over or shifted out. -/
def gone : Nat := 2 ^ 16

/-- What an open instruction q keeps when the shifts of the open instruction p are taken back: an earlier one moves up, a
later one finds before it what stood before p. -/
def Pending.closeUp (p q : Pending) : Pending :=
  if p.sh < q.sh then { q with lands := q.lands.map (· - p.own), sh := q.sh - p.own }
  else
    match p.sh - p.own - q.sh with
    | 0 => { q with l0 := p.l0, l1 := p.l1 }
    | 1 => { q with l1 := p.l0 }
    | _ => q

/-- The last-result file as if an open instruction had not shifted it: its own places close up, for the values that stand
there and for those still owed (R65, R138). -/
def unshift (p : Pending) (t : Strand) : Strand :=
  if p.own = 0 then t
  else
    let t := if p.lands.contains 0 then { t with l0 := p.l0, l1 := p.l1 }
      else if p.lands.contains 1 then { t with l1 := p.l0 } else t
    { t with pend := t.pend.map p.closeUp }

/-- The earliest fault the strand owes, with no window left: the strand issues no more before it is taken. -/
def closeFault : List Pending → List Pending
  | [] => []
  | p :: r => if p.isFault then { p with left := 0 } :: r else p :: closeFault r

/-- Whether a register is pending because of an open instruction (R73). -/
def Pending.owing (p : Pending) : Bool := p.line.isSome || p.dsts.any (· != .z) || p.lands.any fun n => decide (n < 2)

/-- Whether no register of the strand is pending, but for values that have arrived. -/
def Strand.free (t : Strand) : Bool := t.pend.all fun p => p.isFault || p.isValue || !p.owing

/-- An abroad strand starts for its home slot, once no register is pending (R73, R229); a fault it owes then ends its
window at once. -/
def State.goHome (s : State) : State :=
  if s.me.free then
    { s with me := { s.me with pend := s.me.pend.map fun (p : Pending) => if p.isFault then { p with left := 0 } else p } }.depart
      s.me.homeCore 5
  else { s with me := { s.me with pend := closeFault s.me.pend } }

/-- The fault owed that may be taken now (R357): the earliest one, and for a trap only once every earlier open instruction
but an engine command has completed (Table 21.5); a lease violation waits for none (R243). -/
def dueFault : List Pending → Option Pending
  | [] => none
  | p :: r =>
    if p.isFault then some p
    else if p.isEngine then dueFault r
    else
      match r.find? Pending.isFault with
      | some q =>
        match q.src with
        | .lease _ => some q
        | _ => none
      | none => none

/-- The earliest fault the strand owes is taken (R357, R358): an abroad strand returns home first, earlier instructions
complete first, later faults are discarded, other pending values stay. -/
def State.takeOwed (s : State) : State :=
  match dueFault s.me.pend with
  | none => { s with me := { s.me with pend := closeFault s.me.pend } }
  | some p =>
    match p.src with
    | .lease a => s.leaseEnd a p.xpc
    | .fault cls detail tval =>
      if s.me.abroad then s.goHome
      else
        let t := unshift p s.me
        { s with me := { t with pend := t.pend.filter fun p => !p.isFault } }.takeTrap p.tvec p.plv cls p.win detail tval p.xpc p.xpc
    | _ => s

/-- An owed fault as a pending entry with no window left. -/
def oweNow (s : State) (src : Owe) : Pending where
  dsts := []
  depth := 0
  lands := []
  src := src
  left := 0
  win := 0
  xpc := s.me.pc
  l0 := s.me.l0
  l1 := s.me.l1
  own := 0
  sh := 0
  tvec := s.me.tvec
  plv := s.me.plv

/-- The instruction at pc traps with no window. An earlier owed fault is taken in its place (R357); an abroad strand
returns home first (R358); a strand that still owes values waits for them. -/
def State.raise (s : State) (cls detail : Nat) (tval : Word) : State :=
  if s.me.pend.any Pending.isFault then s.takeOwed
  else if s.me.pend.all Pending.isEngine && !s.me.abroad then s.takeTrap s.me.tvec s.me.plv cls 0 detail tval s.me.pc s.me.pc
  else
    let s := { s with me := { s.me with pend := s.me.pend ++ [oweNow s (.fault cls detail tval)] } }
    if s.me.abroad then s.goHome else s

/-- The instruction at pc breaks its lease: an earlier owed fault is taken in its place, and otherwise the task ends. -/
def State.raiseLease (s : State) (addr : Word) : State :=
  if s.me.pend.any Pending.isFault then s.takeOwed else s.leaseEnd addr s.me.pc

/-! The monad of a meaning. A meaning runs on the state with pc already past the instruction; a stop discards what it
did, so a trap leaves no other effect (R94, R138). -/

inductive Stop where
  /-- A trap of a class with its detail and tval (Table 21.1). -/
  | trap (cls detail : Nat) (tval : Word)
  /-- An access outside the lease set (R243). -/
  | lease (addr : Word)
  /-- A home item is named abroad: the strand returns home and executes the instruction there (R73). -/
  | home
  /-- The instruction needs an owed value that a fault will never deliver: the fault is taken now. -/
  | owed
  /-- An uncorrectable error in a cell read (R137): the memory-error trap with tval, the error counted and logged. -/
  | bad (k : Nat) (tval : Word)
  /-- The strand stays at the instruction and nothing has changed: it waits (R68, R69, R26). -/
  | wait
  /-- The same in a wait that the watchdog does not count (R363): a read of q or IDLE. -/
  | rest
  /-- The strand stays at the instruction, in the state given. -/
  | hold (s : State)
  /-- The machine stops. -/
  | halt (f : Fault)

abbrev M := StateT State (Except Stop)

def trap {α : Type} (cls detail : Nat) (tval : Word) : M α := fun _ => .error (.trap cls detail tval)
/-- Class 3 with a detail of Table 21.2. -/
def opFault {α : Type} (detail : Nat) (tval : Word) : M α := trap 3 detail tval
def illegalState {α : Type} (tval : Word := 0) : M α := trap 7 0 tval
def stop {α : Type} (x : Stop) : M α := fun _ => .error x
def need (c : Bool) (x : M Unit) : M Unit := if c then pure () else x
def gets' {α : Type} (f : State → α) : M α := fun s => .ok (f s, s)
def upd (f : State → State) : M Unit := fun s => .ok ((), f s)
def updMe (f : Strand → Strand) : M Unit := fun s => .ok ((), { s with me := f s.me })

abbrev Out := Host.Outcome State Fault Refusal

/-- The state an instruction leaves when it stops before any effect. -/
def stopped (s : State) : Stop → Out
  | .trap cls detail tval => .next (s.raise cls detail tval)
  | .lease a => .next (s.raiseLease a)
  | .home => .next s.goHome
  | .owed => .next s.takeOwed
  | .bad k tval => .next ((s.logError k).raise 8 0 tval)
  | .wait => .next s
  | .rest => .next s
  | .hold t => .next t
  | .halt f => .fault f

def finish (s : State) : Except Stop (Unit × State) → Out
  | .ok (_, t) => .next t
  | .error x => stopped s x

/-- One more instruction has issued after those still open (R25, TCAUSE.WIN). -/
def Pending.tick (p : Pending) : Pending := { p with left := if p.holds then p.left - 1 else p.left, win := p.win + 1 }

/-- An instruction of n bytes issues: pc moves past it, open windows count it. -/
def State.issue (s : State) (n : Nat) : State :=
  { s with me := { s.me with
      pc := s.me.pc + BitVec.ofNat 48 n, lastIssue := s.clk, pend := s.me.pend.map Pending.tick } }

/-- Predicate p of the strand; p0 is 1 (R67). -/
def Strand.pred (t : Strand) (p : Nat) : Bool := p == 0 || t.pw.getLsbD p

/-- Whether the guard lets the instruction execute (R24). -/
def Strand.guarded (t : Strand) (g : Guard) : Bool := t.pred g.val

/-- A predicate is read from pw: while pw is owed its reader waits (R26), or takes the fault that owes it (log 14). -/
def Strand.pwOwed (t : Strand) : Option Stop :=
  (t.pend.find? fun p => p.dsts.contains .pw).map fun p => if p.isFault then .owed else .wait

/-- What holds the instruction at pc before its guard is known. -/
def Strand.guardHeld (t : Strand) (g : Guard) : Option Stop := if g = 0 then none else t.pwOwed

/-- An instruction of n bytes with a guard and no window (R24, R39). A strand staying abroad under R40 returns home
before an instruction of any other kind. -/
def short (n : Nat) (g : Guard) (body : M Unit) (s : State) : Out :=
  if s.me.stay then .next s.goHome
  else
    match s.me.guardHeld g with
    | some x => stopped s x
    | none => if s.me.guarded g then finish s (body (s.issue n)) else .next (s.issue n)

/-- The last-result file shifted by n values still to arrive (R26, R65). -/
def shifts (n : Nat) (t : Strand) : Strand :=
  { t with
    l1 := if n = 0 then t.l1 else t.l0
    pend := t.pend.map fun (p : Pending) => { p with lands := p.lands.map (· + n), sh := p.sh + n } }

/-- Places in the last-result file of n values just issued, the last in l0; a value for l1 stands in both (R65). -/
def landsOf (ds : List Reg) : List Nat :=
  (List.range ds.length).reverse ++ (if ds.contains .l1 then [1] else [])

/-- A register that is not a place of the last-result file and not z. -/
def Reg.kept : Reg → Bool
  | .l0 | .l1 | .z => false
  | _ => true

/-- An open instruction with no place in the last-result file. -/
def Strand.opened (t : Strand) (src : Owe) (la : Nat) (xpc : BitVec 48) : Pending where
  dsts := []
  depth := t.wdep.toNat
  lands := []
  src := src
  left := la
  win := 0
  xpc := xpc
  l0 := t.l0
  l1 := t.l1
  own := 0
  sh := 0
  tvec := t.tvec
  plv := t.plv

/-- An open instruction recorded: ds are the registers it will write. -/
def State.open (s : State) (ds : List Reg) (src : Owe) (la : Nat) (xpc : BitVec 48) : State :=
  let p : Pending := { s.me.opened src la xpc with
    dsts := ds.filter Reg.kept, lands := landsOf ds, own := ds.length, sh := ds.length }
  let t := shifts ds.length s.me
  { s with me := { t with pend := t.pend ++ [p] } }

/-- The line register an open instruction will write (R99), and how it holds the strand: the latest one recorded. -/
def State.openLine (s : State) (k : Option (Fin 8)) (holds : Bool) : State :=
  let put : List Pending → List Pending
    | [] => []
    | p :: r => { p with line := k, holds } :: r
  { s with me := { s.me with pend := (put s.me.pend.reverse).reverse } }

/-- A long-latency instruction with a window of la instructions (R25, R26): a fault found for it is taken at the end of
the window. ds are the registers it writes, k the line register. -/
def finishLong (n la : Nat) (ds : List Reg) (k : Option (Fin 8)) (s : State) : Except Stop (Unit × State) → Out
  | .ok (_, t) => .next t
  | .error (.trap cls detail tval) =>
    if la = 0 || s.me.pend.any Pending.isFault then .next (s.raise cls detail tval)
    else .next (((s.issue n).open ds (.fault cls detail tval) la s.me.pc).openLine k true)
  | .error (.lease a) =>
    if la = 0 || s.me.pend.any Pending.isFault then .next (s.raiseLease a)
    else .next (((s.issue n).open ds (.lease a) la s.me.pc).openLine k true)
  | .error (.bad c tval) =>
    if la = 0 || s.me.pend.any Pending.isFault then .next ((s.logError c).raise 8 0 tval)
    else .next ((((s.logError c).issue n).open ds (.fault 8 0 tval) la s.me.pc).openLine k true)
  | .error x => stopped s x

/-- A long-latency instruction that writes a line register, or none. -/
def longLine (n : Nat) (g : Guard) (la : Nat) (ds : List Reg) (k : Option (Fin 8)) (body : M Unit) (s : State) : Out :=
  if s.me.stay then .next s.goHome
  else
    match s.me.guardHeld g with
    | some x => stopped s x
    | none => if s.me.guarded g then finishLong n la ds k s (body (s.issue n)) else .next (s.issue n)

def long (n : Nat) (g : Guard) (la : Nat) (ds : List Reg) (body : M Unit) (s : State) : Out := longLine n g la ds none body s

/-- The window of an X-format command: la4 = 15 is detached, and its faults are taken at once with WIN = 0 (R25,
R357). -/
def window (la : Look) : Nat := if la.val = 15 then 0 else la.val

/-- The levels of R10. -/
def supervisor : BitVec 2 := 1

/-- An instruction above the strand's level raises the privilege trap, before its guard (R39 step 3, R24). -/
def atLevel (lvl : BitVec 2) (w : Nat) (run : State → Out) (s : State) : Out :=
  if s.me.plv < lvl then .next (s.raise 2 0 (toW w)) else run s

/-- An encoding that is illegal on this kind of core (R40, R97): decided with the encoding, before level and guard. -/
def legalIf (c : Bool) (w : Nat) (run : State → Out) (s : State) : Out :=
  if c then run s else .next (s.raise 1 0 (toW w))

/-- An open instruction whose destination in the frame file fails a test gives it up: z stands in its place. -/
def Pending.keepM (p : Pending) (keep : Nat → Bool) : Pending :=
  { p with dsts := p.dsts.map fun x =>
      match x with
      | .m j => if keep (p.depth * 8 + j.val) then x else .z
      | _ => x }

/-- A register written now is no longer awaited by an earlier instruction. -/
def Strand.claim (t : Strand) (r : Reg) : Strand :=
  match r with
  | .m i => { t with pend := t.pend.map fun (p : Pending) => p.keepM fun n => n != t.wdep.toNat * 8 + i.val }
  | _ => { t with pend := t.pend.map fun (p : Pending) => { p with dsts := p.dsts.map fun x => if x = r then .z else x } }

def Strand.claims (t : Strand) (ds : List Reg) : Strand := ds.foldl Strand.claim t

/-- The strand waits for src before it goes on past its window; ds are the registers that become pending, which no earlier
instruction writes any more (R26). -/
def await (ds : List Reg) (src : Owe) (la : Nat) : M Unit := do
  let s ← get
  set ({ s with me := s.me.claims ds }.open ds src la (s.me.pc - 4))

/-- No register of the strand is pending (R73); a fault the strand owes is taken first (log 14). -/
def settledAll : M Unit := fun s =>
  if s.me.pend.any Pending.isFault then .error .owed
  else if s.me.pend.any Pending.owing then .error .wait
  else .ok ((), s)

end Sys2Proof.Machine
end

