-- ==== Sys2Proof/Machine/Flags.lean ====
section
/-! DEFINITION. Predicates (R67): pw holds p0 to p15, p0 always 1; a write to p0 is discarded. -/

namespace Sys2Proof.Machine

/-- One bit of the predicate word replaced. -/
def withBit (pw : BitVec 16) (i : Nat) (b : Bool) : BitVec 16 :=
  if b then pw ||| (1#16 <<< i) else pw &&& ~~~(1#16 <<< i)

/-- pw is not owed. -/
def pwHere : M Unit := fun s =>
  match s.me.pwOwed with
  | some x => .error x
  | none => .ok ((), s)

/-- A predicate written through its designator: no scalar register is written, so nothing shifts (R65). -/
def setPred (p : Pred) (b : Bool) : M Unit :=
  if p.val = 0 then pure ()
  else do
    pwHere
    updMe fun t => { t with pw := withBit t.pw p.val b }

/-- A predicate read: p0 gives 1 (R81). -/
def getPred (p : Pred) : M Bool :=
  if p.val = 0 then pure true
  else do
    pwHere
    gets' fun s => s.me.pred p.val

/-- pw written whole (code 30): bits 15:1 from the value, bit 0 stays 1 (R67). -/
def pwOf (v : Word) : BitVec 16 := (v.setWidth 16) ||| 1#16

end Sys2Proof.Machine
end

