-- ==== Sys2Proof/Machine/Mem.lean ====
section
/-! DEFINITION. Addresses and accesses: L-addresses (R119, R120), the page walk and the translation caches (R280-R285),
leases (R243, R286), homes (R121), dirty logs (R289), the reduction aperture (R305, R306), loads and stores by bytes
(R122, R123, R125), and memory errors (R137). -/

namespace Sys2Proof.Machine

/-! Object fields used here. -/

/-- The launch record of the strand. -/
def State.launchRec? (s : State) : Option Obj := s.me.launch?.map s.objAt

/-- Bit 16*die + cluster of a launch's CLUSTERS (Table 13.1). -/
def inClusters (o : Obj) (cl : Nat) : Bool := nbit (o.fld 6 0 128) cl

/-! Physical addresses. -/

/-- Bytes of LP6 memory behind each die's interface: a module holds 4 TB at most (Table 0.1, Table 1.3). -/
def lp6Bytes : Nat := Nat.min Config.lp6Share 500000000000

/-- Whether size bytes at pa are installed memory of one tier behind one interface (R121). -/
def installed (pa size : Nat) : Bool :=
  if nbit pa 47 then bitsOf pa 42 5 == 0 && decide (bitsOf pa 0 39 + size ≤ lp6Bytes)
  else bitsOf pa 40 7 == 0 && decide (bitsOf pa 0 37 + size ≤ 128000000000)

/-- A line of a page in migration lies at its new home once it has been moved (R292). -/
def forward (pa : Nat) : List Mig → Nat
  | [] => pa
  | m :: r =>
    if m.old ≤ pa ∧ pa < m.old + m.size ∧ (pa - m.old) / 256 < m.moved then m.new + (pa - m.old) else forward pa r

/-! The walk (R280-R282). -/

/-- Index bits and page size of a level (Table 16.1). -/
def walkIndex (level va : Nat) : Nat :=
  match level with
  | 0 => bitsOf va 39 17 | 1 => bitsOf va 30 9 | 2 => bitsOf va 21 9 | _ => bitsOf va 16 5
def pageSize : Nat → Nat
  | 1 => 2 ^ 30 | 2 => 2 ^ 21 | _ => 2 ^ 16

/-- Whether a route table has an entry for a number (R295): for every multicast number, and for the devices of the system. -/
def routeEntry (routes d : Nat) : Bool :=
  (decide (0xF000 ≤ d) && decide (d < 0xFFFF)) || (decide (d < 49184) && Config.routed routes d)

/-- Whether a leaf entry at a level is well formed (R282). -/
def leafOk (routes level w0 w1 : Nat) : Bool :=
  let size := pageSize level
  let pa := bitsOf w0 16 32 * 2 ^ 16
  let peer := bitsOf w0 48 16
  level != 0 && bitsOf w0 11 5 == 0 && bitsOf w1 8 8 == 0 && bitsOf w1 48 16 == 0 && bitsOf w0 2 2 != 3 &&
    bitsOf pa 0 47 % size == 0 && (!nbit w0 47 || Config.lp6Share != 0) &&
    (if peer == 0xFFFF then installed pa size else routeEntry routes peer)

/-- Whether an entry points to a next table: every bit but V and 46:16 is zero (R281). -/
def tableOk (w0 w1 : Nat) : Bool := bitsOf w0 1 15 == 0 && bitsOf w0 47 17 == 0 && w1 == 0

/-- The leaf a virtual address reaches: its address, level and two words; none when the walk fails. -/
def walkFrom (mem : Memory) (routes va : Nat) : Nat → Nat → Nat → Option (Nat × Nat × Nat × Nat)
  | 0, _, _ => none
  | fuel + 1, level, table =>
    let a := table + 16 * walkIndex level va
    let w0 := leNat (mem.getAll ((List.range 8).map (a + ·)))
    let w1 := leNat (mem.getAll ((List.range 8).map (a + 8 + ·)))
    if !nbit w0 0 then none
    else if nbit w0 1 then (if leafOk routes level w0 w1 then some (a, level, w0, w1) else none)
    else if level < 3 && tableOk w0 w1 then walkFrom mem routes va fuel (level + 1) (bitsOf w0 16 31 * 2 ^ 16)
    else none

/-- A walk of a job's table from the ROOT of its job record (R280). -/
def State.walk (s : State) (job va : Nat) : Option (Nat × Nat × Nat × Nat) :=
  match s.jobRec? job with
  | none => none
  | some o => walkFrom s.mem s.fabric.routes va 4 0 (bitsOf (o.word 3) 16 31 * 2 ^ 16)

/-- The cell of a virtual address of a job where it lies on this device. -/
def State.homeCell (s : State) (job va : Nat) : Option Nat :=
  match s.walk job va with
  | none => none
  | some (_, level, w0, _) =>
    if bitsOf w0 48 16 == 0xFFFF then some (forward (bitsOf w0 16 32 * 2 ^ 16 + va % pageSize level) s.migs) else none

/-- The cells of n bytes; none where one of them does not lie on this device. -/
def State.homeCells (s : State) (job va n : Nat) : Option (List Nat) :=
  (List.range n).foldr (fun i r =>
    match s.homeCell job (va + i), r with
    | some k, some l => some (k :: l)
    | _, _ => none) (some [])

/-! The translation caches (R283). -/

/-- Whether an entry is pinned. -/
def Tr.pinned (t : Tr) : Bool := !t.pinners.isEmpty

def Tr.covers (t : Tr) (cl job va : Nat) : Bool :=
  t.cl == cl && t.job == job && decide (t.base ≤ va) && decide (va < t.base + t.size)

/-- The first entry of a list that satisfies a test, and the list without it. -/
def pull {α : Type} (p : α → Bool) : List α → Option (α × List α)
  | [] => none
  | x :: r => if p x then some (x, r) else (pull p r).map fun y => (y.1, x :: y.2)

/-- The least recently used unpinned entry of a cluster, the last one of the list, removed. -/
def evictLast (cl : Nat) (l : List Tr) : List Tr :=
  match pull (fun (t : Tr) => t.cl == cl && !t.pinned) l.reverse with
  | some (_, r) => r.reverse
  | none => l

/-- A translation put in front; a cache of 4,096 entries gives up its least recently used unpinned one. -/
def fillTlb (t : Tr) (l : List Tr) : List Tr :=
  let l := if 4096 ≤ (l.filter fun u => u.cl == t.cl).length then evictLast t.cl l else l
  t :: l

/-- The translation of an address in a cluster's cache, filled by a walk on a miss; a hit is a use (R283). -/
def State.lookup (s : State) (cl job va : Nat) : Option (Tr × State) :=
  match pull (fun (t : Tr) => t.covers cl job va) s.tlb with
  | some (t, r) => some (t, { s with tlb := t :: r })
  | none =>
    match s.walk job va with
    | none => none
    | some (pte, level, w0, _) =>
      let size := pageSize level
      let t : Tr := { cl, job, base := va / size * size, size, pte, w0 := toW w0, pinners := [], logged := false }
      some (t, { s with tlb := fillTlb t s.tlb })

/-! Where an access goes (R284). -/

inductive Loc where
  /-- A byte of local store or of this device's memory: its cell. -/
  | cell (k : Nat)
  /-- A byte of another device: the device and the virtual address. -/
  | remote (dev va : Nat)
  /-- A byte of a mode-C page: the device of the original, the virtual address, the replica's cell. -/
  | replica (dev va pa : Nat)
  /-- A byte behind a multicast leaf: GROUP and the virtual address (R301). -/
  | group (g va : Nat)
  /-- A byte of the reduction aperture (R305). -/
  | aperture (va : Nat)
  deriving DecidableEq, Repr

/-- A translated byte: where it lies, and the leaf's word 0 (0 for local store). -/
structure Hit where
  loc : Loc
  w0 : Word
  deriving DecidableEq, Repr

/-- An address: virtual, 56 bits, or an L-address, 32 bits. -/
inductive Addr where
  | v (a : Nat)
  | l (a : Nat)
  deriving DecidableEq, Repr

/-- The i-th byte after an address; arithmetic wraps in 56 or 32 bits (R110, R125). -/
def Addr.add (i : Nat) : Addr → Addr
  | .v a => .v ((a + i) % 2 ^ 56)
  | .l a => .l ((a + i) % 2 ^ 32)
def Addr.val : Addr → Nat
  | .v a => a
  | .l a => a
/-- The address as tval shows it. -/
def Addr.tval (a : Addr) : Word := toW a.val

/-- The rights an access needs. -/
def rR : Nat := 1
def rW : Nat := 2
def rRW : Nat := 3

/-- The fault of an unmapped or out-of-lease virtual address (R120). -/
def vfault {α : Type} (a : Word) : M α := fun s =>
  if s.me.task && s.me.launch?.isSome then .error (.lease a) else .error (.trap 5 0 a)

/-- Range r of a lease set holds all of [lo, hi] with the rights (R286). -/
def leaseRange (o : Obj) (right lo hi r : Nat) : Bool :=
  let base := o.fld (1 + 2 * r) 0 56
  let len := o.fld (2 + 2 * r) 0 48
  decide (base ≤ lo) && decide (hi < base + len) && (bitsOf (o.word (2 + 2 * r)) 48 2 &&& right) == right

def leaseHas (o : Obj) (right lo hi : Nat) : Bool := (List.range (o.fld 0 8 4)).any (leaseRange o right lo hi)

/-- Whether a task-level strand of a launch may touch [lo, hi] (R243). -/
def State.leased (s : State) (right lo hi : Nat) : Bool :=
  match s.launchRec? with
  | none => true
  | some o => !s.me.task || leaseHas (s.objAt (objKey s.me.job.toNat (o.fld 0 16 16))) right lo hi

/-- Where the page's leaf sends an access to va (R284, R301). -/
def placeOf (migs : List Mig) (t : Tr) (va : Nat) : Loc :=
  let w := t.w0.toNat
  let peer := bitsOf w 48 16
  let pa := bitsOf w 16 32 * 2 ^ 16 + (va - t.base)
  if peer == 0xFFFF then .cell (forward pa migs)
  else if 0xF000 ≤ peer then .group (peer - 0xF000) va
  else if bitsOf w 2 2 == 1 then .replica peer va pa
  else .remote peer va

/-- Translation and rights of one byte of virtual address (R282). -/
def xlate (job : Nat) (right va : Nat) : M Hit := fun s =>
  match s.lookup (clusterOf s.me.core) job va with
  | none => vfault (toW va) s
  | some (t, s') =>
    let w := t.w0.toNat
    if (bitsOf w 5 2 &&& right) == right && (!nbit w 7 || !s.me.task) then
      .ok ({ loc := placeOf s.migs t va, w0 := t.w0 }, s')
    else vfault (toW va) s

/-- The local-store cell an L-address names, with the checks of R120 in order. -/
def laddr (store : Bool) (a : Nat) : M Hit := fun s =>
  let tv := toW a
  let off := bitsOf a 0 20
  let sel := bitsOf a 29 3
  let core := bitsOf a 20 5
  let cl := bitsOf a 25 4
  let die := coreDie s.me.core
  let k := if sel == 7 then s.me.core else coreOf die cl core
  let dirty := decide (coreNo k < 16) && decide (0xFF000 ≤ off)
  let inSet := match s.launchRec? with
    | some o => inClusters o (16 * die + cl)
    | none => true
  if sel == 7 then
    if s.me.task && store && dirty then .error (.trap 2 0 tv)
    else .ok ({ loc := .cell (lsKey k off), w0 := 0 }, s)
  else if sel != 0 || decide (20 ≤ core) then .error (.trap 5 0 tv)
  else if decide (17 ≤ core) && cl != 0 then .error (.trap 5 0 tv)
  else if s.me.task && decide (16 ≤ core) then .error (.trap 2 0 tv)
  else if s.me.task && !inSet then .error (.lease tv)
  else if s.me.task && store && dirty then .error (.trap 2 0 tv)
  else .ok ({ loc := .cell (lsKey k off), w0 := 0 }, s)

/-- The device number of a queued store to the reduction aperture: no leaf names it, 0xFFFF being this device. -/
def aperture : Nat := 0xFFFF

/-- Whether a virtual address lies in the reduction aperture (R305). -/
def inAperture (va : Nat) : Bool := bitsOf va 40 16 == 0xFFFF

/-- In the Lehr state a strand of system core 0 reaches its own local store only; any other access waits (R378). -/
def lehrWaits (s : State) (a : Addr) : Bool :=
  s.device.lehr == 2 &&
    match a with
    | .l x => bitsOf x 29 3 != 7 && coreOf (coreDie s.me.core) (bitsOf x 25 4) (bitsOf x 20 5) != s.me.core
    | .v _ => true

/-- One byte checked: the lease of the bytes up to it, then its translation and rights (R123). -/
def checkByte (right : Nat) (lo : Nat) (a : Addr) : M Hit := fun s =>
  if lehrWaits s a then .error .wait
  else
  match a with
  | .l x => laddr (right &&& 2 == 2) x s
  | .v x =>
    if inAperture x then
      if right == rW then .ok ({ loc := .aperture x, w0 := 0 }, s) else .error (.trap 5 0 (toW x))
    else if s.leased right lo x then xlate s.me.job.toNat right x s
    else vfault (toW x) s

/-- Every byte of an access checked in address order; the first that fails decides the fault (R123). -/
def checkFrom (right lo : Nat) : List Addr → M (List Hit)
  | [] => pure []
  | a :: r => do
    let h ← checkByte right lo a
    let t ← checkFrom right lo r
    return h :: t

/-- The byte addresses of an access of n bytes. -/
def span (a : Addr) (n : Nat) : List Addr := (List.range n).map fun i => a.add i

/-- The lease of a whole access must come from one range; each prefix is checked as its last byte is reached. -/
def check (right : Nat) (a : Addr) (n : Nat) : M (List Hit) := checkFrom right a.val (span a n)

/-- Alignment, where an access requires it (Table 7.3). -/
def aligned (a : Addr) (n : Nat) : M Unit := if a.val % n = 0 then pure () else trap 4 0 a.tval

/-! Cells read and written. -/

/-- The cell of a hit; for a byte of another device the cell that stands for it (log 5). -/
def cellOf (job : Nat) (h : Hit) : Nat :=
  match h.loc with
  | .cell k => k
  | .remote dev va => remKey dev job va
  | .replica _ _ pa => pa
  | .group g va => remKey (0xF000 + g) job va
  | .aperture va => remKey 0xFFFF job va

def Hit.isCell (h : Hit) : Bool :=
  match h.loc with
  | .cell _ => true
  | _ => false

/-- Whether the byte lies on an SO page (R285). -/
def Hit.so (h : Hit) : Bool := nbit h.w0.toNat 4

/-- The device a byte of another device lies on, a multicast number for a group leaf (R301), and its address there. -/
def Hit.away? (h : Hit) : Option (Nat × Nat) :=
  match h.loc with
  | .remote dev va => some (dev, va)
  | .replica dev va _ => some (dev, va)
  | .group g va => some (0xF000 + g, va)
  | _ => none

/-- The replica's cell of a byte of a mode-C page. -/
def Hit.rep? (h : Hit) : Option Nat :=
  match h.loc with
  | .replica _ _ pa => some pa
  | _ => none

/-! Replicas (R284): a line is filled from the original and marked valid. -/

/-- The valid bit of a replica line of a job. -/
def validKey (job pa : Nat) : Nat := job * 2 ^ 40 + pa / 256

def State.fillLine (s : State) (dev job va pa : Nat) : State :=
  let bs := s.bytesAt (remKey dev job (va / 256 * 256)) 256
  let s := s.setBytes (pa / 256 * 256) bs
  { s with fabric := { s.fabric with valid := validKey job pa :: s.fabric.valid.filter (· != validKey job pa) } }

/-- The cells of an access made readable: an invalid replica line is fetched first. -/
def fetchHit (job : Nat) (s : State) (h : Hit) : State :=
  match h.loc with
  | .replica dev va pa => if s.fabric.valid.contains (validKey job pa) then s else s.fillLine dev job va pa
  | _ => s

/-- Multicast leaves and the aperture serve stores and SIG only (R301, R305). -/
def Hit.readable (h : Hit) : Bool :=
  match h.loc with
  | .group _ _ => false
  | .aperture _ => false
  | _ => true

/-- Whether two lists of addresses touch the same 8 bytes (R299). -/
def shareWord (as bs : List Nat) : Bool := as.any fun a => bs.any fun b => a / 8 == b / 8

/-- Whether an access of the strand to the same 8 bytes of another device is in flight (R299). -/
def State.reqOpen (s : State) (dev job : Nat) (vas : List Nat) : Bool :=
  s.fabric.reqs.any fun r => r.2.sid % 65536 == s.me.sid.toNat % 65536 && r.2.dev == dev && r.2.job == job && r.2.kind != 8 &&
    shareWord r.2.vas vas

/-- The same, or still queued. -/
def State.openTo (s : State) (dev job : Nat) (vas : List Nat) : Bool :=
  (s.me.stores.any fun p => p.dev == dev && p.job == job && shareWord p.vas vas) || s.reqOpen dev job vas

/-- Whether a byte of another device has an access of the strand open (R299, R346). -/
def Hit.open (s : State) (h : Hit) : Bool :=
  match h.away? with
  | some (dev, va) => s.openTo dev s.me.job.toNat [va]
  | none => false

/-- A byte that is not served from this device. -/
def Hit.away (s : State) (h : Hit) : Bool :=
  match h.loc with
  | .remote _ _ => true
  | .replica _ _ pa => !s.fabric.valid.contains (validKey s.me.job.toNat pa)
  | _ => false

/-- The byte a strand's own queued stores give a cell: the latest one (R334). -/
def ownByte (k : Nat) : List PendStore → Option Byte
  | [] => none
  | p :: r =>
    match ownByte k r with
    | some b => some b
    | none => (p.cells.find? fun c => c.1 == k).map Prod.snd

/-- A cell as the strand sees it. -/
def State.see (s : State) (k : Nat) : Byte := (ownByte k s.me.stores).getD (s.mem.get k)

/-- Whether a queued store of the strand covers one of some cells. -/
def State.queuedTo (s : State) (ks : List Nat) : Bool := s.me.stores.any fun p => p.cells.any fun c => ks.contains c.1

/-- An access counted for the tier policy, by the frame of its page (R293). -/
def State.counted (s : State) (hs : List Hit) : State :=
  match hs with
  | [] => s
  | h :: _ =>
    if h.w0.getLsbD 9 then
      let k := wbits h.w0 16 32
      { s with tier := { s.tier with counts := SMap.put k ((SMap.find k s.tier.counts).getD 0 + 1) s.tier.counts } }
    else s

/-- The bytes of checked hits, read now (line, stream, field and engine reads; scalar reads of this device). tval is
the address the access names. -/
def readHits (tval : Word) (hs : List Hit) : M (List Byte) := fun s =>
  let job := s.me.job.toNat
  if !hs.all Hit.readable then .error (.trap 5 0 tval)
  else if hs.any (Hit.open s) then .error .wait
  else
    let s := hs.foldl (fetchHit job) s
    let ks := hs.map (cellOf job)
    match ks.find? s.badAt with
    | some k => .error (.bad k tval)
    | none => .ok (ks.map s.see, s.counted hs)

/-! Requests to other devices (R298). -/

/-- Whether a tag may be issued: not in use and not resting after a timeout. -/
def State.tagFree (s : State) (k : Nat) : Bool :=
  (SMap.find k s.fabric.reqs).isNone &&
    match SMap.find k s.fabric.rest with
    | none => true
    | some t => decide (t.toNat ≤ s.clk.toNat)

def State.findTag (s : State) (base : Nat) : Nat → Nat → Option Nat
  | 0, _ => none
  | n + 1, i => if s.tagFree (base + i) then some (base + i) else s.findTag base n (i + 1)

def State.gen (s : State) (k : Nat) : Nat := (SMap.find k s.fabric.gens).getD 0

/-- The packet kind of a request. -/
def packetKind : Nat → Nat
  | 1 | 10 => 0 | 2 => 1 | 3 => 2 | 4 => 2 | 8 => 3 | _ => 11

/-- A request sent; the answer of the other device is due. A die with no free tag sends none. -/
def State.request (s : State) (dev job : Nat) (vas : List Nat) (kind : Nat) (bytes : List Byte) (rep : List Nat) :
    Option (Nat × State) :=
  let die := coreDie s.me.core
  let va := vas.headD 0
  match s.findTag (die * 4096) 4096 0 with
  | none => none
  | some k =>
    let r : Req := { die, sid := s.me.sid.toNat, gen := s.gen k, dev, job, va, vas, kind, t := s.clk, bytes, rep, n := 0 }
    let p : Packet := { dev, job, kind := packetKind kind, a := va, b := k, bytes }
    let s := { s with fabric := { s.fabric with reqs := SMap.put k r s.fabric.reqs, out := s.fabric.out ++ [p] } }
    let arg : Arg := { sid := s.me.sid.toNat, n := k, m := r.gen, flag := true }
    let s := if 0xF000 ≤ dev then s.toGroup (dev - 0xF000) job va kind bytes else s
    some (k, s.due (if kind = 0 ∨ kind = 7 then .resultArrival else if kind = 8 then .sendOfferAnswer
      else .acknowledgementArrival) arg)

/-- A request given up: answered or timed out. -/
def State.dropReq (s : State) (k : Nat) : State := { s with fabric := { s.fabric with reqs := SMap.del k s.fabric.reqs } }

/-- A reply whose generation is not its tag's is discarded and counted (R298). -/
def State.stale (s : State) (k : Nat) : State := s.count (k / 4096 % 8) 0xFE010

/-- The same in a meaning: with no tag free, or an access to the same bytes open (R299), the strand waits. -/
def request (dev job : Nat) (vas : List Nat) (kind : Nat) (bytes : List Byte) (rep : List Nat) : M Nat := fun s =>
  if s.openTo dev job vas then .error .wait
  else
    match s.request dev job vas kind bytes rep with
    | none => .error .wait
    | some (k, s') => .ok (k, s')

/-- The bytes from an address on. -/
def spanOf (va n : Nat) : List Nat := (List.range n).map fun i => (va + i) % 2 ^ 56

def Ahead.soOpen : Ahead → Bool
  | .asked _ so => so
  | _ => false

/-- Whether the strand has an access to an SO page open: a store still queued, an element fetched ahead, or another. -/
def Strand.soOpen (t : Strand) : Bool :=
  t.pend.any Pending.so || t.stores.any PendStore.so ||
    t.t.toList.any fun x => (x.map fun st => st.ahead.any Ahead.soOpen).getD false

/-- An access to an SO page issues only when the strand's last one has completed (R285). -/
def soFree (hs : List Hit) : M Unit := fun s =>
  if hs.any Hit.so && s.me.soOpen then .error .wait else .ok ((), s)

/-- The open instruction recorded last accesses an SO page when one of its bytes does. -/
def markSo (hs : List Hit) : M Unit := updMe fun t =>
  if hs.any Hit.so then
    match t.pend.reverse with
    | p :: r => { t with pend := ({ p with so := true } :: r).reverse }
    | [] => t
  else t

/-- How an instruction waits for what it has asked for: its window, and whether it holds the strand after it (R26). -/
structure Wait where
  la : Nat
  holds : Bool

/-! The reduction aperture (R305, R306). -/

/-- The LEN of the REDUCE step of a tag in the loaded graphs of a job, none when there is none. -/
def apertureLen (s : State) (job tag : Nat) : Option Nat :=
  (s.fabric.graphs.filter fun g => g.key / 65536 == job).findSome? fun g =>
    (g.steps.find? fun st => wbits st.w[0] 0 3 == 2 && wbits st.w[3] 48 12 == tag).map fun st => wbits st.w[3] 0 32

/-- Whether a store of n bytes to the aperture is one (R305): 2-aligned, within LEN, its tag loaded. -/
def apertureOk (s : State) (va n : Nat) : Bool :=
  match apertureLen s s.me.job.toNat (bitsOf va 28 12) with
  | none => false
  | some len => va % 2 == 0 && n % 2 == 0 && decide (bitsOf va 0 28 + n ≤ len)

/-- A contribution byte; one whose mask bit is set is dropped and counted (R306). -/
def State.contribute (s : State) (die va : Nat) (b : Byte) : State :=
  let k := bitsOf va 0 40
  match SMap.find k s.fabric.apert with
  | some _ => s.count die 0xFE030
  | none => { s with fabric := { s.fabric with apert := SMap.put k (die, b) s.fabric.apert } }

/-- Whether a die's interface takes more contributions: 8 MiB of them at most (R306). -/
def State.apertRoom (s : State) (die : Nat) : Bool :=
  decide ((s.fabric.apert.filter fun e => e.2.1 == die).length < 8388608)

/-- A store to the aperture performed: its bytes contributed; a tag that no graph of the job has any more takes none. -/
def State.performApert (s : State) (p : PendStore) : State :=
  let die := coreDie s.me.core
  match apertureLen s p.job (bitsOf p.va 28 12) with
  | none => p.vas.foldl (fun s _ => s.count die 0xFE030) s
  | some _ => (p.vas.zip p.bytes).foldl (fun s x => s.contribute die x.1 x.2) s

/-! Dirty logs (R289). -/

/-- The core whose log takes a strand's write: its issuing core, or, there being logs on compute cores only, its home
core when it runs on another kind (log 12). -/
def logCore (t : Strand) : Option Nat :=
  if coreNo t.core < 16 then some t.core else if coreNo t.homeCore < 16 then some t.homeCore else none

/-- A record appended to the log of a core; none when it is full. -/
def State.appendLog (s : State) (core job va : Nat) : Option State :=
  let head := lsKey core 0xFF000
  let n := s.num head 2 % 512
  if n = 511 then none
  else
    let s := s.setNum (head + 8 * (n + 1)) 8 (va / 65536 * 65536 + job)
    let s := s.setNum head 2 (n + 1)
    some (if n + 1 = 256 then s.hwSend (gafferSid (clusterOf core)) 0x14 job (toW (core * 16)) 0 0 0 else s)

def Tr.mark (cl job va : Nat) (t : Tr) : Tr := if t.covers cl job va then { t with logged := true } else t

/-- The page of a write logged once per cached translation (R289); the strand waits while the log is full. -/
def logWrite (va : Nat) : M Unit := fun s =>
  let cl := clusterOf s.me.core
  let job := s.me.job.toNat
  match s.tlb.find? fun t => t.covers cl job va with
  | none => .ok ((), s)
  | some t =>
    if t.logged then .ok ((), s)
    else
      match logCore s.me with
      | none => .ok ((), s)
      | some c =>
        match s.appendLog c job va with
        | none => .error .wait
        | some s' => .ok ((), { s' with tlb := s'.tlb.map (Tr.mark cl job va) })

/-! Stores. -/

/-- A store put into the store queue (R126); a strand whose queue of 8 is full waits. -/
def queueStore (p : PendStore) : M Unit := fun s =>
  if p.kind == 1 && decide (8 ≤ (s.me.stores.filter fun q => q.kind == 1).length) then .error .wait
  else .ok ((), ({ s with me := { s.me with stores := s.me.stores ++ [p] } }).due .storePerform
    { sid := s.me.sid.toNat })

/-- Whether a cell lies in a brick the Marver has locked: a store to it waits (R275). -/
def State.locked (s : State) (k : Nat) : Bool := s.remaps.any fun r => r.movers.any fun m =>
  (m.phase == 1 || m.phase == 2) && m.frames.any fun f => decide (f.1 ≤ k) && decide (k < f.1 + f.2)

/-- Cells written now, granules in error left out (R137); the error is taken before the next instruction, the first one
where an instruction meets several (log 80). A queued store of the strand to one of them goes first (R334). -/
def writeCells (tval : Word) (cs : List (Nat × Byte)) : M Unit := fun s =>
  if s.queuedTo (cs.map Prod.fst) || cs.any (fun c => s.locked c.1) then .error .wait
  else
    match cs.find? fun c => s.badAt c.1 with
    | none => .ok ((), s.setCells cs)
    | some c =>
      let s := s.setCells (cs.filter fun c => !s.badAt c.1)
      let s := s.logError c.1
      .ok ((), { s with me := { s.me with storeErr := some (s.me.storeErr.getD (8, tval)) } })

/-- A byte that is written at issue: of the store of the core the strand runs on (R126), or of an SO page, whose
stores complete when performed (R285). -/
def atOnce (s : State) (h : Hit) : Bool :=
  match h.loc with
  | .cell k => (isLs k && k / 2 ^ 20 % 4096 == s.me.core) || h.so
  | _ => false

/-- The pages of a store logged dirty (R289). -/
def logPages (hs : List Hit) (first last : Nat) : M Unit :=
  match hs with
  | { loc := .cell k, .. } :: _ =>
    if isLs k then pure ()
    else do
      logWrite first
      logWrite last
  | _ => do
    logWrite first
    logWrite last

/-- One run of a store's bytes that go the same way. now: written at issue whatever the place (line elements). -/
def writeRun (now : Bool) (w : Wait) (a : Addr) (hs : List Hit) (bs : List Byte) : M Unit := do
  let s ← get
  let job := s.me.job.toNat
  match hs with
  | [] => pure ()
  | h :: _ =>
    match h.loc with
    | .aperture va =>
      if !apertureOk s va bs.length then trap 5 0 a.tval
      else queueStore { dev := aperture, job, va := a.val, vas := (List.range bs.length).map (va + ·), bytes := bs, kind := if now then 10 else 1 }
    | .cell _ => do
      logPages hs a.val (a.add (bs.length - 1)).val
      upd fun s => s.counted hs
      let cs := (hs.map (cellOf job)).zip bs
      if now || hs.all (atOnce s) then writeCells a.tval cs
      else queueStore { dev := 0, job, va := a.val, cells := cs }
    | _ => do
      logPages hs a.val (a.add (bs.length - 1)).val
      let dev := (h.away?.map Prod.fst).getD 0
      let vas := hs.filterMap fun h => h.away?.map Prod.snd
      let rep := hs.filterMap Hit.rep?
      if h.so && !now then do
        let k ← request dev job vas 1 bs rep
        await [] (.acks [k]) w.la
        upd fun s => s.openLine none w.holds
        markSo hs
      else queueStore { dev, job, va := a.val, vas, bytes := bs, rep, kind := if now then 10 else 1, so := h.so }

/-- Whether two bytes go the same way. -/
def sameWay (h k : Hit) : Bool :=
  h.so == k.so &&
    match h.loc, k.loc with
    | .cell _, .cell _ => true
    | .remote d _, .remote e _ => d == e
    | .replica d _ _, .replica e _ _ => d == e
    | .group g _, .group f _ => g == f
    | .aperture _, .aperture _ => true
    | _, _ => false

/-- How many bytes at the head of a list go the way of the first. -/
def runLen (h : Hit) : List Hit → Nat
  | [] => 0
  | k :: r => if sameWay h k then runLen h r + 1 else 0

/-- The bytes of checked hits written: this device's in place or through the store queue, another device's through the
store queue, the aperture's as contributions. An access covers two pages at most. -/
def writeHits (now : Bool) (w : Wait) (a : Addr) (hs : List Hit) (bs : List Byte) : M Unit :=
  match hs with
  | [] => pure ()
  | h :: _ => do
    let n := runLen h hs
    writeRun now w a (hs.take n) (bs.take n)
    writeRun now w (a.add n) (hs.drop n) (bs.drop n)

/-! Elements that are read (R111, R113, R148, R298). -/

/-- The bytes of an element in runs that go the same way. -/
def runsOf : Nat → List Hit → List (List Hit)
  | 0, _ => []
  | _ + 1, [] => []
  | fuel + 1, h :: r =>
    let n := runLen h r
    (h :: r.take n) :: runsOf fuel (r.drop n)

/-- One run: bytes of this device are read now, an uncorrectable error in them is found; others are still to be asked for. -/
def readRun (tval : Word) (hs : List Hit) : M Run := fun s =>
  if !hs.all Hit.readable then .error (.trap 5 0 tval)
  else if hs.any (Hit.away s) then
    if hs.any (Hit.open s) then .error .wait
    else
      let dev := ((hs.head?.bind Hit.away?).map Prod.fst).getD 0
      .ok ({ tval, dev, vas := hs.filterMap fun h => h.away?.map Prod.snd, rep := hs.filterMap Hit.rep?, rd := .todo }, s)
  else
    match readHits tval hs s with
    | .ok (bs, s') => .ok ({ tval, dev := 0, vas := [], rep := [], rd := .got bs }, s')
    | .error (.bad k _) => .ok ({ tval, dev := 0, vas := [], rep := [], rd := .lost 8 0 }, s.logError k)
    | .error x => .error x

def readRuns (tval : Word) : List (List Hit) → M (List Run)
  | [] => pure []
  | hs :: r => do
    let x ← readRun tval hs
    let l ← readRuns tval r
    return x :: l

/-- The bytes of one element read as far as this device holds them. -/
def readElem (tval : Word) (hs : List Hit) : M Elem := do
  let runs ← readRuns tval (runsOf hs.length hs)
  return { runs }

def Run.isAsked (r : Run) : Bool :=
  match r.rd with
  | .asked _ => true
  | _ => false
def Run.isTodo (r : Run) : Bool := r.rd == .todo
def Run.isGot (r : Run) : Bool :=
  match r.rd with
  | .got _ => true
  | _ => false

def runsIn (els : List (Option Elem)) : List Run := els.flatMap fun e => (e.map Elem.runs).getD []

/-- Every run of every element is read. -/
def allGot (els : List (Option Elem)) : Bool := (runsIn els).all Run.isGot
/-- No run is still to be read. -/
def allKnown (els : List (Option Elem)) : Bool := (runsIn els).all fun r => !r.isAsked && !r.isTodo

/-- A run asked for while a tag is free; on SO pages one at a time (R285). -/
def askRun (job : Nat) (one : Bool) (x : Bool × State) (r : Run) : Run × (Bool × State) :=
  if r.isTodo && !(one && x.1) then
    match x.2.request r.dev job r.vas 0 [] r.rep with
    | some (k, s) => ({ r with rd := .asked k }, (true, s))
    | none => (r, x)
  else (r, (x.1 || r.isAsked, x.2))

def askRuns (job : Nat) (one : Bool) (x : Bool × State) : List Run → List Run × (Bool × State)
  | [] => ([], x)
  | r :: l =>
    let a := askRun job one x r
    let b := askRuns job one a.2 l
    (a.1 :: b.1, b.2)

/-- What is still to be asked for is asked for; whether anything is under way afterwards. -/
def askElems (job : Nat) (one : Bool) (x : Bool × State) : List (Option Elem) → List (Option Elem) × (Bool × State)
  | [] => ([], x)
  | none :: l =>
    let b := askElems job one x l
    (none :: b.1, b.2)
  | some e :: l =>
    let a := askRuns job one x e.runs
    let b := askElems job one a.2 l
    (some { e with runs := a.1 } :: b.1, b.2)

/-- Elements of an access asked for: the strand waits while the interface has no tag for any of them. -/
def askAll (so : Bool) (els : List (Option Elem)) : M (List (Option Elem)) := fun s =>
  let r := askElems s.me.job.toNat so (false, s) els
  if (runsIn els).any Run.isTodo && !r.2.1 then .error .wait else .ok (r.1, r.2.2)

/-- The bytes of an element that is read. -/
def Elem.bytes (e : Elem) : List Byte := e.runs.flatMap fun r =>
  match r.rd with
  | .got bs => bs
  | _ => []

/-! Releases (R338, Table 19.3). -/

def Pending.isLoad (p : Pending) : Bool :=
  match p.src with
  | .fetch _ _ => true
  | _ => false

/-- Every earlier load has been performed: one of this device is performed at issue. -/
def loadsDone : M Unit := fun s => if s.me.pend.any Pending.isLoad then .error .wait else .ok ((), s)

/-- Every earlier store has been performed. -/
def storesDone : M Unit := fun s => if s.me.stores.isEmpty then .ok ((), s) else .error .wait

/-- A release at package scope or narrower: every earlier load and store has been performed. -/
def released : M Unit := do
  loadsDone
  storesDone

/-- A release at span scope: remote accesses are acknowledged, and a store that failed is reported (R298). -/
def releasedSpan : M Unit := do
  released
  fun s =>
    if s.unacked then .error .wait
    else
      match s.me.spanErr with
      | some a => .error (.trap 8 1 a)
      | none => .ok ((), s)

/-- Valid bits of the mode-C pages of a job cleared by an acquire of span scope (R284, R338). -/
def State.acquireSpan (s : State) (job : Nat) : State :=
  { s with fabric := { s.fabric with valid := s.fabric.valid.filter fun v => v / 2 ^ 40 != job } }
def acquireSpan : M Unit := fun s => .ok ((), s.acquireSpan s.me.job.toNat)

/-! Migration by counter (R228). -/

/-- One load or store counted by its first element; at the threshold the strand migrates after the access. -/
def countAccess (h : Hit) : M Unit := fun s =>
  match h.loc with
  | .cell k =>
    if bitsOf h.w0.toNat 2 2 == 2 && !isLs k then
      let c := s.home k
      if c == s.me.core then .ok ((), s)
      else
        let hs := c * 16
        let n := if s.me.rac.toNat % 65536 = hs then Nat.min 15 (s.me.rac.toNat / 65536 + 1) else 1
        let s := { s with me := { s.me with rac := BitVec.ofNat 20 (n * 65536 + hs) } }
        if s.me.trh.toNat = 0 ∨ n < s.me.trh.toNat then .ok ((), s)
        else
          let s := { s with me := { s.me with rac := 0 } }
          -- it leaves once no register is pending (R73) and issues nothing until then
          if s.me.pend.isEmpty then .ok ((), s.depart c 3)
          else .ok ((), { s with me := { s.me with pend := s.me.pend ++ [oweNow s (.table 10 c 0)] } })
    else .ok ((), s)
  | _ => .ok ((), s)

/-- Whether a byte lies on a line with another home than a core: local stores and the aperture have no home of R121, and a
line of another device has its home there. -/
def Hit.homedOff (s : State) (h : Hit) : Bool :=
  match h.loc with
  | .cell k => !isLs k && s.home k != s.me.core
  | .aperture _ => false
  | _ => true

/-- While abroad, an access to a line with another home returns the strand home first (R131). -/
def nearHome (hs : List Hit) : M Unit := fun s =>
  if s.me.abroad && !s.me.stay && hs.any (Hit.homedOff s) then .error .home else .ok ((), s)

/-! Addresses from registers. -/

/-- A virtual address: bits 63:56 must be zero (R125), then o is added in 56 bits. -/
def virt (a : Word) (o : Int) : M Addr :=
  if a.toNat / 2 ^ 56 = 0 then pure (.v ((a.toNat + o) % 2 ^ 56).toNat) else vfault a

/-- An L-address: bits 63:32 are ignored. -/
def local_ (a : Word) (o : Int) : Addr := .l ((a.toNat + o) % 2 ^ 32).toNat

/-- line_addr of R110: bit 63 selects an L-address. o is the offset in bytes. -/
def lineAddr (a : Word) (o : Int) : M Addr := if a.msb then pure (local_ a o) else virt a o

end Sys2Proof.Machine
end

