-- ==== Sys2Proof/Machine/Num.lean ====
section
/-! DEFINITION. Numbers (03_numbers, R41-R60): formats, exact values, the rounding functions, conversions, binary32
and binary64 operations, elementary functions, sum trees, the order of maxima, and the counter-based generator. -/

namespace Sys2Proof.Num

/-- A floating-point format (R42): exponent bits, mantissa bits, and whether it is E4M3, which has no infinity (R43). -/
structure FFmt where
  e : Nat
  m : Nat
  noInf : Bool := false
  deriving DecidableEq, Repr

def e4m3 : FFmt := { e := 4, m := 3, noInf := true }
def e5m2 : FFmt := { e := 5, m := 2 }
def fp16 : FFmt := { e := 5, m := 10 }
def bf16 : FFmt := { e := 8, m := 7 }
def fp32 : FFmt := { e := 8, m := 23 }
def fp64 : FFmt := { e := 11, m := 52 }
/-- The H-chain format of c planes, E5M(8c-6) (R45). -/
def chainH (c : Nat) : FFmt := { e := 5, m := 8 * c - 6 }
/-- The B-chain format of c planes, E8M(8c-9) (R45). -/
def chainB (c : Nat) : FFmt := { e := 8, m := 8 * c - 9 }

def FFmt.width (f : FFmt) : Nat := 1 + f.e + f.m
def FFmt.bias (f : FFmt) : Nat := 2 ^ (f.e - 1) - 1
/-- The exponent of the unit of the smallest subnormal. -/
def FFmt.qmin (f : FFmt) : Int := 1 - f.bias - f.m
def FFmt.signBit (f : FFmt) : Nat := 2 ^ (f.e + f.m)
/-- Magnitude code of the largest finite value (Table 3.2). -/
def FFmt.maxCode (f : FFmt) : Nat := if f.noInf then 2 ^ (f.e + f.m) - 2 else (2 ^ f.e - 1) * 2 ^ f.m - 1
/-- Magnitude code of the canonical quiet NaN (Table 3.2). -/
def FFmt.nanCode (f : FFmt) : Nat :=
  if f.noInf then 2 ^ (f.e + f.m) - 1 else (2 ^ f.e - 1) * 2 ^ f.m + 2 ^ (f.m - 1)
def FFmt.infCode (f : FFmt) : Nat := (2 ^ f.e - 1) * 2 ^ f.m
def FFmt.signed (f : FFmt) (neg : Bool) (c : Nat) : Nat := if neg then f.signBit + c else c

/-- An exact value: NaN and infinity with a sign, or (-1)^neg * m * 2^e with the sign of a zero kept. -/
inductive FV where
  | nan (neg : Bool)
  | inf (neg : Bool)
  | fin (neg : Bool) (m : Nat) (e : Int)
  deriving DecidableEq, Repr

/-- The value a code has in a format (R42, R43). -/
def decodeF (f : FFmt) (c : Nat) : FV :=
  let s := decide (c / f.signBit % 2 = 1)
  let ex := c / 2 ^ f.m % 2 ^ f.e
  let mn := c % 2 ^ f.m
  if ex = 2 ^ f.e - 1 then
    if f.noInf then
      if mn = 2 ^ f.m - 1 then .nan s else .fin s (2 ^ f.m + mn) ((ex : Int) - 1 + f.qmin)
    else if mn = 0 then .inf s else .nan s
  else if ex = 0 then .fin s mn f.qmin
  else .fin s (2 ^ f.m + mn) ((ex : Int) - 1 + f.qmin)

/-- Whether a discarded fraction rem / 2^s (s >= 1) after the integer r rounds its magnitude up (R51). -/
def roundUp (mode : RMode) (neg : Bool) (r rem s : Nat) : Bool :=
  match mode with
  | .rne => decide (2 ^ (s - 1) < rem) || (rem == 2 ^ (s - 1) && r % 2 == 1)
  | .rna => decide (2 ^ (s - 1) ≤ rem)
  | .rz => false
  | .ru => !neg && rem != 0
  | .rd => neg && rem != 0

/-- What a result beyond the largest finite value becomes (R51). -/
def overflowF (f : FFmt) (mode : RMode) (sat neg : Bool) : Nat :=
  let inward := match mode with
    | .rz => true
    | .ru => neg
    | .rd => !neg
    | _ => false
  f.signed neg (if inward || sat then f.maxCode else if f.noInf then f.nanCode else f.infCode)

/-- round_to of R51. A NaN keeps the sign it carries: arithmetic produces it positive, a conversion keeps the source's
(R44). -/
def roundTo (f : FFmt) (mode : RMode) (sat : Bool) : FV → Nat
  | .nan neg => f.signed neg f.nanCode
  | .inf neg =>
    f.signed neg (if f.noInf then (if sat then f.maxCode else f.nanCode) else f.infCode)
  | .fin neg m e =>
    if m = 0 then f.signed neg 0
    else
      let q := Max.max (e + (m.log2 : Int) - (f.m : Int)) f.qmin
      let r :=
        if q ≤ e then m * 2 ^ (e - q).toNat
        else
          let s := (q - e).toNat
          let r0 := m / 2 ^ s
          if roundUp mode neg r0 (m % 2 ^ s) s then r0 + 1 else r0
      let code := (q - f.qmin).toNat * 2 ^ f.m + r
      if code ≤ f.maxCode then f.signed neg code else overflowF f mode sat neg

/-- The integer a value rounds to (R53); 0 for a value that is not finite. -/
def roundInt (mode : RMode) : FV → Int
  | .nan _ => 0
  | .inf _ => 0
  | .fin neg m e =>
    let r :=
      if 0 ≤ e then m * 2 ^ e.toNat
      else
        let s := (-e).toNat
        let r0 := m / 2 ^ s
        if roundUp mode neg r0 (m % 2 ^ s) s then r0 + 1 else r0
    if neg then -(r : Int) else r

/-! Exact arithmetic. A NaN that arithmetic makes is positive (R44). -/

def FV.neg : FV → FV
  | .nan s => .nan s
  | .inf s => .inf (!s)
  | .fin s m e => .fin (!s) m e

/-- The exact sum (R52): an exact zero sum of operands of opposite sign is +0. -/
def FV.add : FV → FV → FV
  | .nan _, _ => .nan false
  | _, .nan _ => .nan false
  | .inf s, .inf t => if s = t then .inf s else .nan false
  | .inf s, _ => .inf s
  | _, .inf t => .inf t
  | .fin s m e, .fin t n g =>
    let q := Min.min e g
    let x : Int := (m * 2 ^ (e - q).toNat : Nat)
    let y : Int := (n * 2 ^ (g - q).toNat : Nat)
    let z := (if s then -x else x) + (if t then -y else y)
    if z = 0 then .fin (s && t) 0 q
    else .fin (decide (z < 0)) z.natAbs q

def FV.mul : FV → FV → FV
  | .nan _, _ => .nan false
  | _, .nan _ => .nan false
  | .inf s, .inf t => .inf (s != t)
  | .inf s, .fin t n _ => if n = 0 then .nan false else .inf (s != t)
  | .fin s m _, .inf t => if m = 0 then .nan false else .inf (s != t)
  | .fin s m e, .fin t n g => .fin (s != t) (m * n) (e + g)

/-- A quotient with at least 64 bits before a sticky bit, enough for a single rounding to 53 bits. -/
def FV.div : FV → FV → FV
  | .nan _, _ => .nan false
  | _, .nan _ => .nan false
  | .inf _, .inf _ => .nan false
  | .inf s, .fin t _ _ => .inf (s != t)
  | .fin s _ _, .inf t => .fin (s != t) 0 0
  | .fin s m e, .fin t n g =>
    if n = 0 then (if m = 0 then .nan false else .inf (s != t))
    else
      let k := n.log2 + 66
      let x := m * 2 ^ k
      .fin (s != t) (2 * (x / n) + (if x % n = 0 then 0 else 1)) (e - g - k - 1)

/-- The integer square root, one bit at a time. -/
def isqrt (n : Nat) : Nat → Nat → Nat
  | 0, r => r
  | i + 1, r => isqrt n i (if (r + 2 ^ i) * (r + 2 ^ i) ≤ n then r + 2 ^ i else r)

/-- A square root with at least 64 bits before a sticky bit. -/
def FV.sqrt : FV → FV
  | .nan _ => .nan false
  | .inf s => if s then .nan false else .inf false
  | .fin s m e =>
    if m = 0 then .fin s 0 0
    else if s then .nan false
    else
      let m' := if e % 2 = 0 then m else 2 * m
      let e' := if e % 2 = 0 then e else e - 1
      let x := m' * 2 ^ 140
      let r := isqrt x (x.log2 / 2 + 1) 0
      .fin false (2 * r + (if r * r = x then 0 else 1)) (e' / 2 - 71)

/-! binary32 and binary64. -/

def val32 (a : Half) : FV := decodeF fp32 a.toNat
def to32 (v : FV) : Half := BitVec.ofNat 32 (roundTo fp32 .rne false v)
def isNaN : FV → Bool
  | .nan _ => true
  | _ => false
def nan32 (a : Half) : Bool := isNaN (val32 a)
/-- The canonical quiet NaN of binary32. -/
def qnan32 : Half := 0x7FC00000#32
/-- -x: the sign inverted, used as an operand. -/
def negBit32 (a : Half) : Half := a ^^^ 0x80000000#32

/-- R52. -/
def add32 (a b : Half) : Half := to32 ((val32 a).add (val32 b))
def sub32 (a b : Half) : Half := add32 a (negBit32 b)
def mul32 (a b : Half) : Half := to32 ((val32 a).mul (val32 b))
/-- a*b+c, rounded once (R84). -/
def fma32 (a b c : Half) : Half := to32 (((val32 a).mul (val32 b)).add (val32 c))
def div32 (a b : Half) : Half := to32 ((val32 a).div (val32 b))
def sqrt32 (a : Half) : Half := to32 (val32 a).sqrt

/-- The position of a binary32 code in the order of R59: NaNs highest, -0 below +0. -/
def rank32 (a : Half) : Int :=
  if nan32 a then 2 ^ 32
  else if a.msb then -((a.toNat : Int) - 2 ^ 31) - 1 else a.toNat

/-- fp_min and fp_max of R84. -/
def fmin32 (a b : Half) : Half :=
  if nan32 a && nan32 b then qnan32 else if nan32 a then b else if nan32 b then a
  else if rank32 b < rank32 a then b else a
def fmax32 (a b : Half) : Half :=
  if nan32 a && nan32 b then qnan32 else if nan32 a then b else if nan32 b then a
  else if rank32 a < rank32 b then b else a

/-- An order key in which +0 and -0 are equal (R85). -/
def key32 (a : Half) : Int := if a.msb then -((a.toNat : Int) - 2 ^ 31) else a.toNat
def feq32 (a b : Half) : Bool := !nan32 a && !nan32 b && key32 a == key32 b
def flt32 (a b : Half) : Bool := !nan32 a && !nan32 b && decide (key32 a < key32 b)
def fle32 (a b : Half) : Bool := !nan32 a && !nan32 b && decide (key32 a ≤ key32 b)
def fun32 (a b : Half) : Bool := nan32 a || nan32 b

def val64 (a : Word) : FV := decodeF fp64 a.toNat
def to64 (v : FV) : Word := BitVec.ofNat 64 (roundTo fp64 .rne false v)
def add64 (a b : Word) : Word := to64 ((val64 a).add (val64 b))
def sub64 (a b : Word) : Word := add64 a (b ^^^ 0x8000000000000000#64)
def mul64 (a b : Word) : Word := to64 ((val64 a).mul (val64 b))
def fma64 (a b c : Word) : Word := to64 (((val64 a).mul (val64 b)).add (val64 c))
def div64 (a b : Word) : Word := to64 ((val64 a).div (val64 b))
def sqrt64 (a : Word) : Word := to64 (val64 a).sqrt

/-! Elementary functions (R54). Fixed point with 400 fraction bits; every result that is not exact is irrational, so
the last bit is set as a sticky bit and the rounding that follows is the correct one (log 10). -/

def fx : Nat := 400
/-- pi and the natural logarithm of 2, times 2^400. -/
def piFx : Nat := 0x3243f6a8885a308d313198a2e03707344a4093822299f31d0082efa98ec4e6c89452821e638d01377be5466cf34e90c6cc0ac
def ln2Fx : Nat := 0xb17217f7d1cf79abc9e3b39803f2f6af40f343267298b62d8a0d175b8baafa2be7b876206debac98559552fb4afa1b10ed2e

/-- The sum of x^k/k! from the term t of index k on. -/
def expSeries (x : Nat) : Nat → Nat → Nat → Nat
  | 0, _, acc => acc
  | n + 1, t, acc => expSeries x n (t * x / 2 ^ fx / (120 - n)) (acc + t)

/-- Alternating series with t_{k+1} = t_k * y2 / ((i+1)(i+2)), the positive and negative terms apart. -/
def altSeries (y2 : Nat) : Nat → Nat → Nat → Bool → Nat → Nat → Nat
  | 0, _, _, _, pos, neg => pos - neg
  | n + 1, i, t, s, pos, neg =>
    let t' := t * y2 / 2 ^ fx / ((i + 1) * (i + 2))
    if s then altSeries y2 n (i + 2) t' (!s) (pos + t) neg
    else altSeries y2 n (i + 2) t' (!s) pos (neg + t)

/-- sin and cos of an angle in [0, pi/4] in fixed point. -/
def sinFx (y : Nat) : Nat := altSeries (y * y / 2 ^ fx) 60 1 y true 0 0
def cosFx (y : Nat) : Nat := altSeries (y * y / 2 ^ fx) 60 0 (2 ^ fx) true 0 0

/-- A value strictly between r and r+1 units of 2^-400. -/
def sticky (neg : Bool) (r : Nat) : FV := .fin neg (2 * r + 1) (-(fx : Int) - 1)

/-- 2^x. -/
def exp2 : FV → FV
  | .nan _ => .nan false
  | .inf s => if s then .fin false 0 0 else .inf false
  | .fin s m e =>
    if m = 0 then .fin false 1 0
    else if 11 ≤ e + (m.log2 : Int) then (if s then .fin false 1 (-400) else .inf false)
    else if e + (m.log2 : Int) < -40 then .fin false 1 0
    else
      let x : Int := if 0 ≤ e then m * 2 ^ (fx + e.toNat) else (m * 2 ^ fx / 2 ^ (-e).toNat : Nat)
      let x := if s then -x else x
      let n := x / 2 ^ fx
      let f := (x % 2 ^ fx).toNat
      if f = 0 then .fin false 1 n
      else
        match sticky false (expSeries (f * ln2Fx / 2 ^ fx) 120 (2 ^ fx) 0) with
        | .fin t a g => .fin t a (g + n)
        | v => v

/-- The fraction bits of log2 of y / 2^p in [1, 2), by repeated squaring. -/
def log2Bits (p : Nat) : Nat → Nat → Nat → Nat
  | 0, _, acc => acc
  | n + 1, y, acc =>
    let y2 := y * y / 2 ^ p
    if 2 ^ (p + 1) ≤ y2 then log2Bits p n (y2 / 2) (2 * acc + 1) else log2Bits p n y2 (2 * acc)

/-- log2 x, with 120 fraction bits of a 400-bit working value. -/
def log2F : FV → FV
  | .nan _ => .nan false
  | .inf s => if s then .nan false else .inf false
  | .fin s m e =>
    if m = 0 then .inf true
    else if s then .nan false
    else
      let n : Int := e + m.log2
      if m = 2 ^ m.log2 then .fin (decide (n < 0)) n.natAbs 0
      else
        let b := log2Bits fx 120 (m * 2 ^ fx / 2 ^ m.log2) 0
        let r : Int := 2 * (n * 2 ^ 120 + b) + 1
        .fin (decide (r < 0)) r.natAbs (-121)

/-- 1 / sqrt x. -/
def rsqrt : FV → FV
  | .nan _ => .nan false
  | .inf s => if s then .nan false else .fin false 0 0
  | .fin s m e =>
    if m = 0 then .inf s
    else if s then .nan false
    else
      let m' := if e % 2 = 0 then m else 2 * m
      let e' := if e % 2 = 0 then e else e - 1
      let x := 2 ^ 240 / m'
      let r := isqrt x 121 0
      .fin false (2 * r + (if r * r * m' = 2 ^ 240 then 0 else 1)) (-(e' / 2) - 121)

/-- sin(2 pi t / 2^400) for t in a quarter turn, as a fixed-point magnitude with its exactness. -/
def sinQuarter (t : Nat) : FV :=
  if t = 0 then .fin false 0 0
  else if t = 2 ^ (fx - 2) then .fin false 1 0
  else if t ≤ 2 ^ (fx - 3) then sticky false (sinFx (t * (2 * piFx) / 2 ^ fx))
  else sticky false (cosFx ((2 ^ (fx - 2) - t) * (2 * piFx) / 2 ^ fx))

/-- sin of a fraction t / 2^400 of a turn, t below 2^400; the zero it returns is positive. -/
def sinTurn (t : Nat) : FV :=
  let h := 2 ^ (fx - 1)
  let u := t % h
  let v := if u ≤ 2 ^ (fx - 2) then u else h - u
  let r := sinQuarter v
  if h ≤ t then r.neg else r

/-- The fraction of a turn of a value, 0 for an integer; binary32 has at most 149 fraction bits. -/
def turnFx (s : Bool) (m : Nat) (e : Int) : Nat :=
  if 0 ≤ e then 0
  else
    let f := m * 2 ^ fx / 2 ^ (-e).toNat % 2 ^ fx
    if s then (2 ^ fx - f) % 2 ^ fx else f

/-- sin 2 pi x; an exactly zero result carries the sign of x (Table 3.6). -/
def sinF : FV → FV
  | .nan _ => .nan false
  | .inf _ => .nan false
  | .fin s m e =>
    match sinTurn (turnFx s m e) with
    | .fin t n g => if n = 0 then .fin s 0 0 else .fin t n g
    | v => v

/-- cos 2 pi x; an exactly zero result is +0 (Table 3.6). -/
def cosF : FV → FV
  | .nan _ => .nan false
  | .inf _ => .nan false
  | .fin s m e =>
    match sinTurn ((turnFx s m e + 2 ^ (fx - 2)) % 2 ^ fx) with
    | .fin t n g => if n = 0 then .fin false 0 0 else .fin t n g
    | v => v

def exp32 (a : Half) : Half := to32 (exp2 (val32 a))
def log32 (a : Half) : Half := to32 (log2F (val32 a))
def rcp32 (a : Half) : Half := to32 ((FV.fin false 1 0).div (val32 a))
def rsq32 (a : Half) : Half := to32 (rsqrt (val32 a))
def sin32 (a : Half) : Half := to32 (sinF (val32 a))
def cos32 (a : Half) : Half := to32 (cosF (val32 a))

/-! Element types and conversions (R53). -/

/-- A number format: an integer of a width, or a floating-point format. -/
inductive NFmt where
  | int (signed : Bool) (w : Nat)
  | flt (f : FFmt)
  deriving DecidableEq, Repr

def NFmt.width : NFmt → Nat
  | .int _ w => w
  | .flt f => f.width

/-- Table 2.9; C16 and C32 stand for the format of one part. -/
def tyFmt (t : Ty) : NFmt :=
  match t.val with
  | 0 => .int true 8 | 1 => .int true 16 | 2 => .int true 32 | 3 => .int true 64
  | 4 => .int false 8 | 5 => .int false 16 | 6 => .int false 32 | 7 => .int false 64
  | 8 => .flt e4m3 | 9 => .flt e5m2 | 10 => .flt fp16 | 11 => .flt bf16 | 12 => .flt fp32 | 13 => .flt fp64
  | 14 => .flt fp16 | _ => .flt fp32

/-- The integer a code of width w holds. -/
def intVal (signed : Bool) (w c : Nat) : Int :=
  let u := c % 2 ^ w
  if signed && decide (2 ^ (w - 1) ≤ u) then (u : Int) - 2 ^ w else u

def intMin (signed : Bool) (w : Nat) : Int := if signed then -(2 ^ (w - 1)) else 0
def intMax (signed : Bool) (w : Nat) : Int := if signed then 2 ^ (w - 1) - 1 else 2 ^ w - 1

/-- Wrapped modulo 2^w, or clamped with sat (R41). -/
def intCode (signed : Bool) (w : Nat) (sat : Bool) (v : Int) : Nat :=
  let v := if sat then Max.max (intMin signed w) (Min.min v (intMax signed w)) else v
  (v % 2 ^ w).toNat

def intFV (v : Int) : FV := .fin (decide (v < 0)) v.natAbs 0

/-- conv of R53 on codes. -/
def conv (src dst : NFmt) (mode : RMode) (sat : Bool) (x : Nat) : Nat :=
  match src, dst with
  | .int s w, .int t v => intCode t v sat (intVal s w x)
  | .int s w, .flt f => roundTo f mode sat (intFV (intVal s w x))
  | .flt f, .flt g => roundTo g mode sat (decodeF f x)
  | .flt f, .int t v =>
    match decodeF f x with
    | .nan _ => 0
    | .inf neg => if sat then intCode t v true (if neg then intMin t v else intMax t v) else 0
    | y => intCode t v sat (roundInt mode y)

/-- An integer code extended to a wider word: sign-extended for I types, zero-extended for N types. -/
def extCode (f : NFmt) (n c : Nat) : Nat :=
  match f with
  | .int s w => (intVal s w c % 2 ^ n).toNat
  | .flt _ => c

/-! Sums (R55, R58). -/

/-- One level of sum_tree over a list of pairs' results: neighbours are added, the even one on the left. -/
def pairUp (add : α → α → α) : List α → List α
  | x :: y :: r => add x y :: pairUp add r
  | l => l

/-- sum_tree of R55: n levels, neighbours first. -/
def sumTree (add : α → α → α) (dflt : α) : Nat → List α → α
  | 0, l => l.headD dflt
  | n + 1, l => sumTree add dflt n (pairUp add l)

/-! The counter-based generator (R60). -/

def rotl32 (x : Half) (n : Nat) : Half := x.rotateLeft n

def vrndRounds : Nat → Half → Half → Half × Half
  | 0, x, y => (x, y)
  | n + 1, x, y =>
    let x := x * 0x2C1B3C6D#32
    let x := x ^^^ (x >>> 15)
    let x := x + y
    vrndRounds n x (rotl32 y 9 ^^^ x)

def vrnd (c : Half) (k : Word) : Half :=
  let r := vrndRounds 6 (c ^^^ k.setWidth 32) ((k >>> 32).setWidth 32)
  r.1 ^^^ r.2

/-- (result >> 8) * 2^-24 as binary32. -/
def vrndF (c : Half) (k : Word) : Half := to32 (.fin false ((vrnd c k).toNat / 256) (-24))

end Sys2Proof.Num
end

