-- ==== Sys2Proof/Machine/Operands.lean ====
section
/-! DEFINITION. Operand forms: scalar registers with the last-result file (R20, R22, R61-R67), the receive queue (R216),
stream registers (R68, R112-R115), and line operands (R21). -/

namespace Sys2Proof.Machine

open Sys2Proof.Num

/-! Elements in memory (Table 6.3). -/

/-- Bytes of an element. -/
def elemSize (t : Ty) : Nat :=
  match t.val with
  | 0 | 4 | 8 | 9 => 1
  | 1 | 5 | 10 | 11 => 2
  | 2 | 6 | 12 | 14 => 4
  | _ => 8

def isComplex (t : Ty) : Bool := t.val == 14 || t.val == 15

/-- The lane form of a type: I32, N32 or FP32 (of each part for a complex type). -/
def laneForm (t : Ty) : NFmt :=
  match t.val with
  | 0 | 1 | 2 => .int true 32
  | 4 | 5 | 6 => .int false 32
  | _ => .flt fp32

/-- One part widened to its lane form; exact (R109). -/
def widenPart (t : Ty) (c : Nat) : Half := BitVec.ofNat 32 (conv (tyFmt t) (laneForm t) .rne false c)
/-- One lane narrowed to the type: integers wrap (R109). -/
def narrowPart (t : Ty) (x : Half) : Nat := conv (laneForm t) (tyFmt t) .rne false x.toNat

/-- Bits of one part of a complex element. -/
def partBits (t : Ty) : Nat := if t.val = 14 then 16 else 32

/-- The lanes of an element: one, or the real and the imaginary part (R49). -/
def lanesOf (t : Ty) (c : Nat) : List Half :=
  if isComplex t then [widenPart t (c % 2 ^ partBits t), widenPart t (c / 2 ^ partBits t)] else [widenPart t c]

/-- The element of two neighbouring lanes (the second matters for a complex type only). -/
def elemOf (t : Ty) (x y : Half) : Nat :=
  if isComplex t then narrowPart t x + narrowPart t y * 2 ^ partBits t else narrowPart t x

/-- A lane value as a scalar: sign-extended for I types, zero-extended otherwise (R104). -/
def laneScalar (t : Ty) (x : Half) : Word :=
  match t.val with
  | 0 | 1 | 2 => x.signExtend 64
  | _ => x.setWidth 64

/-- An element in its lane form as a scalar (R113). -/
def elemScalar (t : Ty) (c : Nat) : Word :=
  if isComplex t then
    (widenPart t (c % 2 ^ partBits t)).setWidth 64 ||| ((widenPart t (c / 2 ^ partBits t)).setWidth 64 <<< 32)
  else laneScalar t (widenPart t c)

/-- The element a scalar pushes (R113). -/
def scalarElem (t : Ty) (v : Word) : Nat := elemOf t (v.setWidth 32) ((v >>> 32).setWidth 32)

/-- Elements of a line operand (Table 6.3). -/
def lineCount (t : Ty) : Nat := if isComplex t then 32 else 64

/-! Elements read and written at checked addresses. -/

/-- Elements of size bytes checked in element order: alignment, then translation, rights and lease (R111). -/
def checkElems (right size : Nat) : List Addr → M (List (List Hit))
  | [] => pure []
  | a :: r => do
    aligned a size
    let h ← check right a size
    let t ← checkElems right size r
    return h :: t

/-- Checked elements of this device read. -/
def readElems : List Addr → List (List Hit) → M (List Nat)
  | a :: r, h :: t => do
    let bs ← readHits a.tval h
    let l ← readElems r t
    return leNat bs :: l
  | _, _ => pure []

/-- How a line instruction waits: it has no window and does not stop the strand (R26). -/
def lineWait : Wait := { la := 0, holds := false }

/-- Checked elements written in element order: where several name one byte, the highest numbered wins (R111). -/
def writeElems (size : Nat) : List Addr → List (List Hit) → List Nat → M Unit
  | a :: r, h :: t, v :: l => do
    writeHits true lineWait a h (leBytes size v)
    writeElems size r t l
  | _, _, _ => pure ()

/-- Every store of the strand, pushed elements among them, has been performed (R114, R126). -/
def drained : M Unit := fun s => if s.storesDone then .ok ((), s) else .error .wait

/-- Elements stored: all checked, then all written (R111). -/
def storeElems (size : Nat) (as : List Addr) (vs : List Nat) : M Unit := do
  let hs ← checkElems rW size as
  soFree hs.flatten
  writeElems size as hs vs

/-! Home items (R73): an abroad strand that names one returns home first. -/

def atHome : M Unit := fun s => if s.me.abroad then .error .home else .ok ((), s)
/-- m registers are home items except in an F64 stay (R40); q and stream registers that an F64 instruction names are reached
from afar in the same way (log 81). -/
def nearM : M Unit := fun s => if s.me.abroad && !s.me.stay then .error .home else .ok ((), s)

/-- A register whose value is owed holds its reader (R26); one owed by a fault makes the fault due (log 14). -/
def settled (hit : Strand → Pending → Bool) : M Unit := fun s =>
  match s.me.pend.find? (hit s.me) with
  | none => .ok ((), s)
  | some p => .error (if p.isFault then .owed else .wait)

/-! Scalar registers. -/

/-- Whether a register an open instruction will write is one the strand now calls r. An m register is one of the frame
file: register 8*d + i at depth d (R62). -/
def Pending.owes (p : Pending) (wdep : Nat) (r : Reg) : Bool :=
  match r with
  | .m i => p.dsts.any fun x =>
      match x with
      | .m j => p.depth * 8 + j.val == wdep * 8 + i.val
      | _ => false
  | _ => p.dsts.contains r

/-- The place of m_i in the physical file: frame d + i/8, at that frame modulo 8 (R62). -/
def mIndex (wdep : BitVec 16) (i : Fin 16) : Fin 64 :=
  Fin.ofNat 64 ((wdep.toNat + i.val / 8) % 8 * 8 + i.val % 8)

def Strand.m (t : Strand) (i : Fin 16) : Word := t.frames[mIndex t.wdep i]
def Strand.setM (t : Strand) (i : Fin 16) (v : Word) : Strand :=
  { t with frames := t.frames.set (mIndex t.wdep i) v }

/-- The shift of the last-result file by one value (R65). -/
def Strand.shift (t : Strand) (v : Word) : Strand :=
  { t with
    l1 := t.l0
    l0 := v
    pend := t.pend.map fun (p : Pending) => { p with lands := p.lands.map (· + 1), sh := p.sh + 1 } }

/-- Elements a stream's pattern has. -/
def Stream.total (st : Stream) : Nat :=
  st.c[0] * (if 2 ≤ st.dims then st.c[1] else 1) * (if 3 ≤ st.dims then st.c[2] else 1)

/-- The address of element e of a pattern (R112). -/
def Stream.addr (st : Stream) (e : Nat) : M Addr :=
  let c0 := st.c[0]
  let c1 := if 2 ≤ st.dims then st.c[1] else 1
  let i0 := e % c0
  let i1 := e / c0 % c1
  let i2 := e / (c0 * c1)
  let o := i0 * st.s[0].toInt + (if 2 ≤ st.dims then i1 * st.s[1].toInt else 0) +
    (if 3 ≤ st.dims then i2 * st.s[2].toInt else 0)
  lineAddr st.base (o * elemSize st.ty)

def addrsFrom (st : Stream) : Nat → Nat → M (List Addr)
  | 0, _ => pure []
  | n + 1, e => do
    let a ← st.addr e
    let r ← addrsFrom st n (e + 1)
    return a :: r

/-- The binding of a stream register that an access in one direction may use (R68). -/
def bound (i : Fin 4) (out : Bool) : M Stream := fun s =>
  match s.me.t[i] with
  | some st => if st.out == out then .ok (st, s) else .error (.trap 7 0 0)
  | none => .error (.trap 7 0 0)

/-- Whether an element fetched ahead is still on its way. -/
def Ahead.onWay : Ahead → Bool
  | .asked _ _ => true
  | _ => false
def Ahead.code : Ahead → Nat
  | .got c => c
  | _ => 0
/-- The first element of a list that could not be read raises its fault at the pop that needs it (R113). -/
def aheadOk : List Ahead → M Unit
  | [] => pure ()
  | .lost cls detail tv :: _ => trap cls detail tv
  | _ :: r => aheadOk r

/-- Elements of an input stream that were not fetched ahead, read now; one that another device serves is fetched ahead
first (R113, R298). -/
def popRest (size : Nat) (as : List Addr) : M (List Nat) := do
  let hs ← checkElems rR size as
  let s ← get
  soFree hs.flatten
  if hs.flatten.any (Hit.away s) then stop .wait
  readElems as hs

/-- n elements popped from an input stream: those fetched ahead first, the rest read now (R113). -/
def popElems (i : Fin 4) (n : Nat) : M (Ty × List Nat) := do
  nearM
  let st ← bound i false
  if st.total < st.pos + n then illegalState
  else
    let got := st.ahead.take n
    if got.any Ahead.onWay then stop .wait
    aheadOk got
    let as ← addrsFrom st (n - got.length) (st.pos + got.length)
    let more ← popRest (elemSize st.ty) as
    updMe fun t => { t with t := t.t.set i (some { st with pos := st.pos + n, ahead := st.ahead.drop n }) }
    return (st.ty, got.map Ahead.code ++ more)

/-- What the strand has fetched ahead is fetched again: its own push may have changed it (R115). -/
def Strand.refetch (t : Strand) : Strand :=
  { t with t := t.t.map fun x => x.map fun st => if st.out then st else { st with ahead := [] } }

/-- Whether an open instruction will push to a stream. -/
def Pending.pushes (i : Fin 4) (p : Pending) : Bool := p.dsts.contains (.t i)

/-- Elements pushed to an output stream, each checked as a store (R113). -/
def pushElems (i : Fin 4) (n : Nat) (vs : Ty → List Nat) : M Unit := do
  nearM
  let st ← bound i true
  if st.total < st.pos + n then illegalState
  else
    let as ← addrsFrom st n st.pos
    storeElems (elemSize st.ty) as (vs st.ty)
    updMe fun t => ({ t with t := t.t.set i (some { st with pos := st.pos + n }) }).refetch

def Reg.isO : Reg → Bool
  | .o _ => true
  | _ => false

/-- o0 to o5 are read as they stand: none is owed. -/
def settledO : M Unit := settled fun _ p => p.dsts.any Reg.isO

/-- Whether an entry came from a strand of another device: its removal is an acquire of span scope (R218, R338). -/
def Msg.fromAfar (m : Msg) (dev : Nat) : Bool := wbits m.h0 0 32 != 0xFFFFFFFF && wbits m.h0 16 16 != dev

/-- The head of the receive queue popped: its payload goes to o0-o5 without a shift and H0 is the value (R216). An
empty queue holds the strand (R69). -/
def popQ : M Word := do
  nearM
  let s ← get
  match s.me.q with
  | [] => stop .rest
  | e :: r => do
    let drop (p : Pending) : Pending := { p with dsts := p.dsts.map fun x => if Reg.isO x then .z else x }
    updMe fun t => { t with q := r, o := e.o, pend := t.pend.map drop }
    if e.fromAfar s.devNo then acquireSpan
    return e.h0

/-- A scalar source (R20). -/
def rd (r : Reg) : M Word :=
  match r with
  | .m i => do
    nearM
    settled fun t p => p.owes t.wdep.toNat r
    gets' fun s => s.me.m i
  | .o i => do
    settled fun t p => p.owes t.wdep.toNat r
    gets' fun s => s.me.o[i]
  | .l0 => do
    settled fun _ p => p.lands.contains 0
    gets' fun s => s.me.l0
  | .l1 => do
    settled fun _ p => p.lands.contains 1
    gets' fun s => s.me.l1
  | .z => pure 0
  | .t i => do
    let x ← popElems i 1
    return elemScalar x.1 (x.2.headD 0)
  | .q => popQ
  | .pw => do
    settled fun t p => p.owes t.wdep.toNat r
    gets' fun s => (s.me.pw ||| 1#16).setWidth 64

/-- d's old value, for an instruction that reads d: a t register there faults in either direction (R74). -/
def rdOld (d : Reg) : M Word :=
  match d with
  | .t _ => illegalState
  | _ => rd d

/-- Places of the last-result file written now: no earlier value comes to them (R65). -/
def Strand.strike (t : Strand) (ns : List Nat) : Strand :=
  { t with pend := t.pend.map fun (p : Pending) => { p with lands := p.lands.map fun n => if ns.contains n then gone else n } }

/-- Where the value goes, besides the last-result file. -/
def place (d : Reg) (v : Word) : M Unit :=
  match d with
  | .m i => do
    nearM
    updMe fun t => (t.setM i v).claim d
  | .o i => updMe fun t => ({ t with o := t.o.set i v }).claim d
  | .l0 => pure ()
  | .l1 => updMe fun t => ({ t with l1 := v }).strike [1]
  | .z => pure ()
  | .t i => do
    settled fun _ p => p.pushes i
    pushElems i 1 fun ty => [scalarElem ty v]
  | .q => trap 1 0 0
  | .pw => updMe fun t => ({ t with pw := pwOf v }).claim d

/-- A scalar destination: l0 shifts to l1 and takes the value, then the register is written (R65, R66). -/
def wr (d : Reg) (v : Word) : M Unit := do
  updMe fun t => t.shift v
  place d v

/-- The same from afar: an m register of an abroad strand is written at its home core (R129). -/
def wrFar (d : Reg) (v : Word) : M Unit :=
  match d with
  | .m i => updMe fun t => ((t.shift v).setM i v).claim d
  | _ => wr d v

/-- An extension register (R70). -/
def getE (i : Fin 8) : M Word := gets' fun s => s.me.e[i]

/-! Line operands. -/

abbrev Line := Vector Half 64

/-- The lanes of a list, missing ones zero. -/
def lineOfList (l : List Half) : Line := Vector.ofFn fun i => l.getD i.val 0

/-- Lanes as a list. -/
def listOfLine (v : Line) : List Half := (List.range 64).map fun i => v[Fin.ofNat 64 i]

/-- The elements of a line for a type: each lane, or each pair of lanes. -/
def lineElems (t : Ty) (v : Line) : List Nat :=
  if isComplex t then (List.range 32).map fun p => elemOf t v[Fin.ofNat 64 (2 * p)] v[Fin.ofNat 64 (2 * p + 1)]
  else (List.range 64).map fun i => elemOf t v[Fin.ofNat 64 i] 0

/-- A line register an open instruction will write holds what reads or writes it (R99). -/
def settledK (i : Fin 8) : M Unit := settled fun _ p => p.line == some i

def getK (i : Fin 8) : M Line := do
  atHome
  settledK i
  gets' fun s => s.me.k[i]

/-- A line source: a k register, or the next 64 elements (32 complex ones) of an input stream (R21, R113). -/
def rdLine (r : LReg) : M Line :=
  match r with
  | .k i => getK i
  | .t i => do
    let st ← bound i false
    let x ← popElems i (lineCount st.ty)
    return lineOfList (x.2.flatMap (lanesOf x.1))

/-- d's old value: a t register there faults (R98). -/
def rdLineOld (r : LReg) : M Line :=
  match r with
  | .k i => getK i
  | .t _ => illegalState

/-- A line destination: a k register, or a push of as many elements. -/
def wrLine (r : LReg) (v : Line) : M Unit :=
  match r with
  | .k i => do
    atHome
    settledK i
    updMe fun t => { t with k := t.k.set i v }
  | .t i => do
    settled fun _ p => p.pushes i
    let st ← bound i true
    pushElems i (lineCount st.ty) fun ty => lineElems ty v

end Sys2Proof.Machine
end

