-- ==== Sys2Proof/Machine/Scalar.lean ====
section
/-! DEFINITION. Integer arithmetic, logic, shifts, bit manipulation, compares, predicate logic, immediate forms
(05_scalar_and_control, R76-R83), and the compact aliases of Table 2.13 that stand for them. -/

namespace Sys2Proof.Machine

/-! Shared operations: the sources are read in the order a, b, then d where d is read (R22). -/

def op1 (f : Word → Word) (d a : Reg) : M Unit := do
  let x ← rd a
  wr d (f x)

def op2 (f : Word → Word → Word) (d a b : Reg) : M Unit := do
  let x ← rd a
  let y ← rd b
  wr d (f x y)

/-- An operation that reads d's old value as well. -/
def op3 (f : Word → Word → Word → Word) (d a b : Reg) : M Unit := do
  let x ← rd a
  let y ← rd b
  let z ← rdOld d
  wr d (f x y z)

/-- A compare: the designator takes the relation and nothing shifts (R80). -/
def cmp2 (f : Word → Word → Bool) (pd : Pred) (a b : Reg) : M Unit := do
  let x ← rd a
  let y ← rd b
  setPred pd (f x y)

def cmp1 (f : Word → Bool) (pd : Pred) (a : Reg) : M Unit := do
  let x ← rd a
  setPred pd (f x)

def pred2 (f : Bool → Bool → Bool) (pd pa pb : Pred) : M Unit := do
  let x ← getPred pa
  let y ← getPred pb
  setPred pd (f x y)

/-! The functions. -/

/-- Bits 127:64 of the signed product (Table 5.1). -/
def mulHigh (a b : Word) : Word := BitVec.ofInt 64 (a.toInt * b.toInt / 2 ^ 64)
/-- Bits 127:64 of the unsigned product. -/
def mulHighU (a b : Word) : Word := BitVec.ofNat 64 (a.toNat * b.toNat / 2 ^ 64)

/-- int_div of R76, signed. -/
def divS (a b : Word) : Word :=
  if b = 0 then BitVec.allOnes 64
  else if a = BitVec.intMin 64 ∧ b = BitVec.allOnes 64 then a
  else BitVec.ofInt 64 (a.toInt.tdiv b.toInt)
/-- int_div of R76, unsigned. -/
def divU (a b : Word) : Word := if b = 0 then BitVec.allOnes 64 else BitVec.ofNat 64 (a.toNat / b.toNat)
/-- int_rem of R76. -/
def remS (a b : Word) : Word :=
  if b = 0 then a
  else if a = BitVec.intMin 64 ∧ b = BitVec.allOnes 64 then 0
  else BitVec.ofInt 64 (a.toInt.tmod b.toInt)

/-- A shift or rotate amount: bits 5:0 (R77). -/
def amount (b : Word) : Nat := b.toNat % 64

def minS (a b : Word) : Word := if a.toInt ≤ b.toInt then a else b
def maxS (a b : Word) : Word := if b.toInt ≤ a.toInt then a else b
def minU (a b : Word) : Word := if a.toNat ≤ b.toNat then a else b
def maxU (a b : Word) : Word := if b.toNat ≤ a.toNat then a else b

/-- Leading zero bits, 64 for 0 (Table 5.2). -/
def clzW (a : Word) : Word := if a = 0 then 64 else BitVec.ofNat 64 (63 - a.toNat.log2)

def bitsFrom (f : Nat → Bool) : Nat → Nat
  | 0 => 0
  | n + 1 => bitsFrom f n + (if f n then 2 ^ n else 0)
/-- The word whose bit i is f i. -/
def ofBits (f : Nat → Bool) : Word := BitVec.ofNat 64 (bitsFrom f 64)

def countBits (f : Nat → Bool) : Nat → Nat
  | 0 => 0
  | n + 1 => countBits f n + (if f n then 1 else 0)
def popcW (a : Word) : Word := BitVec.ofNat 64 (countBits a.getLsbD 64)

/-- BEXT (R78): the bits of a under mask b, packed downward. -/
def bextFrom (a b : Word) : Nat → Nat
  | 0 => 0
  | n + 1 => bextFrom a b n + (if b.getLsbD n && a.getLsbD n then 2 ^ countBits b.getLsbD n else 0)
def bextW (a b : Word) : Word := BitVec.ofNat 64 (bextFrom a b 64)
/-- BDEP (R78): a's low bits spread to the positions of mask b. -/
def bdepW (a b : Word) : Word := ofBits fun i => b.getLsbD i && a.getLsbD (countBits b.getLsbD i)
def brevW (a : Word) : Word := ofBits fun i => a.getLsbD (63 - i)

/-- SEL (R78): bits of a where the old d is 1, of b where it is 0. -/
def selW (a b d : Word) : Word := (a &&& d) ||| (b &&& ~~~d)
/-- LUT3 (R79): bit 4*d + 2*a + b of the table. -/
def lut3W (t : BitVec 8) (a b d : Word) : Word := ofBits fun i =>
  t.getLsbD (4 * (d.getLsbD i).toNat + 2 * (a.getLsbD i).toNat + (b.getLsbD i).toNat)
/-- FSL and FSR (R79). -/
def fslW (n : Nat) (a b : Word) : Word := if n = 0 then a else (a <<< n) ||| (b >>> (64 - n))
def fsrW (n : Nat) (a b : Word) : Word := if n = 0 then b else (b >>> n) ||| (a <<< (64 - n))

/-! INT (R76). -/

def execAdd (d a b : Reg) (g : Guard) (s : State) : Out := short 4 g (op2 (· + ·) d a b) s
def execSub (d a b : Reg) (g : Guard) (s : State) : Out := short 4 g (op2 (· - ·) d a b) s
def execMul (d a b : Reg) (g : Guard) (s : State) : Out := short 4 g (op2 (· * ·) d a b) s
def execMulh (d a b : Reg) (g : Guard) (s : State) : Out := short 4 g (op2 mulHigh d a b) s
def execMulhn (d a b : Reg) (g : Guard) (s : State) : Out := short 4 g (op2 mulHighU d a b) s
def execDiv (d a b : Reg) (g : Guard) (_la : Look) (s : State) : Out := short 4 g (op2 divS d a b) s
def execDivn (d a b : Reg) (g : Guard) (_la : Look) (s : State) : Out := short 4 g (op2 divU d a b) s
def execRem (d a b : Reg) (g : Guard) (_la : Look) (s : State) : Out := short 4 g (op2 remS d a b) s

/-! LOGIC and SHIFT (R77). -/

def execAnd (d a b : Reg) (g : Guard) (s : State) : Out := short 4 g (op2 (· &&& ·) d a b) s
def execOr (d a b : Reg) (g : Guard) (s : State) : Out := short 4 g (op2 (· ||| ·) d a b) s
def execXor (d a b : Reg) (g : Guard) (s : State) : Out := short 4 g (op2 (· ^^^ ·) d a b) s
def execAndn (d a b : Reg) (g : Guard) (s : State) : Out := short 4 g (op2 (fun x y => x &&& ~~~y) d a b) s
def execOrn (d a b : Reg) (g : Guard) (s : State) : Out := short 4 g (op2 (fun x y => x ||| ~~~y) d a b) s
def execXnor (d a b : Reg) (g : Guard) (s : State) : Out := short 4 g (op2 (fun x y => ~~~(x ^^^ y)) d a b) s
def execMin (d a b : Reg) (g : Guard) (s : State) : Out := short 4 g (op2 minS d a b) s
def execMax (d a b : Reg) (g : Guard) (s : State) : Out := short 4 g (op2 maxS d a b) s
def execShl (d a b : Reg) (g : Guard) (s : State) : Out := short 4 g (op2 (fun x y => x <<< amount y) d a b) s
def execShr (d a b : Reg) (g : Guard) (s : State) : Out := short 4 g (op2 (fun x y => x >>> amount y) d a b) s
def execSha (d a b : Reg) (g : Guard) (s : State) : Out := short 4 g (op2 (fun x y => x.sshiftRight (amount y)) d a b) s
def execRot (d a b : Reg) (g : Guard) (s : State) : Out := short 4 g (op2 (fun x y => x.rotateLeft (amount y)) d a b) s
def execMinn (d a b : Reg) (g : Guard) (s : State) : Out := short 4 g (op2 minU d a b) s
def execMaxn (d a b : Reg) (g : Guard) (s : State) : Out := short 4 g (op2 maxU d a b) s
def execClz (d a : Reg) (g : Guard) (s : State) : Out := short 4 g (op1 clzW d a) s
def execPopc (d a : Reg) (g : Guard) (s : State) : Out := short 4 g (op1 popcW d a) s

/-! BITS, LUT3, FSL, FSR (R78, R79). The T formats have no guard. -/

def execBext (d a b : Reg) (g : Guard) (s : State) : Out := short 4 g (op2 bextW d a b) s
def execBdep (d a b : Reg) (g : Guard) (s : State) : Out := short 4 g (op2 bdepW d a b) s
def execBrev (d a : Reg) (g : Guard) (s : State) : Out := short 4 g (op1 brevW d a) s
def execScadd (d a b : Reg) (g : Guard) (s : State) : Out := short 4 g (op2 (fun x y => x + (y <<< 3)) d a b) s
def execSel (d a b : Reg) (g : Guard) (s : State) : Out := short 4 g (op3 selW d a b) s
def execLut3 (d a b : Reg) (tbl : BitVec 8) (s : State) : Out := short 4 0 (op3 (lut3W tbl) d a b) s
def execFsl (d a b : Reg) (n : BitVec 6) (s : State) : Out := short 4 0 (op2 (fslW n.toNat) d a b) s
def execFsr (d a b : Reg) (n : BitVec 6) (s : State) : Out := short 4 0 (op2 (fsrW n.toNat) d a b) s

/-! CMP and PRED (R80, R81). -/

def execCmpeq (pd : Pred) (a b : Reg) (g : Guard) (s : State) : Out := short 4 g (cmp2 (fun x y => x == y) pd a b) s
def execCmpne (pd : Pred) (a b : Reg) (g : Guard) (s : State) : Out := short 4 g (cmp2 (fun x y => x != y) pd a b) s
def execCmplt (pd : Pred) (a b : Reg) (g : Guard) (s : State) : Out := short 4 g (cmp2 BitVec.slt pd a b) s
def execCmple (pd : Pred) (a b : Reg) (g : Guard) (s : State) : Out := short 4 g (cmp2 BitVec.sle pd a b) s
def execCmpltn (pd : Pred) (a b : Reg) (g : Guard) (s : State) : Out := short 4 g (cmp2 BitVec.ult pd a b) s
def execCmplen (pd : Pred) (a b : Reg) (g : Guard) (s : State) : Out := short 4 g (cmp2 BitVec.ule pd a b) s
def execTst (pd : Pred) (a b : Reg) (g : Guard) (s : State) : Out := short 4 g (cmp2 (fun x y => x &&& y != 0) pd a b) s
def execPand (pd pa pb : Pred) (g : Guard) (s : State) : Out := short 4 g (pred2 (· && ·) pd pa pb) s
def execPor (pd pa pb : Pred) (g : Guard) (s : State) : Out := short 4 g (pred2 (· || ·) pd pa pb) s
def execPxor (pd pa pb : Pred) (g : Guard) (s : State) : Out := short 4 g (pred2 (· != ·) pd pa pb) s
def execPnot (pd pa : Pred) (g : Guard) (s : State) : Out := short 4 g (pred2 (fun x _ => !x) pd pa pa) s

/-! Immediate forms, LUI and ADDPC (R82, R83). -/

def execAddi (d a : Reg) (imm : BitVec 12) (g : Guard) (s : State) : Out :=
  short 4 g (op1 (fun x => x + imm.signExtend 64) d a) s
def execAndi (d a : Reg) (imm : BitVec 12) (g : Guard) (s : State) : Out :=
  short 4 g (op1 (fun x => x &&& imm.signExtend 64) d a) s
def execOri (d a : Reg) (imm : BitVec 12) (g : Guard) (s : State) : Out :=
  short 4 g (op1 (fun x => x ||| imm.signExtend 64) d a) s
def execXori (d a : Reg) (imm : BitVec 12) (g : Guard) (s : State) : Out :=
  short 4 g (op1 (fun x => x ^^^ imm.signExtend 64) d a) s
def execShli (d a : Reg) (n : BitVec 6) (g : Guard) (s : State) : Out :=
  short 4 g (op1 (fun x => x <<< n.toNat) d a) s
def execShri (d a : Reg) (n : BitVec 6) (g : Guard) (s : State) : Out :=
  short 4 g (op1 (fun x => x >>> n.toNat) d a) s
def execShai (d a : Reg) (n : BitVec 6) (g : Guard) (s : State) : Out :=
  short 4 g (op1 (fun x => x.sshiftRight n.toNat) d a) s
def execCmpeqi (pd : Pred) (a : Reg) (imm : BitVec 10) (g : Guard) (s : State) : Out :=
  short 4 g (cmp1 (fun x => x == imm.signExtend 64) pd a) s
def execCmplti (pd : Pred) (a : Reg) (imm : BitVec 10) (g : Guard) (s : State) : Out :=
  short 4 g (cmp1 (fun x => x.slt (imm.signExtend 64)) pd a) s
def execCmpltni (pd : Pred) (a : Reg) (imm : BitVec 10) (g : Guard) (s : State) : Out :=
  short 4 g (cmp1 (fun x => x.ult (imm.setWidth 64)) pd a) s
/-- sext64(imm20 << 12), the sign of bit 31. -/
def luiW (imm : BitVec 20) : Word := ((imm.setWidth 32 <<< 12 : Half)).signExtend 64
def execLui (d : Reg) (imm : BitVec 20) (s : State) : Out := short 4 0 (wr d (luiW imm)) s
/-- pc of the instruction plus twice the signed immediate, in 48 bits. -/
def pcRel (pc : BitVec 48) (off : Int) : BitVec 48 := BitVec.ofInt 48 (pc.toNat + off * 2)
def execAddpc (d : Reg) (imm : BitVec 20) (s : State) : Out :=
  short 4 0 (wr d ((pcRel s.me.pc imm.toInt).setWidth 64)) s

/-! Compact aliases: the effect of the 32-bit form, two bytes long (R18, Table 2.13). -/

def execCompactMov (d a : Reg) (s : State) : Out := short 2 0 (op2 (· ||| ·) d a .z) s
def execCompactAdd (d a : Reg) (s : State) : Out := short 2 0 (op2 (· + ·) d d a) s
def execCompactSub (d a : Reg) (s : State) : Out := short 2 0 (op2 (· - ·) d d a) s
def execCompactAnd (d a : Reg) (s : State) : Out := short 2 0 (op2 (· &&& ·) d d a) s
def execCompactOr (d a : Reg) (s : State) : Out := short 2 0 (op2 (· ||| ·) d d a) s
def execCompactXor (d a : Reg) (s : State) : Out := short 2 0 (op2 (· ^^^ ·) d d a) s
def execCompactAndn (d a : Reg) (s : State) : Out := short 2 0 (op2 (fun x y => x &&& ~~~y) d d a) s
def execCompactShl (d a : Reg) (s : State) : Out := short 2 0 (op2 (fun x y => x <<< amount y) d d a) s
def execCompactShr (d a : Reg) (s : State) : Out := short 2 0 (op2 (fun x y => x >>> amount y) d d a) s
def execCompactSha (d a : Reg) (s : State) : Out := short 2 0 (op2 (fun x y => x.sshiftRight (amount y)) d d a) s
def execCompactAddi (d : Reg) (imm : BitVec 5) (s : State) : Out :=
  short 2 0 (op1 (fun x => x + imm.signExtend 64) d d) s
def execCompactShli (d : Reg) (imm : BitVec 5) (s : State) : Out := short 2 0 (op1 (fun x => x <<< imm.toNat) d d) s
def execCompactShri (d : Reg) (imm : BitVec 5) (s : State) : Out := short 2 0 (op1 (fun x => x >>> imm.toNat) d d) s
def execCompactShai (d : Reg) (imm : BitVec 5) (s : State) : Out :=
  short 2 0 (op1 (fun x => x.sshiftRight imm.toNat) d d) s
def execCompactMovi (d : Reg) (imm : BitVec 5) (s : State) : Out :=
  short 2 0 (op1 (fun x => x + imm.signExtend 64) d .z) s
def execCompactCmpeq (d a : Reg) (s : State) : Out := short 2 0 (cmp2 (fun x y => x == y) 1 d a) s
def execCompactCmplt (d a : Reg) (s : State) : Out := short 2 0 (cmp2 BitVec.slt 1 d a) s
def execCompactCmpltn (d a : Reg) (s : State) : Out := short 2 0 (cmp2 BitVec.ult 1 d a) s

end Sys2Proof.Machine
end

