-- ==== Sys2Proof/Machine/Control.lean ====
section
/-! DEFINITION. Branches, calls, returns and loops (R90-R93), with the window of the main file (R62-R64). -/

namespace Sys2Proof.Machine

/-- pc set. -/
def jump (a : BitVec 48) : M Unit := updMe fun t => { t with pc := a }

/-- pc of the instruction, which issue has moved past it. -/
def here (n : Nat) : M (BitVec 48) := gets' fun s => s.me.pc - BitVec.ofNat 48 n

/-- pc-relative branch taken (R90). -/
def branchTo (off : Int) : M Unit := do
  let p ← here 4
  jump (pcRel p off)

/-- A target read from a register: an odd one raises the alignment fault (R16). -/
def target (v : Word) : M (BitVec 48) :=
  if v.getLsbD 0 then trap 4 0 ((v.setWidth 48).setWidth 64) else pure (v.setWidth 48)

/-! The window file. -/

/-- The eight registers of frame f. -/
def Strand.frame (t : Strand) (f : Nat) : List Word := (List.range 8).map fun i => t.frames[Fin.ofNat 64 (f % 8 * 8 + i)]

/-- Frame f loaded whole. -/
def Strand.setFrame (t : Strand) (f : Nat) (v : List Word) : Strand :=
  { t with frames := Vector.ofFn fun j => if j.val / 8 = f % 8 then v.getD (j.val % 8) 0 else t.frames[j] }

/-- Whether a register of frame f is still owed. -/
def Strand.frameOwed (t : Strand) (f : Nat) : Bool :=
  t.pend.any fun p => p.dsts.any fun x =>
    match x with
    | .m j => (p.depth * 8 + j.val) / 8 == f
    | _ => false

/-- The oldest resident frame spilled to the window stack (R63, R64). -/
def spillOldest : M Unit := do
  let s ← get
  let w := s.me.wsp.toNat
  if s.me.frameOwed s.me.low then stop .wait
  else if w < 64 ∨ w - 64 < s.me.wlim.toNat then illegalState
  else
    let bs := (s.me.frame s.me.low).flatMap fun v => leBytes 8 v.toNat
    let cs := (List.range 64).zipWith (fun i b => (lsKey s.me.core (w - 64 + i), b)) bs
    writeCells (toW (0xE0000000 + (w - 64))) cs
    updMe fun t => { t with wsp := BitVec.ofNat 20 (w - 64), low := t.low + 1 }

/-- Frame f made available as a new frame: its registers read 0 (R62). -/
def newFrame (f : Nat) : M Unit := do
  let s ← get
  if s.me.low + 8 ≤ f then spillOldest
  updMe fun t => t.setFrame f []

/-- Frame f filled from the window stack when it is not resident (R63). -/
def fillFrame (f : Nat) : M Unit := do
  let s ← get
  if s.me.low ≤ f then pure ()
  else
    let w := s.me.wsp.toNat
    let a := lsKey s.me.core
    match ((List.range 64).map fun i => a (w + i)).find? s.badAt with
    | some k => stop (.bad k (toW (0xE0000000 + w)))
    | none =>
      updMe fun t => { (t.setFrame f ((List.range 8).map fun i => toW (leNat ((List.range 8).map fun j => s.byte (a (w + 8 * i + j)))))) with
        wsp := BitVec.ofNat 20 (w + 64), low := f }

/-- The common part of CALL and CALLR (R91). -/
def callTo (tgt : BitVec 48) : M Unit := do
  atHome
  let s ← get
  need (s.me.wdep != 0xFFFF) illegalState
  newFrame (s.me.wdep.toNat + 2)
  place (.m 15) (s.me.pc.setWidth 64)
  updMe fun t => { t with wdep := t.wdep + 1, pc := tgt }

/-- RET (R92); a value still owed to the frame given up is discarded. -/
def returnFrom : M Unit := do
  atHome
  let s ← get
  need (s.me.wdep != 0) illegalState
  let t ← rd (.m 7)
  let tgt ← target t
  let d := s.me.wdep.toNat
  fillFrame (d - 1)
  updMe fun t => { t with
    wdep := t.wdep - 1, pc := tgt, pend := t.pend.map fun (p : Pending) => p.keepM fun n => decide (n / 8 ≤ d) }

/-! Meanings. -/

def execBr (p : Pred) (off : BitVec 20) (s : State) : Out :=
  short 4 0 (do if ← getPred p then branchTo off.toInt) s
def execBrF (p : Pred) (off : BitVec 20) (s : State) : Out :=
  short 4 0 (do if ← getPred p then pure () else branchTo off.toInt) s
def execCall (off : BitVec 25) (s : State) : Out :=
  short 4 0 (do
    let p ← here 4
    callTo (pcRel p off.toInt)) s
def execJr (a : Reg) (g : Guard) (s : State) : Out :=
  short 4 g (do
    let v ← rd a
    let t ← target v
    jump t) s
def execCallr (a : Reg) (g : Guard) (s : State) : Out :=
  short 4 g (do
    atHome
    let v ← rd a
    let t ← target v
    callTo t) s
def execRet (g : Guard) (s : State) : Out := short 4 g returnFrom s
def execLoop (d : Reg) (off : BitVec 12) (g : Guard) (s : State) : Out :=
  short 4 g (do
    let v ← rdOld d
    wr d (v - 1)
    if v - 1 = 0 then pure () else branchTo off.toInt) s
def execCompactRet (s : State) : Out := short 2 0 returnFrom s

end Sys2Proof.Machine
end

