-- ==== Sys2Proof/Machine/System.lean ====
section
/-! DEFINITION. Special and extension registers (R70-R72, R88, R89), TRAP, RTE and IDLE (R360-R362), trap entry
(R357, R358), the arrival of owed values (R26) and the watchdog (R363). -/

namespace Sys2Proof.Machine

/-- A special register's value (Table 4.2). -/
def sregVal (s : State) : SReg → Word
  | .sid => s.me.sid.setWidth 64
  | .clk => s.clk
  | .tix => s.me.tix.setWidth 64
  | .tcnt => s.me.tcnt.setWidth 64
  | .lrec => s.me.lrec.setWidth 64
  | .job => s.me.job.setWidth 64
  | .home => s.me.home.setWidth 64
  | .rac => s.me.rac.setWidth 64
  | .trh => s.me.trh.setWidth 64
  | .wsp => s.me.wsp.setWidth 64
  | .wlim => s.me.wlim.setWidth 64
  | .wdep => s.me.wdep.setWidth 64
  | .tvec => s.me.tvec.setWidth 64
  | .tcause => s.me.tcause.setWidth 64
  | .tval => s.me.tval
  | .xpc => s.me.xpc.setWidth 64
  | .plv => s.me.plv.setWidth 64
  | .xplv => s.me.xplv.setWidth 64

/-- The registers read abroad without returning home (R88). -/
def sregTravels : SReg → Bool
  | .sid | .clk | .home | .rac => true
  | .tix | .tcnt | .lrec | .job | .trh | .wsp | .wlim | .wdep | .tvec | .tcause | .tval | .xpc | .plv | .xplv => false

/-- A special register written; bits beyond its width are ignored, read-only ones do not change (R71). -/
def setSreg (t : Strand) (r : SReg) (v : Word) : Strand :=
  match r with
  | .rac => { t with rac := v.setWidth 20 }
  | .trh => { t with trh := v.setWidth 4 }
  | .wsp => { t with wsp := v.setWidth 20 }
  | .wlim => { t with wlim := v.setWidth 20 }
  | .tvec => { t with tvec := v.setWidth 48 }
  | .tcause => { t with tcause := v.setWidth 16 &&& 0x3FFF#16 }
  | .tval => { t with tval := v }
  | .xpc => { t with xpc := v.setWidth 48 }
  | .xplv => { t with xplv := v.setWidth 2 }
  | .sid | .clk | .tix | .tcnt | .lrec | .job | .home | .wdep | .plv => t

/-- The level SWR of a register needs: trh, wsp and wlim are marked sup. -/
def sregLevel : SReg → BitVec 2
  | .trh | .wsp | .wlim => 1
  | .rac | .tvec | .tcause | .tval | .xpc | .xplv | .sid | .clk | .tix | .tcnt | .lrec | .job | .home | .wdep | .plv => 0

def execSrd (d : Reg) (r : SReg) (g : Guard) (s : State) : Out :=
  short 4 g (do
    if sregTravels r then pure () else atHome
    let v ← gets' fun s => sregVal s r
    wr d v) s
def execSwr (r : SReg) (a : Reg) (g : Guard) (s : State) : Out :=
  atLevel (sregLevel r) (Instr.swr r a g).encode (short 4 g (do
    if sregTravels r then pure () else atHome
    let v ← rd a
    updMe fun t => setSreg t r v)) s
def execExt (k : Fin 8) (a : Reg) (g : Guard) (s : State) : Out :=
  short 4 g (do
    let v ← rd a
    updMe fun t => { t with e := t.e.set k v }) s
def execRdcyc (d : Reg) (s : State) : Out := short 4 0 (do wr d (← gets' State.clk)) s
def execNop (s : State) : Out := short 4 0 (pure ()) s
def execCompactNop (s : State) : Out := short 2 0 (pure ()) s

/-- IDLE ends when the queue is nonempty or the armed deadline passes, which disarms it (R362). -/
def execIdle (s : State) : Out :=
  short 4 0 (do
    atHome
    let s ← get
    if !s.me.q.isEmpty then pure ()
    else
      match s.me.armed with
      | none => stop .rest
      | some t => if t.toNat ≤ s.clk.toNat then updMe fun t => { t with armed := none } else stop .rest) s

/-- TRAP (R360): class 11, xpc at the next instruction. -/
def execTrap (code : BitVec 9) (s : State) : Out :=
  short 4 0 (do
    atHome
    let s ← get
    if s.me.pend.any Pending.isFault then stop .owed
    else if !s.me.pend.all Pending.isEngine then stop .wait
    else
      let p ← here 4
      upd fun s => s.takeTrap s.me.tvec s.me.plv 11 0 0 (code.setWidth 64) s.me.pc p) s

/-- The lower of two levels. -/
def minLevel (a b : BitVec 2) : BitVec 2 := if a ≤ b then a else b

/-- RTE (R361). -/
def execRte (s : State) : Out :=
  short 4 0 (do
    atHome
    let s ← get
    need (!s.me.xpc.getLsbD 0) (trap 4 0 (s.me.xpc.setWidth 64))
    updMe fun t => { t with plv := minLevel t.xplv t.plv, pc := t.xpc }) s

/-! The ends of waits. -/

/-- The register of the frame file at absolute place n (R62). -/
def Strand.setAbs (t : Strand) (n : Nat) (v : Word) : Strand :=
  { t with frames := t.frames.set (Fin.ofNat 64 (n % 64)) v }

/-- One owed register written; an m register stands at the depth its instruction issued at. What later instructions owe to
the same register stays owed. -/
def arrive (depth : Nat) (d : Reg) (v : Word) : M Unit :=
  match d with
  | .m i => updMe fun t => t.setAbs (depth * 8 + i.val) v
  | .o i => updMe fun t => { t with o := t.o.set i v }
  | .pw => updMe fun t => { t with pw := pwOf v }
  | .l0 | .l1 | .z | .t _ | .q => place d v

/-- What stood in the last-result file before a later open instruction, when a value lands at place n (R65). -/
def Pending.before (n : Nat) (v : Word) (q : Pending) : Pending :=
  if n < q.sh then q
  else
    match n - q.sh with
    | 0 => { q with l0 := v }
    | 1 => { q with l1 := v }
    | _ => q

/-- The place in the last-result file an owed value took at issue (R65). -/
def land (t : Strand) (n : Nat) (v : Word) : Strand :=
  let t := { t with pend := t.pend.map (Pending.before n v) }
  match n with
  | 0 => { t with l0 := v }
  | 1 => { t with l1 := v }
  | _ => t

def landAll (t : Strand) : List Nat → List Word → Strand
  | n :: r, v :: vs => landAll (land t n v) r vs
  | _, _ => t

def arriveAll (depth : Nat) : List Reg → List Word → M Unit
  | d :: r, v :: vs => do
    arrive depth d v
    arriveAll depth r vs
  | _, _ => pure ()

/-- The values of a completed instruction delivered: one value goes to every place it took, a pair to its two. -/
def deliver (p : Pending) (vs : List Word) : M Unit := do
  let v := vs.headD 0
  let ws := if vs.length = 2 then vs else List.replicate 4 v
  updMe fun t => (landAll t p.lands ws).strike p.lands
  arriveAll p.depth p.dsts ws

/-- The first entry of the strand's open instructions that satisfies a test, taken off the list. -/
def takePend (f : Pending → Bool) (t : Strand) : Option (Pending × Strand) :=
  (pull f t.pend).map fun x => (x.1, { t with pend := x.2 })

def Pending.values (p : Pending) : List Word :=
  match p.src with
  | .value vs => vs
  | _ => []

/-- An open instruction replaced by what it has come to, in its place. -/
def swapIn (p q : Pending) : List Pending → List Pending
  | [] => []
  | x :: r => if x = p then q :: r else x :: swapIn p q r

def State.swapPend (s : State) (p q : Pending) : State := { s with me := { s.me with pend := swapIn p q s.me.pend } }

/-- An open instruction that turns out to fault: at the end of its window, or at once when it has none (R26). -/
def Pending.fail (p : Pending) (src : Owe) : Pending := { p with src, holds := true, left := if p.holds then p.left else 0 }

/-- An open instruction whose delivery stops: a fault is a fault of the instruction; a push that an abroad strand cannot make
goes home first, and one that must wait is tried again (R68, R73). -/
def undelivered (s : State) (p : Pending) (again : Owe) : Stop → State
  | .trap cls detail tval => s.swapPend p (p.fail (.fault cls detail tval))
  | .lease a => s.swapPend p (p.fail (.lease a))
  | .bad k tval => (s.logError k).swapPend p (p.fail (.fault 8 0 tval))
  | .home => (s.swapPend p { p with src := again }).goHome
  | _ => s.swapPend p { p with src := again }

/-- An open instruction p of the strand completes: its values are delivered; t is the strand without it. -/
def complete (s : State) (p : Pending) (t : Strand) (vs : List Word) : State :=
  match deliver p vs { s with me := t } with
  | .ok (_, s') => s'
  | .error x => undelivered s p (.value vs) x

/-- The same for values that have arrived; p15 changes no other predicate. -/
def completeNow (s : State) (p : Pending) (t : Strand) : State :=
  match p.src with
  | .bit15 b => { s with me := { t with pw := withBit t.pw 15 b } }
  | _ => complete s p t p.values

/-- The strand takes the error of a store that had completed, before its next instruction (R137, R284). A fault it owes comes
first. -/
def State.storeTrap (s : State) (cls : Nat) (a : Word) : State :=
  if s.me.pend.any Pending.isFault then s.takeOwed
  else ({ s with me := { s.me with storeErr := none } }).raise cls (if cls = 8 then 1 else 0) a

/-- TRAP_ENTRY: the strand takes the fault it owes; abroad, it returns home first (R358). -/
def execTrapEntry (s : State) : Out := .next s.takeOwed

/-- The supervisor of a core: the gaffer of its cluster, or system core 0 for the cores outside clusters (R363). -/
def supervisorOf (k : Nat) : Nat := if 17 ≤ coreNo k then sysSid (coreDie k) else gafferSid (clusterOf k)

/-- WATCHDOG_EXPIRY: 2^31 cycles without an issue are reported, and the count starts again. -/
def execWatchdogExpiry (s : State) : Out :=
  let t := s.me
  .next (({ s with me := { t with lastIssue := s.clk } }).hwSend (supervisorOf t.core) 0x19 t.job.toNat
    (t.sid.setWidth 64) (t.pc.setWidth 64) 0 0)

end Sys2Proof.Machine
end

