-- ==== Sys2Proof/Machine/LoadStore.lean ====
section
/-! DEFINITION. Scalar loads and stores (R125, R126, R128). -/

namespace Sys2Proof.Machine

/-- A loaded value in 64 bits. -/
def extend (sx : Bool) (size n : Nat) : Word := if sx then BitVec.ofInt 64 (sgn (8 * size) n) else toW n

def asize : ASize → Nat
  | .b1 => 1 | .b2 => 2 | .b4 => 4 | .b8 => 8

/-- The second register of a pair (R33). -/
def Reg.next : Reg → Reg
  | .m i => .m (i + 1)
  | .o i => .o (i + 1)
  | r => r

/-- A destination that a later arrival will write must be one the strand reaches where it runs; pushes to one stream are made
in program order (R115). -/
def destOk (d : Reg) : M Unit :=
  match d with
  | .m _ => nearM
  | .t i => do
    atHome
    let _ ← bound i true
    settled fun _ p => p.pushes i
  | _ => pure ()

def destsOk : List Reg → M Unit
  | [] => pure ()
  | d :: r => do
    destOk d
    destsOk r

/-- The values of a load: one, or the two of a pair. -/
def loadValues (n : Nat) (sx : Bool) (bs : List Byte) : List Word :=
  if n = 2 then [toW (leNat (bs.take 8)), toW (leNat (bs.drop 8))] else [extend sx bs.length (leNat bs)]

def wrAll : List Reg → List Word → M Unit
  | d :: r, v :: vs => do
    wr d v
    wrAll r vs
  | _, _ => pure ()

/-- The first byte of an access counts it for the migration counter (R228). -/
def countFirst (hs : List Hit) : M Unit :=
  match hs with
  | [] => pure ()
  | h :: _ => countAccess h

/-- A load of size bytes into ds at an address already formed: checked (R123), counted (R228), and either read now or, for
the bytes another device holds, requested from it (R284). -/
def loadAt (ds : List Reg) (size : Nat) (sx : Bool) (la : Nat) (a : Addr) : M Unit := do
  let hs ← check rR a size
  nearHome hs
  soFree hs
  let s ← get
  if hs.any (Hit.away s) then do
    destsOk ds
    let e ← readElem a.tval hs
    let els ← askAll (hs.any Hit.so) [some e]
    await ds (.fetch els (.scalar sx)) la
    markSo hs
  else do
    let bs ← readHits a.tval hs
    wrAll ds (loadValues ds.length sx bs)
  countFirst hs

/-- A store of bytes at an address already formed. -/
def storeAt (la : Nat) (bs : List Byte) (a : Addr) : M Unit := do
  let hs ← check rW a bs.length
  nearHome hs
  soFree hs
  writeHits false { la, holds := true } a hs bs
  countFirst hs

/-- The low bytes of a register value. -/
def lowBytes (size : Nat) (v : Word) : List Byte := leBytes size v.toNat

def execLd (d a : Reg) (off : BitVec 8) (sz : ASize) (sx : Bool) (la : Look) (s : State) : Out :=
  long 4 0 la.val [d] (do
    let x ← rd a
    let e ← virt x (off.toInt * asize sz)
    loadAt [d] (asize sz) sx la.val e) s

def execSt (d a : Reg) (off : BitVec 8) (sz : ASize) (la : Look) (s : State) : Out :=
  long 4 0 la.val [] (do
    let x ← rd a
    let v ← rd d
    let e ← virt x (off.toInt * asize sz)
    storeAt la.val (lowBytes (asize sz) v) e) s

/-- Bytes and alignment of LDA and STA. -/
def pairSize (sz : ASize) (pair : Bool) : Nat := if pair then 16 else asize sz
/-- The registers of LDA and STA: two for the pair form. -/
def pairRegs (d : Reg) (pair : Bool) : List Reg := if pair then [d, Reg.next d] else [d]

def execLda (d a : Reg) (off : BitVec 8) (sz : ASize) (pair : Bool) (la : Look) (s : State) : Out :=
  long 4 0 la.val (pairRegs d pair) (do
    let x ← rd a
    let e ← virt x (off.toInt * asize sz)
    aligned e (pairSize sz pair)
    loadAt (pairRegs d pair) (pairSize sz pair) false la.val e) s

/-- STA reaches no aperture (R305 names ST and STX alone among the scalar stores). -/
def execSta (d a : Reg) (off : BitVec 8) (sz : ASize) (pair : Bool) (la : Look) (s : State) : Out :=
  long 4 0 la.val [] (do
    let x ← rd a
    let v ← rd d
    let w ← if pair then rd (Reg.next d) else pure 0
    let e ← virt x (off.toInt * asize sz)
    aligned e (pairSize sz pair)
    need (!inAperture e.val) (trap 5 0 e.tval)
    storeAt la.val ((lowBytes (asize sz) v ++ lowBytes 8 w).take (pairSize sz pair)) e) s

def execLdl (d a : Reg) (off : BitVec 8) (sz : ASize) (sx : Bool) (la : Look) (s : State) : Out :=
  long 4 0 la.val [d] (do
    let x ← rd a
    loadAt [d] (asize sz) sx la.val (local_ x (off.toInt * asize sz))) s

def execStl (d a : Reg) (off : BitVec 8) (sz : ASize) (la : Look) (s : State) : Out :=
  long 4 0 la.val [] (do
    let x ← rd a
    let v ← rd d
    storeAt la.val (lowBytes (asize sz) v) (local_ x (off.toInt * asize sz))) s

def execLdx (d a b : Reg) (g : Guard) (la : Look) (s : State) : Out :=
  long 4 g la.val [d] (do
    let x ← rd a
    let y ← rd b
    let e ← virt x y.toInt
    loadAt [d] 8 false la.val e) s

def execStx (d a b : Reg) (g : Guard) (la : Look) (s : State) : Out :=
  long 4 g la.val [] (do
    let x ← rd a
    let y ← rd b
    let v ← rd d
    let e ← virt x y.toInt
    storeAt la.val (lowBytes 8 v) e) s

def execCompactLdl (d a : Reg) (s : State) : Out :=
  long 2 0 0 [d] (do
    let x ← rd a
    loadAt [d] 8 false 0 (local_ x 0)) s

def execCompactStl (d a : Reg) (s : State) : Out :=
  long 2 0 0 [] (do
    let x ← rd a
    let v ← rd d
    storeAt 0 (lowBytes 8 v) (local_ x 0)) s

end Sys2Proof.Machine
end

