-- ==== Sys2Proof/Machine/Atomic.lean ====
section
/-! DEFINITION. Atomic operations (R129-R131), reservation queues (R132, R133), the remote line add (R134), fences
(R135, R136, R340), and the arrival of owed results (R26). -/

namespace Sys2Proof.Machine

open Sys2Proof.Num

/-! Atomic operations on a word (R129). -/

/-- The new value of an AMO: op is its fn3, b its operand, c the value of e0. -/
def amoNew (op : Nat) (old b c : Word) : Word :=
  match op with
  | 0 => old + b
  | 1 => old &&& b
  | 2 => old ||| b
  | 3 => old ^^^ b
  | 4 => minS old b
  | 5 => maxS old b
  | 6 => b
  | _ => if old = c then b else old

/-- Whether an AMO writes: AMOCAS with an unequal value does not. -/
def amoWrites (op : Nat) (old c : Word) : Bool := op < 7 || old == c

/-! The remote line add (R134). -/

/-- One element of VAMO: BF16 (bf) or FP32. -/
def vamoElem (bf : Bool) (x y : Nat) : Nat :=
  if bf then roundTo bf16 .rne false ((decodeF bf16 x).add (decodeF bf16 y))
  else (add32 (BitVec.ofNat 32 x) (BitVec.ofNat 32 y)).toNat

/-- Bytes in groups of n as numbers. -/
def groups (n : Nat) : Nat → List Byte → List Nat
  | 0, _ => []
  | k + 1, bs => leNat (bs.take n) :: groups n k (bs.drop n)

/-- The 128 bytes of the target after a VAMO. -/
def vamoBytes (bf : Bool) (old src : List Byte) : List Byte :=
  let n := if bf then 2 else 4
  (List.zipWith (vamoElem bf) (groups n (128 / n) old) (groups n (128 / n) src)).flatMap (leBytes n)

/-- Whether a core holds the strand's launch image (R226); a strand of no launch may run on any core (log 15). -/
def State.imageCore (s : State) (core : Nat) : Bool :=
  match s.me.launch? with
  | none => true
  | some key => inClusters (s.objAt key) (clusterOf core) || s.launches.cores.contains (key, core)

/-- The word an atomic names, checked: aligned to 8, with read and write rights, in one place (R129, R132). -/
def atomicHits (a : Addr) : M (List Hit) := do
  aligned a 8
  check rRW a 8

/-- The word of checked hits as a strand sees it. -/
def readWord (a : Addr) (hs : List Hit) : M Word := do
  let bs ← readHits a.tval hs
  return toW (leNat bs)

/-- The read and the write of an AMO at the home, none of another agent's between them (R129); the old value. -/
def amoAt (op : Nat) (a : Addr) (b c : Word) (hs : List Hit) : M Word := do
  let old ← readWord a hs
  if amoWrites op old c then do
    let job ← gets' fun s => s.me.job.toNat
    logWrite a.val
    writeCells a.tval ((hs.map (cellOf job)).zip (leBytes 8 (amoNew op old b c).toNat))
  return old

/-! Reservation queues (R132). -/

def State.resvOf (s : State) (line : Nat) : Option Resv := s.queues.resv.find? fun r => r.line == line

/-- A reservation queue of a line of another device is kept there. -/
def lineAway (line : Nat) : Bool := decide (2 ^ 52 ≤ line)

/-- Whether the queues of a line's home admit one more request: 64 lines, 256 waiters. -/
def State.admits (s : State) (core line : Nat) : Bool :=
  let mine := s.queues.resv.filter fun r => !lineAway r.line && s.home (r.line * 256) == core
  match s.resvOf line with
  | some _ => decide ((mine.map fun r => r.waiters.length).sum < 256)
  | none => decide (mine.length < 64)

/-- The strand made the holder of a line. -/
def State.hold (s : State) (line : Nat) : State :=
  let sid := s.me.sid.toNat % 65536
  let q := match s.resvOf line with
    | none => s.queues.resv ++ [{ line, holder := some sid, waiters := [] }]
    | some _ => s.queues.resv.map fun (r : Resv) =>
        if r.line == line then { r with holder := some sid, waiters := r.waiters.filter fun w => w != sid } else r
  { s with me := { s.me with resv := some line }, queues := { s.queues with resv := q } }

/-- A strand appended to a line's queue. -/
def State.queueUp (s : State) (sid line : Nat) : State :=
  let w := sid % 65536
  match s.resvOf line with
  | none => { s with queues := { s.queues with resv := s.queues.resv ++ [{ line, holder := none, waiters := [w] }] } }
  | some _ => { s with queues := { s.queues with resv := s.queues.resv.map fun (r : Resv) =>
      if r.line == line then { r with waiters := r.waiters ++ [w] } else r } }

/-- The first request at the input of a home core that found a limit reached, where its queues admit it now (R132). -/
def State.admission (s : State) (core : Nat) : Option (Nat × Nat) :=
  match s.queues.input.find? fun x => s.home (x.1 * 256) == core with
  | none => none
  | some x => if s.admits core x.1 then some x else none

/-- The line a reservation covers. -/
def lineKey (job : Nat) (hs : List Hit) : Nat :=
  match hs with
  | [] => 0
  | h :: _ => lineOf (cellOf job h)

/-- The read of a granted LRW; an error passes the reservation on (Table 7.5). -/
def grantRead (p : Pending) (ea : Addr) (line : Nat) (s : State) : State :=
  let t := s.hold line
  match (do let hs ← atomicHits ea; readWord ea hs : M Word) t with
  | .ok (v, t) => { t with me := { t.me with pend := t.me.pend ++ [{ p with src := .value [v] }] } }
  | .error (.bad k tv) =>
    let s := ({ s with me := { s.me with pend := s.me.pend ++ [{ p with src := .fault 8 0 tv, left := 0 }] } }).logError k
    (s.hold line).passOn line |> fun s => { s with me := { s.me with resv := none } }
  | .error (.trap cls d tv) =>
    let s := { s with me := { s.me with pend := s.me.pend ++ [{ p with src := .fault cls d tv, left := 0 }] } }
    (s.hold line).passOn line |> fun s => { s with me := { s.me with resv := none } }
  | .error _ => { s with me := { s.me with pend := s.me.pend ++ [p] } }

/-- An LRW that reaches its line's home: granted at once, or appended to the line's queue; where a limit is reached, or an
earlier request waits at the home's input, it waits there (R132). -/
def reserveAt (p : Pending) (ea : Addr) (core line : Nat) (s : State) : State :=
  let wait := { s with me := { s.me with pend := s.me.pend ++ [{ p with src := .reserve line ea.tval }] } }
  if (s.queues.input.any fun x => s.home (x.1 * 256) == core) || !s.admits core line && (s.resvOf line).all (fun r => r.holder.isSome || !r.waiters.isEmpty) then
    { wait with queues := { wait.queues with input := wait.queues.input ++ [(line, s.me.sid.toNat % 65536)] } }
  else
    match s.resvOf line with
    | some r => if r.holder.isSome || !r.waiters.isEmpty then wait.queueUp s.me.sid.toNat line else grantRead p ea line s
    | none => grantRead p ea line s

/-- The operation a strand brought to the home, performed as its first action there (R225): the entry and the strand
without it. -/
def performAt (p : Pending) (op : Nat) (ea b c : Word) (t : Strand) (s : State) : Option State :=
  let a : Addr := .v ea.toNat
  let s0 := { s with me := t }
  if op = 8 then
    match atomicHits a s0 with
    | .ok (hs, s1) => some (reserveAt p a s1.me.core (lineKey s1.me.job.toNat hs) s1)
    | .error (.trap cls d tv) => some { s0 with me := { t with pend := { p with src := .fault cls d tv, left := 0 } :: t.pend } }
    | .error (.lease x) => some { s0 with me := { t with pend := { p with src := .lease x, left := 0 } :: t.pend } }
    | .error _ => none
  else
    match (do let hs ← atomicHits a; amoAt op a b c hs : M Word) s0 with
    | .ok (v, s1) => some { s1 with me := { s1.me with pend := s1.me.pend ++ [{ p with src := .value [v] }] } }
    | .error (.trap cls d tv) => some { s0 with me := { t with pend := { p with src := .fault cls d tv, left := 0 } :: t.pend } }
    | .error (.lease x) => some { s0 with me := { t with pend := { p with src := .lease x, left := 0 } :: t.pend } }
    | .error (.bad k tv) =>
      some ({ s0 with me := { t with pend := { p with src := .fault 8 0 tv, left := 0 } :: t.pend } }.logError k)
    | .error _ => none

def Pending.isCarried (p : Pending) : Bool :=
  match p.src with
  | .atomic _ _ _ _ none => true
  | _ => false

/-- The operation a migrating strand carries, performed where it has arrived; none while it must wait. -/
def State.carried (s : State) : Option State :=
  match takePend Pending.isCarried s.me with
  | none => some s
  | some (p, t) =>
    match p.src with
    | .atomic op ea b c none => performAt p op ea b c t s
    | _ => some s

/-- An m destination is written at home (R129). -/
def farDest (d : Reg) : M Unit :=
  match d with
  | .t i => do
    atHome
    let _ ← bound i true
  | _ => pure ()

/-- An operation sent to another device's line from where the strand runs (R130): its tag. -/
def askAtomic (kind : Nat) (bs : List Byte) (va : Nat) (hs : List Hit) : M Nat := do
  let s ← get
  logWrite va
  let dev := ((hs.head?.bind Hit.away?).map Prod.fst).getD 0
  request dev s.me.job.toNat (hs.filterMap fun h => h.away?.map Prod.snd) kind bs (hs.filterMap Hit.rep?)

/-- An AMO (op 0 to 7) or LRW (op 8) issued (R129, R130, R132): where the line's home is another core of the package
the strand goes there with the operation; for another device it asks and waits where it runs. -/
def atomicGo (op : Nat) (d : Reg) (a : Addr) (b c : Word) : M Unit := do
  let hs ← atomicHits a
  soFree hs
  let s ← get
  match hs with
  | [] => pure ()
  | h :: _ =>
    match h.loc with
    | .cell k => do
      let core := s.home k
      need (s.imageCore core) (illegalState a.tval)
      if s.queuedTo (hs.map (cellOf s.me.job.toNat)) then stop .wait
      farDest d
      if core == s.me.core then
        if op = 8 then do
          let line := lineKey s.me.job.toNat hs
          await [d] (.atomic 8 a.tval b c none) 0
          fun s =>
            match takePend Pending.isCarried s.me with
            | none => .error .wait
            | some (p, t) => .ok ((), reserveAt p a core line { s with me := t })
        else do
          let old ← amoAt op a b c hs
          wrFar d old
      else do
        settledAll
        await [d] (.atomic op a.tval b c none) 0
        upd fun s => s.depart core (if op = 8 then 2 else 1)
    | .remote _ _ | .replica _ _ _ => do
      farDest d
      let k ← askAtomic 7 [] a.val hs
      await [d] (.atomic op a.tval b c (some k)) 0
      markSo hs
    | _ => trap 5 0 a.tval

def amo (op : Nat) (d a b : Reg) : M Unit := do
  let x ← rd a
  let y ← rd b
  let c ← getE 0
  let ea ← virt x 0
  atomicGo op d ea y c

def execAmoadd (d a b : Reg) (g : Guard) (_la : Look) (s : State) : Out := short 4 g (amo 0 d a b) s
def execAmoand (d a b : Reg) (g : Guard) (_la : Look) (s : State) : Out := short 4 g (amo 1 d a b) s
def execAmoor (d a b : Reg) (g : Guard) (_la : Look) (s : State) : Out := short 4 g (amo 2 d a b) s
def execAmoxor (d a b : Reg) (g : Guard) (_la : Look) (s : State) : Out := short 4 g (amo 3 d a b) s
def execAmomin (d a b : Reg) (g : Guard) (_la : Look) (s : State) : Out := short 4 g (amo 4 d a b) s
def execAmomax (d a b : Reg) (g : Guard) (_la : Look) (s : State) : Out := short 4 g (amo 5 d a b) s
def execAmoswap (d a b : Reg) (g : Guard) (_la : Look) (s : State) : Out := short 4 g (amo 6 d a b) s
def execAmocas (d a b : Reg) (g : Guard) (_la : Look) (s : State) : Out := short 4 g (amo 7 d a b) s

/-- LRW (R132): la is accepted and has no effect. -/
def execLrw (d a : Reg) (g : Guard) (_la : Look) (s : State) : Out :=
  short 4 g (do
    let x ← rd a
    let s ← get
    need s.me.resv.isNone illegalState
    let ea ← virt x 0
    atomicGo 8 d ea 0 0) s

/-- A release before a reservation passes: package scope, or span for a line of another device (Table 19.3). -/
def releaseFor (h : Hit) : M Unit :=
  match h.loc with
  | .remote _ _ => releasedSpan
  | .replica _ _ _ => releasedSpan
  | _ => released

/-- The reservation passed to the next waiter. -/
def passResv (line : Nat) : M Unit := upd fun s => ({ s with me := { s.me with resv := none } }).passOn line

/-- SCV (store some) and RELQ (store none), performed at the line's home from where the strand runs. -/
def giveBack (a : Addr) (v : Option Word) (la : Nat) : M Unit := do
  let hs ← atomicHits a
  let s ← get
  let job := s.me.job.toNat
  let line := lineKey job hs
  need (s.me.resv == some line) illegalState
  soFree hs
  match hs with
  | [] => pure ()
  | h :: _ => do
    releaseFor h
    match h.loc with
    | .cell _ => do
      match v with
      | none => pure ()
      | some v => do
        logWrite a.val
        writeCells a.tval ((hs.map (cellOf job)).zip (leBytes 8 v.toNat))
      passResv line
    | .remote _ _ | .replica _ _ _ => do
      let k ← match v with
        | some v => askAtomic 5 (leBytes 8 v.toNat) a.val hs
        | none => request (((h.away?).map Prod.fst).getD 0) job (hs.filterMap fun h => h.away?.map Prod.snd) 6 [] []
      updMe fun t => { t with resv := none }
      await [] (.acks [k]) la
      markSo hs
    | _ => trap 5 0 a.tval

def execScv (d a : Reg) (g : Guard) (la : Look) (s : State) : Out :=
  long 4 g la.val [] (do
    let x ← rd a
    let v ← rd d
    let ea ← virt x 0
    giveBack ea (some v) la.val) s

def execRelq (a : Reg) (g : Guard) (la : Look) (s : State) : Out :=
  long 4 g la.val [] (do
    let x ← rd a
    let ea ← virt x 0
    giveBack ea none la.val) s

def Pending.isReserve (line : Nat) (p : Pending) : Bool :=
  match p.src with
  | .reserve l _ => l == line
  | _ => false

/-- The tag of an LRW of a strand that waits at another device's line. -/
def State.lrwTag (s : State) (sid line : Nat) : Option (Nat × Req) :=
  s.fabric.reqs.find? fun r => r.2.kind == 7 && r.2.sid % 65536 == sid && remKey r.2.dev r.2.job r.2.va / 256 == line

/-- A waiter of another device becomes the holder: the word it reads is answered, or its memory error, after which the
reservation is passed on (Table 7.5). -/
def State.farGrant (s : State) (line w : Nat) : State :=
  let q := s.queues.resv.map fun (r : Resv) =>
    if r.line == line then { r with holder := some w, waiters := r.waiters.filter fun v => v != w } else r
  match s.queues.far.find? fun x => x.1 == w with
  | none => s.unwait w
  | some (_, a) =>
    let s := { s with queues := { s.queues with resv := q, far := s.queues.far.filter fun x => x.1 != w } }
    let ks := ((List.range 8).map fun i => s.homeCell a.job ((a.va + i) % 2 ^ 56)).filterMap id
    let out (b : Nat) (bs : List Byte) (s : State) : State := { s with fabric := { s.fabric with out := s.fabric.out ++
      [({ dev := a.dev, job := a.job, kind := 10, a := a.n, b, bytes := bs } : Packet)] } }
    match ks.find? s.badAt with
    | none => out 0 (s.mem.getAll ks) s
    | some k => ((out 2 [] s).logError k).passOn line

/-- RESERVATION_GRANT: the first waiter of a free line becomes its holder and reads the word; at another device's line the
reply is on its way (R132). With flag, the first request at the input of home core n is admitted. -/
def execReservationGrant (s : State) : Out :=
  if s.arg.flag then
    match s.admission s.arg.n with
    | none => .next s
    | some x =>
      let s := { s with queues := { s.queues with input := s.queues.input.erase x } }
      let s := s.queueUp x.2 x.1
      .next (if (s.resvOf x.1).all (·.holder.isNone) then s.due .reservationGrant { n := x.1 } else s)
  else
    let line := s.arg.n
    match s.resvOf line with
    | none => .next s
    | some r =>
      if r.holder.isSome then .next s
      else
        match r.waiters with
        | [] => .next (s.passOn line)
        | w :: _ =>
          match s.lrwTag w line with
          | some x => .next (s.due .resultArrival { sid := w, n := x.1, m := x.2.gen, flag := true })
          | none =>
            if 2 ^ 32 ≤ w then .next (s.farGrant line w)
            else
            let s := s.focus w
            match takePend (Pending.isReserve line) s.me with
            | none => .next (s.unwait w |>.passOn line)
            | some (p, t) =>
              match p.src with
              | .reserve _ ea => .next (grantRead p (.v ea.toNat) line { s with me := t })
              | _ => .next s

/-! VAMO (R134). -/

def vamo (bf : Bool) (a b : Reg) (la : Nat) : M Unit := do
  let x ← rd a
  let y ← rd b
  let ea ← virt x 0
  aligned ea 128
  let hs ← check rRW ea 128
  nearHome hs
  soFree hs
  let src := local_ y 0
  aligned src 4
  let sh ← check rR src 128
  let bs ← readHits src.tval sh
  let s ← get
  match hs with
  | [] => pure ()
  | h :: _ =>
    match h.loc with
    | .cell _ => do
      let old ← readHits ea.tval hs
      logWrite ea.val
      writeCells ea.tval ((hs.map (cellOf s.me.job.toNat)).zip (vamoBytes bf old bs))
    | .remote _ _ | .replica _ _ _ => do
      let k ← askAtomic (if bf then 3 else 4) bs ea.val hs
      await [] (.acks [k]) la
      markSo hs
    | _ => trap 5 0 ea.tval

def execVamoBf16 (a b : Reg) (g : Guard) (la : Look) (s : State) : Out := long 4 g la.val [] (vamo true a b la.val) s
def execVamoFp32 (a b : Reg) (g : Guard) (la : Look) (s : State) : Out := long 4 g la.val [] (vamo false a b la.val) s

/-! Fences. -/

/-- FENCE (R135, R340): the strand waits until its earlier loads, and its earlier stores unless the kind is acquire,
are performed at the scope. Everything but a queued store and a request to another device is performed already. -/
def execFence (scope : Scope) (kind : FKind) (g : Guard) (s : State) : Out :=
  short 4 g (do
    loadsDone
    match kind, scope with
    | .acq, .span => acquireSpan
    | .acq, _ => pure ()
    | _, .strand => pure ()
    | .full, .span => do
      releasedSpan
      acquireSpan
    | .rel, .span => releasedSpan
    | _, _ => released) s

/-- IFENCE (R136): the words fetched for the strand are fetched anew; the model holds none (log 8). -/
def execIfence (g : Guard) (s : State) : Out := short 4 g (pure ()) s

end Sys2Proof.Machine
end

