-- ==== Sys2Proof/Machine/Objects.lean ====
section
/-! DEFINITION. Handle checks (R264), rights, and promises (R65, R317): shared by every instruction that takes a handle
or issues a command. -/

namespace Sys2Proof.Machine

/-- The rights of an access word (R263). -/
inductive Right where
  | read | write | apply | call | admin
  deriving DecidableEq, Repr

def Right.bit : Right → Nat
  | .read => 0 | .write => 1 | .apply => 2 | .call => 3 | .admin => 4

/-! The field table of a job (R258): each die sees the descriptors its replica has come to. -/

def State.fieldTab? (s : State) (job : Nat) : Option FieldTab := s.fieldTabs.find? fun f => f.job == job

/-- The replica of a die in the field table of a job. -/
def State.fieldRep? (s : State) (job die : Nat) : Option FRep :=
  (s.fieldTab? job).bind fun f => f.reps.find? fun r => r.die == die

def State.fieldLog (s : State) (job : Nat) : List FEntry := ((s.fieldTab? job).map FieldTab.log).getD []

/-- An entry of the object table as a die sees it: a field as that die's replica holds it. -/
def State.entryOn (s : State) (die key : Nat) : Obj :=
  match s.fieldRep? (key / 65536) die with
  | none => s.objAt key
  | some r =>
    if (s.objAt key).kind != 1 then s.objAt key
    else (s.fieldLog (key / 65536)).foldr (fun e o => if e.key == key && decide (r.pos < e.pos) then e.old else o) (s.objAt key)

/-- Whether a user of a field on a die does not see a change yet: one not applied there, or not taken up, by a strand's
access or by a command whose number lies below the first accepted after it (R172). -/
def FRep.hides (r : FRep) (q : Option Nat) (e : FEntry) : Bool :=
  decide (r.pos < e.pos) ||
    match r.untaken.find? fun u => u.1 == e.pos with
    | none => false
    | some u =>
      match q with
      | none => true
      | some n => decide (n < u.2)

/-- A field as an access of a die sees it: a strand's, or that of a command with a number. A remap never changes which value
an index names (R275), so its state is always the latest. -/
def State.viewOn (s : State) (die : Nat) (q : Option Nat) (key : Nat) : View :=
  let now : View := { key, o := s.objAt key }
  match s.fieldRep? (key / 65536) die with
  | none => now
  | some r => (s.fieldLog (key / 65536)).foldr (fun e v =>
      if e.key == key && r.hides q e then
        match e.change with
        | .names l => { v with ren := l ++ v.ren }
        | .whole => { key, o := e.old }
        | .sweep => v
      else v) now

/-! Handles. -/

/-- An entry held in the object cache of the strand's cluster, the least recently used of 256 given up (R262). -/
def State.cacheEntry (s : State) (key : Nat) : State :=
  let cl := clusterOf s.me.core
  let l := s.objCache.filter (· != (cl, key))
  let l := if 256 ≤ (l.filter fun e => e.1 == cl).length then
      match pull (fun (e : Nat × Nat) => e.1 == cl) l.reverse with
      | some (_, r) => r.reverse
      | none => l
    else l
  { s with objCache := (cl, key) :: l }

/-- The matching entries of every object cache emptied (R266, R268). -/
def State.dropCached (s : State) (key : Nat) : State := { s with objCache := s.objCache.filter fun e => e.2 != key }

/-- The checks of R264 on handle h of a job, in order; tv is the operand word that carries the handle. -/
def useHandle (job h kind : Nat) (right : Right) (tv : Word) : M Obj := fun s =>
  let o := s.entryOn (coreDie s.me.core) (objKey job h)
  if h = 0 ∨ !o.valid ∨ o.kind ≠ kind then .error (.trap 3 1 tv)
  else if nbit o.acc.toNat right.bit then .ok (o, if kind = 1 then s else s.cacheEntry (objKey job h))
  else .error (.trap 3 3 tv)

/-- A handle in bits 15:0 of an operand, of the strand's own job; the key of its entry. -/
def ownHandle (a : Word) (kind : Nat) (right : Right) : M Nat := do
  let s ← get
  let _ ← useHandle s.me.job.toNat (wbits a 0 16) kind right a
  return objKey s.me.job.toNat (wbits a 0 16)

/-- A promise written into l0 with one shift (R65): n cycles from acceptance. -/
def promise (n : Nat) : M Unit := upd fun s => { s with me := s.me.shift (s.clk + toW n) }

/-- A promise whose cycles the spec does not give: a free value (R317). -/
def promiseFree : M Unit :=
  upd fun s => { s with me := s.me.shift (Config.freeWord s.free), free := s.free + 1 }

/-- The two words an instruction with the format X reads, in order. -/
def rd2 (a b : Reg) : M (Word × Word) := do
  let x ← rd a
  let y ← rd b
  return (x, y)

def rd3 (a b c : Reg) : M (Word × Word × Word) := do
  let x ← rd a
  let y ← rd b
  let z ← rd c
  return (x, y, z)

/-- A format X command of one level: no guard; faults found at acceptance are taken as R25 and R357 say. -/
def command (i : Instr) (lvl : BitVec 2) (la : Look) (body : M Unit) (s : State) : Out :=
  atLevel lvl i.encode (long 4 0 (window la) [.l0] body) s

/-- Engine commands and completion words come after every earlier store of the strand (R344). -/
def issueRelease : M Unit := released

/-- The strand of a command waits for its completion after la instructions, unless it is detached (R25). -/
def waitFor (src : Owe) (la : Look) : M Unit :=
  if la.val = 15 then pure ()
  else upd fun s =>
    { s with me := { s.me with pend := s.me.pend ++ [s.me.opened src la.val (s.me.pc - 4)] } }

end Sys2Proof.Machine
end

