-- ==== Sys2Proof/Machine/Counter.lean ====
section
/-! DEFINITION. Counters, promises, waits and barriers (R314-R331). -/

namespace Sys2Proof.Machine

/-! Words. -/

/-- A counter address checked (R318): aligned to 8, no aperture, with the right. -/
def counterHits (right : Nat) (a : Word) : M (Addr × List Hit) := do
  let e ← lineAddr a 0
  if e.val % 8 = 0 then pure () else trap 4 0 a
  let hs ← check right e 8
  if hs.all fun h => match h.loc with
      | .aperture _ => false
      | _ => true
  then return (e, hs)
  else trap 5 0 a

/-- Whether a counter word lies on another device. -/
def Hit.elsewhere (h : Hit) : Bool :=
  match h.loc with
  | .cell _ => false
  | _ => true

/-- One test of a word: a success is an acquire, of span scope for a word of another device (R320). -/
def testWord (f : Word → Bool) (a : Word) : M (Bool × Word) := do
  let (_, hs) ← counterHits rR a
  let bs ← readHits a hs
  let w := toW (leNat bs)
  if f w && hs.any Hit.elsewhere then acquireSpan
  return (f w, w)

/-- The condition of WAITC, or of WAITB (mask). -/
def holds (mask : Bool) (b w : Word) : Bool := if mask then w &&& b == b else decide (b.toNat ≤ w.toNat)

/-- Whether an open wait of the strand is bounded by the armed deadline already. -/
def Pending.bounded (d : Word) (p : Pending) : Bool :=
  match p.src with
  | .word _ _ _ dl => dl == some d
  | .barrier _ _ dl => dl == some d
  | _ => false

/-- The deadline that bounds a wait issued now (R321). -/
def Strand.deadline (t : Strand) : Option Word :=
  match t.armed with
  | none => none
  | some d => if t.pend.any (Pending.bounded d) then none else some d

/-- The deadline disarmed by the completion of the wait it bounds. -/
def Strand.disarm (t : Strand) (dl : Option Word) : Strand :=
  if dl.isSome && t.armed == dl then { t with armed := none } else t

/-- Whether a deadline has passed. -/
def State.passed (s : State) (dl : Option Word) : Bool :=
  match dl with
  | none => false
  | some d => decide (d.toNat ≤ s.clk.toNat)

/-- WAITC and WAITB (R320, R321): tested at issue, and again after every write while open. -/
def waitWord (mask : Bool) (d a b : Reg) (la : Nat) : M Unit := do
  atHome
  let (x, y) ← rd2 a b
  let r ← testWord (holds mask y) x
  let s ← get
  let dl := s.me.deadline
  if r.1 then do
    updMe fun t => t.disarm dl
    wr d 0
  else if s.passed dl then do
    updMe fun t => t.disarm dl
    wr d 1
  else do
    destOk d
    await [d] (.word x y mask dl) la

def execWaitc (d a b : Reg) (g : Guard) (la : Look) (s : State) : Out := long 4 g la.val [d] (waitWord false d a b la.val) s
def execWaitb (d a b : Reg) (g : Guard) (la : Look) (s : State) : Out := long 4 g la.val [d] (waitWord true d a b la.val) s

def execWaitt (d a : Reg) (g : Guard) (la : Look) (s : State) : Out :=
  long 4 g la.val [d] (do
    let x ← rd a
    let s ← get
    if x.toNat ≤ s.clk.toNat then wr d s.clk
    else do
      destOk d
      await [d] (.time x) la.val) s

/-- The one test of WAITP (R322). -/
def promised (a b : Word) : M Unit := do
  let r ← testWord (holds true b) a
  if r.1 then pure () else trap 9 0 (b &&& ~~~r.2)

def execWaitp (p a b : Reg) (g : Guard) (la : Look) (s : State) : Out :=
  long 4 g la.val [] (do
    let (x, y) ← rd2 a b
    let v ← rd p
    let _ ← counterHits rR x
    let s ← get
    if v.toNat ≤ s.clk.toNat then promised x y else await [] (.promise v x y) la.val) s

/-- ARMT (R321). -/
def execArmt (a : Reg) (g : Guard) (s : State) : Out :=
  short 4 g (do
    atHome
    let x ← rd a
    upd fun s => { s with me := { s.me with armed := if x = 0 then none else some (s.clk + x) } }) s

/-! The ends of waits. -/

def Pending.isTime (s : State) (p : Pending) : Bool :=
  match p.src with
  | .time t => decide (t.toNat ≤ s.clk.toNat)
  | _ => false

/-- WAITT_TIME_REACHED: d takes clk (R320). -/
def execWaittTimeReached (s : State) : Out :=
  match takePend (Pending.isTime s) s.me with
  | none => .next s
  | some (p, t) => .next (complete s p t [s.clk])

def Pending.isDue (s : State) (p : Pending) : Bool :=
  match p.src with
  | .promise v _ _ => decide (v.toNat ≤ s.clk.toNat)
  | _ => false

/-- PROMISE_REACHED: the word is tested once; a miss is a fault at the end of the window (R322). -/
def execPromiseReached (s : State) : Out :=
  match takePend (Pending.isDue s) s.me with
  | none => .next s
  | some (p, t) =>
    match p.src with
    | .promise _ a b =>
      match promised a b { s with me := t } with
      | .ok (_, s') => .next s'
      | .error (.trap cls detail tv) =>
        .next (s.swapPend p (p.fail (.fault cls detail tv)))
      | .error (.lease x) => .next (s.swapPend p (p.fail (.lease x)))
      | .error (.bad k tv) => .next ((s.logError k).swapPend p (p.fail (.fault 8 0 tv)))
      | .error _ => .next s
    | _ => .next s

/-! Barriers (R326-R329). -/

/-- The bit of a core among a group's members: 16*cluster + core. -/
def barBit (core : Nat) : Nat := coreCl core * 16 + coreNo core % 16

def Barrier.named (b : Barrier) (job h : Nat) : Bool := b.job == job && b.h == h

def State.barrier? (s : State) (job h : Nat) : Option Barrier := s.barriers.find? fun b => b.named job h

def State.setBarrier (s : State) (x : Barrier) : State :=
  { s with barriers := s.barriers.map fun b => if b.named x.job x.h then x else b }

/-- One arrival under step 2 of R328. -/
def Barrier.arrive (b : Barrier) (sid bit : Nat) : Barrier :=
  if !nbit b.cur bit then { b with cur := setBit b.cur bit true, waitCur := b.waitCur ++ [(sid, bit)] }
  else if !nbit b.nxt bit then { b with nxt := setBit b.nxt bit true, waitNxt := b.waitNxt ++ [(sid, bit)] }
  else { b with held := b.held ++ [(sid, bit)] }

/-- Every member's current bit is set. -/
def Barrier.full (b : Barrier) : Bool := b.cur &&& b.members == b.members

/-- Step 3 of R328: completed phases end, held arrivals are evaluated again. -/
def Barrier.turn : Nat → Barrier → Barrier
  | 0, b => b
  | n + 1, b =>
    if b.full then
      let c := { b with
        sense := !b.sense, cur := b.nxt, nxt := 0, waitCur := b.waitNxt, waitNxt := [], held := []
        releasing := b.releasing ++ b.waitCur.map Prod.fst }
      Barrier.turn n (b.held.foldl (fun c w => c.arrive w.1 w.2) c)
    else b

def Pending.isBar (job h : Nat) (p : Pending) : Bool :=
  match p.src with
  | .barrier j k _ => j == job && k == h
  | _ => false

/-- An open BARW of a strand completes with a status. -/
def State.endBar (s : State) (job h sid : Nat) (v : Word) : State :=
  s.modStrand sid fun t =>
    match t.pend.find? (Pending.isBar job h) with
    | none => t
    | some p =>
      let dl := match p.src with
        | .barrier _ _ dl => dl
        | _ => none
      { t.disarm dl with pend := swapIn p { p with src := .value [v] } t.pend }

/-- BARW (R328): the arrival goes to the barrier unit; it is a release at die scope. -/
def execBarw (d a : Reg) (g : Guard) (la : Look) (s : State) : Out :=
  long 4 g la.val [d] (do
    atHome
    let x ← rd a
    let key ← ownHandle x 10 .call
    let s ← get
    let job := key / 65536
    let h := key % 65536
    match s.barrier? job h with
    | none => opFault 0 x
    | some b => do
      need (coreDie s.me.core == b.die && decide (coreNo s.me.core < 16) && nbit b.members (barBit s.me.core)) (opFault 0 x)
      released
      destOk d
      await [d] (.barrier job h s.me.deadline) la.val
      upd fun s => s.due .barrierArrival { sid := s.me.sid.toNat, job, h }) s

/-- BARRIER_ARRIVAL: the arrival of a strand that still waits is counted; a completed phase is due to be released. An
arrival whose deadline has passed and that completes no phase is withdrawn with status 1 (R329). -/
def execBarrierArrival (s : State) : Out :=
  let a := s.arg
  match s.barrier? a.job a.h, s.me.pend.find? (Pending.isBar a.job a.h) with
  | some b, some p =>
    let sid := s.me.sid.toNat % 65536
    let dl := match p.src with
      | .barrier _ _ dl => dl
      | _ => none
    let c := (b.arrive sid (barBit s.me.homeCore)).turn 32
    let s1 := s.setBarrier c
    let s1 := if c.releasing.isEmpty then s1 else s1.due .barrierRelease { job := a.job, h := a.h }
    if s.passed dl && !c.releasing.contains sid then
      .next ((s1.setBarrier (c.withdraw sid)).endBar a.job a.h sid 1)
    else .next s1
  | _, _ => .next s

/-- BARRIER_RELEASE: the waiters of the completed phase receive 0 (R328). -/
def execBarrierRelease (s : State) : Out :=
  let a := s.arg
  match s.barrier? a.job a.h with
  | none => .next s
  | some b =>
    .next (b.releasing.foldl (fun s sid => s.endBar a.job a.h sid 0) (s.setBarrier { b with releasing := [] }))

def Pending.isLate (s : State) (p : Pending) : Bool :=
  match p.src with
  | .word _ _ _ dl => s.passed dl
  | .barrier job h dl =>
    s.passed dl &&
      match s.barrier? job h with
      | none => false
      | some b =>
        let sid := s.me.sid.toNat % 65536
        !b.releasing.contains sid && (b.waitCur ++ b.waitNxt ++ b.held).any fun w => w.1 == sid
  | _ => false

/-- DEADLINE_EXPIRY: the bounded wait ends with status 1, its arrival withdrawn; the deadline is disarmed (R321,
R329). -/
def execDeadlineExpiry (s : State) : Out :=
  match s.me.pend.find? (Pending.isLate s) with
  | none => .next s
  | some p =>
    match p.src with
    | .word _ _ _ dl => .next ({ s with me := s.me.disarm dl }.swapPend p { p with src := .value [1] })
    | .barrier job h _ =>
      let sid := s.me.sid.toNat % 65536
      match s.barrier? job h with
      | none => .next s
      | some b => .next ((s.setBarrier (b.withdraw sid)).endBar job h sid 1)
    | _ => .next s

/-! BARCFG (R327). -/

/-- The row and column units a group holds: rows 0 to 15, columns 16 to 31. -/
def barUnits (form group : Nat) : List Nat :=
  match form with
  | 0 => [group]
  | 1 => [16 + group]
  | _ => List.range 16

/-- The cores a form allows. -/
def barAllowed (form group bit : Nat) : Bool :=
  match form with
  | 0 => bit / 16 == group
  | 1 => bit % 16 == group
  | _ => true

/-- Table 18.5's limits. -/
def barRecordOk (o : Obj) : Bool :=
  let form := o.fld 0 11 2
  let group := o.fld 0 13 4
  form != 3 && (form != 2 || group == 0) && o.fld 1 0 256 != 0 &&
    (List.range 256).all (fun i => !nbit (o.fld 1 0 256) i || barAllowed form group i) && o.fld 0 18 46 == 0 &&
    o.fld 5 0 1728 == 0

def barcfg (i : Instr) (a b : Reg) (la : Look) (s : State) : Out :=
  command i supervisor la (do
    let (x, y) ← rd2 a b
    let key ← ownHandle x 10 .admin
    let s ← get
    let o := s.objAt key
    let job := key / 65536
    let h := key % 65536
    if y.getLsbD 0 then do
      let form := o.fld 0 11 2
      let group := o.fld 0 13 4
      let die := o.fld 0 8 3
      let units := barUnits form group
      need (!(s.barriers.any fun b => b.named job h || (b.die == die && (barUnits b.form b.group).any units.contains)))
        (illegalState x)
      need (barRecordOk o) (opFault 0 x)
      let bar : Barrier := { die, form, group, job, h, members := o.fld 1 0 256, sense := false, cur := 0, nxt := 0,
                             waitCur := [], waitNxt := [], held := [], releasing := [] }
      upd fun s => ({ s with barriers := s.barriers ++ [bar] }).setObjFld key 0 17 1 1
    else do
      match s.barrier? job h with
      | none => pure ()
      | some bar =>
        upd fun s =>
          let s := (bar.waitCur ++ bar.waitNxt ++ bar.held).foldl (fun s w => s.endBar job h w.1 2) s
          let s := bar.releasing.foldl (fun s sid => s.endBar job h sid 0) s
          { s with barriers := s.barriers.filter fun b => !b.named job h }
      upd fun s => s.setObjFld key 0 17 1 0
    promise 40) s

/-- One word encodes both; b bit 0 says which at run time (log 16). -/
def execBarcfgConfigure (a b : Reg) (la : Look) (s : State) : Out := barcfg (.barcfgConfigure a b la) a b la s
def execBarcfgRelease (a b : Reg) (la : Look) (s : State) : Out := barcfg (.barcfgRelease a b la) a b la s

/-! SIG and CNTSET (R323-R325). -/

/-- The release of SIG at its scope; toward another device it is of span scope (R338). -/
def sigRelease (scope : Scope) (away : Bool) : M Unit := do
  if away then releasedSpan
  else
    match scope with
    | .strand => loadsDone
    | .span => releasedSpan
    | _ => released

/-- A write of a counter word: at this device now, to another by a request of the kind. -/
def counterWrite (kind : Nat) (f : Word → Word) (v : Word) (a : Word) (e : Addr) (hs : List Hit) (la : Nat) : M Unit := do
  soFree hs
  let s ← get
  match hs with
  | [] => pure ()
  | h :: _ =>
    match h.loc with
    | .cell k => do
      let old ← if kind = 2 then readHits a hs else pure []
      if isLs k then pure () else logWrite e.val
      writeCells a ((hs.map (cellOf s.me.job.toNat)).zip (leBytes 8 (f (toW (leNat old))).toNat))
    | .remote _ _ | .replica _ _ _ | .group _ _ => do
      let k ← askAtomic kind (leBytes 8 v.toNat) e.val hs
      await [] (.acks [k]) la
      markSo hs
    | .aperture _ => trap 5 0 a

def execSig (scope : Scope) (a b : Reg) (g : Guard) (la : Look) (s : State) : Out :=
  long 4 g la.val [] (do
    let (x, y) ← rd2 a b
    let (e, hs) ← counterHits rW x
    sigRelease scope (hs.any Hit.elsewhere)
    counterWrite 2 (fun w => w + y) y x e hs la.val) s

def execCntset (a b : Reg) (g : Guard) (la : Look) (s : State) : Out :=
  long 4 g la.val [] (do
    let (x, y) ← rd2 a b
    let (e, hs) ← counterHits rW x
    counterWrite 1 (fun _ => y) y x e hs la.val) s

end Sys2Proof.Machine
end

