-- ==== Sys2Proof/Machine/Shake.lean ====
section
/-! DEFINITION. SHAKE256 with an output of 64 bytes (R371, R373), the function of FIPS 202 that the spec names; PRESUMED
from that standard (log 51). -/

namespace Sys2Proof.Machine

/-- The round constants of Keccak-f[1600]. -/
def keccakRounds : List Nat :=
  [0x1, 0x8082, 0x800000000000808A, 0x8000000080008000, 0x808B, 0x80000001, 0x8000000080008081, 0x8000000000008009] ++
  [0x8A, 0x88, 0x80008009, 0x8000000A, 0x8000808B, 0x800000000000008B, 0x8000000000008089, 0x8000000000008003] ++
  [0x8000000000008002, 0x8000000000000080, 0x800A, 0x800000008000000A, 0x8000000080008081, 0x8000000000008080,
    0x80000001, 0x8000000080008008]

/-- Rotation of lane x + 5*y. -/
def keccakRot : List Nat :=
  [0, 1, 62, 28, 27, 36, 44, 6, 55, 20, 3, 10, 43, 25, 39, 41, 45, 15, 21, 8, 18, 2, 61, 56, 14]

/-- One round on 25 lanes. -/
def keccakRound (a : List Word) (rc : Nat) : List Word :=
  let at_ (l : List Word) (i : Nat) : Word := l.getD i 0
  let c := (List.range 5).map fun x => (List.range 5).foldl (fun v y => v ^^^ at_ a (x + 5 * y)) 0
  let d := (List.range 5).map fun x => at_ c ((x + 4) % 5) ^^^ (at_ c ((x + 1) % 5)).rotateLeft 1
  let t := (List.range 25).map fun i => (at_ a i ^^^ at_ d (i % 5)).rotateLeft (keccakRot.getD i 0)
  -- lane x + 5*y goes to y + 5*((2*x + 3*y) mod 5), so place u + 5*v takes the lane with y = u and 2*x = v - 3*y mod 5
  let b := (List.range 25).map fun i => at_ t ((i / 5 + 2 * (i % 5)) * 3 % 5 + 5 * (i % 5))
  let e := (List.range 25).map fun i =>
    at_ b i ^^^ (~~~(at_ b (i / 5 * 5 + (i % 5 + 1) % 5)) &&& at_ b (i / 5 * 5 + (i % 5 + 2) % 5))
  match e with
  | x :: r => (x ^^^ toW rc) :: r
  | [] => []

def keccakF (a : List Word) : List Word := keccakRounds.foldl keccakRound a

/-- One block of 136 bytes absorbed. -/
def keccakAbsorb (a : List Word) (bs : List Byte) : List Word :=
  keccakF ((List.range 25).map fun i =>
    a.getD i 0 ^^^ (if i < 17 then toW (leNat ((bs.drop (8 * i)).take 8)) else 0))

/-- The padding of SHAKE. -/
def shakePad (n : Nat) : List Byte :=
  let k := 136 - n % 136
  if k = 1 then [0x9F] else 0x1F :: (List.replicate (k - 2) 0 ++ [0x80])

def keccakBlocks : Nat → List Byte → List Word → List Word
  | 0, _, a => a
  | n + 1, bs, a => keccakBlocks n (bs.drop 136) (keccakAbsorb a (bs.take 136))

/-- SHAKE256, 64 bytes. -/
def shake256 (bs : List Byte) : List Byte :=
  let m := bs ++ shakePad bs.length
  ((keccakBlocks (m.length / 136) m (List.replicate 25 0)).take 8).flatMap fun w => leBytes 8 w.toNat

end Sys2Proof.Machine
end

