-- ==== Sys2Proof/Machine/Float.lean ====
section
/-! DEFINITION. Scalar floating point, its compares, conversions, and the F64 extension (R84-R87, R40). -/

namespace Sys2Proof.Machine

open Sys2Proof.Num

/-- A binary32 operand: bits 31:0 (R84). -/
def lo32 (a : Word) : Half := a.setWidth 32
def fop1 (f : Half → Half) (d a : Reg) : M Unit := op1 (fun x => (f (lo32 x)).setWidth 64) d a
def fop2 (f : Half → Half → Half) (d a b : Reg) : M Unit := op2 (fun x y => (f (lo32 x) (lo32 y)).setWidth 64) d a b

def execFadd (d a b : Reg) (g : Guard) (s : State) : Out := short 4 g (fop2 add32 d a b) s
def execFsub (d a b : Reg) (g : Guard) (s : State) : Out := short 4 g (fop2 sub32 d a b) s
def execFmul (d a b : Reg) (g : Guard) (s : State) : Out := short 4 g (fop2 mul32 d a b) s
def execFma (d a b : Reg) (g : Guard) (s : State) : Out :=
  short 4 g (op3 (fun x y z => (fma32 (lo32 x) (lo32 y) (lo32 z)).setWidth 64) d a b) s
def execFdiv (d a b : Reg) (g : Guard) (_la : Look) (s : State) : Out := short 4 g (fop2 div32 d a b) s
def execFsqrt (d a : Reg) (g : Guard) (_la : Look) (s : State) : Out := short 4 g (fop1 sqrt32 d a) s
def execFmin (d a b : Reg) (g : Guard) (s : State) : Out := short 4 g (fop2 fmin32 d a b) s
def execFmax (d a b : Reg) (g : Guard) (s : State) : Out := short 4 g (fop2 fmax32 d a b) s

def execFcmpeq (pd : Pred) (a b : Reg) (g : Guard) (s : State) : Out :=
  short 4 g (cmp2 (fun x y => feq32 (lo32 x) (lo32 y)) pd a b) s
def execFcmplt (pd : Pred) (a b : Reg) (g : Guard) (s : State) : Out :=
  short 4 g (cmp2 (fun x y => flt32 (lo32 x) (lo32 y)) pd a b) s
def execFcmple (pd : Pred) (a b : Reg) (g : Guard) (s : State) : Out :=
  short 4 g (cmp2 (fun x y => fle32 (lo32 x) (lo32 y)) pd a b) s
def execFcmpun (pd : Pred) (a b : Reg) (g : Guard) (s : State) : Out :=
  short 4 g (cmp2 (fun x y => fun32 (lo32 x) (lo32 y)) pd a b) s

/-! The stay of R40. -/

/-- Whether an F64 instruction is legal where the strand runs: on a compute core, or on a core it is abroad on, from which
it returns home first (R40, R227). -/
def f64Legal (s : State) : Bool := decide (coreNo s.me.core < 16) || s.me.abroad

/-- Whether the strand runs where F64 instructions execute. -/
def onF64 (k : Nat) : Bool := coreNo k == 14 || coreNo k == 15

/-- Whether a core has a slot free for a run-queue entry (R225, R227). -/
def State.freeSlot (s : State) (core : Nat) : Option Nat :=
  ((List.range 16).filter fun i => s.slotFree core i && (coreNo core != 16 || decide (8 ≤ i))).head?

/-- Core 14 of the strand's own cluster if it has a free slot, else core 15 if it has one, else core 14 (R40). -/
def State.f64Core (s : State) : Nat :=
  let base := clusterOf s.me.homeCore * 32
  if (s.freeSlot (base + 14)).isSome then base + 14
  else if (s.freeSlot (base + 15)).isSome then base + 15 else base + 14

/-- An F64 instruction (R40): skipped where the strand runs when its guard is false, executed on core 14 or 15, and otherwise
preceded by the strand's migration, from a core outside the compute cores by way of home (R227). It never faults once it
has issued (R95). w is its word. -/
def f64 (w : Nat) (g : Guard) (body : M Unit) (s : State) : Out :=
  legalIf (f64Legal s) w (fun s =>
    match s.me.guardHeld g with
    | some x => stopped s x
    | none =>
      if !s.me.guarded g then .next (s.issue 4)
      else if onF64 s.me.core then finish s (body (s.issue 4))
      else if 16 ≤ coreNo s.me.core then .next s.goHome
      else
        match settledAll s with
        | .error x => stopped s x
        | .ok _ => .next (({ s with me := { s.me with stay := true } }).depart s.f64Core 4)) s

def execDadd (d a b : Reg) (g : Guard) (la : Look) (s : State) : Out :=
  f64 (Instr.dadd d a b g la).encode g (op2 add64 d a b) s
def execDsub (d a b : Reg) (g : Guard) (la : Look) (s : State) : Out :=
  f64 (Instr.dsub d a b g la).encode g (op2 sub64 d a b) s
def execDmul (d a b : Reg) (g : Guard) (la : Look) (s : State) : Out :=
  f64 (Instr.dmul d a b g la).encode g (op2 mul64 d a b) s
def execDfma (d a b : Reg) (g : Guard) (la : Look) (s : State) : Out :=
  f64 (Instr.dfma d a b g la).encode g (op3 fma64 d a b) s
def execDdiv (d a b : Reg) (g : Guard) (la : Look) (s : State) : Out :=
  f64 (Instr.ddiv d a b g la).encode g (op2 div64 d a b) s
def execDsqrt (d a : Reg) (g : Guard) (la : Look) (s : State) : Out :=
  f64 (Instr.dsqrt d a g la).encode g (op1 sqrt64 d a) s

/-! CVT (R86). -/

/-- A converted code as a register value: I types sign-extended, the others zero-extended. -/
def cvtWord (dst : Ty) (c : Nat) : Word :=
  match tyFmt dst with
  | .int true w => BitVec.ofInt 64 (sgn w c)
  | _ => BitVec.ofNat 64 c

/-- CVT's value: the low bits of a converted. -/
def cvtVal (src dst : Ty) (mode : RMode) (sat : Bool) (a : Word) : Word :=
  cvtWord dst (conv (tyFmt src) (tyFmt dst) mode sat (a.toNat % 2 ^ (tyFmt src).width))

def execCvt (d a : Reg) (src dst : Ty) (mode : RMode) (sat : Bool) (g : Guard) (s : State) : Out :=
  if src.val == 13 || dst.val == 13 then
    f64 (Instr.cvt d a src dst mode sat g).encode g (op1 (cvtVal src dst mode sat) d a) s
  else short 4 g (op1 (cvtVal src dst mode sat) d a) s

end Sys2Proof.Machine
end

