-- ==== Sys2Proof/Machine/Line.lean ====
section
/-! DEFINITION. Line instructions and streams (06_line_instructions, R97-R117). -/

namespace Sys2Proof.Machine

open Sys2Proof.Num

/-- A line instruction: illegal on a strand of a core with no line unit; it returns home first (R97). -/
def line (i : Instr) (g : Guard) (body : M Unit) (s : State) : Out :=
  legalIf (decide (coreNo s.me.homeCore < 16)) i.encode (short (Instr.len i) g (do atHome; body)) s

def zipLine (f : Half → Half → Half) (a b : Line) : Line := Vector.ofFn fun i => f a[i] b[i]
def mapLine (f : Half → Half) (a : Line) : Line := Vector.ofFn fun i => f a[i]
def zip3Line (f : Half → Half → Half → Half) (x y z : Line) : Line := Vector.ofFn fun i => f x[i] y[i] z[i]

def line1 (f : Half → Half) (d a : LReg) : M Unit := do
  let x ← rdLine a
  wrLine d (mapLine f x)

def line2 (f : Half → Half → Half) (d a b : LReg) : M Unit := do
  let x ← rdLine a
  let y ← rdLine b
  wrLine d (zipLine f x y)

/-- With d's old value as a third operand (R98). -/
def line3 (f : Half → Half → Half → Half) (d a b : LReg) : M Unit := do
  let x ← rdLine a
  let y ← rdLine b
  let z ← rdLineOld d
  wrLine d (zip3Line f x y z)

def isFp (ty : Ty) : Bool := ty.val == 12
def isI32 (ty : Ty) : Bool := ty.val == 2

/-! Lane functions of Table 6.2. -/

def vaddL (ty : Ty) (a b : Half) : Half := if isFp ty then add32 a b else a + b
def vsubL (ty : Ty) (a b : Half) : Half := if isFp ty then sub32 a b else a - b
def vmulL (ty : Ty) (a b : Half) : Half := if isFp ty then mul32 a b else a * b
def vfmaL (ty : Ty) (a b c : Half) : Half := if isFp ty then fma32 a b c else a * b + c
def vminL (ty : Ty) (a b : Half) : Half :=
  if isFp ty then fmin32 a b
  else if isI32 ty then (if a.toInt ≤ b.toInt then a else b) else (if a.toNat ≤ b.toNat then a else b)
def vmaxL (ty : Ty) (a b : Half) : Half :=
  if isFp ty then fmax32 a b
  else if isI32 ty then (if b.toInt ≤ a.toInt then a else b) else (if b.toNat ≤ a.toNat then a else b)
def vabsL (ty : Ty) (a : Half) : Half :=
  if isFp ty then (if nan32 a then qnan32 else a &&& 0x7FFFFFFF#32) else if a.msb then 0 - a else a
def vnegL (ty : Ty) (a : Half) : Half := if isFp ty then (if nan32 a then qnan32 else negBit32 a) else 0 - a

def execVadd (d a b : LReg) (ty : Ty) (g : Guard) (s : State) : Out := line (.vadd d a b ty g) g (line2 (vaddL ty) d a b) s
def execVsub (d a b : LReg) (ty : Ty) (g : Guard) (s : State) : Out := line (.vsub d a b ty g) g (line2 (vsubL ty) d a b) s
def execVmul (d a b : LReg) (ty : Ty) (g : Guard) (s : State) : Out := line (.vmul d a b ty g) g (line2 (vmulL ty) d a b) s
def execVfma (d a b : LReg) (ty : Ty) (g : Guard) (s : State) : Out := line (.vfma d a b ty g) g (line3 (vfmaL ty) d a b) s
def execVmin (d a b : LReg) (ty : Ty) (g : Guard) (s : State) : Out := line (.vmin d a b ty g) g (line2 (vminL ty) d a b) s
def execVmax (d a b : LReg) (ty : Ty) (g : Guard) (s : State) : Out := line (.vmax d a b ty g) g (line2 (vmaxL ty) d a b) s
def execVabs (d a : LReg) (ty : Ty) (g : Guard) (s : State) : Out := line (.vabs d a ty g) g (line1 (vabsL ty) d a) s
def execVneg (d a : LReg) (ty : Ty) (g : Guard) (s : State) : Out := line (.vneg d a ty g) g (line1 (vnegL ty) d a) s

def execCompactVadd (d a : LReg) (s : State) : Out := line (.compactVadd d a) 0 (line2 (vaddL 12) d d a) s
def execCompactVmul (d a : LReg) (s : State) : Out := line (.compactVmul d a) 0 (line2 (vmulL 12) d d a) s
def execCompactVfma (d a : LReg) (s : State) : Out := line (.compactVfma d a) 0 (line3 (vfmaL 12) d d a) s

/-! Functions (R101). -/

def execVexp (d a : LReg) (g : Guard) (s : State) : Out := line (.vexp d a g) g (line1 exp32 d a) s
def execVlog (d a : LReg) (g : Guard) (s : State) : Out := line (.vlog d a g) g (line1 log32 d a) s
def execVrcp (d a : LReg) (g : Guard) (s : State) : Out := line (.vrcp d a g) g (line1 rcp32 d a) s
def execVrsq (d a : LReg) (g : Guard) (s : State) : Out := line (.vrsq d a g) g (line1 rsq32 d a) s
def execVsin (d a : LReg) (g : Guard) (s : State) : Out := line (.vsin d a g) g (line1 sin32 d a) s
def execVcos (d a : LReg) (g : Guard) (s : State) : Out := line (.vcos d a g) g (line1 cos32 d a) s

/-! Logic, shifts, compares, selection (R102, R103). -/

def execVand (d a b : LReg) (ty : Ty) (g : Guard) (s : State) : Out := line (.vand d a b ty g) g (line2 (· &&& ·) d a b) s
def execVor (d a b : LReg) (ty : Ty) (g : Guard) (s : State) : Out := line (.vor d a b ty g) g (line2 (· ||| ·) d a b) s
def execVxor (d a b : LReg) (ty : Ty) (g : Guard) (s : State) : Out := line (.vxor d a b ty g) g (line2 (· ^^^ ·) d a b) s
def execVshl (d a b : LReg) (ty : Ty) (g : Guard) (s : State) : Out :=
  line (.vshl d a b ty g) g (line2 (fun x y => x <<< (y.toNat % 32)) d a b) s
def vshrL (ty : Ty) (a b : Half) : Half := if isI32 ty then a.sshiftRight (b.toNat % 32) else a >>> (b.toNat % 32)
def execVshr (d a b : LReg) (ty : Ty) (g : Guard) (s : State) : Out := line (.vshr d a b ty g) g (line2 (vshrL ty) d a b) s

/-- The relation of a VCMP between two lanes. -/
def vrel (rel : Rel) (ty : Ty) (a b : Half) : Bool :=
  match rel with
  | .eq => if isFp ty then feq32 a b else a == b
  | .lt => if isFp ty then flt32 a b else if isI32 ty then a.slt b else a.ult b
  | .le => if isFp ty then fle32 a b else if isI32 ty then a.sle b else a.ule b
  | .un => fun32 a b

def execVcmp (rel : Rel) (d : Fin 8) (a b : LReg) (ty : Ty) (g : Guard) (s : State) : Out :=
  line (.vcmp rel d a b ty g) g (line2 (fun x y => if vrel rel ty x y then BitVec.allOnes 32 else 0) (.k d) a b) s
def execVsel (d a b : LReg) (ty : Ty) (g : Guard) (s : State) : Out :=
  line (.vsel d a b ty g) g (line3 (fun x y z => (x &&& z) ||| (y &&& ~~~z)) d a b) s

/-! Moves and shuffles (R104). -/

def isC32 (ty : Ty) : Bool := ty.val == 15
/-- Bits 31:0 and 63:32 of a scalar. -/
def loHalf (v : Word) : Half := v.setWidth 32
def hiHalf (v : Word) : Half := (v >>> 32).setWidth 32
def pairWord (lo hi : Half) : Word := (hi.setWidth 64 <<< 32) ||| lo.setWidth 64

def bcast (ty : Ty) (v : Word) : Line :=
  Vector.ofFn fun i => if isC32 ty && i.val % 2 == 1 then hiHalf v else loHalf v

def vgetW (ty : Ty) (x : Line) (b : Word) : Word :=
  if isC32 ty then
    let p := b.toNat % 32
    pairWord x[Fin.ofNat 64 (2 * p)] x[Fin.ofNat 64 (2 * p + 1)]
  else laneScalar ty x[Fin.ofNat 64 b.toNat]

def vputL (ty : Ty) (old : Line) (a b : Word) : Line :=
  if isC32 ty then
    let p := b.toNat % 32
    Vector.ofFn fun i => if i.val / 2 = p then (if i.val % 2 = 1 then hiHalf a else loHalf a) else old[i]
  else Vector.ofFn fun i => if i.val = b.toNat % 64 then loHalf a else old[i]

def shuf (ty : Ty) (a b : Line) : Line :=
  if isC32 ty then Vector.ofFn fun i =>
    let c := b[Fin.ofNat 64 (i.val / 2 * 2)]
    if c.msb then 0 else a[Fin.ofNat 64 (c.toNat % 32 * 2 + i.val % 2)]
  else Vector.ofFn fun i => if b[i].msb then 0 else a[Fin.ofNat 64 b[i].toNat]

def execVbcast (d : LReg) (a : Reg) (ty : Ty) (g : Guard) (s : State) : Out :=
  line (.vbcast d a ty g) g (do
    let v ← rd a
    wrLine d (bcast ty v)) s
def execVget (d : Reg) (a : LReg) (b : Reg) (ty : Ty) (g : Guard) (s : State) : Out :=
  line (.vget d a b ty g) g (do
    let x ← rdLine a
    let y ← rd b
    wr d (vgetW ty x y)) s
def execVput (d : LReg) (a b : Reg) (ty : Ty) (g : Guard) (s : State) : Out :=
  line (.vput d a b ty g) g (do
    let (x, y) ← rd2 a b
    let old ← rdLineOld d
    wrLine d (vputL ty old x y)) s
def execVshuf (d a b : LReg) (ty : Ty) (g : Guard) (s : State) : Out :=
  line (.vshuf d a b ty g) g (do
    let x ← rdLine a
    let y ← rdLine b
    wrLine d (shuf ty x y)) s

/-- product32 of two complex values (R56): each part exact, rounded once. -/
def cmul32 (ar ai br bi : Half) : Half × Half :=
  let m (x y : Half) : FV := (val32 x).mul (val32 y)
  let nan := nan32 ar || nan32 ai || nan32 br || nan32 bi
  if nan then (qnan32, qnan32)
  else (to32 ((m ar br).add (m ai bi).neg), to32 ((m ar bi).add (m ai br)))

/-- The even and the odd lane of the pair of lane i. -/
def evenOf (x : Line) (i : Fin 64) : Half := x[Fin.ofNat 64 (i.val / 2 * 2)]
def oddOf (x : Line) (i : Fin 64) : Half := x[Fin.ofNat 64 (i.val / 2 * 2 + 1)]

def vcmulL (x y : Line) : Line := Vector.ofFn fun i =>
  let r := cmul32 (evenOf x i) (oddOf x i) (evenOf y i) (oddOf y i)
  if i.val % 2 = 0 then r.1 else r.2

def vconjL (x : Line) : Line := Vector.ofFn fun i => if i.val % 2 = 0 then x[i] else vnegL 12 x[i]

def execVcmul (d a b : LReg) (g : Guard) (s : State) : Out :=
  line (.vcmul d a b g) g (do
    let x ← rdLine a
    let y ← rdLine b
    wrLine d (vcmulL x y)) s
def execVconj (d a : LReg) (g : Guard) (s : State) : Out :=
  line (.vconj d a g) g (do
    let x ← rdLine a
    wrLine d (vconjL x)) s

/-! Conversion and the generator (R106, R107). -/

def vsrcFmt : VSrc → NFmt
  | .fp32 => .flt fp32
  | .i32 => .int true 32
  | .n32 => .int false 32

def vmode (m : Fin 4) : RMode :=
  match m.val with
  | 0 => .rne | 1 => .rz | 2 => .ru | _ => .rd

def vcvtL (src : VSrc) (sat : Bool) (mode : Fin 4) (ty : Ty) (x : Half) : Half :=
  let r := conv (vsrcFmt src) (tyFmt ty) (vmode mode) sat x.toNat
  BitVec.ofNat 32 (match tyFmt ty with
    | .int _ _ => extCode (tyFmt ty) 32 r
    | .flt _ => if isFp ty then r else conv (tyFmt ty) (.flt fp32) .rne false r)

def execVcvt (d a : LReg) (src : VSrc) (sat : Bool) (mode : Fin 4) (ty : Ty) (g : Guard) (s : State) : Out :=
  line (.vcvt d a src sat mode ty g) g (line1 (vcvtL src sat mode ty) d a) s

def execVrnd (d a : LReg) (b : Reg) (ty : Ty) (g : Guard) (s : State) : Out :=
  line (.vrnd d a b ty g) g (do
    let x ← rdLine a
    let k ← rd b
    wrLine d (mapLine (fun c => if isFp ty then vrndF c k else vrnd c k) x)) s

/-! Reductions (R108, R58, R59). -/

/-- Every other lane, from lane 0 or 1. -/
def lanesFrom (x : Line) (o : Nat) : List Half := (List.range 32).map fun p => x[Fin.ofNat 64 (2 * p + o)]

def vrsumW (ty : Ty) (x : Line) : Word :=
  if isC32 ty then pairWord (sumTree add32 0 5 (lanesFrom x 0)) (sumTree add32 0 5 (lanesFrom x 1))
  else laneScalar ty (if isFp ty then sumTree add32 0 6 (listOfLine x) else sumTree (· + ·) 0 6 (listOfLine x))

/-- The place of a lane in the order of R59, higher first. -/
def rankOf (ty : Ty) (x : Half) : Int := if isFp ty then rank32 x else if isI32 ty then x.toInt else x.toNat

/-- The first lane of the highest (or lowest) rank: its number and value. -/
def selectLane (better : Int → Int → Bool) (ty : Ty) : Nat → List Half → Nat × Half → Nat × Half
  | _, [], r => r
  | i, x :: l, r => selectLane better ty (i + 1) l (if better (rankOf ty x) (rankOf ty r.2) then (i, x) else r)

def bestLane (hi : Bool) (ty : Ty) (x : Line) : Nat × Half :=
  let l := listOfLine x
  selectLane (fun a b => if hi then decide (b < a) else decide (a < b)) ty 0 l (0, l.headD 0)

def reduce (f : Line → Word) (d : Reg) (a : LReg) : M Unit := do
  let x ← rdLine a
  wr d (f x)

def execVrsum (d : Reg) (a : LReg) (ty : Ty) (g : Guard) (s : State) : Out :=
  line (.vrsum d a ty g) g (reduce (vrsumW ty) d a) s
def execVrmax (d : Reg) (a : LReg) (ty : Ty) (g : Guard) (s : State) : Out :=
  line (.vrmax d a ty g) g (reduce (fun x => laneScalar ty (bestLane true ty x).2) d a) s
def execVrmin (d : Reg) (a : LReg) (ty : Ty) (g : Guard) (s : State) : Out :=
  line (.vrmin d a ty g) g (reduce (fun x => laneScalar ty (bestLane false ty x).2) d a) s
/-- The encoding in bits 31:0 and the lane number in bits 37:32. -/
def indexed (r : Nat × Half) : Word := toW (r.1 * 2 ^ 32 + r.2.toNat)
def execVrmaxi (d : Reg) (a : LReg) (ty : Ty) (g : Guard) (s : State) : Out :=
  line (.vrmaxi d a ty g) g (reduce (fun x => indexed (bestLane true ty x)) d a) s
def execVrmini (d : Reg) (a : LReg) (ty : Ty) (g : Guard) (s : State) : Out :=
  line (.vrmini d a ty g) g (reduce (fun x => indexed (bestLane false ty x)) d a) s

/-! Line memory access (R109-R111). -/

/-- Element addresses of a line access from element offsets. -/
def lineAddrs (a : Word) (size : Nat) : List Int → M (List Addr)
  | [] => pure []
  | o :: r => do
    let x ← lineAddr a (o * size)
    let l ← lineAddrs a size r
    return x :: l

/-- Offsets j*s; the register z as b means a stride of 1 (R111). -/
def strides (ty : Ty) (b : Reg) (v : Word) : List Int :=
  (List.range (lineCount ty)).map fun (j : Nat) => (j : Int) * (if b = .z then 1 else v.toInt)

/-- Offset lane of element j of a gather or scatter; none marks it inactive. -/
def offsetLane (ty : Ty) (x : Line) (j : Nat) : Option Int :=
  let v := x[Fin.ofNat 64 (if isComplex ty then 2 * j else j)]
  if v = 0x80000000#32 then none else some v.toInt

def lineOffsets (ty : Ty) (x : Line) : List (Option Int) := (List.range (lineCount ty)).map (offsetLane ty x)

/-- The elements of active offsets. -/
def gatherActive : List (Option Int) → List Nat → List Nat
  | none :: r, _ :: vs => gatherActive r vs
  | some _ :: r, v :: vs => v :: gatherActive r vs
  | _, _ => []

/-- Elements of active offsets read as far as this device holds them; an inactive one is not read. -/
def readLanes : List (Option Int) → List (Addr × List Hit) → M (List (Option Elem))
  | some _ :: r, x :: xs => do
    let e ← readElem x.1.tval x.2
    let l ← readLanes r xs
    return some e :: l
  | none :: r, xs => do
    let l ← readLanes r xs
    return none :: l
  | _, _ => pure []

/-- The lanes of loaded elements; an inactive element's lanes are 0 (R111). -/
def elemLine (ty : Ty) (els : List (Option Elem)) : Line :=
  lineOfList (els.flatMap fun e =>
    match e with
    | some e => lanesOf ty (leNat e.bytes)
    | none => if isComplex ty then [0, 0] else [0])

/-- A line destination becomes pending; the instruction has no window and does not stop the strand (R26, R99). -/
def awaitLine (d : LReg) (src : Owe) : M Unit :=
  let put (p : Pending → Pending) : M Unit := upd fun s =>
    { s with me := { s.me with pend := s.me.pend ++ [p { s.me.opened src 0 (s.me.pc - 4) with holds := false }] } }
  match d with
  | .k i => do
    settledK i
    put fun p => { p with line := some i }
  | .t i => do
    settled fun _ p => p.pushes i
    let _ ← bound i true
    put fun p => { p with dsts := [.t i] }

/-- A line load: elements of this device are read at issue; the register is pending while another device serves some, or
where a memory error is to arrive with the data (R111). -/
def lineLoad (ty : Ty) (d : LReg) (a : Word) (os : List (Option Int)) : M Unit := do
  let as ← lineAddrs a (elemSize ty) (os.filterMap id)
  let hs ← checkElems rR (elemSize ty) as
  soFree hs.flatten
  let els ← readLanes os (as.zip hs)
  if allGot els then wrLine d (elemLine ty els)
  else do
    let els ← askAll (hs.flatten.any Hit.so) els
    awaitLine d (.fetch els (.lanes ty))
    markSo hs.flatten
  countFirst hs.flatten

def lineStore (ty : Ty) (x : Line) (a : Word) (os : List (Option Int)) : M Unit := do
  let as ← lineAddrs a (elemSize ty) (os.filterMap id)
  let hs ← checkElems rW (elemSize ty) as
  soFree hs.flatten
  writeElems (elemSize ty) as hs (gatherActive os (lineElems ty x))
  countFirst hs.flatten

def execVld (d : LReg) (a b : Reg) (ty : Ty) (g : Guard) (s : State) : Out :=
  line (.vld d a b ty g) g (do
    let (x, y) ← rd2 a b
    lineLoad ty d x ((strides ty b y).map some)) s
def execVst (d : LReg) (a b : Reg) (ty : Ty) (g : Guard) (s : State) : Out :=
  line (.vst d a b ty g) g (do
    let (x, y) ← rd2 a b
    let v ← rdLine d
    lineStore ty v x ((strides ty b y).map some)) s
def execVgath (d : LReg) (a : Reg) (b : LReg) (ty : Ty) (g : Guard) (s : State) : Out :=
  line (.vgath d a b ty g) g (do
    let x ← rd a
    let y ← rdLine b
    lineLoad ty d x (lineOffsets ty y)) s
def execVscat (d : LReg) (a : Reg) (b : LReg) (ty : Ty) (g : Guard) (s : State) : Out :=
  line (.vscat d a b ty g) g (do
    let x ← rd a
    let y ← rdLine b
    let v ← rdLine d
    lineStore ty v x (lineOffsets ty y)) s

/-! Streams (R112-R115). -/

/-- A binding ended; pushed elements are written when the queue is empty (R114). -/
def endStream (t : Fin 4) : M Unit := do
  let s ← get
  match s.me.t[t] with
  | none => pure ()
  | some st => do
    if st.out then drained else pure ()
    updMe fun u => { u with t := u.t.set t none }

/-- STRM (R112). Where DIMS is 0 and the base is misaligned as well the operand fault is raised: the spec gives no order
(log 82). -/
def execStrm (t : Fin 4) (a b : Reg) (ty : Ty) (g : Guard) (s : State) : Out :=
  line (.strm t a b ty g) g (do
    let (x, y) ← rd2 a b
    need (wbits y 1 2 != 0) (opFault 0 y)
    need (x.toNat % elemSize ty == 0) (trap 4 0 (if x.msb then x &&& 0xFFFFFFFF else x))
    endStream t
    let e ← gets' fun s => s.me.e
    let st : Stream := { base := x, ty, out := y.getLsbD 0, dims := wbits y 1 2,
                         c := #v[wbits e[0] 0 32, wbits e[2] 0 32, wbits e[4] 0 32], s := #v[e[1], e[3], e[5]], pos := 0,
                         ahead := [] }
    updMe fun u => { u with t := u.t.set t (some st) }) s

def execStre (t : Fin 4) (g : Guard) (s : State) : Out := line (.stre t g) g (endStream t) s

/-- An element of an input stream fetched ahead: read now from this device, asked for from another. -/
def fetchElem (a : Addr) (hs : List Hit) : M Ahead := do
  let s ← get
  soFree hs
  if hs.any (Hit.away s) then do
    let dev := ((hs.head?.bind Hit.away?).map Prod.fst).getD 0
    if !hs.all Hit.readable then trap 5 0 a.tval
    let k ← request dev s.me.job.toNat (hs.filterMap fun h => h.away?.map Prod.snd) 0 [] (hs.filterMap Hit.rep?)
    return .asked k (hs.any Hit.so)
  else do
    let bs ← readHits a.tval hs
    return .got (leNat bs)

/-- The element at position e of a stream fetched ahead. -/
def fetchAhead (st : Stream) (e : Nat) : M Ahead := do
  let a ← st.addr e
  let hs ← checkElems rR (elemSize st.ty) [a]
  fetchElem a hs.flatten

/-- STREAM_FETCH_AHEAD: one more element of an input stream read, at most 512 bytes beyond the position; a failure is kept
for the pop that needs the element (R113, R115). -/
def execStreamFetchAhead (s : State) : Out :=
  let i : Fin 4 := Fin.ofNat 4 s.arg.n
  match s.me.t[i] with
  | none => .next s
  | some st =>
    let n := st.ahead.length
    let put (x : Ahead) (s : State) : State :=
      { s with me := { s.me with t := s.me.t.set i (some { st with ahead := st.ahead ++ [x] }) } }
    if s.me.abroad || st.out || decide (st.total ≤ st.pos + n) || decide (512 < (n + 1) * elemSize st.ty) then .next s
    else
      match fetchAhead st (st.pos + n) s with
      | .ok (x, s') => .next (put x s')
      | .error (.bad k tval) => .next (put (.lost 8 0 tval) (s.logError k))
      | .error (.trap cls detail tval) => .next (put (.lost cls detail tval) s)
      | .error _ => .next s

end Sys2Proof.Machine
end

