-- ==== Sys2Proof/Machine/Task.lean ====
section
/-! DEFINITION. Messages, tasks and migration (12_queues_inventory, R212-R231) and the filling of slots (R241). -/

namespace Sys2Proof.Machine

/-! Messages (R214-R218). -/

/-- The entry of a SEND: H0 with the sender's sid, the tag and its job; the sender's o0 to o5. -/
def sendMsg (t : Strand) (tag : Nat) : Msg where
  h0 := toW (t.sid.toNat + tag * 2 ^ 32 + t.job.toNat * 2 ^ 48)
  o := t.o

/-- Whether a sid names a core field 20 to 31, a core that does not exist, or a slot with no strand (R215). -/
def State.noStrand (s : State) (sid : Nat) : Bool :=
  !coreExists (sid / 16 % 4096) || !s.slotTaken sid

/-- A destination at task level of another job than the sender's (R215). -/
def State.foreign (s : State) (sid job : Nat) : Bool :=
  match s.strand? sid with
  | some t => t.task && t.job.toNat != job
  | none => false

/-- SEND (R215): a release of the sender's accesses (R218); the entry is offered from then on. -/
def execSend (d a b : Reg) (g : Guard) (la : Look) (s : State) : Out :=
  long 4 g la.val [d] (do
    let (x, y) ← rd2 a b
    settledO
    let s ← get
    let dst := wbits x 0 32
    if s.isHere dst then released else releasedSpan
    if (if s.isHere dst then s.noStrand dst else decide (20 ≤ coreNo (dst / 16))) then wr d 2
    else if s.isHere dst && s.foreign dst s.me.job.toNat then wr d 3
    else do
      destOk d
      await [d] (.send dst (sendMsg s.me (wbits y 0 16)) s.clk s.ticks none) la.val
      upd fun s => s.due .messageArrival { sid := s.me.sid.toNat, n := s.ticks }) s

/-- Whether an open instruction is the SEND with a number. -/
def Pending.isSend (n : Nat) (p : Pending) : Bool :=
  match p.src with
  | .send _ _ _ k _ => k == n
  | _ => false

/-- Whether it is a SEND to a destination. -/
def Pending.sendsTo (dst : Nat) (p : Pending) : Bool :=
  match p.src with
  | .send d _ _ _ _ => d == dst
  | _ => false

/-- Whether it is a SEND whose offer is the request with a tag. -/
def Pending.offers (tag : Nat) (p : Pending) : Bool :=
  match p.src with
  | .send _ _ _ _ (some k) => k == tag
  | _ => false

/-- From 65,536 cycles after issue SEND makes no new offer (R215). -/
def sendOver (s : State) (t : Word) : Bool := decide (t.toNat + 65536 ≤ s.clk.toNat)

/-- An open SEND of the strand with what it now waits for. -/
def State.setSend (s : State) (n : Nat) (src : Owe) : State :=
  { s with me := { s.me with pend := s.me.pend.map fun (p : Pending) => if p.isSend n then { p with src } else p } }

/-- A message from another device, as its packet carries it: H0 and o0 to o5. -/
def arrivingMsg (ws : List Word) : Msg where
  h0 := ws.headD 0
  o := Vector.ofFn fun i => ws.getD (i.val + 1) 0

/-- The 64 bytes of an entry but for H1. -/
def Msg.bytes (m : Msg) : List Byte := (m.h0 :: m.o.toList).flatMap fun w => leBytes 8 w.toNat

/-- What a slot of this device answers to an offer from another: 0 accepted, 1 refused, or the status 2 or 3 (R215). -/
def State.offered (s : State) (sid job : Nat) (m : Msg) : Nat × State :=
  if s.noStrand sid then (2, s)
  else if s.foreign sid job then (3, s)
  else
    match s.enqueue sid m with
    | some t => (0, t)
    | none => (1, s)

/-- One offer of SEND number n: within the package it reaches the destination slot, and the answer is due at the sender; to
another device it is one request (R215). Entries to one slot are offered in the order of their SENDs (R218). -/
def offerSend (n : Nat) (p : Pending) (s : State) : State :=
  match p.src with
  | .send dst m t _ none =>
    let again := s.due .messageArrival { sid := s.me.sid.toNat, n, kind := s.arg.kind }
    let earlier := (s.me.pend.takeWhile fun q => !q.isSend n).any (Pending.sendsTo dst)
    if earlier then again
    else if s.isHere dst then
      let s := s.setSend n (.send dst m t n (some 0))
      match s.enqueue dst m with
      | some s' => s'.due .sendOfferAnswer { sid := s.me.sid.toNat, n, kind := 0 }
      | none => s.due .sendOfferAnswer { sid := s.me.sid.toNat, n, kind := 1 }
    else
      match s.request (dst / 65536) s.me.job.toNat [dst] 8 m.bytes [] with
      | some (k, s') => s'.setSend n (.send dst m t n (some k))
      | none => again
  | _ => s

/-- MESSAGE_ARRIVAL: an offer of a SEND is made; a repeated one (kind 1) not from 65,536 cycles after issue on. With flag
the offer comes from another device, which is answered (R215). -/
def execMessageArrival (s : State) : Out :=
  if s.arg.flag then
    let r := s.offered s.arg.n s.arg.job (arrivingMsg s.arg.ws)
    .next { r.2 with fabric := { r.2.fabric with out := r.2.fabric.out ++
      [({ dev := s.arg.dev, job := s.arg.job, kind := 10, a := s.arg.m, b := r.1, bytes := [] } : Packet)] } }
  else
    let n := s.arg.n
    match s.me.pend.find? (Pending.isSend n) with
    | none => .next s
    | some p =>
      match p.src with
      | .send _ _ t _ none => .next (if sendOver s t && s.arg.kind == 1 then s else offerSend n p s)
      | _ => .next s

/-- The answer to the offer in flight: an acceptance (0) completes SEND with 0, the statuses 2 and 3 with themselves, and a
refusal (1) is followed by a new offer while 65,536 cycles have not passed. -/
def answered (n kind : Nat) (s : State) : State :=
  match s.me.pend.find? (Pending.isSend n) with
  | none => s
  | some p =>
    match p.src with
    | .send dst m t _ _ =>
      if kind = 0 then s.setSend n (.value [0])
      else if kind = 1 then
        let s := s.setSend n (.send dst m t n none)
        if sendOver s t then s else s.due .messageArrival { sid := s.me.sid.toNat, n, kind := 1 }
      else s.setSend n (.value [toW kind])
    | _ => s

/-- The number of the SEND whose offer has a tag. -/
def State.sendOf (s : State) (tag : Nat) : Option Nat :=
  s.me.pend.findSome? fun p =>
    match p.src with
    | .send _ _ _ n (some k) => if k = tag then some n else none
    | _ => none

/-- SEND_OFFER_ANSWER; with flag it is another device's answer to the request with a tag, one of those R215 allows: what
stands in its slots is not held here (log 5). -/
def execSendOfferAnswer (s : State) : Out :=
  let a := s.arg
  if a.flag then
    match SMap.find a.n s.fabric.reqs with
    | none => .next (s.stale a.n)
    | some r =>
      if r.gen = a.m then
        let t := s.dropReq a.n
        match t.sendOf a.n with
        | some n => .next (answered n ((s.choose [0, 1, 2, 3]).getD 0) t)
        | none => .next t
      else .next (s.stale a.n)
  else .next (answered a.n a.kind s)

/-- A SEND with no offer in flight whose time is over (R215). -/
def Pending.sendEnds (s : State) (p : Pending) : Bool :=
  match p.src with
  | .send _ _ t _ none => sendOver s t
  | _ => false

/-- SEND_RETRY_LIMIT: with no offer in flight SEND completes with 1, counted on the sender's die (Table 18.2). -/
def execSendRetryLimit (s : State) : Out :=
  match s.me.pend.find? (Pending.sendEnds s) with
  | none => .next s
  | some p =>
    match p.src with
    | .send _ _ _ n _ => .next ((s.setSend n (.value [1])).count (coreDie s.me.homeCore) 0xFE058)
    | _ => .next s

def execQtest (d : Reg) (g : Guard) (s : State) : Out :=
  short 4 g (do
    atHome
    let n ← gets' fun s => s.me.q.length
    wr d (toW n)) s

/-- HARDWARE_MESSAGE_DELIVERY: the first message held is offered; one that is not taken because the queue is full is offered
again later, a slot with no strand takes none and the message is counted on the die of the named core (R405). Whether a slot
of another device takes an offer is open here (log 5). -/
def execHardwareMessageDelivery (s : State) : Out :=
  match s.queues.hw with
  | [] => .next s
  | x :: r =>
    let t := { s with queues := { s.queues with hw := r } }
    let again := { s with queues := { s.queues with hw := r ++ [x] } }.due .hardwareMessageDelivery
    if s.isHere x.dst then
      if s.noStrand x.dst then .next (t.count (coreDie (x.dst / 16)) 0xFE028)
      else .next ((t.enqueue x.dst x.msg).getD again)
    else
      let sent (s : State) : State := { s with fabric := { s.fabric with out := s.fabric.out ++
        [({ dev := x.dst / 65536, job := 0, kind := 3, a := x.dst, b := 0, bytes := x.msg.bytes } : Packet)] } }
      .next (sent (if (s.choose [true, false]).getD true then t else again))

/-! Records (R213, R219). -/

/-- The record of the strand, to be resumed at pc (Table 12.2). -/
def recOf (t : Strand) (clk : Word) : Rec where
  job := t.job
  pc := t.pc
  pw := t.pw ||| 1
  lrec := t.lrec
  prio := t.prio
  o := t.o
  tix := t.tix
  wake := 0
  spawned := t.spawned
  t1 := 0
  t2 := 0
  since := clk
  made := false

def Rec.key (r : Rec) : Option Nat := if r.lrec = 0 then none else some (r.job.toNat * 65536 + r.lrec.toNat)

/-- A strand that starts from a record in a slot (R61, R242): what the launch and job records give it. -/
def State.startStrand (s : State) (sid : BitVec 32) (r : Rec) (plv : BitVec 2) : Strand :=
  let t := Strand.fresh sid .ready plv
  let t := { t with job := r.job, pc := r.pc, pw := r.pw ||| 1, lrec := r.lrec, prio := r.prio, o := r.o, tix := r.tix, spawned := r.spawned, lastIssue := s.clk }
  match r.key with
  | none => t
  | some k =>
    let o := s.objAt k
    let trh := ((s.jobRec? r.job.toNat).map fun j => j.fld 0 24 4).getD 0
    { t with
      tcnt := BitVec.ofNat 32 (o.fld 4 0 32), wsp := BitVec.ofNat 20 (o.fld 8 0 20)
      wlim := BitVec.ofNat 20 (o.fld 8 20 20), trh := BitVec.ofNat 4 trh }

/-- The number of a die's task queue among the queues; a cluster's has the cluster's number. -/
def dieQueue (die : Nat) : Nat := 1024 + die

/-- The valid task-queue object of a queue (R212, Table 15.2): its job, the ring's base and its entries. -/
def ringOf (q : Nat) : SMap Obj → Option (Nat × Nat × Nat)
  | [] => none
  | (k, o) :: r =>
    let n := if o.fld 1 7 1 = 1 then dieQueue (o.fld 1 4 3) else o.fld 1 4 3 * 16 + o.fld 1 0 4
    if o.valid && o.kind == 5 && n == q then some (k / 65536, o.fld 2 0 56, o.fld 3 0 32) else ringOf q r

/-- The place in a ring the next entry takes; none when it is full or there is no ring. -/
def State.ringPlace (s : State) (q : Nat) : Option Nat :=
  match ringOf q s.obj with
  | none => none
  | some (_, _, n) =>
    let mine := s.queues.ring.filter fun e => e.1 == q
    match mine.head?, mine.getLast? with
    | some x, some y => if (y.2.1 + 1) % n = x.2.1 then none else some ((y.2.1 + 1) % n)
    | _, _ => if n = 0 then none else some 0

/-- Records of a queue in hardware. -/
def State.inQueue (s : State) (q : Nat) : Nat :=
  if 1024 ≤ q then (s.queues.die.filter fun e => dieQueue e.1 == q).length else (s.queues.task.filter fun e => e.1 == q).length
/-- Whether the hardware part of a queue has room. -/
def State.hwRoom (s : State) (q : Nat) : Bool := decide (s.inQueue q < if 1024 ≤ q then 4096 else 1024)
def State.inRing (s : State) (q : Nat) : Bool := s.queues.ring.any fun e => e.1 == q

/-- Whether a cluster's task queue, or a die's, has room for one more record. -/
def State.queueRoom (s : State) (q : Nat) : Bool := s.hwRoom q && !s.inRing q || (s.ringPlace q).isSome
def State.taskRoom (s : State) (cl : Nat) : Bool := s.queueRoom cl
def State.dieRoom (s : State) (die : Nat) : Bool := s.queueRoom (dieQueue die)

/-- The 96 bytes of an entry: the record of Table 12.2 and its tag (R213). -/
def Rec.bytes (r : Rec) : List Byte :=
  leBytes 6 r.pc.toNat ++ leBytes 2 0 ++ leBytes 8 (r.pw.toNat + r.lrec.toNat * 2 ^ 16 + r.prio.toNat * 2 ^ 32) ++
    r.o.toList.flatMap (fun w => leBytes 8 w.toNat) ++
    leBytes 8 (r.tix.toNat + r.wake * 2 ^ 32 + (if r.spawned then 2 ^ 34 else 0)) ++ leBytes 8 r.t1.toNat ++
    leBytes 8 r.t2.toNat ++ leBytes 8 0

/-- The record its bytes give; what they do not hold is kept by the unit. -/
def Rec.reread (r : Rec) (bs : List Byte) : Rec :=
  let w (i : Nat) : Word := toW (leNat ((bs.drop (8 * i)).take 8))
  { r with
    pc := (w 0).setWidth 48, pw := (w 1).setWidth 16 ||| 1, lrec := (w 1 >>> 16).setWidth 16, prio := (w 1 >>> 32).setWidth 2
    o := Vector.ofFn fun i => w (2 + i.val), tix := (w 8).setWidth 32, wake := wbits (w 8) 32 2, spawned := nbit (w 8).toNat 34
    t1 := w 9, t2 := w 10 }

/-- The cells of a place in a queue's ring, where they lie on this device. -/
def State.ringCells (s : State) (q place : Nat) : Option (List Nat) :=
  match ringOf q s.obj with
  | none => none
  | some (job, base, _) => s.homeCells job (base + 96 * place) 96

/-- The cluster whose gaffer serves a queue. -/
def queueCluster (q : Nat) : Nat := if 1024 ≤ q then (q - 1024) * 16 else q

/-- A record that joins the hardware part of a queue; the clusters it may go to look at their slots. -/
def State.joinQueue (s : State) (q : Nat) (r : Rec) : State :=
  let r := { r with since := s.clk }
  if 1024 ≤ q then
    let die := q - 1024
    let s := { s with queues := { s.queues with die := s.queues.die ++ [(die, r)] } }
    (List.range 16).foldl (fun s c => s.due .slotFill { core := coreOf die c 0 }) s
  else
    { s with queues := { s.queues with task := s.queues.task ++ [(q, r)] } }.due .slotFill { core := q * 32 }

/-- A record put at the tail of a queue: in hardware, or in the overflow ring behind what stands there (R212). -/
def State.putQueue (s : State) (q : Nat) (r : Rec) : State :=
  match (if s.hwRoom q && !s.inRing q then none else s.ringPlace q) with
  | none => s.joinQueue q r
  | some i =>
    let s := match s.ringCells q i with
      | some ks => s.setCells (ks.zip r.bytes)
      | none => s
    { s with queues := { s.queues with ring := s.queues.ring ++ [(q, i, r)] } }
def State.putTask (s : State) (cl : Nat) (r : Rec) : State := s.putQueue cl r
def State.putDie (s : State) (die : Nat) (r : Rec) : State := s.putQueue (dieQueue die) r

/-- The oldest entry of a ring read back: one in error is lost, counted as cancelled in its launch, and logged at the gaffer
(Table 12.5). -/
def State.unring (s : State) (q : Nat) (i : Nat) (r : Rec) : State :=
  match s.ringCells q i with
  | none => s.joinQueue q r
  | some ks =>
    match ks.find? s.badAt with
    | none => s.joinQueue q (r.reread (s.mem.getAll ks))
    | some k =>
      let s := match r.key with
        | some key => s.countTasks key .canc 1
        | none => s
      let s := s.count (queueCluster q / 16) 0xFE050
      { s.count (cellDie k) 0xFE008 with device := { s.device with errlog := s.device.errlog ++ [(queueCluster q, k)] } }

/-- Entries of a queue's ring move into its hardware part while that has room. -/
def State.refillFrom (q : Nat) : Nat → State → State
  | 0, s => s
  | n + 1, s =>
    if s.hwRoom q then
      match pull (fun (e : Nat × Nat × Rec) => e.1 == q) s.queues.ring with
      | some ((_, i, r), l) => State.refillFrom q n (({ s with queues := { s.queues with ring := l } }).unring q i r)
      | none => s
    else s
def State.refill (s : State) (q : Nat) : State := State.refillFrom q s.queues.ring.length s
def State.refillAll (s : State) : State := (s.queues.ring.map Prod.fst).eraseDups.foldl State.refill s

/-- Whether the launch of a record is being cancelled. -/
def State.cancelling (s : State) (key : Nat) : Bool := (s.objAt key).fld 0 10 3 == 4

/-- One task more in a launch's TOTAL (R219). -/
def State.addTotal (s : State) (key : Nat) : State :=
  s.modObj key fun o => o.setFld 9 0 40 (o.fld 9 0 40 + 1)

/-- The common checks of SPAWN and SPAWNH on a, and the spawned record. -/
def spawnRec (a : Word) : M (Nat × Rec) := do
  need (!a.getLsbD 0) (trap 4 0 a)
  settledO
  pwHere
  let s ← get
  match s.me.launch? with
  | none => illegalState a
  | some key =>
    return (key, { recOf s.me s.clk with pc := a.setWidth 48, spawned := true })

/-- A record that comes to a cancelled launch is counted in CANC and discarded. -/
def spawnCancelled (key : Nat) (d : Reg) : M Unit := do
  upd fun s => (s.addTotal key).countTasks key .canc 1
  wr d 1

def execSpawn (d a b : Reg) (g : Guard) (la : Look) (s : State) : Out :=
  long 4 g la.val [d] (do
    let (x, y) ← rd2 a b
    need (!x.getLsbD 0) (trap 4 0 x)
    need (wbits y 3 29 == 0) (opFault 0 y)
    let (key, r) ← spawnRec x
    let r := { r with prio := y.setWidth 2, tix := (y >>> 32).setWidth 32 }
    let s ← get
    if s.cancelling key then spawnCancelled key d
    else
      let cl := clusterOf s.me.homeCore
      let die := coreDie s.me.homeCore
      if y.getLsbD 2 then do
        need (s.dieRoom die) (stop .wait)
        upd fun s => (s.addTotal key).putDie die r
        wr d 0
      else do
        need (s.taskRoom cl) (stop .wait)
        upd fun s => (s.addTotal key).putTask cl r
        wr d 0) s

/-- The line number of R121. -/
def lineNo (pa : Nat) : Nat := if nbit pa 47 then bitsOf pa 8 31 else bitsOf pa 8 29

/-- Where a SPAWNH for a line goes: its home, or compute core n mod 16 of a gaffer's cluster (R227). -/
def State.spawnCore (s : State) (pa : Nat) : Nat :=
  let c := s.home pa
  if coreNo c = 16 then clusterOf c * 32 + lineNo pa % 16 else c

def State.runRoom (s : State) (core : Nat) : Bool := decide ((s.queues.run.filter fun e => e.1 == core).length < 32)

def State.putRun (s : State) (core : Nat) (e : RunEntry) : State :=
  { s with queues := { s.queues with run := s.queues.run ++ [(core, e)] } }.due .slotFill { core }

/-- The cell of a checked virtual address; another device's raises the access fault (R219, R224). -/
def hereCell (tv : Word) (hs : List Hit) : M Nat :=
  match hs with
  | { loc := .cell k, .. } :: _ => pure k
  | _ => trap 5 0 tv

def execSpawnh (d a b : Reg) (g : Guard) (la : Look) (s : State) : Out :=
  long 4 g la.val [d] (do
    let (x, y) ← rd2 a b
    need (!x.getLsbD 0) (trap 4 0 x)
    let e ← virt y 0
    let hs ← check rR e 1
    let k ← hereCell y hs
    let (key, r) ← spawnRec x
    let s ← get
    let core := s.spawnCore k
    need (s.imageCore core) (illegalState y)
    if s.cancelling key then spawnCancelled key d
    else do
      need (s.runRoom core) (stop .wait)
      upd fun s => (s.addTotal key).putRun core (.spawn r)
      wr d 0) s

/-! END, YIELD, SUSP (R220, R222, R223). -/

def endStreams : M Unit := do
  endStream 0
  endStream 1
  endStream 2
  endStream 3

def endBody : M Unit := do
  atHome
  endStreams
  settledAll
  released
  drained
  upd fun s => s.endTask .done

def execEndTask (s : State) : Out := short 4 0 endBody s
def execCompactEnd (s : State) : Out := short 2 0 endBody s

def Strand.anyStream (t : Strand) : Bool := t.t.toList.any Option.isSome

/-- Records that wait for a cluster (R222, R241). -/
def State.waitsFor (s : State) (cl : Nat) : Bool :=
  (s.queues.task.any fun e => e.1 == cl) ||
    s.queues.die.any fun e => e.1 == cl / 16 &&
      match e.2.key with
      | some k => inClusters (s.objAt k) cl
      | none => false

def yieldBody : M Unit := do
  atHome
  let s ← get
  need (s.me.wdep == 0 && !s.me.anyStream) illegalState
  let cl := clusterOf s.me.homeCore
  if !s.me.q.isEmpty || !s.waitsFor cl then pure ()
  else do
    settledAll
    drained
    need (s.taskRoom cl) (stop .wait)
    upd fun s =>
      let s := s.dropResv
      let r := recOf s.me s.clk
      (s.freed (Strand.fresh s.me.sid .idle 0)).putTask cl r

def execYield (s : State) : Out := short 4 0 yieldBody s
def execCompactYield (s : State) : Out := short 2 0 yieldBody s

/-- The strand left in its slot by SUSP of kind 0: what a resumed task starts with (R61, Table 4.4). -/
def State.parkedStrand (s : State) : Strand :=
  let t := s.startStrand s.me.sid (recOf s.me s.clk) s.me.plv
  { t with status := .parked true, q := s.me.q, stores := s.me.stores, spanErr := s.me.spanErr, tcnt := s.me.tcnt }

def execSusp (a b : Reg) (g : Guard) (s : State) : Out :=
  short 4 g (do
    atHome
    let (x, y) ← rd2 a b
    let s ← get
    need (s.me.wdep == 0 && !s.me.anyStream) illegalState
    let kind := wbits x 0 2
    if kind = 3 then opFault 0 x
    else do
      let ok ← if kind = 1 then do
          need (wbits y 0 3 == 0) (trap 4 0 y)
          let e ← virt y 0
          let hs ← check rR e 8
          let bs ← readHits y hs
          pure (decide (s.me.e[0].toNat ≤ leNat bs))
        else if kind = 2 then pure (decide (y.toNat ≤ s.clk.toNat))
        else pure (!s.me.q.isEmpty)
      need (kind == 0 || s.me.q.isEmpty) illegalState
      settledAll
      if ok then pure ()
      else if kind = 0 then upd fun s =>
        let s := s.dropResv
        { s with me := s.parkedStrand }
      else do
        drained
        let cl := clusterOf s.me.homeCore
        need (decide ((s.queues.waits.filter fun e => e.1 == cl).length < 256)) (stop .wait)
        upd fun s =>
          let s := s.dropResv
          let r := { recOf s.me s.clk with wake := kind, t1 := y, t2 := s.me.e[0] }
          let s := s.freed (Strand.fresh s.me.sid .idle 0)
          { s with queues := { s.queues with waits := s.queues.waits ++ [(cl, r)] } }) s

/-! Migration (R224-R229). -/

/-- The sid form of a core and slot of this device. -/
def State.sidOf (s : State) (core slot : Nat) : BitVec 32 := BitVec.ofNat 32 (s.devNo * 65536 + core * 16 + slot)

def execMigr (d a : Reg) (g : Guard) (la : Look) (s : State) : Out :=
  long 4 g la.val [d] (do
    let x ← rd a
    let e ← virt x 0
    let hs ← check rR e 1
    let k ← hereCell x hs
    let s ← get
    let core := s.home k
    need (s.imageCore core) (illegalState x)
    farDest d
    if core == s.me.core then wrFar d ((s.sidOf s.me.core s.me.slot).setWidth 64)
    else do
      settledAll
      await [d] .arrival 0
      upd fun s => s.depart core 0) s

def execHome (g : Guard) (la : Look) (s : State) : Out :=
  long 4 g la.val [] (do
    let s ← get
    if !s.me.abroad then pure ()
    else do
      settledAll
      upd fun s => s.depart s.me.homeCore 5) s

/-- What the strand waits for on the way becomes known in its new slot. -/
def State.landed (s : State) : State :=
  let v := (s.sidOf s.me.core s.me.slot).setWidth 64
  { s with me := { s.me with pend := s.me.pend.map fun (p : Pending) =>
      if p.src = .arrival then { p with src := .value [v] } else p } }

/-- The strand takes a slot of a core; an AMO or LRW it carries is its first action there (R225). -/
def State.enterSlot (s : State) (core slot : Nat) : State :=
  let s := { s with me := { s.me with core, slot, status := .ready, lastIssue := s.clk } }.landed
  match s.carried with
  | some s' => s'
  | none => s.due .migrationArrival { sid := s.me.sid.toNat, core, flag := true }

/-- The strand is back in its home slot. -/
def State.backHome (s : State) : State :=
  let t := s.me
  { s with me := { t with core := t.homeCore, slot := t.sid.toNat % 16, status := .ready, stay := false, lastIssue := s.clk } }

/-- MIGRATION_ARRIVAL: a packet reaches its core. One that goes home takes its reserved slot; one of a task that is
to end is sent back and ended (R237); another enters the run queue, or waits at its source while that is full. -/
def execMigrationArrival (s : State) : Out :=
  let a := s.arg
  if a.flag then
    match s.carried with
    | some s' => .next s'
    | none => .next (s.due .migrationArrival a)
  else
    match s.me.status with
    | .transit core reason =>
      if s.me.doom.isSome then .next s.backHome.endDoomed
      else if reason = 5 then .next s.backHome
      else if s.runRoom core then .next (s.putRun core (.strand (s.me.sid.toNat % 65536)))
      else .next (s.due .migrationArrival a)
    | _ => .next s

/-! Slot filling (R241). -/

/-- Free slots of a core. -/
def State.freeSlots (s : State) (core : Nat) : Nat := ((List.range 16).filter fun i => s.slotFree core i).length

/-- A core whose slots may be given out: its cluster and die are in service. -/
def State.serving (s : State) (core : Nat) : Bool :=
  !s.device.drained.contains (clusterOf core) && !s.device.closing.contains (clusterOf core) &&
    !s.device.drainedDies.contains (coreDie core)

/-- The compute core of a cluster with the most free slots, the lowest number among equals; none when all are full. -/
def State.roomiest (s : State) (cl : Nat) : Option Nat :=
  let best := (List.range 16).foldl (fun (b : Nat × Nat) i =>
    let n := s.freeSlots (cl * 32 + i)
    if b.2 < n then (i, n) else b) (0, 0)
  if best.2 = 0 then none else some (cl * 32 + best.1)

/-- The first record of the highest level for which a test holds. -/
def bestRec (f : Nat × Rec → Bool) (l : List (Nat × Rec)) : Option (Nat × Rec) :=
  (List.range 4).reverse.findSome? fun p => l.find? fun e => f e && e.2.prio.toNat == p

/-- The head record for a cluster, the cluster's own queue first at equal levels; true when it is the die queue's. -/
def State.nextRec (s : State) (cl : Nat) : Option (Bool × Rec) :=
  let mine := bestRec (fun e => e.1 == cl) s.queues.task
  let die := bestRec (fun e => e.1 == cl / 16 &&
    match e.2.key with
    | some k => inClusters (s.objAt k) cl
    | none => false) s.queues.die
  match mine, die with
  | some x, some y => if x.2.prio.toNat < y.2.prio.toNat then some (true, y.2) else some (false, x.2)
  | some x, none => some (false, x.2)
  | none, some y => some (true, y.2)
  | none, none => none

/-- A task put into a slot of a core. -/
def State.startIn (s : State) (core slot : Nat) (r : Rec) : State :=
  s.putStrand (s.startStrand (s.sidOf core slot) r 0)

/-- The oldest entry of a core's run queue takes a free slot there (R225). -/
def State.fillFromRun (s : State) (core slot : Nat) (e : RunEntry) (rest : List (Nat × RunEntry)) : State :=
  let s := { s with queues := { s.queues with run := rest } }.due .slotFill { core }
  match e with
  | .strand sid => (s.focus sid).enterSlot core slot
  | .spawn r => s.startIn core slot r

/-- The head record of a cluster's levels put into a slot, and the queue it came from refilled from its ring. -/
def State.fillFromTask (s : State) (cl : Nat) (die : Bool) (r : Rec) (core slot : Nat) : State :=
  let q := if die then { s.queues with die := s.queues.die.erase (cl / 16, r) }
    else { s.queues with task := s.queues.task.erase (cl, r) }
  (({ s with queues := q }).refill (if die then dieQueue (cl / 16) else cl)).startIn core slot r

/-- SLOT_FILL for the core named: its run queue first, oldest entry first, then its cluster's records, which go to the
compute core with the most free slots; that core's own run queue comes first there too. -/
def execSlotFill (s : State) : Out :=
  let core := s.arg.core
  let run (c : Nat) := pull (fun (e : Nat × RunEntry) => e.1 == c) s.queues.run
  if !s.serving core then .next s
  else
    match run core, s.freeSlot core with
    | some ((_, e), r), some slot => .next (s.fillFromRun core slot e r)
    | _, _ =>
      let cl := clusterOf core
      match s.nextRec cl, s.roomiest cl with
      | some (die, r), some c =>
        match s.freeSlot c with
        | none => .next s
        | some slot =>
          match run c with
          | some ((_, e), rest) => .next ((s.fillFromRun c slot e rest).due .slotFill { core })
          | none => .next ((s.fillFromTask cl die r c slot).due .slotFill { core })
      | _, _ => .next s

/-- The first entry that has waited too long moves to the tail of the next level up. -/
def ageOne (clk : Word) (l : List (Nat × Rec)) : Option (List (Nat × Rec)) :=
  match pull (fun (e : Nat × Rec) => e.2.prio.toNat < 3 && decide (e.2.since.toNat + 1024 < clk.toNat)) l with
  | some ((c, r), rest) => some (rest ++ [(c, { r with prio := r.prio + 1, since := clk })])
  | none => none

/-- RECORD_AGEING (R241). -/
def execRecordAgeing (s : State) : Out :=
  match ageOne s.clk s.queues.task with
  | some l => .next { s with queues := { s.queues with task := l } }
  | none =>
    match ageOne s.clk s.queues.die with
    | some l => .next { s with queues := { s.queues with die := l } }
    | none => .next s

/-- An entry of the wait set whose condition holds passes to the tail of its level (R223). -/
def State.wakeRec (s : State) (f : Nat × Rec → Bool) : State :=
  match pull (fun e => f e && s.taskRoom e.1) s.queues.waits with
  | none => s
  | some ((cl, r), rest) =>
    { s with queues := { s.queues with waits := rest } }.putTask cl { r with wake := 0, t1 := 0, t2 := 0 }

/-- WAIT_SET_TIME_WAKE: an entry of wake kind 2 whose time has come. -/
def execWaitSetTimeWake (s : State) : Out :=
  .next (s.wakeRec fun e => e.2.wake == 2 && decide (e.2.t1.toNat ≤ s.clk.toNat))

/-- The word of a wait-set entry of kind 1, as its home sees it. -/
def State.recWord (s : State) (e : Nat × Rec) : Option Nat :=
  let va := e.2.t1.toNat
  match s.lookup e.1 e.2.job.toNat va with
  | none => none
  | some (t, _) =>
    let h : Hit := { loc := placeOf s.migs t va, w0 := t.w0 }
    some (s.num (cellOf e.2.job.toNat h) 8)

/-- An entry of wake kind 1 whose word has reached its target. -/
def State.wordMet (s : State) (e : Nat × Rec) : Bool :=
  e.2.wake == 1 &&
    match s.recWord e with
    | some n => decide (e.2.t2.toNat ≤ n)
    | none => false

end Sys2Proof.Machine
end

