-- ==== Sys2Proof/Machine/Field.lean ====
section
/-! DEFINITION. Fields (08_fields_and_planes, R139-R155): descriptors, where an element sits, plane reads and stores, and
the seven field instructions. -/

namespace Sys2Proof.Machine

open Sys2Proof.Num

/-! Descriptors (Table 8.1). -/

def Obj.fmt (o : Obj) : Nat := o.fld 0 8 8
def Obj.planes (o : Obj) : Nat := o.fld 0 16 3
def Obj.fsat (o : Obj) : Bool := o.fld 0 19 1 == 1
def Obj.bitsN (o : Obj) : Nat := o.fld 0 20 6
def Obj.bitsL (o : Obj) : Nat := o.fld 0 26 6
def Obj.bitsD (o : Obj) : Nat := o.fld 0 32 2
def Obj.bitsV (o : Obj) : Nat := o.fld 0 34 4
def Obj.remapping (o : Obj) : Bool := o.fld 0 43 1 == 1
def Obj.devset (o : Obj) : Nat := o.fld 0 48 16
def Obj.base (o : Obj) (v : Nat) : Nat := o.fld (11 + v) 0 56

/-- A map held in six words from word w: the physical position of each logical bit. -/
def Obj.mapAt (o : Obj) (w : Nat) : List Nat := (List.range o.bitsN).map fun i => o.fld (w + i / 8) (i % 8 * 8) 6
def Obj.setMapFrom (w : Nat) : Nat → List Nat → Obj → Obj
  | _, [], o => o
  | i, p :: r, o => Obj.setMapFrom w (i + 1) r (o.setFld (w + i / 8) (i % 8 * 8) 6 p)
def Obj.setMapAt (o : Obj) (w : Nat) (m : List Nat) : Obj := Obj.setMapFrom w 0 m o

def isChain (fmt : Nat) : Bool := fmt == 16 || fmt == 17
def isQ4 (fmt : Nat) : Bool := fmt == 18
def isCplxF (fmt : Nat) : Bool := fmt == 14 || fmt == 15
/-- Bytes of an element of a plain format (Table 8.2). -/
def fmtSize (fmt : Nat) : Nat := if fmt = 19 then 1 else elemSize (Fin.ofNat 16 fmt)

/-- Bytes of the portion of one die value (R143). -/
def Obj.portion (o : Obj) : Nat :=
  if isChain o.fmt then Max.max 1 (2 ^ (o.bitsL - 6)) * 64 * o.planes
  else if isQ4 o.fmt then 2 ^ (o.bitsL - 1) + 2 ^ (o.bitsL - 4)
  else 2 ^ o.bitsL * fmtSize o.fmt

/-! Bit lists (R27). -/

def listCount (v : Word) : Nat := wbits v 0 4
def listOf (v : Word) : List Nat := (List.range (listCount v)).map fun p => wbits v (4 + 6 * p) 6
/-- A list with at most lim entries, all below n and different. -/
def listOk (v : Word) (n lim : Nat) : Bool :=
  decide (listCount v ≤ lim) && (listOf v).all (fun x => decide (x < n)) && decide (listOf v).Nodup

/-- The value the bits of a list spell in an index: entry p gives bit p. -/
def spelled (idx : Nat) : List Nat → Nat
  | [] => 0
  | p :: r => (if nbit idx p then 1 else 0) + 2 * spelled idx r
/-- An index with the bits of a list spelling a value. -/
def spell (idx : Nat) : List Nat → Nat → Nat
  | [], _ => idx
  | p :: r, v => spell (setBit idx p (v % 2 == 1)) r (v / 2)

/-! Places (R142, R145, R146). -/

/-- A padding element (R141). -/
def Obj.padAxis (o : Obj) (idx i : Nat) : Bool :=
  o.fld (7 + i) 6 6 != 0 && decide (o.fld (7 + i) 12 48 ≤ bitsOf idx (o.fld (7 + i) 0 6) (o.fld (7 + i) 6 6))
def Obj.isPad (o : Obj) (idx : Nat) : Bool := (List.range 4).any (o.padAxis idx)

/-- The physical index of a logical index under a map. -/
def permute : List Nat → Nat → Nat
  | [], _ => 0
  | p :: r, i => (i % 2) * 2 ^ p + permute r (i / 2)
/-- The logical index of a physical index. -/
def unpermute : List Nat → Nat → Nat
  | [], _ => 0
  | p :: r, x => (if nbit x p then 1 else 0) + 2 * unpermute r x

/-- Where an element sits: device value, die value and position in the portion. -/
structure Spot where
  w : Nat
  v : Nat
  loc : Nat
  deriving DecidableEq, Repr

def Obj.spotAt (o : Obj) (map : List Nat) (idx : Nat) : Spot :=
  let p := permute map idx
  { w := p / 2 ^ (o.bitsL + o.bitsD), v := bitsOf p o.bitsL o.bitsD, loc := p % 2 ^ o.bitsL }

/-- Byte offsets of an element in its portion, in the order its code is read: n planes from plane 0, the code byte and
the side word, or the bytes of the type. -/
def Obj.offs (o : Obj) (n loc : Nat) : List Nat :=
  if isChain o.fmt then (List.range n).map fun j => loc / 64 * 64 * o.planes + loc % 64 + 64 * j
  else if isQ4 o.fmt then
    let side := 2 ^ (o.bitsL - 1) + 2 * (loc / 32)
    [loc / 2, side, side + 1]
  else (List.range (fmtSize o.fmt)).map fun i => loc * fmtSize o.fmt + i

/-- The holder and brick of a byte of a portion: 2^32 * (8 * device value + die value) + brick (R143). -/
def brickOf (w v off : Nat) : Nat := (w * 8 + v) * 2 ^ 32 + off / 65536

/-- The remap in progress on a field. -/
def State.remapOf (s : State) (key : Nat) : Option Remap := s.remaps.find? fun r => r.key == key && r.started

/-- Two bits of an index exchanged. -/
def exchange (idx x y : Nat) : Nat := setBit (setBit idx x (nbit idx y)) y (nbit idx x)

/-- The index that names now what an index of a view names. -/
def View.now (f : View) (idx : Nat) : Nat := f.ren.foldl (fun i p => exchange i p.1 p.2) idx

/-- elem_place, and two_map during a remap (R142, R274). -/
def State.spot (s : State) (f : View) (idx : Nat) : Spot :=
  let o := f.o
  let idx := f.now idx
  if o.remapping then
    match s.remapOf f.key with
    | none => o.spotAt (o.mapAt 1) idx
    | some r =>
      let x := o.spotAt (o.mapAt 25) idx
      if r.done.contains (brickOf x.w x.v ((o.offs 1 x.loc).headD 0)) then x else o.spotAt (o.mapAt 19) idx
  else o.spotAt (o.mapAt 1) idx

/-- The device that holds a device value of a field of a job. -/
def State.holder (s : State) (job : Nat) (o : Obj) (w : Nat) : Nat :=
  if o.bitsV = 0 then s.devNo else Config.setDevice job o.devset w

/-- Devices and virtual addresses of the bytes of an element that a use of n planes touches. -/
def State.elemBytes (s : State) (f : View) (n idx : Nat) : List (Nat × Nat) :=
  let x := s.spot f idx
  (f.o.offs n x.loc).map fun i => (s.holder (f.key / 65536) f.o x.w, (f.o.base x.v + i) % 2 ^ 56)

/-! Checks and accesses of a strand. -/

/-- One byte checked as R123 does; a byte of another device is translated there (R142), and the aperture serves no field
access (R305). -/
def fieldByte (right lo : Nat) (p : Nat × Nat) : M Hit := fun s =>
  if inAperture p.2 then .error (.trap 5 0 (toW p.2))
  else if p.1 = s.devNo then checkByte right lo (.v p.2) s
  else if s.leased right (Min.min lo p.2) (Max.max lo p.2) then .ok ({ loc := .remote p.1 p.2, w0 := 0 }, s)
  else vfault (toW p.2) s

def fieldBytes (right lo : Nat) : List (Nat × Nat) → M (List Hit)
  | [] => pure []
  | p :: r => do
    let h ← fieldByte right lo p
    let t ← fieldBytes right lo r
    return h :: t

/-- The bytes of one element checked: step 4 of R148. -/
def checkElem (right : Nat) (f : View) (n idx : Nat) : M (List Hit) := do
  let s ← get
  let ps := s.elemBytes f n idx
  fieldBytes right ((ps.map Prod.snd).headD 0) ps

/-- The address a field access names in tval: its first byte. -/
def State.elemAddr (s : State) (f : View) (idx : Nat) : Word := toW (((s.elemBytes f 1 idx).map Prod.snd).headD 0)

/-- The address of its last byte. -/
def State.elemLast (s : State) (f : View) (idx : Nat) : Word :=
  toW (((s.elemBytes f f.o.planes idx).map Prod.snd).getLastD 0)

/-- An element of this device written whole, or left unchanged where one of its granules is in error (R151, R153). -/
def writeWhole (tval : Word) (cs : List (Nat × Byte)) : M Unit := fun s =>
  if s.queuedTo (cs.map Prod.fst) || cs.any (fun c => s.locked c.1) then .error .wait
  else
    match cs.find? fun c => s.badAt c.1 with
    | none => .ok ((), s.setCells cs)
    | some c =>
      let s := s.logError c.1
      .ok ((), { s with me := { s.me with storeErr := some (s.me.storeErr.getD (8, tval)) } })

/-- The number of the field write an instruction makes: the step it issues at. -/
def State.writeNo (s : State) : Nat := s.ticks + 1

/-- The runs of an element written: on this device now, to another by way of the queue (R299). -/
def putRuns (kind : Nat) (tval : Word) : List (List Hit) → List Byte → M Unit
  | [], _ => pure ()
  | hs :: r, bs => do
    let s ← get
    let job := s.me.job.toNat
    let here := bs.take hs.length
    match hs with
    | [] => pure ()
    | h :: _ =>
      match h.loc with
      | .cell _ => writeWhole tval ((hs.map (cellOf job)).zip here)
      | _ =>
        queueStore { dev := (h.away?.map Prod.fst).getD 0, job, va := tval.toNat
                     vas := hs.filterMap fun h => h.away?.map Prod.snd, bytes := here, rep := hs.filterMap Hit.rep?, kind
                     so := h.so, n := s.writeNo }
    putRuns kind tval r (bs.drop hs.length)

/-- The bytes of one element written in one access (R151). -/
def putElem (f : View) (idx : Nat) (hs : List Hit) (bs : List Byte) : M Unit := do
  let s ← get
  logWrite (s.elemAddr f idx).toNat
  logWrite (s.elemLast f idx).toNat
  upd fun s => s.counted hs
  putRuns 10 (s.elemAddr f idx) (runsOf hs.length hs) bs

/-- A field write waits for the acknowledgements of other devices after its window; a detached one does not (R150, R153). -/
def awaitWrites (la : Nat) (detached : Bool) : M Unit := do
  let s ← get
  if !detached && s.me.stores.any fun p => p.n == s.writeNo then await [] (.writes s.writeNo) la

/-! Codes and values. -/

/-- The code bytes spell: planes most significant first (R45), a Q4X code with its side word above, little-endian
bytes otherwise. -/
def Obj.code (o : Obj) (loc : Nat) (bs : List Byte) : Nat :=
  if isChain o.fmt then bs.foldl (fun v b => v * 256 + b.toNat) 0
  else if isQ4 o.fmt then bitsOf (leNat (bs.take 1)) (4 * (loc % 2)) 4 + leNat (bs.drop 1) * 16
  else leNat bs

/-- The format of a chain of c planes (R45). -/
def chainF (fmt c : Nat) : FFmt := if fmt = 16 then chainH c else chainB c

/-- Whether the exponent field is all ones. -/
def expOnes (f : FFmt) (v : Nat) : Bool := v / 2 ^ f.m % 2 ^ f.e == 2 ^ f.e - 1

/-- plane_read (R46). -/
def planeRead (fmt p e c : Nat) (near sat : Bool) : Nat :=
  let f := chainF fmt c
  let v := e / 256 ^ (p - c)
  let rest := e % 256 ^ (p - c)
  if expOnes f v then
    if v % 2 ^ f.m ≠ 0 ∨ rest ≠ 0 then f.signed (nbit v (f.e + f.m)) f.nanCode else v
  else if near && decide (c < p) then
    let g := e / 256 ^ (p - c - 1) % 256
    if 0x80 < g ∨ (g = 0x80 ∧ v % 2 = 1) then
      if expOnes f (v + 1) && sat then v else v + 1
    else v
  else v

/-- Twice the value of a code of Table 3.4, with its sign. -/
def q4Twice (c : Nat) : Nat :=
  match c % 8 with
  | 0 => 0 | 1 => 1 | 2 => 2 | 3 => 3 | 4 => 4 | 5 => 6 | 6 => 8 | _ => 12

/-- The exact value of a Q4X code with its side word (R48); where S is 0xFF it is the positive NaN whatever the code, the spec
giving no sign (log 26). -/
def q4Val (code side : Nat) : FV :=
  let sc : Int := (side / 256 % 256 : Nat) - 127
  if side / 256 % 256 = 255 then .nan false
  else if code % 16 = 8 then
    match decodeF e4m3 (side % 256) with
    | .fin s m e => .fin s m (e + sc)
    | v => v
  else .fin (decide (8 ≤ code % 16)) (q4Twice code) (sc - 1)

/-- The number format of one part of an element over all its planes; Q4X has none. -/
def partFmt (fmt p : Nat) : NFmt :=
  if isChain fmt then .flt (chainF fmt p) else if fmt = 19 then .int false 8 else tyFmt (Fin.ofNat 16 fmt)

/-- The exact value of a code of a number format. -/
def valOf (f : NFmt) (c : Nat) : FV :=
  match f with
  | .int s w => intFV (intVal s w c)
  | .flt g => decodeF g c

/-- An exact value converted (R53). -/
def fromVal (f : NFmt) (mode : RMode) (sat : Bool) (v : FV) : Nat :=
  match f with
  | .flt g => roundTo g mode sat v
  | .int s w =>
    match v with
    | .nan _ => 0
    | .inf neg => if sat then intCode s w true (if neg then intMin s w else intMax s w) else 0
    | x => intCode s w sat (roundInt mode x)

def cplxBits (fmt : Nat) : Nat := if fmt = 14 then 16 else 32

/-- The exact values of an element's parts. -/
def partsOf (fmt p code : Nat) : List FV :=
  if isQ4 fmt then [q4Val (code % 16) (code / 16)]
  else if isCplxF fmt then
    [valOf (partFmt fmt p) (code % 2 ^ cplxBits fmt), valOf (partFmt fmt p) (code / 2 ^ cplxBits fmt)]
  else [valOf (partFmt fmt p) code]

/-- The code of an element from the exact values of its parts; a real value has an imaginary part of +0. -/
def codeOf (fmt p : Nat) (mode : RMode) (sat : Bool) (vs : List FV) : Nat :=
  let x := fromVal (partFmt fmt p) mode sat (vs.headD (.fin false 0 0))
  if isCplxF fmt then x + fromVal (partFmt fmt p) mode sat (vs.getD 1 (.fin false 0 0)) * 2 ^ cplxBits fmt else x

/-- The bytes of a code in the order of Obj.offs. -/
def Obj.codeBytes (o : Obj) (code : Nat) : List Byte :=
  if isChain o.fmt then (leBytes o.planes code).reverse else leBytes (fmtSize o.fmt) code

/-! Table 8.3. -/

def fp32Code (v : FV) : Nat := fromVal (.flt fp32) .rne false v

/-- What LDF writes, from the code over all planes. -/
def ldValue (o : Obj) (c : Nat) (near : Bool) (code : Nat) : Word :=
  if isChain o.fmt then
    let r := planeRead o.fmt o.planes code c near o.fsat
    toW (fp32Code (decodeF (chainF o.fmt c) r) + r * 2 ^ 32)
  else if isQ4 o.fmt then
    toW (fp32Code (q4Val (code % 16) (code / 16)) + code % 16 * 2 ^ 32 + code / 16 * 2 ^ 48)
  else if isCplxF o.fmt then
    match partsOf o.fmt 0 code with
    | [x, y] => toW (fp32Code x + fp32Code y * 2 ^ 32)
    | _ => 0
  else if o.fmt = 13 ∨ o.fmt = 19 then toW code
  else
    match partFmt o.fmt 0 with
    | .int sg w => toW (extCode (.int sg w) 64 code)
    | .flt f => toW (fp32Code (decodeF f code) + code * 2 ^ 32)

/-- The full code STF stores, from a source of ib bits (64, or 32 for a lane). -/
def stCode (o : Obj) (ib : Nat) (x : Word) : Nat :=
  let lo := val32 (x.setWidth 32)
  let hi := val32 ((x >>> 32).setWidth 32)
  if o.fmt = 13 then x.toNat
  else if o.fmt = 19 then x.toNat % 256
  else if isCplxF o.fmt then codeOf o.fmt 0 .rne o.fsat [lo, hi]
  else
    match partFmt o.fmt o.planes with
    | .int sg w => intCode sg w o.fsat (intVal sg ib x.toNat)
    | .flt _ => codeOf o.fmt o.planes .rne o.fsat [lo]

/-- Lanes of VLDF for an element. -/
def ldLanes (o : Obj) (c : Nat) (near : Bool) (code : Nat) : List Half :=
  if isCplxF o.fmt then [(ldValue o c near code).setWidth 32, (ldValue o c near code >>> 32).setWidth 32]
  else [(ldValue o c near code).setWidth 32]

/-! Shared steps. -/

/-- Whether a die is excluded from a job's field table (R258). -/
def State.fieldOff (s : State) (job die : Nat) : Bool := ((s.fieldRep? job die).map fun r => !r.incl).getD false

/-- A die excluded from a job's field table translates no field-index access: it waits (R258). -/
def fieldReady : M Unit := fun s =>
  if s.fieldOff s.me.job.toNat (coreDie s.me.core) then .error .wait else .ok ((), s)

/-- The field an operand names, with a right, as the strand's die sees it. -/
def fieldOf (a : Word) (right : Right) : M View := do
  let s ← get
  let _ ← useHandle s.me.job.toNat (wbits a 0 16) 1 right a
  fieldReady
  return s.viewOn (coreDie s.me.core) none (objKey s.me.job.toNat (wbits a 0 16))

/-- The plane-count fault (R147). -/
def planesOk (o : Obj) (c : Nat) (md : Bool) : M Unit :=
  let ok := if isChain o.fmt then decide ((if o.fmt = 16 then 1 else 2) ≤ c) && decide (c ≤ o.planes) else c == 1 && !md
  if ok then pure () else opFault 5 (toW (c + o.planes * 256))

/-- An index of the field that is no padding element (R141). -/
def indexOk (o : Obj) (b : Word) : M Unit :=
  if b.toNat < 2 ^ o.bitsN ∧ !o.isPad b.toNat then pure () else opFault 2 b

/-- Planes a read of c planes uses (R46, R151). -/
def Obj.uses (o : Obj) (c : Nat) (near : Bool) : Nat := if near && decide (c < o.planes) then c + 1 else c

/-- Whether the leading c planes leave it to the others to tell an infinity from a NaN (R46). -/
def Obj.undecided (o : Obj) (c n : Nat) (bs : List Byte) : Bool :=
  let v := (bs.take c).foldl (fun v b => v * 256 + b.toNat) 0
  isChain o.fmt && decide (n < o.planes) && expOnes (chainF o.fmt c) v && v % 2 ^ (chainF o.fmt c).m == 0

/-- The bytes of an element read as far as this device holds them. -/
def elemRead (tval : Word) (hs : List Hit) : M Elem := do
  let s ← get
  if hs.any (Hit.away s) then readElem tval hs
  else do
    let bs ← readHits tval hs
    return { runs := [{ tval, dev := 0, vas := [], rep := [], rd := .got bs }] }

/-- Every plane of an element that its leading planes leave undecided checked and read, as one access (R46, R151). -/
def readRest (f : View) (idx : Nat) : M Elem := do
  let s ← get
  let hs ← checkElem rR f f.o.planes idx
  let e ← elemRead (s.elemAddr f idx) hs
  return { e with idx }

/-- An element read: the planes a read of c planes uses, and the others where those do not decide (log 24). -/
def readField (f : View) (c : Nat) (near : Bool) (idx : Nat) (hs : List Hit) : M Elem := do
  let s ← get
  let n := f.o.uses c near
  let e ← elemRead (s.elemAddr f idx) hs
  if allGot [some e] && f.o.undecided c n e.bytes then readRest f idx
  else return { e with idx, full := !isChain f.o.fmt || decide (f.o.planes ≤ n) }

/-- The code of an element that is read; planes that were not read stand as 0, and do not matter. -/
def State.elemCode (s : State) (f : View) (e : Elem) : Nat :=
  let bs := e.bytes
  f.o.code (s.spot f e.idx).loc bs * (if isChain f.o.fmt then 256 ^ (f.o.planes - bs.length) else 1)

/-- The bytes a store of c planes writes under a policy: leading planes, and zeros below them with Z (R47). -/
def storeBytes (o : Obj) (c : Nat) (z : Bool) (code : Nat) : List Byte :=
  if isChain o.fmt then
    (o.codeBytes code).take c ++ (if z then List.replicate (o.planes - c) 0 else [])
  else o.codeBytes code

/-- Planes a store touches. -/
def storePlanes (o : Obj) (c : Nat) (z : Bool) : Nat := if z then o.planes else c

/-! LDF and STF (R148). -/

def execLdf (d a b : Reg) (c : Fin 4) (md : Bool) (g : Guard) (la : Look) (s : State) : Out :=
  long 4 g la.val [d] (do
    let (x, y) ← rd2 a b
    let f ← fieldOf x .read
    planesOk f.o (c.val + 1) md
    indexOk f.o y
    let hs ← checkElem rR f (f.o.uses (c.val + 1) md) y.toNat
    nearHome hs
    soFree hs
    let e ← readField f (c.val + 1) md y.toNat hs
    if allGot [some e] then do
      let s ← get
      wr d (ldValue f.o (c.val + 1) md (s.elemCode f e))
    else do
      destOk d
      let els ← askAll (hs.any Hit.so) [some e]
      await [d] (.fetch els (.field f (c.val + 1) md)) la.val
      markSo hs
    countFirst hs) s

def execStf (d a b : Reg) (c : Fin 4) (md : Bool) (g : Guard) (la : Look) (s : State) : Out :=
  long 4 g la.val [] (do
    let (x, y) ← rd2 a b
    let v ← rd d
    let f ← fieldOf x .write
    planesOk f.o (c.val + 1) md
    need (!isQ4 f.o.fmt) (opFault 4 x)
    indexOk f.o y
    let hs ← checkElem rW f (storePlanes f.o (c.val + 1) md) y.toNat
    nearHome hs
    soFree hs
    putElem f y.toNat hs (storeBytes f.o (c.val + 1) md (stCode f.o 64 v))
    awaitWrites la.val false
    countFirst hs) s

/-! The line forms (R149, R150). -/

/-- The list, base index and active indices of a line form, in lane order. tval of a bad list is the list (log 30). -/
def lineIndices (o : Obj) (b : Word) : M (List Nat) := do
  let s ← get
  let l := s.me.e[0]
  need (listOk l o.bitsN (if isCplxF o.fmt then 5 else 6)) (opFault 6 l)
  let base := spell b.toNat (listOf l) 0
  need (decide (base < 2 ^ o.bitsN)) (opFault 2 b)
  return (List.range (2 ^ listCount l)).map (spell base (listOf l))

/-- Every element that is no padding checked, in lane order. -/
def checkLanes (right : Nat) (f : View) (n : Nat) : List Nat → M (List (Option (List Hit)))
  | [] => pure []
  | i :: r =>
    if f.o.isPad i then do
      let t ← checkLanes right f n r
      return none :: t
    else do
      let h ← checkElem right f n i
      let t ← checkLanes right f n r
      return some h :: t

/-- The bytes of every element that is no padding, in lane order. -/
def lanesHits (hs : List (Option (List Hit))) : List Hit := hs.flatMap fun h => h.getD []

/-- A line form: illegal on a strand whose core has no line unit (R97, log 84); with la4 = 15 it is detached. k is the line
register it writes. -/
def fieldLine (i : Instr) (la : Look) (k : Option (Fin 8)) (body : M Unit) (s : State) : Out :=
  legalIf (decide (coreNo s.me.homeCore < 16)) i.encode (longLine 4 0 (window la) [] k (do atHome; body)) s

/-- The elements of the active lanes read; a padding element is not read. -/
def readFields (f : View) (c : Nat) (near : Bool) : List Nat → List (Option (List Hit)) → M (List (Option Elem))
  | _ :: r, none :: t => do
    let l ← readFields f c near r t
    return none :: l
  | i :: r, some h :: t => do
    let e ← readField f c near i h
    let l ← readFields f c near r t
    return some e :: l
  | _, _ => pure []

/-- The line of VLDF from its elements; a padding element reads +0 (R141). -/
def State.fieldLanes (s : State) (f : View) (c : Nat) (near : Bool) (els : List (Option Elem)) : Line :=
  lineOfList (els.flatMap fun e =>
    match e with
    | some e => ldLanes f.o c near (s.elemCode f e)
    | none => if isCplxF f.o.fmt then [0, 0] else [0])

/-- Whether VLDF and VSTF refuse a format: the 64-bit ones. -/
def wideFmt (fmt : Nat) : Bool := fmt == 13 || fmt == 3 || fmt == 7

/-- VLDF. The format is checked after the plane count and before the list (log 25). -/
def execVldf (a b : Reg) (k : Fin 8) (c : Fin 4) (md : Bool) (la : Look) (s : State) : Out :=
  fieldLine (.vldf a b k c md la) la (some k) (do
    let (x, y) ← rd2 a b
    let f ← fieldOf x .read
    planesOk f.o (c.val + 1) md
    need (!wideFmt f.o.fmt) (opFault 4 x)
    let is ← lineIndices f.o y
    let hs ← checkLanes rR f (f.o.uses (c.val + 1) md) is
    soFree (lanesHits hs)
    let els ← readFields f (c.val + 1) md is hs
    settledK k
    if allGot els then do
      let s ← get
      wrLine (.k k) (s.fieldLanes f (c.val + 1) md els)
    else do
      let els ← askAll ((lanesHits hs).any Hit.so) els
      await [] (.fetch els (.fieldLanes f (c.val + 1) md)) (window la)
      upd fun s => s.openLine (some k) (la.val != 15)
      markSo (lanesHits hs)
    countFirst (lanesHits hs)) s

/-- The source of lane j: a lane, or a lane pair for a complex format. -/
def laneSource (o : Obj) (v : Line) (j : Nat) : Word :=
  if isCplxF o.fmt then pairWord v[Fin.ofNat 64 (2 * j)] v[Fin.ofNat 64 (2 * j + 1)] else (v[Fin.ofNat 64 j]).setWidth 64

def writeLanes (f : View) (bytes : Nat → List Byte) : Nat → List Nat → List (Option (List Hit)) → M Unit
  | j, _ :: r, none :: t => writeLanes f bytes (j + 1) r t
  | j, i :: r, some h :: t => do
    putElem f i h (bytes j)
    writeLanes f bytes (j + 1) r t
  | _, _, _ => pure ()

/-- VSTF. The format is checked after the plane count and before the list (log 25). -/
def execVstf (a b : Reg) (k : Fin 8) (c : Fin 4) (md : Bool) (la : Look) (s : State) : Out :=
  fieldLine (.vstf a b k c md la) la none (do
    let (x, y) ← rd2 a b
    let f ← fieldOf x .write
    planesOk f.o (c.val + 1) md
    need (!wideFmt f.o.fmt && !isQ4 f.o.fmt) (opFault 4 x)
    let is ← lineIndices f.o y
    let hs ← checkLanes rW f (storePlanes f.o (c.val + 1) md) is
    soFree (lanesHits hs)
    let v ← rdLine (.k k)
    writeLanes f (fun j => storeBytes f.o (c.val + 1) md (stCode f.o 32 (laneSource f.o v j))) 0 is hs
    awaitWrites (window la) (la.val == 15)
    countFirst (lanesHits hs)) s

/-! Optimisers (R150). -/

/-- The exact result of an optimiser on one element (R150); a NaN or an undefined result is the positive NaN. -/
def optResult (op : Nat) (coef : FV) (x g : FV) : FV :=
  match op with
  | 0 => x.add g
  | 1 => x.add (coef.mul g)
  | _ => (coef.mul x).add (((FV.fin false 1 0).add coef.neg).mul g)

/-- Formats an optimiser accepts. -/
def optFmt (fmt : Nat) : Bool := isChain fmt || fmt == 12 || fmt == 10 || fmt == 11

/-- The bytes of an element of a chain or plain format as a code, and back. -/
def codeIn (fmt : Nat) (bs : List Byte) : Nat :=
  if isChain fmt then bs.foldl (fun v b => v * 256 + b.toNat) 0 else leNat bs
def codeOut (fmt p code : Nat) : List Byte := if isChain fmt then (leBytes p code).reverse else leBytes (fmtSize fmt) code

/-- An element after an optimiser: its bytes from its old ones. -/
def optBytes (op fmt p : Nat) (sat : Bool) (coef g : Half) (old : List Byte) : List Byte :=
  let x := (partsOf fmt p (codeIn fmt old)).headD (.fin false 0 0)
  codeOut fmt p (codeOf fmt p .rne sat [optResult op (val32 coef) x (val32 g)])

/-- What a request for an optimiser's element carries to the home of its line. -/
def optArgs (op : Nat) (o : Obj) (coef g : Half) : List Byte :=
  [BitVec.ofNat 8 op, BitVec.ofNat 8 o.fmt, BitVec.ofNat 8 o.planes, if o.fsat then 1 else 0] ++ leBytes 4 coef.toNat ++
    leBytes 4 g.toNat

/-- An element of this device read, computed and written as one operation; one in a granule in error is left unchanged, and
the error is taken before the next instruction (R153). -/
def optHere (tval : Word) (hs : List Hit) (f : List Byte → List Byte) : M Unit := do
  let s ← get
  let ks := hs.map (cellOf s.me.job.toNat)
  if s.queuedTo ks then stop .wait
  writeWhole tval (ks.zip (f (s.mem.getAll ks)))

/-- One element: on this device now, or at the home of its line in another (R150). -/
def optElem (op : Nat) (f : View) (coef g : Half) (idx : Nat) (hs : List Hit) : M Unit := do
  let s ← get
  let tval := s.elemAddr f idx
  logWrite tval.toNat
  logWrite (s.elemLast f idx).toNat
  upd fun s => s.counted hs
  if !hs.all Hit.readable then trap 5 0 tval
  if hs.all Hit.isCell then optHere tval hs (optBytes op f.o.fmt f.o.planes f.o.fsat coef g)
  else
    queueStore { dev := ((hs.findSome? Hit.away?).map Prod.fst).getD 0, job := s.me.job.toNat, va := tval.toNat
                 vas := (s.elemBytes f f.o.planes idx).map Prod.snd, bytes := optArgs op f.o coef g
                 rep := hs.filterMap Hit.rep?, kind := 9, so := hs.any Hit.so, n := s.writeNo }

/-- The active lanes one after another. -/
def optLanes (op : Nat) (f : View) (coef : Half) (v : Line) : Nat → List Nat → List (Option (List Hit)) → M Unit
  | j, _ :: r, none :: t => optLanes op f coef v (j + 1) r t
  | j, i :: r, some h :: t => do
    optElem op f coef v[Fin.ofNat 64 j] i h
    optLanes op f coef v (j + 1) r t
  | _, _, _ => pure ()

/-- PACC, PAXPY and PEMA. They check the write right alone, and are performed at the homes of their elements with no
migration: they do not count for the migration counter (log 83). The format is checked before the list (log 25). -/
def optimiser (i : Instr) (op : Nat) (a b : Reg) (k : Fin 8) (la : Look) (s : State) : Out :=
  fieldLine i la none (do
    let (x, y) ← rd2 a b
    let f ← fieldOf x .write
    need (optFmt f.o.fmt) (opFault 4 x)
    let is ← lineIndices f.o y
    let hs ← checkLanes rW f f.o.planes is
    soFree (lanesHits hs)
    let v ← rdLine (.k k)
    let e1 ← getE 1
    optLanes op f (e1.setWidth 32) v 0 is hs
    awaitWrites (window la) (la.val == 15)) s

def execPacc (a b : Reg) (k : Fin 8) (la : Look) (s : State) : Out := optimiser (.pacc a b k la) 0 a b k la s
def execPaxpy (a b : Reg) (k : Fin 8) (la : Look) (s : State) : Out := optimiser (.paxpy a b k la) 1 a b k la s
def execPema (a b : Reg) (k : Fin 8) (la : Look) (s : State) : Out := optimiser (.pema a b k la) 2 a b k la s

end Sys2Proof.Machine
end

