-- ==== Sys2Proof/Machine/Remote.lean ====
section
/-! DEFINITION. Requests to and from other devices (R284, R298, R299): what another device does with a request, timeouts and
stale replies, acknowledgements, the arrival of owed results (R26), and the performance of queued stores (R126). What another
device holds stands in cells of this model (log 5), which its replies read and write. -/

namespace Sys2Proof.Machine

open Sys2Proof.Num

/-! What the other device does. -/

/-- The cells of a request's bytes on the other device. -/
def Req.keys (r : Req) : List Nat := r.vas.map (remKey r.dev r.job)

/-- What an optimiser's request does to the bytes of its element (R150). -/
def optAsked (args old : List Byte) : List Byte :=
  let n (i : Nat) : Nat := (args.getD i 0).toNat
  optBytes (n 0) (n 1) (n 2) (n 3 == 1) (BitVec.ofNat 32 (leNat ((args.drop 4).take 4))) (BitVec.ofNat 32 (leNat (args.drop 8))) old

/-- The bytes a request leaves, from those it finds. -/
def asked (kind : Nat) (bytes old : List Byte) : List Byte :=
  match kind with
  | 2 => leBytes 8 (leNat old + leNat bytes)
  | 3 => vamoBytes true old bytes
  | 4 => vamoBytes false old bytes
  | 0 | 6 => old
  | 9 => optAsked bytes old
  | _ => bytes

/-- Stores of which the bytes outside a granule in error are written (R137); others leave everything unchanged. -/
def partly (kind : Nat) : Bool := kind == 1 || kind == 5

/-- The class of the fault a request meets at the other device: the access fault where its page table has no leaf of its own
for the address (R284), the memory-error trap where a granule is in error. -/
def State.reqFault (s : State) (r : Req) : Option Nat :=
  if Config.farRefuses s.ticks then some 5 else if r.keys.any s.badAt then some 8 else none

/-- A request performed at the other device; the replica takes the result (R284). -/
def State.serveReq (s : State) (r : Req) : State :=
  let new := asked r.kind r.bytes (s.mem.getAll r.keys)
  let cs := r.keys.zip new
  let s := match s.reqFault r with
    | none => s.setCells cs
    | some 8 => if partly r.kind then s.setCells (cs.filter fun c => !s.badAt c.1) else s
    | some _ => s
  if (s.reqFault r).isSome then s else s.setCells (r.rep.zip new)

def execStaleReply (s : State) : Out := .next (s.stale s.arg.n)

/-! Acknowledgements. -/

/-- A tag less to wait for. -/
def Pending.acked (k : Nat) (p : Pending) : Option Pending :=
  match p.src with
  | .acks ks => if (ks.erase k).isEmpty then none else some { p with src := .acks (ks.erase k) }
  | _ => some p

def Pending.awaits (k : Nat) (p : Pending) : Bool :=
  match p.src with
  | .acks ks => ks.contains k
  | _ => false

/-- A field write all of whose elements are acknowledged is complete. -/
def State.settleWrites (s : State) (sid : Nat) : State :=
  s.modStrand sid fun t =>
    { t with pend := t.pend.filter fun p =>
        match p.src with
        | .writes n => (t.stores.any fun q => q.n == n) ||
            s.fabric.reqs.any fun r => r.2.sid % 65536 == sid % 65536 && r.2.n == n
        | _ => true }

/-- A request that is no longer open: the instruction that waits for it goes on. -/
def State.closeReq (s : State) (k : Nat) (r : Req) : State :=
  ((s.dropReq k).modStrand r.sid fun t => { t with pend := t.pend.filterMap (Pending.acked k) }).settleWrites r.sid

/-- What waits for request k ends in a fault of class cls. -/
def Pending.failing (k cls : Nat) (tval : Word) (p : Pending) : Pending :=
  if p.awaits k then p.fail (.fault cls 0 tval) else p

/-- What its strand meets when a request fails: a store's fault is taken before the next instruction (R137), another's at the
end of its window. -/
def State.failReq (s : State) (k : Nat) (r : Req) (cls : Nat) : State :=
  let tval := toW r.va
  if r.kind = 2 ∨ r.kind = 3 ∨ r.kind = 4 then
    (s.dropReq k).modStrand r.sid fun t => { t with pend := t.pend.map (Pending.failing k cls tval) }
  else (s.closeReq k r).modStrand r.sid fun t => { t with storeErr := some (t.storeErr.getD (cls, tval)) }

/-- ACKNOWLEDGEMENT_ARRIVAL: the request was performed, or answered with a failure; the instruction that waits for it
completes. -/
def execAcknowledgementArrival (s : State) : Out :=
  let k := s.arg.n
  match SMap.find k s.fabric.reqs with
  | none => .next (s.stale k)
  | some r =>
    if r.gen = s.arg.m then
      let t := s.serveReq r
      let t := match s.reqFault r with
        | none => t.closeReq k r
        | some cls => t.failReq k r cls
      .next (if r.kind = 5 ∨ r.kind = 6 then t.passOn (remKey r.dev r.job r.va / 256) else t)
    else .next (s.stale k)

/-! Results that arrive (R26). -/

/-- A run of a load with its tag's answer. -/
def Run.answer (k : Nat) (x : Read) (r : Run) : Run := if r.rd = .asked k then { r with rd := x } else r
def Elem.answer (k : Nat) (x : Read) (e : Elem) : Elem := { e with runs := e.runs.map (Run.answer k x) }

def asksFor (k : Nat) (els : List (Option Elem)) : Bool := (runsIn els).any fun r => r.rd == .asked k

def Pending.asks (k : Nat) (p : Pending) : Bool :=
  match p.src with
  | .fetch els _ => asksFor k els
  | .atomic _ _ _ _ (some tag) => tag == k
  | _ => false

/-- An answer to tag k put into what the strand's loads and streams wait for. -/
def Pending.answer (k : Nat) (x : Read) (p : Pending) : Pending :=
  match p.src with
  | .fetch els how => { p with src := .fetch (els.map fun e => e.map (Elem.answer k x)) how }
  | _ => p

def Ahead.answer (k : Nat) (x : Read) (tval : Word) (a : Ahead) : Ahead :=
  match a, x with
  | .asked n so, .got bs => if n = k then .got (leNat bs) else .asked n so
  | .asked n so, .lost cls detail => if n = k then .lost cls detail tval else .asked n so
  | a, _ => a

def Strand.answer (k : Nat) (x : Read) (tval : Word) (t : Strand) : Strand :=
  { t with
    pend := t.pend.map (Pending.answer k x)
    t := t.t.map fun u => u.map fun (st : Stream) => { st with ahead := st.ahead.map (Ahead.answer k x tval) } }

/-- The first run that could not be read. -/
def firstLost (els : List (Option Elem)) : Option Owe :=
  (runsIn els).findSome? fun r =>
    match r.rd with
    | .lost cls detail => some (.fault cls detail r.tval)
    | _ => none

/-- Elements of a field whose leading planes leave them undecided are read again over all planes (R46). -/
def restage (f : View) (c : Nat) (near : Bool) : List (Option Elem) → M (List (Option Elem))
  | [] => pure []
  | none :: l => do
    let r ← restage f c near l
    return none :: r
  | some e :: l => do
    let e ← if !e.full && allGot [some e] && f.o.undecided c (f.o.uses c near) e.bytes then do
        let s ← get
        readRest (s.viewOn (coreDie s.me.core) none f.key) e.idx
      else pure e
    let r ← restage f c near l
    return some e :: r

def restaged (els : List (Option Elem)) : Shape → M (List (Option Elem))
  | .field f c near => restage f c near els
  | .fieldLanes f c near => restage f c near els
  | _ => pure els

/-- A line that a load has read, to its register or stream. -/
def deliverLine (p : Pending) (v : Line) : M Unit :=
  match p.line, p.dsts with
  | some k, _ => updMe fun t => { t with k := t.k.set k v }
  | none, .t i :: _ => wrLine (.t i) v
  | none, _ => pure ()

/-- What a load whose elements are all read delivers. -/
def deliverFetch (p : Pending) (els : List (Option Elem)) (how : Shape) : M Unit := do
  let s ← get
  match how with
  | .scalar sx => deliver p (loadValues p.own sx (els.flatMap fun e => (e.map Elem.bytes).getD []))
  | .lanes ty => deliverLine p (elemLine ty els)
  | .field f c near => deliver p [((els.head?.bind id).map fun e => ldValue f.o c near (s.elemCode f e)).getD 0]
  | .fieldLanes f c near => deliverLine p (s.fieldLanes f c near els)

/-- A load goes on: what is still to be read is asked for; when all is read it completes, and when some of it cannot be read
it faults. t is the strand without p. -/
def goOn (s : State) (p : Pending) (t : Strand) : State :=
  match p.src with
  | .fetch els how =>
    match restaged els how s with
    | .error x => undelivered s p p.src x
    | .ok (els, s1) =>
      if allGot els then
        match deliverFetch p els how { s1 with me := { t with stores := s1.me.stores } } with
        | .ok (_, s2) => s2
        | .error x => undelivered s p p.src x
      else if (runsIn els).any Run.isTodo then
        let r := askElems s1.me.job.toNat p.so (false, s1) els
        r.2.2.swapPend p { p with src := .fetch r.1 how }
      else if allKnown els then s1.swapPend p (p.fail ((firstLost els).getD (.fault 8 0 0)))
      else s1.swapPend p { p with src := .fetch els how }
  | _ => s

/-- The strand's first load that can go on: everything asked for is answered. -/
def Pending.goesOn (p : Pending) : Bool :=
  match p.src with
  | .fetch els _ => !(runsIn els).any Run.isAsked
  | _ => false

/-- The replica lines a load's answer fills (R284). -/
def State.fillLines (s : State) (dev job : Nat) : List (Nat × Nat) → State
  | [] => s
  | (va, pa) :: r =>
    let s := if s.fabric.valid.contains (validKey job pa) then s else s.fillLine dev job va pa
    s.fillLines dev job r

/-- A load's reply: the bytes as they stand when it is served. -/
def loadReply (s : State) (k : Nat) (r : Req) : State :=
  let x : Read := match s.reqFault r with
    | none => .got (s.mem.getAll r.keys)
    | some cls => .lost cls 0
  let s := if (s.reqFault r).isNone then s.fillLines r.dev r.job (r.vas.zip r.rep) else s
  let s := (s.dropReq k).focus r.sid
  let mine := s.me.pend.find? (Pending.asks k)
  let s := { s with me := s.me.answer k x (toW r.va) }
  match mine with
  | none => s
  | some p =>
    let p := p.answer k x
    if p.goesOn then
      match takePend (· == p) s.me with
      | none => s
      | some (p, t) => goOn s p t
    else s

/-- An atomic's reply: the operation performed on the other device's word, the replica updated (R130). The grant of an LRW is an
acquire of span scope (R338); one whose read meets an error passes the reservation on (Table 7.5). -/
def atomicReply (s : State) (r : Req) (p : Pending) (t : Strand) (op : Nat) (b c : Word) : State :=
  match s.reqFault r with
  | some cls =>
    let s := s.swapPend p (p.fail (.fault cls 0 (toW r.va)))
    if op = 8 then ({ s with me := { s.me with resv := none } }).passOn (remKey r.dev r.job r.va / 256) else s
  | none =>
    let old := toW (leNat (s.mem.getAll r.keys))
    let new := leBytes 8 (amoNew op old b c).toNat
    let s1 := if op = 8 then s.acquireSpan r.job
      else if !amoWrites op old c then s else (s.setCells (r.keys.zip new)).setCells (r.rep.zip new)
    complete s1 p t [old]

/-- An LRW reaches its line in another device: it holds the line when that is free and its turn has come, and waits in its
queue otherwise (R132). -/
def lrwReply (s : State) (k : Nat) (r : Req) (p : Pending) (t : Strand) (b c : Word) : State :=
  let line := remKey r.dev r.job r.va / 256
  let sid := r.sid % 65536
  let granted (s : State) : State :=
    let s := (s.dropReq k).hold line
    atomicReply s r p { t with resv := some line } 8 b c
  match s.resvOf line with
  | none => granted s
  | some q =>
    if q.holder.isNone && q.waiters.head? == some sid then granted s
    else if q.waiters.contains sid then s
    else
      let s := s.queueUp sid line
      if q.holder.isNone then s.due .reservationGrant { n := line } else s

/-- RESULT_ARRIVAL: with flag the reply to a request of a load or an atomic; otherwise a value that has arrived is written to
the registers that wait for it, or a load of the strand goes on (R26). -/
def execResultArrival (s : State) : Out :=
  if s.arg.flag then
    let k := s.arg.n
    match SMap.find k s.fabric.reqs with
    | none => .next (s.stale k)
    | some r =>
      if r.gen ≠ s.arg.m then .next (s.stale k)
      else if r.kind = 0 then .next (loadReply s k r)
      else
        let s0 := s.focus r.sid
        match takePend (Pending.asks k) s0.me with
        | none => .next (s0.dropReq k)
        | some (p, t) =>
          match p.src with
          | .atomic op _ b c _ =>
            .next (if op = 8 then lrwReply s0 k r p t b c else atomicReply (s0.dropReq k) r p t op b c)
          | _ => .next (s0.dropReq k)
  else
    match takePend Pending.isValue s.me with
    | some (p, t) => .next (completeNow s p t)
    | none =>
      match takePend Pending.goesOn s.me with
      | some (p, t) => .next (goOn s p t)
      | none => .next s

/-! Timeouts (R298). -/

/-- What waits for the answer of a request that timed out: a load or an atomic takes the memory-error trap at the end of its
window. -/
def Pending.timeOut (k : Nat) (va : Nat) (p : Pending) : Pending :=
  match p.src with
  | .atomic _ _ _ _ (some tag) => if tag = k then p.fail (.fault 8 0 (toW va)) else p
  | _ => p

/-- An AMO whose answer was lost, performed at the other device all the same. -/
def State.lostAmo (s : State) (k : Nat) (r : Req) : State :=
  match ((s.strand? r.sid).bind fun t => t.pend.find? (Pending.asks k)).map Pending.src with
  | some (.atomic op _ b c _) =>
    let old := toW (leNat (s.mem.getAll r.keys))
    if op = 8 ∨ !amoWrites op old c then s else s.setCells (r.keys.zip (leBytes 8 (amoNew op old b c).toNat))
  | _ => s

/-- A request given up at its timeout: its tag's generation advances and the tag rests. -/
def State.giveUp (s : State) (k : Nat) (r : Req) : State :=
  let until_ := s.clk + BitVec.ofNat 64 (2 ^ s.fabric.reqto)
  let s := s.dropReq k
  { s with fabric := { s.fabric with
    gens := SMap.put k ((r.gen + 1) % 16) s.fabric.gens, rest := SMap.put k until_ s.fabric.rest } }.count r.die 0xFE020

/-- REQUEST_TIMEOUT (R298). Whether a store, SIG, VAMO or AMO was performed is open, a choice of the step. -/
def execRequestTimeout (s : State) : Out :=
  let k := s.arg.n
  match SMap.find k s.fabric.reqs with
  | none => .next s
  | some r =>
    let done := (s.choose [false, true]).getD false
    if r.kind = 0 then .next ((s.giveUp k r).modStrand r.sid (Strand.answer k (.lost 8 0) (toW r.va)))
    else if r.kind = 7 then
      let s := (if done then s.lostAmo k r else s).giveUp k r
      let line := remKey r.dev r.job r.va / 256
      let s := s.unwait r.sid
      let s := if (s.resvOf line).any fun q => q.holder.isNone then s.due .reservationGrant { n := line } else s
      .next (s.modStrand r.sid fun t => { t with pend := t.pend.map (Pending.timeOut k r.va) })
    else if r.kind = 8 then
      let s := (s.giveUp k r).focus r.sid
      .next (match s.sendOf k with
        | some n => s.setSend n (.value [4])
        | none => s)
    else
      let s := (if done then s.serveReq r else s).giveUp k r
      let s := if done && (r.kind = 5 ∨ r.kind = 6) then s.passOn (remKey r.dev r.job r.va / 256) else s
      let s := (s.closeReq k r).modStrand r.sid fun t => { t with spanErr := some (toW r.va) }
      let cl := match s.strand? r.sid with
        | some t => clusterOf t.core
        | none => r.die * 16
      .next (s.hwSend (gafferSid cl) 0x17 r.job (toW r.va) 0 0 0)

/-- PACKET_AGE_DISCARD: a router drops a packet older than REQTO and counts it; the answer to the request it belonged
to will not come. -/
def execPacketAgeDiscard (s : State) : Out :=
  let k := s.arg.n
  .next ({ s with agenda := s.agenda.filter fun d => !(d.arg.flag && d.arg.n == k) }.count 0 0xFE018)

/-! Requests from other devices (R284). -/

/-- Translation of a request's bytes under the job's table here: a leaf of this device with the right. -/
def arriving (s : State) (job right va : Nat) : Option Hit :=
  match s.walk job va with
  | none => none
  | some (_, level, w0, _) =>
    if bitsOf w0 48 16 == 0xFFFF && (bitsOf w0 5 2 &&& right) == right then
      some { loc := .cell (forward (bitsOf w0 16 32 * 2 ^ 16 + va % pageSize level) s.migs), w0 := toW w0 }
    else none

def arrivingAll (s : State) (job right : Nat) : List Nat → Option (List Hit)
  | [] => some []
  | va :: r =>
    match arriving s job right va, arrivingAll s job right r with
    | some k, some l => some (k :: l)
    | _, _ => none

/-- The answer to a request from another device: 0 done, 1 the access fault, 2 the memory-error trap. -/
def State.replyTo (s : State) (a : Arg) (b : Nat) (bs : List Byte) : State :=
  { s with fabric := { s.fabric with out := s.fabric.out ++
    [({ dev := a.dev, job := a.job, kind := 10, a := a.n, b, bytes := bs } : Packet)] } }

/-- The bytes a request from another device leaves. Kinds as Req; 16 + op is an AMO with its operand in v and e0 in ws. -/
def arrivingResult (a : Arg) (old : List Byte) : List Byte :=
  if 16 ≤ a.kind then leBytes 8 (amoNew (a.kind - 16) (toW (leNat old)) a.v (a.ws.headD 0)).toNat
  else if a.kind = 2 then leBytes 8 (leNat old + a.v.toNat)
  else asked a.kind a.bs old

/-- Whether a request reads, and whether it answers with the old bytes. -/
def arrivingRight (kind : Nat) : Nat := if kind = 0 then rR else if kind = 1 ∨ kind = 2 ∨ kind = 9 ∨ kind = 10 then rW else rRW
def answersOld (kind : Nat) : Bool := kind == 0 || decide (16 ≤ kind)

/-- The name of a strand of another device in a reservation queue here. -/
def farName (a : Arg) : Nat := 2 ^ 32 * (a.n + 1) + a.sid

/-- An LRW of a strand of another device joins the queue of its line, whose home admits it in turn (R132). -/
def State.farReserve (s : State) (a : Arg) (line : Nat) : State :=
  let w := farName a
  let s := { s with queues := { s.queues with far := s.queues.far ++ [(w, a)] } }
  let core := s.home (line * 256)
  if (s.queues.input.any fun x => s.home (x.1 * 256) == core) || !s.admits core line then
    { s with queues := { s.queues with input := s.queues.input ++ [(line, w)] } }
  else
    let free := (s.resvOf line).all fun q => q.holder.isNone
    let q := match s.resvOf line with
      | none => s.queues.resv ++ [{ line, holder := none, waiters := [w] }]
      | some _ => s.queues.resv.map fun (r : Resv) => if r.line == line then { r with waiters := r.waiters ++ [w] } else r
    let s := { s with queues := { s.queues with resv := q } }
    if free then s.due .reservationGrant { n := line } else s

/-- REMOTE_ACCESS_REQUEST: performed at the same virtual address under the job's table; a request with no leaf of this
device is answered with a failure, for which the requester takes the access fault. One to a brick the Marver has locked
waits (R275). Kind 24 is LRW, 5 SCV and 6 RELQ, from the line's holder. -/
def execRemoteAccessRequest (s : State) : Out :=
  let a := s.arg
  match arrivingAll s a.job (arrivingRight a.kind) ((List.range a.size).map fun i => (a.va + i) % 2 ^ 56) with
  | none => .next (s.replyTo a 1 [])
  | some hs =>
    let ks := hs.map (cellOf a.job)
    let line := lineOf (ks.headD 0)
    let s := s.counted hs
    if a.kind != 0 && ks.any s.locked then .next (s.due .remoteAccessRequest a)
    else if a.kind = 24 then .next (s.farReserve a line)
    else
      let s1 :=
        match ks.find? s.badAt with
        | some k =>
          let t := s.logError k
          let t := if partly a.kind then t.setCells ((ks.zip (arrivingResult a [])).filter fun c => !s.badAt c.1) else t
          t.replyTo a 2 []
        | none =>
          let old := s.mem.getAll ks
          let t := if a.kind = 0 ∨ a.kind = 6 then s else s.setCells (ks.zip (arrivingResult a old))
          t.replyTo a 0 (if answersOld a.kind then old else [])
      .next (if a.kind = 5 ∨ a.kind = 6 then s1.passOn line else s1)

/-! Queued stores. -/

/-- Whether two queued stores write one byte (R335). -/
def PendStore.meets (p q : PendStore) : Bool :=
  (p.cells.any fun c => q.cells.any fun d => c.1 == d.1) ||
    (p.dev == q.dev && p.job == q.job && p.vas.any fun v => q.vas.contains v)

/-- Whether a queued store may be performed after those before it in the queue: none of them writes one of its bytes, no
locked brick takes it (R275), the aperture has room (R306), and on an SO page the last one has completed (R285). -/
def State.mayPerform (s : State) (before : List PendStore) (p : PendStore) : Bool :=
  !before.any p.meets && !p.cells.any (fun c => s.locked c.1) && (p.dev != aperture || s.apertRoom (coreDie s.me.core)) &&
    !(p.so && (before.any PendStore.so || s.me.pend.any Pending.so))

def State.candidates (s : State) (before : List PendStore) : List PendStore → List Nat
  | [] => []
  | p :: r =>
    let l := s.candidates (before ++ [p]) r
    if s.mayPerform before p then before.length :: l else l

/-- A queued store sent to another device. -/
def State.sendStore (s : State) (p : PendStore) : Option State :=
  match s.request p.dev p.job p.vas p.kind p.bytes p.rep with
  | none => none
  | some (k, t) =>
    let t := { t with fabric := { t.fabric with reqs := t.fabric.reqs.map fun (x : Nat × Req) =>
      if x.1 = k then (x.1, { x.2 with n := p.n, va := p.va }) else x } }
    some (if p.so then
        { t with me := { t.me with pend := t.me.pend ++ [{ t.me.opened (.acks [k]) 0 t.me.pc with holds := false, so := true }] } }
      else t)

/-- STORE_PERFORM: one queued store of the strand is performed, stores to different bytes in any order (R335). One to
another device becomes a request; it waits while the interface has no tag or an access to the same 8 bytes is open (R299). -/
def execStorePerform (s : State) : Out :=
  let again := s.due .storePerform { sid := s.me.sid.toNat }
  match s.choose (s.candidates [] s.me.stores) with
  | none => .next (if s.me.stores.isEmpty then s else again)
  | some i =>
    match s.me.stores[i]? with
    | none => .next s
    | some p =>
      let t := { s with me := { s.me with stores := s.me.stores.eraseIdx i } }
      if p.dev = aperture then .next (t.performApert p)
      else if p.vas.isEmpty then .next (t.perform s.me.sid.toNat p)
      else if t.reqOpen p.dev p.job p.vas then .next again
      else .next ((t.sendStore p).getD again)

/-! PAGE_WALK (R282, R283): a walk for a cluster fills its cache; a failed walk fills nothing. -/
def execPageWalk (s : State) : Out :=
  match s.lookup s.arg.cl s.arg.job s.arg.va with
  | none => .next s
  | some (_, s') => .next s'

end Sys2Proof.Machine
end

