-- ==== Sys2Proof/Machine/FieldTab.lean ====
section
/-! DEFINITION. The field table of a job (R258): its log, its replicas, the take-up of a change by the translation hardware
of each die (R172), and the calls that change maps. The object table holds every field as the last entry of the log leaves
it. -/

namespace Sys2Proof.Machine

/-! Commands and transfers that name a field. -/

def Cmd.xh (c : Cmd) : Nat := wbits c.a 0 16
def Cmd.yh (c : Cmd) : Nat := wbits c.a 16 16
def Cmd.hi (c : Cmd) : Nat := wbits c.a 32 16
def Cmd.xKey (c : Cmd) : Nat := objKey c.job c.xh
def Cmd.yKey (c : Cmd) : Nat := objKey c.job c.yh
def Cmd.hiKey (c : Cmd) : Nat := objKey c.job c.hi

/-- Fields an operator command names. -/
def Cmd.fields (c : Cmd) : List Nat :=
  match c.op with
  | 3 => [c.xKey, c.yKey, c.hiKey]
  | 5 => if c.hi = 0 then [c.xKey, c.yKey] else [c.xKey, c.yKey, c.hiKey]
  | 6 => [c.xKey]
  | 7 => []
  | _ => [c.xKey, c.yKey]

/-- Handles of an XFER word (R28, R196); 0 names linear memory. -/
def xSrc (a : Word) : Nat := wbits a 0 16
def xDst (a : Word) : Nat := wbits a 16 16

def Xfer.fields (x : Xfer) : List Nat := [objKey x.job (xSrc x.a), objKey x.job (xDst x.a)]

/-- A command or transfer of a die with a number below n, in flight, names the field. -/
def State.namedBelow (s : State) (die key n : Nat) : Bool :=
  (s.engines.cmds.any fun c => c.die == die && decide (c.seq < n) && c.fields.contains key) ||
    s.engines.xfers.any fun x => x.die == die && decide (x.seq < n) && x.fields.contains key

/-! Replicas. -/

/-- Entries a field table's ring holds (R258). -/
def fieldRing : Nat := 65536

def State.setFieldTab (s : State) (f : FieldTab) : State :=
  { s with fieldTabs := s.fieldTabs.map fun (x : FieldTab) => if x.job == f.job then f else x }

/-- Whether a die can hold an included replica: its Pontil serves. -/
def State.pontilUp (s : State) (die : Nat) : Bool := !s.device.stopped.contains die && !s.device.drainedDies.contains die

/-- A job's field table before its first entry. -/
def State.freshTab (s : State) (job : Nat) : FieldTab where
  job := job
  tail := 0
  trim := 0
  log := []
  reps := (List.range 8).map fun die => { die, pos := 0, told := 0, incl := s.pontilUp die, sync := none, untaken := [] }
  asleep := []

/-- The field table of a job, made with its first entry. -/
def State.fieldTab (s : State) (job : Nat) : FieldTab := (s.fieldTab? job).getD (s.freshTab job)

/-- Whether an entry finds room (R258). -/
def State.fieldRoom (s : State) (job : Nat) : Bool :=
  let f := s.fieldTab job
  decide (f.tail - f.trim < fieldRing)

/-- One entry of the log: the change of a field, made by a call with a number (0: by the Marver or an acceptance). -/
def State.logChange (s : State) (key call : Nat) (change : Change) (f : Obj → Obj) : State :=
  let t := s.fieldTab (key / 65536)
  let t := { t with tail := t.tail + 1, log := t.log ++ [{ pos := t.tail + 1, key, old := s.objAt key, change, call }] }
  ({ s with fieldTabs := t :: s.fieldTabs.filter fun x => x.job != t.job }).modObj key f

def FieldTab.rep? (f : FieldTab) (die : Nat) : Option FRep := f.reps.find? fun r => r.die == die
def FieldTab.setRep (f : FieldTab) (r : FRep) : FieldTab :=
  { f with reps := f.reps.map fun (x : FRep) => if x.die == r.die then r else x }

/-- Whether a die's Pontil has an entry to apply: it serves, and its replica is included. -/
def State.mayApply (s : State) (f : FieldTab) (r : FRep) : Bool :=
  r.incl && decide (r.pos < f.tail) && s.pontilUp r.die && s.device.lehr == 0

/-- Changes the translation hardware takes up: those that change what an index names or which field there is (R172). -/
def Change.taken : Change → Bool
  | .sweep => false
  | _ => true

/-- ENTRY_APPLY of a field table: a die's Pontil applies its next entry; every command accepted there from now on follows
the change. -/
def State.fieldApply (s : State) (job die : Nat) : State :=
  match s.fieldTab? job with
  | none => s
  | some f =>
    match f.rep? die with
    | none => s
    | some r =>
      if !s.mayApply f r then s
      else
        let p := r.pos + 1
        let new := (f.log.filter fun e => e.pos == p && e.change.taken).map fun e => (e.pos, s.engines.next)
        let r := { r with
          pos := p, untaken := r.untaken ++ new
          sync := match r.sync with
            | some t => if p < t then some t else none
            | none => none }
        let s := s.setFieldTab (f.setRep r)
        if p % 64 = 0 ∨ p = f.tail then s.due .replicaReport { job, die } else s

/-- TRIM of a field table: the lowest report of the included replicas; entries no replica and no user still needs go. -/
def FieldTab.retrim (f : FieldTab) : FieldTab :=
  let live := f.reps.filter FRep.incl
  let trim := if live.isEmpty then f.trim else Max.max f.trim (live.foldl (fun m r => Min.min m r.told) f.tail)
  let low := f.reps.foldl (fun m r => Min.min m (Min.min r.pos (r.untaken.foldl (fun m u => Min.min m (u.1 - 1)) r.pos))) f.tail
  { f with trim, log := f.log.filter fun e => decide (Min.min trim low < e.pos) }

/-- REPLICA_REPORT of a field table: a Pontil reports its A_die. -/
def State.fieldReport (s : State) (job die : Nat) : State :=
  match s.fieldTab? job with
  | none => s
  | some f =>
    match f.rep? die with
    | none => s
    | some r => s.setFieldTab (f.setRep { r with told := r.pos }).retrim

/-- The changes a die's translation hardware has not taken up, once no command or transfer accepted before them names their
field any more; oldest first (R172). -/
def State.takeUp (s : State) (f : FieldTab) (die : Nat) : List (Nat × Nat) → List (Nat × Nat)
  | [] => []
  | u :: r =>
    match f.log.find? fun e => e.pos == u.1 with
    | none => s.takeUp f die r
    | some e => if s.namedBelow die e.key u.2 then u :: r else s.takeUp f die r

/-- Every die takes up what it can. -/
def State.takeUps (s : State) : State :=
  { s with fieldTabs := s.fieldTabs.map fun (f : FieldTab) =>
      { f with reps := f.reps.map fun (r : FRep) => { r with untaken := s.takeUp f r.die r.untaken } } }

/-- Whether a call is over: appended, applied by every included replica and, where that is asked for, taken up there. -/
def FieldTab.callOver (f : FieldTab) (n : Nat) (taken : Bool) : Bool :=
  !(f.asleep.any fun a => a.n == n) &&
    match f.log.find? fun e => e.call == n with
    | none => true
    | some e => f.reps.all fun r => !r.incl || (decide (e.pos ≤ r.pos) && !(taken && r.untaken.any fun u => u.1 == e.pos))

/-- An access of a strand to a field is in progress. -/
def Pending.uses (key : Nat) (p : Pending) : Bool :=
  match p.src with
  | .fetch _ (.field f _ _) => f.key == key
  | .fetch _ (.fieldLanes f _ _) => f.key == key
  | _ => false

/-- Whether writes of a field of a job to another device are in progress. -/
def State.fieldWrites (s : State) (job : Nat) : Bool :=
  (s.strands.any fun t => t.stores.any fun p => p.n != 0 && p.job == job) || s.fabric.reqs.any fun r => r.2.n != 0 && r.2.job == job

/-- Whether an access to a field that passed its check is in progress (R268). -/
def State.fieldUsed (s : State) (key : Nat) : Bool :=
  (s.strands.any fun t => t.pend.any (Pending.uses key)) || s.fieldWrites (key / 65536)

/-- Whether the issuing die has applied every entry of a field: the result of a call made now has come back there (R276). -/
def State.fieldCame (s : State) (die key : Nat) : Bool :=
  match s.fieldRep? (key / 65536) die with
  | none => true
  | some r => (s.fieldLog (key / 65536)).all fun e => e.key != key || decide (e.pos ≤ r.pos)

/-! Exclusion (R257, R258). -/

/-- A die left out of a field table. -/
def State.fieldExclude (s : State) (job die : Nat) (tell : Bool) : State :=
  let f := s.fieldTab job
  match f.rep? die with
  | none => s
  | some r =>
    if !r.incl then s
    else
      let f := (f.setRep { r with incl := false, sync := none }).retrim
      let s := { s with fieldTabs := f :: s.fieldTabs.filter fun x => x.job != job }
      if tell then s.hwSend (s.faultSid job) 0x31 job 0 (toW die) 0 0 else s

/-- A die's replicas of the field tables rejoin as the die returns to service (R258, R382): a copy of the nearest included
replica, and the entries up to the tail of that moment. -/
def FieldTab.rejoin (f : FieldTab) (hops : Nat → Nat) (die : Nat) : FieldTab :=
  match f.rep? die with
  | none => f
  | some r =>
    if r.incl then f
    else
      let near := (f.reps.filter fun q => q.incl && q.sync.isNone).foldl (fun (b : Option FRep) q =>
        match b with
        | none => some q
        | some x => if hops q.die < hops x.die then some q else b) none
      let p := (near.map FRep.pos).getD f.tail
      f.setRep { r with pos := p, told := p, incl := true, sync := if p < f.tail then some f.tail else none, untaken := [] }

end Sys2Proof.Machine
end

