-- ==== Sys2Proof/Machine/Marver.lean ====
section
/-! DEFINITION. The Marvers (15_tables_inventory, R272-R278): the map in force, requests, passes, the groups each die's Marver
moves, and commits, which are calls on the field table (R258). -/

namespace Sys2Proof.Machine

/-! Maps and passes. -/

/-- The map in force for new requests (R276). -/
def State.forceMap (s : State) (key : Nat) (o : Obj) : List Nat :=
  match (s.remaps.filter fun r => r.key == key).getLast? with
  | none => o.mapAt 1
  | some r => (r.passes.getLast?).getD (o.mapAt 1)

/-- A map after two physical positions have changed places. -/
def swapPos (p q : Nat) (m : List Nat) : List Nat := m.map fun x => if x = p then q else if x = q then p else x

/-- Two logical bits exchanged. -/
def swapBits (x y : Nat) (m : List Nat) : List Nat := (m.set x (m.getD y 0)).set y (m.getD x 0)

/-- Number of twos in a power of two. -/
def log2Size (n : Nat) : Nat := n.log2

/-- The brick boundary (R272). -/
def Obj.boundary (o : Obj) : Option Nat :=
  if isQ4 o.fmt || (isChain o.fmt && o.planes == 3) then none
  else if isChain o.fmt then some (16 - log2Size o.planes)
  else some (16 - log2Size (fmtSize o.fmt))

/-- Both positions of a swap lie below the boundary. -/
def Obj.inBrick (o : Obj) (x : Nat × Nat) : Bool :=
  match o.boundary with
  | none => false
  | some b => decide (x.1 < b) && decide (x.2 < b)

/-- Swaps gathered into passes: consecutive ones below the boundary merge. -/
def Obj.passSwaps (o : Obj) : List (Nat × Nat) → List (List (Nat × Nat))
  | [] => []
  | x :: r =>
    match o.passSwaps r with
    | (y :: t) :: u => if o.inBrick x && o.inBrick y then (x :: y :: t) :: u else [x] :: (y :: t) :: u
    | l => [x] :: l

/-- The map after each pass. -/
def passMaps : List Nat → List (List (Nat × Nat)) → List (List Nat)
  | _, [] => []
  | m, g :: r =>
    let m' := g.foldl (fun m x => swapPos x.1 x.2 m) m
    m' :: passMaps m' r

/-! The Marver's estimate (R278). -/

def ceilDiv (a b : Nat) : Nat := (a + b - 1) / b

/-- Hops between dies on the ring of eight. -/
def ringHops (a b : Nat) : Nat :=
  let d := if a ≤ b then b - a else a - b
  Min.min d (8 - d)

/-- Read and written, crossing die links times hops, and crossing the fabric, for one swap (Table 15.5). -/
def Obj.swapCost (o : Obj) (x : Nat × Nat) : Nat × Nat × Nat :=
  let s := o.portion
  let lo := Min.min x.1 x.2
  let hi := Max.max x.1 x.2
  let l := o.bitsL
  let ld := o.bitsL + o.bitsD
  let below (p : Nat) : Bool := match o.boundary with
    | none => true
    | some b => decide (p < b)
  if hi < l then (if below lo then 2 * s else s, 0, 0)
  else if hi < ld then
    if lo < l then (if below lo then 2 * s else s, s / 2 * ringHops 0 (2 ^ (hi - l)), 0)
    else (2 * s, s * ringHops (2 ^ (lo - l)) (2 ^ (hi - l)), 0)
  else if lo < l then (if below lo then 2 * s else s, 0, s / 2)
  else if lo < ld then (2 * s, 0, s / 2)
  else (2 * s, 0, s)

def passCost (o : Obj) (m : Nat) (g : List (Nat × Nat)) : Nat :=
  let c := o.swapCost (g.headD (0, 0))
  Max.max (ceilDiv (c.1 * m) 4096) (Max.max (ceilDiv c.2.1 13333) (ceilDiv c.2.2 640))

def State.running (s : State) : Nat := (s.remaps.filter fun r => r.started).length

/-- The estimate of a remap with these passes. -/
def State.estimate (s : State) (o : Obj) (gs : List (List (Nat × Nat))) : Nat :=
  let m := Max.max 1 (Min.min 4 (s.running + 1))
  300 + (gs.map (passCost o m)).sum

/-! Requests. -/

def freeArea (rs : List Remap) : Nat → Nat → Nat
  | 0, i => i
  | n + 1, i => if rs.any fun r => r.started && r.area == i then freeArea rs n (i + 1) else i

def Remap.mapAfter (r : Remap) (i : Nat) : List Nat := r.passes.getD i []

/-- A die's part of a remap at the start of a pass. -/
def Mover.fresh (die : Nat) : Mover :=
  { die, cursor := 0, phase := 0, bricks := [], frames := [], journal := [], held := none }

/-- The movers of a field: one per die that holds a portion. -/
def Obj.movers (o : Obj) : List Mover := (List.range (2 ^ o.bitsD)).map Mover.fresh

/-- The start of a remap: one call on the field table (R272). -/
def State.startRemap (s : State) (r : Remap) : State :=
  let area := freeArea s.remaps 4 0
  let movers := (s.objAt r.key).movers
  let s := { s with remaps := s.remaps.map fun (x : Remap) =>
      if x.ticket == r.ticket then { x with started := true, area, movers } else x }
  s.logChange r.key 0 .sweep fun o =>
    let o := o.setFld 0 43 1 1
    let o := (o.setMapAt 19 (o.mapAt 1)).setMapAt 25 (r.mapAfter 0)
    o.setFld 31 0 64 (Config.remapArea area % 2 ^ 40 + r.passes.length * 2 ^ 48)

/-- The next remap that may start: the first of its field (R276). -/
def nextRemap (seen : List Nat) : List Remap → Option Remap
  | [] => none
  | r :: t => if !r.started && !seen.contains r.key then some r else nextRemap (r.key :: seen) t

/-- Remaps start in request order while no Marver runs more than four and the field table has room; die 0 holds a portion of
every field, so its Marver runs every remap. -/
def State.startRemaps : Nat → State → State
  | 0, s => s
  | n + 1, s =>
    if 4 ≤ s.running then s
    else
      match nextRemap [] s.remaps with
      | none => s
      | some r => if s.fieldRoom (r.key / 65536) then State.startRemaps n (s.startRemap r) else s

/-- A decision on a field at the end of its log (R276): its entry, and the remap's number and estimate if one is needed. -/
def State.requestRemap (s : State) (key : Nat) (o : Obj) (swaps : List (Nat × Nat)) : State × List Nat × Nat :=
  let gs := o.passSwaps (swaps.filter fun x => x.1 != x.2)
  if gs.isEmpty then (s.logChange key 0 .sweep id, [], 0)
  else
    let est := s.estimate o gs
    let r : Remap := { key, ticket := s.engines.next, passes := passMaps (s.forceMap key o) gs, started := false,
                       pass := 0, done := [], area := 0, movers := [], stopped := false, ended := false }
    let s := { s with remaps := s.remaps ++ [r], engines := { s.engines with next := s.engines.next + 1 } }
    (s.logChange key 0 .sweep id, [r.ticket], est)

/-- The swaps that bring bits to local positions, each against the highest local position whose bit may go (R171,
R199); the first bit with no victim otherwise. Q4X positions 0 to 4 do not move (R145). -/
def victimSwaps (o : Obj) (ok : Nat → Bool) : List Nat → List Nat → List (Nat × Nat) → Except Nat (List (Nat × Nat))
  | [], _, acc => .ok acc.reverse
  | g :: r, m, acc =>
    let pos := (List.range o.bitsL).reverse.filter fun p =>
      (match m.idxOf? p with
        | some v => ok v
        | none => false) && !(acc.any fun x => x.2 == p)
    match pos with
    | [] => .error g
    | p :: _ =>
      if isQ4 o.fmt && decide (p < 5) then .error g
      else
        let q := m.getD g 0
        victimSwaps o ok r (swapPos q p m) ((q, p) :: acc)

/-- The bits among some that are not local in a map. -/
def nonLocal (o : Obj) (m : List Nat) (bits : List Nat) : List Nat := bits.filter fun g => decide (o.bitsL ≤ m.getD g 0)

/-! The end of a remap: what waits for it goes on. -/

def State.endTicket (s : State) (t : Nat) : State :=
  let free (u : Strand) : Strand := { u with pend := u.pend.filter fun p => p.src != .table 1 t 0 }
  { s with
    me := free s.me
    others := s.others.map free
    engines := { s.engines with
      cmds := s.engines.cmds.map fun (x : Cmd) => { x with remaps := x.remaps.filter (· != t) }
      xfers := s.engines.xfers.map fun (x : Xfer) => { x with remaps := x.remaps.filter (· != t) } } }

/-- A remap leaves the list; its area is free. -/
def State.dropRemap (s : State) (r : Remap) : State :=
  { s with remaps := s.remaps.filter fun x => x.ticket != r.ticket }.endTicket r.ticket

/-- Remaps of a field ended by OTINV or the kill of its job: they stop at a group boundary, and what waits for them goes on
(R268, R277, log 18). -/
def State.stopRemaps (s : State) (key : Nat) : State :=
  let hit := s.remaps.filter fun r => r.key == key
  hit.foldl (fun s r => s.endTicket r.ticket) { s with remaps := s.remaps.map fun (r : Remap) => if r.key == key then { r with ended := true } else r }

/-- Whether no user of a field still sees the descriptor before an OTSET or OTINV. -/
def State.seesNew (s : State) (key : Nat) : Bool :=
  match s.fieldTab? (key / 65536) with
  | none => true
  | some f => f.log.all fun e => e.key != key || e.change != .whole ||
      f.reps.all fun r => !r.incl || (decide (e.pos ≤ r.pos) && !r.untaken.any fun u => u.1 == e.pos)

/-- An ended remap that stands at a group boundary and whose brick-done bits nobody needs any more: its area is freed. -/
def State.freeEnded (s : State) : State :=
  (s.remaps.filter fun r => r.ended && (r.movers.all fun m => m.phase == 0) && s.seesNew r.key).foldl (fun s r =>
    (s.dropRemap r).modObj r.key fun o => if o.valid then o else (o.setFld 0 43 1 0).setFld 19 0 832 0) s

/-! Groups (R273). -/

/-- A byte of a field's portions. -/
structure FByte where
  w : Nat
  v : Nat
  off : Nat
  deriving DecidableEq, Repr

def FByte.brick (x : FByte) : Nat := brickOf x.w x.v x.off

/-- The position a byte of a portion belongs to and which byte of its element it is. -/
def Obj.owner (o : Obj) (off : Nat) : Nat × Nat :=
  if isChain o.fmt then (off / (64 * o.planes) * 64 + off % 64, off % (64 * o.planes) / 64)
  else if isQ4 o.fmt then
    if off < 2 ^ (o.bitsL - 1) then (2 * off, 0) else ((off - 2 ^ (o.bitsL - 1)) / 2 * 32, 1 + off % 2)
  else (off / fmtSize o.fmt, off % fmtSize o.fmt)

/-- Where the byte at a place under one map lies under another. -/
def Obj.moveByte (o : Obj) (fromMap toMap : List Nat) (x : FByte) : FByte :=
  let k := o.owner x.off
  if 2 ^ o.bitsL ≤ k.1 then x
  else
    let p := k.1 + x.v * 2 ^ o.bitsL + x.w * 2 ^ (o.bitsL + o.bitsD)
    let y := o.spotAt toMap (unpermute fromMap p)
    { w := y.w, v := y.v, off := (o.offs o.planes y.loc).getD k.2 0 }

/-- The bytes of a brick. -/
def Obj.brickBytes (o : Obj) (b : Nat) : List FByte :=
  let h := b / 2 ^ 32
  let lo := b % 2 ^ 32 * 65536
  (List.range (Min.min 65536 (o.portion - lo))).map fun i => { w := h / 8, v := h % 8, off := lo + i }

/-- The bricks one byte ties together: its own, those of its element, and where it lies under either map. -/
def Obj.tied (o : Obj) (old new : List Nat) (x : FByte) : List Nat :=
  let k := o.owner x.off
  [x.brick, (o.moveByte old new x).brick, (o.moveByte new old x).brick] ++
    (if 2 ^ o.bitsL ≤ k.1 then [] else (o.offs o.planes k.1).map fun i => brickOf x.w x.v i)

def Obj.growGroup (o : Obj) (old new : List Nat) : Nat → List Nat → List Nat
  | 0, g => g
  | n + 1, g =>
    let h := ((g.flatMap o.brickBytes).flatMap (o.tied old new)).eraseDups
    if h.length ≤ g.length then g else Obj.growGroup o old new n h

def Obj.group (o : Obj) (b : Nat) : List Nat := o.growGroup (o.mapAt 19) (o.mapAt 25) 64 [b]

/-- The place of a brick in the order of R273: die value, device value, brick number. -/
def brickPlace (b : Nat) : Nat := (b / 2 ^ 32 % 8 * 65536 + b / 2 ^ 35) * 2 ^ 32 + b % 2 ^ 32

def lowestBrick : List Nat → Nat → Nat
  | [], b => b
  | x :: r, b => lowestBrick r (if brickPlace x < brickPlace b then x else b)

/-- The bricks of a die's portions in the order of its sweep. -/
def Obj.bricksOn (o : Obj) (v : Nat) : List Nat :=
  (List.range (2 ^ o.bitsV)).flatMap fun w => (List.range (ceilDiv o.portion 65536)).map fun b => brickOf w v (b * 65536)

/-- The next brick a die's Marver moves the group of: not done, and the lowest of its group (R273). -/
def Obj.nextBrick (o : Obj) (r : Remap) (m : Mover) : Option Nat :=
  (o.bricksOn m.die).find? fun b => decide (m.cursor ≤ brickPlace b) && !r.done.contains b && lowestBrick (o.group b) b == b

/-- Every brick of every holder is done. -/
def Obj.swept (o : Obj) (r : Remap) : Bool := (List.range (2 ^ o.bitsD)).all fun v => (o.bricksOn v).all r.done.contains

/-- A virtual address translated at supervisor level by a walk. -/
def State.walkCell (s : State) (job va : Nat) : Option Nat :=
  match s.walk job va with
  | none => none
  | some (pte, level, w0, _) =>
    let size := pageSize level
    let t : Tr := { cl := 0, job, base := va / size * size, size, pte, w0 := toW w0, pinners := [], logged := false }
    some (cellOf job { loc := placeOf s.migs t va, w0 := toW w0 })

/-- The cell of a byte of a field. -/
def State.fieldCell (s : State) (key : Nat) (o : Obj) (x : FByte) : Option Nat :=
  let job := key / 65536
  let dev := s.holder job o x.w
  let va := (o.base x.v + x.off) % 2 ^ 56
  if dev = s.devNo then s.walkCell job va else some (remKey dev job va)

/-- The cells of a group: where each byte goes and where its new contents lie; an address that does not translate
otherwise. -/
def State.groupWrites (s : State) (key : Nat) (o : Obj) : List FByte → Except Nat (List (Nat × Nat × Nat))
  | [] => .ok []
  | x :: r =>
    let y := o.moveByte (o.mapAt 25) (o.mapAt 19) x
    match s.fieldCell key o x, s.fieldCell key o y with
    | some k, some l =>
      match s.groupWrites key o r with
      | .ok t => .ok ((k, l, (o.base x.v + x.off) % 2 ^ 56) :: t)
      | .error va => .error va
    | none, _ => .error ((o.base x.v + x.off) % 2 ^ 56)
    | _, none => .error ((o.base y.v + y.off) % 2 ^ 56)

/-- Whether an element of a group changes place. -/
def Obj.moves (o : Obj) (g : List Nat) : Bool :=
  (g.flatMap o.brickBytes).any fun x => decide (o.moveByte (o.mapAt 25) (o.mapAt 19) x ≠ x)

/-- Cells as ranges. -/
def rangesOf : List Nat → List (Nat × Nat)
  | [] => []
  | k :: r =>
    match rangesOf r with
    | (a, n) :: t => if a = k + 1 then (k, n + 1) :: t else (k, 1) :: (a, n) :: t
    | [] => [(k, 1)]

/-- Whether an access of a strand to another device that names a byte of some frames is under way: it was translated before,
and the Marver waits for it (R275, log 18). -/
def State.framesBusy (s : State) (frames : List (Nat × Nat)) : Bool :=
  let hit (dev job va : Nat) : Bool := frames.any fun f => decide (f.1 ≤ remKey dev job va) && decide (remKey dev job va < f.1 + f.2)
  (s.strands.any fun t => t.stores.any fun p => p.vas.any (hit p.dev p.job)) ||
    s.fabric.reqs.any fun r => r.2.vas.any (hit r.2.dev r.2.job)

def State.setRemap (s : State) (r : Remap) : State :=
  { s with remaps := s.remaps.map fun (x : Remap) => if x.ticket == r.ticket then r else x }

def Remap.setMover (r : Remap) (m : Mover) : Remap :=
  { r with movers := r.movers.map fun (x : Mover) => if x.die == m.die then m else x }

def State.ticket? (s : State) (t : Nat) : Option Remap := s.remaps.find? fun r => r.ticket == t && r.started

/-- A memory error stops a remap at its group (R277): every command that waits for it, or for one queued behind it on the
field, retires with status 1 and the address of the failing element. -/
def State.remapError (s : State) (r : Remap) (k va : Nat) : State :=
  let s := (s.logError k).hwSend (s.faultSid (r.key / 65536)) 0x41 (r.key / 65536) (toW (r.key % 65536)) (toW k) 0 0
  let ts := (s.remaps.filter fun x => x.key == r.key).map Remap.ticket
  let waits (c : Cmd) : Bool := c.st == 0 && c.remaps.any ts.contains
  let hit := s.engines.cmds.filter waits
  let s := { s.setRemap { r with stopped := true } with engines := { s.engines with
    cmds := s.engines.cmds.map fun (x : Cmd) => if waits x then { x with st := 2, status := toW (1 + va * 256) } else x } }
  hit.foldl (fun s x => s.due .commandRetire { n := x.seq }) s

/-- An untranslatable page holds a die's part of a remap at its group (R277); the group is tried again every 2^20 cycles. -/
def State.remapHeld (s : State) (r : Remap) (m : Mover) (va : Nat) : State :=
  let job := r.key / 65536
  let s := (s.setRemap (r.setMover { m with held := some va })).hwSend (s.faultSid job) 0x42 job (toW (r.key % 65536)) (toW va) 0 0
  s.due .remapGroupRetry { n := r.ticket, die := m.die, notBefore := s.clk + 1048576 }

/-- What a die's Marver may work on: remaps with a group to move there, a remap that is to end only up to its group's end. -/
def State.marverWork (s : State) (die : Nat) : List (Remap × Mover) :=
  s.remaps.filterMap fun r =>
    match r.movers.find? fun m => m.die == die with
    | none => none
    | some m =>
      if r.started && !r.stopped && m.held.isNone &&
          (m.phase != 0 || (!r.ended && ((s.objAt r.key).nextBrick r m).isSome)) then some (r, m) else none

/-- The remap a die's Marver serves: the one whose group it is moving, else the next in turn, one group each (R276). -/
def State.marverNext (s : State) (die : Nat) : Option (Remap × Mover) :=
  let l := s.marverWork die
  match l.find? fun x => x.2.phase != 0 with
  | some x => some x
  | none =>
    let last := (SMap.find die s.marvers).getD 0
    match l.find? fun x => decide (last < x.1.ticket) with
    | some x => some x
    | none => l.head?

/-- A group's done bits are set, and the pass may be over. -/
def State.groupDone (s : State) (r : Remap) (m : Mover) (g : List Nat) : State :=
  s.setRemap ({ r with done := r.done ++ g }.setMover m)

/-- REMAP_GROUP_MOVE: a die's Marver makes the next of the six moves of R273 on its group: it locks the bricks and reads them;
writes and persists the journal; writes the new contents and sets the done bits in one action, so that a read finds the old
contents until then; clears the journal, unlocks and advances the cursor. -/
def execRemapGroupMove (s : State) : Out :=
  let die := s.arg.die
  match s.marverNext die with
  | none => .next s
  | some (r, m) =>
    let o := s.objAt r.key
    match m.phase with
    | 0 =>
      match o.nextBrick r m with
      | none => .next s
      | some b =>
        let g := o.group b
        let past := { m with cursor := brickPlace b + 1 }
        let s := { s with marvers := SMap.put die r.ticket s.marvers }
        if !o.moves g then .next (s.groupDone r past g)
        else
          match s.groupWrites r.key o (g.flatMap o.brickBytes) with
          | .error va => .next (s.remapHeld r m va)
          | .ok ws =>
            let frames := rangesOf (ws.map fun x => x.1)
            if s.framesBusy frames then .next s
            else
              match ws.find? fun x => s.badAt x.1 with
              | some x => .next (s.remapError r x.1 x.2.2)
              | none => .next (s.setRemap (r.setMover { past with phase := 1, bricks := g, frames }))
    | 1 =>
      match s.groupWrites r.key o (m.bricks.flatMap o.brickBytes) with
      | .error _ => .next (s.setRemap (r.setMover { Mover.fresh die with cursor := m.cursor - 1 }))
      | .ok ws => .next (s.setRemap (r.setMover { m with phase := 2, journal := ws.map fun x => (x.1, s.mem.get x.2.1) }))
    | 2 =>
      if s.framesBusy m.frames then .next s
      else .next ((s.setCells m.journal).groupDone r { m with phase := 3 } m.bricks)
    | _ => .next (s.setRemap (r.setMover { Mover.fresh die with cursor := m.cursor }))

/-- Whether the current pass of a remap is over: every brick done, every Marver between groups, and the field table has room
for the call (R272). -/
def State.passOver (s : State) (r : Remap) : Bool :=
  r.started && !r.stopped && !r.ended && (r.movers.all fun m => m.phase == 0) && (s.objAt r.key).swept r && s.fieldRoom (r.key / 65536)

def Remap.lastPass (r : Remap) : Bool := decide (r.passes.length ≤ r.pass + 1)

/-- REMAP_PASS_END: OLDMAP := NEWMAP, NEWMAP and PASS advance, the bitmaps are cleared (R272, R273). -/
def execRemapPassEnd (s : State) : Out :=
  match s.ticket? s.arg.n with
  | none => .next s
  | some r =>
    if !s.passOver r || r.lastPass then .next s
    else
      let s := s.setRemap { r with pass := r.pass + 1, done := [], movers := r.movers.map fun m => Mover.fresh m.die }
      .next (s.logChange r.key 0 .sweep fun o =>
        let o := (o.setMapAt 19 (o.mapAt 25)).setMapAt 25 (r.mapAfter (r.pass + 1))
        o.setFld 31 40 8 (r.pass + 1))

/-- REMAP_COMMIT: MAP := NEWMAP, REMAP := 0, words 19 to 31 cleared, the area freed. -/
def execRemapCommit (s : State) : Out :=
  match s.ticket? s.arg.n with
  | none => .next s
  | some r =>
    if !s.passOver r || !r.lastPass then .next s
    else
      let s := s.logChange r.key 0 .sweep fun o =>
        ((o.setMapAt 1 (o.mapAt 25)).setFld 0 43 1 0).setFld 19 0 832 0
      .next (s.dropRemap r)

/-- REMAP_GROUP_RETRY: a Marver that is held tries its group again (R277). -/
def execRemapGroupRetry (s : State) : Out :=
  match s.ticket? s.arg.n with
  | none => .next s
  | some r =>
    match r.movers.find? fun m => m.die == s.arg.die with
    | none => .next s
    | some m => .next (s.setRemap (r.setMover { m with held := none }))

/-- After an XINV every held remap is tried at once. -/
def State.retryRemaps (s : State) : State :=
  { s with agenda := s.agenda.map fun (d : Due) =>
      if d.ev = .remapGroupRetry then { d with arg := { d.arg with notBefore := 0 } } else d }

/-- Each Marver resumes at its persisted cursor (R277): a group without a persisted journal is moved again from the start. -/
def Mover.resume (m : Mover) : Mover := if m.phase = 1 then { Mover.fresh m.die with cursor := m.cursor - 1 } else m

end Sys2Proof.Machine
end

