-- ==== Sys2Proof/Machine/Engine.lean ====
section
/-! DEFINITION. Accesses of engines: translated at supervisor level through the cache of their cluster (R189, R208),
written and logged as R137 and R289 say; elements of fields and of linear memory (R142, R196). -/

namespace Sys2Proof.Machine

open Sys2Proof.Num

/-- Why an engine's access fails: 1 an uncorrectable error, 6 an address that does not translate, 0 a dirty-page log is
full and the access waits; the element's virtual address; the physical address. -/
structure EngErr where
  status : Nat
  va : Nat
  pa : Nat
  deriving DecidableEq, Repr

abbrev EM := StateT State (Except EngErr)

def emFail {α : Type} (status va pa : Nat) : EM α := fun _ => .error { status, va, pa }

/-- One byte of a device translated for a cluster at supervisor level, with the right the access needs in its leaf (R282); va
is the element's address. -/
def engHit (cl job right va : Nat) (p : Nat × Nat) : EM Hit := fun s =>
  if p.1 = s.devNo then
    match s.lookup cl job p.2 with
    | none => .error { status := 6, va, pa := 0 }
    | some (t, s') =>
      if (bitsOf t.w0.toNat 5 2 &&& right) == right then .ok ({ loc := placeOf s.migs t p.2, w0 := t.w0 }, s')
      else .error { status := 6, va, pa := 0 }
  else .ok ({ loc := .remote p.1 p.2, w0 := 0 }, s)

def engFrom (cl job right va : Nat) : List (Nat × Nat) → EM (List Hit)
  | [] => pure []
  | p :: r => do
    let h ← engHit cl job right va p
    let t ← engFrom cl job right va r
    return h :: t

/-- The address of a list of bytes: its first. -/
def firstVa (ps : List (Nat × Nat)) : Nat := (ps.map Prod.snd).headD 0

/-- The bytes of one element translated; another device may refuse its own (R284). -/
def engHits (cl job right : Nat) (ps : List (Nat × Nat)) : EM (List Hit) := do
  let hs ← engFrom cl job right (firstVa ps) ps
  fun s =>
    if (hs.any fun h => h.away?.isSome) && Config.farRefuses s.ticks then .error { status := 6, va := firstVa ps, pa := 0 }
    else .ok (hs, s)

/-- The cells a write of a byte reaches: a byte of a mode-C page stands at the original and in the replica (R284). -/
def cellsOf (job : Nat) (h : Hit) : List Nat :=
  match h.loc with
  | .replica dev va pa => [remKey dev job va, pa]
  | .group _ _ => []
  | _ => [cellOf job h]

def engRead (cl job : Nat) (ps : List (Nat × Nat)) : EM (List Byte) := do
  let hs ← engHits cl job rR ps
  fun s =>
    if !hs.all Hit.readable then .error { status := 6, va := firstVa ps, pa := 0 }
    else
      let s := hs.foldl (fetchHit job) s
      let ks := hs.map (cellOf job)
      match ks.find? s.badAt with
      | some k => .error { status := 1, va := firstVa ps, pa := k }
      | none => .ok (s.mem.getAll ks, s.counted hs)

/-- The page of an engine's write logged once per cached translation, in the log of a compute core of its cluster. -/
def engLog (cl job va : Nat) : EM Unit := fun s =>
  match s.tlb.find? fun t => t.covers cl job va with
  | none => .ok ((), s)
  | some t =>
    if t.logged then .ok ((), s)
    else
      match s.appendLog (cl * 32 + bitsOf va 16 4) job va with
      | none => .error { status := 0, va, pa := 0 }
      | some s' => .ok ((), { s' with tlb := s'.tlb.map (Tr.mark cl job va) })

def engLogs (cl job : Nat) : List (Nat × Nat) → EM Unit
  | [] => pure ()
  | p :: r => do
    engLog cl job p.2
    engLogs cl job r

/-- A write to another device or a multicast group put on the fabric (R301). -/
def State.farWrite (s : State) (job : Nat) (hs : List Hit) (bs : List Byte) : State :=
  match hs.findSome? Hit.away? with
  | none => s
  | some (dev, va) =>
    let p : Packet := { dev, job, kind := 0, a := va, b := 0, bytes := bs }
    let s := { s with fabric := { s.fabric with out := s.fabric.out ++ [p] } }
    if 0xF000 ≤ dev then s.toGroup (dev - 0xF000) job va 1 bs else s

/-- Bytes of one element written in one access; an element in a granule in error is left unchanged and reported, one in a
brick the Marver has locked waits (R151, R275). -/
def engWrite (cl job : Nat) (ps : List (Nat × Nat)) (bs : List Byte) : EM (Option EngErr) := do
  let hs ← engHits cl job rW ps
  engLogs cl job ps
  fun s =>
    let cs := (hs.zip bs).flatMap fun x => (cellsOf job x.1).map fun k => (k, x.2)
    if cs.any fun c => s.locked c.1 then .error { status := 0, va := firstVa ps, pa := 0 }
    else
      match cs.find? fun c => s.badAt c.1 with
      | some c => .ok (some { status := 1, va := firstVa ps, pa := c.1 }, s)
      | none =>
        .ok (none, ((s.setCells cs).farWrite job hs bs).counted hs)

/-- Consecutive bytes of this device's virtual memory. -/
def State.line (s : State) (va n : Nat) : List (Nat × Nat) := (List.range n).map fun i => (s.devNo, (va + i) % 2 ^ 56)

/-! Units without a strand: launch units, collective engines and network interfaces work through a cluster's cache and logs
(log 12). -/

/-- n bytes of a job's virtual memory read for a cluster. -/
def State.unitRead (s : State) (cl job va n : Nat) : Except EngErr (List Byte × State) := engRead cl job (s.line va n) s

/-- The same in k pieces of n bytes each: the first one that fails tells where. -/
def State.unitPieces (s : State) (cl job n : Nat) : Nat → Nat → Except EngErr (List Byte × State)
  | 0, _ => .ok ([], s)
  | k + 1, va =>
    match s.unitRead cl job va n with
    | .error e => .error e
    | .ok (bs, t) =>
      match t.unitPieces cl job n k ((va + n) % 2 ^ 56) with
      | .error e => .error e
      | .ok (r, u) => .ok (bs ++ r, u)

/-- A number added to a word (R240, R303, R310): an engine write in this device's memory, a SIG elsewhere (R323). -/
def engAdd (cl job va n : Nat) : EM (Option EngErr) := do
  let s ← get
  let ps := s.line va 8
  let hs ← engHits cl job rW ps
  if hs.all Hit.isCell then
    fun s => engWrite cl job ps (leBytes 8 (leNat (s.mem.getAll (hs.map (cellOf job))) + n)) s
  else do
    engLogs cl job ps
    fun s =>
      let ks := hs.map (cellsOf job)
      let new := leBytes 8 (leNat (s.mem.getAll (ks.filterMap List.head?)) + n)
      match hs.findSome? Hit.away? with
      | none => .ok (none, s)
      | some (dev, va) =>
        let s := s.setCells ((ks.zip new).flatMap fun x => x.1.map fun k => (k, x.2))
        let p : Packet := { dev, job, kind := 1, a := va, b := 0, bytes := leBytes 8 n }
        let s := { s with fabric := { s.fabric with out := s.fabric.out ++ [p] } }
        .ok (none, (if 0xF000 ≤ dev then s.toGroup (dev - 0xF000) job va 2 (leBytes 8 n) else s).counted hs)

/-- An addition made now, or kept until the log of its page has room and its brick is free; one that cannot be made leaves
everything as it is. -/
def State.addWord (s : State) (cl job va n : Nat) : State :=
  match engAdd cl job va n s with
  | .ok (none, t) => t
  | .ok (some e, t) => t.logError e.pa
  | .error e => if e.status = 0 then { s with fabric := { s.fabric with adds := s.fabric.adds ++ [(cl, job, va, n)] } } else s

/-- The additions that wait tried again. -/
def State.retryAdds (s : State) : State :=
  s.fabric.adds.foldl (fun s a => s.addWord a.1 a.2.1 a.2.2.1 a.2.2.2) { s with fabric := { s.fabric with adds := [] } }

/-! Elements of fields. -/

/-- The code of an element over all its planes. -/
def engCode (cl : Nat) (f : View) (idx : Nat) : EM Nat := do
  let s ← get
  let bs ← engRead cl (f.key / 65536) (s.elemBytes f f.o.planes idx)
  return f.o.code (s.spot f idx).loc bs

/-- The full value of an element; padding reads +0, with no access (R141, R167). -/
def engValue (cl : Nat) (f : View) (idx : Nat) : EM (List FV) :=
  if f.o.isPad idx then
    pure (if isCplxF f.o.fmt then [.fin false 0 0, .fin false 0 0] else [.fin false 0 0])
  else do
    let c ← engCode cl f idx
    return partsOf f.o.fmt f.o.planes c

/-- Bytes of the leading planes of an element written; a write to padding is discarded. -/
def engBytes (cl : Nat) (f : View) (idx : Nat) (bs : List Byte) : EM (Option EngErr) :=
  if f.o.isPad idx then pure none
  else do
    let s ← get
    engWrite cl (f.key / 65536) (s.elemBytes f bs.length idx) bs

/-- write_y of R167. -/
def engPut (cl : Nat) (f : View) (idx : Nat) (sat : Bool) (vs : List FV) : EM (Option EngErr) :=
  engBytes cl f idx (f.o.codeBytes (codeOf f.o.fmt f.o.planes .rne sat vs))

/-- An element's work tried: an error that only spoils the element is noted, the first one kept; a full dirty-page log
stops the whole unit. -/
def attempt (first : Option EngErr) (x : EM (Option EngErr)) : EM (Option EngErr) := fun s =>
  match x s with
  | .ok (e, s') => .ok (if first.isSome then first else e, s')
  | .error e => if e.status = 0 then .error e else .ok (if first.isSome then first else some e, s)

/-- Bytes that n elements take (R176). -/
def Obj.bytesFor (o : Obj) (n : Nat) : Nat :=
  if isChain o.fmt then n * o.planes else if isQ4 o.fmt then ceilDiv (n * 9) 16 else n * fmtSize o.fmt

/-! Which release a command is (R344): of span scope when it reaches another device. -/

/-- Whether the page of a virtual address lies on another device. -/
def State.farPage (s : State) (job va : Nat) : Bool :=
  match s.walk job va with
  | some (_, _, w0, _) => bitsOf w0 48 16 != 0xFFFF
  | none => false
def State.farRange (s : State) (job va n : Nat) : Bool :=
  (List.range (ceilDiv n 65536 + 1)).any fun i => decide (0 < n) && s.farPage job ((va + Min.min (i * 65536) (n - 1)) % 2 ^ 56)
/-- Whether a field has elements on another device. -/
def State.farField (s : State) (key : Nat) : Bool :=
  let o := s.objAt key
  o.kind == 1 && (o.bitsV != 0 || (List.range (2 ^ o.bitsD)).any fun v => s.farRange (key / 65536) (o.base v) o.portion)

/-- The issue of an engine command (R344): a release of the earlier accesses of the strand. -/
def issueFor (far : Bool) : M Unit := if far then releasedSpan else released

/-! Elements counted, for costs (R176, R193, R204). -/

/-- Values below a bound of n bits from a first one on, some bits of an index fixed. -/
def countBelow (fixed : Nat → Option Bool) (lo : Nat) : Nat → Nat → Nat
  | 0, b => if b = 0 then 0 else 1
  | n + 1, b =>
    if b = 0 then 0
    else if 2 ^ (n + 1) ≤ b then 2 ^ ((List.range (n + 1)).filter fun i => (fixed (lo + i)).isNone).length
    else (if fixed (lo + n) = some true then 0 else countBelow fixed lo n (Min.min b (2 ^ n))) +
      (if fixed (lo + n) = some false then 0 else countBelow fixed lo n (b - 2 ^ n))

/-- Elements of a field with some bits fixed: all of them, and those that are no padding. -/
def Obj.countOf (o : Obj) (fx : List (Nat × Bool)) : Nat × Nat :=
  if fx.any fun x => fx.contains (x.1, !x.2) then (0, 0)
  else
    let fixed (i : Nat) : Option Bool := (fx.find? fun x => x.1 == i).map Prod.snd
    let used := (List.range 4).filter fun i => o.fld (7 + i) 6 6 != 0
    let inAxes (b : Nat) : Bool := used.any fun i => decide (o.fld (7 + i) 0 6 ≤ b) && decide (b < o.fld (7 + i) 0 6 + o.fld (7 + i) 6 6)
    let open_ := (List.range o.bitsN).filter fun b => (fixed b).isNone
    let axes := used.map fun i => countBelow fixed (o.fld (7 + i) 0 6) (o.fld (7 + i) 6 6) (o.fld (7 + i) 12 48)
    (2 ^ open_.length, axes.foldl (· * ·) (2 ^ (open_.filter fun b => !inAxes b).length))

/-- Bits of a list fixed to the value they are to spell. -/
def fixBits (l : List Nat) (v : Nat) : List (Nat × Bool) := (List.range l.length).zipWith (fun i b => (b, nbit v i)) l

/-- Unloaded latency of a cell from a die (Table 7.4). -/
def cellLatency (die k : Nat) : Nat :=
  if 2 ^ 60 ≤ k then Config.farLatency ((k - 2 ^ 60) / 2 ^ 72)
  else if nbit k 47 then 450
  else 150 + 20 * ringHops die (bitsOf k 37 3)

end Sys2Proof.Machine
end

