-- ==== Sys2Proof/Machine/OpArith.lean ====
section
/-! DEFINITION. What operator commands compute (09_operator_apply, 10_operator_store_and_phase): products and sum trees
(R55, R56), operator-store slots (R179), and the work of one unit of each command. A unit is one batch value of APPLY
and APPLYC, one element of PHASE and DSCALE, one output of REDB and MAXB, one matrix row of OPLD and OPGEN (log 19). -/

namespace Sys2Proof.Machine

open Sys2Proof.Num

def zeroV : FV := .fin false 0 0

/-- product32 (R56): each part exact, rounded once. -/
def product32 (a b : List FV) : List Half :=
  match a, b with
  | [x, y], [u, v] => [to32 ((x.mul u).add (y.mul v).neg), to32 ((x.mul v).add (y.mul u))]
  | [x], [u, v] => [to32 (x.mul u), to32 (x.mul v)]
  | [x, y], [u] => [to32 (x.mul u), to32 (y.mul u)]
  | [x], [u] => [to32 (x.mul u)]
  | _, _ => [0]

/-- sum_tree over terms of one or two parts (R55, R56). -/
def sumTerms (n : Nat) (ts : List (List Half)) : List Half :=
  let re := sumTree add32 0 n (ts.map fun t => t.getD 0 0)
  if (ts.headD []).length = 2 then [re, sumTree add32 0 n (ts.map fun t => t.getD 1 0)] else [re]

/-- Y_old added on the left (R56); a real result has an imaginary part of +0. -/
def accumulate (old : List FV) (r : List Half) : List Half :=
  (List.range old.length).map fun i => add32 (to32 (old.getD i zeroV)) (r.getD i 0)

/-! Slots (R179, Table 10.2). -/

def slotCplx (f : Nat) : Bool := f == 7 || f == 8
def slotsPer (f : Nat) : Nat := if f = 6 ∨ f = 7 then 2 else if f = 8 then 4 else 1
/-- The number format of one part of an entry. -/
def slotNF (f : Nat) : NFmt :=
  match f with
  | 2 => .flt e4m3 | 3 => .flt e5m2 | 4 => .flt fp16 | 5 => .flt bf16 | 7 => .flt fp16 | _ => .flt fp32
def slotBits (f : Nat) : Nat := if f = 7 then 16 else 32

def slotNo (cl slot : Nat) : Nat := 1024 * cl + slot
def State.tag (s : State) (cl slot : Nat) : Nat := (SMap.find (slotNo cl slot) s.engines.tags).getD 0
/-- The cell that stands for a slot in the list of errors. -/
def slotKey (cl slot : Nat) : Nat := 2 ^ 100 + 32 * slotNo cl slot

/-- An entry of the matrix at a first slot, in a format; one last written in another reads as a free value. -/
def State.entry (s : State) (cl slot f j i : Nat) : Nat :=
  match SMap.find (256 * slotNo cl slot + j) s.engines.rows with
  | none => Config.slotEntry cl slot j i
  | some (g, l) => if g = f ∨ g = 0 then l.getD i 0 else Config.slotEntry cl slot j i

def entryVal (f code : Nat) : List FV :=
  if f = 1 then [q4Val (code % 16) (code / 16)]
  else if slotCplx f then [valOf (slotNF f) (code % 2 ^ slotBits f), valOf (slotNF f) (code / 2 ^ slotBits f)]
  else [valOf (slotNF f) code]

/-- The code of an entry from exact parts; a real value has an imaginary part of +0. -/
def entryCode (f : Nat) (sat : Bool) (vs : List FV) : Nat :=
  let x := fromVal (slotNF f) .rne sat (vs.headD zeroV)
  if slotCplx f then x + fromVal (slotNF f) .rne sat (vs.getD 1 zeroV) * 2 ^ slotBits f else x

/-- A row written: the same row of a matrix that shares a slot and starts elsewhere is gone. -/
def State.setRow (s : State) (cl slot j f : Nat) (l : List Nat) : State :=
  let lo := slotNo cl slot
  let clash (r : Nat × Nat × List Nat) : Bool :=
    let at_ := r.1 / 256
    r.1 % 256 == j && at_ != lo && decide (at_ < lo + slotsPer f) && decide (lo < at_ + slotsPer r.2.1)
  { s with engines := { s.engines with rows := SMap.put (256 * lo + j) (f, l) (s.engines.rows.filter fun r => !clash r) } }

/-- Tags of the spm slots of 2^x matrices from a first slot. -/
def State.setTags (s : State) (cl s0 f n : Nat) : State :=
  { s with engines := { s.engines with tags := (List.range n).foldl (fun t i =>
      SMap.put (slotNo cl (s0 + i)) (if f = 0 then 0 else f * 4 + i % slotsPer f) t) s.engines.tags } }

/-- A slot write invalidates the matrix buffers that hold one of its slots (R192). -/
def State.dropBufs (s : State) (cl s0 n : Nat) : State :=
  { s with engines := { s.engines with bufs := s.engines.bufs.filter fun b =>
      !(b.1 == cl && decide (b.2.1 < s0 + n) && decide (s0 < b.2.1 + b.2.2)) } }

/-- A matrix used by a command stands in a buffer, the one used less recently gives way (R156). -/
def useBuf (b : Nat × Nat × Nat) (l : List (Nat × Nat × Nat)) : List (Nat × Nat × Nat) :=
  let rest := l.filter fun x => x != b
  b :: (rest.filter (fun x => x.1 != b.1) ++ (rest.filter fun x => x.1 == b.1).take 1)

/-! Elements of a command. -/

/-- Bits of a field that are in none of some lists, ascending. -/
def restBits (n : Nat) (l : List Nat) : List Nat := (List.range n).filter fun i => !l.contains i

/-- The part rule (R167): e4 names bits, e5 their value. -/
def Cmd.selected (c : Cmd) (idx : Nat) : Bool :=
  spelled idx (listOf c.e[4]) == wbits c.e[5] 0 4 % 2 ^ listCount c.e[4]

/-- A field as a command sees it: as its die does, for a command of its place in the order of acceptance (R172). -/
def State.opView (s : State) (c : Cmd) (key : Nat) : View := s.viewOn c.die (some c.seq) key

/-- Whether the holder that issued a command computes an element of Y (R173). -/
def State.mine (s : State) (c : Cmd) (f : View) (idx : Nat) : Bool :=
  if f.o.bitsD + f.o.bitsV = 0 then true
  else
    let x := s.spot f idx
    x.v == c.die && s.holder c.job f.o x.w == s.devNo

/-- sat_y (R167). -/
def satY (c : Cmd) (o : Obj) : Bool := c.sat || (isChain o.fmt && o.fsat)

/-- Several elements read. -/
def readAll (cl : Nat) (f : View) : List Nat → EM (List (List FV))
  | [] => pure []
  | i :: r => do
    let v ← engValue cl f i
    let t ← readAll cl f r
    return v :: t

/-- What one unit of a command finds: the first error that spoils an element, and the elements to be written. The writes
are accesses of their own, after the reads (R169, R175). -/
structure Work where
  err : Option EngErr := none
  puts : List (Nat × Nat × List Byte) := []
  deriving DecidableEq, Repr

def Work.note (w : Work) (e : Option EngErr) : Work := { w with err := if w.err.isSome then w.err else e }

/-- The work on one output: an error leaves that output unwritten, and the rest goes on (R191). -/
def Work.add (w : Work) (x : EM (List (Nat × Nat × List Byte))) : EM Work := fun s =>
  match x s with
  | .ok (ps, s') => .ok ({ w with puts := w.puts ++ ps }, s')
  | .error e => if e.status = 0 then .error e else .ok (w.note (some e), s)

/-- An element of Y to be written. -/
def yPut (y : View) (idx : Nat) (sat : Bool) (vs : List FV) : List (Nat × Nat × List Byte) :=
  if y.o.isPad idx then [] else [(0, idx, y.o.codeBytes (codeOf y.o.fmt y.o.planes .rne sat vs))]

/-- A result of one element: Y_old is read and added under acc. -/
def result (c : Cmd) (y : View) (idx : Nat) (r : List Half) : EM (List (Nat × Nat × List Byte)) := do
  let r ← if c.acc then do
      let old ← engValue c.cl y idx
      pure (accumulate old r)
    else pure r
  return yPut y idx (satY c y.o) (r.map val32)

/-! APPLY and APPLYC (R167, R170). -/

/-- Whether an uncorrectable error stands in a slot of a command's matrices. -/
def badSlot (s : State) (cl s0 n : Nat) : Option Nat :=
  ((List.range n).map (s0 + ·)).find? fun i => s.badAt (slotKey cl i)

/-- The control pattern of APPLYC matches an index of X. -/
def Cmd.matched (c : Cmd) (idx : Nat) : Bool :=
  spelled idx (listOf c.e[2]) == wbits c.e[3] 0 10 % 2 ^ listCount c.e[2]

/-- The slot format of a command's matrices, as its tags stood at acceptance. -/
def Cmd.slotFmt (c : Cmd) : Nat := c.tags.headD 0 / 4

/-- The outputs of one batch value, in order of j. -/
def outputs (c : Cmd) (y : View) (yi : Nat) (f : Nat → EM (List (Nat × Nat × List Byte))) : List Nat → Work → EM Work
  | [], w => pure w
  | j :: r, w => do
    let s ← get
    let w ← if s.mine c y (spell yi (listOf c.c) j) then w.add (f j) else pure w
    outputs c y yi f r w

def applyUnit (c : Cmd) (beta : Nat) : EM Work := fun s =>
  let x := s.opView c c.xKey
  let y := s.opView c c.yKey
  let la := listOf c.b
  let lc := listOf c.c
  let ls := listOf c.e[0]
  let k := la.length
  let xi := spell 0 (restBits x.o.bitsN (la ++ ls)) beta
  let yi := spell 0 (restBits y.o.bitsN lc) beta
  let js := List.range (2 ^ lc.length)
  let f := c.slotFmt
  if !c.selected yi || !(js.any fun j => s.mine c y (spell yi lc j)) then .ok ({}, s)
  else if c.op == 1 && !c.matched xi then
    -- an unmatched batch value of APPLYC copies X to Y
    if c.acc || c.xh == c.yh then .ok ({}, s)
    else outputs c y yi (fun j => do
      let v ← engValue c.cl x (spell xi la j)
      return yPut y (spell yi lc j) (satY c y.o) v) js {} s
  else
    match readAll c.cl x ((List.range (2 ^ (k + ls.length))).map fun t => spell (spell xi la (t % 2 ^ k)) ls (t / 2 ^ k)) s with
    | .error e => if e.status = 0 then .error e else .ok ({ err := some e }, s)
    | .ok (xs, s) => outputs c y yi (fun j => do
        let s ← get
        result c y (spell yi lc j) (sumTerms (k + ls.length) ((List.range xs.length).map fun t =>
          product32 (entryVal f (s.entry c.cl (c.hi + t / 2 ^ k * slotsPer f) f j (t % 2 ^ k))) (xs.getD t [])))) js {} s

/-! PHASE (R184). -/

/-- cos or sin of an exact number of turns, rounded to FP32; a zero is +0. -/
def turnPart (sine : Bool) (v : FV) : FV :=
  match (if sine then sinF v else cosF v) with
  | .nan _ => .nan false
  | r =>
    match val32 (to32 r) with
    | .fin s m e => if m = 0 then zeroV else .fin s m e
    | x => x

def phaseUnit (c : Cmd) (idx : Nat) : EM Work := do
  let s ← get
  let x := s.opView c c.xKey
  let y := s.opView c c.yKey
  if !c.selected idx || !s.mine c y idx || y.o.isPad idx || x.o.isPad idx then pure {}
  else
    let q := wbits c.a 32 5
    let u := spelled idx (listOf c.b)
    let v := spelled idx (listOf c.c)
    let phi := val32 (c.e[0].setWidth 32)
    let hit := spelled idx (listOf c.e[2]) == wbits c.e[3] 0 10 % 2 ^ listCount c.e[2]
    let frac : FV := .fin false (u * v % 2 ^ q) (-(q : Int))
    -- phi * match: an infinite or NaN phi makes theta NaN whatever match is
    let th := (match phi with
      | .fin _ _ _ => if hit then phi else zeroV
      | _ => .nan false).add frac
    let th := if c.a.getLsbD 40 then th.neg else th
    let co := turnPart false th
    let si := turnPart true th
    Work.add {} (do
      let a ← engValue c.cl x idx
      let ar := a.getD 0 zeroV
      let ai := a.getD 1 zeroV
      return yPut y idx (isChain y.o.fmt && y.o.fsat) [(ar.mul co).add (ai.mul si).neg, (ar.mul si).add (ai.mul co)])

/-! DSCALE, REDB and MAXB (R185-R187). -/

def dscaleUnit (c : Cmd) (idx : Nat) : EM Work := do
  let s ← get
  let x := s.opView c c.xKey
  let y := s.opView c c.yKey
  let z := s.opView c c.hiKey
  if !c.selected idx || !s.mine c y idx then pure {}
  else Work.add {} (do
    let zv ← engValue c.cl z (spelled idx (restBits x.o.bitsN (listOf c.b)))
    let xv ← engValue c.cl x idx
    result c y idx (product32 zv xv))

/-- X indices of one output. -/
def redIndices (c : Cmd) (x : Obj) (beta : Nat) : List Nat :=
  let l := listOf c.b
  let base := spell 0 (restBits x.bitsN l) beta
  (List.range (2 ^ l.length)).map (spell base l)

def redbUnit (c : Cmd) (beta : Nat) : EM Work := do
  let s ← get
  let x := s.opView c c.xKey
  let y := s.opView c c.yKey
  if !c.selected beta || !s.mine c y beta then pure {}
  else Work.add {} (do
    let vs ← readAll c.cl x (redIndices c x.o beta)
    result c y beta (sumTerms (listCount c.b) (vs.map fun v => v.map to32)))

/-- The highest value and its place, lowest place among equals (R59). -/
def highest : List (Nat × Half) → Option (Nat × Half)
  | [] => none
  | x :: r =>
    match highest r with
    | none => some x
    | some y => if rank32 x.2 < rank32 y.2 then some y else some x

/-- An element converted to FP32, a NaN to a canonical one of its sign (R53, R187). -/
def widen (v : List FV) : Half := BitVec.ofNat 32 (fp32Code (v.headD zeroV))

/-- MAXB: the maximum for Y and its place for I; an error leaves both elements unwritten (R191). -/
def maxbUnit (c : Cmd) (beta : Nat) : EM Work := do
  let s ← get
  let x := s.opView c c.xKey
  let y := s.opView c c.yKey
  let i := s.opView c c.hiKey
  if !c.selected beta || !s.mine c y beta then pure {}
  else Work.add {} (do
    let is := redIndices c x.o beta
    let cand := ((List.range is.length).zip is).filter fun t => !x.o.isPad t.2
    let vs ← readAll c.cl x (cand.map Prod.snd)
    let best := (highest ((cand.map Prod.fst).zip (vs.map widen))).getD (0, 0xFF800000#32)
    let one := yPut y beta (isChain y.o.fmt && y.o.fsat) [val32 best.2]
    return one ++ (if c.hi = 0 || i.o.isPad beta then []
      else [(1, beta, i.o.codeBytes (conv (.int false 64) (partFmt i.o.fmt 0) .rz false best.1))]))

/-! OPLD and OPGEN (R182, R183). -/

/-- One row of one matrix: matrix u, row j. -/
def opldUnit (c : Cmd) (n : Nat) : EM Work := do
  let s ← get
  let v := s.opView c c.xKey
  let f := wbits c.a 16 4
  let u := n / 256
  let j := n % 256
  let slot := c.hi + u * slotsPer f
  if 2 ^ listCount c.b ≤ j then fun s => .ok ({}, s.setRow c.cl slot j f [])
  else
    let base := spell (spell (c.e[2].toNat) (listOf c.b) j) (listOf c.e[0]) u
    let one (i : Nat) : EM Nat :=
      let idx := spell base (listOf c.c) i
      if f = 1 then (if v.o.isPad idx then pure 0 else engCode c.cl v idx)
      else do
        let x ← engValue c.cl v idx
        pure (entryCode f c.sat x)
    fun s =>
      match (List.range (2 ^ listCount c.c)).mapM one s with
      | .error e => if e.status = 0 then .error e else .ok ({ err := some e }, s)
      | .ok (row, s) => .ok ({}, s.setRow c.cl slot j f row)

/-- An entry of a generated matrix of order n (Table 10.4). -/
def genEntry (gen f n j i : Nat) : Nat :=
  let pm (neg : Bool) : Nat :=
    if f = 1 then (if neg then 10 else 2) + 0x7F00 * 16 else entryCode f false [.fin neg 1 0]
  let z0 := if f = 1 then 0x7F00 * 16 else 0
  let turns (neg : Bool) : FV := .fin neg (i * j % n) (-(n.log2 : Int))
  let part (v : FV) : FV :=
    match v with
    | .fin s m e => if m = 0 then zeroV else .fin s m e
    | x => x
  match gen with
  | 0 => if i = j then pm false else z0
  | 1 => pm ((BitVec.ofNat 8 (i &&& j)).cpop.toNat % 2 == 1)
  | 2 => entryCode f false [part (cosF (turns true)), part (sinF (turns true))]
  | 3 => entryCode f false [part (cosF (turns false)), part (sinF (turns false))]
  | _ => pm (i == 1 && j == 1)

def opgenUnit (c : Cmd) (n : Nat) : EM Work := fun s =>
  let gen := wbits c.a 0 4
  let f := wbits c.a 8 4
  if gen = 5 then .ok ({}, (List.range 256).foldl (fun s j => s.setRow c.cl (c.hi + n) j 0 []) s)
  else
    let order := 2 ^ wbits c.a 4 4
    let row := if n < order then (List.range order).map (genEntry gen f order n) else []
    .ok ({}, s.setRow c.cl c.hi n f row)

/-! Units of a command. -/

def Cmd.units (s : State) (c : Cmd) : Nat :=
  let y := (s.opView c c.yKey).o
  match c.op with
  | 0 | 1 => 2 ^ (y.bitsN - listCount c.c)
  | 2 | 3 | 4 | 5 => 2 ^ y.bitsN
  | 6 => 2 ^ listCount c.e[0] * 256
  | _ => if wbits c.a 0 4 = 5 then wbits c.a 16 16 else 256

/-- What a unit reads and computes; OPLD and OPGEN write their rows. -/
def Cmd.unit (c : Cmd) (n : Nat) : EM Work :=
  match c.op with
  | 0 | 1 => applyUnit c n
  | 2 => phaseUnit c n
  | 3 => dscaleUnit c n
  | 4 => redbUnit c n
  | 5 => maxbUnit c n
  | 6 => opldUnit c n
  | _ => opgenUnit c n

/-- What a unit writes: each element in one access. -/
def Cmd.write (c : Cmd) : List (Nat × Nat × List Byte) → Option EngErr → EM (Option EngErr)
  | [], e => pure e
  | p :: r, e => do
    let s ← get
    let e ← attempt e (engBytes c.cl (s.opView c (if p.1 = 0 then c.yKey else c.hiKey)) p.2.1 p.2.2)
    c.write r e

/-- The slots a command reads from its first slot on (APPLY and APPLYC). -/
def Cmd.readSlots (s : State) (c : Cmd) : Nat :=
  if c.op ≤ 1 then slotsPer (s.tag c.cl c.hi / 4) * 2 ^ listCount c.e[0] else 0

/-- The fields of a command can be reached: its die is included in the job's field table (R258). -/
def State.fieldsReady (s : State) (c : Cmd) : Bool := c.fields.isEmpty || !s.fieldOff c.job c.die

end Sys2Proof.Machine
end

