-- ==== Sys2Proof/Machine/Operator.lean ====
section
/-! DEFINITION. The operator sequencer (R158-R166, R171, R176, R180, R181, R188-R194): acceptance with its checks, the
remap decision and the promise; start, running and retirement of commands; OPWAIT. -/

namespace Sys2Proof.Machine

open Sys2Proof.Num

/-! Checks at acceptance (R166, R181). -/

/-- A field named by a handle of a command word; tval is the handle. -/
def opField (h : Nat) (right : Right) : M Obj := do
  let s ← get
  useHandle s.me.job.toNat h 1 right (toW h)

/-- Y: the write right, and the read right under acc. -/
def opY (c : Cmd) : M Obj := do
  let y ← opField c.yh .write
  if c.acc then opField c.yh .read else pure y

/-- Formats refused for X, and for Y. -/
def badX (f : Nat) : Bool := [1, 2, 3, 5, 6, 7, 13, 19].contains f
def badY (f : Nat) : Bool := [3, 7, 13, 18, 19].contains f

def fmtFault {α : Type} (h : Nat) : M α := opFault 4 (toW h)

/-- A list word valid against n bits with its own limit. -/
def opList (v : Word) (n lim : Nat) : M (List Nat) :=
  if listOk v n lim then pure (listOf v) else opFault 6 v

/-- The slot range of check 3: one format, parts in order, none empty. -/
def slotRange (s : State) (cl s0 mats : Nat) : Option Nat :=
  let f := s.tag cl s0 / 4
  let n := slotsPer f * mats
  if s0 < 768 && f != 0 && decide (s0 + n ≤ 768) &&
      (List.range n).all (fun i => s.tag cl (s0 + i) == f * 4 + i % slotsPer f) then some f else none

/-- Check 7: a predecessor equal to the command's own id. -/
def Cmd.predIds (c : Cmd) : List Nat :=
  ((if c.e[1].getLsbD 16 then [wbits c.e[1] 0 8] else []) ++ (if c.e[1].getLsbD 17 then [wbits c.e[1] 8 8] else [])).eraseDups
def opPred (c : Cmd) : M Unit := need (!c.predIds.contains c.id) (opFault 0 c.e[1])

/-- What acceptance finds: bits that need the local class and bits that may give way, per field; the bits that fix which
elements are selected, per field; the cost of slots; slots written. -/
structure Plan where
  needs : List (Nat × List Nat × List Nat) := []
  tslot : Nat := 0
  writes : Option (Nat × Nat) := none
  deriving DecidableEq, Repr

/-- Size classes of R157; 100 and 200 stand for complex 16 and 32. -/
def fieldClass (o : Obj) : Nat :=
  if isChain o.fmt then (if o.planes = 1 then 8 else if o.planes = 2 then 16 else 32)
  else
    match o.fmt with
    | 18 => 4 | 14 => 100 | 15 => 200 | 0 | 4 | 8 | 9 => 8 | 10 | 11 => 16 | _ => 32
def slotClass (f : Nat) : Nat :=
  match f with
  | 1 => 4 | 2 | 3 => 8 | 4 | 5 => 16 | 6 => 32 | 7 => 100 | _ => 200

/-- 16 times the products per cell per cycle (Table 9.1). -/
def rho16 (a b : Nat) : Nat :=
  let hi := Max.max a b
  if hi = 200 ∨ (100 ≤ hi ∧ (a = 32 ∨ b = 32)) then 1
  else if 100 ≤ hi ∨ hi = 32 then 4
  else if hi = 4 then 64
  else if hi ≤ 8 then 32
  else 16

/-- Cycles of the matrices not in a buffer. -/
def State.loadCycles (s : State) (cl s0 spm mats : Nat) : Nat :=
  64 * spm * ((List.range mats).filter fun u => !s.engines.bufs.contains (cl, s0 + u * spm, spm)).length

/-- The checks of R166 in their order. Within check 4 the words come in the order of Table 9.3, the part list's batch bits
before the entries A and S share, which are reported as S's word; APPLYC's own checks follow it, a k that differs from m being
reported as C's word (log 85). -/
def planApply (c : Cmd) : M Plan := do
  let x ← opField c.xh .apply
  let y ← opY c
  need (!badX x.fmt) (fmtFault c.xh)
  need (!badY y.fmt && (!isCplxF x.fmt || isCplxF y.fmt)) (fmtFault c.yh)
  let s ← get
  match slotRange s c.cl c.hi (2 ^ listCount c.e[0]) with
  | none => opFault 0 c.a
  | some f => do
    need (!slotCplx f || isCplxF y.fmt) (fmtFault c.yh)
    let la ← opList c.b x.bitsN 8
    let lc ← opList c.c y.bitsN 8
    let ls ← opList c.e[0] x.bitsN 8
    let lp ← opList c.e[4] y.bitsN 4
    need (lp.all fun i => !lc.contains i) (opFault 6 c.e[4])
    need (la.all fun i => !ls.contains i) (opFault 6 c.e[0])
    if c.op = 1 then do
      let lk ← opList c.e[2] x.bitsN 10
      need (lk.all fun i => !(la ++ ls).contains i) (opFault 6 c.e[2])
      need (la.length == lc.length) (opFault 6 c.c)
      need ls.isEmpty (opFault 6 c.e[0])
    need (x.bitsN + lc.length == y.bitsN + la.length + ls.length) (opFault 2 c.c)
    need (c.xh != c.yh || (lc == la && ls.isEmpty)) (opFault 0 c.c)
    opPred c
    return {
      needs := (c.xKey, la ++ ls, restBits x.bitsN (la ++ ls)) ::
        (if c.xh = c.yh then [] else [(c.yKey, lc, restBits y.bitsN lc)])
      tslot := s.loadCycles c.cl c.hi (slotsPer f) (2 ^ ls.length) }

/-- The part list of PHASE, DSCALE, REDB and MAXB. -/
def partList (c : Cmd) (y : Obj) : M (List Nat) := opList c.e[4] y.bitsN 4

def planPhase (c : Cmd) : M Plan := do
  let x ← opField c.xh .apply
  let y ← opY c
  need (isCplxF x.fmt) (fmtFault c.xh)
  need (isCplxF y.fmt) (fmtFault c.yh)
  need (wbits c.a 37 3 == 0 && wbits c.a 41 7 == 0 && decide (wbits c.a 32 5 ≤ 24)) (opFault 0 c.a)
  let lu ← opList c.b x.bitsN 10
  let lv ← opList c.c x.bitsN 10
  let _ ← opList c.e[2] x.bitsN 10
  let _ ← partList c y
  need (x.bitsN == y.bitsN) (opFault 2 c.a)
  opPred c
  let bits := (lu ++ lv).eraseDups
  return {
    needs := (c.xKey, bits, restBits x.bitsN bits) :: (if c.xh = c.yh then [] else [(c.yKey, bits, restBits y.bitsN bits)]) }

def planDscale (c : Cmd) : M Plan := do
  let x ← opField c.xh .apply
  let y ← opY c
  let z ← opField c.hi .apply
  need (!badX x.fmt) (fmtFault c.xh)
  need (!badY y.fmt && (!(isCplxF x.fmt || isCplxF z.fmt) || isCplxF y.fmt)) (fmtFault c.yh)
  need (!badX z.fmt) (fmtFault c.hi)
  let lb ← opList c.b x.bitsN 8
  let _ ← partList c y
  need (x.bitsN == y.bitsN && x.bitsN == z.bitsN + lb.length) (opFault 2 c.a)
  need (c.hi != c.yh) (opFault 0 c.a)
  opPred c
  return {
    needs := (c.xKey, lb, restBits x.bitsN lb) :: (if c.xh = c.yh then [] else [(c.yKey, lb, restBits y.bitsN lb)]) }

/-- Integer formats an index field may have (R187). -/
def indexFmt (f : Nat) : Bool := [0, 1, 2, 4, 5, 6].contains f

def planReduce (c : Cmd) : M Plan := do
  let x ← opField c.xh .apply
  let y ← opY c
  let i ← if c.op = 5 ∧ c.hi ≠ 0 then opField c.hi .write else pure Obj.empty
  need (!badX x.fmt && !(c.op == 5 && isCplxF x.fmt)) (fmtFault c.xh)
  need (!badY y.fmt && (!isCplxF x.fmt || isCplxF y.fmt) && !(c.op == 5 && isCplxF y.fmt)) (fmtFault c.yh)
  need (c.op != 5 || c.hi == 0 || indexFmt i.fmt) (fmtFault c.hi)
  need (c.op == 5 || c.hi == 0) (opFault 0 c.a)
  let lr ← opList c.b x.bitsN 8
  let _ ← partList c y
  need (x.bitsN == y.bitsN + lr.length && (c.op != 5 || c.hi == 0 || i.bitsN == y.bitsN)) (opFault 2 c.a)
  need (c.xh != c.yh && !(c.op == 5 && c.hi != 0 && c.hi == c.yh)) (opFault 0 c.a)
  opPred c
  return { needs := [(c.xKey, lr, restBits x.bitsN lr)] }

/-- The conditions of a Q4X slot: the first five column bits lie at physical positions 0 to 4 in order (R182). -/
def q4Columns (o : Obj) (l : List Nat) : Bool :=
  isQ4 o.fmt && decide (5 ≤ l.length) && (List.range 5).all fun i => (o.mapAt 1).getD (l.getD i 0) 64 == i

def planOpld (c : Cmd) : M Plan := do
  let o ← opField c.xh .read
  let f := wbits c.a 16 4
  need (!([3, 7, 13, 19].contains o.fmt) && (!isCplxF o.fmt || slotCplx f)) (fmtFault c.xh)
  need (wbits c.a 20 12 == 0 && decide (1 ≤ f) && decide (f ≤ 8)) (opFault 0 c.a)
  need (f != 1 || q4Columns o (listOf c.c)) (opFault 0 c.a)
  need (decide (c.hi + slotsPer f * 2 ^ listCount c.e[0] ≤ 768)) (opFault 0 c.a)
  let lr ← opList c.b o.bitsN 8
  let lc ← opList c.c o.bitsN 8
  let lm ← opList c.e[0] o.bitsN 8
  need (lc.all fun i => !lr.contains i) (opFault 6 c.c)
  need (lm.all fun i => !(lr ++ lc).contains i) (opFault 6 c.e[0])
  need (decide (spell c.e[2].toNat (lr ++ lc ++ lm) 0 < 2 ^ o.bitsN)) (opFault 2 c.e[2])
  opPred c
  let n := slotsPer f * 2 ^ lm.length
  return { tslot := 64 * n, writes := some (f, n) }

/-- Formats a generator accepts (Table 10.4). -/
def genOk (gen k f cnt : Nat) : Bool :=
  match gen with
  | 0 | 1 => decide (k ≤ 8) && decide (1 ≤ f) && decide (f ≤ 8) && cnt == 0
  | 2 | 3 => decide (k ≤ 8) && (f == 7 || f == 8) && cnt == 0
  | 4 => k == 1 && decide (1 ≤ f) && decide (f ≤ 8) && cnt == 0
  | 5 => f == 0 && k == 0 && decide (1 ≤ cnt) && decide (cnt ≤ 768)
  | _ => false

def planOpgen (c : Cmd) : M Plan := do
  let gen := wbits c.a 0 4
  let f := wbits c.a 8 4
  let cnt := wbits c.a 16 16
  let n := if gen = 5 then cnt else slotsPer f
  need (wbits c.a 12 4 == 0 && genOk gen (wbits c.a 4 4) f cnt && decide (c.hi + n ≤ 768)) (opFault 0 c.a)
  opPred c
  return { tslot := if gen = 5 then ceilDiv cnt 16 else 64 * n, writes := some (f, n) }

def plan (c : Cmd) : M Plan :=
  match c.op with
  | 0 | 1 => planApply c
  | 2 => planPhase c
  | 3 => planDscale c
  | 4 | 5 => planReduce c
  | 6 => planOpld c
  | _ => planOpgen c

/-! The remap decision (R171). -/

def needSwaps (c : Cmd) (x : Nat × List Nat × List Nat) : M (Nat × List (Nat × Nat)) := do
  let s ← get
  let o := s.objAt x.1
  let m := s.forceMap x.1 o
  match nonLocal o m x.2.1 with
  | [] => return (x.1, [])
  | g :: r =>
    if c.nomap then opFault 0 (toW g)
    else
      match victimSwaps o x.2.2.contains (g :: r) m [] with
      | .ok l => return (x.1, l)
      | .error b => opFault 0 (toW b)

def allSwaps (c : Cmd) : List (Nat × List Nat × List Nat) → M (List (Nat × List (Nat × Nat)))
  | [] => pure []
  | x :: r => do
    let h ← needSwaps c x
    let t ← allSwaps c r
    return h :: t

/-- The remaps of a command requested, X's before Y's: their numbers and the longer of the estimates (log 86). -/
def startAll : List (Nat × List (Nat × Nat)) → M (List Nat × Nat)
  | [] => pure ([], 0)
  | x :: r => do
    let s ← get
    let y := s.requestRemap x.1 (s.objAt x.1) x.2
    set y.1
    let t ← startAll r
    return (y.2.1 ++ t.1, Max.max y.2.2 t.2)

/-! Cost (R176, R193). -/

/-- The bits of a field that tell holders apart, fixed to those of a die of this device; none where it holds no element. -/
def State.holderBits (s : State) (job die : Nat) (o : Obj) (m : List Nat) : Option (List (Nat × Bool)) :=
  let at_ (p : Nat) : List Nat := (List.range o.bitsN).filter fun g => m.getD g 0 == p
  let dies := (List.range o.bitsD).flatMap fun i => (at_ (o.bitsL + i)).map fun g => (g, nbit die i)
  if o.bitsD + o.bitsV = 0 then some []
  else if 2 ^ o.bitsD ≤ die then none
  else
    match (List.range (2 ^ o.bitsV)).find? fun w => s.holder job o w == s.devNo with
    | none => none
    | some w => some (dies ++ (List.range o.bitsV).flatMap fun i => (at_ (o.bitsL + o.bitsD + i)).map fun g => (g, nbit w i))

/-- Bits fixed among the batch bits of one field carried over to their partners in another (R165). -/
def pairBits (fx : List (Nat × Bool)) (own other : List Nat) : List (Nat × Bool) :=
  (own.zip other).filterMap fun p => (fx.find? fun x => x.1 == p.1).map fun x => (p.2, x.2)

/-- t_mac and the bytes of t_data of a command that this holder computes. -/
def State.workOf (s : State) (c : Cmd) : Nat × Nat :=
  let o (key : Nat) : Obj := s.objAt key
  let x := o c.xKey
  let y := o c.yKey
  let twice := if c.acc then 2 else 1
  match s.holderBits c.job c.die y (s.forceMap c.yKey y) with
  | none => (0, 0)
  | some hb =>
    let fy := fixBits (listOf c.e[4]) (wbits c.e[5] 0 4) ++ hb
    let ys := y.countOf fy
    match c.op with
    | 0 | 1 =>
      let la := listOf c.b ++ listOf c.e[0]
      let lc := listOf c.c
      let bx := restBits x.bitsN la
      let bY := restBits y.bitsN lc
      let fx := pairBits fy bY bx
      -- an unmatched batch value of APPLYC is neither read nor written under acc or in place
      let ctl := if c.op = 1 ∧ (c.acc ∨ c.xh = c.yh) then fixBits (listOf c.e[2]) (wbits c.e[3] 0 10) else []
      let f := s.tag c.cl c.hi / 4
      let macs := (x.countOf fx).1 * 2 ^ lc.length
      (ceilDiv (macs * 16) (65536 * rho16 (fieldClass x) (slotClass f)),
        x.bytesFor (x.countOf (fx ++ ctl)).2 + y.bytesFor (y.countOf (fy ++ pairBits ctl bx bY)).2 * twice)
    | 2 => (ceilDiv ys.1 64, x.bytesFor (x.countOf fy).2 + y.bytesFor ys.2)
    | 3 =>
      let z := o c.hiKey
      let r := Min.min 16 (rho16 (fieldClass x) (fieldClass z))
      (ceilDiv (ys.1 * 16) (256 * r), x.bytesFor (x.countOf fy).2 + z.bytesFor ys.1 + y.bytesFor ys.2 * twice)
    | 4 | 5 =>
      let xs := x.countOf (pairBits fy (List.range y.bitsN) (restBits x.bitsN (listOf c.b)))
      (ceilDiv xs.2 256, x.bytesFor xs.2 + y.bytesFor ys.2 * twice +
        (if c.op = 5 ∧ c.hi ≠ 0 then (o c.hiKey).bytesFor ((o c.hiKey).countOf fy).2 else 0))
    | _ => (0, 0)

/-- The same for OPLD, which has no Y. -/
def State.costOf (s : State) (c : Cmd) : Nat × Nat :=
  if c.op = 6 then
    let x := s.objAt c.xKey
    let listed := listOf c.b ++ listOf c.c ++ listOf c.e[0]
    (0, x.bytesFor (x.countOf ((restBits x.bitsN listed).map fun b => (b, nbit c.e[2].toNat b))).2)
  else if c.op = 7 then (0, 0)
  else s.workOf c

/-! Acceptance (R160, R161, R163, R176). -/

def State.inFlight (s : State) (cl : Nat) : List Cmd := s.engines.cmds.filter fun x => x.cl == cl

/-- Whether the sequencer can take a command: an entry is free and the id is retired, and the decision on its fields can be
made (R160, R258, R276). -/
def State.canAccept (s : State) (c : Cmd) : Bool :=
  let l := s.inFlight c.cl
  decide (l.length < 64) && !(l.any fun x => x.id == c.id) && s.fieldsReady c &&
    (c.fields.isEmpty || s.fieldRoom c.job) && c.fields.all (s.fieldCame c.die)

/-- A command taken: its predecessors latched, its slots tagged, its promise in l0. -/
def accept (c : Cmd) (p : Plan) (sw : List (Nat × List (Nat × Nat))) : M Unit := do
  let (tickets, est) ← startAll sw
  let s ← get
  let preds := (s.inFlight c.cl).filter fun x => c.predIds.contains x.id
  let a := s.clk.toNat
  let start := Max.max (a + est) (preds.foldl (fun v x => Max.max v x.promise.toNat) a)
  let w := s.costOf c
  let t := Max.max w.1 (Max.max (ceilDiv w.2 512) p.tslot) + 40
  let seq := s.engines.next
  let promise := toW (start + t)
  let s := match p.writes with
    | some (f, n) => s.setTags c.cl c.hi f n
    | none => s
  let c := { c with
    seq, promise, preds := preds.map Cmd.seq, remaps := tickets
    tags := (List.range (c.readSlots s)).map fun i => s.tag c.cl (c.hi + i) }
  set { s with engines := { s.engines with
    next := seq + 1
    cmds := s.engines.cmds ++ [c]
    status := SMap.put (c.cl * 256 + c.id) 0 s.engines.status } }
  updMe fun t => t.shift promise
  waitFor (.command seq) (Fin.ofNat 16 c.la)
  upd fun s => s.due .commandStart { n := seq }

/-- What an operator command or OPWAIT is (R164, R180, R188): its code, 8 for OPWAIT, its operand registers and its flags. -/
structure OpForm where
  op : Nat
  a : Reg
  b : Reg := .z
  c : Reg := .z
  acc : Bool := false
  sat : Bool := false
  nomap : Bool := false
  la : Look

def opForm : Instr → Option OpForm
  | .apply a b c acc sat nomap la => some { op := 0, a, b, c, acc, sat, nomap, la }
  | .applyc a b c acc sat nomap la => some { op := 1, a, b, c, acc, sat, nomap, la }
  | .phase a b c nomap la => some { op := 2, a, b, c, nomap, la }
  | .dscale a b acc sat nomap la => some { op := 3, a, b, acc, sat, nomap, la }
  | .redb a b acc sat nomap la => some { op := 4, a, b, acc, sat, nomap, la }
  | .maxb a b nomap la => some { op := 5, a, b, nomap, la }
  | .opld a b c sat la => some { op := 6, a, b, c, sat, la }
  | .opgen a la => some { op := 7, a, la }
  | .opwait a la => some { op := 8, a, la }
  | _ => none

/-- The command a strand presents. -/
def OpForm.cmd (f : OpForm) (x y z : Word) (s : State) : Cmd where
  cl := clusterOf s.me.homeCore
  id := wbits x 48 8
  op := f.op
  a := x
  b := y
  c := z
  e := s.me.e
  acc := f.acc
  sat := f.sat
  nomap := f.nomap
  la := f.la.val
  sid := s.me.sid.toNat
  job := s.me.job.toNat
  launch := s.me.launch?
  die := coreDie s.me.homeCore
  seq := 0
  preds := []
  remaps := []
  promise := 0
  tags := []
  st := 0
  done := 0
  puts := []
  status := 0

/-- The core a sequencer served last (Table 9.2). -/
def serve : M Unit := upd fun s =>
  { s with engines := { s.engines with ptr := SMap.put (clusterOf s.me.homeCore) (coreNo s.me.homeCore) s.engines.ptr } }

/-- The service of OPWAIT (R188): the status of the command that holds the id, or the id's last one. -/
def opwaitServed (x : Word) (la : Look) : M Unit := do
  let s ← get
  let cl := clusterOf s.me.homeCore
  let id := wbits x 0 8
  serve
  match (s.inFlight cl).find? fun c => c.id == id with
  | some c => await [.l0] (.command c.seq) la.val
  | none => await [.l0] (.value [(SMap.find (cl * 256 + id) s.engines.status).getD 0]) la.val

/-- A command at the sequencer: taken where the sequencer can take it, after its checks, and otherwise held back by wait_. -/
def presented (f : OpForm) (wait_ : M Unit) (free : State → Bool) : M Unit := do
  atHome
  let (x, y, z) ← rd3 f.a f.b f.c
  let s ← get
  if f.op = 8 then
    if free s then opwaitServed x f.la else wait_
  else do
    let c := f.cmd x y z s
    issueFor (c.fields.any s.farField)
    if free s && s.canAccept c then do
      let p ← plan c
      let sw ← allSwaps c p.needs
      serve
      accept c p sw
    else wait_

/-- An instruction of majors 0x30 and 0x31: compute and gaffer cores only, at home (R159, R196). -/
def engineCommand (i : Instr) (la : Look) (body : M Unit) (s : State) : Out :=
  legalIf (decide (coreNo s.me.homeCore ≤ 16)) i.encode (command i 0 la (do
    atHome
    body)) s

/-- An operator command issues: the sequencer takes it at once when no other core presents one and it can; otherwise its
strand stalls at it while it is presented (R160). -/
def operator (i : Instr) (s : State) : Out :=
  match opForm i with
  | none => .next s
  | some f =>
    let cl := clusterOf s.me.homeCore
    let o : Offer := { cl, sid := s.me.sid.toNat, pc := s.me.pc, ins := i }
    let others := s.engines.offers.filter fun x => x != o
    let held := { s with engines := { s.engines with offers := others ++ [o] } }
    engineCommand i f.la (presented f (stop (.hold held)) fun s => !(s.engines.offers.any fun x => x.cl == cl)) s

def execApply (a b c : Reg) (acc sat nomap : Bool) (la : Look) (s : State) : Out := operator (.apply a b c acc sat nomap la) s
def execApplyc (a b c : Reg) (acc sat nomap : Bool) (la : Look) (s : State) : Out := operator (.applyc a b c acc sat nomap la) s
def execPhase (a b c : Reg) (nomap : Bool) (la : Look) (s : State) : Out := operator (.phase a b c nomap la) s
def execDscale (a b : Reg) (acc sat nomap : Bool) (la : Look) (s : State) : Out := operator (.dscale a b acc sat nomap la) s
def execRedb (a b : Reg) (acc sat nomap : Bool) (la : Look) (s : State) : Out := operator (.redb a b acc sat nomap la) s
def execMaxb (a b : Reg) (nomap : Bool) (la : Look) (s : State) : Out := operator (.maxb a b nomap la) s
def execOpld (a b c : Reg) (sat : Bool) (la : Look) (s : State) : Out := operator (.opld a b c sat la) s
def execOpgen (a : Reg) (la : Look) (s : State) : Out := operator (.opgen a la) s
def execOpwait (a : Reg) (la : Look) (s : State) : Out := operator (.opwait a la) s

/-! COMMAND_ACCEPT. -/

/-- The presented commands of a cluster in the rotation of R160, starting after the core last served. -/
def State.rotation (s : State) (cl : Nat) : List Offer :=
  let p := (SMap.find cl s.engines.ptr).getD 16
  (List.range 17).flatMap fun i => s.engines.offers.filter fun c => c.cl == cl && coreNo (c.sid / 16) == (p + 1 + i) % 17

/-- The strand of a presented command served: what comes of it, none where it goes on waiting. -/
def State.served (s : State) (o : Offer) : Option Out :=
  match opForm o.ins with
  | none => none
  | some f =>
    let s := { s.focus (o.sid % 65536) with engines := { s.engines with offers := s.engines.offers.erase o } }
    match presented f (stop .wait) (fun _ => true) (s.issue 4) with
    | .error .wait => none
    | r => some (finishLong 4 (window f.la) [.l0] none s r)

def State.accepts (s : State) (cl : Nat) : Option Out := (s.rotation cl).findSome? s.served

/-- COMMAND_ACCEPT: the sequencer of a cluster serves the first presented command it can take. -/
def execCommandAccept (s : State) : Out :=
  match s.accepts s.arg.cl with
  | none => .next s
  | some o => o

/-- Whether a strand stands at a command it presents. -/
def State.presents (s : State) (sid : Nat) : Bool := s.engines.offers.any fun o => o.sid % 65536 == sid % 65536

/-- Whether the strand of an offer stands at its instruction. -/
def State.stands (s : State) (o : Offer) : Bool :=
  match s.strand? (o.sid % 65536) with
  | none => false
  | some t => t.sid.toNat == o.sid && t.status == .ready && t.pc == o.pc && t.doom.isNone

/-- Presented commands whose strand no longer stands at them are withdrawn. -/
def State.pruneOffers (s : State) : State :=
  { s with engines := { s.engines with offers := s.engines.offers.filter s.stands } }

/-! COMMAND_START and COMMAND_RETIRE. -/

def State.cmd? (s : State) (seq : Nat) : Option Cmd := s.engines.cmds.find? fun c => c.seq == seq
def State.setCmd (s : State) (c : Cmd) : State :=
  { s with engines := { s.engines with cmds := s.engines.cmds.map fun x => if x.seq == c.seq then c else x } }

/-- A command is to retire with a status. -/
def State.retire (s : State) (c : Cmd) (status : Word) : State :=
  (s.setCmd { c with st := 2, status }).due .commandRetire { n := c.seq }

/-- Every latched predecessor has retired and every remap has committed. -/
def Cmd.ready (c : Cmd) : Bool := c.st == 0 && c.preds.isEmpty && c.remaps.isEmpty

/-- The first slot whose tag is not the one checked at acceptance. -/
def tagChanged (s : State) (c : Cmd) : Option Nat :=
  ((List.range c.tags.length).find? fun i => s.tag c.cl (c.hi + i) != c.tags.getD i 0).map (c.hi + ·)

/-- A command starts: matrices enter the buffers, written slots leave them. -/
def State.begin (s : State) (c : Cmd) : State :=
  let s := s.setCmd { c with st := 1 }
  let spm := slotsPer c.slotFmt
  let s := (List.range (c.tags.length / spm)).foldl (fun (s : State) u =>
    { s with engines := { s.engines with bufs := useBuf (c.cl, c.hi + u * spm, spm) s.engines.bufs } }) s
  if c.op < 6 then s
  else
    s.dropBufs c.cl c.hi (if c.op = 6 then slotsPer (wbits c.a 16 4) * 2 ^ listCount c.e[0]
      else if wbits c.a 0 4 = 5 then wbits c.a 16 16 else slotsPer (wbits c.a 8 4))

/-- The first error of a command's elements stands in its status; a memory error is logged. -/
def State.noteErr (s : State) (c : Cmd) (e : Option EngErr) : State × Word :=
  match e with
  | none => (s, c.status)
  | some x => (if x.status = 1 then s.logError x.pa else s, if c.status = 0 then toW (x.status + x.va * 256) else c.status)

/-- One move of a running command: it writes what the unit before has computed, or reads and computes the next unit. -/
def State.work (s : State) (c : Cmd) : State :=
  let again (t : State) : State := t.due .commandStart { n := c.seq }
  match badSlot s c.cl c.hi c.tags.length with
  | some i => (s.setTags c.cl i 0 1).retire { c with puts := [] } (toW (5 + i * 256))
  | none =>
    if !s.fieldsReady c then again s
    else if !c.puts.isEmpty then
      match c.write c.puts none s with
      | .error _ => again s
      | .ok (e, t) =>
        let x := t.noteErr c e
        again (x.1.setCmd { c with puts := [], status := x.2 })
    else
      match c.unit c.done s with
      | .error _ => again s
      | .ok (w, t) =>
        let x := t.noteErr c w.err
        again (x.1.setCmd { c with done := c.done + 1, puts := w.puts, status := x.2 })

/-- COMMAND_START: a ready command starts, in the order of acceptance of its cluster (R162), and runs unit by unit. -/
def execCommandStart (s : State) : Out :=
  match s.cmd? s.arg.n with
  | none => .next s
  | some c =>
    if c.st = 2 then .next s
    else if c.st = 1 then
      if c.puts.isEmpty && decide (c.units s ≤ c.done) then .next (s.retire c c.status) else .next (s.work c)
    else if !c.ready || (s.inFlight c.cl).any fun x => x.ready && decide (x.seq < c.seq) then
      .next (s.due .commandStart s.arg)
    else
      match tagChanged s c with
      | some i => .next (s.retire c (toW (4 + i * 256)))
      | none => .next ((s.begin c).due .commandStart s.arg)

/-- What the retirement means to an instruction that waits for it (R188, R190). -/
def retired (seq : Nat) (status : Word) (p : Pending) : Option Pending :=
  if p.src != .command seq then some p
  else if !p.lands.isEmpty then some { p with src := .value [status] }
  else
    match wbits status 0 3 with
    | 1 => some (p.fail (.fault 8 0 (status >>> 8)))
    | 3 | 4 | 5 => some (p.fail (.fault 3 7 status))
    | 6 => some (p.fail (.fault 5 0 (status >>> 8)))
    | _ => none

/-- COMMAND_RETIRE (R162, R189): the status word is stored, the id is idle, successors are released or fail. -/
def execCommandRetire (s : State) : Out :=
  match s.cmd? s.arg.n with
  | none => .next s
  | some c =>
    if c.st ≠ 2 then .next s
    else
      let tell (t : Strand) : Strand := { t with pend := t.pend.filterMap (retired c.seq c.status) }
      let rest := s.engines.cmds.filter fun x => x.seq != c.seq
      let hit := rest.filter fun x => x.preds.contains c.seq && x.st == 0
      let cmds := rest.map fun (x : Cmd) =>
        if x.preds.contains c.seq then
          (if c.status = 0 then { x with preds := x.preds.filter (· != c.seq) }
           else if x.st = 0 then { x with st := 2, status := 3 } else x)
        else x
      let t := { s with
        me := tell s.me
        others := s.others.map tell
        engines := { s.engines with cmds, status := SMap.put (c.cl * 256 + c.id) c.status s.engines.status } }
      .next (if c.status = 0 then t else hit.foldl (fun t x => t.due .commandRetire { n := x.seq }) t)

/-- Commands not started that some test names retire with status 2 (Table 10.8). -/
def State.cancelCmds (s : State) (f : Cmd → Bool) : State :=
  (s.engines.cmds.filter fun c => c.st == 0 && f c).foldl (fun s c => s.retire c 2) s

/-- The commands of a killed job stop at an element boundary; a slot load leaves its slots empty. -/
def State.killCmds (s : State) (job : Nat) : State :=
  (s.engines.cmds.filter fun c => c.st != 2 && c.job == job).foldl (fun s c =>
    let s := if c.st = 1 ∧ c.op = 6 then s.setTags c.cl c.hi 0 (slotsPer (wbits c.a 16 4) * 2 ^ listCount c.e[0])
      else if c.st = 1 ∧ c.op = 7 then
        s.setTags c.cl c.hi 0 (if wbits c.a 0 4 = 5 then wbits c.a 16 16 else slotsPer (wbits c.a 8 4))
      else s
    s.retire c 2) s

end Sys2Proof.Machine
end

