-- ==== Sys2Proof/Machine/Transfer.lean ====
section
/-! DEFINITION. The transfer unit (11_transfers, R195-R211): XFER with its checks, chunks and failures, and code books. -/

namespace Sys2Proof.Machine

open Sys2Proof.Num

/-! Endpoints (R196, R197). -/

/-- An endpoint: a field, or linear memory with a type; a linear plane image has c-byte elements, a Q4X image blocks of
18 bytes. -/
inductive End where
  | field (f : View) (base : Nat)
  | lin (fmt : Nat) (va : Nat)
  | planes (c : Nat) (va : Nat)
  | qimg (va : Nat)
  | bytes (va : Nat)
  deriving DecidableEq, Repr

def transform (a : Word) : Nat := wbits a 48 8
def xparam (a : Word) : Nat := wbits a 32 16

def End.isField : End → Bool
  | .field _ _ => true
  | _ => false

def End.fmt : End → Nat
  | .field f _ => f.o.fmt
  | .lin f _ => f
  | .planes _ _ => 16
  | .qimg _ => 18
  | .bytes _ => 4

def End.isQ : End → Bool
  | .qimg _ => true
  | .field f _ => isQ4 f.o.fmt
  | _ => false

/-- The linear form of an endpoint of a transform; src tells the source. -/
def linearEnd (a : Word) (src both : Bool) (va : Nat) : End :=
  let p := xparam a
  match transform a with
  | 0 => if both then .bytes va else if nbit p 4 then .qimg va else .lin (p % 16) va
  | 1 => .lin (if src then p % 16 else bitsOf p 4 4) va
  | 2 => .planes (p % 4 + 1) va
  | _ => if src then .lin 4 va else .lin (bitsOf p 4 4) va

/-- The endpoints of an XFER word with its bases; view is how its user sees a field. -/
def endsOf (view : Nat → View) (job : Nat) (a b c : Word) : End × End :=
  let one (h : Nat) (base : Word) (src both : Bool) : End :=
    if h = 0 then linearEnd a src both (base.toNat % 2 ^ 56) else .field (view (objKey job h)) base.toNat
  let both := xSrc a == 0 && xDst a == 0
  (one (xSrc a) b true both, one (xDst a) c false both)

/-- Planes a chain destination is written, and planes a chain source is read for plane_read (R46, R197). -/
def planesTo (a : Word) (o : Obj) : Nat := if nbit (xparam a) 3 then o.planes else xparam a % 4 + 1
def planesFrom (a : Word) (o : Obj) : Nat := o.uses (xparam a % 4 + 1) (nbit (xparam a) 2)

/-- Bytes an element occupies or receives; 0 stands for a Q4X element. -/
def End.width (a : Word) : End → Nat
  | .field f _ =>
    if isChain f.o.fmt then (if transform a = 2 then planesTo a f.o else f.o.planes)
    else if isQ4 f.o.fmt then 0 else fmtSize f.o.fmt
  | .lin f _ => fmtSize f
  | .planes c _ => c
  | .qimg _ => 0
  | .bytes _ => 1

/-- Elements below index m that are no padding. -/
def Obj.realBelow (o : Obj) (m : Nat) : Nat :=
  let top := Nat.min m (2 ^ o.bitsN)
  if top = 2 ^ o.bitsN then (o.countOf []).2
  else (List.range o.bitsN).foldl (fun v i =>
    if nbit top i then
      v + (o.countOf ((i, false) :: ((List.range o.bitsN).filter (decide <| i < ·)).map fun j => (j, nbit top j))).2
    else v) 0

/-- Elements of an endpoint's range that are read or written: padding is neither (R141). -/
def End.count (n : Nat) : End → Nat
  | .field f base => f.o.realBelow (base + n) - f.o.realBelow base
  | _ => n

/-- Bytes that n elements of an endpoint take. -/
def End.bytesFor (a : Word) (n : Nat) (e : End) : Nat := if e.isQ then ceilDiv (n * 9) 16 else n * e.width a

/-- Bytes written, and bytes read: PLANES reads the planes plane_read uses. -/
def bytesWritten (a : Word) (n : Nat) (e : End) : Nat := e.bytesFor a (e.count n)
def bytesRead (a : Word) (n : Nat) (e : End) : Nat :=
  match e with
  | .field f _ => if transform a = 2 then e.count n * planesFrom a f.o else e.bytesFor a (e.count n)
  | _ => e.bytesFor a n

/-! Check 2 (R197, R198). -/

def bit16 (f : Nat) : Bool := [1, 5, 10, 11].contains f

/-- A Q4X field with logical bits 4:0 at physical positions 4:0, or no Q4X field. -/
def qInPlace : End → Bool
  | .field f _ => !isQ4 f.o.fmt || (List.range 5).all fun i => (f.o.mapAt 1).getD i 64 == i
  | _ => true

def copyOk (p : Nat) (b c n : Nat) (x y : End) : Bool :=
  let q := decide (b % 32 = 0) && decide (c % 32 = 0) && decide (n % 32 = 0) && qInPlace x && qInPlace y
  decide (p < 32) &&
    match x, y with
    | .bytes _, .bytes _ => p == 0
    | .field f _, .field g _ => f.o.fmt == g.o.fmt && (!isChain f.o.fmt || f.o.planes == g.o.planes) && (!isQ4 f.o.fmt || q) && !nbit p 4
    | .field f _, .lin g _ => f.o.fmt == g
    | .lin g _, .field f _ => f.o.fmt == g
    | .field f _, .qimg _ => isQ4 f.o.fmt && q
    | .qimg _, .field f _ => isQ4 f.o.fmt && q
    | _, _ => false

def convOk (p : Nat) (x y : End) : Bool :=
  decide (p < 4096) && decide (bitsOf p 8 3 ≤ 4) && y.fmt != 18 && y.fmt != 19 && x.fmt != 19 &&
    (!isCplxF x.fmt || isCplxF y.fmt)

/-- A plane count legal for an endpoint (R147). -/
def planeEndOk (c : Nat) : End → Bool
  | .field f _ => isChain f.o.fmt && decide ((if f.o.fmt = 16 then 1 else 2) ≤ c) && decide (c ≤ f.o.planes)
  | .planes _ _ => true
  | _ => false

def planesXOk (p : Nat) (x y : End) : Bool :=
  decide (p < 16) && planeEndOk (p % 4 + 1) x && planeEndOk (p % 4 + 1) y && (!x.isField || !y.isField || x.fmt == y.fmt)

def wide64 (f : Nat) : Bool := f == 13 || f == 3 || f == 7

def repackOk (p b c n : Nat) (x y : End) : Bool :=
  match x, y with
  | .field f _, .field g _ =>
    let o := f.o
    let r := g.o
    p == 0 && o.fmt == r.fmt && o.planes == r.planes && o.bitsN == r.bitsN && o.fld 7 0 256 == r.fld 7 0 256 && b == 0 &&
      c == 0 && n == 2 ^ o.bitsN && !wide64 o.fmt
  | _, _ => false

def cbexpOk (p : Nat) (x y : End) : Bool :=
  decide (p < 256) && !nbit p 3 && (x.fmt == 19 || !x.isField) &&
    match y with
    | .field f _ => bit16 f.o.fmt || (isChain f.o.fmt && f.o.planes == 2)
    | .lin f _ => bit16 f
    | _ => false

def transformOk (a b c e0 : Word) (x y : End) : Bool :=
  match transform a with
  | 0 => copyOk (xparam a) b.toNat c.toNat e0.toNat x y
  | 1 => convOk (xparam a) x y
  | 2 => planesXOk (xparam a) x y
  | 3 => repackOk (xparam a) b.toNat c.toNat e0.toNat x y
  | 4 => cbexpOk (xparam a) x y
  | _ => false

/-! Chunks (R200). -/

/-- The largest power of two with e * w at most 512. -/
def powerFit (w : Nat) : Nat := 2 ^ (512 / Max.max 1 w).log2

def chunkLen (a : Word) (y : End) : Nat :=
  match y with
  | .bytes _ => 512
  | _ => if y.isQ then 1024 else powerFit (y.width a)

/-- Bytes of all portions of a field. -/
def allPortions (o : Obj) : Nat := o.portion * 2 ^ (o.bitsD + o.bitsV)

def chunkCount (a e0 : Word) (y : End) : Nat :=
  if transform a = 3 then
    match y with
    | .field f _ => ceilDiv (allPortions f.o) 512
    | _ => 0
  else ceilDiv e0.toNat (chunkLen a y)

/-- Whether an element of a REPACK lands in chunk k: one of its bytes lies in the 512 bytes at 512 k of the portions in
order of die value and then device value. An element with bytes in two chunks is moved with each of them (log 87). -/
def landsIn (o : Obj) (map : List Nat) (k idx : Nat) : Bool :=
  let x := o.spotAt map idx
  (o.offs o.planes x.loc).any fun i => ((x.v * 2 ^ o.bitsV + x.w) * o.portion + i) / 512 == k

/-- The elements of a chunk. -/
def chunkElems (map : List Nat) (a e0 : Word) (y : End) (k : Nat) : List Nat :=
  if transform a = 3 then
    match y with
    | .field f _ => (List.range e0.toNat).filter (landsIn f.o map k)
    | _ => []
  else
    let e := chunkLen a y
    (List.range (Min.min e (e0.toNat - k * e))).map fun i => k * e + i

/-! Elements moved. -/

/-- What one element of a source gives: a code with its values, and for Q4X the side word of its block. -/
structure Moved where
  code : Nat
  parts : List FV := []
  side : Option Nat := none
  deriving DecidableEq, Repr

/-- The code of a chain element that plane_read needs: the planes it uses, and the others where those do not decide (R46). -/
def engPlanes (cl : Nat) (a : Word) (f : View) (idx : Nat) : EM Nat := do
  let c := xparam a % 4 + 1
  let n := planesFrom a f.o
  let s ← get
  let bs ← engRead cl (f.key / 65536) (s.elemBytes f n idx)
  let e ← if f.o.undecided c n bs then engCode cl f idx
    else pure (f.o.code (s.spot f idx).loc bs * 256 ^ (f.o.planes - n))
  return planeRead f.o.fmt f.o.planes e c (nbit (xparam a) 2) f.o.fsat

/-- A Q4X code and side word apart. -/
def movedQ (c : Nat) : Moved := { code := c % 16, parts := [q4Val (c % 16) (c / 16)], side := some (c / 16) }

/-- A padding element is not read: +0. The side word of its block travels with the block's other elements; a block that is all
padding has the side word of +0 (R141, R182, log 94). -/
def paddingOf (o : Obj) (idx : Nat) : Moved :=
  if isQ4 o.fmt then
    { code := 0, parts := [zeroV]
      side := if (List.range 32).all fun i => o.isPad (idx / 32 * 32 + i) then some 0x7F00 else none }
  else { code := 0, parts := if isCplxF o.fmt then [zeroV, zeroV] else [zeroV] }

def readEnd (cl job : Nat) (a : Word) (x : End) (e : Nat) : EM Moved := do
  let s ← get
  match x with
  | .field f base =>
    let idx := base + e
    if f.o.isPad idx then pure (paddingOf f.o idx)
    else if transform a = 2 then do
      let c ← engPlanes cl a f idx
      pure { code := c, parts := [decodeF (chainF f.o.fmt (xparam a % 4 + 1)) c] }
    else do
      let c ← engCode cl f idx
      pure (if isQ4 f.o.fmt then movedQ c else { code := c, parts := partsOf f.o.fmt f.o.planes c })
  | .lin f va => do
    let bs ← engRead cl job (s.line (va + e * fmtSize f) (fmtSize f))
    pure { code := leNat bs, parts := partsOf f 0 (leNat bs) }
  | .planes c va => do
    let bs ← engRead cl job (s.line (va + e * c) c)
    pure { code := leNat bs }
  | .qimg va => do
    let lo ← engRead cl job (s.line (va + e / 32 * 18 + e % 32 / 2) 1)
    let side ← engRead cl job (s.line (va + e / 32 * 18 + 16) 2)
    pure (movedQ (bitsOf (leNat lo) (4 * (e % 2)) 4 + leNat side * 16))
  | .bytes va => do
    let bs ← engRead cl job (s.line (va + e) 1)
    pure { code := leNat bs }

/-- A nibble and a side word written: the code byte keeps its other half. -/
def writeNibble (cl job : Nat) (lo side : Nat × Nat) (odd : Bool) (x : Moved) : EM (Option EngErr) := do
  let old ← engRead cl job [lo]
  let b := setBits (leNat old) (if odd then 4 else 0) 4 (x.code % 16)
  let e1 ← engWrite cl job [lo] (leBytes 1 b)
  match x.side with
  | none => pure e1
  | some w => do
    let e2 ← engWrite cl job [side, (side.1, (side.2 + 1) % 2 ^ 56)] (leBytes 2 w)
    pure (if e1.isSome then e1 else e2)

/-- The code a destination takes from an element (Table 11.3). -/
def destCode (books : SMap (List Nat)) (cl : Nat) (a : Word) (fmt p : Nat) (x : Moved) : Nat :=
  match transform a with
  | 1 =>
    let mode : RMode := match bitsOf (xparam a) 8 3 with
      | 0 => .rne | 1 => .rz | 2 => .ru | 3 => .rd | _ => .rna
    codeOf fmt p mode (nbit (xparam a) 11) x.parts
  | 4 => ((SMap.find (cl * 8 + xparam a % 8) books).getD []).getD (x.code % 256) 0
  | _ => x.code

/-- The bytes of a plane store of a c-plane encoding into a chain field (R47, R197). -/
def planeBytes (a : Word) (o : Obj) (code : Nat) : List Byte :=
  let c := xparam a % 4 + 1
  storeBytes o c (nbit (xparam a) 3) (codeOf o.fmt o.planes .rne o.fsat [decodeF (chainF o.fmt c) code])

def writeEnd (cl job : Nat) (a : Word) (y : End) (e : Nat) (x : Moved) : EM (Option EngErr) := do
  let s ← get
  match y with
  | .field f base =>
    let idx := base + e
    if f.o.isPad idx then pure none
    else if isQ4 f.o.fmt then
      (match s.elemBytes f 1 idx with
      | lo :: side :: _ => writeNibble cl job lo side ((s.spot f idx).loc % 2 == 1) x
      | _ => pure none)
    else engBytes cl f idx (if transform a = 2 then planeBytes a f.o x.code
      else f.o.codeBytes (destCode s.engines.books cl a f.o.fmt f.o.planes x))
  | .lin f va => engWrite cl job (s.line (va + e * fmtSize f) (fmtSize f)) (leBytes (fmtSize f) (destCode s.engines.books cl a f 0 x))
  | .planes c va => engWrite cl job (s.line (va + e * c) c) (leBytes c x.code)
  | .qimg va =>
    writeNibble cl job (s.devNo, (va + e / 32 * 18 + e % 32 / 2) % 2 ^ 56)
      (s.devNo, (va + e / 32 * 18 + 16) % 2 ^ 56) (e % 2 == 1) x
  | .bytes va => engWrite cl job (s.line (va + e) 1) (leBytes 1 x.code)

/-- The elements of a chunk moved; the first failure stops the rest. -/
def moveElems (cl job : Nat) (a : Word) (x y : End) : List Nat → EM (Option EngErr)
  | [] => pure none
  | e :: r => do
    let v ← readEnd cl job a x e
    let w ← writeEnd cl job a y e v
    if w.isSome then pure w else moveElems cl job a x y r

/-! Acceptance (R198, R199, R204). -/

def xferField (h : Nat) (right : Right) : M Unit := do
  if h = 0 then pure ()
  else do
    let _ ← opField h right

/-- Check 3. -/
def rangeOk (n : Nat) : End → Bool
  | .field f base => n == 0 || decide (base + n ≤ 2 ^ f.o.bitsN)
  | _ => true

/-- The first byte outside the lease set of what an endpoint touches (check 4): its linear range, or the portions its
elements lie in. -/
def leaseMiss (s : State) (right n : Nat) (e : End) : Option Nat :=
  let test (lo len : Nat) : Option Nat := if len = 0 ∨ s.leased right lo (lo + len - 1) then none else some lo
  match e with
  | .field f base =>
    ((List.range (2 ^ f.o.bitsD)).filter fun v => (List.range n).any fun i => (s.spot f (base + i)).v == v).findSome? fun v =>
      test (f.o.base v) f.o.portion
  | .lin f va => test va (n * fmtSize f)
  | .planes c va => test va (n * c)
  | .qimg va => test va (ceilDiv (n * 9) 16)
  | .bytes va => test va n

/-- A linear base is a virtual address (R125). -/
def baseOk (h : Nat) (b : Word) : M Unit := do
  if h = 0 then
    let _ ← virt b 0
  else pure ()

/-- The local store that holds the bitmap, checked byte by byte as stores (R120); tval is e1. -/
def bitmapCore (e1 : Word) (n : Nat) : M Nat := do
  let s ← get
  if n = 0 then pure s.me.core
  else if 2 ^ 20 < wbits e1 0 20 + n then opFault 2 e1
  else
    let run : M Nat := (span (.l (wbits e1 0 32)) n).foldlM (init := s.me.core) fun (_ : Nat) a => do
      let h ← laddr true a.val
      pure (cellOf 0 h / 2 ^ 20 % 4096)
    match run s with
    | .ok (k, _) => pure k
    | .error (.trap cls detail _) => trap cls detail e1
    | .error (.lease _) => stop (.lease e1)
    | .error x => stop x

/-- Swaps that bring the low bits of a chunk into the local class (R199). -/
def xferSwaps (a : Word) (len : Nat) (e : End) : M (List (Nat × List (Nat × Nat))) := do
  let s ← get
  match e with
  | .field f _ =>
    let o := f.o
    let key := f.key
    if transform a = 3 then pure []
    else
      let m := s.forceMap key o
      let need := (List.range len.log2).filter fun i => decide (i < o.bitsN)
      match nonLocal o m need with
      | [] => pure []
      | l =>
        match victimSwaps o (fun v => !need.contains v) l m [] with
        | .ok sw => pure [(key, sw)]
        | .error g => opFault 0 (toW g)
  | _ => pure []

/-- Latency of the farthest memory an endpoint's elements reach. -/
def farthest (s : State) (n : Nat) (e : End) : Nat :=
  let job := s.me.job.toNat
  let die := coreDie s.me.homeCore
  let cell (m : Nat) (k : Option Nat) : Nat := match k with
    | some k => Max.max m (cellLatency die k)
    | none => m
  let lin (va len : Nat) : Nat :=
    if len = 0 then 0
    else (List.range (ceilDiv len 65536 + 1)).foldl (fun m i => cell m (s.walkCell job ((va + Min.min (i * 65536) (len - 1)) % 2 ^ 56))) 0
  match e with
  | .field f base => ((List.range n).filter fun i => !f.o.isPad (base + i)).foldl (fun m i =>
      (s.elemBytes f 1 (base + i)).foldl (fun m p =>
        cell m (if p.1 = s.devNo then s.walkCell job p.2 else some (remKey p.1 job p.2))) m) 0
  | .lin f va => lin va (n * fmtSize f)
  | .planes c va => lin va (n * c)
  | .qimg va => lin va (ceilDiv (n * 9) 16)
  | .bytes va => lin va n

/-- Whether an endpoint reaches another device. -/
def End.far (s : State) (job n : Nat) : End → Bool
  | .field f _ => s.farField f.key
  | .lin f va => s.farRange job va (n * fmtSize f)
  | .planes c va => s.farRange job va (n * c)
  | .qimg va => s.farRange job va (ceilDiv (n * 9) 16)
  | .bytes va => s.farRange job va n

def outstanding (s : State) (cl : Nat) : Nat := (SMap.find cl s.engines.q).getD 0
def State.setOut (s : State) (cl v : Nat) : State := { s with engines := { s.engines with q := SMap.put cl v s.engines.q } }

/-- The number of a free entry of a unit. -/
def freeEntry (s : State) (cl : Nat) : Option Nat :=
  (List.range 32).find? fun i => !s.engines.xfers.any fun x => x.cl == cl && x.n == i

/-- The endpoints of an XFER at its acceptance. -/
def XWait.ends (s : State) (w : XWait) : End × End :=
  endsOf (fun key => { key, o := s.objAt key }) s.me.job.toNat w.a w.b w.c

/-- Whether the unit can take an XFER: an entry is free, no load of its book is under way, and the decision on its fields can
be made (R198, R206, R258, R276). -/
def State.takesXfer (s : State) (w : XWait) : Bool :=
  let job := s.me.job.toNat
  let die := coreDie s.me.homeCore
  let fields := ([xSrc w.a, xDst w.a].filter (· != 0)).map (objKey job)
  (freeEntry s w.cl).isSome && !(transform w.a == 4 && s.engines.loads.any fun l => l.cl == w.cl && l.book == xparam w.a % 8) &&
    (fields.isEmpty || (!s.fieldOff job die && s.fieldRoom job && fields.all (s.fieldCame die)))

/-- The acceptance of an XFER: checks 1 to 5, the remap decision, the entry; its promise. -/
def xferAccept (w : XWait) : M Word := do
  let s ← get
  let n := w.e0.toNat
  xferField (xSrc w.a) .read
  xferField (xDst w.a) .write
  let (x, y) := w.ends s
  need (transformOk w.a w.b w.c w.e0 x y && (transform w.a ≤ 1 || (!wide64 x.fmt && !wide64 y.fmt))) (opFault 4 w.a)
  need (rangeOk n x && rangeOk n y && decide (y.bytesFor w.a n ≤ 2 ^ 32)) (opFault 2 w.e0)
  baseOk (xSrc w.a) w.b
  baseOk (xDst w.a) w.c
  match leaseMiss s rR n x, leaseMiss s rW n y with
  | some va, _ => stop (.lease (toW va))
  | none, some va => stop (.lease (toW va))
  | none, none => pure ()
  let chunks := chunkCount w.a w.e0 y
  let core ← bitmapCore w.e1 (ceilDiv chunks 8)
  let swx ← xferSwaps w.a (chunkLen w.a y) x
  let swy ← if xSrc w.a = xDst w.a then pure [] else xferSwaps w.a (chunkLen w.a y) y
  match freeEntry s w.cl with
  | none => stop .wait
  | some i => do
    let (tickets, est) ← startAll (swx ++ swy)
    let bytes := bytesRead w.a n x + bytesWritten w.a n y
    let q := outstanding s w.cl
    let lat := Max.max (farthest s n x) (farthest s n y)
    let map := match y with
      | .field f _ => s.forceMap f.key f.o
      | _ => []
    if chunks = 0 then pure ()
    else upd fun s =>
      let en : Xfer := { cl := w.cl, n := i, seq := s.engines.next, a := w.a, b := w.b, c := w.c, e0 := w.e0, e1 := w.e1,
                         sid := s.me.sid.toNat, job := s.me.job.toNat, launch := s.me.launch?, die := coreDie s.me.homeCore,
                         remaps := tickets, chunks, done := [], spoiled := [], failed := [], bytes, core, map }
      { s with engines := { s.engines with next := s.engines.next + 1, xfers := s.engines.xfers ++ [en] } }.setOut w.cl (q + bytes)
    return s.clk + toW (if n = 0 then 1 else est + 60 + lat + ceilDiv (bytes + q) 512)

/-- XFER proper: accepted at once, or, while its unit cannot take it, waiting there: the strand issues as far as its lookahead
lets it, and a detached XFER is not waited for (R203). -/
def xferBody (a b c : Word) (la : Look) : M Unit := do
  let s ← get
  let w : XWait := { id := s.engines.next, cl := clusterOf s.me.homeCore, a, b, c, e0 := s.me.e[0], e1 := s.me.e[1], sid := s.me.sid.toNat }
  let (x, y) := w.ends s
  issueFor (x.far s s.me.job.toNat w.e0.toNat || y.far s s.me.job.toNat w.e0.toNat)
  if !(s.engines.xwaits.any fun v => v.cl == w.cl) && s.takesXfer w then do
    let p ← xferAccept w
    updMe fun t => t.shift p
  else do
    await [.l0] (.engine w.cl 2 w.id) (window la)
    upd fun s => { s.openLine none (la.val != 15) with engines := { s.engines with
      next := w.id + 1, xwaits := s.engines.xwaits ++ [w] } }

/-- The first XFER that waits at a cluster's unit is accepted when it can be; its promise arrives, or its fault is taken at the
end of its window (R198). -/
def State.acceptXfer (s : State) (w : XWait) : State :=
  let mine := s.me.sid.toNat
  let u := s.focus (w.sid % 65536)
  let gone (t : State) : State := { t with engines := { t.engines with xwaits := t.engines.xwaits.filter fun v => v.id != w.id } }
  match u.me.pend.find? fun p => p.src == .engine w.cl 2 w.id with
  | none => gone s
  | some p =>
    if !u.takesXfer w then s
    else
      let put (t : State) (q : Pending) : State :=
        (gone { t with me := { t.me with pend := t.me.pend.map fun x => if x = p then q else x } }).focus mine
      match xferAccept w u with
      | .ok (v, t) => put t { p with src := .value [v] }
      | .error (.trap cls detail tv) => put u (p.fail (.fault cls detail tv))
      | .error (.lease x) => put u (p.fail (.lease x))
      | .error _ => s

/-- The units take what waits for them, in order of arrival at each. -/
def State.acceptXfers (s : State) : State :=
  ((s.engines.xwaits.map XWait.cl).eraseDups.filterMap fun cl => s.engines.xwaits.find? fun w => w.cl == cl).foldl State.acceptXfer s

def State.xfer? (s : State) (cl i : Nat) : Option Xfer := s.engines.xfers.find? fun x => x.cl == cl && x.n == i
def State.setXfer (s : State) (x : Xfer) : State :=
  { s with engines := { s.engines with xfers := s.engines.xfers.map fun y => if y.cl == x.cl && y.n == x.n then x else y } }

/-- The share of the bytes of chunk k. -/
def Xfer.share (x : Xfer) (k : Nat) : Nat := x.bytes * (k + 1) / x.chunks - x.bytes * k / x.chunks

/-- An entry freed; the bytes of its chunks not done leave the count. -/
def State.freeXfer (s : State) (x : Xfer) : State :=
  let rest := ((List.range x.chunks).filter fun k => !x.done.contains k).foldl (fun v k => v + x.share k) 0
  { s with engines := { s.engines with xfers := s.engines.xfers.filter fun y => !(y.cl == x.cl && y.n == x.n) } }.setOut x.cl
    (outstanding s x.cl - rest)

/-- RETRY and ABANDON (R209): the entry must be held, every other bit of the word zero. -/
def xferAnswer (w : Nat) (a b : Word) : M Unit := do
  let s ← get
  need (s.me.plv != 0) (trap 2 0 (toW w))
  let cl := clusterOf s.me.homeCore
  need (a.toNat % 2 ^ 48 == wbits a 0 5 && a.toNat / 2 ^ 56 == 0) (opFault 0 a)
  match s.xfer? cl (wbits a 0 5) with
  | none => opFault 0 a
  | some x =>
    if x.failed.isEmpty then opFault 0 a
    else if transform a = 0xF0 then do
      need (decide (b.toNat < x.chunks)) (opFault 2 b)
      upd fun s =>
        let back := if x.done.contains b.toNat then s.setOut cl (outstanding s cl + x.share b.toNat) else s
        let t := back.setXfer { x with failed := x.failed.filter (· != b.toNat), done := x.done.filter (· != b.toNat) }
        { t with me := t.me.shift 0 }
    else upd fun s =>
      let t := s.freeXfer x
      { t with me := t.me.shift 0 }

/-- One word encodes the three rows; the transform says which (log 16). -/
def xfer (i : Instr) (a b c : Reg) (la : Look) (s : State) : Out :=
  engineCommand i la (do
    let (x, y, z) ← rd3 a b c
    if transform x = 0xF0 ∨ transform x = 0xF1 then do
      released
      xferAnswer i.encode x y
    else xferBody x y z la) s

def execXfer (a b c : Reg) (la : Look) (s : State) : Out := xfer (.xfer a b c la) a b c la s
def execXferRetry (a b c : Reg) (la : Look) (s : State) : Out := xfer (.xferRetry a b c la) a b c la s
def execXferAbandon (a b c : Reg) (la : Look) (s : State) : Out := xfer (.xferAbandon a b c la) a b c la s

/-! CHUNK_COMPLETE and CHUNK_FAILED (R201, R208). -/

/-- The chunks of a transfer that may be performed: it has started, its die reaches its fields, and they are neither done nor
failed. -/
def State.openChunks (s : State) (x : Xfer) : List Nat :=
  if !x.remaps.isEmpty || s.fieldOff x.job x.die then []
  else (List.range x.chunks).filter fun k => !x.done.contains k && !x.failed.contains k && !x.spoiled.any fun y => y.1 == k

/-- CHUNK_COMPLETE: one chunk of a transfer is performed, in any order, and its bit set by an OR of its byte. -/
def execChunkComplete (s : State) : Out :=
  match s.xfer? s.arg.cl s.arg.n with
  | none => .next s
  | some x =>
    match s.choose (s.openChunks x) with
    | none => .next s
    | some k =>
      let (p, q) := endsOf (s.viewOn x.die (some x.seq)) x.job x.a x.b x.c
      let fail (t : State) (e : EngErr) : Out :=
        .next (t.setXfer { x with spoiled := x.spoiled ++ [(k, if e.status = 1 then 0 else 1, e.va, e.pa)] })
      match moveElems x.cl x.job x.a p q (chunkElems x.map x.a x.e0 q k) s with
      | .error e => if e.status = 0 then .next s else fail s e
      | .ok (some e, t) => fail t e
      | .ok (none, t) =>
        let cell := lsKey x.core (wbits x.e1 0 20 + k / 8)
        let t := t.setByte cell (t.byte cell ||| BitVec.ofNat 8 (2 ^ (k % 8)))
        let t := t.setOut x.cl (outstanding t x.cl - x.share k)
        let y := { x with done := k :: x.done }
        .next (if y.done.length = x.chunks then (t.setXfer y).freeXfer y else t.setXfer y)

/-- CHUNK_FAILED: the entry is held at that chunk and the gaffer is told (Table 11.5). The other chunks go on. -/
def execChunkFailed (s : State) : Out :=
  match s.xfer? s.arg.cl s.arg.n with
  | none => .next s
  | some x =>
    match x.spoiled with
    | [] => .next s
    | (k, reason, va, pa) :: r =>
      let s := s.setXfer { x with spoiled := r, failed := k :: x.failed }
      let s := if reason = 0 then s.logError pa else s
      .next (s.hwPost (gafferSid x.cl) x.job
        #v[toW (0x11 + x.n * 2 ^ 16 + reason * 2 ^ 21), toW k, toW va, toW (if reason = 0 then pa else 0), toW x.sid, x.a])

/-! Code books (R205-R207). -/

/-- Unloaded latency of a cell for a code-book load. -/
def bookLatency (s : State) (k : Nat) : Nat :=
  if isLs k then
    let c := k / 2 ^ 20 % 4096
    if c = s.me.core then 4 else if clusterOf c = clusterOf s.me.core then 10 else 24
  else cellLatency (coreDie s.me.homeCore) k

def execCbld (a b : Reg) (la : Look) (s : State) : Out :=
  engineCommand (.cbld a b la) la (do
    let (x, y) ← rd2 a b
    need (wbits x 3 61 == 0) (opFault 0 x)
    let e ← lineAddr y 0
    aligned e 2
    let hs ← check rR e 512
    let away := hs.any fun h => h.away?.isSome
    issueFor away
    let s ← get
    need (hs.all Hit.readable && !(away && Config.farRefuses s.ticks)) (trap 5 0 y)
    let cl := clusterOf s.me.homeCore
    let book := wbits x 0 3
    if (s.engines.xfers.any fun t => t.cl == cl && transform t.a == 4 && xparam t.a % 8 == book) then stop .wait
    upd fun s => (hs.foldl (fetchHit s.me.job.toNat) s).counted hs
    let keys := hs.map (cellOf s.me.job.toNat)
    let id := s.engines.next
    promise (keys.foldl (fun m k => Max.max m (bookLatency s k)) 0 + 64)
    waitFor (.engine cl 1 id) la
    upd fun s => { s with engines := { s.engines with
        next := id + 1
        loads := s.engines.loads ++ [({ id, cl, book, a := x, b := y, keys, sid := s.me.sid.toNat, job := s.me.job.toNat,
                                        detached := la.val == 15 } : BookLoad)] } }.due .codeBookLoaded { n := id }) s

/-- Little-endian halfwords of bytes. -/
def halfwords (bs : List Byte) : List Nat := groups 2 (bs.length / 2) bs

/-- CODE_BOOK_LOADED: the whole book is replaced; an error leaves it unchanged (R207). -/
def execCodeBookLoaded (s : State) : Out :=
  match s.engines.loads.find? fun l => l.id == s.arg.n with
  | none => .next s
  | some l =>
    let s := { s with engines := { s.engines with loads := s.engines.loads.filter fun x => x.id != l.id } }
    match l.keys.findIdx? s.badAt with
    | none =>
      let s := { s with engines := { s.engines with books := SMap.put (l.cl * 8 + l.book) (halfwords (s.mem.getAll l.keys)) s.engines.books } }
      .next (s.allStrands fun t => { t with pend := t.pend.filter fun p => p.src != .engine l.cl 1 l.id })
    | some i =>
      let k := l.keys.getD i 0
      -- the address of the halfword that failed
      let va := toW (l.b.toNat + i / 2 * 2)
      let s := s.logError k
      if l.detached then
        .next (s.hwPost (gafferSid l.cl) l.job #v[0x12, 0, va &&& 0xFFFFFFFFFFFFFF#64, toW k, toW l.sid, l.a])
      else
        let hit (p : Pending) : Pending := if p.src == .engine l.cl 1 l.id then p.fail (.fault 8 0 va) else p
        .next (s.allStrands fun t => { t with pend := t.pend.map hit })

/-- Transfers that some test names stop (Table 11.6). -/
def State.stopXfers (s : State) (f : Xfer → Bool) : State := (s.engines.xfers.filter f).foldl State.freeXfer s

end Sys2Proof.Machine
end

