-- ==== Sys2Proof/Machine/Collective.lean ====
section
/-! DEFINITION. Loaded collective graphs, the runs on them as they are cancelled, and the pages that chunks are on their way
to (R292, R308-R311). -/

namespace Sys2Proof.Machine

/-! Steps (Table 17.4). -/

def CStep.op (x : CStep) : Nat := wbits x.w[0] 0 3
def CStep.deps (x : CStep) : Nat := wbits x.w[0] 4 6
def CStep.children (x : CStep) : Nat := wbits x.w[0] 10 6
def CStep.peer (x : CStep) : Nat := wbits x.w[0] 16 10
def CStep.srcb (x : CStep) : Nat := wbits x.w[0] 26 2
def CStep.dstb (x : CStep) : Nat := wbits x.w[0] 28 2
/-- The successors a step names. -/
def CStep.succs (x : CStep) : List Nat :=
  (if x.w[0].getLsbD 38 then [wbits x.w[0] 32 6] else []) ++ (if x.w[0].getLsbD 46 then [wbits x.w[0] 40 6] else [])
def CStep.tagMatch (x : CStep) : Nat := wbits x.w[0] 48 8
def CStep.len (x : CStep) : Nat := wbits x.w[3] 0 32
def CStep.timeout (x : CStep) : Nat := wbits x.w[3] 32 16
def CStep.rtag (x : CStep) : Nat := wbits x.w[3] 48 12

def State.graph? (s : State) (key : Nat) : Option CGraph := s.fabric.graphs.find? fun g => g.key == key
def State.setGraph (s : State) (g : CGraph) : State :=
  { s with fabric := { s.fabric with graphs := s.fabric.graphs.map fun (x : CGraph) => if x.key == g.key then g else x } }

/-! Base addresses and places of a step (R310). The engine works through the cache and the logs of cluster 0 of its die. -/

def CGraph.src (g : CGraph) (x : CStep) : Nat := ((g.bases[Fin.ofNat 4 x.srcb]).toNat + x.w[1].toNat) % 2 ^ 56
def CGraph.dst (g : CGraph) (x : CStep) : Nat := ((g.bases[Fin.ofNat 4 x.dstb]).toNat + x.w[2].toNat) % 2 ^ 56
def CGraph.job (g : CGraph) : Nat := g.key / 65536
def CGraph.cl (g : CGraph) : Nat := 16 * g.die

/-- The byte mask of a reduction tag cleared (R306). -/
def State.clearTag (s : State) (tag : Nat) : State :=
  { s with fabric := { s.fabric with apert := s.fabric.apert.filter fun e => e.1 / 2 ^ 28 != tag } }

/-- The strand that waits for a run goes on, or takes a fault. -/
def State.tellRun (s : State) (key : Nat) (f : Pending → Option Pending) : State :=
  let g (p : Pending) : Option Pending := if p.src = .table 7 key 0 then f p else some p
  let h (t : Strand) : Strand := { t with pend := t.pend.filterMap g }
  { s with me := h s.me, others := s.others.map h }

/-- A run cancelled (R311): cancel packets to the other ranks, its held chunks discarded and counted, the tags' masks
cleared, STATE 0, 2^32 added to the completion word; a waiting CGRUN takes the trap. -/
def State.cancelRun (s : State) (g : CGraph) (rank step : Nat) : State :=
  if !g.running then s
  else
    let job := g.key / 65536
    let out := ((List.range g.ranks.length).filter (· != g.rank)).map fun r =>
      ({ dev := g.ranks.getD r 0, job, kind := 8, a := g.key % 65536, b := rank + step * 2 ^ 16 + g.run * 2 ^ 32, bytes := [] } : Packet)
    let s := { s with fabric := { s.fabric with out := s.fabric.out ++ out } }
    let s := (g.held.filter fun c => c.run == g.run).foldl (fun s _ => s.count g.die 0xFE038) s
    let s := g.steps.foldl (fun s x => if x.op = 2 then s.clearTag x.rtag else s) s
    let s := (s.setGraph { g with running := false, held := g.held.filter fun c => c.run != g.run }).setObjFld g.key 0 40 2 0
    let s := if g.word = 0 then s else s.addWord g.cl job g.word (2 ^ 32)
    let tval := toW (rank + step * 2 ^ 16 + g.run * 2 ^ 32)
    s.tellRun g.key fun p => some (p.fail (.fault 10 0 tval))

/-- Runs that a test names cancelled from here. -/
def State.cancelRuns (s : State) (step : Nat) (f : CGraph → Bool) : State :=
  (s.fabric.graphs.filter f).foldl (fun s g => s.cancelRun g g.rank step) s

/-! The targets of chunks (R292, R293). -/

/-- Whether ranges overlap. -/
def meets (a n b m : Nat) : Bool := decide (0 < n) && decide (a < b + m) && decide (b < a + n)

/-- Whether a transfer has chunks on their way to a page: one that is not held and whose destination touches it. -/
def State.xferTargets (s : State) (job va size : Nat) (x : Xfer) : Bool :=
  x.job == job && !(s.openChunks x).isEmpty &&
    match (endsOf (s.viewOn x.die none) x.job x.a x.b x.c).2 with
    | .field f _ => (List.range (2 ^ f.o.bitsD)).any fun h => meets (f.o.base h) f.o.portion va size
    | y => meets (x.c.toNat % 2 ^ 56) (y.bytesFor x.a x.e0.toNat) va size

/-- Whether a run has chunks on their way to a page: to a RECV that has started, or to the root's destination. -/
def CGraph.targets (g : CGraph) (job va size : Nat) : Bool :=
  g.job == job && g.running && g.steps.any fun x =>
    x.st == 1 && (x.op == 1 || (x.op == 2 && x.peer == g.rank)) && meets (g.dst x) x.len va size

def State.targeted (s : State) (job va size : Nat) : Bool :=
  s.engines.xfers.any (s.xferTargets job va size) || s.fabric.graphs.any fun g => g.targets job va size

end Sys2Proof.Machine
end

