-- ==== Sys2Proof/Machine/Translate.lean ====
section
/-! DEFINITION. Pins and LEASE, dirty-log waits, invalidation, page migration and the tier policy (16_translation_and_
leases, R286-R294). -/

namespace Sys2Proof.Machine

/-! Leaf entries. -/

/-- A page of a lease range: its leaf's address, base, size, word 0, and whether this device holds it. -/
structure Page where
  pte : Nat
  va : Nat
  size : Nat
  w0 : Word
  here : Bool
  deriving DecidableEq, Repr

/-- The pages from va up to hi that have a leaf with the rights; the first address that fails otherwise. -/
def pagesFrom (s : State) (job right hi : Nat) : Nat → Nat → Except Nat (List Page)
  | 0, _ => .ok []
  | n + 1, va =>
    if hi ≤ va then .ok []
    else
      match s.walk job va with
      | none => .error va
      | some (pte, level, w0, _) =>
        if (bitsOf w0 5 2 &&& right) ≠ right then .error va
        else
          let size := pageSize level
          let base := va / size * size
          match pagesFrom s job right hi n (base + size) with
          | .error e => .error e
          | .ok r => .ok ({ pte, va := base, size, w0 := toW w0, here := bitsOf w0 48 16 == 0xFFFF } :: r)

/-- The pages of one range of a lease set, and of all of them (Table 16.3). -/
def rangePages (s : State) (job : Nat) (o : Obj) (r : Nat) : Except Nat (List Page) :=
  let base := o.fld (1 + 2 * r) 0 56
  let len := o.fld (2 + 2 * r) 0 48
  if len = 0 then .ok [] else pagesFrom s job (o.fld (2 + 2 * r) 48 2) (base + len) (len / 65536 + 2) base

def leasePages (s : State) (job : Nat) (o : Obj) : Nat → Nat → Except Nat (List Page)
  | 0, _ => .ok []
  | n + 1, r =>
    match rangePages s job o r, leasePages s job o n (r + 1) with
    | .ok a, .ok b => .ok (a ++ b)
    | .error e, _ => .error e
    | _, .error e => .error e

/-- The pages before the first that fails: a failing page is met at its first byte within the range. -/
def leaseBefore (s : State) (job : Nat) (o : Obj) : Nat → Nat → List Page
  | 0, _ => []
  | n + 1, r =>
    match rangePages s job o r with
    | .ok a => a ++ leaseBefore s job o n (r + 1)
    | .error va =>
      match pagesFrom s job (o.fld (2 + 2 * r) 48 2) va (o.fld (2 + 2 * r) 0 48 / 65536 + 2) (o.fld (1 + 2 * r) 0 56) with
      | .ok a => a
      | .error _ => []

/-- PINS of a leaf. -/
def State.pinCount (s : State) (pte : Nat) : Nat := s.num (pte + 8) 1
def State.setPins (s : State) (pte n : Nat) : State := s.setNum (pte + 8) 1 n

/-- Translations of a page dropped from every cache. -/
def State.dropTr (s : State) (job base size : Nat) : State :=
  { s with tlb := s.tlb.filter fun t => !(t.job == job && decide (t.base < base + size) && decide (base < t.base + t.size)) }

/-- The last pin of a page an XINV has met: its translations are dropped and the issuer is told (R291). -/
def State.settleUnmap (s : State) (pte : Nat) : State :=
  if s.pinCount pte ≠ 0 then s
  else
    let hit := s.launches.deferred.filter fun d => d.1.pte == pte
    let s := { s with launches := { s.launches with deferred := s.launches.deferred.filter fun d => d.1.pte != pte } }
    hit.foldl (fun s d => (s.dropTr d.1.job d.1.va d.1.size).hwSend d.2 0x15 d.1.job (toW d.1.va) 0 0 0) s

/-- One pin taken; none past 255 (R287). -/
def State.pin (s : State) (owner job : Nat) (p : Page) : Option State :=
  if !p.here then some s
  else if s.pinCount p.pte = 255 then none
  else
    let s := s.setPins p.pte (s.pinCount p.pte + 1)
    some { s with launches := { s.launches with
      pins := s.launches.pins ++ [{ owner, pte := p.pte, job, va := p.va, size := p.size }] } }

/-- One pin released, never below 0. -/
def State.unpin (s : State) (x : Pin) : State :=
  let s := { s with launches := { s.launches with pins := s.launches.pins.erase x } }
  (s.setPins x.pte (s.pinCount x.pte - 1)).settleUnmap x.pte

/-- Pins of every page, or the address of the first that would pass 255. -/
def State.pinAll (owner job : Nat) : List Page → State → Except Nat State
  | [], s => .ok s
  | p :: r, s =>
    match s.pin owner job p with
    | none => .error p.va
    | some t => State.pinAll owner job r t

/-- A translation loaded pinned into a cluster for an owner, at most 2,048 of them (R238). -/
def State.loadPinned (s : State) (owner job : Nat) (p : Page) (cl : Nat) : State :=
  if !p.here then s
  else
    match pull (fun (t : Tr) => t.covers cl job p.va) s.tlb with
    | some (t, r) =>
      if t.pinned || decide ((s.tlb.filter fun u => u.cl == cl && u.pinned).length < 2048) then
        { s with tlb := { t with pinners := owner :: t.pinners.filter (· != owner) } :: r }
      else s
    | none =>
      if 2048 ≤ (s.tlb.filter fun u => u.cl == cl && u.pinned).length then s
      else
        let t : Tr := { cl, job, base := p.va, size := p.size, pte := p.pte, w0 := p.w0, pinners := [owner], logged := false }
        { s with tlb := fillTlb t s.tlb }

/-! LEASE (R288). -/

/-- The job and handle of an entry word (15_tables_inventory): job 0 is the issuer's own. -/
def entryWord (s : State) (a : Word) : Nat × Nat :=
  let j := wbits a 16 16
  (if j = 0 ∨ s.me.plv = 0 then s.me.job.toNat else j, wbits a 0 16)

/-- The clusters of the issuing die that a mask names. -/
def maskClusters (s : State) (c : Word) : List Nat :=
  ((List.range 16).filter fun i => c.getLsbD i).map fun i => coreDie s.me.homeCore * 16 + i

/-- The pages of a range that have a leaf, and those that have none any more but that LEASE pins (R288, R291). -/
def leafPages (s : State) (job hi : Nat) : Nat → Nat → List Page
  | 0, _ => []
  | n + 1, va =>
    if hi ≤ va then []
    else
      match s.walk job va with
      | none => leafPages s job hi n (va / 65536 * 65536 + 65536)
      | some (pte, level, w0, _) =>
        let size := pageSize level
        let base := va / size * size
        { pte, va := base, size, w0 := toW w0, here := bitsOf w0 48 16 == 0xFFFF } :: leafPages s job hi n (base + size)

def State.unpinPages (s : State) (job : Nat) (o : Obj) (r : Nat) : List Page :=
  let base := o.fld (1 + 2 * r) 0 56
  let len := o.fld (2 + 2 * r) 0 48
  if len = 0 then []
  else
    let l := leafPages s job (base + len) (len / 65536 + 2) base
    let lost := s.launches.pins.filter fun p =>
      p.owner == 0 && p.job == job && meets p.va p.size base len && !l.any fun x => x.pte == p.pte
    l ++ (lost.map fun p => ({ pte := p.pte, va := p.va, size := p.size, w0 := 0, here := true } : Page)).eraseDups

/-- Entries of a page that LEASE alone keeps. -/
def Tr.leased (job pte : Nat) (t : Tr) : Bool := t.job == job && t.pte == pte && t.pinners == [0]

def leaseOp (i : Instr) (a b c : Reg) (la : Look) (s : State) : Out :=
  command i supervisor la (do
    let (x, y, z) ← rd3 a b c
    let (job, h) := entryWord (← get) x
    let o ← useHandle job h 11 .admin x
    let s ← get
    need (wbits y 0 2 ≤ 1) (opFault 0 y)
    if wbits y 0 2 = 1 then upd (unpinAll job o)
    else
      match leasePages s job o (o.fld 0 8 4) 0 with
      | .error va =>
        match State.pinAll 0 job (leaseBefore s job o (o.fld 0 8 4) 0) s with
        | .ok _ => trap 5 0 (toW va)
        | .error _ => trap 7 0 0
      | .ok ps =>
        match State.pinAll 0 job ps s with
        | .ok t => set ((maskClusters s z).foldl (fun s cl => ps.foldl (fun s p => s.loadPinned 0 job p cl) s) t)
        | .error _ => trap 7 0 0
    promiseFree) s
where
  /-- Each page of each range released once, and the translations LEASE pinned dropped; a launch keeps those it loaded too. -/
  unpinAll (job : Nat) (o : Obj) (s : State) : State :=
    ((List.range (o.fld 0 8 4)).flatMap (s.unpinPages job o)).foldl (fun s p =>
      if !p.here then s
      else
        let s := s.unpin { owner := 0, pte := p.pte, job, va := p.va, size := p.size }
        let tlb := s.tlb.filter fun t => !t.leased job p.pte
        { s with tlb := tlb.map fun t => if t.job = job ∧ t.pte = p.pte then { t with pinners := t.pinners.filter (· != 0) } else t }) s

/-- One word encodes both; b says which at run time (log 16). -/
def execLeasePin (a b c : Reg) (la : Look) (s : State) : Out := leaseOp (.leasePin a b c la) a b c la s
def execLeaseUnpin (a b c : Reg) (la : Look) (s : State) : Out := leaseOp (.leaseUnpin a b c la) a b c la s

/-! XINV (R291). -/

/-- Whether a page overlaps a range; length 0 means every page. -/
def overlaps (start len base size : Nat) : Bool := len == 0 || (decide (base < start + len) && decide (start < base + size))

def execXinv (a b c : Reg) (la : Look) (s : State) : Out :=
  command (.xinv a b c la) supervisor la (do
    let (x, y, z) ← rd3 a b c
    pwHere
    storesDone
    upd fun s =>
      let job := if wbits z 0 16 = 0 then s.me.job.toNat else wbits z 0 16
      let hits (j base size : Nat) : Bool := (z.getLsbD 16 || j == job) && overlaps x.toNat y.toNat base size
      let pinned := s.launches.pins.filter fun p => hits p.job p.va p.size && decide (s.pinCount p.pte ≠ 0)
      let keep (t : Tr) : Bool := !hits t.job t.base t.size || (decide (s.pinCount t.pte ≠ 0) && wbits t.w0 48 16 == 0xFFFF)
      let clear (t : Tr) : Tr := if hits t.job t.base t.size then { t with logged := false } else t
      let later := (pinned.map fun p => ({ p with owner := 0 }, s.me.sid.toNat)).eraseDups.filter fun d =>
        !s.launches.deferred.contains d
      let s := { s with
        tlb := (s.tlb.filter keep).map clear
        launches := { s.launches with deferred := s.launches.deferred ++ later }
        me := { s.me with pw := if pinned.isEmpty then s.me.pw &&& 0x7FFF#16 else s.me.pw ||| 0x8000#16 } }
      s.retryRemaps
    promiseFree) s

/-! DLOGH (R290). -/

/-- Records in the log of a core. -/
def State.logCount (s : State) (core : Nat) : Nat := s.num (lsKey core 0xFF000) 2 % 512

/-- The logs of which records held at issue are still to be merged: merging one sets its count to 0 (R289). -/
def State.logsLeft (s : State) (l : List (Nat × Nat)) : List (Nat × Nat) := l.filter fun x => decide (x.2 ≤ s.logCount x.1)

def execDlogh (a : Reg) (la : Look) (s : State) : Out :=
  command (.dlogh a la) supervisor la (do
    let x ← rd a
    let s ← get
    let cls := if x.getLsbD 7 then List.range 128 else [wbits x 4 3 * 16 + wbits x 0 4]
    let cores := (cls.flatMap fun c => (List.range 16).map fun i => c * 32 + i).filter fun k => s.logCount k != 0
    let cores := cores.map fun k => (k, s.logCount k)
    promiseFree
    if cores.isEmpty then pure () else waitFor (.logs cores) la) s

/-! PGMIG (R292). -/

def State.leafW0 (s : State) (pte : Nat) : Nat := s.num pte 8

/-- A migration starts: FWD := 1, NEWPA := the target. -/
def State.startMig (s : State) (m : Mig) : State :=
  let s := s.setNum m.pte 8 (setBit (s.leafW0 m.pte) 10 true)
  let s := s.setNum (m.pte + 8) 8 (setBits (s.num (m.pte + 8) 8) 16 32 (m.new / 65536))
  { s with migs := s.migs ++ [m] }.due .pageMigrationLineCopy { n := m.pte }

def execPgmig (a b c : Reg) (la : Look) (s : State) : Out :=
  command (.pgmig a b c la) supervisor la (do
    let (x, y, z) ← rd3 a b c
    let s ← get
    let job := if wbits z 0 16 = 0 then s.me.job.toNat else wbits z 0 16
    match s.walk job (x.toNat % 2 ^ 56) with
    | none => opFault 0 y
    | some (pte, level, w0, w1) => do
      let size := pageSize level
      let new := wbits y 16 32 * 65536
      let old := bitsOf w0 16 32 * 65536
      need (bitsOf w0 48 16 == 0xFFFF && !(nbit new 47 && Config.lp6Share == 0) && bitsOf new 0 47 % size == 0 &&
        installed new size && new != old) (opFault 0 y)
      need (bitsOf w1 0 8 == 0) (illegalState x)
      if nbit w0 10 || s.targeted job (x.toNat % 2 ^ 56 / size * size) size then stop .wait
      promiseFree
      waitFor (.table 3 pte 0) la
      upd fun s => s.startMig { pte, old, new, size, moved := 0, job, va := x.toNat % 2 ^ 56 / size * size,
                                waiter := if la.val = 15 then none else some s.me.sid.toNat, swap := false }) s

/-- Lines and reservations that stand at one address seen at another. -/
def moveLine (a b : Nat) (l : Nat) : Nat := if l = a then b else l

/-- The reservation queue of a line goes with it, and what is still to reach it is sent on: queued stores, and the reads of a
code-book load (R292). f tells where a line goes. -/
def State.moveLines (s : State) (f : Nat → Nat) : State :=
  let key (k : Nat) : Nat := f (k / 256) * 256 + k % 256
  let owe (p : Pending) : Pending :=
    match p.src with
    | .reserve l ea => { p with src := .reserve (f l) ea }
    | _ => p
  let store (p : PendStore) : PendStore := { p with cells := p.cells.map fun c => (key c.1, c.2) }
  let str (t : Strand) : Strand := { t with resv := t.resv.map f, pend := t.pend.map owe, stores := t.stores.map store }
  { s with
    me := str s.me
    others := s.others.map str
    queues := { s.queues with
      resv := s.queues.resv.map fun (r : Resv) => { r with line := f r.line }
      input := s.queues.input.map fun x => (f x.1, x.2) }
    engines := { s.engines with loads := s.engines.loads.map fun (l : BookLoad) => { l with keys := l.keys.map key } } }

def State.setMig (s : State) (m : Mig) : State :=
  { s with migs := s.migs.map fun x => if x.pte == m.pte then m else x }

/-- One line copied from one address to another, or two exchanged. -/
def State.copyLine (s : State) (swap : Bool) (src dst : Nat) : State :=
  let bs := s.bytesAt src 256
  let cs := s.bytesAt dst 256
  let t := s.setBytes dst bs
  if swap then (t.setBytes src cs).moveLines fun l =>
      if l = src / 256 then dst / 256 else if l = dst / 256 then src / 256 else l
  else t.moveLines (moveLine (src / 256) (dst / 256))

def badLine (s : State) (a : Nat) : Option Nat := ((List.range 256).map (a + ·)).find? s.badAt

/-- The instruction that waits for a migration, if any, goes on or faults. -/
def State.endMig (s : State) (m : Mig) (f : Pending → Option Pending) : State :=
  match m.waiter with
  | none => s
  | some sid =>
    let g (p : Pending) : Option Pending := if p.src == .table 3 m.pte 0 then f p else some p
    s.modStrand sid fun t => { t with pend := t.pend.filterMap g }

/-- The end of a migration: PA and TIER take the target, FWD := 0, the page's translations are dropped. -/
def State.commitMig (s : State) (m : Mig) : State :=
  let s := s.setNum m.pte 8 (setBits (setBit (s.leafW0 m.pte) 10 false) 16 32 (m.new / 65536))
  let s := s.setNum (m.pte + 8) 8 (setBits (s.num (m.pte + 8) 8) 16 32 0)
  let s := { s with migs := s.migs.filter fun x => x.pte != m.pte }
  (s.dropTr m.job m.va m.size).endMig m fun _ => none

/-- A failed copy: moved lines go back, FWD := 0, the memory-error trap follows (R292). -/
def State.failMig (s : State) (m : Mig) (bad i : Nat) : State :=
  let s := (s.logError bad)
  let s := (List.range m.moved).foldl (fun s j => s.copyLine m.swap (m.new + 256 * j) (m.old + 256 * j)) s
  let s := s.setNum m.pte 8 (setBit (s.leafW0 m.pte) 10 false)
  let s := s.setNum (m.pte + 8) 8 (setBits (s.num (m.pte + 8) 8) 16 32 0)
  let s := { s with migs := s.migs.filter fun x => x.pte != m.pte }
  s.endMig m fun p => some (p.fail (.fault 8 0 (toW (m.va + 256 * i))))

/-- PAGE_MIGRATION_LINE_COPY: the next line of a page moves with its reservation queue, or, all lines moved, the
migration commits. Two pages that exchange frames move together (R293). A line in a brick the Marver has locked waits. -/
def execPageMigrationLineCopy (s : State) : Out :=
  match s.migs.find? fun m => m.pte == s.arg.n with
  | none => .next s
  | some m =>
    let partner := if m.swap then s.migs.find? fun x => x.swap && x.old == m.new && x.new == m.old else none
    let i := m.moved
    if m.size ≤ 256 * i then
      .next (match partner with
        | some x => (s.commitMig m).commitMig x
        | none => s.commitMig m)
    else if ((List.range 8).any fun j => s.locked (m.old + 256 * i + 32 * j) || s.locked (m.new + 256 * i + 32 * j)) then
      .next (s.due .pageMigrationLineCopy s.arg)
    else
      match badLine s (m.old + 256 * i), badLine s (m.new + 256 * i) with
      | some k, _ => .next (match partner with
        | some x => (s.failMig m k i).failMig { x with moved := 0 } k i
        | none => s.failMig m k i)
      | none, some k =>
        if m.swap then .next (match partner with
          | some x => (s.failMig m k i).failMig { x with moved := 0 } k i
          | none => s.failMig m k i)
        else .next (next s m partner i)
      | none, none => .next (next s m partner i)
where
  next (s : State) (m : Mig) (partner : Option Mig) (i : Nat) : State :=
    let s := (s.copyLine m.swap (m.old + 256 * i) (m.new + 256 * i)).setMig { m with moved := i + 1 }
    let s := match partner with
      | some x => s.setMig { x with moved := i + 1 }
      | none => s
    s.due .pageMigrationLineCopy { n := m.pte }

/-! The tier policy (R293). -/

/-- A leaf of a job's table. -/
structure Leaf where
  job : Nat
  pte : Nat
  va : Nat
  size : Nat
  w0 : Nat
  w1 : Nat
  deriving DecidableEq, Repr

def levelEntries : Nat → Nat
  | 0 => 131072 | 1 => 512 | 2 => 512 | _ => 32
def levelShift : Nat → Nat
  | 0 => 39 | 1 => 30 | 2 => 21 | _ => 16

/-- The well-formed leaves under a table, in address order. -/
def leavesUnder (s : State) (job : Nat) : Nat → Nat → Nat → Nat → List Leaf
  | 0, _, _, _ => []
  | n + 1, level, table, va =>
    (List.range (levelEntries level)).flatMap fun i =>
      let a := table + 16 * i
      let w0 := s.num a 8
      let w1 := s.num (a + 8) 8
      let here := va + i * 2 ^ levelShift level
      if !nbit w0 0 then []
      else if nbit w0 1 then (if leafOk s.fabric.routes level w0 w1 then [{ job, pte := a, va := here, size := pageSize level, w0, w1 }] else [])
      else if level < 3 && tableOk w0 w1 then leavesUnder s job n (level + 1) (bitsOf w0 16 31 * 65536) here
      else []

/-- Every leaf of every job record. -/
def State.leaves (s : State) : List Leaf :=
  s.obj.flatMap fun e =>
    if e.2.valid && e.2.kind == 4 then leavesUnder s (e.2.fld 0 8 16) 4 0 (bitsOf (e.2.word 3) 16 31 * 65536) 0 else []

def State.countOf (s : State) (l : Leaf) : Nat := (SMap.find (bitsOf l.w0 16 32) s.tier.counts).getD 0

/-- A page of this device that the policy may move. -/
def Leaf.movable (l : Leaf) : Bool :=
  bitsOf l.w0 48 16 == 0xFFFF && nbit l.w0 9 && !nbit l.w0 10 && bitsOf l.w1 0 8 == 0

/-- The victim for a page: HBM, of its size, with the lowest count, at the lowest address among equals. -/
def State.victim (s : State) (ls : List Leaf) (size : Nat) : Option Leaf :=
  (ls.filter fun l => l.movable && !nbit l.w0 47 && l.size == size && !s.targeted l.job l.va l.size &&
      !(s.migs.any fun m => m.pte == l.pte)).foldl
    (fun (best : Option Leaf) l =>
      match best with
      | none => some l
      | some b =>
        if s.countOf l < s.countOf b ∨ (s.countOf l = s.countOf b ∧ bitsOf l.w0 16 31 < bitsOf b.w0 16 31) then some l else some b)
    none

/-- One hot page exchanges frames with its victim; without one it waits, and so does a page that may not move now. -/
def State.promote (ls : List Leaf) (s : State) (l : Leaf) : State :=
  if s.migs.any fun m => m.pte == l.pte then s
  else
    match if l.movable && !s.targeted l.job l.va l.size then s.victim ls l.size else none with
    | none => { s with tier := { s.tier with waiting := s.tier.waiting ++ [l.pte] } }
    | some v =>
      let fa := bitsOf l.w0 16 32 * 65536
      let fb := bitsOf v.w0 16 32 * 65536
      let mark (s : State) (pte new : Nat) : State :=
        (s.setNum pte 8 (setBit (s.leafW0 pte) 10 true)).setNum (pte + 8) 8
          (setBits (s.num (pte + 8) 8) 16 32 (new / 65536))
      let s := mark (mark s l.pte fb) v.pte fa
      let m (x : Leaf) (o n : Nat) : Mig :=
        { pte := x.pte, old := o, new := n, size := x.size, moved := 0, job := x.job, va := x.va, waiter := none, swap := true }
      let s := { s with migs := s.migs ++ [m l fa fb, m v fb fa] }
      (s.due .pageMigrationLineCopy { n := l.pte }).hwSend (s.faultSid l.job) 0x16 l.job (toW l.va) (toW v.va) 0 0

/-- TIER_EPOCH_END: hot LP6 pages exchange frames with cold HBM pages; counting starts again. With flag the promotions
that wait for a victim are tried again. -/
def execTierEpochEnd (s : State) : Out :=
  let e := s.clk.toNat / 1048576
  if Config.lp6Share = 0 then .next { s with tier := { counts := [], epoch := e, waiting := [] } }
  else
    let ls := s.leaves
    let old := ls.filter fun l => s.tier.waiting.contains l.pte && nbit l.w0 47 && nbit l.w0 9
    let hot := if s.arg.flag then [] else ls.filter fun l =>
      l.movable && nbit l.w0 47 && decide (4096 < s.countOf l) && !s.tier.waiting.contains l.pte
    let t := (old ++ hot).foldl (State.promote ls) { s with tier := { s.tier with waiting := [] } }
    let t := if s.arg.flag then t else { t with tier := { t.tier with counts := [], epoch := e } }
    .next (if t.tier.waiting.isEmpty then t else t.due .tierEpochEnd { flag := true })

end Sys2Proof.Machine
end

