-- ==== Sys2Proof/Machine/Launch.lean ====
section
/-! DEFINITION. Launches, graphs and cancels (13_launch_to_issue, R232-R245). -/

namespace Sys2Proof.Machine

/-! Record fields (Tables 13.1 to 13.3). -/

def Obj.lState (o : Obj) : Nat := o.fld 0 10 3
def Obj.gState (o : Obj) : Nat := o.fld 0 15 3
def Obj.jState (o : Obj) : Nat := o.fld 0 28 3
def Obj.tcount (o : Obj) : Nat := o.fld 4 0 32
def Obj.nodes (o : Obj) : Nat := o.fld 0 8 7
/-- Bit k of the 1,536-bit span of a graph record. -/
def Obj.nodeBits (o : Obj) (k n : Nat) : Nat := bitsOf o.img.toNat (64 + k) n
def Obj.nodeHandle (o : Obj) (v : Nat) : Nat := o.nodeBits (24 * v) 16
def Obj.nodeCount (o : Obj) (v : Nat) : Nat := o.nodeBits (24 * v + 16) 6
/-- The clusters of a launch in ascending order. -/
def Obj.clusters (o : Obj) : List Nat := (List.range 128).filter (inClusters o)

/-- STATE of the job; a job without a record is live (log 11). -/
def State.jobState (s : State) (job : Nat) : Nat := ((s.jobRec? job).map Obj.jState).getD 0
def State.modJob (s : State) (job : Nat) (f : Obj → Obj) : State :=
  match findJob job s.obj with
  | none => s
  | some k => s.modObj k f

/-- Active records of a kind, and those of one die. -/
def State.active (s : State) (kind : Nat) : List (Nat × Nat) := s.launches.die.filter fun e => (s.objAt e.1).kind == kind
def State.activeOn (s : State) (kind die : Nat) : Nat := ((s.active kind).filter fun e => e.2 == die).length

/-- LEASE names a valid lease set. -/
def State.leaseValid (s : State) (job : Nat) (o : Obj) : Bool :=
  let h := o.fld 0 16 16
  let l := s.objAt (objKey job h)
  h != 0 && l.valid && l.kind == 11

/-- A launch with tasks and no cluster for them. -/
def Obj.noCluster (o : Obj) : Bool := o.tcount != 0 && o.fld 6 0 128 == 0

/-- The completion word at DONEADDR, written by the launch unit of a die; an address that does not translate is reported
(R240). -/
def State.bump (s : State) (die job h va : Nat) : State :=
  if va = 0 then s
  else
    match engAdd (16 * die) job va 1 s with
    | .error e => if e.status = 0 then s.addWord (16 * die) job va 1 else s.hwSend (s.faultSid job) 0x23 job (toW h) (toW va) 0 0
    | _ => s.addWord (16 * die) job va 1

/-- The NOTIFY message of a record (R240). -/
def State.notify (s : State) (job w : Nat) (o : Vector Word 6) : State :=
  let dst := bitsOf w 0 32
  if dst = 0xFFFFFFFF then s
  else
    let m : Msg := { h0 := toW (0xFFFFFFFF + bitsOf w 32 16 * 2 ^ 32 + job * 2 ^ 48), o }
    { s with queues := { s.queues with hw := s.queues.hw ++ [HwMsg.mk dst m] } }.due .hardwareMessageDelivery

/-! The start of a launch (R235). -/

/-- The writes of LAUNCH: the counters cleared, the job's LIVE one higher, the launch active on a die. -/
def State.beginLaunch (s : State) (key die : Nat) : State :=
  let o := s.objAt key
  let o := ((((o.setFld 9 0 40 o.tcount).setFld 10 0 40 0).setFld 11 0 40 0).setFld 12 0 40 0).setFld 15 0 32 0
  let o := o.setFld 0 10 3 (if o.tcount = 0 then 3 else 1)
  let s := (s.setObj key o).modJob (key / 65536) fun j => j.setFld 2 0 32 (j.fld 2 0 32 + 1)
  let s := { s with launches := { s.launches with
    die := SMap.put key die s.launches.die, gen := s.launches.gen.filter fun e => e.1 / 8 != key } }
  if o.tcount = 0 then s else s.due .launchPreparation { job := key / 65536, h := key % 65536 }

/-! Graphs (R236). -/

def succs (edges : List Nat) (n v : Nat) : List Nat := (List.range n).filter fun w => nbit (edges.getD v 0) w
def preds (edges : List Nat) (n w : Nat) : List Nat := (List.range n).filter fun v => nbit (edges.getD v 0) w

/-- Nodes reachable from some. -/
def reach (edges : List Nat) (n : Nat) : Nat → List Nat → List Nat
  | 0, l => l
  | k + 1, l => reach edges n k (l ++ l.flatMap (succs edges n)).eraseDups

/-- Nodes whose counts can reach 0, in rounds. -/
def settleNodes (edges : List Nat) (n : Nat) (counts : List Nat) : Nat → List Nat → List Nat
  | 0, l => l
  | k + 1, l =>
    settleNodes edges n counts k (l ++ (List.range n).filter fun v =>
      !l.contains v && counts.getD v 0 == (preds edges n v).length && (preds edges n v).all l.contains)

def State.graphList (s : State) (g : Nat) : List Nat := (SMap.find g s.launches.counts).getD []
def State.setGraphList (s : State) (g : Nat) (l : List Nat) : State :=
  { s with launches := { s.launches with counts := SMap.put g l s.launches.counts } }

/-- Nodes counted as skipped, once each. -/
def State.skipNodes (s : State) (g : Nat) (vs : List Nat) : State :=
  let l := s.graphList g
  let vs := vs.filter fun v => l.getD v 128 != 128
  (s.setGraphList g (vs.foldl (fun l v => l.set v 128) l)).modObj g fun o => o.setFld 26 8 7 (o.fld 26 8 7 + vs.length)

/-- The nodes that follow one, directly or not. -/
def State.after (s : State) (g v : Nat) : List Nat :=
  let n := (s.objAt g).nodes
  let edges := (s.graphList g).drop 64
  reach edges n n (succs edges n v)

/-- FINISHED + SKIPPED = NODES: the graph completes. What its NOTIFY message says beyond the handle is not stated:
free values. -/
def State.endGraph (s : State) (g : Nat) : State :=
  let o := s.objAt g
  let job := g / 65536
  if o.fld 26 0 7 + o.fld 26 8 7 < o.nodes then s
  else
    let s := s.setObjFld g 0 15 3 5
    let s := (List.range o.nodes).foldl (fun s v => s.setObjFld (objKey job (o.nodeHandle v)) 0 32 16 0) s
    let die := (SMap.find g s.launches.die).getD 0
    let s := { s with launches := { s.launches with die := SMap.del g s.launches.die, counts := SMap.del g s.launches.counts } }
    let s := s.bump die job (g % 65536) (o.fld 27 0 56)
    let f (i : Nat) : Word := Config.freeWord (s.free + i)
    { s with free := s.free + 3 }.notify job (o.word 28) #v[toW (g % 65536), f 0, f 1, f 2, 0, 0]

/-- A node's launch is done: successors come nearer, or what follows is skipped. -/
def State.countNode (s : State) (g v : Nat) (ok : Bool) : State :=
  let s := s.modObj g fun o => o.setFld 26 0 7 (o.fld 26 0 7 + 1)
  if ok then
    let l := s.graphList g
    let ws := succs (l.drop 64) (s.objAt g).nodes v
    s.setGraphList g (ws.foldl (fun l w => if l.getD w 128 = 128 then l else l.set w (l.getD w 0 - 1)) l)
  else s.skipNodes g (s.after g v)

/-- A node whose count is 0 is launched; one that LAUNCH would refuse counts as failed; one without a place in the
launch queue waits for it. -/
def State.startNode (s : State) (g v : Nat) : State :=
  let job := g / 65536
  let h := (s.objAt g).nodeHandle v
  let key := objKey job h
  let o := s.objAt key
  let die := (SMap.find g s.launches.die).getD 0
  if (s.graphList g).getD v 128 ≠ 0 then s
  else if o.kind ≠ 2 ∨ !o.valid ∨ o.noCluster ∨ !s.leaseValid job o ∨ (o.lState ≠ 0 ∧ o.lState ≠ 5) then
    s.countNode g v false
  else if s.activeOn 2 die < 64 then s.beginLaunch key die
  else s.due .launchPreparation { job, h := g % 65536, n := v, flag := true }

/-- The graph of a completed launch is told. -/
def State.nodeDone (s : State) (g h : Nat) : State :=
  let o := s.objAt g
  match (List.range o.nodes).find? fun v => o.nodeHandle v == h with
  | none => s
  | some v =>
    if (SMap.find g s.launches.die).isNone then s
    else
      let l := s.objAt (objKey (g / 65536) h)
      let ok := l.fld 11 0 40 + l.fld 12 0 40 == 0
      let s := s.countNode g v ok
      let s := if ok then (succs ((s.graphList g).drop 64) o.nodes v).foldl (fun s w => s.startNode g w) s else s
      s.endGraph g

/-! Completion (R240). -/

/-- The pins of an owner released; translations that nothing else pins become unpinned entries. -/
def State.unpinOwner (s : State) (key : Nat) : State :=
  let s := (s.launches.pins.filter fun p => p.owner == key).foldl State.unpin s
  { s with tlb := s.tlb.map fun (t : Tr) => { t with pinners := t.pinners.filter (· != key) } }

/-- A CANCEL that waits for a launch has one less to wait for. -/
def cancelOne (job h : Nat) (p : Pending) : Pending :=
  match p.src with
  | .cancel j hs =>
    if j = job then
      let r := hs.filter (· != h)
      { p with src := if r.isEmpty then .value [0] else .cancel j r }
    else p
  | _ => p

/-- The bit of the device itself in a subscription bitmap (R300). -/
def ownPort : Nat := 79

/-- A group's bitmap changed, its version one higher (R300). -/
def State.setBitmap (s : State) (g v : Nat) : State :=
  { s with fabric := { s.fabric with
    bitmap := SMap.put g v s.fabric.bitmap
    version := SMap.put g (((SMap.find g s.fabric.version).getD 0 + 1) % 256) s.fabric.version } }
def State.ports (s : State) (g : Nat) : Nat := (SMap.find g s.fabric.bitmap).getD 0

/-- A leave clears a port's bit and travels on toward the root while the bitmap left is empty (R304). -/
def State.leavePort (s : State) (g port root : Nat) : State :=
  let v := clearBit (s.ports g) port
  let s := s.setBitmap g v
  if v = 0 ∧ root ≠ s.devNo then
    { s with fabric := { s.fabric with out := s.fabric.out ++ [{ dev := root, job := 0, kind := 5, a := g, b := 0, bytes := [] }] } }
  else s

/-- The multicast-group records of a job that name a group. -/
def State.groupRecs (s : State) (job g : Nat) : List Nat :=
  (s.obj.filter fun e => e.1 / 65536 == job && e.2.valid && e.2.kind == 9 && e.2.fld 0 8 12 == g).map Prod.fst

/-- A die's entry for a group of a job removed; with the last one of the device the device leaves (R304). -/
def State.unsub (s : State) (die job g : Nat) : State :=
  if s.fabric.subs.any fun e => e.1 == die && e.2.1 == job && e.2.2.1 == g then
    let subs := s.fabric.subs.filter fun e => !(e.1 == die && e.2.1 == job && e.2.2.1 == g)
    let s := { s with fabric := { s.fabric with subs } }
    if subs.any fun e => e.2.2.1 == g then s
    else
      let ks := s.groupRecs job g
      let root := match ks with
        | [] => s.devNo
        | k :: _ => (s.objAt k).fld 0 48 16
      (ks.foldl (fun s k => s.setObjFld k 0 20 1 0) s).leavePort g ownPort root
  else s

/-- The end of a job: its key is destroyed (R374), its match-table entries go (R304). -/
def State.jobGone (s : State) (job : Nat) : State :=
  let slot := ((s.jobRec? job).map fun j => j.fld 4 0 10).getD 1024
  let s := { s with device := { s.device with slots := s.device.slots.filter (· != slot) } }
  (s.fabric.subs.filter fun e => e.2.1 == job).foldl (fun s e => s.unsub e.1 job e.2.2.1) s

/-- A job whose last launch has ended under a cancel has ended (Table 13.3). -/
def State.endJob (s : State) (job : Nat) : State :=
  if s.jobState job = 4 ∧ !(s.launches.die.any fun e => e.1 / 65536 == job) then
    (s.modJob job fun j => j.setFld 0 28 3 5).jobGone job
  else s

/-- The record of a completed launch is warm while it stays in its die's cache (R238). -/
def State.warmed (s : State) (key : Nat) : State :=
  { s with launches := { s.launches with warm := s.launches.warm.map fun e => if e.2.1 = key then (e.1, key, true) else e } }

/-- Completion of a launch. -/
def State.completeLaunch (s : State) (key : Nat) : State :=
  let job := key / 65536
  let h := key % 65536
  let die := (SMap.find key s.launches.die).getD 0
  let s := (s.unpinOwner key).warmed key
  let s := (s.setObjFld key 0 10 3 5).modJob job fun j => j.setFld 2 0 32 (j.fld 2 0 32 - 1)
  let s := { s with launches := { s.launches with
    die := SMap.del key s.launches.die, gen := s.launches.gen.filter fun e => e.1 / 8 != key } }
  let o := s.objAt key
  let s := s.bump die job h (o.fld 13 0 56)
  let s := s.notify job (o.word 14) #v[toW h, toW (o.fld 10 0 40), toW (o.fld 11 0 40), toW (o.fld 12 0 40), 0, 0]
  let s := if o.fld 0 32 16 = 0 then s else s.nodeDone (objKey job (o.fld 0 32 16)) h
  let tell (t : Strand) : Strand := { t with pend := t.pend.map (cancelOne job h) }
  { s with me := tell s.me, others := s.others.map tell }.endJob job

/-- Whether a launch may complete: every task counted, every engine command and transfer of it retired. -/
def State.launchOver (s : State) (key : Nat) : Bool :=
  let o := s.objAt key
  let l := some key
  launchCounted o && (o.lState == 3 || o.lState == 4) && !(s.engines.cmds.any fun c => c.launch == l) &&
    !(s.engines.xfers.any fun x => x.launch == l)

/-- LAUNCH_COMPLETION. -/
def execLaunchCompletion (s : State) : Out :=
  let key := objKey s.arg.job s.arg.h
  if s.launchOver key then .next (s.completeLaunch key) else .next s

/-! LAUNCH and GRUN. -/

def execLaunch (d a b : Reg) (g : Guard) (la : Look) (s : State) : Out :=
  long 4 g la.val [d] (do
    let (x, y) ← rd2 a b
    let key ← ownHandle x 2 .call
    released
    let s ← get
    let o := s.objAt key
    let die := coreDie s.me.homeCore
    if o.lState ≠ 0 ∧ o.lState ≠ 2 ∧ o.lState ≠ 5 then wr d 1
    else if s.jobState s.me.job.toNat ≠ 0 then wr d 3
    else if o.lState = 2 then do
      upd fun s => (s.setObjFld key 0 10 3 1).due .launchPreparation { job := key / 65536, h := key % 65536 }
      wr d 0
    else do
      need (s.leaseValid s.me.job.toNat o) (opFault 1 x)
      need (!o.noCluster) (opFault 0 x)
      need (decide (s.activeOn 2 die < 64)) (stop .wait)
      upd fun s =>
        let s := if y = 0 then s else s.setObjFld key 5 0 56 y.toNat
        let s := s.beginLaunch key die
        if o.tcount = 0 then s.completeLaunch key else s
      wr d 0) s

/-- One node of a graph checked: a launch record with the call right, its lease, no launch twice. -/
def nodeOk (job : Nat) (o : Obj) (v : Nat) : M Unit := do
  let h := o.nodeHandle v
  let l ← useHandle job h 2 .call (toW v)
  let s ← get
  need (s.leaseValid job l) (opFault 1 (toW v))
  need (!(List.range v).any fun u => o.nodeHandle u == h) (opFault 0 (toW v))

def nodesOk (job : Nat) (o : Obj) : List Nat → M Unit
  | [] => pure ()
  | v :: r => do
    nodeOk job o v
    nodesOk job o r

/-- The 64 words of EDGES, read once by a die's launch unit when the graph starts. -/
def edgesOf (die job va : Nat) : M (List Nat) := fun s =>
  match s.unitPieces (16 * die) job 8 64 va with
  | .error e => if e.status = 1 then .error (.bad e.pa (toW e.va)) else .error (.trap 5 0 (toW e.va))
  | .ok (bs, t) => .ok (groups 8 64 bs, t)

def execGrun (d a : Reg) (g : Guard) (la : Look) (s : State) : Out :=
  long 4 g la.val [d] (do
    let x ← rd a
    let key ← ownHandle x 3 .call
    released
    let s ← get
    let job := key / 65536
    let o := s.objAt key
    let n := o.nodes
    let die := coreDie s.me.homeCore
    nodesOk job o (List.range n)
    let edges ← edgesOf die job (o.fld 25 0 56)
    let counts := (List.range n).map o.nodeCount
    let good := settleNodes edges n counts n []
    match (List.range n).find? fun v => !good.contains v with
    | some v => opFault 0 (toW v)
    | none => do
      let launch (v : Nat) : Obj := s.objAt (objKey job (o.nodeHandle v))
      let first := (List.range n).filter fun v => counts.getD v 1 == 0
      if s.jobState s.me.job.toNat ≠ 0 then wr d 3
      else if o.gState = 3 ∨ o.gState = 4 ∨ (List.range n).any (fun v => (launch v).lState != 0 && (launch v).lState != 5) then
        wr d 1
      else do
        need (!first.any fun v => (launch v).noCluster) (opFault 0 x)
        need (decide (s.activeOn 3 die < 16) && decide (s.activeOn 2 die + first.length ≤ 64)) (stop .wait)
        upd fun s =>
          let s := s.modObj key fun o => ((o.setFld 0 15 3 3).setFld 26 0 7 0).setFld 26 8 7 0
          let s := { s with launches := { s.launches with die := SMap.put key die s.launches.die } }
          let s := s.setGraphList key (counts ++ List.replicate (64 - n) 128 ++ edges)
          let s := (List.range n).foldl (fun s v => s.setObjFld (objKey job (o.nodeHandle v)) 0 32 16 (key % 65536)) s
          first.foldl (fun s v => s.startNode key v) s
        wr d 0) s

/-! Preparation (R238, R239). -/

/-- The page of an address that every target cluster still holds. -/
def warmPage (s : State) (cls : List Nat) (job va : Nat) : Option Page :=
  match cls.head?.bind fun cl => s.tlb.find? fun t => t.covers cl job va with
  | none => none
  | some t =>
    if cls.all fun cl => s.tlb.any fun u => u.covers cl job va then
      some { pte := t.pte, va := t.base, size := t.size, w0 := t.w0, here := wbits t.w0 48 16 == 0xFFFF }
    else none

/-- The page of an address by a walk. -/
def walkedPage (s : State) (job va : Nat) : Option Page :=
  match s.walk job va with
  | none => none
  | some (pte, level, w0, _) =>
    some { pte, va := va / pageSize level * pageSize level, size := pageSize level, w0 := toW w0,
           here := bitsOf w0 48 16 == 0xFFFF }

/-- The pages of a lease range, walked but for those a warm record need not walk. -/
def prepPages (s : State) (warm : Bool) (cls : List Nat) (job right hi : Nat) : Nat → Nat → Except Nat (List Page)
  | 0, _ => .ok []
  | n + 1, va =>
    if hi ≤ va then .ok []
    else
      let page := match if warm then warmPage s cls job va else none with
        | some p => some p
        | none => walkedPage s job va
      match page with
      | none => .error va
      | some p =>
        if (wbits p.w0 5 2 &&& right) ≠ right then .error va
        else
          match prepPages s warm cls job right hi n (p.va + p.size) with
          | .error e => .error e
          | .ok r => .ok (p :: r)

def prepRanges (s : State) (warm : Bool) (cls : List Nat) (job : Nat) (o : Obj) : List Nat → Except Nat (List Page)
  | [] => .ok []
  | r :: t =>
    let base := o.fld (1 + 2 * r) 0 56
    let len := o.fld (2 + 2 * r) 0 48
    match (if len = 0 then .ok [] else prepPages s warm cls job (o.fld (2 + 2 * r) 48 2) (base + len) (len / 65536 + 2) base),
        prepRanges s warm cls job o t with
    | .ok a, .ok b => .ok (a ++ b)
    | .error e, _ => .error e
    | _, .error e => .error e

/-- The pages before the first that fails. -/
def prepBefore (s : State) (warm : Bool) (cls : List Nat) (job : Nat) (o : Obj) : List Nat → List Page
  | [] => []
  | r :: t =>
    let base := o.fld (1 + 2 * r) 0 56
    let len := o.fld (2 + 2 * r) 0 48
    let pages (hi : Nat) := prepPages s warm cls job (o.fld (2 + 2 * r) 48 2) hi (len / 65536 + 2) base
    match (if len = 0 then .ok [] else pages (base + len)) with
    | .ok a => a ++ prepBefore s warm cls job o t
    | .error va =>
      match pages va with
      | .ok a => a
      | .error _ => []

/-- Cores that are home to a line of a page between two addresses; 17 * 2^15 lines meet every one of a die. -/
def lineHomes (s : State) (p : Page) (lo hi : Nat) : List Nat :=
  let first := Max.max lo p.va / 256
  let last := Min.min (hi - 1) (p.va + p.size - 1) / 256
  ((List.range (Min.min (last + 1 - first) 557056)).map fun i =>
    s.home (wbits p.w0 16 32 * 65536 + ((first + i) * 256 - p.va))).eraseDups

/-- Cores that are home to a line of a leased range (R226). -/
def leaseHomes (s : State) (o : Obj) (ps : List Page) : List Nat :=
  ((List.range (o.fld 0 8 4)).flatMap fun r =>
    let lo := o.fld (1 + 2 * r) 0 56
    let hi := lo + o.fld (2 + 2 * r) 0 48
    (ps.filter fun p => p.here && decide (p.va < hi) && decide (lo < p.va + p.size)).flatMap fun p => lineHomes s p lo hi).eraseDups

/-- Placement cores of a launch: compute and gaffer cores of its clusters, and the homes recorded for it. -/
def State.placement (s : State) (key : Nat) : List Nat :=
  ((s.objAt key).clusters.flatMap fun c => (List.range 17).map fun i => c * 32 + i) ++
    (s.launches.cores.filter fun e => e.1 == key).map Prod.snd

def imageMeets (a b : Obj) : Bool :=
  decide (a.fld 3 20 20 < b.fld 3 20 20 + b.fld 3 0 20) && decide (b.fld 3 20 20 < a.fld 3 20 20 + a.fld 3 0 20)

/-- Launches whose images overlap this one's on a core. -/
def State.overlapping (s : State) (key : Nat) : List Nat :=
  let o := s.objAt key
  let mine := s.placement key
  (s.obj.filter fun e => e.1 != key && e.2.valid && e.2.kind == 2 && imageMeets o e.2 &&
    (s.placement e.1).any mine.contains).map Prod.fst

/-- The launch is held with a message (R238, R239). -/
def State.holdLaunch (s : State) (key kind : Nat) (x y : Word) : State :=
  (s.setObjFld key 0 10 3 2).hwSend (s.faultSid (key / 65536)) kind (key / 65536) (toW (key % 65536)) x y 0

/-- MEAS of a job extended by an image (R373). -/
def extendMeas (bs : List Byte) (j : Obj) : Obj :=
  j.setFld 8 0 512 (leNat (shake256 (leBytes 64 (j.fld 8 0 512) ++ shake256 bs)))

/-- The image read once, in its units of 16 bytes, and written to every placement core; the job's measurement takes it in. -/
def State.placeImage (s : State) (die key : Nat) : Except Nat State :=
  let o := s.objAt key
  match s.unitPieces (16 * die) (key / 65536) 16 (o.fld 3 0 20 / 16) (o.fld 2 0 56) with
  | .error e => .error e.va
  | .ok (bs, s) =>
    let s := (s.overlapping key).foldl (fun s k => s.setObjFld k 0 13 1 0) s
    let s := (s.placement key).eraseDups.foldl (fun s c => s.setBytes (lsKey c (o.fld 3 20 20)) bs) s
    .ok ((s.modJob (key / 65536) (extendMeas bs)).setObjFld key 0 13 1 1)

/-- Whether a record is warm in a die's cache (R238). -/
def State.isWarm (s : State) (die key : Nat) : Bool := s.launches.warm.contains (die, key, true) && (s.objAt key).fld 0 13 1 == 1

/-- The record cache of a die holds 64 records. -/
def State.cacheRecord (s : State) (die key : Nat) : State :=
  let l := (die, key, s.launches.warm.contains (die, key, true)) :: s.launches.warm.filter fun e => !(e.1 == die && e.2.1 == key)
  let here := l.filter fun e => e.1 == die
  { s with launches := { s.launches with warm := here.take 64 ++ l.filter fun e => e.1 != die } }

/-- A preparation from step 1 to step 4; a failure leaves no pin and no translation of it. -/
def State.prepare (s : State) (key : Nat) : State :=
  let o := s.objAt key
  let job := key / 65536
  let die := (SMap.find key s.launches.die).getD 0
  let lease := s.objAt (objKey job (o.fld 0 16 16))
  let warm := s.isWarm die key
  let s := s.cacheRecord die key
  match prepRanges s warm o.clusters job lease (List.range (lease.fld 0 8 4)) with
  | .error va =>
    match State.pinAll key job (prepBefore s warm o.clusters job lease (List.range (lease.fld 0 8 4))) s with
    | .ok _ => s.holdLaunch key 0x21 (toW va) 0
    | .error vb => s.holdLaunch key 0x21 (toW vb) 1
  | .ok ps =>
    match State.pinAll key job ps s with
    | .error va => s.holdLaunch key 0x21 (toW va) 1
    | .ok t =>
      let t := o.clusters.foldl (fun s cl => ps.foldl (fun s p => s.loadPinned key job p cl) s) t
      let homes := leaseHomes s lease ps
      let cores := (s.launches.cores.filter fun e => e.1 != key) ++ homes.map fun c => (key, c)
      let t := { t with launches := { t.launches with cores } }
      let u : State := { s with launches := { s.launches with cores } }
      if o.fld 0 13 1 = 1 then t.setObjFld key 0 10 3 3
      else
        match (u.overlapping key).find? fun k => decide (1 ≤ (u.objAt k).lState) && decide ((u.objAt k).lState ≤ 4) with
        | some k => u.holdLaunch key 0x22 (toW (k % 65536)) 0
        | none =>
          match t.placeImage die key with
          | .error va => u.holdLaunch key 0x21 (toW va) 2
          | .ok t => t.setObjFld key 0 10 3 3

/-- LAUNCH_PREPARATION; with flag a graph's node that waits for a place in the launch queue. -/
def execLaunchPreparation (s : State) : Out :=
  let key := objKey s.arg.job s.arg.h
  if s.arg.flag then
    if (SMap.find key s.launches.die).isNone then .next s else .next ((s.startNode key s.arg.n).endGraph key)
  else if (s.objAt key).lState = 1 then .next (s.prepare key) else .next s

/-! Generation (R240). -/

/-- A die's first position among the clusters of a launch, and how many are its own. -/
def dieShare (o : Obj) (die : Nat) : Nat × Nat :=
  ((o.clusters.filter fun c => decide (c / 16 < die)).length, (o.clusters.filter fun c => c / 16 == die).length)

def State.genCount (s : State) (key die : Nat) : Nat := (SMap.find (8 * key + die) s.launches.gen).getD 0

/-- The next tix a die's launch unit generates. -/
def State.nextTix (s : State) (key die : Nat) : Option Nat :=
  let o := s.objAt key
  let (lo, m) := dieShare o die
  if m = 0 then none
  else
    let n := s.genCount key die
    let i := n / m * o.clusters.length + lo + n % m
    if i < o.tcount then some i else none

/-- The record of one task. -/
def genRec (o : Obj) (key i : Nat) (clk : Word) : Rec where
  job := BitVec.ofNat 16 (key / 65536)
  pc := BitVec.ofNat 48 (o.fld 1 0 20)
  pw := 1
  lrec := BitVec.ofNat 16 (key % 65536)
  prio := BitVec.ofNat 2 (o.fld 0 8 2)
  o := #v[toW (o.fld 5 0 56), 0, 0, 0, 0, 0]
  tix := BitVec.ofNat 32 i
  wake := 0
  spawned := false
  t1 := 0
  t2 := 0
  since := clk
  made := true

/-- Where a die's next record goes: a cluster queue with fewer than 16 records generated for the launch, or the die queue for
a drained cluster. -/
def State.genTarget (s : State) (key die : Nat) : Option (Nat × Nat × Bool) :=
  let o := s.objAt key
  match s.nextTix key die with
  | none => none
  | some i =>
    let cl := o.clusters.getD (i % o.clusters.length) 0
    let mine (e : Nat × Rec) : Bool := e.1 == cl && e.2.made && e.2.key == some key
    let waiting := (s.queues.task.filter mine).length + (s.queues.ring.filter fun e => mine (e.1, e.2.2)).length
    if o.lState ≠ 3 then none
    else if !s.serving (cl * 32) then (if s.dieRoom die then some (i, cl, true) else none)
    else if waiting < 16 && s.taskRoom cl then some (i, cl, false) else none

/-- RECORD_GENERATION: one record of the launch by the launch unit of arg.die. -/
def execRecordGeneration (s : State) : Out :=
  let key := objKey s.arg.job s.arg.h
  let die := s.arg.die
  match s.genTarget key die with
  | none => .next s
  | some (i, cl, far) =>
    let o := s.objAt key
    let r := genRec o key i s.clk
    let s := if far then s.putDie die r else s.putTask cl r
    let s := { s with launches := { s.launches with gen := SMap.put (8 * key + die) (s.genCount key die + 1) s.launches.gen } }
    let next := (List.range 8).foldl (fun m d => Min.min m ((s.nextTix key d).getD o.tcount)) o.tcount
    .next (s.setObjFld key 15 0 32 next)

/-- Records generated by every die. -/
def State.generated (s : State) (key : Nat) : Nat := ((List.range 8).map fun d => s.genCount key d).sum

/-! CANCEL (R237, R244). -/

/-- A cancelled task is counted in CANC, with no message. -/
def cancelDoom : Doom where
  how := .canc
  kind := 0
  o := #v[0, 0, 0, 0]

/-- A strand that is to end by a cancel: one that runs, waits or is parked at once, one in a run queue at its home slot, a
packet in transit when it has been sent back, a spilled strand at its RESTORE (R237, Table 13.5). -/
def State.cancelStrand (s : State) (sid : Nat) : State :=
  match s.strand? sid with
  | none => s
  | some t =>
    let queued := s.queues.run.any fun e => e.2 == RunEntry.strand (sid % 65536)
    if t.doom.isSome then s
    else
      match t.status with
      | .idle => s
      | .spilled _ _ => s.modStrand sid fun t => { t with doom := some cancelDoom }
      | .transit _ _ =>
        let s := (s.focus sid).condemn cancelDoom
        if queued then
          { s with queues := { s.queues with run := s.queues.run.filter fun e => e.2 != RunEntry.strand (sid % 65536) } }.depart
            t.homeCore 5
        else s
      | _ => (s.focus sid).condemn cancelDoom

def State.cancelStrands (s : State) (f : Strand → Bool) : State :=
  let mine := s.me.sid.toNat
  ((s.strands.filter f).foldl (fun s t => s.cancelStrand t.sid.toNat) s).focus mine

def Rec.of (key : Nat) (r : Rec) : Bool := r.key == some key
def RunEntry.of (key : Nat) : RunEntry → Bool
  | .spawn r => r.of key
  | .strand _ => false

/-- The records of a launch discarded from every queue, with their number; the queues are refilled from their rings. -/
def State.discard (s : State) (key : Nat) : State × Nat :=
  let q := s.queues
  let n := (q.ring.filter fun e => e.2.2.of key).length + (q.task.filter fun e => e.2.of key).length + (q.die.filter fun e => e.2.of key).length +
    (q.waits.filter fun e => e.2.of key).length + (q.run.filter fun e => e.2.of key).length
  (State.refillAll { s with queues := { q with
    ring := q.ring.filter fun e => !e.2.2.of key
    task := q.task.filter fun e => !e.2.of key
    die := q.die.filter fun e => !e.2.of key
    waits := q.waits.filter fun e => !e.2.of key
    run := q.run.filter fun e => !e.2.of key } }, n)

/-- The commands not started and the transfers of launches that a test names (R191, R210). -/
def State.cancelEngines (s : State) (f : Option Nat → Bool) : State :=
  (s.cancelCmds fun c => f c.launch).stopXfers fun x => f x.launch

def State.launchActive (s : State) (key : Nat) : Bool :=
  decide (1 ≤ (s.objAt key).lState) && decide ((s.objAt key).lState ≤ 4)

/-- A launch cancelled: each task counted once. -/
def State.cancelLaunch (s : State) (key : Nat) : State :=
  let o := s.objAt key
  if !s.launchActive key || o.lState == 4 then s
  else
    let left := o.tcount - s.generated key
    let (s, n) := (s.setObjFld key 0 10 3 4).discard key
    let s := s.cancelEngines (· == some key)
    let s := s.cancelRuns 63 fun g => g.launch == some key
    (s.countTasks key .canc (left + n)).cancelStrands fun t => t.launch? == some key

/-- Launches a graph has started and that are active. -/
def State.graphLaunches (s : State) (g : Nat) : List Nat :=
  let o := s.objAt g
  ((List.range o.nodes).map fun v => objKey (g / 65536) (o.nodeHandle v)).filter fun k =>
    s.launchActive k && (s.objAt k).fld 0 32 16 == g % 65536

def State.graphActive (s : State) (g : Nat) : Bool := (s.objAt g).gState == 3 || (s.objAt g).gState == 4

/-- The launches of the nodes of a graph that is under way. -/
def State.graphAll (s : State) (g : Nat) : List Nat :=
  let o := s.objAt g
  ((List.range o.nodes).map fun v => objKey (g / 65536) (o.nodeHandle v)).filter fun k => (s.objAt k).fld 0 32 16 == g % 65536

/-- A graph cancelled: what has not started is skipped, what runs is cancelled. -/
def State.cancelGraph (s : State) (g : Nat) : State :=
  let o := s.objAt g
  if o.gState ≠ 3 then s
  else
    let waits (v : Nat) : Bool := s.agenda.any fun d =>
      d.ev == .launchPreparation && d.arg.flag && objKey d.arg.job d.arg.h == g && d.arg.n == v
    let started (v : Nat) : Bool := (s.graphList g).getD v 128 == 0 && !waits v
    let s := (s.setObjFld g 0 15 3 4).skipNodes g ((List.range o.nodes).filter fun v => !started v)
    let all := (s.graphAll g).map some
    (((s.graphLaunches g).foldl State.cancelLaunch s).cancelEngines all.contains).endGraph g

/-- CANCEL waits for the launches it cancelled, unless its own strand is one of theirs. -/
def cancelWait (d : Reg) (la : Nat) (job : Nat) (keys : List Nat) (own : Bool) : M Unit :=
  if own then pure ()
  else if keys.isEmpty then wr d 0
  else await [d] (.cancel job (keys.map (· % 65536))) la

def cancel (i : Instr) (d a b : Reg) (g : Guard) (la : Look) (s : State) : Out :=
  long 4 g la.val [d] (do
    let (x, y) ← rd2 a b
    let s ← get
    let own (keys : List Nat) : Bool := match s.me.launch? with
      | none => false
      | some k => keys.contains k
    match wbits y 0 2 with
    | 0 => do
      let key ← ownHandle x 2 .admin
      if !s.launchActive key then wr d 1
      else do
        destOk d
        upd fun s => s.cancelLaunch key
        cancelWait d la.val (key / 65536) [key] (own [key])
    | 1 => do
      let g ← ownHandle x 3 .admin
      if !s.graphActive g then wr d 1
      else do
        destOk d
        let keys := s.graphLaunches g
        upd fun s => s.cancelGraph g
        cancelWait d la.val (g / 65536) keys (own keys)
    | 2 => do
      need (decide (supervisor ≤ s.me.plv)) (trap 2 0 (toW i.encode))
      let j ← ownHandle x 4 .admin
      let job := (s.objAt j).fld 0 8 16
      if (s.objAt j).jState ≠ 0 then wr d 1
      else do
        destOk d
        let keys := (s.launches.die.map Prod.fst).filter fun k => k / 65536 == job
        let ls := keys.filter fun k => (s.objAt k).kind == 2
        let gs := keys.filter fun k => (s.objAt k).kind == 3
        upd fun s =>
          let s := s.setObjFld j 0 28 3 4
          let s := ls.foldl State.cancelLaunch (gs.foldl State.cancelGraph s)
          let s := (s.cancelCmds fun c => c.job == job).stopXfers fun x => x.job == job
          (s.cancelRuns 63 fun g => g.job == job).endJob job
        cancelWait d la.val job ls (own ls)
    | _ => opFault 0 y) s

/-- One word encodes the three levels; b says which at run time (log 16). -/
def execCancelLaunch (d a b : Reg) (g : Guard) (la : Look) (s : State) : Out := cancel (.cancelLaunch d a b g la) d a b g la s
def execCancelGraph (d a b : Reg) (g : Guard) (la : Look) (s : State) : Out := cancel (.cancelGraph d a b g la) d a b g la s
def execCancelJob (d a b : Reg) (g : Guard) (la : Look) (s : State) : Out := cancel (.cancelJob d a b g la) d a b g la s

end Sys2Proof.Machine
end

