-- ==== Sys2Proof/Machine/Replay.lean ====
section
/-! DEFINITION. Replayed objects (14_replayed_objects, R246-R261): methods, calls, the log, replicas, queries, OBJNEW
and OBJSYNC. -/

namespace Sys2Proof.Machine

/-! Record fields (Table 14.1). -/

def Obj.spanScope (o : Obj) : Bool := o.fld 0 8 1 == 1
def Obj.nmeth (o : Obj) : Nat := o.fld 0 9 7
def Obj.ringSize (o : Obj) : Nat := 2 ^ o.fld 0 16 5
def Obj.homeDie (o : Obj) : Nat := o.fld 0 21 3
def Obj.sbytes (o : Obj) : Nat := o.fld 1 0 19
def Obj.codeLen (o : Obj) : Nat := o.fld 4 0 17
def Obj.imgOff (o : Obj) : Nat := o.fld 5 0 20
def Obj.tail (o : Obj) : Nat := o.word 6
def Obj.trim (o : Obj) : Nat := o.word 7
def Obj.incl (o : Obj) (die : Nat) : Bool := o.fld 8 die 1 == 1

/-- The log home is on this device (R248). -/
def State.logHere (s : State) (job : Nat) (o : Obj) : Bool :=
  !o.spanScope || Config.setDevice job (o.fld 0 32 16) (o.fld 0 48 16) == s.devNo

def State.replay? (s : State) (key : Nat) : Option Replay := s.replays.find? fun r => r.key == key
def State.setReplay (s : State) (r : Replay) : State :=
  { s with replays := s.replays.map fun (x : Replay) => if x.key == r.key then r else x }
def Replay.on (r : Replay) (die : Nat) : Option Replica := r.replicas.find? fun p => p.die == die
def Replay.setOn (r : Replay) (p : Replica) : Replay :=
  { r with replicas := r.replicas.map fun (x : Replica) => if x.die == p.die then p else x }

/-- Fields of a method-table entry (R247). -/
def methodEntry (w : Nat) : Nat := bitsOf w 0 16
def methodMutates (w : Nat) : Bool := nbit w 16
def methodBudget (w : Nat) : Nat := bitsOf w 17 12 + 1

/-! Methods (R252, R253). -/

/-- The instructions of Table 14.2 that reach no memory; any other traps with code 1. -/
def methodRun : Instr → Option (State → Out)
  | .add d a b g => some (execAdd d a b g)
  | .sub d a b g => some (execSub d a b g)
  | .mul d a b g => some (execMul d a b g)
  | .mulh d a b g => some (execMulh d a b g)
  | .mulhn d a b g => some (execMulhn d a b g)
  | .div d a b g la => some (execDiv d a b g la)
  | .divn d a b g la => some (execDivn d a b g la)
  | .rem d a b g la => some (execRem d a b g la)
  | .and d a b g => some (execAnd d a b g)
  | .or d a b g => some (execOr d a b g)
  | .xor d a b g => some (execXor d a b g)
  | .andn d a b g => some (execAndn d a b g)
  | .orn d a b g => some (execOrn d a b g)
  | .xnor d a b g => some (execXnor d a b g)
  | .min d a b g => some (execMin d a b g)
  | .max d a b g => some (execMax d a b g)
  | .shl d a b g => some (execShl d a b g)
  | .shr d a b g => some (execShr d a b g)
  | .sha d a b g => some (execSha d a b g)
  | .rot d a b g => some (execRot d a b g)
  | .minn d a b g => some (execMinn d a b g)
  | .maxn d a b g => some (execMaxn d a b g)
  | .clz d a g => some (execClz d a g)
  | .popc d a g => some (execPopc d a g)
  | .bext d a b g => some (execBext d a b g)
  | .bdep d a b g => some (execBdep d a b g)
  | .brev d a g => some (execBrev d a g)
  | .scadd d a b g => some (execScadd d a b g)
  | .sel d a b g => some (execSel d a b g)
  | .lut3 d a b tbl => some (execLut3 d a b tbl)
  | .fsl d a b n => some (execFsl d a b n)
  | .fsr d a b n => some (execFsr d a b n)
  | .cmpeq pd a b g => some (execCmpeq pd a b g)
  | .cmpne pd a b g => some (execCmpne pd a b g)
  | .cmplt pd a b g => some (execCmplt pd a b g)
  | .cmple pd a b g => some (execCmple pd a b g)
  | .cmpltn pd a b g => some (execCmpltn pd a b g)
  | .cmplen pd a b g => some (execCmplen pd a b g)
  | .tst pd a b g => some (execTst pd a b g)
  | .pand pd pa pb g => some (execPand pd pa pb g)
  | .por pd pa pb g => some (execPor pd pa pb g)
  | .pxor pd pa pb g => some (execPxor pd pa pb g)
  | .pnot pd pa g => some (execPnot pd pa g)
  | .addi d a imm g => some (execAddi d a imm g)
  | .andi d a imm g => some (execAndi d a imm g)
  | .ori d a imm g => some (execOri d a imm g)
  | .xori d a imm g => some (execXori d a imm g)
  | .shli d a n g => some (execShli d a n g)
  | .shri d a n g => some (execShri d a n g)
  | .shai d a n g => some (execShai d a n g)
  | .cmpeqi pd a imm g => some (execCmpeqi pd a imm g)
  | .cmplti pd a imm g => some (execCmplti pd a imm g)
  | .cmpltni pd a imm g => some (execCmpltni pd a imm g)
  | .lui d imm => some (execLui d imm)
  | .addpc d imm => some (execAddpc d imm)
  | .fadd d a b g => some (execFadd d a b g)
  | .fsub d a b g => some (execFsub d a b g)
  | .fmul d a b g => some (execFmul d a b g)
  | .fma d a b g => some (execFma d a b g)
  | .fdiv d a b g la => some (execFdiv d a b g la)
  | .fsqrt d a g la => some (execFsqrt d a g la)
  | .fmin d a b g => some (execFmin d a b g)
  | .fmax d a b g => some (execFmax d a b g)
  | .fcmpeq pd a b g => some (execFcmpeq pd a b g)
  | .fcmplt pd a b g => some (execFcmplt pd a b g)
  | .fcmple pd a b g => some (execFcmple pd a b g)
  | .fcmpun pd a b g => some (execFcmpun pd a b g)
  | .br p off => some (execBr p off)
  | .brF p off => some (execBrF p off)
  | .jr a g => some (execJr a g)
  | .ret g => some (execRet g)
  | .loop d off g => some (execLoop d off g)
  | .trap code => some (execTrap code)
  | .compactMov d a => some (execCompactMov d a)
  | .compactAdd d a => some (execCompactAdd d a)
  | .compactSub d a => some (execCompactSub d a)
  | .compactAnd d a => some (execCompactAnd d a)
  | .compactOr d a => some (execCompactOr d a)
  | .compactXor d a => some (execCompactXor d a)
  | .compactAndn d a => some (execCompactAndn d a)
  | .compactShl d a => some (execCompactShl d a)
  | .compactShr d a => some (execCompactShr d a)
  | .compactSha d a => some (execCompactSha d a)
  | .compactAddi d imm => some (execCompactAddi d imm)
  | .compactShli d imm => some (execCompactShli d imm)
  | .compactShri d imm => some (execCompactShri d imm)
  | .compactShai d imm => some (execCompactShai d imm)
  | .compactMovi d imm => some (execCompactMovi d imm)
  | .compactCmpeq d a => some (execCompactCmpeq d a)
  | .compactCmplt d a => some (execCompactCmplt d a)
  | .compactCmpltn d a => some (execCompactCmpltn d a)
  | .compactNop => some (execCompactNop)
  | .compactRet => some (execCompactRet)
  | .nop => some (execNop)
  | .cvt d a src dst mode sat g => if src.val == 13 || dst.val == 13 then none else some (execCvt d a src dst mode sat g)
  | _ => none

/-- Why a method step ends the method: END, or a trap code. -/
inductive MethodEnd where
  | done
  | code (n : Nat)
  deriving DecidableEq, Repr

/-- The trap code of a fault of the strand (Table 14.2). -/
def trapCode (cls : Nat) (tval : Word) : Nat := if cls = 4 then 4 else if cls = 11 then 0x100 + tval.toNat else 1

/-- What a meaning did to the method strand: its tvec is odd, a place no code is at, so that tcause tells a trap; a
message popped is a read of q. -/
def methodOut (s : State) : Out → Except MethodEnd State
  | .next t =>
    if t.me.tcause ≠ 0 then .error (.code (trapCode (t.me.tcause.toNat % 64) t.me.tval))
    else if t.me.q.length ≠ s.me.q.length ∨ t.me.pend ≠ [] then .error (.code 1)
    else .ok t
  | _ => .error (.code 1)

def methodM {α : Type} (s : State) (x : M α) : Except MethodEnd (α × State) :=
  match x s with
  | .ok (v, t) => if t.me.q.length ≠ s.me.q.length then .error (.code 1) else .ok (v, t)
  | .error (.trap cls _ tval) => .error (.code (trapCode cls tval))
  | .error _ => .error (.code 1)

/-- The offset of an access of n bytes to the state block, aligned where the instruction asks it. -/
def blockAt (sbytes n : Nat) (al : Bool) (x : Word) (o : Int) : Except MethodEnd Nat :=
  let a := ((x.toNat + o) % 2 ^ 56).toNat
  if x.toNat / 2 ^ 56 ≠ 0 then .error (.code 3)
  else if al && a % n != 0 then .error (.code 4)
  else if sbytes < a + n then .error (.code 3)
  else .ok a

structure Method where
  s : State
  block : Memory

def methodLoad (m : Method) (sbytes n : Nat) (al sx : Bool) (ds : List Reg) (addr : M Word) (o : Int) :
    Except MethodEnd Method := do
  let (x, s) ← methodM (m.s.issue 4) addr
  let a ← blockAt sbytes n al x o
  let (_, t) ← methodM s (wrAll ds (loadValues ds.length sx (m.block.getAll ((List.range n).map (a + ·)))))
  return { m with s := t }

def methodStore (m : Method) (sbytes n : Nat) (al query : Bool) (addr : M (Word × List Byte)) (o : Int) :
    Except MethodEnd Method := do
  let (x, s) ← methodM (m.s.issue 4) addr
  if query then .error (.code 1)
  else do
    let a ← blockAt sbytes n al x.1 o
    return { s, block := m.block.setAll ((List.range n).zipWith (fun i b => (a + i, b)) x.2) }

/-- One instruction of a method. -/
def methodStep (sbytes : Nat) (query : Bool) (m : Method) (i : Instr) : Except MethodEnd Method :=
  match i with
  | .endTask => .error .done
  | .compactEnd => .error .done
  | .call off => if m.s.me.wdep = 31 then .error (.code 1) else (methodOut m.s (execCall off m.s)).map fun s => { m with s }
  | .callr a g =>
    if m.s.me.wdep = 31 && m.s.me.guarded g then .error (.code 1)
    else (methodOut m.s (execCallr a g m.s)).map fun s => { m with s }
  | .ld d a off sz sx _ => methodLoad m sbytes (asize sz) false sx [d] (rd a) (off.toInt * asize sz)
  | .lda d a off sz pair _ =>
    methodLoad m sbytes (pairSize sz pair) true false (pairRegs d pair) (rd a) (off.toInt * asize sz)
  | .ldx d a b g _ =>
    if !m.s.me.guarded g then .ok { m with s := m.s.issue 4 }
    else methodLoad m sbytes 8 false false [d] (do
      let x ← rd a
      let y ← rd b
      return toW (x.toNat / 2 ^ 56 * 2 ^ 56 + (x.toNat + y.toNat) % 2 ^ 56)) 0
  | .st d a off sz _ =>
    methodStore m sbytes (asize sz) false query (do
      let x ← rd a
      let v ← rd d
      return (x, lowBytes (asize sz) v)) (off.toInt * asize sz)
  | .sta d a off sz pair _ =>
    methodStore m sbytes (pairSize sz pair) true query (do
      let x ← rd a
      let v ← rd d
      let w ← if pair then rd (Reg.next d) else pure 0
      return (x, (lowBytes (asize sz) v ++ lowBytes 8 w).take (pairSize sz pair))) (off.toInt * asize sz)
  | .stx d a b g _ =>
    if !m.s.me.guarded g then .ok { m with s := m.s.issue 4 }
    else methodStore m sbytes 8 false query (do
      let x ← rd a
      let y ← rd b
      let v ← rd d
      return (toW (x.toNat / 2 ^ 56 * 2 ^ 56 + (x.toNat + y.toNat) % 2 ^ 56), lowBytes 8 v)) 0
  | i =>
    match methodRun i with
    | none => .error (.code 1)
    | some f => (methodOut m.s (f m.s)).map fun s => { m with s }

/-- Instructions up to the budget. -/
def methodLoop (image : List Byte) (imgOff sbytes : Nat) (query : Bool) : Nat → Method → MethodEnd × Method
  | 0, m => (.code 2, m)
  | n + 1, m =>
    let pc := m.s.me.pc.toNat
    if pc < imgOff ∨ imgOff + image.length ≤ pc then (.code 1, m)
    else
      match Dec.bytes (image.drop (pc - imgOff)) with
      | .error _ => (.code 1, m)
      | .ok (i, _) =>
        match methodStep sbytes query m i with
        | .ok m' => methodLoop image imgOff sbytes query n m'
        | .error e => (e, m)

/-- Bytes of a Pontil's local store that images may take: the 2 KiB above them are kept for the frames of the method strand
(R64). -/
def imageTop : Nat := 0x100000 - 4096

/-- A method strand on a Pontil core at its start (R252), its window area 2 KiB near the end of the Pontil's local store (R64). -/
def methodStrand (die pc : Nat) (c : Call) (pos : Nat) : Strand :=
  let sid := BitVec.ofNat 32 (coreOf die 0 17 * 16)
  { Strand.fresh sid .ready 2 with
    pc := BitVec.ofNat 48 pc
    o := #v[c.o[0], c.o[1], c.o[2], c.o[3], toW c.sid, toW pos]
    tvec := 0xFFFFFFFFFFFF
    wsp := BitVec.ofNat 20 (imageTop + 2048)
    wlim := BitVec.ofNat 20 imageTop
    q := List.replicate 2 { h0 := 0, o := Vector.replicate 6 0 } }

/-- What a method leaves: its result or trap code, whether it trapped, the state block, and memory with the frames it spilled
into the Pontil's local store. -/
structure MethodOut where
  v : Word
  trapped : Bool
  block : Memory
  mem : Memory

/-- A method run on a replica. -/
def State.runMethod (s : State) (r : Replay) (p : Replica) (c : Call) (query : Bool) (pos : Nat) : MethodOut :=
  let o := s.objAt r.key
  let w := r.methods.getD c.method 0
  let m : Method := { s := { s with me := methodStrand p.die (o.imgOff + methodEntry w) c pos }, block := p.block }
  match methodLoop r.image o.imgOff o.sbytes query (methodBudget w) m with
  | (.done, m) => { v := m.s.me.o[0], trapped := false, block := m.block, mem := m.s.mem }
  | (.code n, m) => { v := toW n, trapped := true, block := p.block, mem := m.s.mem }

/-! Answers to the strands that wait. -/

/-- Whether an open entry belongs to a call: its position, or its result. -/
def Pending.ofCall (n : Nat) (p : Pending) : Bool :=
  match p.src with
  | .query k => k == n
  | .callm _ _ k => k == n
  | _ => false

/-- The result and p15 of a call (R249, R250): p15's entry is the one that owes pw and took no place as a result. -/
def answerOne (n : Nat) (v : Word) (trapped : Bool) (t : Strand) : Strand :=
  { t with pend := t.pend.map fun (p : Pending) =>
      if p.src == .query n then { p with src := if p.dsts = [.pw] ∧ p.lands = [] then .bit15 trapped else .value [v] } else p }

/-- A call that ends in a fault: its first open entry takes it, the others go. -/
def failCall (n cls detail : Nat) (tval : Word) (t : Strand) : Strand :=
  match pull (Pending.ofCall n) t.pend with
  | none => t
  | some (p, r) =>
    { t with pend := p.fail (.fault cls detail tval) :: r.filter fun p => !p.ofCall n }


/-! The log home. -/

/-- An entry appended at the next position; its caller learns it. -/
def State.appendEntry (s : State) (key : Nat) (c : Call) : State :=
  match s.replay? key with
  | none => s
  | some r =>
    let pos := (s.objAt key).tail + 1
    let s := (s.setReplay { r with log := r.log ++ [c] }).setObjFld key 6 0 64 pos
    if c.die = 8 then s
    else
      let f (p : Pending) : Pending := if p.src = .callm (key / 65536) (key % 65536) c.n then { p with src := .value [toW pos] } else p
      s.allStrands fun t => { t with pend := t.pend.map f }

/-- Whether the log home may append: its Pontil runs and the ring has room (R255, R359). -/
def State.canAppend (s : State) (key : Nat) : Bool :=
  let o := s.objAt key
  decide (o.tail - o.trim < o.ringSize) && !s.device.stopped.contains o.homeDie

/-- Sleeping calls appended in arrival order. -/
def State.wakeCalls (key : Nat) : Nat → State → State
  | 0, s => s
  | n + 1, s =>
    match s.replay? key with
    | none => s
    | some r =>
      match r.asleep with
      | [] => s
      | c :: rest => if s.canAppend key then State.wakeCalls key n ((s.setReplay { r with asleep := rest }).appendEntry key c) else s

/-- A call at the log home: appended, or put to sleep and counted. -/
def State.callArrives (s : State) (key : Nat) (c : Call) : State :=
  match s.replay? key with
  | none => s
  | some r =>
    if r.asleep.isEmpty && s.canAppend key then s.appendEntry key c
    else (s.setReplay { r with asleep := r.asleep ++ [c] }).count (s.objAt key).homeDie 0xFE040

/-- Arguments of a call from words. -/
def fourWords (ws : List Word) : Vector Word 4 := Vector.ofFn fun i => ws.getD i.val 0

/-- LOG_APPEND: the first call of a strand reaches the log home. With flag, what another device of the span sends: a
call when the home is here, the next entry when it is there (v is its position). -/
def execLogAppend (s : State) : Out :=
  let a := s.arg
  let key := objKey a.job a.h
  match s.replay? key with
  | none => .next s
  | some r =>
    if a.flag then
      let c : Call := { n := 0, sid := a.sid, die := 8, method := a.kind, o := fourWords a.ws }
      if s.logHere a.job (s.objAt key) then .next (s.callArrives key c)
      else if a.v.toNat = (s.objAt key).tail + 1 then
        match pull (fun (x : Call) => x.sid == a.sid) r.sent with
        | some (c, rest) => .next ((s.setReplay { r with sent := rest }).appendEntry key c)
        | none => .next (s.appendEntry key c)
      else .next s
    else
      match pull (fun (c : Call) => c.sid == a.sid) r.sent with
      | none => .next s
      | some (c, rest) => .next ((s.setReplay { r with sent := rest }).callArrives key c)

/-! Application. -/

/-- Whether a die's Pontil serves a replica: included or rejoining, and running. -/
def State.applies (s : State) (key : Nat) (p : Replica) : Bool :=
  (s.objAt key).incl p.die && !s.device.stopped.contains p.die && s.device.lehr == 0

/-- The entry at a position. -/
def Replay.entry (r : Replay) (tail pos : Nat) : Option Call :=
  if pos + r.log.length ≤ tail then none else r.log[pos + r.log.length - tail - 1]?

/-- A rejoining replica that has reached its position is back; its OBJSYNC completes. -/
def State.rejoined (s : State) (r : Replay) (p : Replica) : State :=
  match p.sync with
  | none => s.setReplay (r.setOn p)
  | some t =>
    if p.pos < t then s.setReplay (r.setOn p)
    else (s.setReplay (r.setOn { p with sync := none })).allStrands fun t =>
      { t with pend := t.pend.filter fun x => x.src != .table 6 r.key p.die }

/-- An invalid object's OTINV completes when every included replica has applied every entry; queries still waiting then
take the fault of an invalid handle (Table 14.6). -/
def State.closeReplay (s : State) (key : Nat) : State :=
  match s.replay? key with
  | none => s
  | some r =>
    let o := s.objAt key
    let done := r.sent.isEmpty && r.asleep.isEmpty && r.replicas.all fun p => !o.incl p.die || p.pos == o.tail
    let open_ := r.queries.any fun q => match r.on q.call.die with
      | some p => decide (q.floor ≤ p.pos)
      | none => false
    if o.valid || !done || open_ then s
    else
      let s := r.queries.foldl (fun s q => s.allStrands (failCall q.call.n 3 1 q.a)) s
      let s := { s with replays := s.replays.filter fun x => x.key != key }
      s.allStrands fun t => { t with pend := t.pend.filter fun p => p.src != .table 5 key 0 }

/-- ENTRY_APPLY: a die's Pontil applies its next entry (R252); h = 0 names the field table of the job (R258). -/
def execEntryApply (s : State) : Out :=
  let a := s.arg
  let key := objKey a.job a.h
  match s.replay? key with
  | none => .next (if a.h = 0 then s.fieldApply a.job a.die else s)
  | some r =>
    match r.on a.die with
    | none => .next s
    | some p =>
      let tail := (s.objAt key).tail
      if !s.applies key p then .next s
      else
        match r.entry tail (p.pos + 1) with
        | none => .next s
        | some c =>
          let x := s.runMethod r p c false (p.pos + 1)
          let p := { p with pos := p.pos + 1, block := x.block }
          let s := { s with mem := x.mem }.rejoined r p
          let s := if c.die = a.die then s.allStrands (answerOne c.n x.v x.trapped) else s
          let s := if p.pos % 64 = 0 ∨ p.pos = tail then s.due .replicaReport { job := a.job, h := a.h, die := a.die } else s
          .next (s.closeReplay key)

/-- TRIM set to the lowest report of the included replicas (R255); entries every one has passed are dropped. -/
def State.retrim (s : State) (key : Nat) : State :=
  match s.replay? key with
  | none => s
  | some r =>
    let o := s.objAt key
    let live := r.replicas.filter fun p => o.incl p.die
    let low := live.foldl (fun m p => Min.min m p.told) o.tail
    let trim := if o.spanScope then Min.min low r.far else low
    let s := s.setReplay { r with log := r.log.drop (r.log.length - (o.tail - low)) }
    if s.logHere (key / 65536) o && !live.isEmpty then
      State.wakeCalls key r.asleep.length (s.setObjFld key 7 0 64 (Max.max o.trim trim))
    else s

/-- REPLICA_REPORT: a Pontil reports its A_die; with flag the other devices of the span do. h = 0 names the field table of the
job. -/
def execReplicaReport (s : State) : Out :=
  let a := s.arg
  let key := objKey a.job a.h
  match s.replay? key with
  | none => .next (if a.h = 0 then s.fieldReport a.job a.die else s)
  | some r =>
    if a.flag then .next ((s.setReplay { r with far := a.v.toNat }).retrim key)
    else
      match r.on a.die with
      | none => .next s
      | some p => .next ((s.setReplay (r.setOn { p with told := p.pos })).retrim key)

/-! Queries. -/

/-- Whether a query's floor is met on its die. -/
def State.queryDue (s : State) (r : Replay) (q : Query) : Bool :=
  match r.on q.call.die with
  | none => false
  | some p => decide (q.floor ≤ p.pos) && s.applies r.key p && p.sync.isNone

/-- QUERY_RUN: a query whose floor is met runs between two entries; a CALLW completes. On a span object both are acquires of
span scope (R254). -/
def execQueryRun (s : State) : Out :=
  match s.replays.find? fun r => r.queries.any fun q => q.call.n == s.arg.n with
  | none => .next s
  | some r =>
    match pull (fun (q : Query) => q.call.n == s.arg.n) r.queries with
    | none => .next s
    | some (q, rest) =>
      match r.on q.call.die with
      | none => .next s
      | some p =>
        if !s.queryDue r q then .next s
        else
          let t := s.setReplay { r with queries := rest }
          let t := if (s.objAt r.key).spanScope then t.acquireSpan (r.key / 65536) else t
          let t := if q.wait then t.allStrands (answerOne q.call.n 0 false)
            else
              let x := s.runMethod r p q.call true p.pos
              { t with mem := x.mem }.allStrands (answerOne q.call.n x.v x.trapped)
          .next (t.closeReplay r.key)

/-! CALLM, CALLQ, CALLW. -/

/-- A call word checked: the object, and the method with its kind (R249, R250). -/
def callObject (a : Word) (right : Right) : M (Nat × Obj) := do
  let key ← ownHandle a 6 right
  let s ← get
  return (key, s.objAt key)

def methodOk (key : Nat) (o : Obj) (a : Word) (mutates : Bool) : M Unit := do
  let s ← get
  let w := ((s.replay? key).map fun r => r.methods.getD (wbits a 16 6) 0).getD 0
  need (decide (wbits a 16 6 < o.nmeth) && methodMutates w == mutates) (opFault 0 a)

/-- The issuing die's replica is included (R257). -/
def replicaOk (key : Nat) (o : Obj) (a : Word) : M Unit := do
  let s ← get
  let die := coreDie s.me.core
  let ok := match (s.replay? key).bind fun r => r.on die with
    | none => false
    | some p => o.incl die && p.sync.isNone && !s.device.stopped.contains die
  need ok (illegalState a)

/-- A number for a call. -/
def callNumber : M Nat := fun s =>
  .ok (s.engines.next, { s with engines := { s.engines with next := s.engines.next + 1 } })

/-- A register that arrives with no shift of its own. -/
def alsoOwe (ds : List Reg) (src : Owe) (la : Nat) : M Unit := updMe fun t =>
  { t with pend := t.pend ++ [{ t.opened src la (t.pc - 4) with dsts := ds }] }

def call (n : Nat) (a : Word) : M Call := do
  let s ← get
  return { n, sid := s.me.sid.toNat, die := coreDie s.me.core, method := wbits a 16 6,
           o := #v[s.me.o[0], s.me.o[1], s.me.o[2], s.me.o[3]] }

def updReplay (key : Nat) (f : Replay → Replay) : M Unit := upd fun s =>
  match s.replay? key with
  | none => s
  | some r => s.setReplay (f r)

def execCallm (d a : Reg) (g : Guard) (la : Look) (s : State) : Out :=
  long 4 g la.val [d] (do
    let x ← rd a
    settledO
    let (key, o) ← callObject x .call
    methodOk key o x true
    replicaOk key o x
    if o.spanScope then releasedSpan else released
    destOk d
    pwHere
    let n ← callNumber
    let c ← call n x
    await [d] (.callm (key / 65536) (key % 65536) n) la.val
    alsoOwe [.o 0] (.query n) la.val
    alsoOwe [.pw] (.query n) la.val
    updReplay key fun r => { r with sent := r.sent ++ [c] }
    upd fun s =>
      if s.logHere (key / 65536) o then s.due .logAppend { job := key / 65536, h := key % 65536, sid := c.sid }
      else { s with fabric := { s.fabric with out := s.fabric.out ++
        [({ dev := Config.setDevice (key / 65536) (o.fld 0 32 16) (o.fld 0 48 16), job := key / 65536, kind := 12,
            a := key % 65536, b := c.method, bytes := leBytes 8 c.sid ++ c.o.toList.flatMap fun w => leBytes 8 w.toNat } : Packet)] } }) s

def execCallq (d a b : Reg) (g : Guard) (la : Look) (s : State) : Out :=
  long 4 g la.val [d] (do
    let (x, y) ← rd2 a b
    settledO
    let (key, o) ← callObject x .call
    methodOk key o x false
    replicaOk key o x
    destOk d
    pwHere
    let n ← callNumber
    let c ← call n x
    await [d] (.query n) la.val
    alsoOwe [.pw] (.query n) la.val
    updReplay key fun r => { r with queries := r.queries ++ [{ call := c, floor := y.toNat, wait := false, a := x }] }) s

def execCallw (a b : Reg) (g : Guard) (la : Look) (s : State) : Out :=
  long 4 g la.val [] (do
    let (x, y) ← rd2 a b
    let (key, o) ← callObject x .read
    replicaOk key o x
    let n ← callNumber
    let c ← call n x
    alsoOwe [] (.query n) la.val
    updReplay key fun r => { r with queries := r.queries ++ [{ call := c, floor := y.toNat, wait := true, a := x }] }) s

/-! Exclusion (R257). -/

/-- Calls of a die that have not been answered. -/
def Replay.owed (r : Replay) (die pos tail : Nat) : List Nat :=
  let mine (c : Call) : Bool := c.die == die
  let kept := r.log.drop (pos + r.log.length - tail)
  ((r.sent ++ r.asleep ++ kept).filter mine).map Call.n ++ (r.queries.filter fun q => mine q.call).map fun q => q.call.n

/-- One replica left out of INCL and TRIM; results owed on its die become the illegal-state fault (Table 14.6). -/
def State.exclude (s : State) (key die : Nat) (tell : Bool) : State :=
  match s.replay? key with
  | none => s
  | some r =>
    match r.on die with
    | none => s
    | some p =>
      let o := s.objAt key
      if !o.incl die then s
      else
        let ns := r.owed die p.pos o.tail
        let away (c : Call) : Bool := c.die != die
        let r := { r with
          sent := r.sent.filter away, asleep := r.asleep.filter away
          queries := r.queries.filter fun q => away q.call }
        let s := (s.setReplay (r.setOn { p with sync := none })).setObjFld key 8 die 1 0
        let s := ns.foldl (fun s n => s.allStrands (failCall n 7 0 (toW (key % 65536)))) s
        let s := if tell then s.hwSend (s.faultSid (key / 65536)) 0x31 (key / 65536) (toW (key % 65536)) (toW die) 0 0 else s
        (s.retrim key).closeReplay key

/-- Jobs with a valid job record. -/
def State.jobs (s : State) : List Nat := (s.obj.filter fun e => e.2.valid && e.2.kind == 4).map fun e => e.2.fld 0 8 16

/-- Every replica of a die excluded. -/
def State.excludeDie (s : State) (die : Nat) (tell : Bool) : State :=
  let s := s.replays.foldl (fun s r => s.exclude r.key die tell) s
  s.jobs.foldl (fun s job => s.fieldExclude job die tell) s

/-- REPLICA_EXCLUSION: kind 0 an error at the physical address va strikes one object's replica (h = 0: the field table
of a job), kind 1 a die's Pontil has stopped (R359), kind 2 its die is drained. -/
def execReplicaExclusion (s : State) : Out :=
  let a := s.arg
  match a.kind with
  | 0 =>
    let t := s.logError a.va
    .next (if a.h = 0 then t.fieldExclude a.job a.die true else t.exclude (objKey a.job a.h) a.die true)
  | 1 => .next (s.excludeDie a.die true)
  | _ => .next (s.excludeDie a.die false)

/-! OBJNEW (R256). -/

/-- The limits of Table 14.1, with every reserved and hardware field zero. -/
def recordOk (o : Obj) : Bool :=
  o.kind == 6 && o.fld 0 29 3 == 0 && decide (1 ≤ o.nmeth) && decide (o.nmeth ≤ 64) && decide (6 ≤ o.fld 0 16 5) &&
    decide (o.fld 0 16 5 ≤ 16) && (o.spanScope || (o.fld 0 32 32 == 0)) && decide (64 ≤ o.sbytes) &&
    decide (o.sbytes ≤ 262144) && o.sbytes % 64 == 0 && o.fld 1 19 45 == 0 && o.fld 2 56 8 == 0 && o.fld 3 56 8 == 0 &&
    o.codeLen % 16 == 0 && decide (o.codeLen ≤ 65536) && o.fld 4 17 47 == 0 && o.fld 5 0 1728 == 0

/-- A method-table entry (R247). -/
def methodWordOk (codeLen w : Nat) : Bool :=
  decide (methodEntry w < codeLen) && methodEntry w % 2 == 0 && bitsOf w 29 35 == 0

/-- Bytes at a virtual address read by a command of the strand (R123); another device may refuse its own (R284). -/
def readVirt (a : Word) (n : Nat) : M (List Byte) := do
  let e ← virt a 0
  let hs ← check rR e n
  let s ← get
  need (!((hs.any fun h => h.away?.isSome) && Config.farRefuses s.ticks)) (trap 5 0 a)
  readHits a hs

/-- Whole lists of bytes as a block: entries that are not 0. -/
def blockOf (bs : List Byte) : Memory := Memory.setAll [] ((List.range bs.length).zip bs)

/-- The ranges no image takes, an image taken out of them. -/
def cutGap (gaps : List (Nat × Nat)) (off len : Nat) : List (Nat × Nat) :=
  gaps.flatMap fun g => [(g.1, min g.2 off), (max g.1 (off + len), g.2)].filter fun h => decide (h.1 < h.2)

/-- The places a new image may have: in each range that holds it, the first place and how many there are. -/
def State.imagePlaces (s : State) (len : Nat) : List (Nat × Nat) :=
  let gaps := s.replays.foldl (fun gs r => cutGap gs (s.objAt r.key).imgOff r.image.length) [(0, imageTop)]
  (gaps.filter fun g => decide (g.1 + len ≤ g.2)).map fun g => (g.1, (g.2 - g.1 - len) / 16 + 1)

def pickPlace : List (Nat × Nat) → Nat → Nat
  | [], _ => 0
  | (a, n) :: rest, k => if k < n then a + 16 * k else pickPlace rest (k - n)

/-- The offset of an image in the Pontils' local stores, chosen by OBJNEW (Table 14.1): a free value among its places. -/
def State.imageOffset (s : State) (len : Nat) : Nat :=
  let places := s.imagePlaces len
  pickPlace places ((Config.freeWord s.free).toNat % (places.map (·.2)).sum)

/-- Bytes a record takes in the replica store of a die: a replica, and the ring where the log home is. -/
def State.replicaBytes (s : State) (job : Nat) (o : Obj) (die : Nat) : Nat :=
  o.sbytes + (if s.logHere job o && o.homeDie == die then o.ringSize * Config.ringEntry else 0)

/-- Whether every die has room for a record's replica, ring and image (R256). -/
def State.replayRoom (s : State) (job : Nat) (o : Obj) : Bool :=
  !(s.imagePlaces o.codeLen).isEmpty && (List.range 8).all fun die =>
    decide ((s.replays.map fun r => s.replicaBytes (r.key / 65536) (s.objAt r.key) die).sum + s.replicaBytes job o die ≤ Config.replicaRoom)

/-- SPANSET names a device set that includes HOMEDEV, for span scope; a span holds at most 1,024 devices (R248, R256). -/
def spanOk (job : Nat) (o : Obj) : Bool :=
  let n := Config.setSize job (o.fld 0 32 16)
  !o.spanScope || (o.fld 0 32 16 != 0 && decide (o.fld 0 48 16 < n) && decide (n ≤ 1024))

def State.installReplay (s : State) (key : Nat) (o : Obj) (methods image block : List Byte) : State :=
  let off := s.imageOffset image.length
  let o := (o.setFld 5 0 20 off).setFld 8 0 8 255
  let s := { s with free := s.free + 1 }.setObj key { o with acc := BitVec.ofNat 16 (32 + o.fld 0 24 5) }
  let s := (List.range 8).foldl (fun s die => s.setBytes (lsKey (coreOf die 0 17) off) image) s
  let b := blockOf block
  { s with replays := s.replays.filter (fun r => r.key != key) ++
      [{ key, methods := groups 8 64 methods, image, log := [], sent := [], asleep := [], queries := [], far := 0
         replicas := (List.range 8).map fun die => { die, block := b, pos := 0, told := 0, sync := none } }] }

def execObjnew (a b c : Reg) (la : Look) (s : State) : Out :=
  command (.objnew a b c la) supervisor la (do
    let (x, y, z) ← rd3 a b c
    let s ← get
    let h := wbits x 0 16
    let key := objKey s.me.job.toNat h
    need (h != 0) (opFault 1 x)
    need (!(s.objAt key).valid) (opFault 0 x)
    let bs ← readVirt y 256
    let o : Obj := { img := BitVec.ofNat 2048 (leNat bs), acc := 0 }
    need (recordOk o) (opFault 0 y)
    let ms ← readVirt (toW (o.fld 2 0 56)) 512
    need ((List.range o.nmeth).all fun i => methodWordOk o.codeLen ((groups 8 64 ms).getD i 0)) (opFault 0 y)
    need (spanOk s.me.job.toNat o) (opFault 0 y)
    need (s.replayRoom s.me.job.toNat o) (illegalState x)
    let image ← readVirt (toW (o.fld 3 0 56)) o.codeLen
    let block ← if z = 0 then pure [] else readVirt z o.sbytes
    upd fun s => s.installReplay key o ms image block
    promise (300 + 80 + ceilDiv (512 + o.codeLen + o.sbytes) 64 + (if o.spanScope then 2400 else 0))) s

/-! OBJSYNC (R257). -/

/-- The nearest included replica, the lowest die first among equals. -/
def State.nearest (s : State) (r : Replay) (die : Nat) : Option Replica :=
  let o := s.objAt r.key
  (r.replicas.filter fun p => o.incl p.die && p.sync.isNone && p.die != die).foldl (fun (b : Option Replica) p =>
    match b with
    | none => some p
    | some q => if ringHops die p.die < ringHops die q.die then some p else b) none

/-- The replica OBJSYNC copies: the nearest one of this device, or, where it has none included, one of another device of the
span, at the tail. -/
def State.copied (s : State) (r : Replay) (die : Nat) : Option Replica :=
  let o := s.objAt r.key
  match s.nearest r die with
  | some p => some p
  | none =>
    if o.spanScope then
      some { die, block := blockOf ((List.range o.sbytes).map (Config.farReplica r.key o.tail)), pos := o.tail, told := o.tail, sync := none }
    else none

/-- The field tables of a die whose Pontil serves again, back first (R258, R359, R382). -/
def State.fieldReturn (s : State) (die : Nat) : State :=
  { s with fieldTabs := s.fieldTabs.map fun f => f.rejoin (ringHops die) die }

/-- OBJSYNC of an object on the die the strand runs on; where that die's Pontil had stopped, system software has restarted it,
and its replicas of the field tables are back first (R359, R382; log 89). -/
def execObjsync (a : Reg) (la : Look) (s : State) : Out :=
  command (.objsync a la) supervisor la (do
    let x ← rd a
    let key ← ownHandle x 6 .admin
    promiseFree
    let s ← get
    let die := coreDie s.me.core
    let o := s.objAt key
    match s.replay? key with
    | none => pure ()
    | some r =>
      if o.incl die then pure ()
      else
        match s.copied r die with
        | none => stop .wait
        | some p => do
          waitFor (.table 6 key die) la
          upd fun s =>
            let s := { s with device := { s.device with stopped := s.device.stopped.filter (· != die) } }.fieldReturn die
            let q : Replica := { p with die, told := p.pos, sync := some o.tail }
            (s.setObjFld key 8 die 1 1).rejoined r q) s

end Sys2Proof.Machine
end

