-- ==== Sys2Proof/Machine/Table.lean ====
section
/-! DEFINITION. The object table (15_tables_inventory, R263-R271): OTSET, OTGET, OTINV, FINFO, FRENAME and FPERM. What
changes a field is a call on its job's field table (R258). -/

namespace Sys2Proof.Machine

/-! Conditions of an image (R140, R232, Table 15.2). -/

def axisBits (o : Obj) (i : Nat) : List Nat := (List.range (o.fld (7 + i) 6 6)).map (o.fld (7 + i) 0 6 + ·)

/-- One BOUNDS axis (R140). -/
def axisOk (o : Obj) (i : Nat) : Bool :=
  let w := o.fld (7 + i) 6 6
  w == 0 || (decide (o.fld (7 + i) 0 6 + w ≤ o.bitsN) && decide (1 ≤ o.fld (7 + i) 12 48) && decide (o.fld (7 + i) 12 48 ≤ 2 ^ w))

/-- Logical bits of the used BOUNDS axes. -/
def usedAxes (o : Obj) : List Nat := (List.range 4).flatMap (axisBits o)

def fieldImageOk (o : Obj) : Bool :=
  decide (o.fmt ≤ 19) && o.bitsN == o.bitsL + o.bitsD + o.bitsV && decide (o.bitsN ≤ 48) &&
    (o.mapAt 1).all (fun p => decide (p < o.bitsN)) && decide (o.mapAt 1).Nodup &&
    (o.bitsD + o.bitsV == 0 || decide (6 ≤ o.bitsL)) && (!isQ4 o.fmt || decide (5 ≤ o.bitsL)) &&
    (o.fmt != 16 || (decide (1 ≤ o.planes) && decide (o.planes ≤ 4))) &&
    (o.fmt != 17 || (decide (2 ≤ o.planes) && decide (o.planes ≤ 4))) &&
    (List.range (2 ^ o.bitsD)).all (fun v => o.base v % 65536 == 0) && (List.range 4).all (axisOk o) &&
    decide (usedAxes o).Nodup

def launchImageOk (o : Obj) : Bool :=
  let entry := o.fld 1 0 20
  let len := o.fld 3 0 20
  let off := o.fld 3 20 20
  let top := o.fld 8 0 20
  let lim := o.fld 8 20 20
  entry % 2 == 0 && len % 16 == 0 && off % 16 == 0 && decide (off + len ≤ 0xFF000) &&
    !decide (max off lim < min (off + len) top) && decide (off ≤ entry) && decide (entry < off + len) && decide (lim ≤ top)

def queueImageOk (o : Obj) : Bool :=
  o.fld 2 0 56 % 4096 == 0 && decide (64 ≤ o.fld 3 0 32) && decide (o.fld 3 0 32 ≤ 2 ^ 24) &&
    2 ^ (o.fld 3 0 32).log2 == o.fld 3 0 32

def leaseImageOk (o : Obj) : Bool :=
  decide (o.fld 0 8 4 ≤ 8) && (List.range (o.fld 0 8 4)).all fun r => o.fld (1 + 2 * r) 0 56 % 65536 == 0

def imageOk (o : Obj) : Bool :=
  match o.kind with
  | 1 => fieldImageOk o
  | 2 => launchImageOk o
  | 3 => decide (1 ≤ o.nodes) && decide (o.nodes ≤ 64)
  | 5 => queueImageOk o
  | 8 => decide (1 ≤ o.fld 0 8 7) && decide (o.fld 0 8 7 ≤ 64) && decide (o.fld 0 26 10 ≤ o.fld 0 16 10)
  | 9 => decide (o.fld 0 8 12 ≤ 4094)
  | 10 => barRecordOk (o.setFld 0 17 1 0)
  | 11 => leaseImageOk o
  | _ => true

/-- Hardware fields and remap-state words: word, lowest bit and width (Tables 8.1, 13.1 to 13.3, 17.2, 17.3, 18.5,
22.2). -/
def hardware : Nat → List (Nat × Nat × Nat)
  | 1 => [(0, 43, 1), (19, 0, 832)]
  | 2 => [(0, 10, 4), (0, 32, 16), (9, 0, 40), (10, 0, 40), (11, 0, 40), (12, 0, 40), (15, 0, 32)]
  | 3 => [(0, 15, 3), (26, 0, 7), (26, 8, 7)]
  | 4 => [(0, 28, 3), (2, 0, 32), (4, 0, 10), (8, 0, 512)]
  | 8 => [(0, 39, 3), (0, 48, 16)]
  | 9 => [(0, 20, 1)]
  | 10 => [(0, 17, 1)]
  | _ => []

/-- The bits of a record that some row of its table names and does not call reserved: word, lowest bit and width (Tables 8.1,
13.1 to 13.3, 15.2, 16.3, 17.2, 17.3, 18.5, 22.2). -/
def layout : Nat → List (Nat × Nat × Nat)
  | 1 => [(0, 0, 44), (0, 48, 16), (19, 0, 832)] ++ (List.range 48).map (fun i => (1 + i / 8, i % 8 * 8, 6)) ++
      (List.range 4).map (fun i => (7 + i, 0, 60)) ++ (List.range 8).map fun i => (11 + i, 0, 56)
  | 2 => [(0, 0, 14), (0, 16, 32), (1, 0, 20), (2, 0, 56), (3, 0, 40), (4, 0, 32), (5, 0, 56), (6, 0, 128), (8, 0, 40), (9, 0, 40),
      (10, 0, 40), (11, 0, 40), (12, 0, 40), (13, 0, 56), (14, 0, 48), (15, 0, 32)]
  | 3 => [(0, 0, 18), (25, 0, 56), (26, 0, 7), (26, 8, 7), (27, 0, 56), (28, 0, 48)] ++
      (List.range 64).map fun i => (1, 24 * i, 22)
  | 4 => [(0, 0, 31), (1, 0, 32), (2, 0, 32), (3, 16, 31), (4, 0, 10), (5, 0, 16), (8, 0, 512)]
  | 5 => [(0, 0, 8), (1, 0, 8), (2, 0, 56), (3, 0, 32)]
  | 7 => [(0, 0, 8), (1, 0, 56)]
  | 8 => [(0, 0, 15), (0, 16, 26), (0, 48, 16), (1, 0, 56), (2, 0, 56)]
  | 9 => [(0, 0, 21), (0, 48, 16)]
  | 10 => [(0, 0, 18), (1, 0, 256)]
  | 11 => (0, 0, 12) :: (List.range 8).flatMap fun r => [(1 + 2 * r, 0, 56), (2 + 2 * r, 0, 50)]
  | _ => []

/-- The record OTSET writes: reserved bits of the image are ignored and read as zero (R4), those no row names with them
(log 90). -/
def Obj.kept (o : Obj) : Obj :=
  { o with img := (layout o.kind).foldl (fun m f => m ||| (o.img &&& BitVec.ofNat 2048 (setBits 0 (64 * f.1 + f.2.1) f.2.2 (2 ^ f.2.2 - 1)))) 0 }

/-- Whether a kind keeps its hardware fields when its record is replaced (R266). -/
def keepsHardware (kind : Nat) : Bool := kind == 2 || kind == 3 || kind == 4

/-! OTSET (R266). -/

/-- A field-index map change has span scope when the job has a field with device bits (R258). -/
def State.spanTable (s : State) (job : Nat) : Bool :=
  s.obj.any fun e => e.1 / 65536 == job && e.2.valid && e.2.kind == 1 && e.2.bitsV != 0

/-- A release at the scope of a job's field table (Table 19.3). -/
def tableRelease (job : Nat) : M Unit := do
  let s ← get
  if s.spanTable job then releasedSpan else released

/-- A free key-store slot for a new job (R374, R375): which one is not stated. -/
def State.drawSlot (s : State) : Nat :=
  let l := (List.range 1024).filter fun i => !s.device.slots.contains i
  if l.isEmpty then (Config.freeWord s.free).toNat % 1024 else l.getD ((Config.freeWord s.free).toNat % l.length) 0

/-- Records whose preparation is no longer warm: the launch itself, or those that name a lease set (R238). -/
def State.coolRecords (s : State) (key kind : Nat) : State :=
  let cold (k : Nat) : Bool := k == key || (kind == 11 && k / 65536 == key / 65536 && (s.objAt k).fld 0 16 16 == key % 65536)
  { s with launches := { s.launches with warm := s.launches.warm.map fun e => if cold e.2.1 then (e.1, e.2.1, false) else e } }

/-- The entry an OTSET writes over another: hardware fields of a replaced record stay, and the rights stand in it where it has
a place for them (R266). -/
def Obj.replaced (old o : Obj) (rights : Nat) : Obj :=
  let o := o.kept
  let o := if old.valid && old.kind == o.kind && keepsHardware o.kind then
      (hardware o.kind).foldl (fun o f => o.setFld f.1 f.2.1 f.2.2 (old.fld f.1 f.2.1 f.2.2)) o
    else o
  let o := if o.kind = 1 then o.setFld 0 38 5 rights else o
  { o with acc := BitVec.ofNat 16 (32 + rights) }

/-- An entry of any kind but a field written: every object cache lets go of it; a new job draws its key-store slot. -/
def State.install (s : State) (key : Nat) (o : Obj) (rights : Nat) : State :=
  let old := s.objAt key
  let new := old.replaced o rights
  let s := (s.dropCached key).coolRecords key o.kind
  if o.kind = 4 ∧ !(old.valid && old.kind == 4) then
    let slot := s.drawSlot
    { s with free := s.free + 1, device := { s.device with slots := s.device.slots ++ [slot] } }.setObj key (new.setFld 4 0 10 slot)
  else s.setObj key new

/-! Calls on a field table (R258). A call is an Arg: kind (0 OTSET, 1 OTINV, 2 FRENAME, 3 FPERM), job, handle h, die, sid, its
number n, its operands ws, the image bs of an OTSET, and flag when its strand waits for it. -/

/-- Whether a call finds room and need not wait: an OTSET until a remap that the field's OTINV ended has stopped, an FPERM until
the calls before it have come back to its die (R276). -/
def State.fieldReady (s : State) (a : Arg) : Bool :=
  let key := objKey a.job a.h
  s.fieldRoom a.job &&
    match a.kind with
    | 0 => (s.objAt key).valid || !s.remaps.any fun r => r.key == key
    | 3 => s.fieldCame a.die key
    | _ => true

/-- Two lists of one length, each valid against n bits (R27). -/
def twoLists (o : Obj) (y z : Word) : M (List Nat × List Nat) := do
  need (listOk y o.bitsN 10) (opFault 6 y)
  need (listOk z o.bitsN 10) (opFault 6 z)
  need (listCount y == listCount z) (opFault 6 z)
  return (listOf y, listOf z)

/-- Pairs of logical bits exchanged in every map of a field: the one in force, and during a remap those of the current pass
(R270). -/
def Obj.renamed (ps : List (Nat × Nat)) (o : Obj) : Obj :=
  let ren (m : List Nat) : List Nat := ps.foldl (fun m p => swapBits p.1 p.2 m) m
  let o := o.setMapAt 1 (ren (o.mapAt 1))
  if o.remapping then (o.setMapAt 19 (ren (o.mapAt 19))).setMapAt 25 (ren (o.mapAt 25)) else o

/-- One FRENAME: the field's maps and those of every pass still to come. -/
def State.rename (s : State) (key n : Nat) (ps : List (Nat × Nat)) : State :=
  let ren (m : List Nat) : List Nat := ps.foldl (fun m p => swapBits p.1 p.2 m) m
  { s with remaps := s.remaps.map fun (r : Remap) => if r.key == key then { r with passes := r.passes.map ren } else r }.logChange key n
    (.names ps) (Obj.renamed ps)

/-- The new map, and the swaps of physical positions that make it. -/
def permuted : List (Nat × Nat) → List Nat → List (Nat × Nat) → List Nat × List (Nat × Nat)
  | [], m, acc => (m, acc.reverse)
  | (g, q) :: r, m, acc =>
    let p := m.getD g 0
    permuted r (swapPos p q m) (if p = q then acc else (p, q) :: acc)

/-- The methods of a field table at the end of its log (R258); a method trap is the operand fault of the instruction. FPERM
answers the number and estimate of the remap it needs. -/
def fieldCall (a : Arg) : M (Option (Nat × Nat)) := do
  let s ← get
  let key := objKey a.job a.h
  let o := s.objAt key
  let x := a.ws.getD 0 0
  let y := a.ws.getD 1 0
  let z := a.ws.getD 2 0
  match a.kind with
  | 0 => do
    need (!o.valid || o.kind == 1) (opFault 0 y)
    need (!(o.valid && o.remapping)) illegalState
    let new : Obj := { img := BitVec.ofNat 2048 (leNat a.bs), acc := 0 }
    upd fun s => (s.stopRemaps key).logChange key a.n .whole fun old => old.replaced new z.toNat
    return none
  | 1 => do
    upd fun s => (s.stopRemaps key).logChange key a.n .whole fun old => { old with acc := old.acc &&& 0xFFDF#16 }
    return none
  | 2 => do
    need (o.valid && o.kind == 1) (opFault 1 x)
    let (l1, l2) ← twoLists o y z
    need (!l1.any (usedAxes o).contains) (opFault 6 y)
    need (!l2.any (usedAxes o).contains) (opFault 6 z)
    upd fun s => s.rename key a.n (l1.zip l2)
    return none
  | _ => do
    need (o.valid && o.kind == 1) (opFault 1 x)
    let (gs, qs) ← twoLists o y z
    let (_, swaps) := permuted (gs.zip qs) (s.forceMap key o) []
    need (!(isQ4 o.fmt && swaps.any fun p => decide (p.1 < 5) || decide (p.2 < 5))) (opFault 0 x)
    let r := s.requestRemap key o swaps
    set r.1
    return match r.2.1 with
      | [] => none
      | t :: _ => some (t, r.2.2)

/-- What the strand of a call waits for: kind 12 that every included replica has applied it (OTSET), 4 that each die has taken
it up too (FRENAME), 11 that no access to the field is in progress any more either (OTINV). -/
def Arg.callEnd (a : Arg) : Owe := .table (if a.kind = 0 then 12 else if a.kind = 1 then 11 else 4) (objKey a.job a.h) a.n

/-- Whether a call is over, as its kind of wait asks. -/
def State.callEnded (s : State) (kind key n : Nat) : Bool :=
  match s.fieldTab? (key / 65536) with
  | none => true
  | some f => f.callOver n (kind != 12) && !(kind == 11 && s.fieldUsed key)

/-- The promise of a call once it is made, and what the strand waits for then; none where the promise is not the call's. -/
def callTail (s : State) (a : Arg) : Option (Nat × Nat) → Option Word × Owe
  | some (t, est) => (some (s.clk + toW est), .table 1 t 0)
  | none => if a.kind = 3 then (some (s.clk + 8), .time (s.clk + 8)) else (none, a.callEnd)

/-- A strand's call on a field table: made now, or asleep until there is room for it (R258). A detached strand does not wait for
its end, but for its promise and its fault. -/
def makeCall (a : Arg) (la : Look) : M Unit := do
  let s ← get
  let a := { a with n := s.engines.next, sid := s.me.sid.toNat, die := coreDie s.me.core, flag := la.val != 15 }
  upd fun s => { s with engines := { s.engines with next := a.n + 1 } }
  let asleep := ((s.fieldTab? a.job).map FieldTab.asleep).getD []
  if asleep.isEmpty && s.fieldReady a then do
    let r ← fieldCall a
    let (p, src) := callTail s a r
    match p with
    | some v => updMe fun t => t.shift v
    | none => pure ()
    waitFor src la
  else do
    await (if a.kind = 3 then [.l0] else []) a.callEnd (window la)
    upd fun s =>
      let f := s.fieldTab a.job
      { s.openLine none a.flag with fieldTabs := { f with asleep := f.asleep ++ [a] } :: s.fieldTabs.filter fun x => x.job != a.job }

/-- A call that slept is made: its strand waits for its end, or meets its fault at the end of its window. -/
def State.wakeCall (s : State) (a : Arg) : State :=
  let mine := s.me.sid.toNat
  let s := match s.fieldTab? a.job with
    | none => s
    | some f => s.setFieldTab { f with asleep := f.asleep.filter fun x => x.n != a.n }
  let u := s.focus (a.sid % 65536)
  match u.me.pend.find? fun p => p.src == a.callEnd with
  | none => s
  | some p =>
    let put (t : State) (q : List Pending) : State :=
      ({ t with me := { t.me with pend := t.me.pend.flatMap fun x => if x = p then q else [x] } }).focus mine
    match fieldCall a u with
    | .ok (r, t) =>
      let (v, src) := callTail u a r
      put t ((v.map fun v => { p with src := .value [v] }).toList ++
        (if a.flag then [{ p with src, dsts := [], lands := [], own := 0 }] else []))
    | .error (.trap cls detail tv) => put u [p.fail (.fault cls detail tv)]
    | .error _ => put u []

/-- The calls asleep at a field table, in order, while there is room. -/
def State.wakeFields (s : State) : State :=
  s.fieldTabs.foldl (fun s f =>
    match f.asleep.head? with
    | none => s
    | some a => if s.fieldReady a then s.wakeCall a else s) s

/-! OTSET (R266). -/

def execOtset (a b c : Reg) (la : Look) (s : State) : Out :=
  command (.otset a b c la) supervisor la (do
    let (x, y, z) ← rd3 a b c
    released
    let s ← get
    let (job, h) := entryWord s x
    let key := objKey job h
    need (h != 0) (opFault 1 x)
    need (z.toNat / 32 == 0) (opFault 0 z)
    let e ← virt y 0
    aligned e 8
    let bs ← readVirt y 256
    let o : Obj := { img := BitVec.ofNat 2048 (leNat bs), acc := 0 }
    let old := s.entryOn (coreDie s.me.core) key
    need (decide (1 ≤ o.kind) && decide (o.kind ≤ 11) && o.kind != 6) (opFault 0 y)
    need (!old.valid || old.kind == o.kind) (opFault 0 y)
    need (imageOk o) (opFault 0 y)
    need ((hardware o.kind).all fun f => o.fld f.1 f.2.1 f.2.2 == 0) (opFault 0 y)
    need (!(old.valid && o.kind == 1 && old.remapping)) illegalState
    need (!(old.valid && o.kind == 2 && old.lState != 0 && old.lState != 5)) illegalState
    need (!(old.valid && o.kind == 3 && old.gState != 0 && old.gState != 5)) illegalState
    if o.kind = 1 then do
      tableRelease job
      promise (600 + (if s.spanTable job || o.bitsV != 0 then 2400 else 0))
      makeCall { kind := 0, job, h, ws := [x, y, z], bs } la
    else do
      upd fun s => s.install key o z.toNat
      promise 300) s

/-! OTGET (R267) and FINFO (R269). -/

/-- Checked bytes written in pieces of 64, which a packet can carry (R297). -/
def writePieces (w : Wait) : Nat → Addr → List Hit → List Byte → M Unit
  | 0, _, _, _ => pure ()
  | n + 1, e, hs, bs => do
    writeHits true w e (hs.take 64) (bs.take 64)
    writePieces w n (e.add 64) (hs.drop 64) (bs.drop 64)

/-- Bytes written at a virtual address that is aligned to 8, checked as stores (R123). -/
def writeVirt (a : Word) (bs : List Byte) (la : Look) : M Unit := do
  let e ← virt a 0
  aligned e 8
  let hs ← check rW e bs.length
  soFree hs
  writePieces { la := window la, holds := la.val != 15 } (bs.length / 64 + 1) e hs bs

def execOtget (a b : Reg) (la : Look) (s : State) : Out :=
  command (.otget a b la) supervisor la (do
    let (x, y) ← rd2 a b
    let s ← get
    let (job, h) := entryWord s x
    need (h != 0) (opFault 1 x)
    let o := s.entryOn (coreDie s.me.core) (objKey job h)
    writeVirt y (leBytes 256 o.img.toNat ++ leBytes 8 o.acc.toNat) la
    promiseFree) s

def execFinfo (a b : Reg) (la : Look) (s : State) : Out :=
  command (.finfo a b la) 0 la (do
    let (x, y) ← rd2 a b
    let s ← get
    let o ← useHandle s.me.job.toNat (wbits x 0 16) 1 .read x
    writeVirt y (leBytes 256 o.img.toNat) la
    if s.spanTable s.me.job.toNat then acquireSpan
    promiseFree) s

/-! OTINV (R268, Table 15.3). -/

/-- Records of an invalidated task queue are discarded and counted as cancelled (R230), those in its overflow ring too. -/
def State.dropQueue (s : State) (o : Obj) : State :=
  let die := o.fld 1 4 3
  let cl := die * 16 + o.fld 1 0 4
  let whole := o.fld 1 7 1 == 1
  let place := if whole then 1024 + die else cl
  let here (e : Nat × Rec) : Bool := e.1 == (if whole then die else cl)
  let gone := ((if whole then s.queues.die else s.queues.task).filter here).map Prod.snd ++
    (s.queues.ring.filter fun e => e.1 == place).map fun e => e.2.2
  let q := { s.queues with
    ring := s.queues.ring.filter fun e => e.1 != place
    die := if whole then s.queues.die.filter fun e => !here e else s.queues.die
    task := if whole then s.queues.task else s.queues.task.filter fun e => !here e }
  gone.foldl (fun s r => match r.key with
    | some k => s.countTasks k .canc 1
    | none => s) { s with queues := q }

/-- The refusals of Table 15.3. -/
def State.mayInvalidate (s : State) (key : Nat) (o : Obj) : Bool :=
  let job := key / 65536
  let h := key % 65536
  match o.kind with
  | 2 => !s.launchActive key
  | 3 => !(decide (1 ≤ o.gState) && decide (o.gState ≤ 4))
  | 4 => o.jState == 5
  | 8 => o.fld 0 40 2 == 0
  | 9 => !(s.fabric.subs.any fun e => e.2.1 == job && e.2.2.1 == o.fld 0 8 12)
  | 10 => !(s.barriers.any fun b => b.named job h)
  | 11 => !((s.active 2).any fun e => e.1 / 65536 == job && (s.objAt e.1).fld 0 16 16 == h && s.launchActive e.1)
  | _ => true

/-- The invalidation of an entry of any kind but a field, and what else it does. -/
def State.invalidate (s : State) (key : Nat) (o : Obj) : State :=
  let s := ((s.dropCached key).coolRecords key o.kind).setObj key { o with acc := o.acc &&& 0xFFDF#16 }
  match o.kind with
  | 5 => s.dropQueue o
  | 6 => s.closeReplay key
  | 8 => { s.setObjFld key 0 39 1 0 with fabric := { s.fabric with graphs := s.fabric.graphs.filter fun g => g.key != key } }
  | _ => s

def execOtinv (a : Reg) (la : Look) (s : State) : Out :=
  command (.otinv a la) supervisor la (do
    let x ← rd a
    released
    let s ← get
    let (job, h) := entryWord s x
    let key := objKey job h
    let o := s.objAt key
    need (h != 0) (opFault 1 x)
    promiseFree
    if !o.valid then pure ()
    else if o.kind = 1 then do
      tableRelease job
      makeCall { kind := 1, job, h, ws := [x] } la
    else do
      need (s.mayInvalidate key o) illegalState
      upd fun s => s.invalidate key o
      let t ← get
      if o.kind = 6 ∧ (t.replay? key).isSome then waitFor (.table 5 key 0) la else pure ()) s

/-! FRENAME (R270) and FPERM (R271). -/

def execFrename (a b c : Reg) (la : Look) (s : State) : Out :=
  command (.frename a b c la) 0 la (do
    let (x, y, z) ← rd3 a b c
    let s ← get
    let _ ← useHandle s.me.job.toNat (wbits x 0 16) 1 .write x
    tableRelease s.me.job.toNat
    promiseFree
    makeCall { kind := 2, job := s.me.job.toNat, h := wbits x 0 16, ws := [x, y, z] } la) s

def execFperm (a b c : Reg) (la : Look) (s : State) : Out :=
  command (.fperm a b c la) 0 la (do
    let (x, y, z) ← rd3 a b c
    let s ← get
    let _ ← useHandle s.me.job.toNat (wbits x 0 16) 1 .write x
    makeCall { kind := 3, job := s.me.job.toNat, h := wbits x 0 16, ws := [x, y, z] } la) s

end Sys2Proof.Machine
end

