-- ==== Sys2Proof/Machine/Fabric.lean ====
section
/-! DEFINITION. Multicast groups and collective graphs (17_fabric_tables, R300-R313). -/

namespace Sys2Proof.Machine

open Sys2Proof.Num

/-! Multicast (R300-R304). -/

/-- A virtual address of an arrival or completion word, 0 for none: aligned, with the write right and lease (R303). -/
def wordOperand (b : Word) : M Nat :=
  if b = 0 then pure 0
  else do
    let e ← virt b 0
    aligned e 8
    let _ ← check rW e 8
    return e.val

/-- A join sets a port's bit and travels on toward the root while no bit was set before it (R303). -/
def State.joinPort (s : State) (g port root : Nat) : State :=
  let v := s.ports g
  let s := s.setBitmap g (setBit v port true)
  if v = 0 ∧ root ≠ s.devNo then
    { s with fabric := { s.fabric with out := s.fabric.out ++ [{ dev := root, job := 0, kind := 4, a := g, b := 0, bytes := [] }] } }
  else s

def execSubs (a b : Reg) (la : Look) (s : State) : Out :=
  command (.subs a b la) 0 la (do
    let (x, y) ← rd2 a b
    let key ← ownHandle x 9 .read
    let w ← wordOperand y
    let s ← get
    let job := key / 65536
    let o := s.objAt key
    let g := o.fld 0 8 12
    let die := coreDie s.me.core
    let mine (e : Nat × Nat × Nat × Nat) : Bool := e.1 == die && e.2.1 == job && e.2.2.1 == g
    let rest := s.fabric.subs.filter fun e => !mine e
    need (decide ((rest.filter fun e => e.1 == die).length < 256)) illegalState
    let first := !(s.fabric.subs.any fun e => e.2.2.1 == g)
    upd fun s =>
      let s := { s with fabric := { s.fabric with subs := rest ++ [(die, job, g, w)] } }
      if first then (s.setObjFld key 0 20 1 1).joinPort g ownPort (o.fld 0 48 16) else s
    promiseFree) s

def execUnsub (a : Reg) (la : Look) (s : State) : Out :=
  command (.unsub a la) 0 la (do
    let x ← rd a
    let key ← ownHandle x 9 .read
    upd fun s => s.unsub (coreDie s.me.core) (key / 65536) ((s.objAt key).fld 0 8 12)
    promiseFree) s

/-- JOIN_PACKET: group n, port m, root dev. -/
def execJoinPacket (s : State) : Out := .next (s.joinPort s.arg.n s.arg.m s.arg.dev)

/-- LEAVE_PACKET. -/
def execLeavePacket (s : State) : Out := .next (s.leavePort s.arg.n s.arg.m s.arg.dev)

/-- A packet performed at this device for every entry that matches; without one it is dropped and counted (R301,
R303). One to a brick the Marver has locked waits (R275). -/
def State.deliverGroup (s : State) (a : Arg) : State :=
  let hits := s.fabric.subs.filter fun e => e.2.1 == a.job && e.2.2.1 == a.n
  if hits.isEmpty then s.count a.die 0xFE028
  else
    match arrivingAll s a.job rW ((List.range a.bs.length).map fun i => (a.va + i) % 2 ^ 56) with
    | none => s
    | some hs =>
      let ks := hs.map (cellOf a.job)
      if ks.any s.locked then s.due .multicastDelivery { a with size := 1 }
      else
        let s := s.counted hs
        match ks.find? s.badAt with
        | some k => s.logError k
        | none =>
          let bs := if a.kind = 2 then leBytes 8 (leNat (s.mem.getAll ks) + leNat a.bs) else a.bs
          hits.foldl (fun s e => if e.2.2.2 = 0 then s else s.addWord (16 * e.1) a.job e.2.2.2 1) (s.setCells (ks.zip bs))

/-- MULTICAST_DELIVERY: a packet of group n for address va: kind 1 a store, 2 a SIG. It goes on along the ports whose
bits are set and is performed here when the device's own bit is. With flag a strand of this device sent it: it is
delivered here when this device is the group's root. With size 1 only its delivery here is left. -/
def execMulticastDelivery (s : State) : Out :=
  let a := s.arg
  if a.size = 1 then .next (s.deliverGroup a)
  else
  let root := match s.groupRecs a.job a.n with
    | [] => false
    | k :: _ => (s.objAt k).fld 0 48 16 == s.devNo
  if a.flag && !root then .next s
  else
    let v := s.ports a.n
    let far := clearBit v ownPort
    let s := if far = 0 then s else { s with fabric := { s.fabric with out := s.fabric.out ++
      [({ dev := 0xF000 + a.n, job := a.job, kind := a.kind - 1, a := a.va, b := far, bytes := a.bs } : Packet)] } }
    .next (if nbit v ownPort then s.deliverGroup a else s)

/-! Collective graphs. -/

def CGraph.peerDev (g : CGraph) (x : CStep) : Nat := g.ranks.getD x.peer 0
def CGraph.setStep (g : CGraph) (i : Nat) (x : CStep) : CGraph := { g with steps := g.steps.set i x }
def CGraph.step? (g : CGraph) (i : Nat) : Option CStep := g.steps[i]?

/-- Chunks of a REDUCE step, 128 bytes each, the last one shorter. -/
def CStep.chunks (x : CStep) : Nat := ceilDiv x.len 128
def CStep.chunkBytes (x : CStep) (c : Nat) : Nat := Min.min 128 (x.len - 128 * c)

/-- Bytes of a chunk written by the engine (R310); none while they cannot be: the page's log is full, a brick is locked, or
the page does not translate. A chunk in a granule in error is left unwritten, and the error logged (log 88). -/
def State.chunkWrite (s : State) (g : CGraph) (va : Nat) (bs : List Byte) : Option State :=
  match engWrite g.cl g.job (s.line va bs.length) bs s with
  | .ok (none, t) => some t
  | .ok (some e, t) => some (t.logError e.pa)
  | .error _ => none

/-- The acknowledgement of a chunk to the rank that sent it (R307, R310): a SHIP's by MATCH, a REDUCE's by TAG. -/
def State.ackChunk (s : State) (g : CGraph) (rank b : Nat) : State :=
  if rank = g.rank then s
  else
    let p : Packet := { dev := g.ranks.getD rank 0, job := g.job, kind := 10, a := g.key % 65536, b, bytes := [] }
    { s with fabric := { s.fabric with out := s.fabric.out ++ [p] } }

/-- A chunk written for a RECV: what lies beyond LEN is discarded and counted. -/
def State.writeChunk (s : State) (g : CGraph) (i : Nat) (x : CStep) (c : Chunk) : Option State :=
  let n := Min.min c.bytes.length (x.len - c.off)
  match s.chunkWrite g ((g.dst x + c.off) % 2 ^ 56) (c.bytes.take n) with
  | none => none
  | some s =>
    let s := if n < c.bytes.length then s.count g.die 0xFE038 else s
    let s := s.ackChunk g c.rank (c.off + c.tag * 2 ^ 32 + c.run * 2 ^ 40)
    let g := g.setStep i { x with done := x.done + n }
    let self := (List.range g.steps.length).find? fun j =>
      match g.step? j with
      | some y => c.rank == g.rank && y.op == 0 && y.peer == g.rank && y.tagMatch == c.tag && y.st == 1
      | none => false
    let g := match self with
      | none => g
      | some j =>
        match g.step? j with
        | none => g
        | some y => g.setStep j { y with done := y.done + c.bytes.length }
    some (s.setGraph g)

/-- The RECV of a rank that a chunk belongs to. -/
def CGraph.recvFor (g : CGraph) (c : Chunk) : Option Nat :=
  (List.range g.steps.length).find? fun i =>
    match g.step? i with
    | none => false
    | some x => x.op == 1 && x.peer == c.rank && x.tagMatch == c.tag

/-- A chunk on its way to a graph (COLLECTIVE_CHUNK_ARRIVAL). -/
def Chunk.arrival (c : Chunk) (key : Nat) (at_ : Word) : Arg :=
  { job := key / 65536, h := key % 65536, rank := c.rank, kind := c.tag, n := c.run, m := c.off, bs := c.bytes, notBefore := at_ }

/-- Held chunks written once their step is ready; one that cannot be written now is tried again. -/
def State.writeHeld (s : State) (key i : Nat) : List Chunk → State
  | [] => s
  | c :: r =>
    let s := match s.graph? key with
      | none => s
      | some g =>
        if c.run = g.run ∧ g.recvFor c = some i then
          match g.step? i with
          | none => s
          | some x =>
            let g := { g with held := g.held.erase c }
            match s.writeChunk g i x c with
            | some t => t
            | none => (s.setGraph g).due .collectiveChunkArrival (c.arrival key (s.clk + 1))
        else s
    State.writeHeld s key i r

/-- The chunks of a SHIP. -/
def shipChunks (g : CGraph) (x : CStep) (bs : List Byte) : List Chunk :=
  (List.range (ceilDiv x.len 256)).map fun k =>
    { rank := g.rank, tag := x.tagMatch, run := g.run, off := 256 * k, bytes := (bs.drop (256 * k)).take 256 }

/-- The source of a SHIP, read in pieces of 256 bytes. -/
def State.shipRead (s : State) (g : CGraph) (x : CStep) : Except EngErr (List Byte × State) :=
  let whole := x.len / 256
  match s.unitPieces g.cl g.job 256 whole (g.src x) with
  | .error e => .error e
  | .ok (bs, t) =>
    match t.unitRead g.cl g.job ((g.src x + 256 * whole) % 2 ^ 56) (x.len % 256) with
    | .error e => .error e
    | .ok (r, u) => .ok (bs ++ r, u)

/-- A step becomes ready: SHIP and SIGNAL send, RECV takes what is held. A SHIP whose source does not translate, or holds an
error, which is logged, sends nothing (log 88). -/
def State.startStep (s : State) (key i : Nat) : State :=
  match s.graph? key with
  | none => s
  | some g =>
    match g.step? i with
    | none => s
    | some x =>
      let x := { x with st := 1, since := s.clk }
      let g := g.setStep i x
      let s := s.setGraph g
      let dev := g.peerDev x
      match x.op with
      | 0 =>
        match s.shipRead g x with
        | .error e => if e.status = 1 then s.logError e.pa else s
        | .ok (bs, s) =>
          let cs := shipChunks g x bs
          if x.peer = g.rank then cs.foldl (fun s c => s.due .collectiveChunkArrival (c.arrival key 0)) s
          else { s with fabric := { s.fabric with out := s.fabric.out ++ cs.map fun c =>
            { dev, job := g.job, kind := 6, a := key % 65536, b := c.off + c.tag * 2 ^ 32 + c.run * 2 ^ 40, bytes := c.bytes } } }
      | 1 => s.writeHeld key i g.held
      | 4 =>
        let va := g.dst x
        if x.peer = g.rank then (s.addWord g.cl g.job va 1).setGraph (g.setStep i { x with done := 1 })
        else
          let ks := (List.range 8).map fun j => remKey dev g.job (va + j)
          let s := s.setCells (ks.zip (leBytes 8 (leNat (s.mem.getAll ks) + 1)))
          { s with fabric := { s.fabric with out := s.fabric.out ++
            [({ dev, job := g.job, kind := 1, a := va, b := 0, bytes := leBytes 8 1 } : Packet)] } }
      | _ => s

/-! CGLD (R309). -/

/-- Reserved bits of a step are zero and its OP is one. -/
def stepForm (x : CStep) : Bool :=
  decide (x.op ≤ 4) && !x.w[0].getLsbD 3 && wbits x.w[0] 30 2 == 0 && !x.w[0].getLsbD 39 && !x.w[0].getLsbD 47 &&
    wbits x.w[0] 56 8 == 0 && wbits x.w[3] 60 4 == 0

/-- Checks 2 to 8 in order: each gives the first step that fails it. -/
def stepChecks (s : State) (key nrank : Nat) (l : List CStep) : List (Nat × CStep → Bool) :=
  [fun e => stepForm e.2,
   fun e => decide (e.2.peer < nrank),
   fun e => e.2.succs.all fun j => decide (e.1 < j),
   fun e => e.2.deps == (l.filter fun y => y.succs.contains e.1).length,
   fun e => e.2.op == 2 || e.2.children == 0,
   fun e => e.2.op != 2 || (e.2.len % 2 == 0 && decide (e.2.len ≤ 2 ^ 28)),
   fun e => e.2.op != 2 || !(s.fabric.graphs.any fun g => g.key != key && g.steps.any fun y => y.op == 2 && y.rtag == e.2.rtag)]

def stepsOk : List (Nat × CStep → Bool) → List (Nat × CStep) → M Unit
  | [], _ => pure ()
  | f :: r, l =>
    match l.find? fun e => !f e with
    | some e => opFault 0 (toW e.1)
    | none => stepsOk r l

def stepsOf (n : Nat) (bs : List Byte) : List CStep :=
  (List.range n).map fun i =>
    let w := groups 8 4 (bs.drop (32 * i))
    { w := Vector.ofFn fun j => toW (w.getD j.val 0), count := 0, st := 0, done := 0, since := 0 }

def execCgld (a : Reg) (la : Look) (s : State) : Out :=
  command (.cgld a la) 0 la (do
    let x ← rd a
    let key ← ownHandle x 8 .admin
    let s ← get
    let o := s.objAt key
    let n := o.fld 0 8 7
    let nrank := o.fld 0 16 10 + 1
    let die := o.fld 0 36 3
    need (o.fld 0 39 1 == 0) illegalState
    need (o.fld 0 40 2 == 0) (opFault 0 x)
    let bs ← readVirt (toW (o.fld 1 0 56)) (32 * n)
    let steps := stepsOf n bs
    let rs ← readVirt (toW (o.fld 2 0 56)) (2 * nrank)
    let ranks := groups 2 nrank rs
    stepsOk (stepChecks s key nrank steps) ((List.range n).zip steps)
    need (ranks.all fun d => d == s.devNo || routeEntry s.fabric.routes d) (opFault 0 x)
    let here := s.fabric.graphs.filter fun g => g.die == die
    need (decide (here.length < 16) && decide ((here.map fun g => g.steps.length).sum + n ≤ 1024)) illegalState
    upd fun s =>
      let g : CGraph := { key, die, steps, ranks, rank := o.fld 0 26 10, running := false, run := 0,
                          bases := Vector.replicate 4 0, word := 0, launch := none, held := [] }
      ({ s with fabric := { s.fabric with graphs := s.fabric.graphs ++ [g] } }).setObjFld key 0 39 1 1
    promiseFree) s

/-! CGRUN (R310). -/

/-- Steps on the longest chain of successors from each step, the last step first. -/
def chainLens (steps : List CStep) : List Nat :=
  (List.range steps.length).reverse.foldl (fun (l : List Nat) i =>
    match steps[i]? with
    | none => 0 :: l
    | some x => (1 + (x.succs.map fun j => l.getD (j - i - 1) 0).foldl Max.max 0) :: l) []

def runCost (steps : List CStep) : Nat :=
  1500 * (chainLens steps).foldl Max.max 0 +
    ceilDiv ((steps.filter fun x => decide (x.op ≤ 2)).map CStep.len).sum 256

def execCgrun (a b : Reg) (la : Look) (s : State) : Out :=
  command (.cgrun a b la) 0 la (do
    let (x, y) ← rd2 a b
    let key ← ownHandle x 8 .call
    need ((s.objAt key).fld 0 39 1 == 1) illegalState
    let w ← wordOperand y
    let s ← get
    let o := s.objAt key
    match s.graph? key with
    | none => illegalState
    | some g => do
      issueFor (g.ranks.any (· != s.devNo))
      need (o.fld 0 40 2 == 0) (stop .wait)
      let run := o.fld 0 48 16
      let steps := g.steps.map fun (x : CStep) => { x with count := x.deps, st := 0, done := 0, since := 0 }
      let bases : Vector Word 4 := #v[s.me.e[0] &&& 0xFFFFFFFFFFFFFF, s.me.e[1] &&& 0xFFFFFFFFFFFFFF,
        s.me.e[2] &&& 0xFFFFFFFFFFFFFF, s.me.e[3] &&& 0xFFFFFFFFFFFFFF]
      promise (runCost g.steps)
      waitFor (.table 7 key 0) la
      upd fun s =>
        let s := s.setGraph { g with running := true, run, bases, word := w, steps, launch := s.me.launch? }
        let s := (s.setObjFld key 0 48 16 (run + 1)).setObjFld key 0 40 2 1
        (List.range steps.length).foldl (fun s i =>
          if ((steps[i]?).map CStep.count).getD 1 = 0 then s.startStep key i else s) s) s

/-! Steps under way. -/

/-- Bytes that the collective engine of a die holds in its buffer. -/
def State.heldBytes (s : State) (die : Nat) : Nat :=
  ((s.fabric.graphs.filter fun g => g.die == die).flatMap CGraph.held).foldl (fun n c => n + c.bytes.length) 0

/-- COLLECTIVE_CHUNK_ARRIVAL: a chunk of rank for MATCH kind, run n and offset m is written, held or discarded; while the
buffer of 4 MiB is full one to be held waits at its sender (R310). -/
def execCollectiveChunkArrival (s : State) : Out :=
  let a := s.arg
  let key := objKey a.job a.h
  match s.graph? key with
  | none => .next s
  | some g =>
    let c : Chunk := { rank := a.rank, tag := a.kind, run := a.n, off := a.m, bytes := a.bs }
    let next := if g.running then g.run else (s.objAt key).fld 0 48 16
    let again := s.due .collectiveChunkArrival (c.arrival key (s.clk + 1))
    let hold := if s.heldBytes g.die + c.bytes.length ≤ 4194304 then s.setGraph { g with held := g.held ++ [c] } else again
    if g.running && c.run == g.run then
      match g.recvFor c with
      | none => .next (s.count g.die 0xFE038)
      | some i =>
        match g.step? i with
        | none => .next s
        | some x =>
          if x.st = 0 then .next hold
          else if x.st = 2 ∨ x.len ≤ c.off then .next (s.count g.die 0xFE038)
          else
            match s.writeChunk g i x c with
            | some t => .next t
            | none => .next again
    else if (c.run + 65536 - next) % 65536 < 32768 then .next hold
    else .next (s.count g.die 0xFE038)

/-- The element-by-element sum of R307: the own chunk and the children's, in ascending rank order. -/
def reduceElem (own : Nat) (kids : List Nat) : Nat :=
  let w (x : Nat) : Half := BitVec.ofNat 32 (conv (.flt bf16) (.flt fp32) .rne false x)
  let acc := kids.foldl (fun acc k => add32 acc (w k)) (w own)
  conv (.flt fp32) (.flt bf16) .rne false acc.toNat

def reduceBytes (own : List Byte) (kids : List (List Byte)) : List Byte :=
  let n := own.length / 2
  let ks := kids.map (groups 2 n)
  (List.range n).flatMap fun i => leBytes 2 (reduceElem ((groups 2 n own).getD i 0) (ks.map fun k => k.getD i 0))

/-- The own chunk of a step, once every byte of it has been contributed (R306). -/
def State.ownChunk (s : State) (x : CStep) (c : Nat) : Option (List Byte) :=
  (List.range (x.chunkBytes c)).mapM fun i => (SMap.find (x.rtag * 2 ^ 28 + 128 * c + i) s.fabric.apert).map Prod.snd

/-- REDUCE_CHUNK: the next chunk of step n is combined with one chunk of each child and sent to the PEER, or written by
the root; the children, whose ranks ws holds, have their chunks acknowledged. A root's chunk that cannot be written is tried
again. -/
def execReduceChunk (s : State) : Out :=
  let a := s.arg
  let key := objKey a.job a.h
  match s.graph? key with
  | none => .next s
  | some g =>
    match g.step? a.n with
    | none => .next s
    | some x =>
      if !g.running || x.op != 2 || x.st != 1 || decide (x.chunks ≤ x.done) || a.kids.length != x.children then .next s
      else
        match s.ownChunk x x.done with
        | none => .next s
        | some own =>
          let out := reduceBytes own a.kids
          let g' := g.setStep a.n { x with done := x.done + 1 }
          let acked (t : State) : State := a.ws.foldl (fun t r =>
            t.ackChunk g r.toNat (128 * x.done + x.rtag * 2 ^ 32 + g.run * 2 ^ 44)) t
          if x.peer = g.rank then
            match s.chunkWrite g ((g.dst x + 128 * x.done) % 2 ^ 56) out with
            | none => .next (s.due .reduceChunk { a with notBefore := s.clk + 1 })
            | some t => .next (acked (t.setGraph g'))
          else
            let p : Packet := { dev := g.peerDev x, job := g.job, kind := 7, a := key % 65536,
                                b := 128 * x.done + x.rtag * 2 ^ 32 + g.run * 2 ^ 44, bytes := out }
            let t := s.setGraph g'
            .next (acked { t with fabric := { t.fabric with out := t.fabric.out ++ [p] } })

/-- Whether what completes a step here has come about (R310); what other ranks acknowledge comes with the event. -/
def State.stepMet (s : State) (g : CGraph) (x : CStep) : Bool :=
  match x.op with
  | 0 => x.peer == g.rank && decide (x.len ≤ x.done)
  | 1 => decide (x.len ≤ x.done)
  | 2 => x.peer == g.rank && decide (x.chunks ≤ x.done)
  | 3 =>
    match s.unitRead g.cl g.job (g.src x) 8 with
    | .error _ => false
    | .ok (bs, _) => decide (x.w[2].toNat ≤ leNat bs)
  | _ => x.peer == g.rank && x.done == 1

/-- Whether a step waits for another rank's acknowledgement. -/
def stepAcked (g : CGraph) (x : CStep) : Bool :=
  match x.op with
  | 0 => x.peer != g.rank
  | 2 => x.peer != g.rank && decide (x.chunks ≤ x.done)
  | 4 => x.peer != g.rank
  | _ => false

/-- The run ends when every step is done: STATE 0, 1 added to the completion word. -/
def State.endRun (s : State) (key : Nat) : State :=
  match s.graph? key with
  | none => s
  | some g =>
    if g.running && g.steps.all fun x => x.st == 2 then
      let s := (s.setGraph { g with running := false }).setObjFld key 0 40 2 0
      let s := if g.word = 0 then s else s.addWord g.cl g.job g.word 1
      s.tellRun key fun _ => none
    else s

/-- COLLECTIVE_STEP_COMPLETE: step n is done and its successors come nearer. With flag the other rank has acknowledged
it. -/
def execCollectiveStepComplete (s : State) : Out :=
  let a := s.arg
  let key := objKey a.job a.h
  match s.graph? key with
  | none => .next s
  | some g =>
    match g.step? a.n with
    | none => .next s
    | some x =>
      if g.running && x.st == 1 && (s.stepMet g x || (a.flag && stepAcked g x)) then
        let s := if x.op = 2 then s.clearTag x.rtag else s
        let g := g.setStep a.n { x with st := 2 }
        let g := x.succs.foldl (fun (g : CGraph) j => match g.step? j with
          | none => g
          | some y => g.setStep j { y with count := y.count - 1 }) g
        let s := s.setGraph g
        let s := x.succs.eraseDups.foldl (fun s j => match g.step? j with
          | none => s
          | some y => if y.count = 0 ∧ y.st = 0 then s.startStep key j else s) s
        .next (s.endRun key)
      else .next s

/-- Whether a step has run out of time (R311). -/
def State.stepLate (s : State) (x : CStep) : Bool :=
  x.st == 1 && x.timeout != 0 && decide (x.since.toNat + x.timeout * 1024 ≤ s.clk.toNat)

/-- COLLECTIVE_STEP_TIMEOUT. -/
def execCollectiveStepTimeout (s : State) : Out :=
  let key := objKey s.arg.job s.arg.h
  match s.graph? key with
  | none => .next s
  | some g =>
    match g.step? s.arg.n with
    | none => .next s
    | some x => .next (if s.stepLate x then s.cancelRun g g.rank s.arg.n else s)

/-- COLLECTIVE_CANCEL_PACKET: rank cancels run n at step m. -/
def execCollectiveCancelPacket (s : State) : Out :=
  let a := s.arg
  match s.graph? (objKey a.job a.h) with
  | none => .next s
  | some g => .next (if g.run = a.n then s.cancelRun g a.rank a.m else s)

end Sys2Proof.Machine
end

