-- ==== Sys2Proof/Machine/Spill.lean ====
section
/-! DEFINITION. SPILL and RESTORE (R364-R368): the save area of Table 21.3, the withdrawal of a waiting instruction, the
mailbox, and the strand put into another slot. -/

namespace Sys2Proof.Machine

/-! The save area. -/

/-- The cells of one line of a page, by its leaf; none while it does not translate. A replicated page is reached at its
original. -/
def State.lineKeys (s : State) (cl job va : Nat) : Option (List Nat) :=
  (s.lookup cl job va).map fun x =>
    let k := match placeOf s.migs x.1 va with
      | .replica dev va _ => remKey dev job va
      | l => cellOf job { loc := l, w0 := x.1.w0 }
    (List.range 256).map (k + ·)

def State.areaFrom (s : State) (cl job va : Nat) : Nat → Option (List Nat)
  | 0 => some []
  | n + 1 =>
    match s.lineKeys cl job va, s.areaFrom cl job (va + 256) n with
    | some l, some r => some (l ++ r)
    | _, _ => none

/-- The 4,096 cells of a save area. -/
def State.areaKeys (s : State) (cl job va : Nat) : Option (List Nat) := s.areaFrom cl job va 16

/-- A save area checked (R364, R123): aligned to 4 KiB, translated, with the right. It lies in one page, so its first
and last bytes tell for all; another device may refuse it (R284). -/
def checkArea (right : Nat) (a : Word) : M Nat := do
  need (a.toNat % 4096 == 0) (trap 4 0 a)
  let e ← virt a 0
  let h ← check right e 1
  let _ ← check right (e.add 4095) 1
  let s ← get
  need (h.all Hit.readable && !((h.any fun x => x.away?.isSome) && Config.farRefuses s.ticks)) (trap 5 0 a)
  return e.val

/-- Fields packed from bit 0 up: value and width. -/
def pack : List (Nat × Nat) → Nat
  | [] => 0
  | (v, n) :: r => v % 2 ^ n + 2 ^ n * pack r

/-- n words, the list's first. -/
def padTo (n : Nat) (ws : List Word) : List Word := (ws ++ List.replicate n 0).take n

/-- Frames resident at the strand's depth (R62, R63). -/
def Strand.resident (t : Strand) : List Nat := (List.range (t.wdep.toNat + 2 - t.low)).map (t.low + ·)

/-- A stream's 64 bytes: base, c0 to c2 in 4 bytes each, type, direction and dimensions in one byte each (dimensions 0:
unbound), one reserved byte, the position in 16 bytes, s0 to s2 (log 50). -/
def streamWords : Option Stream → List Word
  | none => List.replicate 8 0
  | some st =>
    [st.base, toW (pack [(st.c[0], 32), (st.c[1], 32)]),
      toW (pack [(st.c[2], 32), (st.ty.val, 8), (st.out.toNat, 8), (st.dims, 8)]),
      toW st.pos, toW (st.pos / 2 ^ 64), st.s[0], st.s[1], st.s[2]]

/-- The line register's 32 words, lane 0 lowest. -/
def lineWords (v : Line) : List Word :=
  (List.range 32).map fun i => toW (v[Fin.ofNat 64 (2 * i)].toNat + v[Fin.ofNat 64 (2 * i + 1)].toNat * 2 ^ 32)

/-- Word 0x0E0 of a save area: the line of the held reservation. A line of another device shows a free value where its
physical address there would stand. -/
def State.resvWord (s : State) (t : Strand) : Word :=
  match t.resv with
  | none => 0
  | some l =>
    if l < 2 ^ 52 then toW (l * 256 % 2 ^ 48 + 0xFFFF * 2 ^ 48)
    else toW (pack [(0, 8), ((Config.freeWord s.free).toNat, 40), ((l - 2 ^ 52) / 2 ^ 48 / 65536, 16)])

/-- The words of Table 21.3 for a strand in a state (0 ready, 1 parked, 2 re-execute at pc). -/
def State.areaWords (s : State) (t : Strand) (st win : Nat) : List Word :=
  let fr := t.resident
  let flags := pack [(t.armed.isSome.toNat, 1), (t.resv.isSome.toNat, 1), (st, 2), (fr.length, 4), (t.q.length, 4), (win, 4),
    (0, 15), (1, 1)]
  padTo 32
    ([t.pc.setWidth 64, toW (pack [((t.pw ||| 1).toNat, 16), (t.lrec.toNat, 16), (t.prio.toNat, 2)])] ++ t.o.toList ++
      [t.l0, t.l1] ++ t.e.toList ++
      [t.tvec.setWidth 64, t.tcause.setWidth 64, t.tval, t.xpc.setWidth 64,
        toW (pack [(t.plv.toNat, 2), (t.xplv.toNat, 2), (t.trh.toNat, 4), (0, 8), (t.wdep.toNat, 16), (t.rac.toNat, 20)]),
        toW (pack [(t.wsp.toNat, 20), (t.wlim.toNat, 20)]), toW (pack [(t.tix.toNat, 32), (t.tcnt.toNat, 32)]),
        toW (pack [(t.job.toNat, 16), (0, 16), (t.sid.toNat, 32)]), t.armed.getD 0, toW flags, s.resvWord t]) ++
    t.t.toList.flatMap streamWords ++
    padTo 64 (fr.flatMap t.frame) ++
    padTo 64 (t.q.flatMap fun m => m.h0 :: m.o.toList ++ [0]) ++
    t.k.toList.flatMap lineWords ++ List.replicate 64 0

/-! SPILL. -/

/-- A wait that SPILL withdraws (Table 21.5): it takes nothing back and is executed again. -/
def Pending.withdrawn (s : State) (p : Pending) : Bool :=
  match p.src with
  | .time _ => true
  | .word _ _ _ _ => true
  | .promise _ _ _ => true
  | .reserve _ _ => true
  | .send _ _ _ _ offer => offer.isNone
  | .barrier job h _ => ((s.barrier? job h).map fun b => !b.releasing.contains (s.me.sid.toNat % 65536)).getD true
  | .query n => s.replays.any fun r => (r.queries.any fun q => q.call.n == n) || r.asleep.any fun c => c.n == n
  | .callm _ _ n => s.replays.any fun r => r.asleep.any fun c => c.n == n
  | _ => false

/-- Two open values of one instruction. -/
def Pending.mate (p q : Pending) : Bool := p.xpc == q.xpc && p.win == q.win

/-- What the withdrawn instruction asked of the units is taken back. -/
def State.takeBack (s : State) (src : Owe) : State :=
  let sid := s.me.sid.toNat
  match src with
  | .barrier _ _ _ => s.withdrawBar sid
  | .reserve _ _ => s.unwait sid
  | .query n | .callm _ _ n =>
    { s with replays := s.replays.map fun (r : Replay) =>
        { r with queries := r.queries.filter fun q => q.call.n != n, asleep := r.asleep.filter fun c => c.n != n } }
  | _ => s

/-- Whether a wait runs on while the strand is saved, and leaves no register pending: the wait for what a command or run comes
to (Table 21.5). -/
def Pending.runsOn (p : Pending) : Bool := p.isEngine && !p.owing

/-- The strand at an instruction boundary, or at the instruction withdrawn, with WIN; none while something is awaited
(R364, R368). What runs on stays. -/
def State.boundary (s : State) : Option (State × Option Nat) :=
  let l := s.me.pend.filter fun p => !p.runsOn
  match l.find? (Pending.withdrawn s) with
  | none => if l.isEmpty then some (s, none) else none
  | some p =>
    if l.all p.mate then
      let s := s.takeBack p.src
      let t := l.foldl (fun t q => unshift q t) { s.me with pend := s.me.pend.filter Pending.runsOn }
      some ({ s with me := { t with pc := p.xpc } }, some p.win)
    else none

/-- Bytes written to another device in packets of 128 (R297). -/
def farPieces (dev job : Nat) : Nat → Nat → List Byte → List Packet
  | 0, _, _ => []
  | n + 1, va, bs =>
    ({ dev, job, kind := 0, a := va, b := 0, bytes := bs.take 128 } : Packet) :: farPieces dev job n (va + 128) (bs.drop 128)

/-- The bytes of a save area written; granules in error are left out, and the issuer takes the error (R137). -/
def State.writeArea (s : State) (x : Spill) (keys : List Nat) (bs : List Byte) : State :=
  let cs := keys.zip bs
  let t := s.setCells (cs.filter fun c => !s.badAt c.1)
  let far := keys.headD 0
  let t := if 2 ^ 60 ≤ far then
      { t with fabric := { t.fabric with out := t.fabric.out ++ farPieces ((far - 2 ^ 60) / 2 ^ 72) x.job 32 x.va bs } }
    else t
  match cs.find? fun c => s.badAt c.1 with
  | none => t
  | some c => (t.logError c.1).modStrand x.issuer fun t => { t with storeErr := some (t.storeErr.getD (8, toW x.va)) }

/-- The focused strand saved: its slot becomes a mailbox (R366), which keeps the waits that run on. rest: the strand stands in a
wait that keeps it at pc (a read of q, IDLE, a stalled pop). -/
def State.save (s : State) (x : Spill) (keys : List Nat) (win : Option Nat) (rest : Bool) : State :=
  let parked := match s.me.status with
    | .parked _ => true
    | _ => false
  let wakes := s.me.status != .parked false
  let st := if win.isSome || s.me.skip.isSome || rest then 2 else if parked then 1 else 0
  let ws := s.areaWords s.me st (win.getD (s.me.skip.getD 0))
  let s := s.writeArea x keys (ws.flatMap fun w => leBytes 8 w.toNat)
  let me := { s.me with status := .spilled s.me.q.length wakes, armed := none, skip := none }
  { s with me, free := s.free + 1 }

/-- One SPILL under way, looked at: its stores are performed and acknowledged first, an error of one is taken; an abroad strand
starts for home, an owed fault is taken, a strand that ends or has ended needs no saving; at the boundary the strand is saved. -/
def State.spillStep (s : State) (resting : State → Bool) (x : Spill) : State :=
  let mine := s.me.sid.toNat
  let done (s : State) : State := { s with spills := s.spills.filter fun y => y != x }
  let s := s.focus x.sid
  let s := match s.me.status with
    | .idle | .spilled _ _ => done s
    | .transit _ _ => s
    | _ =>
      let s := { s with me := { s.me with pend := s.me.pend.map fun (p : Pending) => if p.isFault then { p with left := 0 } else p } }
      if !s.storesDone || s.me.doom.isSome then s
      else
        match s.me.storeErr with
        | some (cls, a) => s.storeTrap cls a
        | none =>
        match s.boundary with
        | none => s
        | some (t, win) =>
          if t.me.abroad then { t with me := { t.me with skip := if win.isSome then win else t.me.skip } }.goHome
          else
            match t.areaKeys x.cl x.job x.va with
            | none => s
            | some keys => if keys.any s.locked then s else done (t.save x keys win (win.isNone && resting t))
  s.focus mine

/-- Whether a slot is being spilled: it issues nothing. -/
def State.spilling (s : State) (sid : Nat) : Bool := s.spills.any fun x => x.sid == sid % 65536

/-- SPILL (R364): the slot's strand issues no more; it is saved once nothing it has begun is left. -/
def execSpill (a b : Reg) (la : Look) (s : State) : Out :=
  command (.spill a b la) supervisor la (do
    let (x, y) ← rd2 a b
    let va ← checkArea rW y
    logWrite va
    let s ← get
    let sid := wbits x 0 32
    let t := (s.strand? sid).getD (Strand.fresh 0 .idle 0)
    let held := match t.status with
      | .idle | .spilled _ _ => false
      | _ => true
    need (sid / 65536 == s.devNo && held && !s.spilling sid) (opFault 0 x)
    need (sid % 65536 != s.me.sid.toNat % 65536 && decide (t.plv ≤ s.me.plv)) (illegalState x)
    upd fun s => { s with spills := s.spills ++
      [{ sid := sid % 65536, issuer := s.me.sid.toNat % 65536, cl := clusterOf s.me.core, job := s.me.job.toNat, va }] }
    promiseFree
    waitFor (.table 8 (sid % 65536) 0) la) s

/-! RESTORE. -/

/-- The kinds of cores (Table 1.2): compute, gaffer, Pontil, system. -/
def coreKind (k : Nat) : Nat := if coreNo k < 16 then 0 else if coreNo k = 16 then 1 else if coreNo k = 17 then 2 else 3

def word? (ws : List Word) (off : Nat) : Word := ws.getD (off / 8) 0

/-- A stream read back; its elements are fetched again (R114). -/
def streamOf (ws : List Word) : Option Stream :=
  let c := ws.getD 1 0
  let w := ws.getD 2 0
  if wbits w 48 8 = 0 then none
  else some
    { base := ws.getD 0 0, ty := Fin.ofNat 16 (wbits w 32 4), out := w.getLsbD 40, dims := wbits w 48 8
      c := #v[wbits c 0 32, wbits c 32 32, wbits w 0 32], s := #v[ws.getD 5 0, ws.getD 6 0, ws.getD 7 0]
      pos := (ws.getD 3 0).toNat + (ws.getD 4 0).toNat * 2 ^ 64, ahead := [] }

/-- A queue entry read back. -/
def msgOf (ws : List Word) : Msg where
  h0 := ws.headD 0
  o := Vector.ofFn fun i => ws.getD (i.val + 1) 0

/-- A line register read back. -/
def lineOf' (ws : List Word) : Line := Vector.ofFn fun i => (ws.getD (i.val / 2) 0 >>> (32 * (i.val % 2))).setWidth 32

/-- The window file read back: frames resident from the oldest. -/
def framesOf (ws : List Word) (low n : Nat) : Vector Word 64 :=
  Vector.ofFn fun j =>
    let f := (j.val / 8 + 8 - low % 8) % 8
    if f < n then ws.getD (f * 8 + j.val % 8) 0 else 0

/-- The strand a save area holds, in a slot (R367). The mailbox gives what came after the save: queue entries, the
reservation if it is still held, and a store error not yet reported; and the waits that ran on (R312). -/
def State.strandOf (s : State) (ws : List Word) (sid : BitVec 32) (mail : Option Strand) : Strand :=
  let at_ (off n : Nat) : List Word := (ws.drop (off / 8)).take n
  let w1 := word? ws 0x08
  let lv := word? ws 0xB0
  let flags := (word? ws 0xD8).toNat
  let wdep := wbits lv 16 16
  let frames := bitsOf flags 4 4
  let low := wdep + 2 - frames
  let saved := (List.range (bitsOf flags 8 4)).map fun i => msgOf (at_ (0x400 + 64 * i) 8)
  let late := (mail.map fun m => match m.status with
    | .spilled n _ => m.q.drop n
    | _ => []).getD []
  let wakes := (mail.map fun m => match m.status with
    | .spilled _ w => w
    | _ => true).getD true
  let st := bitsOf flags 2 2
  let q := saved ++ late
  { Strand.fresh sid (if st = 1 && !(wakes && !q.isEmpty) then .parked wakes else .ready) (lv.setWidth 2) with
    pc := (word? ws 0x00).setWidth 48
    pw := w1.setWidth 16 ||| 1
    lrec := (w1 >>> 16).setWidth 16
    prio := (w1 >>> 32).setWidth 2
    o := Vector.ofFn fun i => word? ws (0x10 + 8 * i.val)
    l0 := word? ws 0x40
    l1 := word? ws 0x48
    e := Vector.ofFn fun i => word? ws (0x50 + 8 * i.val)
    tvec := (word? ws 0x90).setWidth 48
    tcause := (word? ws 0x98).setWidth 16
    tval := word? ws 0xA0
    xpc := (word? ws 0xA8).setWidth 48
    xplv := (lv >>> 2).setWidth 2
    trh := (lv >>> 4).setWidth 4
    wdep := BitVec.ofNat 16 wdep
    rac := (lv >>> 32).setWidth 20
    wsp := (word? ws 0xB8).setWidth 20
    wlim := (word? ws 0xB8 >>> 20).setWidth 20
    tix := (word? ws 0xC0).setWidth 32
    tcnt := (word? ws 0xC0 >>> 32).setWidth 32
    job := (word? ws 0xC8).setWidth 16
    armed := if nbit flags 0 then some (word? ws 0xD0) else none
    resv := if nbit flags 1 then (match mail with
        | some m => m.resv
        | none => none) else none
    t := Vector.ofFn fun i => streamOf (at_ (0x100 + 64 * i.val) 8)
    frames := framesOf (at_ 0x200 64) low frames
    low
    q
    k := Vector.ofFn fun i => lineOf' (at_ (0x600 + 256 * i.val) 32)
    spanErr := (mail.map Strand.spanErr).getD none
    storeErr := (mail.map Strand.storeErr).getD none
    pend := (mail.map Strand.pend).getD []
    spawned := (mail.map Strand.spawned).getD false
    lastIssue := s.clk
    skip := if st = 2 then some (bitsOf flags 12 4) else none }

/-- The reservation of a moved strand is held under its new sid. -/
def State.renameResv (s : State) (was new : Nat) : State :=
  let f (r : Resv) : Resv := if r.holder == some was then { r with holder := some new } else r
  { s with queues := { s.queues with resv := s.queues.resv.map f } }

/-- The mailbox of a saved sid. -/
def State.mailbox? (s : State) (sid : Nat) : Option Strand :=
  match s.strand? sid with
  | some t => match t.status with
    | .spilled _ _ => some t
    | _ => none
  | none => none

/-- SAVED cleared (Table 21.3). -/
def State.clearSaved (s : State) (keys : List Nat) : State :=
  let k := keys.getD 0xDB 0
  s.setByte k (s.byte k &&& 0x7F)

/-- Whether the launch or the job of a saved task has been cancelled (R367). -/
def State.savedDead (s : State) (ws : List Word) : Bool :=
  let job := wbits (word? ws 0xC8) 0 16
  let lrec := wbits (word? ws 0x08) 16 16
  wbits (word? ws 0xB0) 0 2 == 0 && (decide (4 ≤ s.jobState job) || (lrec != 0 && (s.objAt (objKey job lrec)).lState == 4))

/-- How a saved strand is to end, if it is. -/
def State.savedEnd (s : State) (ws : List Word) (mail : Option Strand) : Option Ending :=
  match mail.bind Strand.doom with
  | some d => some d.how
  | none => if s.savedDead ws then some .canc else none

/-- RESTORE puts the strand of a save area into a slot of a core, or ends it where its launch or job has been cancelled (R367). -/
def State.restore (s : State) (ws : List Word) (keys : List Nat) (core slot : Nat) : State :=
  let was := wbits (word? ws 0xC8) 32 16
  let mail := s.mailbox? was
  let mine := s.me.sid.toNat
  match s.savedEnd ws mail with
  | some how => (if mail.isSome then ((s.focus was).endTask how).focus mine else s).clearSaved keys
  | none =>
    let sid := s.sidOf core slot
    let t := s.strandOf ws sid mail
    let s := if mail.isSome then
        (s.putStrand (Strand.fresh (s.sidOf (was / 16) (was % 16)) .idle 0)).due .slotFill { core := was / 16 }
      else s
    ((s.putStrand t).renameResv was (core * 16 + slot)).clearSaved keys

def execRestore (a b : Reg) (la : Look) (s : State) : Out :=
  command (.restore a b la) supervisor la (do
    let (x, y) ← rd2 a b
    let va ← checkArea rR x
    let s ← get
    match s.areaKeys (clusterOf s.me.core) s.me.job.toNat va with
    | none => vfault x
    | some keys => do
      match keys.find? s.badAt with
      | some k => stop (.bad k x)
      | none => pure ()
      let ws := groups 8 512 (s.mem.getAll keys) |>.map toW
      need ((word? ws 0xD8).getLsbD 31) (illegalState x)
      let core := wbits y 4 12
      let was := wbits (word? ws 0xC8) 32 16
      let job := wbits (word? ws 0xC8) 0 16
      let lrec := wbits (word? ws 0x08) 16 16
      let task := wbits (word? ws 0xB0) 0 2 == 0
      let fits := if task then coreKind core == 0 && (lrec == 0 || inClusters (s.objAt (objKey job lrec)) (clusterOf core))
        else coreKind core == coreKind (was / 16)
      need (wbits y 16 16 == s.devNo && coreExists core && fits) (opFault 0 y)
      let own := (s.mailbox? was).isSome
      let fits' (i : Nat) : Bool := s.serving core && (s.slotFree core i || (own && was == core * 16 + i))
      let slot := if y.getLsbD 32 then ((List.range 16).find? fun i => s.serving core && s.slotFree core i)
        else if fits' (wbits y 0 4) then some (wbits y 0 4) else none
      match slot with
      | none => illegalState y
      | some i => do
        upd fun s => s.restore ws keys core i
        promiseFree) s

end Sys2Proof.Machine
end

