-- ==== Sys2Proof/Machine/Device.lean ====
section
/-! DEFINITION. The device at large (22_device_at_large, R371-R383): boot and reset, management, the Lehr state, power
caps, repair in service, failure, and the kill of a job (R369). -/

namespace Sys2Proof.Machine

/-! Reset (R61, R118, R369, Tables 4.1, 7.1, 9.2, 10.1, 11.1, 12.1, 15.1). -/

/-- The stores of the strand that moves let go at once: those of this device are performed, the others are on their way. -/
def State.flush (s : State) : State :=
  s.me.stores.foldl (fun s p =>
    if p.dev = aperture then s.performApert p
    else if p.vas.isEmpty then s.perform s.me.sid.toNat p
    else (s.sendStore p).getD s) { s with me := { s.me with stores := [] } }

/-- Every strand of some home cores, and every strand that stands on one of these cores, ended at an instruction
boundary; a mailbox there ends with its strand. The stores it has issued are let go (log 91). -/
def State.killOn (s : State) (f : Nat → Bool) : State :=
  let hit (t : Strand) : Bool := t.status != .idle && (f t.homeCore || f t.core)
  let mine := s.me.sid.toNat
  let s := (s.strands.filter hit).foldl (fun s t =>
    let s := { s with queues := { s.queues with run := s.queues.run.filter fun e => e.2 != RunEntry.strand (t.sid.toNat % 65536) } }
    (s.focus t.sid.toNat).flush.endTask .canc) s
  s.focus mine

/-- Records that leave their queues are counted as cancelled in their launches (R230). -/
def State.lose (s : State) (rs : List Rec) : State :=
  rs.foldl (fun s r =>
    match r.key with
    | some k => s.countTasks k .canc 1
    | none => s) s

/-- The record of a run-queue entry. -/
def RunEntry.rec? : RunEntry → List Rec
  | .spawn r => [r]
  | .strand _ => []

/-- Cores reset: their strands end, their local stores are zero, their queues empty, their issue pointers 15. A reservation of
a line whose queue is lost is lost with it, and the requests that waited there reach the home again (log 91). -/
def State.resetCores (s : State) (f : Nat → Bool) : State :=
  let s := s.killOn f
  let q := s.queues
  let s := s.lose ((q.run.filter fun e => f e.1).flatMap fun e => e.2.rec?)
  let lost (line : Nat) : Bool := decide (line < 2 ^ 52) && f (s.home (line * 256))
  let back := (q.resv.filter fun r => lost r.line).flatMap fun r => r.waiters.map fun w => (r.line, w)
  { s with
    mem := s.mem.filter fun c => !(isLs c.1 && f (c.1 / 2 ^ 20 % 4096))
    queues := { s.queues with
      run := s.queues.run.filter fun e => !f e.1
      resv := s.queues.resv.filter fun r => !lost r.line
      input := back ++ s.queues.input
      ptr := s.queues.ptr.filter fun e => !f e.1 } }.allStrands fun t =>
    if (t.resv.map lost).getD false then { t with resv := none } else t

/-- The entries of a task queue that its overflow ring holds. -/
def Queues.ringOf (q : Queues) (place : Nat) : List Rec := (q.ring.filter fun e => e.1 == place).map fun e => e.2.2

/-- Every Marver of some dies resumes at its persisted cursor (R277). -/
def State.resumeMovers (s : State) (f : Nat → Bool) : State :=
  { s with remaps := s.remaps.map fun (r : Remap) =>
      { r with movers := r.movers.map fun (m : Mover) => if f m.die then m.resume else m } }

/-- A cluster's units reset: the task unit, the caches, the sequencer and the transfer unit. Slot entries of the operator store
are kept. -/
def State.resetUnits (s : State) (cl : Nat) : State :=
  let q := s.queues
  let s := s.lose ((((q.task ++ q.waits).filter fun e => e.1 == cl).map Prod.snd) ++ q.ringOf cl)
  let e := s.engines
  { s.resumeMovers (· == cl / 16) with
    queues := { s.queues with
      task := s.queues.task.filter fun e => e.1 != cl, waits := s.queues.waits.filter fun e => e.1 != cl
      ring := s.queues.ring.filter fun e => e.1 != cl }
    tlb := s.tlb.filter fun t => t.cl != cl
    objCache := s.objCache.filter fun x => x.1 != cl
    engines := { e with
      cmds := e.cmds.filter fun c => c.cl != cl
      offers := e.offers.filter fun c => c.cl != cl
      status := e.status.filter fun x => x.1 / 256 != cl
      tags := e.tags.filter fun x => x.1 / 1024 != cl
      bufs := e.bufs.filter fun x => x.1 != cl
      ptr := e.ptr.filter fun x => x.1 != cl
      xfers := e.xfers.filter fun x => x.cl != cl
      xwaits := e.xwaits.filter fun x => x.cl != cl
      books := e.books.filter fun x => x.1 / 8 != cl
      loads := e.loads.filter fun x => x.cl != cl
      q := e.q.filter fun x => x.1 != cl } }

/-- CLUSTER_RESET of cluster cl: its 16 compute cores, its gaffer and its units. -/
def State.resetCluster (s : State) (cl : Nat) : State :=
  (s.resetCores fun k => clusterOf k == cl && decide (coreNo k ≤ 16)).resetUnits cl

def execClusterReset (s : State) : Out := .next (s.resetCluster s.arg.cl)

/-- A die's queues and cores reset. -/
def State.resetDie (s : State) (die : Nat) : State :=
  let s := (List.range 16).foldl (fun s c => s.resetCluster (die * 16 + c)) s
  let s := s.resetCores fun k => coreDie k == die
  let s := s.lose (((s.queues.die.filter fun e => e.1 == die).map Prod.snd) ++ s.queues.ringOf (dieQueue die))
  { s with
    queues := { s.queues with
      die := s.queues.die.filter fun e => e.1 != die, ring := s.queues.ring.filter fun e => e.1 != dieQueue die }
    launches := { s.launches with warm := s.launches.warm.filter fun e => e.1 != die }
    device := { s.device with
      halted := s.device.halted.filter (· != die), stopped := s.device.stopped.filter (· != die)
      meas := SMap.del die s.device.meas } }

/-! Boot (R371, R372). -/

def sliceNat (bs : List Byte) (off n : Nat) : Nat := leNat ((bs.drop off).take n)

/-- An entry of the section table: offset, length, local-store offset, target. -/
structure Section where
  off : Nat
  len : Nat
  lso : Nat
  tgt : Nat
  spare : Nat
  deriving DecidableEq, Repr

/-- The used entries of the section table of an image. -/
def sectionsOf (img : List Byte) : List Section :=
  (((List.range 32).map fun i => Section.mk (sliceNat img (16 * i) 4) (sliceNat img (16 * i + 4) 4) (sliceNat img (16 * i + 8) 4)
    (sliceNat img (16 * i + 12) 1) (sliceNat img (16 * i + 13) 3)).filter fun x => x.len != 0)

/-- The limits of a used section (R372). -/
def Section.ok (len : Nat) (x : Section) : Bool :=
  x.off % 16 == 0 && decide (0x200 ≤ x.off) && x.len % 16 == 0 && x.lso % 16 == 0 && decide (x.tgt < 4) && x.spare == 0 &&
    decide (x.off + x.len ≤ len) && decide (x.lso + x.len ≤ 0xFE000)

def Section.meets (x y : Section) : Bool := x.tgt == y.tgt && decide (x.lso < y.lso + y.len) && decide (y.lso < x.lso + x.len)

/-- No two sections of one target overlap. -/
def sectionsApart : List Section → Bool
  | [] => true
  | x :: r => r.all (fun y => !x.meets y) && sectionsApart r

/-- The bytes a digest covers: the header's first 64 and the image. -/
def covered (img : List Byte) : List Byte := img.take 0x40 ++ (img.drop 0x100).take (sliceNat img 0x10 8)

/-- Steps 2 to 5 of R371 on what a source sends. -/
def imageGood (rollback : Nat) (img : List Byte) : Bool :=
  let len := sliceNat img 0x10 8
  let body := (img.drop 0x100).take len
  let secs := sectionsOf body
  sliceNat img 0 8 == 0x4C48525058554C49 && decide (len ≤ 2 ^ 24) && len % 16 == 0 && decide (512 ≤ len) &&
    decide (0x100 + len ≤ img.length) && Config.signed (shake256 (covered img)) ((img.drop 0x40).take 114) &&
    decide (rollback ≤ sliceNat img 8 8) && secs.all (Section.ok len) && sectionsApart secs

/-- The sources in the order the ROM tries them. -/
def Device.sources (d : Device) : List (List Byte) := if d.bootsel then d.fabricImages ++ d.portImages else d.portImages

/-- The cores a section's target names on a die. -/
def targetCores (die tgt : Nat) : List Nat :=
  match tgt with
  | 0 => [coreOf die 0 18]
  | 1 => [coreOf die 0 19]
  | 2 => [coreOf die 0 17]
  | _ => (List.range 16).map fun c => coreOf die c 16

/-- One section copied to its target cores. -/
def State.placeSection (s : State) (die : Nat) (body : List Byte) (x : Section) : State :=
  (targetCores die x.tgt).foldl (fun s c => s.setBytes (lsKey c x.lso) ((body.drop x.off).take x.len)) s

/-- Slot 0 of a core started at firmware level, its registers as at task start. -/
def State.startFirmware (s : State) (core pc : Nat) : State :=
  let t := Strand.fresh (s.sidOf core 0) .ready 2
  s.putStrand { t with pc := BitVec.ofNat 48 pc, lastIssue := s.clk }

/-- Each target with a section starts at the offset of its first used one. -/
def State.startTargets (s : State) (die : Nat) (secs : List Section) : State :=
  (List.range 4).foldl (fun s tgt =>
    match secs.find? fun x => x.tgt == tgt with
    | none => s
    | some x => (targetCores die tgt).foldl (fun s c => s.startFirmware c x.lso) s) s

/-- The die halts, with a report over the management port. -/
def State.haltDie (s : State) (die : Nat) : State :=
  let s := s.report 0 [BitVec.ofNat 8 die]
  { s with device := { s.device with halted := s.device.halted ++ [die] } }

/-- POWER_UP_BOOT of a die, its ROM running (R118). With flag the die is reset first. A die whose digest differs from a booted
die's is held; the firmware of one that serves loads a route table (R295). -/
def execPowerUpBoot (s : State) : Out :=
  let die := s.arg.die
  let s := if s.arg.flag then s.resetDie die else s
  match s.device.sources.find? (imageGood ((SMap.find die s.device.rollback).getD 0)) with
  | none => .next (s.haltDie die)
  | some img =>
    let digest := shake256 (covered img)
    let body := (img.drop 0x100).take (sliceNat img 0x10 8)
    let secs := sectionsOf body
    let s := { s with device := { s.device with meas := SMap.put die digest s.device.meas } }
    if s.device.meas.all fun e => e.2 == digest then
      let s := { s with fabric := { s.fabric with routes := s.fabric.routes + 1 } }
      .next ((secs.foldl (fun s x => s.placeSection die body x) s).startTargets die secs)
    else .next (s.haltDie die)

/-! Management (R373, R376). -/

/-- A request that has arrived on the management port. -/
def State.asked (s : State) : State := { s with device := { s.device with received := (s.device.received + 1) % 2 ^ 32 } }

/-- MANAGEMENT_STATUS: the last sequence number sent and the last received. -/
def execManagementStatus (s : State) : Out :=
  let s := s.asked
  .next (s.report 1 (leBytes 4 s.device.sent ++ leBytes 4 s.device.received))

/-- The body of an attestation report (R373): nonce, device number, firmware measurement of die 0, and the number and
measurement of each live job. -/
def State.attest (s : State) (nonce : List Byte) : List Byte :=
  let jobs := s.obj.filter fun e => e.2.valid && e.2.kind == 4 && e.2.jState == 0
  nonce ++ leBytes 2 s.devNo ++ (SMap.find 0 s.device.meas).getD [] ++
    jobs.flatMap fun e => leBytes 2 (e.2.fld 0 8 16) ++ leBytes 64 (e.2.fld 8 0 512)

/-- MANAGEMENT_ATTESTATION: the report, signed by the identity key. -/
def execManagementAttestation (s : State) : Out :=
  let s := s.asked
  let r := s.attest (s.arg.bs.take 32)
  .next (s.report 2 (r ++ Config.identitySign r))

/-! Power (R377). -/

/-- CAP_WINDOW_END: at each window of 2^16 cycles every die withholds the strands of jobs it finds over their cap. -/
def execCapWindowEnd (s : State) : Out :=
  let w := s.clk.toNat / 65536
  let capped := (s.obj.filter fun e => e.2.valid && e.2.kind == 4 && e.2.fld 5 0 16 != 0).map fun e => e.2.fld 0 8 16
  let held := (List.range 8).flatMap fun die => (capped.filter fun j => Config.overCap w die j).map fun j => (die, j)
  .next { s with device := { s.device with withheld := held, capWindow := w } }

/-! The Lehr state (R378-R380). -/

/-- Entry begins. -/
def State.lehrBegin (s : State) : State :=
  if s.device.lehr = 0 then ({ s with device := { s.device with lehr := 1 } }).due .lehrEntryComplete else s

/-- Exit begins. -/
def State.lehrLeave (s : State) : State :=
  if s.device.lehr = 2 then ({ s with device := { s.device with lehr := 3 } }).due .lehrExitComplete else s

/-- A transition is under way. -/
def State.lehrMoves (s : State) : Bool := s.device.lehr == 1 || s.device.lehr == 3

/-- PWR_WARN asserted: entry begins while armed; otherwise system core 0 is told. During a transition it waits. -/
def execPwrWarnAssert (s : State) : Out :=
  if s.lehrMoves then .next (s.due .pwrWarnAssert)
  else
    let s := { s with device := { s.device with pwrWarn := true } }
    if s.device.lehrArmed then .next s.lehrBegin else .next (s.hwSend (sysSid 0) 0x51 0 0 0 0 0)

def execPwrWarnDeassert (s : State) : Out :=
  if s.lehrMoves then .next (s.due .pwrWarnDeassert)
  else
    let s := { s with device := { s.device with pwrWarn := false } }
    if s.device.lehrArmed then .next s.lehrLeave else .next s

/-- A core whose strands keep issuing in the Lehr state: system core 0 of a die. -/
def isSys0 (k : Nat) : Bool := k % 512 == coreOf 0 0 18

/-- LEHR_ENTRY_COMPLETE: once no fabric request is outstanding the device is in the state: translation caches keep their
pinned entries, and clk halts. -/
def execLehrEntryComplete (s : State) : Out :=
  if s.device.lehr ≠ 1 then .next s
  else if !s.fabric.reqs.isEmpty then .next (s.due .lehrEntryComplete)
  else
    let s := s.allStrands fun t => if isSys0 t.homeCore then t else t.refetch
    .next { s with tlb := s.tlb.filter Tr.pinned, device := { s.device with lehr := 2 } }

/-- LEHR_EXIT_COMPLETE: everything goes on from where it was, each Marver from its persisted cursor. -/
def execLehrExitComplete (s : State) : Out :=
  if s.device.lehr = 3 then .next { s.resumeMovers (fun _ => true) with device := { s.device with lehr := 0 } } else .next s

/-- LEHR (R380): the acceptance cycle in l0. A transition under way is waited for. -/
def lehr (i : Instr) (a : Reg) (la : Look) (s : State) : Out :=
  command i supervisor la (do
    let x ← rd a
    let s ← get
    need (isSys0 s.me.core) (illegalState x)
    need (!s.lehrMoves) (stop .wait)
    promise 0
    match wbits x 0 2 with
    | 0 => do
      upd State.lehrBegin
      waitFor (.table 9 0 0) la
    | 1 => do
      upd State.lehrLeave
      waitFor (.table 9 1 0) la
    | 2 => upd fun s => { s with device := { s.device with lehrArmed := true } }
    | _ => upd fun s => { s with device := { s.device with lehrArmed := false } }) s

/-- One word encodes the four operations; a says which at run time (log 16). -/
def execLehrEnter (a : Reg) (la : Look) (s : State) : Out := lehr (.lehrEnter a la) a la s
def execLehrExit (a : Reg) (la : Look) (s : State) : Out := lehr (.lehrExit a la) a la s
def execLehrArm (a : Reg) (la : Look) (s : State) : Out := lehr (.lehrArm a la) a la s
def execLehrDisarm (a : Reg) (la : Look) (s : State) : Out := lehr (.lehrDisarm a la) a la s

/-! Repair in service (R381, R382). -/

/-- A cluster's neighbour in service, which takes its work. -/
def State.nextCl (s : State) (cl : Nat) : Nat :=
  let out := s.device.drained ++ s.device.closing
  cl / 16 * 16 + nextInService out (cl / 16) 16 ((cl % 16) ^^^ 1)

/-- The task unit closes. -/
def State.closeCluster (s : State) (cl : Nat) : State := { s with device := { s.device with closing := s.device.closing ++ [cl] } }

/-- Another cluster that serves and belongs to the launch of a record, the neighbour of a cluster first. -/
def State.otherCl (s : State) (cl : Nat) (r : Rec) (f : Nat → Bool) : Option Nat :=
  let fits (c : Nat) : Bool := c != cl && s.serving (c * 32) && f c &&
    match r.key with
    | some k => inClusters (s.objAt k) c
    | none => true
  (s.nextCl cl :: List.range 128).find? fits

/-- The first record of a closed task queue goes to the die queue, while that has room (R381). -/
def State.moveRec (s : State) (cl : Nat) : Option State :=
  match pull (fun (e : Nat × Rec) => e.1 == cl) s.queues.task with
  | none => none
  | some (e, r) =>
    if s.dieRoom (cl / 16) then
      some ((({ s with queues := { s.queues with task := r } }).refill cl).putDie (cl / 16) e.2)
    else none

/-- The first wait-set record of a closed cluster that another cluster of its launch can hold goes there. -/
def State.moveWait (s : State) (cl : Nat) : Option State :=
  let room (c : Nat) : Bool := decide ((s.queues.waits.filter fun e => e.1 == c).length < 256)
  match pull (fun (e : Nat × Rec) => e.1 == cl && (s.otherCl cl e.2 room).isSome) s.queues.waits with
  | none => none
  | some (e, r) => (s.otherCl cl e.2 room).map fun c => { s with queues := { s.queues with waits := r ++ [(c, e.2)] } }

/-- Where a run-queue entry of a closed cluster goes: a strand to the core that serves its lines now, a record to one of another
cluster of its launch. -/
def State.otherRun (s : State) (cl : Nat) (e : Nat × RunEntry) : Option Nat :=
  match e.2 with
  | .strand _ =>
    let k := s.nextCl cl * 32 + coreNo e.1
    if s.runRoom k then some k else none
  | .spawn r => (s.otherCl cl r fun c => s.runRoom (c * 32 + coreNo e.1)).map fun c => c * 32 + coreNo e.1

def State.moveRun (s : State) (cl : Nat) : Option State :=
  match pull (fun (e : Nat × RunEntry) => clusterOf e.1 == cl && (s.otherRun cl e).isSome) s.queues.run with
  | none => none
  | some (e, r) => (s.otherRun cl e).map fun k => ({ s with queues := { s.queues with run := r } }).putRun k e.2

/-- What a move moves, as often as it can. -/
def movedAll (f : State → Option State) : Nat → State → State
  | 0, s => s
  | n + 1, s =>
    match f s with
    | none => s
    | some t => movedAll f n t

/-- The entries of a closed cluster moved as far as others have room for them. -/
def State.moveEntries (s : State) (cl : Nat) : State :=
  let q := s.queues
  let s := movedAll (fun s => s.moveRec cl) (q.task.length + q.ring.length) s
  let s := movedAll (fun s => s.moveWait cl) q.waits.length s
  movedAll (fun s => s.moveRun cl) q.run.length s

/-- Whether a cluster holds no entries any more. -/
def State.emptied (s : State) (cl : Nat) : Bool :=
  let q := s.queues
  !(q.task.any fun e => e.1 == cl) && !(q.waits.any fun e => e.1 == cl) && !(q.run.any fun e => clusterOf e.1 == cl)

/-- A core for a strand of a cluster that closes: of another cluster of its launch, with a free slot. -/
def State.refuge (s : State) (t : Strand) : Option (Nat × Nat) :=
  let cls := (List.range 128).filter fun c => s.serving (c * 32) &&
    match t.launch? with
    | some k => inClusters (s.objAt k) c
    | none => true
  (cls.flatMap fun c => (List.range 16).map fun i => c * 32 + i).findSome? fun core => (s.freeSlot core).map fun i => (core, i)

/-- A strand moved as by SPILL and RESTORE: its sid is that of its new slot, and the old slot is free. -/
def State.moveStrand (s : State) (core slot : Nat) (win : Option Nat) : State :=
  let was := s.me.sid.toNat % 65536
  let sid := s.sidOf core slot
  let t := { s.me.refetch with
    sid := sid, core := core, slot := slot, lastIssue := s.clk
    skip := if win.isSome then win else s.me.skip }
  let s := { s with me := Strand.fresh s.me.sid .idle 0 }
  (s.putStrand t).renameResv was (core * 16 + slot)

/-- One strand of a cluster that closes: an abroad one starts for home, one at a boundary moves. -/
def State.evict (s : State) (sid : Nat) : State :=
  let mine := s.me.sid.toNat
  let s := s.focus sid
  let s := match s.me.status with
    | .ready | .parked _ =>
      let s := { s with me := { s.me with pend := s.me.pend.map fun (p : Pending) => if p.isFault then { p with left := 0 } else p } }
      if !s.storesDone || s.me.doom.isSome then s
      else
        match s.me.storeErr with
        | some (cls, a) => s.storeTrap cls a
        | none =>
        match s.boundary with
        | none => s
        | some (t, win) =>
          if t.me.abroad then { t with me := { t.me with skip := if win.isSome then win else t.me.skip } }.goHome
          else
            match t.refuge t.me with
            | none => s
            | some (core, i) => t.moveStrand core i win
    | _ => s
  s.focus mine

/-- Strands a drain has to move: those at home on a compute core of the cluster, and those abroad there. -/
def evicted (cl : Nat) (t : Strand) : Bool :=
  (t.status == .ready || t.status == .parked true || t.status == .parked false) &&
    ((clusterOf t.homeCore == cl && decide (coreNo t.homeCore < 16)) || (t.abroad && clusterOf t.core == cl))

/-- Whether the cluster's engines are at rest. -/
def State.enginesRest (s : State) (cl : Nat) : Bool :=
  !(s.engines.cmds.any fun c => c.cl == cl) && !(s.engines.offers.any fun c => c.cl == cl) &&
    !(s.engines.xfers.any fun x => x.cl == cl) && !(s.engines.xwaits.any fun x => x.cl == cl) &&
    !(s.engines.loads.any fun x => x.cl == cl)

/-- CLUSTER_DRAIN, in the order of R381: it is made again until its engines have retired and its strands have moved. -/
def State.drain (s : State) (cl : Nat) : State :=
  if s.device.drained.contains cl then s
  else
    let s := (if s.device.closing.contains cl then s else s.closeCluster cl).moveEntries cl
    if !s.enginesRest cl || !s.emptied cl then s.due .clusterDrain { cl, flag := true }
    else
      let s := (s.strands.filter (evicted cl)).foldl (fun s t => s.evict t.sid.toNat) s
      if s.strands.any fun t => (t.status != .idle && clusterOf t.homeCore == cl && decide (coreNo t.homeCore < 16)) ||
          (t.abroad && clusterOf t.core == cl) then s.due .clusterDrain { cl, flag := true }
      else
        { s with device := { s.device with
            drained := s.device.drained ++ [cl], closing := s.device.closing.filter (· != cl) } }

def execClusterDrain (s : State) : Out := .next ((if s.arg.flag then s else s.asked).drain s.arg.cl)

/-- CLUSTER_RETURN. The last cluster to return takes its die back into service, and its replicas of the field tables rejoin
(R258, R382). -/
def execClusterReturn (s : State) : Out :=
  let cl := s.arg.cl
  let s := s.asked
  let out := s.device.drained.filter (· != cl)
  let dies := if out.any fun c => c / 16 == cl / 16 then s.device.drainedDies else s.device.drainedDies.filter (· != cl / 16)
  let back := s.device.drainedDies.contains (cl / 16) && !dies.contains (cl / 16)
  let s := { s with device := { s.device with
    drained := out, closing := s.device.closing.filter (· != cl), drainedDies := dies } }
  let s := if back then s.fieldReturn (cl / 16) else s
  .next (s.due .slotFill { core := cl * 32 })

/-- DIE_DRAIN (R382): every cluster is drained, then the die's replicas are excluded and its Pontil and system cores are
parked. -/
def execDieDrain (s : State) : Out :=
  let die := s.arg.die
  let s := if s.arg.flag then s else s.asked
  let cls := (List.range 16).map (die * 16 + ·)
  if cls.all s.device.drained.contains then
    let s := s.excludeDie die false
    .next { s with device := { s.device with drainedDies := s.device.drainedDies ++ [die] } }
  else
    let s := (cls.filter fun c => !s.device.closing.contains c).foldl State.drain s
    .next (s.due .dieDrain { die, flag := true })

/-! Links and failures (R374, R383). -/

/-- LINK_KEY_RENEWAL: the link to a device goes on under the next key. -/
def execLinkKeyRenewal (s : State) : Out :=
  let d := s.arg.dev
  .next { s with fabric := { s.fabric with keys := SMap.put d ((SMap.find d s.fabric.keys).getD 0 + 1) s.fabric.keys } }

/-- LINK_KEY_AGREEMENT: with flag both devices have verified the other's attestation, and a first key is agreed. -/
def execLinkKeyAgreement (s : State) : Out :=
  let d := s.arg.dev
  if s.arg.flag then .next { s with fabric := { s.fabric with keys := SMap.put d 1 s.fabric.keys } } else .next s

/-- OBITUARY of a device: runs of its rank lists are cancelled here with step field 62 (R311). -/
def execObituary (s : State) : Out :=
  let d := s.arg.dev
  if s.fabric.dead.contains d then .next s
  else
    let s := s.cancelRuns 62 fun g => g.ranks.contains d
    .next { s with fabric := { s.fabric with dead := s.fabric.dead ++ [d] } }

/-- Obituary packets of a device to every device of its group and of the rank lists it stands in. -/
def State.mourn (s : State) (d : Nat) : State :=
  let group := (List.range 32).map (d / 32 * 32 + ·)
  let ranks := (s.fabric.graphs.filter fun g => g.ranks.contains d).flatMap CGraph.ranks
  let dst := ((group ++ ranks).eraseDups.filter fun x => x != d && x != s.devNo && routeEntry s.fabric.routes x)
  { s with fabric := { s.fabric with out := s.fabric.out ++ dst.map fun x =>
      ({ dev := x, job := 0, kind := 9, a := d, b := 0, bytes := [] } : Packet) } }

/-- LINK_LOSS: the router sends the obituary of the silent neighbour, and this device takes it too. -/
def execLinkLoss (s : State) : Out := .next ((s.mourn s.arg.dev).due .obituary { dev := s.arg.dev })

/-- DEVICE_UNRECOVERABLE_FAULT: this device sends its own obituary. -/
def execDeviceUnrecoverableFault (s : State) : Out := .next (s.mourn s.devNo)

/-! The kill of a job (R369). -/

/-- JOB_KILL: the job's launches and graphs are cancelled, its strands end, its commands, transfers, remaps and runs
stop at their boundaries, and the job ends. -/
def execJobKill (s : State) : Out :=
  let job := s.arg.job
  let keys := (s.launches.die.map Prod.fst).filter fun k => k / 65536 == job
  let s := s.modJob job fun j => j.setFld 0 28 3 4
  let s := (keys.filter fun k => (s.objAt k).kind == 3).foldl State.cancelGraph s
  let s := (keys.filter fun k => (s.objAt k).kind == 2).foldl State.cancelLaunch s
  let s := s.cancelStrands fun t => t.job.toNat == job && t.task
  let s := (s.killCmds job).stopXfers fun x => x.job == job
  let mine (w : XWait) : Bool := match s.strand? (w.sid % 65536) with
    | some t => t.job.toNat == job
    | none => true
  let s : State := { s with engines := { s.engines with xwaits := s.engines.xwaits.filter fun w => !mine w } }
  let s := ((s.remaps.filter fun r => r.key / 65536 == job).map Remap.key).eraseDups.foldl State.stopRemaps s
  let s := s.cancelRuns 63 fun g => g.key / 65536 == job
  .next (s.endJob job)

end Sys2Proof.Machine
end

