-- ==== Sys2Proof/Machine/Dispatch.lean ====
section
/-! DEFINITION. One arm for each constructor of Instr, each one direct call of its meaning. -/

namespace Sys2Proof.Machine

def exec (i : Instr) (s : State) : Host.Outcome State Fault Refusal :=
  match i with
  | .add d a b g => Sys2Proof.Machine.execAdd d a b g s
  | .sub d a b g => Sys2Proof.Machine.execSub d a b g s
  | .mul d a b g => Sys2Proof.Machine.execMul d a b g s
  | .mulh d a b g => Sys2Proof.Machine.execMulh d a b g s
  | .mulhn d a b g => Sys2Proof.Machine.execMulhn d a b g s
  | .div d a b g la => Sys2Proof.Machine.execDiv d a b g la s
  | .divn d a b g la => Sys2Proof.Machine.execDivn d a b g la s
  | .rem d a b g la => Sys2Proof.Machine.execRem d a b g la s
  | .and d a b g => Sys2Proof.Machine.execAnd d a b g s
  | .or d a b g => Sys2Proof.Machine.execOr d a b g s
  | .xor d a b g => Sys2Proof.Machine.execXor d a b g s
  | .andn d a b g => Sys2Proof.Machine.execAndn d a b g s
  | .orn d a b g => Sys2Proof.Machine.execOrn d a b g s
  | .xnor d a b g => Sys2Proof.Machine.execXnor d a b g s
  | .min d a b g => Sys2Proof.Machine.execMin d a b g s
  | .max d a b g => Sys2Proof.Machine.execMax d a b g s
  | .shl d a b g => Sys2Proof.Machine.execShl d a b g s
  | .shr d a b g => Sys2Proof.Machine.execShr d a b g s
  | .sha d a b g => Sys2Proof.Machine.execSha d a b g s
  | .rot d a b g => Sys2Proof.Machine.execRot d a b g s
  | .minn d a b g => Sys2Proof.Machine.execMinn d a b g s
  | .maxn d a b g => Sys2Proof.Machine.execMaxn d a b g s
  | .clz d a g => Sys2Proof.Machine.execClz d a g s
  | .popc d a g => Sys2Proof.Machine.execPopc d a g s
  | .bext d a b g => Sys2Proof.Machine.execBext d a b g s
  | .bdep d a b g => Sys2Proof.Machine.execBdep d a b g s
  | .brev d a g => Sys2Proof.Machine.execBrev d a g s
  | .scadd d a b g => Sys2Proof.Machine.execScadd d a b g s
  | .sel d a b g => Sys2Proof.Machine.execSel d a b g s
  | .lut3 d a b tbl => Sys2Proof.Machine.execLut3 d a b tbl s
  | .fsl d a b n => Sys2Proof.Machine.execFsl d a b n s
  | .fsr d a b n => Sys2Proof.Machine.execFsr d a b n s
  | .cmpeq pd a b g => Sys2Proof.Machine.execCmpeq pd a b g s
  | .cmpne pd a b g => Sys2Proof.Machine.execCmpne pd a b g s
  | .cmplt pd a b g => Sys2Proof.Machine.execCmplt pd a b g s
  | .cmple pd a b g => Sys2Proof.Machine.execCmple pd a b g s
  | .cmpltn pd a b g => Sys2Proof.Machine.execCmpltn pd a b g s
  | .cmplen pd a b g => Sys2Proof.Machine.execCmplen pd a b g s
  | .tst pd a b g => Sys2Proof.Machine.execTst pd a b g s
  | .pand pd pa pb g => Sys2Proof.Machine.execPand pd pa pb g s
  | .por pd pa pb g => Sys2Proof.Machine.execPor pd pa pb g s
  | .pxor pd pa pb g => Sys2Proof.Machine.execPxor pd pa pb g s
  | .pnot pd pa g => Sys2Proof.Machine.execPnot pd pa g s
  | .addi d a imm g => Sys2Proof.Machine.execAddi d a imm g s
  | .andi d a imm g => Sys2Proof.Machine.execAndi d a imm g s
  | .ori d a imm g => Sys2Proof.Machine.execOri d a imm g s
  | .xori d a imm g => Sys2Proof.Machine.execXori d a imm g s
  | .shli d a n g => Sys2Proof.Machine.execShli d a n g s
  | .shri d a n g => Sys2Proof.Machine.execShri d a n g s
  | .shai d a n g => Sys2Proof.Machine.execShai d a n g s
  | .cmpeqi pd a imm g => Sys2Proof.Machine.execCmpeqi pd a imm g s
  | .cmplti pd a imm g => Sys2Proof.Machine.execCmplti pd a imm g s
  | .cmpltni pd a imm g => Sys2Proof.Machine.execCmpltni pd a imm g s
  | .lui d imm => Sys2Proof.Machine.execLui d imm s
  | .addpc d imm => Sys2Proof.Machine.execAddpc d imm s
  | .fadd d a b g => Sys2Proof.Machine.execFadd d a b g s
  | .fsub d a b g => Sys2Proof.Machine.execFsub d a b g s
  | .fmul d a b g => Sys2Proof.Machine.execFmul d a b g s
  | .fma d a b g => Sys2Proof.Machine.execFma d a b g s
  | .fdiv d a b g la => Sys2Proof.Machine.execFdiv d a b g la s
  | .fsqrt d a g la => Sys2Proof.Machine.execFsqrt d a g la s
  | .fmin d a b g => Sys2Proof.Machine.execFmin d a b g s
  | .fmax d a b g => Sys2Proof.Machine.execFmax d a b g s
  | .fcmpeq pd a b g => Sys2Proof.Machine.execFcmpeq pd a b g s
  | .fcmplt pd a b g => Sys2Proof.Machine.execFcmplt pd a b g s
  | .fcmple pd a b g => Sys2Proof.Machine.execFcmple pd a b g s
  | .fcmpun pd a b g => Sys2Proof.Machine.execFcmpun pd a b g s
  | .cvt d a src dst mode sat g => Sys2Proof.Machine.execCvt d a src dst mode sat g s
  | .dadd d a b g la => Sys2Proof.Machine.execDadd d a b g la s
  | .dsub d a b g la => Sys2Proof.Machine.execDsub d a b g la s
  | .dmul d a b g la => Sys2Proof.Machine.execDmul d a b g la s
  | .dfma d a b g la => Sys2Proof.Machine.execDfma d a b g la s
  | .ddiv d a b g la => Sys2Proof.Machine.execDdiv d a b g la s
  | .dsqrt d a g la => Sys2Proof.Machine.execDsqrt d a g la s
  | .srd d r g => Sys2Proof.Machine.execSrd d r g s
  | .swr r a g => Sys2Proof.Machine.execSwr r a g s
  | .ext k a g => Sys2Proof.Machine.execExt k a g s
  | .rdcyc d => Sys2Proof.Machine.execRdcyc d s
  | .trap code => Sys2Proof.Machine.execTrap code s
  | .br p off => Sys2Proof.Machine.execBr p off s
  | .brF p off => Sys2Proof.Machine.execBrF p off s
  | .call off => Sys2Proof.Machine.execCall off s
  | .jr a g => Sys2Proof.Machine.execJr a g s
  | .callr a g => Sys2Proof.Machine.execCallr a g s
  | .ret g => Sys2Proof.Machine.execRet g s
  | .loop d off g => Sys2Proof.Machine.execLoop d off g s
  | .susp a b g => Sys2Proof.Machine.execSusp a b g s
  | .migr d a g la => Sys2Proof.Machine.execMigr d a g la s
  | .home g la => Sys2Proof.Machine.execHome g la s
  | .spawn d a b g la => Sys2Proof.Machine.execSpawn d a b g la s
  | .spawnh d a b g la => Sys2Proof.Machine.execSpawnh d a b g la s
  | .send d a b g la => Sys2Proof.Machine.execSend d a b g la s
  | .qtest d g => Sys2Proof.Machine.execQtest d g s
  | .launch d a b g la => Sys2Proof.Machine.execLaunch d a b g la s
  | .grun d a g la => Sys2Proof.Machine.execGrun d a g la s
  | .cancelLaunch d a b g la => Sys2Proof.Machine.execCancelLaunch d a b g la s
  | .cancelGraph d a b g la => Sys2Proof.Machine.execCancelGraph d a b g la s
  | .cancelJob d a b g la => Sys2Proof.Machine.execCancelJob d a b g la s
  | .callm d a g la => Sys2Proof.Machine.execCallm d a g la s
  | .callq d a b g la => Sys2Proof.Machine.execCallq d a b g la s
  | .callw a b g la => Sys2Proof.Machine.execCallw a b g la s
  | .stf d a b c md g la => Sys2Proof.Machine.execStf d a b c md g la s
  | .ld d a off sz sx la => Sys2Proof.Machine.execLd d a off sz sx la s
  | .st d a off sz la => Sys2Proof.Machine.execSt d a off sz la s
  | .lda d a off sz pair la => Sys2Proof.Machine.execLda d a off sz pair la s
  | .sta d a off sz pair la => Sys2Proof.Machine.execSta d a off sz pair la s
  | .ldl d a off sz sx la => Sys2Proof.Machine.execLdl d a off sz sx la s
  | .stl d a off sz la => Sys2Proof.Machine.execStl d a off sz la s
  | .ldx d a b g la => Sys2Proof.Machine.execLdx d a b g la s
  | .stx d a b g la => Sys2Proof.Machine.execStx d a b g la s
  | .lrw d a g la => Sys2Proof.Machine.execLrw d a g la s
  | .scv d a g la => Sys2Proof.Machine.execScv d a g la s
  | .relq a g la => Sys2Proof.Machine.execRelq a g la s
  | .fence scope kind g => Sys2Proof.Machine.execFence scope kind g s
  | .ifence g => Sys2Proof.Machine.execIfence g s
  | .vamoBf16 a b g la => Sys2Proof.Machine.execVamoBf16 a b g la s
  | .vamoFp32 a b g la => Sys2Proof.Machine.execVamoFp32 a b g la s
  | .amoadd d a b g la => Sys2Proof.Machine.execAmoadd d a b g la s
  | .amoand d a b g la => Sys2Proof.Machine.execAmoand d a b g la s
  | .amoor d a b g la => Sys2Proof.Machine.execAmoor d a b g la s
  | .amoxor d a b g la => Sys2Proof.Machine.execAmoxor d a b g la s
  | .amomin d a b g la => Sys2Proof.Machine.execAmomin d a b g la s
  | .amomax d a b g la => Sys2Proof.Machine.execAmomax d a b g la s
  | .amoswap d a b g la => Sys2Proof.Machine.execAmoswap d a b g la s
  | .amocas d a b g la => Sys2Proof.Machine.execAmocas d a b g la s
  | .vadd d a b ty g => Sys2Proof.Machine.execVadd d a b ty g s
  | .vsub d a b ty g => Sys2Proof.Machine.execVsub d a b ty g s
  | .vmul d a b ty g => Sys2Proof.Machine.execVmul d a b ty g s
  | .vfma d a b ty g => Sys2Proof.Machine.execVfma d a b ty g s
  | .vmin d a b ty g => Sys2Proof.Machine.execVmin d a b ty g s
  | .vmax d a b ty g => Sys2Proof.Machine.execVmax d a b ty g s
  | .vabs d a ty g => Sys2Proof.Machine.execVabs d a ty g s
  | .vneg d a ty g => Sys2Proof.Machine.execVneg d a ty g s
  | .vexp d a g => Sys2Proof.Machine.execVexp d a g s
  | .vlog d a g => Sys2Proof.Machine.execVlog d a g s
  | .vrcp d a g => Sys2Proof.Machine.execVrcp d a g s
  | .vrsq d a g => Sys2Proof.Machine.execVrsq d a g s
  | .vsin d a g => Sys2Proof.Machine.execVsin d a g s
  | .vcos d a g => Sys2Proof.Machine.execVcos d a g s
  | .vand d a b ty g => Sys2Proof.Machine.execVand d a b ty g s
  | .vor d a b ty g => Sys2Proof.Machine.execVor d a b ty g s
  | .vxor d a b ty g => Sys2Proof.Machine.execVxor d a b ty g s
  | .vshl d a b ty g => Sys2Proof.Machine.execVshl d a b ty g s
  | .vshr d a b ty g => Sys2Proof.Machine.execVshr d a b ty g s
  | .vcmp rel d a b ty g => Sys2Proof.Machine.execVcmp rel d a b ty g s
  | .vsel d a b ty g => Sys2Proof.Machine.execVsel d a b ty g s
  | .vbcast d a ty g => Sys2Proof.Machine.execVbcast d a ty g s
  | .vget d a b ty g => Sys2Proof.Machine.execVget d a b ty g s
  | .vput d a b ty g => Sys2Proof.Machine.execVput d a b ty g s
  | .vshuf d a b ty g => Sys2Proof.Machine.execVshuf d a b ty g s
  | .vcmul d a b g => Sys2Proof.Machine.execVcmul d a b g s
  | .vconj d a g => Sys2Proof.Machine.execVconj d a g s
  | .vcvt d a src sat mode ty g => Sys2Proof.Machine.execVcvt d a src sat mode ty g s
  | .vrnd d a b ty g => Sys2Proof.Machine.execVrnd d a b ty g s
  | .vrsum d a ty g => Sys2Proof.Machine.execVrsum d a ty g s
  | .vrmax d a ty g => Sys2Proof.Machine.execVrmax d a ty g s
  | .vrmin d a ty g => Sys2Proof.Machine.execVrmin d a ty g s
  | .vrmaxi d a ty g => Sys2Proof.Machine.execVrmaxi d a ty g s
  | .vrmini d a ty g => Sys2Proof.Machine.execVrmini d a ty g s
  | .vld d a b ty g => Sys2Proof.Machine.execVld d a b ty g s
  | .vst d a b ty g => Sys2Proof.Machine.execVst d a b ty g s
  | .vgath d a b ty g => Sys2Proof.Machine.execVgath d a b ty g s
  | .vscat d a b ty g => Sys2Proof.Machine.execVscat d a b ty g s
  | .strm t a b ty g => Sys2Proof.Machine.execStrm t a b ty g s
  | .stre t g => Sys2Proof.Machine.execStre t g s
  | .vldf a b k c md la => Sys2Proof.Machine.execVldf a b k c md la s
  | .vstf a b k c md la => Sys2Proof.Machine.execVstf a b k c md la s
  | .pacc a b k la => Sys2Proof.Machine.execPacc a b k la s
  | .paxpy a b k la => Sys2Proof.Machine.execPaxpy a b k la s
  | .pema a b k la => Sys2Proof.Machine.execPema a b k la s
  | .ldf d a b c md g la => Sys2Proof.Machine.execLdf d a b c md g la s
  | .apply a b c acc sat nomap la => Sys2Proof.Machine.execApply a b c acc sat nomap la s
  | .applyc a b c acc sat nomap la => Sys2Proof.Machine.execApplyc a b c acc sat nomap la s
  | .phase a b c nomap la => Sys2Proof.Machine.execPhase a b c nomap la s
  | .dscale a b acc sat nomap la => Sys2Proof.Machine.execDscale a b acc sat nomap la s
  | .redb a b acc sat nomap la => Sys2Proof.Machine.execRedb a b acc sat nomap la s
  | .maxb a b nomap la => Sys2Proof.Machine.execMaxb a b nomap la s
  | .opld a b c sat la => Sys2Proof.Machine.execOpld a b c sat la s
  | .opgen a la => Sys2Proof.Machine.execOpgen a la s
  | .opwait a la => Sys2Proof.Machine.execOpwait a la s
  | .xfer a b c la => Sys2Proof.Machine.execXfer a b c la s
  | .xferRetry a b c la => Sys2Proof.Machine.execXferRetry a b c la s
  | .xferAbandon a b c la => Sys2Proof.Machine.execXferAbandon a b c la s
  | .cbld a b la => Sys2Proof.Machine.execCbld a b la s
  | .waitt d a g la => Sys2Proof.Machine.execWaitt d a g la s
  | .waitc d a b g la => Sys2Proof.Machine.execWaitc d a b g la s
  | .waitb d a b g la => Sys2Proof.Machine.execWaitb d a b g la s
  | .waitp p a b g la => Sys2Proof.Machine.execWaitp p a b g la s
  | .sig scope a b g la => Sys2Proof.Machine.execSig scope a b g la s
  | .cntset a b g la => Sys2Proof.Machine.execCntset a b g la s
  | .armt a g => Sys2Proof.Machine.execArmt a g s
  | .barw d a g la => Sys2Proof.Machine.execBarw d a g la s
  | .otset a b c la => Sys2Proof.Machine.execOtset a b c la s
  | .otget a b la => Sys2Proof.Machine.execOtget a b la s
  | .otinv a la => Sys2Proof.Machine.execOtinv a la s
  | .frename a b c la => Sys2Proof.Machine.execFrename a b c la s
  | .fperm a b c la => Sys2Proof.Machine.execFperm a b c la s
  | .finfo a b la => Sys2Proof.Machine.execFinfo a b la s
  | .objnew a b c la => Sys2Proof.Machine.execObjnew a b c la s
  | .objsync a la => Sys2Proof.Machine.execObjsync a la s
  | .leasePin a b c la => Sys2Proof.Machine.execLeasePin a b c la s
  | .leaseUnpin a b c la => Sys2Proof.Machine.execLeaseUnpin a b c la s
  | .xinv a b c la => Sys2Proof.Machine.execXinv a b c la s
  | .dlogh a la => Sys2Proof.Machine.execDlogh a la s
  | .pgmig a b c la => Sys2Proof.Machine.execPgmig a b c la s
  | .subs a b la => Sys2Proof.Machine.execSubs a b la s
  | .unsub a la => Sys2Proof.Machine.execUnsub a la s
  | .cgld a la => Sys2Proof.Machine.execCgld a la s
  | .cgrun a b la => Sys2Proof.Machine.execCgrun a b la s
  | .spill a b la => Sys2Proof.Machine.execSpill a b la s
  | .restore a b la => Sys2Proof.Machine.execRestore a b la s
  | .barcfgConfigure a b la => Sys2Proof.Machine.execBarcfgConfigure a b la s
  | .barcfgRelease a b la => Sys2Proof.Machine.execBarcfgRelease a b la s
  | .lehrEnter a la => Sys2Proof.Machine.execLehrEnter a la s
  | .lehrExit a la => Sys2Proof.Machine.execLehrExit a la s
  | .lehrArm a la => Sys2Proof.Machine.execLehrArm a la s
  | .lehrDisarm a la => Sys2Proof.Machine.execLehrDisarm a la s
  | .compactMov d a => Sys2Proof.Machine.execCompactMov d a s
  | .compactAdd d a => Sys2Proof.Machine.execCompactAdd d a s
  | .compactSub d a => Sys2Proof.Machine.execCompactSub d a s
  | .compactAnd d a => Sys2Proof.Machine.execCompactAnd d a s
  | .compactOr d a => Sys2Proof.Machine.execCompactOr d a s
  | .compactXor d a => Sys2Proof.Machine.execCompactXor d a s
  | .compactAndn d a => Sys2Proof.Machine.execCompactAndn d a s
  | .compactShl d a => Sys2Proof.Machine.execCompactShl d a s
  | .compactShr d a => Sys2Proof.Machine.execCompactShr d a s
  | .compactSha d a => Sys2Proof.Machine.execCompactSha d a s
  | .compactAddi d imm => Sys2Proof.Machine.execCompactAddi d imm s
  | .compactShli d imm => Sys2Proof.Machine.execCompactShli d imm s
  | .compactShri d imm => Sys2Proof.Machine.execCompactShri d imm s
  | .compactShai d imm => Sys2Proof.Machine.execCompactShai d imm s
  | .compactMovi d imm => Sys2Proof.Machine.execCompactMovi d imm s
  | .compactCmpeq d a => Sys2Proof.Machine.execCompactCmpeq d a s
  | .compactCmplt d a => Sys2Proof.Machine.execCompactCmplt d a s
  | .compactCmpltn d a => Sys2Proof.Machine.execCompactCmpltn d a s
  | .compactLdl d a => Sys2Proof.Machine.execCompactLdl d a s
  | .compactStl d a => Sys2Proof.Machine.execCompactStl d a s
  | .compactVadd d a => Sys2Proof.Machine.execCompactVadd d a s
  | .compactVmul d a => Sys2Proof.Machine.execCompactVmul d a s
  | .compactVfma d a => Sys2Proof.Machine.execCompactVfma d a s
  | .nop => Sys2Proof.Machine.execNop s
  | .idle => Sys2Proof.Machine.execIdle s
  | .rte => Sys2Proof.Machine.execRte s
  | .endTask => Sys2Proof.Machine.execEndTask s
  | .yield => Sys2Proof.Machine.execYield s
  | .compactNop => Sys2Proof.Machine.execCompactNop s
  | .compactEnd => Sys2Proof.Machine.execCompactEnd s
  | .compactYield => Sys2Proof.Machine.execCompactYield s
  | .compactRet => Sys2Proof.Machine.execCompactRet s
  | .streamFetchAhead => Sys2Proof.Machine.execStreamFetchAhead s
  | .trapEntry => Sys2Proof.Machine.execTrapEntry s
  | .resultArrival => Sys2Proof.Machine.execResultArrival s
  | .storePerform => Sys2Proof.Machine.execStorePerform s
  | .pageWalk => Sys2Proof.Machine.execPageWalk s
  | .remoteAccessRequest => Sys2Proof.Machine.execRemoteAccessRequest s
  | .requestTimeout => Sys2Proof.Machine.execRequestTimeout s
  | .staleReply => Sys2Proof.Machine.execStaleReply s
  | .packetAgeDiscard => Sys2Proof.Machine.execPacketAgeDiscard s
  | .messageArrival => Sys2Proof.Machine.execMessageArrival s
  | .sendOfferAnswer => Sys2Proof.Machine.execSendOfferAnswer s
  | .sendRetryLimit => Sys2Proof.Machine.execSendRetryLimit s
  | .hardwareMessageDelivery => Sys2Proof.Machine.execHardwareMessageDelivery s
  | .migrationArrival => Sys2Proof.Machine.execMigrationArrival s
  | .reservationGrant => Sys2Proof.Machine.execReservationGrant s
  | .slotFill => Sys2Proof.Machine.execSlotFill s
  | .recordAgeing => Sys2Proof.Machine.execRecordAgeing s
  | .waitSetTimeWake => Sys2Proof.Machine.execWaitSetTimeWake s
  | .launchPreparation => Sys2Proof.Machine.execLaunchPreparation s
  | .recordGeneration => Sys2Proof.Machine.execRecordGeneration s
  | .launchCompletion => Sys2Proof.Machine.execLaunchCompletion s
  | .commandAccept => Sys2Proof.Machine.execCommandAccept s
  | .commandStart => Sys2Proof.Machine.execCommandStart s
  | .commandRetire => Sys2Proof.Machine.execCommandRetire s
  | .chunkComplete => Sys2Proof.Machine.execChunkComplete s
  | .chunkFailed => Sys2Proof.Machine.execChunkFailed s
  | .codeBookLoaded => Sys2Proof.Machine.execCodeBookLoaded s
  | .remapGroupMove => Sys2Proof.Machine.execRemapGroupMove s
  | .remapPassEnd => Sys2Proof.Machine.execRemapPassEnd s
  | .remapCommit => Sys2Proof.Machine.execRemapCommit s
  | .remapGroupRetry => Sys2Proof.Machine.execRemapGroupRetry s
  | .logAppend => Sys2Proof.Machine.execLogAppend s
  | .entryApply => Sys2Proof.Machine.execEntryApply s
  | .queryRun => Sys2Proof.Machine.execQueryRun s
  | .replicaReport => Sys2Proof.Machine.execReplicaReport s
  | .replicaExclusion => Sys2Proof.Machine.execReplicaExclusion s
  | .tierEpochEnd => Sys2Proof.Machine.execTierEpochEnd s
  | .multicastDelivery => Sys2Proof.Machine.execMulticastDelivery s
  | .joinPacket => Sys2Proof.Machine.execJoinPacket s
  | .leavePacket => Sys2Proof.Machine.execLeavePacket s
  | .reduceChunk => Sys2Proof.Machine.execReduceChunk s
  | .collectiveChunkArrival => Sys2Proof.Machine.execCollectiveChunkArrival s
  | .collectiveStepComplete => Sys2Proof.Machine.execCollectiveStepComplete s
  | .collectiveStepTimeout => Sys2Proof.Machine.execCollectiveStepTimeout s
  | .collectiveCancelPacket => Sys2Proof.Machine.execCollectiveCancelPacket s
  | .deadlineExpiry => Sys2Proof.Machine.execDeadlineExpiry s
  | .waittTimeReached => Sys2Proof.Machine.execWaittTimeReached s
  | .promiseReached => Sys2Proof.Machine.execPromiseReached s
  | .barrierArrival => Sys2Proof.Machine.execBarrierArrival s
  | .barrierRelease => Sys2Proof.Machine.execBarrierRelease s
  | .watchdogExpiry => Sys2Proof.Machine.execWatchdogExpiry s
  | .capWindowEnd => Sys2Proof.Machine.execCapWindowEnd s
  | .pwrWarnAssert => Sys2Proof.Machine.execPwrWarnAssert s
  | .pwrWarnDeassert => Sys2Proof.Machine.execPwrWarnDeassert s
  | .lehrEntryComplete => Sys2Proof.Machine.execLehrEntryComplete s
  | .lehrExitComplete => Sys2Proof.Machine.execLehrExitComplete s
  | .powerUpBoot => Sys2Proof.Machine.execPowerUpBoot s
  | .clusterReset => Sys2Proof.Machine.execClusterReset s
  | .managementStatus => Sys2Proof.Machine.execManagementStatus s
  | .managementAttestation => Sys2Proof.Machine.execManagementAttestation s
  | .clusterDrain => Sys2Proof.Machine.execClusterDrain s
  | .clusterReturn => Sys2Proof.Machine.execClusterReturn s
  | .dieDrain => Sys2Proof.Machine.execDieDrain s
  | .linkKeyRenewal => Sys2Proof.Machine.execLinkKeyRenewal s
  | .obituary => Sys2Proof.Machine.execObituary s
  | .linkLoss => Sys2Proof.Machine.execLinkLoss s
  | .jobKill => Sys2Proof.Machine.execJobKill s
  | .deviceUnrecoverableFault => Sys2Proof.Machine.execDeviceUnrecoverableFault s
  | .linkKeyAgreement => Sys2Proof.Machine.execLinkKeyAgreement s
  | .acknowledgementArrival => Sys2Proof.Machine.execAcknowledgementArrival s
  | .pageMigrationLineCopy => Sys2Proof.Machine.execPageMigrationLineCopy s

end Sys2Proof.Machine
end

