-- ==== Sys2Proof/Machine/Issue.lean ====
section
/-! DEFINITION. Fetch and issue (R9, R15, R16, R39, R124, R137, R368): what a strand that issues does. -/

namespace Sys2Proof.Machine

/-- What fetch finds at a pc. -/
inductive Fetched where
  /-- No code can stand there (R16). -/
  | beyond
  /-- An uncorrectable error in a 16-byte unit: its cell (R137). -/
  | bad (k : Nat)
  /-- A word that is no instruction (R38, R39). -/
  | none (w : Nat)
  | instr (i : Instr)
  deriving DecidableEq, Repr

/-- The halfword at an offset of a core's local store. -/
def State.half (s : State) (core off : Nat) : Nat := s.num (lsKey core off) 2

/-- The length in bytes of the instruction whose first halfword is given: bit 15 says (R15). -/
def lengthOf (h : Nat) : Nat := if h < 2 ^ 15 then 2 else 4

/-- The instruction at a pc in the local store of a core (R15, R16). -/
def State.fetch (s : State) (core : Nat) (pc : BitVec 48) : Fetched :=
  let a := pc.toNat
  if 2 ^ 20 ≤ a then .beyond
  else
    let h := s.half core a
    let n := lengthOf h
    if 2 ^ 20 < a + n then .beyond
    else
      let ks := (List.range n).map fun i => lsKey core (a + i)
      match ks.find? s.badAt with
      | some k => .bad k
      | none =>
        match Dec.bytes (ks.map s.byte) with
        | .ok (i, _) => .instr i
        | .error _ => .none (if n = 2 then h else h * 65536 + s.half core (a + 2))

/-- The pc n instructions on (R357, R368). -/
def State.skipOver (s : State) (core : Nat) : Nat → BitVec 48 → BitVec 48
  | 0, pc => pc
  | n + 1, pc => s.skipOver core n (pc + BitVec.ofNat 48 (lengthOf (s.half core (pc.toNat % 2 ^ 20))))

/-- After RESTORE in state 2 the instruction at pc runs alone: when it has issued, execution goes on after the n
instructions that ran before the save, once it completes; a fault of it counts them in WIN (R368). -/
def State.runAlone (s t : State) (len : Nat) : State :=
  match s.me.skip with
  | none => t
  | some n =>
    if t.me.skip ≠ some n then t
    else if t.me.pc = s.me.pc + BitVec.ofNat 48 len then
      let alone (p : Pending) : Pending := { p with left := 0, win := p.win + n }
      { t with me := { t.me with skip := none, pc := t.skipOver t.me.core n t.me.pc, pend := t.me.pend.map alone } }
    else if t.me.pc = s.me.pc then t
    else { t with me := { t.me with skip := none } }

/-- What a step does to the state it reaches. -/
def Out.map (f : State → State) : Out → Out
  | .next t => .next (f t)
  | .fault r => .fault r
  | .refused r => .refused r

/-- The L-address of the 16-byte unit of a local-store cell, in the issuing core's own form (R119). -/
def unitAddr (k : Nat) : Word := toW (7 * 2 ^ 29 + k % 2 ^ 20 / 16 * 16)

/-- The instruction fetched issues. -/
def issueFetched (f : Fetched) (s : State) : Out :=
  match f with
  | .beyond => .next (s.raise 7 0 0)
  | .bad k => .next ((s.logError k).raise 8 0 (unitAddr k))
  | .none w => .next (s.raise 1 0 (toW w))
  | .instr i => Out.map (fun t => s.runAlone t i.len) (exec i s)

/-- The strand in focus issues (R9); an error of a completed store is taken instead. -/
def State.issueNext (s : State) : Out :=
  match s.me.storeErr with
  | some (cls, a) => .next (s.storeTrap cls a)
  | none => issueFetched (s.fetch s.me.core s.me.pc) s

/-- An attempt to issue that leaves everything as it was: the strand is stalled (R9). -/
def State.stalled (s : State) (t : Strand) : Bool :=
  let u := s.focus t.sid.toNat
  match u.issueNext with
  | .next v => v.me == u.me && v.engines.offers.length == u.engines.offers.length
  | _ => false

/-- A stalled strand that would not be stalled were it another one. -/
def State.freedBy (s : State) (t u : Strand) : Bool :=
  t.status == .ready && s.stalled t && !((s.focus t.sid.toNat).modStrand t.sid.toNat fun _ => u).stalled u

/-- Whether a strand stands in a read of q or IDLE: it is stalled with an empty queue, and would not be with a message in it
(R68, R69, R362). -/
def State.resting (s : State) (t : Strand) : Bool :=
  let one : Msg := { h0 := 0, o := Vector.replicate 6 0 }
  t.q.isEmpty && s.freedBy t { t with q := [one] }

/-- Whether a strand stands in a pop of a stream whose element another device has not yet sent (R68, Table 21.5). -/
def State.popStalls (s : State) (t : Strand) : Bool :=
  let full (st : Stream) : Stream := if st.out then st else { st with ahead := List.replicate 64 (.got 0) }
  s.freedBy t { t with t := t.t.map (Option.map full) }

end Sys2Proof.Machine
end

