-- ==== Sys2Proof/Machine/Settle.lean ====
section
/-! DEFINITION. What may move next (R9, R332) and what follows every move: open waits tested again (R320), operations
that ended, SPILLs, and the clock. -/

namespace Sys2Proof.Machine

/-! Waits tested again. -/

/-- A WAITC or WAITB tested again after a write (R320): met, it completes with 0; an error of the word is its fault (R330). -/
def retest (p : Pending) (s : State) : State :=
  match p.src with
  | .word a b mask dl =>
    match testWord (holds mask b) a s with
    | .ok ((true, _), t) => ({ t with me := t.me.disarm dl } : State).swapPend p { p with src := .value [0] }
    | .ok ((false, _), _) => s
    | .error (.trap cls detail tv) => s.swapPend p (p.fail (.fault cls detail tv))
    | .error (.lease x) => s.swapPend p (p.fail (.lease x))
    | .error (.bad k tv) => (s.logError k).swapPend p (p.fail (.fault 8 0 tv))
    | .error _ => s
  | _ => s

def Pending.isWord (p : Pending) : Bool :=
  match p.src with
  | .word _ _ _ _ => true
  | _ => false

def State.retestOne (s : State) (t : Strand) : State :=
  let mine := s.me.sid.toNat
  ((t.pend.filter Pending.isWord).foldl (fun s p => retest p s) (s.focus t.sid.toNat)).focus mine

/-- Every open wait on a word. -/
def State.retestAll (s : State) : State :=
  (s.strands.filter fun t => t.pend.any Pending.isWord).foldl State.retestOne s

/-- What a strand waits for that is over now. -/
def State.over (s : State) (src : Owe) : Bool :=
  match src with
  | .table 4 key n => s.callEnded 4 key n
  | .table 11 key n => s.callEnded 11 key n
  | .table 12 key n => s.callEnded 12 key n
  | .table 8 sid _ => !s.spilling sid
  | .table 9 0 _ => s.device.lehr != 1
  | .table 9 _ _ => s.device.lehr != 3
  | .logs cores => cores.isEmpty
  | _ => false

/-- A DLOGH waits for the logs whose records at its issue are not merged yet (R290). -/
def State.mergedOf (s : State) (p : Pending) : Pending :=
  match p.src with
  | .logs cores => { p with src := .logs (s.logsLeft cores) }
  | _ => p

/-- Waits that are over are off the strands' lists. -/
def State.clearOver (s : State) : State := s.allStrands fun t => { t with pend := (t.pend.map s.mergedOf).filter fun p => !s.over p.src }

/-- The core a strand leaves for by counter once it owes nothing else (R73, R228). -/
def Pending.leaves (p : Pending) : Option Nat :=
  match p.src with
  | .table 10 c _ => some c
  | _ => none

/-- A strand that is to leave does so when no register is pending; a fault it owes ends its window at once instead. -/
def State.leave (s : State) (sid : Nat) : State :=
  let s := s.focus sid
  let rest := s.me.pend.filter fun p => p.leaves.isNone
  match s.me.pend.findSome? Pending.leaves with
  | none => s
  | some c =>
    if rest.any Pending.isFault then
      let now (p : Pending) : Pending := if p.isFault then { p with left := 0 } else p
      { s with me := { s.me with pend := rest.map now } }
    else if rest.isEmpty then ({ s with me := { s.me with pend := [] } }).depart c 3
    else s

/-- Every strand that is to leave by counter. -/
def State.leaveAll (s : State) : State :=
  let mine := s.me.sid.toNat
  ((s.strands.filter fun t => t.status == .ready && t.pend.any fun p => p.leaves.isSome).foldl (fun s t => s.leave t.sid.toNat) s).focus
    mine

/-- Every strand that is to end goes on with its ending (R237, R243). -/
def State.endAll (s : State) : State :=
  let mine := s.me.sid.toNat
  ((s.strands.filter fun t => t.doom.isSome).foldl (fun s t => (s.focus t.sid.toNat).endDoomed) s).focus mine

/-- The units take up what has become possible: additions that waited, field-table calls and entries, remaps that may start or are
to be freed, transfers that waited, calls asleep at their log homes. -/
def State.settleUnits (s : State) : State :=
  let s := s.retryAdds.takeUps.wakeFields
  let s := (State.startRemaps s.remaps.length s).freeEnded
  let s := s.pruneOffers.acceptXfers
  let s := s.replays.foldl (fun s r => State.wakeCalls r.key r.asleep.length s) s
  (s.replays.map Replay.key).foldl State.closeReplay s

/-- What follows every move; in the Lehr state the units are parked (R378). -/
def State.settle (s : State) : State :=
  let s := if s.device.lehr < 2 then ((s.retestAll).wakeRec s.wordMet).settleUnits else s
  let s := s.spills.foldl (fun s x => s.spillStep (fun t => t.resting t.me || t.popStalls t.me) x) s
  s.endAll.clearOver.leaveAll

/-! Time. -/

/-- The strand waits in an instruction of major 0x32, where the watchdog does not count (R363). -/
def Pending.unwatched (p : Pending) : Bool :=
  match p.src with
  | .time _ => true
  | .word _ _ _ _ => true
  | .promise _ _ _ => true
  | .barrier _ _ _ => true
  | _ => false

/-- Whether the watchdog does not count a strand: it is parked, or waits in an instruction of major 0x32, a read of q or IDLE. -/
def State.uncounted (s : State) (t : Strand) : Bool :=
  match t.status with
  | .parked _ => true
  | .ready => t.lastIssue != s.clk && ((t.pend.any fun p => p.unwatched && p.holds && p.left == 0) || s.resting t)
  | _ => false

/-- An error that arises in memory at a step (R137): where, and whether it is corrected. -/
def arisen (e : Option (Nat × Bool)) (bad : List Nat) : List Nat :=
  match e with
  | some (k, false) => k / 32 :: bad
  | _ => bad

/-- A corrected error counted on its die. -/
def State.corrected (s : State) (e : Option (Nat × Bool)) : Memory :=
  match e with
  | some (k, true) => (s.count (cellDie k) 0xFE000).mem
  | _ => s.mem

/-- A step is over: the clock advances by one cycle and perhaps more, except in the Lehr state (R316, R378, log 9); errors may
arise in memory (log 92). -/
def State.tick (s : State) : State :=
  let dt : Word := if 2 ≤ s.device.lehr then 0 else 1 + toW (Config.extraCycles s.ticks)
  let e := Config.memError s.ticks
  let s' := s.allStrands fun t => if s.uncounted t then { t with lastIssue := t.lastIssue + dt } else t
  { s' with ticks := s.ticks + 1, clk := s.clk + dt, bad := arisen e s.bad, mem := s.corrected e }

/-! What may move. -/

/-- A strand issues, a strand or a unit makes a move that its state calls for, or a unit makes the n-th move it owes. -/
inductive Move where
  | issue (sid : Nat)
  | event (sid : Nat) (ev : Instr) (arg : Arg)
  | owed (n : Nat)
  deriving DecidableEq, Repr

/-- Whether the core a strand is on issues for it: it is not drained or parked by a drain, its Pontil has not stopped,
and in the Lehr state it is system core 0. -/
def State.coreRuns (s : State) (t : Strand) : Bool :=
  let k := t.core
  !(s.device.drained.contains (clusterOf k) && decide (coreNo k ≤ 16)) && !(s.device.closing.any fun c => evicted c t) &&
    !(s.device.drainedDies.contains (coreDie k) && decide (17 ≤ coreNo k)) &&
    !(isPontil k && s.device.stopped.contains (coreDie k)) && (s.device.lehr == 0 || isSys0 k)

/-- A strand that may issue: its slot is ready, no window has ended with its value still owed, it presents no command, it is
not being spilled or to end, and its job is not withheld at this step (R25, R160, R237, R364, R377). -/
def State.mayIssue (s : State) (t : Strand) : Bool :=
  t.status == .ready && t.pend.all (fun p => !p.holds || p.left != 0) && t.doom.isNone && !s.presents t.sid.toNat &&
    !s.spilling t.sid.toNat && s.coreRuns t && !(s.device.withheld.contains (coreDie t.core, t.job.toNat) && Config.holdsBack s.ticks)

/-- The strands of a core that may issue, in rotation after the slot that last issued (R9). -/
def State.rota (s : State) (core : Nat) : List Strand :=
  let ptr := (SMap.find core s.queues.ptr).getD 15
  ((List.range 16).map fun i => (ptr + 1 + i) % 16).filterMap fun slot =>
    s.strands.find? fun t => t.core == core && t.slot == slot && s.mayIssue t

/-- The slot a core issues for: the first in rotation that is not stalled (R9). A lone one tries. -/
def State.turn (s : State) (core : Nat) : Option Nat :=
  match s.rota core with
  | [] => none
  | [t] => some t.sid.toNat
  | l => (l.find? fun t => !s.stalled t).map fun t => t.sid.toNat

/-- The issue pointer after a slot has issued; 15 is not listed. -/
def State.point (s : State) (core slot : Nat) : State :=
  { s with queues := { s.queues with ptr := if slot = 15 then SMap.del core s.queues.ptr else SMap.put core slot s.queues.ptr } }

/-- The pointer moves past a slot whose strand has issued, and stays where nothing did. -/
def State.pointed (s t : State) : State := if t.me = s.me then t else t.point s.me.core s.me.slot

def State.issues (s : State) : List Move :=
  (((s.strands.filter s.mayIssue).map Strand.core).eraseDups.filterMap s.turn).map Move.issue

/-- Moves a strand's own state calls for. -/
def State.strandMoves (s : State) (t : Strand) : List Move :=
  let u := { s with me := t }
  let sid := t.sid.toNat
  let mv (c : Bool) (ev : Instr) : List Move := if c then [.event sid ev { sid }] else []
  let ends (p : Pending) : Bool := p.left == 0 &&
    match p.src with
    | .lease _ => true
    | _ => !t.abroad || t.free
  let fetches := (List.range 4).filter fun i => match t.t[Fin.ofNat 4 i] with
    | none => false
    | some st => !st.out && decide (st.pos + st.ahead.length < st.total) && decide ((st.ahead.length + 1) * elemSize st.ty ≤ 512)
  mv (t.pend.any fun p => p.isValue || p.goesOn) .resultArrival ++
    mv (t.pend.any (Pending.isTime s)) .waittTimeReached ++
    mv (t.pend.any (Pending.isLate u)) .deadlineExpiry ++
    mv (t.pend.any (Pending.isDue s)) .promiseReached ++
    mv (t.pend.any (Pending.sendEnds s)) .sendRetryLimit ++
    mv (t.status == .ready && s.coreRuns t && ((dueFault t.pend).map ends).getD false) .trapEntry ++
    mv (t.status == .ready && decide (t.lastIssue.toNat + 2 ^ 31 ≤ s.clk.toNat)) .watchdogExpiry ++
    (if t.status == .ready && !t.abroad then fetches.map fun i => .event sid .streamFetchAhead { sid, n := i } else [])

/-- Moves of the units that time or their own state calls for. -/
def State.unitMoves (s : State) : List Move :=
  let sid := s.me.sid.toNat
  let mv (ev : Instr) (arg : Arg) : Move := .event sid ev arg
  let on (c : Bool) (ev : Instr) : List Move := if c then [mv ev {}] else []
  let q := s.queues
  on (q.waits.any fun e => e.2.wake == 2 && decide (e.2.t1.toNat ≤ s.clk.toNat) && s.taskRoom e.1) .waitSetTimeWake ++
    on ((ageOne s.clk q.task).isSome || (ageOne s.clk q.die).isSome) .recordAgeing ++
    on (decide (s.tier.epoch < s.clk.toNat / 1048576)) .tierEpochEnd ++
    on (decide (s.device.capWindow < s.clk.toNat / 65536)) .capWindowEnd ++
    ((s.fabric.reqs.filter fun r => decide (r.2.t.toNat + 2 ^ s.fabric.reqto ≤ s.clk.toNat)).map fun r =>
      mv .requestTimeout { n := r.1 }) ++
    ((s.launches.die.filter fun e => (s.objAt e.1).kind == 2 && s.launchOver e.1).map fun e =>
      mv .launchCompletion { job := e.1 / 65536, h := e.1 % 65536 }) ++
    (s.launches.die.flatMap fun e => ((List.range 8).filter fun d => (s.objAt e.1).kind == 2 && (s.genTarget e.1 d).isSome).map fun d =>
      mv .recordGeneration { job := e.1 / 65536, h := e.1 % 65536, die := d }) ++
    (s.replays.flatMap fun r =>
      ((r.replicas.filter fun p => s.applies r.key p && (r.entry (s.objAt r.key).tail (p.pos + 1)).isSome).map fun p =>
        mv .entryApply { job := r.key / 65536, h := r.key % 65536, die := p.die }) ++
      ((r.queries.filter (s.queryDue r)).map fun x => mv .queryRun { n := x.call.n })) ++
    (s.fieldTabs.flatMap fun f => (f.reps.filter (s.mayApply f)).map fun r => mv .entryApply { job := f.job, die := r.die }) ++
    (if s.remaps.isEmpty then [] else ((List.range 8).filter fun d => s.device.lehr == 0 && (s.marverNext d).isSome).map fun d =>
      mv .remapGroupMove { die := d }) ++
    ((s.remaps.filter s.passOver).map fun r => mv (if r.lastPass then .remapCommit else .remapPassEnd) { n := r.ticket }) ++
    (((s.engines.offers.map Offer.cl).eraseDups.filter fun c => (s.accepts c).isSome).map fun c => mv .commandAccept { cl := c }) ++
    ((s.engines.xfers.filter fun x => !(s.openChunks x).isEmpty).map fun x => mv .chunkComplete { cl := x.cl, n := x.n }) ++
    ((s.engines.xfers.filter fun x => !x.spoiled.isEmpty).map fun x => mv .chunkFailed { cl := x.cl, n := x.n }) ++
    (((s.queues.input.map fun x => s.home (x.1 * 256)).eraseDups.filter fun c => (s.admission c).isSome).map fun c =>
      mv .reservationGrant { flag := true, n := c }) ++
    (s.fabric.graphs.flatMap fun g =>
      if !g.running then []
      else (List.range g.steps.length).flatMap fun i =>
        match g.step? i with
        | none => []
        | some x =>
          let a : Arg := { job := g.key / 65536, h := g.key % 65536, n := i }
          (if x.st == 1 && s.stepMet g x then [mv .collectiveStepComplete a] else []) ++
            (if s.stepLate x then [mv .collectiveStepTimeout a] else []) ++
            (if x.op == 2 && x.st == 1 && x.children == 0 && decide (x.done < x.chunks) && (s.ownChunk x x.done).isSome then
              [mv .reduceChunk a] else []))

/-- A move a unit owes whose time has come; in the Lehr state only what reaches the device from outside and what ends the
state is dealt with (R378, R379). -/
def State.dueNow (s : State) (d : Due) : Bool :=
  decide (d.arg.notBefore.toNat ≤ s.clk.toNat) &&
    (decide (s.device.lehr < 2) ||
      match d.ev with
      | .lehrExitComplete | .pwrWarnAssert | .pwrWarnDeassert | .managementStatus | .managementAttestation | .powerUpBoot
      | .clusterReset | .multicastDelivery | .remoteAccessRequest => true
      | .messageArrival => d.arg.flag
      | _ => false)

def State.owedMoves (s : State) : List Move :=
  ((List.range s.agenda.length).filter fun n => (s.agenda[n]?.map s.dueNow).getD false).map Move.owed

/-- Everything that may come next. -/
def State.moves (s : State) : List Move :=
  s.issues ++ s.owedMoves ++
    (if 2 ≤ s.device.lehr then (s.strands.filter fun t => isSys0 t.homeCore).flatMap s.strandMoves
      else (s.strands.flatMap s.strandMoves) ++ s.unitMoves)

/-! Moves made. -/

/-- A packet or request that reaches a device in the Lehr state: dropped and counted, or left unanswered (R379). -/
def State.shut (s : State) (d : Due) : Option State :=
  if s.device.lehr < 2 then none
  else
    match d.ev with
    | .multicastDelivery => some (s.count d.arg.die 0xFE028)
    | .messageArrival => some (s.count (d.arg.n / 8192 % 8) 0xFE028)
    | .remoteAccessRequest => some s
    | _ => none

/-- A unit makes a move it owes. -/
def State.makeOwed (s : State) (n : Nat) : Out :=
  match s.agenda[n]? with
  | none => .next s
  | some d =>
    let s := { s with agenda := s.agenda.eraseIdx n }
    match s.shut d with
    | some t => .next t
    | none => exec d.ev { s.focus d.arg.sid with arg := d.arg }

def State.make (s : State) : Move → Out
  | .issue sid =>
    let s := s.focus sid
    Out.map s.pointed s.issueNext
  | .event sid ev arg => exec ev { s.focus sid with arg }
  | .owed n => s.makeOwed n

/-- One step: one of the moves that may come is made, waits are looked at, the clock advances. With nothing to do time
passes; a device whose dies have all halted at boot does nothing more (R371). -/
def State.advance (s : State) : Out :=
  match s.choose s.moves with
  | some m => Out.map (fun t => t.settle.tick) (s.make m)
  | none => if (List.range 8).all s.device.halted.contains then .fault .bootHalted else .next s.tick

/-- A strand made to issue the instruction of some bytes at its pc next: the bytes stand in its core's local store, it is
ready, and no unit owes a move. -/
def State.withBytes (s : State) (bs : List Byte) : State :=
  let t := s.setBytes (lsKey s.me.core s.me.pc.toNat) bs
  { t with me := { t.me with status := .ready }, agenda := [] }

end Sys2Proof.Machine
end

