-- ==== Sys2Proof/Machine/Step.lean ====
section
/-! DEFINITION. The step of the machine, and a state in which it issues a given instruction next. -/

namespace Sys2Proof.Machine

/-- One step of the machine. -/
def step (s : State) : Host.Outcome State Fault Refusal := s.advance

/-- s with the instruction of an opcode-table word where the strand in focus fetches next; the strand is made ready and
the moves that units owe are taken as made (log 52: at reset no program is loaded and the boot is still to come). -/
def State.withFetchWord (s : State) (nbits w : Nat) : State := s.withBytes (tableBytes nbits w)

end Sys2Proof.Machine
end

