-- ==== Sys2Proof/Safety.lean ====
section
/-! DEFINITION. What claims call a safe state and a safe run, and the terms they speak in: an ordinary strand, a plain
register, what a plain register holds and what a write to one leaves. -/

namespace Sys2Proof

/-- A register that is neither a stream nor the receive queue. -/
def Reg.plain : Reg → Bool
  | .t _ | .q => false
  | _ => true

end Sys2Proof

namespace Sys2Proof.Machine

/-- The keys of memory and of the object table strictly rise, and memory lists no byte that is 0. -/
def State.canonical (s : State) : Bool := s.mem.wf && SMap.sorted s.obj

/-- A run of some steps in which no step stops. -/
def State.runs : Nat → State → Bool
  | 0, _ => true
  | n + 1, s =>
    match step s with
    | .next t => State.runs n t
    | _ => false

/-- The moving strand is at home, is in no F64 stay, and has no instruction open (R26, R40, R221). -/
abbrev State.calm (s : State) : Prop := s.me.stay = false ∧ s.me.pend = [] ∧ s.me.core = s.me.homeCore

/-- What a plain register holds (R20, R62, R66, R67): m_i is register i % 8 of frame wdep + i / 8, kept at that frame
modulo 8; z is 0; bit 0 of pw is 1. -/
def Strand.src (t : Strand) : Reg → Word
  | .m i => t.frames[mIndex t.wdep i]
  | .o i => t.o[i]
  | .l0 => t.l0
  | .l1 => t.l1
  | .pw => (t.pw ||| 1#16).setWidth 64
  | _ => 0

/-- What a write of a plain register leaves (R65, R66, R67): l0 goes to l1 and takes the value, then the register is
written; z keeps nothing, and bit 0 of pw stays 1. -/
def Strand.result (t : Strand) (d : Reg) (v : Word) : Strand :=
  let t := { t with l1 := t.l0, l0 := v }
  match d with
  | .m i => { t with frames := t.frames.set (mIndex t.wdep i) v }
  | .o i => { t with o := t.o.set i v }
  | .l1 => { t with l1 := v }
  | .pw => { t with pw := v.setWidth 16 ||| 1#16 }
  | _ => t

/-- A predicate written: p0 keeps 1 (R67), nothing shifts (R80). -/
def Strand.predResult (t : Strand) (p : Pred) (b : Bool) : Strand :=
  if p = 0 then t
  else { t with pw := if b then t.pw ||| (1#16 <<< p.val) else t.pw &&& ~~~(1#16 <<< p.val) }

/-- The state after an instruction of n bytes that does f to the strand and nothing else. -/
def State.issued (s : State) (n : Nat) (f : Strand → Strand) : State :=
  { s with me := { f s.me with pc := s.me.pc + BitVec.ofNat 48 n, lastIssue := s.clk } }

end Sys2Proof.Machine
end

