-- ==== Sys2Proof/Certificates/Slice0/Obligations.lean ====
section
/-! DEFINITION. The statements of this model, for the provers. Each docstring names the rules of spec/ it formalises;
where a statement rests on a choice of this model, its docstring names the log entry. -/

namespace Sys2Proof.Claims

open Sys2Proof Sys2Proof.Machine Sys2Proof.Num

/-! Scalar instructions by shape: length in bytes, guard, destination, sources, and what the spec computes. -/

/-- Two sources (Tables 5.1 to 5.4, 2.13). -/
def binary : Instr → Option (Nat × Guard × Reg × Reg × Reg × (Word → Word → Word))
  | .add d a b g => some (4, g, d, a, b, fun x y => x + y)
  | .sub d a b g => some (4, g, d, a, b, fun x y => x - y)
  | .mul d a b g => some (4, g, d, a, b, fun x y => x * y)
  | .mulh d a b g => some (4, g, d, a, b, fun x y => BitVec.ofInt 64 (x.toInt * y.toInt / 2 ^ 64))
  | .mulhn d a b g => some (4, g, d, a, b, fun x y => BitVec.ofNat 64 (x.toNat * y.toNat / 2 ^ 64))
  | .div d a b g _ => some (4, g, d, a, b, divS)
  | .divn d a b g _ => some (4, g, d, a, b, divU)
  | .rem d a b g _ => some (4, g, d, a, b, remS)
  | .and d a b g => some (4, g, d, a, b, fun x y => x &&& y)
  | .or d a b g => some (4, g, d, a, b, fun x y => x ||| y)
  | .xor d a b g => some (4, g, d, a, b, fun x y => x ^^^ y)
  | .andn d a b g => some (4, g, d, a, b, fun x y => x &&& ~~~y)
  | .orn d a b g => some (4, g, d, a, b, fun x y => x ||| ~~~y)
  | .xnor d a b g => some (4, g, d, a, b, fun x y => ~~~(x ^^^ y))
  | .min d a b g => some (4, g, d, a, b, fun x y => if x.toInt ≤ y.toInt then x else y)
  | .max d a b g => some (4, g, d, a, b, fun x y => if y.toInt ≤ x.toInt then x else y)
  | .minn d a b g => some (4, g, d, a, b, fun x y => if x.toNat ≤ y.toNat then x else y)
  | .maxn d a b g => some (4, g, d, a, b, fun x y => if y.toNat ≤ x.toNat then x else y)
  | .shl d a b g => some (4, g, d, a, b, fun x y => x <<< (y.toNat % 64))
  | .shr d a b g => some (4, g, d, a, b, fun x y => x >>> (y.toNat % 64))
  | .sha d a b g => some (4, g, d, a, b, fun x y => x.sshiftRight (y.toNat % 64))
  | .rot d a b g => some (4, g, d, a, b, fun x y => x.rotateLeft (y.toNat % 64))
  | .bext d a b g => some (4, g, d, a, b, bextW)
  | .bdep d a b g => some (4, g, d, a, b, bdepW)
  | .scadd d a b g => some (4, g, d, a, b, fun x y => x + (y <<< 3))
  | .fsl d a b n => some (4, 0, d, a, b, fun x y => if n = 0 then x else (x <<< n.toNat) ||| (y >>> (64 - n.toNat)))
  | .fsr d a b n => some (4, 0, d, a, b, fun x y => if n = 0 then y else (y >>> n.toNat) ||| (x <<< (64 - n.toNat)))
  | .fadd d a b g => some (4, g, d, a, b, fun x y => (add32 (x.setWidth 32) (y.setWidth 32)).setWidth 64)
  | .fsub d a b g => some (4, g, d, a, b, fun x y => (sub32 (x.setWidth 32) (y.setWidth 32)).setWidth 64)
  | .fmul d a b g => some (4, g, d, a, b, fun x y => (mul32 (x.setWidth 32) (y.setWidth 32)).setWidth 64)
  | .fdiv d a b g _ => some (4, g, d, a, b, fun x y => (div32 (x.setWidth 32) (y.setWidth 32)).setWidth 64)
  | .fmin d a b g => some (4, g, d, a, b, fun x y => (fmin32 (x.setWidth 32) (y.setWidth 32)).setWidth 64)
  | .fmax d a b g => some (4, g, d, a, b, fun x y => (fmax32 (x.setWidth 32) (y.setWidth 32)).setWidth 64)
  | .compactMov d a => some (2, 0, d, a, .z, fun x y => x ||| y)
  | .compactAdd d a => some (2, 0, d, d, a, fun x y => x + y)
  | .compactSub d a => some (2, 0, d, d, a, fun x y => x - y)
  | .compactAnd d a => some (2, 0, d, d, a, fun x y => x &&& y)
  | .compactOr d a => some (2, 0, d, d, a, fun x y => x ||| y)
  | .compactXor d a => some (2, 0, d, d, a, fun x y => x ^^^ y)
  | .compactAndn d a => some (2, 0, d, d, a, fun x y => x &&& ~~~y)
  | .compactShl d a => some (2, 0, d, d, a, fun x y => x <<< (y.toNat % 64))
  | .compactShr d a => some (2, 0, d, d, a, fun x y => x >>> (y.toNat % 64))
  | .compactSha d a => some (2, 0, d, d, a, fun x y => x.sshiftRight (y.toNat % 64))
  | _ => none

/-- One source, with or without an immediate. -/
def unary : Instr → Option (Nat × Guard × Reg × Reg × (Word → Word))
  | .clz d a g => some (4, g, d, a, clzW)
  | .popc d a g => some (4, g, d, a, popcW)
  | .brev d a g => some (4, g, d, a, BitVec.reverse)
  | .addi d a imm g => some (4, g, d, a, fun x => x + imm.signExtend 64)
  | .andi d a imm g => some (4, g, d, a, fun x => x &&& imm.signExtend 64)
  | .ori d a imm g => some (4, g, d, a, fun x => x ||| imm.signExtend 64)
  | .xori d a imm g => some (4, g, d, a, fun x => x ^^^ imm.signExtend 64)
  | .shli d a n g => some (4, g, d, a, fun x => x <<< n.toNat)
  | .shri d a n g => some (4, g, d, a, fun x => x >>> n.toNat)
  | .shai d a n g => some (4, g, d, a, fun x => x.sshiftRight n.toNat)
  | .fsqrt d a g _ => some (4, g, d, a, fun x => (sqrt32 (x.setWidth 32)).setWidth 64)
  | .cvt d a src dst mode sat g =>
    if src.val = 13 ∨ dst.val = 13 then none else some (4, g, d, a, cvtVal src dst mode sat)
  | .compactAddi d imm => some (2, 0, d, d, fun x => x + imm.signExtend 64)
  | .compactShli d imm => some (2, 0, d, d, fun x => x <<< imm.toNat)
  | .compactShri d imm => some (2, 0, d, d, fun x => x >>> imm.toNat)
  | .compactShai d imm => some (2, 0, d, d, fun x => x.sshiftRight imm.toNat)
  | .compactMovi d imm => some (2, 0, d, .z, fun _ => imm.signExtend 64)
  | _ => none

/-- Two sources and the old destination. -/
def ternary : Instr → Option (Nat × Guard × Reg × Reg × Reg × (Word → Word → Word → Word))
  | .sel d a b g => some (4, g, d, a, b, fun x y z => (x &&& z) ||| (y &&& ~~~z))
  | .lut3 d a b tbl => some (4, 0, d, a, b, lut3W tbl)
  | .fma d a b g => some (4, g, d, a, b, fun x y z => (fma32 (x.setWidth 32) (y.setWidth 32) (z.setWidth 32)).setWidth 64)
  | _ => none

/-- A relation of two sources, written to a predicate. -/
def compare : Instr → Option (Nat × Guard × Pred × Reg × Reg × (Word → Word → Bool))
  | .cmpeq p a b g => some (4, g, p, a, b, fun x y => decide (x = y))
  | .cmpne p a b g => some (4, g, p, a, b, fun x y => decide (x ≠ y))
  | .cmplt p a b g => some (4, g, p, a, b, fun x y => decide (x.toInt < y.toInt))
  | .cmple p a b g => some (4, g, p, a, b, fun x y => decide (x.toInt ≤ y.toInt))
  | .cmpltn p a b g => some (4, g, p, a, b, fun x y => decide (x.toNat < y.toNat))
  | .cmplen p a b g => some (4, g, p, a, b, fun x y => decide (x.toNat ≤ y.toNat))
  | .tst p a b g => some (4, g, p, a, b, fun x y => decide (x &&& y ≠ 0))
  | .fcmpeq p a b g => some (4, g, p, a, b, fun x y => feq32 (x.setWidth 32) (y.setWidth 32))
  | .fcmplt p a b g => some (4, g, p, a, b, fun x y => flt32 (x.setWidth 32) (y.setWidth 32))
  | .fcmple p a b g => some (4, g, p, a, b, fun x y => fle32 (x.setWidth 32) (y.setWidth 32))
  | .fcmpun p a b g => some (4, g, p, a, b, fun x y => fun32 (x.setWidth 32) (y.setWidth 32))
  | .cmpeqi p a imm g => some (4, g, p, a, .z, fun x _ => decide (x = imm.signExtend 64))
  | .cmplti p a imm g => some (4, g, p, a, .z, fun x _ => decide (x.toInt < imm.toInt))
  | .cmpltni p a imm g => some (4, g, p, a, .z, fun x _ => decide (x.toNat < imm.toNat))
  | .compactCmpeq d a => some (2, 0, 1, d, a, fun x y => decide (x = y))
  | .compactCmplt d a => some (2, 0, 1, d, a, fun x y => decide (x.toInt < y.toInt))
  | .compactCmpltn d a => some (2, 0, 1, d, a, fun x y => decide (x.toNat < y.toNat))
  | _ => none

/-- Logic of predicates. -/
def predicate : Instr → Option (Guard × Pred × Pred × Pred × (Bool → Bool → Bool))
  | .pand p a b g => some (g, p, a, b, fun x y => x && y)
  | .por p a b g => some (g, p, a, b, fun x y => x || y)
  | .pxor p a b g => some (g, p, a, b, fun x y => x != y)
  | .pnot p a g => some (g, p, a, a, fun x _ => !x)
  | _ => none

/-- A destination that takes a value read from the state. -/
def constant : Instr → Option (Nat × Guard × Reg × (State → Word))
  | .lui d imm => some (4, 0, d, fun _ => (imm.setWidth 32 <<< 12 : BitVec 32).signExtend 64)
  | .addpc d imm => some (4, 0, d, fun s => (BitVec.ofInt 48 (s.me.pc.toNat + imm.toInt * 2)).setWidth 64)
  | .rdcyc d => some (4, 0, d, fun s => s.clk)
  | .srd d r g => some (4, g, d, fun s => sregVal s r)
  | .qtest d g => some (4, g, d, fun s => BitVec.ofNat 64 s.me.q.length)
  | _ => none

/-- Instructions that change the strand in one way given by the spec, or in none. -/
def strandOnly : Instr → Option (Nat × Guard × (Strand → Strand))
  | .ext k a g => some (4, g, fun t => { t with e := t.e.set k (t.src a) })
  | .nop => some (4, 0, id)
  | .compactNop => some (2, 0, id)
  | .ifence g => some (4, g, id)
  | _ => none

/-- The state after an instruction that does f to the strand and goes on at pc. -/
def jumped (s : State) (pc : BitVec 48) (f : Strand → Strand) : State :=
  { s with me := { f s.me with pc := pc, lastIssue := s.clk } }

/-- The F64 instructions of two sources (Table 5.6). -/
def f64Binary : Instr → Option (Guard × Look × Reg × Reg × Reg × (Word → Word → Word))
  | .dadd d a b g la => some (g, la, d, a, b, add64)
  | .dsub d a b g la => some (g, la, d, a, b, sub64)
  | .dmul d a b g la => some (g, la, d, a, b, mul64)
  | .ddiv d a b g la => some (g, la, d, a, b, div64)
  | .dsqrt d a g la => some (g, la, d, a, a, fun x _ => sqrt64 x)
  | .cvt d a src dst mode sat g =>
    if src.val = 13 ∨ dst.val = 13 then some (g, 0, d, a, a, fun x _ => cvtVal src dst mode sat x) else none
  | _ => none

/-- The instructions that need the supervisor level (Table 4.2, 13 to 16, 18, 21, 22). -/
def supervisorOnly : Instr → Bool
  | .swr r _ _ => r == .trh || r == .wsp || r == .wlim
  | .otset _ _ _ _ | .otget _ _ _ | .otinv _ _ | .objnew _ _ _ _ | .objsync _ _ | .leasePin _ _ _ _ | .leaseUnpin _ _ _ _
  | .xinv _ _ _ _ | .dlogh _ _ | .pgmig _ _ _ _ | .spill _ _ _ | .restore _ _ _ | .barcfgConfigure _ _ _
  | .barcfgRelease _ _ _ | .lehrEnter _ _ | .lehrExit _ _ | .lehrArm _ _ | .lehrDisarm _ _ => true
  | _ => false

/-- Length and guard of the guarded instructions that every core executes (R24, R40, R97). -/
def guardOf : Instr → Option (Nat × Guard)
  | .jr _ g | .callr _ g | .ret g | .loop _ _ g | .srd _ _ g | .ext _ _ g | .susp _ _ g | .migr _ _ g _ | .home g _
  | .spawn _ _ _ g _ | .spawnh _ _ _ g _ | .send _ _ _ g _ | .qtest _ g | .launch _ _ _ g _ | .grun _ _ g _
  | .cancelLaunch _ _ _ g _ | .cancelGraph _ _ _ g _ | .cancelJob _ _ _ g _ | .callm _ _ g _ | .callq _ _ _ g _
  | .callw _ _ g _ | .stf _ _ _ _ _ g _ | .ldf _ _ _ _ _ g _ | .ldx _ _ _ g _ | .stx _ _ _ g _ | .lrw _ _ g _
  | .scv _ _ g _ | .relq _ g _ | .fence _ _ g | .ifence g | .vamoBf16 _ _ g _ | .vamoFp32 _ _ g _ | .amoadd _ _ _ g _
  | .amoand _ _ _ g _ | .amoor _ _ _ g _ | .amoxor _ _ _ g _ | .amomin _ _ _ g _ | .amomax _ _ _ g _ | .amoswap _ _ _ g _
  | .amocas _ _ _ g _ | .waitt _ _ g _ | .waitc _ _ _ g _ | .waitb _ _ _ g _ | .waitp _ _ _ g _ | .sig _ _ _ g _
  | .cntset _ _ g _ | .armt _ g | .barw _ _ g _ => some (4, g)
  | i =>
    match binary i, unary i, ternary i, compare i, predicate i with
    | some (n, g, _), _, _, _, _ => some (n, g)
    | _, some (n, g, _), _, _, _ => some (n, g)
    | _, _, some (n, g, _), _, _ => some (n, g)
    | _, _, _, some (n, g, _), _ => some (n, g)
    | _, _, _, _, some (g, _) => some (4, g)
    | _, _, _, _, _ => none

/-- What a scalar load or store names: its length and guard, the registers it reads and the ones it writes, the bytes
it moves, the address base and offset, whether the address is an L-address, the alignment asked of it, the data, and its window. -/
structure Access where
  len : Nat
  guard : Guard
  srcs : List Reg
  regs : List Reg
  size : Nat
  sx : Bool
  base : Word
  off : Int
  near : Bool
  align : Nat
  data : List Byte
  la : Nat

/-- The address (R125): base plus offset in 56 bits, or in the 32 bits of an L-address. -/
def Access.addr (x : Access) : Addr :=
  if x.near then .l ((x.base.toNat + x.off) % 2 ^ 32).toNat else .v ((x.base.toNat + x.off) % 2 ^ 56).toNat

/-- Bits 63:56 of a virtual base are 0, the address is aligned, and no stream or queue register is named. -/
def Access.formed (x : Access) : Bool :=
  (x.near || decide (x.base.toNat / 2 ^ 56 = 0)) && decide (x.addr.val % x.align = 0) && x.srcs.all Reg.plain &&
    x.regs.all Reg.plain

/-- The scalar loads (Table 7.2). -/
def load (t : Strand) : Instr → Option Access
  | .ld d a off sz sx la => some ⟨4, 0, [a], [d], asize sz, sx, t.src a, off.toInt * asize sz, false, 1, [], la.val⟩
  | .ldl d a off sz sx la => some ⟨4, 0, [a], [d], asize sz, sx, t.src a, off.toInt * asize sz, true, 1, [], la.val⟩
  | .ldx d a b g la => some ⟨4, g, [a, b], [d], 8, false, t.src a, (t.src b).toInt, false, 1, [], la.val⟩
  | .compactLdl d a => some ⟨2, 0, [a], [d], 8, false, t.src a, 0, true, 1, [], 0⟩
  | .lda d a off sz true la =>
    some ⟨4, 0, [a], [d, Machine.Reg.next d], 16, false, t.src a, off.toInt * asize sz, false, 16, [], la.val⟩
  | .lda d a off sz false la =>
    some ⟨4, 0, [a], [d], asize sz, false, t.src a, off.toInt * asize sz, false, asize sz, [], la.val⟩
  | _ => none

/-- The scalar stores (Table 7.2). -/
def store (t : Strand) : Instr → Option Access
  | .st d a off sz la => some ⟨4, 0, [a, d], [], asize sz, false, t.src a, off.toInt * asize sz, false, 1,
      leBytes (asize sz) (t.src d).toNat, la.val⟩
  | .stl d a off sz la => some ⟨4, 0, [a, d], [], asize sz, false, t.src a, off.toInt * asize sz, true, 1,
      leBytes (asize sz) (t.src d).toNat, la.val⟩
  | .stx d a b g la => some ⟨4, g, [a, b, d], [], 8, false, t.src a, (t.src b).toInt, false, 1,
      leBytes 8 (t.src d).toNat, la.val⟩
  | .compactStl d a => some ⟨2, 0, [a, d], [], 8, false, t.src a, 0, true, 1, leBytes 8 (t.src d).toNat, 0⟩
  | .sta d a off .b8 true la => some ⟨4, 0, [a, d, Machine.Reg.next d], [], 16, false, t.src a, off.toInt * 8, false, 16,
      leBytes 8 (t.src d).toNat ++ leBytes 8 (t.src (Machine.Reg.next d)).toNat, la.val⟩
  | .sta d a off sz false la => some ⟨4, 0, [a, d], [], asize sz, false, t.src a, off.toInt * asize sz, false, asize sz,
      leBytes (asize sz) (t.src d).toNat, la.val⟩
  | _ => none

/-- Registers written one after another. -/
def results (t : Strand) : List Reg → List Word → Strand
  | d :: r, v :: vs => results (t.result d v) r vs
  | _, _ => t

/-- The cells of checked bytes. -/
def cells (s : State) (hs : List Hit) : List Nat := hs.map (cellOf s.me.job.toNat)

/-- The bytes of an access lie in this device, and none is in error (R137). -/
def here (s : State) (hs : List Hit) : Prop := hs.all Hit.isCell = true ∧ ∀ k ∈ cells s hs, s.badAt k = false

/-- No SO page is accessed while the strand's last access to one is open (R285). -/
def clear (s : State) (hs : List Hit) : Prop := hs.any Hit.so = true → s.me.soOpen = false

/-- None of the bytes lies in a brick the Marver has locked (R275). -/
def unlocked (s : State) (hs : List Hit) : Prop := ∀ k ∈ cells s hs, s.locked k = false

/-- The entries of the store queue that a store of this device's bytes becomes: one for the bytes that go the way of the
first, and one for the others, if any. -/
def pieces (s : State) (a : Addr) (hs : List Hit) (bs : List Byte) : List PendStore :=
  match hs with
  | [] => []
  | h :: _ =>
    let n := runLen h hs
    let one (a : Addr) (cs : List (Nat × Byte)) : PendStore := { dev := 0, job := s.me.job.toNat, va := a.val, cells := cs }
    one a (((cells s hs).zip bs).take n) ::
      (if hs.length ≤ n then [] else [one (a.add n) (((cells s hs).zip bs).drop n)])

/-- What an access checked through the translation caches may change besides its own effect: the caches, the tier
policy's counts, and, where it migrates the strand by counter (R228), rac, the strand's status and the moves due. -/
def accessed (s t : State) (m : Memory) (f : Strand → Strand) (n : Nat) : Prop :=
  t = { s with
    me := { (s.issued n f).me with rac := t.me.rac, status := t.me.status }
    mem := m, tlb := t.tlb, tier := t.tier, agenda := t.agenda, queues := t.queues } ∧
  (s.me.trh = 0 → t.me.status = s.me.status)

/-- The dirty log of the core that logs the strand's writes (R289). -/
def inLog (s : State) (k : Nat) : Prop := ∃ c, logCore s.me = some c ∧ lsKey c 0xFF000 ≤ k ∧ k < lsKey c 0xFF000 + 4096
/-- The log has room for n records. -/
def logRoom (s : State) (n : Nat) : Prop := ∀ c, logCore s.me = some c → s.num (lsKey c 0xFF000) 2 % 512 + n ≤ 511
/-- Memory that reads as s's outside the dirty log. -/
def logOnly (s : State) (m : Memory) : Prop := ∀ k, ¬ inLog s k → m.get k = s.mem.get k
/-- Memory that reads, outside the dirty log, as s's with some bytes written. -/
def wrote (s : State) (m : Memory) (cs : List (Nat × Byte)) : Prop := ∀ k, ¬ inLog s k → m.get k = (s.mem.setAll cs).get k

/-- The fabric interface after an acquire of span scope, where one is made: the valid bits of the job's mode-C lines are
cleared (R284). -/
def acquired (s : State) (acq : Bool) : Fabric :=
  if acq then { s.fabric with valid := s.fabric.valid.filter fun v => v / 2 ^ 40 != s.me.job.toNat } else s.fabric

/-- The AMOs (Table 7.4) with what each writes from the old word, b and e0. -/
def amo : Instr → Option (Reg × Reg × Reg × Guard × (Word → Word → Word → Option Word))
  | .amoadd d a b g _ => some (d, a, b, g, fun x y _ => some (x + y))
  | .amoand d a b g _ => some (d, a, b, g, fun x y _ => some (x &&& y))
  | .amoor d a b g _ => some (d, a, b, g, fun x y _ => some (x ||| y))
  | .amoxor d a b g _ => some (d, a, b, g, fun x y _ => some (x ^^^ y))
  | .amomin d a b g _ => some (d, a, b, g, fun x y _ => some (if x.toInt ≤ y.toInt then x else y))
  | .amomax d a b g _ => some (d, a, b, g, fun x y _ => some (if y.toInt ≤ x.toInt then x else y))
  | .amoswap d a b g _ => some (d, a, b, g, fun _ y _ => some y)
  | .amocas d a b g _ => some (d, a, b, g, fun x y z => if x = z then some y else none)
  | _ => none

/-- The element-wise sum of a VAMO (R134): 64 BF16 or 32 FP32 values. -/
def vamo : Instr → Option (Reg × Reg × Guard × Bool)
  | .vamoBf16 a b g _ => some (a, b, g, true)
  | .vamoFp32 a b g _ => some (a, b, g, false)
  | _ => none

/-! Line instructions by shape. -/

/-- A lane of two lines computed from the two lanes. -/
def lanes2 (f : Half → Half → Half) (x y : Line) : Line := Vector.ofFn fun i => f x[i] y[i]

/-- Line operations of two lines (Tables 6.2, 6.4; R100 to R106). -/
def line2 : Instr → Option (Nat × Guard × LReg × LReg × LReg × (Line → Line → Line))
  | .vadd d a b ty g => some (4, g, d, a, b, lanes2 fun x y => if ty = 12 then add32 x y else x + y)
  | .vsub d a b ty g => some (4, g, d, a, b, lanes2 fun x y => if ty = 12 then sub32 x y else x - y)
  | .vmul d a b ty g => some (4, g, d, a, b, lanes2 fun x y => if ty = 12 then mul32 x y else x * y)
  | .vmin d a b ty g => some (4, g, d, a, b, lanes2 fun x y =>
      if ty = 12 then fmin32 x y
      else if ty = 2 then (if x.toInt ≤ y.toInt then x else y) else if x.toNat ≤ y.toNat then x else y)
  | .vmax d a b ty g => some (4, g, d, a, b, lanes2 fun x y =>
      if ty = 12 then fmax32 x y
      else if ty = 2 then (if y.toInt ≤ x.toInt then x else y) else if y.toNat ≤ x.toNat then x else y)
  | .vand d a b _ g => some (4, g, d, a, b, lanes2 fun x y => x &&& y)
  | .vor d a b _ g => some (4, g, d, a, b, lanes2 fun x y => x ||| y)
  | .vxor d a b _ g => some (4, g, d, a, b, lanes2 fun x y => x ^^^ y)
  | .vshl d a b _ g => some (4, g, d, a, b, lanes2 fun x y => x <<< (y.toNat % 32))
  | .vshr d a b ty g => some (4, g, d, a, b, lanes2 fun x y =>
      if ty = 2 then x.sshiftRight (y.toNat % 32) else x >>> (y.toNat % 32))
  | .vcmp rel d a b ty g => some (4, g, .k d, a, b, lanes2 fun x y => if vrel rel ty x y then BitVec.allOnes 32 else 0)
  | .vshuf d a b ty g => some (4, g, d, a, b, shuf ty)
  | .vcmul d a b g => some (4, g, d, a, b, vcmulL)
  | .compactVadd d a => some (2, 0, d, d, a, lanes2 add32)
  | .compactVmul d a => some (2, 0, d, d, a, lanes2 mul32)
  | _ => none

/-- Line operations of one line. -/
def line1 : Instr → Option (Guard × LReg × LReg × (Line → Line))
  | .vabs d a ty g => some (g, d, a, fun x => Vector.ofFn fun i =>
      if ty = 12 then (if nan32 x[i] then qnan32 else x[i] &&& 0x7FFFFFFF#32) else if x[i].msb then 0 - x[i] else x[i])
  | .vneg d a ty g => some (g, d, a, fun x => Vector.ofFn fun i =>
      if ty = 12 then (if nan32 x[i] then qnan32 else x[i] ^^^ 0x80000000#32) else 0 - x[i])
  | .vexp d a g => some (g, d, a, fun x => Vector.ofFn fun i => exp32 x[i])
  | .vlog d a g => some (g, d, a, fun x => Vector.ofFn fun i => log32 x[i])
  | .vrcp d a g => some (g, d, a, fun x => Vector.ofFn fun i => rcp32 x[i])
  | .vrsq d a g => some (g, d, a, fun x => Vector.ofFn fun i => rsq32 x[i])
  | .vsin d a g => some (g, d, a, fun x => Vector.ofFn fun i => sin32 x[i])
  | .vcos d a g => some (g, d, a, fun x => Vector.ofFn fun i => cos32 x[i])
  | .vcvt d a src sat mode ty g => some (g, d, a, fun x => Vector.ofFn fun i => vcvtL src sat mode ty x[i])
  | .vconj d a g => some (g, d, a, fun x => Vector.ofFn fun i =>
      if i.val % 2 = 0 then x[i] else if nan32 x[i] then qnan32 else x[i] ^^^ 0x80000000#32)
  | _ => none

/-- Line operations that read the old destination too. -/
def line3 : Instr → Option (Nat × Guard × LReg × LReg × LReg × (Half → Half → Half → Half))
  | .vfma d a b ty g => some (4, g, d, a, b, fun x y z => if ty = 12 then fma32 x y z else x * y + z)
  | .vsel d a b _ g => some (4, g, d, a, b, fun x y z => (x &&& z) ||| (y &&& ~~~z))
  | .compactVfma d a => some (2, 0, d, d, a, fma32)
  | _ => none

/-- Reductions of a line to a scalar (R108). -/
def lineReduce : Instr → Option (Guard × Reg × LReg × (Line → Word))
  | .vrsum d a ty g => some (g, d, a, vrsumW ty)
  | .vrmax d a ty g => some (g, d, a, fun x => laneScalar ty (bestLane true ty x).2)
  | .vrmin d a ty g => some (g, d, a, fun x => laneScalar ty (bestLane false ty x).2)
  | .vrmaxi d a ty g => some (g, d, a, fun x => toW ((bestLane true ty x).1 * 2 ^ 32 + (bestLane true ty x).2.toNat))
  | .vrmini d a ty g => some (g, d, a, fun x => toW ((bestLane false ty x).1 * 2 ^ 32 + (bestLane false ty x).2.toNat))
  | _ => none

/-- A line load of k registers: guard, destination, type, address base, element offsets, scalar sources. -/
def lineLd (t : Strand) : Instr → Option (Guard × Fin 8 × Ty × Word × List (Option Int) × List Reg)
  | .vld (.k d) a b ty g => some (g, d, ty, t.src a, (strides ty b (t.src b)).map some, [a, b])
  | .vgath (.k d) a (.k j) ty g => some (g, d, ty, t.src a, lineOffsets ty t.k[j], [a])
  | _ => none
def lineSt (t : Strand) : Instr → Option (Guard × Fin 8 × Ty × Word × List (Option Int) × List Reg)
  | .vst (.k d) a b ty g => some (g, d, ty, t.src a, (strides ty b (t.src b)).map some, [a, b])
  | .vscat (.k d) a (.k j) ty g => some (g, d, ty, t.src a, lineOffsets ty t.k[j], [a])
  | _ => none

/-- The lanes of a loaded line from its elements in order; an inactive one gives 0 (R111). -/
def loaded (ty : Ty) : List (Option Int) → List Nat → List Half
  | some _ :: r, v :: vs => lanesOf ty v ++ loaded ty r vs
  | none :: r, vs => (if isComplex ty then [0, 0] else [0]) ++ loaded ty r vs
  | _, _ => []

/-- The strand's home is a compute core (R97). -/
def compute (s : State) : Prop := s.me.homeCore % 32 < 16

/-- The optimisers (Table 8.5). -/
def optimise : Instr → Option (Nat × Reg × Reg × Fin 8)
  | .pacc a b k _ => some (0, a, b, k)
  | .paxpy a b k _ => some (1, a, b, k)
  | .pema a b k _ => some (2, a, b, k)
  | _ => none

/-- The field a handle names with a right, as the strand's die sees it, where that die's replica of the field table is
included (R258, R264). -/
def field (s : State) (a : Word) (r : Right) (key : Nat) (f : View) : Prop :=
  key = objKey s.me.job.toNat (wbits a 0 16) ∧ (∃ o, useHandle s.me.job.toNat (wbits a 0 16) 1 r a s = .ok (o, s)) ∧
    s.fieldOff s.me.job.toNat (coreDie s.me.core) = false ∧ f = s.viewOn (coreDie s.me.core) none key

/-- The code of an element from the bytes read; planes that are not read stand as 0. -/
def fieldCode (s : State) (f : View) (idx : Nat) (bs : List Byte) : Nat :=
  f.o.code (s.spot f idx).loc bs * (if isChain f.o.fmt then 256 ^ (f.o.planes - bs.length) else 1)

/-- An admitted plane count (R147). -/
def planesFit (o : Obj) (c : Nat) (md : Bool) : Prop :=
  if isChain o.fmt then (if o.fmt = 16 then 1 else 2) ≤ c ∧ c ≤ o.planes else c = 1 ∧ md = false

/-- An open instruction that owes o_i alone, in l0 too: what the arrival of v does to its strand (R26, R65). -/
def paid (t : Strand) (i : Fin 6) (v : Word) : Strand := { t with pend := [], l0 := v, o := t.o.set i v }

/-- The same register owed. -/
def owesO (p : Pending) (i : Fin 6) : Prop := p.dsts = [.o i] ∧ p.lands = [0]

/-- A word of this device reached by a counter access with a right. -/
def wordAt (right : Nat) (a : Word) (s s1 : State) (hs : List Hit) : Prop :=
  (∃ e, counterHits right a s = .ok ((e, hs), s1)) ∧ here s hs

/-- Its value. -/
def wordVal (s : State) (hs : List Hit) : Word := toW (leNat ((cells s hs).map s.see))

/-- A record at the tail of a queue: in hardware, or in the overflow ring behind what stands there (R212, R213). -/
def joined (s t : State) (q : Nat) (r : Rec) : Prop :=
  if (s.hwRoom q && !s.inRing q) = true then
    t.mem = s.mem ∧ t.queues.ring = s.queues.ring ∧
      (if 1024 ≤ q then t.queues.die = s.queues.die ++ [(q - 1024, { r with since := s.clk })] ∧ t.queues.task = s.queues.task
       else t.queues.task = s.queues.task ++ [(q, { r with since := s.clk })] ∧ t.queues.die = s.queues.die)
  else ∃ i, s.ringPlace q = some i ∧ t.queues.ring = s.queues.ring ++ [(q, i, r)] ∧ t.queues.task = s.queues.task ∧
    t.queues.die = s.queues.die ∧ ∀ ks, s.ringCells q i = some ks → t.mem = s.mem.setAll (ks.zip r.bytes)

/-- One task more in a launch's TOTAL, and one in CANC (R219, Table 12.5). -/
def spawnedIn (o : Obj) : Obj := o.setFld 9 0 40 (o.fld 9 0 40 + 1)
def lostIn (o : Obj) : Obj := o.setFld 12 0 40 (o.fld 12 0 40 + 1)

/-- The entry of a message (R214): H0 is the sender's sid, the tag and its job; the payload is o0 to o5. -/
def entry (t : Strand) (tag : Nat) : Msg where
  h0 := BitVec.ofNat 64 (t.sid.toNat + tag * 2 ^ 32 + t.job.toNat * 2 ^ 48)
  o := t.o

/-- The open instruction left by an instruction of 4 bytes that waits after la more. -/
def waits (s t : State) (d : List Reg) (src : Owe) (la : Nat) : Prop :=
  ∃ p : Pending, t.me.pend = [p] ∧ p.src = src ∧ p.left = la ∧ p.dsts = d.filter Reg.kept ∧ t.me.pc = s.me.pc + 4 ∧
    p.xpc = s.me.pc ∧ t.mem = s.mem

/-- The strand's home is a compute core or a gaffer (R159, R196). -/
def engineCore (s : State) : Prop := coreNo s.me.homeCore ≤ 16

/-- The command an operator instruction presents (R159), with the registers it reads. -/
def operatorCmd (s : State) (i : Instr) : Option (Look × List Reg × Cmd) :=
  let mk (op : Nat) (a b c : Reg) (acc sat nomap : Bool) (la : Look) : Option (Look × List Reg × Cmd) :=
    some (la, [a, b, c], {
      cl := clusterOf s.me.homeCore, id := wbits (s.me.src a) 48 8, op, a := s.me.src a, b := s.me.src b
      c := s.me.src c, e := s.me.e, acc, sat, nomap, la := la.val, sid := s.me.sid.toNat, job := s.me.job.toNat
      launch := s.me.launch?, die := coreDie s.me.homeCore, seq := 0, preds := [], remaps := [], promise := 0
      tags := [], st := 0, done := 0, puts := [], status := 0 })
  match i with
  | .apply a b c acc sat nomap la => mk 0 a b c acc sat nomap la
  | .applyc a b c acc sat nomap la => mk 1 a b c acc sat nomap la
  | .phase a b c nomap la => mk 2 a b c false false nomap la
  | .dscale a b acc sat nomap la => mk 3 a b .z acc sat nomap la
  | .redb a b acc sat nomap la => mk 4 a b .z acc sat nomap la
  | .maxb a b nomap la => mk 5 a b .z false false nomap la
  | .opld a b c sat la => mk 6 a b c false sat false la
  | .opgen a la => mk 7 a .z .z false false false la
  | _ => none

/-- What acceptance leaves (R160, R161, R163, R176): the command is in flight with its predecessors latched, its promise in
l0, its strand waits for it after la4 instructions unless it is detached, and the rotation goes on from its core. -/
def accepted (s t : State) (c : Cmd) (p : Plan) : Prop :=
  ∃ c' : Cmd, t.engines.cmds = s.engines.cmds ++ [c'] ∧
    c' = { c with seq := s.engines.next, promise := c'.promise, preds := c'.preds, tags := c'.tags, remaps := [] } ∧
    c'.preds = ((s.inFlight c.cl).filter fun x => c.predIds.contains x.id).map Cmd.seq ∧
    (c'.preds = [] → c'.promise = BitVec.ofNat 64
      (s.clk.toNat + (Max.max (s.costOf c).1 (Max.max (ceilDiv (s.costOf c).2 512) p.tslot) + 40))) ∧
    t.me.l0 = c'.promise ∧ t.me.l1 = s.me.l0 ∧ t.mem = s.mem ∧
    SMap.find c.cl t.engines.ptr = some (coreNo s.me.homeCore) ∧
    ({ ev := .commandStart, arg := { n := s.engines.next } } : Due) ∈ t.agenda ∧
    (if c.la = 15 then t.me.pend = []
     else ∃ q : Pending, t.me.pend = [q] ∧ q.src = .command s.engines.next ∧ q.left = c.la)

/-- The release of a command is over at once: no store is queued, and for one that reaches another device none is
unacknowledged or has failed (R344). -/
def releasable (s : State) (far : Bool) : Prop :=
  s.me.stores = [] ∧ (far = true → s.unacked = false ∧ s.me.spanErr = none)

/-- The checks of acceptance pass in a state and no field needs a remap (R166, R171, R181). -/
def presentable (s : State) (c : Cmd) (p : Plan) : Prop :=
  plan c s = .ok (p, s) ∧ ∃ sw, allSwaps c p.needs s = .ok (sw, s) ∧ ∀ x ∈ sw, x.2 = []

/-- Whether an instruction is one of the three rows of the word of XFER. -/
def isXfer (i : Instr) (a b c : Reg) (la : Look) : Prop :=
  i = .xfer a b c la ∨ i = .xferRetry a b c la ∨ i = .xferAbandon a b c la

/-- The destination's map at the acceptance of a transfer. -/
def destMap (s : State) : End → List Nat
  | .field f _ => s.forceMap f.key f.o
  | _ => []

/-- A handle in an operand passes the checks of R264 for a kind and a right; o is its record. -/
def handle (s : State) (a : Word) (kind : Nat) (r : Right) (key : Nat) (o : Obj) : Prop :=
  key = objKey s.me.job.toNat (wbits a 0 16) ∧ o = s.objAt key ∧
    ∃ t, useHandle s.me.job.toNat (wbits a 0 16) kind r a s = .ok (o, t)

/-- A launch record as LAUNCH leaves it (R235): TOTAL := TCOUNT, DONE, FAIL and CANC 0, no task generated, and a state: 1
QUEUED. -/
def begun (o : Obj) (st : Nat) : Obj :=
  (((((o.setFld 9 0 40 o.tcount).setFld 10 0 40 0).setFld 11 0 40 0).setFld 12 0 40 0).setFld 15 0 32 0).setFld 0 10 3 st
def queued (o : Obj) : Obj := begun o 1

/-- The record of a node of a graph. -/
def node (_s : State) (key : Nat) (o : Obj) (v : Nat) : Nat := objKey (key / 65536) (o.nodeHandle v)

/-- Nothing of any launch is in a queue, a slot of another strand, or an engine. -/
def quiet (s : State) : Prop :=
  s.others = [] ∧ s.queues.task = [] ∧ s.queues.die = [] ∧ s.queues.ring = [] ∧ s.queues.waits = [] ∧ s.queues.run = [] ∧
    s.engines.cmds = [] ∧ s.engines.xfers = [] ∧ s.fabric.graphs = []

/-- A node of a graph waits for a place in the launch queue. -/
def nodeWaits (s : State) (key v : Nat) : Bool := s.agenda.any fun d =>
  d.ev == .launchPreparation && d.arg.flag && objKey d.arg.job d.arg.h == key && d.arg.n == v

/-- A graph marked cancelled, its nodes not yet launched counted as skipped (R237). -/
def skipped (s : State) (key : Nat) : State :=
  (s.setObjFld key 0 15 3 4).skipNodes key
    ((List.range (s.objAt key).nodes).filter fun v => !((s.graphList key).getD v 128 == 0 && !nodeWaits s key v))

/-- The three rows of the word of CANCEL. -/
def isCancel (i : Instr) (d a b : Reg) (g : Guard) (la : Look) : Prop :=
  i = .cancelLaunch d a b g la ∨ i = .cancelGraph d a b g la ∨ i = .cancelJob d a b g la

/-- The issuing die's replica of an object answers calls (R257). -/
def serves (s : State) (o : Obj) (r : Replay) : Prop :=
  ∃ p, r.on (coreDie s.me.core) = some p ∧ o.incl (coreDie s.me.core) = true ∧ p.sync = none ∧
    s.device.stopped.contains (coreDie s.me.core) = false

/-- What a caller gets of a call (R249, R250): its result where it waits for one, and its trap bit in p15. -/
def told (n : Nat) (v : Word) (trapped : Bool) (t : Strand) : Strand :=
  let answer (p : Pending) : Pending := { p with src := if p.dsts = [.pw] ∧ p.lands = [] then .bit15 trapped else .value [v] }
  { t with pend := t.pend.map fun p => if p.src = .query n then answer p else p }

/-- A caller told the position of its call (R249). -/
def placed (key n pos : Nat) (t : Strand) : Strand :=
  let answer (p : Pending) : Pending := { p with src := .value [BitVec.ofNat 64 pos] }
  { t with pend := t.pend.map fun p => if p.src = .callm (key / 65536) (key % 65536) n then answer p else p }

/-- The call a strand makes (R249, R250). -/
def callOf (s : State) (a : Word) : Call where
  n := s.engines.next
  sid := s.me.sid.toNat
  die := coreDie s.me.core
  method := wbits a 16 6
  o := #v[s.me.o[0], s.me.o[1], s.me.o[2], s.me.o[3]]

/-- A calm strand at supervisor level with plain operands and no store queued (R10, R344). -/
def sup (s : State) (rs : List Reg) : Prop :=
  s.calm ∧ 1 ≤ s.me.plv.toNat ∧ rs.all Reg.plain = true ∧ s.me.stores = []

/-- What a command that is over at issue leaves of its strand: its promise in l0, and pc past it. -/
def promised (s t : State) : Prop := t.me = (s.issued 4 fun u => u.result .l0 t.me.l0).me

/-- The same with the wait for its completion, unless it is detached (R25). -/
def promisedWait (s t : State) (src : Owe) (la : Look) : Prop :=
  t.me = { (s.issued 4 fun u => u.result .l0 t.me.l0).me with pend := t.me.pend } ∧
  (if la.val = 15 then t.me.pend = [] else ∃ p : Pending, t.me.pend = [p] ∧ p.src = src ∧ p.left = la.val)

/-- No call on a job's field table is asleep, and its log has room (R258). -/
def tableFree (s : State) (job : Nat) : Prop := ((s.fieldTab? job).map FieldTab.asleep).getD [] = [] ∧ s.fieldRoom job = true

/-- A die's replica of a job's field table. -/
def fieldRep (s : State) (job die : Nat) : Option FRep := (s.fieldTab? job).bind fun f => f.rep? die

/-- A record may take the place of another (Table 15.2). -/
def mayReplace (old o : Obj) : Prop :=
  old.valid = true → old.kind = o.kind ∧ (o.kind = 1 → old.remapping = false) ∧
    (o.kind = 2 → old.lState = 0 ∨ old.lState = 5) ∧ (o.kind = 3 → old.gState = 0 ∨ old.gState = 5)

/-- A translation that XINV names (R291). -/
def xhits (s : State) (x y z : Word) (job base size : Nat) : Bool :=
  (z.getLsbD 16 || job == (if wbits z 0 16 = 0 then s.me.job.toNat else wbits z 0 16)) && overlaps x.toNat y.toNat base size

/-- LEASE, LEHR: the rows of one word. -/
def isLease (i : Instr) (a b c : Reg) (la : Look) : Prop := i = .leasePin a b c la ∨ i = .leaseUnpin a b c la
def isLehr (i : Instr) (a : Reg) (la : Look) : Prop :=
  i = .lehrEnter a la ∨ i = .lehrExit a la ∨ i = .lehrArm a la ∨ i = .lehrDisarm a la

/-- A run that has been cancelled by a rank at a step (R311), with no completion word and nothing held: the strand that waits
for it takes the trap. -/
def cancelled (s t : State) (g : CGraph) (rank step : Nat) : Prop :=
  t.graph? g.key = some { g with running := false, held := [] } ∧ (t.objAt g.key).fld 0 40 2 = 0 ∧ t.mem = s.mem ∧
    t.fabric.out = s.fabric.out ++ ((List.range g.ranks.length).filter (· != g.rank)).map (fun r =>
      ({ dev := g.ranks.getD r 0, job := g.key / 65536, kind := 8, a := g.key % 65536
         b := rank + step * 2 ^ 16 + g.run * 2 ^ 32, bytes := [] } : Packet)) ∧
    t.me.pend = s.me.pend.map fun p => if p.src = .table 7 g.key 0 then
      p.fail (.fault 10 0 (toW (rank + step * 2 ^ 16 + g.run * 2 ^ 32))) else p

/-- The acknowledgements of a chunk to ranks that sent it, with what names it (R307, R310). -/
def acks (g : CGraph) (ranks : List Nat) (b : Nat) : List Packet :=
  (ranks.filter (· != g.rank)).map fun r =>
    ({ dev := g.ranks.getD r 0, job := g.job, kind := 10, a := g.key % 65536, b, bytes := [] } : Packet)

/-- No strand has to do with a cluster. -/
def empty (s : State) (cl : Nat) : Prop := ∀ u ∈ s.strands, clusterOf u.homeCore ≠ cl ∧ clusterOf u.core ≠ cl

end Sys2Proof.Claims

section

open Sys2Proof Sys2Proof.Machine Sys2Proof.Num

/-- R76 to R79, R82, R84, R86, R18, R65, R66, R67: a two-source instruction of a calm strand whose guard holds, its
registers plain, writes its function of the sources to d, with the shift of l0 to l1, moves pc past itself and changes
nothing else: the next state is given whole, which is also the frame.
R77, R78, R82, R84, R86, R18: the same for the instructions of one source (a register, or an immediate beside it).
R78, R79, R84: the same for the instructions that also read d before writing it.
R76: what DIV and REM give when the divisor is 0, and when the most negative value is divided by -1; elsewhere the
quotient truncates toward zero and the remainder completes it. -/
def Obligations.ScalarResult : Prop :=
  (∀ (i : Instr) (n : Nat) (g : Guard) (d a b : Reg) (f : Word → Word → Word) (s : State),
     Claims.binary i = some (n, g, d, a, b, f) → s.calm → s.me.guarded g = true →
     d.plain = true → a.plain = true → b.plain = true →
     exec i s = .next (s.issued n fun t => t.result d (f (t.src a) (t.src b)))) ∧
  (∀ (i : Instr) (n : Nat) (g : Guard) (d a : Reg) (f : Word → Word) (s : State),
     Claims.unary i = some (n, g, d, a, f) → s.calm → s.me.guarded g = true → d.plain = true → a.plain = true →
     exec i s = .next (s.issued n fun t => t.result d (f (t.src a)))) ∧
  (∀ (i : Instr) (n : Nat) (g : Guard) (d a b : Reg) (f : Word → Word → Word → Word) (s : State),
     Claims.ternary i = some (n, g, d, a, b, f) → s.calm → s.me.guarded g = true →
     d.plain = true → a.plain = true → b.plain = true →
     exec i s = .next (s.issued n fun t => t.result d (f (t.src a) (t.src b) (t.src d)))) ∧
  (∀ x y : Word, (y = 0 → divS x y = BitVec.allOnes 64 ∧ divU x y = BitVec.allOnes 64 ∧ remS x y = x) ∧
     (x = BitVec.intMin 64 → y = BitVec.allOnes 64 → divS x y = x ∧ remS x y = 0) ∧
     (y ≠ 0 → divS x y * y + remS x y = x ∧ (divU x y).toNat = x.toNat / y.toNat))

/-- R24, R80, R85, R82, R18: a comparison sets its predicate (the compact forms P1) and nothing else but pc.
R24, R81: the logic of predicates sets its predicate and nothing else but pc. -/
def Obligations.PredicateResult : Prop :=
  (∀ (i : Instr) (n : Nat) (g : Guard) (p : Pred) (a b : Reg) (f : Word → Word → Bool) (s : State),
     Claims.compare i = some (n, g, p, a, b, f) → s.calm → s.me.guarded g = true → a.plain = true → b.plain = true →
     exec i s = .next (s.issued n fun t => t.predResult p (f (t.src a) (t.src b)))) ∧
  (∀ (i : Instr) (g : Guard) (p a b : Pred) (f : Bool → Bool → Bool) (s : State),
     Claims.predicate i = some (g, p, a, b, f) → s.calm → s.me.guarded g = true →
     exec i s = .next (s.issued 4 fun t => t.predResult p (f (t.pred a.val) (t.pred b.val))))

/-- R83, R88, R71, R69: LUI, ADDPC, RDCYC, SRD and QTEST write to d the value they read from the state.
R70, R88, R345: EXT writes one word of register E; NOP only moves pc; IFENCE only moves pc in this model, which never
holds stale instruction bytes (log entry 8).
R71, R89, Table 4.2: SWR of a register the strand's level may write changes that register, to its width, and nothing
else but pc. -/
def Obligations.RegisterMoveResult : Prop :=
  (∀ (i : Instr) (n : Nat) (g : Guard) (d : Reg) (f : State → Word) (s : State),
     Claims.constant i = some (n, g, d, f) → s.calm → s.me.guarded g = true → d.plain = true →
     exec i s = .next (s.issued n fun t => t.result d (f s))) ∧
  (∀ (i : Instr) (n : Nat) (g : Guard) (f : Strand → Strand) (s : State),
     Claims.strandOnly i = some (n, g, f) → s.calm → s.me.guarded g = true →
     (∀ k a h, i = .ext k a h → a.plain = true) → exec i s = .next (s.issued n f)) ∧
  (∀ (r : SReg) (a : Reg) (g : Guard) (s : State), s.calm → s.me.guarded g = true → a.plain = true →
     ¬ s.me.plv < sregLevel r →
     exec (.swr r a g) s = .next (s.issued 4 fun t => setSreg t r (t.src a)))

/-- R24: a false guard skips the instruction: only pc moves on (and the watchdog's count starts again, R363). -/
def Obligations.FalseGuardSkips : Prop :=
  ∀ (i : Instr) (n : Nat) (g : Guard) (s : State),
    Claims.guardOf i = some (n, g) → s.calm → s.me.guarded g = false → exec i s = .next (s.issued n id)

/-- R10, R39: an instruction above the strand's level raises the privilege trap with its word in tval, before its guard
and its operands are looked at. -/
def Obligations.PrivilegeTrap : Prop :=
  ∀ (i : Instr) (s : State), Claims.supervisorOnly i = true → s.me.plv = 0 →
    exec i s = .next (s.raise 2 0 (toW i.encode))

/-- R358: taking a trap. A calm strand that has a handler (R359) saves class, WIN and detail in tcause, the value in tval,
the address in xpc and the level in xplv, keeps its level, and goes on at tvec with bit 0 taken as 0; every other
register, memory and every unit stays as it is (an element fetched ahead that could not be read is forgotten, R113, and a
failed remote store that is reported is reported no more, R298).
R359, R220: an unhandled trap of a task whose stores are performed leaves its slot idle, counts the task in FAIL of its
launch, and sends its gaffer a hardware message of kind 0x18 with tcause, tval, xpc and the sid. -/
def Obligations.TrapEntryState : Prop :=
  (∀ (s : State) (cls detail : Nat) (tval : Word), s.calm → unhandled s.me.tvec s.me.pc = false → s.me.skip = none →
     s.raise cls detail tval =
       { s with me := { s.me with
           tcause := BitVec.ofNat 16 (cls + detail * 1024), tval, xpc := s.me.pc, xplv := s.me.plv
           pc := s.me.tvec &&& 0xFFFFFFFFFFFE#48, t := s.me.t.map fun x => x.map Stream.forget
           spanErr := if cls = 8 ∧ detail = 1 then none else s.me.spanErr } }) ∧
  (∀ (s : State) (cls detail : Nat) (tval : Word), s.calm → unhandled s.me.tvec s.me.pc = true → s.me.skip = none →
     s.me.plv = 0 → s.me.status = .ready → s.me.stores = [] → s.unacked = false →
     (s.raise cls detail tval).me = Strand.fresh s.me.sid .idle 0 ∧
     (∀ key, s.me.launch? = some key →
       (s.raise cls detail tval).objAt key = (s.objAt key).setFld 11 0 40 ((s.objAt key).fld 11 0 40 + 1)) ∧
     ((s.raise cls detail tval).queues.hw.getLast?.map fun m => (m.dst, m.msg.o)) =
       some (gafferSid (clusterOf s.me.homeCore),
         #v[0x18, (causeWord cls 0 detail).setWidth 64, tval, s.me.pc.setWidth 64, s.me.sid.setWidth 64, 0]))

/-- R360: TRAP takes the trap of class 11 with its code in tval and the next instruction's address in xpc. That entry is
its effect; its word is 0xA8006000 plus 8 times the code.
R361: RTE sets plv to the lower of xplv and plv and pc to xpc; an odd xpc raises the alignment fault with tval =
xpc.
R362: IDLE completes when the receive queue is not empty, or when the armed deadline has passed, which it disarms;
otherwise the strand stays at it. -/
def Obligations.TrapReturnAndIdle : Prop :=
  (∀ (code : BitVec 9) (s : State), s.calm → unhandled s.me.tvec s.me.pc = false → s.me.skip = none →
     exec (.trap code) s = .next { s with me := { s.me with
       lastIssue := s.clk, tcause := 11, tval := code.setWidth 64, xpc := s.me.pc + 4, xplv := s.me.plv
       pc := s.me.tvec &&& 0xFFFFFFFFFFFE#48, t := s.me.t.map fun x => x.map Stream.forget } }) ∧
  (∀ s : State, s.calm →
     (s.me.xpc.getLsbD 0 = false →
       exec .rte s = .next (Claims.jumped s s.me.xpc fun t =>
         { t with plv := if t.xplv.toNat ≤ t.plv.toNat then t.xplv else t.plv })) ∧
     (s.me.xpc.getLsbD 0 = true → exec .rte s = .next (s.raise 4 0 (s.me.xpc.setWidth 64)))) ∧
  (∀ s : State, s.calm →
     (s.me.q ≠ [] → exec .idle s = .next (s.issued 4 id)) ∧
     (∀ t, s.me.q = [] → s.me.armed = some t → t.toNat ≤ s.clk.toNat →
       exec .idle s = .next (s.issued 4 fun u => { u with armed := none })) ∧
     (s.me.q = [] → (∀ t, s.me.armed = some t → s.clk.toNat < t.toNat) → exec .idle s = .next s)) ∧
  (∀ code : BitVec 9, (Instr.trap code).encode = 0xA8006000 + code.toNat * 8)

/-- R90, R91: BR and BR.F go pc + 2 * off when the predicate is 1, or 0, and past themselves otherwise.
R90, R16: JR goes to the address in bits 47:0 of a; an odd one raises the alignment fault with that address in tval.
R93: LOOP takes 1 from d and branches while the result is not 0. -/
def Obligations.BranchResult : Prop :=
  (∀ (p : Pred) (off : BitVec 20) (s : State), s.calm →
     exec (.br p off) s = .next (Claims.jumped s
       (if s.me.pred p.val then BitVec.ofInt 48 (s.me.pc.toNat + off.toInt * 2) else s.me.pc + 4) id) ∧
     exec (.brF p off) s = .next (Claims.jumped s
       (if s.me.pred p.val then s.me.pc + 4 else BitVec.ofInt 48 (s.me.pc.toNat + off.toInt * 2)) id)) ∧
  (∀ (a : Reg) (g : Guard) (s : State), s.calm → s.me.guarded g = true → a.plain = true →
     ((s.me.src a).getLsbD 0 = false → exec (.jr a g) s = .next (Claims.jumped s ((s.me.src a).setWidth 48) id)) ∧
     ((s.me.src a).getLsbD 0 = true → exec (.jr a g) s = .next (s.raise 4 0 (((s.me.src a).setWidth 48).setWidth 64)))) ∧
  (∀ (d : Reg) (off : BitVec 12) (g : Guard) (s : State), s.calm → s.me.guarded g = true → d.loopDest = true →
     exec (.loop d off g) s = .next (Claims.jumped s
       (if s.me.src d - 1 = 0 then s.me.pc + 4 else BitVec.ofInt 48 (s.me.pc.toNat + off.toInt * 2))
       fun t => t.result d (t.src d - 1)))

/-- R91, R62, R63: CALL and CALLR, with the new frame resident without a spill, raise wdep by one, put the return address
into the new m7, clear the new m8 to m15, keep the old m8 to m14 as the new m0 to m6, and go to the target. Nothing
else of the strand changes, and memory does not.
R91, R16: a CALLR to an odd address raises the alignment fault with that address in tval.
R63, R64: a CALL whose new frame needs the place of the oldest one stores that frame's 64 bytes at wsp - 64 in the
core's own local store, lowers wsp by 64 and makes the next frame the oldest; every byte outside those 64 reads as
before.
R92, R16: RET at a depth above 0 with the frame below resident lowers wdep by one and goes to the address in m7; an
odd one raises the alignment fault; at depth 0 it raises the illegal-state fault. The compact form does the same.
R63: a RET to a frame that is not resident reads it from the 64 bytes at wsp, raises wsp by 64 and makes it the oldest. -/
def Obligations.CallReturnResult : Prop :=
  (∀ (off : BitVec 25) (a : Reg) (g : Guard) (s : State), s.calm → s.me.wdep ≠ 0xFFFF →
     s.me.wdep.toNat + 2 < s.me.low + 8 → s.me.guarded g = true → a.plain = true → (s.me.src a).getLsbD 0 = false →
     ∀ i tgt, (i = .call off ∧ tgt = BitVec.ofInt 48 (s.me.pc.toNat + off.toInt * 2)) ∨
         (i = .callr a g ∧ tgt = (s.me.src a).setWidth 48) →
       ∃ t : Strand, exec i s = .next { s with me := t } ∧ t.wdep = s.me.wdep + 1 ∧ t.pc = tgt ∧
         t.src (.m 7) = (s.me.pc + 4).setWidth 64 ∧
         (∀ k : Fin 8, t.src (.m (Fin.natAdd 8 k)) = 0) ∧
         (∀ k : Fin 7, t.src (.m ⟨k.val, by omega⟩) = s.me.src (.m ⟨k.val + 8, by omega⟩)) ∧
         t = { s.me with frames := t.frames, wdep := t.wdep, pc := t.pc, lastIssue := s.clk }) ∧
  (∀ (a : Reg) (g : Guard) (s : State), s.calm → s.me.guarded g = true → a.plain = true → (s.me.src a).getLsbD 0 = true →
     exec (.callr a g) s = .next (s.raise 4 0 (((s.me.src a).setWidth 48).setWidth 64))) ∧
  (∀ (off : BitVec 25) (s : State), s.calm → s.me.wdep ≠ 0xFFFF → s.me.low + 8 = s.me.wdep.toNat + 2 →
     64 ≤ s.me.wsp.toNat → s.me.wlim.toNat ≤ s.me.wsp.toNat - 64 → s.me.stores = [] → s.bad = [] → s.mem.wf = true →
     (∀ j < 64, s.locked (lsKey s.me.core (s.me.wsp.toNat - 64 + j)) = false) →
     ∃ t : State, exec (.call off) s = .next t ∧ t.me.wsp = s.me.wsp - 64 ∧ t.me.low = s.me.low + 1 ∧
       t.me.wdep = s.me.wdep + 1 ∧
       (∀ (i : Fin 8), t.word (lsKey s.me.core (s.me.wsp.toNat - 64 + 8 * i.val)) =
         s.me.frames[(s.me.low % 8 * 8 + i.val) % 64]'(Nat.mod_lt _ (by decide))) ∧
       (∀ k, (∀ j < 64, k ≠ lsKey s.me.core (s.me.wsp.toNat - 64 + j)) → t.mem.get k = s.mem.get k)) ∧
  (∀ (g : Guard) (s : State), s.calm → s.me.guarded g = true →
     ∀ i, i = .ret g ∨ i = .compactRet →
       (s.me.wdep ≠ 0 → s.me.low ≤ s.me.wdep.toNat - 1 → (s.me.src (.m 7)).getLsbD 0 = false →
         exec i s = .next (Claims.jumped s ((s.me.src (.m 7)).setWidth 48) fun t => { t with wdep := t.wdep - 1 })) ∧
       (s.me.wdep ≠ 0 → (s.me.src (.m 7)).getLsbD 0 = true →
         exec i s = .next (s.raise 4 0 (((s.me.src (.m 7)).setWidth 48).setWidth 64))) ∧
       (s.me.wdep = 0 → exec i s = .next (s.raise 7 0 0)) ∧
       (s.me.wdep ≠ 0 → s.me.low = s.me.wdep.toNat → (s.me.src (.m 7)).getLsbD 0 = false →
         s.me.wsp.toNat + 64 ≤ 2 ^ 20 → (∀ j < 64, s.badAt (lsKey s.me.core (s.me.wsp.toNat + j)) = false) →
         ∃ t : Strand, exec i s = .next { s with me := t } ∧ t.wdep = s.me.wdep - 1 ∧ t.low = s.me.wdep.toNat - 1 ∧
           t.wsp = s.me.wsp + 64 ∧ t.pc = (s.me.src (.m 7)).setWidth 48 ∧
           ∀ k : Fin 8, t.src (.m (Fin.castAdd 8 k)) = s.word (lsKey s.me.core (s.me.wsp.toNat + 8 * k.val))))

/-- R87, R40: on core 14 or 15 of a cluster an F64 instruction of a strand that is at home there, or stays there for F64,
writes its function of the sources; DFMA adds the old d.
R40: on compute cores 0 to 13 an F64 instruction whose guard holds sends a calm strand, unchanged but for its stay, to
core 14 of its own cluster, or to core 15 when only that one has a free slot.
R40, R24: with a false guard it is skipped where the strand runs. -/
def Obligations.F64Result : Prop :=
  (∀ (s : State), s.me.pend = [] → s.me.stay = true ∨ s.me.core = s.me.homeCore → (s.me.core % 32 = 14 ∨ s.me.core % 32 = 15) →
     (∀ i g la d a b f, Claims.f64Binary i = some (g, la, d, a, b, f) → s.me.guarded g = true →
       d.plain = true → a.plain = true → b.plain = true →
       exec i s = .next (s.issued 4 fun t => t.result d (f (t.src a) (t.src b)))) ∧
     (∀ d a b g la, s.me.guarded g = true → d.plain = true → a.plain = true → b.plain = true →
       exec (.dfma d a b g la) s = .next (s.issued 4 fun t => t.result d (Num.fma64 (t.src a) (t.src b) (t.src d))))) ∧
  (∀ (i : Instr) (g : Guard) (la : Look) (s : State),
     (∃ d a b f, Claims.f64Binary i = some (g, la, d, a, b, f)) ∨ (∃ d a b, i = .dfma d a b g la) → s.calm →
     (s.me.core % 32 < 14 → s.me.guarded g = true →
       ∃ t : State, exec i s = .next t ∧ t.me = { s.me with stay := true, status := .transit s.f64Core 4 } ∧
         t.mem = s.mem ∧ t.agenda = s.agenda ++
           [{ ev := .migrationArrival, arg := { sid := s.me.sid.toNat, core := s.f64Core, n := 4 } }]) ∧
     (s.me.core % 32 < 16 → s.me.guarded g = false → exec i s = .next (s.issued 4 id)))

/-- R22, R216, R218: a read of q pops the oldest entry: its payload goes to o0 to o5 without a shift, its H0 is the value; an
entry from another device makes it an acquire of span scope. An empty queue holds the strand at the instruction (R69). Shown
on ADD, whose other source is z.
R68, R112, R113: a read of an input stream register takes the element fetched ahead, in its lane form, and moves the
position on by one; one still on its way holds the strand, one that could not be read raises its fault; a t register that
is unbound, bound the other way, or used up raises the illegal-state fault. -/
def Obligations.SourcePops : Prop :=
  (∀ (d : Reg) (g : Guard) (s : State), s.calm → s.me.guarded g = true → d.plain = true →
     (∀ m r, s.me.q = m :: r →
       exec (.add d .q .z g) s = .next
         { s.issued 4 fun t => ({ t with q := r, o := m.o } : Strand).result d m.h0 with
           fabric := Claims.acquired s (m.fromAfar s.devNo) }) ∧
     (s.me.q = [] → exec (.add d .q .z g) s = .next s)) ∧
  (∀ (d : Reg) (i : Fin 4) (g : Guard) (s : State), s.calm → s.me.guarded g = true → d.plain = true →
     (∀ st x r, s.me.t[i] = some st → st.out = false → st.pos + 1 ≤ st.total → st.ahead = .got x :: r →
       exec (.add d (.t i) .z g) s = .next (s.issued 4 fun t =>
         ({ t with t := t.t.set i (some { st with pos := st.pos + 1, ahead := r }) } : Strand).result d (elemScalar st.ty x))) ∧
     (∀ st k so r, s.me.t[i] = some st → st.out = false → st.pos + 1 ≤ st.total → st.ahead = .asked k so :: r →
       exec (.add d (.t i) .z g) s = .next s) ∧
     (∀ st cls detail tv r, s.me.t[i] = some st → st.out = false → st.pos + 1 ≤ st.total →
       st.ahead = .lost cls detail tv :: r → exec (.add d (.t i) .z g) s = .next (s.raise cls detail tv)) ∧
     ((s.me.t[i] = none ∨ ∃ st, s.me.t[i] = some st ∧ (st.out = true ∨ st.total < st.pos + 1)) →
       exec (.add d (.t i) .z g) s = .next (s.raise 7 0 0)))

/-- R78: BDEP spreads a's low bits to the positions of the mask and BEXT packs them back. -/
def Obligations.BextUndoesBdep : Prop :=
  ∀ x m : Word, bextW (bdepW x m) m = x &&& BitVec.ofNat 64 (2 ^ (popcW m).toNat - 1)

/-- R20, R21, R22, R65 to R69, R74: the same scalar instructions with every operand form. Sources are read in order a,
b, d, each in its own form (a register, a pop of a stream or of the queue), and the destination is written in its own
form (a register, or a push to a stream). -/
def Obligations.ScalarOperandForms : Prop :=
  ∀ (i : Instr) (s s1 s2 s3 s4 : State) (n : Nat) (g : Guard) (d a b : Reg) (x y z : Word),
    s.me.stay = false → s.me.guardHeld g = none → s.me.guarded g = true →
    (∀ f, Claims.unary i = some (n, g, d, a, f) → rd a (s.issue n) = .ok (x, s1) → wr d (f x) s1 = .ok ((), s2) →
      exec i s = .next s2) ∧
    (∀ f, Claims.binary i = some (n, g, d, a, b, f) → rd a (s.issue n) = .ok (x, s1) → rd b s1 = .ok (y, s2) →
      wr d (f x y) s2 = .ok ((), s3) → exec i s = .next s3) ∧
    (∀ f, Claims.ternary i = some (n, g, d, a, b, f) → rd a (s.issue n) = .ok (x, s1) → rd b s1 = .ok (y, s2) →
      rdOld d s2 = .ok (z, s3) → wr d (f x y z) s3 = .ok ((), s4) → exec i s = .next s4)

/-- R122, R125: a load whose bytes are checked and lie in this device, in local store or memory, reads them, the
strand's own queued stores in front (R334), extends them and writes its registers; nothing else changes but caches and
counts. -/
def Obligations.LoadResult : Prop :=
  ∀ (i : Instr) (x : Claims.Access) (s s1 : State) (hs : List Hit),
    Claims.load s.me i = some x → s.calm → s.me.guarded x.guard = true → x.formed = true →
    check rR x.addr x.size (s.issue x.len) = .ok (hs, s1) → Claims.here s hs → Claims.clear s hs →
    ∃ t, exec i s = .next t ∧ Claims.accessed s t s.mem
      (fun u => Claims.results u x.regs (loadValues x.regs.length x.sx ((Claims.cells s hs).map s.see))) x.len

/-- R122, R125, R126: a store to the local store of the core the strand runs on writes the bytes of d at the checked
cells at once; every other byte reads as before.
R126, R285: so does a store to an SO page of this device's memory; outside the strand's dirty log every other byte reads as
before.
R126, R335: any other store of this device's bytes joins the strand's store queue with its cells and bytes (in two entries
where only a part of it goes another way), and its performance is due; memory reads as before but for the dirty log.
R126: the performance of a strand's only queued store writes its bytes and takes it off the queue. -/
def Obligations.StoreResult : Prop :=
  (∀ (i : Instr) (x : Claims.Access) (s s1 : State) (hs : List Hit),
     Claims.store s.me i = some x → s.calm → s.me.guarded x.guard = true → x.formed = true → s.mem.wf = true →
     check rW x.addr x.size (s.issue x.len) = .ok (hs, s1) → Claims.here s hs → Claims.clear s hs → Claims.unlocked s hs →
     s.queuedTo (Claims.cells s hs) = false →
     ((∀ k ∈ Claims.cells s hs, isLs k = true ∧ k / 2 ^ 20 % 4096 = s.me.core) →
       ∃ t, exec i s = .next t ∧ Claims.accessed s t (s.mem.setAll ((Claims.cells s hs).zip x.data)) id x.len ∧
         ∀ k, k ∉ Claims.cells s hs → t.mem.get k = s.mem.get k) ∧
     (hs.all (atOnce s) = true → (∀ k ∈ Claims.cells s hs, ¬ Claims.inLog s k) → Claims.logRoom s 4 →
       ∃ t, exec i s = .next t ∧ Claims.accessed s t t.mem id x.len ∧
         Claims.wrote s t.mem ((Claims.cells s hs).zip x.data))) ∧
  (∀ (i : Instr) (x : Claims.Access) (s s1 : State) (hs : List Hit),
     Claims.store s.me i = some x → s.calm → s.me.guarded x.guard = true → x.formed = true → s.mem.wf = true →
     check rW x.addr x.size (s.issue x.len) = .ok (hs, s1) → Claims.here s hs → Claims.clear s hs → Claims.logRoom s 4 →
     (∀ h ∈ hs, atOnce s h = false) →
     (s.me.stores.filter fun q => q.kind == 1).length + (Claims.pieces s x.addr hs x.data).length ≤ 8 →
     ∃ t, exec i s = .next t ∧ Claims.logOnly s t.mem ∧
       Claims.accessed s t t.mem (fun u => { u with stores := u.stores ++ Claims.pieces s x.addr hs x.data }) x.len ∧
       ({ ev := .storePerform, arg := { sid := s.me.sid.toNat } } : Due) ∈ t.agenda) ∧
  (∀ (s : State) (p : PendStore), s.me.stores = [p] → p.vas = [] → p.dev ≠ aperture → p.so = false →
     (∀ c ∈ p.cells, s.badAt c.1 = false ∧ s.locked c.1 = false) →
     exec .storePerform s = .next { s with me := { s.me with stores := [] }, mem := s.mem.setAll p.cells })

/-- R129: an AMO on a word whose home is the core the strand runs on reads the word, writes d with it and leaves the
operation's result there (AMOCAS only where the word equals e0), in one step; every other byte reads as before but for
the dirty log. With another home core of the package the strand starts for it and takes the operation along (R225).
R134: VAMO adds 64 BF16 or 32 FP32 values of the issuing core's local store to 128 bytes of memory of this device, and
changes nothing else but the dirty log, caches and counts. -/
def Obligations.AtomicResult : Prop :=
  (∀ (i : Instr) (d a b : Reg) (g : Guard) (f : Word → Word → Word → Option Word) (s s1 : State) (h : Hit)
       (r : List Hit),
     Claims.amo i = some (d, a, b, g, f) → s.calm → s.me.guarded g = true → d.plain = true → a.plain = true →
     b.plain = true → s.mem.wf = true → s.me.stores = [] → (s.me.src a).toNat / 2 ^ 56 = 0 → (s.me.src a).toNat % 8 = 0 →
     check rRW (.v (s.me.src a).toNat) 8 (s.issue 4) = .ok (h :: r, s1) → Claims.here s (h :: r) → Claims.clear s (h :: r) →
     s.imageCore (s.home (cellOf s.me.job.toNat h)) = true →
     (Claims.unlocked s (h :: r) → Claims.logRoom s 2 → s.home (cellOf s.me.job.toNat h) = s.me.core →
       ∃ (t : State) (m : Memory) (old : Word), exec i s = .next t ∧ Claims.logOnly s m ∧
         old = toW (leNat ((Claims.cells s (h :: r)).map s.mem.get)) ∧
         t.me = (s.issued 4 fun u => u.result d old).me ∧
         t.mem = (match f old (s.me.src b) s.me.e[0] with
           | none => m
           | some v => m.setAll ((Claims.cells s (h :: r)).zip (leBytes 8 v.toNat))) ∧
         t = { s with me := t.me, mem := t.mem, tlb := t.tlb, tier := t.tier, queues := t.queues, agenda := t.agenda }) ∧
     (∀ core, core = s.home (cellOf s.me.job.toNat h) → core ≠ s.me.core →
       ∃ (t : State) (p : Pending) (op : Nat), exec i s = .next t ∧
         (∀ x y z, f x y z = if amoWrites op x z then some (amoNew op x y z) else none) ∧
         t.me.status = .transit core 1 ∧ t.me.pend = [p] ∧ p.src = .atomic op (s.me.src a) (s.me.src b) s.me.e[0] none ∧
         p.dsts = [d].filter Reg.kept ∧ t.me.pc = s.me.pc + 4 ∧ t.mem = s.mem ∧
         ({ ev := .migrationArrival, arg := { sid := s.me.sid.toNat, core, n := 1 } } : Due) ∈ t.agenda)) ∧
  (∀ (i : Instr) (a b : Reg) (g : Guard) (bf : Bool) (s s1 s2 : State) (h : Hit) (r src : List Hit),
     Claims.vamo i = some (a, b, g, bf) → s.calm → s.me.guarded g = true → a.plain = true → b.plain = true →
     s.mem.wf = true → s.me.stores = [] → (s.me.src a).toNat / 2 ^ 56 = 0 → (s.me.src a).toNat % 128 = 0 →
     (s.me.src b).toNat % 4 = 0 →
     check rRW (.v (s.me.src a).toNat) 128 (s.issue 4) = .ok (h :: r, s1) →
     check rR (.l ((s.me.src b).toNat % 2 ^ 32)) 128 s1 = .ok (src, s2) → Claims.here s (h :: r) → Claims.clear s (h :: r) →
     Claims.unlocked s (h :: r) → Claims.here s src → Claims.logRoom s 2 →
     ∃ (t : State) (m : Memory), exec i s = .next t ∧ Claims.logOnly s m ∧ t.me = (s.issued 4 id).me ∧
       t.mem = m.setAll ((Claims.cells s (h :: r)).zip
         (vamoBytes bf ((Claims.cells s (h :: r)).map s.mem.get) ((Claims.cells s src).map s.mem.get))) ∧
       t = { s with me := t.me, mem := t.mem, tlb := t.tlb, tier := t.tier, queues := t.queues, agenda := t.agenda })

/-- R132: LRW at its line's home, with nobody holding the line, makes the strand the holder and owes d the word, which
RESULT_ARRIVAL delivers; SCV by the holder writes d's value and gives the line up; RELQ gives it up and writes
nothing.
R132: RESERVATION_GRANT makes the first waiter of a line nobody holds its holder and reads its word; RESULT_ARRIVAL
delivers a value that has arrived to its register. -/
def Obligations.ReservationResult : Prop :=
  (∀ (d a : Reg) (g : Guard) (la : Look) (s s1 : State) (h : Hit) (r : List Hit) (line : Nat),
     s.calm → s.me.guarded g = true → d.plain = true → a.plain = true → s.mem.wf = true → s.me.stores = [] →
     (s.me.src a).toNat / 2 ^ 56 = 0 → (s.me.src a).toNat % 8 = 0 →
     check rRW (.v (s.me.src a).toNat) 8 (s.issue 4) = .ok (h :: r, s1) → Claims.here s (h :: r) → Claims.clear s (h :: r) →
     line = lineOf (cellOf s.me.job.toNat h) →
     (∀ s2, s.me.resv = none → s.resvOf line = none → s.admits s.me.core line = true →
       (s.queues.input.any fun x => s.home (x.1 * 256) == s.me.core) = false →
       check rRW (.v (s.me.src a).toNat) 8 (({ s1 with me := { s1.me with l1 := s1.me.l0 } }).hold line) = .ok (h :: r, s2) →
       s.home (cellOf s.me.job.toNat h) = s.me.core → s.imageCore s.me.core = true →
       ∃ (t : State) (p : Pending), exec (.lrw d a g la) s = .next t ∧ t.me.resv = some line ∧ t.me.pend = [p] ∧
         p.src = .value [toW (leNat ((Claims.cells s (h :: r)).map s.mem.get))] ∧ t.me.pc = s.me.pc + 4 ∧
         t.queues.resv = s.queues.resv ++ [{ line, holder := some (s.me.sid.toNat % 65536), waiters := [] }] ∧
         t.mem = s.mem ∧ p.dsts = [d].filter Reg.kept) ∧
     (s.me.resv = some line →
       (Claims.unlocked s (h :: r) → Claims.logRoom s 2 →
         ∃ (t : State) (m : Memory), exec (.scv d a g la) s = .next t ∧ t.me.resv = none ∧ Claims.logOnly s m ∧
           t.mem = m.setAll ((Claims.cells s (h :: r)).zip (leBytes 8 (s.me.src d).toNat)) ∧ t.me.pc = s.me.pc + 4 ∧
           t.me.pend = []) ∧
       (∃ t : State, exec (.relq a g la) s = .next t ∧ t.me.resv = none ∧ t.mem = s.mem ∧ t.me.pc = s.me.pc + 4 ∧
         t.me.pend = []))) ∧
  ((∀ (s s1 : State) (p : Pending) (hs : List Hit) (ws : List Nat) (ea : Word), s.arg.flag = false →
     s.resvOf s.arg.n = some { line := s.arg.n, holder := none, waiters := s.me.sid.toNat % 65536 :: ws } →
     s.lrwTag (s.me.sid.toNat % 65536) s.arg.n = none →
     s.me.pend = [p] → p.src = .reserve s.arg.n ea → s.me.stores = [] →
     atomicHits (.v ea.toNat) (({ s with me := { s.me with pend := [] } }).hold s.arg.n) = .ok (hs, s1) →
     Claims.here s hs →
     ∃ t, exec .reservationGrant s = .next t ∧ t.me.resv = some s.arg.n ∧
       t.me.pend = [{ p with src := .value [toW (leNat ((Claims.cells s hs).map s.mem.get))] }] ∧ t.mem = s.mem) ∧
   (∀ (s : State) (p : Pending) (v : Word) (i : Fin 6), s.arg.flag = false → s.me.pend = [p] → p.src = .value [v] →
     p.dsts = [.o i] → p.lands = [0] →
     exec .resultArrival s = .next { s with me := { s.me with pend := [], l0 := v, o := s.me.o.set i v } }))

/-- R135, R340, R338: FENCE of an acquiring kind or of strand scope completes; another completes once no load is open and no
store queued, and at span scope only when no remote access is unacknowledged and none has failed. It changes nothing but pc;
of span scope and an acquiring kind it clears the valid bits of the job's mode-C lines (R284). A queued store, or at span
scope an unacknowledged access, holds it; a failed one is reported with the memory-error trap, detail 1 (R298). -/
def Obligations.FenceResult : Prop :=
  ∀ (sc : Scope) (k : FKind) (g : Guard) (s : State), s.calm → s.me.guarded g = true →
    ((k = .acq ∨ sc = .strand ∨ (s.me.stores = [] ∧ (sc = .span → s.unacked = false ∧ s.me.spanErr = none))) →
      exec (.fence sc k g) s = .next (
        { s.issued 4 id with fabric := Claims.acquired s (sc == .span && k != .rel) })) ∧
    (k ≠ .acq → sc ≠ .strand → s.me.stores ≠ [] → exec (.fence sc k g) s = .next s) ∧
    (k ≠ .acq → sc = .span → s.me.stores = [] →
      (s.unacked = true → exec (.fence sc k g) s = .next s) ∧
      (∀ a, s.unacked = false → s.me.spanErr = some a → exec (.fence sc k g) s = .next (s.raise 8 1 a)))

/-- R284, R298: a scalar load whose bytes lie on another device sends a request with a tag of its die and owes its registers
the answer.
R298, R26: what answers do. RESULT_ARRIVAL, finding the request with its generation, delivers that device's bytes (the access
fault where that device refuses the request: which device does stands in log 5); a timed-out load is lost, its tag's
generation moves on, and its strand takes the memory-error trap at the end of the load's window. STALE_REPLY and an answer
with no request count on the tag's die; an acknowledged store is performed at the other device, and the strand
that waits for it goes on. PACKET_AGE_DISCARD takes the answer away and is counted.
R284: a request from another device is performed at its address under the job's table here, or answered with a failure. -/
def Obligations.RemoteAccessResult : Prop :=
  (∀ (i : Instr) (x : Claims.Access) (s s1 : State) (h : Hit) (r : List Hit) (dev k : Nat),
     Claims.load s.me i = some x → s.calm → s.me.guarded x.guard = true → x.formed = true →
     check rR x.addr x.size (s.issue x.len) = .ok (h :: r, s1) → Claims.clear s (h :: r) →
     (∀ y ∈ h :: r, (∃ va, y.loc = .remote dev va) ∧ y.so = h.so) → (h :: r).any (Hit.open s) = false → dev < 0xF000 →
     s.findTag (coreDie s.me.core * 4096) 4096 0 = some k →
     ∃ (t : State) (q : Req) (p : Pending) (vas : List Nat), exec i s = .next t ∧
       vas = (h :: r).filterMap (fun y => y.away?.map Prod.snd) ∧
       q = { die := coreDie s.me.core, sid := s.me.sid.toNat, gen := s.gen k, dev, job := s.me.job.toNat
             va := vas.headD 0, vas, kind := 0, t := s.clk, bytes := [], rep := [], n := 0 } ∧
       t.fabric.reqs = SMap.put k q s.fabric.reqs ∧
       t.me.pend = [p] ∧ p.left = x.la ∧ p.dsts = x.regs.filter Reg.kept ∧
       p.src = .fetch [some { runs := [{ tval := x.addr.tval, dev, vas, rep := [], rd := .asked k }] }] (.scalar x.sx) ∧
       ({ ev := .resultArrival, arg := { sid := s.me.sid.toNat, n := k, m := s.gen k, flag := true } } : Due) ∈ t.agenda ∧
       t.mem = s.mem ∧ t.me.pc = s.me.pc + BitVec.ofNat 48 x.len) ∧
  ((∀ (s : State) (q : Req) (p : Pending) (u : Run) (sx : Bool) (i : Fin 6), s.arg.flag = true →
     SMap.find s.arg.n s.fabric.reqs = some q → q.gen = s.arg.m → q.kind = 0 → q.rep = [] → q.sid = s.me.sid.toNat →
     s.me.pend = [p] → p.src = .fetch [some { runs := [u] }] (.scalar sx) → u.rd = .asked s.arg.n → p.own = 1 →
     p.dsts = [.o i] → p.lands = [0] → (∀ k ∈ q.keys, s.badAt k = false) →
     ∃ (t : State) (v : Word), exec .resultArrival s = .next t ∧ v = extend sx q.keys.length (leNat (s.mem.getAll q.keys)) ∧
       t.fabric.reqs = SMap.del s.arg.n s.fabric.reqs ∧ t.mem = s.mem ∧
       (if Config.farRefuses s.ticks then t.me.pend = [p.fail (.fault 5 0 u.tval)] ∧ t.me.o = s.me.o
        else t.me.pend = [] ∧ t.me.l0 = v ∧ t.me.o = s.me.o.set i v)) ∧
   (∀ (s : State) (q : Req) (p : Pending) (u : Run) (how : Shape), SMap.find s.arg.n s.fabric.reqs = some q → q.kind = 0 →
     q.sid = s.me.sid.toNat → s.me.pend = [p] → p.src = .fetch [some { runs := [u] }] how → u.rd = .asked s.arg.n →
     ∃ t, exec .requestTimeout s = .next t ∧
       t.me.pend = [{ p with src := .fetch [some { runs := [{ u with rd := .lost 8 0 }] }] how }] ∧
       t.fabric.reqs = SMap.del s.arg.n s.fabric.reqs ∧
       t.fabric.gens = SMap.put s.arg.n ((q.gen + 1) % 16) s.fabric.gens) ∧
   (∀ (s : State) (p : Pending) (u : Run) (sx : Bool) (cls detail : Nat), s.arg.flag = false → s.me.pend = [p] →
     p.src = .fetch [some { runs := [u] }] (.scalar sx) → u.rd = .lost cls detail →
     exec .resultArrival s = .next { s with me := { s.me with pend := [p.fail (.fault cls detail u.tval)] } })) ∧
  ((∀ s : State, exec .staleReply s = .next (s.count (s.arg.n / 4096 % 8) 0xFE010)) ∧
   (∀ s : State, (∀ q, SMap.find s.arg.n s.fabric.reqs = some q → q.gen ≠ s.arg.m) →
     exec .acknowledgementArrival s = .next (s.count (s.arg.n / 4096 % 8) 0xFE010)) ∧
   (∀ (s : State) (q : Req) (p : Pending), SMap.find s.arg.n s.fabric.reqs = some q → q.gen = s.arg.m → q.kind = 1 →
     q.rep = [] → q.sid = s.me.sid.toNat → s.me.pend = [p] → p.src = .acks [s.arg.n] → (∀ k ∈ q.keys, s.badAt k = false) →
     exec .acknowledgementArrival s = .next { s with
       me := if Config.farRefuses s.ticks then { s.me with pend := [], storeErr := some (s.me.storeErr.getD (5, toW q.va)) }
             else { s.me with pend := [] }
       mem := if Config.farRefuses s.ticks then s.mem else s.mem.setAll (q.keys.zip q.bytes)
       fabric := { s.fabric with reqs := SMap.del s.arg.n s.fabric.reqs } }) ∧
   (∀ s : State, exec .packetAgeDiscard s = .next
     ({ s with agenda := s.agenda.filter fun d => !(d.arg.flag && d.arg.n == s.arg.n) }.count 0 0xFE018))) ∧
  ((∀ (s : State), arrivingAll s s.arg.job (arrivingRight s.arg.kind)
       ((List.range s.arg.size).map fun i => (s.arg.va + i) % 2 ^ 56) = none →
     exec .remoteAccessRequest s = .next { s with fabric := { s.fabric with out := s.fabric.out ++
       [({ dev := s.arg.dev, job := s.arg.job, kind := 10, a := s.arg.n, b := 1, bytes := [] } : Packet)] } }) ∧
   (∀ (s : State) (hs : List Hit) (ks : List Nat), s.arg.kind = 0 ∨ s.arg.kind = 1 →
     arrivingAll s s.arg.job (arrivingRight s.arg.kind)
       ((List.range s.arg.size).map fun i => (s.arg.va + i) % 2 ^ 56) = some hs → ks = hs.map (cellOf s.arg.job) →
     (∀ k ∈ ks, s.badAt k = false ∧ s.locked k = false) →
     exec .remoteAccessRequest s = .next { s with
       mem := if s.arg.kind = 0 then s.mem else s.mem.setAll (ks.zip s.arg.bs), tier := (s.counted hs).tier
       fabric := { s.fabric with out := s.fabric.out ++
         [({ dev := s.arg.dev, job := s.arg.job, kind := 10, a := s.arg.n, b := 0
             bytes := if s.arg.kind = 0 then s.mem.getAll ks else [] } : Packet)] } }))

/-- R97 to R108: a line instruction of a compute core with k registers computes every lane (or lane pair) of its
destination from the lanes of its sources, and moves pc past itself; nothing else changes.
R104, R107, R108: the line instructions with a scalar operand. VBCAST copies the scalar to every lane (C32: its
halves to even and odd lanes), VGET takes the lane b names, VPUT replaces it, VRND rounds every lane by the generator,
the reductions write their scalar with the shift of R65. -/
def Obligations.LineResult : Prop :=
  (∀ (i : Instr) (n : Nat) (g : Guard) (d a b : Fin 8) (s : State), s.calm → Claims.compute s → s.me.guarded g = true →
     (∀ f, Claims.line1 i = some (g, .k d, .k a, f) →
       exec i s = .next (s.issued 4 fun t => { t with k := t.k.set d (f t.k[a]) })) ∧
     (∀ f, Claims.line2 i = some (n, g, .k d, .k a, .k b, f) →
       exec i s = .next (s.issued n fun t => { t with k := t.k.set d (f t.k[a] t.k[b]) })) ∧
     (∀ f, Claims.line3 i = some (n, g, .k d, .k a, .k b, f) →
       exec i s = .next (s.issued n fun t =>
         { t with k := t.k.set d (Vector.ofFn fun j => f t.k[a][j] t.k[b][j] t.k[d][j]) }))) ∧
  (∀ (d k : Fin 8) (r a b : Reg) (ty : Ty) (g : Guard) (s : State), s.calm → Claims.compute s → s.me.guarded g = true →
     r.plain = true → a.plain = true → b.plain = true →
     exec (.vbcast (.k d) a ty g) s = .next (s.issued 4 fun t => { t with k := t.k.set d (Vector.ofFn fun i =>
       if ty = 15 ∧ i.val % 2 = 1 then (t.src a >>> 32).setWidth 32 else (t.src a).setWidth 32) }) ∧
     exec (.vget r (.k k) b ty g) s = .next (s.issued 4 fun t => t.result r (vgetW ty t.k[k] (t.src b))) ∧
     exec (.vput (.k d) a b ty g) s = .next (s.issued 4 fun t =>
       { t with k := t.k.set d (vputL ty t.k[d] (t.src a) (t.src b)) }) ∧
     exec (.vrnd (.k d) (.k k) b ty g) s = .next (s.issued 4 fun t => { t with k := t.k.set d (Vector.ofFn fun i =>
       if ty = 12 then vrndF t.k[k][i] (t.src b) else vrnd t.k[k][i] (t.src b)) }) ∧
     (∀ i f, Claims.lineReduce i = some (g, r, .k k, f) → exec i s = .next (s.issued 4 fun t => t.result r (f t.k[k]))))

/-- R21, R98, R113: the same line instructions with stream operands. A t source pops a line of elements widened to
their lane forms, a t destination is pushed a line of elements narrowed to its type; sources are read in order, then
the old destination, then the destination is written. -/
def Obligations.LineOperandForms : Prop :=
  ∀ (i : Instr) (n : Nat) (g : Guard) (d a b : LReg) (x y z : Line) (s s1 s2 s3 s4 : State),
    s.calm → Claims.compute s → s.me.guarded g = true → rdLine a (s.issue n) = .ok (x, s1) →
    (∀ f, n = 4 → Claims.line1 i = some (g, d, a, f) → wrLine d (f x) s1 = .ok ((), s2) → exec i s = .next s2) ∧
    (∀ f, Claims.line2 i = some (n, g, d, a, b, f) → rdLine b s1 = .ok (y, s2) → wrLine d (f x y) s2 = .ok ((), s3) →
      exec i s = .next s3) ∧
    (∀ f, Claims.line3 i = some (n, g, d, a, b, f) → rdLine b s1 = .ok (y, s2) → rdLineOld d s2 = .ok (z, s3) →
      wrLine d (Vector.ofFn fun j => f x[j] y[j] z[j]) s3 = .ok ((), s4) → exec i s = .next s4) ∧
    (∀ (r : Reg) (f : Line → Word), n = 4 → Claims.lineReduce i = some (g, r, a, f) → wr r (f x) s1 = .ok ((), s2) →
      exec i s = .next s2) ∧
    (∀ (r c : Reg) (ty : Ty) (v : Word), n = 4 → i = .vget r a c ty g → rd c s1 = .ok (v, s2) →
      wr r (vgetW ty x v) s2 = .ok ((), s3) → exec i s = .next s3)

/-- R109, R111, R105: VLD and VGATH whose elements are checked and lie in this device load them in element order into
the lanes, inactive gather elements giving 0.
R109, R111, R126: VST and VSCAT write the active elements at the checked cells, in element order; every other byte
reads as before but for the dirty log, and no register changes. -/
def Obligations.LineMemoryResult : Prop :=
  (∀ (i : Instr) (g : Guard) (d : Fin 8) (ty : Ty) (base : Word) (os : List (Option Int)) (rs : List Reg) (as : List Addr)
     (hss : List (List Hit)) (s s1 : State),
     Claims.lineLd s.me i = some (g, d, ty, base, os, rs) → s.calm → Claims.compute s → s.me.guarded g = true →
     rs.all Reg.plain = true → lineAddrs base (elemSize ty) (os.filterMap id) (s.issue 4) = .ok (as, s.issue 4) →
     checkElems rR (elemSize ty) as (s.issue 4) = .ok (hss, s1) → Claims.here s hss.flatten → Claims.clear s hss.flatten →
     ∃ t, exec i s = .next t ∧ Claims.accessed s t s.mem (fun u => { u with
       k := u.k.set d (lineOfList (Claims.loaded ty os (hss.map fun hs => leNat ((Claims.cells s hs).map s.see)))) }) 4) ∧
  (∀ (i : Instr) (g : Guard) (d : Fin 8) (ty : Ty) (base : Word) (os : List (Option Int)) (rs : List Reg) (as : List Addr)
     (hss : List (List Hit)) (s s1 : State),
     Claims.lineSt s.me i = some (g, d, ty, base, os, rs) → s.calm → Claims.compute s → s.me.guarded g = true →
     rs.all Reg.plain = true → s.mem.wf = true → s.me.stores = [] → Claims.logRoom s 256 →
     lineAddrs base (elemSize ty) (os.filterMap id) (s.issue 4) = .ok (as, s.issue 4) →
     checkElems rW (elemSize ty) as (s.issue 4) = .ok (hss, s1) → Claims.here s hss.flatten → Claims.clear s hss.flatten →
     Claims.unlocked s hss.flatten → (∀ k ∈ Claims.cells s hss.flatten, ¬ Claims.inLog s k) →
     ∃ t, exec i s = .next t ∧ Claims.accessed s t t.mem id 4 ∧
       Claims.wrote s t.mem ((hss.zip (gatherActive os (lineElems ty s.me.k[d]))).flatMap fun x =>
         (Claims.cells s x.1).zip (leBytes (elemSize ty) x.2)))

/-- R112, R114, R115: STRM binds a stream register at position 0 from a, b and the extension registers, with the type's
alignment and 1 to 3 dimensions; STRE ends the binding; both here where everything the strand pushed through the binding it
replaces or ends is performed. R113: an element fetched ahead joins the stream's buffer and leaves its position alone; one that cannot be
read is kept for the pop that needs it. -/
def Obligations.StreamBinding : Prop :=
  (∀ (i : Fin 4) (g : Guard) (s : State), s.calm → Claims.compute s → s.me.guarded g = true →
    (∀ st, s.me.t[i] = some st → st.out = true → s.storesDone = true) →
    (∀ (a b : Reg) (ty : Ty), a.plain = true → b.plain = true →
      wbits (s.me.src b) 1 2 ≠ 0 → (s.me.src a).toNat % elemSize ty = 0 →
      exec (.strm i a b ty g) s = .next (s.issued 4 fun t => { t with t := t.t.set i (some {
        base := t.src a, ty, out := (t.src b).getLsbD 0, dims := wbits (t.src b) 1 2
        c := #v[wbits t.e[0] 0 32, wbits t.e[2] 0 32, wbits t.e[4] 0 32], s := #v[t.e[1], t.e[3], t.e[5]], pos := 0
        ahead := [] }) })) ∧
    exec (.stre i g) s = .next (s.issued 4 fun t => { t with t := t.t.set i none })) ∧
  (∀ (i : Fin 4) (st : Stream) (s : State), s.arg.n = i.val → s.me.t[i] = some st → s.me.core = s.me.homeCore →
    st.out = false → st.pos + st.ahead.length < st.total → (st.ahead.length + 1) * elemSize st.ty ≤ 512 →
    (∀ x s1, fetchAhead st (st.pos + st.ahead.length) s = .ok (x, s1) →
      exec .streamFetchAhead s = .next { s1 with me := { s1.me with
        t := s1.me.t.set i (some { st with ahead := st.ahead ++ [x] }) } }) ∧
    (∀ cls detail tv, fetchAhead st (st.pos + st.ahead.length) s = .error (.trap cls detail tv) →
      exec .streamFetchAhead s = .next { s with me := { s.me with
        t := s.me.t.set i (some { st with ahead := st.ahead ++ [.lost cls detail tv] }) } }))

/-- R147, R148, R151, R46: LDF reads an element of a field of this device, the planes its plane count uses, or all of them
where those leave an infinity and a NaN undecided (log 24), and writes d with the value of Table 8.3; STF writes the code
of d's value, its leading planes or all of them, at the element's place.
R149, R150: the line forms of field access. VLDF reads the elements the list in e0 names, padding giving 0 (here where the
planes of its plane count decide); VSTF writes them from the lanes; PACC, PAXPY and PEMA replace an element by x + g,
x + e1*g, e1*x + (1 - e1)*g, here for the list of no entries, which names the one element at b. -/
def Obligations.FieldResult : Prop :=
  (∀ (d a b : Reg) (c : Fin 4) (md : Bool) (g : Guard) (la : Look) (f : View) (key idx n : Nat) (hs : List Hit) (s s1 : State),
     s.calm → s.me.guarded g = true → d.plain = true → a.plain = true → b.plain = true →
     Claims.planesFit f.o (c.val + 1) md → idx = (s.me.src b).toNat → idx < 2 ^ f.o.bitsN → f.o.isPad idx = false →
     (Claims.field s (s.me.src a) .read key f → n = f.o.uses (c.val + 1) md →
       checkElem rR f n idx (s.issue 4) = .ok (hs, s1) → Claims.here s hs → Claims.clear s hs →
       (f.o.undecided (c.val + 1) n ((Claims.cells s hs).map s.see) = false →
         ∃ t, exec (.ldf d a b c md g la) s = .next t ∧ Claims.accessed s t s.mem (fun u => u.result d
           (ldValue f.o (c.val + 1) md (Claims.fieldCode s f idx ((Claims.cells s hs).map s.see)))) 4) ∧
       (∀ hs' s2, f.o.undecided (c.val + 1) n ((Claims.cells s hs).map s.see) = true →
         checkElem rR f f.o.planes idx (s1.counted hs) = .ok (hs', s2) → Claims.here s hs' →
         ∃ t, exec (.ldf d a b c md g la) s = .next t ∧ Claims.accessed s t s.mem (fun u => u.result d
           (ldValue f.o (c.val + 1) md (Claims.fieldCode s f idx ((Claims.cells s hs').map s.see)))) 4)) ∧
     (Claims.field s (s.me.src a) .write key f → isQ4 f.o.fmt = false →
       s.mem.wf = true → s.me.stores = [] → Claims.logRoom s 2 →
       checkElem rW f (if md then f.o.planes else c.val + 1) idx (s.issue 4) = .ok (hs, s1) →
       Claims.here s hs → Claims.clear s hs → Claims.unlocked s hs →
       ∃ t, exec (.stf d a b c md g la) s = .next t ∧ Claims.accessed s t t.mem id 4 ∧
         Claims.wrote s t.mem ((Claims.cells s hs).zip (storeBytes f.o (c.val + 1) md (stCode f.o 64 (s.me.src d)))))) ∧
  (∀ (a b : Reg) (k : Fin 8) (c : Fin 4) (md : Bool) (la : Look) (f : View) (key n : Nat) (is : List Nat)
     (hss : List (Option (List Hit))) (s s1 : State),
     s.calm → Claims.compute s → a.plain = true → b.plain = true →
     lineIndices f.o (s.me.src b) (s.issue 4) = .ok (is, s.issue 4) →
     Claims.here s (lanesHits hss) → Claims.clear s (lanesHits hss) →
     (Claims.field s (s.me.src a) .read key f → Claims.planesFit f.o (c.val + 1) md → wideFmt f.o.fmt = false →
       n = f.o.uses (c.val + 1) md → checkLanes rR f n is (s.issue 4) = .ok (hss, s1) →
       (∀ hs, some hs ∈ hss → f.o.undecided (c.val + 1) n ((Claims.cells s hs).map s.see) = false) →
       ∃ t, exec (.vldf a b k c md la) s = .next t ∧ Claims.accessed s t s.mem (fun u => { u with
         k := u.k.set k (lineOfList ((is.zip hss).flatMap fun x => match x.2 with
           | none => if isCplxF f.o.fmt then [0, 0] else [0]
           | some hs => ldLanes f.o (c.val + 1) md (Claims.fieldCode s f x.1 ((Claims.cells s hs).map s.see)))) }) 4) ∧
     (Claims.field s (s.me.src a) .write key f → s.mem.wf = true → s.me.stores = [] → Claims.logRoom s 128 →
       Claims.unlocked s (lanesHits hss) → (∀ k ∈ Claims.cells s (lanesHits hss), ¬ Claims.inLog s k) →
       (Claims.planesFit f.o (c.val + 1) md → wideFmt f.o.fmt = false → isQ4 f.o.fmt = false →
         checkLanes rW f (if md then f.o.planes else c.val + 1) is (s.issue 4) = .ok (hss, s1) →
         ∃ t, exec (.vstf a b k c md la) s = .next t ∧ Claims.accessed s t t.mem id 4 ∧
           Claims.wrote s t.mem (((List.range is.length).zip hss).flatMap fun x => match x.2 with
             | none => []
             | some hs => (Claims.cells s hs).zip
                 (storeBytes f.o (c.val + 1) md (stCode f.o 32 (laneSource f.o s.me.k[k] x.1))))) ∧
       (∀ (i : Instr) (op j : Nat) (hs : List Hit) (r : FV → FV → FV), Claims.optimise i = some (op, a, b, k) →
         optFmt f.o.fmt = true → is = [j] → checkLanes rW f f.o.planes is (s.issue 4) = .ok (hss, s1) → hss = [some hs] →
         r = (match op with
           | 0 => fun x y => x.add y
           | 1 => fun x y => x.add ((val32 (s.me.e[1].setWidth 32)).mul y)
           | _ => fun x y => ((val32 (s.me.e[1].setWidth 32)).mul x).add
               (((FV.fin false 1 0).add (val32 (s.me.e[1].setWidth 32)).neg).mul y)) →
         ∃ t, exec i s = .next t ∧ Claims.accessed s t t.mem id 4 ∧
           Claims.wrote s t.mem ((Claims.cells s hs).zip (f.o.codeBytes (codeOf f.o.fmt f.o.planes .rne f.o.fsat
             [r ((partsOf f.o.fmt f.o.planes (f.o.code (s.spot f j).loc ((Claims.cells s hs).map s.mem.get))).headD
                 (.fin false 0 0)) (val32 s.me.k[k][(0 : Fin 64)])]))))))

/-- R318, R323, R324, R325: SIG adds b to the word at a and CNTSET sets it, on a word of this device; every other byte
reads as before but for the dirty log, and no register changes. SIG completes once its earlier loads and, beyond the strand's
own scope, its earlier stores are performed, at span scope acknowledged (R338). -/
def Obligations.CounterWriteResult : Prop :=
  ∀ (sc : Scope) (a b : Reg) (g : Guard) (la : Look) (s s1 : State) (hs : List Hit),
    s.calm → s.me.guarded g = true → a.plain = true → b.plain = true → s.mem.wf = true →
    Claims.logRoom s 2 → Claims.wordAt rW (s.me.src a) (s.issue 4) s1 hs → Claims.clear s hs → Claims.unlocked s hs →
    s.queuedTo (Claims.cells s hs) = false →
    ((sc = .strand ∨ s.me.stores = []) → (sc = .span → s.unacked = false ∧ s.me.spanErr = none) →
      ∃ t, exec (.sig sc a b g la) s = .next t ∧ Claims.accessed s t t.mem id 4 ∧
        Claims.wrote s t.mem ((Claims.cells s hs).zip (leBytes 8 (Claims.wordVal s hs + s.me.src b).toNat))) ∧
    (∃ t, exec (.cntset a b g la) s = .next t ∧ Claims.accessed s t t.mem id 4 ∧
      Claims.wrote s t.mem ((Claims.cells s hs).zip (leBytes 8 (s.me.src b).toNat)))

/-- R320, R321: WAITC (the word is at least b) and WAITB (it has every bit of b) test the word at issue. Met, they write
0; the armed deadline that bounds them has passed: 1; both disarm it. Else they stay open. WAITT writes clk once the
time has come. ARMT arms clk + a, or disarms for 0.
R322: WAITP tests the promise's word once, when its time has come: with every bit of b there it completes, else the
promise fault (class 9) is taken with the bits that were missing. Before that time it stays open.
R320 to R322: the ends of waits. A time reached gives clk, a promise reached is tested once, a deadline passed ends
the wait it bounds with 1 and is disarmed. -/
def Obligations.WaitResult : Prop :=
  (∀ (d a b : Reg) (g : Guard) (la : Look) (s : State),
     s.calm → s.me.guarded g = true → d.plain = true → a.plain = true → b.plain = true →
     (∀ (i : Instr) (mask : Bool) (met : Bool) (hs : List Hit) (s1 : State),
       (i = .waitc d a b g la ∧ mask = false ∧ met = decide ((s.me.src b).toNat ≤ (Claims.wordVal s hs).toNat)) ∨
         (i = .waitb d a b g la ∧ mask = true ∧ met = (Claims.wordVal s hs &&& s.me.src b == s.me.src b)) →
       Claims.wordAt rR (s.me.src a) (s.issue 4) s1 hs →
       (met = true → ∃ t, exec i s = .next t ∧
         Claims.accessed s t s.mem (fun u => ({ u with armed := none } : Strand).result d 0) 4) ∧
       (∀ x, met = false → s.me.armed = some x → x.toNat ≤ s.clk.toNat → ∃ t, exec i s = .next t ∧
         Claims.accessed s t s.mem (fun u => ({ u with armed := none } : Strand).result d 1) 4) ∧
       (met = false → (∀ x, s.me.armed = some x → s.clk.toNat < x.toNat) → ∃ t, exec i s = .next t ∧
         Claims.waits s t [d] (.word (s.me.src a) (s.me.src b) mask s.me.armed) la.val)) ∧
     ((s.me.src a).toNat ≤ s.clk.toNat → exec (.waitt d a g la) s = .next (s.issued 4 fun u => u.result d s.clk)) ∧
     (s.clk.toNat < (s.me.src a).toNat → ∃ t, exec (.waitt d a g la) s = .next t ∧
       Claims.waits s t [d] (.time (s.me.src a)) la.val) ∧
     exec (.armt a g) s = .next (s.issued 4 fun u =>
       { u with armed := if s.me.src a = 0 then none else some (s.clk + s.me.src a) })) ∧
  (∀ (p a b : Reg) (g : Guard) (la : Look) (s s1 s2 : State) (h1 hs : List Hit),
     s.calm → s.me.guarded g = true → p.plain = true → a.plain = true → b.plain = true →
     Claims.wordAt rR (s.me.src a) (s.issue 4) s1 h1 →
     ((s.me.src p).toNat ≤ s.clk.toNat → Claims.wordAt rR (s.me.src a) s1 s2 hs →
       (Claims.wordVal s hs &&& s.me.src b = s.me.src b → ∃ t, exec (.waitp p a b g la) s = .next t ∧
         Claims.accessed s t s.mem id 4) ∧
       (Claims.wordVal s hs &&& s.me.src b ≠ s.me.src b → exec (.waitp p a b g 0) s =
         .next (s.raise 9 0 (s.me.src b &&& ~~~(Claims.wordVal s hs))))) ∧
     (s.clk.toNat < (s.me.src p).toNat → ∃ t, exec (.waitp p a b g la) s = .next t ∧
       Claims.waits s t [] (.promise (s.me.src p) (s.me.src a) (s.me.src b)) la.val)) ∧
  ((∀ (s : State) (p : Pending) (t : Word) (i : Fin 6), s.me.pend = [p] → p.src = .time t → t.toNat ≤ s.clk.toNat →
     Claims.owesO p i → exec .waittTimeReached s = .next { s with me := Claims.paid s.me i s.clk }) ∧
   (∀ (s s1 : State) (p : Pending) (v a b : Word) (hs : List Hit), s.me.pend = [p] → p.src = .promise v a b →
     v.toNat ≤ s.clk.toNat → s.me.stores = [] →
     Claims.wordAt rR a { s with me := { s.me with pend := [] } } s1 hs →
     (Claims.wordVal s hs &&& b = b → ∃ t, exec .promiseReached s = .next t ∧ t.me = { s.me with pend := [] } ∧
       t.mem = s.mem) ∧
     (Claims.wordVal s hs &&& b ≠ b → exec .promiseReached s = .next { s with me := { s.me with
       pend := [p.fail (.fault 9 0 (b &&& ~~~(Claims.wordVal s hs)))] } })) ∧
   (∀ (s : State) (p : Pending) (a b d : Word) (m : Bool), s.me.pend = [p] → p.src = .word a b m (some d) →
     s.me.armed = some d → d.toNat ≤ s.clk.toNat →
     exec .deadlineExpiry s = .next { s with me := { s.me with armed := none, pend := [{ p with src := .value [1] }] } }))

/-- R327: BARCFG with b bit 0 set configures the group of a's record and sets its bit 17; with it clear it takes the
group out, clears the bit, and gives status 2 to every strand that waits at the group. Both leave a promise of 40 cycles in
l0. Either of the two rows does what b bit 0 says (log 16).
R328, R329: BARW waits with its arrival due at the barrier unit. The unit sets the arriving core's bit; when that
completes the phase it flips the sense, takes the next phase's bits as current and owes the waiters their release,
which gives each of them 0; an arrival whose deadline has passed and that completes nothing is given 1. -/
def Obligations.BarrierResult : Prop :=
  (∀ (i : Instr) (a b : Reg) (la : Look) (key : Nat) (o : Obj) (s u : State),
     (i = .barcfgConfigure a b la ∨ i = .barcfgRelease a b la) → s.calm → 1 ≤ s.me.plv.toNat → a.plain = true →
     b.plain = true → Claims.handle s (s.me.src a) 10 .admin key o →
     u = (s.cacheEntry key).issued 4 (fun t => t.result .l0 (s.clk + 40)) →
     ((s.me.src b).getLsbD 0 = true → barRecordOk o = true →
       (s.barriers.any fun x => x.named (key / 65536) (key % 65536) ||
         (x.die == o.fld 0 8 3 && (barUnits x.form x.group).any (barUnits (o.fld 0 11 2) (o.fld 0 13 4)).contains)) = false →
       exec i s = .next (State.setObjFld { u with barriers := s.barriers ++ [{
         die := o.fld 0 8 3, form := o.fld 0 11 2, group := o.fld 0 13 4, job := key / 65536, h := key % 65536
         members := o.fld 1 0 256, sense := false, cur := 0, nxt := 0, waitCur := [], waitNxt := [], held := []
         releasing := [] }] } key 0 17 1 1)) ∧
     ((s.me.src b).getLsbD 0 = false → ∃ t, exec i s = .next t ∧ t.me = u.me ∧ t.objAt key = o.setFld 0 17 1 0 ∧ t.mem = s.mem ∧
       t.barriers = s.barriers.filter (fun x => !x.named (key / 65536) (key % 65536)) ∧
       ∀ x, s.barrier? (key / 65536) (key % 65536) = some x → ∀ w ∈ x.waitCur ++ x.waitNxt ++ x.held, ∀ v p dl,
         s.strand? w.1 = some v → v.pend = [p] → p.src = .barrier (key / 65536) (key % 65536) dl →
         ∃ v', t.strand? w.1 = some v' ∧ v'.pend = [{ p with src := .value [2] }])) ∧
  ((∀ (d a : Reg) (g : Guard) (la : Look) (key : Nat) (o : Obj) (x : Barrier) (s : State), s.calm →
     s.me.guarded g = true → d.plain = true → a.plain = true → s.me.stores = [] →
     Claims.handle s (s.me.src a) 10 .call key o →
     s.barrier? (key / 65536) (key % 65536) = some x → coreDie s.me.core = x.die → coreNo s.me.core < 16 →
     nbit x.members (barBit s.me.core) = true →
     ∃ t, exec (.barw d a g la) s = .next t ∧
       Claims.waits s t [d] (.barrier (key / 65536) (key % 65536) s.me.armed) la.val ∧
       t.agenda = s.agenda ++ [{ ev := .barrierArrival, arg :=
         { sid := s.me.sid.toNat, job := key / 65536, h := key % 65536 } }] ∧ t.barriers = s.barriers) ∧
   (∀ (s : State) (x : Barrier) (p : Pending) (bit : Nat) (dl : Option Word) (full : Bool),
     s.barrier? s.arg.job s.arg.h = some x → s.me.pend = [p] → p.src = .barrier s.arg.job s.arg.h dl →
     bit = barBit s.me.homeCore → nbit x.cur bit = false → x.held = [] → x.releasing = [] →
     (x.nxt &&& x.members) ≠ x.members → full = (setBit x.cur bit true &&& x.members == x.members) →
     (dl = none ∨ full = true → ∃ t, exec .barrierArrival s = .next t ∧ t.me = s.me ∧ t.mem = s.mem ∧
       t.barrier? s.arg.job s.arg.h = some (
         if full then
           { x with sense := !x.sense, cur := x.nxt, nxt := 0, waitCur := x.waitNxt, waitNxt := []
                    releasing := x.waitCur.map Prod.fst ++ [s.me.sid.toNat % 65536] }
         else
           { x with cur := setBit x.cur bit true, waitCur := x.waitCur ++ [(s.me.sid.toNat % 65536, bit)] }) ∧
       (full = true → t.agenda = s.agenda ++ [{ ev := .barrierRelease, arg := { job := s.arg.job, h := s.arg.h } }])) ∧
     (∀ d, dl = some d → d.toNat ≤ s.clk.toNat → full = false →
       ∃ t, exec .barrierArrival s = .next t ∧ t.me.pend = [{ p with src := .value [1] }] ∧ t.mem = s.mem)) ∧
   (∀ (s : State) (x : Barrier), s.barrier? s.arg.job s.arg.h = some x →
     ∃ t, exec .barrierRelease s = .next t ∧ t.mem = s.mem ∧
       t.barrier? s.arg.job s.arg.h = some { x with releasing := [] } ∧
       ∀ w ∈ x.releasing, ∀ v p dl, s.strand? w = some v → v.pend = [p] → p.src = .barrier s.arg.job s.arg.h dl →
         ∃ v', t.strand? w = some v' ∧ v'.pend = [{ p with src := .value [0] }]))

/-- R215: SEND to a slot of this device with no strand gives 2, to a task of another job 3; else its entry is offered,
taken or refused by the destination's queue of 8, and accepted it completes with 0, offered again while fewer than
65,536 cycles have passed, and given up with 1 after. An offer from another device is answered with what the slot here gives.
R405, R214: the first hardware message held joins its destination's queue; a slot with no strand takes none and the message is
counted; a full queue is offered it again, behind the others. -/
def Obligations.SendResult : Prop :=
  ((∀ (d a b : Reg) (g : Guard) (la : Look) (dst : Nat) (s : State), s.calm → s.me.guarded g = true → d.plain = true →
     a.plain = true → b.plain = true → s.me.stores = [] → dst = (s.me.src a).toNat % 2 ^ 32 → dst / 65536 = s.devNo →
     (s.noStrand dst = true → exec (.send d a b g la) s = .next (s.issued 4 fun u => u.result d 2)) ∧
     (s.noStrand dst = false → s.foreign dst s.me.job.toNat = true →
       exec (.send d a b g la) s = .next (s.issued 4 fun u => u.result d 3)) ∧
     (s.noStrand dst = false → s.foreign dst s.me.job.toNat = false → ∃ t, exec (.send d a b g la) s = .next t ∧
       Claims.waits s t [d] (.send dst (Claims.entry s.me ((s.me.src b).toNat % 65536)) s.clk s.ticks none) la.val ∧
       t.agenda = s.agenda ++ [{ ev := .messageArrival, arg := { sid := s.me.sid.toNat, n := s.ticks } }])) ∧
   (∀ (s : State) (u : Strand) (p : Pending) (dst : Nat) (m : Msg) (t0 : Word), s.arg.flag = false → s.me.pend = [p] →
     p.src = .send dst m t0 s.arg.n none → s.clk.toNat < t0.toNat + 65536 → s.isHere dst = true → s.strand? dst = some u →
     ∃ t, exec .messageArrival s = .next t ∧ t.me.pend = [{ p with src := .send dst m t0 s.arg.n (some 0) }] ∧ t.mem = s.mem ∧
       (t.strand? dst).map Strand.q = some (if u.q.length < 8 then u.q ++ [m] else u.q) ∧
       t.agenda = s.agenda ++ [{ ev := .sendOfferAnswer, arg :=
         { sid := s.me.sid.toNat, n := s.arg.n, kind := if u.q.length < 8 then 0 else 1 } }]) ∧
   (∀ (s : State) (p : Pending) (dst : Nat) (m : Msg) (t0 : Word), s.arg.flag = false → s.me.pend = [p] →
     p.src = .send dst m t0 s.arg.n (some 0) →
     (s.arg.kind ≠ 1 → exec .sendOfferAnswer s = .next { s with me := { s.me with
       pend := [{ p with src := .value [BitVec.ofNat 64 s.arg.kind] }] } }) ∧
     (s.arg.kind = 1 → s.clk.toNat < t0.toNat + 65536 →
       ∃ t, exec .sendOfferAnswer s = .next t ∧ t.me.pend = [{ p with src := .send dst m t0 s.arg.n none }] ∧
         t.agenda = s.agenda ++ [{ ev := .messageArrival, arg := { sid := s.me.sid.toNat, n := s.arg.n, kind := 1 } }])) ∧
   (∀ (s : State) (p : Pending) (dst n : Nat) (m : Msg) (t0 : Word), s.me.pend = [p] → p.src = .send dst m t0 n none →
     t0.toNat + 65536 ≤ s.clk.toNat →
     exec .sendRetryLimit s = .next
       (State.count { s with me := { s.me with pend := [{ p with src := .value [1] }] } } (coreDie s.me.homeCore) 0xFE058)) ∧
   (∀ s : State, s.arg.flag = true → ∃ t b, exec .messageArrival s = .next t ∧ t.mem = s.mem ∧
     t.fabric.out = s.fabric.out ++
       [({ dev := s.arg.dev, job := s.arg.job, kind := 10, a := s.arg.m, b, bytes := [] } : Packet)] ∧
     (s.noStrand s.arg.n = true → b = 2) ∧
     (s.noStrand s.arg.n = false → s.foreign s.arg.n s.arg.job = true → b = 3) ∧
     (∀ u, s.noStrand s.arg.n = false → s.foreign s.arg.n s.arg.job = false → s.strand? s.arg.n = some u →
       b = (if u.q.length < 8 then 0 else 1) ∧ (t.strand? s.arg.n).map Strand.q =
         some (if u.q.length < 8 then u.q ++ [arrivingMsg s.arg.ws] else u.q)))) ∧
  (∀ (s : State) (x : HwMsg) (r : List HwMsg), s.queues.hw = x :: r → s.isHere x.dst = true →
     (s.noStrand x.dst = true → exec .hardwareMessageDelivery s = .next
       (State.count { s with queues := { s.queues with hw := r } } (coreDie (x.dst / 16)) 0xFE028)) ∧
     (∀ u, s.noStrand x.dst = false → s.strand? x.dst = some u → u.q.length < 8 →
       ∃ t, exec .hardwareMessageDelivery s = .next t ∧ t.queues.hw = r ∧ t.mem = s.mem ∧
         (t.strand? x.dst).map Strand.q = some (u.q ++ [x.msg])) ∧
     (∀ u, s.noStrand x.dst = false → s.strand? x.dst = some u → 8 ≤ u.q.length →
       exec .hardwareMessageDelivery s = .next
         { s with queues := { s.queues with hw := r ++ [x] },
                  agenda := s.agenda ++ [{ ev := .hardwareMessageDelivery, arg := {} }] }))

/-- R220, R222: END, with its stores performed, leaves the slot idle and counts the task in DONE of its launch. YIELD with work
waiting for its cluster and room there puts the strand's record at the tail of the cluster's queue and leaves the slot idle,
and goes on with none waiting or a message received; both in each length.
R223: SUSP waits for a message (kind 0), for the word at b to reach e0 (1) or for time b (2). Held already, it goes
on; else a strand of kind 0 parks in its slot with the start registers of its record, and one of kind 1 or 2 leaves its
record in the cluster's wait set. -/
def Obligations.TaskEndResult : Prop :=
  (∀ (s : State), s.calm → s.me.stores = [] → s.unacked = false →
     (∀ i, i = .endTask ∨ i = .compactEnd → ∃ t, exec i s = .next t ∧ t.me = Strand.fresh s.me.sid .idle 0 ∧
       (s.me.q = [] → s.me.resv = none → t.mem = s.mem) ∧ (s.me.launch? = none → t.obj = s.obj) ∧
       (∀ key, s.me.launch? = some key →
         t.objAt key = (s.objAt key).setFld 10 0 40 ((s.objAt key).fld 10 0 40 + 1))) ∧
     (∀ i n, i = .yield ∧ n = 4 ∨ i = .compactYield ∧ n = 2 → s.me.wdep = 0 → s.me.t = Vector.replicate 4 none →
       (s.me.q ≠ [] ∨ s.waitsFor (clusterOf s.me.homeCore) = false → exec i s = .next (s.issued n id)) ∧
       (s.me.q = [] → s.waitsFor (clusterOf s.me.homeCore) = true → s.taskRoom (clusterOf s.me.homeCore) = true →
         s.me.resv = none → ∃ t, exec i s = .next t ∧ t.me = Strand.fresh s.me.sid .idle 0 ∧
         Claims.joined s t (clusterOf s.me.homeCore) (recOf (s.issued n id).me s.clk)))) ∧
  (∀ (a b : Reg) (g : Guard) (s : State), s.calm → s.me.guarded g = true → a.plain = true → b.plain = true →
     s.me.wdep = 0 → s.me.t = Vector.replicate 4 none → s.me.resv = none →
     ((s.me.src a).toNat % 4 = 0 → s.me.q ≠ [] → exec (.susp a b g) s = .next (s.issued 4 id)) ∧
     ((s.me.src a).toNat % 4 = 0 → s.me.q = [] → ∃ t, exec (.susp a b g) s = .next t ∧ t.me.status = .parked true ∧
       t.me.pc = s.me.pc + 4 ∧ t.me.o = s.me.o ∧ t.me.sid = s.me.sid ∧ t.mem = s.mem ∧ t.queues = s.queues) ∧
     ((s.me.src a).toNat % 4 = 2 → s.me.q = [] → (s.me.src b).toNat ≤ s.clk.toNat →
       exec (.susp a b g) s = .next (s.issued 4 id)) ∧
     ((s.me.src a).toNat % 4 = 2 → s.me.q = [] → s.clk.toNat < (s.me.src b).toNat → s.me.stores = [] → s.unacked = false →
       (s.queues.waits.filter fun e => e.1 == clusterOf s.me.homeCore).length < 256 →
       ∃ t, exec (.susp a b g) s = .next t ∧ t.me = Strand.fresh s.me.sid .idle 0 ∧ t.mem = s.mem ∧
         t.queues.waits = s.queues.waits ++ [(clusterOf s.me.homeCore,
           { recOf (s.issued 4 id).me s.clk with wake := 2, t1 := s.me.src b, t2 := s.me.e[0] })]) ∧
     (∀ (s1 : State) (hs : List Hit), (s.me.src a).toNat % 4 = 1 → s.me.q = [] → (s.me.src b).toNat / 2 ^ 56 = 0 →
       (s.me.src b).toNat % 8 = 0 → check rR (.v (s.me.src b).toNat) 8 (s.issue 4) = .ok (hs, s1) → Claims.here s hs →
       (s.me.e[0].toNat ≤ (Claims.wordVal s hs).toNat → ∃ t, exec (.susp a b g) s = .next t ∧
         Claims.accessed s t s.mem id 4) ∧
       ((Claims.wordVal s hs).toNat < s.me.e[0].toNat → s.me.stores = [] → s.unacked = false →
         (s.queues.waits.filter fun e => e.1 == clusterOf s.me.homeCore).length < 256 →
         ∃ t, exec (.susp a b g) s = .next t ∧ t.me = Strand.fresh s.me.sid .idle 0 ∧ t.mem = s.mem ∧
           t.queues.waits = s.queues.waits ++ [(clusterOf s.me.homeCore,
             { recOf (s.issued 4 id).me s.clk with wake := 1, t1 := s.me.src b, t2 := s.me.e[0] })])))

/-- R219: SPAWN by a strand of a launch with room in its queue (b bit 2: the die's) adds one to TOTAL, queues a record of its
registers with a's pc and b's level and index, and gives 0; SPAWNH adds one to TOTAL and queues a record, with the strand's own
level and index, at the core that is home to the line at b. A cancelled launch counts the new task in TOTAL and in CANC and
gives 1. -/
def Obligations.SpawnResult : Prop :=
  ∀ (d a b : Reg) (g : Guard) (la : Look) (key q : Nat) (r r' : Rec) (s : State), s.calm → s.me.guarded g = true →
    d.plain = true → a.plain = true → b.plain = true → s.me.launch? = some key → (s.me.src a).getLsbD 0 = false →
    r = { recOf (s.issued 4 id).me s.clk with pc := (s.me.src a).setWidth 48, spawned := true } →
    r' = { r with prio := (s.me.src b).setWidth 2, tix := (s.me.src b >>> 32).setWidth 32 } →
    q = (if (s.me.src b).getLsbD 2 then 1024 + coreDie s.me.homeCore else clusterOf s.me.homeCore) →
    ((s.me.src b).toNat / 8 % 2 ^ 29 = 0 →
      (s.cancelling key = false → s.queueRoom q = true →
        ∃ t, exec (.spawn d a b g la) s = .next t ∧ t.me = (s.issued 4 fun u => u.result d 0).me ∧
          t.objAt key = Claims.spawnedIn (s.objAt key) ∧ Claims.joined s t q r') ∧
      (s.cancelling key = true → ∃ t, exec (.spawn d a b g la) s = .next t ∧
        t.me = (s.issued 4 fun u => u.result d 1).me ∧ t.objAt key = Claims.lostIn (Claims.spawnedIn (s.objAt key)) ∧
        t.queues = s.queues ∧ t.mem = s.mem)) ∧
    (∀ (s1 : State) (h : Hit) (k : Nat), (s.me.src b).toNat / 2 ^ 56 = 0 →
      check rR (.v (s.me.src b).toNat) 1 (s.issue 4) = .ok ([h], s1) → h.loc = .cell k →
      s.imageCore (s.spawnCore k) = true →
      (s.cancelling key = false → s.runRoom (s.spawnCore k) = true →
        ∃ t, exec (.spawnh d a b g la) s = .next t ∧ t.me = (s.issued 4 fun u => u.result d 0).me ∧ t.mem = s.mem ∧
          t.objAt key = Claims.spawnedIn (s.objAt key) ∧ t.queues.run = s.queues.run ++ [(s.spawnCore k, .spawn r)]) ∧
      (s.cancelling key = true → ∃ t, exec (.spawnh d a b g la) s = .next t ∧
        t.me = (s.issued 4 fun u => u.result d 1).me ∧ t.objAt key = Claims.lostIn (Claims.spawnedIn (s.objAt key)) ∧
        t.queues = s.queues ∧ t.mem = s.mem))

/-- R224, R229: MIGR to the core that is home to the line at a: there already, d takes the strand's place; else the
strand leaves with its place owed to d. HOME of a strand abroad sends it back, and does nothing at home.
R225: a packet that comes home takes its own slot, any other joins the run queue of the core it reaches; R237: a strand that
is to end goes back and its ending goes on. -/
def Obligations.MigrationResult : Prop :=
  (∀ (d a : Reg) (g : Guard) (la : Look) (s s1 : State) (h : Hit) (k : Nat), s.calm → s.me.guarded g = true →
    d.plain = true → a.plain = true → (s.me.src a).toNat / 2 ^ 56 = 0 →
    check rR (.v (s.me.src a).toNat) 1 (s.issue 4) = .ok ([h], s1) → h.loc = .cell k → s.imageCore (s.home k) = true →
    (s.home k = s.me.core → ∃ t, exec (.migr d a g la) s = .next t ∧ t.mem = s.mem ∧
      t.me = (s.issued 4 fun u => u.result d ((s.sidOf s.me.core s.me.slot).setWidth 64)).me) ∧
    (s.home k ≠ s.me.core → ∃ t, exec (.migr d a g la) s = .next t ∧ t.me.status = .transit (s.home k) 0 ∧
      Claims.waits s t [d] .arrival 0 ∧ t.agenda = s.agenda ++
        [{ ev := .migrationArrival, arg := { sid := s.me.sid.toNat, core := s.home k, n := 0 } }])) ∧
  (∀ (g : Guard) (la : Look) (s : State), s.calm → s.me.guarded g = true →
    exec (.home g la) s = .next (s.issued 4 id)) ∧
  (∀ (g : Guard) (la : Look) (s : State), s.me.stay = false → s.me.pend = [] → s.me.core ≠ s.me.homeCore →
    s.me.guarded g = true → ∃ t, exec (.home g la) s = .next t ∧ t.me.status = .transit s.me.homeCore 5 ∧
      t.me.pc = s.me.pc + 4 ∧ t.mem = s.mem) ∧
  (∀ (s u : State) (c n : Nat), s.arg.flag = false → s.me.status = .transit c n →
    u = { s with me := { s.me with
      core := s.me.homeCore, slot := s.me.sid.toNat % 16, status := .ready, stay := false, lastIssue := s.clk } } →
    (s.me.doom = none → n = 5 → exec .migrationArrival s = .next u) ∧
    (s.me.doom = none → n ≠ 5 → s.runRoom c = true → ∃ t, exec .migrationArrival s = .next t ∧ t.me = s.me ∧
      t.queues.run = s.queues.run ++ [(c, .strand (s.me.sid.toNat % 65536))]) ∧
    (s.me.doom.isSome = true → exec .migrationArrival s = .next u.endDoomed))

/-- R241, R225: a core's free slot takes the oldest entry of its run queue, a strand that has come there or a spawned record,
and with none the first record of the highest level that waits for its cluster; a record that has waited more than 1,024
cycles moves up a level; an entry of the wait set whose time has come joins its cluster's queue. -/
def Obligations.SlotFillResult : Prop :=
  (∀ (s : State) (rest : List (Nat × RunEntry)) (slot : Nat), s.serving s.arg.core = true → s.freeSlot s.arg.core = some slot →
    (∀ r : Rec, s.queues.run = (s.arg.core, .spawn r) :: rest →
      s.me.sid.toNat % 65536 ≠ (s.sidOf s.arg.core slot).toNat % 65536 →
      ∃ t u, exec .slotFill s = .next t ∧ t.queues.run = rest ∧ t.me = s.me ∧
        t.strand? (s.sidOf s.arg.core slot).toNat = some u ∧ u.pc = r.pc ∧ u.o = r.o ∧ u.tix = r.tix ∧ u.job = r.job ∧
        u.lrec = r.lrec ∧ u.status = .ready ∧ u.plv = 0) ∧
    (s.queues.run = (s.arg.core, .strand (s.me.sid.toNat % 65536)) :: rest → s.me.pend = [] →
      ∃ t, exec .slotFill s = .next t ∧ t.queues.run = rest ∧ t.mem = s.mem ∧
        t.me = { s.me with core := s.arg.core, slot, status := .ready, lastIssue := s.clk })) ∧
  (∀ (s : State) (r : Rec) (core slot : Nat) (rest : List (Nat × Rec)), s.serving s.arg.core = true →
    s.queues.run = [] → s.queues.die = [] → s.queues.ring = [] → s.queues.task = (clusterOf s.arg.core, r) :: rest →
    r.prio = 3 → s.roomiest (clusterOf s.arg.core) = some core → s.freeSlot core = some slot →
    s.me.sid.toNat % 65536 ≠ (s.sidOf core slot).toNat % 65536 →
    ∃ t u, exec .slotFill s = .next t ∧ t.queues.task = rest ∧ t.me = s.me ∧
      t.strand? (s.sidOf core slot).toNat = some u ∧ u.pc = r.pc ∧ u.o = r.o ∧ u.status = .ready) ∧
  (∀ (s : State) (r : Rec) (c : Nat) (rest : List (Nat × Rec)), s.queues.task = (c, r) :: rest → r.prio.toNat < 3 →
    r.since.toNat + 1024 < s.clk.toNat →
    exec .recordAgeing s = .next { s with queues := { s.queues with
      task := rest ++ [(c, { r with prio := r.prio + 1, since := s.clk })] } }) ∧
  (∀ (s : State) (r : Rec) (c : Nat) (rest : List (Nat × Rec)), s.queues.waits = (c, r) :: rest → r.wake = 2 →
    r.t1.toNat ≤ s.clk.toNat → s.taskRoom c = true →
    ∃ t, exec .waitSetTimeWake s = .next t ∧ t.queues.waits = rest ∧ t.me = s.me ∧
      Claims.joined s t c { r with wake := 0, t1 := 0, t2 := 0 })

/-- R159 to R166, R176, R180, R181: an operator command whose checks pass and whose fields are local already joins the
commands in flight when no other command stands before its cluster's sequencer and the sequencer has room; nothing is read or
written yet. With another before it, or no room, its strand stays at it and presents it (R160). OPWAIT served owes l0 the status
of the command that holds its id, or of the last one that did (R188). -/
def Obligations.OperatorAccepted : Prop :=
  (∀ (i : Instr) (la : Look) (rs : List Reg) (c : Cmd) (s : State),
    Claims.operatorCmd s i = some (la, rs, c) → s.calm → Claims.engineCore s → rs.all Reg.plain = true →
    Claims.releasable s (c.fields.any s.farField) →
    (∀ p, Claims.presentable (s.issue 4) c p → s.canAccept c = true → (s.engines.offers.any fun x => x.cl == c.cl) = false →
      ∃ t, exec i s = .next t ∧ Claims.accepted s t c p ∧ t.me.pc = s.me.pc + 4) ∧
    ((s.engines.offers.any fun x => x.cl == c.cl) = true ∨ s.canAccept c = false →
      ∀ o : Offer, o = { cl := c.cl, sid := s.me.sid.toNat, pc := s.me.pc, ins := i } →
      exec i s = .next { s with engines := { s.engines with offers := (s.engines.offers.filter (· != o)) ++ [o] } })) ∧
  (∀ (a : Reg) (la : Look) (s : State), s.calm → Claims.engineCore s → a.plain = true →
    (s.engines.offers.any fun x => x.cl == clusterOf s.me.homeCore) = false →
    (∀ c, ((s.inFlight (clusterOf s.me.homeCore)).find? fun c => c.id == wbits (s.me.src a) 0 8) = some c →
      ∃ t, exec (.opwait a la) s = .next t ∧ Claims.waits s t [.l0] (.command c.seq) la.val) ∧
    (((s.inFlight (clusterOf s.me.homeCore)).find? fun c => c.id == wbits (s.me.src a) 0 8) = none →
      ∃ t, exec (.opwait a la) s = .next t ∧ Claims.waits s t [.l0] (.value [(SMap.find
        (clusterOf s.me.homeCore * 256 + wbits (s.me.src a) 0 8) s.engines.status).getD 0]) la.val))

/-- R160, R162, R175, R189, R190: the course of a command. A presented one is accepted when the sequencer has room; a ready
one starts in the order of acceptance, or retires with status 4 when a slot's tag has changed; it computes unit by unit, writes
what a unit computed in a move of its own, is to retire when its units are done, and retires: its status is there for OPWAIT,
the commands linked to it are released or fail with status 3, and its strand goes on, or takes the fault of its status. -/
def Obligations.OperatorCourse : Prop :=
  (∀ (s u : State) (la : Look) (rs : List Reg) (c : Cmd) (p : Plan) (o : Offer), s.engines.offers = [o] → o.cl = s.arg.cl →
    o.sid = s.me.sid.toNat → coreNo (o.sid / 16) ≤ 16 → u = { s with engines := { s.engines with offers := [] } } →
    Claims.operatorCmd u o.ins = some (la, rs, c) → s.calm → rs.all Reg.plain = true →
    Claims.releasable s (c.fields.any s.farField) → Claims.presentable (u.issue 4) c p → u.canAccept c = true →
    ∃ t, exec .commandAccept s = .next t ∧ Claims.accepted u t c p ∧ t.engines.offers = [] ∧ t.me.pc = s.me.pc + 4) ∧
  (∀ (s : State) (c : Cmd), s.cmd? s.arg.n = some c → c.seq = s.arg.n →
    (c.st = 0 → c.ready = true → ((s.inFlight c.cl).any fun x => x.ready && decide (x.seq < c.seq)) = false →
      (tagChanged s c = none → ∃ t, exec .commandStart s = .next t ∧ t.cmd? c.seq = some { c with st := 1 } ∧
        t.mem = s.mem ∧ t.me = s.me) ∧
      (∀ n, tagChanged s c = some n → ∃ t, exec .commandStart s = .next t ∧
        t.cmd? c.seq = some { c with st := 2, status := BitVec.ofNat 64 (4 + n * 256) } ∧ t.mem = s.mem ∧ t.me = s.me)) ∧
    (c.st = 1 → c.puts = [] → c.units s ≤ c.done → ∃ t, exec .commandStart s = .next t ∧
      t.cmd? c.seq = some { c with st := 2 } ∧ t.mem = s.mem ∧ t.me = s.me) ∧
    (∀ w t1, c.st = 1 → c.puts = [] → c.done < c.units s → badSlot s c.cl c.hi c.tags.length = none →
      s.fieldsReady c = true → c.unit c.done s = .ok (w, t1) → w.err = none →
      exec .commandStart s =
        .next ((t1.setCmd { c with done := c.done + 1, puts := w.puts }).due .commandStart { n := c.seq })) ∧
    (∀ t1, c.st = 1 → c.puts ≠ [] → badSlot s c.cl c.hi c.tags.length = none → s.fieldsReady c = true →
      c.write c.puts none s = .ok (none, t1) →
      exec .commandStart s = .next ((t1.setCmd { c with puts := [] }).due .commandStart { n := c.seq })) ∧
    (∀ p, c.st = 2 → s.me.pend = [p] → p.src = .command c.seq → ∃ t, exec .commandRetire s = .next t ∧
      SMap.find (c.cl * 256 + c.id) t.engines.status = some c.status ∧ (∀ x ∈ t.engines.cmds, x.seq ≠ c.seq) ∧
      (∀ x ∈ s.engines.cmds, x.seq ≠ c.seq → x.preds.contains c.seq = true → x.st = 0 →
        (c.status = 0 → { x with preds := x.preds.filter (· != c.seq) } ∈ t.engines.cmds) ∧
        (c.status ≠ 0 → { x with st := 2, status := 3 } ∈ t.engines.cmds)) ∧ t.mem = s.mem ∧
      (p.lands ≠ [] → t.me.pend = [{ p with src := .value [c.status] }]) ∧
      (p.lands = [] → c.status = 0 → t.me.pend = []) ∧
      (p.lands = [] → c.status.toNat % 8 = 1 → t.me.pend = [p.fail (.fault 8 0 (c.status >>> 8))]) ∧
      (p.lands = [] → c.status.toNat % 8 = 3 ∨ c.status.toNat % 8 = 4 ∨ c.status.toNat % 8 = 5 →
        t.me.pend = [p.fail (.fault 3 7 c.status)]) ∧
      (p.lands = [] → c.status.toNat % 8 = 6 → t.me.pend = [p.fail (.fault 5 0 (c.status >>> 8))])))

/-- R196 to R201, R204: an XFER whose checks pass, with both sides local, its unit free to take it and none waiting there, takes
an entry and leaves its promise in l0: 60 cycles, the latency of the farthest memory and the bytes ahead of it at 512 a cycle.
An empty one is done in 1 cycle and takes none. One its unit cannot take waits there, its promise owed to l0 (R203).
R209: XFER with transform 0xF0 lets a failed chunk of the held entry be tried again, with 0xF1 it frees the entry;
both need the supervisor level and leave 0 in l0. -/
def Obligations.XferResult : Prop :=
  (∀ (i : Instr) (a b c : Reg) (la : Look) (s : State) (x y : End) (w : XWait) (core n q bytes k : Nat),
     Claims.isXfer i a b c la → s.calm → Claims.engineCore s → a.plain = true → b.plain = true → c.plain = true →
     w = { id := s.engines.next, cl := clusterOf s.me.homeCore, a := s.me.src a, b := s.me.src b, c := s.me.src c,
           e0 := s.me.e[0], e1 := s.me.e[1], sid := s.me.sid.toNat } →
     transform w.a ≤ 4 → w.ends s = (x, y) →
     Claims.releasable s (x.far s s.me.job.toNat w.e0.toNat || y.far s s.me.job.toNat w.e0.toNat) →
     ((∀ v ∈ s.engines.xwaits, v.cl ≠ w.cl) → s.takesXfer w = true →
       xferField (xSrc w.a) .read (s.issue 4) = .ok ((), s.issue 4) →
       xferField (xDst w.a) .write (s.issue 4) = .ok ((), s.issue 4) →
       (transformOk w.a w.b w.c w.e0 x y && (transform w.a ≤ 1 || (!wide64 x.fmt && !wide64 y.fmt))) = true →
       (rangeOk w.e0.toNat x && rangeOk w.e0.toNat y && decide (y.bytesFor w.a w.e0.toNat ≤ 2 ^ 32)) = true →
       (xSrc w.a = 0 → w.b.toNat / 2 ^ 56 = 0) → (xDst w.a = 0 → w.c.toNat / 2 ^ 56 = 0) →
       leaseMiss (s.issue 4) rR w.e0.toNat x = none → leaseMiss (s.issue 4) rW w.e0.toNat y = none →
       bitmapCore w.e1 (ceilDiv (chunkCount w.a w.e0 y) 8) (s.issue 4) = .ok (core, s.issue 4) →
       xferSwaps w.a (chunkLen w.a y) x (s.issue 4) = .ok ([], s.issue 4) →
       xferSwaps w.a (chunkLen w.a y) y (s.issue 4) = .ok ([], s.issue 4) → freeEntry s w.cl = some n →
       bytes = bytesRead w.a w.e0.toNat x + bytesWritten w.a w.e0.toNat y → q = outstanding s w.cl →
       k = (if w.e0 = 0 then 1
            else 60 + Max.max (farthest s w.e0.toNat x) (farthest s w.e0.toNat y) + ceilDiv (bytes + q) 512) →
       ∃ t, exec i s = .next t ∧ t.me = (s.issued 4 fun u => u.result .l0 (s.clk + BitVec.ofNat 64 k)).me ∧ t.mem = s.mem ∧
         (chunkCount w.a w.e0 y = 0 → t.engines.xfers = s.engines.xfers) ∧
         (chunkCount w.a w.e0 y ≠ 0 → outstanding t w.cl = q + bytes ∧
           t.engines.xfers = s.engines.xfers ++ [{
             cl := w.cl, n, seq := s.engines.next, a := w.a, b := w.b, c := w.c, e0 := w.e0, e1 := w.e1
             sid := s.me.sid.toNat, job := s.me.job.toNat, launch := s.me.launch?, die := coreDie s.me.homeCore, remaps := []
             chunks := chunkCount w.a w.e0 y, done := [], spoiled := [], failed := [], bytes, core
             map := Claims.destMap s y }])) ∧
     ((s.engines.xwaits.any fun v => v.cl == w.cl) = true ∨ s.takesXfer w = false →
       ∃ (t : State) (p : Pending), exec i s = .next t ∧ t.engines.xwaits = s.engines.xwaits ++ [w] ∧ t.mem = s.mem ∧
         t.me.pc = s.me.pc + 4 ∧ t.me.pend = [p] ∧ p.src = .engine w.cl 2 w.id ∧ p.lands = [0] ∧ p.left = window la ∧
         p.holds = (la.val != 15))) ∧
  (∀ (i : Instr) (a b c : Reg) (la : Look) (s : State) (x : Xfer) (cl : Nat),
     Claims.isXfer i a b c la → s.calm → Claims.engineCore s → a.plain = true → b.plain = true → c.plain = true →
     s.me.stores = [] → s.me.plv ≠ 0 → cl = clusterOf s.me.homeCore →
     (s.me.src a).toNat % 2 ^ 48 = (s.me.src a).toNat % 32 → (s.me.src a).toNat / 2 ^ 56 = 0 →
     s.xfer? cl ((s.me.src a).toNat % 32) = some x → x.failed ≠ [] → x.cl = cl → x.n = (s.me.src a).toNat % 32 →
     (transform (s.me.src a) = 0xF0 → (s.me.src b).toNat < x.chunks →
       ∃ t, exec i s = .next t ∧ t.me = (s.issued 4 fun u => u.result .l0 0).me ∧ t.mem = s.mem ∧
         t.xfer? cl x.n = some { x with failed := x.failed.filter (· != (s.me.src b).toNat),
                                        done := x.done.filter (· != (s.me.src b).toNat) } ∧
         outstanding t cl = outstanding s cl +
           (if x.done.contains (s.me.src b).toNat then x.share (s.me.src b).toNat else 0)) ∧
     (transform (s.me.src a) = 0xF1 → ∃ t, exec i s = .next t ∧
       t.me = (s.issued 4 fun u => u.result .l0 0).me ∧ t.mem = s.mem ∧ t.xfer? cl x.n = none))

/-- R201, R203, R205 to R208: CBLD promises its 512 bytes by the latency of the farthest of them and 64 cycles, and its book is
replaced when they are read, or left as it is by an error in them; an XFER that waits at its unit is accepted when it can be; a
chunk of a transfer moves its elements and sets its bit of the bitmap, and the last one frees the entry; one that meets an error
holds the entry and tells the gaffer. -/
def Obligations.TransferCourse : Prop :=
  (∀ (a b : Reg) (la : Look) (s s1 : State) (e : Addr) (hs : List Hit) (away : Bool), s.calm → Claims.engineCore s →
    a.plain = true → b.plain = true → (s.me.src a).toNat < 8 → lineAddr (s.me.src b) 0 (s.issue 4) = .ok (e, s.issue 4) →
    e.val % 2 = 0 → check rR e 512 (s.issue 4) = .ok (hs, s1) → hs.all Hit.readable = true →
    away = (hs.any fun h => h.away?.isSome) → Claims.releasable s away →
    (s.engines.xfers.any fun t => t.cl == clusterOf s.me.homeCore && transform t.a == 4 &&
      xparam t.a % 8 == (s.me.src a).toNat) = false →
    if (away && Config.farRefuses s.ticks) = true then
      exec (.cbld a b la) s = finishLong 4 (window la) [.l0] none s (.error (.trap 5 0 (s.me.src b)))
    else ∃ t, exec (.cbld a b la) s = .next t ∧ (away = false → t.mem = s.mem) ∧ t.me.pc = s.me.pc + 4 ∧ t.me.l1 = s.me.l0 ∧
      t.me.l0 = s.clk + BitVec.ofNat 64 ((Claims.cells s hs).foldl (fun m k => Max.max m (bookLatency s k)) 0 + 64) ∧
      t.engines.loads = s.engines.loads ++ [{
        id := s.engines.next, cl := clusterOf s.me.homeCore, book := (s.me.src a).toNat, a := s.me.src a, b := s.me.src b
        keys := Claims.cells s hs, sid := s.me.sid.toNat, job := s.me.job.toNat, detached := la.val == 15 }]) ∧
  (∀ (s : State) (l : BookLoad) (p : Pending), s.engines.loads = [l] → l.id = s.arg.n → s.me.pend = [p] →
    p.src = .engine l.cl 1 l.id →
    ((∀ k ∈ l.keys, s.badAt k = false) → ∃ t, exec .codeBookLoaded s = .next t ∧ t.me = { s.me with pend := [] } ∧
      t.engines.loads = [] ∧ t.mem = s.mem ∧
      SMap.find (l.cl * 8 + l.book) t.engines.books = some (halfwords (s.mem.getAll l.keys))) ∧
    (∀ j, l.keys.findIdx? s.badAt = some j → l.detached = false → ∃ t, exec .codeBookLoaded s = .next t ∧
      t.engines.books = s.engines.books ∧ t.engines.loads = [] ∧
      t.me.pend = [p.fail (.fault 8 0 (BitVec.ofNat 64 (l.b.toNat + j / 2 * 2)))])) ∧
  (∀ (s t1 : State) (w : XWait) (p : Pending) (v : Word), w.sid = s.me.sid.toNat → s.me.pend = [p] →
    p.src = .engine w.cl 2 w.id → s.takesXfer w = true → xferAccept w s = .ok (v, t1) →
    (s.acceptXfer w).me.pend = t1.me.pend.map (fun x => if x = p then { p with src := .value [v] } else x) ∧
    (s.acceptXfer w).engines.xfers = t1.engines.xfers ∧
    (s.acceptXfer w).engines.xwaits = t1.engines.xwaits.filter fun u => u.id != w.id) ∧
  (∀ (s t1 : State) (x : Xfer) (e : End × End), s.xfer? s.arg.cl s.arg.n = some x → x.cl = s.arg.cl → x.n = s.arg.n →
    x.remaps = [] → x.chunks = 1 → x.done = [] → x.spoiled = [] → x.failed = [] → s.fieldOff x.job x.die = false →
    e = endsOf (s.viewOn x.die (some x.seq)) x.job x.a x.b x.c →
    (moveElems x.cl x.job x.a e.1 e.2 (chunkElems x.map x.a x.e0 e.2 0) s = .ok (none, t1) → t1.mem.wf = true →
      ∃ t, exec .chunkComplete s = .next t ∧ t.xfer? x.cl x.n = none ∧ t.me = t1.me ∧
        (∀ k, k ≠ lsKey x.core (wbits x.e1 0 20) → t.mem.get k = t1.mem.get k) ∧
        t.mem.get (lsKey x.core (wbits x.e1 0 20)) = t1.mem.get (lsKey x.core (wbits x.e1 0 20)) ||| 1) ∧
    (∀ r, moveElems x.cl x.job x.a e.1 e.2 (chunkElems x.map x.a x.e0 e.2 0) s = .ok (some r, t1) ∨
        (moveElems x.cl x.job x.a e.1 e.2 (chunkElems x.map x.a x.e0 e.2 0) s = .error r ∧ r.status ≠ 0 ∧ t1 = s) →
      exec .chunkComplete s =
        .next (t1.setXfer { x with spoiled := [(0, if r.status = 1 then 0 else 1, r.va, r.pa)] }))) ∧
  (∀ (s : State) (x : Xfer) (k reason va pa : Nat) (r : List (Nat × Nat × Nat × Nat)), s.xfer? s.arg.cl s.arg.n = some x →
    x.cl = s.arg.cl → x.n = s.arg.n → x.spoiled = (k, reason, va, pa) :: r →
    ∃ t, exec .chunkFailed s = .next t ∧ t.xfer? x.cl x.n = some { x with spoiled := r, failed := k :: x.failed } ∧
      (reason ≠ 0 → t.mem = s.mem) ∧ t.me = s.me ∧
      (t.queues.hw.getLast?.map fun m => (m.dst, m.msg.o)) = some (gafferSid x.cl,
        #v[toW (0x11 + x.n * 2 ^ 16 + reason * 2 ^ 21), toW k, toW va, toW (if reason = 0 then pa else 0), toW x.sid, x.a]))

/-- R272 to R276: the moves of a remap at one die's Marver. A group of which an element changes place is locked with its
frames; its new contents are read into the journal, written over its frames in one move that counts its bricks done, and the
group is let go; a group in which nothing moves is done at once. With every brick done and every Marver between groups the pass
ends, and the next one takes the new map for old; after the last the map in force is the new one and the remap is gone; a held
group is tried again. -/
def Obligations.RemapCourse : Prop :=
  (∀ (s : State) (r : Remap) (m : Mover) (o : Obj), s.marverNext s.arg.die = some (r, m) → m.die = s.arg.die →
    s.objAt r.key = o →
    (∀ b, m.phase = 0 → o.nextBrick r m = some b →
      (o.moves (o.group b) = false → ∃ t, exec .remapGroupMove s = .next t ∧ t.mem = s.mem ∧ t.obj = s.obj ∧ t.me = s.me ∧
        t.remaps = s.remaps.map fun x => if x.ticket == r.ticket then
          { r with done := r.done ++ o.group b }.setMover { m with cursor := brickPlace b + 1 } else x) ∧
      (∀ ws, o.moves (o.group b) = true → s.groupWrites r.key o ((o.group b).flatMap o.brickBytes) = .ok ws →
        s.framesBusy (rangesOf (ws.map fun x => x.1)) = false → (∀ x ∈ ws, s.badAt x.1 = false) →
        ∃ t, exec .remapGroupMove s = .next t ∧ t.mem = s.mem ∧ t.obj = s.obj ∧ t.me = s.me ∧
          t.remaps = s.remaps.map fun x => if x.ticket == r.ticket then r.setMover { m with
            cursor := brickPlace b + 1, phase := 1, bricks := o.group b, frames := rangesOf (ws.map fun x => x.1) } else x)) ∧
    (∀ ws, m.phase = 1 → s.groupWrites r.key o (m.bricks.flatMap o.brickBytes) = .ok ws →
      exec .remapGroupMove s = .next (s.setRemap (r.setMover { m with
        phase := 2, journal := ws.map fun x => (x.1, s.mem.get x.2.1) }))) ∧
    (m.phase = 2 → s.framesBusy m.frames = false → ∃ t, exec .remapGroupMove s = .next t ∧
      t.mem = s.mem.setAll m.journal ∧ t.obj = s.obj ∧ t.me = s.me ∧
      t.remaps = s.remaps.map fun x => if x.ticket == r.ticket then
        { r with done := r.done ++ m.bricks }.setMover { m with phase := 3 } else x) ∧
    (m.phase = 3 → exec .remapGroupMove s = .next (s.setRemap (r.setMover
      { die := m.die, cursor := m.cursor, phase := 0, bricks := [], frames := [], journal := [], held := none })))) ∧
  (∀ (s : State) (r : Remap) (o : Obj), s.ticket? s.arg.n = some r → s.objAt r.key = o → s.passOver r = true →
    (r.pass + 1 < r.passes.length → ∃ t, exec .remapPassEnd s = .next t ∧ t.mem = s.mem ∧ t.me = s.me ∧
      t.ticket? r.ticket = some { r with pass := r.pass + 1, done := [], movers := r.movers.map fun m => Mover.fresh m.die } ∧
      t.objAt r.key = ((o.setMapAt 19 (o.mapAt 25)).setMapAt 25 (r.mapAfter (r.pass + 1))).setFld 31 40 8 (r.pass + 1)) ∧
    (r.passes.length ≤ r.pass + 1 → s.remaps = [r] → ∃ t, exec .remapCommit s = .next t ∧ t.remaps = [] ∧ t.mem = s.mem ∧
      t.objAt r.key = ((o.setMapAt 1 (o.mapAt 25)).setFld 0 43 1 0).setFld 19 0 832 0)) ∧
  (∀ (s : State) (r : Remap) (m : Mover), s.ticket? s.arg.n = some r → (r.movers.find? fun m => m.die == s.arg.die) = some m →
    exec .remapGroupRetry s = .next (s.setRemap (r.setMover { m with held := none })))

/-- R235: LAUNCH of a record that is neither idle, held nor complete gives 1; of a job that is being cancelled, 3; of a
held record it goes on with the preparation; of an idle or complete one, with its lease valid and a place in the queue
of the die, it clears the counters, makes the launch active there and gives 0, and one of no tasks is complete at once; with
no place it waits.
R236: GRUN of a graph whose nodes and edges pass its checks gives 3 for a job being cancelled, 1 while the graph or
a node's launch is active, and 0 when it starts: its state is running, its 64 dependency counts and its edges are held at its
die, and each node whose count is 0 is launched. -/
def Obligations.LaunchResult : Prop :=
  (∀ (d a b : Reg) (g : Guard) (la : Look) (key : Nat) (o : Obj) (s : State), s.calm → s.me.guarded g = true →
     d.plain = true → a.plain = true → b.plain = true → s.me.stores = [] →
     Claims.handle s (s.me.src a) 2 .call key o →
     (o.lState ≠ 0 → o.lState ≠ 2 → o.lState ≠ 5 →
       exec (.launch d a b g la) s = .next ((s.cacheEntry key).issued 4 fun u => u.result d 1)) ∧
     ((o.lState = 0 ∨ o.lState = 2 ∨ o.lState = 5) → s.jobState s.me.job.toNat ≠ 0 →
       exec (.launch d a b g la) s = .next ((s.cacheEntry key).issued 4 fun u => u.result d 3)) ∧
     (o.lState = 2 → s.jobState s.me.job.toNat = 0 → ∃ t, exec (.launch d a b g la) s = .next t ∧
       t.me = (s.issued 4 fun u => u.result d 0).me ∧ t.objAt key = o.setFld 0 10 3 1 ∧ t.mem = s.mem ∧
       t.agenda = s.agenda ++ [{ ev := .launchPreparation, arg := { job := key / 65536, h := key % 65536 } }]) ∧
     (∀ x, (o.lState = 0 ∨ o.lState = 5) → s.jobState s.me.job.toNat = 0 → s.leaseValid s.me.job.toNat o = true →
       o.noCluster = false → x = (if s.me.src b = 0 then o else o.setFld 5 0 56 (s.me.src b).toNat) →
       SMap.sorted s.obj = true →
       (s.activeOn 2 (coreDie s.me.homeCore) < 64 → o.tcount ≠ 0 → x.tcount = o.tcount →
         ∃ t, exec (.launch d a b g la) s = .next t ∧ t.me = (s.issued 4 fun u => u.result d 0).me ∧
         t.objAt key = Claims.queued x ∧ t.mem = s.mem ∧ SMap.find key t.launches.die = some (coreDie s.me.homeCore) ∧
         t.agenda = s.agenda ++ [{ ev := .launchPreparation, arg := { job := key / 65536, h := key % 65536 } }]) ∧
       (s.activeOn 2 (coreDie s.me.homeCore) < 64 → o.tcount = 0 → x.tcount = 0 → s.launches.pins = [] →
         (Claims.begun x 3).fld 13 0 56 = 0 → (Claims.begun x 3).fld 0 32 16 = 0 →
         ∃ t, exec (.launch d a b g la) s = .next t ∧ t.me = (s.issued 4 fun u => u.result d 0).me ∧ t.mem = s.mem ∧
           t.objAt key = (Claims.begun x 3).setFld 0 10 3 5) ∧
       (64 ≤ s.activeOn 2 (coreDie s.me.homeCore) → exec (.launch d a b g la) s = .next s))) ∧
  (∀ (d a : Reg) (g : Guard) (la : Look) (key : Nat) (o : Obj) (edges : List Nat) (s s1 s2 : State), s.calm →
     s.me.guarded g = true → d.plain = true → a.plain = true → s.me.stores = [] →
     Claims.handle s (s.me.src a) 3 .call key o →
     nodesOk (key / 65536) o (List.range o.nodes) ((s.issue 4).cacheEntry key) = .ok ((), s1) →
     edgesOf (coreDie s.me.homeCore) (key / 65536) (o.fld 25 0 56) s1 = .ok (edges, s2) →
     (∀ v < o.nodes, v ∈ settleNodes edges o.nodes ((List.range o.nodes).map o.nodeCount) o.nodes []) →
     (s.jobState s.me.job.toNat ≠ 0 →
       exec (.grun d a g la) s = .next { s2 with me := (s.issued 4 fun u => u.result d 3).me }) ∧
     (s.jobState s.me.job.toNat = 0 → (o.gState = 3 ∨ o.gState = 4 ∨ ∃ v < o.nodes,
         (s.objAt (Claims.node s key o v)).lState ≠ 0 ∧ (s.objAt (Claims.node s key o v)).lState ≠ 5) →
       exec (.grun d a g la) s = .next { s2 with me := (s.issued 4 fun u => u.result d 1).me }) ∧
     (s.jobState s.me.job.toNat = 0 → o.gState ≠ 3 → o.gState ≠ 4 → SMap.sorted s.obj = true →
       (∀ v < o.nodes, ((s.objAt (Claims.node s key o v)).lState = 0 ∨ (s.objAt (Claims.node s key o v)).lState = 5) ∧
         (o.nodeCount v = 0 → (s.objAt (Claims.node s key o v)).noCluster = false)) →
       s.activeOn 3 (coreDie s.me.homeCore) < 16 → s.activeOn 2 (coreDie s.me.homeCore) + o.nodes ≤ 64 →
       ∃ t, exec (.grun d a g la) s = .next t ∧ t.me = (s.issued 4 fun u => u.result d 0).me ∧ t.mem = s2.mem ∧
         (t.objAt key).gState = 3 ∧ SMap.find key t.launches.die = some (coreDie s.me.homeCore) ∧
         SMap.find key t.launches.counts = some ((List.range o.nodes).map o.nodeCount ++
           List.replicate (64 - o.nodes) 128 ++ edges) ∧
         ∀ v < o.nodes, o.nodeCount v = 0 →
           SMap.find (Claims.node s key o v) t.launches.die = some (coreDie s.me.homeCore)))

/-- R237, R244: CANCEL of a launch, graph or job (b 0, 1, 2) that is not active gives 1; of an active launch with no
task left anywhere it marks the record CANCELLED, counts the tasks not generated in CANC and waits for the launch; of a
graph with no launch of its own active it gives 0, and of a live job with no launch and no run it ends the job and gives 0. The
job form needs the supervisor level. -/
def Obligations.CancelResult : Prop :=
  ∀ (i : Instr) (d a b : Reg) (g : Guard) (la : Look) (key : Nat) (o : Obj) (s : State),
    Claims.isCancel i d a b g la → s.calm → s.me.guarded g = true → d.plain = true → a.plain = true → b.plain = true →
    ((s.me.src b).toNat % 4 = 0 → Claims.handle s (s.me.src a) 2 .admin key o →
      (s.launchActive key = false → exec i s = .next ((s.cacheEntry key).issued 4 fun u => u.result d 1)) ∧
      (s.launchActive key = true → o.lState ≠ 4 → Claims.quiet s → s.me.launch? ≠ some key →
        ∃ t, exec i s = .next t ∧ Claims.waits s t [d] (.cancel (key / 65536) [key % 65536]) la.val ∧
          t.objAt key = (o.setFld 0 10 3 4).setFld 12 0 40
            ((o.setFld 0 10 3 4).fld 12 0 40 + (o.tcount - s.generated key)))) ∧
    ((s.me.src b).toNat % 4 = 1 → Claims.handle s (s.me.src a) 3 .admin key o →
      (s.graphActive key = false → exec i s = .next ((s.cacheEntry key).issued 4 fun u => u.result d 1)) ∧
      (s.graphActive key = true → s.graphLaunches key = [] →
        o.gState = 4 ∨ (Claims.skipped (s.issue 4) key).graphLaunches key = [] → ∃ t, exec i s = .next t ∧
        t.me = (s.issued 4 fun u => u.result d 0).me)) ∧
    ((s.me.src b).toNat % 4 = 2 →
      (s.me.plv = 0 → exec i s = finishLong 4 la.val [d] none s (.error (.trap 2 0 (toW i.encode)))) ∧
      (1 ≤ s.me.plv.toNat → Claims.handle s (s.me.src a) 4 .admin key o →
        (o.jState ≠ 0 → exec i s = .next ((s.cacheEntry key).issued 4 fun u => u.result d 1)) ∧
        (o.jState = 0 → (s.launches.die.any fun e => e.1 / 65536 == o.fld 0 8 16) = false → s.fabric.graphs = [] →
          ∃ t, exec i s = .next t ∧ t.me = (s.issued 4 fun u => u.result d 0).me ∧ t.mem = s.mem ∧
            (s.fabric.subs = [] → findJob (o.fld 0 8 16) s.obj = some key → (t.objAt key).jState = 5))))

/-- R238 to R240: preparation of a queued launch whose image stands pins its pages and makes it RUNNING, or holds it with
a message when a page does not translate; generation queues the next record of a die's share in order; a launch whose
tasks are all counted completes: its record is COMPLETE, its place is free, and its NOTIFY message carries the counts. -/
def Obligations.LaunchCourse : Prop :=
  ∀ (s : State) (key job die : Nat) (o lease : Obj), key = objKey s.arg.job s.arg.h → job = key / 65536 → s.objAt key = o →
    die = (SMap.find key s.launches.die).getD 0 → lease = s.objAt (objKey job (o.fld 0 16 16)) →
    (∀ ps t1, s.arg.flag = false → o.lState = 1 → o.fld 0 13 1 = 1 →
      prepRanges (s.cacheRecord die key) (s.isWarm die key) o.clusters job lease (List.range (lease.fld 0 8 4)) = .ok ps →
      State.pinAll key job ps (s.cacheRecord die key) = .ok t1 →
      ∃ t, exec .launchPreparation s = .next t ∧ t.objAt key = o.setFld 0 10 3 3 ∧ t.me = s.me ∧
        t.launches.pins = t1.launches.pins ∧ t.mem = t1.mem) ∧
    (∀ va, s.arg.flag = false → o.lState = 1 → o.fld 0 13 1 = 1 →
      prepRanges (s.cacheRecord die key) (s.isWarm die key) o.clusters job lease (List.range (lease.fld 0 8 4)) = .error va →
      ∃ t, exec .launchPreparation s = .next t ∧ t.objAt key = o.setFld 0 10 3 2 ∧ t.me = s.me ∧ t.mem = s.mem ∧
        t.launches.pins = s.launches.pins) ∧
    (∀ n cl, s.genTarget key s.arg.die = some (n, cl, false) → cl < 128 →
      ∃ t, exec .recordGeneration s = .next t ∧ t.me = s.me ∧ Claims.joined s t cl (genRec o key n s.clk) ∧
        SMap.find (8 * key + s.arg.die) t.launches.gen = some (s.genCount key s.arg.die + 1)) ∧
    (s.launchOver key = true → s.launches.pins = [] → s.me.pend = [] → SMap.sorted s.obj = true → o.valid = true →
      o.kind = 2 → (o.setFld 0 10 3 5).fld 13 0 56 = 0 → (o.setFld 0 10 3 5).fld 0 32 16 = 0 →
      ∃ t, exec .launchCompletion s = .next t ∧ t.objAt key = o.setFld 0 10 3 5 ∧ t.me = s.me ∧ t.mem = s.mem ∧
        SMap.find key t.launches.die = SMap.find key (SMap.del key s.launches.die) ∧
        (bitsOf ((o.setFld 0 10 3 5).word 14) 0 32 ≠ 0xFFFFFFFF →
          (t.queues.hw.getLast?.map fun m => (m.dst, m.msg.o)) = some (bitsOf ((o.setFld 0 10 3 5).word 14) 0 32,
            #v[toW (key % 65536), toW ((o.setFld 0 10 3 5).fld 10 0 40), toW ((o.setFld 0 10 3 5).fld 11 0 40),
               toW ((o.setFld 0 10 3 5).fld 12 0 40), 0, 0])))

/-- R249 to R251, R254: CALLM of a method that changes the object sends its call to the log home, here or on another device, and
owes d its position, o0 its result and pw its trap bit; CALLQ asks the die's own replica, no older than b, and owes d the result
and pw the trap bit; CALLW waits until the replica has reached b. R257: a replica that is excluded answers no call: each takes the
illegal-state fault. -/
def Obligations.ReplayedCallResult : Prop :=
  ∀ (d a b : Reg) (g : Guard) (la : Look) (key : Nat) (o : Obj) (r : Replay) (s : State), s.calm →
    s.me.guarded g = true → d.plain = true → a.plain = true → b.plain = true → s.replay? key = some r → r.key = key →
    (∀ mutates, mutates = methodMutates (r.methods.getD (wbits (s.me.src a) 16 6) 0) → wbits (s.me.src a) 16 6 < o.nmeth →
      Claims.handle s (s.me.src a) 6 .call key o →
      (mutates = true → Claims.serves s o r → Claims.releasable s o.spanScope →
        ∃ (t : State) (p q u : Pending), exec (.callm d a g la) s = .next t ∧ t.me.pend = [p, q, u] ∧
          p.src = .callm (key / 65536) (key % 65536) s.engines.next ∧ p.dsts = [d].filter Reg.kept ∧
          q.src = .query s.engines.next ∧ q.dsts = [.o 0] ∧ u.src = .query s.engines.next ∧ u.dsts = [.pw] ∧
          t.replay? key = some { r with sent := r.sent ++ [Claims.callOf s (s.me.src a)] } ∧ t.mem = s.mem ∧
          (s.logHere (key / 65536) o = true → t.fabric = s.fabric ∧ t.agenda = s.agenda ++ [{ ev := .logAppend, arg :=
            { job := key / 65536, h := key % 65536, sid := s.me.sid.toNat } }]) ∧
          (s.logHere (key / 65536) o = false → t.agenda = s.agenda ∧
            t.fabric.out.map (fun p => (p.dev, p.kind, p.a, p.b)) = s.fabric.out.map (fun p => (p.dev, p.kind, p.a, p.b)) ++
              [(Config.setDevice (key / 65536) (o.fld 0 32 16) (o.fld 0 48 16), 12, key % 65536, wbits (s.me.src a) 16 6)])) ∧
      (mutates = false → Claims.serves s o r → ∃ (t : State) (p u : Pending), exec (.callq d a b g la) s = .next t ∧
        t.me.pend = [p, u] ∧ p.src = .query s.engines.next ∧ p.dsts = [d].filter Reg.kept ∧ u.src = .query s.engines.next ∧
        u.dsts = [.pw] ∧ t.mem = s.mem ∧ t.replay? key = some { r with queries := r.queries ++
          [{ call := Claims.callOf s (s.me.src a), floor := (s.me.src b).toNat, wait := false, a := s.me.src a }] }) ∧
      (o.incl (coreDie s.me.core) = false →
        (mutates = true → exec (.callm d a g la) s = finishLong 4 la.val [d] none s (.error (.trap 7 0 (s.me.src a)))) ∧
        (mutates = false → exec (.callq d a b g la) s = finishLong 4 la.val [d] none s (.error (.trap 7 0 (s.me.src a)))))) ∧
    (Claims.handle s (s.me.src a) 6 .read key o →
      (Claims.serves s o r → ∃ (t : State) (p : Pending), exec (.callw a b g la) s = .next t ∧
        t.me.pend = [p] ∧ p.src = .query s.engines.next ∧ p.dsts = [] ∧ p.left = la.val ∧ t.mem = s.mem ∧
        t.replay? key = some { r with queries := r.queries ++
          [{ call := Claims.callOf s (s.me.src a), floor := (s.me.src b).toNat, wait := true, a := s.me.src a }] }) ∧
      (o.incl (coreDie s.me.core) = false →
        exec (.callw a b g la) s = finishLong 4 la.val [] none s (.error (.trap 7 0 (s.me.src a)))))

/-- R252 to R255: the log home appends a call at TAIL + 1 while the ring has room, and its caller learns the position; else it
puts the call to sleep; a Pontil applies its next entry to its replica and tells the caller of its own die the result; a query
whose floor is met runs on the replica and tells its caller; a report moves TRIM up to the lowest one of the included replicas.
R257, R258: an error that strikes a replica takes its die out of INCL, and what was owed on that die takes the illegal-state
fault; a stopped Pontil takes its die out. A field table's entries, reports and exclusions go the same way. -/
def Obligations.ReplayCourse : Prop :=
  (∀ (s : State) (key : Nat) (r : Replay) (o : Obj), key = objKey s.arg.job s.arg.h → s.replays = [r] → r.key = key →
     s.objAt key = o → o.valid = true →
     (∀ c rest, s.arg.flag = false → r.sent = c :: rest → c.sid = s.arg.sid → r.asleep = [] → c.die < 8 →
       (s.canAppend key = true → ∃ t, exec .logAppend s = .next t ∧
         t.replay? key = some { r with sent := rest, log := r.log ++ [c] } ∧ t.objAt key = o.setFld 6 0 64 (o.tail + 1) ∧
         t.mem = s.mem ∧ t.me = Claims.placed key c.n (o.tail + 1) s.me) ∧
       (s.canAppend key = false → ∃ t, exec .logAppend s = .next t ∧ t.objAt key = o ∧ t.me = s.me ∧
         t.replay? key = some { r with sent := rest, asleep := [c] })) ∧
     (∀ p c x, r.on s.arg.die = some p → s.applies key p = true → p.sync = none → r.entry o.tail (p.pos + 1) = some c →
       x = s.runMethod r p c false (p.pos + 1) →
       ∃ t, exec .entryApply s = .next t ∧ t.mem = x.mem ∧
         ((t.replay? key).bind fun q => q.on s.arg.die) = some { p with pos := p.pos + 1, block := x.block } ∧
         t.me = (if c.die = s.arg.die then Claims.told c.n x.v x.trapped s.me else s.me)) ∧
     (∀ q rest p, r.queries = q :: rest → q.call.n = s.arg.n → r.on q.call.die = some p → s.queryDue r q = true →
       ∃ t, exec .queryRun s = .next t ∧ t.replay? key = some { r with queries := rest } ∧
         (q.wait = true → t.me = Claims.told q.call.n 0 false s.me ∧ t.mem = s.mem) ∧
         (q.wait = false → ∀ x, x = s.runMethod r p q.call true p.pos →
           t.me = Claims.told q.call.n x.v x.trapped s.me ∧ t.mem = x.mem)) ∧
     (∀ p low, s.arg.flag = false → r.on s.arg.die = some p → o.incl p.die = true → s.logHere (key / 65536) o = true →
       r.asleep = [] → low = ((r.setOn { p with told := p.pos }).replicas.filter fun q => o.incl q.die).foldl
         (fun m q => Min.min m q.told) o.tail →
       ∃ t, exec .replicaReport s = .next t ∧ t.mem = s.mem ∧ t.me = s.me ∧
         t.objAt key = o.setFld 7 0 64 (Max.max o.trim (if o.spanScope then Min.min low r.far else low))) ∧
     (∀ p, r.on s.arg.die = some p → o.incl s.arg.die = true → r.asleep = [] →
       (s.arg.kind = 0 → s.arg.h ≠ 0 → ∃ t, exec .replicaExclusion s = .next t ∧ (t.objAt key).incl s.arg.die = false ∧
         t.device.errlog = s.device.errlog ++ [(cellCluster s.arg.va, s.arg.va)] ∧
         t.me = (r.owed s.arg.die p.pos o.tail).foldl (fun u n => failCall n 7 0 (toW (key % 65536)) u) s.me) ∧
       (s.arg.kind = 1 → ∃ t, exec .replicaExclusion s = .next t ∧ (t.objAt key).incl s.arg.die = false ∧ t.mem = s.mem))) ∧
  (∀ (s : State) (job die : Nat) (f : FieldTab) (x : FRep), job = s.arg.job → die = s.arg.die → s.arg.h = 0 →
     s.replay? (objKey job 0) = none → s.fieldTab? job = some f → f.rep? die = some x →
     (s.mayApply f x = true → ∃ t, exec .entryApply s = .next t ∧ t.me = s.me ∧ t.obj = s.obj ∧ t.mem = s.mem ∧
       (Claims.fieldRep t job die).map FRep.pos = some (x.pos + 1)) ∧
     (∃ t, exec .replicaReport s = .next t ∧ t.me = s.me ∧ t.obj = s.obj ∧ t.mem = s.mem ∧
       (Claims.fieldRep t job die).map FRep.told = some x.pos) ∧
     (s.arg.kind = 0 → ∃ t, exec .replicaExclusion s = .next t ∧ t.me = s.me ∧ t.obj = s.obj ∧
       (Claims.fieldRep t job die).map FRep.incl = some false))

/-- R256, R257: OBJNEW of a valid record with its methods, image and first state installs the object with eight equal replicas,
all included, and leaves a promise, or takes the illegal-state fault where a die lacks room; OBJSYNC takes the issuing die back in with the block and position of the nearest included
replica, its strand waiting until it has caught up, and of an object whose issuing die is included it has nothing to do but its
promise. -/
def Obligations.ObjectCommands : Prop :=
  (∀ (a b c : Reg) (la : Look) (s s1 s2 s3 s4 : State) (bs ms image block : List Byte) (o : Obj) (h : Nat), s.calm →
    1 ≤ s.me.plv.toNat → a.plain = true → b.plain = true → c.plain = true → h = (s.me.src a).toNat % 65536 → h ≠ 0 →
    (s.objAt (objKey s.me.job.toNat h)).valid = false →
    readVirt (s.me.src b) 256 (s.issue 4) = .ok (bs, s1) → o = { img := BitVec.ofNat 2048 (leNat bs), acc := 0 } →
    recordOk o = true → readVirt (toW (o.fld 2 0 56)) 512 s1 = .ok (ms, s2) →
    (∀ i < o.nmeth, methodWordOk o.codeLen ((groups 8 64 ms).getD i 0) = true) → spanOk s.me.job.toNat o = true →
    readVirt (toW (o.fld 3 0 56)) o.codeLen s2 = .ok (image, s3) →
    (if s.me.src c = 0 then block = [] ∧ s4 = s3 else readVirt (s.me.src c) o.sbytes s3 = .ok (block, s4)) →
    if s.replayRoom s.me.job.toNat o = false then
      exec (.objnew a b c la) s = finishLong 4 (window la) [.l0] none s (.error (.trap 7 0 (s.me.src a)))
    else ∃ (t : State) (r : Replay), exec (.objnew a b c la) s = .next t ∧
      t.me = (s.issued 4 fun u => u.result .l0 (s.clk + BitVec.ofNat 64 (380 + ceilDiv (512 + o.codeLen + o.sbytes) 64 +
        if o.spanScope then 2400 else 0))).me ∧
      t.replay? (objKey s.me.job.toNat h) = some r ∧ r.image = image ∧ r.replicas.length = 8 ∧
      (∀ p ∈ r.replicas, p.block = blockOf block ∧ p.pos = 0) ∧ (t.objAt (objKey s.me.job.toNat h)).valid = true ∧
      ∀ die < 8, (t.objAt (objKey s.me.job.toNat h)).incl die = true) ∧
  (∀ (a : Reg) (la : Look) (key die : Nat) (o : Obj) (r : Replay) (s : State), s.calm → 1 ≤ s.me.plv.toNat →
    a.plain = true → Claims.handle s (s.me.src a) 6 .admin key o → s.replay? key = some r → r.key = key →
    die = coreDie s.me.core →
    (o.incl die = true → ∃ t, exec (.objsync a la) s = .next t ∧ Claims.promised s t ∧ t.replays = s.replays ∧
      t.obj = s.obj ∧ t.mem = s.mem) ∧
    (∀ p x, o.incl die = false → s.copied r die = some p → r.on die = some x →
      ∃ t, exec (.objsync a la) s = .next t ∧ t.mem = s.mem ∧ t.objAt key = o.setFld 8 die 1 1 ∧
        die ∉ t.device.stopped ∧ ((t.replay? key).bind fun y => y.on die) =
          some { p with die := die, told := p.pos, sync := if p.pos < o.tail then some o.tail else none } ∧
        (p.pos < o.tail → Claims.promisedWait s t (.table 6 key die) la) ∧ (o.tail ≤ p.pos → Claims.promised s t)))

/-- R266 to R269: OTSET installs a well-formed record with its rights, reserved bits read as zero and a running kind keeping the
hardware fields of the record it replaces, and promises 300 cycles; for a field it is a call on the field table, of 600 cycles
and 2,400 more at span scope, whose end its strand waits for. OTGET writes the 256 bytes of an entry and its access word, FINFO
those of a field of the strand's job, as the issuing die sees them; OTINV clears the valid bit of an entry that nothing holds,
has nothing to do for an invalid one, raises the illegal-state fault for one in use, and waits for a replayed object's calls
and, of a field, for the end of every access. -/
def Obligations.TableEntries : Prop :=
  ∀ (a b c : Reg) (la : Look) (key : Nat) (old : Obj) (s : State), Claims.sup s [a, b, c] →
    key = objKey (entryWord s (s.me.src a)).1 (entryWord s (s.me.src a)).2 → (entryWord s (s.me.src a)).2 ≠ 0 →
    s.objAt key = old → s.entryOn (coreDie s.me.core) key = old →
    (∀ bs s1 o, (s.me.src c).toNat < 32 → (s.me.src b).toNat % 8 = 0 →
      readVirt (s.me.src b) 256 (s.issue 4) = .ok (bs, s1) → o = { img := BitVec.ofNat 2048 (leNat bs), acc := 0 } →
      1 ≤ o.kind → o.kind ≤ 11 → o.kind ≠ 6 → imageOk o = true →
      (∀ f ∈ hardware o.kind, o.fld f.1 f.2.1 f.2.2 = 0) → Claims.mayReplace old o →
      (o.kind ≠ 1 → ∃ t, exec (.otset a b c la) s = .next t ∧ t.mem = s1.mem ∧
        (t.objAt key).acc = BitVec.ofNat 16 (32 + (s.me.src c).toNat) ∧
        t.me = (s.issued 4 fun u => u.result .l0 (s.clk + BitVec.ofNat 64 300)).me ∧
        (o.kind ≠ 4 → old.valid = false → (t.objAt key).img = o.kept.img) ∧
        (o.kind = 2 ∨ o.kind = 3 ∨ o.kind = 4 → old.valid = true → ∀ f ∈ hardware o.kind,
          (t.objAt key).fld f.1 f.2.1 f.2.2 = old.fld f.1 f.2.1 f.2.2) ∧
        (o.kind = 4 → old.valid = false → t.device.slots = s.device.slots ++ [(t.objAt key).fld 4 0 10])) ∧
      (o.kind = 1 → Claims.releasable s (s.spanTable (key / 65536)) → Claims.tableFree s (key / 65536) → (old.valid = true ∨ ∀ r ∈ s.remaps, r.key ≠ key) →
        ∃ t, exec (.otset a b c la) s = .next t ∧ t.mem = s1.mem ∧ t.objAt key = old.replaced o (s.me.src c).toNat ∧
          Claims.promisedWait s t (.table 12 key s.engines.next) la ∧ t.me.l0 = s.clk + BitVec.ofNat 64
            (600 + if s.spanTable (key / 65536) || o.bitsV != 0 then 2400 else 0) ∧
          (t.fieldTab (key / 65536)).tail = (s.fieldTab (key / 65536)).tail + 1)) ∧
    (∀ hs s1, (s.me.src b).toNat / 2 ^ 56 = 0 → (s.me.src b).toNat % 8 = 0 → s.mem.wf = true → Claims.logRoom s 2 →
      Claims.here s hs → Claims.clear s hs → Claims.unlocked s hs →
      (check rW (.v (s.me.src b).toNat) 264 (s.issue 4) = .ok (hs, s1) →
        ∃ t, exec (.otget a b la) s = .next t ∧ Claims.promised s t ∧ t.obj = s.obj ∧
          Claims.wrote s t.mem ((Claims.cells s hs).zip (leBytes 256 old.img.toNat ++ leBytes 8 old.acc.toNat))) ∧
      (∀ o, useHandle s.me.job.toNat (wbits (s.me.src a) 0 16) 1 .read (s.me.src a) s = .ok (o, s) →
        check rW (.v (s.me.src b).toNat) 256 (s.issue 4) = .ok (hs, s1) →
        ∃ t, exec (.finfo a b la) s = .next t ∧ Claims.promised s t ∧ t.obj = s.obj ∧
          Claims.wrote s t.mem ((Claims.cells s hs).zip (leBytes 256 o.img.toNat)))) ∧
    (old.valid = false → ∃ t, exec (.otinv a la) s = .next t ∧ Claims.promised s t ∧ t.obj = s.obj ∧ t.mem = s.mem) ∧
    (old.valid = true → old.kind ≠ 1 → s.mayInvalidate key old = false →
      exec (.otinv a la) s = finishLong 4 (window la) [.l0] none s (.error (.trap 7 0 0))) ∧
    (old.valid = true → old.kind ≠ 1 → s.mayInvalidate key old = true →
      ∃ t, exec (.otinv a la) s = .next t ∧ t.mem = s.mem ∧ (t.objAt key).acc = old.acc &&& 0xFFDF ∧
        (if old.kind = 6 ∧ (t.replay? key).isSome = true then Claims.promisedWait s t (.table 5 key 0) la
         else Claims.promised s t)) ∧
    (old.valid = true → old.kind = 1 → Claims.releasable s (s.spanTable (key / 65536)) → Claims.tableFree s (key / 65536) →
      ∃ t, exec (.otinv a la) s = .next t ∧ t.mem = s.mem ∧ t.objAt key = { old with acc := old.acc &&& 0xFFDF } ∧
        Claims.promisedWait s t (.table 11 key s.engines.next) la)

/-- R258, R270, R271: FRENAME exchanges the logical bits its lists pair in the field's maps by an entry of its job's field table,
and its strand waits until each die has taken it up; where the table has no room it sleeps. FPERM gives the positions its lists
pair their places by a remap whose last map is the new one; one that changes nothing is done after 8 cycles. -/
def Obligations.FieldMaps : Prop :=
  ∀ (a b c : Reg) (la : Look) (key job : Nat) (o : Obj) (l1 l2 : List Nat) (s : State), s.calm → a.plain = true →
    b.plain = true → c.plain = true → job = s.me.job.toNat → key = objKey job (wbits (s.me.src a) 0 16) →
    (∃ e, useHandle job (wbits (s.me.src a) 0 16) 1 .write (s.me.src a) s = .ok (e, s)) → s.objAt key = o → o.valid = true →
    o.kind = 1 → twoLists o (s.me.src b) (s.me.src c) (s.issue 4) = .ok ((l1, l2), s.issue 4) →
    (Claims.releasable s (s.spanTable job) →
      (l1.any (usedAxes o).contains = false → l2.any (usedAxes o).contains = false → Claims.tableFree s job →
        ∃ t, exec (.frename a b c la) s = .next t ∧ Claims.promisedWait s t (.table 4 key s.engines.next) la ∧ t.mem = s.mem ∧
          t.objAt key = Obj.renamed (l1.zip l2) o ∧ (t.fieldTab job).tail = (s.fieldTab job).tail + 1) ∧
      (¬ Claims.tableFree s job → ∃ (t : State) (x : Arg) (p : Pending), exec (.frename a b c la) s = .next t ∧ t.obj = s.obj ∧
        (t.fieldTab job).asleep = (s.fieldTab job).asleep ++ [x] ∧ x.kind = 2 ∧
        x.ws = [s.me.src a, s.me.src b, s.me.src c] ∧ t.me.pend = [p] ∧ p.src = .table 4 key s.engines.next)) ∧
    (∀ new swaps, permuted (l1.zip l2) (s.forceMap key o) [] = (new, swaps) → Claims.tableFree s job →
      s.fieldCame (coreDie s.me.core) key = true →
      (swaps = [] → ∃ t, exec (.fperm a b c la) s = .next t ∧ Claims.promisedWait s t (.time (s.clk + 8)) la ∧
        t.me.l0 = s.clk + 8 ∧ t.objAt key = o ∧ t.remaps = s.remaps ∧ t.mem = s.mem) ∧
      (swaps ≠ [] → (isQ4 o.fmt && swaps.any fun p => decide (p.1 < 5) || decide (p.2 < 5)) = false →
        ∃ t r, exec (.fperm a b c la) s = .next t ∧ Claims.promisedWait s t (.table 1 (s.engines.next + 1) 0) la ∧
          t.mem = s.mem ∧ t.remaps = s.remaps ++ [r] ∧ r.key = key ∧ r.ticket = s.engines.next + 1 ∧
          r.passes.getLast? = some new))

/-- R287, R288, R290, R291: LEASE pins every page of a lease set that this device holds, or none where a page does not
translate or has no pin left, and an UNPIN gives them up with the translations LEASE alone kept; XINV drops the translations of
a range, but for pinned pages of this device, which it reports in p15 and leaves to their last unpin; DLOGH waits for the logs
that hold records. -/
def Obligations.PinsAndInvalidation : Prop :=
  ∀ (a b c : Reg) (la : Look) (s : State), Claims.sup s [a, b, c] →
    (∀ (i : Instr) (job h : Nat) (o : Obj) (x : State), Claims.isLease i a b c la → (job, h) = entryWord s (s.me.src a) →
      useHandle job h 11 .admin (s.me.src a) (s.issue 4) = .ok (o, x) →
      ((s.me.src b).toNat % 4 = 0 →
        (∀ ps, leasePages x job o (o.fld 0 8 4) 0 = .ok ps →
          (∀ u, State.pinAll 0 job ps x = .ok u →
            ∃ t, exec i s = .next t ∧ Claims.promised s t ∧ t.mem = u.mem ∧ t.launches.pins = s.launches.pins ++
              (ps.filter Page.here).map fun p => { owner := 0, pte := p.pte, job, va := p.va, size := p.size }) ∧
          (∀ va, State.pinAll 0 job ps x = .error va →
            exec i s = finishLong 4 (window la) [.l0] none s (.error (.trap 7 0 0)))) ∧
        (∀ va, leasePages x job o (o.fld 0 8 4) 0 = .error va →
          (∀ u, State.pinAll 0 job (leaseBefore x job o (o.fld 0 8 4) 0) x = .ok u →
            exec i s = finishLong 4 (window la) [.l0] none s (.error (.trap 5 0 (toW va)))) ∧
          (∀ e, State.pinAll 0 job (leaseBefore x job o (o.fld 0 8 4) 0) x = .error e →
            exec i s = finishLong 4 (window la) [.l0] none s (.error (.trap 7 0 0))))) ∧
      (∀ p, (s.me.src b).toNat % 4 = 1 → o.fld 0 8 4 = 1 → x.unpinPages job o 0 = [p] → p.here = true →
        s.launches.deferred = [] → s.mem.wf = true →
        ∃ t, exec i s = .next t ∧ Claims.promised s t ∧ t.pinCount p.pte = s.pinCount p.pte - 1 ∧ t.launches.pins =
          s.launches.pins.erase { owner := 0, pte := p.pte, job, va := p.va, size := p.size } ∧
          ∀ u ∈ t.tlb, u.leased job p.pte = false)) ∧
    (∃ t, exec (.xinv a b c la) s = .next t ∧ t.mem = s.mem ∧
      (∀ u ∈ t.tlb, Claims.xhits s (s.me.src a) (s.me.src b) (s.me.src c) u.job u.base u.size = true →
        s.pinCount u.pte ≠ 0 ∧ wbits u.w0 48 16 = 0xFFFF ∧ u.logged = false) ∧
      (∀ u ∈ s.tlb, Claims.xhits s (s.me.src a) (s.me.src b) (s.me.src c) u.job u.base u.size = false → u ∈ t.tlb) ∧
      (s.launches.pins = [] → t.me = (s.issued 4 fun u =>
        ({ u with pw := u.pw &&& 0x7FFF } : Strand).result .l0 t.me.l0).me) ∧
      (∀ p ∈ s.launches.pins, Claims.xhits s (s.me.src a) (s.me.src b) (s.me.src c) p.job p.va p.size = true →
        s.pinCount p.pte ≠ 0 → t.me.pw.getLsbD 15 = true ∧
          ({ p with owner := 0 }, s.me.sid.toNat) ∈ t.launches.deferred)) ∧
    ((s.me.src a).getLsbD 7 = true →
      ((∀ k < 4096, s.logCount k = 0) → ∃ t, exec (.dlogh a la) s = .next t ∧ Claims.promised s t ∧ t.mem = s.mem) ∧
      (∀ k < 4096, coreNo k < 16 → s.logCount k ≠ 0 → ∃ t cores, exec (.dlogh a la) s = .next t ∧
        (k, s.logCount k) ∈ cores ∧ Claims.promisedWait s t (.logs cores) la ∧ t.mem = s.mem))

/-- R283, R292, R293: PAGE_WALK fills a cache with the translation it finds; PGMIG of an unpinned page of this device sets
FWD and NEWPA in its leaf and starts its copy, and stays at the instruction while the page moves already or is a chunk's
target; each copy moves one line of 256 bytes and its reservation queue, the last one makes the new frame the page's and clears
FWD; a line in error ends it with FWD clear, and the strand that waits takes the memory-error trap. At the end of an epoch the
counts start again, and, where the part has LP6 memory, each page there that more than 4,096 accesses touched, and that may move,
is promoted: it and its victim exchange frames. -/
def Obligations.PagesMove : Prop :=
  (∀ s : State,
    (∀ pte level w0 w1, s.walk s.arg.job s.arg.va = some (pte, level, w0, w1) → ∃ t, exec .pageWalk s = .next t ∧
      t.me = s.me ∧ t.mem = s.mem ∧ (∃ u ∈ t.tlb, u.covers s.arg.cl s.arg.job s.arg.va = true)) ∧
    (s.walk s.arg.job s.arg.va = none → (∀ u ∈ s.tlb, u.covers s.arg.cl s.arg.job s.arg.va = false) →
      exec .pageWalk s = .next s)) ∧
  (∀ (a b c : Reg) (la : Look) (s : State) (job va pte level w0 w1 new : Nat), Claims.sup s [a, b, c] →
    job = (if wbits (s.me.src c) 0 16 = 0 then s.me.job.toNat else wbits (s.me.src c) 0 16) →
    s.walk job ((s.me.src a).toNat % 2 ^ 56) = some (pte, level, w0, w1) → new = wbits (s.me.src b) 16 32 * 65536 →
    va = (s.me.src a).toNat % 2 ^ 56 / pageSize level * pageSize level →
    bitsOf w0 48 16 = 0xFFFF → bitsOf new 0 47 % pageSize level = 0 →
    installed new (pageSize level) = true → new ≠ bitsOf w0 16 32 * 65536 → s.mem.wf = true →
    (bitsOf w1 0 8 ≠ 0 →
      exec (.pgmig a b c la) s = finishLong 4 (window la) [.l0] none s (.error (.trap 7 0 (s.me.src a)))) ∧
    (bitsOf w1 0 8 = 0 → nbit w0 10 = true ∨ s.targeted job va (pageSize level) = true →
      exec (.pgmig a b c la) s = .next s) ∧
    (bitsOf w1 0 8 = 0 → nbit w0 10 = false → s.targeted job va (pageSize level) = false → ∃ t m,
      exec (.pgmig a b c la) s = .next t ∧
      Claims.promisedWait s t (.table 3 pte 0) la ∧ t.migs = s.migs ++ [m] ∧ m.pte = pte ∧ m.va = va ∧
      m.old = bitsOf w0 16 32 * 65536 ∧ m.new = new ∧ m.size = pageSize level ∧ m.moved = 0 ∧
      nbit (t.leafW0 pte) 10 = true ∧ bitsOf (t.num (pte + 8) 8) 16 32 = new / 65536 ∧
      ({ ev := .pageMigrationLineCopy, arg := { n := pte } } : Due) ∈ t.agenda)) ∧
  (∀ (s : State) (m : Mig) (i : Nat), s.migs = [m] → m.pte = s.arg.n → m.swap = false → m.moved = i → s.mem.wf = true →
    m.new < 2 ^ 48 →
    (∀ j < 8, s.locked (m.old + 256 * i + 32 * j) = false ∧ s.locked (m.new + 256 * i + 32 * j) = false) →
    (256 * i < m.size → badLine s (m.old + 256 * i) = none →
      ∃ t, exec .pageMigrationLineCopy s = .next t ∧ t.migs = [{ m with moved := i + 1 }] ∧
        t.bytesAt (m.new + 256 * i) 256 = s.bytesAt (m.old + 256 * i) 256 ∧
        (∀ k, k < m.new + 256 * i ∨ m.new + 256 * i + 256 ≤ k → t.mem.get k = s.mem.get k) ∧
        t.queues.resv = s.queues.resv.map (fun r => { r with line :=
          if r.line = (m.old + 256 * i) / 256 then (m.new + 256 * i) / 256 else r.line })) ∧
    (m.size ≤ 256 * i → ∃ t, exec .pageMigrationLineCopy s = .next t ∧ t.migs = [] ∧
      bitsOf (t.leafW0 m.pte) 16 32 = m.new / 65536 ∧ nbit (t.leafW0 m.pte) 10 = false ∧
      bitsOf (t.num (m.pte + 8) 8) 16 32 = 0 ∧
      ∀ u ∈ t.tlb, u.job = m.job → u.base + u.size ≤ m.va ∨ m.va + m.size ≤ u.base) ∧
    (∀ k, 256 * i < m.size → badLine s (m.old + 256 * i) = some k → ∃ t, exec .pageMigrationLineCopy s = .next t ∧
      t.migs = [] ∧ nbit (t.leafW0 m.pte) 10 = false ∧
      (∀ p, m.waiter = some s.me.sid.toNat → s.me.pend = [p] → p.src = .table 3 m.pte 0 →
        t.me.pend = [p.fail (.fault 8 0 (toW (m.va + 256 * i)))]))) ∧
  (∀ s : State, s.arg.flag = false → ∃ t, exec .tierEpochEnd s = .next t ∧ t.me = s.me ∧
    t.tier.counts = [] ∧ t.tier.epoch = s.clk.toNat / 1048576 ∧
    (s.tier.waiting = [] → t.migs = if Config.lp6Share = 0 then s.migs else
      ((s.leaves.filter fun l => l.movable && nbit l.w0 47 && decide (4096 < s.countOf l)).foldl
        (State.promote s.leaves) s).migs)) ∧
  (∀ (s : State) (l v : Leaf), s.migs = [] → l.movable = true → v.movable = true → nbit l.w0 47 = true →
    nbit v.w0 47 = false → v.size = l.size → l.pte ≠ v.pte → s.targeted l.job l.va l.size = false →
    s.targeted v.job v.va v.size = false →
    (State.promote [l, v] s l).migs.map (fun m => (m.pte, m.old, m.new, m.swap)) =
      [(l.pte, bitsOf l.w0 16 32 * 65536, bitsOf v.w0 16 32 * 65536, true),
       (v.pte, bitsOf v.w0 16 32 * 65536, bitsOf l.w0 16 32 * 65536, true)])

/-- R301, R303, R304: SUBS gives the issuing die an entry of the group and, as the first of the device, sets its own port's
bit, and raises the illegal-state fault where the die has 256 others; UNSUB takes the entry away. A join sets a port's bit and
travels on toward the root only where no bit was set, a leave clears it and travels on where none is left. A delivery writes its
bytes, or adds for a SIG, where a die of the device has an entry, adds 1 to the entry's arrival word where it has one, goes on
along the other ports, and is counted where no entry matches. -/
def Obligations.MulticastGroups : Prop :=
  (∀ (a b : Reg) (la : Look) (key g w : Nat) (o : Obj) (s s1 : State) (hs : List Hit), s.calm → a.plain = true →
    b.plain = true → Claims.handle s (s.me.src a) 9 .read key o → g = o.fld 0 8 12 → w = (s.me.src b).toNat →
    (w ≠ 0 → w < 2 ^ 56 ∧ w % 8 = 0 ∧ check rW (.v w) 8 ((s.issue 4).cacheEntry key) = .ok (hs, s1)) →
    ((s.fabric.subs.filter fun e => e.1 == coreDie s.me.core &&
        !(e.2.1 == key / 65536 && e.2.2.1 == g)).length < 256 →
      ∃ t, exec (.subs a b la) s = .next t ∧ Claims.promised s t ∧ t.mem = s.mem ∧
        t.fabric.subs = (s.fabric.subs.filter fun e =>
          !(e.1 == coreDie s.me.core && e.2.1 == key / 65536 && e.2.2.1 == g)) ++ [(coreDie s.me.core, key / 65536, g, w)] ∧
        ((∀ e ∈ s.fabric.subs, e.2.2.1 ≠ g) → t.ports g = setBit (s.ports g) 79 true ∧ (t.objAt key).fld 0 20 1 = 1) ∧
        ((∃ e ∈ s.fabric.subs, e.2.2.1 = g) → t.ports g = s.ports g)) ∧
    (256 ≤ (s.fabric.subs.filter fun e => e.1 == coreDie s.me.core &&
        !(e.2.1 == key / 65536 && e.2.2.1 == g)).length →
      exec (.subs a b la) s = finishLong 4 (window la) [.l0] none s (.error (.trap 7 0 0))) ∧
    (∃ t, exec (.unsub a la) s = .next t ∧ Claims.promised s t ∧ t.mem = s.mem ∧
      t.fabric.subs = s.fabric.subs.filter fun e =>
        !(e.1 == coreDie s.me.core && e.2.1 == key / 65536 && e.2.2.1 == g))) ∧
  (∀ s : State, ∃ t, exec .joinPacket s = .next t ∧ t.me = s.me ∧ t.mem = s.mem ∧
    t.ports s.arg.n = setBit (s.ports s.arg.n) s.arg.m true ∧ t.fabric.out = s.fabric.out ++
      (if s.ports s.arg.n = 0 ∧ s.arg.dev ≠ s.devNo then
        [({ dev := s.arg.dev, job := 0, kind := 4, a := s.arg.n, b := 0, bytes := [] } : Packet)] else [])) ∧
  (∀ s : State, ∃ t, exec .leavePacket s = .next t ∧ t.me = s.me ∧ t.mem = s.mem ∧
    t.ports s.arg.n = clearBit (s.ports s.arg.n) s.arg.m ∧ t.fabric.out = s.fabric.out ++
      (if clearBit (s.ports s.arg.n) s.arg.m = 0 ∧ s.arg.dev ≠ s.devNo then
        [({ dev := s.arg.dev, job := 0, kind := 5, a := s.arg.n, b := 0, bytes := [] } : Packet)] else [])) ∧
  (∀ (s u : State) (hs : List Hit) (ks : List Nat), s.arg.flag = false → s.arg.size ≠ 1 →
    nbit (s.ports s.arg.n) 79 = true →
    arrivingAll s s.arg.job rW ((List.range s.arg.bs.length).map fun i => (s.arg.va + i) % 2 ^ 56) = some hs →
    ks = hs.map (cellOf s.arg.job) → (∀ k ∈ ks, s.badAt k = false ∧ s.locked k = false) →
    clearBit (s.ports s.arg.n) 79 = 0 →
    u = (s.counted hs).setCells (ks.zip (if s.arg.kind = 2 then
      leBytes 8 (leNat (s.mem.getAll ks) + leNat s.arg.bs) else s.arg.bs)) →
    ((∃ e ∈ s.fabric.subs, e.2.1 = s.arg.job ∧ e.2.2.1 = s.arg.n) →
      (∀ e ∈ s.fabric.subs, e.2.1 = s.arg.job → e.2.2.1 = s.arg.n → e.2.2.2 = 0) →
      exec .multicastDelivery s = .next u) ∧
    (∀ e, (s.fabric.subs.filter fun e => e.2.1 == s.arg.job && e.2.2.1 == s.arg.n) = [e] → e.2.2.2 ≠ 0 →
      exec .multicastDelivery s = .next (u.addWord (16 * e.1) s.arg.job e.2.2.2 1)) ∧
    ((∀ e ∈ s.fabric.subs, e.2.1 ≠ s.arg.job ∨ e.2.2.1 ≠ s.arg.n) →
      exec .multicastDelivery s = .next (s.count s.arg.die 0xFE028))) ∧
  (∀ s : State, s.arg.flag = false → s.arg.size ≠ 1 → nbit (s.ports s.arg.n) 79 = false → s.ports s.arg.n ≠ 0 →
    ∃ t, exec .multicastDelivery s = .next t ∧ t.me = s.me ∧ t.mem = s.mem ∧ t.fabric.out = s.fabric.out ++
      [({ dev := 0xF000 + s.arg.n, job := s.arg.job, kind := s.arg.kind - 1, a := s.arg.va, b := s.ports s.arg.n
          bytes := s.arg.bs } : Packet)])

/-- R309, R310: CGLD of a graph whose steps pass its checks loads them with its ranks and marks the record loaded, a second
time it raises the illegal-state fault; CGRUN of a loaded graph numbers the run, promises its length and waits for it,
and stays at the instruction while one runs. -/
def Obligations.CollectiveLoadAndRun : Prop :=
  (∀ (a : Reg) (la : Look) (key n : Nat) (o : Obj) (s s1 s2 : State) (bs rs : List Byte), s.calm → a.plain = true →
    Claims.handle s (s.me.src a) 8 .admin key o → n = o.fld 0 8 7 →
    (o.fld 0 39 1 = 1 → exec (.cgld a la) s = finishLong 4 (window la) [.l0] none s (.error (.trap 7 0 0))) ∧
    (o.fld 0 39 1 = 0 → o.fld 0 40 2 = 0 →
      readVirt (toW (o.fld 1 0 56)) (32 * n) ((s.issue 4).cacheEntry key) = .ok (bs, s1) →
      readVirt (toW (o.fld 2 0 56)) (2 * (o.fld 0 16 10 + 1)) s1 = .ok (rs, s2) →
      (∀ f ∈ stepChecks s key (o.fld 0 16 10 + 1) (stepsOf n bs), ∀ e ∈ (List.range n).zip (stepsOf n bs), f e = true) →
      (∀ d ∈ groups 2 (o.fld 0 16 10 + 1) rs, d = s.devNo ∨ routeEntry s.fabric.routes d = true) →
      (s.fabric.graphs.filter fun g => g.die == o.fld 0 36 3).length < 16 →
      ((s.fabric.graphs.filter fun g => g.die == o.fld 0 36 3).map fun g => g.steps.length).sum + n ≤ 1024 →
      ∃ t g, exec (.cgld a la) s = .next t ∧ Claims.promised s t ∧ t.mem = s2.mem ∧
        t.fabric.graphs = s.fabric.graphs ++ [g] ∧ g.key = key ∧ g.steps = stepsOf n bs ∧
        g.ranks = groups 2 (o.fld 0 16 10 + 1) rs ∧ g.rank = o.fld 0 26 10 ∧ g.running = false ∧
        t.objAt key = o.setFld 0 39 1 1)) ∧
  (∀ (a b : Reg) (la : Look) (key w : Nat) (o : Obj) (g : CGraph) (s s1 : State) (hs : List Hit), s.calm →
    a.plain = true → b.plain = true → Claims.releasable s (g.ranks.any (· != s.devNo)) →
    Claims.handle s (s.me.src a) 8 .call key o →
    w = (s.me.src b).toNat →
    (w ≠ 0 → w < 2 ^ 56 ∧ w % 8 = 0 ∧ check rW (.v w) 8 ((s.issue 4).cacheEntry key) = .ok (hs, s1)) →
    o.fld 0 39 1 = 1 → s.graph? key = some g →
    (o.fld 0 40 2 ≠ 0 → exec (.cgrun a b la) s = .next s) ∧
    (o.fld 0 40 2 = 0 → ∃ t g', exec (.cgrun a b la) s = .next t ∧ Claims.promisedWait s t (.table 7 key 0) la ∧
      t.me.l0 = s.clk + toW (runCost g.steps) ∧ t.graph? key = some g' ∧ g'.running = true ∧ g'.run = o.fld 0 48 16 ∧
      g'.word = w ∧ g'.ranks = g.ranks ∧ g'.bases[0] = s.me.e[0] &&& 0xFFFFFFFFFFFFFF ∧
      t.objAt key = (o.setFld 0 48 16 (o.fld 0 48 16 + 1)).setFld 0 40 2 1))

/-- R306, R307, R310, R311: the course of a run. A chunk that arrives for a ready RECV is written at its offset and its rank told
so, one for a RECV that has not started is held; a reduction combines the own contribution with the children's and writes it at
the root, or sends it to the peer, and tells the children; a step that is done brings its successors one nearer, and the last one
ends the run; a step out of time, or the packet of another rank, cancels it. -/
def Obligations.CollectiveCourse : Prop :=
  ∀ (s : State) (key : Nat) (g : CGraph), key = objKey s.arg.job s.arg.h → s.graph? key = some g → g.running = true →
    (∀ i x c, c = ({ rank := s.arg.rank, tag := s.arg.kind, run := s.arg.n, off := s.arg.m, bytes := s.arg.bs } : Chunk) →
      s.arg.n = g.run → s.arg.rank ≠ g.rank → g.recvFor c = some i → g.step? i = some x →
      (∀ t1, x.st = 1 → s.arg.m < x.len → s.arg.m + s.arg.bs.length ≤ x.len →
        engWrite g.cl g.job (s.line ((g.dst x + s.arg.m) % 2 ^ 56) s.arg.bs.length) s.arg.bs s = .ok (none, t1) →
        ∃ t, exec .collectiveChunkArrival s = .next t ∧ t.me = t1.me ∧ t.mem = t1.mem ∧
          t.graph? key = some (g.setStep i { x with done := x.done + s.arg.bs.length }) ∧
          t.fabric.out = t1.fabric.out ++ Claims.acks g [s.arg.rank] (s.arg.m + s.arg.kind * 2 ^ 32 + s.arg.n * 2 ^ 40)) ∧
      (x.st = 0 → s.heldBytes g.die + s.arg.bs.length ≤ 4194304 →
        exec .collectiveChunkArrival s = .next (s.setGraph { g with held := g.held ++ [c] }))) ∧
    (∀ x own, g.step? s.arg.n = some x → x.op = 2 → x.st = 1 → x.done < x.chunks → s.arg.kids.length = x.children →
      s.ownChunk x x.done = some own →
      (∀ t1, x.peer = g.rank → engWrite g.cl g.job (s.line ((g.dst x + 128 * x.done) % 2 ^ 56)
          (reduceBytes own s.arg.kids).length) (reduceBytes own s.arg.kids) s = .ok (none, t1) →
        ∃ t, exec .reduceChunk s = .next t ∧ t.me = t1.me ∧ t.mem = t1.mem ∧
          t.graph? key = some (g.setStep s.arg.n { x with done := x.done + 1 }) ∧
          t.fabric.out = t1.fabric.out ++ Claims.acks g (s.arg.ws.map BitVec.toNat)
            (128 * x.done + x.rtag * 2 ^ 32 + g.run * 2 ^ 44)) ∧
      (x.peer ≠ g.rank → ∃ t p, exec .reduceChunk s = .next t ∧ t.me = s.me ∧ t.mem = s.mem ∧
        t.fabric.out = s.fabric.out ++ [p] ++ Claims.acks g (s.arg.ws.map BitVec.toNat)
          (128 * x.done + x.rtag * 2 ^ 32 + g.run * 2 ^ 44) ∧
        p.dev = g.ranks.getD x.peer 0 ∧ p.bytes = reduceBytes own s.arg.kids)) ∧
    (∀ x, g.step? s.arg.n = some x → x.st = 1 →
      s.stepMet g x = true ∨ (s.arg.flag = true ∧ stepAcked g x = true) →
      (∀ p, g.steps = [x] → x.succs = [] → g.word = 0 → s.me.pend = [p] → p.src = .table 7 key 0 →
        ∃ t, exec .collectiveStepComplete s = .next t ∧ t.me = { s.me with pend := [] } ∧ t.mem = s.mem ∧
          (t.objAt key).fld 0 40 2 = 0 ∧
          t.graph? key = some { g with steps := [{ x with st := 2 }], running := false }) ∧
      (∀ j y, x.succs = [j] → j ≠ s.arg.n → g.step? j = some y → 2 ≤ y.count → y.st = 0 →
        ∃ t, exec .collectiveStepComplete s = .next t ∧ t.me = s.me ∧ t.mem = s.mem ∧
          t.graph? key = some ((g.setStep s.arg.n { x with st := 2 }).setStep j { y with count := y.count - 1 }))) ∧
    (g.held = [] → g.word = 0 →
      (∀ x, g.step? s.arg.n = some x → s.stepLate x = true →
        ∃ t, exec .collectiveStepTimeout s = .next t ∧ Claims.cancelled s t g g.rank s.arg.n) ∧
      (g.run = s.arg.n → ∃ t, exec .collectiveCancelPacket s = .next t ∧ Claims.cancelled s t g s.arg.rank s.arg.m))

/-- R364, R366, R367, Table 21.3: SPILL of another strand's slot of this device waits until the strand is saved; saving it
writes its save area and leaves its slot a mailbox; RESTORE of a saved area puts the strand with the registers saved there
into a free slot of a core that fits, or no strand where its launch or job has been cancelled, and clears SAVED; of an area
that is not saved it raises the illegal-state fault. -/
def Obligations.SpillAndRestore : Prop :=
  (∀ (a b : Reg) (la : Look) (s s1 s2 : State) (va sid : Nat) (u : Strand), Claims.sup s [a, b] →
    checkArea rW (s.me.src b) (s.issue 4) = .ok (va, s1) → logWrite va s1 = .ok ((), s2) →
    sid = (s.me.src a).toNat % 2 ^ 32 → s.strand? sid = some u →
    u.status = .ready → sid / 65536 = s.devNo → s.spilling sid = false →
    (sid % 65536 ≠ s.me.sid.toNat % 65536 → u.plv ≤ s.me.plv →
      ∃ t, exec (.spill a b la) s = .next t ∧ Claims.promisedWait s t (.table 8 (sid % 65536) 0) la ∧ t.mem = s2.mem ∧
        t.spills = s.spills ++ [{ sid := sid % 65536, issuer := s.me.sid.toNat % 65536, cl := clusterOf s.me.core
                                  job := s.me.job.toNat, va }]) ∧
    (sid % 65536 = s.me.sid.toNat % 65536 ∨ ¬ u.plv ≤ s.me.plv →
      exec (.spill a b la) s = finishLong 4 (window la) [.l0] none s (.error (.trap 7 0 (s.me.src a))))) ∧
  (∀ (s : State) (x : Spill) (keys : List Nat) (win : Option Nat) (rest : Bool), s.mem.wf = true → keys.Nodup →
    keys.length = 4096 → (∀ k ∈ keys, s.badAt k = false ∧ k < 2 ^ 60) → s.me.status = .ready → s.me.skip = none →
    (s.save x keys win rest).me.status = .spilled s.me.q.length true ∧
      (s.save x keys win rest).mem.getAll keys =
        (s.areaWords s.me (if win.isSome || rest then 2 else 0) (win.getD 0)).flatMap fun w => leBytes 8 w.toNat) ∧
  (∀ (a b : Reg) (la : Look) (s s1 : State) (va core slot was : Nat) (keys : List Nat) (ws : List Word), Claims.sup s [a, b] →
    checkArea rR (s.me.src a) (s.issue 4) = .ok (va, s1) →
    s1.areaKeys (clusterOf s.me.core) s.me.job.toNat va = some keys → (∀ k ∈ keys, s.badAt k = false) →
    ws = (groups 8 512 (s.mem.getAll keys)).map toW → core = wbits (s.me.src b) 4 12 → slot = wbits (s.me.src b) 0 4 →
    was = wbits (word? ws 0xC8) 32 16 →
    ((word? ws 0xD8).getLsbD 31 = false →
      exec (.restore a b la) s = finishLong 4 (window la) [.l0] none s (.error (.trap 7 0 (s.me.src a)))) ∧
    ((word? ws 0xD8).getLsbD 31 = true → wbits (s.me.src b) 16 16 = s.devNo → coreExists core = true →
      (if wbits (word? ws 0xB0) 0 2 = 0 then coreKind core = 0 ∧ (wbits (word? ws 0x08) 16 16 = 0 ∨
          inClusters (s.objAt (objKey (wbits (word? ws 0xC8) 0 16) (wbits (word? ws 0x08) 16 16))) (clusterOf core) = true)
        else coreKind core = coreKind (was / 16)) →
      s.mailbox? was = none → (s.me.src b).getLsbD 32 = false → s.serving core = true → s.slotFree core slot = true →
      (s.sidOf core slot).toNat % 65536 ≠ s.me.sid.toNat % 65536 → s.mem.wf = true → keys.length = 4096 →
      ∃ t, exec (.restore a b la) s = .next t ∧ Claims.promised s t ∧
        (t.mem.get (keys.getD 0xDB 0)).getLsbD 7 = false ∧ (∀ k, k ≠ keys.getD 0xDB 0 → t.mem.get k = s.mem.get k) ∧
        if s.savedDead ws then t.others = s.others
        else ∃ u, t.strand? (core * 16 + slot) = some u ∧ u.sid = s.sidOf core slot ∧ u.pc = (word? ws 0x00).setWidth 48 ∧
          (∀ i : Fin 6, u.o[i] = word? ws (0x10 + 8 * i.val)) ∧ u.l0 = word? ws 0x40 ∧ u.l1 = word? ws 0x48 ∧
          (∀ i : Fin 8, u.e[i] = word? ws (0x50 + 8 * i.val)) ∧ u.tval = word? ws 0xA0 ∧
          u.job = (word? ws 0xC8).setWidth 16 ∧ u.plv = (word? ws 0xB0).setWidth 2))

/-- R377 to R380: LEHR on system core 0 starts an entry or an exit and waits for its end, arms or disarms; elsewhere it
raises the illegal-state fault. An entry is complete when no request is open: the caches keep their pinned translations.
PWR_WARN starts entry and exit while armed, and tells system core 0 while not; after an exit each Marver goes on from its persisted
cursor. At the end of a power-cap window only
strands of capped jobs over their cap are withheld (which of them is a free choice, R377). -/
def Obligations.LehrAndPower : Prop :=
  (∀ (i : Instr) (a : Reg) (la : Look) (s : State), Claims.isLehr i a la → s.calm → 1 ≤ s.me.plv.toNat → a.plain = true →
    (isSys0 s.me.core = false →
      exec i s = finishLong 4 (window la) [.l0] none s (.error (.trap 7 0 (s.me.src a)))) ∧
    (isSys0 s.me.core = true → s.lehrMoves = true → exec i s = .next s) ∧
    (isSys0 s.me.core = true → s.lehrMoves = false → ∃ t, exec i s = .next t ∧ t.mem = s.mem ∧ t.me.l0 = s.clk ∧
      t.device.lehr = (if (s.me.src a).toNat % 4 = 0 ∧ s.device.lehr = 0 then 1
        else if (s.me.src a).toNat % 4 = 1 ∧ s.device.lehr = 2 then 3 else s.device.lehr) ∧
      t.device.lehrArmed = (if (s.me.src a).toNat % 4 = 2 then true else if (s.me.src a).toNat % 4 = 3 then false
        else s.device.lehrArmed) ∧
      (if (s.me.src a).toNat % 4 < 2 then Claims.promisedWait s t (.table 9 ((s.me.src a).toNat % 4) 0) la
        else Claims.promised s t))) ∧
  (∀ s : State, s.device.lehr = 1 →
    (s.fabric.reqs = [] → ∃ t, exec .lehrEntryComplete s = .next t ∧ t.device.lehr = 2 ∧ t.mem = s.mem ∧
      t.tlb = s.tlb.filter Tr.pinned) ∧
    (s.fabric.reqs ≠ [] → exec .lehrEntryComplete s = .next (s.due .lehrEntryComplete))) ∧
  (∀ s : State, s.device.lehr = 3 →
    ∃ t, exec .lehrExitComplete s = .next t ∧ t.device = { s.device with lehr := 0 } ∧ t.me = s.me ∧ t.mem = s.mem ∧
      t.remaps = s.remaps.map (fun r => { r with movers := r.movers.map Mover.resume })) ∧
  (∀ s : State, s.lehrMoves = false →
    (∃ t, exec .pwrWarnAssert s = .next t ∧ t.device.pwrWarn = true ∧ t.me = s.me ∧ t.mem = s.mem ∧
      (s.device.lehrArmed = true → s.device.lehr = 0 → t.device.lehr = 1 ∧
        t.agenda = s.agenda ++ [{ ev := .lehrEntryComplete, arg := {} }]) ∧
      (s.device.lehrArmed = false → t.device.lehr = s.device.lehr ∧
        (t.queues.hw.getLast?.map fun m => (m.dst, m.msg.o[0])) = some (sysSid 0, 0x51))) ∧
    (∃ t, exec .pwrWarnDeassert s = .next t ∧ t.device.pwrWarn = false ∧ t.me = s.me ∧ t.mem = s.mem ∧
      (s.device.lehrArmed = true → s.device.lehr = 2 → t.device.lehr = 3 ∧
        t.agenda = s.agenda ++ [{ ev := .lehrExitComplete, arg := {} }]) ∧
      (s.device.lehrArmed = false → t.device.lehr = s.device.lehr))) ∧
  (∀ s : State, ∃ t, exec .capWindowEnd s = .next t ∧ t.device.capWindow = s.clk.toNat / 65536 ∧ t.me = s.me ∧
    t.mem = s.mem ∧ ∀ x ∈ t.device.withheld, x.1 < 8 ∧ Config.overCap (s.clk.toNat / 65536) x.1 x.2 = true ∧
      ∃ e ∈ s.obj, e.2.valid = true ∧ e.2.kind = 4 ∧ e.2.fld 0 8 16 = x.2 ∧ e.2.fld 5 0 16 ≠ 0)

/-- R371 to R373, R376: the boot of a die takes the first good image of its sources and records its digest; where every booted
die's digest is the same it loads a route table and copies the image's sections to their target cores, whose slots 0 start at
firmware level; otherwise, and without a good image, the die halts with a report. Which image is well signed is a property of the
part (log 38). A cluster reset clears the local stores of its cores and its units; status and attestation requests are counted and
answered in order. -/
def Obligations.BootAndManagement : Prop :=
  (∀ (s s0 : State) (die : Nat), die = s.arg.die → s0 = (if s.arg.flag then s.resetDie die else s) →
    ∃ t, exec .powerUpBoot s = .next t ∧
      (match s0.device.sources.find? (imageGood ((SMap.find die s0.device.rollback).getD 0)) with
      | none => t.device.halted = s0.device.halted ++ [die] ∧ t.me = s0.me ∧ t.mem = s0.mem ∧
          t.device.sent = (s0.device.sent + 1) % 2 ^ 32
      | some img => t.device.meas = SMap.put die (shake256 (covered img)) s0.device.meas ∧
          ∀ body, body = (img.drop 0x100).take (sliceNat img 0x10 8) →
            if (t.device.meas.all fun e => e.2 == shake256 (covered img)) = true then
              t.fabric.routes = s0.fabric.routes + 1 ∧ t.device.halted = s0.device.halted ∧
                ∃ u, t = State.startTargets u die (sectionsOf body) ∧
                  u.mem = ((sectionsOf body).foldl (fun s x => State.placeSection s die body x) s0).mem
            else t.device.halted = s0.device.halted ++ [die] ∧ t.me = s0.me ∧ t.mem = s0.mem)) ∧
  (∀ (s : State) (die core j : Nat) (x : Section) (body : List Byte), targetCores die x.tgt = [core] → core < 4096 →
    x.tgt < 3 → x.off + x.len ≤ body.length → x.lso + x.len ≤ 2 ^ 20 → j < x.len → s.mem.wf = true → s.devNo < 65536 →
    ∃ u, ((s.placeSection die body x).startTargets die [x]).strand? (core * 16) = some u ∧ u.plv = 2 ∧ u.status = .ready ∧
      u.pc = BitVec.ofNat 48 x.lso ∧
      ((s.placeSection die body x).startTargets die [x]).mem.get (lsKey core (x.lso + j)) = body.getD (x.off + j) 0) ∧
  (∀ s : State, ∃ t, exec .clusterReset s = .next t ∧
    (∀ core off, core < 4096 → off < 2 ^ 20 → clusterOf core = s.arg.cl → coreNo core ≤ 16 → t.mem.get (lsKey core off) = 0) ∧
    (∀ c ∈ t.engines.cmds, c.cl ≠ s.arg.cl) ∧ (∀ x ∈ t.engines.xfers, x.cl ≠ s.arg.cl) ∧ (∀ u ∈ t.tlb, u.cl ≠ s.arg.cl) ∧
    (∀ e ∈ t.queues.task, e.1 ≠ s.arg.cl)) ∧
  (∀ s : State, ∃ t, exec .managementStatus s = .next t ∧ t.me = s.me ∧ t.mem = s.mem ∧
    t.device.received = (s.device.received + 1) % 2 ^ 32 ∧ t.device.sent = (s.device.sent + 1) % 2 ^ 32 ∧
    t.device.outbox.getLast? = some (t.device.sent, 1, leBytes 4 s.device.sent ++ leBytes 4 t.device.received)) ∧
  (∀ s : State, ∃ t r, exec .managementAttestation s = .next t ∧ t.me = s.me ∧ t.mem = s.mem ∧
    t.device.received = (s.device.received + 1) % 2 ^ 32 ∧ t.device.sent = (s.device.sent + 1) % 2 ^ 32 ∧
    r = s.arg.bs.take 32 ++ leBytes 2 s.devNo ++ (SMap.find 0 s.device.meas).getD [] ++
      ((s.obj.filter fun e => e.2.valid && e.2.kind == 4 && e.2.jState == 0).flatMap fun e =>
        leBytes 2 (e.2.fld 0 8 16) ++ leBytes 64 (e.2.fld 8 0 512)) ∧
    t.device.outbox.getLast? = some (t.device.sent, 2, r ++ Config.identitySign r))

/-- R369, R374, R381 to R383: a cluster with nothing under way is drained, its records going to the die's queue, and
returned; a die whose clusters are drained is drained; link keys are renewed one after another; an obituary marks a
device dead and cancels the runs of its rank lists; a lost neighbour or a failure of this device sends obituaries to the devices
of the group that a route leads to; the kill of a job without launches ends it. -/
def Obligations.DeviceCourse : Prop :=
  (∀ (s : State) (cl : Nat), cl = s.arg.cl → s.device.drained.contains cl = false → s.device.closing = [] →
    s.enginesRest cl = true → Claims.empty s cl → s.queues.ring = [] → (∀ e ∈ s.queues.waits, e.1 ≠ cl) →
    (∀ e ∈ s.queues.run, clusterOf e.1 ≠ cl) →
    (s.queues.die.filter fun e => e.1 == cl / 16).length + (s.queues.task.filter fun e => e.1 == cl).length ≤ 4096 →
    ∃ t, exec .clusterDrain s = .next t ∧ t.device.drained = s.device.drained ++ [cl] ∧ t.device.closing = [] ∧
      t.me = s.me ∧ t.mem = s.mem ∧ t.queues.task = (s.queues.task.filter fun e => e.1 != cl) ∧
      t.queues.die = s.queues.die ++ (s.queues.task.filter fun e => e.1 == cl).map
        fun e => (cl / 16, { e.2 with since := s.clk })) ∧
  (∀ s : State, ∃ t, exec .clusterReturn s = .next t ∧ t.device.drained = s.device.drained.filter (· != s.arg.cl) ∧
    t.device.drainedDies = (if (s.device.drained.any fun c => c != s.arg.cl && c / 16 == s.arg.cl / 16) = true then
      s.device.drainedDies else s.device.drainedDies.filter (· != s.arg.cl / 16)) ∧
    t.me = s.me ∧ t.mem = s.mem ∧ t.agenda = s.agenda ++ [{ ev := .slotFill, arg := { core := s.arg.cl * 32 } }]) ∧
  (∀ s : State,
    ((∀ c < 16, s.device.drained.contains (s.arg.die * 16 + c) = true) → s.replays = [] → s.obj = [] →
      ∃ t, exec .dieDrain s = .next t ∧
      t.device.drainedDies = s.device.drainedDies ++ [s.arg.die] ∧ t.me = s.me ∧ t.mem = s.mem) ∧
    ((∃ c < 16, s.device.drained.contains (s.arg.die * 16 + c) = false) → ∃ t, exec .dieDrain s = .next t ∧
      t.device.drainedDies = s.device.drainedDies ∧
      ({ ev := .dieDrain, arg := { die := s.arg.die, flag := true } } : Due) ∈ t.agenda)) ∧
  (∀ s : State, ∃ t, exec .linkKeyRenewal s = .next t ∧ t.me = s.me ∧ t.mem = s.mem ∧
    SMap.find s.arg.dev t.fabric.keys = some ((SMap.find s.arg.dev s.fabric.keys).getD 0 + 1)) ∧
  (∀ s : State, ∃ t, exec .linkKeyAgreement s = .next t ∧ t.me = s.me ∧ t.mem = s.mem ∧
    (s.arg.flag = true → SMap.find s.arg.dev t.fabric.keys = some 1) ∧ (s.arg.flag = false → t = s)) ∧
  (∀ s : State, s.fabric.dead.contains s.arg.dev = false →
    ((∀ g ∈ s.fabric.graphs, g.ranks.contains s.arg.dev = false) →
      exec .obituary s = .next { s with fabric := { s.fabric with dead := s.fabric.dead ++ [s.arg.dev] } }) ∧
    (∀ g, s.fabric.graphs = [g] → g.ranks.contains s.arg.dev = true → g.running = true → g.held = [] → g.word = 0 →
      ∃ t, exec .obituary s = .next t ∧ Claims.cancelled s t g g.rank 62 ∧ t.fabric.dead = s.fabric.dead ++ [s.arg.dev])) ∧
  (∀ (s : State) (d : Nat), s.devNo / 32 = d / 32 → d ≠ s.devNo →
    (s.arg.dev / 32 = s.devNo / 32 → s.arg.dev ≠ d → ∃ t, exec .linkLoss s = .next t ∧ t.me = s.me ∧ t.mem = s.mem ∧
      (routeEntry s.fabric.routes d = true →
        ({ dev := d, job := 0, kind := 9, a := s.arg.dev, b := 0, bytes := [] } : Packet) ∈ t.fabric.out) ∧
      t.agenda = s.agenda ++ [{ ev := .obituary, arg := { dev := s.arg.dev } }]) ∧
    (∃ t, exec .deviceUnrecoverableFault s = .next t ∧ t.me = s.me ∧ t.mem = s.mem ∧
      (routeEntry s.fabric.routes d = true →
        ({ dev := d, job := 0, kind := 9, a := s.devNo, b := 0, bytes := [] } : Packet) ∈ t.fabric.out))) ∧
  (∀ (s : State) (k : Nat), Claims.quiet s → s.launches.die = [] → s.remaps = [] → s.fabric.subs = [] →
    findJob s.arg.job s.obj = some k → s.me.job.toNat ≠ s.arg.job →
    ∃ t, exec .jobKill s = .next t ∧ t.me = s.me ∧ t.mem = s.mem ∧ (t.objAt k).fld 0 28 3 = 5)

/-- R357, R358: TRAP_ENTRY gives a strand at home the fault it owes, with the class, WIN and tval found for it and with the vector
and the level its instruction issued under (R89); one that is abroad starts for home first. R363: after 2^31 cycles without an
issue the watchdog tells the supervisor of the core and counts anew. -/
def Obligations.OwedTrapAndWatchdog : Prop :=
  (∀ (s : State) (p : Pending) (cls detail : Nat) (tval : Word), s.me.pend = [p] → p.src = .fault cls detail tval →
    p.own = 0 →
    (s.me.core = s.me.homeCore → s.me.skip = none → unhandled p.tvec p.xpc = false →
      exec .trapEntry s = .next { s with me := { s.me with
        pend := [], tcause := causeWord cls p.win detail, tval, xpc := p.xpc, xplv := p.plv
        pc := p.tvec &&& 0xFFFFFFFFFFFE#48, t := s.me.t.map fun x => x.map Stream.forget
        spanErr := if cls = 8 ∧ detail = 1 then none else s.me.spanErr } }) ∧
    (s.me.core ≠ s.me.homeCore → ∃ t, exec .trapEntry s = .next t ∧ t.me.status = .transit s.me.homeCore 5 ∧
      t.me.pend = [{ p with left := 0 }] ∧ t.mem = s.mem)) ∧
  (∀ s : State, ∃ t, exec .watchdogExpiry s = .next t ∧ t.me = { s.me with lastIssue := s.clk } ∧ t.mem = s.mem ∧
    (t.queues.hw.getLast?.map fun m => (m.dst, m.msg.o)) = some
      (if 17 ≤ coreNo s.me.core then sysSid (coreDie s.me.core) else gafferSid (clusterOf s.me.core),
        #v[0x19, s.me.sid.setWidth 64, s.me.pc.setWidth 64, 0, 0, 0]))

/-- R15 to R39: the encoding loses nothing. The bytes of a well-formed instruction decode to it (to the first row, where
several rows share one word), whatever follows them; and bytes that decode are the bytes of the instruction found,
which is well formed. -/
def Obligations.DecodeAndEncodeAgree : Prop :=
  (∀ i : Instr, i.wf = true → i.hasWord = true → ∀ rest : List Byte, Dec.bytes (i.bytes ++ rest) = .ok (i.canon, rest)) ∧
  (∀ (bs rest : List Byte) (i : Instr), Dec.bytes bs = .ok (i, rest) →
    i.wf = true ∧ i.hasWord = true ∧ i.canon = i ∧ bs = i.bytes ++ rest)

/-- Words the spec writes out decode to the instructions it gives for them. -/
def Obligations.DecodedWords : Prop :=
  decodeTableWord 32 0x90108008 = some (.addi (.m 1) (.m 1) 1 0) ∧
  decodeTableWord 32 0x9A20A040 = some (.cmplti 2 (.m 1) 8 0) ∧
  decodeTableWord 16 0x0864 = some (.compactAdd (.m 3) (.m 4)) ∧
  decodeTableWord 32 0x80319000 = some (.add (.m 3) (.m 3) (.m 4) 0) ∧
  decodeTableWord 32 0xA4114560 = some (.cvt (.m 1) (.m 2) 12 10 .rne true 0) ∧
  decodeTableWord 32 0xAB3FFFFA = some (.br 3 (-6)) ∧
  decodeTableWord 32 0xB0207FE0 = some (.loop (.m 2) (-4) 0) ∧
  decodeTableWord 32 0xA8031078 = some (.swr .xpc (.m 6) 0) ∧
  decodeTableWord 32 0xC01100B2 = some (.ld (.m 1) (.m 2) 1 .b8 false 2) ∧
  decodeTableWord 32 0xCE531C01 = some (.amoadd (.m 5) (.m 6) (.m 7) 0 1) ∧
  decodeTableWord 32 0xCC300280 = some (.fence .die .full 0) ∧
  decodeTableWord 32 0xD4D08A8C = some (.vcmp .lt 5 (.k 1) (.k 2) 12 0) ∧
  decodeTableWord 32 0xDC428C22 = some (.pacc (.m 4) (.m 5) 3 2) ∧
  decodeTableWord 32 0xE0531C8F = some (.apply (.m 5) (.m 6) (.m 7) true false false 15) ∧
  decodeTableWord 32 0xE2428020 = some (.cbld (.m 4) (.m 5) 0) ∧
  decodeTableWord 32 0xB3130180 = some (.migr (.o 1) (.m 6) 0 0) ∧
  decodeTableWord 32 0xB4116080 = some (.launch (.m 1) (.m 2) .z 0 0) ∧
  decodeTableWord 32 0xE5642580 = some (.waitp .l0 (.m 8) (.m 9) 0 0) ∧
  decodeTableWord 32 0xE6429800 = some (.otset (.m 4) (.m 5) (.m 6) 0) ∧
  decodeTableWord 32 0xE8428070 = some (.cgrun (.m 4) (.m 5) 0) ∧
  decodeTableWord 32 0xEA400030 = some (.lehrEnter (.m 4) 0)

/-- R9, R15, R16, R38, R39: a strand that issues runs the instruction its bytes decode to. Fetch reads the bytes at pc; the
strand then does exec of that instruction; a step that issues is exec with the core's issue pointer moved and, after it,
waits looked at again and the clock advanced. A word that is no instruction raises class 1 with the word in tval, and a
pc where no code can stand raises the illegal-state fault. -/
def Obligations.StepRunsDecoded : Prop :=
  (∀ (s : State) (core : Nat) (pc : BitVec 48) (i : Instr), i.wf = true → i.hasWord = true → core < 4096 →
    pc.toNat + i.len ≤ 2 ^ 20 →
    (∀ j < i.len, s.badAt (lsKey core (pc.toNat + j)) = false ∧ s.byte (lsKey core (pc.toNat + j)) = i.bytes.getD j 0) →
    s.fetch core pc = .instr i.canon) ∧
  (∀ s : State, s.me.storeErr = none → s.me.skip = none →
    (∀ i, s.fetch s.me.core s.me.pc = .instr i → s.issueNext = exec i s ∧
      (s.moves = [.issue s.me.sid.toNat] →
        step s = Out.map (fun t => (s.pointed t).settle.tick) (exec i s))) ∧
    (∀ w, s.fetch s.me.core s.me.pc = .none w → s.issueNext = .next (s.raise 1 0 (toW w))) ∧
    (2 ^ 20 ≤ s.me.pc.toNat → s.issueNext = .next (s.raise 7 0 0)))

/-- Memory and the object table keep their one canonical form (addresses and keys strictly rising, no byte listed that is 0) in
every step from every state that has it. The form is the model's own (log 7): it makes equal memories equal data. -/
def Obligations.MemoryStaysCanonical : Prop :=
  ∀ s t : State, s.canonical = true → step s = .next t → t.canonical = true

/-- R61, R118, R371, Table 4.1: the machine after power-up. Every local store reads 0, every queue and table is empty, clk
is 0, no strand runs, and the boot of each of the eight dies is due. The strand in focus is the idle slot 0 of system
core 0 of die 0, and memory outside local store reads 0 (logs 1 and 4: the model's choice). -/
def Obligations.ResetState : Prop :=
  State.reset.canonical = true ∧ (∀ k, State.reset.mem.get k = 0) ∧ State.reset.clk = 0 ∧
    State.reset.me = Strand.fresh 0x120 .idle 2 ∧ State.reset.others = [] ∧ State.reset.obj = [] ∧ State.reset.tlb = [] ∧
    State.reset.barriers = [] ∧ State.reset.replays = [] ∧ State.reset.queues.task = [] ∧ State.reset.queues.die = [] ∧
    State.reset.queues.run = [] ∧ State.reset.engines.cmds = [] ∧ State.reset.engines.xfers = [] ∧
    State.reset.device.lehr = 0 ∧ State.reset.issues = [] ∧
    State.reset.agenda.map (fun d => (d.ev, d.arg.die)) = (List.range 8).map fun d => (Instr.powerUpBoot, d)

end
end

