-- ==== Sys2Proof/Laws/Memory.lean ====
section
/-! SUPPORT. Laws of finite tables and of memory: what a read gives after a write, and that every memory operation keeps
the canonical form. -/

namespace Sys2Proof.Machine

theorem SMap.find_put {α : Type} (k j : Nat) (v : α) (m : SMap α) :
    SMap.find j (SMap.put k v m) = if j = k then some v else SMap.find j m := by
  induction m with
  | nil => simp [SMap.put, SMap.find, eq_comm]
  | cons x r ih =>
    obtain ⟨a, w⟩ := x
    by_cases h : a = k
    · subst h; by_cases hj : j = a <;> simp [SMap.put, SMap.find, hj, eq_comm]
    · by_cases h2 : k < a
      · by_cases hj : j = k
        · subst hj; simp [SMap.put, SMap.find, h, h2]
        · simp [SMap.put, SMap.find, h, h2, hj, Ne.symm hj]
      · by_cases hj : a = j
        · subst hj; simp [SMap.put, SMap.find, h, h2]
        · simp [SMap.put, SMap.find, h, h2, hj, ih]

theorem SMap.find_of_sortedFrom {α : Type} (m : SMap α) (lo k : Nat) (h : SMap.sortedFrom lo m = true) (hk : k < lo) :
    SMap.find k m = none := by
  induction m generalizing lo with
  | nil => rfl
  | cons x r ih =>
    obtain ⟨a, w⟩ := x
    simp only [SMap.sortedFrom, Bool.and_eq_true, decide_eq_true_eq] at h
    have : a ≠ k := by omega
    simp [SMap.find, this, ih (a + 1) h.2 (by omega)]

theorem SMap.sortedFrom_mono {α : Type} (m : SMap α) (lo lo' : Nat) (h : SMap.sortedFrom lo m = true) (hk : lo' ≤ lo) :
    SMap.sortedFrom lo' m = true := by
  cases m with
  | nil => rfl
  | cons x r =>
    simp only [SMap.sortedFrom, Bool.and_eq_true, decide_eq_true_eq] at h ⊢
    exact ⟨by omega, h.2⟩

theorem SMap.sortedFrom_put {α : Type} (k lo : Nat) (v : α) (m : SMap α) (h : SMap.sortedFrom lo m = true) (hk : lo ≤ k) :
    SMap.sortedFrom lo (SMap.put k v m) = true := by
  induction m generalizing lo with
  | nil => simp [SMap.put, SMap.sortedFrom, hk]
  | cons x r ih =>
    obtain ⟨a, w⟩ := x
    simp only [SMap.sortedFrom, Bool.and_eq_true, decide_eq_true_eq] at h
    by_cases e : a = k
    · subst e; simp [SMap.put, SMap.sortedFrom, h]
    · by_cases l : k < a
      · simp only [SMap.put, e, l, if_true, if_false, SMap.sortedFrom, Bool.and_eq_true, decide_eq_true_eq]
        exact ⟨hk, by omega, h.2⟩
      · simp only [SMap.put, e, l, if_false, SMap.sortedFrom, Bool.and_eq_true, decide_eq_true_eq]
        exact ⟨h.1, ih (a + 1) h.2 (by omega)⟩

theorem SMap.sortedFrom_del {α : Type} (k lo : Nat) (m : SMap α) (h : SMap.sortedFrom lo m = true) :
    SMap.sortedFrom lo (SMap.del k m) = true := by
  induction m generalizing lo with
  | nil => rfl
  | cons x r ih =>
    obtain ⟨a, w⟩ := x
    simp only [SMap.sortedFrom, Bool.and_eq_true, decide_eq_true_eq] at h
    by_cases e : a = k
    · simp only [SMap.del, e, if_true]; exact SMap.sortedFrom_mono r (a + 1) lo h.2 (by omega)
    · simp only [SMap.del, e, if_false, SMap.sortedFrom, Bool.and_eq_true, decide_eq_true_eq]
      exact ⟨h.1, ih (a + 1) h.2⟩

theorem SMap.find_del {α : Type} (k j : Nat) (m : SMap α) (h : SMap.sorted m = true) :
    SMap.find j (SMap.del k m) = if j = k then none else SMap.find j m := by
  unfold SMap.sorted at h
  generalize 0 = lo at h
  induction m generalizing lo with
  | nil => simp [SMap.del, SMap.find]
  | cons x r ih =>
    obtain ⟨a, w⟩ := x
    simp only [SMap.sortedFrom, Bool.and_eq_true, decide_eq_true_eq] at h
    by_cases e : a = k
    · subst e
      by_cases hj : j = a
      · subst hj; simp [SMap.del, SMap.find_of_sortedFrom r (j + 1) j h.2 (by omega)]
      · simp [SMap.del, SMap.find, hj, Ne.symm hj]
    · by_cases hj : a = j
      · subst hj; simp [SMap.del, SMap.find, e]
      · simp [SMap.del, SMap.find, e, hj, ih (a + 1) h.2]

theorem Memory.noZero_put (k : Nat) (b : Byte) (m : Memory) (hb : b ≠ 0) (h : Memory.noZero m = true) :
    Memory.noZero (SMap.put k b m) = true := by
  induction m with
  | nil => simpa [SMap.put, Memory.noZero] using hb
  | cons x r ih =>
    obtain ⟨a, w⟩ := x
    simp only [Memory.noZero, Bool.and_eq_true] at h
    unfold SMap.put
    split
    · simp only [Memory.noZero, Bool.and_eq_true, decide_eq_true_eq]; exact ⟨hb, h.2⟩
    · split
      · simp only [Memory.noZero, Bool.and_eq_true, decide_eq_true_eq]; exact ⟨hb, by simpa using h.1, h.2⟩
      · simp only [Memory.noZero, Bool.and_eq_true]; exact ⟨h.1, ih h.2⟩

theorem Memory.noZero_del (k : Nat) (m : Memory) (h : Memory.noZero m = true) : Memory.noZero (SMap.del k m) = true := by
  induction m with
  | nil => rfl
  | cons x r ih =>
    obtain ⟨a, w⟩ := x
    simp only [Memory.noZero, Bool.and_eq_true] at h
    unfold SMap.del
    split
    · exact h.2
    · simp only [Memory.noZero, Bool.and_eq_true]; exact ⟨h.1, ih h.2⟩

/-- A write of one byte keeps the canonical form. -/
theorem Memory.wf_set (m : Memory) (a : Nat) (b : Byte) (h : m.wf = true) : (m.set a b).wf = true := by
  simp only [Memory.wf, Bool.and_eq_true] at h ⊢
  by_cases e : b = 0
  · simp only [Memory.set, e, if_true]; exact ⟨SMap.sortedFrom_del _ _ _ h.1, Memory.noZero_del _ _ h.2⟩
  · simp only [Memory.set, e, if_false]; exact ⟨SMap.sortedFrom_put _ _ _ _ h.1 (Nat.zero_le _), Memory.noZero_put _ _ _ e h.2⟩

/-- A write of many bytes keeps the canonical form. -/
theorem Memory.wf_setAll (cs : List (Nat × Byte)) (m : Memory) (h : m.wf = true) : (m.setAll cs).wf = true := by
  induction cs generalizing m with
  | nil => exact h
  | cons x r ih => exact ih _ (Memory.wf_set _ _ _ h)

/-- What a byte reads as after a write of one byte. -/
theorem Memory.get_set (m : Memory) (a j : Nat) (b : Byte) (h : m.wf = true) :
    (m.set a b).get j = if j = a then b else m.get j := by
  simp only [Memory.wf, Bool.and_eq_true] at h
  unfold Memory.set Memory.get
  split
  · rename_i e
    rw [SMap.find_del _ _ _ h.1]
    split <;> simp [e]
  · rw [SMap.find_put]
    split <;> rfl

/-- A byte no write of a list names reads as before. -/
theorem Memory.get_setAll_of_notMem (cs : List (Nat × Byte)) (m : Memory) (j : Nat) (h : m.wf = true)
    (hj : ∀ c ∈ cs, c.1 ≠ j) : (m.setAll cs).get j = m.get j := by
  induction cs generalizing m with
  | nil => rfl
  | cons x r ih =>
    obtain ⟨a, b⟩ := x
    have ha : j ≠ a := fun e => hj (a, b) (by simp) e.symm
    simp only [Memory.setAll]
    rw [ih _ (Memory.wf_set _ _ _ h) (fun c hc => hj c (by simp [hc])), Memory.get_set _ _ _ _ h]
    simp [ha]

theorem Memory.wf_nil : Memory.wf [] = true := rfl
theorem State.reset_mem_wf : State.reset.mem.wf = true := rfl

/-! The memory operations of the state keep the canonical form. -/

theorem State.setByte_wf (s : State) (a : Nat) (b : Byte) (h : s.mem.wf = true) : (s.setByte a b).mem.wf = true :=
  Memory.wf_set _ _ _ h
theorem State.setCells_wf (s : State) (cs : List (Nat × Byte)) (h : s.mem.wf = true) : (s.setCells cs).mem.wf = true :=
  Memory.wf_setAll _ _ h
theorem State.setBytes_wf (s : State) (a : Nat) (bs : List Byte) (h : s.mem.wf = true) : (s.setBytes a bs).mem.wf = true :=
  Memory.wf_setAll _ _ h
theorem State.setNum_wf (s : State) (a n v : Nat) (h : s.mem.wf = true) : (s.setNum a n v).mem.wf = true :=
  Memory.wf_setAll _ _ h
theorem State.setWord_wf (s : State) (a : Nat) (v : Word) (h : s.mem.wf = true) : (s.setWord a v).mem.wf = true :=
  Memory.wf_setAll _ _ h
theorem State.count_wf (s : State) (die off : Nat) (h : s.mem.wf = true) : (s.count die off).mem.wf = true :=
  Memory.wf_setAll _ _ h
theorem State.logError_wf (s : State) (k : Nat) (h : s.mem.wf = true) : (s.logError k).mem.wf = true :=
  Memory.wf_setAll _ _ h

end Sys2Proof.Machine
end

