-- ==== Sys2Proof/Laws/State.lean ====
section
/-! SUPPORT. What each update of a state or of a strand does to each field: one lemma per field and update. -/

namespace Sys2Proof.Machine

@[simp] theorem State.setByte_me (s : State) (a : Nat) (b : Byte) : (s.setByte a b).me = s.me := rfl
@[simp] theorem State.setByte_others (s : State) (a : Nat) (b : Byte) : (s.setByte a b).others = s.others := rfl
@[simp] theorem State.setByte_mem (s : State) (a : Nat) (b : Byte) : (s.setByte a b).mem = s.mem.set a b := rfl
@[simp] theorem State.setByte_bad (s : State) (a : Nat) (b : Byte) : (s.setByte a b).bad = s.bad := rfl
@[simp] theorem State.setByte_clk (s : State) (a : Nat) (b : Byte) : (s.setByte a b).clk = s.clk := rfl
@[simp] theorem State.setByte_ticks (s : State) (a : Nat) (b : Byte) : (s.setByte a b).ticks = s.ticks := rfl
@[simp] theorem State.setByte_free (s : State) (a : Nat) (b : Byte) : (s.setByte a b).free = s.free := rfl
@[simp] theorem State.setByte_agenda (s : State) (a : Nat) (b : Byte) : (s.setByte a b).agenda = s.agenda := rfl
@[simp] theorem State.setByte_arg (s : State) (a : Nat) (b : Byte) : (s.setByte a b).arg = s.arg := rfl
@[simp] theorem State.setByte_obj (s : State) (a : Nat) (b : Byte) : (s.setByte a b).obj = s.obj := rfl
@[simp] theorem State.setByte_tlb (s : State) (a : Nat) (b : Byte) : (s.setByte a b).tlb = s.tlb := rfl
@[simp] theorem State.setByte_migs (s : State) (a : Nat) (b : Byte) : (s.setByte a b).migs = s.migs := rfl
@[simp] theorem State.setByte_queues (s : State) (a : Nat) (b : Byte) : (s.setByte a b).queues = s.queues := rfl
@[simp] theorem State.setByte_launches (s : State) (a : Nat) (b : Byte) : (s.setByte a b).launches = s.launches := rfl
@[simp] theorem State.setByte_barriers (s : State) (a : Nat) (b : Byte) : (s.setByte a b).barriers = s.barriers := rfl
@[simp] theorem State.setByte_fabric (s : State) (a : Nat) (b : Byte) : (s.setByte a b).fabric = s.fabric := rfl
@[simp] theorem State.setByte_device (s : State) (a : Nat) (b : Byte) : (s.setByte a b).device = s.device := rfl
@[simp] theorem State.setByte_engines (s : State) (a : Nat) (b : Byte) : (s.setByte a b).engines = s.engines := rfl
@[simp] theorem State.setByte_remaps (s : State) (a : Nat) (b : Byte) : (s.setByte a b).remaps = s.remaps := rfl
@[simp] theorem State.setByte_marvers (s : State) (a : Nat) (b : Byte) : (s.setByte a b).marvers = s.marvers := rfl
@[simp] theorem State.setByte_fieldTabs (s : State) (a : Nat) (b : Byte) : (s.setByte a b).fieldTabs = s.fieldTabs := rfl
@[simp] theorem State.setByte_objCache (s : State) (a : Nat) (b : Byte) : (s.setByte a b).objCache = s.objCache := rfl
@[simp] theorem State.setByte_tier (s : State) (a : Nat) (b : Byte) : (s.setByte a b).tier = s.tier := rfl
@[simp] theorem State.setByte_replays (s : State) (a : Nat) (b : Byte) : (s.setByte a b).replays = s.replays := rfl
@[simp] theorem State.setByte_spills (s : State) (a : Nat) (b : Byte) : (s.setByte a b).spills = s.spills := rfl

@[simp] theorem State.setCells_me (s : State) (cs : List (Nat × Byte)) : (s.setCells cs).me = s.me := rfl
@[simp] theorem State.setCells_others (s : State) (cs : List (Nat × Byte)) : (s.setCells cs).others = s.others := rfl
@[simp] theorem State.setCells_mem (s : State) (cs : List (Nat × Byte)) : (s.setCells cs).mem = s.mem.setAll cs := rfl
@[simp] theorem State.setCells_bad (s : State) (cs : List (Nat × Byte)) : (s.setCells cs).bad = s.bad := rfl
@[simp] theorem State.setCells_clk (s : State) (cs : List (Nat × Byte)) : (s.setCells cs).clk = s.clk := rfl
@[simp] theorem State.setCells_ticks (s : State) (cs : List (Nat × Byte)) : (s.setCells cs).ticks = s.ticks := rfl
@[simp] theorem State.setCells_free (s : State) (cs : List (Nat × Byte)) : (s.setCells cs).free = s.free := rfl
@[simp] theorem State.setCells_agenda (s : State) (cs : List (Nat × Byte)) : (s.setCells cs).agenda = s.agenda := rfl
@[simp] theorem State.setCells_arg (s : State) (cs : List (Nat × Byte)) : (s.setCells cs).arg = s.arg := rfl
@[simp] theorem State.setCells_obj (s : State) (cs : List (Nat × Byte)) : (s.setCells cs).obj = s.obj := rfl
@[simp] theorem State.setCells_tlb (s : State) (cs : List (Nat × Byte)) : (s.setCells cs).tlb = s.tlb := rfl
@[simp] theorem State.setCells_migs (s : State) (cs : List (Nat × Byte)) : (s.setCells cs).migs = s.migs := rfl
@[simp] theorem State.setCells_queues (s : State) (cs : List (Nat × Byte)) : (s.setCells cs).queues = s.queues := rfl
@[simp] theorem State.setCells_launches (s : State) (cs : List (Nat × Byte)) : (s.setCells cs).launches = s.launches := rfl
@[simp] theorem State.setCells_barriers (s : State) (cs : List (Nat × Byte)) : (s.setCells cs).barriers = s.barriers := rfl
@[simp] theorem State.setCells_fabric (s : State) (cs : List (Nat × Byte)) : (s.setCells cs).fabric = s.fabric := rfl
@[simp] theorem State.setCells_device (s : State) (cs : List (Nat × Byte)) : (s.setCells cs).device = s.device := rfl
@[simp] theorem State.setCells_engines (s : State) (cs : List (Nat × Byte)) : (s.setCells cs).engines = s.engines := rfl
@[simp] theorem State.setCells_remaps (s : State) (cs : List (Nat × Byte)) : (s.setCells cs).remaps = s.remaps := rfl
@[simp] theorem State.setCells_marvers (s : State) (cs : List (Nat × Byte)) : (s.setCells cs).marvers = s.marvers := rfl
@[simp] theorem State.setCells_fieldTabs (s : State) (cs : List (Nat × Byte)) : (s.setCells cs).fieldTabs = s.fieldTabs := rfl
@[simp] theorem State.setCells_objCache (s : State) (cs : List (Nat × Byte)) : (s.setCells cs).objCache = s.objCache := rfl
@[simp] theorem State.setCells_tier (s : State) (cs : List (Nat × Byte)) : (s.setCells cs).tier = s.tier := rfl
@[simp] theorem State.setCells_replays (s : State) (cs : List (Nat × Byte)) : (s.setCells cs).replays = s.replays := rfl
@[simp] theorem State.setCells_spills (s : State) (cs : List (Nat × Byte)) : (s.setCells cs).spills = s.spills := rfl

@[simp] theorem State.setBytes_me (s : State) (a : Nat) (bs : List Byte) : (s.setBytes a bs).me = s.me := rfl
@[simp] theorem State.setBytes_others (s : State) (a : Nat) (bs : List Byte) : (s.setBytes a bs).others = s.others := rfl
@[simp] theorem State.setBytes_mem (s : State) (a : Nat) (bs : List Byte) : (s.setBytes a bs).mem = s.mem.setAll ((List.range bs.length).zipWith (fun i b => (a + i, b)) bs) := rfl
@[simp] theorem State.setBytes_bad (s : State) (a : Nat) (bs : List Byte) : (s.setBytes a bs).bad = s.bad := rfl
@[simp] theorem State.setBytes_clk (s : State) (a : Nat) (bs : List Byte) : (s.setBytes a bs).clk = s.clk := rfl
@[simp] theorem State.setBytes_ticks (s : State) (a : Nat) (bs : List Byte) : (s.setBytes a bs).ticks = s.ticks := rfl
@[simp] theorem State.setBytes_free (s : State) (a : Nat) (bs : List Byte) : (s.setBytes a bs).free = s.free := rfl
@[simp] theorem State.setBytes_agenda (s : State) (a : Nat) (bs : List Byte) : (s.setBytes a bs).agenda = s.agenda := rfl
@[simp] theorem State.setBytes_arg (s : State) (a : Nat) (bs : List Byte) : (s.setBytes a bs).arg = s.arg := rfl
@[simp] theorem State.setBytes_obj (s : State) (a : Nat) (bs : List Byte) : (s.setBytes a bs).obj = s.obj := rfl
@[simp] theorem State.setBytes_tlb (s : State) (a : Nat) (bs : List Byte) : (s.setBytes a bs).tlb = s.tlb := rfl
@[simp] theorem State.setBytes_migs (s : State) (a : Nat) (bs : List Byte) : (s.setBytes a bs).migs = s.migs := rfl
@[simp] theorem State.setBytes_queues (s : State) (a : Nat) (bs : List Byte) : (s.setBytes a bs).queues = s.queues := rfl
@[simp] theorem State.setBytes_launches (s : State) (a : Nat) (bs : List Byte) : (s.setBytes a bs).launches = s.launches := rfl
@[simp] theorem State.setBytes_barriers (s : State) (a : Nat) (bs : List Byte) : (s.setBytes a bs).barriers = s.barriers := rfl
@[simp] theorem State.setBytes_fabric (s : State) (a : Nat) (bs : List Byte) : (s.setBytes a bs).fabric = s.fabric := rfl
@[simp] theorem State.setBytes_device (s : State) (a : Nat) (bs : List Byte) : (s.setBytes a bs).device = s.device := rfl
@[simp] theorem State.setBytes_engines (s : State) (a : Nat) (bs : List Byte) : (s.setBytes a bs).engines = s.engines := rfl
@[simp] theorem State.setBytes_remaps (s : State) (a : Nat) (bs : List Byte) : (s.setBytes a bs).remaps = s.remaps := rfl
@[simp] theorem State.setBytes_marvers (s : State) (a : Nat) (bs : List Byte) : (s.setBytes a bs).marvers = s.marvers := rfl
@[simp] theorem State.setBytes_fieldTabs (s : State) (a : Nat) (bs : List Byte) : (s.setBytes a bs).fieldTabs = s.fieldTabs := rfl
@[simp] theorem State.setBytes_objCache (s : State) (a : Nat) (bs : List Byte) : (s.setBytes a bs).objCache = s.objCache := rfl
@[simp] theorem State.setBytes_tier (s : State) (a : Nat) (bs : List Byte) : (s.setBytes a bs).tier = s.tier := rfl
@[simp] theorem State.setBytes_replays (s : State) (a : Nat) (bs : List Byte) : (s.setBytes a bs).replays = s.replays := rfl
@[simp] theorem State.setBytes_spills (s : State) (a : Nat) (bs : List Byte) : (s.setBytes a bs).spills = s.spills := rfl

@[simp] theorem State.setNum_me (s : State) (a n v : Nat) : (s.setNum a n v).me = s.me := rfl
@[simp] theorem State.setNum_others (s : State) (a n v : Nat) : (s.setNum a n v).others = s.others := rfl
@[simp] theorem State.setNum_bad (s : State) (a n v : Nat) : (s.setNum a n v).bad = s.bad := rfl
@[simp] theorem State.setNum_clk (s : State) (a n v : Nat) : (s.setNum a n v).clk = s.clk := rfl
@[simp] theorem State.setNum_ticks (s : State) (a n v : Nat) : (s.setNum a n v).ticks = s.ticks := rfl
@[simp] theorem State.setNum_free (s : State) (a n v : Nat) : (s.setNum a n v).free = s.free := rfl
@[simp] theorem State.setNum_agenda (s : State) (a n v : Nat) : (s.setNum a n v).agenda = s.agenda := rfl
@[simp] theorem State.setNum_arg (s : State) (a n v : Nat) : (s.setNum a n v).arg = s.arg := rfl
@[simp] theorem State.setNum_obj (s : State) (a n v : Nat) : (s.setNum a n v).obj = s.obj := rfl
@[simp] theorem State.setNum_tlb (s : State) (a n v : Nat) : (s.setNum a n v).tlb = s.tlb := rfl
@[simp] theorem State.setNum_migs (s : State) (a n v : Nat) : (s.setNum a n v).migs = s.migs := rfl
@[simp] theorem State.setNum_queues (s : State) (a n v : Nat) : (s.setNum a n v).queues = s.queues := rfl
@[simp] theorem State.setNum_launches (s : State) (a n v : Nat) : (s.setNum a n v).launches = s.launches := rfl
@[simp] theorem State.setNum_barriers (s : State) (a n v : Nat) : (s.setNum a n v).barriers = s.barriers := rfl
@[simp] theorem State.setNum_fabric (s : State) (a n v : Nat) : (s.setNum a n v).fabric = s.fabric := rfl
@[simp] theorem State.setNum_device (s : State) (a n v : Nat) : (s.setNum a n v).device = s.device := rfl
@[simp] theorem State.setNum_engines (s : State) (a n v : Nat) : (s.setNum a n v).engines = s.engines := rfl
@[simp] theorem State.setNum_remaps (s : State) (a n v : Nat) : (s.setNum a n v).remaps = s.remaps := rfl
@[simp] theorem State.setNum_marvers (s : State) (a n v : Nat) : (s.setNum a n v).marvers = s.marvers := rfl
@[simp] theorem State.setNum_fieldTabs (s : State) (a n v : Nat) : (s.setNum a n v).fieldTabs = s.fieldTabs := rfl
@[simp] theorem State.setNum_objCache (s : State) (a n v : Nat) : (s.setNum a n v).objCache = s.objCache := rfl
@[simp] theorem State.setNum_tier (s : State) (a n v : Nat) : (s.setNum a n v).tier = s.tier := rfl
@[simp] theorem State.setNum_replays (s : State) (a n v : Nat) : (s.setNum a n v).replays = s.replays := rfl
@[simp] theorem State.setNum_spills (s : State) (a n v : Nat) : (s.setNum a n v).spills = s.spills := rfl

@[simp] theorem State.setWord_me (s : State) (a : Nat) (v : Word) : (s.setWord a v).me = s.me := rfl
@[simp] theorem State.setWord_others (s : State) (a : Nat) (v : Word) : (s.setWord a v).others = s.others := rfl
@[simp] theorem State.setWord_bad (s : State) (a : Nat) (v : Word) : (s.setWord a v).bad = s.bad := rfl
@[simp] theorem State.setWord_clk (s : State) (a : Nat) (v : Word) : (s.setWord a v).clk = s.clk := rfl
@[simp] theorem State.setWord_ticks (s : State) (a : Nat) (v : Word) : (s.setWord a v).ticks = s.ticks := rfl
@[simp] theorem State.setWord_free (s : State) (a : Nat) (v : Word) : (s.setWord a v).free = s.free := rfl
@[simp] theorem State.setWord_agenda (s : State) (a : Nat) (v : Word) : (s.setWord a v).agenda = s.agenda := rfl
@[simp] theorem State.setWord_arg (s : State) (a : Nat) (v : Word) : (s.setWord a v).arg = s.arg := rfl
@[simp] theorem State.setWord_obj (s : State) (a : Nat) (v : Word) : (s.setWord a v).obj = s.obj := rfl
@[simp] theorem State.setWord_tlb (s : State) (a : Nat) (v : Word) : (s.setWord a v).tlb = s.tlb := rfl
@[simp] theorem State.setWord_migs (s : State) (a : Nat) (v : Word) : (s.setWord a v).migs = s.migs := rfl
@[simp] theorem State.setWord_queues (s : State) (a : Nat) (v : Word) : (s.setWord a v).queues = s.queues := rfl
@[simp] theorem State.setWord_launches (s : State) (a : Nat) (v : Word) : (s.setWord a v).launches = s.launches := rfl
@[simp] theorem State.setWord_barriers (s : State) (a : Nat) (v : Word) : (s.setWord a v).barriers = s.barriers := rfl
@[simp] theorem State.setWord_fabric (s : State) (a : Nat) (v : Word) : (s.setWord a v).fabric = s.fabric := rfl
@[simp] theorem State.setWord_device (s : State) (a : Nat) (v : Word) : (s.setWord a v).device = s.device := rfl
@[simp] theorem State.setWord_engines (s : State) (a : Nat) (v : Word) : (s.setWord a v).engines = s.engines := rfl
@[simp] theorem State.setWord_remaps (s : State) (a : Nat) (v : Word) : (s.setWord a v).remaps = s.remaps := rfl
@[simp] theorem State.setWord_marvers (s : State) (a : Nat) (v : Word) : (s.setWord a v).marvers = s.marvers := rfl
@[simp] theorem State.setWord_fieldTabs (s : State) (a : Nat) (v : Word) : (s.setWord a v).fieldTabs = s.fieldTabs := rfl
@[simp] theorem State.setWord_objCache (s : State) (a : Nat) (v : Word) : (s.setWord a v).objCache = s.objCache := rfl
@[simp] theorem State.setWord_tier (s : State) (a : Nat) (v : Word) : (s.setWord a v).tier = s.tier := rfl
@[simp] theorem State.setWord_replays (s : State) (a : Nat) (v : Word) : (s.setWord a v).replays = s.replays := rfl
@[simp] theorem State.setWord_spills (s : State) (a : Nat) (v : Word) : (s.setWord a v).spills = s.spills := rfl

@[simp] theorem State.count_me (s : State) (die off : Nat) : (s.count die off).me = s.me := rfl
@[simp] theorem State.count_others (s : State) (die off : Nat) : (s.count die off).others = s.others := rfl
@[simp] theorem State.count_bad (s : State) (die off : Nat) : (s.count die off).bad = s.bad := rfl
@[simp] theorem State.count_clk (s : State) (die off : Nat) : (s.count die off).clk = s.clk := rfl
@[simp] theorem State.count_ticks (s : State) (die off : Nat) : (s.count die off).ticks = s.ticks := rfl
@[simp] theorem State.count_free (s : State) (die off : Nat) : (s.count die off).free = s.free := rfl
@[simp] theorem State.count_agenda (s : State) (die off : Nat) : (s.count die off).agenda = s.agenda := rfl
@[simp] theorem State.count_arg (s : State) (die off : Nat) : (s.count die off).arg = s.arg := rfl
@[simp] theorem State.count_obj (s : State) (die off : Nat) : (s.count die off).obj = s.obj := rfl
@[simp] theorem State.count_tlb (s : State) (die off : Nat) : (s.count die off).tlb = s.tlb := rfl
@[simp] theorem State.count_migs (s : State) (die off : Nat) : (s.count die off).migs = s.migs := rfl
@[simp] theorem State.count_queues (s : State) (die off : Nat) : (s.count die off).queues = s.queues := rfl
@[simp] theorem State.count_launches (s : State) (die off : Nat) : (s.count die off).launches = s.launches := rfl
@[simp] theorem State.count_barriers (s : State) (die off : Nat) : (s.count die off).barriers = s.barriers := rfl
@[simp] theorem State.count_fabric (s : State) (die off : Nat) : (s.count die off).fabric = s.fabric := rfl
@[simp] theorem State.count_device (s : State) (die off : Nat) : (s.count die off).device = s.device := rfl
@[simp] theorem State.count_engines (s : State) (die off : Nat) : (s.count die off).engines = s.engines := rfl
@[simp] theorem State.count_remaps (s : State) (die off : Nat) : (s.count die off).remaps = s.remaps := rfl
@[simp] theorem State.count_marvers (s : State) (die off : Nat) : (s.count die off).marvers = s.marvers := rfl
@[simp] theorem State.count_fieldTabs (s : State) (die off : Nat) : (s.count die off).fieldTabs = s.fieldTabs := rfl
@[simp] theorem State.count_objCache (s : State) (die off : Nat) : (s.count die off).objCache = s.objCache := rfl
@[simp] theorem State.count_tier (s : State) (die off : Nat) : (s.count die off).tier = s.tier := rfl
@[simp] theorem State.count_replays (s : State) (die off : Nat) : (s.count die off).replays = s.replays := rfl
@[simp] theorem State.count_spills (s : State) (die off : Nat) : (s.count die off).spills = s.spills := rfl

@[simp] theorem State.setObj_me (s : State) (key : Nat) (o : Obj) : (s.setObj key o).me = s.me := rfl
@[simp] theorem State.setObj_others (s : State) (key : Nat) (o : Obj) : (s.setObj key o).others = s.others := rfl
@[simp] theorem State.setObj_mem (s : State) (key : Nat) (o : Obj) : (s.setObj key o).mem = s.mem := rfl
@[simp] theorem State.setObj_bad (s : State) (key : Nat) (o : Obj) : (s.setObj key o).bad = s.bad := rfl
@[simp] theorem State.setObj_clk (s : State) (key : Nat) (o : Obj) : (s.setObj key o).clk = s.clk := rfl
@[simp] theorem State.setObj_ticks (s : State) (key : Nat) (o : Obj) : (s.setObj key o).ticks = s.ticks := rfl
@[simp] theorem State.setObj_free (s : State) (key : Nat) (o : Obj) : (s.setObj key o).free = s.free := rfl
@[simp] theorem State.setObj_agenda (s : State) (key : Nat) (o : Obj) : (s.setObj key o).agenda = s.agenda := rfl
@[simp] theorem State.setObj_arg (s : State) (key : Nat) (o : Obj) : (s.setObj key o).arg = s.arg := rfl
@[simp] theorem State.setObj_obj (s : State) (key : Nat) (o : Obj) : (s.setObj key o).obj = SMap.put key o s.obj := rfl
@[simp] theorem State.setObj_tlb (s : State) (key : Nat) (o : Obj) : (s.setObj key o).tlb = s.tlb := rfl
@[simp] theorem State.setObj_migs (s : State) (key : Nat) (o : Obj) : (s.setObj key o).migs = s.migs := rfl
@[simp] theorem State.setObj_queues (s : State) (key : Nat) (o : Obj) : (s.setObj key o).queues = s.queues := rfl
@[simp] theorem State.setObj_launches (s : State) (key : Nat) (o : Obj) : (s.setObj key o).launches = s.launches := rfl
@[simp] theorem State.setObj_barriers (s : State) (key : Nat) (o : Obj) : (s.setObj key o).barriers = s.barriers := rfl
@[simp] theorem State.setObj_fabric (s : State) (key : Nat) (o : Obj) : (s.setObj key o).fabric = s.fabric := rfl
@[simp] theorem State.setObj_device (s : State) (key : Nat) (o : Obj) : (s.setObj key o).device = s.device := rfl
@[simp] theorem State.setObj_engines (s : State) (key : Nat) (o : Obj) : (s.setObj key o).engines = s.engines := rfl
@[simp] theorem State.setObj_remaps (s : State) (key : Nat) (o : Obj) : (s.setObj key o).remaps = s.remaps := rfl
@[simp] theorem State.setObj_marvers (s : State) (key : Nat) (o : Obj) : (s.setObj key o).marvers = s.marvers := rfl
@[simp] theorem State.setObj_fieldTabs (s : State) (key : Nat) (o : Obj) : (s.setObj key o).fieldTabs = s.fieldTabs := rfl
@[simp] theorem State.setObj_objCache (s : State) (key : Nat) (o : Obj) : (s.setObj key o).objCache = s.objCache := rfl
@[simp] theorem State.setObj_tier (s : State) (key : Nat) (o : Obj) : (s.setObj key o).tier = s.tier := rfl
@[simp] theorem State.setObj_replays (s : State) (key : Nat) (o : Obj) : (s.setObj key o).replays = s.replays := rfl
@[simp] theorem State.setObj_spills (s : State) (key : Nat) (o : Obj) : (s.setObj key o).spills = s.spills := rfl

@[simp] theorem State.modObj_me (s : State) (key : Nat) (f : Obj → Obj) : (s.modObj key f).me = s.me := rfl
@[simp] theorem State.modObj_others (s : State) (key : Nat) (f : Obj → Obj) : (s.modObj key f).others = s.others := rfl
@[simp] theorem State.modObj_mem (s : State) (key : Nat) (f : Obj → Obj) : (s.modObj key f).mem = s.mem := rfl
@[simp] theorem State.modObj_bad (s : State) (key : Nat) (f : Obj → Obj) : (s.modObj key f).bad = s.bad := rfl
@[simp] theorem State.modObj_clk (s : State) (key : Nat) (f : Obj → Obj) : (s.modObj key f).clk = s.clk := rfl
@[simp] theorem State.modObj_ticks (s : State) (key : Nat) (f : Obj → Obj) : (s.modObj key f).ticks = s.ticks := rfl
@[simp] theorem State.modObj_free (s : State) (key : Nat) (f : Obj → Obj) : (s.modObj key f).free = s.free := rfl
@[simp] theorem State.modObj_agenda (s : State) (key : Nat) (f : Obj → Obj) : (s.modObj key f).agenda = s.agenda := rfl
@[simp] theorem State.modObj_arg (s : State) (key : Nat) (f : Obj → Obj) : (s.modObj key f).arg = s.arg := rfl
@[simp] theorem State.modObj_obj (s : State) (key : Nat) (f : Obj → Obj) : (s.modObj key f).obj = SMap.put key (f (s.objAt key)) s.obj := rfl
@[simp] theorem State.modObj_tlb (s : State) (key : Nat) (f : Obj → Obj) : (s.modObj key f).tlb = s.tlb := rfl
@[simp] theorem State.modObj_migs (s : State) (key : Nat) (f : Obj → Obj) : (s.modObj key f).migs = s.migs := rfl
@[simp] theorem State.modObj_queues (s : State) (key : Nat) (f : Obj → Obj) : (s.modObj key f).queues = s.queues := rfl
@[simp] theorem State.modObj_launches (s : State) (key : Nat) (f : Obj → Obj) : (s.modObj key f).launches = s.launches := rfl
@[simp] theorem State.modObj_barriers (s : State) (key : Nat) (f : Obj → Obj) : (s.modObj key f).barriers = s.barriers := rfl
@[simp] theorem State.modObj_fabric (s : State) (key : Nat) (f : Obj → Obj) : (s.modObj key f).fabric = s.fabric := rfl
@[simp] theorem State.modObj_device (s : State) (key : Nat) (f : Obj → Obj) : (s.modObj key f).device = s.device := rfl
@[simp] theorem State.modObj_engines (s : State) (key : Nat) (f : Obj → Obj) : (s.modObj key f).engines = s.engines := rfl
@[simp] theorem State.modObj_remaps (s : State) (key : Nat) (f : Obj → Obj) : (s.modObj key f).remaps = s.remaps := rfl
@[simp] theorem State.modObj_marvers (s : State) (key : Nat) (f : Obj → Obj) : (s.modObj key f).marvers = s.marvers := rfl
@[simp] theorem State.modObj_fieldTabs (s : State) (key : Nat) (f : Obj → Obj) : (s.modObj key f).fieldTabs = s.fieldTabs := rfl
@[simp] theorem State.modObj_objCache (s : State) (key : Nat) (f : Obj → Obj) : (s.modObj key f).objCache = s.objCache := rfl
@[simp] theorem State.modObj_tier (s : State) (key : Nat) (f : Obj → Obj) : (s.modObj key f).tier = s.tier := rfl
@[simp] theorem State.modObj_replays (s : State) (key : Nat) (f : Obj → Obj) : (s.modObj key f).replays = s.replays := rfl
@[simp] theorem State.modObj_spills (s : State) (key : Nat) (f : Obj → Obj) : (s.modObj key f).spills = s.spills := rfl

@[simp] theorem State.setObjFld_me (s : State) (key w lo n v : Nat) : (s.setObjFld key w lo n v).me = s.me := rfl
@[simp] theorem State.setObjFld_others (s : State) (key w lo n v : Nat) : (s.setObjFld key w lo n v).others = s.others := rfl
@[simp] theorem State.setObjFld_mem (s : State) (key w lo n v : Nat) : (s.setObjFld key w lo n v).mem = s.mem := rfl
@[simp] theorem State.setObjFld_bad (s : State) (key w lo n v : Nat) : (s.setObjFld key w lo n v).bad = s.bad := rfl
@[simp] theorem State.setObjFld_clk (s : State) (key w lo n v : Nat) : (s.setObjFld key w lo n v).clk = s.clk := rfl
@[simp] theorem State.setObjFld_ticks (s : State) (key w lo n v : Nat) : (s.setObjFld key w lo n v).ticks = s.ticks := rfl
@[simp] theorem State.setObjFld_free (s : State) (key w lo n v : Nat) : (s.setObjFld key w lo n v).free = s.free := rfl
@[simp] theorem State.setObjFld_agenda (s : State) (key w lo n v : Nat) : (s.setObjFld key w lo n v).agenda = s.agenda := rfl
@[simp] theorem State.setObjFld_arg (s : State) (key w lo n v : Nat) : (s.setObjFld key w lo n v).arg = s.arg := rfl
@[simp] theorem State.setObjFld_obj (s : State) (key w lo n v : Nat) : (s.setObjFld key w lo n v).obj = SMap.put key ((s.objAt key).setFld w lo n v) s.obj := rfl
@[simp] theorem State.setObjFld_tlb (s : State) (key w lo n v : Nat) : (s.setObjFld key w lo n v).tlb = s.tlb := rfl
@[simp] theorem State.setObjFld_migs (s : State) (key w lo n v : Nat) : (s.setObjFld key w lo n v).migs = s.migs := rfl
@[simp] theorem State.setObjFld_queues (s : State) (key w lo n v : Nat) : (s.setObjFld key w lo n v).queues = s.queues := rfl
@[simp] theorem State.setObjFld_launches (s : State) (key w lo n v : Nat) : (s.setObjFld key w lo n v).launches = s.launches := rfl
@[simp] theorem State.setObjFld_barriers (s : State) (key w lo n v : Nat) : (s.setObjFld key w lo n v).barriers = s.barriers := rfl
@[simp] theorem State.setObjFld_fabric (s : State) (key w lo n v : Nat) : (s.setObjFld key w lo n v).fabric = s.fabric := rfl
@[simp] theorem State.setObjFld_device (s : State) (key w lo n v : Nat) : (s.setObjFld key w lo n v).device = s.device := rfl
@[simp] theorem State.setObjFld_engines (s : State) (key w lo n v : Nat) : (s.setObjFld key w lo n v).engines = s.engines := rfl
@[simp] theorem State.setObjFld_remaps (s : State) (key w lo n v : Nat) : (s.setObjFld key w lo n v).remaps = s.remaps := rfl
@[simp] theorem State.setObjFld_marvers (s : State) (key w lo n v : Nat) : (s.setObjFld key w lo n v).marvers = s.marvers := rfl
@[simp] theorem State.setObjFld_fieldTabs (s : State) (key w lo n v : Nat) : (s.setObjFld key w lo n v).fieldTabs = s.fieldTabs := rfl
@[simp] theorem State.setObjFld_objCache (s : State) (key w lo n v : Nat) : (s.setObjFld key w lo n v).objCache = s.objCache := rfl
@[simp] theorem State.setObjFld_tier (s : State) (key w lo n v : Nat) : (s.setObjFld key w lo n v).tier = s.tier := rfl
@[simp] theorem State.setObjFld_replays (s : State) (key w lo n v : Nat) : (s.setObjFld key w lo n v).replays = s.replays := rfl
@[simp] theorem State.setObjFld_spills (s : State) (key w lo n v : Nat) : (s.setObjFld key w lo n v).spills = s.spills := rfl

@[simp] theorem State.due_me (s : State) (ev : Instr) (arg : Arg) : (s.due ev arg).me = s.me := rfl
@[simp] theorem State.due_others (s : State) (ev : Instr) (arg : Arg) : (s.due ev arg).others = s.others := rfl
@[simp] theorem State.due_mem (s : State) (ev : Instr) (arg : Arg) : (s.due ev arg).mem = s.mem := rfl
@[simp] theorem State.due_bad (s : State) (ev : Instr) (arg : Arg) : (s.due ev arg).bad = s.bad := rfl
@[simp] theorem State.due_clk (s : State) (ev : Instr) (arg : Arg) : (s.due ev arg).clk = s.clk := rfl
@[simp] theorem State.due_ticks (s : State) (ev : Instr) (arg : Arg) : (s.due ev arg).ticks = s.ticks := rfl
@[simp] theorem State.due_free (s : State) (ev : Instr) (arg : Arg) : (s.due ev arg).free = s.free := rfl
@[simp] theorem State.due_agenda (s : State) (ev : Instr) (arg : Arg) : (s.due ev arg).agenda = s.agenda ++ [{ ev := ev, arg := arg }] := rfl
@[simp] theorem State.due_arg (s : State) (ev : Instr) (arg : Arg) : (s.due ev arg).arg = s.arg := rfl
@[simp] theorem State.due_obj (s : State) (ev : Instr) (arg : Arg) : (s.due ev arg).obj = s.obj := rfl
@[simp] theorem State.due_tlb (s : State) (ev : Instr) (arg : Arg) : (s.due ev arg).tlb = s.tlb := rfl
@[simp] theorem State.due_migs (s : State) (ev : Instr) (arg : Arg) : (s.due ev arg).migs = s.migs := rfl
@[simp] theorem State.due_queues (s : State) (ev : Instr) (arg : Arg) : (s.due ev arg).queues = s.queues := rfl
@[simp] theorem State.due_launches (s : State) (ev : Instr) (arg : Arg) : (s.due ev arg).launches = s.launches := rfl
@[simp] theorem State.due_barriers (s : State) (ev : Instr) (arg : Arg) : (s.due ev arg).barriers = s.barriers := rfl
@[simp] theorem State.due_fabric (s : State) (ev : Instr) (arg : Arg) : (s.due ev arg).fabric = s.fabric := rfl
@[simp] theorem State.due_device (s : State) (ev : Instr) (arg : Arg) : (s.due ev arg).device = s.device := rfl
@[simp] theorem State.due_engines (s : State) (ev : Instr) (arg : Arg) : (s.due ev arg).engines = s.engines := rfl
@[simp] theorem State.due_remaps (s : State) (ev : Instr) (arg : Arg) : (s.due ev arg).remaps = s.remaps := rfl
@[simp] theorem State.due_marvers (s : State) (ev : Instr) (arg : Arg) : (s.due ev arg).marvers = s.marvers := rfl
@[simp] theorem State.due_fieldTabs (s : State) (ev : Instr) (arg : Arg) : (s.due ev arg).fieldTabs = s.fieldTabs := rfl
@[simp] theorem State.due_objCache (s : State) (ev : Instr) (arg : Arg) : (s.due ev arg).objCache = s.objCache := rfl
@[simp] theorem State.due_tier (s : State) (ev : Instr) (arg : Arg) : (s.due ev arg).tier = s.tier := rfl
@[simp] theorem State.due_replays (s : State) (ev : Instr) (arg : Arg) : (s.due ev arg).replays = s.replays := rfl
@[simp] theorem State.due_spills (s : State) (ev : Instr) (arg : Arg) : (s.due ev arg).spills = s.spills := rfl

@[simp] theorem State.issue_others (s : State) (n : Nat) : (s.issue n).others = s.others := rfl
@[simp] theorem State.issue_mem (s : State) (n : Nat) : (s.issue n).mem = s.mem := rfl
@[simp] theorem State.issue_bad (s : State) (n : Nat) : (s.issue n).bad = s.bad := rfl
@[simp] theorem State.issue_clk (s : State) (n : Nat) : (s.issue n).clk = s.clk := rfl
@[simp] theorem State.issue_ticks (s : State) (n : Nat) : (s.issue n).ticks = s.ticks := rfl
@[simp] theorem State.issue_free (s : State) (n : Nat) : (s.issue n).free = s.free := rfl
@[simp] theorem State.issue_agenda (s : State) (n : Nat) : (s.issue n).agenda = s.agenda := rfl
@[simp] theorem State.issue_arg (s : State) (n : Nat) : (s.issue n).arg = s.arg := rfl
@[simp] theorem State.issue_obj (s : State) (n : Nat) : (s.issue n).obj = s.obj := rfl
@[simp] theorem State.issue_tlb (s : State) (n : Nat) : (s.issue n).tlb = s.tlb := rfl
@[simp] theorem State.issue_migs (s : State) (n : Nat) : (s.issue n).migs = s.migs := rfl
@[simp] theorem State.issue_queues (s : State) (n : Nat) : (s.issue n).queues = s.queues := rfl
@[simp] theorem State.issue_launches (s : State) (n : Nat) : (s.issue n).launches = s.launches := rfl
@[simp] theorem State.issue_barriers (s : State) (n : Nat) : (s.issue n).barriers = s.barriers := rfl
@[simp] theorem State.issue_fabric (s : State) (n : Nat) : (s.issue n).fabric = s.fabric := rfl
@[simp] theorem State.issue_device (s : State) (n : Nat) : (s.issue n).device = s.device := rfl
@[simp] theorem State.issue_engines (s : State) (n : Nat) : (s.issue n).engines = s.engines := rfl
@[simp] theorem State.issue_remaps (s : State) (n : Nat) : (s.issue n).remaps = s.remaps := rfl
@[simp] theorem State.issue_marvers (s : State) (n : Nat) : (s.issue n).marvers = s.marvers := rfl
@[simp] theorem State.issue_fieldTabs (s : State) (n : Nat) : (s.issue n).fieldTabs = s.fieldTabs := rfl
@[simp] theorem State.issue_objCache (s : State) (n : Nat) : (s.issue n).objCache = s.objCache := rfl
@[simp] theorem State.issue_tier (s : State) (n : Nat) : (s.issue n).tier = s.tier := rfl
@[simp] theorem State.issue_replays (s : State) (n : Nat) : (s.issue n).replays = s.replays := rfl
@[simp] theorem State.issue_spills (s : State) (n : Nat) : (s.issue n).spills = s.spills := rfl

@[simp] theorem State.tick_ticks (s : State) : (s.tick).ticks = s.ticks + 1 := rfl
@[simp] theorem State.tick_free (s : State) : (s.tick).free = s.free := rfl
@[simp] theorem State.tick_agenda (s : State) : (s.tick).agenda = s.agenda := rfl
@[simp] theorem State.tick_arg (s : State) : (s.tick).arg = s.arg := rfl
@[simp] theorem State.tick_obj (s : State) : (s.tick).obj = s.obj := rfl
@[simp] theorem State.tick_tlb (s : State) : (s.tick).tlb = s.tlb := rfl
@[simp] theorem State.tick_migs (s : State) : (s.tick).migs = s.migs := rfl
@[simp] theorem State.tick_queues (s : State) : (s.tick).queues = s.queues := rfl
@[simp] theorem State.tick_launches (s : State) : (s.tick).launches = s.launches := rfl
@[simp] theorem State.tick_barriers (s : State) : (s.tick).barriers = s.barriers := rfl
@[simp] theorem State.tick_fabric (s : State) : (s.tick).fabric = s.fabric := rfl
@[simp] theorem State.tick_device (s : State) : (s.tick).device = s.device := rfl
@[simp] theorem State.tick_engines (s : State) : (s.tick).engines = s.engines := rfl
@[simp] theorem State.tick_remaps (s : State) : (s.tick).remaps = s.remaps := rfl
@[simp] theorem State.tick_marvers (s : State) : (s.tick).marvers = s.marvers := rfl
@[simp] theorem State.tick_fieldTabs (s : State) : (s.tick).fieldTabs = s.fieldTabs := rfl
@[simp] theorem State.tick_objCache (s : State) : (s.tick).objCache = s.objCache := rfl
@[simp] theorem State.tick_tier (s : State) : (s.tick).tier = s.tier := rfl
@[simp] theorem State.tick_replays (s : State) : (s.tick).replays = s.replays := rfl
@[simp] theorem State.tick_spills (s : State) : (s.tick).spills = s.spills := rfl

@[simp] theorem State.point_me (s : State) (core slot : Nat) : (s.point core slot).me = s.me := rfl
@[simp] theorem State.point_others (s : State) (core slot : Nat) : (s.point core slot).others = s.others := rfl
@[simp] theorem State.point_mem (s : State) (core slot : Nat) : (s.point core slot).mem = s.mem := rfl
@[simp] theorem State.point_bad (s : State) (core slot : Nat) : (s.point core slot).bad = s.bad := rfl
@[simp] theorem State.point_clk (s : State) (core slot : Nat) : (s.point core slot).clk = s.clk := rfl
@[simp] theorem State.point_ticks (s : State) (core slot : Nat) : (s.point core slot).ticks = s.ticks := rfl
@[simp] theorem State.point_free (s : State) (core slot : Nat) : (s.point core slot).free = s.free := rfl
@[simp] theorem State.point_agenda (s : State) (core slot : Nat) : (s.point core slot).agenda = s.agenda := rfl
@[simp] theorem State.point_arg (s : State) (core slot : Nat) : (s.point core slot).arg = s.arg := rfl
@[simp] theorem State.point_obj (s : State) (core slot : Nat) : (s.point core slot).obj = s.obj := rfl
@[simp] theorem State.point_tlb (s : State) (core slot : Nat) : (s.point core slot).tlb = s.tlb := rfl
@[simp] theorem State.point_migs (s : State) (core slot : Nat) : (s.point core slot).migs = s.migs := rfl
@[simp] theorem State.point_launches (s : State) (core slot : Nat) : (s.point core slot).launches = s.launches := rfl
@[simp] theorem State.point_barriers (s : State) (core slot : Nat) : (s.point core slot).barriers = s.barriers := rfl
@[simp] theorem State.point_fabric (s : State) (core slot : Nat) : (s.point core slot).fabric = s.fabric := rfl
@[simp] theorem State.point_device (s : State) (core slot : Nat) : (s.point core slot).device = s.device := rfl
@[simp] theorem State.point_engines (s : State) (core slot : Nat) : (s.point core slot).engines = s.engines := rfl
@[simp] theorem State.point_remaps (s : State) (core slot : Nat) : (s.point core slot).remaps = s.remaps := rfl
@[simp] theorem State.point_marvers (s : State) (core slot : Nat) : (s.point core slot).marvers = s.marvers := rfl
@[simp] theorem State.point_fieldTabs (s : State) (core slot : Nat) : (s.point core slot).fieldTabs = s.fieldTabs := rfl
@[simp] theorem State.point_objCache (s : State) (core slot : Nat) : (s.point core slot).objCache = s.objCache := rfl
@[simp] theorem State.point_tier (s : State) (core slot : Nat) : (s.point core slot).tier = s.tier := rfl
@[simp] theorem State.point_replays (s : State) (core slot : Nat) : (s.point core slot).replays = s.replays := rfl
@[simp] theorem State.point_spills (s : State) (core slot : Nat) : (s.point core slot).spills = s.spills := rfl

@[simp] theorem State.setBarrier_me (s : State) (x : Barrier) : (s.setBarrier x).me = s.me := rfl
@[simp] theorem State.setBarrier_others (s : State) (x : Barrier) : (s.setBarrier x).others = s.others := rfl
@[simp] theorem State.setBarrier_mem (s : State) (x : Barrier) : (s.setBarrier x).mem = s.mem := rfl
@[simp] theorem State.setBarrier_bad (s : State) (x : Barrier) : (s.setBarrier x).bad = s.bad := rfl
@[simp] theorem State.setBarrier_clk (s : State) (x : Barrier) : (s.setBarrier x).clk = s.clk := rfl
@[simp] theorem State.setBarrier_ticks (s : State) (x : Barrier) : (s.setBarrier x).ticks = s.ticks := rfl
@[simp] theorem State.setBarrier_free (s : State) (x : Barrier) : (s.setBarrier x).free = s.free := rfl
@[simp] theorem State.setBarrier_agenda (s : State) (x : Barrier) : (s.setBarrier x).agenda = s.agenda := rfl
@[simp] theorem State.setBarrier_arg (s : State) (x : Barrier) : (s.setBarrier x).arg = s.arg := rfl
@[simp] theorem State.setBarrier_obj (s : State) (x : Barrier) : (s.setBarrier x).obj = s.obj := rfl
@[simp] theorem State.setBarrier_tlb (s : State) (x : Barrier) : (s.setBarrier x).tlb = s.tlb := rfl
@[simp] theorem State.setBarrier_migs (s : State) (x : Barrier) : (s.setBarrier x).migs = s.migs := rfl
@[simp] theorem State.setBarrier_queues (s : State) (x : Barrier) : (s.setBarrier x).queues = s.queues := rfl
@[simp] theorem State.setBarrier_launches (s : State) (x : Barrier) : (s.setBarrier x).launches = s.launches := rfl
@[simp] theorem State.setBarrier_fabric (s : State) (x : Barrier) : (s.setBarrier x).fabric = s.fabric := rfl
@[simp] theorem State.setBarrier_device (s : State) (x : Barrier) : (s.setBarrier x).device = s.device := rfl
@[simp] theorem State.setBarrier_engines (s : State) (x : Barrier) : (s.setBarrier x).engines = s.engines := rfl
@[simp] theorem State.setBarrier_remaps (s : State) (x : Barrier) : (s.setBarrier x).remaps = s.remaps := rfl
@[simp] theorem State.setBarrier_marvers (s : State) (x : Barrier) : (s.setBarrier x).marvers = s.marvers := rfl
@[simp] theorem State.setBarrier_fieldTabs (s : State) (x : Barrier) : (s.setBarrier x).fieldTabs = s.fieldTabs := rfl
@[simp] theorem State.setBarrier_objCache (s : State) (x : Barrier) : (s.setBarrier x).objCache = s.objCache := rfl
@[simp] theorem State.setBarrier_tier (s : State) (x : Barrier) : (s.setBarrier x).tier = s.tier := rfl
@[simp] theorem State.setBarrier_replays (s : State) (x : Barrier) : (s.setBarrier x).replays = s.replays := rfl
@[simp] theorem State.setBarrier_spills (s : State) (x : Barrier) : (s.setBarrier x).spills = s.spills := rfl

@[simp] theorem State.setReplay_me (s : State) (r : Replay) : (s.setReplay r).me = s.me := rfl
@[simp] theorem State.setReplay_others (s : State) (r : Replay) : (s.setReplay r).others = s.others := rfl
@[simp] theorem State.setReplay_mem (s : State) (r : Replay) : (s.setReplay r).mem = s.mem := rfl
@[simp] theorem State.setReplay_bad (s : State) (r : Replay) : (s.setReplay r).bad = s.bad := rfl
@[simp] theorem State.setReplay_clk (s : State) (r : Replay) : (s.setReplay r).clk = s.clk := rfl
@[simp] theorem State.setReplay_ticks (s : State) (r : Replay) : (s.setReplay r).ticks = s.ticks := rfl
@[simp] theorem State.setReplay_free (s : State) (r : Replay) : (s.setReplay r).free = s.free := rfl
@[simp] theorem State.setReplay_agenda (s : State) (r : Replay) : (s.setReplay r).agenda = s.agenda := rfl
@[simp] theorem State.setReplay_arg (s : State) (r : Replay) : (s.setReplay r).arg = s.arg := rfl
@[simp] theorem State.setReplay_obj (s : State) (r : Replay) : (s.setReplay r).obj = s.obj := rfl
@[simp] theorem State.setReplay_tlb (s : State) (r : Replay) : (s.setReplay r).tlb = s.tlb := rfl
@[simp] theorem State.setReplay_migs (s : State) (r : Replay) : (s.setReplay r).migs = s.migs := rfl
@[simp] theorem State.setReplay_queues (s : State) (r : Replay) : (s.setReplay r).queues = s.queues := rfl
@[simp] theorem State.setReplay_launches (s : State) (r : Replay) : (s.setReplay r).launches = s.launches := rfl
@[simp] theorem State.setReplay_barriers (s : State) (r : Replay) : (s.setReplay r).barriers = s.barriers := rfl
@[simp] theorem State.setReplay_fabric (s : State) (r : Replay) : (s.setReplay r).fabric = s.fabric := rfl
@[simp] theorem State.setReplay_device (s : State) (r : Replay) : (s.setReplay r).device = s.device := rfl
@[simp] theorem State.setReplay_engines (s : State) (r : Replay) : (s.setReplay r).engines = s.engines := rfl
@[simp] theorem State.setReplay_remaps (s : State) (r : Replay) : (s.setReplay r).remaps = s.remaps := rfl
@[simp] theorem State.setReplay_marvers (s : State) (r : Replay) : (s.setReplay r).marvers = s.marvers := rfl
@[simp] theorem State.setReplay_fieldTabs (s : State) (r : Replay) : (s.setReplay r).fieldTabs = s.fieldTabs := rfl
@[simp] theorem State.setReplay_objCache (s : State) (r : Replay) : (s.setReplay r).objCache = s.objCache := rfl
@[simp] theorem State.setReplay_tier (s : State) (r : Replay) : (s.setReplay r).tier = s.tier := rfl
@[simp] theorem State.setReplay_spills (s : State) (r : Replay) : (s.setReplay r).spills = s.spills := rfl

@[simp] theorem State.setGraph_me (s : State) (g : CGraph) : (s.setGraph g).me = s.me := rfl
@[simp] theorem State.setGraph_others (s : State) (g : CGraph) : (s.setGraph g).others = s.others := rfl
@[simp] theorem State.setGraph_mem (s : State) (g : CGraph) : (s.setGraph g).mem = s.mem := rfl
@[simp] theorem State.setGraph_bad (s : State) (g : CGraph) : (s.setGraph g).bad = s.bad := rfl
@[simp] theorem State.setGraph_clk (s : State) (g : CGraph) : (s.setGraph g).clk = s.clk := rfl
@[simp] theorem State.setGraph_ticks (s : State) (g : CGraph) : (s.setGraph g).ticks = s.ticks := rfl
@[simp] theorem State.setGraph_free (s : State) (g : CGraph) : (s.setGraph g).free = s.free := rfl
@[simp] theorem State.setGraph_agenda (s : State) (g : CGraph) : (s.setGraph g).agenda = s.agenda := rfl
@[simp] theorem State.setGraph_arg (s : State) (g : CGraph) : (s.setGraph g).arg = s.arg := rfl
@[simp] theorem State.setGraph_obj (s : State) (g : CGraph) : (s.setGraph g).obj = s.obj := rfl
@[simp] theorem State.setGraph_tlb (s : State) (g : CGraph) : (s.setGraph g).tlb = s.tlb := rfl
@[simp] theorem State.setGraph_migs (s : State) (g : CGraph) : (s.setGraph g).migs = s.migs := rfl
@[simp] theorem State.setGraph_queues (s : State) (g : CGraph) : (s.setGraph g).queues = s.queues := rfl
@[simp] theorem State.setGraph_launches (s : State) (g : CGraph) : (s.setGraph g).launches = s.launches := rfl
@[simp] theorem State.setGraph_barriers (s : State) (g : CGraph) : (s.setGraph g).barriers = s.barriers := rfl
@[simp] theorem State.setGraph_device (s : State) (g : CGraph) : (s.setGraph g).device = s.device := rfl
@[simp] theorem State.setGraph_engines (s : State) (g : CGraph) : (s.setGraph g).engines = s.engines := rfl
@[simp] theorem State.setGraph_remaps (s : State) (g : CGraph) : (s.setGraph g).remaps = s.remaps := rfl
@[simp] theorem State.setGraph_marvers (s : State) (g : CGraph) : (s.setGraph g).marvers = s.marvers := rfl
@[simp] theorem State.setGraph_fieldTabs (s : State) (g : CGraph) : (s.setGraph g).fieldTabs = s.fieldTabs := rfl
@[simp] theorem State.setGraph_objCache (s : State) (g : CGraph) : (s.setGraph g).objCache = s.objCache := rfl
@[simp] theorem State.setGraph_tier (s : State) (g : CGraph) : (s.setGraph g).tier = s.tier := rfl
@[simp] theorem State.setGraph_replays (s : State) (g : CGraph) : (s.setGraph g).replays = s.replays := rfl
@[simp] theorem State.setGraph_spills (s : State) (g : CGraph) : (s.setGraph g).spills = s.spills := rfl

@[simp] theorem State.setRemap_me (s : State) (r : Remap) : (s.setRemap r).me = s.me := rfl
@[simp] theorem State.setRemap_others (s : State) (r : Remap) : (s.setRemap r).others = s.others := rfl
@[simp] theorem State.setRemap_mem (s : State) (r : Remap) : (s.setRemap r).mem = s.mem := rfl
@[simp] theorem State.setRemap_bad (s : State) (r : Remap) : (s.setRemap r).bad = s.bad := rfl
@[simp] theorem State.setRemap_clk (s : State) (r : Remap) : (s.setRemap r).clk = s.clk := rfl
@[simp] theorem State.setRemap_ticks (s : State) (r : Remap) : (s.setRemap r).ticks = s.ticks := rfl
@[simp] theorem State.setRemap_free (s : State) (r : Remap) : (s.setRemap r).free = s.free := rfl
@[simp] theorem State.setRemap_agenda (s : State) (r : Remap) : (s.setRemap r).agenda = s.agenda := rfl
@[simp] theorem State.setRemap_arg (s : State) (r : Remap) : (s.setRemap r).arg = s.arg := rfl
@[simp] theorem State.setRemap_obj (s : State) (r : Remap) : (s.setRemap r).obj = s.obj := rfl
@[simp] theorem State.setRemap_tlb (s : State) (r : Remap) : (s.setRemap r).tlb = s.tlb := rfl
@[simp] theorem State.setRemap_migs (s : State) (r : Remap) : (s.setRemap r).migs = s.migs := rfl
@[simp] theorem State.setRemap_queues (s : State) (r : Remap) : (s.setRemap r).queues = s.queues := rfl
@[simp] theorem State.setRemap_launches (s : State) (r : Remap) : (s.setRemap r).launches = s.launches := rfl
@[simp] theorem State.setRemap_barriers (s : State) (r : Remap) : (s.setRemap r).barriers = s.barriers := rfl
@[simp] theorem State.setRemap_fabric (s : State) (r : Remap) : (s.setRemap r).fabric = s.fabric := rfl
@[simp] theorem State.setRemap_device (s : State) (r : Remap) : (s.setRemap r).device = s.device := rfl
@[simp] theorem State.setRemap_engines (s : State) (r : Remap) : (s.setRemap r).engines = s.engines := rfl
@[simp] theorem State.setRemap_marvers (s : State) (r : Remap) : (s.setRemap r).marvers = s.marvers := rfl
@[simp] theorem State.setRemap_fieldTabs (s : State) (r : Remap) : (s.setRemap r).fieldTabs = s.fieldTabs := rfl
@[simp] theorem State.setRemap_objCache (s : State) (r : Remap) : (s.setRemap r).objCache = s.objCache := rfl
@[simp] theorem State.setRemap_tier (s : State) (r : Remap) : (s.setRemap r).tier = s.tier := rfl
@[simp] theorem State.setRemap_replays (s : State) (r : Remap) : (s.setRemap r).replays = s.replays := rfl
@[simp] theorem State.setRemap_spills (s : State) (r : Remap) : (s.setRemap r).spills = s.spills := rfl

@[simp] theorem State.setCmd_me (s : State) (c : Cmd) : (s.setCmd c).me = s.me := rfl
@[simp] theorem State.setCmd_others (s : State) (c : Cmd) : (s.setCmd c).others = s.others := rfl
@[simp] theorem State.setCmd_mem (s : State) (c : Cmd) : (s.setCmd c).mem = s.mem := rfl
@[simp] theorem State.setCmd_bad (s : State) (c : Cmd) : (s.setCmd c).bad = s.bad := rfl
@[simp] theorem State.setCmd_clk (s : State) (c : Cmd) : (s.setCmd c).clk = s.clk := rfl
@[simp] theorem State.setCmd_ticks (s : State) (c : Cmd) : (s.setCmd c).ticks = s.ticks := rfl
@[simp] theorem State.setCmd_free (s : State) (c : Cmd) : (s.setCmd c).free = s.free := rfl
@[simp] theorem State.setCmd_agenda (s : State) (c : Cmd) : (s.setCmd c).agenda = s.agenda := rfl
@[simp] theorem State.setCmd_arg (s : State) (c : Cmd) : (s.setCmd c).arg = s.arg := rfl
@[simp] theorem State.setCmd_obj (s : State) (c : Cmd) : (s.setCmd c).obj = s.obj := rfl
@[simp] theorem State.setCmd_tlb (s : State) (c : Cmd) : (s.setCmd c).tlb = s.tlb := rfl
@[simp] theorem State.setCmd_migs (s : State) (c : Cmd) : (s.setCmd c).migs = s.migs := rfl
@[simp] theorem State.setCmd_queues (s : State) (c : Cmd) : (s.setCmd c).queues = s.queues := rfl
@[simp] theorem State.setCmd_launches (s : State) (c : Cmd) : (s.setCmd c).launches = s.launches := rfl
@[simp] theorem State.setCmd_barriers (s : State) (c : Cmd) : (s.setCmd c).barriers = s.barriers := rfl
@[simp] theorem State.setCmd_fabric (s : State) (c : Cmd) : (s.setCmd c).fabric = s.fabric := rfl
@[simp] theorem State.setCmd_device (s : State) (c : Cmd) : (s.setCmd c).device = s.device := rfl
@[simp] theorem State.setCmd_remaps (s : State) (c : Cmd) : (s.setCmd c).remaps = s.remaps := rfl
@[simp] theorem State.setCmd_marvers (s : State) (c : Cmd) : (s.setCmd c).marvers = s.marvers := rfl
@[simp] theorem State.setCmd_fieldTabs (s : State) (c : Cmd) : (s.setCmd c).fieldTabs = s.fieldTabs := rfl
@[simp] theorem State.setCmd_objCache (s : State) (c : Cmd) : (s.setCmd c).objCache = s.objCache := rfl
@[simp] theorem State.setCmd_tier (s : State) (c : Cmd) : (s.setCmd c).tier = s.tier := rfl
@[simp] theorem State.setCmd_replays (s : State) (c : Cmd) : (s.setCmd c).replays = s.replays := rfl
@[simp] theorem State.setCmd_spills (s : State) (c : Cmd) : (s.setCmd c).spills = s.spills := rfl

@[simp] theorem State.dropReq_me (s : State) (k : Nat) : (s.dropReq k).me = s.me := rfl
@[simp] theorem State.dropReq_others (s : State) (k : Nat) : (s.dropReq k).others = s.others := rfl
@[simp] theorem State.dropReq_mem (s : State) (k : Nat) : (s.dropReq k).mem = s.mem := rfl
@[simp] theorem State.dropReq_bad (s : State) (k : Nat) : (s.dropReq k).bad = s.bad := rfl
@[simp] theorem State.dropReq_clk (s : State) (k : Nat) : (s.dropReq k).clk = s.clk := rfl
@[simp] theorem State.dropReq_ticks (s : State) (k : Nat) : (s.dropReq k).ticks = s.ticks := rfl
@[simp] theorem State.dropReq_free (s : State) (k : Nat) : (s.dropReq k).free = s.free := rfl
@[simp] theorem State.dropReq_agenda (s : State) (k : Nat) : (s.dropReq k).agenda = s.agenda := rfl
@[simp] theorem State.dropReq_arg (s : State) (k : Nat) : (s.dropReq k).arg = s.arg := rfl
@[simp] theorem State.dropReq_obj (s : State) (k : Nat) : (s.dropReq k).obj = s.obj := rfl
@[simp] theorem State.dropReq_tlb (s : State) (k : Nat) : (s.dropReq k).tlb = s.tlb := rfl
@[simp] theorem State.dropReq_migs (s : State) (k : Nat) : (s.dropReq k).migs = s.migs := rfl
@[simp] theorem State.dropReq_queues (s : State) (k : Nat) : (s.dropReq k).queues = s.queues := rfl
@[simp] theorem State.dropReq_launches (s : State) (k : Nat) : (s.dropReq k).launches = s.launches := rfl
@[simp] theorem State.dropReq_barriers (s : State) (k : Nat) : (s.dropReq k).barriers = s.barriers := rfl
@[simp] theorem State.dropReq_device (s : State) (k : Nat) : (s.dropReq k).device = s.device := rfl
@[simp] theorem State.dropReq_engines (s : State) (k : Nat) : (s.dropReq k).engines = s.engines := rfl
@[simp] theorem State.dropReq_remaps (s : State) (k : Nat) : (s.dropReq k).remaps = s.remaps := rfl
@[simp] theorem State.dropReq_marvers (s : State) (k : Nat) : (s.dropReq k).marvers = s.marvers := rfl
@[simp] theorem State.dropReq_fieldTabs (s : State) (k : Nat) : (s.dropReq k).fieldTabs = s.fieldTabs := rfl
@[simp] theorem State.dropReq_objCache (s : State) (k : Nat) : (s.dropReq k).objCache = s.objCache := rfl
@[simp] theorem State.dropReq_tier (s : State) (k : Nat) : (s.dropReq k).tier = s.tier := rfl
@[simp] theorem State.dropReq_replays (s : State) (k : Nat) : (s.dropReq k).replays = s.replays := rfl
@[simp] theorem State.dropReq_spills (s : State) (k : Nat) : (s.dropReq k).spills = s.spills := rfl

@[simp] theorem State.allStrands_me (s : State) (f : Strand → Strand) : (s.allStrands f).me = f s.me := rfl
@[simp] theorem State.allStrands_others (s : State) (f : Strand → Strand) : (s.allStrands f).others = s.others.map f := rfl
@[simp] theorem State.allStrands_mem (s : State) (f : Strand → Strand) : (s.allStrands f).mem = s.mem := rfl
@[simp] theorem State.allStrands_bad (s : State) (f : Strand → Strand) : (s.allStrands f).bad = s.bad := rfl
@[simp] theorem State.allStrands_clk (s : State) (f : Strand → Strand) : (s.allStrands f).clk = s.clk := rfl
@[simp] theorem State.allStrands_ticks (s : State) (f : Strand → Strand) : (s.allStrands f).ticks = s.ticks := rfl
@[simp] theorem State.allStrands_free (s : State) (f : Strand → Strand) : (s.allStrands f).free = s.free := rfl
@[simp] theorem State.allStrands_agenda (s : State) (f : Strand → Strand) : (s.allStrands f).agenda = s.agenda := rfl
@[simp] theorem State.allStrands_arg (s : State) (f : Strand → Strand) : (s.allStrands f).arg = s.arg := rfl
@[simp] theorem State.allStrands_obj (s : State) (f : Strand → Strand) : (s.allStrands f).obj = s.obj := rfl
@[simp] theorem State.allStrands_tlb (s : State) (f : Strand → Strand) : (s.allStrands f).tlb = s.tlb := rfl
@[simp] theorem State.allStrands_migs (s : State) (f : Strand → Strand) : (s.allStrands f).migs = s.migs := rfl
@[simp] theorem State.allStrands_queues (s : State) (f : Strand → Strand) : (s.allStrands f).queues = s.queues := rfl
@[simp] theorem State.allStrands_launches (s : State) (f : Strand → Strand) : (s.allStrands f).launches = s.launches := rfl
@[simp] theorem State.allStrands_barriers (s : State) (f : Strand → Strand) : (s.allStrands f).barriers = s.barriers := rfl
@[simp] theorem State.allStrands_fabric (s : State) (f : Strand → Strand) : (s.allStrands f).fabric = s.fabric := rfl
@[simp] theorem State.allStrands_device (s : State) (f : Strand → Strand) : (s.allStrands f).device = s.device := rfl
@[simp] theorem State.allStrands_engines (s : State) (f : Strand → Strand) : (s.allStrands f).engines = s.engines := rfl
@[simp] theorem State.allStrands_remaps (s : State) (f : Strand → Strand) : (s.allStrands f).remaps = s.remaps := rfl
@[simp] theorem State.allStrands_marvers (s : State) (f : Strand → Strand) : (s.allStrands f).marvers = s.marvers := rfl
@[simp] theorem State.allStrands_fieldTabs (s : State) (f : Strand → Strand) : (s.allStrands f).fieldTabs = s.fieldTabs := rfl
@[simp] theorem State.allStrands_objCache (s : State) (f : Strand → Strand) : (s.allStrands f).objCache = s.objCache := rfl
@[simp] theorem State.allStrands_tier (s : State) (f : Strand → Strand) : (s.allStrands f).tier = s.tier := rfl
@[simp] theorem State.allStrands_replays (s : State) (f : Strand → Strand) : (s.allStrands f).replays = s.replays := rfl
@[simp] theorem State.allStrands_spills (s : State) (f : Strand → Strand) : (s.allStrands f).spills = s.spills := rfl

@[simp] theorem State.hold_me (s : State) (line : Nat) : (s.hold line).me = { s.me with resv := some line } := rfl
@[simp] theorem State.hold_others (s : State) (line : Nat) : (s.hold line).others = s.others := rfl
@[simp] theorem State.hold_mem (s : State) (line : Nat) : (s.hold line).mem = s.mem := rfl
@[simp] theorem State.hold_bad (s : State) (line : Nat) : (s.hold line).bad = s.bad := rfl
@[simp] theorem State.hold_clk (s : State) (line : Nat) : (s.hold line).clk = s.clk := rfl
@[simp] theorem State.hold_ticks (s : State) (line : Nat) : (s.hold line).ticks = s.ticks := rfl
@[simp] theorem State.hold_free (s : State) (line : Nat) : (s.hold line).free = s.free := rfl
@[simp] theorem State.hold_agenda (s : State) (line : Nat) : (s.hold line).agenda = s.agenda := rfl
@[simp] theorem State.hold_arg (s : State) (line : Nat) : (s.hold line).arg = s.arg := rfl
@[simp] theorem State.hold_obj (s : State) (line : Nat) : (s.hold line).obj = s.obj := rfl
@[simp] theorem State.hold_tlb (s : State) (line : Nat) : (s.hold line).tlb = s.tlb := rfl
@[simp] theorem State.hold_migs (s : State) (line : Nat) : (s.hold line).migs = s.migs := rfl
@[simp] theorem State.hold_launches (s : State) (line : Nat) : (s.hold line).launches = s.launches := rfl
@[simp] theorem State.hold_barriers (s : State) (line : Nat) : (s.hold line).barriers = s.barriers := rfl
@[simp] theorem State.hold_fabric (s : State) (line : Nat) : (s.hold line).fabric = s.fabric := rfl
@[simp] theorem State.hold_device (s : State) (line : Nat) : (s.hold line).device = s.device := rfl
@[simp] theorem State.hold_engines (s : State) (line : Nat) : (s.hold line).engines = s.engines := rfl
@[simp] theorem State.hold_remaps (s : State) (line : Nat) : (s.hold line).remaps = s.remaps := rfl
@[simp] theorem State.hold_marvers (s : State) (line : Nat) : (s.hold line).marvers = s.marvers := rfl
@[simp] theorem State.hold_fieldTabs (s : State) (line : Nat) : (s.hold line).fieldTabs = s.fieldTabs := rfl
@[simp] theorem State.hold_objCache (s : State) (line : Nat) : (s.hold line).objCache = s.objCache := rfl
@[simp] theorem State.hold_tier (s : State) (line : Nat) : (s.hold line).tier = s.tier := rfl
@[simp] theorem State.hold_replays (s : State) (line : Nat) : (s.hold line).replays = s.replays := rfl
@[simp] theorem State.hold_spills (s : State) (line : Nat) : (s.hold line).spills = s.spills := rfl

@[simp] theorem State.report_me (s : State) (kind : Nat) (body : List Byte) : (s.report kind body).me = s.me := rfl
@[simp] theorem State.report_others (s : State) (kind : Nat) (body : List Byte) : (s.report kind body).others = s.others := rfl
@[simp] theorem State.report_mem (s : State) (kind : Nat) (body : List Byte) : (s.report kind body).mem = s.mem := rfl
@[simp] theorem State.report_bad (s : State) (kind : Nat) (body : List Byte) : (s.report kind body).bad = s.bad := rfl
@[simp] theorem State.report_clk (s : State) (kind : Nat) (body : List Byte) : (s.report kind body).clk = s.clk := rfl
@[simp] theorem State.report_ticks (s : State) (kind : Nat) (body : List Byte) : (s.report kind body).ticks = s.ticks := rfl
@[simp] theorem State.report_free (s : State) (kind : Nat) (body : List Byte) : (s.report kind body).free = s.free := rfl
@[simp] theorem State.report_agenda (s : State) (kind : Nat) (body : List Byte) : (s.report kind body).agenda = s.agenda := rfl
@[simp] theorem State.report_arg (s : State) (kind : Nat) (body : List Byte) : (s.report kind body).arg = s.arg := rfl
@[simp] theorem State.report_obj (s : State) (kind : Nat) (body : List Byte) : (s.report kind body).obj = s.obj := rfl
@[simp] theorem State.report_tlb (s : State) (kind : Nat) (body : List Byte) : (s.report kind body).tlb = s.tlb := rfl
@[simp] theorem State.report_migs (s : State) (kind : Nat) (body : List Byte) : (s.report kind body).migs = s.migs := rfl
@[simp] theorem State.report_queues (s : State) (kind : Nat) (body : List Byte) : (s.report kind body).queues = s.queues := rfl
@[simp] theorem State.report_launches (s : State) (kind : Nat) (body : List Byte) : (s.report kind body).launches = s.launches := rfl
@[simp] theorem State.report_barriers (s : State) (kind : Nat) (body : List Byte) : (s.report kind body).barriers = s.barriers := rfl
@[simp] theorem State.report_fabric (s : State) (kind : Nat) (body : List Byte) : (s.report kind body).fabric = s.fabric := rfl
@[simp] theorem State.report_engines (s : State) (kind : Nat) (body : List Byte) : (s.report kind body).engines = s.engines := rfl
@[simp] theorem State.report_remaps (s : State) (kind : Nat) (body : List Byte) : (s.report kind body).remaps = s.remaps := rfl
@[simp] theorem State.report_marvers (s : State) (kind : Nat) (body : List Byte) : (s.report kind body).marvers = s.marvers := rfl
@[simp] theorem State.report_fieldTabs (s : State) (kind : Nat) (body : List Byte) : (s.report kind body).fieldTabs = s.fieldTabs := rfl
@[simp] theorem State.report_objCache (s : State) (kind : Nat) (body : List Byte) : (s.report kind body).objCache = s.objCache := rfl
@[simp] theorem State.report_tier (s : State) (kind : Nat) (body : List Byte) : (s.report kind body).tier = s.tier := rfl
@[simp] theorem State.report_replays (s : State) (kind : Nat) (body : List Byte) : (s.report kind body).replays = s.replays := rfl
@[simp] theorem State.report_spills (s : State) (kind : Nat) (body : List Byte) : (s.report kind body).spills = s.spills := rfl

@[simp] theorem State.logError_me (s : State) (k : Nat) : (s.logError k).me = s.me := rfl
@[simp] theorem State.logError_others (s : State) (k : Nat) : (s.logError k).others = s.others := rfl
@[simp] theorem State.logError_bad (s : State) (k : Nat) : (s.logError k).bad = s.bad := rfl
@[simp] theorem State.logError_clk (s : State) (k : Nat) : (s.logError k).clk = s.clk := rfl
@[simp] theorem State.logError_ticks (s : State) (k : Nat) : (s.logError k).ticks = s.ticks := rfl
@[simp] theorem State.logError_free (s : State) (k : Nat) : (s.logError k).free = s.free := rfl
@[simp] theorem State.logError_agenda (s : State) (k : Nat) : (s.logError k).agenda = s.agenda := rfl
@[simp] theorem State.logError_arg (s : State) (k : Nat) : (s.logError k).arg = s.arg := rfl
@[simp] theorem State.logError_obj (s : State) (k : Nat) : (s.logError k).obj = s.obj := rfl
@[simp] theorem State.logError_tlb (s : State) (k : Nat) : (s.logError k).tlb = s.tlb := rfl
@[simp] theorem State.logError_migs (s : State) (k : Nat) : (s.logError k).migs = s.migs := rfl
@[simp] theorem State.logError_queues (s : State) (k : Nat) : (s.logError k).queues = s.queues := rfl
@[simp] theorem State.logError_launches (s : State) (k : Nat) : (s.logError k).launches = s.launches := rfl
@[simp] theorem State.logError_barriers (s : State) (k : Nat) : (s.logError k).barriers = s.barriers := rfl
@[simp] theorem State.logError_fabric (s : State) (k : Nat) : (s.logError k).fabric = s.fabric := rfl
@[simp] theorem State.logError_engines (s : State) (k : Nat) : (s.logError k).engines = s.engines := rfl
@[simp] theorem State.logError_remaps (s : State) (k : Nat) : (s.logError k).remaps = s.remaps := rfl
@[simp] theorem State.logError_marvers (s : State) (k : Nat) : (s.logError k).marvers = s.marvers := rfl
@[simp] theorem State.logError_fieldTabs (s : State) (k : Nat) : (s.logError k).fieldTabs = s.fieldTabs := rfl
@[simp] theorem State.logError_objCache (s : State) (k : Nat) : (s.logError k).objCache = s.objCache := rfl
@[simp] theorem State.logError_tier (s : State) (k : Nat) : (s.logError k).tier = s.tier := rfl
@[simp] theorem State.logError_replays (s : State) (k : Nat) : (s.logError k).replays = s.replays := rfl
@[simp] theorem State.logError_spills (s : State) (k : Nat) : (s.logError k).spills = s.spills := rfl

@[simp] theorem Strand.shift_sid (t : Strand) (v : Word) : (t.shift v).sid = t.sid := rfl
@[simp] theorem Strand.shift_core (t : Strand) (v : Word) : (t.shift v).core = t.core := rfl
@[simp] theorem Strand.shift_slot (t : Strand) (v : Word) : (t.shift v).slot = t.slot := rfl
@[simp] theorem Strand.shift_status (t : Strand) (v : Word) : (t.shift v).status = t.status := rfl
@[simp] theorem Strand.shift_stay (t : Strand) (v : Word) : (t.shift v).stay = t.stay := rfl
@[simp] theorem Strand.shift_pc (t : Strand) (v : Word) : (t.shift v).pc = t.pc := rfl
@[simp] theorem Strand.shift_frames (t : Strand) (v : Word) : (t.shift v).frames = t.frames := rfl
@[simp] theorem Strand.shift_low (t : Strand) (v : Word) : (t.shift v).low = t.low := rfl
@[simp] theorem Strand.shift_o (t : Strand) (v : Word) : (t.shift v).o = t.o := rfl
@[simp] theorem Strand.shift_l0 (t : Strand) (v : Word) : (t.shift v).l0 = v := rfl
@[simp] theorem Strand.shift_l1 (t : Strand) (v : Word) : (t.shift v).l1 = t.l0 := rfl
@[simp] theorem Strand.shift_pw (t : Strand) (v : Word) : (t.shift v).pw = t.pw := rfl
@[simp] theorem Strand.shift_e (t : Strand) (v : Word) : (t.shift v).e = t.e := rfl
@[simp] theorem Strand.shift_k (t : Strand) (v : Word) : (t.shift v).k = t.k := rfl
@[simp] theorem Strand.shift_t (t : Strand) (v : Word) : (t.shift v).t = t.t := rfl
@[simp] theorem Strand.shift_q (t : Strand) (v : Word) : (t.shift v).q = t.q := rfl
@[simp] theorem Strand.shift_tix (t : Strand) (v : Word) : (t.shift v).tix = t.tix := rfl
@[simp] theorem Strand.shift_tcnt (t : Strand) (v : Word) : (t.shift v).tcnt = t.tcnt := rfl
@[simp] theorem Strand.shift_lrec (t : Strand) (v : Word) : (t.shift v).lrec = t.lrec := rfl
@[simp] theorem Strand.shift_job (t : Strand) (v : Word) : (t.shift v).job = t.job := rfl
@[simp] theorem Strand.shift_rac (t : Strand) (v : Word) : (t.shift v).rac = t.rac := rfl
@[simp] theorem Strand.shift_trh (t : Strand) (v : Word) : (t.shift v).trh = t.trh := rfl
@[simp] theorem Strand.shift_wsp (t : Strand) (v : Word) : (t.shift v).wsp = t.wsp := rfl
@[simp] theorem Strand.shift_wlim (t : Strand) (v : Word) : (t.shift v).wlim = t.wlim := rfl
@[simp] theorem Strand.shift_wdep (t : Strand) (v : Word) : (t.shift v).wdep = t.wdep := rfl
@[simp] theorem Strand.shift_tvec (t : Strand) (v : Word) : (t.shift v).tvec = t.tvec := rfl
@[simp] theorem Strand.shift_tcause (t : Strand) (v : Word) : (t.shift v).tcause = t.tcause := rfl
@[simp] theorem Strand.shift_tval (t : Strand) (v : Word) : (t.shift v).tval = t.tval := rfl
@[simp] theorem Strand.shift_xpc (t : Strand) (v : Word) : (t.shift v).xpc = t.xpc := rfl
@[simp] theorem Strand.shift_plv (t : Strand) (v : Word) : (t.shift v).plv = t.plv := rfl
@[simp] theorem Strand.shift_xplv (t : Strand) (v : Word) : (t.shift v).xplv = t.xplv := rfl
@[simp] theorem Strand.shift_prio (t : Strand) (v : Word) : (t.shift v).prio = t.prio := rfl
@[simp] theorem Strand.shift_armed (t : Strand) (v : Word) : (t.shift v).armed = t.armed := rfl
@[simp] theorem Strand.shift_resv (t : Strand) (v : Word) : (t.shift v).resv = t.resv := rfl
@[simp] theorem Strand.shift_stores (t : Strand) (v : Word) : (t.shift v).stores = t.stores := rfl
@[simp] theorem Strand.shift_spanErr (t : Strand) (v : Word) : (t.shift v).spanErr = t.spanErr := rfl
@[simp] theorem Strand.shift_storeErr (t : Strand) (v : Word) : (t.shift v).storeErr = t.storeErr := rfl
@[simp] theorem Strand.shift_lastIssue (t : Strand) (v : Word) : (t.shift v).lastIssue = t.lastIssue := rfl
@[simp] theorem Strand.shift_skip (t : Strand) (v : Word) : (t.shift v).skip = t.skip := rfl
@[simp] theorem Strand.shift_doom (t : Strand) (v : Word) : (t.shift v).doom = t.doom := rfl
@[simp] theorem Strand.shift_spawned (t : Strand) (v : Word) : (t.shift v).spawned = t.spawned := rfl

@[simp] theorem Strand.setM_sid (t : Strand) (i : Fin 16) (v : Word) : (t.setM i v).sid = t.sid := rfl
@[simp] theorem Strand.setM_core (t : Strand) (i : Fin 16) (v : Word) : (t.setM i v).core = t.core := rfl
@[simp] theorem Strand.setM_slot (t : Strand) (i : Fin 16) (v : Word) : (t.setM i v).slot = t.slot := rfl
@[simp] theorem Strand.setM_status (t : Strand) (i : Fin 16) (v : Word) : (t.setM i v).status = t.status := rfl
@[simp] theorem Strand.setM_stay (t : Strand) (i : Fin 16) (v : Word) : (t.setM i v).stay = t.stay := rfl
@[simp] theorem Strand.setM_pc (t : Strand) (i : Fin 16) (v : Word) : (t.setM i v).pc = t.pc := rfl
@[simp] theorem Strand.setM_frames (t : Strand) (i : Fin 16) (v : Word) : (t.setM i v).frames = t.frames.set (mIndex t.wdep i) v := rfl
@[simp] theorem Strand.setM_low (t : Strand) (i : Fin 16) (v : Word) : (t.setM i v).low = t.low := rfl
@[simp] theorem Strand.setM_o (t : Strand) (i : Fin 16) (v : Word) : (t.setM i v).o = t.o := rfl
@[simp] theorem Strand.setM_l0 (t : Strand) (i : Fin 16) (v : Word) : (t.setM i v).l0 = t.l0 := rfl
@[simp] theorem Strand.setM_l1 (t : Strand) (i : Fin 16) (v : Word) : (t.setM i v).l1 = t.l1 := rfl
@[simp] theorem Strand.setM_pw (t : Strand) (i : Fin 16) (v : Word) : (t.setM i v).pw = t.pw := rfl
@[simp] theorem Strand.setM_e (t : Strand) (i : Fin 16) (v : Word) : (t.setM i v).e = t.e := rfl
@[simp] theorem Strand.setM_k (t : Strand) (i : Fin 16) (v : Word) : (t.setM i v).k = t.k := rfl
@[simp] theorem Strand.setM_t (t : Strand) (i : Fin 16) (v : Word) : (t.setM i v).t = t.t := rfl
@[simp] theorem Strand.setM_q (t : Strand) (i : Fin 16) (v : Word) : (t.setM i v).q = t.q := rfl
@[simp] theorem Strand.setM_tix (t : Strand) (i : Fin 16) (v : Word) : (t.setM i v).tix = t.tix := rfl
@[simp] theorem Strand.setM_tcnt (t : Strand) (i : Fin 16) (v : Word) : (t.setM i v).tcnt = t.tcnt := rfl
@[simp] theorem Strand.setM_lrec (t : Strand) (i : Fin 16) (v : Word) : (t.setM i v).lrec = t.lrec := rfl
@[simp] theorem Strand.setM_job (t : Strand) (i : Fin 16) (v : Word) : (t.setM i v).job = t.job := rfl
@[simp] theorem Strand.setM_rac (t : Strand) (i : Fin 16) (v : Word) : (t.setM i v).rac = t.rac := rfl
@[simp] theorem Strand.setM_trh (t : Strand) (i : Fin 16) (v : Word) : (t.setM i v).trh = t.trh := rfl
@[simp] theorem Strand.setM_wsp (t : Strand) (i : Fin 16) (v : Word) : (t.setM i v).wsp = t.wsp := rfl
@[simp] theorem Strand.setM_wlim (t : Strand) (i : Fin 16) (v : Word) : (t.setM i v).wlim = t.wlim := rfl
@[simp] theorem Strand.setM_wdep (t : Strand) (i : Fin 16) (v : Word) : (t.setM i v).wdep = t.wdep := rfl
@[simp] theorem Strand.setM_tvec (t : Strand) (i : Fin 16) (v : Word) : (t.setM i v).tvec = t.tvec := rfl
@[simp] theorem Strand.setM_tcause (t : Strand) (i : Fin 16) (v : Word) : (t.setM i v).tcause = t.tcause := rfl
@[simp] theorem Strand.setM_tval (t : Strand) (i : Fin 16) (v : Word) : (t.setM i v).tval = t.tval := rfl
@[simp] theorem Strand.setM_xpc (t : Strand) (i : Fin 16) (v : Word) : (t.setM i v).xpc = t.xpc := rfl
@[simp] theorem Strand.setM_plv (t : Strand) (i : Fin 16) (v : Word) : (t.setM i v).plv = t.plv := rfl
@[simp] theorem Strand.setM_xplv (t : Strand) (i : Fin 16) (v : Word) : (t.setM i v).xplv = t.xplv := rfl
@[simp] theorem Strand.setM_prio (t : Strand) (i : Fin 16) (v : Word) : (t.setM i v).prio = t.prio := rfl
@[simp] theorem Strand.setM_armed (t : Strand) (i : Fin 16) (v : Word) : (t.setM i v).armed = t.armed := rfl
@[simp] theorem Strand.setM_resv (t : Strand) (i : Fin 16) (v : Word) : (t.setM i v).resv = t.resv := rfl
@[simp] theorem Strand.setM_stores (t : Strand) (i : Fin 16) (v : Word) : (t.setM i v).stores = t.stores := rfl
@[simp] theorem Strand.setM_pend (t : Strand) (i : Fin 16) (v : Word) : (t.setM i v).pend = t.pend := rfl
@[simp] theorem Strand.setM_spanErr (t : Strand) (i : Fin 16) (v : Word) : (t.setM i v).spanErr = t.spanErr := rfl
@[simp] theorem Strand.setM_storeErr (t : Strand) (i : Fin 16) (v : Word) : (t.setM i v).storeErr = t.storeErr := rfl
@[simp] theorem Strand.setM_lastIssue (t : Strand) (i : Fin 16) (v : Word) : (t.setM i v).lastIssue = t.lastIssue := rfl
@[simp] theorem Strand.setM_skip (t : Strand) (i : Fin 16) (v : Word) : (t.setM i v).skip = t.skip := rfl
@[simp] theorem Strand.setM_doom (t : Strand) (i : Fin 16) (v : Word) : (t.setM i v).doom = t.doom := rfl
@[simp] theorem Strand.setM_spawned (t : Strand) (i : Fin 16) (v : Word) : (t.setM i v).spawned = t.spawned := rfl

@[simp] theorem Strand.setAbs_sid (t : Strand) (n : Nat) (v : Word) : (t.setAbs n v).sid = t.sid := rfl
@[simp] theorem Strand.setAbs_core (t : Strand) (n : Nat) (v : Word) : (t.setAbs n v).core = t.core := rfl
@[simp] theorem Strand.setAbs_slot (t : Strand) (n : Nat) (v : Word) : (t.setAbs n v).slot = t.slot := rfl
@[simp] theorem Strand.setAbs_status (t : Strand) (n : Nat) (v : Word) : (t.setAbs n v).status = t.status := rfl
@[simp] theorem Strand.setAbs_stay (t : Strand) (n : Nat) (v : Word) : (t.setAbs n v).stay = t.stay := rfl
@[simp] theorem Strand.setAbs_pc (t : Strand) (n : Nat) (v : Word) : (t.setAbs n v).pc = t.pc := rfl
@[simp] theorem Strand.setAbs_low (t : Strand) (n : Nat) (v : Word) : (t.setAbs n v).low = t.low := rfl
@[simp] theorem Strand.setAbs_o (t : Strand) (n : Nat) (v : Word) : (t.setAbs n v).o = t.o := rfl
@[simp] theorem Strand.setAbs_l0 (t : Strand) (n : Nat) (v : Word) : (t.setAbs n v).l0 = t.l0 := rfl
@[simp] theorem Strand.setAbs_l1 (t : Strand) (n : Nat) (v : Word) : (t.setAbs n v).l1 = t.l1 := rfl
@[simp] theorem Strand.setAbs_pw (t : Strand) (n : Nat) (v : Word) : (t.setAbs n v).pw = t.pw := rfl
@[simp] theorem Strand.setAbs_e (t : Strand) (n : Nat) (v : Word) : (t.setAbs n v).e = t.e := rfl
@[simp] theorem Strand.setAbs_k (t : Strand) (n : Nat) (v : Word) : (t.setAbs n v).k = t.k := rfl
@[simp] theorem Strand.setAbs_t (t : Strand) (n : Nat) (v : Word) : (t.setAbs n v).t = t.t := rfl
@[simp] theorem Strand.setAbs_q (t : Strand) (n : Nat) (v : Word) : (t.setAbs n v).q = t.q := rfl
@[simp] theorem Strand.setAbs_tix (t : Strand) (n : Nat) (v : Word) : (t.setAbs n v).tix = t.tix := rfl
@[simp] theorem Strand.setAbs_tcnt (t : Strand) (n : Nat) (v : Word) : (t.setAbs n v).tcnt = t.tcnt := rfl
@[simp] theorem Strand.setAbs_lrec (t : Strand) (n : Nat) (v : Word) : (t.setAbs n v).lrec = t.lrec := rfl
@[simp] theorem Strand.setAbs_job (t : Strand) (n : Nat) (v : Word) : (t.setAbs n v).job = t.job := rfl
@[simp] theorem Strand.setAbs_rac (t : Strand) (n : Nat) (v : Word) : (t.setAbs n v).rac = t.rac := rfl
@[simp] theorem Strand.setAbs_trh (t : Strand) (n : Nat) (v : Word) : (t.setAbs n v).trh = t.trh := rfl
@[simp] theorem Strand.setAbs_wsp (t : Strand) (n : Nat) (v : Word) : (t.setAbs n v).wsp = t.wsp := rfl
@[simp] theorem Strand.setAbs_wlim (t : Strand) (n : Nat) (v : Word) : (t.setAbs n v).wlim = t.wlim := rfl
@[simp] theorem Strand.setAbs_wdep (t : Strand) (n : Nat) (v : Word) : (t.setAbs n v).wdep = t.wdep := rfl
@[simp] theorem Strand.setAbs_tvec (t : Strand) (n : Nat) (v : Word) : (t.setAbs n v).tvec = t.tvec := rfl
@[simp] theorem Strand.setAbs_tcause (t : Strand) (n : Nat) (v : Word) : (t.setAbs n v).tcause = t.tcause := rfl
@[simp] theorem Strand.setAbs_tval (t : Strand) (n : Nat) (v : Word) : (t.setAbs n v).tval = t.tval := rfl
@[simp] theorem Strand.setAbs_xpc (t : Strand) (n : Nat) (v : Word) : (t.setAbs n v).xpc = t.xpc := rfl
@[simp] theorem Strand.setAbs_plv (t : Strand) (n : Nat) (v : Word) : (t.setAbs n v).plv = t.plv := rfl
@[simp] theorem Strand.setAbs_xplv (t : Strand) (n : Nat) (v : Word) : (t.setAbs n v).xplv = t.xplv := rfl
@[simp] theorem Strand.setAbs_prio (t : Strand) (n : Nat) (v : Word) : (t.setAbs n v).prio = t.prio := rfl
@[simp] theorem Strand.setAbs_armed (t : Strand) (n : Nat) (v : Word) : (t.setAbs n v).armed = t.armed := rfl
@[simp] theorem Strand.setAbs_resv (t : Strand) (n : Nat) (v : Word) : (t.setAbs n v).resv = t.resv := rfl
@[simp] theorem Strand.setAbs_stores (t : Strand) (n : Nat) (v : Word) : (t.setAbs n v).stores = t.stores := rfl
@[simp] theorem Strand.setAbs_pend (t : Strand) (n : Nat) (v : Word) : (t.setAbs n v).pend = t.pend := rfl
@[simp] theorem Strand.setAbs_spanErr (t : Strand) (n : Nat) (v : Word) : (t.setAbs n v).spanErr = t.spanErr := rfl
@[simp] theorem Strand.setAbs_storeErr (t : Strand) (n : Nat) (v : Word) : (t.setAbs n v).storeErr = t.storeErr := rfl
@[simp] theorem Strand.setAbs_lastIssue (t : Strand) (n : Nat) (v : Word) : (t.setAbs n v).lastIssue = t.lastIssue := rfl
@[simp] theorem Strand.setAbs_skip (t : Strand) (n : Nat) (v : Word) : (t.setAbs n v).skip = t.skip := rfl
@[simp] theorem Strand.setAbs_doom (t : Strand) (n : Nat) (v : Word) : (t.setAbs n v).doom = t.doom := rfl
@[simp] theorem Strand.setAbs_spawned (t : Strand) (n : Nat) (v : Word) : (t.setAbs n v).spawned = t.spawned := rfl

@[simp] theorem State.issue_me_sid (s : State) (n : Nat) : (s.issue n).me.sid = s.me.sid := rfl
@[simp] theorem State.issue_me_core (s : State) (n : Nat) : (s.issue n).me.core = s.me.core := rfl
@[simp] theorem State.issue_me_slot (s : State) (n : Nat) : (s.issue n).me.slot = s.me.slot := rfl
@[simp] theorem State.issue_me_status (s : State) (n : Nat) : (s.issue n).me.status = s.me.status := rfl
@[simp] theorem State.issue_me_stay (s : State) (n : Nat) : (s.issue n).me.stay = s.me.stay := rfl
@[simp] theorem State.issue_me_frames (s : State) (n : Nat) : (s.issue n).me.frames = s.me.frames := rfl
@[simp] theorem State.issue_me_low (s : State) (n : Nat) : (s.issue n).me.low = s.me.low := rfl
@[simp] theorem State.issue_me_o (s : State) (n : Nat) : (s.issue n).me.o = s.me.o := rfl
@[simp] theorem State.issue_me_l0 (s : State) (n : Nat) : (s.issue n).me.l0 = s.me.l0 := rfl
@[simp] theorem State.issue_me_l1 (s : State) (n : Nat) : (s.issue n).me.l1 = s.me.l1 := rfl
@[simp] theorem State.issue_me_pw (s : State) (n : Nat) : (s.issue n).me.pw = s.me.pw := rfl
@[simp] theorem State.issue_me_e (s : State) (n : Nat) : (s.issue n).me.e = s.me.e := rfl
@[simp] theorem State.issue_me_k (s : State) (n : Nat) : (s.issue n).me.k = s.me.k := rfl
@[simp] theorem State.issue_me_t (s : State) (n : Nat) : (s.issue n).me.t = s.me.t := rfl
@[simp] theorem State.issue_me_q (s : State) (n : Nat) : (s.issue n).me.q = s.me.q := rfl
@[simp] theorem State.issue_me_tix (s : State) (n : Nat) : (s.issue n).me.tix = s.me.tix := rfl
@[simp] theorem State.issue_me_tcnt (s : State) (n : Nat) : (s.issue n).me.tcnt = s.me.tcnt := rfl
@[simp] theorem State.issue_me_lrec (s : State) (n : Nat) : (s.issue n).me.lrec = s.me.lrec := rfl
@[simp] theorem State.issue_me_job (s : State) (n : Nat) : (s.issue n).me.job = s.me.job := rfl
@[simp] theorem State.issue_me_rac (s : State) (n : Nat) : (s.issue n).me.rac = s.me.rac := rfl
@[simp] theorem State.issue_me_trh (s : State) (n : Nat) : (s.issue n).me.trh = s.me.trh := rfl
@[simp] theorem State.issue_me_wsp (s : State) (n : Nat) : (s.issue n).me.wsp = s.me.wsp := rfl
@[simp] theorem State.issue_me_wlim (s : State) (n : Nat) : (s.issue n).me.wlim = s.me.wlim := rfl
@[simp] theorem State.issue_me_wdep (s : State) (n : Nat) : (s.issue n).me.wdep = s.me.wdep := rfl
@[simp] theorem State.issue_me_tvec (s : State) (n : Nat) : (s.issue n).me.tvec = s.me.tvec := rfl
@[simp] theorem State.issue_me_tcause (s : State) (n : Nat) : (s.issue n).me.tcause = s.me.tcause := rfl
@[simp] theorem State.issue_me_tval (s : State) (n : Nat) : (s.issue n).me.tval = s.me.tval := rfl
@[simp] theorem State.issue_me_xpc (s : State) (n : Nat) : (s.issue n).me.xpc = s.me.xpc := rfl
@[simp] theorem State.issue_me_plv (s : State) (n : Nat) : (s.issue n).me.plv = s.me.plv := rfl
@[simp] theorem State.issue_me_xplv (s : State) (n : Nat) : (s.issue n).me.xplv = s.me.xplv := rfl
@[simp] theorem State.issue_me_prio (s : State) (n : Nat) : (s.issue n).me.prio = s.me.prio := rfl
@[simp] theorem State.issue_me_armed (s : State) (n : Nat) : (s.issue n).me.armed = s.me.armed := rfl
@[simp] theorem State.issue_me_resv (s : State) (n : Nat) : (s.issue n).me.resv = s.me.resv := rfl
@[simp] theorem State.issue_me_stores (s : State) (n : Nat) : (s.issue n).me.stores = s.me.stores := rfl
@[simp] theorem State.issue_me_spanErr (s : State) (n : Nat) : (s.issue n).me.spanErr = s.me.spanErr := rfl
@[simp] theorem State.issue_me_storeErr (s : State) (n : Nat) : (s.issue n).me.storeErr = s.me.storeErr := rfl
@[simp] theorem State.issue_me_skip (s : State) (n : Nat) : (s.issue n).me.skip = s.me.skip := rfl
@[simp] theorem State.issue_me_doom (s : State) (n : Nat) : (s.issue n).me.doom = s.me.doom := rfl
@[simp] theorem State.issue_me_spawned (s : State) (n : Nat) : (s.issue n).me.spawned = s.me.spawned := rfl
@[simp] theorem State.issue_me_pc (s : State) (n : Nat) : (s.issue n).me.pc = s.me.pc + BitVec.ofNat 48 n := rfl
@[simp] theorem State.issue_me_lastIssue (s : State) (n : Nat) : (s.issue n).me.lastIssue = s.clk := rfl
@[simp] theorem State.issue_me_pend (s : State) (n : Nat) : (s.issue n).me.pend = s.me.pend.map Pending.tick := rfl

end Sys2Proof.Machine
end

