-- ==== Sys2Proof/Laws/Ops.lean ====
section
/-! SUPPORT. What the shared operations do to an ordinary strand: sources, destinations, predicates, issue and guard. -/

namespace Sys2Proof.Machine

/-- The bind of two steps of a meaning. -/
theorem bind_ok {α β : Type} (x : M α) (f : α → M β) (s : State) (v : α) (t : State) (h : x s = .ok (v, t)) :
    (x >>= f) s = f v t := by simp [bind, StateT.bind, h, Except.bind]

theorem State.calm_issue (s : State) (n : Nat) (h : s.calm) : (s.issue n).calm := by
  obtain ⟨h1, h2, h3⟩ := h
  exact ⟨h1, by simp [h2], h3⟩

theorem State.calm.notAbroad {s : State} (h : s.calm) : s.me.abroad = false := by simp [Strand.abroad, h.2.2]

theorem atHome_calm (s : State) (h : s.calm) : atHome s = .ok ((), s) := by simp [atHome, h.notAbroad]
theorem nearM_calm (s : State) (h : s.calm) : nearM s = .ok ((), s) := by simp [nearM, h.notAbroad]
theorem settled_calm (f : Strand → Pending → Bool) (s : State) (h : s.calm) : settled f s = .ok ((), s) := by
  simp [settled, h.2.1]

/-- A plain source is read as it stands. -/
theorem rd_plain (r : Reg) (s : State) (h : s.calm) (hr : r.plain = true) : rd r s = .ok (s.me.src r, s) := by
  cases r <;> simp [Reg.plain] at hr <;>
    simp [rd, bind, StateT.bind, nearM_calm s h, settled_calm _ s h, gets', Strand.src, Strand.m, Except.bind, pure, StateT.pure, Except.pure]

theorem rdOld_plain (r : Reg) (s : State) (h : s.calm) (hr : r.plain = true) : rdOld r s = .ok (s.me.src r, s) := by
  have := rd_plain r s h hr
  cases r <;> simp_all [rdOld, Reg.plain]

/-- A plain destination is written as R65 to R67 say. -/
theorem wr_plain (d : Reg) (v : Word) (s : State) (h : s.calm) (hd : d.plain = true) :
    wr d v s = .ok ((), { s with me := s.me.result d v }) := by
  have hp := h.2.1
  have hc : ({ s with me := s.me.shift v } : State).calm := ⟨h.1, by simp [Strand.shift, hp], h.2.2⟩
  have e : s.me.shift v = { s.me with l1 := s.me.l0, l0 := v } := by simp [Strand.shift, hp]
  rw [wr, bind_ok _ _ _ () { s with me := s.me.shift v } rfl]
  cases d <;> simp only [Reg.plain, Bool.false_eq_true] at hd
  · rw [place, bind_ok _ _ _ _ _ (nearM_calm _ hc)]
    simp [updMe, Strand.result, Strand.claim, Strand.setM, e, hp]
  all_goals simp [place, updMe, Strand.result, Strand.claim, Strand.strike, e, hp, pwOf, pure, StateT.pure, Except.pure]

theorem guardHeld_calm (s : State) (h : s.calm) (g : Guard) : s.me.guardHeld g = none := by
  simp [Strand.guardHeld, Strand.pwOwed, h.2.1]

/-- A calm strand whose guard holds executes the body on the state in which the instruction has issued (R24). -/
theorem short_calm (n : Nat) (g : Guard) (body : M Unit) (s : State) (h : s.calm) (hg : s.me.guarded g = true) :
    short n g body s = finish s (body (s.issue n)) := by
  simp [short, h.1, guardHeld_calm s h g, hg]

theorem long_calm (n : Nat) (g : Guard) (la : Nat) (ds : List Reg) (body : M Unit) (s : State) (h : s.calm)
    (hg : s.me.guarded g = true) : long n g la ds body s = finishLong n la ds none s (body (s.issue n)) := by
  simp [long, longLine, h.1, guardHeld_calm s h g, hg]

/-- A false guard skips the instruction (R24). -/
theorem short_skips (n : Nat) (g : Guard) (body : M Unit) (s : State) (h : s.calm) (hg : s.me.guarded g = false) :
    short n g body s = .next (s.issue n) := by
  simp [short, h.1, guardHeld_calm s h g, hg]

theorem long_skips (n : Nat) (g : Guard) (la : Nat) (ds : List Reg) (body : M Unit) (s : State) (h : s.calm)
    (hg : s.me.guarded g = false) : long n g la ds body s = .next (s.issue n) := by
  simp [long, longLine, h.1, guardHeld_calm s h g, hg]

theorem guarded_zero (t : Strand) : t.guarded 0 = true := by simp [Strand.guarded, Strand.pred]

theorem pwHere_calm (s : State) (h : s.calm) : pwHere s = .ok ((), s) := by simp [pwHere, Strand.pwOwed, h.2.1]

theorem setPred_calm (p : Pred) (b : Bool) (s : State) (h : s.calm) :
    setPred p b s = .ok ((), { s with me := s.me.predResult p b }) := by
  by_cases hp : p = 0
  · subst hp; simp [setPred, Strand.predResult, pure, StateT.pure, Except.pure]
  · have : p.val ≠ 0 := fun e => hp (Fin.ext e)
    simp [setPred, this, bind, StateT.bind, pwHere_calm s h, Except.bind, updMe, Strand.predResult, hp, withBit]

theorem getPred_calm (p : Pred) (s : State) (h : s.calm) : getPred p s = .ok (s.me.pred p.val, s) := by
  by_cases hp : p.val = 0
  · simp [getPred, hp, pure, StateT.pure, Except.pure, Strand.pred]
  · simp [getPred, hp, bind, StateT.bind, pwHere_calm s h, Except.bind, gets']

/-! Two sources and a destination, all plain. -/

theorem op1_plain (f : Word → Word) (d a : Reg) (s : State) (h : s.calm) (hd : d.plain = true) (ha : a.plain = true) :
    op1 f d a s = .ok ((), { s with me := s.me.result d (f (s.me.src a)) }) := by
  rw [op1, bind_ok _ _ _ _ _ (rd_plain a s h ha), wr_plain d _ s h hd]

theorem op2_plain (f : Word → Word → Word) (d a b : Reg) (s : State) (h : s.calm) (hd : d.plain = true)
    (ha : a.plain = true) (hb : b.plain = true) :
    op2 f d a b s = .ok ((), { s with me := s.me.result d (f (s.me.src a) (s.me.src b)) }) := by
  rw [op2, bind_ok _ _ _ _ _ (rd_plain a s h ha), bind_ok _ _ _ _ _ (rd_plain b s h hb), wr_plain d _ s h hd]

theorem op3_plain (f : Word → Word → Word → Word) (d a b : Reg) (s : State) (h : s.calm) (hd : d.plain = true)
    (ha : a.plain = true) (hb : b.plain = true) :
    op3 f d a b s = .ok ((), { s with me := s.me.result d (f (s.me.src a) (s.me.src b) (s.me.src d)) }) := by
  rw [op3, bind_ok _ _ _ _ _ (rd_plain a s h ha), bind_ok _ _ _ _ _ (rd_plain b s h hb),
    bind_ok _ _ _ _ _ (rdOld_plain d s h hd), wr_plain d _ s h hd]

theorem cmp2_plain (f : Word → Word → Bool) (p : Pred) (a b : Reg) (s : State) (h : s.calm) (ha : a.plain = true)
    (hb : b.plain = true) :
    cmp2 f p a b s = .ok ((), { s with me := s.me.predResult p (f (s.me.src a) (s.me.src b)) }) := by
  rw [cmp2, bind_ok _ _ _ _ _ (rd_plain a s h ha), bind_ok _ _ _ _ _ (rd_plain b s h hb), setPred_calm _ _ s h]

theorem cmp1_plain (f : Word → Bool) (p : Pred) (a : Reg) (s : State) (h : s.calm) (ha : a.plain = true) :
    cmp1 f p a s = .ok ((), { s with me := s.me.predResult p (f (s.me.src a)) }) := by
  rw [cmp1, bind_ok _ _ _ _ _ (rd_plain a s h ha), setPred_calm _ _ s h]

theorem pred2_calm (f : Bool → Bool → Bool) (p a b : Pred) (s : State) (h : s.calm) :
    pred2 f p a b s = .ok ((), { s with me := s.me.predResult p (f (s.me.pred a.val) (s.me.pred b.val)) }) := by
  rw [pred2, bind_ok _ _ _ _ _ (getPred_calm a s h), bind_ok _ _ _ _ _ (getPred_calm b s h), setPred_calm _ _ s h]

/-! Stores and releases. -/

theorem released_empty (s : State) (h : s.me.stores = []) (hp : s.me.pend = []) : released s = .ok ((), s) := by
  simp [released, loadsDone, storesDone, h, hp, bind, StateT.bind, Except.bind]

/-- Everything taking a trap does (R358): the strand handles it, or the outcome of R359 follows. -/
theorem takeTrap_cases (s : State) (tvec : BitVec 48) (plv : BitVec 2) (cls win detail : Nat) (tval : Word) (xpc at_ : BitVec 48) :
    (unhandled tvec at_ = false ∧ s.takeTrap tvec plv cls win detail tval xpc at_ =
      { s with me := { s.me with
          skip := none, tcause := causeWord cls (win + s.me.skip.getD 0) detail, tval, xpc, xplv := plv
          pc := even48 tvec
          t := s.me.t.map fun x => x.map Stream.forget
          pend := s.me.pend.map fun (p : Pending) => if p.isEngine then { p with holds := false } else p
          spanErr := if cls = 8 ∧ detail = 1 then none else s.me.spanErr } }) ∨
    (unhandled tvec at_ = true ∧ s.takeTrap tvec plv cls win detail tval xpc at_ =
      ({ s with me := { s.me with skip := none } }).unhandledTrap plv (causeWord cls (win + s.me.skip.getD 0) detail) tval xpc) := by
  cases h : unhandled tvec at_
  · exact .inl ⟨rfl, by simp [State.takeTrap, h]⟩
  · exact .inr ⟨rfl, by simp [State.takeTrap, h]⟩

end Sys2Proof.Machine
end

