-- ==== Sys2Proof/Laws/PerInstr.lean ====
section
/-! SUPPORT. Facts about every instruction as syntax, one lemma for each constructor: the fields of its word fit the
format (Tables 2.1 to 2.7), so the fields can be read back from the word. -/

set_option Elab.async false

namespace Sys2Proof.Laws.Encoding

open Sys2Proof

/-- Every field of a word lies within its width, and the major opcode is one of the format. -/
def Fits : Dec.Raw → Prop
  | .a op d a b f g l => (op < 64 ∧ Dec.fmt op = .a) ∧ d < 32 ∧ a < 32 ∧ b < 32 ∧ f < 8 ∧ g < 8 ∧ l < 16
  | .x op a b c f l => (op < 64 ∧ Dec.fmt op = .x) ∧ a < 32 ∧ b < 32 ∧ c < 32 ∧ f < 64 ∧ l < 16
  | .t op d a b t z => (op < 64 ∧ Dec.fmt op = .t) ∧ d < 32 ∧ a < 32 ∧ b < 32 ∧ t < 256 ∧ z < 4
  | .i op d a i g => (op < 64 ∧ Dec.fmt op = .i) ∧ d < 32 ∧ a < 32 ∧ i < 4096 ∧ g < 8
  | .m op d a o f l => (op < 64 ∧ Dec.fmt op = .m) ∧ d < 32 ∧ a < 32 ∧ o < 256 ∧ f < 8 ∧ l < 16
  | .u op d i => (op < 64 ∧ Dec.fmt op = .u) ∧ d < 32 ∧ i < 2 ^ 20
  | .j o => o < 2 ^ 25
  | .b s p o => s < 2 ∧ p < 16 ∧ o < 2 ^ 20
  | .c op d a => op < 32 ∧ d < 32 ∧ a < 32
  | .none => True

/-- The word of an instruction holds its fields. -/
def Statement (i : Instr) : Prop := Fits i.raw

theorem reg_lt (r : Reg) : r.code < 32 := by cases r <;> simp [Reg.code] <;> omega
theorem lreg_lt (r : LReg) : r.code < 32 := by cases r <;> simp [LReg.code] <;> omega
theorem asize_lt (z : ASize) : z.code < 4 := by cases z <;> decide
theorem scope_lt (z : Scope) : z.code < 8 := by cases z <;> decide
theorem fkind_lt (z : FKind) : z.code < 4 := by cases z <;> decide
theorem rel_lt (z : Rel) : z.code < 4 := by cases z <;> decide
theorem vsrc_lt (z : VSrc) : z.code < 4 := by cases z <;> decide
theorem rmode_lt (z : RMode) : z.code < 8 := by cases z <;> decide
theorem sreg_lt (z : SReg) : z.code < 32 := by cases z <;> decide
theorem bit_lt (b : Bool) : bit b < 2 := by cases b <;> decide

theorem add (d : Reg) (a : Reg) (b : Reg) (g : Guard) : Statement (.add d a b g) := by
  have h0 := reg_lt d
  have h1 := reg_lt a
  have h2 := reg_lt b
  have h3 := g.isLt
  simp [Statement, Instr.raw, Fits, Dec.fmt]; omega
theorem sub (d : Reg) (a : Reg) (b : Reg) (g : Guard) : Statement (.sub d a b g) := by
  have h0 := reg_lt d
  have h1 := reg_lt a
  have h2 := reg_lt b
  have h3 := g.isLt
  simp [Statement, Instr.raw, Fits, Dec.fmt]; omega
theorem mul (d : Reg) (a : Reg) (b : Reg) (g : Guard) : Statement (.mul d a b g) := by
  have h0 := reg_lt d
  have h1 := reg_lt a
  have h2 := reg_lt b
  have h3 := g.isLt
  simp [Statement, Instr.raw, Fits, Dec.fmt]; omega
theorem mulh (d : Reg) (a : Reg) (b : Reg) (g : Guard) : Statement (.mulh d a b g) := by
  have h0 := reg_lt d
  have h1 := reg_lt a
  have h2 := reg_lt b
  have h3 := g.isLt
  simp [Statement, Instr.raw, Fits, Dec.fmt]; omega
theorem mulhn (d : Reg) (a : Reg) (b : Reg) (g : Guard) : Statement (.mulhn d a b g) := by
  have h0 := reg_lt d
  have h1 := reg_lt a
  have h2 := reg_lt b
  have h3 := g.isLt
  simp [Statement, Instr.raw, Fits, Dec.fmt]; omega
theorem div (d : Reg) (a : Reg) (b : Reg) (g : Guard) (la : Look) : Statement (.div d a b g la) := by
  have h0 := reg_lt d
  have h1 := reg_lt a
  have h2 := reg_lt b
  have h3 := g.isLt
  have h4 := la.isLt
  simp [Statement, Instr.raw, Fits, Dec.fmt]; omega
theorem divn (d : Reg) (a : Reg) (b : Reg) (g : Guard) (la : Look) : Statement (.divn d a b g la) := by
  have h0 := reg_lt d
  have h1 := reg_lt a
  have h2 := reg_lt b
  have h3 := g.isLt
  have h4 := la.isLt
  simp [Statement, Instr.raw, Fits, Dec.fmt]; omega
theorem rem (d : Reg) (a : Reg) (b : Reg) (g : Guard) (la : Look) : Statement (.rem d a b g la) := by
  have h0 := reg_lt d
  have h1 := reg_lt a
  have h2 := reg_lt b
  have h3 := g.isLt
  have h4 := la.isLt
  simp [Statement, Instr.raw, Fits, Dec.fmt]; omega
theorem and (d : Reg) (a : Reg) (b : Reg) (g : Guard) : Statement (.and d a b g) := by
  have h0 := reg_lt d
  have h1 := reg_lt a
  have h2 := reg_lt b
  have h3 := g.isLt
  simp [Statement, Instr.raw, Fits, Dec.fmt]; omega
theorem or (d : Reg) (a : Reg) (b : Reg) (g : Guard) : Statement (.or d a b g) := by
  have h0 := reg_lt d
  have h1 := reg_lt a
  have h2 := reg_lt b
  have h3 := g.isLt
  simp [Statement, Instr.raw, Fits, Dec.fmt]; omega
theorem xor (d : Reg) (a : Reg) (b : Reg) (g : Guard) : Statement (.xor d a b g) := by
  have h0 := reg_lt d
  have h1 := reg_lt a
  have h2 := reg_lt b
  have h3 := g.isLt
  simp [Statement, Instr.raw, Fits, Dec.fmt]; omega
theorem andn (d : Reg) (a : Reg) (b : Reg) (g : Guard) : Statement (.andn d a b g) := by
  have h0 := reg_lt d
  have h1 := reg_lt a
  have h2 := reg_lt b
  have h3 := g.isLt
  simp [Statement, Instr.raw, Fits, Dec.fmt]; omega
theorem orn (d : Reg) (a : Reg) (b : Reg) (g : Guard) : Statement (.orn d a b g) := by
  have h0 := reg_lt d
  have h1 := reg_lt a
  have h2 := reg_lt b
  have h3 := g.isLt
  simp [Statement, Instr.raw, Fits, Dec.fmt]; omega
theorem xnor (d : Reg) (a : Reg) (b : Reg) (g : Guard) : Statement (.xnor d a b g) := by
  have h0 := reg_lt d
  have h1 := reg_lt a
  have h2 := reg_lt b
  have h3 := g.isLt
  simp [Statement, Instr.raw, Fits, Dec.fmt]; omega
theorem min (d : Reg) (a : Reg) (b : Reg) (g : Guard) : Statement (.min d a b g) := by
  have h0 := reg_lt d
  have h1 := reg_lt a
  have h2 := reg_lt b
  have h3 := g.isLt
  simp [Statement, Instr.raw, Fits, Dec.fmt]; omega
theorem max (d : Reg) (a : Reg) (b : Reg) (g : Guard) : Statement (.max d a b g) := by
  have h0 := reg_lt d
  have h1 := reg_lt a
  have h2 := reg_lt b
  have h3 := g.isLt
  simp [Statement, Instr.raw, Fits, Dec.fmt]; omega
theorem shl (d : Reg) (a : Reg) (b : Reg) (g : Guard) : Statement (.shl d a b g) := by
  have h0 := reg_lt d
  have h1 := reg_lt a
  have h2 := reg_lt b
  have h3 := g.isLt
  simp [Statement, Instr.raw, Fits, Dec.fmt]; omega
theorem shr (d : Reg) (a : Reg) (b : Reg) (g : Guard) : Statement (.shr d a b g) := by
  have h0 := reg_lt d
  have h1 := reg_lt a
  have h2 := reg_lt b
  have h3 := g.isLt
  simp [Statement, Instr.raw, Fits, Dec.fmt]; omega
theorem sha (d : Reg) (a : Reg) (b : Reg) (g : Guard) : Statement (.sha d a b g) := by
  have h0 := reg_lt d
  have h1 := reg_lt a
  have h2 := reg_lt b
  have h3 := g.isLt
  simp [Statement, Instr.raw, Fits, Dec.fmt]; omega
theorem rot (d : Reg) (a : Reg) (b : Reg) (g : Guard) : Statement (.rot d a b g) := by
  have h0 := reg_lt d
  have h1 := reg_lt a
  have h2 := reg_lt b
  have h3 := g.isLt
  simp [Statement, Instr.raw, Fits, Dec.fmt]; omega
theorem minn (d : Reg) (a : Reg) (b : Reg) (g : Guard) : Statement (.minn d a b g) := by
  have h0 := reg_lt d
  have h1 := reg_lt a
  have h2 := reg_lt b
  have h3 := g.isLt
  simp [Statement, Instr.raw, Fits, Dec.fmt]; omega
theorem maxn (d : Reg) (a : Reg) (b : Reg) (g : Guard) : Statement (.maxn d a b g) := by
  have h0 := reg_lt d
  have h1 := reg_lt a
  have h2 := reg_lt b
  have h3 := g.isLt
  simp [Statement, Instr.raw, Fits, Dec.fmt]; omega
theorem clz (d : Reg) (a : Reg) (g : Guard) : Statement (.clz d a g) := by
  have h0 := reg_lt d
  have h1 := reg_lt a
  have h2 := g.isLt
  simp [Statement, Instr.raw, Fits, Dec.fmt]; omega
theorem popc (d : Reg) (a : Reg) (g : Guard) : Statement (.popc d a g) := by
  have h0 := reg_lt d
  have h1 := reg_lt a
  have h2 := g.isLt
  simp [Statement, Instr.raw, Fits, Dec.fmt]; omega
theorem bext (d : Reg) (a : Reg) (b : Reg) (g : Guard) : Statement (.bext d a b g) := by
  have h0 := reg_lt d
  have h1 := reg_lt a
  have h2 := reg_lt b
  have h3 := g.isLt
  simp [Statement, Instr.raw, Fits, Dec.fmt]; omega
theorem bdep (d : Reg) (a : Reg) (b : Reg) (g : Guard) : Statement (.bdep d a b g) := by
  have h0 := reg_lt d
  have h1 := reg_lt a
  have h2 := reg_lt b
  have h3 := g.isLt
  simp [Statement, Instr.raw, Fits, Dec.fmt]; omega
theorem brev (d : Reg) (a : Reg) (g : Guard) : Statement (.brev d a g) := by
  have h0 := reg_lt d
  have h1 := reg_lt a
  have h2 := g.isLt
  simp [Statement, Instr.raw, Fits, Dec.fmt]; omega
theorem scadd (d : Reg) (a : Reg) (b : Reg) (g : Guard) : Statement (.scadd d a b g) := by
  have h0 := reg_lt d
  have h1 := reg_lt a
  have h2 := reg_lt b
  have h3 := g.isLt
  simp [Statement, Instr.raw, Fits, Dec.fmt]; omega
theorem sel (d : Reg) (a : Reg) (b : Reg) (g : Guard) : Statement (.sel d a b g) := by
  have h0 := reg_lt d
  have h1 := reg_lt a
  have h2 := reg_lt b
  have h3 := g.isLt
  simp [Statement, Instr.raw, Fits, Dec.fmt]; omega
theorem lut3 (d : Reg) (a : Reg) (b : Reg) (tbl : BitVec 8) : Statement (.lut3 d a b tbl) := by
  have h0 := reg_lt d
  have h1 := reg_lt a
  have h2 := reg_lt b
  have h3 := tbl.isLt
  simp [Statement, Instr.raw, Fits, Dec.fmt]; omega
theorem fsl (d : Reg) (a : Reg) (b : Reg) (n : BitVec 6) : Statement (.fsl d a b n) := by
  have h0 := reg_lt d
  have h1 := reg_lt a
  have h2 := reg_lt b
  have h3 := n.isLt
  simp [Statement, Instr.raw, Fits, Dec.fmt]; omega
theorem fsr (d : Reg) (a : Reg) (b : Reg) (n : BitVec 6) : Statement (.fsr d a b n) := by
  have h0 := reg_lt d
  have h1 := reg_lt a
  have h2 := reg_lt b
  have h3 := n.isLt
  simp [Statement, Instr.raw, Fits, Dec.fmt]; omega
theorem cmpeq (pd : Pred) (a : Reg) (b : Reg) (g : Guard) : Statement (.cmpeq pd a b g) := by
  have h0 := pd.isLt
  have h1 := reg_lt a
  have h2 := reg_lt b
  have h3 := g.isLt
  simp [Statement, Instr.raw, Fits, Dec.fmt]; omega
theorem cmpne (pd : Pred) (a : Reg) (b : Reg) (g : Guard) : Statement (.cmpne pd a b g) := by
  have h0 := pd.isLt
  have h1 := reg_lt a
  have h2 := reg_lt b
  have h3 := g.isLt
  simp [Statement, Instr.raw, Fits, Dec.fmt]; omega
theorem cmplt (pd : Pred) (a : Reg) (b : Reg) (g : Guard) : Statement (.cmplt pd a b g) := by
  have h0 := pd.isLt
  have h1 := reg_lt a
  have h2 := reg_lt b
  have h3 := g.isLt
  simp [Statement, Instr.raw, Fits, Dec.fmt]; omega
theorem cmple (pd : Pred) (a : Reg) (b : Reg) (g : Guard) : Statement (.cmple pd a b g) := by
  have h0 := pd.isLt
  have h1 := reg_lt a
  have h2 := reg_lt b
  have h3 := g.isLt
  simp [Statement, Instr.raw, Fits, Dec.fmt]; omega
theorem cmpltn (pd : Pred) (a : Reg) (b : Reg) (g : Guard) : Statement (.cmpltn pd a b g) := by
  have h0 := pd.isLt
  have h1 := reg_lt a
  have h2 := reg_lt b
  have h3 := g.isLt
  simp [Statement, Instr.raw, Fits, Dec.fmt]; omega
theorem cmplen (pd : Pred) (a : Reg) (b : Reg) (g : Guard) : Statement (.cmplen pd a b g) := by
  have h0 := pd.isLt
  have h1 := reg_lt a
  have h2 := reg_lt b
  have h3 := g.isLt
  simp [Statement, Instr.raw, Fits, Dec.fmt]; omega
theorem tst (pd : Pred) (a : Reg) (b : Reg) (g : Guard) : Statement (.tst pd a b g) := by
  have h0 := pd.isLt
  have h1 := reg_lt a
  have h2 := reg_lt b
  have h3 := g.isLt
  simp [Statement, Instr.raw, Fits, Dec.fmt]; omega
theorem pand (pd : Pred) (pa : Pred) (pb : Pred) (g : Guard) : Statement (.pand pd pa pb g) := by
  have h0 := pd.isLt
  have h1 := pa.isLt
  have h2 := pb.isLt
  have h3 := g.isLt
  simp [Statement, Instr.raw, Fits, Dec.fmt]; omega
theorem por (pd : Pred) (pa : Pred) (pb : Pred) (g : Guard) : Statement (.por pd pa pb g) := by
  have h0 := pd.isLt
  have h1 := pa.isLt
  have h2 := pb.isLt
  have h3 := g.isLt
  simp [Statement, Instr.raw, Fits, Dec.fmt]; omega
theorem pxor (pd : Pred) (pa : Pred) (pb : Pred) (g : Guard) : Statement (.pxor pd pa pb g) := by
  have h0 := pd.isLt
  have h1 := pa.isLt
  have h2 := pb.isLt
  have h3 := g.isLt
  simp [Statement, Instr.raw, Fits, Dec.fmt]; omega
theorem pnot (pd : Pred) (pa : Pred) (g : Guard) : Statement (.pnot pd pa g) := by
  have h0 := pd.isLt
  have h1 := pa.isLt
  have h2 := g.isLt
  simp [Statement, Instr.raw, Fits, Dec.fmt]; omega
theorem addi (d : Reg) (a : Reg) (imm : BitVec 12) (g : Guard) : Statement (.addi d a imm g) := by
  have h0 := reg_lt d
  have h1 := reg_lt a
  have h2 := imm.isLt
  have h3 := g.isLt
  simp [Statement, Instr.raw, Fits, Dec.fmt]; omega
theorem andi (d : Reg) (a : Reg) (imm : BitVec 12) (g : Guard) : Statement (.andi d a imm g) := by
  have h0 := reg_lt d
  have h1 := reg_lt a
  have h2 := imm.isLt
  have h3 := g.isLt
  simp [Statement, Instr.raw, Fits, Dec.fmt]; omega
theorem ori (d : Reg) (a : Reg) (imm : BitVec 12) (g : Guard) : Statement (.ori d a imm g) := by
  have h0 := reg_lt d
  have h1 := reg_lt a
  have h2 := imm.isLt
  have h3 := g.isLt
  simp [Statement, Instr.raw, Fits, Dec.fmt]; omega
theorem xori (d : Reg) (a : Reg) (imm : BitVec 12) (g : Guard) : Statement (.xori d a imm g) := by
  have h0 := reg_lt d
  have h1 := reg_lt a
  have h2 := imm.isLt
  have h3 := g.isLt
  simp [Statement, Instr.raw, Fits, Dec.fmt]; omega
theorem shli (d : Reg) (a : Reg) (n : BitVec 6) (g : Guard) : Statement (.shli d a n g) := by
  have h0 := reg_lt d
  have h1 := reg_lt a
  have h2 := n.isLt
  have h3 := g.isLt
  simp [Statement, Instr.raw, Fits, Dec.fmt]; omega
theorem shri (d : Reg) (a : Reg) (n : BitVec 6) (g : Guard) : Statement (.shri d a n g) := by
  have h0 := reg_lt d
  have h1 := reg_lt a
  have h2 := n.isLt
  have h3 := g.isLt
  simp [Statement, Instr.raw, Fits, Dec.fmt]; omega
theorem shai (d : Reg) (a : Reg) (n : BitVec 6) (g : Guard) : Statement (.shai d a n g) := by
  have h0 := reg_lt d
  have h1 := reg_lt a
  have h2 := n.isLt
  have h3 := g.isLt
  simp [Statement, Instr.raw, Fits, Dec.fmt]; omega
theorem cmpeqi (pd : Pred) (a : Reg) (imm : BitVec 10) (g : Guard) : Statement (.cmpeqi pd a imm g) := by
  have h0 := pd.isLt
  have h1 := reg_lt a
  have h2 := imm.isLt
  have h3 := g.isLt
  simp [Statement, Instr.raw, Fits, Dec.fmt]; omega
theorem cmplti (pd : Pred) (a : Reg) (imm : BitVec 10) (g : Guard) : Statement (.cmplti pd a imm g) := by
  have h0 := pd.isLt
  have h1 := reg_lt a
  have h2 := imm.isLt
  have h3 := g.isLt
  simp [Statement, Instr.raw, Fits, Dec.fmt]; omega
theorem cmpltni (pd : Pred) (a : Reg) (imm : BitVec 10) (g : Guard) : Statement (.cmpltni pd a imm g) := by
  have h0 := pd.isLt
  have h1 := reg_lt a
  have h2 := imm.isLt
  have h3 := g.isLt
  simp [Statement, Instr.raw, Fits, Dec.fmt]; omega
theorem lui (d : Reg) (imm : BitVec 20) : Statement (.lui d imm) := by
  have h0 := reg_lt d
  have h1 := imm.isLt
  simp [Statement, Instr.raw, Fits, Dec.fmt]; omega
theorem addpc (d : Reg) (imm : BitVec 20) : Statement (.addpc d imm) := by
  have h0 := reg_lt d
  have h1 := imm.isLt
  simp [Statement, Instr.raw, Fits, Dec.fmt]; omega
theorem fadd (d : Reg) (a : Reg) (b : Reg) (g : Guard) : Statement (.fadd d a b g) := by
  have h0 := reg_lt d
  have h1 := reg_lt a
  have h2 := reg_lt b
  have h3 := g.isLt
  simp [Statement, Instr.raw, Fits, Dec.fmt]; omega
theorem fsub (d : Reg) (a : Reg) (b : Reg) (g : Guard) : Statement (.fsub d a b g) := by
  have h0 := reg_lt d
  have h1 := reg_lt a
  have h2 := reg_lt b
  have h3 := g.isLt
  simp [Statement, Instr.raw, Fits, Dec.fmt]; omega
theorem fmul (d : Reg) (a : Reg) (b : Reg) (g : Guard) : Statement (.fmul d a b g) := by
  have h0 := reg_lt d
  have h1 := reg_lt a
  have h2 := reg_lt b
  have h3 := g.isLt
  simp [Statement, Instr.raw, Fits, Dec.fmt]; omega
theorem fma (d : Reg) (a : Reg) (b : Reg) (g : Guard) : Statement (.fma d a b g) := by
  have h0 := reg_lt d
  have h1 := reg_lt a
  have h2 := reg_lt b
  have h3 := g.isLt
  simp [Statement, Instr.raw, Fits, Dec.fmt]; omega
theorem fdiv (d : Reg) (a : Reg) (b : Reg) (g : Guard) (la : Look) : Statement (.fdiv d a b g la) := by
  have h0 := reg_lt d
  have h1 := reg_lt a
  have h2 := reg_lt b
  have h3 := g.isLt
  have h4 := la.isLt
  simp [Statement, Instr.raw, Fits, Dec.fmt]; omega
theorem fsqrt (d : Reg) (a : Reg) (g : Guard) (la : Look) : Statement (.fsqrt d a g la) := by
  have h0 := reg_lt d
  have h1 := reg_lt a
  have h2 := g.isLt
  have h3 := la.isLt
  simp [Statement, Instr.raw, Fits, Dec.fmt]; omega
theorem fmin (d : Reg) (a : Reg) (b : Reg) (g : Guard) : Statement (.fmin d a b g) := by
  have h0 := reg_lt d
  have h1 := reg_lt a
  have h2 := reg_lt b
  have h3 := g.isLt
  simp [Statement, Instr.raw, Fits, Dec.fmt]; omega
theorem fmax (d : Reg) (a : Reg) (b : Reg) (g : Guard) : Statement (.fmax d a b g) := by
  have h0 := reg_lt d
  have h1 := reg_lt a
  have h2 := reg_lt b
  have h3 := g.isLt
  simp [Statement, Instr.raw, Fits, Dec.fmt]; omega
theorem fcmpeq (pd : Pred) (a : Reg) (b : Reg) (g : Guard) : Statement (.fcmpeq pd a b g) := by
  have h0 := pd.isLt
  have h1 := reg_lt a
  have h2 := reg_lt b
  have h3 := g.isLt
  simp [Statement, Instr.raw, Fits, Dec.fmt]; omega
theorem fcmplt (pd : Pred) (a : Reg) (b : Reg) (g : Guard) : Statement (.fcmplt pd a b g) := by
  have h0 := pd.isLt
  have h1 := reg_lt a
  have h2 := reg_lt b
  have h3 := g.isLt
  simp [Statement, Instr.raw, Fits, Dec.fmt]; omega
theorem fcmple (pd : Pred) (a : Reg) (b : Reg) (g : Guard) : Statement (.fcmple pd a b g) := by
  have h0 := pd.isLt
  have h1 := reg_lt a
  have h2 := reg_lt b
  have h3 := g.isLt
  simp [Statement, Instr.raw, Fits, Dec.fmt]; omega
theorem fcmpun (pd : Pred) (a : Reg) (b : Reg) (g : Guard) : Statement (.fcmpun pd a b g) := by
  have h0 := pd.isLt
  have h1 := reg_lt a
  have h2 := reg_lt b
  have h3 := g.isLt
  simp [Statement, Instr.raw, Fits, Dec.fmt]; omega
theorem cvt (d : Reg) (a : Reg) (src : Ty) (dst : Ty) (mode : RMode) (sat : Bool) (g : Guard) : Statement (.cvt d a src dst mode sat g) := by
  have h0 := reg_lt d
  have h1 := reg_lt a
  have h2 := src.isLt
  have h3 := dst.isLt
  have h4 := rmode_lt mode
  have h5 := bit_lt sat
  have h6 := g.isLt
  simp [Statement, Instr.raw, Fits, Dec.fmt]; omega
theorem dadd (d : Reg) (a : Reg) (b : Reg) (g : Guard) (la : Look) : Statement (.dadd d a b g la) := by
  have h0 := reg_lt d
  have h1 := reg_lt a
  have h2 := reg_lt b
  have h3 := g.isLt
  have h4 := la.isLt
  simp [Statement, Instr.raw, Fits, Dec.fmt]; omega
theorem dsub (d : Reg) (a : Reg) (b : Reg) (g : Guard) (la : Look) : Statement (.dsub d a b g la) := by
  have h0 := reg_lt d
  have h1 := reg_lt a
  have h2 := reg_lt b
  have h3 := g.isLt
  have h4 := la.isLt
  simp [Statement, Instr.raw, Fits, Dec.fmt]; omega
theorem dmul (d : Reg) (a : Reg) (b : Reg) (g : Guard) (la : Look) : Statement (.dmul d a b g la) := by
  have h0 := reg_lt d
  have h1 := reg_lt a
  have h2 := reg_lt b
  have h3 := g.isLt
  have h4 := la.isLt
  simp [Statement, Instr.raw, Fits, Dec.fmt]; omega
theorem dfma (d : Reg) (a : Reg) (b : Reg) (g : Guard) (la : Look) : Statement (.dfma d a b g la) := by
  have h0 := reg_lt d
  have h1 := reg_lt a
  have h2 := reg_lt b
  have h3 := g.isLt
  have h4 := la.isLt
  simp [Statement, Instr.raw, Fits, Dec.fmt]; omega
theorem ddiv (d : Reg) (a : Reg) (b : Reg) (g : Guard) (la : Look) : Statement (.ddiv d a b g la) := by
  have h0 := reg_lt d
  have h1 := reg_lt a
  have h2 := reg_lt b
  have h3 := g.isLt
  have h4 := la.isLt
  simp [Statement, Instr.raw, Fits, Dec.fmt]; omega
theorem dsqrt (d : Reg) (a : Reg) (g : Guard) (la : Look) : Statement (.dsqrt d a g la) := by
  have h0 := reg_lt d
  have h1 := reg_lt a
  have h2 := g.isLt
  have h3 := la.isLt
  simp [Statement, Instr.raw, Fits, Dec.fmt]; omega
theorem srd (d : Reg) (r : SReg) (g : Guard) : Statement (.srd d r g) := by
  have h0 := reg_lt d
  have h1 := sreg_lt r
  have h2 := g.isLt
  simp [Statement, Instr.raw, Fits, Dec.fmt]; omega
theorem swr (r : SReg) (a : Reg) (g : Guard) : Statement (.swr r a g) := by
  have h0 := sreg_lt r
  have h1 := reg_lt a
  have h2 := g.isLt
  simp [Statement, Instr.raw, Fits, Dec.fmt]; omega
theorem ext (k : Fin 8) (a : Reg) (g : Guard) : Statement (.ext k a g) := by
  have h0 := k.isLt
  have h1 := reg_lt a
  have h2 := g.isLt
  simp [Statement, Instr.raw, Fits, Dec.fmt]; omega
theorem rdcyc (d : Reg) : Statement (.rdcyc d) := by
  have h0 := reg_lt d
  simp [Statement, Instr.raw, Fits, Dec.fmt]; omega
theorem trap (code : BitVec 9) : Statement (.trap code) := by
  have h0 := code.isLt
  simp [Statement, Instr.raw, Fits, Dec.fmt]; omega
theorem br (p : Pred) (off : BitVec 20) : Statement (.br p off) := by
  have h0 := p.isLt
  have h1 := off.isLt
  simp [Statement, Instr.raw, Fits, Dec.fmt]; omega
theorem brF (p : Pred) (off : BitVec 20) : Statement (.brF p off) := by
  have h0 := p.isLt
  have h1 := off.isLt
  simp [Statement, Instr.raw, Fits, Dec.fmt]; omega
theorem call (off : BitVec 25) : Statement (.call off) := by
  have h0 := off.isLt
  simp [Statement, Instr.raw, Fits, Dec.fmt]; omega
theorem jr (a : Reg) (g : Guard) : Statement (.jr a g) := by
  have h0 := reg_lt a
  have h1 := g.isLt
  simp [Statement, Instr.raw, Fits, Dec.fmt]; omega
theorem callr (a : Reg) (g : Guard) : Statement (.callr a g) := by
  have h0 := reg_lt a
  have h1 := g.isLt
  simp [Statement, Instr.raw, Fits, Dec.fmt]; omega
theorem ret (g : Guard) : Statement (.ret g) := by
  have h0 := g.isLt
  simp [Statement, Instr.raw, Fits, Dec.fmt]
theorem loop (d : Reg) (off : BitVec 12) (g : Guard) : Statement (.loop d off g) := by
  have h0 := reg_lt d
  have h1 := off.isLt
  have h2 := g.isLt
  simp [Statement, Instr.raw, Fits, Dec.fmt]; omega
theorem susp (a : Reg) (b : Reg) (g : Guard) : Statement (.susp a b g) := by
  have h0 := reg_lt a
  have h1 := reg_lt b
  have h2 := g.isLt
  simp [Statement, Instr.raw, Fits, Dec.fmt]; omega
theorem migr (d : Reg) (a : Reg) (g : Guard) (la : Look) : Statement (.migr d a g la) := by
  have h0 := reg_lt d
  have h1 := reg_lt a
  have h2 := g.isLt
  have h3 := la.isLt
  simp [Statement, Instr.raw, Fits, Dec.fmt]; omega
theorem home (g : Guard) (la : Look) : Statement (.home g la) := by
  have h0 := g.isLt
  have h1 := la.isLt
  simp [Statement, Instr.raw, Fits, Dec.fmt]
theorem spawn (d : Reg) (a : Reg) (b : Reg) (g : Guard) (la : Look) : Statement (.spawn d a b g la) := by
  have h0 := reg_lt d
  have h1 := reg_lt a
  have h2 := reg_lt b
  have h3 := g.isLt
  have h4 := la.isLt
  simp [Statement, Instr.raw, Fits, Dec.fmt]; omega
theorem spawnh (d : Reg) (a : Reg) (b : Reg) (g : Guard) (la : Look) : Statement (.spawnh d a b g la) := by
  have h0 := reg_lt d
  have h1 := reg_lt a
  have h2 := reg_lt b
  have h3 := g.isLt
  have h4 := la.isLt
  simp [Statement, Instr.raw, Fits, Dec.fmt]; omega
theorem send (d : Reg) (a : Reg) (b : Reg) (g : Guard) (la : Look) : Statement (.send d a b g la) := by
  have h0 := reg_lt d
  have h1 := reg_lt a
  have h2 := reg_lt b
  have h3 := g.isLt
  have h4 := la.isLt
  simp [Statement, Instr.raw, Fits, Dec.fmt]; omega
theorem qtest (d : Reg) (g : Guard) : Statement (.qtest d g) := by
  have h0 := reg_lt d
  have h1 := g.isLt
  simp [Statement, Instr.raw, Fits, Dec.fmt]; omega
theorem launch (d : Reg) (a : Reg) (b : Reg) (g : Guard) (la : Look) : Statement (.launch d a b g la) := by
  have h0 := reg_lt d
  have h1 := reg_lt a
  have h2 := reg_lt b
  have h3 := g.isLt
  have h4 := la.isLt
  simp [Statement, Instr.raw, Fits, Dec.fmt]; omega
theorem grun (d : Reg) (a : Reg) (g : Guard) (la : Look) : Statement (.grun d a g la) := by
  have h0 := reg_lt d
  have h1 := reg_lt a
  have h2 := g.isLt
  have h3 := la.isLt
  simp [Statement, Instr.raw, Fits, Dec.fmt]; omega
theorem cancelLaunch (d : Reg) (a : Reg) (b : Reg) (g : Guard) (la : Look) : Statement (.cancelLaunch d a b g la) := by
  have h0 := reg_lt d
  have h1 := reg_lt a
  have h2 := reg_lt b
  have h3 := g.isLt
  have h4 := la.isLt
  simp [Statement, Instr.raw, Fits, Dec.fmt]; omega
theorem cancelGraph (d : Reg) (a : Reg) (b : Reg) (g : Guard) (la : Look) : Statement (.cancelGraph d a b g la) := by
  have h0 := reg_lt d
  have h1 := reg_lt a
  have h2 := reg_lt b
  have h3 := g.isLt
  have h4 := la.isLt
  simp [Statement, Instr.raw, Fits, Dec.fmt]; omega
theorem cancelJob (d : Reg) (a : Reg) (b : Reg) (g : Guard) (la : Look) : Statement (.cancelJob d a b g la) := by
  have h0 := reg_lt d
  have h1 := reg_lt a
  have h2 := reg_lt b
  have h3 := g.isLt
  have h4 := la.isLt
  simp [Statement, Instr.raw, Fits, Dec.fmt]; omega
theorem callm (d : Reg) (a : Reg) (g : Guard) (la : Look) : Statement (.callm d a g la) := by
  have h0 := reg_lt d
  have h1 := reg_lt a
  have h2 := g.isLt
  have h3 := la.isLt
  simp [Statement, Instr.raw, Fits, Dec.fmt]; omega
theorem callq (d : Reg) (a : Reg) (b : Reg) (g : Guard) (la : Look) : Statement (.callq d a b g la) := by
  have h0 := reg_lt d
  have h1 := reg_lt a
  have h2 := reg_lt b
  have h3 := g.isLt
  have h4 := la.isLt
  simp [Statement, Instr.raw, Fits, Dec.fmt]; omega
theorem callw (a : Reg) (b : Reg) (g : Guard) (la : Look) : Statement (.callw a b g la) := by
  have h0 := reg_lt a
  have h1 := reg_lt b
  have h2 := g.isLt
  have h3 := la.isLt
  simp [Statement, Instr.raw, Fits, Dec.fmt]; omega
theorem stf (d : Reg) (a : Reg) (b : Reg) (c : Fin 4) (md : Bool) (g : Guard) (la : Look) : Statement (.stf d a b c md g la) := by
  have h0 := reg_lt d
  have h1 := reg_lt a
  have h2 := reg_lt b
  have h3 := c.isLt
  have h4 := bit_lt md
  have h5 := g.isLt
  have h6 := la.isLt
  simp [Statement, Instr.raw, Fits, Dec.fmt]; omega
theorem ld (d : Reg) (a : Reg) (off : BitVec 8) (sz : ASize) (sx : Bool) (la : Look) : Statement (.ld d a off sz sx la) := by
  have h0 := reg_lt d
  have h1 := reg_lt a
  have h2 := off.isLt
  have h3 := asize_lt sz
  have h4 := bit_lt sx
  have h5 := la.isLt
  simp [Statement, Instr.raw, Fits, Dec.fmt]; omega
theorem st (d : Reg) (a : Reg) (off : BitVec 8) (sz : ASize) (la : Look) : Statement (.st d a off sz la) := by
  have h0 := reg_lt d
  have h1 := reg_lt a
  have h2 := off.isLt
  have h3 := asize_lt sz
  have h4 := la.isLt
  simp [Statement, Instr.raw, Fits, Dec.fmt]; omega
theorem lda (d : Reg) (a : Reg) (off : BitVec 8) (sz : ASize) (pair : Bool) (la : Look) : Statement (.lda d a off sz pair la) := by
  have h0 := reg_lt d
  have h1 := reg_lt a
  have h2 := off.isLt
  have h3 := asize_lt sz
  have h4 := bit_lt pair
  have h5 := la.isLt
  simp [Statement, Instr.raw, Fits, Dec.fmt]; omega
theorem sta (d : Reg) (a : Reg) (off : BitVec 8) (sz : ASize) (pair : Bool) (la : Look) : Statement (.sta d a off sz pair la) := by
  have h0 := reg_lt d
  have h1 := reg_lt a
  have h2 := off.isLt
  have h3 := asize_lt sz
  have h4 := bit_lt pair
  have h5 := la.isLt
  simp [Statement, Instr.raw, Fits, Dec.fmt]; omega
theorem ldl (d : Reg) (a : Reg) (off : BitVec 8) (sz : ASize) (sx : Bool) (la : Look) : Statement (.ldl d a off sz sx la) := by
  have h0 := reg_lt d
  have h1 := reg_lt a
  have h2 := off.isLt
  have h3 := asize_lt sz
  have h4 := bit_lt sx
  have h5 := la.isLt
  simp [Statement, Instr.raw, Fits, Dec.fmt]; omega
theorem stl (d : Reg) (a : Reg) (off : BitVec 8) (sz : ASize) (la : Look) : Statement (.stl d a off sz la) := by
  have h0 := reg_lt d
  have h1 := reg_lt a
  have h2 := off.isLt
  have h3 := asize_lt sz
  have h4 := la.isLt
  simp [Statement, Instr.raw, Fits, Dec.fmt]; omega
theorem ldx (d : Reg) (a : Reg) (b : Reg) (g : Guard) (la : Look) : Statement (.ldx d a b g la) := by
  have h0 := reg_lt d
  have h1 := reg_lt a
  have h2 := reg_lt b
  have h3 := g.isLt
  have h4 := la.isLt
  simp [Statement, Instr.raw, Fits, Dec.fmt]; omega
theorem stx (d : Reg) (a : Reg) (b : Reg) (g : Guard) (la : Look) : Statement (.stx d a b g la) := by
  have h0 := reg_lt d
  have h1 := reg_lt a
  have h2 := reg_lt b
  have h3 := g.isLt
  have h4 := la.isLt
  simp [Statement, Instr.raw, Fits, Dec.fmt]; omega
theorem lrw (d : Reg) (a : Reg) (g : Guard) (la : Look) : Statement (.lrw d a g la) := by
  have h0 := reg_lt d
  have h1 := reg_lt a
  have h2 := g.isLt
  have h3 := la.isLt
  simp [Statement, Instr.raw, Fits, Dec.fmt]; omega
theorem scv (d : Reg) (a : Reg) (g : Guard) (la : Look) : Statement (.scv d a g la) := by
  have h0 := reg_lt d
  have h1 := reg_lt a
  have h2 := g.isLt
  have h3 := la.isLt
  simp [Statement, Instr.raw, Fits, Dec.fmt]; omega
theorem relq (a : Reg) (g : Guard) (la : Look) : Statement (.relq a g la) := by
  have h0 := reg_lt a
  have h1 := g.isLt
  have h2 := la.isLt
  simp [Statement, Instr.raw, Fits, Dec.fmt]; omega
theorem fence (scope : Scope) (kind : FKind) (g : Guard) : Statement (.fence scope kind g) := by
  have h0 := scope_lt scope
  have h1 := fkind_lt kind
  have h2 := g.isLt
  simp [Statement, Instr.raw, Fits, Dec.fmt]; omega
theorem ifence (g : Guard) : Statement (.ifence g) := by
  have h0 := g.isLt
  simp [Statement, Instr.raw, Fits, Dec.fmt]
theorem vamoBf16 (a : Reg) (b : Reg) (g : Guard) (la : Look) : Statement (.vamoBf16 a b g la) := by
  have h0 := reg_lt a
  have h1 := reg_lt b
  have h2 := g.isLt
  have h3 := la.isLt
  simp [Statement, Instr.raw, Fits, Dec.fmt]; omega
theorem vamoFp32 (a : Reg) (b : Reg) (g : Guard) (la : Look) : Statement (.vamoFp32 a b g la) := by
  have h0 := reg_lt a
  have h1 := reg_lt b
  have h2 := g.isLt
  have h3 := la.isLt
  simp [Statement, Instr.raw, Fits, Dec.fmt]; omega
theorem amoadd (d : Reg) (a : Reg) (b : Reg) (g : Guard) (la : Look) : Statement (.amoadd d a b g la) := by
  have h0 := reg_lt d
  have h1 := reg_lt a
  have h2 := reg_lt b
  have h3 := g.isLt
  have h4 := la.isLt
  simp [Statement, Instr.raw, Fits, Dec.fmt]; omega
theorem amoand (d : Reg) (a : Reg) (b : Reg) (g : Guard) (la : Look) : Statement (.amoand d a b g la) := by
  have h0 := reg_lt d
  have h1 := reg_lt a
  have h2 := reg_lt b
  have h3 := g.isLt
  have h4 := la.isLt
  simp [Statement, Instr.raw, Fits, Dec.fmt]; omega
theorem amoor (d : Reg) (a : Reg) (b : Reg) (g : Guard) (la : Look) : Statement (.amoor d a b g la) := by
  have h0 := reg_lt d
  have h1 := reg_lt a
  have h2 := reg_lt b
  have h3 := g.isLt
  have h4 := la.isLt
  simp [Statement, Instr.raw, Fits, Dec.fmt]; omega
theorem amoxor (d : Reg) (a : Reg) (b : Reg) (g : Guard) (la : Look) : Statement (.amoxor d a b g la) := by
  have h0 := reg_lt d
  have h1 := reg_lt a
  have h2 := reg_lt b
  have h3 := g.isLt
  have h4 := la.isLt
  simp [Statement, Instr.raw, Fits, Dec.fmt]; omega
theorem amomin (d : Reg) (a : Reg) (b : Reg) (g : Guard) (la : Look) : Statement (.amomin d a b g la) := by
  have h0 := reg_lt d
  have h1 := reg_lt a
  have h2 := reg_lt b
  have h3 := g.isLt
  have h4 := la.isLt
  simp [Statement, Instr.raw, Fits, Dec.fmt]; omega
theorem amomax (d : Reg) (a : Reg) (b : Reg) (g : Guard) (la : Look) : Statement (.amomax d a b g la) := by
  have h0 := reg_lt d
  have h1 := reg_lt a
  have h2 := reg_lt b
  have h3 := g.isLt
  have h4 := la.isLt
  simp [Statement, Instr.raw, Fits, Dec.fmt]; omega
theorem amoswap (d : Reg) (a : Reg) (b : Reg) (g : Guard) (la : Look) : Statement (.amoswap d a b g la) := by
  have h0 := reg_lt d
  have h1 := reg_lt a
  have h2 := reg_lt b
  have h3 := g.isLt
  have h4 := la.isLt
  simp [Statement, Instr.raw, Fits, Dec.fmt]; omega
theorem amocas (d : Reg) (a : Reg) (b : Reg) (g : Guard) (la : Look) : Statement (.amocas d a b g la) := by
  have h0 := reg_lt d
  have h1 := reg_lt a
  have h2 := reg_lt b
  have h3 := g.isLt
  have h4 := la.isLt
  simp [Statement, Instr.raw, Fits, Dec.fmt]; omega
theorem vadd (d : LReg) (a : LReg) (b : LReg) (ty : Ty) (g : Guard) : Statement (.vadd d a b ty g) := by
  have h0 := lreg_lt d
  have h1 := lreg_lt a
  have h2 := lreg_lt b
  have h3 := ty.isLt
  have h4 := g.isLt
  simp [Statement, Instr.raw, Fits, Dec.fmt]; omega
theorem vsub (d : LReg) (a : LReg) (b : LReg) (ty : Ty) (g : Guard) : Statement (.vsub d a b ty g) := by
  have h0 := lreg_lt d
  have h1 := lreg_lt a
  have h2 := lreg_lt b
  have h3 := ty.isLt
  have h4 := g.isLt
  simp [Statement, Instr.raw, Fits, Dec.fmt]; omega
theorem vmul (d : LReg) (a : LReg) (b : LReg) (ty : Ty) (g : Guard) : Statement (.vmul d a b ty g) := by
  have h0 := lreg_lt d
  have h1 := lreg_lt a
  have h2 := lreg_lt b
  have h3 := ty.isLt
  have h4 := g.isLt
  simp [Statement, Instr.raw, Fits, Dec.fmt]; omega
theorem vfma (d : LReg) (a : LReg) (b : LReg) (ty : Ty) (g : Guard) : Statement (.vfma d a b ty g) := by
  have h0 := lreg_lt d
  have h1 := lreg_lt a
  have h2 := lreg_lt b
  have h3 := ty.isLt
  have h4 := g.isLt
  simp [Statement, Instr.raw, Fits, Dec.fmt]; omega
theorem vmin (d : LReg) (a : LReg) (b : LReg) (ty : Ty) (g : Guard) : Statement (.vmin d a b ty g) := by
  have h0 := lreg_lt d
  have h1 := lreg_lt a
  have h2 := lreg_lt b
  have h3 := ty.isLt
  have h4 := g.isLt
  simp [Statement, Instr.raw, Fits, Dec.fmt]; omega
theorem vmax (d : LReg) (a : LReg) (b : LReg) (ty : Ty) (g : Guard) : Statement (.vmax d a b ty g) := by
  have h0 := lreg_lt d
  have h1 := lreg_lt a
  have h2 := lreg_lt b
  have h3 := ty.isLt
  have h4 := g.isLt
  simp [Statement, Instr.raw, Fits, Dec.fmt]; omega
theorem vabs (d : LReg) (a : LReg) (ty : Ty) (g : Guard) : Statement (.vabs d a ty g) := by
  have h0 := lreg_lt d
  have h1 := lreg_lt a
  have h2 := ty.isLt
  have h3 := g.isLt
  simp [Statement, Instr.raw, Fits, Dec.fmt]; omega
theorem vneg (d : LReg) (a : LReg) (ty : Ty) (g : Guard) : Statement (.vneg d a ty g) := by
  have h0 := lreg_lt d
  have h1 := lreg_lt a
  have h2 := ty.isLt
  have h3 := g.isLt
  simp [Statement, Instr.raw, Fits, Dec.fmt]; omega
theorem vexp (d : LReg) (a : LReg) (g : Guard) : Statement (.vexp d a g) := by
  have h0 := lreg_lt d
  have h1 := lreg_lt a
  have h2 := g.isLt
  simp [Statement, Instr.raw, Fits, Dec.fmt]; omega
theorem vlog (d : LReg) (a : LReg) (g : Guard) : Statement (.vlog d a g) := by
  have h0 := lreg_lt d
  have h1 := lreg_lt a
  have h2 := g.isLt
  simp [Statement, Instr.raw, Fits, Dec.fmt]; omega
theorem vrcp (d : LReg) (a : LReg) (g : Guard) : Statement (.vrcp d a g) := by
  have h0 := lreg_lt d
  have h1 := lreg_lt a
  have h2 := g.isLt
  simp [Statement, Instr.raw, Fits, Dec.fmt]; omega
theorem vrsq (d : LReg) (a : LReg) (g : Guard) : Statement (.vrsq d a g) := by
  have h0 := lreg_lt d
  have h1 := lreg_lt a
  have h2 := g.isLt
  simp [Statement, Instr.raw, Fits, Dec.fmt]; omega
theorem vsin (d : LReg) (a : LReg) (g : Guard) : Statement (.vsin d a g) := by
  have h0 := lreg_lt d
  have h1 := lreg_lt a
  have h2 := g.isLt
  simp [Statement, Instr.raw, Fits, Dec.fmt]; omega
theorem vcos (d : LReg) (a : LReg) (g : Guard) : Statement (.vcos d a g) := by
  have h0 := lreg_lt d
  have h1 := lreg_lt a
  have h2 := g.isLt
  simp [Statement, Instr.raw, Fits, Dec.fmt]; omega
theorem vand (d : LReg) (a : LReg) (b : LReg) (ty : Ty) (g : Guard) : Statement (.vand d a b ty g) := by
  have h0 := lreg_lt d
  have h1 := lreg_lt a
  have h2 := lreg_lt b
  have h3 := ty.isLt
  have h4 := g.isLt
  simp [Statement, Instr.raw, Fits, Dec.fmt]; omega
theorem vor (d : LReg) (a : LReg) (b : LReg) (ty : Ty) (g : Guard) : Statement (.vor d a b ty g) := by
  have h0 := lreg_lt d
  have h1 := lreg_lt a
  have h2 := lreg_lt b
  have h3 := ty.isLt
  have h4 := g.isLt
  simp [Statement, Instr.raw, Fits, Dec.fmt]; omega
theorem vxor (d : LReg) (a : LReg) (b : LReg) (ty : Ty) (g : Guard) : Statement (.vxor d a b ty g) := by
  have h0 := lreg_lt d
  have h1 := lreg_lt a
  have h2 := lreg_lt b
  have h3 := ty.isLt
  have h4 := g.isLt
  simp [Statement, Instr.raw, Fits, Dec.fmt]; omega
theorem vshl (d : LReg) (a : LReg) (b : LReg) (ty : Ty) (g : Guard) : Statement (.vshl d a b ty g) := by
  have h0 := lreg_lt d
  have h1 := lreg_lt a
  have h2 := lreg_lt b
  have h3 := ty.isLt
  have h4 := g.isLt
  simp [Statement, Instr.raw, Fits, Dec.fmt]; omega
theorem vshr (d : LReg) (a : LReg) (b : LReg) (ty : Ty) (g : Guard) : Statement (.vshr d a b ty g) := by
  have h0 := lreg_lt d
  have h1 := lreg_lt a
  have h2 := lreg_lt b
  have h3 := ty.isLt
  have h4 := g.isLt
  simp [Statement, Instr.raw, Fits, Dec.fmt]; omega
theorem vcmp (rel : Rel) (d : Fin 8) (a : LReg) (b : LReg) (ty : Ty) (g : Guard) : Statement (.vcmp rel d a b ty g) := by
  have h0 := rel_lt rel
  have h1 := d.isLt
  have h2 := lreg_lt a
  have h3 := lreg_lt b
  have h4 := ty.isLt
  have h5 := g.isLt
  simp [Statement, Instr.raw, Fits, Dec.fmt]; omega
theorem vsel (d : LReg) (a : LReg) (b : LReg) (ty : Ty) (g : Guard) : Statement (.vsel d a b ty g) := by
  have h0 := lreg_lt d
  have h1 := lreg_lt a
  have h2 := lreg_lt b
  have h3 := ty.isLt
  have h4 := g.isLt
  simp [Statement, Instr.raw, Fits, Dec.fmt]; omega
theorem vbcast (d : LReg) (a : Reg) (ty : Ty) (g : Guard) : Statement (.vbcast d a ty g) := by
  have h0 := lreg_lt d
  have h1 := reg_lt a
  have h2 := ty.isLt
  have h3 := g.isLt
  simp [Statement, Instr.raw, Fits, Dec.fmt]; omega
theorem vget (d : Reg) (a : LReg) (b : Reg) (ty : Ty) (g : Guard) : Statement (.vget d a b ty g) := by
  have h0 := reg_lt d
  have h1 := lreg_lt a
  have h2 := reg_lt b
  have h3 := ty.isLt
  have h4 := g.isLt
  simp [Statement, Instr.raw, Fits, Dec.fmt]; omega
theorem vput (d : LReg) (a : Reg) (b : Reg) (ty : Ty) (g : Guard) : Statement (.vput d a b ty g) := by
  have h0 := lreg_lt d
  have h1 := reg_lt a
  have h2 := reg_lt b
  have h3 := ty.isLt
  have h4 := g.isLt
  simp [Statement, Instr.raw, Fits, Dec.fmt]; omega
theorem vshuf (d : LReg) (a : LReg) (b : LReg) (ty : Ty) (g : Guard) : Statement (.vshuf d a b ty g) := by
  have h0 := lreg_lt d
  have h1 := lreg_lt a
  have h2 := lreg_lt b
  have h3 := ty.isLt
  have h4 := g.isLt
  simp [Statement, Instr.raw, Fits, Dec.fmt]; omega
theorem vcmul (d : LReg) (a : LReg) (b : LReg) (g : Guard) : Statement (.vcmul d a b g) := by
  have h0 := lreg_lt d
  have h1 := lreg_lt a
  have h2 := lreg_lt b
  have h3 := g.isLt
  simp [Statement, Instr.raw, Fits, Dec.fmt]; omega
theorem vconj (d : LReg) (a : LReg) (g : Guard) : Statement (.vconj d a g) := by
  have h0 := lreg_lt d
  have h1 := lreg_lt a
  have h2 := g.isLt
  simp [Statement, Instr.raw, Fits, Dec.fmt]; omega
theorem vcvt (d : LReg) (a : LReg) (src : VSrc) (sat : Bool) (mode : Fin 4) (ty : Ty) (g : Guard) : Statement (.vcvt d a src sat mode ty g) := by
  have h0 := lreg_lt d
  have h1 := lreg_lt a
  have h2 := vsrc_lt src
  have h3 := bit_lt sat
  have h4 := mode.isLt
  have h5 := ty.isLt
  have h6 := g.isLt
  simp [Statement, Instr.raw, Fits, Dec.fmt]; omega
theorem vrnd (d : LReg) (a : LReg) (b : Reg) (ty : Ty) (g : Guard) : Statement (.vrnd d a b ty g) := by
  have h0 := lreg_lt d
  have h1 := lreg_lt a
  have h2 := reg_lt b
  have h3 := ty.isLt
  have h4 := g.isLt
  simp [Statement, Instr.raw, Fits, Dec.fmt]; omega
theorem vrsum (d : Reg) (a : LReg) (ty : Ty) (g : Guard) : Statement (.vrsum d a ty g) := by
  have h0 := reg_lt d
  have h1 := lreg_lt a
  have h2 := ty.isLt
  have h3 := g.isLt
  simp [Statement, Instr.raw, Fits, Dec.fmt]; omega
theorem vrmax (d : Reg) (a : LReg) (ty : Ty) (g : Guard) : Statement (.vrmax d a ty g) := by
  have h0 := reg_lt d
  have h1 := lreg_lt a
  have h2 := ty.isLt
  have h3 := g.isLt
  simp [Statement, Instr.raw, Fits, Dec.fmt]; omega
theorem vrmin (d : Reg) (a : LReg) (ty : Ty) (g : Guard) : Statement (.vrmin d a ty g) := by
  have h0 := reg_lt d
  have h1 := lreg_lt a
  have h2 := ty.isLt
  have h3 := g.isLt
  simp [Statement, Instr.raw, Fits, Dec.fmt]; omega
theorem vrmaxi (d : Reg) (a : LReg) (ty : Ty) (g : Guard) : Statement (.vrmaxi d a ty g) := by
  have h0 := reg_lt d
  have h1 := lreg_lt a
  have h2 := ty.isLt
  have h3 := g.isLt
  simp [Statement, Instr.raw, Fits, Dec.fmt]; omega
theorem vrmini (d : Reg) (a : LReg) (ty : Ty) (g : Guard) : Statement (.vrmini d a ty g) := by
  have h0 := reg_lt d
  have h1 := lreg_lt a
  have h2 := ty.isLt
  have h3 := g.isLt
  simp [Statement, Instr.raw, Fits, Dec.fmt]; omega
theorem vld (d : LReg) (a : Reg) (b : Reg) (ty : Ty) (g : Guard) : Statement (.vld d a b ty g) := by
  have h0 := lreg_lt d
  have h1 := reg_lt a
  have h2 := reg_lt b
  have h3 := ty.isLt
  have h4 := g.isLt
  simp [Statement, Instr.raw, Fits, Dec.fmt]; omega
theorem vst (d : LReg) (a : Reg) (b : Reg) (ty : Ty) (g : Guard) : Statement (.vst d a b ty g) := by
  have h0 := lreg_lt d
  have h1 := reg_lt a
  have h2 := reg_lt b
  have h3 := ty.isLt
  have h4 := g.isLt
  simp [Statement, Instr.raw, Fits, Dec.fmt]; omega
theorem vgath (d : LReg) (a : Reg) (b : LReg) (ty : Ty) (g : Guard) : Statement (.vgath d a b ty g) := by
  have h0 := lreg_lt d
  have h1 := reg_lt a
  have h2 := lreg_lt b
  have h3 := ty.isLt
  have h4 := g.isLt
  simp [Statement, Instr.raw, Fits, Dec.fmt]; omega
theorem vscat (d : LReg) (a : Reg) (b : LReg) (ty : Ty) (g : Guard) : Statement (.vscat d a b ty g) := by
  have h0 := lreg_lt d
  have h1 := reg_lt a
  have h2 := lreg_lt b
  have h3 := ty.isLt
  have h4 := g.isLt
  simp [Statement, Instr.raw, Fits, Dec.fmt]; omega
theorem strm (t : Fin 4) (a : Reg) (b : Reg) (ty : Ty) (g : Guard) : Statement (.strm t a b ty g) := by
  have h0 := t.isLt
  have h1 := reg_lt a
  have h2 := reg_lt b
  have h3 := ty.isLt
  have h4 := g.isLt
  simp [Statement, Instr.raw, Fits, Dec.fmt]; omega
theorem stre (t : Fin 4) (g : Guard) : Statement (.stre t g) := by
  have h0 := t.isLt
  have h1 := g.isLt
  simp [Statement, Instr.raw, Fits, Dec.fmt]; omega
theorem vldf (a : Reg) (b : Reg) (k : Fin 8) (c : Fin 4) (md : Bool) (la : Look) : Statement (.vldf a b k c md la) := by
  have h0 := reg_lt a
  have h1 := reg_lt b
  have h2 := k.isLt
  have h3 := c.isLt
  have h4 := bit_lt md
  have h5 := la.isLt
  simp [Statement, Instr.raw, Fits, Dec.fmt]; omega
theorem vstf (a : Reg) (b : Reg) (k : Fin 8) (c : Fin 4) (md : Bool) (la : Look) : Statement (.vstf a b k c md la) := by
  have h0 := reg_lt a
  have h1 := reg_lt b
  have h2 := k.isLt
  have h3 := c.isLt
  have h4 := bit_lt md
  have h5 := la.isLt
  simp [Statement, Instr.raw, Fits, Dec.fmt]; omega
theorem pacc (a : Reg) (b : Reg) (k : Fin 8) (la : Look) : Statement (.pacc a b k la) := by
  have h0 := reg_lt a
  have h1 := reg_lt b
  have h2 := k.isLt
  have h3 := la.isLt
  simp [Statement, Instr.raw, Fits, Dec.fmt]; omega
theorem paxpy (a : Reg) (b : Reg) (k : Fin 8) (la : Look) : Statement (.paxpy a b k la) := by
  have h0 := reg_lt a
  have h1 := reg_lt b
  have h2 := k.isLt
  have h3 := la.isLt
  simp [Statement, Instr.raw, Fits, Dec.fmt]; omega
theorem pema (a : Reg) (b : Reg) (k : Fin 8) (la : Look) : Statement (.pema a b k la) := by
  have h0 := reg_lt a
  have h1 := reg_lt b
  have h2 := k.isLt
  have h3 := la.isLt
  simp [Statement, Instr.raw, Fits, Dec.fmt]; omega
theorem ldf (d : Reg) (a : Reg) (b : Reg) (c : Fin 4) (md : Bool) (g : Guard) (la : Look) : Statement (.ldf d a b c md g la) := by
  have h0 := reg_lt d
  have h1 := reg_lt a
  have h2 := reg_lt b
  have h3 := c.isLt
  have h4 := bit_lt md
  have h5 := g.isLt
  have h6 := la.isLt
  simp [Statement, Instr.raw, Fits, Dec.fmt]; omega
theorem apply (a : Reg) (b : Reg) (c : Reg) (acc : Bool) (sat : Bool) (nomap : Bool) (la : Look) : Statement (.apply a b c acc sat nomap la) := by
  have h0 := reg_lt a
  have h1 := reg_lt b
  have h2 := reg_lt c
  have h3 := bit_lt acc
  have h4 := bit_lt sat
  have h5 := bit_lt nomap
  have h6 := la.isLt
  simp [Statement, Instr.raw, Fits, Dec.fmt]; omega
theorem applyc (a : Reg) (b : Reg) (c : Reg) (acc : Bool) (sat : Bool) (nomap : Bool) (la : Look) : Statement (.applyc a b c acc sat nomap la) := by
  have h0 := reg_lt a
  have h1 := reg_lt b
  have h2 := reg_lt c
  have h3 := bit_lt acc
  have h4 := bit_lt sat
  have h5 := bit_lt nomap
  have h6 := la.isLt
  simp [Statement, Instr.raw, Fits, Dec.fmt]; omega
theorem phase (a : Reg) (b : Reg) (c : Reg) (nomap : Bool) (la : Look) : Statement (.phase a b c nomap la) := by
  have h0 := reg_lt a
  have h1 := reg_lt b
  have h2 := reg_lt c
  have h3 := bit_lt nomap
  have h4 := la.isLt
  simp [Statement, Instr.raw, Fits, Dec.fmt]; omega
theorem dscale (a : Reg) (b : Reg) (acc : Bool) (sat : Bool) (nomap : Bool) (la : Look) : Statement (.dscale a b acc sat nomap la) := by
  have h0 := reg_lt a
  have h1 := reg_lt b
  have h2 := bit_lt acc
  have h3 := bit_lt sat
  have h4 := bit_lt nomap
  have h5 := la.isLt
  simp [Statement, Instr.raw, Fits, Dec.fmt]; omega
theorem redb (a : Reg) (b : Reg) (acc : Bool) (sat : Bool) (nomap : Bool) (la : Look) : Statement (.redb a b acc sat nomap la) := by
  have h0 := reg_lt a
  have h1 := reg_lt b
  have h2 := bit_lt acc
  have h3 := bit_lt sat
  have h4 := bit_lt nomap
  have h5 := la.isLt
  simp [Statement, Instr.raw, Fits, Dec.fmt]; omega
theorem maxb (a : Reg) (b : Reg) (nomap : Bool) (la : Look) : Statement (.maxb a b nomap la) := by
  have h0 := reg_lt a
  have h1 := reg_lt b
  have h2 := bit_lt nomap
  have h3 := la.isLt
  simp [Statement, Instr.raw, Fits, Dec.fmt]; omega
theorem opld (a : Reg) (b : Reg) (c : Reg) (sat : Bool) (la : Look) : Statement (.opld a b c sat la) := by
  have h0 := reg_lt a
  have h1 := reg_lt b
  have h2 := reg_lt c
  have h3 := bit_lt sat
  have h4 := la.isLt
  simp [Statement, Instr.raw, Fits, Dec.fmt]; omega
theorem opgen (a : Reg) (la : Look) : Statement (.opgen a la) := by
  have h0 := reg_lt a
  have h1 := la.isLt
  simp [Statement, Instr.raw, Fits, Dec.fmt]; omega
theorem opwait (a : Reg) (la : Look) : Statement (.opwait a la) := by
  have h0 := reg_lt a
  have h1 := la.isLt
  simp [Statement, Instr.raw, Fits, Dec.fmt]; omega
theorem xfer (a : Reg) (b : Reg) (c : Reg) (la : Look) : Statement (.xfer a b c la) := by
  have h0 := reg_lt a
  have h1 := reg_lt b
  have h2 := reg_lt c
  have h3 := la.isLt
  simp [Statement, Instr.raw, Fits, Dec.fmt]; omega
theorem xferRetry (a : Reg) (b : Reg) (c : Reg) (la : Look) : Statement (.xferRetry a b c la) := by
  have h0 := reg_lt a
  have h1 := reg_lt b
  have h2 := reg_lt c
  have h3 := la.isLt
  simp [Statement, Instr.raw, Fits, Dec.fmt]; omega
theorem xferAbandon (a : Reg) (b : Reg) (c : Reg) (la : Look) : Statement (.xferAbandon a b c la) := by
  have h0 := reg_lt a
  have h1 := reg_lt b
  have h2 := reg_lt c
  have h3 := la.isLt
  simp [Statement, Instr.raw, Fits, Dec.fmt]; omega
theorem cbld (a : Reg) (b : Reg) (la : Look) : Statement (.cbld a b la) := by
  have h0 := reg_lt a
  have h1 := reg_lt b
  have h2 := la.isLt
  simp [Statement, Instr.raw, Fits, Dec.fmt]; omega
theorem waitt (d : Reg) (a : Reg) (g : Guard) (la : Look) : Statement (.waitt d a g la) := by
  have h0 := reg_lt d
  have h1 := reg_lt a
  have h2 := g.isLt
  have h3 := la.isLt
  simp [Statement, Instr.raw, Fits, Dec.fmt]; omega
theorem waitc (d : Reg) (a : Reg) (b : Reg) (g : Guard) (la : Look) : Statement (.waitc d a b g la) := by
  have h0 := reg_lt d
  have h1 := reg_lt a
  have h2 := reg_lt b
  have h3 := g.isLt
  have h4 := la.isLt
  simp [Statement, Instr.raw, Fits, Dec.fmt]; omega
theorem waitb (d : Reg) (a : Reg) (b : Reg) (g : Guard) (la : Look) : Statement (.waitb d a b g la) := by
  have h0 := reg_lt d
  have h1 := reg_lt a
  have h2 := reg_lt b
  have h3 := g.isLt
  have h4 := la.isLt
  simp [Statement, Instr.raw, Fits, Dec.fmt]; omega
theorem waitp (p : Reg) (a : Reg) (b : Reg) (g : Guard) (la : Look) : Statement (.waitp p a b g la) := by
  have h0 := reg_lt p
  have h1 := reg_lt a
  have h2 := reg_lt b
  have h3 := g.isLt
  have h4 := la.isLt
  simp [Statement, Instr.raw, Fits, Dec.fmt]; omega
theorem sig (scope : Scope) (a : Reg) (b : Reg) (g : Guard) (la : Look) : Statement (.sig scope a b g la) := by
  have h0 := scope_lt scope
  have h1 := reg_lt a
  have h2 := reg_lt b
  have h3 := g.isLt
  have h4 := la.isLt
  simp [Statement, Instr.raw, Fits, Dec.fmt]; omega
theorem cntset (a : Reg) (b : Reg) (g : Guard) (la : Look) : Statement (.cntset a b g la) := by
  have h0 := reg_lt a
  have h1 := reg_lt b
  have h2 := g.isLt
  have h3 := la.isLt
  simp [Statement, Instr.raw, Fits, Dec.fmt]; omega
theorem armt (a : Reg) (g : Guard) : Statement (.armt a g) := by
  have h0 := reg_lt a
  have h1 := g.isLt
  simp [Statement, Instr.raw, Fits, Dec.fmt]; omega
theorem barw (d : Reg) (a : Reg) (g : Guard) (la : Look) : Statement (.barw d a g la) := by
  have h0 := reg_lt d
  have h1 := reg_lt a
  have h2 := g.isLt
  have h3 := la.isLt
  simp [Statement, Instr.raw, Fits, Dec.fmt]; omega
theorem otset (a : Reg) (b : Reg) (c : Reg) (la : Look) : Statement (.otset a b c la) := by
  have h0 := reg_lt a
  have h1 := reg_lt b
  have h2 := reg_lt c
  have h3 := la.isLt
  simp [Statement, Instr.raw, Fits, Dec.fmt]; omega
theorem otget (a : Reg) (b : Reg) (la : Look) : Statement (.otget a b la) := by
  have h0 := reg_lt a
  have h1 := reg_lt b
  have h2 := la.isLt
  simp [Statement, Instr.raw, Fits, Dec.fmt]; omega
theorem otinv (a : Reg) (la : Look) : Statement (.otinv a la) := by
  have h0 := reg_lt a
  have h1 := la.isLt
  simp [Statement, Instr.raw, Fits, Dec.fmt]; omega
theorem frename (a : Reg) (b : Reg) (c : Reg) (la : Look) : Statement (.frename a b c la) := by
  have h0 := reg_lt a
  have h1 := reg_lt b
  have h2 := reg_lt c
  have h3 := la.isLt
  simp [Statement, Instr.raw, Fits, Dec.fmt]; omega
theorem fperm (a : Reg) (b : Reg) (c : Reg) (la : Look) : Statement (.fperm a b c la) := by
  have h0 := reg_lt a
  have h1 := reg_lt b
  have h2 := reg_lt c
  have h3 := la.isLt
  simp [Statement, Instr.raw, Fits, Dec.fmt]; omega
theorem finfo (a : Reg) (b : Reg) (la : Look) : Statement (.finfo a b la) := by
  have h0 := reg_lt a
  have h1 := reg_lt b
  have h2 := la.isLt
  simp [Statement, Instr.raw, Fits, Dec.fmt]; omega
theorem objnew (a : Reg) (b : Reg) (c : Reg) (la : Look) : Statement (.objnew a b c la) := by
  have h0 := reg_lt a
  have h1 := reg_lt b
  have h2 := reg_lt c
  have h3 := la.isLt
  simp [Statement, Instr.raw, Fits, Dec.fmt]; omega
theorem objsync (a : Reg) (la : Look) : Statement (.objsync a la) := by
  have h0 := reg_lt a
  have h1 := la.isLt
  simp [Statement, Instr.raw, Fits, Dec.fmt]; omega
theorem leasePin (a : Reg) (b : Reg) (c : Reg) (la : Look) : Statement (.leasePin a b c la) := by
  have h0 := reg_lt a
  have h1 := reg_lt b
  have h2 := reg_lt c
  have h3 := la.isLt
  simp [Statement, Instr.raw, Fits, Dec.fmt]; omega
theorem leaseUnpin (a : Reg) (b : Reg) (c : Reg) (la : Look) : Statement (.leaseUnpin a b c la) := by
  have h0 := reg_lt a
  have h1 := reg_lt b
  have h2 := reg_lt c
  have h3 := la.isLt
  simp [Statement, Instr.raw, Fits, Dec.fmt]; omega
theorem xinv (a : Reg) (b : Reg) (c : Reg) (la : Look) : Statement (.xinv a b c la) := by
  have h0 := reg_lt a
  have h1 := reg_lt b
  have h2 := reg_lt c
  have h3 := la.isLt
  simp [Statement, Instr.raw, Fits, Dec.fmt]; omega
theorem dlogh (a : Reg) (la : Look) : Statement (.dlogh a la) := by
  have h0 := reg_lt a
  have h1 := la.isLt
  simp [Statement, Instr.raw, Fits, Dec.fmt]; omega
theorem pgmig (a : Reg) (b : Reg) (c : Reg) (la : Look) : Statement (.pgmig a b c la) := by
  have h0 := reg_lt a
  have h1 := reg_lt b
  have h2 := reg_lt c
  have h3 := la.isLt
  simp [Statement, Instr.raw, Fits, Dec.fmt]; omega
theorem subs (a : Reg) (b : Reg) (la : Look) : Statement (.subs a b la) := by
  have h0 := reg_lt a
  have h1 := reg_lt b
  have h2 := la.isLt
  simp [Statement, Instr.raw, Fits, Dec.fmt]; omega
theorem unsub (a : Reg) (la : Look) : Statement (.unsub a la) := by
  have h0 := reg_lt a
  have h1 := la.isLt
  simp [Statement, Instr.raw, Fits, Dec.fmt]; omega
theorem cgld (a : Reg) (la : Look) : Statement (.cgld a la) := by
  have h0 := reg_lt a
  have h1 := la.isLt
  simp [Statement, Instr.raw, Fits, Dec.fmt]; omega
theorem cgrun (a : Reg) (b : Reg) (la : Look) : Statement (.cgrun a b la) := by
  have h0 := reg_lt a
  have h1 := reg_lt b
  have h2 := la.isLt
  simp [Statement, Instr.raw, Fits, Dec.fmt]; omega
theorem spill (a : Reg) (b : Reg) (la : Look) : Statement (.spill a b la) := by
  have h0 := reg_lt a
  have h1 := reg_lt b
  have h2 := la.isLt
  simp [Statement, Instr.raw, Fits, Dec.fmt]; omega
theorem restore (a : Reg) (b : Reg) (la : Look) : Statement (.restore a b la) := by
  have h0 := reg_lt a
  have h1 := reg_lt b
  have h2 := la.isLt
  simp [Statement, Instr.raw, Fits, Dec.fmt]; omega
theorem barcfgConfigure (a : Reg) (b : Reg) (la : Look) : Statement (.barcfgConfigure a b la) := by
  have h0 := reg_lt a
  have h1 := reg_lt b
  have h2 := la.isLt
  simp [Statement, Instr.raw, Fits, Dec.fmt]; omega
theorem barcfgRelease (a : Reg) (b : Reg) (la : Look) : Statement (.barcfgRelease a b la) := by
  have h0 := reg_lt a
  have h1 := reg_lt b
  have h2 := la.isLt
  simp [Statement, Instr.raw, Fits, Dec.fmt]; omega
theorem lehrEnter (a : Reg) (la : Look) : Statement (.lehrEnter a la) := by
  have h0 := reg_lt a
  have h1 := la.isLt
  simp [Statement, Instr.raw, Fits, Dec.fmt]; omega
theorem lehrExit (a : Reg) (la : Look) : Statement (.lehrExit a la) := by
  have h0 := reg_lt a
  have h1 := la.isLt
  simp [Statement, Instr.raw, Fits, Dec.fmt]; omega
theorem lehrArm (a : Reg) (la : Look) : Statement (.lehrArm a la) := by
  have h0 := reg_lt a
  have h1 := la.isLt
  simp [Statement, Instr.raw, Fits, Dec.fmt]; omega
theorem lehrDisarm (a : Reg) (la : Look) : Statement (.lehrDisarm a la) := by
  have h0 := reg_lt a
  have h1 := la.isLt
  simp [Statement, Instr.raw, Fits, Dec.fmt]; omega
theorem compactMov (d : Reg) (a : Reg) : Statement (.compactMov d a) := by
  have h0 := reg_lt d
  have h1 := reg_lt a
  simp [Statement, Instr.raw, Fits, Dec.fmt]; omega
theorem compactAdd (d : Reg) (a : Reg) : Statement (.compactAdd d a) := by
  have h0 := reg_lt d
  have h1 := reg_lt a
  simp [Statement, Instr.raw, Fits, Dec.fmt]; omega
theorem compactSub (d : Reg) (a : Reg) : Statement (.compactSub d a) := by
  have h0 := reg_lt d
  have h1 := reg_lt a
  simp [Statement, Instr.raw, Fits, Dec.fmt]; omega
theorem compactAnd (d : Reg) (a : Reg) : Statement (.compactAnd d a) := by
  have h0 := reg_lt d
  have h1 := reg_lt a
  simp [Statement, Instr.raw, Fits, Dec.fmt]; omega
theorem compactOr (d : Reg) (a : Reg) : Statement (.compactOr d a) := by
  have h0 := reg_lt d
  have h1 := reg_lt a
  simp [Statement, Instr.raw, Fits, Dec.fmt]; omega
theorem compactXor (d : Reg) (a : Reg) : Statement (.compactXor d a) := by
  have h0 := reg_lt d
  have h1 := reg_lt a
  simp [Statement, Instr.raw, Fits, Dec.fmt]; omega
theorem compactAndn (d : Reg) (a : Reg) : Statement (.compactAndn d a) := by
  have h0 := reg_lt d
  have h1 := reg_lt a
  simp [Statement, Instr.raw, Fits, Dec.fmt]; omega
theorem compactShl (d : Reg) (a : Reg) : Statement (.compactShl d a) := by
  have h0 := reg_lt d
  have h1 := reg_lt a
  simp [Statement, Instr.raw, Fits, Dec.fmt]; omega
theorem compactShr (d : Reg) (a : Reg) : Statement (.compactShr d a) := by
  have h0 := reg_lt d
  have h1 := reg_lt a
  simp [Statement, Instr.raw, Fits, Dec.fmt]; omega
theorem compactSha (d : Reg) (a : Reg) : Statement (.compactSha d a) := by
  have h0 := reg_lt d
  have h1 := reg_lt a
  simp [Statement, Instr.raw, Fits, Dec.fmt]; omega
theorem compactAddi (d : Reg) (imm : BitVec 5) : Statement (.compactAddi d imm) := by
  have h0 := reg_lt d
  have h1 := imm.isLt
  simp [Statement, Instr.raw, Fits, Dec.fmt]; omega
theorem compactShli (d : Reg) (imm : BitVec 5) : Statement (.compactShli d imm) := by
  have h0 := reg_lt d
  have h1 := imm.isLt
  simp [Statement, Instr.raw, Fits, Dec.fmt]; omega
theorem compactShri (d : Reg) (imm : BitVec 5) : Statement (.compactShri d imm) := by
  have h0 := reg_lt d
  have h1 := imm.isLt
  simp [Statement, Instr.raw, Fits, Dec.fmt]; omega
theorem compactShai (d : Reg) (imm : BitVec 5) : Statement (.compactShai d imm) := by
  have h0 := reg_lt d
  have h1 := imm.isLt
  simp [Statement, Instr.raw, Fits, Dec.fmt]; omega
theorem compactMovi (d : Reg) (imm : BitVec 5) : Statement (.compactMovi d imm) := by
  have h0 := reg_lt d
  have h1 := imm.isLt
  simp [Statement, Instr.raw, Fits, Dec.fmt]; omega
theorem compactCmpeq (d : Reg) (a : Reg) : Statement (.compactCmpeq d a) := by
  have h0 := reg_lt d
  have h1 := reg_lt a
  simp [Statement, Instr.raw, Fits, Dec.fmt]; omega
theorem compactCmplt (d : Reg) (a : Reg) : Statement (.compactCmplt d a) := by
  have h0 := reg_lt d
  have h1 := reg_lt a
  simp [Statement, Instr.raw, Fits, Dec.fmt]; omega
theorem compactCmpltn (d : Reg) (a : Reg) : Statement (.compactCmpltn d a) := by
  have h0 := reg_lt d
  have h1 := reg_lt a
  simp [Statement, Instr.raw, Fits, Dec.fmt]; omega
theorem compactLdl (d : Reg) (a : Reg) : Statement (.compactLdl d a) := by
  have h0 := reg_lt d
  have h1 := reg_lt a
  simp [Statement, Instr.raw, Fits, Dec.fmt]; omega
theorem compactStl (d : Reg) (a : Reg) : Statement (.compactStl d a) := by
  have h0 := reg_lt d
  have h1 := reg_lt a
  simp [Statement, Instr.raw, Fits, Dec.fmt]; omega
theorem compactVadd (d : LReg) (a : LReg) : Statement (.compactVadd d a) := by
  have h0 := lreg_lt d
  have h1 := lreg_lt a
  simp [Statement, Instr.raw, Fits, Dec.fmt]; omega
theorem compactVmul (d : LReg) (a : LReg) : Statement (.compactVmul d a) := by
  have h0 := lreg_lt d
  have h1 := lreg_lt a
  simp [Statement, Instr.raw, Fits, Dec.fmt]; omega
theorem compactVfma (d : LReg) (a : LReg) : Statement (.compactVfma d a) := by
  have h0 := lreg_lt d
  have h1 := lreg_lt a
  simp [Statement, Instr.raw, Fits, Dec.fmt]; omega
theorem nop : Statement .nop := by simp [Statement, Instr.raw, Fits, Dec.fmt]
theorem idle : Statement .idle := by simp [Statement, Instr.raw, Fits, Dec.fmt]
theorem rte : Statement .rte := by simp [Statement, Instr.raw, Fits, Dec.fmt]
theorem endTask : Statement .endTask := by simp [Statement, Instr.raw, Fits, Dec.fmt]
theorem yield : Statement .yield := by simp [Statement, Instr.raw, Fits, Dec.fmt]
theorem compactNop : Statement .compactNop := by simp [Statement, Instr.raw, Fits, Dec.fmt]
theorem compactEnd : Statement .compactEnd := by simp [Statement, Instr.raw, Fits, Dec.fmt]
theorem compactYield : Statement .compactYield := by simp [Statement, Instr.raw, Fits, Dec.fmt]
theorem compactRet : Statement .compactRet := by simp [Statement, Instr.raw, Fits, Dec.fmt]
theorem streamFetchAhead : Statement .streamFetchAhead := by simp [Statement, Instr.raw, Fits, Dec.fmt]
theorem trapEntry : Statement .trapEntry := by simp [Statement, Instr.raw, Fits, Dec.fmt]
theorem resultArrival : Statement .resultArrival := by simp [Statement, Instr.raw, Fits, Dec.fmt]
theorem storePerform : Statement .storePerform := by simp [Statement, Instr.raw, Fits, Dec.fmt]
theorem pageWalk : Statement .pageWalk := by simp [Statement, Instr.raw, Fits, Dec.fmt]
theorem remoteAccessRequest : Statement .remoteAccessRequest := by simp [Statement, Instr.raw, Fits, Dec.fmt]
theorem requestTimeout : Statement .requestTimeout := by simp [Statement, Instr.raw, Fits, Dec.fmt]
theorem staleReply : Statement .staleReply := by simp [Statement, Instr.raw, Fits, Dec.fmt]
theorem packetAgeDiscard : Statement .packetAgeDiscard := by simp [Statement, Instr.raw, Fits, Dec.fmt]
theorem messageArrival : Statement .messageArrival := by simp [Statement, Instr.raw, Fits, Dec.fmt]
theorem sendOfferAnswer : Statement .sendOfferAnswer := by simp [Statement, Instr.raw, Fits, Dec.fmt]
theorem sendRetryLimit : Statement .sendRetryLimit := by simp [Statement, Instr.raw, Fits, Dec.fmt]
theorem hardwareMessageDelivery : Statement .hardwareMessageDelivery := by simp [Statement, Instr.raw, Fits, Dec.fmt]
theorem migrationArrival : Statement .migrationArrival := by simp [Statement, Instr.raw, Fits, Dec.fmt]
theorem reservationGrant : Statement .reservationGrant := by simp [Statement, Instr.raw, Fits, Dec.fmt]
theorem slotFill : Statement .slotFill := by simp [Statement, Instr.raw, Fits, Dec.fmt]
theorem recordAgeing : Statement .recordAgeing := by simp [Statement, Instr.raw, Fits, Dec.fmt]
theorem waitSetTimeWake : Statement .waitSetTimeWake := by simp [Statement, Instr.raw, Fits, Dec.fmt]
theorem launchPreparation : Statement .launchPreparation := by simp [Statement, Instr.raw, Fits, Dec.fmt]
theorem recordGeneration : Statement .recordGeneration := by simp [Statement, Instr.raw, Fits, Dec.fmt]
theorem launchCompletion : Statement .launchCompletion := by simp [Statement, Instr.raw, Fits, Dec.fmt]
theorem commandAccept : Statement .commandAccept := by simp [Statement, Instr.raw, Fits, Dec.fmt]
theorem commandStart : Statement .commandStart := by simp [Statement, Instr.raw, Fits, Dec.fmt]
theorem commandRetire : Statement .commandRetire := by simp [Statement, Instr.raw, Fits, Dec.fmt]
theorem chunkComplete : Statement .chunkComplete := by simp [Statement, Instr.raw, Fits, Dec.fmt]
theorem chunkFailed : Statement .chunkFailed := by simp [Statement, Instr.raw, Fits, Dec.fmt]
theorem codeBookLoaded : Statement .codeBookLoaded := by simp [Statement, Instr.raw, Fits, Dec.fmt]
theorem remapGroupMove : Statement .remapGroupMove := by simp [Statement, Instr.raw, Fits, Dec.fmt]
theorem remapPassEnd : Statement .remapPassEnd := by simp [Statement, Instr.raw, Fits, Dec.fmt]
theorem remapCommit : Statement .remapCommit := by simp [Statement, Instr.raw, Fits, Dec.fmt]
theorem remapGroupRetry : Statement .remapGroupRetry := by simp [Statement, Instr.raw, Fits, Dec.fmt]
theorem logAppend : Statement .logAppend := by simp [Statement, Instr.raw, Fits, Dec.fmt]
theorem entryApply : Statement .entryApply := by simp [Statement, Instr.raw, Fits, Dec.fmt]
theorem queryRun : Statement .queryRun := by simp [Statement, Instr.raw, Fits, Dec.fmt]
theorem replicaReport : Statement .replicaReport := by simp [Statement, Instr.raw, Fits, Dec.fmt]
theorem replicaExclusion : Statement .replicaExclusion := by simp [Statement, Instr.raw, Fits, Dec.fmt]
theorem tierEpochEnd : Statement .tierEpochEnd := by simp [Statement, Instr.raw, Fits, Dec.fmt]
theorem multicastDelivery : Statement .multicastDelivery := by simp [Statement, Instr.raw, Fits, Dec.fmt]
theorem joinPacket : Statement .joinPacket := by simp [Statement, Instr.raw, Fits, Dec.fmt]
theorem leavePacket : Statement .leavePacket := by simp [Statement, Instr.raw, Fits, Dec.fmt]
theorem reduceChunk : Statement .reduceChunk := by simp [Statement, Instr.raw, Fits, Dec.fmt]
theorem collectiveChunkArrival : Statement .collectiveChunkArrival := by simp [Statement, Instr.raw, Fits, Dec.fmt]
theorem collectiveStepComplete : Statement .collectiveStepComplete := by simp [Statement, Instr.raw, Fits, Dec.fmt]
theorem collectiveStepTimeout : Statement .collectiveStepTimeout := by simp [Statement, Instr.raw, Fits, Dec.fmt]
theorem collectiveCancelPacket : Statement .collectiveCancelPacket := by simp [Statement, Instr.raw, Fits, Dec.fmt]
theorem deadlineExpiry : Statement .deadlineExpiry := by simp [Statement, Instr.raw, Fits, Dec.fmt]
theorem waittTimeReached : Statement .waittTimeReached := by simp [Statement, Instr.raw, Fits, Dec.fmt]
theorem promiseReached : Statement .promiseReached := by simp [Statement, Instr.raw, Fits, Dec.fmt]
theorem barrierArrival : Statement .barrierArrival := by simp [Statement, Instr.raw, Fits, Dec.fmt]
theorem barrierRelease : Statement .barrierRelease := by simp [Statement, Instr.raw, Fits, Dec.fmt]
theorem watchdogExpiry : Statement .watchdogExpiry := by simp [Statement, Instr.raw, Fits, Dec.fmt]
theorem capWindowEnd : Statement .capWindowEnd := by simp [Statement, Instr.raw, Fits, Dec.fmt]
theorem pwrWarnAssert : Statement .pwrWarnAssert := by simp [Statement, Instr.raw, Fits, Dec.fmt]
theorem pwrWarnDeassert : Statement .pwrWarnDeassert := by simp [Statement, Instr.raw, Fits, Dec.fmt]
theorem lehrEntryComplete : Statement .lehrEntryComplete := by simp [Statement, Instr.raw, Fits, Dec.fmt]
theorem lehrExitComplete : Statement .lehrExitComplete := by simp [Statement, Instr.raw, Fits, Dec.fmt]
theorem powerUpBoot : Statement .powerUpBoot := by simp [Statement, Instr.raw, Fits, Dec.fmt]
theorem clusterReset : Statement .clusterReset := by simp [Statement, Instr.raw, Fits, Dec.fmt]
theorem managementStatus : Statement .managementStatus := by simp [Statement, Instr.raw, Fits, Dec.fmt]
theorem managementAttestation : Statement .managementAttestation := by simp [Statement, Instr.raw, Fits, Dec.fmt]
theorem clusterDrain : Statement .clusterDrain := by simp [Statement, Instr.raw, Fits, Dec.fmt]
theorem clusterReturn : Statement .clusterReturn := by simp [Statement, Instr.raw, Fits, Dec.fmt]
theorem dieDrain : Statement .dieDrain := by simp [Statement, Instr.raw, Fits, Dec.fmt]
theorem linkKeyRenewal : Statement .linkKeyRenewal := by simp [Statement, Instr.raw, Fits, Dec.fmt]
theorem obituary : Statement .obituary := by simp [Statement, Instr.raw, Fits, Dec.fmt]
theorem linkLoss : Statement .linkLoss := by simp [Statement, Instr.raw, Fits, Dec.fmt]
theorem jobKill : Statement .jobKill := by simp [Statement, Instr.raw, Fits, Dec.fmt]
theorem deviceUnrecoverableFault : Statement .deviceUnrecoverableFault := by simp [Statement, Instr.raw, Fits, Dec.fmt]
theorem linkKeyAgreement : Statement .linkKeyAgreement := by simp [Statement, Instr.raw, Fits, Dec.fmt]
theorem acknowledgementArrival : Statement .acknowledgementArrival := by simp [Statement, Instr.raw, Fits, Dec.fmt]
theorem pageMigrationLineCopy : Statement .pageMigrationLineCopy := by simp [Statement, Instr.raw, Fits, Dec.fmt]

end Sys2Proof.Laws.Encoding
end

