-- ==== Sys2Proof/Tests/Slice0.lean ====
section
/-! SUPPORT. This model's own tests: a concrete state for the hypotheses of each statement, the decoding of one word of
each instruction, a smoke test of WellFormed, and a few steps computed by hand from the spec. -/

set_option Elab.async false

namespace Sys2Proof.Tests

open Sys2Proof Sys2Proof.Machine Sys2Proof.Num

/-! Small states for the witnesses: a strand at home in slot 2 of core 3 of cluster 1 of die 0, with a handler. -/

def strand0 (l : List Word) : Strand :=
  { Strand.fresh 0x232 .ready 0 with
    pc := 0x400, tvec := 0x800, frames := Vector.ofFn fun i => l.getD i.val (BitVec.ofNat 64 i.val) }

/-- m0, m1, ... hold the words of the list, and after them their own numbers. -/
def st (l : List Word := []) : State := { State.reset with me := strand0 l, agenda := [], clk := 1000 }

/-- The same with bytes 0 to 2^30 - 1 of virtual memory translated to themselves, with both rights. -/
def vst (l : List Word := []) : State :=
  { st l with tlb := [{ cl := 1, job := 0, base := 0, size := 2 ^ 30, pte := 0x1000, w0 := 0xFFFF000000000063
                        pinners := [], logged := false }] }

/-- The same at supervisor level. -/
def sup (s : State) : State := { s with me := { s.me with plv := 1 } }

/-- The value and the state of a computation that answers. -/
def val {ε α : Type} (x : Except ε (α × State)) (d : α) : α :=
  match x with
  | .ok p => p.1
  | .error _ => d
def fin {ε α : Type} (x : Except ε (α × State)) : State :=
  match x with
  | .ok p => p.2
  | .error _ => State.reset
def got {ε α : Type} (x : Except ε α) : Option α :=
  match x with
  | .ok p => some p
  | .error _ => none
def answers {ε α : Type} (x : Except ε (α × State)) : Bool := (got x).isSome

theorem ok_got {ε α : Type} {x : Except ε α} {a : α} (h : got x = some a) : x = .ok a := by
  cases x with
  | ok p => cases h; rfl
  | error e => cases h

theorem ok_eq {ε α : Type} {x : Except ε (α × State)} (d : α) (h : answers x = true) : x = .ok (val x d, fin x) := by
  cases x with
  | ok p => rfl
  | error e => cases h

theorem ok_at {ε α : Type} {x : Except ε (α × State)} {a : α} {t : State} (h : answers x = true) (h1 : val x a = a)
    (h2 : fin x = t) : x = .ok (a, t) := by
  rw [ok_eq a h, h1, h2]

def trapOf {α : Type} (x : Except Stop α) : Option (Nat × Nat × Word) :=
  match x with
  | .error (.trap cls detail tv) => some (cls, detail, tv)
  | _ => none

theorem error_trap {α : Type} {x : Except Stop α} {cls detail : Nat} {tv : Word} (h : trapOf x = some (cls, detail, tv)) :
    x = .error (.trap cls detail tv) := by
  cases x with
  | ok p => cases h
  | error e => cases e <;> cases h; rfl

def failed {ε α : Type} (x : Except ε α) : Option ε :=
  match x with
  | .ok _ => none
  | .error e => some e

theorem error_got {ε α : Type} {x : Except ε α} {a : ε} (h : failed x = some a) : x = .error a := by
  cases x with
  | ok p => cases h
  | error e => cases h; rfl

theorem clear_of {s : State} {hs : List Hit} (h : s.me.soOpen = false) : Claims.clear s hs := fun _ => h

theorem unlocked_of {s : State} {hs : List Hit} (h : s.remaps = []) : Claims.unlocked s hs := fun k _ => by
  simp [State.locked, h]

theorem here_of {s : State} {hs : List Hit} (h : hs.all Hit.isCell = true) (b : s.bad = []) : Claims.here s hs :=
  ⟨h, fun k _ => by simp [State.badAt, b]⟩

abbrev s0 : State := st []

theorem witness_ScalarResult :
    (Claims.binary (.add (.m 1) (.m 2) .l0 0) = some (4, 0, .m 1, .m 2, .l0, fun x y => x + y) ∧ s0.calm ∧
      s0.me.guarded 0 = true ∧ (Reg.m 1).plain = true ∧ (Reg.m 2).plain = true ∧ Reg.l0.plain = true) ∧
    (Claims.unary (.clz .z .pw 0) = some (4, 0, .z, .pw, clzW) ∧ Reg.z.plain = true ∧ Reg.pw.plain = true) ∧
    (Claims.ternary (.lut3 (.o 5) (.m 15) .l1 0x96) = some (4, 0, .o 5, .m 15, .l1, lut3W 0x96) ∧
      (Reg.o 5).plain = true ∧ (Reg.m 15).plain = true ∧ Reg.l1.plain = true) ∧
    ((0 : Word) = 0 ∧ BitVec.intMin 64 = (0x8000000000000000 : Word) ∧ (3 : Word) ≠ 0) := by
  and_intros <;> first | decide +kernel | rfl

theorem witness_PredicateResult :
    (Claims.compare (.cmplt 15 (.m 1) .z 0) = some (4, 0, 15, .m 1, .z, fun x y => decide (x.toInt < y.toInt)) ∧ s0.calm ∧
      s0.me.guarded 0 = true ∧ (Reg.m 1).plain = true ∧ Reg.z.plain = true) ∧
    (Claims.predicate (.pxor 0 1 15 0) = some (0, 0, 1, 15, fun x y => x != y) ∧ s0.calm ∧ s0.me.guarded 0 = true) := by
  and_intros <;> first | decide +kernel | rfl

theorem witness_RegisterMoveResult :
    (Claims.constant (.rdcyc .l1) = some (4, 0, .l1, fun s => s.clk) ∧ s0.calm ∧ s0.me.guarded 0 = true ∧ Reg.l1.plain = true) ∧
    (Claims.strandOnly (.ext 7 (.m 3) 0) = some (4, 0, fun t => { t with e := t.e.set 7 (t.src (.m 3)) }) ∧
      (∀ k a h, Instr.ext 7 (.m 3) 0 = .ext k a h → a.plain = true)) ∧
    (s0.calm ∧ s0.me.guarded 0 = true ∧ (Reg.m 3).plain = true ∧ ¬ s0.me.plv < sregLevel .tvec ∧
      ¬ (sup s0).me.plv < sregLevel .wsp) := by
  refine ⟨?_, ⟨rfl, ?_⟩, ?_⟩
  · and_intros <;> first | decide +kernel | rfl
  · intro k a h e
    cases e
    rfl
  · decide +kernel

theorem witness_FalseGuardSkips :
    Claims.guardOf (.add (.m 1) (.m 2) .l0 7) = some (4, 7) ∧ s0.calm ∧ s0.me.guarded 7 = false := by decide +kernel

theorem witness_PrivilegeTrap : Claims.supervisorOnly (.pgmig (.m 1) (.m 2) (.m 3) 0) = true ∧ s0.me.plv = 0 := by
  decide +kernel

/-- A strand without a handler. -/
def bare : State := { s0 with me := { s0.me with tvec := 0 } }

theorem witness_TrapEntryState :
    (s0.calm ∧ unhandled s0.me.tvec s0.me.pc = false ∧ s0.me.skip = none) ∧
    (bare.calm ∧ unhandled bare.me.tvec bare.me.pc = true ∧ bare.me.skip = none ∧ bare.me.plv = 0 ∧ bare.me.status = .ready ∧
      bare.me.stores = [] ∧ bare.unacked = false) ∧
    (∃ s : State, s = { bare with me := { bare.me with lrec := 100 } } ∧ s.calm ∧ unhandled s.me.tvec s.me.pc = true ∧
      s.me.skip = none ∧ s.me.plv = 0 ∧ s.me.status = .ready ∧ s.me.stores = [] ∧ s.unacked = false ∧ s.me.launch? = some 100) := by
  refine ⟨?_, ?_, ⟨_, rfl, ?_⟩⟩ <;> decide +kernel

def oddXpc : State := { s0 with me := { s0.me with xpc := 0x401 } }
def msg0 : Msg := { h0 := 0x232, o := Vector.ofFn fun i => BitVec.ofNat 64 (i.val + 1) }
def mail (s : State) : State := { s with me := { s.me with q := [msg0] } }
def armed (s : State) (t : Word) : State := { s with me := { s.me with armed := some t } }

theorem witness_TrapReturnAndIdle :
    (s0.calm ∧ unhandled s0.me.tvec s0.me.pc = false ∧ s0.me.skip = none) ∧
    (s0.me.xpc.getLsbD 0 = false ∧ oddXpc.calm ∧ oddXpc.me.xpc.getLsbD 0 = true) ∧
    ((mail s0).calm ∧ (mail s0).me.q ≠ []) ∧
    ((armed s0 1000).calm ∧ (armed s0 1000).me.q = [] ∧ (armed s0 1000).me.armed = some 1000 ∧
      (1000 : Word).toNat ≤ (armed s0 1000).clk.toNat) ∧
    ((armed s0 1001).me.q = [] ∧ (∀ t, (armed s0 1001).me.armed = some t → (armed s0 1001).clk.toNat < t.toNat)) := by
  refine ⟨by decide +kernel, by decide +kernel, by decide +kernel, by decide +kernel, by decide +kernel, ?_⟩
  intro t h
  cases h
  decide +kernel

theorem witness_BranchResult :
    (s0.calm ∧ s0.me.pred 0 = true ∧ s0.me.pred 15 = false) ∧
    (s0.me.guarded 0 = true ∧ (Reg.m 4).plain = true ∧ (s0.me.src (.m 4)).getLsbD 0 = false ∧
      (s0.me.src (.m 5)).getLsbD 0 = true) ∧
    ((Reg.m 1).loopDest = true ∧ s0.me.src (.m 1) - 1 = 0 ∧ (Reg.o 5).loopDest = true ∧ s0.me.src (.o 5) - 1 ≠ 0) := by
  decide +kernel

/-- Depth d with the oldest resident frame low. -/
def deep (s : State) (d : BitVec 16) (low : Nat) : State := { s with me := { s.me with wdep := d, low, wsp := 64 } }

theorem witness_CallReturnResult :
    (s0.calm ∧ s0.me.wdep ≠ 0xFFFF ∧ s0.me.wdep.toNat + 2 < s0.me.low + 8 ∧ s0.me.guarded 0 = true ∧
      (Reg.m 4).plain = true ∧ (s0.me.src (.m 4)).getLsbD 0 = false) ∧
    ((deep s0 6 0).calm ∧ (deep s0 6 0).me.wdep ≠ 0xFFFF ∧ (deep s0 6 0).me.low + 8 = (deep s0 6 0).me.wdep.toNat + 2 ∧
      64 ≤ (deep s0 6 0).me.wsp.toNat ∧ (deep s0 6 0).me.wlim.toNat ≤ (deep s0 6 0).me.wsp.toNat - 64 ∧
      (deep s0 6 0).me.stores = [] ∧ (deep s0 6 0).bad = [] ∧ (deep s0 6 0).mem.wf = true ∧
      (∀ j < 64, (deep s0 6 0).locked (lsKey (deep s0 6 0).me.core ((deep s0 6 0).me.wsp.toNat - 64 + j)) = false)) ∧
    ((deep s0 1 0).me.wdep ≠ 0 ∧ (deep s0 1 0).me.low ≤ (deep s0 1 0).me.wdep.toNat - 1 ∧
      ((deep (st [0, 0, 0, 0, 0, 0, 0, 0, 0, 0, 0, 0, 0, 0, 0, 8]) 1 0).me.src (.m 7)).getLsbD 0 = false ∧
      ((deep s0 1 0).me.src (.m 7)).getLsbD 0 = true ∧ s0.me.wdep = 0) ∧
    (∃ t, t = deep (st [8, 0, 0, 0, 0, 0, 0, 0, 0, 0, 0, 0, 0, 0, 0, 8]) 1 1 ∧ t.calm ∧ t.me.wdep ≠ 0 ∧ t.me.low = t.me.wdep.toNat ∧
      (t.me.src (.m 7)).getLsbD 0 = false ∧ t.me.wsp.toNat + 64 ≤ 2 ^ 20 ∧
      (∀ j < 64, t.badAt (lsKey t.me.core (t.me.wsp.toNat + j)) = false)) ∧
    (s0.calm ∧ s0.me.guarded 0 = true ∧ (Reg.m 5).plain = true ∧ (s0.me.src (.m 5)).getLsbD 0 = true) := by
  refine ⟨?_, ?_, ?_, ⟨_, rfl, ?_⟩, ?_⟩ <;> decide +kernel

/-- The same strand in slot 2 of core 14. -/
def at14 : State := { s0 with me := { s0.me with sid := 0x2E2, core := 0x2E } }

theorem witness_F64Result :
    (at14.me.pend = [] ∧ at14.me.core = at14.me.homeCore ∧ at14.me.core % 32 = 14 ∧
      Claims.f64Binary (.dadd (.m 1) (.m 2) (.m 3) 0 15) = some (0, 15, .m 1, .m 2, .m 3, add64) ∧
      at14.me.guarded 0 = true ∧ (Reg.m 1).plain = true ∧ (Reg.m 2).plain = true ∧ (Reg.m 3).plain = true) ∧
    (∃ t : State, t = { s0 with me := { s0.me with core := 0x2F, stay := true } } ∧ t.me.pend = [] ∧ t.me.stay = true ∧
      t.me.core % 32 = 15 ∧ t.me.guarded 0 = true) ∧
    (s0.calm ∧ s0.me.core % 32 < 14 ∧ s0.me.guarded 0 = true) ∧ (s0.me.core % 32 < 16 ∧ s0.me.guarded 7 = false) := by
  refine ⟨?_, ⟨_, rfl, ?_⟩, ?_⟩ <;> and_intros <;> first | decide +kernel | rfl

/-- An input stream of 2 elements of type N8 at position 1, and one element fetched ahead. -/
def inStream : Stream where
  base := 0
  ty := 4
  out := false
  dims := 1
  c := #v[2, 1, 1]
  s := #v[1, 0, 0]
  pos := 1
  ahead := [.got 7]
def streams (s : State) (x : Stream) : State := { s with me := { s.me with t := s.me.t.set 3 (some x) } }
def askedFor : Stream := { inStream with ahead := [.asked 0 false] }
def lostOne : Stream := { inStream with ahead := [.lost 8 0 0x2001] }

theorem witness_SourcePops :
    ((mail s0).calm ∧ (mail s0).me.guarded 0 = true ∧ (Reg.m 1).plain = true ∧ (mail s0).me.q = msg0 :: [] ∧
      s0.me.q = []) ∧
    ((streams s0 inStream).calm ∧ (streams s0 inStream).me.t[(3 : Fin 4)] = some inStream ∧ inStream.out = false ∧
      inStream.pos + 1 ≤ inStream.total ∧ inStream.ahead = .got 7 :: []) ∧
    ((streams s0 askedFor).calm ∧ (streams s0 askedFor).me.t[(3 : Fin 4)] = some askedFor ∧ askedFor.out = false ∧
      askedFor.pos + 1 ≤ askedFor.total ∧ askedFor.ahead = .asked 0 false :: []) ∧
    ((streams s0 lostOne).calm ∧ (streams s0 lostOne).me.t[(3 : Fin 4)] = some lostOne ∧ lostOne.out = false ∧
      lostOne.pos + 1 ≤ lostOne.total ∧ lostOne.ahead = .lost 8 0 0x2001 :: []) ∧
    (s0.me.t[(3 : Fin 4)] = none ∧
      (streams s0 { inStream with out := true }).me.t[(3 : Fin 4)] = some { inStream with out := true } ∧
      ({ inStream with pos := 2 } : Stream).total < 2 + 1) := by decide +kernel

theorem witness_ScalarOperandForms :
    s0.me.stay = false ∧ s0.me.guardHeld 0 = none ∧ s0.me.guarded 0 = true ∧
    (∃ x s1 s2, Claims.unary (.popc .z (.m 3) 0) = some (4, 0, .z, .m 3, popcW) ∧ rd (.m 3) (s0.issue 4) = .ok (x, s1) ∧
      wr .z (popcW x) s1 = .ok ((), s2)) ∧
    (∃ x y s1 s2 s3, Claims.binary (.xor (.m 1) .q (.t 3) 0) = some (4, 0, .m 1, .q, .t 3, fun x y => x ^^^ y) ∧
      rd .q ((mail (streams s0 inStream)).issue 4) = .ok (x, s1) ∧ rd (.t 3) s1 = .ok (y, s2) ∧
      wr (.m 1) (x ^^^ y) s2 = .ok ((), s3)) ∧
    (∃ x y z s1 s2 s3 s4, Claims.ternary (.lut3 (.m 1) (.m 2) .l1 0x96) = some (4, 0, .m 1, .m 2, .l1, lut3W 0x96) ∧
      rd (.m 2) (s0.issue 4) = .ok (x, s1) ∧ rd .l1 s1 = .ok (y, s2) ∧ rdOld (.m 1) s2 = .ok (z, s3) ∧
      wr (.m 1) (lut3W 0x96 x y z) s3 = .ok ((), s4)) := by
  refine ⟨by decide +kernel, by decide +kernel, by decide +kernel, ⟨_, _, _, rfl, ok_eq 0 (by decide +kernel), ok_eq () ?_⟩,
    ⟨_, _, _, _, _, rfl, ok_eq 0 (by decide +kernel), ok_eq 0 ?_, ok_eq () ?_⟩,
    ⟨_, _, _, _, _, _, _, rfl, ok_eq 0 (by decide +kernel), ok_eq 0 ?_, ok_eq 0 ?_, ok_eq () ?_⟩⟩
  all_goals decide +kernel

theorem logRoom_of {s : State} {n : Nat}
    (h : (logCore s.me).all (fun c => decide (s.num (lsKey c 0xFF000) 2 % 512 + n ≤ 511)) = true) : Claims.logRoom s n := by
  intro c hc
  rw [hc] at h
  simpa using h

theorem notInLog_of {s : State} {k c : Nat} (hc : logCore s.me = some c)
    (h : k < lsKey c 0xFF000 ∨ lsKey c 0xFF000 + 4096 ≤ k) : ¬ Claims.inLog s k := by
  rintro ⟨d, hd, h1, h2⟩
  rw [hc] at hd
  cases hd
  generalize lsKey c 0xFF000 = x at h h1 h2
  omega

/-- A record with every right, from its words that are not 0. -/
@[irreducible] def record (ws : List (Nat × Nat)) : Obj := { img := BitVec.ofNat 2048 (ws.foldl (fun v w => v + w.2 * 2 ^ (64 * w.1)) 0), acc := 63 }

def withObj (s : State) (key : Nat) (o : Obj) : State := { s with obj := SMap.put key o s.obj }

/-- Job 0 with a page table that maps bytes 0 to 2^30 - 1 to themselves. -/
def paged (s : State) : State :=
  { withObj s 200 (record [(0, 4), (3, 0x10000)]) with
    mem := [(0x10000, 1), (0x10002, 2), (0x20000, 0x63), (0x20006, 0xFF), (0x20007, 0xFF)] }

def at2000 : State := vst [0, 0, 0x2000]
def own : State := st [0, 0, 0xE0001000, 5]

theorem witness_LoadResult : ∃ (s1 : State) (hs : List Hit) (x : Claims.Access),
    Claims.load at2000.me (.lda (.m 14) (.m 2) 0 .b8 true 3) = some x ∧ at2000.calm ∧ at2000.me.guarded x.guard = true ∧
      x.formed = true ∧ check rR x.addr x.size (at2000.issue x.len) = .ok (hs, s1) ∧ Claims.here at2000 hs ∧
      Claims.clear at2000 hs := by
  refine ⟨fin (check rR (.v 0x2000) 16 (at2000.issue 4)), val (check rR (.v 0x2000) 16 (at2000.issue 4)) [], _, rfl, ?_⟩
  refine ⟨?_, ?_, ?_, ok_eq [] ?_, here_of ?_ ?_, clear_of ?_⟩ <;> decide +kernel

/-- One store queued. -/
def queue1 : State := { s0 with me := { s0.me with stores := [{ dev := 0, job := 0, va := 0x2000, cells := [(0x2000, 7)] }] } }
/-- The page of at2000 is an SO page. -/
def strong : State := { at2000 with tlb := [{ cl := 1, job := 0, base := 0, size := 2 ^ 30, pte := 0x1000, w0 := 0xFFFF000000000073
                                              pinners := [], logged := false }] }

theorem witness_StoreResult :
    (∃ (s1 : State) (hs : List Hit) (x : Claims.Access), Claims.store own.me (.stl (.m 3) (.m 2) 0 .b8 0) = some x ∧ own.calm ∧
      own.me.guarded x.guard = true ∧ x.formed = true ∧ own.mem.wf = true ∧
      check rW x.addr x.size (own.issue x.len) = .ok (hs, s1) ∧ Claims.here own hs ∧ Claims.clear own hs ∧ Claims.unlocked own hs ∧
      own.queuedTo (Claims.cells own hs) = false ∧
      (∀ k ∈ Claims.cells own hs, isLs k = true ∧ k / 2 ^ 20 % 4096 = own.me.core)) ∧
    (∃ (s1 : State) (hs : List Hit) (x : Claims.Access), Claims.store strong.me (.sta (.m 14) (.m 2) 0 .b8 true 0) = some x ∧
      strong.calm ∧ strong.me.guarded x.guard = true ∧ x.formed = true ∧ strong.mem.wf = true ∧
      check rW x.addr x.size (strong.issue x.len) = .ok (hs, s1) ∧ Claims.here strong hs ∧ Claims.clear strong hs ∧
      Claims.unlocked strong hs ∧ strong.queuedTo (Claims.cells strong hs) = false ∧ hs.all (atOnce strong) = true ∧
      (∀ k ∈ Claims.cells strong hs, ¬ Claims.inLog strong k) ∧ Claims.logRoom strong 4) ∧
    (∃ (s1 : State) (hs : List Hit) (x : Claims.Access), Claims.store at2000.me (.sta (.m 14) (.m 2) 0 .b8 true 0) = some x ∧
      at2000.calm ∧ at2000.me.guarded x.guard = true ∧ x.formed = true ∧ at2000.mem.wf = true ∧
      check rW x.addr x.size (at2000.issue x.len) = .ok (hs, s1) ∧ Claims.here at2000 hs ∧ Claims.clear at2000 hs ∧
      Claims.logRoom at2000 4 ∧ (∀ h ∈ hs, atOnce at2000 h = false) ∧
      (at2000.me.stores.filter fun q => q.kind == 1).length + (Claims.pieces at2000 x.addr hs x.data).length ≤ 8) ∧
    (∃ p, queue1.me.stores = [p] ∧ p.vas = [] ∧ p.dev ≠ aperture ∧ p.so = false ∧
      (∀ c ∈ p.cells, queue1.badAt c.1 = false ∧ queue1.locked c.1 = false)) := by
  let c := check rW (.l 0xE0001000) 8 (own.issue 4)
  let d := check rW (.v 0x2000) 16 (strong.issue 4)
  let e := check rW (.v 0x2000) 16 (at2000.issue 4)
  refine ⟨⟨fin c, val c [], _, rfl, ?_, ?_, ?_, ?_, ok_eq [] ?_, here_of ?_ ?_, clear_of ?_, unlocked_of ?_, ?_, ?_⟩,
    ⟨fin d, val d [], _, rfl, ?_, ?_, ?_, ?_, ok_eq [] ?_, here_of ?_ ?_, clear_of ?_, unlocked_of ?_, ?_, ?_, ?log, logRoom_of ?_⟩,
    ⟨fin e, val e [], _, rfl, ?_, ?_, ?_, ?_, ok_eq [] ?_, here_of ?_ ?_, clear_of ?_, logRoom_of ?_, ?_, ?_⟩,
    ⟨_, rfl, rfl, ?_, rfl, ?_⟩⟩
  case log =>
    intro k hk
    have e : ∀ k ∈ Claims.cells strong (val d []), k < 0x10000 := by decide +kernel
    exact notInLog_of (c := 0x23) (by decide +kernel) (Or.inl (Nat.lt_of_lt_of_le (e k hk) (by decide +kernel)))
  all_goals decide +kernel

/-- m2 names line 3, whose home is core 3 of cluster 1 of die 0. -/
def near : State := vst [0, 0, 0x300, 0xE0001000]

theorem witness_AtomicResult :
    (∃ (s1 : State) (h : Hit) (r : List Hit) (f : Word → Word → Word → Option Word),
      Claims.amo (.amocas (.m 1) (.m 2) (.m 3) 0 0) = some (.m 1, .m 2, .m 3, 0, f) ∧ near.calm ∧
      near.me.guarded 0 = true ∧ (Reg.m 1).plain = true ∧ (Reg.m 2).plain = true ∧ (Reg.m 3).plain = true ∧
      near.mem.wf = true ∧ near.me.stores = [] ∧ (near.me.src (.m 2)).toNat / 2 ^ 56 = 0 ∧
      (near.me.src (.m 2)).toNat % 8 = 0 ∧
      check rRW (.v (near.me.src (.m 2)).toNat) 8 (near.issue 4) = .ok (h :: r, s1) ∧ Claims.here near (h :: r) ∧
      Claims.clear near (h :: r) ∧ near.imageCore (near.home (cellOf near.me.job.toNat h)) = true ∧
      Claims.unlocked near (h :: r) ∧ Claims.logRoom near 2 ∧ near.home (cellOf near.me.job.toNat h) = near.me.core) ∧
    (∃ (s1 : State) (h : Hit) (r : List Hit) (f : Word → Word → Word → Option Word),
      Claims.amo (.amoadd (.m 1) (.m 2) (.m 3) 0 0) = some (.m 1, .m 2, .m 3, 0, f) ∧ at2000.calm ∧ at2000.mem.wf = true ∧
      at2000.me.stores = [] ∧ (at2000.me.src (.m 2)).toNat / 2 ^ 56 = 0 ∧ (at2000.me.src (.m 2)).toNat % 8 = 0 ∧
      check rRW (.v (at2000.me.src (.m 2)).toNat) 8 (at2000.issue 4) = .ok (h :: r, s1) ∧ Claims.here at2000 (h :: r) ∧
      Claims.clear at2000 (h :: r) ∧ at2000.imageCore (at2000.home (cellOf at2000.me.job.toNat h)) = true ∧
      at2000.home (cellOf at2000.me.job.toNat h) ≠ at2000.me.core) ∧
    (∃ (s1 s2 : State) (h : Hit) (r src : List Hit), Claims.vamo (.vamoFp32 (.m 2) (.m 3) 0 0) = some (.m 2, .m 3, 0, false) ∧
      (near.me.src (.m 2)).toNat / 2 ^ 56 = 0 ∧ (near.me.src (.m 2)).toNat % 128 = 0 ∧ (near.me.src (.m 3)).toNat % 4 = 0 ∧
      check rRW (.v (near.me.src (.m 2)).toNat) 128 (near.issue 4) = .ok (h :: r, s1) ∧
      check rR (.l ((near.me.src (.m 3)).toNat % 2 ^ 32)) 128 s1 = .ok (src, s2) ∧ Claims.here near (h :: r) ∧
      Claims.clear near (h :: r) ∧ Claims.unlocked near (h :: r) ∧ Claims.here near src) := by
  let c := check rRW (.v (near.me.src (.m 2)).toNat) 8 (near.issue 4)
  let d := check rRW (.v (near.me.src (.m 2)).toNat) 128 (near.issue 4)
  let e := check rRW (.v (at2000.me.src (.m 2)).toNat) 8 (at2000.issue 4)
  let h0 : Hit := ⟨.cell 0x300, 0xFFFF000000000063⟩
  let h2 : Hit := ⟨.cell 0x2000, 0xFFFF000000000063⟩
  refine ⟨⟨fin c, h0, (val c []).tail, _, rfl, ?_⟩, ⟨fin e, h2, (val e []).tail, _, rfl, ?_⟩,
    ⟨fin d, fin (check rR (.l 0xE0001000) 128 (fin d)), h0, (val d []).tail,
      val (check rR (.l 0xE0001000) 128 (fin d)) [], rfl, ?_⟩⟩
  · have e : val c [] = h0 :: (val c []).tail := by decide +kernel
    refine ⟨?_, ?_, ?_, ?_, ?_, ?_, ?_, ?_, ?_, e ▸ ok_eq [] ?_, here_of ?_ ?_, clear_of ?_, ?_, unlocked_of ?_, logRoom_of ?_, ?_⟩ <;>
      decide +kernel
  · have e1 : val e [] = h2 :: (val e []).tail := by decide +kernel
    refine ⟨?_, ?_, ?_, ?_, ?_, e1 ▸ ok_eq [] ?_, here_of ?_ ?_, clear_of ?_, ?_, ?_⟩ <;> decide +kernel
  · have e : val d [] = h0 :: (val d []).tail := by decide +kernel
    refine ⟨?_, ?_, ?_, e ▸ ok_eq [] ?_, ok_eq [] ?_, here_of ?_ ?_, clear_of ?_, unlocked_of ?_, here_of ?_ ?_⟩ <;> decide +kernel

def holder : State := { near with me := { near.me with resv := some 3 } }
/-- An instruction issued before this one, open at the end of its window. -/
def owed1 (ds : List Reg) (lands : List Nat) (src : Owe) : Pending :=
  { dsts := ds, depth := 0, lands, src, left := 0, win := 0, xpc := 0x3FC, l0 := 0, l1 := 0, own := lands.length, sh := lands.length
    tvec := 0x800, plv := 0 }
def pend1 (s : State) (ds : List Reg) (lands : List Nat) (src : Owe) : State :=
  { s with me := { s.me with pend := [owed1 ds lands src] } }
def granted : State :=
  { pend1 near [.m 1] [0] (.reserve 3 0x300) with
    arg := { n := 3 }, queues := { near.queues with resv := [{ line := 3, holder := none, waiters := [0x232] }] } }

theorem witness_ReservationResult :
    (∃ (s1 s2 : State) (h : Hit) (r : List Hit), near.calm ∧ near.me.guarded 0 = true ∧ (Reg.m 1).plain = true ∧
      (Reg.m 2).plain = true ∧ near.mem.wf = true ∧ near.me.stores = [] ∧ (near.me.src (.m 2)).toNat / 2 ^ 56 = 0 ∧
      (near.me.src (.m 2)).toNat % 8 = 0 ∧ check rRW (.v (near.me.src (.m 2)).toNat) 8 (near.issue 4) = .ok (h :: r, s1) ∧
      Claims.here near (h :: r) ∧ Claims.clear near (h :: r) ∧ 3 = lineOf (cellOf near.me.job.toNat h) ∧ near.me.resv = none ∧
      near.resvOf 3 = none ∧ near.admits near.me.core 3 = true ∧
      (near.queues.input.any fun x => near.home (x.1 * 256) == near.me.core) = false ∧
      check rRW (.v (near.me.src (.m 2)).toNat) 8 (({ s1 with me := { s1.me with l1 := s1.me.l0 } }).hold 3) = .ok (h :: r, s2) ∧
      near.home (cellOf near.me.job.toNat h) = near.me.core ∧ near.imageCore near.me.core = true) ∧
    (∃ (s1 : State) (h : Hit) (r : List Hit), holder.calm ∧ holder.mem.wf = true ∧ holder.me.stores = [] ∧
      (holder.me.src (.m 2)).toNat / 2 ^ 56 = 0 ∧ (holder.me.src (.m 2)).toNat % 8 = 0 ∧
      check rRW (.v (holder.me.src (.m 2)).toNat) 8 (holder.issue 4) = .ok (h :: r, s1) ∧ Claims.here holder (h :: r) ∧
      Claims.clear holder (h :: r) ∧ 3 = lineOf (cellOf holder.me.job.toNat h) ∧ holder.me.resv = some 3 ∧
      Claims.unlocked holder (h :: r) ∧ Claims.logRoom holder 2) ∧
    (∃ (s1 : State) (p : Pending) (hs : List Hit), granted.arg.flag = false ∧ granted.resvOf granted.arg.n =
        some { line := granted.arg.n, holder := none, waiters := granted.me.sid.toNat % 65536 :: [] } ∧
      granted.lrwTag (granted.me.sid.toNat % 65536) granted.arg.n = none ∧
      granted.me.pend = [p] ∧ p.src = .reserve granted.arg.n 0x300 ∧ granted.me.stores = [] ∧
      atomicHits (.v (0x300 : Word).toNat) (({ granted with me := { granted.me with pend := [] } }).hold granted.arg.n) =
        .ok (hs, s1) ∧ Claims.here granted hs) ∧
    (∃ p, (pend1 s0 [.o 5] [0] (.value [9])).arg.flag = false ∧ (pend1 s0 [.o 5] [0] (.value [9])).me.pend = [p] ∧
      p.src = .value [9] ∧ p.dsts = [.o 5] ∧ p.lands = [0]) := by
  let h0 : Hit := ⟨.cell 0x300, 0xFFFF000000000063⟩
  let c := check rRW (.v (near.me.src (.m 2)).toNat) 8 (near.issue 4)
  let d := check rRW (.v (near.me.src (.m 2)).toNat) 8 (({ fin c with me := { (fin c).me with l1 := (fin c).me.l0 } }).hold 3)
  let e := check rRW (.v (holder.me.src (.m 2)).toNat) 8 (holder.issue 4)
  refine ⟨⟨fin c, fin d, h0, (val c []).tail, ?_⟩, ⟨fin e, h0, (val e []).tail, ?_⟩,
    ⟨_, _, _, ?_, ?_, ?_, rfl, rfl, rfl, ok_eq [] ?_, here_of ?_ ?_⟩, ⟨_, rfl, rfl, rfl, rfl, rfl⟩⟩
  · have e1 : val c [] = h0 :: (val c []).tail := by decide +kernel
    have e2 : val d [] = h0 :: (val c []).tail := by decide +kernel
    refine ⟨?_, ?_, ?_, ?_, ?_, ?_, ?_, ?_, e1 ▸ ok_eq [] ?_, here_of ?_ ?_, clear_of ?_, ?_, ?_, ?_, ?_, ?_, e2 ▸ ok_eq [] ?_, ?_, ?_⟩ <;>
      decide +kernel
  · have e1 : val e [] = h0 :: (val e []).tail := by decide +kernel
    refine ⟨?_, ?_, ?_, ?_, ?_, e1 ▸ ok_eq [] ?_, here_of ?_ ?_, clear_of ?_, ?_, ?_, unlocked_of ?_, logRoom_of ?_⟩ <;> decide +kernel
  all_goals decide +kernel

/-- The first page belongs to device 1. -/
def away : State :=
  { st [0, 0, 0x2000] with tlb := [{ cl := 1, job := 0, base := 0, size := 65536, pte := 0x1000, w0 := 0x0001000000000063
                                     pinners := [], logged := false }] }
/-- A request of kind kind to device 1 for one byte, with tag 0 of die 0. -/
def req0 (kind : Nat) : Req :=
  { die := 0, sid := 0x232, gen := 0, dev := 1, job := 0, va := 0x2000, vas := [0x2000], kind, t := 0, bytes := [7], rep := [], n := 0 }
def asked (s : State) (kind : Nat) : State := { s with fabric := { s.fabric with reqs := [(0, req0 kind)] } }
def incoming (s : State) (kind : Nat) : State := { s with arg := { dev := 1, kind, va := 0x2000, size := 1, bs := [7] } }

theorem witness_FenceResult :
    (s0.calm ∧ s0.me.guarded 0 = true ∧ s0.unacked = false ∧ s0.me.spanErr = none ∧ s0.me.stores = []) ∧
    (queue1.calm ∧ queue1.me.stores ≠ [] ∧ FKind.full ≠ .acq ∧ Scope.span ≠ .strand) ∧
    (∃ s, s = asked s0 1 ∧ s.calm ∧ s.me.stores = [] ∧ s.unacked = true) ∧
    (∃ s, s = { s0 with me := { s0.me with spanErr := some 0x2000 } } ∧ s.calm ∧ s.me.stores = [] ∧ s.unacked = false ∧
      s.me.spanErr = some 0x2000) := by
  refine ⟨?_, ?_, ⟨_, rfl, ?_⟩, ⟨_, rfl, ?_⟩⟩ <;> decide +kernel

/-- One run of the byte at 0x2000 of device 1, at rd. -/
def run0 (rd : Read) : Run := { tval := 0x2000, dev := 1, vas := [0x2000], rep := [], rd }
def fetching (rd : Read) : State := pend1 s0 [.o 5] [0] (.fetch [some { runs := [run0 rd] }] (.scalar false))

theorem witness_RemoteAccessResult :
    (∃ (s1 : State) (x : Claims.Access) (h : Hit) (r : List Hit), Claims.load away.me (.ldx (.m 1) (.m 2) .z 0 15) = some x ∧
      away.calm ∧ away.me.guarded 0 = true ∧ x.formed = true ∧ check rR x.addr 8 (away.issue 4) = .ok (h :: r, s1) ∧
      Claims.clear away (h :: r) ∧ (∀ y ∈ h :: r, (∃ va, y.loc = .remote 1 va) ∧ y.so = h.so) ∧
      (h :: r).any (Hit.open away) = false ∧ 1 < 0xF000 ∧ away.findTag (coreDie away.me.core * 4096) 4096 0 = some 0) ∧
    (∃ s q p, s = { asked (fetching (.asked 0)) 0 with arg := { flag := true } } ∧ s.arg.flag = true ∧
      SMap.find s.arg.n s.fabric.reqs = some q ∧ q.gen = s.arg.m ∧ q.kind = 0 ∧ q.rep = [] ∧ q.sid = s.me.sid.toNat ∧
      s.me.pend = [p] ∧ p.src = .fetch [some { runs := [run0 (.asked 0)] }] (.scalar false) ∧ (run0 (.asked 0)).rd = .asked s.arg.n ∧
      p.own = 1 ∧ p.dsts = [.o 5] ∧ p.lands = [0] ∧ (∀ k ∈ q.keys, s.badAt k = false)) ∧
    (∃ s q p, s = asked (fetching (.asked 0)) 0 ∧ SMap.find s.arg.n s.fabric.reqs = some q ∧ q.kind = 0 ∧ q.sid = s.me.sid.toNat ∧
      s.me.pend = [p] ∧ p.src = .fetch [some { runs := [run0 (.asked 0)] }] (.scalar false) ∧
      (run0 (.asked 0)).rd = .asked s.arg.n) ∧
    (∃ s p, s = fetching (.lost 8 0) ∧ s.arg.flag = false ∧ s.me.pend = [p] ∧
      p.src = .fetch [some { runs := [run0 (.lost 8 0)] }] (.scalar false) ∧ (run0 (.lost 8 0)).rd = .lost 8 0) ∧
    SMap.find s0.arg.n s0.fabric.reqs = none ∧
    (∃ s q p, s = asked (pend1 s0 [] [] (.acks [0])) 1 ∧ SMap.find s.arg.n s.fabric.reqs = some q ∧ q.gen = s.arg.m ∧ q.kind = 1 ∧
      q.rep = [] ∧ q.sid = s.me.sid.toNat ∧ s.me.pend = [p] ∧ p.src = .acks [s.arg.n] ∧ (∀ k ∈ q.keys, s.badAt k = false)) ∧
    arrivingAll (incoming s0 1) 0 (arrivingRight 1) ((List.range 1).map fun i => (0x2000 + i) % 2 ^ 56) = none ∧
    (∃ s hs, s = incoming (paged s0) 1 ∧ s.arg.kind = 1 ∧
      arrivingAll s s.arg.job (arrivingRight s.arg.kind) ((List.range s.arg.size).map fun i => (s.arg.va + i) % 2 ^ 56) = some hs ∧
      (∀ k ∈ hs.map (cellOf s.arg.job), s.badAt k = false ∧ s.locked k = false)) := by
  let h0 : Hit := ⟨.remote 1 0x2000, 0x0001000000000063⟩
  let c := check rR (.v 0x2000) 8 (away.issue 4)
  refine ⟨⟨fin c, _, h0, (val c []).tail, rfl, ?_⟩, ⟨_, _, _, rfl, rfl, rfl, rfl, rfl, rfl, rfl, rfl, rfl, rfl, rfl, rfl, rfl, ?_⟩,
    ⟨_, _, _, rfl, rfl, rfl, rfl, rfl, rfl, rfl⟩, ⟨_, _, rfl, rfl, rfl, rfl, rfl⟩, ?_,
    ⟨_, _, _, rfl, rfl, rfl, rfl, rfl, rfl, rfl, rfl, ?_⟩, ?_, ⟨_, [⟨.cell 0x2000, 0xFFFF000000000063⟩], rfl, ?_⟩⟩
  · have e1 : val c [] = h0 :: (val c []).tail := by decide +kernel
    have e2 : ∀ y ∈ h0 :: (val c []).tail, (match y.loc with
        | .remote d _ => d == 1
        | _ => false) = true ∧ y.so = h0.so := by decide +kernel
    refine ⟨?_, ?_, ?_, e1 ▸ ok_eq [] ?_, clear_of ?_, ?_, ?_, ?_, ?_⟩
    case refine_6 =>
      intro y hy
      refine ⟨?_, (e2 y hy).2⟩
      have e3 := (e2 y hy).1
      cases hl : y.loc <;> simp only [hl] at e3 <;> first | exact ⟨_, by rw [eq_of_beq e3]⟩ | cases e3
    all_goals decide +kernel
  all_goals decide +kernel

theorem witness_LineResult :
    s0.calm ∧ Claims.compute s0 ∧ s0.me.guarded 0 = true ∧
    (∃ f, Claims.line1 (.vneg (.k 7) (.k 0) 6 0) = some (0, .k 7, .k 0, f)) ∧
    Claims.line2 (.vand (.k 7) (.k 0) (.k 7) 2 0) = some (4, 0, .k 7, .k 0, .k 7, Claims.lanes2 fun x y => x &&& y) ∧
    Claims.line3 (.compactVfma (.k 0) (.k 7)) = some (2, 0, .k 0, .k 0, .k 7, fma32) ∧
    (Reg.m 1).plain = true ∧ Reg.l1.plain = true ∧
    Claims.lineReduce (.vrsum (.m 1) (.k 7) 12 0) = some (0, .m 1, .k 7, vrsumW 12) := by
  refine ⟨?_, ?_, ?_, ⟨_, rfl⟩, rfl, rfl, ?_, ?_, rfl⟩ <;> first | decide +kernel | (unfold Claims.compute; decide +kernel)

theorem witness_LineOperandForms :
    ∃ (x y : Line) (s1 s2 s3 s4 : State), s0.calm ∧ Claims.compute s0 ∧ s0.me.guarded 0 = true ∧
      rdLine (.k 7) (s0.issue 4) = .ok (x, s1) ∧
      (∃ f t, Claims.line1 (.vneg (.k 0) (.k 7) 6 0) = some (0, .k 0, .k 7, f) ∧ wrLine (.k 0) (f x) s1 = .ok ((), t)) ∧
      (∃ f t, Claims.line2 (.vand (.k 0) (.k 7) (.k 1) 2 0) = some (4, 0, .k 0, .k 7, .k 1, f) ∧ rdLine (.k 1) s1 = .ok (y, s2) ∧
        wrLine (.k 0) (f x y) s2 = .ok ((), t)) ∧
      (∃ f z t, Claims.line3 (.vsel (.k 0) (.k 7) (.k 1) 2 0) = some (4, 0, .k 0, .k 7, .k 1, f) ∧
        rdLineOld (.k 0) s2 = .ok (z, s3) ∧ wrLine (.k 0) (Vector.ofFn fun j => f x[j] y[j] z[j]) s3 = .ok ((), t)) ∧
      (∃ f, Claims.lineReduce (.vrsum (.m 1) (.k 7) 12 0) = some (0, .m 1, .k 7, f) ∧ wr (.m 1) (f x) s1 = .ok ((), s4)) ∧
      (∃ v t u, rd (.m 2) s1 = .ok (v, t) ∧ wr (.m 1) (vgetW 2 x v) t = .ok ((), u)) := by
  refine ⟨_, _, _, _, _, _, ?_, ?_, ?_, rfl, ⟨_, _, rfl, rfl⟩, ⟨_, _, rfl, rfl, rfl⟩, ⟨_, _, _, rfl, rfl, rfl⟩, ⟨_, rfl, rfl⟩,
    ⟨_, _, _, rfl, rfl⟩⟩ <;> first | decide +kernel | (unfold Claims.compute; decide +kernel)

/-- m2 is an L-address of the own store, m3 a stride of 1; k0 holds offset 0 in lane 0 and inactive lanes. -/
def lanes : State :=
  let s := vst [0, 0, 0x2000, 1]
  { s with me := { s.me with k := s.me.k.set 0 (Vector.ofFn fun i => if i.val = 0 then 0 else 0x80000000) } }

theorem witness_LineMemoryResult :
    (∃ (s1 : State) (hss : List (List Hit)) (ty : Ty) (base : Word) (os : List (Option Int)) (rs : List Reg) (as : List Addr),
      Claims.lineLd lanes.me (.vgath (.k 7) (.m 2) (.k 0) 15 0) = some (0, 7, ty, base, os, rs) ∧ lanes.calm ∧
      Claims.compute lanes ∧ lanes.me.guarded 0 = true ∧ rs.all Reg.plain = true ∧
      lineAddrs base (elemSize ty) (os.filterMap id) (lanes.issue 4) = .ok (as, lanes.issue 4) ∧
      checkElems rR (elemSize ty) as (lanes.issue 4) = .ok (hss, s1) ∧ Claims.here lanes hss.flatten ∧
      Claims.clear lanes hss.flatten) ∧
    (∃ (s1 : State) (hss : List (List Hit)) (ty : Ty) (base : Word) (os : List (Option Int)) (rs : List Reg) (as : List Addr),
      Claims.lineSt lanes.me (.vscat (.k 7) (.m 2) (.k 0) 8 0) = some (0, 7, ty, base, os, rs) ∧ rs.all Reg.plain = true ∧
      lanes.mem.wf = true ∧ lanes.me.stores = [] ∧ Claims.logRoom lanes 256 ∧
      lineAddrs base (elemSize ty) (os.filterMap id) (lanes.issue 4) = .ok (as, lanes.issue 4) ∧
      checkElems rW (elemSize ty) as (lanes.issue 4) = .ok (hss, s1) ∧ Claims.here lanes hss.flatten ∧
      Claims.clear lanes hss.flatten ∧ Claims.unlocked lanes hss.flatten ∧
      (∀ k ∈ Claims.cells lanes hss.flatten, ¬ Claims.inLog lanes k)) := by
  let as0 : List Addr := [.v 0x2000]
  let c := checkElems rR 8 as0 (lanes.issue 4)
  let d := checkElems rW 1 as0 (lanes.issue 4)
  refine ⟨⟨fin c, val c [], 15, _, _, _, as0, rfl, ?_, ?_, ?_, ?_, ok_at ?_ ?_ ?_, ok_eq [] ?_, here_of ?_ ?_, clear_of ?_⟩,
    ⟨fin d, val d [], 8, _, _, _, as0, rfl, ?_, ?_, ?_, logRoom_of ?_, ok_at ?_ ?_ ?_, ok_eq [] ?_, here_of ?_ ?_, clear_of ?_,
      unlocked_of ?_, ?log⟩⟩
  case log =>
    intro k hk
    have e : ∀ k ∈ Claims.cells lanes (val d []).flatten, k < 0x10000 := by decide +kernel
    exact notInLog_of (c := 0x23) (by decide +kernel) (Or.inl (Nat.lt_of_lt_of_le (e k hk) (by decide +kernel)))
  all_goals first | decide +kernel | (unfold Claims.compute; decide +kernel)

def strided : State := st [0, 0, 0x2000, 2, 0]

theorem witness_StreamBinding :
    (strided.calm ∧ Claims.compute strided ∧ strided.me.guarded 0 = true ∧ (Reg.m 2).plain = true ∧ (Reg.m 3).plain = true ∧
      strided.me.t[(3 : Fin 4)] = none ∧ wbits (strided.me.src (.m 3)) 1 2 ≠ 0 ∧
      (strided.me.src (.m 2)).toNat % elemSize 15 = 0) ∧
    (∃ s, s = streams s0 { inStream with out := true } ∧ s.calm ∧ Claims.compute s ∧ s.storesDone = true) ∧
    (∃ (s1 : State) (x : Ahead) (s : State) (y : Stream), s.arg.n = (3 : Fin 4).val ∧ s.me.t[(3 : Fin 4)] = some y ∧
      s.me.core = s.me.homeCore ∧ y.out = false ∧ y.pos + y.ahead.length < y.total ∧ (y.ahead.length + 1) * elemSize y.ty ≤ 512 ∧
      fetchAhead y (y.pos + y.ahead.length) s = .ok (x, s1)) ∧
    (∃ (s : State) (y : Stream), s.arg.n = (3 : Fin 4).val ∧ s.me.t[(3 : Fin 4)] = some y ∧ s.me.core = s.me.homeCore ∧
      y.out = false ∧ y.pos + y.ahead.length < y.total ∧ (y.ahead.length + 1) * elemSize y.ty ≤ 512 ∧
      fetchAhead y (y.pos + y.ahead.length) s = .error (.trap 5 0 1)) := by
  let y : Stream := { inStream with base := 0x80000000E0001000, pos := 0 }
  let u : State := { streams own y with arg := { n := 3 } }
  let z : Stream := { inStream with pos := 0 }
  let v : State := { streams s0 z with arg := { n := 3 } }
  refine ⟨?_, ⟨_, rfl, ?_⟩, ⟨fin (fetchAhead y 1 u), .got 0, u, y, ?_⟩, ⟨v, z, ?_⟩⟩
  · refine ⟨?_, ?_, ?_, ?_, ?_, ?_, ?_, ?_⟩ <;> first | decide +kernel | (unfold Claims.compute; decide +kernel)
  · refine ⟨?_, ?_, ?_⟩ <;> first | decide +kernel | (unfold Claims.compute; decide +kernel)
  · refine ⟨?_, ?_, ?_, ?_, ?_, ?_, ok_at ?_ ?_ ?_⟩ <;> decide +kernel
  · refine ⟨?_, ?_, ?_, ?_, ?_, ?_, error_trap ?_⟩ <;> decide +kernel

/-- A field of 64 elements of FP32 at 0x2000 on this device, mapped one to one; m2 is its handle, m3 an index, e1 a factor. -/
def fieldRec : Obj := record [(0, 1 + 12 * 2 ^ 8 + 1 * 2 ^ 16 + 6 * 2 ^ 20 + 6 * 2 ^ 26), (1, 0x050403020100), (11, 0x2000)]
def fields : State := withObj (vst [0, 0, 100, 63, 0x3F800000]) 100 fieldRec
def view0 : View := { key := 100, o := fieldRec }
/-- A field of two planes whose element 63 has a leading plane of BF16 that leaves an infinity and a NaN undecided. -/
def twoRec : Obj := record [(0, 1 + 16 * 2 ^ 8 + 2 * 2 ^ 16 + 6 * 2 ^ 20 + 6 * 2 ^ 26), (1, 0x050403020100), (11, 0x2000)]
def twoPlanes : State := { withObj (vst [0, 0, 100, 63]) 100 twoRec with mem := [(0x203F, 0x7C)] }
def view2 : View := { key := 100, o := twoRec }

theorem field_of {s : State} {a : Word} {r : Right} {key : Nat} {f : View} (o : Obj)
    (h0 : key = objKey s.me.job.toNat (wbits a 0 16)) (h1 : answers (useHandle s.me.job.toNat (wbits a 0 16) 1 r a s) = true)
    (h2 : fin (useHandle s.me.job.toNat (wbits a 0 16) 1 r a s) = s) (h3 : s.fieldOff s.me.job.toNat (coreDie s.me.core) = false)
    (h4 : f = s.viewOn (coreDie s.me.core) none key) : Claims.field s a r key f := by
  have e := ok_eq o h1
  rw [h2] at e
  exact ⟨h0, ⟨_, e⟩, h3, h4⟩

theorem witness_FieldResult :
    (fields.calm ∧ fields.me.guarded 0 = true ∧ (Reg.m 1).plain = true ∧ (Reg.m 2).plain = true ∧ (Reg.m 3).plain = true ∧
      Claims.planesFit view0.o ((0 : Fin 4).val + 1) false ∧
      (fields.me.src (.m 3)).toNat < 2 ^ view0.o.bitsN ∧ view0.o.isPad (fields.me.src (.m 3)).toNat = false ∧
      (∃ hs s1, Claims.field fields (fields.me.src (.m 2)) .read 100 view0 ∧
        checkElem rR view0 (view0.o.uses 1 false) (fields.me.src (.m 3)).toNat (fields.issue 4) = .ok (hs, s1) ∧
        Claims.here fields hs ∧ Claims.clear fields hs ∧
        view0.o.undecided 1 (view0.o.uses 1 false) ((Claims.cells fields hs).map fields.see) = false) ∧
      (∃ hs s1, Claims.field fields (fields.me.src (.m 2)) .write 100 view0 ∧ isQ4 view0.o.fmt = false ∧ fields.mem.wf = true ∧
        fields.me.stores = [] ∧ Claims.logRoom fields 2 ∧
        checkElem rW view0 1 (fields.me.src (.m 3)).toNat (fields.issue 4) = .ok (hs, s1) ∧ Claims.here fields hs ∧
        Claims.clear fields hs ∧ Claims.unlocked fields hs)) ∧
    (∃ hs s1 hs' s2, twoPlanes.calm ∧ twoPlanes.me.guarded 0 = true ∧ Claims.planesFit view2.o ((0 : Fin 4).val + 1) false ∧
      (twoPlanes.me.src (.m 3)).toNat < 2 ^ view2.o.bitsN ∧ view2.o.isPad (twoPlanes.me.src (.m 3)).toNat = false ∧
      Claims.field twoPlanes (twoPlanes.me.src (.m 2)) .read 100 view2 ∧
      checkElem rR view2 (view2.o.uses 1 false) (twoPlanes.me.src (.m 3)).toNat (twoPlanes.issue 4) = .ok (hs, s1) ∧
      Claims.here twoPlanes hs ∧ Claims.clear twoPlanes hs ∧
      view2.o.undecided 1 (view2.o.uses 1 false) ((Claims.cells twoPlanes hs).map twoPlanes.see) = true ∧
      checkElem rR view2 view2.o.planes (twoPlanes.me.src (.m 3)).toNat (s1.counted hs) = .ok (hs', s2) ∧
      Claims.here twoPlanes hs') ∧
    (fields.calm ∧ Claims.compute fields ∧
      lineIndices view0.o (fields.me.src (.m 3)) (fields.issue 4) = .ok ([63], fields.issue 4) ∧
      (∃ s1 hss, Claims.here fields (lanesHits hss) ∧ Claims.clear fields (lanesHits hss) ∧ wideFmt view0.o.fmt = false ∧
        checkLanes rR view0 (view0.o.uses 1 false) [63] (fields.issue 4) = .ok (hss, s1) ∧
        (∀ hs, some hs ∈ hss → view0.o.undecided 1 (view0.o.uses 1 false) ((Claims.cells fields hs).map fields.see) = false)) ∧
      (∃ s1 hs, Claims.here fields (lanesHits [some hs]) ∧ Claims.clear fields (lanesHits [some hs]) ∧
        Claims.field fields (fields.me.src (.m 2)) .write 100 view0 ∧ Claims.logRoom fields 128 ∧
        Claims.unlocked fields (lanesHits [some hs]) ∧
        (∀ k ∈ Claims.cells fields (lanesHits [some hs]), ¬ Claims.inLog fields k) ∧
        checkLanes rW view0 1 [63] (fields.issue 4) = .ok ([some hs], s1) ∧
        Claims.optimise (.pema (.m 2) (.m 3) 7 0) = some (2, .m 2, .m 3, 7) ∧ optFmt view0.o.fmt = true ∧ view0.o.planes = 1)) := by
  let c := fun r => checkElem r view0 1 63 (fields.issue 4)
  let d := fun r => checkLanes r view0 1 [63] (fields.issue 4)
  let e := checkElem rR view2 (view2.o.uses 1 false) 63 (twoPlanes.issue 4)
  let f := checkElem rR view2 view2.o.planes 63 ((fin e).counted (val e []))
  refine ⟨⟨?_, ?_, ?_, ?_, ?_, ?_, ?_, ?_,
      ⟨val (c rR) [], fin (c rR), field_of fieldRec ?_ ?_ ?_ ?_ ?_, ok_at ?_ ?_ ?_, here_of ?_ ?_, clear_of ?_, ?_⟩,
      ⟨val (c rW) [], fin (c rW), field_of fieldRec ?_ ?_ ?_ ?_ ?_, ?_, ?_, ?_, logRoom_of ?_, ok_at ?_ ?_ ?_, here_of ?_ ?_, clear_of ?_,
        unlocked_of ?_⟩⟩,
    ⟨val e [], fin e, val f [], fin f, ?_, ?_, ?_, ?_, ?_, field_of twoRec ?_ ?_ ?_ ?_ ?_, ok_eq [] ?_, here_of ?_ ?_, clear_of ?_, ?_,
      ok_eq [] ?_, here_of ?_ ?_⟩,
    ⟨?_, ?_, ok_at ?_ ?_ ?_,
      ⟨fin (d rR), [some (val (c rR) [])], here_of ?_ ?_, clear_of ?_, ?_, ok_at ?_ ?_ ?_, ?und⟩,
      ⟨fin (d rW), val (c rW) [], here_of ?_ ?_, clear_of ?_, field_of fieldRec ?_ ?_ ?_ ?_ ?_, logRoom_of ?_, unlocked_of ?_, ?log,
        ok_at ?_ ?_ ?_, ?_, ?_, ?_⟩⟩⟩
  case log =>
    intro k hk
    have e : ∀ k ∈ Claims.cells fields (lanesHits [some (val (c rW) [])]), k < 0x10000 := by decide +kernel
    exact notInLog_of (c := 0x23) (by decide +kernel) (Or.inl (Nat.lt_of_lt_of_le (e k hk) (by decide +kernel)))
  case und =>
    intro hs h
    rw [List.mem_singleton, Option.some.injEq] at h
    rw [h]
    decide +kernel
  all_goals first | decide +kernel | (unfold Claims.compute; decide +kernel) | (unfold Claims.planesFit; decide +kernel)

/-- A word at 0x2000 that holds 7, its address in m2; m3 holds 7, m4 holds 15. -/
def word7 : State := { vst [0, 0, 0x2000, 7, 15] with mem := [(0x2000, 7)] }

theorem handle_of {s : State} {a : Word} {kind : Nat} {r : Right} {key : Nat} {o : Obj}
    (h0 : key = objKey s.me.job.toNat (wbits a 0 16)) (h1 : o = s.objAt key)
    (h2 : answers (useHandle s.me.job.toNat (wbits a 0 16) kind r a s) = true)
    (h3 : val (useHandle s.me.job.toNat (wbits a 0 16) kind r a s) o = o) : Claims.handle s a kind r key o :=
  ⟨h0, h1, _, ok_at h2 h3 rfl⟩

theorem word7_at (r : Nat) (s : State) (h : answers (counterHits r 0x2000 s) = true)
    (h1 : (val (counterHits r 0x2000 s) (.v 0, [])).2.all Hit.isCell = true) (h2 : s.bad = []) :
    Claims.wordAt r 0x2000 s (fin (counterHits r 0x2000 s)) (val (counterHits r 0x2000 s) (.v 0, [])).2 :=
  ⟨⟨_, ok_eq (.v 0, []) h⟩, here_of h1 h2⟩

theorem witness_CounterWriteResult : ∃ s1 hs, word7.calm ∧ word7.me.guarded 0 = true ∧ (Reg.m 2).plain = true ∧
    (Reg.m 3).plain = true ∧ word7.mem.wf = true ∧ word7.me.stores = [] ∧ word7.unacked = false ∧ word7.me.spanErr = none ∧
    Claims.logRoom word7 2 ∧ Claims.wordAt rW (word7.me.src (.m 2)) (word7.issue 4) s1 hs ∧ Claims.clear word7 hs ∧
    Claims.unlocked word7 hs ∧ word7.queuedTo (Claims.cells word7 hs) = false := by
  refine ⟨_, _, ?_, ?_, ?_, ?_, ?_, ?_, ?_, ?_, logRoom_of ?_, word7_at _ _ ?_ ?_ ?_, clear_of ?_, unlocked_of ?_, ?_⟩ <;>
    decide +kernel

/-- The promise in m5 has come, the one in m6 has not. -/
def promises : State := { word7 with me := { word7.me with frames := (word7.me.frames.set 5 1000).set 6 1001 } }

theorem witness_WaitResult :
    (∃ s1 hs, word7.calm ∧ word7.me.guarded 0 = true ∧ (Reg.m 1).plain = true ∧
      Claims.wordAt rR (word7.me.src (.m 2)) (word7.issue 4) s1 hs ∧
      decide ((word7.me.src (.m 3)).toNat ≤ (Claims.wordVal word7 hs).toNat) = true ∧
      (Claims.wordVal word7 hs &&& word7.me.src (.m 4) == word7.me.src (.m 4)) = false) ∧
    ((armed word7 1000).me.armed = some 1000 ∧ (1000 : Word).toNat ≤ (armed word7 1000).clk.toNat ∧
      (∀ x, (armed word7 1001).me.armed = some x → (armed word7 1001).clk.toNat < x.toNat)) ∧
    ((promises.me.src (.m 5)).toNat ≤ promises.clk.toNat ∧ promises.clk.toNat < (promises.me.src (.m 6)).toNat) ∧
    (∃ s1 s2 h1 hs, promises.calm ∧ promises.me.guarded 0 = true ∧
      Claims.wordAt rR (promises.me.src (.m 2)) (promises.issue 4) s1 h1 ∧
      Claims.wordAt rR (promises.me.src (.m 2)) s1 s2 hs ∧
      Claims.wordVal promises hs &&& promises.me.src (.m 3) = promises.me.src (.m 3) ∧
      Claims.wordVal promises hs &&& promises.me.src (.m 4) ≠ promises.me.src (.m 4)) ∧
    (∃ p, (pend1 s0 [.o 5] [0] (.time 1000)).me.pend = [p] ∧ p.src = .time 1000 ∧ (1000 : Word).toNat ≤ s0.clk.toNat ∧
      Claims.owesO p 5) ∧
    (∃ p s1 hs, (pend1 word7 [] [] (.promise 1000 0x2000 7)).me.pend = [p] ∧ p.src = .promise 1000 0x2000 7 ∧
      (pend1 word7 [] [] (.promise 1000 0x2000 7)).me.stores = [] ∧
      Claims.wordAt rR 0x2000 { pend1 word7 [] [] (.promise 1000 0x2000 7) with
        me := { (pend1 word7 [] [] (.promise 1000 0x2000 7)).me with pend := [] } } s1 hs ∧
      Claims.wordVal word7 hs &&& 7 = 7 ∧ Claims.wordVal word7 hs &&& 8 ≠ 8) ∧
    (∃ p, (pend1 (armed s0 1000) [.m 1] [0] (.word 0x2000 9 true (some 1000))).me.pend = [p] ∧
      p.src = .word 0x2000 9 true (some 1000)) := by
  refine ⟨⟨_, _, ?_, ?_, ?_, word7_at _ _ ?_ ?_ ?_, ?_, ?_⟩, ⟨?_, ?_, ?later⟩, ?_,
    ⟨_, _, _, _, ?_, ?_, word7_at _ _ ?_ ?_ ?_, word7_at _ _ ?_ ?_ ?_, ?_, ?_⟩, ⟨_, rfl, rfl, ?_, ⟨rfl, rfl⟩⟩,
    ⟨_, _, _, rfl, rfl, ?_, word7_at _ _ ?_ ?_ ?_, ?_, ?_⟩, ⟨_, rfl, rfl⟩⟩
  case later =>
    intro x h
    cases h
    decide +kernel
  all_goals decide +kernel

/-- A row group of cores 0 and 3 of cluster 1, its handle in m2; m3 is 1 to configure, m0 is 0 to release. -/
def groupRec : Obj := record [(0, 10 + 1 * 2 ^ 13), (1, 2 ^ 16 + 2 ^ 19)]
def groups0 : State := withObj (st [0, 0, 100, 1]) 100 groupRec
/-- The group configured, core 0 having arrived in the current phase. -/
def bar0 : Barrier :=
  { die := 0, form := 0, group := 1, job := 0, h := 100, members := 2 ^ 16 + 2 ^ 19, sense := false, cur := 2 ^ 16, nxt := 0
    waitCur := [(0x200, 16)], waitNxt := [], held := [], releasing := [] }
def arriving0 : State :=
  { pend1 groups0 [.m 1] [0] (.barrier 0 100 none) with arg := { job := 0, h := 100 }, barriers := [bar0] }
def releasing0 : State := { arriving0 with barriers := [{ bar0 with releasing := [0x232] }] }

theorem witness_BarrierResult :
    (∃ s : State, s = sup groups0 ∧ s.calm ∧ 1 ≤ s.me.plv.toNat ∧ (Reg.m 2).plain = true ∧ (Reg.m 3).plain = true ∧
      Claims.handle s (s.me.src (.m 2)) 10 .admin 100 groupRec ∧ (s.me.src (.m 3)).getLsbD 0 = true ∧
      barRecordOk groupRec = true ∧ s.barriers = [] ∧ (s.me.src (.m 0)).getLsbD 0 = false) ∧
    (∃ (s : State) (v : Strand) (p : Pending), s = { sup groups0 with barriers := [{ bar0 with waitCur := [(0x233, 16)] }], others := [v] } ∧
      v = { strand0 [] with sid := 0x233, slot := 3, pend := [p] } ∧ p = owed1 [.m 1] [0] (.barrier 0 100 none) ∧
      Claims.handle s (s.me.src (.m 2)) 10 .admin 100 groupRec ∧ (s.me.src (.m 0)).getLsbD 0 = false ∧
      s.barrier? (100 / 65536) (100 % 65536) = some { bar0 with waitCur := [(0x233, 16)] } ∧ s.strand? 0x233 = some v) ∧
    (∃ (s : State) (x : Barrier), s = { groups0 with barriers := [bar0] } ∧ x = bar0 ∧ s.calm ∧ s.me.guarded 0 = true ∧
      s.me.stores = [] ∧ Claims.handle s (s.me.src (.m 2)) 10 .call 100 groupRec ∧
      s.barrier? (100 / 65536) (100 % 65536) = some x ∧ coreDie s.me.core = x.die ∧ coreNo s.me.core < 16 ∧
      nbit x.members (barBit s.me.core) = true) ∧
    (∃ p, arriving0.barrier? arriving0.arg.job arriving0.arg.h = some bar0 ∧ arriving0.me.pend = [p] ∧
      p.src = .barrier arriving0.arg.job arriving0.arg.h none ∧ nbit bar0.cur (barBit arriving0.me.homeCore) = false ∧
      bar0.held = [] ∧ bar0.releasing = [] ∧ (bar0.nxt &&& bar0.members) ≠ bar0.members ∧
      (setBit bar0.cur (barBit arriving0.me.homeCore) true &&& bar0.members == bar0.members) = true) ∧
    (∃ (s : State) (x : Barrier) (p : Pending), x = { bar0 with cur := 0, waitCur := [] } ∧
      s = { pend1 groups0 [.m 1] [0] (.barrier 0 100 (some 1000)) with arg := { job := 0, h := 100 }, barriers := [x] } ∧
      s.barrier? s.arg.job s.arg.h = some x ∧ s.me.pend = [p] ∧ p.src = .barrier s.arg.job s.arg.h (some 1000) ∧
      (setBit x.cur (barBit s.me.homeCore) true &&& x.members == x.members) = false ∧ (1000 : Word).toNat ≤ s.clk.toNat) ∧
    (∃ p x, releasing0.barrier? releasing0.arg.job releasing0.arg.h = some x ∧ x.releasing = [releasing0.me.sid.toNat % 65536] ∧
      releasing0.strand? 0x232 = some releasing0.me ∧ releasing0.me.pend = [p] ∧
      p.src = .barrier releasing0.arg.job releasing0.arg.h none) := by
  refine ⟨⟨_, rfl, ?_, ?_, ?_, ?_, handle_of ?_ ?_ ?_ ?_, ?_, ?_, ?_, ?_⟩,
    ⟨_, _, _, rfl, rfl, rfl, handle_of ?_ ?_ ?_ ?_, ?_, ?_, ?_⟩,
    ⟨_, _, rfl, rfl, ?_, ?_, ?_, handle_of ?_ ?_ ?_ ?_, ?_, ?_, ?_, ?_⟩,
    ⟨_, ?_, rfl, rfl, ?_, ?_, ?_, ?_, ?_⟩, ⟨_, _, _, rfl, rfl, ?_, rfl, rfl, ?_, ?_⟩,
    ⟨_, { bar0 with releasing := [0x232] }, ?_, ?_, ?_, rfl, rfl⟩⟩ <;> decide +kernel

/-- A second strand, in slot 3 of the same core, with n entries in its receive queue. -/
def other (n : Nat) : Strand := { strand0 [] with sid := 0x233, slot := 3, q := List.replicate n msg0 }
def with2 (s : State) (n : Nat) : State := { s with others := [other n] }
/-- Addressed in m2: slot 3, an idle slot in m3. -/
def talk : State := with2 (st [0, 0, 0x233, 0x234]) 0
def held (n : Nat) (dst : Nat) : State := { with2 s0 n with queues := { s0.queues with hw := [{ dst, msg := msg0 }] } }
def sending (n : Nat) (offer : Option Nat) : State := pend1 (with2 s0 n) [.m 1] [0] (.send 0x233 msg0 0 0 offer)
/-- An offer of device 1 for a slot. -/
def offers1 (n dst : Nat) : State := { with2 s0 n with arg := { dev := 1, n := dst, flag := true, ws := [0x232] } }

theorem witness_SendResult :
    (talk.calm ∧ talk.me.guarded 0 = true ∧ (Reg.m 1).plain = true ∧ (Reg.m 2).plain = true ∧ (Reg.m 3).plain = true ∧
      talk.me.stores = [] ∧ 0x233 = (talk.me.src (.m 2)).toNat % 2 ^ 32 ∧ 0x233 / 65536 = talk.devNo ∧
      talk.noStrand 0x234 = true ∧ 0x234 = (talk.me.src (.m 3)).toNat % 2 ^ 32 ∧ talk.noStrand 0x233 = false ∧
      talk.foreign 0x233 talk.me.job.toNat = false ∧
      ({ talk with me := { talk.me with job := 5 } } : State).foreign 0x233 5 = true) ∧
    (∃ p, (sending 7 none).arg.flag = false ∧ (sending 7 none).me.pend = [p] ∧ p.src = .send 0x233 msg0 0 (sending 7 none).arg.n none ∧
      (sending 7 none).clk.toNat < (0 : Word).toNat + 65536 ∧ (sending 7 none).isHere 0x233 = true ∧
      (sending 7 none).strand? 0x233 = some (other 7) ∧ (other 7).q.length < 8) ∧
    (∃ p, (sending 8 (some 0)).arg.flag = false ∧ (sending 8 (some 0)).me.pend = [p] ∧
      p.src = .send 0x233 msg0 0 (sending 8 (some 0)).arg.n (some 0) ∧ (sending 8 (some 0)).arg.kind ≠ 1 ∧
      (sending 8 (some 0)).clk.toNat < (0 : Word).toNat + 65536) ∧
    (∃ (s : State) (p : Pending), s = { sending 8 (some 0) with arg := { kind := 1 } } ∧ s.arg.kind = 1 ∧ s.me.pend = [p] ∧
      p.src = .send 0x233 msg0 0 s.arg.n (some 0)) ∧
    (∃ (p : Pending) (s : State), s = { sending 8 none with clk := 65536 } ∧ s.me.pend = [p] ∧ p.src = .send 0x233 msg0 0 0 none ∧
      (0 : Word).toNat + 65536 ≤ s.clk.toNat) ∧
    ((offers1 7 0x234).arg.flag = true ∧ (offers1 7 0x234).noStrand 0x234 = true ∧ (offers1 7 0x233).noStrand 0x233 = false ∧
      (offers1 7 0x233).foreign 0x233 5 = true ∧ (offers1 7 0x233).foreign 0x233 (offers1 7 0x233).arg.job = false ∧
      (offers1 7 0x233).strand? 0x233 = some (other 7)) ∧
    ((held 0 0x234).queues.hw = [{ dst := 0x234, msg := msg0 }] ∧ (held 0 0x234).isHere 0x234 = true ∧
      (held 0 0x234).noStrand 0x234 = true ∧ (held 7 0x233).isHere 0x233 = true ∧ (held 7 0x233).noStrand 0x233 = false ∧
      (held 7 0x233).strand? 0x233 = some (other 7) ∧ (other 7).q.length < 8 ∧
      (held 8 0x233).strand? 0x233 = some (other 8) ∧ 8 ≤ (other 8).q.length) := by
  refine ⟨?_, ⟨_, rfl, rfl, rfl, ?_⟩, ⟨_, rfl, rfl, rfl, ?_⟩, ⟨_, _, rfl, rfl, rfl, rfl⟩, ⟨_, _, rfl, rfl, rfl, ?_⟩, ?_, ?_⟩ <;>
    decide +kernel

/-- A record that waits for cluster 1. -/
def rec0 : Rec where
  job := 0
  pc := 0x500
  pw := 1
  lrec := 0
  prio := 3
  o := Vector.replicate 6 9
  tix := 4
  wake := 0
  spawned := false
  t1 := 0
  t2 := 0
  since := 0
  made := false
def waiting : State := { s0 with queues := { s0.queues with task := [(1, rec0)] } }
/-- m2 is the kind of SUSP, m3 its word or time, e0 the target 8. -/
def suspends (kind b : Word) : State :=
  let s := { vst [0, 0, kind, b] with mem := [(0x2000, 7)] }
  { s with me := { s.me with e := s.me.e.set 0 8 } }

theorem witness_TaskEndResult :
    (s0.calm ∧ s0.me.t = Vector.replicate 4 none ∧ s0.me.stores = [] ∧ s0.unacked = false ∧ s0.me.resv = none ∧
      s0.me.q = [] ∧ s0.me.wdep = 0 ∧ s0.waitsFor (clusterOf s0.me.homeCore) = false ∧ s0.me.launch? = none ∧
      ({ s0 with me := { s0.me with lrec := 100 } } : State).me.launch? = some 100 ∧ (mail s0).me.q ≠ []) ∧
    (waiting.calm ∧ waiting.me.stores = [] ∧ waiting.unacked = false ∧ waiting.me.wdep = 0 ∧
      waiting.me.t = Vector.replicate 4 none ∧ waiting.me.q = [] ∧ waiting.waitsFor (clusterOf waiting.me.homeCore) = true ∧
      waiting.taskRoom (clusterOf waiting.me.homeCore) = true ∧ waiting.me.resv = none) ∧
    ((suspends 4 0).calm ∧ (suspends 4 0).me.guarded 0 = true ∧ (Reg.m 2).plain = true ∧ (Reg.m 3).plain = true ∧
      (suspends 4 0).me.wdep = 0 ∧ (suspends 4 0).me.t = Vector.replicate 4 none ∧ (suspends 4 0).me.resv = none ∧
      ((suspends 4 0).me.src (.m 2)).toNat % 4 = 0 ∧ (mail (suspends 4 0)).me.q ≠ [] ∧ (suspends 4 0).me.q = []) ∧
    (((suspends 2 1000).me.src (.m 2)).toNat % 4 = 2 ∧ (suspends 2 1000).me.q = [] ∧
      ((suspends 2 1000).me.src (.m 3)).toNat ≤ (suspends 2 1000).clk.toNat ∧
      (suspends 2 1001).clk.toNat < ((suspends 2 1001).me.src (.m 3)).toNat ∧ (suspends 2 1001).me.stores = [] ∧
      (suspends 2 1001).unacked = false ∧
      ((suspends 2 1001).queues.waits.filter fun e => e.1 == clusterOf (suspends 2 1001).me.homeCore).length < 256) ∧
    (∃ s s1 hs, s = suspends 1 0x2000 ∧ (s.me.src (.m 2)).toNat % 4 = 1 ∧ s.me.q = [] ∧ (s.me.src (.m 3)).toNat / 2 ^ 56 = 0 ∧
      (s.me.src (.m 3)).toNat % 8 = 0 ∧ check rR (.v (s.me.src (.m 3)).toNat) 8 (s.issue 4) = .ok (hs, s1) ∧ Claims.here s hs ∧
      (Claims.wordVal s hs).toNat < s.me.e[0].toNat ∧ s.me.stores = [] ∧ s.unacked = false ∧
      (s.queues.waits.filter fun e => e.1 == clusterOf s.me.homeCore).length < 256) ∧
    (∃ s s1 hs, s = { suspends 1 0x2000 with mem := [(0x2000, 8)] } ∧ (s.me.src (.m 2)).toNat % 4 = 1 ∧ s.me.q = [] ∧
      (s.me.src (.m 3)).toNat / 2 ^ 56 = 0 ∧ (s.me.src (.m 3)).toNat % 8 = 0 ∧
      check rR (.v (s.me.src (.m 3)).toNat) 8 (s.issue 4) = .ok (hs, s1) ∧ Claims.here s hs ∧
      s.me.e[0].toNat ≤ (Claims.wordVal s hs).toNat) := by
  refine ⟨?_, ?_, ?_, ?_, ⟨_, _, _, rfl, ?_, ?_, ?_, ?_, ok_eq [] ?_, here_of ?_ ?_, ?_⟩,
    ⟨_, _, _, rfl, ?_, ?_, ?_, ?_, ok_eq [] ?_, here_of ?_ ?_, ?_⟩⟩ <;> decide +kernel

/-- A strand of launch 100, of one task, whose image stands on every cluster; m2 a pc, m3 an address or level. -/
def launchRec (state : Nat) : Obj :=
  record [(0, 2 + state * 2 ^ 10 + 200 * 2 ^ 16), (6, 2 ^ 64 - 1), (7, 2 ^ 64 - 1), (9, 1)]
def launched (state : Nat) (b : Word) : State :=
  let s := withObj (vst [0, 0, 0x500, b]) 100 (launchRec state)
  { withObj s 200 (record [(0, 11 + 1 * 2 ^ 8), (2, 2 ^ 30 + 3 * 2 ^ 48)]) with me := { s.me with lrec := 100 } }

theorem witness_SpawnResult :
    ((launched 3 0).calm ∧ (launched 3 0).me.guarded 0 = true ∧ (Reg.m 1).plain = true ∧ (Reg.m 2).plain = true ∧
      (Reg.m 3).plain = true ∧ (launched 3 0).me.launch? = some 100 ∧ ((launched 3 0).me.src (.m 2)).getLsbD 0 = false ∧
      ((launched 3 0).me.src (.m 3)).toNat / 8 % 2 ^ 29 = 0 ∧ (launched 3 0).cancelling 100 = false ∧
      ((launched 3 0).me.src (.m 3)).getLsbD 2 = false ∧ (launched 3 0).queueRoom (clusterOf (launched 3 0).me.homeCore) = true) ∧
    (((launched 3 4).me.src (.m 3)).toNat / 8 % 2 ^ 29 = 0 ∧ ((launched 3 4).me.src (.m 3)).getLsbD 2 = true ∧
      (launched 3 4).cancelling 100 = false ∧ (launched 3 4).queueRoom (1024 + coreDie (launched 3 4).me.homeCore) = true) ∧
    ((launched 4 0).calm ∧ (launched 4 0).me.launch? = some 100 ∧ ((launched 4 0).me.src (.m 3)).toNat / 8 % 2 ^ 29 = 0 ∧
      (launched 4 0).cancelling 100 = true) ∧
    (∃ s s1 h, s = launched 3 0x300 ∧ (s.me.src (.m 3)).toNat / 2 ^ 56 = 0 ∧
      check rR (.v (s.me.src (.m 3)).toNat) 1 (s.issue 4) = .ok ([h], s1) ∧ h.loc = .cell 0x300 ∧
      s.imageCore (s.spawnCore 0x300) = true ∧ s.cancelling 100 = false ∧ s.runRoom (s.spawnCore 0x300) = true) ∧
    (∃ s s1 h, s = launched 4 0x300 ∧ (s.me.src (.m 3)).toNat / 2 ^ 56 = 0 ∧
      check rR (.v (s.me.src (.m 3)).toNat) 1 (s.issue 4) = .ok ([h], s1) ∧ h.loc = .cell 0x300 ∧
      s.imageCore (s.spawnCore 0x300) = true ∧ s.cancelling 100 = true) := by
  let c := fun n => check rR (.v 0x300) 1 ((launched n 0x300).issue 4)
  let h0 : Hit := ⟨.cell 0x300, 0xFFFF000000000063⟩
  refine ⟨?_, ?_, ?_, ⟨_, fin (c 3), h0, rfl, ?_, ok_at ?_ ?_ ?_, ?_⟩, ⟨_, fin (c 4), h0, rfl, ?_, ok_at ?_ ?_ ?_, ?_⟩⟩ <;> decide +kernel

/-- On its way to core 5 of cluster 0, or home. -/
def moving (n : Nat) : State := { s0 with me := { s0.me with status := .transit 5 n, core := 7 } }

theorem witness_MigrationResult :
    (∃ s1 h, near.calm ∧ near.me.guarded 0 = true ∧ (Reg.m 1).plain = true ∧ (Reg.m 2).plain = true ∧
      (near.me.src (.m 2)).toNat / 2 ^ 56 = 0 ∧
      check rR (.v (near.me.src (.m 2)).toNat) 1 (near.issue 4) = .ok ([h], s1) ∧ h.loc = .cell 0x300 ∧
      near.imageCore (near.home 0x300) = true ∧ near.home 0x300 = near.me.core) ∧
    (∃ s1 h, check rR (.v (at2000.me.src (.m 2)).toNat) 1 (at2000.issue 4) = .ok ([h], s1) ∧ h.loc = .cell 0x2000 ∧
      at2000.imageCore (at2000.home 0x2000) = true ∧ at2000.home 0x2000 ≠ at2000.me.core) ∧
    (s0.calm ∧ s0.me.guarded 0 = true) ∧
    ((moving 5).me.stay = false ∧ (moving 5).me.pend = [] ∧ (moving 5).me.core ≠ (moving 5).me.homeCore ∧
      (moving 5).me.guarded 0 = true) ∧
    ((moving 5).arg.flag = false ∧ (moving 5).me.status = .transit 5 5 ∧ (moving 5).me.doom = none ∧
      (moving 0).me.status = .transit 5 0 ∧ (moving 0).me.doom = none ∧ (moving 0).runRoom 5 = true) ∧
    (∃ s : State, s = { moving 0 with me := { (moving 0).me with doom := some { how := .canc, kind := 0, o := Vector.replicate 4 0 } } } ∧
      s.arg.flag = false ∧ s.me.status = .transit 5 0 ∧ s.me.doom.isSome = true) := by
  refine ⟨⟨fin (check rR (.v 0x300) 1 (near.issue 4)), ⟨.cell 0x300, 0xFFFF000000000063⟩, ?_, ?_, ?_, ?_, ?_, ok_at ?_ ?_ ?_, ?_,
    ?_, ?_⟩, ⟨fin (check rR (.v 0x2000) 1 (at2000.issue 4)), ⟨.cell 0x2000, 0xFFFF000000000063⟩, ok_at ?_ ?_ ?_, ?_, ?_, ?_⟩,
    ?_, ?_, ?_, ⟨_, rfl, ?_⟩⟩ <;> decide +kernel

/-- A run entry for core 0x25; a record that has waited 1,025 cycles; a wait for time 1000. -/
def fills : State := { s0 with arg := { core := 0x25 }, queues := { s0.queues with run := [(0x25, .spawn rec0)] } }
def fillsTask : State := { s0 with arg := { core := 0x25 }, queues := { s0.queues with task := [(1, rec0)] } }
def aged : State := { s0 with clk := 1025, queues := { s0.queues with task := [(1, { rec0 with prio := 2 })] } }
def timed : State := { s0 with queues := { s0.queues with waits := [(1, { rec0 with wake := 2, t1 := 1000 })] } }

def arrives : State := { moving 0 with arg := { core := 0x25 }, queues := { s0.queues with run := [(0x25, .strand 0x232)] } }

theorem witness_SlotFillResult :
    (fills.serving fills.arg.core = true ∧ fills.queues.run = (fills.arg.core, .spawn rec0) :: [] ∧
      fills.freeSlot fills.arg.core = some 0 ∧ fills.me.sid.toNat % 65536 ≠ (fills.sidOf fills.arg.core 0).toNat % 65536) ∧
    (arrives.serving arrives.arg.core = true ∧ arrives.freeSlot arrives.arg.core = some 0 ∧
      arrives.queues.run = (arrives.arg.core, .strand (arrives.me.sid.toNat % 65536)) :: [] ∧ arrives.me.pend = []) ∧
    (fillsTask.serving fillsTask.arg.core = true ∧ fillsTask.queues.run = [] ∧ fillsTask.queues.die = [] ∧
      fillsTask.queues.ring = [] ∧ fillsTask.queues.task = (clusterOf fillsTask.arg.core, rec0) :: [] ∧ rec0.prio = 3 ∧
      fillsTask.roomiest (clusterOf fillsTask.arg.core) = some 0x20 ∧ fillsTask.freeSlot 0x20 = some 0 ∧
      fillsTask.me.sid.toNat % 65536 ≠ (fillsTask.sidOf 0x20 0).toNat % 65536) ∧
    (aged.queues.task = (1, { rec0 with prio := 2 }) :: [] ∧ (2 : BitVec 2).toNat < 3 ∧ rec0.since.toNat + 1024 < aged.clk.toNat) ∧
    (timed.queues.waits = (1, { rec0 with wake := 2, t1 := 1000 }) :: [] ∧ (1000 : Word).toNat ≤ timed.clk.toNat ∧
      timed.taskRoom 1 = true) := by decide +kernel

/-- OPGEN of one slot with id 1, its word in m2; OPWAIT for id 1 in m3. -/
def genWord : Word := 0x0001000000010005
def generates : State := st [0, 0, genWord, 1]
def cmd0 : Cmd where
  cl := 1
  id := 1
  op := 7
  a := genWord
  b := 0
  c := 0
  e := Vector.replicate 8 0
  acc := false
  sat := false
  nomap := false
  la := 15
  sid := 0x232
  job := 0
  launch := none
  die := 0
  seq := 0
  preds := []
  remaps := []
  promise := 0
  tags := []
  st := 0
  done := 0
  puts := []
  status := 0
def flying (s : State) (c : Cmd) : State := { s with engines := { s.engines with cmds := [c] } }

theorem releasable_of {s : State} {far : Bool} (h : s.me.stores = []) (h1 : s.unacked = false) (h2 : s.me.spanErr = none) :
    Claims.releasable s far := ⟨h, fun _ => ⟨h1, h2⟩⟩

/-- Another strand stands before the sequencer. -/
def crowded : State :=
  { generates with engines := { generates.engines with offers := [{ cl := 1, sid := 0x233, pc := 0x400, ins := .opgen (.m 2) 15 }] } }

theorem witness_OperatorAccepted :
    (∃ p, Claims.operatorCmd generates (.opgen (.m 2) 15) = some (15, [.m 2, .z, .z], cmd0) ∧ generates.calm ∧
      Claims.engineCore generates ∧ [Reg.m 2, .z, .z].all Reg.plain = true ∧
      Claims.releasable generates (cmd0.fields.any generates.farField) ∧ Claims.presentable (generates.issue 4) cmd0 p ∧
      generates.canAccept cmd0 = true ∧ (generates.engines.offers.any fun x => x.cl == cmd0.cl) = false) ∧
    (Claims.operatorCmd crowded (.opgen (.m 2) 15) = some (15, [.m 2, .z, .z], cmd0) ∧ crowded.calm ∧
      Claims.engineCore crowded ∧ Claims.releasable crowded (cmd0.fields.any crowded.farField) ∧
      (crowded.engines.offers.any fun x => x.cl == cmd0.cl) = true) ∧
    (∃ s, s = flying generates cmd0 ∧ s.canAccept cmd0 = false) ∧
    ((Reg.m 3).plain = true ∧ (generates.engines.offers.any fun x => x.cl == clusterOf generates.me.homeCore) = false ∧
      (((flying generates cmd0).inFlight (clusterOf generates.me.homeCore)).find? fun c =>
        c.id == wbits (generates.me.src (.m 3)) 0 8) = some cmd0 ∧
      ((generates.inFlight (clusterOf generates.me.homeCore)).find? fun c =>
        c.id == wbits (generates.me.src (.m 3)) 0 8) = none) := by
  refine ⟨⟨{ tslot := 1, writes := some (0, 1) }, ?_, ?_, ?_, ?_, releasable_of ?_ ?_ ?_,
      ⟨ok_at ?_ ?_ ?_, [], ok_at ?_ ?_ ?_, ?_⟩, ?_, ?_⟩,
    ⟨?_, ?_, ?_, releasable_of ?_ ?_ ?_, ?_⟩, ⟨_, rfl, ?_⟩, ?_⟩ <;>
    first | decide +kernel | (unfold Claims.engineCore; decide +kernel)

def offer0 : Offer := { cl := 1, sid := 0x232, pc := 0x400, ins := .opgen (.m 2) 15 }
def offered : State := { generates with arg := { cl := 1 }, engines := { generates.engines with offers := [offer0] } }
def running (c : Cmd) (src : Owe) (lands : List Nat) : State := flying (pend1 s0 [] lands src) c
/-- The same command computing, and REDB of the field at 100 with one element of Y to write. -/
def cmd1 : Cmd := { cmd0 with st := 1 }
def cmdW : Cmd := { cmd0 with op := 4, a := 0x640064, st := 1, puts := [(0, 63, [1, 2, 3, 4])] }
def writing : State := flying fields cmdW
def cmdT : Cmd := { cmd0 with tags := [4] }

theorem witness_OperatorCourse :
    (∃ u p, offered.engines.offers = [offer0] ∧ offer0.cl = offered.arg.cl ∧ offer0.sid = offered.me.sid.toNat ∧
      coreNo (offer0.sid / 16) ≤ 16 ∧ u = { offered with engines := { offered.engines with offers := [] } } ∧
      Claims.operatorCmd u offer0.ins = some (15, [.m 2, .z, .z], cmd0) ∧ offered.calm ∧
      [Reg.m 2, .z, .z].all Reg.plain = true ∧ Claims.releasable offered (cmd0.fields.any offered.farField) ∧
      Claims.presentable (u.issue 4) cmd0 p ∧ u.canAccept cmd0 = true) ∧
    ((flying s0 cmd0).cmd? (flying s0 cmd0).arg.n = some cmd0 ∧ cmd0.seq = (flying s0 cmd0).arg.n ∧ cmd0.st = 0 ∧
      cmd0.ready = true ∧ (((flying s0 cmd0).inFlight cmd0.cl).any fun x => x.ready && decide (x.seq < cmd0.seq)) = false ∧
      tagChanged (flying s0 cmd0) cmd0 = none) ∧
    ((flying s0 cmdT).cmd? 0 = some cmdT ∧ cmdT.st = 0 ∧ cmdT.ready = true ∧
      (((flying s0 cmdT).inFlight cmdT.cl).any fun x => x.ready && decide (x.seq < cmdT.seq)) = false ∧
      tagChanged (flying s0 cmdT) cmdT = some 0) ∧
    (∃ c s, c = { cmd1 with done := 256 } ∧ s = flying s0 c ∧ s.cmd? 0 = some c ∧ c.st = 1 ∧ c.puts = [] ∧ c.units s ≤ c.done) ∧
    (∃ w t1, (flying s0 cmd1).cmd? 0 = some cmd1 ∧ cmd1.st = 1 ∧ cmd1.puts = [] ∧ cmd1.done < cmd1.units (flying s0 cmd1) ∧
      badSlot (flying s0 cmd1) cmd1.cl cmd1.hi cmd1.tags.length = none ∧ (flying s0 cmd1).fieldsReady cmd1 = true ∧
      cmd1.unit cmd1.done (flying s0 cmd1) = .ok (w, t1) ∧ w.err = none) ∧
    (∃ t1, writing.cmd? 0 = some cmdW ∧ cmdW.st = 1 ∧ cmdW.puts ≠ [] ∧ badSlot writing cmdW.cl cmdW.hi cmdW.tags.length = none ∧
      writing.fieldsReady cmdW = true ∧ cmdW.write cmdW.puts none writing = .ok (none, t1)) ∧
    (∃ c p s, c = { cmd0 with st := 2, status := 1 } ∧ s = running c (.command 0) [] ∧ s.cmd? 0 = some c ∧ c.st = 2 ∧
      s.me.pend = [p] ∧ p.src = .command c.seq ∧ p.lands = [] ∧ c.status.toNat % 8 = 1) ∧
    (∃ c p s, c = { cmd0 with st := 2 } ∧ s = running c (.command 0) [0] ∧ s.me.pend = [p] ∧ p.src = .command c.seq ∧
      p.lands ≠ [] ∧ c.status = 0) ∧
    (∃ c x s, c = { cmd0 with st := 2, status := 6 } ∧ x = { cmd0 with seq := 1, preds := [0] } ∧
      s = { running c (.command 0) [] with engines := { s0.engines with cmds := [c, x] } } ∧ s.cmd? 0 = some c ∧
      x ∈ s.engines.cmds ∧ x.seq ≠ c.seq ∧ x.preds.contains c.seq = true ∧ x.st = 0 ∧ c.status.toNat % 8 = 6) ∧
    ((3 : Word).toNat % 8 = 3 ∧ (4 : Word).toNat % 8 = 4 ∧ (5 : Word).toNat % 8 = 5) := by
  refine ⟨⟨_, { tslot := 1, writes := some (0, 1) }, ?_, ?_, ?_, ?_, rfl, ?_, ?_, ?_, releasable_of ?_ ?_ ?_,
      ⟨ok_at ?_ ?_ ?_, [], ok_at ?_ ?_ ?_, ?_⟩, ?_⟩,
    ?_, ?_, ⟨_, _, rfl, rfl, ?_⟩, ⟨val (cmd1.unit 0 (flying s0 cmd1)) {}, fin (cmd1.unit 0 (flying s0 cmd1)), ?_, ?_, ?_, ?_, ?_, ?_,
      ok_eq {} ?_, ?_⟩,
    ⟨fin (cmdW.write cmdW.puts none writing), ?_, ?_, ?_, ?_, ?_, ok_at ?_ ?_ ?_⟩,
    ⟨_, _, _, rfl, rfl, ?_, rfl, rfl, rfl, rfl, ?_⟩, ⟨_, _, _, rfl, rfl, rfl, rfl, ?_, rfl⟩, ⟨_, _, _, rfl, rfl, rfl, ?_⟩, ?_⟩ <;> decide +kernel

/-- XFER of 4 bytes from 0x2000 to 0x3000: COPY, both sides linear, its bitmap in the own store. -/
def copies : State :=
  let s := vst [0, 0, 0, 0x2000, 0x3000]
  { s with me := { s.me with e := (s.me.e.set 0 4).set 1 0xE0000100 } }
def entry0 (failed : List Nat) : Xfer where
  cl := 1
  n := 0
  seq := 0
  a := 0
  b := 0x2000
  c := 0x3000
  e0 := 4
  e1 := 0x100
  sid := 0x232
  job := 0
  launch := none
  die := 0
  remaps := []
  chunks := 1
  done := []
  spoiled := []
  failed := failed
  bytes := 8
  core := 0x23
  map := []
def transfers (s : State) (failed : List Nat) : State := { s with engines := { s.engines with xfers := [entry0 failed] } }

/-- What copies presents to its unit. -/
def xwait0 : XWait := { id := 0, cl := 1, a := 0, b := 0x2000, c := 0x3000, e0 := 4, e1 := 0xE0000100, sid := 0x232 }

theorem witness_XferResult :
    (∃ x y w core n, Claims.isXfer (.xfer (.m 2) (.m 3) (.m 4) 0) (.m 2) (.m 3) (.m 4) 0 ∧ copies.calm ∧
      Claims.engineCore copies ∧ (Reg.m 2).plain = true ∧ (Reg.m 3).plain = true ∧ (Reg.m 4).plain = true ∧ w = xwait0 ∧
      w = { id := copies.engines.next, cl := clusterOf copies.me.homeCore, a := copies.me.src (.m 2), b := copies.me.src (.m 3)
            c := copies.me.src (.m 4), e0 := copies.me.e[0], e1 := copies.me.e[1], sid := copies.me.sid.toNat } ∧
      transform w.a ≤ 4 ∧ w.ends copies = (x, y) ∧
      Claims.releasable copies (x.far copies copies.me.job.toNat w.e0.toNat || y.far copies copies.me.job.toNat w.e0.toNat) ∧
      copies.engines.xwaits = [] ∧ copies.takesXfer w = true ∧
      xferField (xSrc w.a) .read (copies.issue 4) = .ok ((), copies.issue 4) ∧
      xferField (xDst w.a) .write (copies.issue 4) = .ok ((), copies.issue 4) ∧
      (transformOk w.a w.b w.c w.e0 x y && (transform w.a ≤ 1 || (!wide64 x.fmt && !wide64 y.fmt))) = true ∧
      (rangeOk w.e0.toNat x && rangeOk w.e0.toNat y && decide (y.bytesFor w.a w.e0.toNat ≤ 2 ^ 32)) = true ∧
      w.b.toNat / 2 ^ 56 = 0 ∧ w.c.toNat / 2 ^ 56 = 0 ∧
      leaseMiss (copies.issue 4) rR w.e0.toNat x = none ∧ leaseMiss (copies.issue 4) rW w.e0.toNat y = none ∧
      bitmapCore w.e1 (ceilDiv (chunkCount w.a w.e0 y) 8) (copies.issue 4) = .ok (core, copies.issue 4) ∧
      xferSwaps w.a (chunkLen w.a y) x (copies.issue 4) = .ok ([], copies.issue 4) ∧
      xferSwaps w.a (chunkLen w.a y) y (copies.issue 4) = .ok ([], copies.issue 4) ∧
      freeEntry copies w.cl = some n ∧ chunkCount w.a w.e0 y ≠ 0 ∧ chunkCount w.a 0 y = 0) ∧
    (∃ s, s = { copies with engines := { copies.engines with xwaits := [xwait0] } } ∧ s.calm ∧ s.me.stores = [] ∧
      (s.engines.xwaits.any fun v => v.cl == xwait0.cl) = true) ∧
    (∃ s : State, s = { copies with engines := { copies.engines with xfers := (List.range 32).map fun i => { entry0 [] with n := i } } } ∧
      s.takesXfer xwait0 = false) ∧
    (∃ s x, s = sup (transfers (st [0, 0, 0x00F0000000000000]) [0]) ∧ s.calm ∧ s.me.stores = [] ∧ s.me.plv ≠ 0 ∧
      (s.me.src (.m 2)).toNat % 2 ^ 48 = (s.me.src (.m 2)).toNat % 32 ∧ (s.me.src (.m 2)).toNat / 2 ^ 56 = 0 ∧
      s.xfer? 1 ((s.me.src (.m 2)).toNat % 32) = some x ∧ x.failed ≠ [] ∧ x.cl = 1 ∧ x.n = (s.me.src (.m 2)).toNat % 32 ∧
      transform (s.me.src (.m 2)) = 0xF0 ∧ (s.me.src (.m 0)).toNat < x.chunks) ∧
    (∃ s x, s = sup (transfers (st [0, 0, 0x00F1000000000000]) [0]) ∧
      (s.me.src (.m 2)).toNat % 2 ^ 48 = (s.me.src (.m 2)).toNat % 32 ∧ (s.me.src (.m 2)).toNat / 2 ^ 56 = 0 ∧
      s.xfer? 1 ((s.me.src (.m 2)).toNat % 32) = some x ∧ x.failed ≠ [] ∧ transform (s.me.src (.m 2)) = 0xF1) := by
  refine ⟨⟨_, _, _, 0x23, 0, .inl rfl, ?_, ?_, ?_, ?_, ?_, rfl, ?_, ?_, rfl, releasable_of ?_ ?_ ?_, ?_, ?_, ok_at ?_ ?_ ?_, ok_at ?_ ?_ ?_,
      ?_, ?_, ?_, ?_, ?_, ?_, ok_at ?_ ?_ ?_, ok_at ?_ ?_ ?_, ok_at ?_ ?_ ?_, ?_, ?_, ?_⟩,
    ⟨_, rfl, ?_⟩, ⟨_, rfl, ?_⟩, ⟨_, entry0 [0], rfl, ?_⟩, ⟨_, entry0 [0], rfl, ?_⟩⟩ <;>
    first | decide +kernel | (unfold Claims.engineCore; decide +kernel)

/-- CBLD of book 7 from 0x2000. -/
def books : State := vst [0, 0, 7, 0x2000]
def load0 : BookLoad :=
  { id := 0, cl := 1, book := 7, a := 7, b := 0x2000, keys := [0x2000, 0x2001], sid := 0x232, job := 0, detached := false }
def loading : State :=
  let s := pend1 s0 [] [] (.engine 1 1 0)
  { s with engines := { s.engines with loads := [load0] } }
def chunking : State := { transfers (paged s0) [] with arg := { cl := 1 } }
/-- The ends of entry0 and the byte range of its one chunk moved. -/
def ends0 : End × End := endsOf (chunking.viewOn 0 (some 0)) 0 0 0x2000 0x3000
def moved0 (s : State) : Except EngErr (Option EngErr × State) := moveElems 1 0 0 ends0.1 ends0.2 (chunkElems [] 0 4 ends0.2 0) s
/-- XFER of copies waits at its unit; a chunk of entry0 is to be reported. -/
def xwaiting : State := pend1 { copies with engines := { copies.engines with xwaits := [xwait0] } } [] [0] (.engine 1 2 0)
def spoiled0 : Xfer := { entry0 [] with spoiled := [(0, 1, 0x2000, 0x2000)] }

theorem witness_TransferCourse :
    (∃ s1 hs, books.calm ∧ Claims.engineCore books ∧ (Reg.m 2).plain = true ∧ (Reg.m 3).plain = true ∧
      (books.me.src (.m 2)).toNat < 8 ∧
      lineAddr (books.me.src (.m 3)) 0 (books.issue 4) = .ok (.v 0x2000, books.issue 4) ∧ (Addr.v 0x2000).val % 2 = 0 ∧
      check rR (.v 0x2000) 512 (books.issue 4) = .ok (hs, s1) ∧ hs.all Hit.readable = true ∧
      (hs.any fun h => h.away?.isSome) = false ∧ Claims.releasable books false ∧ books.engines.xfers = []) ∧
    (∃ p, loading.engines.loads = [load0] ∧ load0.id = loading.arg.n ∧ loading.me.pend = [p] ∧ p.src = .engine load0.cl 1 load0.id ∧
      (∀ k ∈ load0.keys, loading.badAt k = false)) ∧
    (∃ s : State, s = { loading with bad := [0x100] } ∧ load0.keys.findIdx? s.badAt = some 0 ∧ load0.detached = false) ∧
    (∃ t1 p v, xwait0.sid = xwaiting.me.sid.toNat ∧ xwaiting.me.pend = [p] ∧ p.src = .engine xwait0.cl 2 xwait0.id ∧
      xwaiting.takesXfer xwait0 = true ∧ xferAccept xwait0 xwaiting = .ok (v, t1)) ∧
    (∃ t1, chunking.xfer? chunking.arg.cl chunking.arg.n = some (entry0 []) ∧ (entry0 []).cl = chunking.arg.cl ∧
      (entry0 []).n = chunking.arg.n ∧ chunking.fieldOff 0 0 = false ∧ moved0 chunking = .ok (none, t1) ∧ t1.mem.wf = true) ∧
    (∃ r t1, moved0 { chunking with bad := [0x180] } = .ok (some r, t1)) ∧
    (∃ r, moved0 { chunking with bad := [0x100] } = .error r ∧ r.status ≠ 0) ∧
    (∃ s, s = { chunking with engines := { chunking.engines with xfers := [spoiled0] } } ∧
      s.xfer? s.arg.cl s.arg.n = some spoiled0 ∧ spoiled0.cl = s.arg.cl ∧ spoiled0.n = s.arg.n ∧
      spoiled0.spoiled = (0, 1, 0x2000, 0x2000) :: []) := by
  refine ⟨⟨fin (check rR (.v 0x2000) 512 (books.issue 4)), val (check rR (.v 0x2000) 512 (books.issue 4)) [], ?_, ?_, ?_, ?_, ?_,
      ok_at ?_ ?_ ?_, ?_, ok_eq [] ?_, ?_, ?_, releasable_of ?_ ?_ ?_, ?_⟩,
    ⟨_, rfl, rfl, rfl, rfl, ?_⟩, ⟨_, rfl, ?_⟩, ⟨_, _, _, ?_, rfl, rfl, ?_, ok_eq 0 ?_⟩, ⟨fin (moved0 chunking), ?_, ?_, ?_, ?_, ok_at ?_ ?_ ?_, ?_⟩,
    ⟨{ status := 1, va := 0x3000, pa := 0x3000 }, fin (moved0 { chunking with bad := [0x180] }), ok_at ?_ ?_ ?_⟩,
    ⟨{ status := 1, va := 0x2000, pa := 0x2000 }, error_got ?_, ?_⟩, ⟨_, rfl, ?_⟩⟩ <;>
    first | decide +kernel | (unfold Claims.engineCore; decide +kernel)

def remap0 (done : List Nat) (pass : Nat) (m : Mover) : Remap :=
  { key := 100, ticket := 0, passes := [[1, 0], [0, 1]], started := true, pass, done, area := 0, movers := [m], stopped := false
    ended := false }
/-- A field of 4 elements of FP32 whose two bits are changing places, in the course of a pass. -/
def turning (done : List Nat) (pass : Nat) (m : Mover) : State :=
  { withObj (paged s0) 100 (record [(0, 1 + 12 * 2 ^ 8 + 1 * 2 ^ 16 + 2 * 2 ^ 20 + 2 * 2 ^ 26 + 2 ^ 43), (1, 0x0100),
      (11, 0x2000), (19, 0x0100), (25, 0x0001)]) with
    remaps := [remap0 done pass m] }
def mover0 : Mover := { die := 0, cursor := 0, phase := 0, bricks := [], frames := [], journal := [], held := none }
def turned0 (m : Mover) : Obj := (turning [] 0 m).objAt 100
def writes0 : List (Nat × Nat × Nat) := (List.range 16).map fun i =>
  (0x2000 + i, 0x2000 + (if i < 4 then i else if i < 8 then i + 4 else if i < 12 then i - 4 else i), 0x2000 + i)
def locked0 : Mover := { mover0 with cursor := 1, phase := 1, bricks := [0], frames := [(0x2000, 16)] }
/-- The same with a map that moves nothing. -/
def stillRec : Obj := record [(0, 1 + 12 * 2 ^ 8 + 1 * 2 ^ 16 + 2 * 2 ^ 20 + 2 * 2 ^ 26 + 2 ^ 43), (1, 0x0100), (11, 0x2000),
  (19, 0x0100), (25, 0x0100)]
def still : State := withObj (turning [] 0 mover0) 100 stillRec

theorem witness_RemapCourse :
    (∃ s r, r = remap0 [] 0 mover0 ∧ s = turning [] 0 mover0 ∧ s.marverNext s.arg.die = some (r, mover0) ∧ mover0.die = s.arg.die ∧ r.key = 100 ∧
      s.objAt r.key = turned0 mover0 ∧ mover0.phase = 0 ∧ (turned0 mover0).nextBrick r mover0 = some 0 ∧
      (turned0 mover0).moves ((turned0 mover0).group 0) = true ∧
      s.groupWrites r.key (turned0 mover0) (((turned0 mover0).group 0).flatMap (turned0 mover0).brickBytes) = .ok writes0 ∧
      s.framesBusy (rangesOf (writes0.map fun x => x.1)) = false ∧ (∀ x ∈ writes0, s.badAt x.1 = false)) ∧
    (∃ r o, r = remap0 [] 0 mover0 ∧ o = stillRec ∧ still.objAt r.key = o ∧
      still.marverNext still.arg.die = some (r, mover0) ∧ o.nextBrick r mover0 = some 0 ∧
      o.moves (o.group 0) = false) ∧
    (∃ s r, r = remap0 [] 0 locked0 ∧ s = turning [] 0 locked0 ∧ s.marverNext s.arg.die = some (r, locked0) ∧ r.key = 100 ∧ locked0.phase = 1 ∧
      s.groupWrites r.key (turned0 locked0) (locked0.bricks.flatMap (turned0 locked0).brickBytes) = .ok writes0) ∧
    (∃ s r m, m = { locked0 with phase := 2 } ∧ r = remap0 [] 0 m ∧ s = turning [] 0 m ∧ s.marverNext s.arg.die = some (r, m) ∧ m.phase = 2 ∧
      s.framesBusy m.frames = false) ∧
    (∃ s r m, m = { locked0 with phase := 3 } ∧ r = remap0 [] 0 m ∧ s = turning [] 0 m ∧ s.marverNext s.arg.die = some (r, m) ∧ m.phase = 3) ∧
    (∃ s r, s = turning [0] 0 mover0 ∧ s.ticket? s.arg.n = some r ∧ s.passOver r = true ∧ r.pass + 1 < r.passes.length) ∧
    (∃ s r, s = turning [0] 1 mover0 ∧ s.ticket? s.arg.n = some r ∧ s.passOver r = true ∧ r.passes.length ≤ r.pass + 1 ∧
      s.remaps = [r]) ∧
    (∃ s r m, m = { mover0 with held := some 0x2000 } ∧ s = turning [] 0 m ∧ s.ticket? s.arg.n = some r ∧
      (r.movers.find? fun m => m.die == s.arg.die) = some m) := by
  refine ⟨⟨_, _, rfl, rfl, ?_, rfl, rfl, rfl, rfl, ?_, ?_, ok_got ?_, ?_, ?_⟩, ⟨_, _, rfl, rfl, ?_, ?_, ?_, ?_⟩,
    ⟨_, _, rfl, rfl, ?_, rfl, rfl, ok_got ?_⟩, ⟨_, _, _, rfl, rfl, rfl, ?_, rfl, ?_⟩, ⟨_, _, _, rfl, rfl, rfl, ?_, rfl⟩,
    ⟨_, _, rfl, rfl, ?_, ?_⟩, ⟨_, _, rfl, rfl, ?_, ?_, ?_⟩, ⟨_, _, _, rfl, rfl, rfl, ?_⟩⟩ <;> decide +kernel

/-- Launch 100 in m2; idle, in some state, its image of one range; the job live or being cancelled. -/
def launcher (state jstate : Nat) : State :=
  let s := withObj (paged (vst [0, 1, 100, 0])) 100
    (record [(0, 2 + state * 2 ^ 10 + 201 * 2 ^ 16), (4, 1), (6, 2), (9, 1)])
  withObj (withObj s 201 (record [(0, 11 + 1 * 2 ^ 8), (2, 2 ^ 30 + 3 * 2 ^ 48)])) 200
    (record [(0, 4 + jstate * 2 ^ 28), (3, 0x10000)])
/-- Graph 102 in m2, of the one node launch 100. -/
def grapher (state jstate : Nat) : State :=
  let s := withObj (launcher 0 jstate) 102 (record [(0, 3 + 1 * 2 ^ 8 + state * 2 ^ 15), (1, 100), (25, 0x4000)])
  { s with me := { s.me with frames := s.me.frames.set 2 102 } }

/-- 64 launches of this job are active on the die. -/
def full64 : State :=
  { launcher 0 0 with
    obj := (launcher 0 0).obj ++ (List.range 64).map fun i => (1000 + i, launchRec 3)
    launches := { s0.launches with die := (List.range 64).map fun i => (1000 + i, 0) } }
/-- Launch 100 with no tasks. -/
def taskless : State := withObj (launcher 0 0) 100 (record [(0, 2 + 201 * 2 ^ 16)])

theorem witness_LaunchResult :
    (∃ s o, s = launcher 3 0 ∧ o = s.objAt 100 ∧ s.calm ∧ s.me.guarded 0 = true ∧ (Reg.m 1).plain = true ∧ (Reg.m 2).plain = true ∧
      Reg.z.plain = true ∧ s.me.stores = [] ∧ Claims.handle s (s.me.src (.m 2)) 2 .call 100 o ∧ o.lState = 3) ∧
    (∃ s o, s = launcher 0 1 ∧ o = s.objAt 100 ∧ o.lState = 0 ∧ s.jobState s.me.job.toNat ≠ 0) ∧
    (∃ s o, s = launcher 2 0 ∧ o = s.objAt 100 ∧ o.lState = 2 ∧ s.jobState s.me.job.toNat = 0) ∧
    (∃ s o, s = launcher 5 0 ∧ o = s.objAt 100 ∧ o.lState = 5 ∧ s.jobState s.me.job.toNat = 0 ∧
      s.leaseValid s.me.job.toNat o = true ∧ o.noCluster = false ∧ s.me.src .z = 0 ∧ SMap.sorted s.obj = true ∧
      s.activeOn 2 (coreDie s.me.homeCore) < 64 ∧ o.tcount ≠ 0) ∧
    (∃ s o, s = taskless ∧ o = s.objAt 100 ∧ s.calm ∧ Claims.handle s (s.me.src (.m 2)) 2 .call 100 o ∧ o.lState = 0 ∧
      s.jobState s.me.job.toNat = 0 ∧ s.leaseValid s.me.job.toNat o = true ∧ o.noCluster = false ∧ SMap.sorted s.obj = true ∧
      s.activeOn 2 (coreDie s.me.homeCore) < 64 ∧ o.tcount = 0 ∧ s.launches.pins = [] ∧ (Claims.begun o 3).fld 13 0 56 = 0 ∧
      (Claims.begun o 3).fld 0 32 16 = 0) ∧
    (∃ s o, s = full64 ∧ o = s.objAt 100 ∧ s.calm ∧ Claims.handle s (s.me.src (.m 2)) 2 .call 100 o ∧ o.lState = 0 ∧
      s.jobState s.me.job.toNat = 0 ∧ s.leaseValid s.me.job.toNat o = true ∧ o.noCluster = false ∧ SMap.sorted s.obj = true ∧
      64 ≤ s.activeOn 2 (coreDie s.me.homeCore)) := by
  refine ⟨⟨_, _, rfl, rfl, ?_, ?_, ?_, ?_, ?_, ?_, handle_of ?_ rfl ?_ ?_, ?_⟩, ⟨_, _, rfl, rfl, ?_⟩, ⟨_, _, rfl, rfl, ?_⟩,
    ⟨_, _, rfl, rfl, ?_⟩, ⟨_, _, rfl, rfl, ?_, handle_of ?_ rfl ?_ ?_, ?_⟩, ⟨_, _, rfl, rfl, ?_, handle_of ?_ rfl ?_ ?_, ?_⟩⟩ <;>
    decide +kernel

theorem witness_LaunchResult_graph :
    (∃ s o s1 s2, s = grapher 0 0 ∧ o = s.objAt 102 ∧ s.calm ∧ s.me.guarded 0 = true ∧ s.me.stores = [] ∧
      Claims.handle s (s.me.src (.m 2)) 3 .call 102 o ∧
      nodesOk (102 / 65536) o (List.range o.nodes) ((s.issue 4).cacheEntry 102) = .ok ((), s1) ∧
      edgesOf (coreDie s.me.homeCore) (102 / 65536) (o.fld 25 0 56) s1 = .ok (List.replicate 64 0, s2) ∧
      (∀ v < o.nodes, v ∈ settleNodes (List.replicate 64 0) o.nodes ((List.range o.nodes).map o.nodeCount) o.nodes []) ∧
      s.jobState s.me.job.toNat = 0 ∧ o.gState ≠ 3 ∧ o.gState ≠ 4 ∧ SMap.sorted s.obj = true ∧
      (∀ v < o.nodes, (s.objAt (Claims.node s 102 o v)).lState = 0 ∧ (s.objAt (Claims.node s 102 o v)).noCluster = false) ∧
      s.activeOn 3 (coreDie s.me.homeCore) < 16 ∧ s.activeOn 2 (coreDie s.me.homeCore) + o.nodes ≤ 64 ∧ o.nodes = 1 ∧
      o.nodeCount 0 = 0) ∧
    (grapher 0 1).jobState (grapher 0 1).me.job.toNat ≠ 0 ∧ ((grapher 3 0).objAt 102).gState = 3 := by
  let n : Except Stop (Unit × State) := nodesOk 0 ((grapher 0 0).objAt 102) (List.range ((grapher 0 0).objAt 102).nodes)
    (((grapher 0 0).issue 4).cacheEntry 102)
  let e : Except Stop (List Nat × State) := edgesOf 0 0 (((grapher 0 0).objAt 102).fld 25 0 56) (fin n)
  refine ⟨⟨_, _, fin n, fin e, rfl, rfl, ?_, ?_, ?_, handle_of ?_ rfl ?_ ?_, ok_at ?_ ?_ ?_, ok_at ?_ ?_ ?_, ?_⟩, ?_⟩ <;> decide +kernel

theorem witness_CancelResult :
    (∃ s o, s = launcher 3 0 ∧ o = s.objAt 100 ∧ Claims.isCancel (.cancelLaunch (.m 1) (.m 2) .z 0 0) (.m 1) (.m 2) .z 0 0 ∧ s.calm ∧
      s.me.guarded 0 = true ∧ (s.me.src .z).toNat % 4 = 0 ∧ Claims.handle s (s.me.src (.m 2)) 2 .admin 100 o ∧
      s.launchActive 100 = true ∧ o.lState ≠ 4 ∧ Claims.quiet s ∧ s.me.launch? ≠ some 100) ∧
    (∃ s o, s = launcher 0 0 ∧ o = s.objAt 100 ∧ Claims.handle s (s.me.src (.m 2)) 2 .admin 100 o ∧ s.launchActive 100 = false) ∧
    (∃ s o, s = grapher 4 0 ∧ o = s.objAt 102 ∧ (s.me.src (.m 1)).toNat % 4 = 1 ∧
      Claims.handle s (s.me.src (.m 2)) 3 .admin 102 o ∧ s.graphActive 102 = true ∧ s.graphLaunches 102 = [] ∧ o.gState = 4) ∧
    (∃ s o, s = grapher 3 0 ∧ o = s.objAt 102 ∧ Claims.handle s (s.me.src (.m 2)) 3 .admin 102 o ∧ s.graphActive 102 = true ∧
      s.graphLaunches 102 = [] ∧ (Claims.skipped (s.issue 4) 102).graphLaunches 102 = []) ∧
    (∃ s o, s = grapher 0 0 ∧ o = s.objAt 102 ∧ Claims.handle s (s.me.src (.m 2)) 3 .admin 102 o ∧ s.graphActive 102 = false) ∧
    (∃ s, s = paged (st [0, 0, 200, 2]) ∧ s.calm ∧ (s.me.src (.m 3)).toNat % 4 = 2 ∧ s.me.plv = 0) ∧
    (∃ s o, s = sup (paged (st [0, 0, 200, 2])) ∧ o = s.objAt 200 ∧ s.calm ∧ Claims.handle s (s.me.src (.m 2)) 4 .admin 200 o ∧
      1 ≤ s.me.plv.toNat ∧ o.jState = 0 ∧ s.launches.die = [] ∧ s.fabric.graphs = [] ∧ s.fabric.subs = [] ∧
      findJob (o.fld 0 8 16) s.obj = some 200) ∧
    (∃ o : Obj, o = (launcher 0 1).objAt 200 ∧ o.jState ≠ 0) := by
  refine ⟨⟨_, _, rfl, rfl, .inl rfl, ?_, ?_, ?_, handle_of ?_ rfl ?_ ?_, ?_, ?_, ?_, ?_⟩, ⟨_, _, rfl, rfl, handle_of ?_ rfl ?_ ?_, ?_⟩,
    ⟨_, _, rfl, rfl, ?_, handle_of ?_ rfl ?_ ?_, ?_⟩, ⟨_, _, rfl, rfl, handle_of ?_ rfl ?_ ?_, ?_⟩,
    ⟨_, _, rfl, rfl, handle_of ?_ rfl ?_ ?_, ?_⟩, ⟨_, rfl, ?_⟩, ⟨_, _, rfl, rfl, ?_, handle_of ?_ rfl ?_ ?_, ?_⟩, ⟨_, rfl, ?_⟩⟩ <;>
    first | (unfold Claims.quiet; decide +kernel) | decide +kernel

/-- Launch 100 at its die, with its image in place or its lease set over bytes 0 to hi - 1. -/
def course (state hi done : Nat) : State :=
  let s := paged s0
  let s := withObj s 100 (record [(0, 2 + state * 2 ^ 10 + 2 ^ 13 + 201 * 2 ^ 16), (4, 1), (6, 1), (9, 1), (10, done), (14, 0x200)])
  { withObj s 201 (record [(0, 11 + 1 * 2 ^ 8), (2, hi + 3 * 2 ^ 48)]) with
    arg := { h := 100 }, launches := { s.launches with die := [(100, 0)] } }

theorem witness_LaunchCourse :
    (∃ s o lease ps t1, s = course 1 0x100 0 ∧ o = s.objAt 100 ∧ lease = s.objAt 201 ∧ objKey s.arg.job s.arg.h = 100 ∧
      objKey 0 (o.fld 0 16 16) = 201 ∧ (SMap.find 100 s.launches.die).getD 0 = 0 ∧ s.arg.flag = false ∧ o.lState = 1 ∧
      o.fld 0 13 1 = 1 ∧
      prepRanges (s.cacheRecord 0 100) (s.isWarm 0 100) o.clusters 0 lease (List.range (lease.fld 0 8 4)) = .ok ps ∧
      State.pinAll 100 0 ps (s.cacheRecord 0 100) = .ok t1) ∧
    (∃ s o lease va, s = course 1 0x80000000 0 ∧ o = s.objAt 100 ∧ lease = s.objAt 201 ∧ s.arg.flag = false ∧ o.lState = 1 ∧
      o.fld 0 13 1 = 1 ∧
      prepRanges (s.cacheRecord 0 100) (s.isWarm 0 100) o.clusters 0 lease (List.range (lease.fld 0 8 4)) = .error va) ∧
    (course 3 0x100 0).genTarget 100 (course 3 0x100 0).arg.die = some (0, 0, false) ∧
    (∃ s o, s = course 3 0x100 1 ∧ o = s.objAt 100 ∧ s.launchOver 100 = true ∧ s.launches.pins = [] ∧ s.me.pend = [] ∧
      SMap.sorted s.obj = true ∧ o.valid = true ∧ o.kind = 2 ∧ (o.setFld 0 10 3 5).fld 13 0 56 = 0 ∧
      (o.setFld 0 10 3 5).fld 0 32 16 = 0 ∧ bitsOf ((o.setFld 0 10 3 5).word 14) 0 32 ≠ 0xFFFFFFFF) := by
  refine ⟨⟨_, _, _, _, _, rfl, rfl, rfl, ?_, ?_, ?_, ?_, ?_, ?_,
      ok_got (a := [{ pte := 0x20000, va := 0, size := 2 ^ 30, w0 := 0xFFFF000000000063, here := true }]) ?_,
      ok_got (a := (got (State.pinAll 100 0 [{ pte := 0x20000, va := 0, size := 2 ^ 30, w0 := 0xFFFF000000000063, here := true }]
        ((course 1 0x100 0).cacheRecord 0 100))).getD s0) ?_⟩,
    ⟨_, _, _, 2 ^ 30, rfl, rfl, rfl, ?_, ?_, ?_, error_got ?_⟩, ?_, ⟨_, _, rfl, rfl, ?_⟩⟩ <;> decide +kernel

/-- Replayed object 103 in m2 with a method that changes it, or not; two entries logged, the replica of die 0 at 1. -/
def meth (mutates : Nat) : Nat := mutates * 2 ^ 16
def objRec (incl : Nat) (ring : Nat) : Obj :=
  record [(0, 6 + 1 * 2 ^ 9 + ring * 2 ^ 16), (1, 64), (4, 16), (6, 2), (7, 0), (8, incl)]
def call0 (n : Nat) : Call := { n, sid := 0x232, die := 0, method := 0, o := Vector.replicate 4 0 }
def replica0 : Replica := { die := 0, block := [], pos := 1, told := 0, sync := none }
def replay0 (mutates : Nat) : Replay where
  key := 103
  methods := [meth mutates]
  image := List.replicate 16 0
  log := [call0 0, call0 1]
  sent := [call0 2]
  asleep := []
  replicas := [replica0, { replica0 with die := 1, pos := 0 }]
  queries := [{ call := call0 0, a := 103, floor := 1, wait := false }]
  far := 0
def replayed (incl ring mutates : Nat) : State :=
  { withObj (st [0, 1, 103, 5]) 103 (objRec incl ring) with
    replays := [replay0 mutates], arg := { h := 103, sid := 0x232 } }

theorem witness_ReplayedCallResult :
    (∃ s r, s = replayed 3 6 1 ∧ r = replay0 1 ∧ s.calm ∧ s.me.guarded 0 = true ∧ (Reg.m 1).plain = true ∧ (Reg.m 2).plain = true ∧
      (Reg.m 3).plain = true ∧ s.replay? 103 = some r ∧ r.key = 103 ∧ wbits (s.me.src (.m 2)) 16 6 < (objRec 3 6).nmeth ∧
      Claims.handle s (s.me.src (.m 2)) 6 .call 103 (objRec 3 6) ∧ Claims.handle s (s.me.src (.m 2)) 6 .read 103 (objRec 3 6) ∧
      methodMutates (r.methods.getD (wbits (s.me.src (.m 2)) 16 6) 0) = true ∧ Claims.serves s (objRec 3 6) r ∧
      Claims.releasable s (objRec 3 6).spanScope ∧ s.logHere (103 / 65536) (objRec 3 6) = true) ∧
    (∃ s r, s = replayed 3 6 0 ∧ r = replay0 0 ∧ s.replay? 103 = some r ∧ Claims.serves s (objRec 3 6) r ∧
      methodMutates (r.methods.getD (wbits (s.me.src (.m 2)) 16 6) 0) = false) ∧
    (∃ s, s = replayed 2 6 1 ∧ s.calm ∧ wbits (s.me.src (.m 2)) 16 6 < (objRec 2 6).nmeth ∧
      Claims.handle s (s.me.src (.m 2)) 6 .call 103 (objRec 2 6) ∧ Claims.handle s (s.me.src (.m 2)) 6 .read 103 (objRec 2 6) ∧
      (objRec 2 6).incl (coreDie s.me.core) = false) := by
  refine ⟨⟨_, _, rfl, rfl, ?_, ?_, ?_, ?_, ?_, ?_, ?_, ?_, handle_of ?_ ?_ ?_ ?_, handle_of ?_ ?_ ?_ ?_, ?_, ⟨replica0, ?_⟩,
      releasable_of ?_ ?_ ?_, ?_⟩, ⟨_, _, rfl, rfl, ?_, ⟨replica0, ?_⟩, ?_⟩,
    ⟨_, rfl, ?_, ?_, handle_of ?_ ?_ ?_ ?_, handle_of ?_ ?_ ?_ ?_, ?_⟩⟩ <;> decide +kernel

/-- The field table of job 0 with one entry that die 0 has not applied. -/
def frep0 : FRep := { die := 0, pos := 0, told := 0, incl := true, sync := none, untaken := [] }
def fentry0 : FEntry := { pos := 1, key := 100, old := fieldRec, change := .names [(0, 1)], call := 7 }
def ftab0 : FieldTab := { job := 0, tail := 1, trim := 0, log := [fentry0], reps := [frep0], asleep := [] }
def tabled (s : State) : State := { s with fieldTabs := [ftab0] }

theorem witness_ReplayCourse :
    (∃ s r, s = replayed 3 6 1 ∧ r = replay0 1 ∧ objKey s.arg.job s.arg.h = 103 ∧ s.replays = [r] ∧ r.key = 103 ∧
      (s.objAt 103).valid = true ∧ s.arg.flag = false ∧
      r.sent = [call0 2] ∧ (call0 2).sid = s.arg.sid ∧ r.asleep = [] ∧ (call0 2).die < 8 ∧ s.canAppend 103 = true ∧
      r.on s.arg.die = some replica0 ∧ s.applies 103 replica0 = true ∧ replica0.sync = none ∧
      r.entry (s.objAt 103).tail (replica0.pos + 1) = some (call0 1) ∧
      r.queries = [{ call := call0 0, a := 103, floor := 1, wait := false }] ∧ (call0 0).n = s.arg.n ∧
      r.on (call0 0).die = some replica0 ∧ s.queryDue r { call := call0 0, a := 103, floor := 1, wait := false } = true) ∧
    (∃ s r q, q = { call := call0 0, a := 103, floor := 1, wait := true } ∧ r = { replay0 1 with queries := [q] } ∧
      s = { replayed 3 6 1 with replays := [r] } ∧ r.queries = q :: [] ∧ q.call.n = s.arg.n ∧ r.on q.call.die = some replica0 ∧
      s.queryDue r q = true ∧ q.wait = true) ∧
    ((replayed 3 0 1).canAppend 103 = false ∧ (replayed 3 0 1).replays = [replay0 1]) ∧
    (∃ s r, s = replayed 1 6 1 ∧ r = replay0 1 ∧ s.replays = [r] ∧ s.arg.flag = false ∧ r.on s.arg.die = some replica0 ∧
      (s.objAt 103).incl replica0.die = true ∧ s.logHere (103 / 65536) (s.objAt 103) = true ∧ r.asleep = [] ∧
      s.arg.kind = 0 ∧ s.arg.h ≠ 0) ∧
    (∃ s, s = { replayed 1 6 1 with arg := { h := 103, kind := 1 } } ∧ s.arg.kind = 1) ∧
    (∃ s, s = tabled s0 ∧ s.arg.h = 0 ∧ s.replay? (objKey s.arg.job 0) = none ∧ s.fieldTab? s.arg.job = some ftab0 ∧
      ftab0.rep? s.arg.die = some frep0 ∧ s.mayApply ftab0 frep0 = true ∧ s.arg.kind = 0) := by
  refine ⟨⟨_, _, rfl, rfl, ?_⟩, ⟨_, _, _, rfl, rfl, rfl, ?_⟩, ?_, ⟨_, _, rfl, rfl, ?_⟩, ⟨_, rfl, ?_⟩, ⟨_, rfl, ?_⟩⟩ <;> decide +kernel

/-- An object record at 0x2000, its methods at 0x4000, its image at 0x5000. -/
def newObj : State :=
  { sup (vst [0, 1, 104, 0x2000]) with
    mem := [(0x2000, 6), (0x2001, 2), (0x2002, 6), (0x2008, 64), (0x2011, 0x40), (0x2019, 0x50), (0x2020, 16)] }

theorem witness_ObjectCommands :
    (∃ s1 s2 s3 bs ms image, newObj.calm ∧ 1 ≤ newObj.me.plv.toNat ∧ 104 = (newObj.me.src (.m 2)).toNat % 65536 ∧
      (newObj.objAt (objKey newObj.me.job.toNat 104)).valid = false ∧
      readVirt (newObj.me.src (.m 3)) 256 (newObj.issue 4) = .ok (bs, s1) ∧
      recordOk { img := BitVec.ofNat 2048 (leNat bs), acc := 0 } = true ∧
      readVirt (toW (({ img := BitVec.ofNat 2048 (leNat bs), acc := 0 } : Obj).fld 2 0 56)) 512 s1 = .ok (ms, s2) ∧
      (∀ i < ({ img := BitVec.ofNat 2048 (leNat bs), acc := 0 } : Obj).nmeth,
        methodWordOk ({ img := BitVec.ofNat 2048 (leNat bs), acc := 0 } : Obj).codeLen ((groups 8 64 ms).getD i 0) = true) ∧
      spanOk newObj.me.job.toNat { img := BitVec.ofNat 2048 (leNat bs), acc := 0 } = true ∧
      readVirt (toW (({ img := BitVec.ofNat 2048 (leNat bs), acc := 0 } : Obj).fld 3 0 56))
        ({ img := BitVec.ofNat 2048 (leNat bs), acc := 0 } : Obj).codeLen s2 = .ok (image, s3) ∧ newObj.me.src .z = 0) ∧
    (∃ s, s = sup (replayed 3 6 1) ∧ s.calm ∧ 1 ≤ s.me.plv.toNat ∧
      Claims.handle s (s.me.src (.m 2)) 6 .admin 103 (objRec 3 6) ∧ s.replay? 103 = some (replay0 1) ∧
      (objRec 3 6).incl (coreDie s.me.core) = true) ∧
    (∃ s p x, s = sup (replayed 2 6 1) ∧ Claims.handle s (s.me.src (.m 2)) 6 .admin 103 (objRec 2 6) ∧
      (objRec 2 6).incl (coreDie s.me.core) = false ∧ s.copied (replay0 1) (coreDie s.me.core) = some p ∧
      p.pos < (objRec 2 6).tail ∧ (replay0 1).on (coreDie s.me.core) = some x) ∧
    (∃ s p o, s = { sup (replayed 2 6 1) with obj := [(103, o)] } ∧
      o = record [(0, 6 + 1 * 2 ^ 9 + 6 * 2 ^ 16), (1, 64), (4, 16), (6, 0), (7, 0), (8, 2)] ∧
      s.copied (replay0 1) (coreDie s.me.core) = some p ∧ o.tail ≤ p.pos) := by
  let c := readVirt 0x2000 256 (newObj.issue 4)
  let d := readVirt 0x4000 512 (fin c)
  let e := readVirt 0x5000 16 (fin d)
  refine ⟨⟨fin c, fin d, fin e, val c [], val d [], val e [], ?_, ?_, ?_, ?_, ok_eq [] ?_, ?_, ok_at ?_ ?_ ?_, ?_, ?_, ok_at ?_ ?_ ?_, ?_⟩,
    ⟨_, rfl, ?_, ?_, handle_of ?_ ?_ ?_ ?_, ?_, ?_⟩,
    ⟨_, { replica0 with die := 1, pos := 0 }, replica0, rfl, handle_of ?_ ?_ ?_ ?_, ?_, ?_, ?_, ?_⟩,
    ⟨_, { replica0 with die := 1, pos := 0 }, record [(0, 6 + 1 * 2 ^ 9 + 6 * 2 ^ 16), (1, 64), (4, 16), (6, 0), (7, 0), (8, 2)], rfl, rfl,
      ?_, ?_⟩⟩ <;> decide +kernel

/-- m2 names entry 100, m3 the address 0x2000 where a lease set, a launch or a job record stands. -/
def table0 (kind : Byte) : State :=
  { sup (vst [0, 1, 100, 0x2000, 31]) with mem := if kind = 2 then [(0x2000, 2), (0x2018, 16)] else [(0x2000, kind)] }
def imageOf (s : State) : Obj := { img := BitVec.ofNat 2048 (leNat (val (readVirt 0x2000 256 (s.issue 4)) [])), acc := 0 }

def entry100 (s : State) (o : Obj) : Prop :=
  100 = objKey (entryWord s (s.me.src (.m 2))).1 (entryWord s (s.me.src (.m 2))).2 ∧ (entryWord s (s.me.src (.m 2))).2 ≠ 0 ∧
    s.objAt 100 = o ∧ s.entryOn (coreDie s.me.core) 100 = o
/-- What OTSET reads of a record of a kind. -/
def kinded (s : State) (k : Nat) : Prop := ∃ bs s1 o, o = imageOf s ∧ readVirt (s.me.src (.m 3)) 256 (s.issue 4) = .ok (bs, s1) ∧
  o = { img := BitVec.ofNat 2048 (leNat bs), acc := 0 } ∧ o.kind = k ∧ imageOk o = true ∧
    (∀ f ∈ hardware k, o.fld f.1 f.2.1 f.2.2 = 0)
/-- A field of FP32 at 0x2000 for OTSET, or a valid object of some kind in the entry. -/
def table1 : State :=
  { table0 1 with mem := [(0x2000, 1), (0x2001, 12), (0x2002, 0x61), (0x2003, 0x18), (0x2009, 1), (0x200A, 2), (0x200B, 3), (0x200C, 4),
                          (0x200D, 5), (0x205A, 2)] }
def overObj (s : State) (w0 : Nat) : State := withObj s 100 (record [(0, w0)])

theorem witness_TableEntries :
    (∃ s, s = table0 11 ∧ Claims.sup s [.m 2, .m 3, .m 4] ∧ entry100 s (s.objAt 100) ∧ (s.me.src (.m 4)).toNat < 32 ∧
      (s.me.src (.m 3)).toNat % 8 = 0 ∧ kinded s 11 ∧ (s.objAt 100).valid = false) ∧
    (∃ s, s = table0 4 ∧ kinded s 4 ∧ (s.objAt 100).valid = false) ∧
    (∃ s o, s = overObj (table0 2) 2 ∧ o = imageOf s ∧ entry100 s (s.objAt 100) ∧ kinded s 2 ∧ Claims.mayReplace (s.objAt 100) o ∧
      (s.objAt 100).valid = true) ∧
    (∃ s, s = table1 ∧ entry100 s (s.objAt 100) ∧ kinded s 1 ∧ (s.objAt 100).valid = false ∧ Claims.tableFree s (100 / 65536) ∧
      s.remaps = [] ∧ Claims.releasable s (s.spanTable (100 / 65536))) ∧
    (∃ s hs s1, s = table0 11 ∧ (s.me.src (.m 3)).toNat / 2 ^ 56 = 0 ∧ s.mem.wf = true ∧ Claims.logRoom s 2 ∧ Claims.here s hs ∧
      Claims.clear s hs ∧ Claims.unlocked s hs ∧ check rW (.v (s.me.src (.m 3)).toNat) 264 (s.issue 4) = .ok (hs, s1)) ∧
    (∃ s hs s1 o, s = withObj (table0 11) 100 fieldRec ∧ Claims.here s hs ∧ Claims.clear s hs ∧ Claims.unlocked s hs ∧
      Claims.logRoom s 2 ∧
      useHandle s.me.job.toNat (wbits (s.me.src (.m 2)) 0 16) 1 .read (s.me.src (.m 2)) s = .ok (o, s) ∧
      check rW (.v (s.me.src (.m 3)).toNat) 256 (s.issue 4) = .ok (hs, s1)) ∧
    (∃ s o, s = withObj (table0 11) 100 fieldRec ∧ o = fieldRec ∧ entry100 s o ∧ o.valid = true ∧ o.kind = 1 ∧
      Claims.tableFree s (100 / 65536) ∧ Claims.releasable s (s.spanTable (100 / 65536))) ∧
    (∃ s o, s = overObj (table0 11) (2 + 3 * 2 ^ 10) ∧ o = record [(0, 2 + 3 * 2 ^ 10)] ∧ entry100 s o ∧ o.valid = true ∧ o.kind ≠ 1 ∧
      s.mayInvalidate 100 o = false) ∧
    (∃ s o, s = overObj (table0 11) 11 ∧ o = record [(0, 11)] ∧ entry100 s o ∧ o.valid = true ∧ o.kind ≠ 1 ∧
      s.mayInvalidate 100 o = true ∧ o.kind ≠ 6) ∧
    (∃ s o, s = { sup (replayed 3 6 1) with replays := [{ replay0 1 with sent := [] }] } ∧ o = objRec 3 6 ∧ s.objAt 103 = o ∧
      s.entryOn (coreDie s.me.core) 103 = o ∧ o.valid = true ∧ o.kind = 6 ∧ s.mayInvalidate 103 o = true) := by
  let d := check rW (.v 0x2000) 264 ((table0 11).issue 4)
  let e := check rW (.v 0x2000) 256 ((withObj (table0 11) 100 fieldRec).issue 4)
  let r := fun s : State => readVirt 0x2000 256 (s.issue 4)
  refine ⟨⟨_, rfl, ⟨?_, ?_, ?_, ?_⟩, ⟨?_, ?_, rfl, ?_⟩, ?_, ?_, ⟨val (r (table0 11)) [], fin (r (table0 11)), _, rfl, ok_eq [] ?_, rfl, ?_⟩, ?_⟩,
    ⟨_, rfl, ⟨val (r (table0 4)) [], fin (r (table0 4)), _, rfl, ok_eq [] ?_, rfl, ?_⟩, ?_⟩,
    ⟨_, _, rfl, rfl, ⟨?_, ?_, rfl, ?_⟩, ⟨val (r (overObj (table0 2) 2)) [], fin (r (overObj (table0 2) 2)), _, rfl, ok_eq [] ?_, rfl, ?_⟩, ?rep, ?_⟩,
    ⟨_, rfl, ⟨?_, ?_, rfl, ?_⟩, ⟨val (r table1) [], fin (r table1), _, rfl, ok_eq [] ?_, rfl, ?_⟩, ?_, ⟨?_, ?_⟩, ?_, releasable_of ?_ ?_ ?_⟩,
    ⟨_, val d [], fin d, rfl, ?_, ?_, logRoom_of ?_, here_of ?_ ?_, clear_of ?_, unlocked_of ?_, ok_eq [] ?_⟩,
    ⟨_, val e [], fin e, fieldRec, rfl, here_of ?_ ?_, clear_of ?_, unlocked_of ?_, logRoom_of ?_, ok_at ?_ ?_ ?_, ok_eq [] ?_⟩,
    ⟨_, _, rfl, rfl, ⟨?_, ?_, ?_, ?_⟩, ?_, ?_, ⟨?_, ?_⟩, releasable_of ?_ ?_ ?_⟩, ⟨_, _, rfl, rfl, ⟨?_, ?_, ?_, ?_⟩, ?_⟩,
    ⟨_, _, rfl, rfl, ⟨?_, ?_, ?_, ?_⟩, ?_⟩, ⟨_, _, rfl, rfl, ?_⟩⟩
  case rep =>
    intro _
    decide +kernel
  all_goals decide +kernel

/-- FRENAME and FPERM of logical bits 0 and 1 of the field in m2: lists of one entry. -/
def maps : State := withObj (vst [0, 1, 100, 0x001, 0x011]) 100 fieldRec

theorem witness_FieldMaps :
    (maps.calm ∧ (Reg.m 2).plain = true ∧ (Reg.m 3).plain = true ∧ (Reg.m 4).plain = true ∧
      100 = objKey maps.me.job.toNat (wbits (maps.me.src (.m 2)) 0 16) ∧
      (∃ e, useHandle maps.me.job.toNat (wbits (maps.me.src (.m 2)) 0 16) 1 .write (maps.me.src (.m 2)) maps = .ok (e, maps)) ∧
      maps.objAt 100 = fieldRec ∧ fieldRec.valid = true ∧ fieldRec.kind = 1 ∧
      twoLists fieldRec (maps.me.src (.m 3)) (maps.me.src (.m 4)) (maps.issue 4) = .ok (([0], [1]), maps.issue 4) ∧
      Claims.releasable maps (maps.spanTable maps.me.job.toNat) ∧ [0].any (usedAxes fieldRec).contains = false ∧
      [1].any (usedAxes fieldRec).contains = false ∧ Claims.tableFree maps maps.me.job.toNat ∧
      maps.fieldCame (coreDie maps.me.core) 100 = true) ∧
    (∃ s, s = { tabled maps with fieldTabs := [{ ftab0 with asleep := [{}] }] } ∧ s.calm ∧
      Claims.releasable s (s.spanTable s.me.job.toNat) ∧ ¬ Claims.tableFree s s.me.job.toNat) ∧
    (∃ new swaps, permuted ([0].zip [1]) (maps.forceMap 100 fieldRec) [] = (new, swaps) ∧ swaps ≠ [] ∧
      (isQ4 fieldRec.fmt && swaps.any fun p => decide (p.1 < 5) || decide (p.2 < 5)) = false) ∧
    (∃ new swaps, permuted ([0].zip [0]) (maps.forceMap 100 fieldRec) [] = (new, swaps) ∧ swaps = []) := by
  refine ⟨⟨?_, ?_, ?_, ?_, ?_, ⟨fieldRec, ok_at ?_ ?_ ?_⟩, ?_, ?_, ?_, ok_at ?_ ?_ ?_, releasable_of ?_ ?_ ?_, ?_, ?_, ⟨?_, ?_⟩, ?_⟩,
    ⟨_, rfl, ?_, releasable_of ?_ ?_ ?_, ?_⟩, ⟨_, _, rfl, ?_, ?_⟩, ⟨_, _, rfl, ?_⟩⟩ <;>
    first | decide +kernel | (unfold Claims.tableFree; decide +kernel)

/-- m2 names a lease set of one range of 64 KiB at the address given, m3 is the operation, m4 a mask. -/
def leaseRec (base : Nat) : Obj := record [(0, 11 + 1 * 2 ^ 8), (1, base), (2, 65536 + 1 * 2 ^ 48)]
def leases (op : Word) (base : Nat) : State := withObj (sup (paged (vst [0, 1, 100, op, 0]))) 100 (leaseRec base)
def page0 : Page := { pte := 0x20000, va := 0, size := 2 ^ 30, w0 := 0xFFFF000000000063, here := true }
def pin0 : Pin := { owner := 0, pte := 0x20000, job := 0, va := 0, size := 2 ^ 30 }
/-- The page is pinned once. -/
def pinned0 (op : Word) : State :=
  { (leases op 0) with
    mem := (leases op 0).mem ++ [(0x20008, 1)], launches := { (leases op 0).launches with pins := [pin0] } }
def xpage (s : State) : State := { s with tlb := [{ cl := 1, job := 0, base := 0, size := 2 ^ 30, pte := 0x20000, w0 := 0xFFFF000000000063
                                                    pinners := [], logged := true }] }
/-- One record in the dirty log of core 3 of cluster 1. -/
def logged : State := { sup (st [0, 1, 0x80]) with mem := [(lsKey 0x23 0xFF000, 1)] }

/-- What the handle of leases gives, and the state with its entry in the object cache. -/
def leaseAt (s : State) : Except Stop (Obj × State) := useHandle 0 100 11 .admin (s.me.src (.m 2)) (s.issue 4)
/-- The page has no pin left. -/
def pinless : State := { leases 0 0 with mem := (leases 0 0).mem ++ [(0x20008, 255)] }

theorem witness_PinsAndInvalidation :
    (∃ s x u, s = leases 0 0 ∧ Claims.sup s [.m 2, .m 3, .m 4] ∧
      Claims.isLease (.leasePin (.m 2) (.m 3) (.m 4) 0) (.m 2) (.m 3) (.m 4) 0 ∧ (0, 100) = entryWord s (s.me.src (.m 2)) ∧
      leaseAt s = .ok (leaseRec 0, x) ∧ (s.me.src (.m 3)).toNat % 4 = 0 ∧
      leasePages x 0 (leaseRec 0) ((leaseRec 0).fld 0 8 4) 0 = .ok [page0] ∧ State.pinAll 0 0 [page0] x = .ok u) ∧
    (∃ s x va, s = pinless ∧ Claims.sup s [.m 2, .m 3, .m 4] ∧ leaseAt s = .ok (leaseRec 0, x) ∧
      leasePages x 0 (leaseRec 0) ((leaseRec 0).fld 0 8 4) 0 = .ok [page0] ∧ State.pinAll 0 0 [page0] x = .error va) ∧
    (∃ s x u, s = leases 0 (2 ^ 30) ∧ Claims.sup s [.m 2, .m 3, .m 4] ∧ leaseAt s = .ok (leaseRec (2 ^ 30), x) ∧
      leasePages x 0 (leaseRec (2 ^ 30)) ((leaseRec (2 ^ 30)).fld 0 8 4) 0 = .error (2 ^ 30) ∧
      State.pinAll 0 0 (leaseBefore x 0 (leaseRec (2 ^ 30)) ((leaseRec (2 ^ 30)).fld 0 8 4) 0) x = .ok u) ∧
    (∃ s x e o, o = record [(0, 11 + 2 * 2 ^ 8), (1, 0), (2, 65536 + 1 * 2 ^ 48), (3, 2 ^ 30), (4, 65536 + 1 * 2 ^ 48)] ∧
      s = withObj pinless 100 o ∧ Claims.sup s [.m 2, .m 3, .m 4] ∧ leaseAt s = .ok (o, x) ∧
      leasePages x 0 o (o.fld 0 8 4) 0 = .error (2 ^ 30) ∧
      State.pinAll 0 0 (leaseBefore x 0 o (o.fld 0 8 4) 0) x = .error e) ∧
    (∃ s x, s = pinned0 1 ∧ Claims.sup s [.m 2, .m 3, .m 4] ∧ leaseAt s = .ok (leaseRec 0, x) ∧ (s.me.src (.m 3)).toNat % 4 = 1 ∧
      (leaseRec 0).fld 0 8 4 = 1 ∧ x.unpinPages 0 (leaseRec 0) 0 = [page0] ∧ page0.here = true ∧ s.launches.deferred = [] ∧
      s.mem.wf = true) ∧
    (∃ s, s = xpage (pinned0 0) ∧ Claims.sup s [.m 2, .m 3, .m 4] ∧ pin0 ∈ s.launches.pins ∧ s.pinCount pin0.pte ≠ 0 ∧
      Claims.xhits s (s.me.src (.m 2)) (s.me.src (.m 3)) (s.me.src (.m 4)) pin0.job pin0.va pin0.size = true ∧
      Claims.xhits s (s.me.src (.m 2)) 1 1 pin0.job pin0.va pin0.size = false) ∧
    (Claims.sup logged [.m 2, .m 3, .m 4] ∧ (logged.me.src (.m 2)).getLsbD 7 = true ∧ logged.launches.pins = [] ∧ coreNo 0x23 < 16 ∧
      logged.logCount 0x23 ≠ 0) ∧
    (∀ k < 4096, (sup (st [0, 1, 0x80])).logCount k = 0) := by
  let x := fun s => fin (leaseAt s)
  let o2 : Obj := record [(0, 11 + 2 * 2 ^ 8), (1, 0), (2, 65536 + 1 * 2 ^ 48), (3, 2 ^ 30), (4, 65536 + 1 * 2 ^ 48)]
  refine ⟨⟨_, x (leases 0 0), (got (State.pinAll 0 0 [page0] (x (leases 0 0)))).getD s0, rfl, ⟨?_, ?_, ?_, ?_⟩, .inl rfl, ?_,
      ok_at ?_ ?_ ?_, ?_, ok_got ?_, ok_got ?_⟩,
    ⟨_, x pinless, 0, rfl, ⟨?_, ?_, ?_, ?_⟩, ok_at ?_ ?_ ?_, ok_got ?_, error_got ?_⟩,
    ⟨_, x (leases 0 (2 ^ 30)), x (leases 0 (2 ^ 30)), rfl, ⟨?_, ?_, ?_, ?_⟩, ok_at ?_ ?_ ?_, error_got ?_, ok_got ?_⟩,
    ⟨_, x (withObj pinless 100 o2), 0, o2, rfl, rfl, ⟨?_, ?_, ?_, ?_⟩, ok_at ?_ ?_ ?_, error_got ?_, error_got ?_⟩,
    ⟨_, x (pinned0 1), rfl, ⟨?_, ?_, ?_, ?_⟩, ok_at ?_ ?_ ?_, ?_⟩,
    ⟨_, rfl, ⟨?_, ?_, ?_, ?_⟩, ?_⟩, ⟨⟨?_, ?_, ?_, ?_⟩, ?_⟩, fun _ _ => rfl⟩ <;> decide +kernel

/-- PGMIG of the page at 0 to the frame at 2^30, with the bytes given after word 0 of its leaf or within it. -/
def moves (more : Memory) : State :=
  { sup (paged (vst [0, 1, 0, 0x40000000, 0])) with
    mem := (paged (vst [])).mem.foldr (fun c m => Memory.set m c.1 c.2) more }
def mig0 : Mig := { pte := 0x20000, old := 0, new := 2 ^ 30, size := 65536, moved := 0, job := 0, va := 0, waiter := none, swap := false }
def copying (m : Mig) (bad : List Nat) : State := { (moves []) with migs := [m], arg := { n := 0x20000 }, bad }

/-- A page of LP6 memory and one of HBM of the same size. -/
def hotLeaf : Leaf := { job := 0, pte := 0x300000, va := 0, size := 2 ^ 30, w0 := 0xFFFF800000000263, w1 := 0 }
def coldLeaf : Leaf := { hotLeaf with pte := 0x300010, va := 2 ^ 30, w0 := 0xFFFF000000000263 }

theorem witness_PagesMove :
    ((paged s0).walk (paged s0).arg.job (paged s0).arg.va = some (0x20000, 1, 0xFFFF000000000063, 0) ∧
      s0.walk s0.arg.job s0.arg.va = none ∧ s0.tlb = []) ∧
    (∃ s w1, s = moves [(0x20008, 1)] ∧ Claims.sup s [.m 2, .m 3, .m 4] ∧
      s.walk s.me.job.toNat ((s.me.src (.m 2)).toNat % 2 ^ 56) = some (0x20000, 1, 0xFFFF000000000063, w1) ∧
      wbits (s.me.src (.m 3)) 16 32 * 65536 = 2 ^ 30 ∧ wbits (s.me.src (.m 4)) 0 16 = 0 ∧ bitsOf w1 0 8 ≠ 0 ∧
      installed (2 ^ 30) (pageSize 1) = true ∧ s.mem.wf = true) ∧
    (∃ s w0, s = moves [(0x20001, 4)] ∧ Claims.sup s [.m 2, .m 3, .m 4] ∧
      s.walk s.me.job.toNat ((s.me.src (.m 2)).toNat % 2 ^ 56) = some (0x20000, 1, w0, 0) ∧ nbit w0 10 = true ∧
      bitsOf w0 48 16 = 0xFFFF ∧ bitsOf (2 ^ 30) 0 47 % pageSize 1 = 0 ∧ 2 ^ 30 ≠ bitsOf w0 16 32 * 65536 ∧ s.mem.wf = true) ∧
    (∃ s w0, s = moves [] ∧ Claims.sup s [.m 2, .m 3, .m 4] ∧
      s.walk s.me.job.toNat ((s.me.src (.m 2)).toNat % 2 ^ 56) = some (0x20000, 1, w0, 0) ∧ nbit w0 10 = false ∧
      bitsOf w0 48 16 = 0xFFFF ∧ s.targeted 0 0 (pageSize 1) = false ∧ s.mem.wf = true) ∧
    (∃ s, s = copying mig0 [] ∧ s.migs = [mig0] ∧ mig0.pte = s.arg.n ∧ mig0.swap = false ∧ s.mem.wf = true ∧ mig0.new < 2 ^ 48 ∧
      (∀ j < 8, s.locked (mig0.old + 256 * mig0.moved + 32 * j) = false ∧ s.locked (mig0.new + 256 * mig0.moved + 32 * j) = false) ∧
      256 * mig0.moved < mig0.size ∧ badLine s (mig0.old + 256 * mig0.moved) = none) ∧
    (badLine (copying mig0 [1]) mig0.old = some 32 ∧ mig0.size ≤ 256 * ({ mig0 with moved := 256 } : Mig).moved) ∧
    (∃ s p, s = pend1 (copying { mig0 with waiter := some 0x232 } [1]) [] [] (.table 3 0x20000 0) ∧ s.me.sid.toNat = 0x232 ∧
      s.me.pend = [p] ∧ p.src = .table 3 mig0.pte 0) ∧
    (s0.arg.flag = false ∧ s0.tier.waiting = []) ∧
    (s0.migs = [] ∧ hotLeaf.movable = true ∧ coldLeaf.movable = true ∧ nbit hotLeaf.w0 47 = true ∧ nbit coldLeaf.w0 47 = false ∧
      coldLeaf.size = hotLeaf.size ∧ hotLeaf.pte ≠ coldLeaf.pte ∧ s0.targeted hotLeaf.job hotLeaf.va hotLeaf.size = false ∧
      s0.targeted coldLeaf.job coldLeaf.va coldLeaf.size = false) := by
  refine ⟨?_, ⟨_, 1, rfl, ⟨?_, ?_, ?_, ?_⟩, ?_⟩, ⟨_, 0xFFFF000000000463, rfl, ⟨?_, ?_, ?_, ?_⟩, ?_⟩,
    ⟨_, 0xFFFF000000000063, rfl, ⟨?_, ?_, ?_, ?_⟩, ?_⟩, ⟨_, rfl, ?_⟩, ?_, ⟨_, _, rfl, ?_, rfl, rfl⟩, ?_, ?_⟩ <;> decide +kernel

/-- m2 names the record of multicast group 5, m3 an arrival word; the entries of the match table are given. -/
def mcRec : Obj := record [(0, 9 + 5 * 2 ^ 8)]
def grouped (w : Word) (subs : List (Nat × Nat × Nat × Nat)) : State :=
  { withObj (paged (vst [0, 1, 100, w])) 100 mcRec with fabric := { s0.fabric with subs } }
/-- A packet of one byte for group 5 at 0x2000, with the ports of the group. -/
def packet5 (ports : Nat) (subs : List (Nat × Nat × Nat × Nat)) : State :=
  { (grouped 0 subs) with
    fabric := { s0.fabric with subs, bitmap := [(5, ports)] }, arg := { n := 5, va := 0x2000, bs := [7], kind := 1 } }

/-- A group whose entries of die 0 are 256, all of other jobs. -/
def crowd : List (Nat × Nat × Nat × Nat) := (List.range 256).map fun i => (0, i + 1, 5, 0)
def subCheck (s : State) : Except Stop (List Hit × State) := check rW (.v 0x2000) 8 ((s.issue 4).cacheEntry 100)
def hits5 (s : State) : List Hit :=
  (arrivingAll s s.arg.job rW ((List.range s.arg.bs.length).map fun i => (s.arg.va + i) % 2 ^ 56)).getD []

theorem some_at {α : Type} {x : Option α} (d : α) (h : x.isSome = true) : x = some (x.getD d) := by
  cases x with
  | none => cases h
  | some a => rfl

theorem witness_MulticastGroups :
    (∃ s hs s1, s = grouped 0x2000 [] ∧ s.calm ∧ (Reg.m 2).plain = true ∧ (Reg.m 3).plain = true ∧
      Claims.handle s (s.me.src (.m 2)) 9 .read 100 mcRec ∧ mcRec.fld 0 8 12 = 5 ∧ (s.me.src (.m 3)).toNat = 0x2000 ∧
      subCheck s = .ok (hs, s1) ∧ (s.fabric.subs.filter fun e => e.1 == coreDie s.me.core &&
        !(e.2.1 == 100 / 65536 && e.2.2.1 == 5)).length < 256 ∧ (∀ e ∈ s.fabric.subs, e.2.2.1 ≠ 5)) ∧
    (∃ e ∈ (grouped 0x2000 [(0, 0, 5, 0)]).fabric.subs, e.2.2.1 = 5) ∧
    (∃ s hs s1, s = grouped 0x2000 crowd ∧ s.calm ∧ Claims.handle s (s.me.src (.m 2)) 9 .read 100 mcRec ∧
      (s.me.src (.m 3)).toNat = 0x2000 ∧ subCheck s = .ok (hs, s1) ∧
      256 ≤ (s.fabric.subs.filter fun e => e.1 == coreDie s.me.core && !(e.2.1 == 100 / 65536 && e.2.2.1 == 5)).length) ∧
    (∃ s hs, s = packet5 (2 ^ 79) [(0, 0, 5, 0)] ∧ s.arg.flag = false ∧ s.arg.size ≠ 1 ∧ nbit (s.ports s.arg.n) 79 = true ∧
      arrivingAll s s.arg.job rW ((List.range s.arg.bs.length).map fun i => (s.arg.va + i) % 2 ^ 56) = some hs ∧
      (∀ k ∈ hs.map (cellOf s.arg.job), s.badAt k = false ∧ s.locked k = false) ∧ clearBit (s.ports s.arg.n) 79 = 0 ∧
      (∃ e ∈ s.fabric.subs, e.2.1 = s.arg.job ∧ e.2.2.1 = s.arg.n) ∧
      (∀ e ∈ s.fabric.subs, e.2.1 = s.arg.job → e.2.2.1 = s.arg.n → e.2.2.2 = 0)) ∧
    (∃ s e hs, s = packet5 (2 ^ 79) [(0, 0, 5, 0x3000)] ∧ e = (0, 0, 5, 0x3000) ∧ nbit (s.ports s.arg.n) 79 = true ∧
      arrivingAll s s.arg.job rW ((List.range s.arg.bs.length).map fun i => (s.arg.va + i) % 2 ^ 56) = some hs ∧
      (∀ k ∈ hs.map (cellOf s.arg.job), s.badAt k = false ∧ s.locked k = false) ∧
      (s.fabric.subs.filter fun e => e.2.1 == s.arg.job && e.2.2.1 == s.arg.n) = [e] ∧ e.2.2.2 ≠ 0) ∧
    (∃ s hs, s = packet5 (2 ^ 79) [(0, 0, 6, 0)] ∧ nbit (s.ports s.arg.n) 79 = true ∧
      arrivingAll s s.arg.job rW ((List.range s.arg.bs.length).map fun i => (s.arg.va + i) % 2 ^ 56) = some hs ∧
      (∀ k ∈ hs.map (cellOf s.arg.job), s.badAt k = false ∧ s.locked k = false) ∧
      (∀ e ∈ s.fabric.subs, e.2.1 ≠ s.arg.job ∨ e.2.2.1 ≠ s.arg.n)) ∧
    ((packet5 2 []).arg.flag = false ∧ (packet5 2 []).arg.size ≠ 1 ∧ nbit ((packet5 2 []).ports 5) 79 = false ∧
      (packet5 2 []).ports 5 ≠ 0) := by
  let c := fun l => subCheck (grouped 0x2000 l)
  let h := fun l => hits5 (packet5 (2 ^ 79) l)
  refine ⟨⟨_, val (c []) [], fin (c []), rfl, ?_, ?_, ?_, handle_of ?_ ?_ ?_ ?_, ?_, ?_, ok_eq [] ?_, ?_, ?_⟩, ?_,
    ⟨_, val (c crowd) [], fin (c crowd), rfl, ?_, handle_of ?_ ?_ ?_ ?_, ?_, ok_eq [] ?_, ?_⟩,
    ⟨_, h [(0, 0, 5, 0)], rfl, ?_, ?_, ?_, some_at [] ?_, ?_⟩, ⟨_, _, h [(0, 0, 5, 0x3000)], rfl, rfl, ?_, some_at [] ?_, ?_⟩,
    ⟨_, h [(0, 0, 6, 0)], rfl, ?_, some_at [] ?_, ?_⟩, ?_⟩ <;> decide +kernel

/-- A graph of one RECV of 8 bytes from rank 0, this device; the record of it, loaded or not, its run under way or not. -/
def recv0 : CStep := { w := #v[1, 0, 0, 8], count := 0, st := 0, done := 0, since := 0 }
def cgRec (loaded state : Nat) : Obj :=
  record [(0, 8 + 1 * 2 ^ 8 + loaded * 2 ^ 39 + state * 2 ^ 40), (1, 0x2000), (2, 0x3000)]
def graph0 : CGraph where
  key := 100
  die := 0
  steps := [recv0]
  ranks := [0]
  rank := 0
  running := false
  run := 0
  bases := Vector.replicate 4 0
  word := 0
  launch := none
  held := []
def toLoad (loaded : Nat) : State := { withObj (vst [0, 1, 100]) 100 (cgRec loaded 0) with mem := [(0x2000, 1), (0x2018, 8)] }
def toRun (state : Nat) : State :=
  { withObj (vst [0, 1, 100, 0x2000]) 100 (cgRec 1 state) with fabric := { s0.fabric with graphs := [graph0] } }

/-- What CGLD reads: the steps, then the ranks. -/
def stepsRead (s : State) : Except Stop (List Byte × State) := readVirt 0x2000 32 ((s.issue 4).cacheEntry 100)
def ranksRead (s : State) : Except Stop (List Byte × State) := readVirt 0x3000 2 (fin (stepsRead s))

theorem witness_CollectiveLoadAndRun :
    (∃ s s1 s2 bs rs, s = toLoad 0 ∧ s.calm ∧ (Reg.m 2).plain = true ∧ Claims.handle s (s.me.src (.m 2)) 8 .admin 100 (cgRec 0 0) ∧
      (cgRec 0 0).fld 0 8 7 = 1 ∧ (cgRec 0 0).fld 0 39 1 = 0 ∧ (cgRec 0 0).fld 0 40 2 = 0 ∧
      toW ((cgRec 0 0).fld 1 0 56) = 0x2000 ∧ toW ((cgRec 0 0).fld 2 0 56) = 0x3000 ∧ (cgRec 0 0).fld 0 16 10 = 0 ∧
      stepsRead s = .ok (bs, s1) ∧ readVirt 0x3000 2 s1 = .ok (rs, s2) ∧
      (∀ f ∈ stepChecks s 100 1 (stepsOf 1 bs), ∀ e ∈ (List.range 1).zip (stepsOf 1 bs), f e = true) ∧
      (∀ d ∈ groups 2 1 rs, d = s.devNo ∨ routeEntry s.fabric.routes d = true) ∧
      (s.fabric.graphs.filter fun g => g.die == (cgRec 0 0).fld 0 36 3).length < 16 ∧
      ((s.fabric.graphs.filter fun g => g.die == (cgRec 0 0).fld 0 36 3).map fun g => g.steps.length).sum + 1 ≤ 1024) ∧
    (∃ s, s = toLoad 1 ∧ s.calm ∧ Claims.handle s (s.me.src (.m 2)) 8 .admin 100 (cgRec 1 0) ∧ (cgRec 1 0).fld 0 39 1 = 1) ∧
    (∃ s s1 hs, s = toRun 0 ∧ s.calm ∧ (Reg.m 2).plain = true ∧ (Reg.m 3).plain = true ∧
      Claims.releasable s (graph0.ranks.any (· != s.devNo)) ∧
      Claims.handle s (s.me.src (.m 2)) 8 .call 100 (cgRec 1 0) ∧ (s.me.src (.m 3)).toNat = 0x2000 ∧
      subCheck s = .ok (hs, s1) ∧ (cgRec 1 0).fld 0 39 1 = 1 ∧ s.graph? 100 = some graph0 ∧ (cgRec 1 0).fld 0 40 2 = 0) ∧
    (∃ s s1 hs, s = toRun 1 ∧ s.calm ∧ Claims.handle s (s.me.src (.m 2)) 8 .call 100 (cgRec 1 1) ∧ subCheck s = .ok (hs, s1) ∧
      s.graph? 100 = some graph0 ∧ (cgRec 1 1).fld 0 39 1 = 1 ∧ (cgRec 1 1).fld 0 40 2 ≠ 0) := by
  let c := stepsRead (toLoad 0)
  let d := ranksRead (toLoad 0)
  let e := fun n => subCheck (toRun n)
  refine ⟨⟨_, fin c, fin d, val c [], val d [], rfl, ?_, ?_, handle_of ?_ ?_ ?_ ?_, ?_, ?_, ?_, ?_, ?_, ?_, ok_eq [] ?_, ok_eq [] ?_, ?_⟩,
    ⟨_, rfl, ?_, handle_of ?_ ?_ ?_ ?_, ?_⟩,
    ⟨_, fin (e 0), val (e 0) [], rfl, ?_, ?_, ?_, releasable_of ?_ ?_ ?_, handle_of ?_ ?_ ?_ ?_, ?_, ok_eq [] ?_, ?_⟩,
    ⟨_, fin (e 1), val (e 1) [], rfl, ?_, handle_of ?_ ?_ ?_ ?_, ok_eq [] ?_, ?_⟩⟩ <;> decide +kernel

/-- A run under way of the graph with one step, which is given; what arrives concerns step 0, from rank 1, at 0. -/
def course0 (g : CGraph) : State :=
  { paged (vst []) with
    fabric := { s0.fabric with graphs := [g], apert := [(0, 0, 1), (1, 0, 2)] }
    arg := { h := 100, rank := 1, bs := [7] } }
def step0 (w0 w3 : Word) (done : Nat) : CStep := { recv0 with w := #v[w0, 0x2000, 0x2000, w3], st := 1, done }
def run1 (l : List CStep) : CGraph := { graph0 with steps := l, ranks := [0, 1], running := true }

/-- What the engine of a run writes at its destination of step 0. -/
def laid (x : CStep) (bs : List Byte) (s : State) : Except EngErr (Option EngErr × State) :=
  engWrite 0 0 (s.line ((run1 [x]).dst x) bs.length) bs s

theorem witness_CollectiveCourse :
    (∃ s g x t1, x = step0 0x10001 8 0 ∧ g = run1 [x] ∧ s = course0 g ∧ objKey s.arg.job s.arg.h = 100 ∧ s.graph? 100 = some g ∧
      g.running = true ∧ s.arg.n = g.run ∧ s.arg.rank ≠ g.rank ∧
      g.recvFor { rank := s.arg.rank, tag := s.arg.kind, run := s.arg.n, off := s.arg.m, bytes := s.arg.bs } = some 0 ∧
      g.step? 0 = some x ∧ x.st = 1 ∧ s.arg.m < x.len ∧ s.arg.m + s.arg.bs.length ≤ x.len ∧
      (g.dst x + s.arg.m) % 2 ^ 56 = g.dst x ∧ g.cl = 0 ∧ g.job = 0 ∧ laid x s.arg.bs s = .ok (none, t1)) ∧
    (∃ s g x, x = { step0 0x10001 8 0 with st := 0 } ∧ g = run1 [x] ∧ s = course0 g ∧ s.arg.n = g.run ∧ s.arg.rank ≠ g.rank ∧
      g.recvFor { rank := s.arg.rank, tag := s.arg.kind, run := s.arg.n, off := s.arg.m, bytes := s.arg.bs } = some 0 ∧
      g.step? 0 = some x ∧ x.st = 0 ∧ s.heldBytes g.die + s.arg.bs.length ≤ 4194304) ∧
    (∃ s g x t1, x = step0 2 2 0 ∧ g = run1 [x] ∧ s = course0 g ∧ g.step? s.arg.n = some x ∧ x.op = 2 ∧ x.st = 1 ∧
      x.done < x.chunks ∧ s.arg.kids.length = x.children ∧ s.ownChunk x x.done = some [1, 2] ∧ x.peer = g.rank ∧
      (g.dst x + 128 * x.done) % 2 ^ 56 = g.dst x ∧ laid x (reduceBytes [1, 2] s.arg.kids) s = .ok (none, t1)) ∧
    (∃ s g x, x = step0 0x10002 2 0 ∧ g = run1 [x] ∧ s = course0 g ∧ g.step? s.arg.n = some x ∧ x.op = 2 ∧ x.st = 1 ∧
      x.done < x.chunks ∧ s.arg.kids.length = x.children ∧ s.ownChunk x x.done = some [1, 2] ∧ x.peer ≠ g.rank) ∧
    (∃ s g x p, x = step0 0x10001 8 8 ∧ g = run1 [x] ∧ s = pend1 (course0 g) [] [] (.table 7 100 0) ∧
      g.step? s.arg.n = some x ∧ x.st = 1 ∧ s.stepMet g x = true ∧ g.steps = [x] ∧ x.succs = [] ∧ g.word = 0 ∧ s.me.pend = [p] ∧
      p.src = .table 7 100 0) ∧
    (∃ s g x y, x = step0 0x4100010001 8 8 ∧ y = { recv0 with count := 2 } ∧ g = run1 [x, y] ∧ s = course0 g ∧
      g.step? s.arg.n = some x ∧ x.st = 1 ∧ s.stepMet g x = true ∧ x.succs = [1] ∧ 1 ≠ s.arg.n ∧ g.step? 1 = some y ∧
      2 ≤ y.count ∧ y.st = 0) ∧
    (∃ s g x, x = step0 0x10000 8 8 ∧ g = run1 [x] ∧ s = { course0 g with arg := { h := 100, flag := true } } ∧
      g.step? s.arg.n = some x ∧ x.st = 1 ∧ s.arg.flag = true ∧ stepAcked g x = true) ∧
    (∃ s g x, x = step0 0x10001 0x100000008 0 ∧ g = run1 [x] ∧ s = { course0 g with clk := 1024 } ∧ g.held = [] ∧
      g.word = 0 ∧ g.step? s.arg.n = some x ∧ s.stepLate x = true ∧ g.run = s.arg.n) := by
  let a := step0 0x10001 8 0
  let b := step0 2 2 0
  refine ⟨⟨_, _, _, fin (laid a [7] (course0 (run1 [a]))), rfl, rfl, rfl, ?_, ?_, ?_, ?_, ?_, ?_, ?_, ?_, ?_, ?_, ?_, ?_, ?_, ok_at ?_ ?_ ?_⟩,
    ⟨_, _, _, rfl, rfl, rfl, ?_⟩,
    ⟨_, _, _, fin (laid b (reduceBytes [1, 2] []) (course0 (run1 [b]))), rfl, rfl, rfl, ?_, ?_, ?_, ?_, ?_, ?_, ?_, ?_, ok_at ?_ ?_ ?_⟩,
    ⟨_, _, _, rfl, rfl, rfl, ?_⟩,
    ⟨_, _, _, _, rfl, rfl, rfl, ?_, ?_, ?_, rfl, ?_, ?_, rfl, rfl⟩, ⟨_, _, _, _, rfl, rfl, rfl, rfl, ?_⟩,
    ⟨_, _, _, rfl, rfl, rfl, ?_⟩, ⟨_, _, _, rfl, rfl, rfl, ?_⟩⟩ <;> decide +kernel

/-- m2 names the strand of slot 3 of core 3, m3 the save area at 0x4000. -/
def spilling0 (plv : BitVec 2) : State := { sup (vst [0, 1, 0x233, 0x4000]) with others := [Strand.fresh 0x233 .ready plv] }
def spillSelf : State := sup (vst [0, 1, 0x232, 0x4000])
/-- m2 is the save area at 0x4000, m3 slot 4 of core 3. -/
def restoring (m : Memory) : State := { sup (vst [0, 1, 0x4000, 0x234]) with mem := m }
def areaW (s : State) : Except Stop (Nat × State) := checkArea rW (s.me.src (.m 3)) (s.issue 4)
def areaR (s : State) : Except Stop (Nat × State) := checkArea rR (s.me.src (.m 2)) (s.issue 4)
/-- The same with a job record of job 0 that is being cancelled. -/
def restoringDead (m : Memory) : State := withObj (restoring m) 5 (record [(0, 4 + 4 * 2 ^ 28)])
/-- What RESTORE of the saved area of s needs to complete, its strand dead or not. -/
def restorable (s : State) (dead : Bool) : Prop :=
  ∃ s1 keys ws, Claims.sup s [.m 2, .m 3] ∧ areaR s = .ok (0x4000, s1) ∧
    s1.areaKeys (clusterOf s.me.core) s.me.job.toNat 0x4000 = some keys ∧ (∀ k ∈ keys, s.badAt k = false) ∧
    ws = (groups 8 512 (s.mem.getAll keys)).map toW ∧ wbits (s.me.src (.m 3)) 4 12 = 0x23 ∧ wbits (s.me.src (.m 3)) 0 4 = 4 ∧
    wbits (word? ws 0xC8) 32 16 = 0 ∧ (word? ws 0xD8).getLsbD 31 = true ∧ wbits (s.me.src (.m 3)) 16 16 = s.devNo ∧
    coreExists 0x23 = true ∧ wbits (word? ws 0xB0) 0 2 = 0 ∧ coreKind 0x23 = 0 ∧ wbits (word? ws 0x08) 16 16 = 0 ∧
    s.mailbox? 0 = none ∧ (s.me.src (.m 3)).getLsbD 32 = false ∧ s.serving 0x23 = true ∧ s.slotFree 0x23 4 = true ∧
    (s.sidOf 0x23 4).toNat % 65536 ≠ s.me.sid.toNat % 65536 ∧ s.mem.wf = true ∧ keys.length = 4096 ∧ s.savedDead ws = dead
def areaKeysOf (s : State) : List Nat := ((fin (areaR s)).areaKeys 1 0 0x4000).getD []

theorem restorable_live : restorable (restoring [(0x40DB, 0x80)]) false := by
  let s := restoring [(0x40DB, 0x80)]
  refine ⟨fin (areaR s), areaKeysOf s, _, ⟨?_, ?_, ?_, ?_⟩, ok_at ?_ ?_ ?_, some_at [] ?_, fun _ _ => rfl, rfl, ?_⟩ <;>
    decide +kernel
theorem restorable_dead : restorable (restoringDead [(0x40DB, 0x80)]) true := by
  let s := restoringDead [(0x40DB, 0x80)]
  refine ⟨fin (areaR s), areaKeysOf s, _, ⟨?_, ?_, ?_, ?_⟩, ok_at ?_ ?_ ?_, some_at [] ?_, fun _ _ => rfl, rfl, ?_⟩ <;>
    decide +kernel

theorem witness_SpillAndRestore :
    (∃ s s1 s2 u, s = spilling0 0 ∧ Claims.sup s [.m 2, .m 3] ∧ areaW s = .ok (0x4000, s1) ∧ logWrite 0x4000 s1 = .ok ((), s2) ∧
      (s.me.src (.m 2)).toNat % 2 ^ 32 = 0x233 ∧ s.strand? 0x233 = some u ∧ u.status = .ready ∧ 0x233 / 65536 = s.devNo ∧
      s.spilling 0x233 = false ∧ 0x233 % 65536 ≠ s.me.sid.toNat % 65536 ∧ u.plv ≤ s.me.plv) ∧
    (∃ s s1 s2, s = spillSelf ∧ Claims.sup s [.m 2, .m 3] ∧ areaW s = .ok (0x4000, s1) ∧ logWrite 0x4000 s1 = .ok ((), s2) ∧
      (s.me.src (.m 2)).toNat % 2 ^ 32 = 0x232 ∧ s.strand? 0x232 = some s.me ∧ s.me.status = .ready ∧ 0x232 / 65536 = s.devNo ∧
      s.spilling 0x232 = false ∧ 0x232 % 65536 = s.me.sid.toNat % 65536) ∧
    (∃ s s1 s2 u, s = spilling0 2 ∧ Claims.sup s [.m 2, .m 3] ∧ areaW s = .ok (0x4000, s1) ∧ logWrite 0x4000 s1 = .ok ((), s2) ∧
      (s.me.src (.m 2)).toNat % 2 ^ 32 = 0x233 ∧ s.strand? 0x233 = some u ∧ u.status = .ready ∧ s.spilling 0x233 = false ∧
      ¬ u.plv ≤ s.me.plv) ∧
    (∃ keys, s0.mem.wf = true ∧ keys = List.range' 0x4000 4096 ∧ keys.Nodup ∧ keys.length = 4096 ∧
      (∀ k ∈ keys, s0.badAt k = false ∧ k < 2 ^ 60) ∧ s0.me.status = .ready ∧ s0.me.skip = none) ∧
    restorable (restoring [(0x40DB, 0x80)]) false ∧ restorable (restoringDead [(0x40DB, 0x80)]) true ∧
    (∃ s s1 keys ws, s = restoring [] ∧ Claims.sup s [.m 2, .m 3] ∧ areaR s = .ok (0x4000, s1) ∧
      s1.areaKeys (clusterOf s.me.core) s.me.job.toNat 0x4000 = some keys ∧ (∀ k ∈ keys, s.badAt k = false) ∧
      ws = (groups 8 512 (s.mem.getAll keys)).map toW ∧ (word? ws 0xD8).getLsbD 31 = false) := by
  let l := fun s => logWrite 0x4000 (fin (areaW s))
  refine ⟨⟨_, fin (areaW (spilling0 0)), fin (l (spilling0 0)), Strand.fresh 0x233 .ready 0, rfl, ⟨?_, ?_, ?_, ?_⟩, ok_at ?_ ?_ ?_, ok_at ?_ ?_ ?_, ?_⟩,
    ⟨_, fin (areaW spillSelf), fin (l spillSelf), rfl, ⟨?_, ?_, ?_, ?_⟩, ok_at ?_ ?_ ?_, ok_at ?_ ?_ ?_, ?_⟩,
    ⟨_, fin (areaW (spilling0 2)), fin (l (spilling0 2)), Strand.fresh 0x233 .ready 2, rfl, ⟨?_, ?_, ?_, ?_⟩, ok_at ?_ ?_ ?_, ok_at ?_ ?_ ?_, ?_⟩,
    ⟨_, ?_, rfl, List.nodup_range', List.length_range', fun k hk => ⟨rfl, ?r⟩, ?_, ?_⟩,
    restorable_live, restorable_dead, ⟨_, fin (areaR (restoring [])), areaKeysOf (restoring []), _, rfl, ⟨?_, ?_, ?_, ?_⟩, ok_at ?_ ?_ ?_, some_at [] ?_, fun _ _ => rfl, rfl, ?_⟩⟩
  case r =>
    have := List.mem_range'_1.1 hk
    omega
  all_goals decide +kernel

/-- The strand of slot 0 of system core 0, at supervisor level, with the operation in m2. -/
def sys0 (op : Word) (lehr : Nat) : State :=
  { (st [0, 1, op]) with
    me := { (st [0, 1, op]).me with sid := 0x120, core := 0x12, slot := 0, plv := 1 }, device := { s0.device with lehr } }

theorem witness_LehrAndPower :
    ((sup (st [0, 1, 0])).calm ∧ 1 ≤ (sup (st [0, 1, 0])).me.plv.toNat ∧ (Reg.m 2).plain = true ∧
      isSys0 (sup (st [0, 1, 0])).me.core = false) ∧
    ((sys0 0 1).calm ∧ 1 ≤ (sys0 0 1).me.plv.toNat ∧ isSys0 (sys0 0 1).me.core = true ∧ (sys0 0 1).lehrMoves = true) ∧
    ((sys0 0 0).calm ∧ 1 ≤ (sys0 0 0).me.plv.toNat ∧ isSys0 (sys0 0 0).me.core = true ∧ (sys0 0 0).lehrMoves = false) ∧
    ((sys0 0 1).device.lehr = 1 ∧ (sys0 0 1).fabric.reqs = [] ∧
      (asked (sys0 0 1) 0).device.lehr = 1 ∧ (asked (sys0 0 1) 0).fabric.reqs ≠ []) ∧
    (sys0 0 3).device.lehr = 3 ∧
    ({ (sys0 0 0).device with lehrArmed := true } : Device).lehrArmed = true ∧ (sys0 0 0).device.lehrArmed = false ∧
    (sys0 0 2).device.lehr = 2 ∧ (sys0 0 2).lehrMoves = false := by
  refine ⟨⟨?_, ?_, ?_, ?_⟩, ⟨?_, ?_, ?_, ?_⟩, ⟨?_, ?_, ?_, ?_⟩, ?_⟩ <;> decide +kernel

/-- A section of 16 bytes for system core 0 at offset 0x100 of its store. -/
def sec0 : Section := { off := 0, len := 16, lso := 0x100, tgt := 0, spare := 0 }

theorem witness_BootAndManagement :
    (s0.arg.flag = false ∧
      s0.device.sources.find? (imageGood ((SMap.find s0.arg.die s0.device.rollback).getD 0)) = none) ∧
    (targetCores 0 sec0.tgt = [0x12] ∧ 0x12 < 4096 ∧ sec0.tgt < 3 ∧ sec0.off + sec0.len ≤ (List.replicate 16 (7 : Byte)).length ∧
      sec0.lso + sec0.len ≤ 2 ^ 20 ∧ 15 < sec0.len ∧ s0.mem.wf = true ∧ s0.devNo < 65536) := by
  decide +kernel

/-- Every cluster of die 0 drained. -/
def dry : State := { s0 with device := { s0.device with drained := List.range 16 } }
/-- An obituary of device 1, which a run on this device names. -/
def mourned (ranks : List Nat) : State :=
  { s0 with fabric := { s0.fabric with graphs := [{ run1 [recv0] with ranks }] }, arg := { dev := 1 } }

theorem witness_DeviceCourse :
    (s0.device.drained.contains s0.arg.cl = false ∧ s0.device.closing = [] ∧ s0.enginesRest s0.arg.cl = true ∧
      (∀ u ∈ s0.strands, clusterOf u.homeCore ≠ s0.arg.cl ∧ clusterOf u.core ≠ s0.arg.cl) ∧ s0.queues.ring = [] ∧
      s0.queues.waits = [] ∧ s0.queues.run = [] ∧
      (s0.queues.die.filter fun e => e.1 == 0).length + (s0.queues.task.filter fun e => e.1 == 0).length ≤ 4096) ∧
    (dry.replays = [] ∧ dry.obj = [] ∧ (∀ c < 16, dry.device.drained.contains (dry.arg.die * 16 + c) = true)) ∧
    (∃ c < 16, s0.device.drained.contains (s0.arg.die * 16 + c) = false) ∧
    ((mourned [0]).fabric.dead.contains (mourned [0]).arg.dev = false ∧
      ∀ g ∈ (mourned [0]).fabric.graphs, g.ranks.contains (mourned [0]).arg.dev = false) ∧
    (∃ s g, s = mourned [0, 1] ∧ s.fabric.dead.contains s.arg.dev = false ∧ s.fabric.graphs = [g] ∧
      g.ranks.contains s.arg.dev = true ∧ g.running = true ∧ g.held = [] ∧ g.word = 0) ∧
    ((mourned []).devNo / 32 = 2 / 32 ∧ 2 ≠ (mourned []).devNo ∧ (mourned []).arg.dev / 32 = (mourned []).devNo / 32 ∧
      (mourned []).arg.dev ≠ 2) ∧
    (∃ s, s = { withObj s0 200 (record [(0, 4 + 7 * 2 ^ 8)]) with arg := { job := 7 } } ∧
      (s.others = [] ∧ s.queues.task = [] ∧ s.queues.die = [] ∧ s.queues.ring = [] ∧ s.queues.waits = [] ∧ s.queues.run = [] ∧
        s.engines.cmds = [] ∧ s.engines.xfers = [] ∧ s.fabric.graphs = []) ∧
      s.launches.die = [] ∧ s.remaps = [] ∧ s.fabric.subs = [] ∧ findJob s.arg.job s.obj = some 200 ∧
      s.me.job.toNat ≠ s.arg.job) := by
  refine ⟨?_, ?_, ?_, ?_, ⟨_, _, rfl, ?_, rfl, ?_⟩, ?_, ⟨_, rfl, ?_⟩⟩ <;> decide +kernel

/-- A strand that owes a fault of class 8. -/
def owing (core : Nat) : State :=
  { pend1 s0 [] [] (.fault 8 0 0x2000) with me := { (pend1 s0 [] [] (.fault 8 0 0x2000)).me with core } }

theorem witness_OwedTrapAndWatchdog :
    (∃ p, (owing 0x23).me.pend = [p] ∧ p.src = .fault 8 0 0x2000 ∧ p.own = 0 ∧
      (owing 0x23).me.core = (owing 0x23).me.homeCore ∧ (owing 0x23).me.skip = none ∧ unhandled p.tvec p.xpc = false) ∧
    (∃ p, (owing 0x24).me.pend = [p] ∧ p.src = .fault 8 0 0x2000 ∧ p.own = 0 ∧ (owing 0x24).me.core ≠ (owing 0x24).me.homeCore) := by
  refine ⟨⟨_, rfl, rfl, rfl, ?_⟩, ⟨_, rfl, rfl, rfl, ?_⟩⟩ <;> decide +kernel

theorem witness_DecodeAndEncodeAgree :
    ((Instr.add (.m 3) (.m 3) (.m 4) 0).wf = true ∧ (Instr.add (.m 3) (.m 3) (.m 4) 0).hasWord = true) ∧
    Dec.bytes [0x64, 0x08, 9] = .ok (.compactAdd (.m 3) (.m 4), [9]) := by decide +kernel

/-- Its own core's store holds an addition at pc, or a word that is no instruction. -/
def coded (bs : List Byte) : State :=
  { s0 with mem := Memory.setAll [] ((List.range bs.length).map fun i => (lsKey 0x23 (0x400 + i), bs.getD i 0)) }

theorem witness_StepRunsDecoded :
    (∃ s i, s = coded [0x31, 0x80, 0x00, 0x90] ∧ i = .add (.m 3) (.m 3) (.m 4) 0 ∧ i.wf = true ∧ i.hasWord = true ∧ 0x23 < 4096 ∧
      (0x400 : BitVec 48).toNat + i.len ≤ 2 ^ 20 ∧ (∀ j < i.len, s.badAt (lsKey 0x23 ((0x400 : BitVec 48).toNat + j)) = false ∧
        s.byte (lsKey 0x23 ((0x400 : BitVec 48).toNat + j)) = i.bytes.getD j 0) ∧
      s.me.storeErr = none ∧ s.me.skip = none ∧ s.fetch s.me.core s.me.pc = .instr i ∧
      s.moves = [.issue s.me.sid.toNat]) ∧
    (∃ w, (coded [0xFF, 0xFF, 0xFF, 0xFF]).fetch 0x23 0x400 = .none w) ∧ 2 ^ 20 ≤ (0x100000 : BitVec 48).toNat := by
  refine ⟨⟨_, _, rfl, rfl, ?_⟩, ⟨0xFFFFFFFF, ?_⟩, ?_⟩ <;> decide +kernel

def isNext (o : Out) : Bool :=
  match o with
  | .next _ => true
  | _ => false

theorem map_next (f : State → State) {o : Out} (h : isNext o = true) : ∃ t, Out.map f o = .next t := by
  cases o with
  | next s => exact ⟨_, rfl⟩
  | fault r => cases h
  | refused r => cases h

theorem witness_MemoryStaysCanonical :
    ∃ s t, s = coded [0x31, 0x80, 0x00, 0x90] ∧ s.canonical = true ∧ step s = .next t := by
  have make : isNext ((coded [0x31, 0x80, 0x00, 0x90]).make (.issue 0x232)) = true := by decide +kernel
  have moves : (coded [0x31, 0x80, 0x00, 0x90]).moves = [.issue 0x232] := by decide +kernel
  obtain ⟨t, h⟩ := map_next (fun t => t.settle.tick) make
  refine ⟨_, t, rfl, by decide +kernel, ?_⟩
  simpa only [step, State.advance, moves, State.choose] using h

/-! Ill-formed terms, one for each check of WellFormed: each is refused. -/

theorem test_wf_destination : (Instr.add .q (.m 1) (.m 2) 0).wf = false ∧ (Instr.waitp .q (.m 1) (.m 2) 0 0).wf = false := by decide
theorem test_wf_cvt_types : (Instr.cvt (.m 1) (.m 2) 14 10 .rne true 0).wf = false ∧
    (Instr.cvt (.m 1) (.m 2) 12 15 .rne true 0).wf = false := by decide
theorem test_wf_swr_read_only : (Instr.swr .sid (.m 1) 0).wf = false ∧ (Instr.swr .plv (.m 1) 0).wf = false := by decide
theorem test_wf_loop_destination : (Instr.loop .l0 (-4) 0).wf = false ∧ (Instr.loop (.t 1) (-4) 0).wf = false := by decide
theorem test_wf_pair_form : (Instr.lda (.m 1) (.m 2) 0 .b8 true 0).wf = false ∧ (Instr.sta (.m 2) (.m 4) 0 .b4 true 0).wf = false ∧
    (Instr.lda (.m 1) (.m 2) 0 .b2 false 0).wf = false := by decide
theorem test_wf_line_types : (Instr.vadd (.k 1) (.k 2) (.k 3) 15 0).wf = false ∧ (Instr.vabs (.k 1) (.k 2) 6 0).wf = false ∧
    (Instr.vshl (.k 1) (.k 2) (.k 3) 12 0).wf = false ∧ (Instr.vbcast (.k 1) (.m 2) 10 0).wf = false := by decide
theorem test_wf_compare_unordered : (Instr.vcmp .un 5 (.k 1) (.k 2) 2 0).wf = false ∧ (Instr.vcmp .lt 5 (.k 1) (.k 2) 15 0).wf = false := by
  decide
theorem test_wf_line_to_scalar : (Instr.vget (.m 1) (.k 2) (.m 3) 4 0).wf = false ∧ (Instr.vrmax (.m 1) (.k 2) 15 0).wf = false := by
  decide
theorem test_wf_vcvt_destination : (Instr.vcvt (.k 1) (.k 2) .fp32 false 0 14 0).wf = false ∧
    (Instr.vcvt (.k 1) (.k 2) .fp32 false 0 3 0).wf = false := by decide
theorem test_wf_memory_types : (Instr.vld (.k 1) (.m 2) (.m 3) 13 0).wf = false ∧ (Instr.strm 1 (.m 2) (.m 3) 7 0).wf = false := by decide
theorem test_wf_opwait_detached : (Instr.opwait (.m 1) 15).wf = false := by decide

/-! One step on a small state, with results computed by hand from the spec. -/

/-- The state after an instruction, from one where m1, m2, ... hold the words given. -/
def after (i : Instr) (l : List Word) : State := match exec i (st (0 :: l)) with
  | .next t => t
  | _ => State.reset
/-- m1 after it, with m2 and m3 given. -/
def m1 (i : Instr) (x y : Word) : Word := (after i [9, x, y]).me.src (.m 1)

/-- Section 5.2: DIV of -7 by 2 gives -3 and REM gives -1; DIVN of 7 by 0 gives all ones; R77: the one overflow. -/
theorem test_divisions : m1 (.div (.m 1) (.m 2) (.m 3) 0 0) (-7) 2 = -3 ∧ m1 (.rem (.m 1) (.m 2) (.m 3) 0 0) (-7) 2 = -1 ∧
    m1 (.divn (.m 1) (.m 2) (.m 3) 0 0) 7 0 = 0xFFFFFFFFFFFFFFFF := by decide +kernel
theorem test_add_wraps : m1 (.add (.m 1) (.m 2) (.m 3) 0) 0xFFFFFFFFFFFFFFFF 2 = 1 := by decide +kernel
theorem test_mulh_signs : m1 (.mulh (.m 1) (.m 2) (.m 3) 0) (-1) 2 = 0xFFFFFFFFFFFFFFFF ∧
    m1 (.mulhn (.m 1) (.m 2) (.m 3) 0) 0xFFFFFFFFFFFFFFFF 2 = 1 := by decide +kernel
theorem test_shifts : m1 (.sha (.m 1) (.m 2) (.m 3) 0) 0x8000000000000000 65 = 0xC000000000000000 ∧
    m1 (.rot (.m 1) (.m 2) (.m 3) 0) 0x8000000000000001 1 = 3 := by decide +kernel
theorem test_bit_gather : m1 (.bext (.m 1) (.m 2) (.m 3) 0) 0xABCD 0xF0F0 = 0xAC ∧
    m1 (.bdep (.m 1) (.m 2) (.m 3) 0) 0xAC 0xF0F0 = 0xA0C0 := by decide +kernel
/-- 1.0 + 2.0 = 3.0, and the least denormal is kept (R47). -/
theorem test_fadd : m1 (.fadd (.m 1) (.m 2) (.m 3) 0) 0x3F800000 0x40000000 = 0x40400000 ∧
    m1 (.fadd (.m 1) (.m 2) (.m 3) 0) 1 0 = 1 := by decide +kernel
/-- 258.0 to I8 saturates at 127; 1.5 rounds to 2 to nearest even and to 1 toward zero. -/
theorem test_cvt : m1 (.cvt (.m 1) (.m 2) 12 0 .rne true 0) 0x43810000 0 = 127 ∧
    m1 (.cvt (.m 1) (.m 2) 12 2 .rne true 0) 0x3FC00000 0 = 2 ∧ m1 (.cvt (.m 1) (.m 2) 12 2 .rz true 0) 0x3FC00000 0 = 1 := by
  decide +kernel
/-- The result goes to l0 as well, and the old l0 to l1 (R65). -/
theorem test_last_results : (after (.add (.m 1) (.m 2) (.m 3) 0) [9, 2, 3]).me.l0 = 5 ∧
    (after (.add (.m 1) (.m 2) (.m 3) 0) [9, 2, 3]).me.l1 = 0 ∧
    (after (.cmpeqi 3 (.m 2) 2 0) [9, 2, 3]).me.l0 = 0 ∧ (after (.cmpeqi 3 (.m 2) 2 0) [9, 2, 3]).me.pw = 9 := by decide +kernel
/-- Section 5.9: BR p3 to a label six halfwords back; p3 is 0, so BR falls through and BR_F goes there. -/
theorem test_branches : (after (.br 3 (-6)) []).me.pc = 0x404 ∧ (after (.brF 3 (-6)) []).me.pc = 0x3F4 ∧
    (after (.loop (.m 1) (-4) 0) [1]).me.pc = 0x404 ∧ (after (.loop (.m 1) (-4) 0) [2]).me.pc = 0x3F8 := by decide +kernel
/-- A call writes the link to m7 of the new window, two frames on (R91, R63). -/
theorem test_call : (after (.call 8) [9]).me.pc = 0x410 ∧ (after (.call 8) [9]).me.src (.m 7) = 0x404 := by decide +kernel
/-- TRAP goes to tvec with the code in tval and the next instruction in xpc (R358, R360). -/
theorem test_trap : (after (.trap 5) []).me.pc = 0x800 ∧ (after (.trap 5) []).me.tval = 5 ∧ (after (.trap 5) []).me.xpc = 0x404 ∧
    (after (.trap 5) []).me.plv = 0 := by decide +kernel
/-- Section 7.3: STL.8 at 0xE00F_FFFC writes bytes 4 to 7 at offsets 0 to 3 of the own store, little-endian; that reaches
the dirty-page log, so it takes supervisor level (R120). -/
def wrapped : State := match exec (.stl (.m 1) (.m 2) 0 .b8 0) (sup (st [0, 0x8877665544332211, 0xE00FFFFC])) with
  | .next t => t
  | _ => State.reset
theorem test_local_wrap : wrapped.byte (lsKey 0x23 0xFFFFC) = 0x11 ∧ wrapped.byte (lsKey 0x23 3) = 0x88 ∧
    (after (.stl (.m 1) (.m 2) 0 .b8 0) [0, 0xE00FFFFC]).me.tcause = 2 := by decide +kernel

/-! Words laid out bit by bit from the encoding tables. -/

def reads (x : Nat × Nat × Instr) : Bool := decide (decodeTableWord x.1 x.2.1 = some x.2.2)
/-- Words of the spec's encoding tables (Tables 2.9 to 2.14, arith), one for each instruction. -/
theorem test_decode_arith : [
    (32, 0b1_000000_10010_11101_10111_000_010_0000, .add (.o 2) .q .l1 2),
    (32, 0b1_000000_10110_11000_11110_001_011_0000, .sub .l0 .z .pw 3),
    (32, 0b1_000000_11001_10001_10100_010_100_0000, .mul (.t 0) (.o 1) (.o 4) 4),
    (32, 0b1_000000_01100_11100_01111_011_101_0000, .mulh (.m 12) (.t 3) (.m 15) 5),
    (32, 0b1_000000_00011_00101_01001_100_110_0000, .mulhn (.m 3) (.m 5) (.m 9) 6),
    (32, 0b1_000000_10010_11101_10111_101_111_0111, .div (.o 2) .q .l1 7 7),
    (32, 0b1_000000_10110_11000_11110_110_001_1000, .divn .l0 .z .pw 1 8),
    (32, 0b1_000000_11001_10001_10100_111_010_1001, .rem (.t 0) (.o 1) (.o 4) 2 9)].all reads = true := by decide +kernel

/-- Words of the spec's encoding tables (Tables 2.9 to 2.14, logic), one for each instruction. -/
theorem test_decode_logic_1 : [
    (32, 0b1_000001_01100_11100_01111_000_011_0000, .and (.m 12) (.t 3) (.m 15) 3),
    (32, 0b1_000001_00011_00101_01001_001_100_0000, .or (.m 3) (.m 5) (.m 9) 4),
    (32, 0b1_000001_10010_11101_10111_010_101_0000, .xor (.o 2) .q .l1 5),
    (32, 0b1_000001_10110_11000_11110_011_110_0000, .andn .l0 .z .pw 6),
    (32, 0b1_000001_11001_10001_10100_100_111_0000, .orn (.t 0) (.o 1) (.o 4) 7),
    (32, 0b1_000001_01100_11100_01111_101_001_0000, .xnor (.m 12) (.t 3) (.m 15) 1),
    (32, 0b1_000001_00011_00101_01001_110_010_0000, .min (.m 3) (.m 5) (.m 9) 2),
    (32, 0b1_000001_10010_11101_10111_111_011_0000, .max (.o 2) .q .l1 3),
    (32, 0b1_000010_10110_11000_11110_000_100_0000, .shl .l0 .z .pw 4),
    (32, 0b1_000010_11001_10001_10100_001_101_0000, .shr (.t 0) (.o 1) (.o 4) 5),
    (32, 0b1_000010_01100_11100_01111_010_110_0000, .sha (.m 12) (.t 3) (.m 15) 6),
    (32, 0b1_000010_00011_00101_01001_011_111_0000, .rot (.m 3) (.m 5) (.m 9) 7),
    (32, 0b1_000010_10010_11101_10111_100_001_0000, .minn (.o 2) .q .l1 1),
    (32, 0b1_000010_10110_11000_11110_101_010_0000, .maxn .l0 .z .pw 2),
    (32, 0b1_000010_11001_10001_00000110_011_0000, .clz (.t 0) (.o 1) 3),
    (32, 0b1_000010_01100_11100_00000111_100_0000, .popc (.m 12) (.t 3) 4),
    (32, 0b1_000011_00011_00101_01001_000_101_0000, .bext (.m 3) (.m 5) (.m 9) 5),
    (32, 0b1_000011_10010_11101_10111_001_110_0000, .bdep (.o 2) .q .l1 6),
    (32, 0b1_000011_10110_11000_00000010_111_0000, .brev .l0 .z 7),
    (32, 0b1_000011_11001_10001_10100_011_001_0000, .scadd (.t 0) (.o 1) (.o 4) 1)].all reads = true := by decide +kernel

/-- Words of the spec's encoding tables (Tables 2.9 to 2.14, logic), one for each instruction. -/
theorem test_decode_logic_2 : [
    (32, 0b1_000011_01100_11100_01111_100_010_0000, .sel (.m 12) (.t 3) (.m 15) 2),
    (32, 0b1_000100_00011_00101_01001_11010010_00, .lut3 (.m 3) (.m 5) (.m 9) 0xd2),
    (32, 0b1_000101_10010_11101_10111_00_110010_00, .fsl (.o 2) .q .l1 0x32),
    (32, 0b1_000101_10110_11000_11110_01_110010_00, .fsr .l0 .z .pw 0x32)].all reads = true := by decide +kernel

/-- Words of the spec's encoding tables (Tables 2.9 to 2.14, compare), one for each instruction. -/
theorem test_decode_compare : [
    (32, 0b1_000110_0_1101_10001_10100_000_110_0000, .cmpeq 13 (.o 1) (.o 4) 6),
    (32, 0b1_000110_0_1101_11100_01111_001_111_0000, .cmpne 13 (.t 3) (.m 15) 7),
    (32, 0b1_000110_0_1101_00101_01001_010_001_0000, .cmplt 13 (.m 5) (.m 9) 1),
    (32, 0b1_000110_0_1101_11101_10111_011_010_0000, .cmple 13 .q .l1 2),
    (32, 0b1_000110_0_1101_11000_11110_100_011_0000, .cmpltn 13 .z .pw 3),
    (32, 0b1_000110_0_1101_10001_10100_101_100_0000, .cmplen 13 (.o 1) (.o 4) 4),
    (32, 0b1_000110_0_1101_11100_01111_110_101_0000, .tst 13 (.t 3) (.m 15) 5),
    (32, 0b1_000111_0_1101_0_0110_0_1011_000_110_0000, .pand 13 6 11 6),
    (32, 0b1_000111_0_1101_0_0110_0_1011_001_111_0000, .por 13 6 11 7),
    (32, 0b1_000111_0_1101_0_0110_0_1011_010_001_0000, .pxor 13 6 11 1),
    (32, 0b1_000111_0_1101_0_0110_00000011_010_0000, .pnot 13 6 2)].all reads = true := by decide +kernel

/-- Words of the spec's encoding tables (Tables 2.9 to 2.14, immediate), one for each instruction. -/
theorem test_decode_immediate : [
    (32, 0b1_001000_01100_11100_101011010010_011, .addi (.m 12) (.t 3) 0xad2 3),
    (32, 0b1_001001_00011_00101_101011010010_100, .andi (.m 3) (.m 5) 0xad2 4),
    (32, 0b1_001010_10010_11101_101011010010_101, .ori (.o 2) .q 0xad2 5),
    (32, 0b1_001011_10110_11000_101011010010_110, .xori .l0 .z 0xad2 6),
    (32, 0b1_001100_11001_10001_000000_110010_111, .shli (.t 0) (.o 1) 0x32 7),
    (32, 0b1_001100_01100_11100_000001_110010_001, .shri (.m 12) (.t 3) 0x32 1),
    (32, 0b1_001100_00011_00101_000010_110010_010, .shai (.m 3) (.m 5) 0x32 2),
    (32, 0b1_001101_0_1101_11101_00_1011010010_011, .cmpeqi 13 .q 0x2d2 3),
    (32, 0b1_001101_0_1101_11000_01_1011010010_100, .cmplti 13 .z 0x2d2 4),
    (32, 0b1_001101_0_1101_10001_10_1011010010_101, .cmpltni 13 (.o 1) 0x2d2 5),
    (32, 0b1_001110_01100_11001110001011010010, .lui (.m 12) 0xce2d2),
    (32, 0b1_001111_00011_11001110001011010010, .addpc (.m 3) 0xce2d2)].all reads = true := by decide +kernel

/-- Words of the spec's encoding tables (Tables 2.9 to 2.14, float), one for each instruction. -/
theorem test_decode_float : [
    (32, 0b1_010000_10010_11101_10111_000_001_0000, .fadd (.o 2) .q .l1 1),
    (32, 0b1_010000_10110_11000_11110_001_010_0000, .fsub .l0 .z .pw 2),
    (32, 0b1_010000_11001_10001_10100_010_011_0000, .fmul (.t 0) (.o 1) (.o 4) 3),
    (32, 0b1_010000_01100_11100_01111_011_100_0000, .fma (.m 12) (.t 3) (.m 15) 4),
    (32, 0b1_010000_00011_00101_01001_100_101_0101, .fdiv (.m 3) (.m 5) (.m 9) 5 5),
    (32, 0b1_010000_10010_11101_00000101_110_0110, .fsqrt (.o 2) .q 6 6),
    (32, 0b1_010000_10110_11000_11110_110_111_0000, .fmin .l0 .z .pw 7),
    (32, 0b1_010000_11001_10001_10100_111_001_0000, .fmax (.t 0) (.o 1) (.o 4) 1),
    (32, 0b1_010001_0_1101_11100_01111_000_010_0000, .fcmpeq 13 (.t 3) (.m 15) 2),
    (32, 0b1_010001_0_1101_00101_01001_001_011_0000, .fcmplt 13 (.m 5) (.m 9) 3),
    (32, 0b1_010001_0_1101_11101_10111_010_100_0000, .fcmple 13 .q .l1 4),
    (32, 0b1_010001_0_1101_11000_11110_011_101_0000, .fcmpun 13 .z .pw 5),
    (32, 0b1_010010_11001_10001_1_011_1100_1001_110, .cvt (.t 0) (.o 1) 9 12 .rd true 6),
    (32, 0b1_010011_01100_11100_01111_000_111_1110, .dadd (.m 12) (.t 3) (.m 15) 7 14),
    (32, 0b1_010011_00011_00101_01001_001_001_0001, .dsub (.m 3) (.m 5) (.m 9) 1 1),
    (32, 0b1_010011_10010_11101_10111_010_010_0010, .dmul (.o 2) .q .l1 2 2),
    (32, 0b1_010011_10110_11000_11110_011_011_0011, .dfma .l0 .z .pw 3 3),
    (32, 0b1_010011_11001_10001_10100_100_100_0100, .ddiv (.t 0) (.o 1) (.o 4) 4 4),
    (32, 0b1_010011_01100_11100_00000101_101_0101, .dsqrt (.m 12) (.t 3) 5 5)].all reads = true := by decide +kernel

/-- Words of the spec's encoding tables (Tables 2.9 to 2.14, sys), one for each instruction. -/
theorem test_decode_sys : [
    (32, 0b1_010100_00011_00000000_000000110_110, .srd (.m 3) .home 6),
    (32, 0b1_010100_00000_11101_001_000001001_111, .swr .wsp .q 7),
    (32, 0b1_010100_00000_11000_010000000_101_001, .ext 5 .z 1),
    (32, 0b1_010100_11001_00000011000000000000, .rdcyc (.t 0)),
    (32, 0b1_010100_0000000000110_111010010_000, .trap 0x1d2),
    (32, 0b1_010100_0000000000100000000000000, .nop),
    (32, 0b1_010100_0000000000101000000000000, .idle),
    (32, 0b1_010100_0000000000111000000000000, .rte)].all reads = true := by decide +kernel

/-- Words of the spec's encoding tables (Tables 2.9 to 2.14, branch), one for each instruction. -/
theorem test_decode_branch : [
    (32, 0b1_010101_1_1101_11001110001011010010, .br 13 0xce2d2),
    (32, 0b1_010101_0_1101_11001110001011010010, .brF 13 0xce2d2),
    (32, 0b1_010110_1001011001110001011010010, .call 0x12ce2d2),
    (32, 0b1_010111_00000_10001_00000000_111_0000, .jr (.o 1) 7),
    (32, 0b1_010111_00000_11100_00000001_001_0000, .callr (.t 3) 1),
    (32, 0b1_010111_000000000000000010_010_0000, .ret 2)].all reads = true := by decide +kernel

/-- Words of the spec's encoding tables (Tables 2.9 to 2.14, task), one for each instruction. -/
theorem test_decode_task : [
    (32, 0b1_011000_10011_00000_101011010010_011, .loop (.o 3) 0xad2 3),
    (32, 0b1_011001_00000_11000_11110_010_100_0000, .susp .z .pw 4),
    (32, 0b1_011001_11001_10001_00000011_101_0101, .migr (.t 0) (.o 1) 5 5),
    (32, 0b1_011001_000000000000000100_110_0110, .home 6 6),
    (32, 0b1_011001_00011_00101_01001_101_111_0111, .spawn (.m 3) (.m 5) (.m 9) 7 7),
    (32, 0b1_011001_10010_11101_10111_110_001_1000, .spawnh (.o 2) .q .l1 1 8),
    (32, 0b1_011001_10110_11000_11110_111_010_1001, .send .l0 .z .pw 2 9),
    (32, 0b1_011010_11001_0000000000000_011_0000, .qtest (.t 0) 3),
    (32, 0b1_011010_01100_11100_01111_001_100_1011, .launch (.m 12) (.t 3) (.m 15) 4 11),
    (32, 0b1_011010_00011_00101_00000010_101_1100, .grun (.m 3) (.m 5) 5 12),
    (32, 0b1_011010_10010_11101_10111_011_110_1101, .cancelLaunch (.o 2) .q .l1 6 13),
    (32, 0b1_011010_10110_11000_00000100_111_1110, .callm .l0 .z 7 14),
    (32, 0b1_011010_11001_10001_10100_101_001_0001, .callq (.t 0) (.o 1) (.o 4) 1 1),
    (32, 0b1_011010_00000_11100_01111_110_010_0010, .callw (.t 3) (.m 15) 2 2),
    (32, 0b1_011011_00011_00101_01001_1_10_011_0011, .stf (.m 3) (.m 5) (.m 9) 2 true 3 3),
    (32, 0b1_011001_0000000000000000000000000, .endTask),
    (32, 0b1_011001_0000000000000000010000000, .yield)].all reads = true := by decide +kernel

/-- Words of the spec's encoding tables (Tables 2.9 to 2.14, memory), one for each instruction. -/
theorem test_decode_memory_1 : [
    (32, 0b1_100000_10010_11101_11010010_101_0100, .ld (.o 2) .q 0xd2 .b2 true 4),
    (32, 0b1_100001_10110_11000_11010010_0_01_0101, .st .l0 .z 0xd2 .b2 5),
    (32, 0b1_100010_00100_10001_11010010_111_0110, .lda (.m 4) (.o 1) 0xd2 .b8 true 6),
    (32, 0b1_100011_00100_11100_11010010_111_0111, .sta (.m 4) (.t 3) 0xd2 .b8 true 7),
    (32, 0b1_100100_00011_00101_11010010_101_1000, .ldl (.m 3) (.m 5) 0xd2 .b2 true 8),
    (32, 0b1_100101_10010_11101_11010010_0_01_1001, .stl (.o 2) .q 0xd2 .b2 9),
    (32, 0b1_100110_10110_11000_11110_000_011_1010, .ldx .l0 .z .pw 3 10),
    (32, 0b1_100110_11001_10001_10100_001_100_1011, .stx (.t 0) (.o 1) (.o 4) 4 11),
    (32, 0b1_100110_01100_11100_00000010_101_1100, .lrw (.m 12) (.t 3) 5 12),
    (32, 0b1_100110_00011_00101_00000011_110_1101, .scv (.m 3) (.m 5) 6 13),
    (32, 0b1_100110_00000_11101_00000100_111_1110, .relq .q 7 14),
    (32, 0b1_100110_10_100_0000000000101_001_0000, .fence .package .acq 1),
    (32, 0b1_100110_000000000000000110_010_0000, .ifence 2),
    (32, 0b1_100110_01011_11100_01111_111_011_0011, .vamoBf16 (.t 3) (.m 15) 3 3),
    (32, 0b1_100110_01100_00101_01001_111_100_0100, .vamoFp32 (.m 5) (.m 9) 4 4),
    (32, 0b1_100111_10010_11101_10111_000_101_0101, .amoadd (.o 2) .q .l1 5 5),
    (32, 0b1_100111_10110_11000_11110_001_110_0110, .amoand .l0 .z .pw 6 6),
    (32, 0b1_100111_11001_10001_10100_010_111_0111, .amoor (.t 0) (.o 1) (.o 4) 7 7),
    (32, 0b1_100111_01100_11100_01111_011_001_1000, .amoxor (.m 12) (.t 3) (.m 15) 1 8),
    (32, 0b1_100111_00011_00101_01001_100_010_1001, .amomin (.m 3) (.m 5) (.m 9) 2 9)].all reads = true := by decide +kernel

/-- Words of the spec's encoding tables (Tables 2.9 to 2.14, memory), one for each instruction. -/
theorem test_decode_memory_2 : [
    (32, 0b1_100111_10010_11101_10111_101_011_1010, .amomax (.o 2) .q .l1 3 10),
    (32, 0b1_100111_10110_11000_11110_110_100_1011, .amoswap .l0 .z .pw 4 11),
    (32, 0b1_100111_11001_10001_10100_111_101_1100, .amocas (.t 0) (.o 1) (.o 4) 5 12)].all reads = true := by decide +kernel

/-- Words of the spec's encoding tables (Tables 2.9 to 2.14, line), one for each instruction. -/
theorem test_decode_line_1 : [
    (32, 0b1_101000_00011_01001_00110_000_110_0010, .vadd (.k 3) (.t 1) (.k 6) 2 6),
    (32, 0b1_101000_00011_00101_01011_001_111_1100, .vsub (.k 3) (.k 5) (.t 3) 12 7),
    (32, 0b1_101000_00011_01001_00110_010_001_0110, .vmul (.k 3) (.t 1) (.k 6) 6 1),
    (32, 0b1_101000_00011_00101_01011_011_010_1100, .vfma (.k 3) (.k 5) (.t 3) 12 2),
    (32, 0b1_101000_00011_01001_00110_100_011_0010, .vmin (.k 3) (.t 1) (.k 6) 2 3),
    (32, 0b1_101000_00011_00101_01011_101_100_1100, .vmax (.k 3) (.k 5) (.t 3) 12 4),
    (32, 0b1_101000_00011_01001_00000110_101_0010, .vabs (.k 3) (.t 1) 2 5),
    (32, 0b1_101000_00011_00101_00000111_110_1100, .vneg (.k 3) (.k 5) 12 6),
    (32, 0b1_101001_00011_01001_00000000_111_1100, .vexp (.k 3) (.t 1) 7),
    (32, 0b1_101001_00011_00101_00000001_001_1100, .vlog (.k 3) (.k 5) 1),
    (32, 0b1_101001_00011_01001_00000010_010_1100, .vrcp (.k 3) (.t 1) 2),
    (32, 0b1_101001_00011_00101_00000011_011_1100, .vrsq (.k 3) (.k 5) 3),
    (32, 0b1_101001_00011_01001_00000100_100_1100, .vsin (.k 3) (.t 1) 4),
    (32, 0b1_101001_00011_00101_00000101_101_1100, .vcos (.k 3) (.k 5) 5),
    (32, 0b1_101010_00011_01001_00110_000_110_0110, .vand (.k 3) (.t 1) (.k 6) 6 6),
    (32, 0b1_101010_00011_00101_01011_001_111_1100, .vor (.k 3) (.k 5) (.t 3) 12 7),
    (32, 0b1_101010_00011_01001_00110_010_001_1100, .vxor (.k 3) (.t 1) (.k 6) 12 1),
    (32, 0b1_101010_00011_00101_01011_011_010_0110, .vshl (.k 3) (.k 5) (.t 3) 6 2),
    (32, 0b1_101010_00011_01001_00110_100_011_0110, .vshr (.k 3) (.t 1) (.k 6) 6 3),
    (32, 0b1_101010_11_101_00101_01011_101_100_1100, .vcmp .un 5 (.k 5) (.t 3) 12 4)].all reads = true := by decide +kernel

/-- Words of the spec's encoding tables (Tables 2.9 to 2.14, line), one for each instruction. -/
theorem test_decode_line_2 : [
    (32, 0b1_101010_00011_01001_00110_110_101_1100, .vsel (.k 3) (.t 1) (.k 6) 12 5),
    (32, 0b1_101011_00011_00101_00000000_110_1111, .vbcast (.k 3) (.m 5) 15 6),
    (32, 0b1_101011_10010_01001_10111_001_111_1111, .vget (.o 2) (.t 1) .l1 15 7),
    (32, 0b1_101011_00011_11000_11110_010_001_1111, .vput (.k 3) .z .pw 15 1),
    (32, 0b1_101011_00011_01001_00110_011_010_1111, .vshuf (.k 3) (.t 1) (.k 6) 15 2),
    (32, 0b1_101011_00011_00101_01011_100_011_1111, .vcmul (.k 3) (.k 5) (.t 3) 3),
    (32, 0b1_101011_00011_01001_00000101_100_1111, .vconj (.k 3) (.t 1) 4),
    (32, 0b1_101011_00011_00101_10110_110_101_1001, .vcvt (.k 3) (.k 5) .n32 true 2 9 5),
    (32, 0b1_101011_00011_01001_11110_111_110_1100, .vrnd (.k 3) (.t 1) .pw 12 6),
    (32, 0b1_101100_11001_00101_00000000_111_1111, .vrsum (.t 0) (.k 5) 15 7),
    (32, 0b1_101100_01100_01001_00000001_001_0010, .vrmax (.m 12) (.t 1) 2 1),
    (32, 0b1_101100_00011_00101_00000010_010_1100, .vrmin (.m 3) (.k 5) 12 2),
    (32, 0b1_101100_10010_01001_00000011_011_1100, .vrmaxi (.o 2) (.t 1) 12 3),
    (32, 0b1_101100_10110_00101_00000100_100_0110, .vrmini .l0 (.k 5) 6 4),
    (32, 0b1_101101_00011_10001_10100_000_101_0101, .vld (.k 3) (.o 1) (.o 4) 5 5),
    (32, 0b1_101101_00011_11100_01111_001_110_0000, .vst (.k 3) (.t 3) (.m 15) 0 6),
    (32, 0b1_101101_00011_00101_00110_010_111_1001, .vgath (.k 3) (.m 5) (.k 6) 9 7),
    (32, 0b1_101101_00011_11101_01011_011_001_1110, .vscat (.k 3) .q (.t 3) 14 1),
    (32, 0b1_101101_010_10_11000_11110_100_010_1000, .strm 2 .z .pw 8 2),
    (32, 0b1_101101_010_10_0000000000101_011_0000, .stre 2 3)].all reads = true := by decide +kernel

/-- Words of the spec's encoding tables (Tables 2.9 to 2.14, field), one for each instruction. -/
theorem test_decode_field : [
    (32, 0b1_101110_11100_01111_00_110_1_10_000_1011, .vldf (.t 3) (.m 15) 6 2 true 11),
    (32, 0b1_101110_00101_01001_00_110_1_10_001_1100, .vstf (.m 5) (.m 9) 6 2 true 12),
    (32, 0b1_101110_11101_10111_00_110_000010_1101, .pacc .q .l1 6 13),
    (32, 0b1_101110_11000_11110_00_110_000011_1110, .paxpy .z .pw 6 14),
    (32, 0b1_101110_10001_10100_00_110_000100_0001, .pema (.o 1) (.o 4) 6 1),
    (32, 0b1_101111_01100_11100_01111_1_10_010_0010, .ldf (.m 12) (.t 3) (.m 15) 2 true 2 2)].all reads = true := by decide +kernel

/-- Words of the spec's encoding tables (Tables 2.9 to 2.14, operator), one for each instruction. -/
theorem test_decode_operator : [
    (32, 0b1_110000_00101_01001_10110_1_1_1_000_0011, .apply (.m 5) (.m 9) .l0 true true true 3),
    (32, 0b1_110000_11101_10111_10110_1_1_1_001_0100, .applyc .q .l1 .l0 true true true 4),
    (32, 0b1_110000_11000_11110_10110_1_00010_0101, .phase .z .pw .l0 true 5),
    (32, 0b1_110000_10001_10100_00000_1_1_1_011_0110, .dscale (.o 1) (.o 4) true true true 6),
    (32, 0b1_110000_11100_01111_00000_1_1_1_100_0111, .redb (.t 3) (.m 15) true true true 7),
    (32, 0b1_110000_00101_01001_00000_1_00101_1000, .maxb (.m 5) (.m 9) true 8),
    (32, 0b1_110000_11101_10111_10110_0_1_0110_1001, .opld .q .l1 .l0 true 9),
    (32, 0b1_110000_11000_0000000000000111_1010, .opgen .z 10)].all reads = true := by decide +kernel

/-- Words of the spec's encoding tables (Tables 2.9 to 2.14, transfer), one for each instruction. -/
theorem test_decode_transfer : [
    (32, 0b1_110001_10001_0000000000000000_1011, .opwait (.o 1) 11),
    (32, 0b1_110001_11100_01111_10110_000001_1100, .xfer (.t 3) (.m 15) .l0 12),
    (32, 0b1_110001_00101_01001_00000000010_1101, .cbld (.m 5) (.m 9) 13)].all reads = true := by decide +kernel

/-- Words of the spec's encoding tables (Tables 2.9 to 2.14, counter), one for each instruction. -/
theorem test_decode_counter : [
    (32, 0b1_110010_10010_11101_00000000_111_1110, .waitt (.o 2) .q 7 14),
    (32, 0b1_110010_10110_11000_11110_001_001_0001, .waitc .l0 .z .pw 1 1),
    (32, 0b1_110010_11001_10001_10100_010_010_0010, .waitb (.t 0) (.o 1) (.o 4) 2 2),
    (32, 0b1_110010_10011_11100_01111_011_011_0011, .waitp (.o 3) (.t 3) (.m 15) 3 3),
    (32, 0b1_110010_00_100_00101_01001_100_100_0100, .sig .package (.m 5) (.m 9) 4 4),
    (32, 0b1_110010_00000_11101_10111_101_101_0101, .cntset .q .l1 5 5),
    (32, 0b1_110010_00000_11000_00000110_110_0000, .armt .z 6),
    (32, 0b1_110010_11001_10001_00000111_111_0111, .barw (.t 0) (.o 1) 7 7)].all reads = true := by decide +kernel

/-- Words of the spec's encoding tables (Tables 2.9 to 2.14, table), one for each instruction. -/
theorem test_decode_table : [
    (32, 0b1_110011_11100_01111_10110_000000_1000, .otset (.t 3) (.m 15) .l0 8),
    (32, 0b1_110011_00101_01001_00000000001_1001, .otget (.m 5) (.m 9) 9),
    (32, 0b1_110011_11101_0000000000000010_1010, .otinv .q 10),
    (32, 0b1_110011_11000_11110_10110_000011_1011, .frename .z .pw .l0 11),
    (32, 0b1_110011_10001_10100_10110_000100_1100, .fperm (.o 1) (.o 4) .l0 12),
    (32, 0b1_110011_11100_01111_00000000101_1101, .finfo (.t 3) (.m 15) 13),
    (32, 0b1_110011_00101_01001_10110_000110_1110, .objnew (.m 5) (.m 9) .l0 14),
    (32, 0b1_110011_11101_0000000000000111_0001, .objsync .q 1)].all reads = true := by decide +kernel

/-- Words of the spec's encoding tables (Tables 2.9 to 2.14, fabric), one for each instruction. -/
theorem test_decode_fabric : [
    (32, 0b1_110100_11000_11110_10110_000000_0010, .leasePin .z .pw .l0 2),
    (32, 0b1_110100_10001_10100_10110_000001_0011, .xinv (.o 1) (.o 4) .l0 3),
    (32, 0b1_110100_11100_0000000000000010_0100, .dlogh (.t 3) 4),
    (32, 0b1_110100_00101_01001_10110_000011_0101, .pgmig (.m 5) (.m 9) .l0 5),
    (32, 0b1_110100_11101_10111_00000000100_0110, .subs .q .l1 6),
    (32, 0b1_110100_11000_0000000000000101_0111, .unsub .z 7),
    (32, 0b1_110100_10001_0000000000000110_1000, .cgld (.o 1) 8),
    (32, 0b1_110100_11100_01111_00000000111_1001, .cgrun (.t 3) (.m 15) 9)].all reads = true := by decide +kernel

/-- Words of the spec's encoding tables (Tables 2.9 to 2.14, system), one for each instruction. -/
theorem test_decode_system : [
    (32, 0b1_110101_00101_01001_00000000000_1010, .spill (.m 5) (.m 9) 10),
    (32, 0b1_110101_11101_10111_00000000001_1011, .restore .q .l1 11),
    (32, 0b1_110101_11000_11110_00000000010_1100, .barcfgConfigure .z .pw 12),
    (32, 0b1_110101_10001_0000000000000011_1101, .lehrEnter (.o 1) 13)].all reads = true := by decide +kernel

/-- Words of the spec's encoding tables (Tables 2.9 to 2.14, compact), one for each instruction. -/
theorem test_decode_compact_1 : [
    (16, 0b0_00001_01100_10001, .compactMov (.m 12) (.o 1)),
    (16, 0b0_00010_00011_10001, .compactAdd (.m 3) (.o 1)),
    (16, 0b0_00011_10010_10001, .compactSub (.o 2) (.o 1)),
    (16, 0b0_00100_10110_10001, .compactAnd .l0 (.o 1)),
    (16, 0b0_00101_11001_10001, .compactOr (.t 0) (.o 1)),
    (16, 0b0_00110_01100_10001, .compactXor (.m 12) (.o 1)),
    (16, 0b0_00111_00011_10001, .compactAndn (.m 3) (.o 1)),
    (16, 0b0_01000_10010_10001, .compactShl (.o 2) (.o 1)),
    (16, 0b0_01001_10110_10001, .compactShr .l0 (.o 1)),
    (16, 0b0_01010_11001_10001, .compactSha (.t 0) (.o 1)),
    (16, 0b0_01011_01100_10010, .compactAddi (.m 12) 0x12),
    (16, 0b0_01100_00011_10010, .compactShli (.m 3) 0x12),
    (16, 0b0_01101_10010_10010, .compactShri (.o 2) 0x12),
    (16, 0b0_01110_10110_10010, .compactShai .l0 0x12),
    (16, 0b0_01111_11001_10010, .compactMovi (.t 0) 0x12),
    (16, 0b0_10000_01100_10001, .compactCmpeq (.m 12) (.o 1)),
    (16, 0b0_10001_00011_10001, .compactCmplt (.m 3) (.o 1)),
    (16, 0b0_10010_10010_10001, .compactCmpltn (.o 2) (.o 1)),
    (16, 0b0_10011_10110_10001, .compactLdl .l0 (.o 1)),
    (16, 0b0_10100_11001_10001, .compactStl (.t 0) (.o 1))].all reads = true := by decide +kernel

/-- Words of the spec's encoding tables (Tables 2.9 to 2.14, compact), one for each instruction. -/
theorem test_decode_compact_2 : [
    (16, 0b0_10101_00011_00101, .compactVadd (.k 3) (.k 5)),
    (16, 0b0_10110_00011_01001, .compactVmul (.k 3) (.t 1)),
    (16, 0b0_10111_00011_00101, .compactVfma (.k 3) (.k 5)),
    (16, 0b0_11000_0000000000, .compactNop),
    (16, 0b0_11001_0000000000, .compactEnd),
    (16, 0b0_11010_0000000000, .compactYield),
    (16, 0b0_11011_0000000000, .compactRet)].all reads = true := by decide +kernel

end Sys2Proof.Tests
end

section
/-! SUPPORT. What the encoder writes the decoder reads (R15 to R39), in three layers: each operand code, each operand
shape, each instruction. -/

namespace Sys2Proof.Dec

open Laws.Encoding (bit_lt asize_lt scope_lt rmode_lt sreg_lt)

/-! Conditions on fields that the encoder leaves 0. -/

@[simp] theorem ok_bind {ε α β : Type} (x : α) (f : α → Except ε β) : (Except.ok x >>= f) = f x := rfl
@[simp] theorem need_true (r : Reject) : need true r = .ok () := rfl
@[simp] theorem zero_zero : zero 0 = .ok () := rfl
@[simp] theorem short_zero : short 0 = .ok () := rfl

/-! The code of an operand reads back as the operand. -/

@[simp] theorem reg_code (r : Reg) : reg r.code = .ok r := by
  cases r with
  | t i => revert i; decide
  | _ => simp [reg, Reg.code]
@[simp] theorem lreg_code (r : LReg) : lreg r.code = .ok r := by
  cases r <;> simp [lreg, LReg.code]
@[simp] theorem pred_val (p : Pred) : pred p.val = .ok p := by simp [pred]
@[simp] theorem kreg_val (k : Fin 8) : kreg k.val = .ok k := by simp [kreg]
@[simp] theorem tdes_val (t : Fin 4) : tdes (8 + t.val) = .ok t := by simp [tdes]
@[simp] theorem fin8_val (x : Fin 8) : fin8 x.val = x := Fin.ofNat_val_eq_self x
@[simp] theorem fin16_val (x : Fin 16) : fin16 x.val = x := Fin.ofNat_val_eq_self x
@[simp] theorem fin4_val (x : Fin 4) : fin4 x.val = x := Fin.ofNat_val_eq_self x
@[simp] theorem scope_code (z : Scope) : scope z.code = .ok z := by cases z <;> rfl
@[simp] theorem fkind_code (k : FKind) : fkind k.code = .ok k := by cases k <;> rfl
@[simp] theorem rel_code (r : Rel) : rel r.code = r := by cases r <;> rfl
@[simp] theorem vsrc_code (v : VSrc) : vsrc v.code = .ok v := by cases v <;> rfl
@[simp] theorem rmode_code (m : RMode) : rmode m.code = .ok m := by cases m <;> rfl
@[simp] theorem sreg_code (r : SReg) : sreg r.code = .ok r := by cases r <;> rfl
@[simp] theorem asize_code (z : ASize) : asize z.code = z := by cases z <;> rfl
@[simp] theorem bit_beq_one (b : Bool) : (bit b == 1) = b := by cases b <;> rfl

/-! The fields that hold a sub-operation beside an operand: what the decoder cuts them into. -/

/-- fn6 of OPER: the sub-operation in bits 2:0, then the three flags (R36). -/
theorem oper_fn6 {j : Nat} (hj : j < 8) (x y z : Bool) :
    (j + 8 * bit x + 16 * bit y + 32 * bit z) / 8 % 2 = bit x ∧
      (j + 8 * bit x + 16 * bit y + 32 * bit z) / 16 % 2 = bit y ∧
      (j + 8 * bit x + 16 * bit y + 32 * bit z) / 32 = bit z := by
  have hx := bit_lt x
  have hy := bit_lt y
  omega

/-- Bits 2:0 of fn6 are the sub-operation, whatever stands above them (R35, R36). -/
theorem fn6_mod {j m x : Nat} (hm : m % 8 = 0) : (j + m * x) % 8 = j % 8 := by
  rw [Nat.add_mod, Nat.mul_mod, hm, Nat.zero_mul, Nat.zero_mod, Nat.add_zero, Nat.mod_mod]

/-- An operand of w bits under a sub-operation in the bits above it (R32, R34): the quotient is the sub-operation. -/
theorem sub_add_div {c w : Nat} (hc : c % 2 ^ w = 0) (n : BitVec w) : (c + n.toNat) / 2 ^ w = c / 2 ^ w := by
  rw [Nat.add_div_of_dvd_right (Nat.dvd_of_mod_eq_zero hc), Nat.div_eq_of_lt n.isLt, Nat.add_zero]

theorem shift_div {c : Nat} (hc : c % 64 = 0) (n : BitVec 6) : (c + n.toNat) / 64 = c / 64 := sub_add_div hc n
theorem cmpi_div {c : Nat} (hc : c % 1024 = 0) (n : BitVec 10) : (c + n.toNat) / 1024 = c / 1024 := sub_add_div hc n

/-! Each operand shape reads its operands back from the codes the encoder gives it. -/

theorem shA3_code (mk : Reg → Reg → Reg → Guard → Instr) (d a b : Reg) (g : Guard) :
    shA3 mk d.code a.code b.code g.val 0 = .ok (mk d a b g) := by simp [shA3]
theorem shA3L_code (mk : Reg → Reg → Reg → Guard → Look → Instr) (d a b : Reg) (g : Guard) (l : Look) :
    shA3L mk d.code a.code b.code g.val l.val = .ok (mk d a b g l) := by simp [shA3L]
theorem shA2_code (mk : Reg → Reg → Guard → Instr) (d a : Reg) (g : Guard) :
    shA2 mk d.code a.code 0 g.val 0 = .ok (mk d a g) := by simp [shA2]
theorem shA2L_code (mk : Reg → Reg → Guard → Look → Instr) (d a : Reg) (g : Guard) (l : Look) :
    shA2L mk d.code a.code 0 g.val l.val = .ok (mk d a g l) := by simp [shA2L]
theorem shA1_code (mk : Reg → Guard → Instr) (d : Reg) (g : Guard) :
    shA1 mk d.code 0 0 g.val 0 = .ok (mk d g) := by simp [shA1]
theorem shAB_code (mk : Reg → Reg → Guard → Instr) (a b : Reg) (g : Guard) :
    shAB mk 0 a.code b.code g.val 0 = .ok (mk a b g) := by simp [shAB]
theorem shABL_code (mk : Reg → Reg → Guard → Look → Instr) (a b : Reg) (g : Guard) (l : Look) :
    shABL mk 0 a.code b.code g.val l.val = .ok (mk a b g l) := by simp [shABL]
theorem shAG_code (mk : Reg → Guard → Instr) (a : Reg) (g : Guard) :
    shAG mk 0 a.code 0 g.val 0 = .ok (mk a g) := by simp [shAG]
theorem shAGL_code (mk : Reg → Guard → Look → Instr) (a : Reg) (g : Guard) (l : Look) :
    shAGL mk 0 a.code 0 g.val l.val = .ok (mk a g l) := by simp [shAGL]
theorem shGL_code (mk : Guard → Look → Instr) (g : Guard) (l : Look) :
    shGL mk 0 0 0 g.val l.val = .ok (mk g l) := by simp [shGL]
theorem shG0_code (mk : Guard → Instr) (g : Guard) :
    shG0 mk 0 0 0 g.val 0 = .ok (mk g) := by simp [shG0]
theorem shN_code (mk : Instr) :
    shN mk 0 0 0 0 0 = .ok mk := by simp [shN]
theorem shCMP3_code (mk : Pred → Reg → Reg → Guard → Instr) (p : Pred) (a b : Reg) (g : Guard) :
    shCMP3 mk p.val a.code b.code g.val 0 = .ok (mk p a b g) := by simp [shCMP3]
theorem shPR3_code (mk : Pred → Pred → Pred → Guard → Instr) (p a b : Pred) (g : Guard) :
    shPR3 mk p.val a.val b.val g.val 0 = .ok (mk p a b g) := by simp [shPR3]
theorem shPR2_code (mk : Pred → Pred → Guard → Instr) (p a : Pred) (g : Guard) :
    shPR2 mk p.val a.val 0 g.val 0 = .ok (mk p a g) := by simp [shPR2]
theorem shLDF_code (mk : Reg → Reg → Reg → Fin 4 → Bool → Guard → Look → Instr) (d a b : Reg) (c : Fin 4) (md : Bool)
    (g : Guard) (l : Look) :
    shLDF mk d.code a.code b.code (c.val + 4 * bit md) g.val l.val = .ok (mk d a b c md g l) := by
  have hc : (c.val + 4 * bit md) % 4 = c.val := by omega
  have hm : (c.val + 4 * bit md) / 4 = bit md := by omega
  simp [shLDF, hc, hm]
theorem shFENCE_code (mk : Scope → FKind → Guard → Instr) (z : Scope) (k : FKind) (g : Guard) :
    shFENCE mk (z.code + 8 * k.code) 0 0 g.val 0 = .ok (mk z k g) := by
  have hlt := scope_lt z
  have hz : (z.code + 8 * k.code) % 8 = z.code := by omega
  have hk : (z.code + 8 * k.code) / 8 = k.code := by omega
  simp [shFENCE, hz, hk]
theorem shSIG_code (mk : Scope → Reg → Reg → Guard → Look → Instr) (z : Scope) (a b : Reg) (g : Guard) (l : Look) :
    shSIG mk z.code a.code b.code g.val l.val = .ok (mk z a b g l) := by simp [shSIG]
theorem shWAITP_code (mk : Reg → Reg → Reg → Guard → Look → Instr) (p a b : Reg) (g : Guard) (l : Look) :
    shWAITP mk p.code a.code b.code g.val l.val = .ok (mk p a b g l) := by simp [shWAITP]
theorem shV3_code (mk : LReg → LReg → LReg → Look → Guard → Instr) (d a b : LReg) (ty : Ty) (g : Guard) :
    shV3 mk d.code a.code b.code g.val ty.val = .ok (mk d a b ty g) := by simp [shV3]
theorem shV2_code (mk : LReg → LReg → Look → Guard → Instr) (d a : LReg) (ty : Ty) (g : Guard) :
    shV2 mk d.code a.code 0 g.val ty.val = .ok (mk d a ty g) := by simp [shV2]
theorem shVBC_code (mk : LReg → Reg → Look → Guard → Instr) (d : LReg) (a : Reg) (ty : Ty) (g : Guard) :
    shVBC mk d.code a.code 0 g.val ty.val = .ok (mk d a ty g) := by simp [shVBC]
theorem shVGET_code (mk : Reg → LReg → Reg → Look → Guard → Instr) (d : Reg) (a : LReg) (b : Reg) (ty : Ty)
    (g : Guard) :
    shVGET mk d.code a.code b.code g.val ty.val = .ok (mk d a b ty g) := by simp [shVGET]
theorem shVPUT_code (mk : LReg → Reg → Reg → Look → Guard → Instr) (d : LReg) (a b : Reg) (ty : Ty) (g : Guard) :
    shVPUT mk d.code a.code b.code g.val ty.val = .ok (mk d a b ty g) := by simp [shVPUT]
theorem shVRND_code (mk : LReg → LReg → Reg → Look → Guard → Instr) (d a : LReg) (b : Reg) (ty : Ty) (g : Guard) :
    shVRND mk d.code a.code b.code g.val ty.val = .ok (mk d a b ty g) := by simp [shVRND]
theorem shVRED_code (mk : Reg → LReg → Look → Guard → Instr) (d : Reg) (a : LReg) (ty : Ty) (g : Guard) :
    shVRED mk d.code a.code 0 g.val ty.val = .ok (mk d a ty g) := by simp [shVRED]
theorem shVLD_code (mk : LReg → Reg → Reg → Look → Guard → Instr) (d : LReg) (a b : Reg) (ty : Ty) (g : Guard) :
    shVLD mk d.code a.code b.code g.val ty.val = .ok (mk d a b ty g) := by simp [shVLD]
theorem shVGA_code (mk : LReg → Reg → LReg → Look → Guard → Instr) (d : LReg) (a : Reg) (b : LReg) (ty : Ty)
    (g : Guard) :
    shVGA mk d.code a.code b.code g.val ty.val = .ok (mk d a b ty g) := by simp [shVGA]
theorem shVE_code (mk : LReg → LReg → Guard → Instr) (t : Nat) (d a : LReg) (g : Guard) :
    shVE t mk d.code a.code 0 g.val t = .ok (mk d a g) := by simp [shVE]
theorem shVE3_code (mk : LReg → LReg → LReg → Guard → Instr) (t : Nat) (d a b : LReg) (g : Guard) :
    shVE3 t mk d.code a.code b.code g.val t = .ok (mk d a b g) := by simp [shVE3]
theorem shVCMP_code (r : Rel) (k : Fin 8) (a b : LReg) (ty : Ty) (g : Guard) :
    shVCMP (k.val + 8 * r.code) a.code b.code g.val ty.val = .ok (.vcmp r k a b ty g) := by
  have hr : (k.val + 8 * r.code) / 8 = r.code := by omega
  have hk : fin8 (k.val + 8 * r.code) = k := Fin.ext (by simp [fin8])
  simp [shVCMP, hr, hk]
theorem shVCVT_code (d a : LReg) (src : VSrc) (sat : Bool) (mode : Fin 4) (ty : Ty) (g : Guard) :
    shVCVT d.code a.code (8 * src.code + 4 * bit sat + mode.val) g.val ty.val = .ok (.vcvt d a src sat mode ty g) := by
  have hlt := bit_lt sat
  have hsrc : (8 * src.code + 4 * bit sat + mode.val) / 8 = src.code := by omega
  have hsat : (8 * src.code + 4 * bit sat + mode.val) / 4 % 2 = bit sat := by omega
  have hmode : fin4 (8 * src.code + 4 * bit sat + mode.val) = mode := Fin.ext (by simp [fin4]; omega)
  simp [shVCVT, hsrc, hsat, hmode]
theorem shSTRM_code (t : Fin 4) (a b : Reg) (ty : Ty) (g : Guard) :
    shSTRM (8 + t.val) a.code b.code g.val ty.val = .ok (.strm t a b ty g) := by simp [shSTRM]
theorem shSTRE_code (t : Fin 4) (g : Guard) :
    shSTRE (8 + t.val) 0 0 g.val 0 = .ok (.stre t g) := by simp [shSTRE]
theorem shVAMO_bf16_code (a b : Reg) (g : Guard) (l : Look) :
    shVAMO 11 a.code b.code g.val l.val = .ok (.vamoBf16 a b g l) := by simp [shVAMO]
theorem shVAMO_fp32_code (a b : Reg) (g : Guard) (l : Look) :
    shVAMO 12 a.code b.code g.val l.val = .ok (.vamoFp32 a b g l) := by simp [shVAMO]
theorem shT8_code (mk : Reg → Reg → Reg → BitVec 8 → Instr) (d a b : Reg) (t : BitVec 8) :
    shT8 mk d.code a.code b.code t.toNat = .ok (mk d a b t) := by simp [shT8]
theorem shFS_code (mk : Reg → Reg → Reg → BitVec 6 → Instr) {c : Nat} (hc : c % 64 = 0) (d a b : Reg) (n : BitVec 6) :
    shFS mk d.code a.code b.code (c + n.toNat) = .ok (mk d a b n) := by
  have hn : BitVec.ofNat 6 (c + n.toNat) = n := BitVec.eq_of_toNat_eq (by simp; omega)
  simp [shFS, hn]
theorem shI12_code (mk : Reg → Reg → BitVec 12 → Guard → Instr) (d a : Reg) (n : BitVec 12) (g : Guard) :
    shI12 mk d.code a.code n.toNat g.val = .ok (mk d a n g) := by simp [shI12]
theorem shSHI_code (mk : Reg → Reg → BitVec 6 → Guard → Instr) {c : Nat} (hc : c % 64 = 0) (hlt : c < 256) (d a : Reg)
    (n : BitVec 6) (g : Guard) :
    shSHI mk d.code a.code (c + n.toNat) g.val = .ok (mk d a n g) := by
  have hn : BitVec.ofNat 6 (c + n.toNat) = n := BitVec.eq_of_toNat_eq (by simp; omega)
  have h0 : (c + n.toNat) / 256 = 0 := by omega
  simp [shSHI, hn, h0]
theorem shCMPI_code (mk : Pred → Reg → BitVec 10 → Guard → Instr) {c : Nat} (hc : c % 1024 = 0) (p : Pred) (a : Reg)
    (n : BitVec 10) (g : Guard) :
    shCMPI mk p.val a.code (c + n.toNat) g.val = .ok (mk p a n g) := by
  have hn : BitVec.ofNat 10 (c + n.toNat) = n := BitVec.eq_of_toNat_eq (by simp; omega)
  simp [shCMPI, hn]
theorem shCVT_code (d a : Reg) (src dst : Ty) (mode : RMode) (sat : Bool) (g : Guard) :
    shCVT d.code a.code (src.val + 16 * dst.val + 256 * mode.code + 2048 * bit sat) g.val =
      .ok (.cvt d a src dst mode sat g) := by
  have hm := rmode_lt mode
  have hsrc : fin16 (src.val + 16 * dst.val + 256 * mode.code + 2048 * bit sat) = src := Fin.ext (by simp [fin16]; omega)
  have hdst : fin16 ((src.val + 16 * dst.val + 256 * mode.code + 2048 * bit sat) / 16) = dst :=
    Fin.ext (by simp [fin16]; omega)
  have hmode : (src.val + 16 * dst.val + 256 * mode.code + 2048 * bit sat) / 256 % 8 = mode.code := by omega
  have hsat : (src.val + 16 * dst.val + 256 * mode.code + 2048 * bit sat) / 2048 = bit sat := by omega
  simp [shCVT, hsrc, hdst, hmode, hsat]
theorem shLOOP_code (d : Reg) (off : BitVec 12) (g : Guard) :
    shLOOP d.code 0 off.toNat g.val = .ok (.loop d off g) := by simp [shLOOP]
theorem shSRD_code (d : Reg) (r : SReg) (g : Guard) :
    shSRD d.code 0 r.code g.val = .ok (.srd d r g) := by simp [shSRD]
theorem shSWR_code (r : SReg) (a : Reg) (g : Guard) :
    shSWR 0 a.code r.code g.val = .ok (.swr r a g) := by simp [shSWR]
theorem shEXT_code (k : Fin 8) (a : Reg) (g : Guard) :
    shEXT 0 a.code k.val g.val = .ok (.ext k a g) := by
  have h0 : k.val / 8 = 0 := by omega
  simp [shEXT, h0]
theorem shD1_code (d : Reg) :
    shD1 d.code 0 0 0 = .ok (.rdcyc d) := by simp [shD1]
theorem shSys0_code (mk : Instr) :
    shSys0 mk 0 0 0 0 = .ok mk := by simp [shSys0]
theorem shTRAP_code (n : BitVec 9) :
    shTRAP 0 0 n.toNat 0 = .ok (.trap n) := by simp [shTRAP]
theorem shLDM_code (mk : Reg → Reg → BitVec 8 → ASize → Bool → Look → Instr) (d a : Reg) (o : BitVec 8) (z : ASize)
    (x : Bool) (l : Look) :
    shLDM mk d.code a.code o.toNat (z.code + 4 * bit x) l.val = .ok (mk d a o z x l) := by
  have hlt := asize_lt z
  have hz : (z.code + 4 * bit x) % 4 = z.code := by omega
  have hx : (z.code + 4 * bit x) / 4 = bit x := by omega
  simp [shLDM, hz, hx]
theorem shSTM_code (mk : Reg → Reg → BitVec 8 → ASize → Look → Instr) (d a : Reg) (o : BitVec 8) (z : ASize)
    (l : Look) :
    shSTM mk d.code a.code o.toNat z.code l.val = .ok (mk d a o z l) := by
  have hlt := asize_lt z
  have h0 : z.code / 4 = 0 := by omega
  have hz : z.code % 4 = z.code := by omega
  simp [shSTM, h0, hz]
theorem shU_code (mk : Reg → BitVec 20 → Instr) (d : Reg) (n : BitVec 20) :
    shU mk d.code n.toNat = .ok (mk d n) := by simp [shU]
theorem shVLDF_code (mk : Reg → Reg → Fin 8 → Fin 4 → Bool → Look → Instr) {j : Nat} (hj : j < 8) (a b : Reg)
    (k : Fin 8) (c : Fin 4) (md : Bool) (l : Look) :
    shVLDF mk a.code b.code k.val (j + 8 * c.val + 32 * bit md) l.val = .ok (mk a b k c md l) := by
  have hc : fin4 ((j + 8 * c.val + 32 * bit md) / 8) = c := Fin.ext (by simp [fin4]; omega)
  have hm : (j + 8 * c.val + 32 * bit md) / 32 = bit md := by omega
  simp [shVLDF, hc, hm]
theorem shOPT_code (mk : Reg → Reg → Fin 8 → Look → Instr) {j : Nat} (hj : j < 8) (a b : Reg) (k : Fin 8) (l : Look) :
    shOPT mk a.code b.code k.val j l.val = .ok (mk a b k l) := by
  have h0 : j / 8 = 0 := by omega
  simp [shOPT, h0]
theorem shOP3_code (mk : Reg → Reg → Reg → Bool → Bool → Bool → Look → Instr) {j : Nat} (hj : j < 8) (a b c : Reg)
    (x y z : Bool) (l : Look) :
    shOP3 mk a.code b.code c.code (j + 8 * bit x + 16 * bit y + 32 * bit z) l.val = .ok (mk a b c x y z l) := by
  obtain ⟨hx, hy, hz⟩ := oper_fn6 hj x y z
  simp [shOP3, hx, hy, hz]
theorem shOPH_code (mk : Reg → Reg → Reg → Bool → Look → Instr) {j : Nat} (hj : j < 8) (a b c : Reg) (z : Bool)
    (l : Look) :
    shOPH mk a.code b.code c.code (j + 32 * bit z) l.val = .ok (mk a b c z l) := by
  have h0 : (j + 32 * bit z) / 8 % 4 = 0 := by omega
  have hz : (j + 32 * bit z) / 32 = bit z := by omega
  simp [shOPH, h0, hz]
theorem shOP2_code (mk : Reg → Reg → Bool → Bool → Bool → Look → Instr) {j : Nat} (hj : j < 8) (a b : Reg)
    (x y z : Bool) (l : Look) :
    shOP2 mk a.code b.code 0 (j + 8 * bit x + 16 * bit y + 32 * bit z) l.val = .ok (mk a b x y z l) := by
  obtain ⟨hx, hy, hz⟩ := oper_fn6 hj x y z
  simp [shOP2, hx, hy, hz]
theorem shOPM_code (mk : Reg → Reg → Bool → Look → Instr) {j : Nat} (hj : j < 8) (a b : Reg) (z : Bool) (l : Look) :
    shOPM mk a.code b.code 0 (j + 32 * bit z) l.val = .ok (mk a b z l) := by
  have h0 : (j + 32 * bit z) / 8 % 4 = 0 := by omega
  have hz : (j + 32 * bit z) / 32 = bit z := by omega
  simp [shOPM, h0, hz]
theorem shOPLD_code (mk : Reg → Reg → Reg → Bool → Look → Instr) {j : Nat} (hj : j < 8) (a b c : Reg) (y : Bool)
    (l : Look) :
    shOPLD mk a.code b.code c.code (j + 16 * bit y) l.val = .ok (mk a b c y l) := by
  have hlt := bit_lt y
  have h8 : (j + 16 * bit y) / 8 % 2 = 0 := by omega
  have h32 : (j + 16 * bit y) / 32 = 0 := by omega
  have hy : (j + 16 * bit y) / 16 % 2 = bit y := by omega
  simp [shOPLD, h8, h32, hy]
theorem shOPG_code (mk : Reg → Look → Instr) {j : Nat} (hj : j < 8) (a : Reg) (l : Look) :
    shOPG mk a.code 0 0 j l.val = .ok (mk a l) := by
  have h0 : j / 8 = 0 := by omega
  simp [shOPG, h0]
theorem shX3_code (mk : Reg → Reg → Reg → Look → Instr) (a b c : Reg) (l : Look) :
    shX3 mk a.code b.code c.code l.val = .ok (mk a b c l) := by simp [shX3]
theorem shX2_code (mk : Reg → Reg → Look → Instr) (a b : Reg) (l : Look) :
    shX2 mk a.code b.code 0 l.val = .ok (mk a b l) := by simp [shX2]
theorem shX1_code (mk : Reg → Look → Instr) (a : Reg) (l : Look) :
    shX1 mk a.code 0 0 l.val = .ok (mk a l) := by simp [shX1]
theorem shC2_code (mk : Reg → Reg → Instr) (d a : Reg) :
    shC2 mk d.code a.code = .ok (mk d a) := by simp [shC2]
theorem shCI_code (mk : Reg → BitVec 5 → Instr) (d : Reg) (n : BitVec 5) :
    shCI mk d.code n.toNat = .ok (mk d n) := by simp [shCI]
theorem shCV_code (mk : LReg → LReg → Instr) (d a : LReg) :
    shCV mk d.code a.code = .ok (mk d a) := by simp [shCV]
theorem shC0_code (mk : Instr) :
    shC0 mk 0 0 = .ok mk := by simp [shC0]

/-- The fields of an instruction's word read back as the instruction, the first row where several share the word: the
tables of the encoder and of the decoder name the same shape of operands for it. -/
theorem instrOf_raw (i : Instr) (hw : i.hasWord = true) : instrOf i.raw = .ok i.canon := by
  cases i
  case add | sub | mul | mulh | mulhn | and | or | xor | andn | orn | xnor | min | max | shl | shr | sha | rot |
      minn | maxn | bext | bdep | scadd | sel | fadd | fsub | fmul | fma | fmin | fmax =>
    exact shA3_code ..
  case div | divn | rem | fdiv | dadd | dsub | dmul | dfma | ddiv | spawn | spawnh | send | launch | cancelLaunch
      | cancelGraph | cancelJob | callq | ldx | stx | amoadd | amoand | amoor | amoxor | amomin | amomax | amoswap
      | amocas | waitc | waitb =>
    exact shA3L_code ..
  case clz | popc | brev => exact shA2_code ..
  case lut3 => exact shT8_code ..
  case cmpeq | cmpne | cmplt | cmple | cmpltn | cmplen | tst | fcmpeq | fcmplt | fcmple | fcmpun =>
    exact shCMP3_code ..
  case pand | por | pxor => exact shPR3_code ..
  case pnot => exact shPR2_code ..
  case addi | andi | ori | xori => exact shI12_code ..
  case lui | addpc => exact shU_code ..
  case fsqrt | dsqrt | migr | grun | callm | lrw | scv | waitt | barw => exact shA2L_code ..
  case cvt => exact shCVT_code ..
  case rdcyc => exact shD1_code ..
  case br | brF | call => simp [instrOf, Instr.raw, Instr.canon]
  case jr | callr | armt => exact shAG_code ..
  case ret | ifence => exact shG0_code ..
  case loop => exact shLOOP_code ..
  case susp => exact shAB_code ..
  case home => exact shGL_code ..
  case qtest => exact shA1_code ..
  case callw | cntset => exact shABL_code ..
  case stf | ldf => exact shLDF_code ..
  case ld | lda | sta | ldl => exact shLDM_code ..
  case st | stl => exact shSTM_code ..
  case relq => exact shAGL_code ..
  case fence => exact shFENCE_code ..
  case vamoBf16 => exact shVAMO_bf16_code ..
  case vamoFp32 => exact shVAMO_fp32_code ..
  case vadd | vsub | vmul | vfma | vmin | vmax | vand | vor | vxor | vshl | vshr | vsel | vshuf =>
    exact shV3_code ..
  case vabs | vneg => exact shV2_code ..
  case vexp | vlog | vrcp | vrsq | vsin | vcos | vconj => exact shVE_code ..
  case vcmp => exact shVCMP_code ..
  case vbcast => exact shVBC_code ..
  case vget => exact shVGET_code ..
  case vput => exact shVPUT_code ..
  case vcmul => exact shVE3_code ..
  case vcvt => exact shVCVT_code ..
  case vrnd => exact shVRND_code ..
  case vrsum | vrmax | vrmin | vrmaxi | vrmini => exact shVRED_code ..
  case vld | vst => exact shVLD_code ..
  case vgath | vscat => exact shVGA_code ..
  case strm => exact shSTRM_code ..
  case stre => exact shSTRE_code ..
  case pacc | paxpy | pema => exact shOPT_code _ (by decide) ..
  case opgen => exact shOPG_code _ (by decide) ..
  case opwait | otinv | objsync | dlogh | unsub | cgld | lehrEnter | lehrExit | lehrArm | lehrDisarm =>
    exact shX1_code ..
  case xfer | xferRetry | xferAbandon | otset | frename | fperm | objnew | leasePin | leaseUnpin | xinv | pgmig =>
    exact shX3_code ..
  case cbld | otget | finfo | subs | cgrun | spill | restore | barcfgConfigure | barcfgRelease => exact shX2_code ..
  case waitp => exact shWAITP_code ..
  case sig => exact shSIG_code ..
  case compactMov | compactAdd | compactSub | compactAnd | compactOr | compactXor | compactAndn | compactShl |
      compactShr | compactSha | compactCmpeq | compactCmplt | compactCmpltn | compactLdl | compactStl =>
    exact shC2_code ..
  case compactAddi | compactShli | compactShri | compactShai | compactMovi => exact shCI_code ..
  case compactVadd | compactVmul | compactVfma => exact shCV_code ..
  case nop | idle | rte => exact shSys0_code ..
  case endTask | yield => exact shN_code ..
  case compactNop | compactEnd | compactYield | compactRet => exact shC0_code ..
  -- The sub-operation shares a field with an operand, so it is computed first.
  case fsl d a b n | fsr d a b n =>
    have h7 : (0 + n.toNat) / 128 = 0 ∧ (64 + n.toNat) / 128 = 0 := by omega
    simp only [instrOf, Instr.raw, instrT, zero_zero, ok_bind, shift_div, h7]
    exact shFS_code _ (by decide) ..
  case shli | shri | shai => simp only [instrOf, Instr.raw, instrI, shift_div, shSHI_code, Nat.reduceLT, Instr.canon]
  case cmpeqi | cmplti | cmpltni => simp only [instrOf, Instr.raw, instrI, cmpi_div, shCMPI_code, Instr.canon]
  case srd d r g =>
    have hr := sreg_lt r
    have hsub : r.code / 512 = 0 ∧ r.code % 512 = r.code := by omega
    simp only [instrOf, Instr.raw, instrI, hsub, shSRD_code, Instr.canon]
  case swr r a g =>
    have hr := sreg_lt r
    have hsub : (512 + r.code) / 512 = 1 ∧ (512 + r.code) % 512 = r.code := by omega
    simp only [instrOf, Instr.raw, instrI, hsub, shSWR_code, Instr.canon]
  case ext k a g =>
    have hsub : (1024 + k.val) / 512 = 2 ∧ (1024 + k.val) % 512 = k.val := by omega
    simp only [instrOf, Instr.raw, instrI, hsub, shEXT_code, Instr.canon]
  case trap n =>
    have hsub : (3072 + n.toNat) / 512 = 6 ∧ (3072 + n.toNat) % 512 = n.toNat := by omega
    simp only [instrOf, Instr.raw, instrI, hsub, shTRAP_code, Instr.canon]
  case vldf | vstf | apply | applyc | phase | dscale | redb | maxb | opld =>
    simp only [instrOf, Instr.raw, instrX, fn6_mod, shVLDF_code, shOP3_code, shOPH_code, shOP2_code, shOPM_code,
      shOPLD_code, Nat.reduceLT, Instr.canon]
  -- The steps of the units have no word.
  all_goals cases hw

theorem wf_canon (i : Instr) : i.canon.wf = i.wf := by cases i <;> rfl

/-- The fields of a well-formed instruction pass both steps of R39. -/
theorem checked_raw {i : Instr} (hwf : i.wf = true) (hw : i.hasWord = true) : checked i.raw = .ok i.canon := by
  simp [checked, instrOf_raw i hw, wf_canon, hwf]

end Sys2Proof.Dec
end

section
/-! SUPPORT. The word of an instruction cut into its fields, and its bytes decoded (R15, R17, R18). -/

namespace Sys2Proof.Laws.Encoding

/-- The word of every instruction holds its fields: one law for each constructor. -/
theorem fits_raw (i : Instr) : Fits i.raw := by
  change Statement i
  cases i <;>
    simp only [add, sub, mul, mulh, mulhn, div, divn, rem, and, or, xor, andn, orn, xnor, min, max, shl, shr, sha,
      rot, minn, maxn, clz, popc, bext, bdep, brev, scadd, sel, lut3, fsl, fsr, cmpeq, cmpne, cmplt, cmple, cmpltn,
      cmplen, tst, pand, por, pxor, pnot, addi, andi, ori, xori, shli, shri, shai, cmpeqi, cmplti, cmpltni, lui,
      addpc, fadd, fsub, fmul, fma, fdiv, fsqrt, fmin, fmax, fcmpeq, fcmplt, fcmple, fcmpun, cvt, dadd, dsub, dmul,
      dfma, ddiv, dsqrt, srd, swr, ext, rdcyc, trap, br, brF, call, jr, callr, ret, loop, susp, migr, home, spawn,
      spawnh, send, qtest, launch, grun, cancelLaunch, cancelGraph, cancelJob, callm, callq, callw, stf, ld, st,
      lda, sta, ldl, stl, ldx, stx, lrw, scv, relq, fence, ifence, vamoBf16, vamoFp32, amoadd, amoand, amoor,
      amoxor, amomin, amomax, amoswap, amocas, vadd, vsub, vmul, vfma, vmin, vmax, vabs, vneg, vexp, vlog, vrcp,
      vrsq, vsin, vcos, vand, vor, vxor, vshl, vshr, vcmp, vsel, vbcast, vget, vput, vshuf, vcmul, vconj, vcvt,
      vrnd, vrsum, vrmax, vrmin, vrmaxi, vrmini, vld, vst, vgath, vscat, strm, stre, vldf, vstf, pacc, paxpy, pema,
      ldf, apply, applyc, phase, dscale, redb, maxb, opld, opgen, opwait, xfer, xferRetry, xferAbandon, cbld, waitt,
      waitc, waitb, waitp, sig, cntset, armt, barw, otset, otget, otinv, frename, fperm, finfo, objnew, objsync,
      leasePin, leaseUnpin, xinv, dlogh, pgmig, subs, unsub, cgld, cgrun, spill, restore, barcfgConfigure,
      barcfgRelease, lehrEnter, lehrExit, lehrArm, lehrDisarm, compactMov, compactAdd, compactSub, compactAnd,
      compactOr, compactXor, compactAndn, compactShl, compactShr, compactSha, compactAddi, compactShli, compactShri,
      compactShai, compactMovi, compactCmpeq, compactCmplt, compactCmpltn, compactLdl, compactStl, compactVadd,
      compactVmul, compactVfma, nop, idle, rte, endTask, yield, compactNop, compactEnd, compactYield, compactRet,
      streamFetchAhead, trapEntry, resultArrival, storePerform, pageWalk, remoteAccessRequest, requestTimeout,
      staleReply, packetAgeDiscard, messageArrival, sendOfferAnswer, sendRetryLimit, hardwareMessageDelivery,
      migrationArrival, reservationGrant, slotFill, recordAgeing, waitSetTimeWake, launchPreparation,
      recordGeneration, launchCompletion, commandAccept, commandStart, commandRetire, chunkComplete, chunkFailed,
      codeBookLoaded, remapGroupMove, remapPassEnd, remapCommit, remapGroupRetry, logAppend, entryApply, queryRun,
      replicaReport, replicaExclusion, tierEpochEnd, multicastDelivery, joinPacket, leavePacket, reduceChunk,
      collectiveChunkArrival, collectiveStepComplete, collectiveStepTimeout, collectiveCancelPacket, deadlineExpiry,
      waittTimeReached, promiseReached, barrierArrival, barrierRelease, watchdogExpiry, capWindowEnd, pwrWarnAssert,
      pwrWarnDeassert, lehrEntryComplete, lehrExitComplete, powerUpBoot, clusterReset, managementStatus,
      managementAttestation, clusterDrain, clusterReturn, dieDrain, linkKeyRenewal, obituary, linkLoss, jobKill,
      deviceUnrecoverableFault, linkKeyAgreement, acknowledgementArrival, pageMigrationLineCopy]

end Sys2Proof.Laws.Encoding

namespace Sys2Proof

theorem Instr.raw_of_compact {i : Instr} (h : i.compact = true) : ∃ op d a, i.raw = .c op d a := by
  unfold Instr.compact at h
  split at h
  · exact ⟨_, _, _, ‹_›⟩
  · cases h

theorem Instr.raw_ne_of_not_compact {i : Instr} (h : ¬ i.compact = true) (op d a : Nat) : i.raw ≠ .c op d a := by
  intro e
  simp [Instr.compact, e] at h

theorem Instr.bytes_length (i : Instr) : i.bytes.length = i.len := by
  simp only [Instr.bytes, Instr.len]
  split <;> rfl

end Sys2Proof

namespace Sys2Proof.Dec

open Laws.Encoding (Fits fits_raw)

/-- The fields of a 32-bit word are those it was made of: the word is a sum of fields below one another (R17). -/
theorem rawOf_wordOf {r : Raw} (h : Fits r) (h16 : ∀ op d a, r ≠ .c op d a) (h0 : r ≠ .none) :
    rawOf (wordOf r) = r := by
  generalize hw : wordOf r = w
  cases r with
  | c op d a => exact absurd rfl (h16 op d a)
  | none => exact absurd rfl h0
  | a op | x op | t op | i op | m op | u op =>
    simp only [Fits, wordOf] at h hw
    obtain ⟨⟨hop, hfmt⟩, h⟩ := h
    have hmajor : fld w 25 6 = op := by rw [fld]; omega
    simp only [rawOf, hmajor, hfmt]
    simp only [fld, Raw.a.injEq, Raw.x.injEq, Raw.t.injEq, Raw.i.injEq, Raw.m.injEq, Raw.u.injEq, true_and]
    omega
  | j o =>
    simp only [Fits, wordOf] at h hw
    have hmajor : fld w 25 6 = 0x16 := by rw [fld]; omega
    have hfmt : fmt 0x16 = .j := rfl
    simp only [rawOf, hmajor, hfmt]
    simp only [fld, Raw.j.injEq]
    omega
  | b s p o =>
    simp only [Fits, wordOf] at h hw
    have hmajor : fld w 25 6 = 0x15 := by rw [fld]; omega
    have hfmt : fmt 0x15 = .b := rfl
    simp only [rawOf, hmajor, hfmt]
    simp only [fld, Raw.b.injEq]
    omega

theorem rawOf16_wordOf {op d a : Nat} (h : Fits (.c op d a)) : rawOf16 (wordOf (.c op d a)) = .c op d a := by
  simp only [Fits] at h
  simp only [rawOf16, wordOf, fld, Raw.c.injEq]
  omega

theorem wordOf_lt_of_compact {op d a : Nat} (h : Fits (.c op d a)) : wordOf (.c op d a) < 2 ^ 15 := by
  simp only [Fits] at h
  simp only [wordOf]
  omega

/-- Bit 31 of a 32-bit instruction word is 1 (R15). -/
theorem wordOf_bounds {r : Raw} (h : Fits r) (h16 : ∀ op d a, r ≠ .c op d a) (h0 : r ≠ .none) :
    2 ^ 31 ≤ wordOf r ∧ wordOf r < 2 ^ 32 := by
  cases r with
  | c op d a => exact absurd rfl (h16 op d a)
  | none => exact absurd rfl h0
  | _ =>
    simp only [Fits] at h
    simp only [wordOf]
    omega

/-- A halfword of a word, from its two bytes (R3). -/
theorem halfword_ofNat (w : Nat) : halfword (BitVec.ofNat 8 w) (BitVec.ofNat 8 (w / 2 ^ 8)) = w % 2 ^ 16 := by
  simp only [halfword, BitVec.toNat_ofNat]
  omega

/-- Bytes that begin with a halfword below 2^15 are decoded as a compact word (R15). -/
theorem bytes_of_word16 {w : Nat} (h : w < 2 ^ 15) (rest : List Byte) :
    bytes (BitVec.ofNat 8 w :: BitVec.ofNat 8 (w / 2 ^ 8) :: rest) = (word16 w).map fun i => (i, rest) := by
  have hmod : w % 2 ^ 16 = w := by omega
  simp only [bytes, halfword_ofNat, hmod, if_pos h]

/-- The four bytes of a word with bit 31 set are decoded as that word (R15). -/
theorem bytes_of_word32 {w : Nat} (h : 2 ^ 31 ≤ w ∧ w < 2 ^ 32) (rest : List Byte) :
    bytes (BitVec.ofNat 8 (w / 2 ^ 16) :: BitVec.ofNat 8 (w / 2 ^ 24) :: BitVec.ofNat 8 w ::
        BitVec.ofNat 8 (w / 2 ^ 8) :: rest) =
      (word32 w).map fun i => (i, rest) := by
  obtain ⟨hlo, hhi⟩ := h
  have htop : halfword (BitVec.ofNat 8 (w / 2 ^ 16)) (BitVec.ofNat 8 (w / 2 ^ 24)) = w / 2 ^ 16 := by
    simp only [halfword, BitVec.toNat_ofNat]
    omega
  have hlong : ¬ w / 2 ^ 16 < 2 ^ 15 := by omega
  have hword : w / 2 ^ 16 * 2 ^ 16 + w % 2 ^ 16 = w := by omega
  simp only [bytes, htop, if_neg hlong, halfword_ofNat, hword]

/-- The bytes of a well-formed instruction decode to it, or to the first row of its word, whatever follows them (R15). -/
theorem bytes_of_instr {i : Instr} (hwf : i.wf = true) (hw : i.hasWord = true) (rest : List Byte) :
    bytes (i.bytes ++ rest) = .ok (i.canon, rest) := by
  have hfits := fits_raw i
  have hchk := checked_raw hwf hw
  by_cases hc : i.compact = true
  · obtain ⟨op, d, a, hr⟩ := Instr.raw_of_compact hc
    rw [hr] at hfits hchk
    have hdec : word16 i.encode = .ok i.canon := by rw [word16, Instr.encode, hr, rawOf16_wordOf hfits, hchk]
    have hlt : i.encode < 2 ^ 15 := by rw [Instr.encode, hr]; exact wordOf_lt_of_compact hfits
    simp only [Instr.bytes, if_pos hc, List.cons_append, List.nil_append, bytes_of_word16 hlt, hdec, Except.map]
  · have h16 := Instr.raw_ne_of_not_compact hc
    have h0 : i.raw ≠ .none := by simpa [Instr.hasWord] using hw
    have hdec : word32 i.encode = .ok i.canon := by rw [word32, Instr.encode, rawOf_wordOf hfits h16 h0, hchk]
    have hbd : 2 ^ 31 ≤ i.encode ∧ i.encode < 2 ^ 32 := wordOf_bounds hfits h16 h0
    simp only [Instr.bytes, if_neg hc, List.cons_append, List.nil_append, bytes_of_word32 hbd, hdec, Except.map]

end Sys2Proof.Dec
end

section
/-! SUPPORT. What fetch finds, what a strand that issues does, and the step in which only it moves (R9, R15, R16). -/

namespace Sys2Proof.Machine

open Dec (halfword)

/-- What a decoded word leaves over is what stood after it. -/
theorem rest_of_map_eq_ok {x : Except Reject Instr} {r r' : List Byte} {i : Instr}
    (h : (x.map fun y => (y, r)) = .ok (i, r')) : r = r' := by
  cases x with
  | error e => cases h
  | ok y => cases h; rfl

/-- Bytes that decode with nothing left over are as many as their first halfword says (R15). -/
theorem lengthOf_of_bytes {bs : List Byte} {i : Instr} (h : Dec.bytes bs = .ok (i, [])) :
    lengthOf (halfword (bs.getD 0 0) (bs.getD 1 0)) = bs.length := by
  match bs with
  | [] | [_] => cases h
  | b0 :: b1 :: rest =>
    simp only [List.getD_cons_zero, List.getD_cons_succ, lengthOf]
    by_cases hshort : halfword b0 b1 < 2 ^ 15
    · simp only [Dec.bytes, if_pos hshort] at h
      rw [if_pos hshort, rest_of_map_eq_ok h]
      rfl
    · rw [if_neg hshort]
      match rest with
      | [] | [_] => simp only [Dec.bytes, if_neg hshort, reduceCtorEq] at h
      | b2 :: b3 :: rest' =>
        simp only [Dec.bytes, if_neg hshort] at h
        rw [rest_of_map_eq_ok h]
        rfl

/-- Within a local store the next cell has the next key. -/
theorem lsKey_succ (core : Nat) {off : Nat} (h : off + 1 < 2 ^ 20) : lsKey core (off + 1) = lsKey core off + 1 := by
  simp only [lsKey]
  omega

/-- The halfword at an offset is made of the byte there and the next one (R3). -/
theorem half_eq_halfword (s : State) (core : Nat) {off : Nat} (h : off + 1 < 2 ^ 20) :
    s.half core off = halfword (s.byte (lsKey core off)) (s.byte (lsKey core (off + 1))) := by
  rw [lsKey_succ core h]
  rfl

/-- Fetch decodes the bytes at pc, as many as the first halfword says, where none of them is in error (R15, R16, R137). -/
theorem fetch_of_bytes {s : State} {core : Nat} {pc : BitVec 48} {bs : List Byte} {i : Instr}
    (hdec : Dec.bytes bs = .ok (i, [])) (hend : pc.toNat + bs.length ≤ 2 ^ 20)
    (hmem : ∀ j < bs.length, s.badAt (lsKey core (pc.toNat + j)) = false ∧
      s.byte (lsKey core (pc.toNat + j)) = bs.getD j 0) :
    s.fetch core pc = .instr i := by
  have hlen := lengthOf_of_bytes hdec
  have htwo : 2 ≤ bs.length := by rw [← hlen, lengthOf]; split <;> decide
  have hhalf : lengthOf (s.half core pc.toNat) = bs.length := by
    have hfirst := (hmem 0 (by omega)).2
    rw [Nat.add_zero] at hfirst
    rw [half_eq_halfword s core (by omega), hfirst, (hmem 1 (by omega)).2, hlen]
  have hgood : ((List.range bs.length).map fun j => lsKey core (pc.toNat + j)).find? s.badAt = none := by
    simp only [List.find?_eq_none, List.mem_map, List.mem_range, forall_exists_index, and_imp]
    rintro _ j hj rfl
    simp [(hmem j hj).1]
  have hbytes : ((List.range bs.length).map fun j => lsKey core (pc.toNat + j)).map s.byte = bs := by
    refine List.ext_getElem (by simp) fun j _ hj => ?_
    simp [(hmem j hj).2, hj]
  have hstart : ¬ 2 ^ 20 ≤ pc.toNat := by omega
  simp only [State.fetch, hhalf, hgood, hbytes, hdec, if_neg hstart, if_neg (Nat.not_lt.mpr hend)]

theorem fetch_beyond {s : State} {core : Nat} {pc : BitVec 48} (h : 2 ^ 20 ≤ pc.toNat) : s.fetch core pc = .beyond := by
  simp only [State.fetch, if_pos h]

/-- A strand that owes no store error issues what it fetches (R9). -/
theorem issueNext_eq_issueFetched {s : State} (h : s.me.storeErr = none) :
    s.issueNext = issueFetched (s.fetch s.me.core s.me.pc) s := by
  simp only [State.issueNext, h]

theorem Out.map_id (o : Out) : Out.map (fun t => t) o = o := by
  cases o <;> rfl

theorem Out.map_map (f g : State → State) (o : Out) : Out.map f (Out.map g o) = Out.map (fun t => f (g t)) o := by
  cases o <;> rfl

/-- Outside a RESTORE in state 2 an instruction issues by its own meaning alone (R368). -/
theorem issueFetched_instr {s : State} (i : Instr) (h : s.me.skip = none) : issueFetched (.instr i) s = exec i s := by
  simp only [issueFetched, State.runAlone, h, Out.map_id]

theorem focus_self (s : State) : s.focus s.me.sid.toNat = s := by
  simp only [State.focus, if_true]

/-- With one move to make, the issue of the strand in focus, a step is that issue: the pointer moves, the waits are looked
at again and the clock advances (R9). -/
theorem step_of_issue {s : State} (h : s.moves = [.issue s.me.sid.toNat]) :
    step s = Out.map (fun t => (s.pointed t).settle.tick) s.issueNext := by
  simp only [step, State.advance, h, State.choose, State.make, focus_self, Out.map_map]

/-! The level of an instruction (R10). -/

/-- Below the level of an instruction only the privilege trap happens (R10, R39 step 3). -/
theorem atLevel_of_lt {lvl : BitVec 2} {s : State} (w : Nat) (run : State → Out) (h : s.me.plv < lvl) :
    atLevel lvl w run s = .next (s.raise 2 0 (toW w)) := by
  simp [atLevel, h]

/-- Each instruction of the supervisor tests its level before anything else it does. -/
theorem exec_eq_atLevel_of_supervisorOnly {i : Instr} (s : State) (h : Claims.supervisorOnly i = true) :
    ∃ run, exec i s = atLevel supervisor i.encode run s := by
  unfold Claims.supervisorOnly at h
  split at h
  case h_1 r a g =>
    have hr : sregLevel r = supervisor := by
      simp only [Bool.or_eq_true, beq_iff_eq] at h
      obtain (rfl | rfl) | rfl := h <;> rfl
    exact ⟨_, by rw [← hr]; rfl⟩
  case h_20 => cases h
  all_goals exact ⟨_, rfl⟩

end Sys2Proof.Machine
end

section
/-! PROOFS. The obligations of the bit-axis machine (01_bit_axis_machine): a step runs what its bytes decode to, and an
instruction above the strand's level does nothing but trap. -/

namespace Sys2Proof.Machine

/-- Settles O5: every instruction of the supervisor is its level test and then the rest. -/
theorem privilegeTrap : Obligations.PrivilegeTrap := by
  intro i s hi hplv
  obtain ⟨run, hrun⟩ := exec_eq_atLevel_of_supervisorOnly s hi
  rw [hrun, atLevel_of_lt _ _ (by rw [hplv]; decide)]

/-- Settles O58: fetch by the round trip of encoding and decoding, the step by what issueNext does with each outcome of
fetch. -/
theorem stepRunsDecoded : Obligations.StepRunsDecoded := by
  refine ⟨?fetches, ?issues⟩
  case fetches =>
    intro s core pc i hwf hw _ hend hmem
    have hdec := Dec.bytes_of_instr hwf hw []
    rw [List.append_nil] at hdec
    rw [← i.bytes_length] at hend hmem
    exact fetch_of_bytes hdec hend hmem
  case issues =>
    intro s hstore hskip
    have hissue := issueNext_eq_issueFetched hstore
    refine ⟨fun i hi => ?_, fun w hn => ?_, fun hpc => ?_⟩
    · have hexec : s.issueNext = exec i s := by rw [hissue, hi, issueFetched_instr i hskip]
      exact ⟨hexec, fun hmoves => by rw [step_of_issue hmoves, hexec]⟩
    · rw [hissue, hn]
      rfl
    · rw [hissue, fetch_beyond hpc]
      rfl

end Sys2Proof.Machine
end

section
/-! SUPPORT. What the decoder finds is what the encoder writes (R15 to R39), in the layers of the round trip the other way:
each operand code, each operand shape, each format, then words and bytes. -/

namespace Sys2Proof.Dec

open Laws.Encoding (Fits)

/-! What a step of the decoder that answers has found. -/

theorem bind_eq_ok {ε α β : Type} {x : Except ε α} {f : α → Except ε β} {y : β} :
    (x >>= f) = .ok y ↔ ∃ a, x = .ok a ∧ f a = .ok y := by
  cases x with
  | ok a => simp
  | error e => simp [bind, Except.bind]

theorem need_eq_ok {c : Bool} {r : Reject} {u : Unit} : need c r = .ok u ↔ c = true := by
  cases c <;> simp [need]
theorem zero_eq_ok {x : Nat} {u : Unit} : zero x = .ok u ↔ x = 0 := by rw [zero, need_eq_ok, beq_iff_eq]
theorem short_eq_ok {x : Nat} {u : Unit} : short x = .ok u ↔ x = 0 := by rw [short, need_eq_ok, beq_iff_eq]

theorem reg_eq_ok {c : Nat} {r : Reg} : reg c = .ok r ↔ c = r.code := by
  refine ⟨fun h => ?_, fun h => h ▸ reg_code r⟩
  unfold reg at h
  split_ifs at h <;> cases h <;> simp [Reg.code] <;> omega
theorem lreg_eq_ok {c : Nat} {r : LReg} : lreg c = .ok r ↔ c = r.code := by
  refine ⟨fun h => ?_, fun h => h ▸ lreg_code r⟩
  unfold lreg at h
  split_ifs at h
  · cases h; rfl
  · cases h; simp [LReg.code]; omega
theorem pred_eq_ok {c : Nat} {p : Pred} : pred c = .ok p ↔ c = p.val := by
  refine ⟨fun h => ?_, fun h => h ▸ pred_val p⟩
  unfold pred at h
  split_ifs at h
  cases h
  rfl
theorem kreg_eq_ok {c : Nat} {k : Fin 8} : kreg c = .ok k ↔ c = k.val := by
  refine ⟨fun h => ?_, fun h => h ▸ kreg_val k⟩
  unfold kreg at h
  split_ifs at h
  cases h
  rfl
theorem tdes_eq_ok {c : Nat} {t : Fin 4} : tdes c = .ok t ↔ c = 8 + t.val := by
  refine ⟨fun h => ?_, fun h => h ▸ tdes_val t⟩
  unfold tdes at h
  split_ifs at h
  cases h
  simp
  omega
theorem rmode_eq_ok {c : Nat} {m : RMode} : rmode c = .ok m ↔ c = m.code := by
  refine ⟨fun h => ?_, fun h => h ▸ rmode_code m⟩
  unfold rmode at h
  split at h <;> cases h <;> rfl
theorem scope_eq_ok {c : Nat} {z : Scope} : scope c = .ok z ↔ c = z.code := by
  refine ⟨fun h => ?_, fun h => h ▸ scope_code z⟩
  unfold scope at h
  split at h <;> cases h <;> rfl
theorem fkind_eq_ok {c : Nat} {k : FKind} : fkind c = .ok k ↔ c = k.code := by
  refine ⟨fun h => ?_, fun h => h ▸ fkind_code k⟩
  unfold fkind at h
  split at h <;> cases h <;> rfl
theorem vsrc_eq_ok {c : Nat} {v : VSrc} : vsrc c = .ok v ↔ c = v.code := by
  refine ⟨fun h => ?_, fun h => h ▸ vsrc_code v⟩
  unfold vsrc at h
  split at h <;> cases h <;> rfl
theorem sreg_eq_ok {c : Nat} {r : SReg} : sreg c = .ok r ↔ c = r.code := by
  refine ⟨fun h => ?_, fun h => h ▸ sreg_code r⟩
  unfold sreg at h
  split at h <;> cases h <;> rfl

/-! The fields that every value fits: the code of what is read is the field. -/

theorem code_rel {c : Nat} (h : c < 4) : (rel c).code = c := by interval_cases c <;> rfl
theorem code_asize {c : Nat} (h : c < 4) : (asize c).code = c := by interval_cases c <;> rfl
theorem bit_beq {x : Nat} (h : x < 2) : bit (x == 1) = x := by interval_cases x <;> rfl

/-- A field with an operand of w bits under a sub-operation: the sub-operation and the operand are the field. -/
theorem split_toNat {c n w : Nat} (h : n / 2 ^ w * 2 ^ w = c) : c + (BitVec.ofNat w n).toNat = n := by
  rw [BitVec.toNat_ofNat, ← h, Nat.div_add_mod']

theorem toNat_ofNat_of_lt {n w : Nat} (h : n < 2 ^ w) : (BitVec.ofNat w n).toNat = n := Nat.mod_eq_of_lt h

/-- fn6 of OPER from its parts (R36). -/
theorem fn6_sum {f j : Nat} (hj : f % 8 = j) (hf : f < 64) :
    j + 8 * bit (f / 8 % 2 == 1) + 16 * bit (f / 16 % 2 == 1) + 32 * bit (f / 32 == 1) = f := by
  rw [bit_beq (by omega), bit_beq (by omega), bit_beq (by omega)]
  omega

/-! Each operand shape gives an instruction whose word has the fields it was read from. -/

/-- An instruction found for the fields of a word: those are the fields of its own word, and it is the first row of it. -/
structure Gives (r : Raw) (i : Instr) : Prop where
  raw : i.raw = r
  canon : i.canon = i

theorem Gives.of_eq {r r' : Raw} {i : Instr} (h : Gives r i) (e : r = r') : Gives r' i := e ▸ h

section FormatA

variable {op d a b f l : Nat} {g : Guard} {i : Instr}

theorem shA3_gives {mk : Reg → Reg → Reg → Guard → Instr} (h : shA3 mk d a b g.val l = .ok i)
    (hmk : ∀ d a b g, Gives (.a op d.code a.code b.code f g.val 0) (mk d a b g)) : Gives (.a op d a b f g.val l) i := by
  simp only [shA3, bind_eq_ok, short_eq_ok, reg_eq_ok, fin8_val] at h
  obtain ⟨-, rfl, d, rfl, a, rfl, b, rfl, ⟨⟩⟩ := h
  exact hmk ..
theorem shA2_gives {mk : Reg → Reg → Guard → Instr} (h : shA2 mk d a b g.val l = .ok i)
    (hmk : ∀ d a g, Gives (.a op d.code a.code 0 f g.val 0) (mk d a g)) : Gives (.a op d a b f g.val l) i := by
  simp only [shA2, bind_eq_ok, zero_eq_ok, short_eq_ok, reg_eq_ok, fin8_val] at h
  obtain ⟨-, rfl, -, rfl, d, rfl, a, rfl, ⟨⟩⟩ := h
  exact hmk ..
theorem shA1_gives {mk : Reg → Guard → Instr} (h : shA1 mk d a b g.val l = .ok i)
    (hmk : ∀ d g, Gives (.a op d.code 0 0 f g.val 0) (mk d g)) : Gives (.a op d a b f g.val l) i := by
  simp only [shA1, bind_eq_ok, zero_eq_ok, short_eq_ok, reg_eq_ok, fin8_val] at h
  obtain ⟨-, rfl, -, rfl, -, rfl, d, rfl, ⟨⟩⟩ := h
  exact hmk ..
theorem shAB_gives {mk : Reg → Reg → Guard → Instr} (h : shAB mk d a b g.val l = .ok i)
    (hmk : ∀ a b g, Gives (.a op 0 a.code b.code f g.val 0) (mk a b g)) : Gives (.a op d a b f g.val l) i := by
  simp only [shAB, bind_eq_ok, zero_eq_ok, short_eq_ok, reg_eq_ok, fin8_val] at h
  obtain ⟨-, rfl, -, rfl, a, rfl, b, rfl, ⟨⟩⟩ := h
  exact hmk ..
theorem shAG_gives {mk : Reg → Guard → Instr} (h : shAG mk d a b g.val l = .ok i)
    (hmk : ∀ a g, Gives (.a op 0 a.code 0 f g.val 0) (mk a g)) : Gives (.a op d a b f g.val l) i := by
  simp only [shAG, bind_eq_ok, zero_eq_ok, short_eq_ok, reg_eq_ok, fin8_val] at h
  obtain ⟨-, rfl, -, rfl, -, rfl, a, rfl, ⟨⟩⟩ := h
  exact hmk ..
theorem shG0_gives {mk : Guard → Instr} (h : shG0 mk d a b g.val l = .ok i)
    (hmk : ∀ g, Gives (.a op 0 0 0 f g.val 0) (mk g)) : Gives (.a op d a b f g.val l) i := by
  simp only [shG0, bind_eq_ok, zero_eq_ok, short_eq_ok, fin8_val] at h
  obtain ⟨-, rfl, -, rfl, -, rfl, -, rfl, ⟨⟩⟩ := h
  exact hmk ..
theorem shCMP3_gives {mk : Pred → Reg → Reg → Guard → Instr} (h : shCMP3 mk d a b g.val l = .ok i)
    (hmk : ∀ d a b g, Gives (.a op d.val a.code b.code f g.val 0) (mk d a b g)) : Gives (.a op d a b f g.val l) i := by
  simp only [shCMP3, bind_eq_ok, short_eq_ok, reg_eq_ok, pred_eq_ok, fin8_val] at h
  obtain ⟨-, rfl, d, rfl, a, rfl, b, rfl, ⟨⟩⟩ := h
  exact hmk ..
theorem shPR3_gives {mk : Pred → Pred → Pred → Guard → Instr} (h : shPR3 mk d a b g.val l = .ok i)
    (hmk : ∀ d a b g, Gives (.a op d.val a.val b.val f g.val 0) (mk d a b g)) : Gives (.a op d a b f g.val l) i := by
  simp only [shPR3, bind_eq_ok, short_eq_ok, pred_eq_ok, fin8_val] at h
  obtain ⟨-, rfl, d, rfl, a, rfl, b, rfl, ⟨⟩⟩ := h
  exact hmk ..
theorem shPR2_gives {mk : Pred → Pred → Guard → Instr} (h : shPR2 mk d a b g.val l = .ok i)
    (hmk : ∀ d a g, Gives (.a op d.val a.val 0 f g.val 0) (mk d a g)) : Gives (.a op d a b f g.val l) i := by
  simp only [shPR2, bind_eq_ok, zero_eq_ok, short_eq_ok, pred_eq_ok, fin8_val] at h
  obtain ⟨-, rfl, -, rfl, d, rfl, a, rfl, ⟨⟩⟩ := h
  exact hmk ..
theorem shN_gives {mk : Instr} (h : shN mk d a b g.val l = .ok i) (hmk : Gives (.a op 0 0 0 f 0 0) mk) :
    Gives (.a op d a b f g.val l) i := by
  simp only [shN, bind_eq_ok, zero_eq_ok, short_eq_ok] at h
  obtain ⟨-, rfl, -, rfl, -, rfl, -, hg, -, rfl, ⟨⟩⟩ := h
  rw [hg]
  exact hmk
theorem shFENCE_gives {mk : Scope → FKind → Guard → Instr} (h : shFENCE mk d a b g.val l = .ok i)
    (hmk : ∀ z k g, Gives (.a op (z.code + 8 * k.code) 0 0 f g.val 0) (mk z k g)) :
    Gives (.a op d a b f g.val l) i := by
  simp only [shFENCE, bind_eq_ok, zero_eq_ok, short_eq_ok, scope_eq_ok, fkind_eq_ok, fin8_val] at h
  obtain ⟨-, rfl, -, rfl, -, rfl, z, hz, k, hk, ⟨⟩⟩ := h
  obtain rfl : d = z.code + 8 * k.code := by omega
  exact hmk ..
theorem shVE_gives {t : Nat} {mk : LReg → LReg → Guard → Instr} (h : shVE t mk d a b g.val l = .ok i)
    (hmk : ∀ d a g, Gives (.a op d.code a.code 0 f g.val t) (mk d a g)) : Gives (.a op d a b f g.val l) i := by
  simp only [shVE, bind_eq_ok, zero_eq_ok, need_eq_ok, beq_iff_eq, lreg_eq_ok, fin8_val] at h
  obtain ⟨-, rfl, -, rfl, d, rfl, a, rfl, ⟨⟩⟩ := h
  exact hmk ..
theorem shVE3_gives {t : Nat} {mk : LReg → LReg → LReg → Guard → Instr} (h : shVE3 t mk d a b g.val l = .ok i)
    (hmk : ∀ d a b g, Gives (.a op d.code a.code b.code f g.val t) (mk d a b g)) : Gives (.a op d a b f g.val l) i := by
  simp only [shVE3, bind_eq_ok, need_eq_ok, beq_iff_eq, lreg_eq_ok, fin8_val] at h
  obtain ⟨-, rfl, d, rfl, a, rfl, b, rfl, ⟨⟩⟩ := h
  exact hmk ..
theorem shSTRE_gives (h : shSTRE d a b g.val l = .ok i) : Gives (.a 0x2D d a b 5 g.val l) i := by
  simp only [shSTRE, bind_eq_ok, zero_eq_ok, tdes_eq_ok, fin8_val] at h
  obtain ⟨-, rfl, -, rfl, -, rfl, d, rfl, ⟨⟩⟩ := h
  exact ⟨rfl, rfl⟩

end FormatA

section FormatAWithWindowOrType

variable {op d a b f : Nat} {g : Guard} {l : Look} {i : Instr}

theorem shA3L_gives {mk : Reg → Reg → Reg → Guard → Look → Instr} (h : shA3L mk d a b g.val l.val = .ok i)
    (hmk : ∀ d a b g l, Gives (.a op d.code a.code b.code f g.val l.val) (mk d a b g l)) :
    Gives (.a op d a b f g.val l.val) i := by
  simp only [shA3L, bind_eq_ok, reg_eq_ok, fin8_val, fin16_val] at h
  obtain ⟨d, rfl, a, rfl, b, rfl, ⟨⟩⟩ := h
  exact hmk ..
theorem shA2L_gives {mk : Reg → Reg → Guard → Look → Instr} (h : shA2L mk d a b g.val l.val = .ok i)
    (hmk : ∀ d a g l, Gives (.a op d.code a.code 0 f g.val l.val) (mk d a g l)) :
    Gives (.a op d a b f g.val l.val) i := by
  simp only [shA2L, bind_eq_ok, zero_eq_ok, reg_eq_ok, fin8_val, fin16_val] at h
  obtain ⟨-, rfl, d, rfl, a, rfl, ⟨⟩⟩ := h
  exact hmk ..
theorem shABL_gives {mk : Reg → Reg → Guard → Look → Instr} (h : shABL mk d a b g.val l.val = .ok i)
    (hmk : ∀ a b g l, Gives (.a op 0 a.code b.code f g.val l.val) (mk a b g l)) :
    Gives (.a op d a b f g.val l.val) i := by
  simp only [shABL, bind_eq_ok, zero_eq_ok, reg_eq_ok, fin8_val, fin16_val] at h
  obtain ⟨-, rfl, a, rfl, b, rfl, ⟨⟩⟩ := h
  exact hmk ..
theorem shAGL_gives {mk : Reg → Guard → Look → Instr} (h : shAGL mk d a b g.val l.val = .ok i)
    (hmk : ∀ a g l, Gives (.a op 0 a.code 0 f g.val l.val) (mk a g l)) : Gives (.a op d a b f g.val l.val) i := by
  simp only [shAGL, bind_eq_ok, zero_eq_ok, reg_eq_ok, fin8_val, fin16_val] at h
  obtain ⟨-, rfl, -, rfl, a, rfl, ⟨⟩⟩ := h
  exact hmk ..
theorem shGL_gives {mk : Guard → Look → Instr} (h : shGL mk d a b g.val l.val = .ok i)
    (hmk : ∀ g l, Gives (.a op 0 0 0 f g.val l.val) (mk g l)) : Gives (.a op d a b f g.val l.val) i := by
  simp only [shGL, bind_eq_ok, zero_eq_ok, fin8_val, fin16_val] at h
  obtain ⟨-, rfl, -, rfl, -, rfl, ⟨⟩⟩ := h
  exact hmk ..
theorem shSIG_gives {mk : Scope → Reg → Reg → Guard → Look → Instr} (h : shSIG mk d a b g.val l.val = .ok i)
    (hmk : ∀ d a b g l, Gives (.a op d.code a.code b.code f g.val l.val) (mk d a b g l)) :
    Gives (.a op d a b f g.val l.val) i := by
  simp only [shSIG, bind_eq_ok, reg_eq_ok, scope_eq_ok, fin8_val, fin16_val] at h
  obtain ⟨d, rfl, a, rfl, b, rfl, ⟨⟩⟩ := h
  exact hmk ..
theorem shWAITP_gives {mk : Reg → Reg → Reg → Guard → Look → Instr} (h : shWAITP mk d a b g.val l.val = .ok i)
    (hmk : ∀ d a b g l, Gives (.a op d.code a.code b.code f g.val l.val) (mk d a b g l)) :
    Gives (.a op d a b f g.val l.val) i := by
  simp only [shWAITP, bind_eq_ok, reg_eq_ok, fin8_val, fin16_val] at h
  obtain ⟨d, rfl, a, rfl, b, rfl, ⟨⟩⟩ := h
  exact hmk ..
theorem shV3_gives {mk : LReg → LReg → LReg → Look → Guard → Instr} (h : shV3 mk d a b g.val l.val = .ok i)
    (hmk : ∀ d a b l g, Gives (.a op d.code a.code b.code f g.val l.val) (mk d a b l g)) :
    Gives (.a op d a b f g.val l.val) i := by
  simp only [shV3, bind_eq_ok, lreg_eq_ok, fin8_val, fin16_val] at h
  obtain ⟨d, rfl, a, rfl, b, rfl, ⟨⟩⟩ := h
  exact hmk ..
theorem shV2_gives {mk : LReg → LReg → Look → Guard → Instr} (h : shV2 mk d a b g.val l.val = .ok i)
    (hmk : ∀ d a l g, Gives (.a op d.code a.code 0 f g.val l.val) (mk d a l g)) :
    Gives (.a op d a b f g.val l.val) i := by
  simp only [shV2, bind_eq_ok, zero_eq_ok, lreg_eq_ok, fin8_val, fin16_val] at h
  obtain ⟨-, rfl, d, rfl, a, rfl, ⟨⟩⟩ := h
  exact hmk ..
theorem shVBC_gives {mk : LReg → Reg → Look → Guard → Instr} (h : shVBC mk d a b g.val l.val = .ok i)
    (hmk : ∀ d a l g, Gives (.a op d.code a.code 0 f g.val l.val) (mk d a l g)) :
    Gives (.a op d a b f g.val l.val) i := by
  simp only [shVBC, bind_eq_ok, zero_eq_ok, reg_eq_ok, lreg_eq_ok, fin8_val, fin16_val] at h
  obtain ⟨-, rfl, d, rfl, a, rfl, ⟨⟩⟩ := h
  exact hmk ..
theorem shVGET_gives {mk : Reg → LReg → Reg → Look → Guard → Instr} (h : shVGET mk d a b g.val l.val = .ok i)
    (hmk : ∀ d a b l g, Gives (.a op d.code a.code b.code f g.val l.val) (mk d a b l g)) :
    Gives (.a op d a b f g.val l.val) i := by
  simp only [shVGET, bind_eq_ok, reg_eq_ok, lreg_eq_ok, fin8_val, fin16_val] at h
  obtain ⟨d, rfl, a, rfl, b, rfl, ⟨⟩⟩ := h
  exact hmk ..
theorem shVPUT_gives {mk : LReg → Reg → Reg → Look → Guard → Instr} (h : shVPUT mk d a b g.val l.val = .ok i)
    (hmk : ∀ d a b l g, Gives (.a op d.code a.code b.code f g.val l.val) (mk d a b l g)) :
    Gives (.a op d a b f g.val l.val) i := by
  simp only [shVPUT, bind_eq_ok, reg_eq_ok, lreg_eq_ok, fin8_val, fin16_val] at h
  obtain ⟨d, rfl, a, rfl, b, rfl, ⟨⟩⟩ := h
  exact hmk ..
theorem shVRND_gives {mk : LReg → LReg → Reg → Look → Guard → Instr} (h : shVRND mk d a b g.val l.val = .ok i)
    (hmk : ∀ d a b l g, Gives (.a op d.code a.code b.code f g.val l.val) (mk d a b l g)) :
    Gives (.a op d a b f g.val l.val) i := by
  simp only [shVRND, bind_eq_ok, reg_eq_ok, lreg_eq_ok, fin8_val, fin16_val] at h
  obtain ⟨d, rfl, a, rfl, b, rfl, ⟨⟩⟩ := h
  exact hmk ..
theorem shVRED_gives {mk : Reg → LReg → Look → Guard → Instr} (h : shVRED mk d a b g.val l.val = .ok i)
    (hmk : ∀ d a l g, Gives (.a op d.code a.code 0 f g.val l.val) (mk d a l g)) :
    Gives (.a op d a b f g.val l.val) i := by
  simp only [shVRED, bind_eq_ok, zero_eq_ok, reg_eq_ok, lreg_eq_ok, fin8_val, fin16_val] at h
  obtain ⟨-, rfl, d, rfl, a, rfl, ⟨⟩⟩ := h
  exact hmk ..
theorem shVLD_gives {mk : LReg → Reg → Reg → Look → Guard → Instr} (h : shVLD mk d a b g.val l.val = .ok i)
    (hmk : ∀ d a b l g, Gives (.a op d.code a.code b.code f g.val l.val) (mk d a b l g)) :
    Gives (.a op d a b f g.val l.val) i := by
  simp only [shVLD, bind_eq_ok, reg_eq_ok, lreg_eq_ok, fin8_val, fin16_val] at h
  obtain ⟨d, rfl, a, rfl, b, rfl, ⟨⟩⟩ := h
  exact hmk ..
theorem shVGA_gives {mk : LReg → Reg → LReg → Look → Guard → Instr} (h : shVGA mk d a b g.val l.val = .ok i)
    (hmk : ∀ d a b l g, Gives (.a op d.code a.code b.code f g.val l.val) (mk d a b l g)) :
    Gives (.a op d a b f g.val l.val) i := by
  simp only [shVGA, bind_eq_ok, reg_eq_ok, lreg_eq_ok, fin8_val, fin16_val] at h
  obtain ⟨d, rfl, a, rfl, b, rfl, ⟨⟩⟩ := h
  exact hmk ..
theorem shLDF_gives {mk : Reg → Reg → Reg → Fin 4 → Bool → Guard → Look → Instr} (hf : f < 8)
    (h : shLDF mk d a b f g.val l.val = .ok i)
    (hmk : ∀ d a b c md g l, Gives (.a op d.code a.code b.code (c.val + 4 * bit md) g.val l.val) (mk d a b c md g l)) :
    Gives (.a op d a b f g.val l.val) i := by
  simp only [shLDF, bind_eq_ok, reg_eq_ok, fin8_val, fin16_val] at h
  obtain ⟨d, rfl, a, rfl, b, rfl, ⟨⟩⟩ := h
  have hsum : (fin4 (f % 4)).val + 4 * bit (f / 4 == 1) = f := by
    rw [bit_beq (by omega)]
    simp only [fin4, Fin.val_ofNat]
    omega
  exact (hmk ..).of_eq (by rw [hsum])
theorem shVCMP_gives (hd : d < 32) (h : shVCMP d a b g.val l.val = .ok i) : Gives (.a 0x2A d a b 5 g.val l.val) i := by
  simp only [shVCMP, bind_eq_ok, lreg_eq_ok, fin8_val, fin16_val] at h
  obtain ⟨a, rfl, b, rfl, ⟨⟩⟩ := h
  have hsum : (fin8 d).val + 8 * (rel (d / 8)).code = d := by
    rw [code_rel (by omega)]
    exact Nat.mod_add_div d 8
  refine ⟨?_, rfl⟩
  rw [Instr.raw, hsum]
theorem shVCVT_gives (h : shVCVT d a b g.val l.val = .ok i) : Gives (.a 0x2B d a b 6 g.val l.val) i := by
  simp only [shVCVT, bind_eq_ok, lreg_eq_ok, vsrc_eq_ok, fin8_val, fin16_val] at h
  obtain ⟨d, rfl, a, rfl, src, hsrc, ⟨⟩⟩ := h
  have hsum : 8 * src.code + 4 * bit (b / 4 % 2 == 1) + (fin4 b).val = b := by
    rw [bit_beq (by omega)]
    simp only [fin4, Fin.val_ofNat]
    omega
  refine ⟨?_, rfl⟩
  rw [Instr.raw, hsum]
theorem shSTRM_gives (h : shSTRM d a b g.val l.val = .ok i) : Gives (.a 0x2D d a b 4 g.val l.val) i := by
  simp only [shSTRM, bind_eq_ok, tdes_eq_ok, reg_eq_ok, fin8_val, fin16_val] at h
  obtain ⟨d, rfl, a, rfl, b, rfl, ⟨⟩⟩ := h
  exact ⟨rfl, rfl⟩
theorem shVAMO_gives (h : shVAMO d a b g.val l.val = .ok i) : Gives (.a 0x26 d a b 7 g.val l.val) i := by
  unfold shVAMO at h
  split_ifs at h with hbf16 hfp32
  · simp only [bind_eq_ok, reg_eq_ok, fin8_val, fin16_val] at h
    obtain ⟨a, rfl, b, rfl, ⟨⟩⟩ := h
    exact ⟨by rw [hbf16]; rfl, rfl⟩
  · simp only [bind_eq_ok, reg_eq_ok, fin8_val, fin16_val] at h
    obtain ⟨a, rfl, b, rfl, ⟨⟩⟩ := h
    exact ⟨by rw [hfp32]; rfl, rfl⟩

end FormatAWithWindowOrType

section FormatT

variable {op d a b : Nat} {i : Instr}

theorem shT8_gives {mk : Reg → Reg → Reg → BitVec 8 → Instr} {t : BitVec 8} (h : shT8 mk d a b t.toNat = .ok i)
    (hmk : ∀ d a b t, Gives (.t op d.code a.code b.code t.toNat 0) (mk d a b t)) : Gives (.t op d a b t.toNat 0) i := by
  simp only [shT8, bind_eq_ok, reg_eq_ok, BitVec.ofNat_toNat, BitVec.setWidth_eq] at h
  obtain ⟨d, rfl, a, rfl, b, rfl, ⟨⟩⟩ := h
  exact hmk ..
theorem shFS_gives {mk : Reg → Reg → Reg → BitVec 6 → Instr} {c t : Nat} (ht : t / 2 ^ 6 * 2 ^ 6 = c)
    (h : shFS mk d a b t = .ok i)
    (hmk : ∀ d a b n, Gives (.t op d.code a.code b.code (c + n.toNat) 0) (mk d a b n)) : Gives (.t op d a b t 0) i := by
  simp only [shFS, bind_eq_ok, reg_eq_ok] at h
  obtain ⟨d, rfl, a, rfl, b, rfl, ⟨⟩⟩ := h
  exact (hmk ..).of_eq (by rw [split_toNat ht])

end FormatT

section FormatI

variable {op d a n : Nat} {g : Guard} {i : Instr}

theorem shI12_gives {mk : Reg → Reg → BitVec 12 → Guard → Instr} (hn : n < 2 ^ 12) (h : shI12 mk d a n g.val = .ok i)
    (hmk : ∀ d a n g, Gives (.i op d.code a.code n.toNat g.val) (mk d a n g)) : Gives (.i op d a n g.val) i := by
  simp only [shI12, bind_eq_ok, reg_eq_ok, fin8_val] at h
  obtain ⟨d, rfl, a, rfl, ⟨⟩⟩ := h
  exact (hmk ..).of_eq (by rw [toNat_ofNat_of_lt hn])
theorem shSHI_gives {mk : Reg → Reg → BitVec 6 → Guard → Instr} {j c : Nat} (hj : n / 64 % 4 = j) (hc : j * 64 = c)
    (h : shSHI mk d a n g.val = .ok i)
    (hmk : ∀ d a n g, Gives (.i op d.code a.code (c + n.toNat) g.val) (mk d a n g)) : Gives (.i op d a n g.val) i := by
  simp only [shSHI, bind_eq_ok, zero_eq_ok, reg_eq_ok, fin8_val] at h
  obtain ⟨-, h0, d, rfl, a, rfl, ⟨⟩⟩ := h
  have hsub : n / 2 ^ 6 * 2 ^ 6 = c := by omega
  exact (hmk ..).of_eq (by rw [split_toNat hsub])
theorem shCMPI_gives {mk : Pred → Reg → BitVec 10 → Guard → Instr} {j c : Nat} (hj : n / 2 ^ 10 = j)
    (hc : j * 2 ^ 10 = c) (h : shCMPI mk d a n g.val = .ok i)
    (hmk : ∀ p a n g, Gives (.i op p.val a.code (c + n.toNat) g.val) (mk p a n g)) : Gives (.i op d a n g.val) i := by
  simp only [shCMPI, bind_eq_ok, pred_eq_ok, reg_eq_ok, fin8_val] at h
  obtain ⟨d, rfl, a, rfl, ⟨⟩⟩ := h
  exact (hmk ..).of_eq (by rw [split_toNat (hj ▸ hc)])
theorem shCVT_gives (hn : n < 2 ^ 12) (h : shCVT d a n g.val = .ok i) : Gives (.i 0x12 d a n g.val) i := by
  simp only [shCVT, bind_eq_ok, reg_eq_ok, rmode_eq_ok, fin8_val] at h
  obtain ⟨d, rfl, a, rfl, mode, hmode, ⟨⟩⟩ := h
  have hsum : (fin16 n).val + 16 * (fin16 (n / 16)).val + 256 * mode.code + 2048 * bit (n / 2048 == 1) = n := by
    rw [bit_beq (by omega)]
    simp only [fin16, Fin.val_ofNat]
    omega
  refine ⟨?_, rfl⟩
  rw [Instr.raw, hsum]
theorem shLOOP_gives (hn : n < 2 ^ 12) (h : shLOOP d a n g.val = .ok i) : Gives (.i 0x18 d a n g.val) i := by
  simp only [shLOOP, bind_eq_ok, zero_eq_ok, reg_eq_ok, fin8_val] at h
  obtain ⟨-, rfl, d, rfl, ⟨⟩⟩ := h
  refine ⟨?_, rfl⟩
  rw [Instr.raw, toNat_ofNat_of_lt hn]
theorem shSRD_gives (h : shSRD d a n g.val = .ok i) : Gives (.i 0x14 d a n g.val) i := by
  simp only [shSRD, bind_eq_ok, zero_eq_ok, reg_eq_ok, sreg_eq_ok, fin8_val] at h
  obtain ⟨-, rfl, d, rfl, r, rfl, ⟨⟩⟩ := h
  exact ⟨rfl, rfl⟩
theorem shSWR_gives (h : shSWR d a n g.val = .ok i) : Gives (.i 0x14 d a (512 + n) g.val) i := by
  simp only [shSWR, bind_eq_ok, zero_eq_ok, reg_eq_ok, sreg_eq_ok, fin8_val] at h
  obtain ⟨-, rfl, r, rfl, a, rfl, ⟨⟩⟩ := h
  exact ⟨rfl, rfl⟩
theorem shEXT_gives (h : shEXT d a n g.val = .ok i) : Gives (.i 0x14 d a (1024 + n) g.val) i := by
  simp only [shEXT, bind_eq_ok, zero_eq_ok, reg_eq_ok, fin8_val] at h
  obtain ⟨-, rfl, -, hn, a, rfl, ⟨⟩⟩ := h
  have hval : (fin8 n).val = n := Nat.mod_eq_of_lt (by omega)
  refine ⟨?_, rfl⟩
  rw [Instr.raw, hval]
theorem shD1_gives (h : shD1 d a n g.val = .ok i) : Gives (.i 0x14 d a (1536 + n) g.val) i := by
  simp only [shD1, bind_eq_ok, zero_eq_ok, reg_eq_ok] at h
  obtain ⟨-, rfl, -, rfl, -, hg, d, rfl, ⟨⟩⟩ := h
  rw [hg]
  exact ⟨rfl, rfl⟩
theorem shSys0_gives {mk : Instr} {c : Nat} (h : shSys0 mk d a n g.val = .ok i) (hmk : Gives (.i op 0 0 c 0) mk) :
    Gives (.i op d a (c + n) g.val) i := by
  simp only [shSys0, bind_eq_ok, zero_eq_ok] at h
  obtain ⟨-, rfl, -, rfl, -, rfl, -, hg, ⟨⟩⟩ := h
  rw [hg]
  exact hmk
theorem shTRAP_gives (hn : n < 2 ^ 9) (h : shTRAP d a n g.val = .ok i) : Gives (.i 0x14 d a (3072 + n) g.val) i := by
  simp only [shTRAP, bind_eq_ok, zero_eq_ok] at h
  obtain ⟨-, rfl, -, rfl, -, hg, ⟨⟩⟩ := h
  refine ⟨?_, rfl⟩
  rw [hg, Instr.raw, toNat_ofNat_of_lt hn]

end FormatI

section FormatM

variable {op d a f : Nat} {o : BitVec 8} {l : Look} {i : Instr}

theorem shLDM_gives {mk : Reg → Reg → BitVec 8 → ASize → Bool → Look → Instr} (hf : f < 8)
    (h : shLDM mk d a o.toNat f l.val = .ok i)
    (hmk : ∀ d a o z x l, Gives (.m op d.code a.code o.toNat (z.code + 4 * bit x) l.val) (mk d a o z x l)) :
    Gives (.m op d a o.toNat f l.val) i := by
  simp only [shLDM, bind_eq_ok, reg_eq_ok, BitVec.ofNat_toNat, BitVec.setWidth_eq, fin16_val] at h
  obtain ⟨d, rfl, a, rfl, ⟨⟩⟩ := h
  have hsum : (asize (f % 4)).code + 4 * bit (f / 4 == 1) = f := by
    rw [bit_beq (by omega), code_asize (by omega)]
    omega
  exact (hmk ..).of_eq (by rw [hsum])
theorem shSTM_gives {mk : Reg → Reg → BitVec 8 → ASize → Look → Instr} (h : shSTM mk d a o.toNat f l.val = .ok i)
    (hmk : ∀ d a o z l, Gives (.m op d.code a.code o.toNat z.code l.val) (mk d a o z l)) :
    Gives (.m op d a o.toNat f l.val) i := by
  simp only [shSTM, bind_eq_ok, zero_eq_ok, reg_eq_ok, BitVec.ofNat_toNat, BitVec.setWidth_eq, fin16_val] at h
  obtain ⟨-, h0, d, rfl, a, rfl, ⟨⟩⟩ := h
  have hsize : (asize (f % 4)).code = f := by
    rw [code_asize (by omega)]
    omega
  exact (hmk ..).of_eq (by rw [hsize])

end FormatM

theorem shU_gives {mk : Reg → BitVec 20 → Instr} {op d : Nat} {n : BitVec 20} {i : Instr} (h : shU mk d n.toNat = .ok i)
    (hmk : ∀ d n, Gives (.u op d.code n.toNat) (mk d n)) : Gives (.u op d n.toNat) i := by
  simp only [shU, bind_eq_ok, reg_eq_ok, BitVec.ofNat_toNat, BitVec.setWidth_eq] at h
  obtain ⟨d, rfl, ⟨⟩⟩ := h
  exact hmk ..

section FormatX

variable {op a b c f : Nat} {l : Look} {i : Instr}

theorem shX3_gives {mk : Reg → Reg → Reg → Look → Instr} (h : shX3 mk a b c l.val = .ok i)
    (hmk : ∀ a b c l, Gives (.x op a.code b.code c.code f l.val) (mk a b c l)) : Gives (.x op a b c f l.val) i := by
  simp only [shX3, bind_eq_ok, reg_eq_ok, fin16_val] at h
  obtain ⟨a, rfl, b, rfl, c, rfl, ⟨⟩⟩ := h
  exact hmk ..
theorem shX2_gives {mk : Reg → Reg → Look → Instr} (h : shX2 mk a b c l.val = .ok i)
    (hmk : ∀ a b l, Gives (.x op a.code b.code 0 f l.val) (mk a b l)) : Gives (.x op a b c f l.val) i := by
  simp only [shX2, bind_eq_ok, zero_eq_ok, reg_eq_ok, fin16_val] at h
  obtain ⟨-, rfl, a, rfl, b, rfl, ⟨⟩⟩ := h
  exact hmk ..
theorem shX1_gives {mk : Reg → Look → Instr} (h : shX1 mk a b c l.val = .ok i)
    (hmk : ∀ a l, Gives (.x op a.code 0 0 f l.val) (mk a l)) : Gives (.x op a b c f l.val) i := by
  simp only [shX1, bind_eq_ok, zero_eq_ok, reg_eq_ok, fin16_val] at h
  obtain ⟨-, rfl, -, rfl, a, rfl, ⟨⟩⟩ := h
  exact hmk ..
theorem shVLDF_gives {mk : Reg → Reg → Fin 8 → Fin 4 → Bool → Look → Instr} {j : Nat} (hj : f % 8 = j) (hf : f < 64)
    (h : shVLDF mk a b c f l.val = .ok i)
    (hmk : ∀ a b k c md l, Gives (.x op a.code b.code k.val (j + 8 * c.val + 32 * bit md) l.val) (mk a b k c md l)) :
    Gives (.x op a b c f l.val) i := by
  simp only [shVLDF, bind_eq_ok, reg_eq_ok, kreg_eq_ok, fin16_val] at h
  obtain ⟨a, rfl, b, rfl, k, rfl, ⟨⟩⟩ := h
  have hsum : j + 8 * (fin4 (f / 8)).val + 32 * bit (f / 32 == 1) = f := by
    rw [bit_beq (by omega)]
    simp only [fin4, Fin.val_ofNat]
    omega
  exact (hmk ..).of_eq (by rw [hsum])
theorem shOPT_gives {mk : Reg → Reg → Fin 8 → Look → Instr} {j : Nat} (hj : f % 8 = j)
    (h : shOPT mk a b c f l.val = .ok i)
    (hmk : ∀ a b k l, Gives (.x op a.code b.code k.val j l.val) (mk a b k l)) : Gives (.x op a b c f l.val) i := by
  simp only [shOPT, bind_eq_ok, zero_eq_ok, reg_eq_ok, kreg_eq_ok, fin16_val] at h
  obtain ⟨-, h0, a, rfl, b, rfl, k, rfl, ⟨⟩⟩ := h
  obtain rfl : f = j := by omega
  exact hmk ..
theorem shOP3_gives {mk : Reg → Reg → Reg → Bool → Bool → Bool → Look → Instr} {j : Nat} (hj : f % 8 = j) (hf : f < 64)
    (h : shOP3 mk a b c f l.val = .ok i)
    (hmk : ∀ a b c x y z l,
      Gives (.x op a.code b.code c.code (j + 8 * bit x + 16 * bit y + 32 * bit z) l.val) (mk a b c x y z l)) :
    Gives (.x op a b c f l.val) i := by
  simp only [shOP3, bind_eq_ok, reg_eq_ok, fin16_val] at h
  obtain ⟨a, rfl, b, rfl, c, rfl, ⟨⟩⟩ := h
  exact (hmk ..).of_eq (by rw [fn6_sum hj hf])
theorem shOPH_gives {mk : Reg → Reg → Reg → Bool → Look → Instr} {j : Nat} (hj : f % 8 = j) (hf : f < 64)
    (h : shOPH mk a b c f l.val = .ok i)
    (hmk : ∀ a b c z l, Gives (.x op a.code b.code c.code (j + 32 * bit z) l.val) (mk a b c z l)) :
    Gives (.x op a b c f l.val) i := by
  simp only [shOPH, bind_eq_ok, need_eq_ok, beq_iff_eq, reg_eq_ok, fin16_val] at h
  obtain ⟨-, h0, a, rfl, b, rfl, c, rfl, ⟨⟩⟩ := h
  have hsum : j + 32 * bit (f / 32 == 1) = f := by
    rw [bit_beq (by omega)]
    omega
  exact (hmk ..).of_eq (by rw [hsum])
theorem shOP2_gives {mk : Reg → Reg → Bool → Bool → Bool → Look → Instr} {j : Nat} (hj : f % 8 = j) (hf : f < 64)
    (h : shOP2 mk a b c f l.val = .ok i)
    (hmk : ∀ a b x y z l,
      Gives (.x op a.code b.code 0 (j + 8 * bit x + 16 * bit y + 32 * bit z) l.val) (mk a b x y z l)) :
    Gives (.x op a b c f l.val) i := by
  simp only [shOP2, bind_eq_ok, zero_eq_ok, reg_eq_ok, fin16_val] at h
  obtain ⟨-, rfl, a, rfl, b, rfl, ⟨⟩⟩ := h
  exact (hmk ..).of_eq (by rw [fn6_sum hj hf])
theorem shOPM_gives {mk : Reg → Reg → Bool → Look → Instr} {j : Nat} (hj : f % 8 = j) (hf : f < 64)
    (h : shOPM mk a b c f l.val = .ok i)
    (hmk : ∀ a b z l, Gives (.x op a.code b.code 0 (j + 32 * bit z) l.val) (mk a b z l)) :
    Gives (.x op a b c f l.val) i := by
  simp only [shOPM, bind_eq_ok, zero_eq_ok, need_eq_ok, beq_iff_eq, reg_eq_ok, fin16_val] at h
  obtain ⟨-, rfl, -, h0, a, rfl, b, rfl, ⟨⟩⟩ := h
  have hsum : j + 32 * bit (f / 32 == 1) = f := by
    rw [bit_beq (by omega)]
    omega
  exact (hmk ..).of_eq (by rw [hsum])
theorem shOPLD_gives {mk : Reg → Reg → Reg → Bool → Look → Instr} {j : Nat} (hj : f % 8 = j)
    (h : shOPLD mk a b c f l.val = .ok i)
    (hmk : ∀ a b c y l, Gives (.x op a.code b.code c.code (j + 16 * bit y) l.val) (mk a b c y l)) :
    Gives (.x op a b c f l.val) i := by
  simp only [shOPLD, bind_eq_ok, need_eq_ok, Bool.and_eq_true, beq_iff_eq, reg_eq_ok, fin16_val] at h
  obtain ⟨-, ⟨h8, h32⟩, a, rfl, b, rfl, c, rfl, ⟨⟩⟩ := h
  have hsum : j + 16 * bit (f / 16 % 2 == 1) = f := by
    rw [bit_beq (by omega)]
    omega
  exact (hmk ..).of_eq (by rw [hsum])
theorem shOPG_gives {mk : Reg → Look → Instr} {j : Nat} (hj : f % 8 = j) (h : shOPG mk a b c f l.val = .ok i)
    (hmk : ∀ a l, Gives (.x op a.code 0 0 j l.val) (mk a l)) : Gives (.x op a b c f l.val) i := by
  simp only [shOPG, bind_eq_ok, zero_eq_ok, need_eq_ok, beq_iff_eq, reg_eq_ok, fin16_val] at h
  obtain ⟨-, rfl, -, rfl, -, h0, a, rfl, ⟨⟩⟩ := h
  obtain rfl : f = j := by omega
  exact hmk ..

end FormatX

section Compact

variable {op d a : Nat} {i : Instr}

theorem shC2_gives {mk : Reg → Reg → Instr} (h : shC2 mk d a = .ok i)
    (hmk : ∀ d a, Gives (.c op d.code a.code) (mk d a)) : Gives (.c op d a) i := by
  simp only [shC2, bind_eq_ok, reg_eq_ok] at h
  obtain ⟨d, rfl, a, rfl, ⟨⟩⟩ := h
  exact hmk ..
theorem shCV_gives {mk : LReg → LReg → Instr} (h : shCV mk d a = .ok i)
    (hmk : ∀ d a, Gives (.c op d.code a.code) (mk d a)) : Gives (.c op d a) i := by
  simp only [shCV, bind_eq_ok, lreg_eq_ok] at h
  obtain ⟨d, rfl, a, rfl, ⟨⟩⟩ := h
  exact hmk ..
theorem shC0_gives {mk : Instr} (h : shC0 mk d a = .ok i)
    (hmk : Gives (.c op 0 0) mk) : Gives (.c op d a) i := by
  simp only [shC0, bind_eq_ok, zero_eq_ok] at h
  obtain ⟨-, rfl, -, rfl, ⟨⟩⟩ := h
  exact hmk
theorem shCI_gives {mk : Reg → BitVec 5 → Instr} (ha : a < 2 ^ 5) (h : shCI mk d a = .ok i)
    (hmk : ∀ d n, Gives (.c op d.code n.toNat) (mk d n)) : Gives (.c op d a) i := by
  simp only [shCI, bind_eq_ok, reg_eq_ok] at h
  obtain ⟨d, rfl, ⟨⟩⟩ := h
  exact (hmk ..).of_eq (by rw [toNat_ofNat_of_lt ha])

end Compact

/-! Each format: every row of its table names the shape that the encoder uses for the row. -/

theorem instrA_gives {op d a b f g l : Nat} {i : Instr} (hfits : Fits (.a op d a b f g l))
    (h : instrA op d a b f g l = .ok i) : Gives (.a op d a b f g l) i := by
  obtain ⟨-, hd, -, -, hf, hg, hl⟩ := hfits
  obtain ⟨g, rfl⟩ : ∃ x : Guard, g = x.val := ⟨⟨g, hg⟩, rfl⟩
  obtain ⟨l, rfl⟩ : ∃ x : Look, l = x.val := ⟨⟨l, hl⟩, rfl⟩
  unfold instrA at h
  split at h
  -- INT
  · split at h
    iterate 5 exact shA3_gives h fun _ _ _ _ => ⟨rfl, rfl⟩
    iterate 3 exact shA3L_gives h fun _ _ _ _ _ => ⟨rfl, rfl⟩
    cases h
  -- LOGIC
  · split at h
    iterate 8 exact shA3_gives h fun _ _ _ _ => ⟨rfl, rfl⟩
    cases h
  -- SHIFT
  · split at h
    iterate 6 exact shA3_gives h fun _ _ _ _ => ⟨rfl, rfl⟩
    iterate 2 exact shA2_gives h fun _ _ _ => ⟨rfl, rfl⟩
    cases h
  -- BITS
  · split at h
    iterate 2 exact shA3_gives h fun _ _ _ _ => ⟨rfl, rfl⟩
    exact shA2_gives h fun _ _ _ => ⟨rfl, rfl⟩
    iterate 2 exact shA3_gives h fun _ _ _ _ => ⟨rfl, rfl⟩
    cases h
  -- CMP
  · split at h
    iterate 7 exact shCMP3_gives h fun _ _ _ _ => ⟨rfl, rfl⟩
    cases h
  -- PRED
  · split at h
    iterate 3 exact shPR3_gives h fun _ _ _ _ => ⟨rfl, rfl⟩
    exact shPR2_gives h fun _ _ _ => ⟨rfl, rfl⟩
    cases h
  -- FP
  · split at h
    iterate 4 exact shA3_gives h fun _ _ _ _ => ⟨rfl, rfl⟩
    exact shA3L_gives h fun _ _ _ _ _ => ⟨rfl, rfl⟩
    exact shA2L_gives h fun _ _ _ _ => ⟨rfl, rfl⟩
    iterate 2 exact shA3_gives h fun _ _ _ _ => ⟨rfl, rfl⟩
    cases h
  -- FCMP
  · split at h
    iterate 4 exact shCMP3_gives h fun _ _ _ _ => ⟨rfl, rfl⟩
    cases h
  -- F64
  · split at h
    iterate 5 exact shA3L_gives h fun _ _ _ _ _ => ⟨rfl, rfl⟩
    exact shA2L_gives h fun _ _ _ _ => ⟨rfl, rfl⟩
    cases h
  -- JUMP
  · split at h
    iterate 2 exact shAG_gives h fun _ _ => ⟨rfl, rfl⟩
    exact shG0_gives h fun _ => ⟨rfl, rfl⟩
    cases h
  -- TASK
  · split at h
    iterate 2 exact shN_gives h ⟨rfl, rfl⟩
    exact shAB_gives h fun _ _ _ => ⟨rfl, rfl⟩
    exact shA2L_gives h fun _ _ _ _ => ⟨rfl, rfl⟩
    exact shGL_gives h fun _ _ => ⟨rfl, rfl⟩
    iterate 3 exact shA3L_gives h fun _ _ _ _ _ => ⟨rfl, rfl⟩
    cases h
  -- QUEUE
  · split at h
    exact shA1_gives h fun _ _ => ⟨rfl, rfl⟩
    exact shA3L_gives h fun _ _ _ _ _ => ⟨rfl, rfl⟩
    exact shA2L_gives h fun _ _ _ _ => ⟨rfl, rfl⟩
    exact shA3L_gives h fun _ _ _ _ _ => ⟨rfl, rfl⟩
    exact shA2L_gives h fun _ _ _ _ => ⟨rfl, rfl⟩
    exact shA3L_gives h fun _ _ _ _ _ => ⟨rfl, rfl⟩
    exact shABL_gives h fun _ _ _ _ => ⟨rfl, rfl⟩
    cases h
  -- STF
  · exact shLDF_gives hf h fun _ _ _ _ _ _ _ => ⟨rfl, rfl⟩
  -- MEMX
  · split at h
    iterate 2 exact shA3L_gives h fun _ _ _ _ _ => ⟨rfl, rfl⟩
    iterate 2 exact shA2L_gives h fun _ _ _ _ => ⟨rfl, rfl⟩
    exact shAGL_gives h fun _ _ _ => ⟨rfl, rfl⟩
    exact shFENCE_gives h fun _ _ _ => ⟨rfl, rfl⟩
    exact shG0_gives h fun _ => ⟨rfl, rfl⟩
    exact shVAMO_gives h
    cases h
  -- AMO
  · split at h
    iterate 8 exact shA3L_gives h fun _ _ _ _ _ => ⟨rfl, rfl⟩
    cases h
  -- 0x28, arithmetic of lines
  · split at h
    iterate 6 exact shV3_gives h fun _ _ _ _ _ => ⟨rfl, rfl⟩
    iterate 2 exact shV2_gives h fun _ _ _ _ => ⟨rfl, rfl⟩
    cases h
  -- 0x29, functions of lines
  · split at h
    iterate 6 exact shVE_gives h fun _ _ _ => ⟨rfl, rfl⟩
    cases h
  -- 0x2A, logic and compares of lines
  · split at h
    iterate 5 exact shV3_gives h fun _ _ _ _ _ => ⟨rfl, rfl⟩
    exact shVCMP_gives hd h
    exact shV3_gives h fun _ _ _ _ _ => ⟨rfl, rfl⟩
    cases h
  -- 0x2B, moves of lines
  · split at h
    exact shVBC_gives h fun _ _ _ _ => ⟨rfl, rfl⟩
    exact shVGET_gives h fun _ _ _ _ _ => ⟨rfl, rfl⟩
    exact shVPUT_gives h fun _ _ _ _ _ => ⟨rfl, rfl⟩
    exact shV3_gives h fun _ _ _ _ _ => ⟨rfl, rfl⟩
    exact shVE3_gives h fun _ _ _ _ => ⟨rfl, rfl⟩
    exact shVE_gives h fun _ _ _ => ⟨rfl, rfl⟩
    exact shVCVT_gives h
    exact shVRND_gives h fun _ _ _ _ _ => ⟨rfl, rfl⟩
    cases h
  -- 0x2C, reductions
  · split at h
    iterate 5 exact shVRED_gives h fun _ _ _ _ => ⟨rfl, rfl⟩
    cases h
  -- 0x2D, memory and streams
  · split at h
    iterate 2 exact shVLD_gives h fun _ _ _ _ _ => ⟨rfl, rfl⟩
    iterate 2 exact shVGA_gives h fun _ _ _ _ _ => ⟨rfl, rfl⟩
    exact shSTRM_gives h
    exact shSTRE_gives h
    cases h
  -- LDF
  · exact shLDF_gives hf h fun _ _ _ _ _ _ _ => ⟨rfl, rfl⟩
  -- COUNT
  · split at h
    exact shA2L_gives h fun _ _ _ _ => ⟨rfl, rfl⟩
    iterate 2 exact shA3L_gives h fun _ _ _ _ _ => ⟨rfl, rfl⟩
    exact shWAITP_gives h fun _ _ _ _ _ => ⟨rfl, rfl⟩
    exact shSIG_gives h fun _ _ _ _ _ => ⟨rfl, rfl⟩
    exact shABL_gives h fun _ _ _ _ => ⟨rfl, rfl⟩
    exact shAG_gives h fun _ _ => ⟨rfl, rfl⟩
    exact shA2L_gives h fun _ _ _ _ => ⟨rfl, rfl⟩
    cases h
  · cases h

theorem instrX_gives {op a b c f l : Nat} {i : Instr} (hfits : Fits (.x op a b c f l))
    (h : instrX op a b c f l = .ok i) : Gives (.x op a b c f l) i := by
  obtain ⟨-, -, -, -, hf, hl⟩ := hfits
  obtain ⟨l, rfl⟩ : ∃ x : Look, l = x.val := ⟨⟨l, hl⟩, rfl⟩
  unfold instrX at h
  split at h
  -- FIELD
  · split at h
    iterate 2 exact shVLDF_gives ‹_› hf h fun _ _ _ _ _ _ => ⟨rfl, rfl⟩
    iterate 3 exact shOPT_gives ‹_› h fun _ _ _ _ => ⟨rfl, rfl⟩
    cases h
  -- OPER
  · split at h
    iterate 2 exact shOP3_gives ‹_› hf h fun _ _ _ _ _ _ _ => ⟨rfl, rfl⟩
    exact shOPH_gives ‹_› hf h fun _ _ _ _ _ => ⟨rfl, rfl⟩
    iterate 2 exact shOP2_gives ‹_› hf h fun _ _ _ _ _ _ => ⟨rfl, rfl⟩
    exact shOPM_gives ‹_› hf h fun _ _ _ _ => ⟨rfl, rfl⟩
    exact shOPLD_gives ‹_› h fun _ _ _ _ _ => ⟨rfl, rfl⟩
    exact shOPG_gives ‹_› h fun _ _ => ⟨rfl, rfl⟩
    cases h
  -- ENGINE
  · split at h
    exact shX1_gives h fun _ _ => ⟨rfl, rfl⟩
    exact shX3_gives h fun _ _ _ _ => ⟨rfl, rfl⟩
    exact shX2_gives h fun _ _ _ => ⟨rfl, rfl⟩
    cases h
  -- TABLE
  · split at h
    exact shX3_gives h fun _ _ _ _ => ⟨rfl, rfl⟩
    exact shX2_gives h fun _ _ _ => ⟨rfl, rfl⟩
    exact shX1_gives h fun _ _ => ⟨rfl, rfl⟩
    iterate 2 exact shX3_gives h fun _ _ _ _ => ⟨rfl, rfl⟩
    exact shX2_gives h fun _ _ _ => ⟨rfl, rfl⟩
    exact shX3_gives h fun _ _ _ _ => ⟨rfl, rfl⟩
    exact shX1_gives h fun _ _ => ⟨rfl, rfl⟩
    cases h
  -- SYSTAB
  · split at h
    iterate 2 exact shX3_gives h fun _ _ _ _ => ⟨rfl, rfl⟩
    exact shX1_gives h fun _ _ => ⟨rfl, rfl⟩
    exact shX3_gives h fun _ _ _ _ => ⟨rfl, rfl⟩
    exact shX2_gives h fun _ _ _ => ⟨rfl, rfl⟩
    iterate 2 exact shX1_gives h fun _ _ => ⟨rfl, rfl⟩
    exact shX2_gives h fun _ _ _ => ⟨rfl, rfl⟩
    cases h
  -- PRIV
  · split at h
    iterate 3 exact shX2_gives h fun _ _ _ => ⟨rfl, rfl⟩
    exact shX1_gives h fun _ _ => ⟨rfl, rfl⟩
    cases h
  · cases h

theorem instrT_gives {op d a b t z : Nat} {i : Instr} (hfits : Fits (.t op d a b t z))
    (h : instrT op d a b t z = .ok i) : Gives (.t op d a b t z) i := by
  obtain ⟨-, -, -, -, ht, -⟩ := hfits
  simp only [instrT, bind_eq_ok, zero_eq_ok] at h
  obtain ⟨-, rfl, h⟩ := h
  split at h
  · obtain ⟨t, rfl⟩ : ∃ x : BitVec 8, t = x.toNat := ⟨BitVec.ofNat 8 t, (toNat_ofNat_of_lt ht).symm⟩
    exact shT8_gives h fun _ _ _ _ => ⟨rfl, rfl⟩
  · simp only [bind_eq_ok, zero_eq_ok] at h
    obtain ⟨-, h7, h⟩ := h
    split_ifs at h with h6
    · exact shFS_gives (by omega) h fun _ _ _ _ => ⟨rfl, rfl⟩
    · exact shFS_gives (by omega) h fun _ _ _ _ => ⟨rfl, rfl⟩
  · cases h

/-- SYS (Table 2.10): bits 11:9 of the immediate select the row. -/
theorem instrSys_gives {d a n : Nat} {g : Guard} {i : Instr} (h : instrI 0x14 d a n g.val = .ok i) :
    Gives (.i 0x14 d a n g.val) i := by
  have hlow : n % 512 < 2 ^ 9 := Nat.mod_lt _ (by decide)
  have hn : ∀ j, n / 512 = j → Raw.i 0x14 d a (512 * j + n % 512) g.val = .i 0x14 d a n g.val := fun j hj => by
    rw [← hj, Nat.div_add_mod]
  simp only [instrI] at h
  split at h
  · exact (shSRD_gives h).of_eq (by rw [← hn 0 ‹_›, Nat.mul_zero, Nat.zero_add])
  · exact (shSWR_gives h).of_eq (hn 1 ‹_›)
  · exact (shEXT_gives h).of_eq (hn 2 ‹_›)
  · exact (shD1_gives h).of_eq (hn 3 ‹_›)
  · exact (shSys0_gives h ⟨rfl, rfl⟩).of_eq (hn 4 ‹_›)
  · exact (shSys0_gives h ⟨rfl, rfl⟩).of_eq (hn 5 ‹_›)
  · exact (shTRAP_gives hlow h).of_eq (hn 6 ‹_›)
  · exact (shSys0_gives h ⟨rfl, rfl⟩).of_eq (hn 7 ‹_›)
  · cases h

theorem instrI_gives {op d a n g : Nat} {i : Instr} (hfits : Fits (.i op d a n g))
    (h : instrI op d a n g = .ok i) : Gives (.i op d a n g) i := by
  obtain ⟨-, -, -, hn, hg⟩ := hfits
  obtain ⟨g, rfl⟩ : ∃ x : Guard, g = x.val := ⟨⟨g, hg⟩, rfl⟩
  unfold instrI at h
  split at h
  -- ADDI, ANDI, ORI, XORI
  iterate 4 exact shI12_gives hn h fun _ _ _ _ => ⟨rfl, rfl⟩
  -- SHIFTI
  · split at h
    iterate 3 exact shSHI_gives ‹_› rfl h fun _ _ _ _ => ⟨rfl, rfl⟩
    cases h
  -- CMPI
  · split at h
    iterate 3 exact shCMPI_gives ‹_› rfl h fun _ _ _ _ => ⟨rfl, rfl⟩
    cases h
  · exact shCVT_gives hn h
  · exact instrSys_gives h
  · exact shLOOP_gives hn h
  · cases h

theorem instrM_gives {op d a o f l : Nat} {i : Instr} (hfits : Fits (.m op d a o f l))
    (h : instrM op d a o f l = .ok i) : Gives (.m op d a o f l) i := by
  obtain ⟨-, -, -, ho, hf, hl⟩ := hfits
  obtain ⟨o, rfl⟩ : ∃ x : BitVec 8, o = x.toNat := ⟨BitVec.ofNat 8 o, (toNat_ofNat_of_lt ho).symm⟩
  obtain ⟨l, rfl⟩ : ∃ x : Look, l = x.val := ⟨⟨l, hl⟩, rfl⟩
  unfold instrM at h
  split at h
  · exact shLDM_gives hf h fun _ _ _ _ _ _ => ⟨rfl, rfl⟩
  · exact shSTM_gives h fun _ _ _ _ _ => ⟨rfl, rfl⟩
  iterate 3 exact shLDM_gives hf h fun _ _ _ _ _ _ => ⟨rfl, rfl⟩
  · exact shSTM_gives h fun _ _ _ _ _ => ⟨rfl, rfl⟩
  · cases h

theorem instrC_gives {op d a : Nat} {i : Instr} (hfits : Fits (.c op d a)) (h : instrC op d a = .ok i) :
    Gives (.c op d a) i := by
  obtain ⟨-, -, ha⟩ := hfits
  unfold instrC at h
  split at h
  iterate 10 exact shC2_gives h fun _ _ => ⟨rfl, rfl⟩
  iterate 5 exact shCI_gives ha h fun _ _ => ⟨rfl, rfl⟩
  iterate 5 exact shC2_gives h fun _ _ => ⟨rfl, rfl⟩
  iterate 3 exact shCV_gives h fun _ _ => ⟨rfl, rfl⟩
  iterate 4 exact shC0_gives h ⟨rfl, rfl⟩
  cases h

/-- The instruction found for fields that fit their format has those fields. -/
theorem instrOf_gives {r : Raw} {i : Instr} (hfits : Fits r) (h : instrOf r = .ok i) : Gives r i := by
  cases r with
  | a => exact instrA_gives hfits h
  | x => exact instrX_gives hfits h
  | t => exact instrT_gives hfits h
  | i => exact instrI_gives hfits h
  | m => exact instrM_gives hfits h
  | c => exact instrC_gives hfits h
  | none => cases h
  | u op d n =>
    obtain ⟨-, -, hn⟩ := hfits
    obtain ⟨n, rfl⟩ : ∃ x : BitVec 20, n = x.toNat := ⟨BitVec.ofNat 20 n, (toNat_ofNat_of_lt hn).symm⟩
    simp only [instrOf] at h
    split_ifs at h with hlui haddpc
    · exact hlui ▸ shU_gives h fun _ _ => ⟨rfl, rfl⟩
    · exact haddpc ▸ shU_gives h fun _ _ => ⟨rfl, rfl⟩
  | j o =>
    cases h
    exact ⟨by rw [Instr.raw, toNat_ofNat_of_lt hfits], rfl⟩
  | b s p o =>
    obtain ⟨hs, hp, ho⟩ := hfits
    obtain ⟨p, rfl⟩ : ∃ x : Pred, p = x.val := ⟨⟨p, hp⟩, rfl⟩
    simp only [instrOf, fin16_val] at h
    split_ifs at h with h1
    · cases h
      exact ⟨by rw [Instr.raw, toNat_ofNat_of_lt ho, h1], rfl⟩
    · cases h
      obtain rfl : s = 0 := by omega
      exact ⟨by rw [Instr.raw, toNat_ofNat_of_lt ho], rfl⟩

end Sys2Proof.Dec
end

section
/-! SUPPORT. A word is the word of the fields it is cut into, and the instruction its bytes decode to has those bytes (R15, R17,
R18, R39). -/

namespace Sys2Proof.Dec

open Laws.Encoding (Fits)
open Machine (rest_of_map_eq_ok)

/-! A word is the word of the fields it is cut into (R15, R17, R18). -/

theorem fld_lt (w lo n : Nat) : fld w lo n < 2 ^ n := Nat.mod_lt _ (Nat.two_pow_pos n)

/-- Formats J and B have one major opcode each (Table 2.10). -/
theorem fmt_eq_j : ∀ op < 64, fmt op = .j → op = 0x16 := by decide
theorem fmt_eq_b : ∀ op < 64, fmt op = .b → op = 0x15 := by decide

theorem fits_rawOf (w : Nat) : Fits (rawOf w) := by
  have hop : fld w 25 6 < 64 := fld_lt w 25 6
  simp only [rawOf]
  split
  · exact ⟨⟨hop, ‹_›⟩, fld_lt .., fld_lt .., fld_lt .., fld_lt .., fld_lt .., fld_lt ..⟩
  · exact ⟨⟨hop, ‹_›⟩, fld_lt .., fld_lt .., fld_lt .., fld_lt .., fld_lt ..⟩
  · exact ⟨⟨hop, ‹_›⟩, fld_lt .., fld_lt .., fld_lt .., fld_lt .., fld_lt ..⟩
  · exact ⟨⟨hop, ‹_›⟩, fld_lt .., fld_lt .., fld_lt .., fld_lt ..⟩
  · exact ⟨⟨hop, ‹_›⟩, fld_lt .., fld_lt .., fld_lt .., fld_lt .., fld_lt ..⟩
  · exact ⟨⟨hop, ‹_›⟩, fld_lt .., fld_lt ..⟩
  · exact fld_lt ..
  · exact ⟨fld_lt .., fld_lt .., fld_lt ..⟩
  · trivial

theorem rawOf_ne_compact (w op d a : Nat) : rawOf w ≠ .c op d a := by
  simp only [rawOf]
  split <;> exact Raw.noConfusion

theorem wordOf_rawOf {w : Nat} (hw : 2 ^ 31 ≤ w ∧ w < 2 ^ 32) (h0 : rawOf w ≠ .none) : wordOf (rawOf w) = w := by
  obtain ⟨hlo, hhi⟩ := hw
  simp only [rawOf] at h0 ⊢
  split
  case h_9 hfmt => simp [hfmt] at h0
  case h_7 hfmt =>
    have hop := fmt_eq_j _ (fld_lt w 25 6) hfmt
    simp only [wordOf, fld] at hop ⊢
    omega
  case h_8 hfmt =>
    have hop := fmt_eq_b _ (fld_lt w 25 6) hfmt
    simp only [wordOf, fld] at hop ⊢
    omega
  all_goals
    simp only [wordOf, fld]
    omega

theorem fits_rawOf16 (w : Nat) : Fits (rawOf16 w) := ⟨fld_lt .., fld_lt .., fld_lt ..⟩

theorem wordOf_rawOf16 {w : Nat} (hw : w < 2 ^ 15) : wordOf (rawOf16 w) = w := by
  simp only [rawOf16, wordOf, fld]
  omega

/-! The instruction found for a word, and for bytes. -/

theorem checked_eq_ok {r : Raw} {i : Instr} : checked r = .ok i ↔ instrOf r = .ok i ∧ i.wf = true := by
  unfold checked
  cases instrOf r with
  | error e => simp
  | ok j =>
    by_cases hj : j.wf = true
    · simp only [if_pos hj, Except.ok.injEq]
      exact ⟨fun h => ⟨h, h ▸ hj⟩, And.left⟩
    · simp only [if_neg hj, Except.ok.injEq, reduceCtorEq, false_iff, not_and]
      exact fun h => h ▸ hj

theorem ne_none_of_instrOf {r : Raw} {i : Instr} (h : instrOf r = .ok i) : r ≠ .none := by
  rintro rfl
  cases h

/-- The instruction found for fields that fit is well formed, has those fields, and is the first row of its word. -/
theorem gives_of_checked {r : Raw} {i : Instr} (hfits : Fits r) (h : checked r = .ok i) :
    i.wf = true ∧ i.hasWord = true ∧ Gives r i := by
  obtain ⟨hi, hwf⟩ := checked_eq_ok.1 h
  have hg := instrOf_gives hfits hi
  exact ⟨hwf, by simpa [Instr.hasWord, hg.raw] using ne_none_of_instrOf hi, hg⟩

/-- A decoded compact word is the word of its instruction (R18). -/
theorem instr_of_word16 {w : Nat} {i : Instr} (hw : w < 2 ^ 15) (h : word16 w = .ok i) :
    (i.wf = true ∧ i.hasWord = true ∧ i.canon = i) ∧ i.compact = true ∧ i.encode = w := by
  obtain ⟨hwf, hword, hraw, hcanon⟩ := gives_of_checked (fits_rawOf16 w) h
  exact ⟨⟨hwf, hword, hcanon⟩, by rw [Instr.compact, hraw, rawOf16], by rw [Instr.encode, hraw, wordOf_rawOf16 hw]⟩

/-- A decoded 32-bit word is the word of its instruction (R17). -/
theorem instr_of_word32 {w : Nat} {i : Instr} (hw : 2 ^ 31 ≤ w ∧ w < 2 ^ 32) (h : word32 w = .ok i) :
    (i.wf = true ∧ i.hasWord = true ∧ i.canon = i) ∧ ¬ i.compact = true ∧ i.encode = w := by
  obtain ⟨hwf, hword, hraw, hcanon⟩ := gives_of_checked (fits_rawOf w) h
  refine ⟨⟨hwf, hword, hcanon⟩, fun hc => ?_, ?_⟩
  · obtain ⟨op, d, a, he⟩ := Instr.raw_of_compact hc
    exact rawOf_ne_compact w op d a (hraw ▸ he)
  · rw [Instr.encode, hraw, wordOf_rawOf hw fun h0 => ?_]
    simp [Instr.hasWord, hraw, h0] at hword

theorem eq_ok_of_map_eq_ok {x : Except Reject Instr} {i : Instr} {r r' : List Byte}
    (h : (x.map fun y => (y, r)) = .ok (i, r')) : x = .ok i := by
  cases x with
  | error e => cases h
  | ok y => cases h; rfl

theorem halfword_lt (b0 b1 : Byte) : halfword b0 b1 < 2 ^ 16 := by
  have h0 := b0.isLt
  have h1 := b1.isLt
  simp only [halfword]
  omega

/-- The bytes of a halfword are those it was read from (R3). -/
theorem ofNat_of_mod_eq_halfword {n : Nat} {b0 b1 : Byte} (h : n % 2 ^ 16 = halfword b0 b1) :
    BitVec.ofNat 8 n = b0 ∧ BitVec.ofNat 8 (n / 2 ^ 8) = b1 := by
  have h0 := b0.isLt
  have h1 := b1.isLt
  simp only [halfword] at h
  exact ⟨BitVec.eq_of_toNat_eq (by rw [BitVec.toNat_ofNat]; omega),
    BitVec.eq_of_toNat_eq (by rw [BitVec.toNat_ofNat]; omega)⟩

/-- Bytes that decode are the bytes of the instruction found, which is well formed (R15, R39). -/
theorem instr_of_bytes {bs rest : List Byte} {i : Instr} (h : bytes bs = .ok (i, rest)) :
    (i.wf = true ∧ i.hasWord = true ∧ i.canon = i) ∧ bs = i.bytes ++ rest := by
  match bs with
  | [] | [_] => cases h
  | b0 :: b1 :: tail =>
    by_cases hshort : halfword b0 b1 < 2 ^ 15
    · simp only [bytes, if_pos hshort] at h
      obtain rfl := rest_of_map_eq_ok h
      obtain ⟨hi, hc, he⟩ := instr_of_word16 hshort (eq_ok_of_map_eq_ok h)
      obtain ⟨h0, h1⟩ := ofNat_of_mod_eq_halfword (b0 := b0) (b1 := b1) (Nat.mod_eq_of_lt (halfword_lt ..))
      refine ⟨hi, ?_⟩
      simp only [Instr.bytes, if_pos hc, he, h0, h1, List.cons_append, List.nil_append]
    · match tail with
      | [] | [_] => simp only [bytes, if_neg hshort, reduceCtorEq] at h
      | b2 :: b3 :: tail' =>
        simp only [bytes, if_neg hshort] at h
        obtain rfl := rest_of_map_eq_ok h
        have hhi := halfword_lt b0 b1
        have hlo := halfword_lt b2 b3
        generalize hw : halfword b0 b1 * 2 ^ 16 + halfword b2 b3 = w at h
        obtain ⟨hi, hc, he⟩ := instr_of_word32 (by omega) (eq_ok_of_map_eq_ok h)
        obtain ⟨h0, h1⟩ := ofNat_of_mod_eq_halfword (n := w / 2 ^ 16) (b0 := b0) (b1 := b1) (by omega)
        obtain ⟨h2, h3⟩ := ofNat_of_mod_eq_halfword (n := w) (b0 := b2) (b1 := b3) (by omega)
        rw [Nat.div_div_eq_div_mul, ← Nat.pow_add] at h1
        refine ⟨hi, ?_⟩
        simp only [Instr.bytes, if_neg hc, he, h0, h1, h2, h3, List.cons_append, List.nil_append]

/-! An opcode-table word decodes as the encoder writes it. -/

/-- The word of a well-formed first row, numbered as the opcode table numbers it, decodes to that row. -/
theorem decodeTableWord_of_encode {n w : Nat} {i : Instr}
    (h : (i.wf = true ∧ i.hasWord = true ∧ i.canon = i) ∧ i.len * 8 = n ∧ i.encode = w) :
    decodeTableWord n w = some i := by
  obtain ⟨⟨hwf, hword, hcanon⟩, rfl, rfl⟩ := h
  have hbytes : tableBytes (i.len * 8) i.encode = i.bytes := by
    by_cases hc : i.compact = true <;> simp [tableBytes, Instr.bytes, Instr.len, hc]
  have hdec := bytes_of_instr hwf hword []
  rw [List.append_nil, hcanon] at hdec
  simp only [decodeTableWord, hbytes, hdec]

end Sys2Proof.Dec
end

section
/-! SUPPORT. Each scalar instruction as its wrapper around one operation on its operand forms (R20, R22, R24): what the tables
of the claims name, said once. -/

namespace Sys2Proof.Machine

/-- An instruction whose guard is known and holds does its body on the state in which it has issued (R24). -/
theorem short_guarded (n : Nat) {g : Guard} (body : M Unit) {s : State} (hstay : s.me.stay = false)
    (hheld : s.me.guardHeld g = none) (hg : s.me.guarded g = true) :
    short n g body s = finish s (body (s.issue n)) := by
  simp [short, hstay, hheld, hg]

/-! The bits of a word made of its bits. -/

theorem bitsFrom_lt (f : Nat → Bool) (n : Nat) : bitsFrom f n < 2 ^ n := by
  induction n with
  | zero => exact Nat.one_pos
  | succ n ih =>
    simp only [bitsFrom, Nat.pow_succ]
    split <;> omega

theorem testBit_bitsFrom (f : Nat → Bool) (n i : Nat) : (bitsFrom f n).testBit i = (decide (i < n) && f i) := by
  induction n with
  | zero => simp [bitsFrom]
  | succ n ih =>
    have hadd : bitsFrom f (n + 1) = 2 ^ n * (f n).toNat + bitsFrom f n := by
      rw [bitsFrom, Nat.add_comm]
      cases f n <;> simp
    rw [hadd, Nat.testBit_two_pow_mul_add _ (bitsFrom_lt f n), ih]
    rcases Nat.lt_trichotomy i n with hi | rfl | hi
    · simp [hi, Nat.lt_succ_of_lt hi]
    · cases f i <;> simp
    · have htop : (f n).toNat.testBit (i - n) = false :=
        Nat.testBit_lt_two_pow (lt_of_lt_of_le (Bool.toNat_lt (f n)) (Nat.le_self_pow (by omega) 2))
      rw [if_neg (by omega), htop, decide_eq_false (by omega), Bool.false_and]

theorem getLsbD_ofBits (f : Nat → Bool) (i : Nat) : (ofBits f).getLsbD i = (decide (i < 64) && f i) := by
  rw [ofBits, BitVec.getLsbD_ofNat, testBit_bitsFrom, ← Bool.and_assoc, Bool.and_self]

theorem brevW_eq_reverse : brevW = BitVec.reverse := by
  funext x
  refine BitVec.eq_of_getLsbD_eq fun i hi => ?_
  rw [brevW, getLsbD_ofBits, BitVec.getLsbD_reverse, BitVec.getMsbD_eq_getLsbD]

/-! The functions of the claims as the model names them. -/

theorem fslW_toNat (n : BitVec 6) :
    fslW n.toNat = fun x y : Word => if n = 0 then x else (x <<< n.toNat) ||| (y >>> (64 - n.toNat)) := by
  funext x y
  simp [fslW, ← BitVec.toNat_inj]

theorem fsrW_toNat (n : BitVec 6) :
    fsrW n.toNat = fun x y : Word => if n = 0 then y else (y >>> n.toNat) ||| (x <<< (64 - n.toNat)) := by
  funext x y
  simp [fsrW, ← BitVec.toNat_inj]

/-- COMPACT_MOVI adds to z, which reads 0 (Table 2.13). -/
theorem op1_add_z (v : Word) (d : Reg) : op1 (fun x => x + v) d .z = op1 (fun _ => v) d .z := by
  have hz : rd .z = pure 0 := rfl
  simp only [op1, hz, pure_bind, zero_add]

/-- Two sources (Tables 5.1 to 5.4, 2.13). -/
theorem exec_of_binary {i : Instr} {n : Nat} {g : Guard} {d a b : Reg} {f : Word → Word → Word} (s : State)
    (h : Claims.binary i = some (n, g, d, a, b, f)) : exec i s = short n g (op2 f d a b) s := by
  unfold Claims.binary at h
  split at h
  -- FSL and FSR
  case h_26 => cases h; rw [← fslW_toNat]; rfl
  case h_27 => cases h; rw [← fsrW_toNat]; rfl
  -- No other instruction has two sources.
  case h_44 => cases h
  all_goals cases h; rfl

/-- One source, with or without an immediate (Tables 5.2, 5.5, 2.13). -/
theorem exec_of_unary {i : Instr} {n : Nat} {g : Guard} {d a : Reg} {f : Word → Word} (s : State)
    (h : Claims.unary i = some (n, g, d, a, f)) : exec i s = short n g (op1 f d a) s := by
  unfold Claims.unary at h
  split at h
  -- BREV
  case h_3 => cases h; rw [← brevW_eq_reverse]; rfl
  -- CVT, but for the forms with F64
  case h_12 d a src dst mode sat g =>
    split_ifs at h with h64
    cases h
    have hcvt : (src.val == 13 || dst.val == 13) = false := by simpa using h64
    simp only [exec, execCvt, hcvt, Bool.false_eq_true, if_false]
  -- COMPACT_MOVI
  case h_17 => cases h; rw [← op1_add_z]; rfl
  case h_18 => cases h
  all_goals cases h; rfl

/-- Two sources and the old destination (R74). -/
theorem exec_of_ternary {i : Instr} {n : Nat} {g : Guard} {d a b : Reg} {f : Word → Word → Word → Word} (s : State)
    (h : Claims.ternary i = some (n, g, d, a, b, f)) : exec i s = short n g (op3 f d a b) s := by
  unfold Claims.ternary at h
  split at h
  case h_4 => cases h
  all_goals cases h; rfl

/-- A relation written to a predicate is a short instruction (R80). -/
theorem exec_of_compare {i : Instr} {n : Nat} {g : Guard} {p : Pred} {a b : Reg} {f : Word → Word → Bool} (s : State)
    (h : Claims.compare i = some (n, g, p, a, b, f)) : ∃ body, exec i s = short n g body s := by
  unfold Claims.compare at h
  split at h
  case h_18 => cases h
  all_goals cases h; exact ⟨_, rfl⟩

/-- So is the logic of predicates (R81). -/
theorem exec_of_predicate {i : Instr} {g : Guard} {p a b : Pred} {f : Bool → Bool → Bool} (s : State)
    (h : Claims.predicate i = some (g, p, a, b, f)) : ∃ body, exec i s = short 4 g body s := by
  unfold Claims.predicate at h
  split at h
  case h_5 => cases h
  all_goals cases h; exact ⟨_, rfl⟩

/-- Every guarded instruction is a short or a long one with its guard (R24, R25). -/
theorem exec_of_guardOf {i : Instr} {n : Nat} {g : Guard} (s : State) (h : Claims.guardOf i = some (n, g)) :
    (∃ body, exec i s = short n g body s) ∨ ∃ la ds body, exec i s = long n g la ds body s := by
  unfold Claims.guardOf at h
  split at h
  -- JUMP, LOOP, SYS and SUSP
  iterate 7 cases h; exact .inl ⟨_, rfl⟩
  -- MIGR to SEND
  iterate 5 cases h; exact .inr ⟨_, _, _, rfl⟩
  -- QTEST
  · cases h; exact .inl ⟨_, rfl⟩
  -- LAUNCH to CALLW, the field accesses, LDX and STX
  iterate 12 cases h; exact .inr ⟨_, _, _, rfl⟩
  -- LRW
  · cases h; exact .inl ⟨_, rfl⟩
  -- SCV and RELQ
  iterate 2 cases h; exact .inr ⟨_, _, _, rfl⟩
  -- FENCE and IFENCE
  iterate 2 cases h; exact .inl ⟨_, rfl⟩
  -- VAMO
  iterate 2 cases h; exact .inr ⟨_, _, _, rfl⟩
  -- AMO
  iterate 8 cases h; exact .inl ⟨_, rfl⟩
  -- WAITT to CNTSET
  iterate 6 cases h; exact .inr ⟨_, _, _, rfl⟩
  -- ARMT
  · cases h; exact .inl ⟨_, rfl⟩
  -- BARW
  · cases h; exact .inr ⟨_, _, _, rfl⟩
  -- the scalar instructions by shape
  · split at h
    · cases h; exact .inl ⟨_, exec_of_binary s ‹_›⟩
    · cases h; exact .inl ⟨_, exec_of_unary s ‹_›⟩
    · cases h; exact .inl ⟨_, exec_of_ternary s ‹_›⟩
    · cases h; exact .inl (exec_of_compare s ‹_›)
    · cases h; exact .inl (exec_of_predicate s ‹_›)
    · cases h

/-- For a calm strand to issue is to move pc past the instruction and to start the watchdog's count again (R363). -/
theorem issue_calm {s : State} (h : s.calm) (n : Nat) : s.issue n = s.issued n id := by
  obtain ⟨-, hpend, -⟩ := h
  simp [State.issue, State.issued, hpend]

end Sys2Proof.Machine
end

section
/-! SUPPORT. Each line instruction as its wrapper around one operation on its line operands (R21, R97, R98): what the tables of
the claims name, said once. -/

namespace Sys2Proof.Machine

open Sys2Proof.Num

/-- A line instruction of a compute core whose guard holds does its body on the state in which it has issued (R24, R97). -/
theorem line_calm (i : Instr) (g : Guard) (body : M Unit) (s : State) (h : s.calm) (hcore : Claims.compute s)
    (hg : s.me.guarded g = true) : line i g body s = finish s (body (s.issue i.len)) := by
  have hlegal : coreNo s.me.homeCore < 16 := hcore
  rw [line, legalIf, if_pos (decide_eq_true hlegal), short_calm _ _ _ _ h hg,
    bind_ok _ _ _ _ _ (atHome_calm _ (State.calm_issue s _ h))]

/-! The lane functions of Table 6.2 as the claims write them: by the type code. -/

theorem isFp_iff (ty : Ty) : isFp ty = true ↔ ty = 12 := by rw [isFp, beq_iff_eq, Fin.ext_iff]; rfl
theorem isI32_iff (ty : Ty) : isI32 ty = true ↔ ty = 2 := by rw [isI32, beq_iff_eq, Fin.ext_iff]; rfl

theorem vaddL_eq (ty : Ty) : vaddL ty = fun x y => if ty = 12 then add32 x y else x + y := by
  funext x y
  simp only [vaddL, isFp_iff]

theorem vsubL_eq (ty : Ty) : vsubL ty = fun x y => if ty = 12 then sub32 x y else x - y := by
  funext x y
  simp only [vsubL, isFp_iff]

theorem vmulL_eq (ty : Ty) : vmulL ty = fun x y => if ty = 12 then mul32 x y else x * y := by
  funext x y
  simp only [vmulL, isFp_iff]

theorem vfmaL_eq (ty : Ty) : vfmaL ty = fun x y z => if ty = 12 then fma32 x y z else x * y + z := by
  funext x y z
  simp only [vfmaL, isFp_iff]

theorem vminL_eq (ty : Ty) : vminL ty = fun x y =>
    if ty = 12 then fmin32 x y
    else if ty = 2 then (if x.toInt ≤ y.toInt then x else y) else if x.toNat ≤ y.toNat then x else y := by
  funext x y
  simp only [vminL, isFp_iff, isI32_iff]

theorem vmaxL_eq (ty : Ty) : vmaxL ty = fun x y =>
    if ty = 12 then fmax32 x y
    else if ty = 2 then (if y.toInt ≤ x.toInt then x else y) else if y.toNat ≤ x.toNat then x else y := by
  funext x y
  simp only [vmaxL, isFp_iff, isI32_iff]

theorem vshrL_eq (ty : Ty) : vshrL ty = fun x y : Half =>
    if ty = 2 then x.sshiftRight (y.toNat % 32) else x >>> (y.toNat % 32) := by
  funext x y
  simp only [vshrL, isI32_iff]

theorem mapLine_vabsL (ty : Ty) : mapLine (vabsL ty) = fun x : Line => Vector.ofFn fun i =>
    if ty = 12 then (if nan32 x[i] then qnan32 else x[i] &&& 0x7FFFFFFF#32) else if x[i].msb then 0 - x[i] else x[i] := by
  funext x
  simp only [mapLine, vabsL, isFp_iff]

theorem mapLine_vnegL (ty : Ty) : mapLine (vnegL ty) = fun x : Line => Vector.ofFn fun i =>
    if ty = 12 then (if nan32 x[i] then qnan32 else x[i] ^^^ 0x80000000#32) else 0 - x[i] := by
  funext x
  simp only [mapLine, vnegL, isFp_iff, negBit32]

/-! The line operands a body reads and writes, in order. -/

/-- Line operations of one line (Tables 6.2, 6.4). -/
theorem exec_of_line1 {i : Instr} {g : Guard} {d a : LReg} {f : Line → Line} (s : State)
    (h : Claims.line1 i = some (g, d, a, f)) :
    i.len = 4 ∧ exec i s = line i g (rdLine a >>= fun x => wrLine d (f x)) s := by
  unfold Claims.line1 at h
  split at h
  -- VABS and VNEG go by the type.
  case h_1 => cases h; rw [← mapLine_vabsL]; exact ⟨rfl, rfl⟩
  case h_2 => cases h; rw [← mapLine_vnegL]; exact ⟨rfl, rfl⟩
  case h_11 => cases h
  all_goals cases h; exact ⟨rfl, rfl⟩

/-- Line operations of two lines (Tables 6.2, 6.4). -/
theorem exec_of_line2 {i : Instr} {n : Nat} {g : Guard} {d a b : LReg} {f : Line → Line → Line} (s : State)
    (h : Claims.line2 i = some (n, g, d, a, b, f)) :
    i.len = n ∧ exec i s = line i g (do let x ← rdLine a; let y ← rdLine b; wrLine d (f x y)) s := by
  unfold Claims.line2 at h
  split at h
  -- VADD to VMAX and VSHR go by the type.
  case h_1 => cases h; rw [← vaddL_eq]; exact ⟨rfl, rfl⟩
  case h_2 => cases h; rw [← vsubL_eq]; exact ⟨rfl, rfl⟩
  case h_3 => cases h; rw [← vmulL_eq]; exact ⟨rfl, rfl⟩
  case h_4 => cases h; rw [← vminL_eq]; exact ⟨rfl, rfl⟩
  case h_5 => cases h; rw [← vmaxL_eq]; exact ⟨rfl, rfl⟩
  case h_10 => cases h; rw [← vshrL_eq]; exact ⟨rfl, rfl⟩
  case h_16 => cases h
  all_goals cases h; exact ⟨rfl, rfl⟩

/-- Line operations that read the old destination too (R98). -/
theorem exec_of_line3 {i : Instr} {n : Nat} {g : Guard} {d a b : LReg} {f : Half → Half → Half → Half} (s : State)
    (h : Claims.line3 i = some (n, g, d, a, b, f)) :
    i.len = n ∧ exec i s = line i g (line3 f d a b) s := by
  unfold Claims.line3 at h
  split at h
  -- VFMA goes by the type.
  case h_1 => cases h; rw [← vfmaL_eq]; exact ⟨rfl, rfl⟩
  case h_4 => cases h
  all_goals cases h; exact ⟨rfl, rfl⟩

/-- Reductions (R108). -/
theorem exec_of_lineReduce {i : Instr} {g : Guard} {d : Reg} {a : LReg} {f : Line → Word} (s : State)
    (h : Claims.lineReduce i = some (g, d, a, f)) : i.len = 4 ∧ exec i s = line i g (reduce f d a) s := by
  unfold Claims.lineReduce at h
  split at h
  case h_6 => cases h
  all_goals cases h; exact ⟨rfl, rfl⟩

end Sys2Proof.Machine
end

section
/-! SUPPORT. What a pop of the receive queue and of a stream register answers (R22, R68, R113, R216), and ADD with z beside it. -/

namespace Sys2Proof.Machine

theorem bind_error {α β : Type} {x : M α} (f : α → M β) {s : State} {e : Stop} (h : x s = .error e) :
    (x >>= f) s = .error e := by simp [bind, StateT.bind, h, Except.bind]

/-! The receive queue (R216). -/

theorem popQ_cons {s : State} {m : Msg} {r : List Msg} (h : s.calm) (hq : s.me.q = m :: r) :
    popQ s = .ok (m.h0, { s with
      me := { s.me with q := r, o := m.o }, fabric := Claims.acquired s (m.fromAfar s.devNo) }) := by
  have ⟨_, hpend, _⟩ := h
  rw [popQ, bind_ok _ _ _ _ _ (nearM_calm s h), bind_ok _ _ _ s s rfl, hq]
  cases hfar : m.fromAfar s.devNo <;>
    simp [hfar, hpend, updMe, acquireSpan, State.acquireSpan, Claims.acquired, bind, StateT.bind, Except.bind, pure,
      StateT.pure, Except.pure]

theorem popQ_nil {s : State} (h : s.calm) (hq : s.me.q = []) : popQ s = .error .rest := by
  rw [popQ, bind_ok _ _ _ _ _ (nearM_calm s h), bind_ok _ _ _ s s rfl, hq]
  rfl

/-! Input streams (R68, R113). -/

theorem bound_eq_ok {i : Fin 4} {out : Bool} {st : Stream} {s : State} (ht : s.me.t[i] = some st) (hout : st.out = out) :
    bound i out s = .ok (st, s) := by
  simp only [bound, ht, hout, beq_self_eq_true, if_true]

/-- What a pop answers by the first element fetched ahead, with the list r behind it (R113): the element, and the position moved
on by one; a wait while it is on its way; the fault it could not be read for. -/
def Ahead.popped (i : Fin 4) (st : Stream) (r : List Ahead) (s : State) : Ahead → Except Stop ((Ty × List Nat) × State)
  | .got x => .ok ((st.ty, [x]), { s with
      me := { s.me with t := s.me.t.set i (some { st with pos := st.pos + 1, ahead := r }) } })
  | .asked _ _ => .error .wait
  | .lost cls detail tv => .error (.trap cls detail tv)

theorem popElems_cons {i : Fin 4} {st : Stream} {s : State} {a : Ahead} {r : List Ahead} (h : s.calm)
    (ht : s.me.t[i] = some st) (hout : st.out = false) (hleft : st.pos + 1 ≤ st.total) (hahead : st.ahead = a :: r) :
    popElems i 1 s = a.popped i st r s := by
  rw [popElems, bind_ok _ _ _ _ _ (nearM_calm s h), bind_ok _ _ _ _ _ (bound_eq_ok ht hout),
    if_neg (Nat.not_lt.mpr hleft), hahead]
  cases a <;> rfl

/-- A stream register that is unbound, bound the other way, or used up raises the illegal-state fault (R68, R113). -/
theorem popElems_illegal {i : Fin 4} {s : State} (h : s.calm)
    (ht : s.me.t[i] = none ∨ ∃ st, s.me.t[i] = some st ∧ (st.out = true ∨ st.total < st.pos + 1)) :
    popElems i 1 s = .error (.trap 7 0 0) := by
  rw [popElems, bind_ok _ _ _ _ _ (nearM_calm s h)]
  obtain hnone | ⟨st, hst, hbad⟩ := ht
  · exact bind_error _ (by rw [bound, hnone])
  · by_cases hout : st.out = true
    · exact bind_error _ (by simp only [bound, hst, hout]; rfl)
    · rw [bind_ok _ _ _ _ _ (bound_eq_ok hst (Bool.eq_false_of_not_eq_true hout)), if_pos (hbad.resolve_left hout)]
      rfl

theorem rd_t_of_ok {i : Fin 4} {s u : State} {ty : Ty} {x : Nat} (h : popElems i 1 s = .ok ((ty, [x]), u)) :
    rd (.t i) s = .ok (elemScalar ty x, u) := by
  rw [rd, bind_ok _ _ _ _ _ h]
  rfl

theorem rd_t_of_error {i : Fin 4} {s : State} {e : Stop} (h : popElems i 1 s = .error e) : rd (.t i) s = .error e :=
  bind_error _ h

/-! ADD of a source and z. -/

theorem add_z_of_ok {d a : Reg} {g : Guard} {s u : State} {v : Word} (h : s.calm) (hg : s.me.guarded g = true)
    (hd : d.plain = true) (ha : rd a (s.issue 4) = .ok (v, u)) (hu : u.calm) :
    exec (.add d a .z g) s = .next { u with me := u.me.result d v } := by
  have hz : rd .z u = .ok (0, u) := rfl
  rw [exec, execAdd, short_calm 4 g _ s h hg, op2, bind_ok _ _ _ _ _ ha, bind_ok _ _ _ _ _ hz, add_zero,
    wr_plain d v u hu hd, finish]

theorem add_z_of_error {d a : Reg} {g : Guard} {s : State} {e : Stop} (h : s.calm) (hg : s.me.guarded g = true)
    (ha : rd a (s.issue 4) = .error e) : exec (.add d a .z g) s = stopped s e := by
  rw [exec, execAdd, short_calm 4 g _ s h hg, op2, bind_error _ ha, finish]

/-- To write a register neither reads nor changes pc and the watchdog's count. -/
theorem result_at (t : Strand) (d : Reg) (v clk : Word) (pc : BitVec 48) :
    ({ t with pc := pc, lastIssue := clk } : Strand).result d v = { t.result d v with pc := pc, lastIssue := clk } := by
  cases d <;> rfl

end Sys2Proof.Machine
end

section
/-! PROOFS. The obligations of the instruction words (02_instruction_words): the two directions of the encoding, guards, and the
operand forms of scalar and line instructions. -/

namespace Sys2Proof

open Dec (bytes_of_instr instr_of_bytes decodeTableWord_of_encode)

/-- Settles O56: encoding then decoding by the round trip of the fields of every row; decoding then encoding because each
shape of operands reads every field of its word, so the fields of the instruction found are those of the word. -/
theorem decodeAndEncodeAgree : Obligations.DecodeAndEncodeAgree := by
  refine ⟨fun i hwf hword rest => bytes_of_instr hwf hword rest, fun bs rest i h => ?_⟩
  obtain ⟨⟨hwf, hword, hcanon⟩, hbs⟩ := instr_of_bytes h
  exact ⟨hwf, hword, hcanon, hbs⟩

/-- Settles O57: each word is the encoding of the instruction given for it, which is well formed and the first row. -/
theorem decodedWords : Obligations.DecodedWords := by
  unfold Obligations.DecodedWords
  and_intros <;> exact decodeTableWord_of_encode (by decide)

end Sys2Proof

namespace Sys2Proof.Machine

/-- Settles O4: guarded instructions are short or long ones, and both skip when the guard is false. -/
theorem falseGuardSkips : Obligations.FalseGuardSkips := by
  intro i n g s hi hcalm hg
  rw [← issue_calm hcalm n]
  obtain ⟨body, hexec⟩ | ⟨la, ds, body, hexec⟩ := exec_of_guardOf s hi
  · rw [hexec, short_skips n g body s hcalm hg]
  · rw [hexec, long_skips n g la ds body s hcalm hg]

/-- Settles O11: ADD reads its source by one pop, whose outcome each clause gives, and writes what it got. -/
theorem sourcePops : Obligations.SourcePops := by
  refine ⟨fun d g s hcalm hg hd => ⟨fun m r hq => ?_, fun hq => ?_⟩,
    fun d i g s hcalm hg hd => ⟨fun st x r ht hout hleft hahead => ?_, fun st k so r ht hout hleft hahead => ?_,
      fun st cls detail tv r ht hout hleft hahead => ?_, fun ht => ?_⟩⟩
  · have hpop := popQ_cons (State.calm_issue s 4 hcalm) hq
    rw [add_z_of_ok (a := .q) hcalm hg hd hpop (State.calm_issue s 4 hcalm), issue_calm hcalm 4]
    exact congrArg (fun t : Strand => Host.Outcome.next { s with
      me := t, fabric := Claims.acquired s (m.fromAfar s.devNo) }) (result_at { s.me with q := r, o := m.o } d m.h0 _ _)
  · exact add_z_of_error (a := .q) hcalm hg (popQ_nil (State.calm_issue s 4 hcalm) hq)
  · have hpop := popElems_cons (State.calm_issue s 4 hcalm) ht hout hleft hahead
    rw [add_z_of_ok hcalm hg hd (rd_t_of_ok hpop) (State.calm_issue s 4 hcalm), issue_calm hcalm 4]
    exact congrArg (fun t : Strand => Host.Outcome.next { s with me := t })
      (result_at { s.me with t := s.me.t.set i (some { st with pos := st.pos + 1, ahead := r }) } d _ _ _)
  · have hpop := popElems_cons (State.calm_issue s 4 hcalm) ht hout hleft hahead
    exact add_z_of_error hcalm hg (rd_t_of_error hpop)
  · have hpop := popElems_cons (State.calm_issue s 4 hcalm) ht hout hleft hahead
    exact add_z_of_error hcalm hg (rd_t_of_error hpop)
  · exact add_z_of_error hcalm hg (rd_t_of_error (popElems_illegal (State.calm_issue s 4 hcalm) ht))

/-- Settles O13: each instruction is op1, op2 or op3 under its guard, and these bind their steps in the order a, b, d. -/
theorem scalarOperandForms : Obligations.ScalarOperandForms := by
  intro i s s1 s2 s3 s4 n g d a b x y z hstay hheld hg
  refine ⟨fun f hi ha hd => ?_, fun f hi ha hb hd => ?_, fun f hi ha hb hold hd => ?_⟩
  · rw [exec_of_unary s hi, short_guarded n _ hstay hheld hg, op1, bind_ok _ _ _ _ _ ha, hd, finish]
  · rw [exec_of_binary s hi, short_guarded n _ hstay hheld hg, op2, bind_ok _ _ _ _ _ ha, bind_ok _ _ _ _ _ hb, hd,
      finish]
  · rw [exec_of_ternary s hi, short_guarded n _ hstay hheld hg, op3, bind_ok _ _ _ _ _ ha, bind_ok _ _ _ _ _ hb,
      bind_ok _ _ _ _ _ hold, hd, finish]

/-- Settles O21: each line instruction reads its operands in order and then writes, under the guard of a compute core. -/
theorem lineOperandForms : Obligations.LineOperandForms := by
  intro i n g d a b x y z s s1 s2 s3 s4 hcalm hcore hg ha
  refine ⟨fun f hn hi hd => ?_, fun f hi hb hd => ?_, fun f hi hb hold hd => ?_, fun r f hn hi hr => ?_,
    fun r c ty v hn hi hc hr => ?_⟩
  · obtain ⟨hlen, hexec⟩ := exec_of_line1 s hi
    rw [hexec, line_calm i g _ s hcalm hcore hg, hlen, ← hn, bind_ok _ _ _ _ _ ha, hd, finish]
  · obtain ⟨hlen, hexec⟩ := exec_of_line2 s hi
    rw [hexec, line_calm i g _ s hcalm hcore hg, hlen, bind_ok _ _ _ _ _ ha, bind_ok _ _ _ _ _ hb, hd, finish]
  · obtain ⟨hlen, hexec⟩ := exec_of_line3 s hi
    rw [hexec, line_calm i g _ s hcalm hcore hg, hlen, line3, bind_ok _ _ _ _ _ ha, bind_ok _ _ _ _ _ hb,
      bind_ok _ _ _ _ _ hold, zip3Line, hd, finish]
  · obtain ⟨hlen, hexec⟩ := exec_of_lineReduce s hi
    rw [hexec, line_calm i g _ s hcalm hcore hg, hlen, ← hn, reduce, bind_ok _ _ _ _ _ ha, hr, finish]
  · subst hn hi
    have hlen : (Instr.vget r a c ty g).len = 4 := rfl
    rw [exec, execVget, line_calm _ g _ s hcalm hcore hg, hlen, bind_ok _ _ _ _ _ ha, bind_ok _ _ _ _ _ hc, hr, finish]

end Sys2Proof.Machine

end

section
/-! SUPPORT. The instructions that move one value between the strand's registers and its state (R69 to R71, R83, R88), as
wrappers around that move, and what the move does once the instruction has issued. -/

namespace Sys2Proof.Machine

/-! To issue changes no register that an instruction reads. -/

@[simp] theorem State.issue_me_src (s : State) (n : Nat) (a : Reg) : (s.issue n).me.src a = s.me.src a := by
  cases a <;> rfl

@[simp] theorem State.issue_sregVal (s : State) (n : Nat) (r : SReg) : sregVal (s.issue n) r = sregVal s r := by
  cases r <;> rfl

/-- To write a special register neither reads nor changes pc and the watchdog's count. -/
theorem setSreg_at (t : Strand) (r : SReg) (v clk : Word) (pc : BitVec 48) :
    setSreg { t with pc := pc, lastIssue := clk } r v = { setSreg t r v with pc := pc, lastIssue := clk } := by
  cases r <;> rfl

theorem rd_issue {a : Reg} {s : State} (n : Nat) (h : s.calm) (ha : a.plain = true) :
    rd a (s.issue n) = .ok (s.me.src a, s.issue n) := by
  rw [rd_plain a _ (State.calm_issue s n h) ha, State.issue_me_src]

/-- A plain register written by an instruction that has issued (R65 to R67). -/
theorem wr_issue {d : Reg} {s : State} (n : Nat) (v : Word) (h : s.calm) (hd : d.plain = true) :
    wr d v (s.issue n) = .ok ((), s.issued n fun t => t.result d v) := by
  rw [wr_plain d v _ (State.calm_issue s n h) hd, issue_calm h n]
  exact congrArg (fun t : Strand => Except.ok ((), { s with me := t })) (result_at s.me d v _ _)

/-- A strand at home goes on with the instruction, whether or not the special register travels with it (R88). -/
theorem ifTravels_calm {s : State} (r : SReg) (h : s.calm) (body : M Unit) :
    (if sregTravels r then body else atHome >>= fun _ => body) s = body s := by
  cases sregTravels r
  · exact bind_ok _ _ _ _ _ (atHome_calm s h)
  · rfl

/-! Each instruction as its wrapper around one move. -/

/-- LUI, ADDPC, RDCYC, SRD and QTEST write what they found in the state (R69, R71, R83, R88). -/
theorem exec_of_constant {i : Instr} {n : Nat} {g : Guard} {d : Reg} {f : State → Word} {s : State} (hcalm : s.calm)
    (h : Claims.constant i = some (n, g, d, f)) :
    ∃ body, exec i s = short n g body s ∧ body (s.issue n) = wr d (f s) (s.issue n) := by
  have hissued := fun n => State.calm_issue s n hcalm
  unfold Claims.constant at h
  split at h
  -- LUI, ADDPC and RDCYC
  iterate 3 cases h; exact ⟨_, rfl, rfl⟩
  -- SRD
  next r _ =>
    cases h
    have hval := congrArg (fun v => wr d v (s.issue 4)) (State.issue_sregVal s 4 r)
    exact ⟨_, rfl, (ifTravels_calm r (hissued 4) _).trans hval⟩
  -- QTEST
  · cases h
    exact ⟨_, rfl, bind_ok _ _ _ _ _ (atHome_calm _ (hissued 4))⟩
  · cases h

/-- EXT writes its word of register E; NOP, its compact form and IFENCE do nothing (R70, R88, log 8). -/
theorem exec_of_strandOnly {i : Instr} {n : Nat} {g : Guard} {f : Strand → Strand} {s : State} (hcalm : s.calm)
    (hext : ∀ k a g, i = .ext k a g → a.plain = true) (h : Claims.strandOnly i = some (n, g, f)) :
    ∃ body, exec i s = short n g body s ∧ body (s.issue n) = .ok ((), s.issued n f) := by
  have hnothing : ∀ n, (pure () : M Unit) (s.issue n) = .ok ((), s.issued n id) := fun n => by
    rw [issue_calm hcalm n]
    rfl
  unfold Claims.strandOnly at h
  split at h
  -- EXT
  next k a g =>
    cases h
    refine ⟨_, rfl, ?_⟩
    rw [bind_ok _ _ _ _ _ (rd_issue 4 hcalm (hext k a g rfl)), issue_calm hcalm 4]
    rfl
  -- NOP, COMPACT_NOP and IFENCE
  iterate 3 cases h; exact ⟨_, rfl, hnothing _⟩
  · cases h

/-- SWR of a register the strand's level may write is a short instruction that writes it (R10, R71, R89). -/
theorem exec_swr_of_level {r : SReg} {a : Reg} {g : Guard} {s : State} (hcalm : s.calm) (ha : a.plain = true)
    (hlevel : ¬ s.me.plv < sregLevel r) :
    ∃ body, exec (.swr r a g) s = short 4 g body s ∧
      body (s.issue 4) = .ok ((), s.issued 4 fun t => setSreg t r (t.src a)) := by
  have hmove : (rd a >>= fun v => updMe fun t => setSreg t r v) (s.issue 4) =
      .ok ((), s.issued 4 fun t => setSreg t r (t.src a)) := by
    rw [bind_ok _ _ _ _ _ (rd_issue 4 hcalm ha), issue_calm hcalm 4]
    exact congrArg (fun t : Strand => Except.ok ((), { s with me := t })) (setSreg_at s.me r _ _ _)
  exact ⟨_, if_neg hlevel, (ifTravels_calm r (State.calm_issue s 4 hcalm) _).trans hmove⟩

end Sys2Proof.Machine
end

section
/-! SUPPORT. What power-up leaves in memory, and what it leaves to do (R61, R118, R371). -/

namespace Sys2Proof.Machine

theorem Memory.get_nil (k : Nat) : Memory.get [] k = 0 := rfl

theorem State.reset_canonical : State.reset.canonical = true := by
  rw [State.canonical, State.reset_mem_wf]
  rfl

/-- The moves owed at power-up are the boots of the dies, in order (R371). -/
theorem State.reset_agenda :
    State.reset.agenda.map (fun d => (d.ev, d.arg.die)) = (List.range 8).map fun d => (Instr.powerUpBoot, d) := by
  simp only [State.reset, List.map_map, Function.comp_def]

end Sys2Proof.Machine
end

section
/-! PROOFS. The obligations of the registers (04_registers_inventory): the instructions that read or write one register beside
the operands, and the state after power-up. -/

namespace Sys2Proof.Machine

/-- Settles O3: each instruction is a short one around one move, and the move after issue is the move with pc moved past it. -/
theorem registerMoveResult : Obligations.RegisterMoveResult := by
  refine ⟨fun i n g d f s hi hcalm hg hd => ?_, fun i n g f s hi hcalm hg hext => ?_, fun r a g s hcalm hg ha hlevel => ?_⟩
  · obtain ⟨body, hexec, hbody⟩ := exec_of_constant hcalm hi
    rw [hexec, short_calm n g body s hcalm hg, hbody, wr_issue n _ hcalm hd, finish]
  · obtain ⟨body, hexec, hbody⟩ := exec_of_strandOnly hcalm hext hi
    rw [hexec, short_calm n g body s hcalm hg, hbody, finish]
  · obtain ⟨body, hexec, hbody⟩ := exec_swr_of_level hcalm ha hlevel
    rw [hexec, short_calm 4 g body s hcalm hg, hbody, finish]

/-- Settles O60: memory and the agenda by the lemmas of the reset state, each table and register by its entry there. -/
theorem resetState : Obligations.ResetState := by
  refine ⟨State.reset_canonical, Memory.get_nil, ?clk, ?focus, ?others, ?obj, ?tlb, ?barriers, ?replays, ?task, ?die, ?run,
    ?cmds, ?xfers, ?lehr, ?issues, State.reset_agenda⟩
  all_goals rfl

end Sys2Proof.Machine
end

section
/-! SUPPORT. The functions of the integer division and of BEXT and BDEP as arithmetic (R76, R78). -/

namespace Sys2Proof.Machine

/-! Division (R76). -/

/-- Division by 0 gives all ones and leaves the dividend as the remainder. -/
theorem div_rem_zero (x : Word) : divS x 0 = BitVec.allOnes 64 ∧ divU x 0 = BitVec.allOnes 64 ∧ remS x 0 = x :=
  ⟨if_pos rfl, if_pos rfl, if_pos rfl⟩

/-- The one quotient that does not fit: the most negative value divided by -1. -/
theorem div_rem_overflow :
    divS (BitVec.intMin 64) (BitVec.allOnes 64) = BitVec.intMin 64 ∧ remS (BitVec.intMin 64) (BitVec.allOnes 64) = 0 := by
  decide

theorem divU_toNat {y : Word} (x : Word) (hy : y ≠ 0) : (divU x y).toNat = x.toNat / y.toNat := by
  rw [divU, if_neg hy, BitVec.toNat_ofNat, Nat.mod_eq_of_lt (lt_of_le_of_lt (Nat.div_le_self _ _) x.isLt)]

/-- Quotient and remainder of a signed division complete each other: as integers, or in the wrapped product where the
quotient does not fit. -/
theorem divS_mul_add_remS {y : Word} (x : Word) (hy : y ≠ 0) : divS x y * y + remS x y = x := by
  by_cases hover : x = BitVec.intMin 64 ∧ y = BitVec.allOnes 64
  · obtain ⟨rfl, rfl⟩ := hover
    decide
  · rw [divS, remS, if_neg hy, if_neg hy, if_neg hover, if_neg hover]
    calc BitVec.ofInt 64 (x.toInt.tdiv y.toInt) * y + BitVec.ofInt 64 (x.toInt.tmod y.toInt)
        = BitVec.ofInt 64 (x.toInt.tdiv y.toInt * y.toInt + x.toInt.tmod y.toInt) := by
          rw [BitVec.ofInt_add, BitVec.ofInt_mul, BitVec.ofInt_toInt]
      _ = x := by rw [Int.tdiv_mul_add_tmod, BitVec.ofInt_toInt]

/-! BEXT and BDEP (R78). -/

theorem countBits_le (f : Nat → Bool) (n : Nat) : countBits f n ≤ n := by
  induction n with
  | zero => exact le_rfl
  | succ n ih =>
    rw [countBits]
    split <;> omega

theorem popcW_toNat (m : Word) : (popcW m).toNat = countBits m.getLsbD 64 := by
  have hle := countBits_le m.getLsbD 64
  rw [popcW, BitVec.toNat_ofNat, Nat.mod_eq_of_lt (by omega)]

theorem getLsbD_bdepW (x m : Word) (i : Nat) :
    (bdepW x m).getLsbD i = (m.getLsbD i && x.getLsbD (countBits m.getLsbD i)) := by
  rw [bdepW, getLsbD_ofBits]
  by_cases hi : i < 64
  · simp [hi]
  · simp [hi, BitVec.getLsbD_of_ge m i (by omega)]

/-- Below position n the mask has taken as many low bits as it has ones there. -/
theorem bextFrom_bdepW (x m : Word) (n : Nat) :
    bextFrom (bdepW x m) m n = x.toNat % 2 ^ countBits m.getLsbD n := by
  induction n with
  | zero => simp [bextFrom, countBits, Nat.mod_one]
  | succ n ih =>
    rw [bextFrom, countBits, ih, getLsbD_bdepW]
    cases m.getLsbD n
    · simp
    · rw [if_pos rfl, Nat.mod_pow_succ, ← Nat.toNat_testBit, BitVec.testBit_toNat]
      cases x.getLsbD (countBits m.getLsbD n) <;> simp

/-- BEXT gives back the low bits of the word that BDEP spread, one for each 1 of the mask. -/
theorem bextW_bdepW (x m : Word) :
    bextW (bdepW x m) m = x &&& BitVec.ofNat 64 (2 ^ countBits m.getLsbD 64 - 1) := by
  have hle : 2 ^ countBits m.getLsbD 64 ≤ 2 ^ 64 := Nat.pow_le_pow_right (by decide) (countBits_le _ _)
  have hpos : 0 < 2 ^ countBits m.getLsbD 64 := Nat.two_pow_pos _
  refine BitVec.eq_of_toNat_eq ?_
  rw [bextW, bextFrom_bdepW, BitVec.toNat_and, BitVec.toNat_ofNat, BitVec.toNat_ofNat,
    Nat.mod_eq_of_lt (a := 2 ^ countBits m.getLsbD 64 - 1) (by omega), Nat.and_two_pow_sub_one_eq_mod,
    Nat.mod_eq_of_lt (lt_of_lt_of_le (Nat.mod_lt _ hpos) hle)]

end Sys2Proof.Machine
end

section
/-! SUPPORT. Operands of a strand with nothing open that reaches its registers where it runs: at home, or in an F64 stay (R20,
R40, R65 to R67), and the operations on them once the instruction has issued. -/

namespace Sys2Proof.Machine

/-- Nothing is open, and the strand reaches its registers where it runs: at home, or in an F64 stay (R40). -/
def State.near (s : State) : Prop := s.me.pend = [] ∧ (s.me.stay = true ∨ s.me.core = s.me.homeCore)

theorem State.calm.near {s : State} (h : s.calm) : s.near := by
  obtain ⟨-, hpend, hcore⟩ := h
  exact ⟨hpend, .inr hcore⟩

theorem State.near_issue {s : State} (n : Nat) (h : s.near) : (s.issue n).near := by
  obtain ⟨hpend, hplace⟩ := h
  exact ⟨congrArg (List.map Pending.tick) hpend, hplace⟩

theorem issue_near {s : State} (n : Nat) (h : s.near) : s.issue n = s.issued n id := by
  obtain ⟨hpend, -⟩ := h
  simp [State.issue, State.issued, hpend]

/-! What is looked for among the open instructions is not there. -/

theorem nearM_near {s : State} (h : s.near) : nearM s = .ok ((), s) := by
  obtain ⟨-, hstay | hcore⟩ := h
  · simp [nearM, hstay]
  · simp [nearM, Strand.abroad, hcore]

theorem settled_near {s : State} (hit : Strand → Pending → Bool) (h : s.near) : settled hit s = .ok ((), s) := by
  obtain ⟨hpend, -⟩ := h
  simp [settled, hpend]

theorem settledAll_near {s : State} (h : s.near) : settledAll s = .ok ((), s) := by
  obtain ⟨hpend, -⟩ := h
  simp [settledAll, hpend]

theorem guardHeld_near {s : State} (h : s.near) (g : Guard) : s.me.guardHeld g = none := by
  obtain ⟨hpend, -⟩ := h
  simp [Strand.guardHeld, Strand.pwOwed, hpend]

theorem claim_of_pend_nil {t : Strand} (r : Reg) (h : t.pend = []) : t.claim r = t := by
  cases t
  cases h
  cases r <;> rfl

theorem strike_of_pend_nil {t : Strand} (ns : List Nat) (h : t.pend = []) : t.strike ns = t := by
  cases t
  cases h
  rfl

theorem shift_of_pend_nil {t : Strand} (v : Word) (h : t.pend = []) : t.shift v = { t with l1 := t.l0, l0 := v } := by
  cases t
  cases h
  rfl

/-! Plain operands, as they stand and once the instruction has issued. -/

theorem rd_near {r : Reg} {s : State} (h : s.near) (hr : r.plain = true) : rd r s = .ok (s.me.src r, s) := by
  cases r with
  | m i => rw [rd, bind_ok _ _ _ _ _ (nearM_near h), bind_ok _ _ _ _ _ (settled_near _ h)]; rfl
  | o i | l0 | l1 | pw => rw [rd, bind_ok _ _ _ _ _ (settled_near _ h)]; rfl
  | z => rfl
  | t i | q => cases hr

theorem rdOld_near {d : Reg} {s : State} (h : s.near) (hd : d.plain = true) : rdOld d s = .ok (s.me.src d, s) := by
  rw [← rd_near h hd]
  cases d with
  | t i => cases hd
  | _ => rfl

theorem wr_near {d : Reg} {s : State} (v : Word) (h : s.near) (hd : d.plain = true) :
    wr d v s = .ok ((), { s with me := s.me.result d v }) := by
  have ⟨hpend, _⟩ := h
  have hnear : State.near { s with me := { s.me with l1 := s.me.l0, l0 := v } } := h
  rw [wr, bind_ok _ _ _ () { s with me := s.me.shift v } rfl, shift_of_pend_nil v hpend]
  cases d with
  | m i =>
    rw [place, bind_ok _ _ _ _ _ (nearM_near hnear), updMe, claim_of_pend_nil]
    exacts [rfl, hpend]
  | o i | pw =>
    rw [place, updMe, claim_of_pend_nil]
    exacts [rfl, hpend]
  | l1 =>
    rw [place, updMe, strike_of_pend_nil]
    exacts [rfl, hpend]
  | l0 | z => rfl
  | t i | q => cases hd

section

variable {n : Nat} {d a b : Reg} {s : State}

theorem rd_issue_near (n : Nat) (h : s.near) (ha : a.plain = true) : rd a (s.issue n) = .ok (s.me.src a, s.issue n) := by
  rw [rd_near (State.near_issue n h) ha, State.issue_me_src]

theorem rdOld_issue_near (n : Nat) (h : s.near) (hd : d.plain = true) :
    rdOld d (s.issue n) = .ok (s.me.src d, s.issue n) := by
  rw [rdOld_near (State.near_issue n h) hd, State.issue_me_src]

theorem wr_issue_near (n : Nat) (v : Word) (h : s.near) (hd : d.plain = true) :
    wr d v (s.issue n) = .ok ((), s.issued n fun t => t.result d v) := by
  rw [wr_near v (State.near_issue n h) hd, issue_near n h]
  exact congrArg (fun t : Strand => Except.ok ((), { s with me := t })) (result_at s.me d v _ _)

/-! Operations on plain operands. -/

theorem op1_issue (f : Word → Word) (h : s.near) (hd : d.plain = true) (ha : a.plain = true) :
    op1 f d a (s.issue n) = .ok ((), s.issued n fun t => t.result d (f (t.src a))) := by
  rw [op1, bind_ok _ _ _ _ _ (rd_issue_near n h ha), wr_issue_near n _ h hd]
  rfl

theorem op2_issue (f : Word → Word → Word) (h : s.near) (hd : d.plain = true) (ha : a.plain = true) (hb : b.plain = true) :
    op2 f d a b (s.issue n) = .ok ((), s.issued n fun t => t.result d (f (t.src a) (t.src b))) := by
  rw [op2, bind_ok _ _ _ _ _ (rd_issue_near n h ha), bind_ok _ _ _ _ _ (rd_issue_near n h hb), wr_issue_near n _ h hd]
  rfl

theorem op3_issue (f : Word → Word → Word → Word) (h : s.near) (hd : d.plain = true) (ha : a.plain = true)
    (hb : b.plain = true) :
    op3 f d a b (s.issue n) = .ok ((), s.issued n fun t => t.result d (f (t.src a) (t.src b) (t.src d))) := by
  rw [op3, bind_ok _ _ _ _ _ (rd_issue_near n h ha), bind_ok _ _ _ _ _ (rd_issue_near n h hb),
    bind_ok _ _ _ _ _ (rdOld_issue_near n h hd), wr_issue_near n _ h hd]
  rfl

end

end Sys2Proof.Machine
end

section
/-! SUPPORT. Comparisons and the logic of predicates (R80 to R82, R85) as wrappers around one operation on their sources, and what
the operation leaves once the instruction has issued. -/

namespace Sys2Proof.Machine

/-! What the tables of the claims name, said once. -/

/-- A comparison with z beside it is one of a lone source. -/
theorem cmp2_z (f : Word → Word → Bool) (p : Pred) (a : Reg) : cmp2 f p a .z = cmp1 (fun x => f x 0) p a := by
  have hz : rd .z = pure 0 := rfl
  simp only [cmp2, cmp1, hz, pure_bind]

theorem slt_signExtend (imm : BitVec 10) :
    (fun x : Word => x.slt (imm.signExtend 64)) = fun x => decide (x.toInt < imm.toInt) := by
  funext x
  rw [BitVec.slt, BitVec.toInt_signExtend_of_le (by decide)]

theorem ult_setWidth (imm : BitVec 10) :
    (fun x : Word => x.ult (imm.setWidth 64)) = fun x => decide (x.toNat < imm.toNat) := by
  funext x
  rw [BitVec.ult, BitVec.toNat_setWidth_of_le (by decide)]

theorem exec_eq_cmp2_of_compare {i : Instr} {n : Nat} {g : Guard} {p : Pred} {a b : Reg} {f : Word → Word → Bool} (s : State)
    (h : Claims.compare i = some (n, g, p, a, b, f)) : exec i s = short n g (cmp2 f p a b) s := by
  unfold Claims.compare at h
  split at h
  -- CMPNE and TST
  case h_2 => cases h; simp only [exec, execCmpne, bne, decide_not, beq_eq_decide]
  case h_7 => cases h; simp only [exec, execTst, bne, decide_not, beq_eq_decide]
  -- CMPEQI, CMPLTI and CMPLTNI
  case h_12 => cases h; rw [cmp2_z]; rfl
  case h_13 => cases h; rw [cmp2_z, ← slt_signExtend]; rfl
  case h_14 => cases h; rw [cmp2_z, ← ult_setWidth]; rfl
  -- No other instruction is a comparison.
  case h_18 => cases h
  all_goals cases h; rfl

theorem exec_eq_pred2_of_predicate {i : Instr} {g : Guard} {p a b : Pred} {f : Bool → Bool → Bool} (s : State)
    (h : Claims.predicate i = some (g, p, a, b, f)) : exec i s = short 4 g (pred2 f p a b) s := by
  unfold Claims.predicate at h
  split at h
  case h_5 => cases h
  all_goals cases h; rfl

/-! Predicates read and written by an instruction that has issued. -/

theorem getPred_issue {s : State} (n : Nat) (p : Pred) (h : s.calm) :
    getPred p (s.issue n) = .ok (s.me.pred p.val, s.issue n) :=
  getPred_calm p _ (State.calm_issue s n h)

/-- To write a predicate neither reads nor changes pc and the watchdog's count. -/
theorem predResult_at (t : Strand) (p : Pred) (b : Bool) (clk : Word) (pc : BitVec 48) :
    ({ t with pc := pc, lastIssue := clk } : Strand).predResult p b =
      { t.predResult p b with pc := pc, lastIssue := clk } := by
  unfold Strand.predResult
  split <;> rfl

theorem setPred_issue {s : State} (n : Nat) (p : Pred) (b : Bool) (h : s.calm) :
    setPred p b (s.issue n) = .ok ((), s.issued n fun t => t.predResult p b) := by
  rw [setPred_calm p b _ (State.calm_issue s n h), issue_calm h n]
  exact congrArg (fun t : Strand => Except.ok ((), { s with me := t })) (predResult_at s.me p b _ _)

theorem cmp2_issue {n : Nat} {a b : Reg} {s : State} (f : Word → Word → Bool) (p : Pred) (h : s.calm) (ha : a.plain = true)
    (hb : b.plain = true) :
    cmp2 f p a b (s.issue n) = .ok ((), s.issued n fun t => t.predResult p (f (t.src a) (t.src b))) := by
  rw [cmp2, bind_ok _ _ _ _ _ (rd_issue n h ha), bind_ok _ _ _ _ _ (rd_issue n h hb), setPred_issue n p _ h]
  rfl

theorem pred2_issue {n : Nat} {s : State} (f : Bool → Bool → Bool) (p a b : Pred) (h : s.calm) :
    pred2 f p a b (s.issue n) = .ok ((), s.issued n fun t => t.predResult p (f (t.pred a.val) (t.pred b.val))) := by
  rw [pred2, bind_ok _ _ _ _ _ (getPred_issue n a h), bind_ok _ _ _ _ _ (getPred_issue n b h), setPred_issue n p _ h]
  rfl

end Sys2Proof.Machine
end

section
/-! SUPPORT. Where an instruction that has issued goes on: at a target, or behind itself (R16, R90, R93). -/

namespace Sys2Proof.Machine

theorem jump_issued (s : State) (n : Nat) (pc : BitVec 48) (f : Strand → Strand) :
    jump pc (s.issued n f) = .ok ((), Claims.jumped s pc f) := rfl

/-- A branch counts from its own address, which issue has moved past. -/
theorem branchTo_issued (s : State) (off : Int) (f : Strand → Strand) :
    branchTo off (s.issued 4 f) = .ok ((), Claims.jumped s (pcRel s.me.pc off) f) := by
  have hhere : here 4 (s.issued 4 f) = .ok (s.me.pc, s.issued 4 f) :=
    congrArg (fun pc => Except.ok (pc, s.issued 4 f)) (BitVec.add_sub_cancel _ _)
  rw [branchTo, bind_ok _ _ _ _ _ hhere, jump_issued]

theorem branchTo_ite_issued (c : Prop) [Decidable c] (s : State) (off : Int) (f : Strand → Strand) :
    (if c then branchTo off else pure ()) (s.issued 4 f) =
      .ok ((), Claims.jumped s (if c then pcRel s.me.pc off else s.me.pc + 4) f) := by
  split
  · exact branchTo_issued s off f
  · rfl

theorem pass_ite_issued (c : Prop) [Decidable c] (s : State) (off : Int) (f : Strand → Strand) :
    (if c then pure () else branchTo off) (s.issued 4 f) =
      .ok ((), Claims.jumped s (if c then s.me.pc + 4 else pcRel s.me.pc off) f) := by
  rw [← ite_not, branchTo_ite_issued, ite_not]

theorem target_even {v : Word} (s : State) (h : v.getLsbD 0 = false) : target v s = .ok (v.setWidth 48, s) := by
  rw [target, h]
  rfl

theorem target_odd {v : Word} (s : State) (h : v.getLsbD 0 = true) :
    target v s = .error (.trap 4 0 ((v.setWidth 48).setWidth 64)) := by
  rw [target, h]
  rfl

theorem plain_of_loopDest {d : Reg} (h : d.loopDest = true) : d.plain = true := by
  cases d with
  | m i | o i => rfl
  | _ => cases h

end Sys2Proof.Machine
end

section
/-! SUPPORT. F64 instructions (R40, R87): the instruction as its wrapper around one operation, and the three things it can do on a
compute core. -/

namespace Sys2Proof.Machine

/-- The F64 instructions of two sources, or of one, as the tables of the claims name them (Table 5.6). -/
theorem exec_of_f64Binary {i : Instr} {g : Guard} {la : Look} {d a b : Reg} {f : Word → Word → Word} (s : State)
    (hi : Claims.f64Binary i = some (g, la, d, a, b, f)) :
    ∃ w body, exec i s = f64 w g body s ∧
      (s.near → d.plain = true → a.plain = true → b.plain = true →
        body (s.issue 4) = .ok ((), s.issued 4 fun t => t.result d (f (t.src a) (t.src b)))) := by
  unfold Claims.f64Binary at hi
  split at hi
  -- DADD, DSUB, DMUL and DDIV
  iterate 4 cases hi; exact ⟨_, _, rfl, op2_issue _⟩
  -- DSQRT
  · cases hi; exact ⟨_, _, rfl, fun h hd ha _ => op1_issue _ h hd ha⟩
  -- CVT, in the forms with F64
  next d a src dst mode sat g =>
    split_ifs at hi with h64
    cases hi
    have hcvt : (src.val == 13 || dst.val == 13) = true := by simpa using h64
    exact ⟨_, _, if_pos hcvt, fun h hd ha _ => op1_issue _ h hd ha⟩
  · cases hi

theorem exec_dfma (d a b : Reg) (g : Guard) (la : Look) (s : State) :
    exec (.dfma d a b g la) s = f64 (Instr.dfma d a b g la).encode g (op3 Num.fma64 d a b) s := rfl

/-- On a compute core the word is legal: the guard skips it, cores 14 and 15 execute it, and the others send the strand on
its way to one of them. -/
theorem f64_compute {w : Nat} {g : Guard} {s : State} (body : M Unit) (h : s.near) (hcore : s.me.core % 32 < 16) :
    f64 w g body s =
      if s.me.guarded g = true then
        if onF64 s.me.core then finish s (body (s.issue 4))
        else .next (({ s with me := { s.me with stay := true } }).depart s.f64Core 4)
      else .next (s.issue 4) := by
  have hlegal : f64Legal s = true := by simp [f64Legal, coreNo, hcore]
  have hcompute : ¬ 16 ≤ coreNo s.me.core := Nat.not_le.mpr hcore
  rw [f64, legalIf, if_pos hlegal, guardHeld_near h g]
  cases s.me.guarded g
  · rfl
  · simp only [hcompute, settledAll_near h, Bool.not_true, Bool.false_eq_true, if_false, if_true]

section

variable {w : Nat} {g : Guard} {s : State}

theorem f64_skips (body : M Unit) (h : s.near) (hcore : s.me.core % 32 < 16) (hg : s.me.guarded g = false) :
    f64 w g body s = .next (s.issued 4 id) := by
  rw [f64_compute body h hcore, hg, if_neg Bool.false_ne_true, issue_near 4 h]

theorem f64_runs {body : M Unit} {t : State} (h : s.near) (hcore : s.me.core % 32 = 14 ∨ s.me.core % 32 = 15)
    (hg : s.me.guarded g = true) (hbody : body (s.issue 4) = .ok ((), t)) : f64 w g body s = .next t := by
  have hon : onF64 s.me.core = true := by simpa [onF64, coreNo] using hcore
  rw [f64_compute body h (by omega), if_pos hg, if_pos hon, hbody, finish]

theorem f64_departs (body : M Unit) (h : s.near) (hcore : s.me.core % 32 < 14) (hg : s.me.guarded g = true) :
    f64 w g body s = .next (({ s with me := { s.me with stay := true } }).depart s.f64Core 4) := by
  have hoff : ¬ onF64 s.me.core = true := by
    simp only [onF64, coreNo, Bool.or_eq_true, beq_iff_eq]
    omega
  rw [f64_compute body h (by omega), if_pos hg, if_neg hoff]

end

/-- A strand at home that departs holds its slot, and its arrival is all that is owed (R221, R227). -/
theorem depart_home {s : State} (core reason : Nat) (h : s.me.abroad = false) :
    s.depart core reason = { s with
      me := { s.me with status := .transit core reason }
      agenda := s.agenda ++ [{ ev := .migrationArrival, arg := { sid := s.me.sid.toNat, core, n := reason } }] } := by
  rw [State.depart, h]
  rfl

end Sys2Proof.Machine
end

section
/-! PROOFS. The obligations of the scalar and control instructions (05_scalar_and_control). -/

namespace Sys2Proof.Machine

/-- Settles O1: each instruction is op1, op2 or op3 under its guard, on plain operands; the values of DIV, DIVN and REM by
the two special cases and the division equation. -/
theorem scalarResult : Obligations.ScalarResult := by
  refine ⟨fun i n g d a b f s hi hcalm hg hd ha hb => ?_, fun i n g d a f s hi hcalm hg hd ha => ?_,
    fun i n g d a b f s hi hcalm hg hd ha hb => ?_,
    fun x y => ⟨fun hy => ?_, fun hx hy => ?_, fun hy => ⟨divS_mul_add_remS x hy, divU_toNat x hy⟩⟩⟩
  · rw [exec_of_binary s hi, short_calm n g _ s hcalm hg, op2_issue f hcalm.near hd ha hb, finish]
  · rw [exec_of_unary s hi, short_calm n g _ s hcalm hg, op1_issue f hcalm.near hd ha, finish]
  · rw [exec_of_ternary s hi, short_calm n g _ s hcalm hg, op3_issue f hcalm.near hd ha hb, finish]
  · rw [hy]
    exact div_rem_zero x
  · rw [hx, hy]
    exact div_rem_overflow

/-- Settles O2: each instruction is cmp2 or pred2 under its guard. -/
theorem predicateResult : Obligations.PredicateResult := by
  refine ⟨fun i n g p a b f s hi hcalm hg ha hb => ?_, fun i g p a b f s hi hcalm hg => ?_⟩
  · rw [exec_eq_cmp2_of_compare s hi, short_calm n g _ s hcalm hg, cmp2_issue f p hcalm ha hb, finish]
  · rw [exec_eq_pred2_of_predicate s hi, short_calm 4 g _ s hcalm hg, pred2_issue f p a b hcalm, finish]

/-- Settles O8: a branch reads its predicate, JR its target, LOOP its counter, and then each goes on where that says. -/
theorem branchResult : Obligations.BranchResult := by
  refine ⟨fun p off s hcalm => ⟨?br, ?brF⟩, fun a g s hcalm hg ha => ⟨fun heven => ?even, fun hodd => ?odd⟩,
    fun d off g s hcalm hg hd => ?loop⟩
  case br =>
    rw [exec, execBr, short_calm 4 0 _ s hcalm (guarded_zero s.me), bind_ok _ _ _ _ _ (getPred_issue 4 p hcalm),
      issue_calm hcalm 4, branchTo_ite_issued, finish, pcRel]
  case brF =>
    rw [exec, execBrF, short_calm 4 0 _ s hcalm (guarded_zero s.me), bind_ok _ _ _ _ _ (getPred_issue 4 p hcalm),
      issue_calm hcalm 4, pass_ite_issued, finish, pcRel]
  case even =>
    rw [exec, execJr, short_calm 4 g _ s hcalm hg, bind_ok _ _ _ _ _ (rd_issue 4 hcalm ha),
      bind_ok _ _ _ _ _ (target_even _ heven), issue_calm hcalm 4, jump_issued, finish]
  case odd =>
    rw [exec, execJr, short_calm 4 g _ s hcalm hg, bind_ok _ _ _ _ _ (rd_issue 4 hcalm ha),
      bind_error _ (target_odd _ hodd), finish, stopped]
  case loop =>
    have hplain := plain_of_loopDest hd
    rw [exec, execLoop, short_calm 4 g _ s hcalm hg, bind_ok _ _ _ _ _ (rdOld_issue_near 4 hcalm.near hplain),
      bind_ok _ _ _ _ _ (wr_issue 4 _ hcalm hplain), pass_ite_issued, finish, pcRel]
    rfl

/-- Settles O10: by the three things an F64 instruction can do on a compute core. -/
theorem f64Result : Obligations.F64Result := by
  refine ⟨fun s hpend hplace hcore => ⟨fun i g la d a b f hi hg hd ha hb => ?_, fun d a b g la hg hd ha hb => ?_⟩,
    fun i g la s hi hcalm => ?_⟩
  · obtain ⟨w, body, hexec, hbody⟩ := exec_of_f64Binary s hi
    rw [hexec, f64_runs ⟨hpend, hplace⟩ hcore hg (hbody ⟨hpend, hplace⟩ hd ha hb)]
  · have hnear : s.near := ⟨hpend, hplace⟩
    rw [exec_dfma, f64_runs hnear hcore hg (op3_issue Num.fma64 hnear hd ha hb)]
  · obtain ⟨w, body, hexec⟩ : ∃ w body, exec i s = f64 w g body s := by
      obtain ⟨d, a, b, f, hi⟩ | ⟨d, a, b, rfl⟩ := hi
      · obtain ⟨w, body, hexec, -⟩ := exec_of_f64Binary s hi
        exact ⟨w, body, hexec⟩
      · exact ⟨_, _, exec_dfma d a b g la s⟩
    rw [hexec]
    refine ⟨fun hcore hg => ?_, fun hcore hg => f64_skips body hcalm.near hcore hg⟩
    rw [f64_departs body hcalm.near hcore hg, depart_home]
    exacts [⟨_, rfl, rfl, rfl, rfl⟩, hcalm.notAbroad]

/-- Settles O12: bit by bit of the mask, what BEXT packs is what BDEP spread. -/
theorem bextUndoesBdep : Obligations.BextUndoesBdep := by
  intro x m
  rw [bextW_bdepW, popcW_toNat]

end Sys2Proof.Machine
end

section
/-! SUPPORT. What a line instruction does to k registers and plain registers once it has issued (R97, R104, R107, R108). -/

namespace Sys2Proof.Machine

theorem settledK_calm {s : State} (k : Fin 8) (h : s.calm) : settledK k s = .ok ((), s) := settled_calm _ s h

theorem rdLine_k {s : State} (k : Fin 8) (h : s.calm) : rdLine (.k k) s = .ok (s.me.k[k], s) := by
  rw [rdLine, getK, bind_ok _ _ _ _ _ (atHome_calm s h), bind_ok _ _ _ _ _ (settledK_calm k h)]
  rfl

theorem rdLineOld_k {s : State} (k : Fin 8) (h : s.calm) : rdLineOld (.k k) s = .ok (s.me.k[k], s) := rdLine_k k h

theorem wrLine_k {s : State} (k : Fin 8) (v : Line) (h : s.calm) :
    wrLine (.k k) v s = .ok ((), { s with me := { s.me with k := s.me.k.set k v } }) := by
  rw [wrLine, bind_ok _ _ _ _ _ (atHome_calm s h), bind_ok _ _ _ _ _ (settledK_calm k h)]
  rfl

theorem rdLine_issue {s : State} (n : Nat) (k : Fin 8) (h : s.calm) :
    rdLine (.k k) (s.issue n) = .ok (s.me.k[k], s.issue n) := rdLine_k k (State.calm_issue s n h)

theorem rdLineOld_issue {s : State} (n : Nat) (k : Fin 8) (h : s.calm) :
    rdLineOld (.k k) (s.issue n) = .ok (s.me.k[k], s.issue n) := rdLine_issue n k h

theorem wrLine_issue {s : State} (n : Nat) (k : Fin 8) (v : Line) (h : s.calm) :
    wrLine (.k k) v (s.issue n) = .ok ((), s.issued n fun t => { t with k := t.k.set k v }) := by
  rw [wrLine_k k v (State.calm_issue s n h), issue_calm h n]
  rfl

theorem rd2_issue {a b : Reg} {s : State} (n : Nat) (h : s.calm) (ha : a.plain = true) (hb : b.plain = true) :
    rd2 a b (s.issue n) = .ok ((s.me.src a, s.me.src b), s.issue n) := by
  rw [rd2, bind_ok _ _ _ _ _ (rd_issue n h ha), bind_ok _ _ _ _ _ (rd_issue n h hb)]
  rfl

theorem isC32_iff (ty : Ty) : isC32 ty = true ↔ ty = 15 := by rw [isC32, beq_iff_eq, Fin.ext_iff]; rfl

/-- VBCAST copies the scalar to every lane; for C32 its high half to the odd ones (R104). -/
theorem bcast_eq (ty : Ty) (v : Word) : bcast ty v = Vector.ofFn fun i =>
    if ty = 15 ∧ i.val % 2 = 1 then (v >>> 32).setWidth 32 else v.setWidth 32 := by
  simp only [bcast, Bool.and_eq_true, isC32_iff, beq_iff_eq, hiHalf, loHalf]

/-- VRND rounds by the generator of the type (R107). -/
theorem mapLine_vrnd (ty : Ty) (x : Line) (key : Word) :
    mapLine (fun c => if isFp ty then Num.vrndF c key else Num.vrnd c key) x = Vector.ofFn fun i =>
      if ty = 12 then Num.vrndF x[i] key else Num.vrnd x[i] key := by
  simp only [mapLine, isFp_iff]

/-- What an instruction does to the strand that issues it is all that the state it leaves depends on. -/
theorem issued_congr {s : State} {n : Nat} {f g : Strand → Strand} (h : f s.me = g s.me) : s.issued n f = s.issued n g := by
  rw [State.issued, State.issued, h]

end Sys2Proof.Machine
end

section
/-! SUPPORT. Bindings of stream registers, and the element fetched ahead (R112 to R115). -/

namespace Sys2Proof.Machine

/-- A binding ends where everything pushed through it is performed; an unbound register stays so (R114). -/
theorem endStream_ok {i : Fin 4} {s : State} (h : ∀ st, s.me.t[i] = some st → st.out = true → s.storesDone = true) :
    endStream i s = .ok ((), { s with me := { s.me with t := s.me.t.set i none } }) := by
  rw [endStream, bind_ok _ _ _ s s rfl]
  cases ht : s.me.t[i] with
  | none =>
    have hsame : s.me.t.set i none = s.me.t := by
      rw [← ht]
      exact Vector.set_getElem_self i.isLt
    rw [hsame]
    rfl
  | some st =>
    cases hout : st.out with
    | true =>
      have hdrained : drained s = .ok ((), s) := by rw [drained, if_pos (h st ht hout)]
      simp only [hout, if_true]
      exact bind_ok _ _ _ _ _ hdrained
    | false =>
      simp only [hout, Bool.false_eq_true, if_false]
      rfl

theorem endStream_issue {i : Fin 4} {s : State} (n : Nat) (hcalm : s.calm)
    (h : ∀ st, s.me.t[i] = some st → st.out = true → s.storesDone = true) :
    endStream i (s.issue n) = .ok ((), s.issued n fun t => { t with t := t.t.set i none }) := by
  rw [endStream_ok (s := s.issue n) h, issue_calm hcalm n]
  rfl

theorem need_of_true {c : Bool} (x : M Unit) (s : State) (h : c = true) : need c x s = .ok ((), s) := by
  rw [need, if_pos h]
  rfl

/-- STRM with a dimension and an aligned base ends the binding there was and makes its own at position 0 (R112). -/
theorem exec_strm {i : Fin 4} {a b : Reg} {ty : Ty} {g : Guard} {s : State} (hcalm : s.calm) (hcore : Claims.compute s)
    (hg : s.me.guarded g = true) (hdone : ∀ st, s.me.t[i] = some st → st.out = true → s.storesDone = true)
    (ha : a.plain = true) (hb : b.plain = true) (hdims : wbits (s.me.src b) 1 2 ≠ 0)
    (haligned : (s.me.src a).toNat % elemSize ty = 0) :
    exec (.strm i a b ty g) s = .next (s.issued 4 fun t => { t with t := t.t.set i (some {
      base := t.src a, ty, out := (t.src b).getLsbD 0, dims := wbits (t.src b) 1 2
      c := #v[wbits t.e[0] 0 32, wbits t.e[2] 0 32, wbits t.e[4] 0 32], s := #v[t.e[1], t.e[3], t.e[5]], pos := 0
      ahead := [] }) }) := by
  have hlen : (Instr.strm i a b ty g).len = 4 := rfl
  rw [exec, execStrm, line_calm _ g _ s hcalm hcore hg, hlen, bind_ok _ _ _ _ _ (rd2_issue 4 hcalm ha hb)]
  dsimp only
  rw [bind_ok _ _ _ _ _ (need_of_true _ _ (bne_iff_ne.mpr hdims)), bind_ok _ _ _ _ _ (need_of_true _ _ (beq_iff_eq.mpr haligned)),
    bind_ok _ _ _ _ _ (endStream_issue 4 hcalm hdone), bind_ok _ _ _ _ _ rfl, updMe, finish]
  simp only [State.issued, Vector.set_set]

theorem exec_stre {i : Fin 4} {g : Guard} {s : State} (hcalm : s.calm) (hcore : Claims.compute s)
    (hg : s.me.guarded g = true) (hdone : ∀ st, s.me.t[i] = some st → st.out = true → s.storesDone = true) :
    exec (.stre i g) s = .next (s.issued 4 fun t => { t with t := t.t.set i none }) := by
  have hlen : (Instr.stre i g).len = 4 := rfl
  rw [exec, execStre, line_calm _ g _ s hcalm hcore hg, hlen, endStream_issue 4 hcalm hdone, finish]

/-- An element put at the end of a stream's buffer; its position stays. -/
def State.joinAhead (s : State) (i : Fin 4) (st : Stream) (x : Ahead) : State :=
  { s with me := { s.me with t := s.me.t.set i (some { st with ahead := st.ahead ++ [x] }) } }

/-- What becomes of an element asked for ahead in state s: it joins the buffer as it was read, or as the fault for the pop
that needs it; one that has to wait is left (R113). -/
def fetchedAhead (i : Fin 4) (st : Stream) (s : State) : Except Stop (Ahead × State) → Out
  | .ok (x, u) => .next (u.joinAhead i st x)
  | .error (.bad k tval) => .next ((s.logError k).joinAhead i st (.lost 8 0 tval))
  | .error (.trap cls detail tval) => .next (s.joinAhead i st (.lost cls detail tval))
  | .error _ => .next s

/-- An input stream of a strand at home fetches an element ahead while its pattern has one within 512 bytes of the position
(R113, R115). -/
theorem exec_streamFetchAhead {i : Fin 4} {st : Stream} {s : State} (hi : s.arg.n = i.val) (ht : s.me.t[i] = some st)
    (hhome : s.me.core = s.me.homeCore) (hout : st.out = false) (hleft : st.pos + st.ahead.length < st.total)
    (hroom : (st.ahead.length + 1) * elemSize st.ty ≤ 512) :
    exec .streamFetchAhead s = fetchedAhead i st s (fetchAhead st (st.pos + st.ahead.length) s) := by
  have hreg : Fin.ofNat 4 s.arg.n = i := by rw [hi, Fin.ofNat_val_eq_self]
  have hfetches : (s.me.abroad || st.out || decide (st.total ≤ st.pos + st.ahead.length) ||
      decide (512 < (st.ahead.length + 1) * elemSize st.ty)) = false := by
    simp only [Strand.abroad, hhome, bne_self_eq_false, hout, decide_eq_false (Nat.not_le.mpr hleft),
      decide_eq_false (Nat.not_lt.mpr hroom), Bool.or_self]
  rw [exec, execStreamFetchAhead]
  simp only [hreg, ht, hfetches, Bool.false_eq_true, if_false]
  rcases fetchAhead st (st.pos + st.ahead.length) s with e | ⟨x, u⟩
  · cases e <;> rfl
  · rfl

end Sys2Proof.Machine
end

section
/-! SUPPORT. What an access leaves alone: the frame of the checks, of reads and of writes of this device's bytes, and of the
count by home (R109 to R111, R123, R137, R228, R283, R289, R293). -/

namespace Sys2Proof.Machine

/-- An answer of two steps is an answer of the first, handed to the second. -/
theorem run_bind_eq_ok {α β : Type} {x : M α} {f : α → M β} {s t : State} {b : β} (h : (x >>= f) s = .ok (b, t)) :
    ∃ a u, x s = .ok (a, u) ∧ f a u = .ok (b, t) := by
  cases hx : x s with
  | error e => rw [bind_error f hx] at h; cases h
  | ok p => exact ⟨p.1, p.2, rfl, by rw [← h, bind_ok x f s p.1 p.2 hx]⟩

/-- What an access of this device's bytes may change: memory, the translation caches, the policy's counts, the moves due and
the queues. -/
def State.framed (s t : State) : Prop :=
  ∃ mem tlb tier agenda queues, t = { s with mem, tlb, tier, agenda, queues }

theorem State.framed.refl (s : State) : s.framed s := ⟨_, _, _, _, _, rfl⟩

theorem State.framed.trans {s t u : State} : s.framed t → t.framed u → s.framed u := by
  rintro ⟨_, _, _, _, _, rfl⟩ ⟨_, _, _, _, _, rfl⟩
  exact ⟨_, _, _, _, _, rfl⟩

section
variable {s t : State} (h : s.framed t)
include h

theorem State.framed.me : t.me = s.me := by
  obtain ⟨_, _, _, _, _, rfl⟩ := h
  rfl

theorem State.framed.badAt (k : Nat) : t.badAt k = s.badAt k := by
  obtain ⟨_, _, _, _, _, rfl⟩ := h
  rfl

theorem State.framed.locked (k : Nat) : t.locked k = s.locked k := by
  obtain ⟨_, _, _, _, _, rfl⟩ := h
  rfl

theorem State.framed.calm (hcalm : s.calm) : t.calm := by
  rw [State.calm, h.me]
  exact hcalm

theorem State.framed.clear {hs : List Hit} (hclear : Claims.clear s hs) : Claims.clear t hs := by
  rw [Claims.clear, h.me]
  exact hclear

theorem State.framed.cells (hs : List Hit) : Claims.cells t hs = Claims.cells s hs := by
  rw [Claims.cells, h.me, Claims.cells]

theorem State.framed.here {hs : List Hit} (hhere : Claims.here s hs) : Claims.here t hs := by
  obtain ⟨hcells, hgood⟩ := hhere
  refine ⟨hcells, fun k hk => ?_⟩
  rw [h.cells] at hk
  rw [h.badAt, hgood k hk]

theorem State.framed.inLog (k : Nat) : Claims.inLog t k ↔ Claims.inLog s k := by rw [Claims.inLog, h.me, Claims.inLog]

/-- What a strand sees of memory depends on memory and its own queued stores (R334). -/
theorem State.framed.see (hmem : t.mem = s.mem) : t.see = s.see := by
  funext k
  rw [State.see, State.see, h.me, hmem]

end

/-- A read: memory too is as it was. -/
structure State.readOnly (s t : State) : Prop where
  framed : s.framed t
  mem : t.mem = s.mem

theorem State.readOnly.refl (s : State) : s.readOnly s := ⟨.refl s, rfl⟩

theorem State.readOnly.trans {s t u : State} (h : s.readOnly t) (h' : t.readOnly u) : s.readOnly u :=
  ⟨h.framed.trans h'.framed, h'.mem.trans h.mem⟩

theorem State.readOnly.see {s t : State} (h : s.readOnly t) : t.see = s.see := h.framed.see h.mem

theorem readOnly_tlb (s : State) (l : List Tr) : s.readOnly { s with tlb := l } := ⟨⟨_, _, _, _, _, rfl⟩, rfl⟩

/-! The checks of an access (R123): only the translation caches change (R283). -/

theorem lookup_readOnly {s u : State} {cl job va : Nat} {t : Tr} (h : s.lookup cl job va = some (t, u)) : s.readOnly u := by
  rw [State.lookup] at h
  split at h
  · cases h; exact readOnly_tlb s _
  · split at h
    · cases h
    · cases h; exact readOnly_tlb s _

theorem vfault_ne_ok {α : Type} {a : Word} {s : State} {x : α × State} : vfault a s ≠ .ok x := by
  rw [vfault]
  split <;> exact nofun

theorem xlate_readOnly {s u : State} {job right va : Nat} {h : Hit} (hx : xlate job right va s = .ok (h, u)) :
    s.readOnly u := by
  rw [xlate] at hx
  split at hx
  · exact absurd hx vfault_ne_ok
  · next hlookup =>
    dsimp only at hx
    split at hx
    · cases hx; exact lookup_readOnly hlookup
    · exact absurd hx vfault_ne_ok

theorem laddr_eq {s u : State} {store : Bool} {a : Nat} {h : Hit} (hx : laddr store a s = .ok (h, u)) : u = s := by
  rw [laddr] at hx
  split_ifs at hx <;> cases hx <;> rfl

theorem checkByte_readOnly {s u : State} {right lo : Nat} {a : Addr} {h : Hit} (hx : checkByte right lo a s = .ok (h, u)) :
    s.readOnly u := by
  unfold checkByte at hx
  split at hx
  · cases hx
  · cases a with
    | l x => rw [laddr_eq hx]; exact .refl s
    | v x =>
      dsimp only at hx
      split_ifs at hx
      · cases hx; exact .refl s
      · exact xlate_readOnly hx
      · exact absurd hx vfault_ne_ok

theorem checkFrom_readOnly {right lo : Nat} {as : List Addr} {s u : State} {hs : List Hit}
    (hx : checkFrom right lo as s = .ok (hs, u)) : s.readOnly u := by
  induction as generalizing s hs with
  | nil => cases hx; exact .refl _
  | cons a r ih =>
    obtain ⟨h, v, hbyte, hrest⟩ := run_bind_eq_ok hx
    obtain ⟨l, w, hfrom, hpure⟩ := run_bind_eq_ok hrest
    cases hpure
    exact (checkByte_readOnly hbyte).trans (ih hfrom)

theorem aligned_eq {a : Addr} {n : Nat} {s u : State} (hx : aligned a n s = .ok ((), u)) : u = s := by
  rw [aligned] at hx
  split at hx <;> cases hx
  rfl

/-- Each address has its list of hits, and only the caches changed. -/
theorem checkElems_readOnly {right size : Nat} {as : List Addr} {s u : State} {hss : List (List Hit)}
    (hx : checkElems right size as s = .ok (hss, u)) : s.readOnly u ∧ hss.length = as.length := by
  induction as generalizing s hss with
  | nil => cases hx; exact ⟨.refl _, rfl⟩
  | cons a r ih =>
    obtain ⟨_, _, haligned, hrest⟩ := run_bind_eq_ok hx
    obtain rfl := aligned_eq haligned
    obtain ⟨h, v, hcheck, hrest⟩ := run_bind_eq_ok hrest
    obtain ⟨l, w, helems, hpure⟩ := run_bind_eq_ok hrest
    cases hpure
    obtain ⟨hread, hlen⟩ := ih helems
    exact ⟨(checkFrom_readOnly hcheck).trans hread, congrArg (· + 1) hlen⟩

theorem lineAddrs_length {a : Word} {size : Nat} {os : List Int} {s u : State} {as : List Addr}
    (hx : lineAddrs a size os s = .ok (as, u)) : as.length = os.length := by
  induction os generalizing s as with
  | nil => cases hx; rfl
  | cons o r ih =>
    obtain ⟨x, v, _, hrest⟩ := run_bind_eq_ok hx
    obtain ⟨l, w, hl, hpure⟩ := run_bind_eq_ok hrest
    cases hpure
    exact congrArg (· + 1) (ih hl)

/-- An access to an SO page issues where the strand has none open (R285). -/
theorem soFree_of_clear {s : State} {hs : List Hit} (h : Claims.clear s hs) : soFree hs s = .ok ((), s) := by
  rw [soFree]
  cases hso : hs.any Hit.so with
  | true => rw [h hso]; rfl
  | false => rfl

/-! The count by home (R228). -/

/-- Nothing changed but the count, the strand's status and the moves due; without a threshold not even the status. -/
def State.tallied (s t : State) : Prop :=
  ∃ rac status agenda, t = { s with me := { s.me with rac, status }, agenda } ∧ (s.me.trh = 0 → status = s.me.status)

theorem State.tallied.refl (s : State) : s.tallied s := ⟨_, _, _, rfl, fun _ => rfl⟩

theorem depart_eq (s : State) (core reason : Nat) :
    ∃ agenda, s.depart core reason = { s with me := { s.me with status := .transit core reason }, agenda } := by
  rw [State.depart]
  split <;> exact ⟨_, rfl⟩

theorem countAccess_calm {s : State} (h : Hit) (hcalm : s.calm) : ∃ t, countAccess h s = .ok ((), t) ∧ s.tallied t := by
  have ⟨_, hpend, _⟩ := hcalm
  unfold countAccess
  split
  next k _ =>
    dsimp only
    split
    · split
      · exact ⟨_, rfl, .refl s⟩
      · generalize (if s.me.rac.toNat % 65536 = _ then _ else _ : Nat) = n
        split
        · exact ⟨_, rfl, _, _, _, rfl, fun _ => rfl⟩
        next hover =>
          have htrh : s.me.trh ≠ 0 := fun h => hover (.inl (by rw [h]; rfl))
          obtain ⟨agenda, hdepart⟩ := depart_eq { s with me := { s.me with rac := 0 } } (s.home k) 3
          rw [if_pos (List.isEmpty_iff.mpr hpend)]
          exact ⟨_, congrArg (fun t => Except.ok ((), t)) hdepart, _, _, _, rfl, fun h => absurd h htrh⟩
    · exact ⟨_, rfl, .refl s⟩
  next => exact ⟨_, rfl, .refl s⟩

theorem countFirst_calm {s : State} (hs : List Hit) (hcalm : s.calm) : ∃ t, countFirst hs s = .ok ((), t) ∧ s.tallied t := by
  cases hs with
  | nil => exact ⟨s, rfl, .refl s⟩
  | cons h r => exact countAccess_calm h hcalm

end Sys2Proof.Machine
end

section
/-! SUPPORT. Elements of this device read by a line load (R109, R111). -/

namespace Sys2Proof.Machine

theorem Hit.isCell_iff {h : Hit} : h.isCell = true ↔ ∃ k, h.loc = .cell k := by
  rw [Hit.isCell]
  cases h.loc <;> simp

/-! A byte of this device is read at its cell: no request, no replica line (R284). -/

section
variable {h : Hit} (hcell : h.isCell = true)
include hcell

theorem Hit.readable_of_isCell : h.readable = true := by
  obtain ⟨k, hloc⟩ := Hit.isCell_iff.mp hcell
  rw [Hit.readable, hloc]

theorem Hit.open_of_isCell (s : State) : h.open s = false := by
  obtain ⟨k, hloc⟩ := Hit.isCell_iff.mp hcell
  rw [Hit.open, Hit.away?, hloc]

theorem Hit.away_of_isCell (s : State) : h.away s = false := by
  obtain ⟨k, hloc⟩ := Hit.isCell_iff.mp hcell
  rw [Hit.away, hloc]

theorem fetchHit_of_isCell (job : Nat) (s : State) : fetchHit job s h = s := by
  obtain ⟨k, hloc⟩ := Hit.isCell_iff.mp hcell
  rw [fetchHit, hloc]

end

section
variable {s : State} {hs : List Hit} (h : Claims.here s hs)
include h

theorem isCell_of_here {x : Hit} (hx : x ∈ hs) : x.isCell = true := by
  obtain ⟨hcells, _⟩ := h
  exact List.all_eq_true.mp hcells x hx

theorem readable_of_here : hs.all Hit.readable = true :=
  List.all_eq_true.mpr fun _ hx => Hit.readable_of_isCell (isCell_of_here h hx)

theorem not_open_of_here : hs.any (Hit.open s) = false :=
  List.any_eq_false.mpr fun _ hx => Bool.not_eq_true _ ▸ Hit.open_of_isCell (isCell_of_here h hx) s

theorem not_away_of_here : hs.any (Hit.away s) = false :=
  List.any_eq_false.mpr fun _ hx => Bool.not_eq_true _ ▸ Hit.away_of_isCell (isCell_of_here h hx) s

theorem here_of_subset {hs' : List Hit} (hsub : hs' ⊆ hs) : Claims.here s hs' := by
  obtain ⟨_, hgood⟩ := id h
  exact ⟨List.all_eq_true.mpr fun _ hx => isCell_of_here h (hsub hx), fun k hk => hgood k (List.map_subset _ hsub hk)⟩

/-- No replica line is to be fetched first (R284). -/
theorem foldl_fetchHit_of_here (job : Nat) (t : State) : hs.foldl (fetchHit job) t = t := by
  obtain ⟨hcells, -⟩ := h
  induction hs with
  | nil => rfl
  | cons x r ih =>
    rw [List.all_cons, Bool.and_eq_true] at hcells
    obtain ⟨hx, hr⟩ := hcells
    rw [List.foldl_cons, fetchHit_of_isCell hx, ih hr]

end

theorem counted_readOnly (s : State) (hs : List Hit) : s.readOnly (s.counted hs) := by
  unfold State.counted
  split
  · exact .refl s
  · split
    · exact ⟨⟨_, _, _, _, _, rfl⟩, rfl⟩
    · exact .refl s

/-- Bytes of this device are read as the strand sees them (R334). -/
theorem readHits_here (tval : Word) {hs : List Hit} {s : State} (h : Claims.here s hs) :
    readHits tval hs s = .ok ((Claims.cells s hs).map s.see, s.counted hs) := by
  obtain ⟨_, hgood⟩ := id h
  have hnone : (hs.map (cellOf s.me.job.toNat)).find? s.badAt = none :=
    List.find?_eq_none.mpr fun k hk => Bool.not_eq_true _ ▸ hgood k hk
  simp only [readHits, readable_of_here h, not_open_of_here h, foldl_fetchHit_of_here h, hnone, Bool.not_true, Bool.false_eq_true,
    if_false, Claims.cells]

theorem readRun_here (tval : Word) {hs : List Hit} {s : State} (h : Claims.here s hs) :
    readRun tval hs s = .ok ({ tval, dev := 0, vas := [], rep := [], rd := .got ((Claims.cells s hs).map s.see) },
      s.counted hs) := by
  simp only [readRun, readable_of_here h, not_away_of_here h, readHits_here tval h, Bool.not_true, Bool.false_eq_true, if_false]

/-- The runs of an element lie one behind the other. -/
theorem flatten_runsOf (fuel : Nat) (hs : List Hit) (h : hs.length ≤ fuel) : (runsOf fuel hs).flatten = hs := by
  induction fuel generalizing hs with
  | zero => rw [List.length_eq_zero_iff.mp (Nat.le_zero.mp h)]; rfl
  | succ fuel ih =>
    cases hs with
    | nil => rfl
    | cons x r =>
      have hrest : (r.drop (runLen x r)).length ≤ fuel :=
        (List.drop_sublist ..).length_le.trans (Nat.le_of_succ_le_succ h)
      rw [runsOf, List.flatten_cons, ih _ hrest, List.cons_append, List.take_append_drop]

/-- The bytes of a run that is read. -/
def Run.bytes (r : Run) : List Byte :=
  match r.rd with
  | .got bs => bs
  | _ => []

/-- Every run of this device is read, and together they give what the strand sees at the cells. -/
theorem readRuns_here (tval : Word) {hss : List (List Hit)} {s : State} (h : Claims.here s hss.flatten) :
    ∃ runs t, readRuns tval hss s = .ok (runs, t) ∧ s.readOnly t ∧ runs.all Run.isGot = true ∧
      runs.flatMap Run.bytes = (Claims.cells s hss.flatten).map s.see := by
  induction hss generalizing s with
  | nil => exact ⟨[], s, rfl, .refl s, rfl, rfl⟩
  | cons hs r ih =>
    rw [List.flatten_cons] at h
    have hfirst := readRun_here tval (here_of_subset h (List.subset_append_left _ _))
    have hread := counted_readOnly s hs
    obtain ⟨runs, t, hruns, hread', hgot, hbytes⟩ :=
      ih (hread.framed.here (here_of_subset h (List.subset_append_right _ _)))
    refine ⟨{ tval, dev := 0, vas := [], rep := [], rd := .got ((Claims.cells s hs).map s.see) } :: runs, t, ?_,
      hread.trans hread', ?_, ?_⟩
    · rw [readRuns, bind_ok _ _ _ _ _ hfirst, bind_ok _ _ _ _ _ hruns]
      rfl
    · rw [List.all_cons, hgot]
      rfl
    · rw [List.flatMap_cons, hbytes, hread.see, hread.framed.cells, List.flatten_cons, Claims.cells, Claims.cells, Claims.cells,
        List.map_append, List.map_append]
      rfl

/-- The value of checked bytes as the strand sees them. -/
def State.valueAt (s : State) (hs : List Hit) : Nat := leNat ((Claims.cells s hs).map s.see)

theorem State.readOnly.valueAt {s t : State} (h : s.readOnly t) : t.valueAt = s.valueAt := by
  funext hs
  rw [State.valueAt, State.valueAt, h.see, h.framed.cells]

theorem readElem_here (tval : Word) {hs : List Hit} {s : State} (h : Claims.here s hs) :
    ∃ e t, readElem tval hs s = .ok (e, t) ∧ s.readOnly t ∧ e.runs.all Run.isGot = true ∧
      leNat e.bytes = s.valueAt hs := by
  have hflat := flatten_runsOf hs.length hs (Nat.le_refl _)
  obtain ⟨runs, t, hruns, hread, hgot, hbytes⟩ := readRuns_here tval (hss := runsOf hs.length hs) (by rwa [hflat])
  refine ⟨{ runs }, t, ?_, hread, hgot, ?_⟩
  · rw [readElem, bind_ok _ _ _ _ _ hruns]
    rfl
  · rw [hflat] at hbytes
    exact congrArg leNat hbytes

/-- The lanes an element of a line gives; an inactive one gives 0 (R111). -/
def laneHalves (ty : Ty) : Option Elem → List Half
  | some e => lanesOf ty (leNat e.bytes)
  | none => if isComplex ty then [0, 0] else [0]

theorem elemLine_eq (ty : Ty) (els : List (Option Elem)) : elemLine ty els = lineOfList (els.flatMap (laneHalves ty)) :=
  congrArg (fun f => lineOfList (els.flatMap f)) (funext fun e => by cases e <;> rfl)

theorem allGot_cons (e : Option Elem) (els : List (Option Elem)) :
    allGot (e :: els) = (((e.map Elem.runs).getD []).all Run.isGot && allGot els) := by
  rw [allGot, runsIn, List.flatMap_cons, List.all_append, allGot, runsIn]

/-- Active elements of this device are read in order into their lanes (R111). -/
theorem readLanes_here (ty : Ty) {os : List (Option Int)} {xs : List (Addr × List Hit)} {s : State}
    (h : Claims.here s (xs.map Prod.snd).flatten) :
    ∃ els t, readLanes os xs s = .ok (els, t) ∧ s.readOnly t ∧ allGot els = true ∧
      els.flatMap (laneHalves ty) = Claims.loaded ty os (xs.map fun x => s.valueAt x.2) := by
  induction os generalizing xs s with
  | nil => exact ⟨[], s, rfl, .refl s, rfl, rfl⟩
  | cons o r ih =>
    cases o with
    | none =>
      obtain ⟨els, t, hlanes, hread, hgot, hhalves⟩ := ih h
      refine ⟨none :: els, t, ?_, hread, ?_, ?_⟩
      · rw [readLanes, bind_ok _ _ _ _ _ hlanes]
        rfl
      · rw [allGot_cons, hgot]
        rfl
      · rw [List.flatMap_cons, hhalves, Claims.loaded]
        rfl
    | some i =>
      cases xs with
      | nil => exact ⟨[], s, rfl, .refl s, rfl, rfl⟩
      | cons x xs =>
        rw [List.map_cons, List.flatten_cons] at h
        obtain ⟨e, u, helem, hread, hgot, hvalue⟩ :=
          readElem_here x.1.tval (here_of_subset h (List.subset_append_left _ _))
        obtain ⟨els, t, hlanes, hread', hgot', hhalves⟩ :=
          ih (hread.framed.here (here_of_subset h (List.subset_append_right _ _)))
        refine ⟨some e :: els, t, ?_, hread.trans hread', ?_, ?_⟩
        · rw [readLanes, bind_ok _ _ _ _ _ helem, bind_ok _ _ _ _ _ hlanes]
          rfl
        · rw [allGot_cons, hgot']
          exact (Bool.and_true _).trans hgot
        · rw [List.flatMap_cons, hhalves, List.map_cons, Claims.loaded, ← hvalue, hread.valueAt]
          rfl

/-! The whole of a line load. -/

/-- Reading, writing k registers and counting by home make an access (R111, R228). -/
theorem accessed_of {s u t : State} {m : Memory} {f : Strand → Strand} {n : Nat}
    (hu : ∃ tlb tier agenda queues, u = { s.issued n f with mem := m, tlb, tier, agenda, queues }) (htally : u.tallied t)
    (htrh : (f s.me).trh = s.me.trh) (hstatus : (f s.me).status = s.me.status) : Claims.accessed s t m f n := by
  obtain ⟨tlb, tier, agenda, queues, rfl⟩ := hu
  obtain ⟨rac, status, agenda', rfl, hstays⟩ := htally
  exact ⟨rfl, fun h => (hstays (htrh.trans h)).trans hstatus⟩

theorem clear_issue {s : State} {hs : List Hit} (n : Nat) (hcalm : s.calm) (h : Claims.clear s hs) :
    Claims.clear (s.issue n) hs := by
  rw [issue_calm hcalm n]
  exact h

/-- A line load whose elements are checked and lie in this device (R109, R111). -/
theorem lineLoad_here {ty : Ty} {d : Fin 8} {base : Word} {os : List (Option Int)} {as : List Addr} {hss : List (List Hit)}
    {s s1 : State} (hcalm : s.calm) (haddrs : lineAddrs base (elemSize ty) (os.filterMap id) (s.issue 4) = .ok (as, s.issue 4))
    (hcheck : checkElems rR (elemSize ty) as (s.issue 4) = .ok (hss, s1)) (hhere : Claims.here s hss.flatten)
    (hclear : Claims.clear s hss.flatten) :
    ∃ t, lineLoad ty (.k d) base os (s.issue 4) = .ok ((), t) ∧ Claims.accessed s t s.mem (fun u => { u with
      k := u.k.set d (lineOfList (Claims.loaded ty os (hss.map s.valueAt))) }) 4 := by
  obtain ⟨hread, hlen⟩ := checkElems_readOnly hcheck
  have hcalm' := State.calm_issue s 4 hcalm
  have hfree := soFree_of_clear (hread.framed.clear (clear_issue 4 hcalm hclear))
  have hzip : (as.zip hss).map Prod.snd = hss := List.map_snd_zip hlen.le
  obtain ⟨els, u, hlanes, hread', hgot, hhalves⟩ := readLanes_here ty (os := os) (xs := as.zip hss) (s := s1)
    (by rw [hzip]; exact hread.framed.here hhere)
  have hwrite := wrLine_k d (elemLine ty els) (hread'.framed.calm (hread.framed.calm hcalm'))
  obtain ⟨t, hcount, htally⟩ := countFirst_calm hss.flatten
    (s := { u with me := { u.me with k := u.me.k.set d (elemLine ty els) } }) (hread'.framed.calm (hread.framed.calm hcalm'))
  have hvalues : (as.zip hss).map (fun x => s1.valueAt x.2) = hss.map s.valueAt := by
    rw [hread.valueAt]
    show (as.zip hss).map (s.valueAt ∘ Prod.snd) = hss.map s.valueAt
    rw [← List.map_map, hzip]
  refine ⟨t, ?_, accessed_of ?_ htally rfl rfl⟩
  · rw [lineLoad, bind_ok _ _ _ _ _ haddrs, bind_ok _ _ _ _ _ hcheck, bind_ok _ _ _ _ _ hfree,
      bind_ok _ _ _ _ _ hlanes, if_pos hgot, bind_ok _ _ _ _ _ hwrite]
    exact hcount
  · obtain ⟨⟨mem, tlb, tier, agenda, queues, rfl⟩, hmem⟩ := hread.trans hread'
    obtain rfl : mem = s.mem := hmem
    rw [elemLine_eq, hhalves, hvalues, issue_calm hcalm 4]
    exact ⟨tlb, tier, agenda, queues, rfl⟩

end Sys2Proof.Machine
end

section
/-! SUPPORT. Elements of this device written by a line store, each with the log records of its pages (R109, R111, R126, R289). -/

namespace Sys2Proof.Machine

/-! Writes of bytes: which ones they reach, and what a count of two bytes reads as. -/

theorem length_leBytes (n v : Nat) : (leBytes n v).length = n := by
  induction n generalizing v with
  | zero => rfl
  | succ n ih => rw [leBytes, List.length_cons, ih]

theorem Memory.setAll_append (m : Memory) (cs ds : List (Nat × Byte)) : m.setAll (cs ++ ds) = (m.setAll cs).setAll ds := by
  induction cs generalizing m with
  | nil => rfl
  | cons c r ih => exact ih _

/-- What a byte reads as after a list of writes depends only on what it read as before. -/
theorem Memory.get_setAll_congr (cs : List (Nat × Byte)) {m m' : Memory} {j : Nat} (hm : m.wf = true) (hm' : m'.wf = true)
    (h : m.get j = m'.get j) : (m.setAll cs).get j = (m'.setAll cs).get j := by
  induction cs generalizing m m' with
  | nil => exact h
  | cons c r ih =>
    refine ih (wf_set _ _ _ hm) (wf_set _ _ _ hm') ?_
    rw [get_set _ _ _ _ hm, get_set _ _ _ _ hm', h]

theorem get_setNum_of_outside {s : State} {a n v k : Nat} (hwf : s.mem.wf = true) (hk : k < a ∨ a + n ≤ k) :
    (s.setNum a n v).mem.get k = s.mem.get k := by
  refine Memory.get_setAll_of_notMem _ _ _ hwf fun c hc => ?_
  obtain ⟨i, hi, rfl⟩ := List.mem_iff_getElem.mp hc
  rw [List.length_zipWith, List.length_range, length_leBytes, Nat.min_self] at hi
  rw [List.getElem_zipWith, List.getElem_range]
  omega

theorem num_two (s : State) (a : Nat) : s.num a 2 = (s.mem.get a).toNat + 256 * (s.mem.get (a + 1)).toNat := by
  simp [State.num, State.bytesAt, leNat, List.range_succ]

theorem num_setNum_two {s : State} {a v : Nat} (hwf : s.mem.wf = true) (hv : v < 65536) : (s.setNum a 2 v).num a 2 = v := by
  have hwf' := Memory.wf_set _ a (BitVec.ofNat 8 v) hwf
  have hmem : (s.setNum a 2 v).mem = (s.mem.set a (BitVec.ofNat 8 v)).set (a + 1) (BitVec.ofNat 8 (v / 256)) := rfl
  rw [num_two, hmem, Memory.get_set _ _ _ _ hwf', Memory.get_set _ _ _ _ hwf', Memory.get_set _ _ _ _ hwf,
    if_neg (Nat.ne_of_lt (Nat.lt_succ_self a)), if_pos rfl, if_pos rfl, BitVec.toNat_ofNat, BitVec.toNat_ofNat]
  omega

/-! The dirty log (R289). -/

theorem logRoom_of_num {u t : State} {n m : Nat} (hme : t.me = u.me)
    (hnum : ∀ c, logCore u.me = some c → t.num (lsKey c 0xFF000) 2 = u.num (lsKey c 0xFF000) 2)
    (hroom : Claims.logRoom u (n + m)) : Claims.logRoom t m := by
  intro c hc
  rw [hme] at hc
  have := hroom c hc
  rw [hnum c hc]
  omega

theorem State.readOnly.num {s t : State} (h : s.readOnly t) (a n : Nat) : t.num a n = s.num a n := by
  rw [State.num, State.bytesAt, h.mem]
  rfl

theorem hwSend_readOnly (s : State) (dst kind job : Nat) (o1 o2 o3 o4 : Word) :
    s.readOnly (s.hwSend dst kind job o1 o2 o3 o4) := by
  rw [State.hwSend]
  split
  · exact .refl s
  · exact ⟨⟨_, _, _, _, _, rfl⟩, rfl⟩

/-- A record put in a log that has room for one: the log counts it, and nothing outside the log is written. -/
theorem appendLog_of_room {s : State} {core : Nat} (job va : Nat) (hwf : s.mem.wf = true)
    (hroom : s.num (lsKey core 0xFF000) 2 % 512 < 511) :
    ∃ t, s.appendLog core job va = some t ∧ s.framed t ∧ t.mem.wf = true ∧
      t.num (lsKey core 0xFF000) 2 % 512 = s.num (lsKey core 0xFF000) 2 % 512 + 1 ∧
      ∀ k, ¬ (lsKey core 0xFF000 ≤ k ∧ k < lsKey core 0xFF000 + 4096) → t.mem.get k = s.mem.get k := by
  unfold State.appendLog
  dsimp only
  generalize lsKey core 0xFF000 = head at *
  generalize s.num head 2 % 512 = n at *
  rw [if_neg (Nat.ne_of_lt hroom)]
  generalize ha : s.setNum (head + 8 * (n + 1)) 8 (va / 65536 * 65536 + job) = a
  have hwfa : a.mem.wf = true := ha ▸ State.setNum_wf _ _ _ _ hwf
  have hframe : s.framed (a.setNum head 2 (n + 1)) := ha ▸ ⟨_, _, _, _, _, rfl⟩
  have hnum : (a.setNum head 2 (n + 1)).num head 2 % 512 = n + 1 := by
    rw [num_setNum_two hwfa (by omega), Nat.mod_eq_of_lt (by omega)]
  have hout : ∀ k, ¬ (head ≤ k ∧ k < head + 4096) → (a.setNum head 2 (n + 1)).mem.get k = s.mem.get k := fun k hk => by
    rw [get_setNum_of_outside hwfa (by omega), ← ha, get_setNum_of_outside hwf (by omega)]
  generalize ht : (if n + 1 = 256 then _ else _ : State) = t
  have hsent : (a.setNum head 2 (n + 1)).readOnly t := by
    rw [← ht]
    split
    · exact hwSend_readOnly ..
    · exact .refl _
  exact ⟨t, rfl, hframe.trans hsent.framed, hsent.mem ▸ State.setNum_wf _ _ _ _ hwfa, by rw [hsent.num, hnum],
    fun k hk => by rw [hsent.mem, hout k hk]⟩

/-! Meanings that write some bytes and put some records in the dirty log. -/

/-- From any state that an access has left of s, x writes the bytes cs, changes nothing else outside the dirty log, and takes
room for n records in it. -/
def Writes (s : State) (x : M Unit) (cs : List (Nat × Byte)) (n : Nat) : Prop :=
  ∀ (u : State) (m : Nat), s.framed u → u.mem.wf = true → Claims.logRoom u (n + m) →
    ∃ t, x u = .ok ((), t) ∧ s.framed t ∧ t.mem.wf = true ∧ Claims.logRoom t m ∧ Claims.wrote u t.mem cs

theorem Writes.bind {s : State} {x y : M Unit} {cs ds : List (Nat × Byte)} {a b : Nat} (hx : Writes s x cs a)
    (hy : Writes s y ds b) : Writes s (x >>= fun _ => y) (cs ++ ds) (a + b) := by
  intro u m hframe hwf hroom
  obtain ⟨v, hxu, hv, hvwf, hvroom, hvwrote⟩ := hx u (b + m) hframe hwf (by rwa [← Nat.add_assoc])
  obtain ⟨t, hyv, ht, htwf, htroom, htwrote⟩ := hy v m hv hvwf hvroom
  refine ⟨t, by rw [bind_ok _ _ _ _ _ hxu, hyv], ht, htwf, htroom, fun k hk => ?_⟩
  have hk' : ¬ Claims.inLog v k := by rwa [hv.inLog, ← hframe.inLog]
  rw [htwrote k hk', Memory.setAll_append]
  exact Memory.get_setAll_congr ds hvwf (Memory.wf_setAll _ _ hwf) (hvwrote k hk)

/-- What changes no memory writes nothing. -/
theorem writes_nil {s : State} {x : M Unit} (n : Nat) (h : ∀ u, s.framed u → ∃ t, x u = .ok ((), t) ∧ u.readOnly t) :
    Writes s x [] n := by
  intro u m hframe hwf hroom
  obtain ⟨t, hxu, hread⟩ := h u hframe
  exact ⟨t, hxu, hframe.trans hread.framed, hread.mem ▸ hwf, logRoom_of_num hread.framed.me (fun _ _ => hread.num _ _) hroom,
    fun k _ => by rw [hread.mem]; rfl⟩

theorem writes_pure (s : State) (n : Nat) : Writes s (pure ()) [] n := writes_nil n fun u _ => ⟨u, rfl, .refl u⟩

theorem writes_counted (s : State) (hs : List Hit) : Writes s (upd fun s => s.counted hs) [] 0 :=
  writes_nil 0 fun u _ => ⟨_, rfl, counted_readOnly u hs⟩

theorem writes_logWrite (s : State) (va : Nat) : Writes s (logWrite va) [] 1 := by
  intro u m hframe hwf hroom
  have hstays : ∃ t, (Except.ok ((), u) : Except Stop (Unit × State)) = .ok ((), t) ∧ s.framed t ∧ t.mem.wf = true ∧
      Claims.logRoom t m ∧ Claims.wrote u t.mem [] :=
    ⟨u, rfl, hframe, hwf, logRoom_of_num rfl (fun _ _ => rfl) hroom, fun _ _ => rfl⟩
  unfold logWrite
  dsimp only
  split
  · exact hstays
  · split
    · exact hstays
    · split
      · exact hstays
      next c hc =>
        obtain ⟨t, happend, hframe', htwf, hnum, hout⟩ := appendLog_of_room u.me.job.toNat va hwf
          (core := c) (by have := hroom c hc; omega)
        simp only [happend]
        refine ⟨_, rfl, hframe.trans (hframe'.trans ⟨_, _, _, _, _, rfl⟩), htwf, fun c' hc' => ?_, fun k hk => ?_⟩
        · obtain rfl : c = c' := Option.some.inj (hc.symm.trans (hframe'.me ▸ hc'))
          have := hroom c hc
          show t.num _ 2 % 512 + m ≤ 511
          omega
        · exact hout k fun hin => hk ⟨c, hc, hin⟩

theorem writes_logPages (s : State) {k : Nat} {w0 : Word} (r : List Hit) (first last : Nat) :
    Writes s (logPages (⟨.cell k, w0⟩ :: r) first last) [] 2 := by
  unfold logPages
  dsimp only
  split
  · exact writes_pure s 2
  · exact (writes_logWrite s first).bind (writes_logWrite s last)

/-- Bytes a store may write at once: of this device, none in error, locked or in the dirty log. -/
structure State.writable (s : State) (hs : List Hit) : Prop where
  here : Claims.here s hs
  unlocked : Claims.unlocked s hs
  unlogged : ∀ k ∈ Claims.cells s hs, ¬ Claims.inLog s k

theorem State.writable.of_subset {s : State} {hs hs' : List Hit} (h : s.writable hs) (hsub : hs' ⊆ hs) : s.writable hs' :=
  ⟨here_of_subset h.here hsub, fun k hk => h.unlocked k (List.map_subset _ hsub hk),
    fun k hk => h.unlogged k (List.map_subset _ hsub hk)⟩

theorem writes_cells {s : State} (tval : Word) {hs : List Hit} (bs : List Byte) (hstores : s.me.stores = [])
    (h : s.writable hs) : Writes s (writeCells tval ((Claims.cells s hs).zip bs)) ((Claims.cells s hs).zip bs) 0 := by
  intro u m hframe hwf hroom
  obtain ⟨⟨_, hgood⟩, hunlocked, hlog⟩ := h
  have hcell : ∀ c ∈ (Claims.cells s hs).zip bs, c.1 ∈ Claims.cells s hs := fun c hc => (List.of_mem_zip hc).1
  have hqueued : u.queuedTo (((Claims.cells s hs).zip bs).map Prod.fst) = false := by
    rw [State.queuedTo, hframe.me, hstores]
    rfl
  have hfree : ((Claims.cells s hs).zip bs).any (fun c => u.locked c.1) = false :=
    List.any_eq_false.mpr fun c hc => Bool.not_eq_true _ ▸ (hframe.locked _).trans (hunlocked _ (hcell c hc))
  have hnone : ((Claims.cells s hs).zip bs).find? (fun c => u.badAt c.1) = none :=
    List.find?_eq_none.mpr fun c hc => Bool.not_eq_true _ ▸ (hframe.badAt _).trans (hgood _ (hcell c hc))
  refine ⟨u.setCells ((Claims.cells s hs).zip bs), ?_, hframe.trans ⟨_, _, _, _, _, rfl⟩, State.setCells_wf _ _ hwf,
    logRoom_of_num (u := u) rfl (fun c hc => ?_) hroom, fun _ _ => rfl⟩
  · simp only [writeCells, hqueued, hfree, hnone, Bool.or_self, Bool.false_eq_true, if_false]
  · have hkeeps : ∀ j < 2, (u.setCells ((Claims.cells s hs).zip bs)).mem.get (lsKey c 0xFF000 + j) =
        u.mem.get (lsKey c 0xFF000 + j) := fun j hj =>
      Memory.get_setAll_of_notMem _ _ _ hwf fun x hx heq =>
        hlog _ (hcell x hx) ⟨c, by rwa [← hframe.me], by omega, by omega⟩
    rw [num_two, num_two]
    exact congrArg₂ (fun x y : Byte => x.toNat + 256 * y.toNat) (hkeeps 0 (by omega)) (hkeeps 1 (by omega))

theorem writes_run {s : State} (a : Addr) {hs : List Hit} (bs : List Byte) (hstores : s.me.stores = [])
    (h : s.writable hs) : Writes s (writeRun true lineWait a hs bs) ((Claims.cells s hs).zip bs) 2 := by
  cases hs with
  | nil => exact writes_pure s 2
  | cons x r =>
    obtain ⟨k, hloc⟩ := Hit.isCell_iff.mp (isCell_of_here h.here List.mem_cons_self)
    obtain ⟨loc, w0⟩ := x
    obtain rfl : loc = .cell k := hloc
    have hsteps := (writes_logPages s (k := k) (w0 := w0) r a.val (a.add (bs.length - 1)).val).bind
      ((writes_counted s (⟨.cell k, w0⟩ :: r)).bind (writes_cells a.tval bs hstores h))
    intro u m hframe hwf hroom
    have hrun : writeRun true lineWait a (⟨.cell k, w0⟩ :: r) bs u =
        (logPages (⟨.cell k, w0⟩ :: r) a.val (a.add (bs.length - 1)).val >>= fun _ =>
          (upd fun s => s.counted (⟨.cell k, w0⟩ :: r)) >>= fun _ =>
          writeCells a.tval ((Claims.cells u (⟨.cell k, w0⟩ :: r)).zip bs)) u := rfl
    rw [hrun, hframe.cells]
    exact hsteps u m hframe hwf hroom

/-- An access goes two ways at most, so it takes four records at most. -/
theorem writes_hits {s : State} (a : Addr) {hs : List Hit} (bs : List Byte) (hstores : s.me.stores = [])
    (h : s.writable hs) : Writes s (writeHits true lineWait a hs bs) ((Claims.cells s hs).zip bs) 4 := by
  cases hs with
  | nil => exact writes_pure s 4
  | cons x r =>
    have hsplit : ∀ n, (Claims.cells s ((x :: r).take n)).zip (bs.take n) ++
        (Claims.cells s ((x :: r).drop n)).zip (bs.drop n) = (Claims.cells s (x :: r)).zip bs := fun n => by
      rw [Claims.cells, Claims.cells, List.map_take, List.map_drop, List.zip_eq_zipWith, List.zip_eq_zipWith,
        ← List.take_zipWith, ← List.drop_zipWith, List.take_append_drop]
      rfl
    rw [← hsplit (runLen x (x :: r))]
    exact (writes_run a _ hstores (h.of_subset (List.take_subset _ _))).bind
      (writes_run _ _ hstores (h.of_subset (List.drop_subset _ _)))

theorem writes_elems {s : State} (size : Nat) {as : List Addr} {hss : List (List Hit)} (vs : List Nat)
    (hlen : hss.length = as.length) (hstores : s.me.stores = []) (h : s.writable hss.flatten) :
    Writes s (writeElems size as hss vs) ((hss.zip vs).flatMap fun x => (Claims.cells s x.1).zip (leBytes size x.2))
      (as.length * 4) := by
  induction as generalizing hss vs with
  | nil =>
    rw [List.length_eq_zero_iff.mp hlen]
    exact writes_pure s _
  | cons a r ih =>
    cases hss with
    | nil => cases hlen
    | cons hs t =>
      rw [List.flatten_cons] at h
      cases vs with
      | nil => exact writes_pure s _
      | cons v l =>
        rw [List.zip_cons_cons, List.flatMap_cons, List.length_cons, Nat.succ_mul, Nat.add_comm]
        exact (writes_hits a _ hstores (h.of_subset (List.subset_append_left _ _))).bind
          (ih l (Nat.succ.inj hlen) (h.of_subset (List.subset_append_right _ _)))

/-! The whole of a line store. -/

theorem State.tallied.mem {s t : State} (h : s.tallied t) : t.mem = s.mem := by
  obtain ⟨_, _, _, rfl, _⟩ := h
  rfl

/-- A line store of 64 elements at most whose elements are checked and may be written at once (R109, R111, R126). -/
theorem lineStore_writable {ty : Ty} {x : Line} {base : Word} {os : List (Option Int)} {as : List Addr}
    {hss : List (List Hit)} {s s1 : State} (hcalm : s.calm) (hwf : s.mem.wf = true) (hstores : s.me.stores = [])
    (hroom : Claims.logRoom s 256) (hos : os.length ≤ 64)
    (haddrs : lineAddrs base (elemSize ty) (os.filterMap id) (s.issue 4) = .ok (as, s.issue 4))
    (hcheck : checkElems rW (elemSize ty) as (s.issue 4) = .ok (hss, s1)) (hclear : Claims.clear s hss.flatten)
    (hwritable : s.writable hss.flatten) :
    ∃ t, lineStore ty x base os (s.issue 4) = .ok ((), t) ∧ Claims.accessed s t t.mem id 4 ∧
      Claims.wrote s t.mem ((hss.zip (gatherActive os (lineElems ty x))).flatMap fun y =>
        (Claims.cells s y.1).zip (leBytes (elemSize ty) y.2)) := by
  obtain ⟨hread, hlen⟩ := checkElems_readOnly hcheck
  have hcalm' := State.calm_issue s 4 hcalm
  have hfree := soFree_of_clear (hread.framed.clear (clear_issue 4 hcalm hclear))
  have hfew : as.length ≤ 64 := by
    rw [lineAddrs_length haddrs]
    exact (List.length_filterMap_le _ _).trans hos
  have hroom' : Claims.logRoom s1 (as.length * 4 + (256 - as.length * 4)) := by
    refine logRoom_of_num (n := 0) hread.framed.me (fun _ _ => hread.num _ _) ?_
    rw [Nat.zero_add, Nat.add_sub_cancel' (by omega)]
    exact hroom
  obtain ⟨u, hwrites, hu, -, -, hwrote⟩ := writes_elems (s := s.issue 4) (elemSize ty) (gatherActive os (lineElems ty x)) hlen
    hstores ⟨hwritable.here, hwritable.unlocked, hwritable.unlogged⟩ s1 _ hread.framed (by rw [hread.mem]; exact hwf) hroom'
  obtain ⟨t, hcount, htally⟩ := countFirst_calm hss.flatten (hu.calm hcalm')
  refine ⟨t, ?_, ?_, ?_⟩
  · rw [lineStore, bind_ok _ _ _ _ _ haddrs, bind_ok _ _ _ _ _ hcheck, bind_ok _ _ _ _ _ hfree,
      bind_ok _ _ _ _ _ hwrites, hcount]
  · obtain ⟨mem, tlb, tier, agenda, queues, rfl⟩ := hu
    refine accessed_of ⟨tlb, tier, agenda, queues, ?_⟩ htally rfl rfl
    rw [htally.mem, issue_calm hcalm 4]
  · have hmem : t.mem = u.mem := htally.mem
    intro k hk
    rw [hmem, hwrote k ((hread.framed.inLog k).not.mpr hk)]
    exact Memory.get_setAll_congr _ (by rw [hread.mem]; exact hwf) hwf (by rw [hread.mem]; rfl)

/-! The line loads and stores as one access each. -/

theorem lineCount_le (ty : Ty) : lineCount ty ≤ 64 := by
  rw [lineCount]
  split <;> decide

/-- VLD and VGATH on k registers load from their base and offsets. -/
theorem exec_of_lineLd {i : Instr} {g : Guard} {d : Fin 8} {ty : Ty} {base : Word} {os : List (Option Int)} {rs : List Reg}
    {s : State} (hcalm : s.calm) (hplain : rs.all Reg.plain = true)
    (h : Claims.lineLd s.me i = some (g, d, ty, base, os, rs)) :
    i.len = 4 ∧ ∃ body, exec i s = line i g body s ∧ body (s.issue 4) = lineLoad ty (.k d) base os (s.issue 4) := by
  unfold Claims.lineLd at h
  split at h
  -- VLD
  next d a b ty g =>
    cases h
    rw [List.all_cons, List.all_cons, List.all_nil, Bool.and_true, Bool.and_eq_true] at hplain
    obtain ⟨ha, hb⟩ := hplain
    exact ⟨rfl, _, rfl, bind_ok _ _ _ _ _ (rd2_issue 4 hcalm ha hb)⟩
  -- VGATH
  next d a j ty g =>
    cases h
    rw [List.all_cons, List.all_nil, Bool.and_true] at hplain
    refine ⟨rfl, _, rfl, ?_⟩
    rw [bind_ok _ _ _ _ _ (rd_issue 4 hcalm hplain), bind_ok _ _ _ _ _ (rdLine_issue 4 j hcalm)]
  · cases h

/-- VST and VSCAT on k registers store the register at their base and offsets, 64 elements at most. -/
theorem exec_of_lineSt {i : Instr} {g : Guard} {d : Fin 8} {ty : Ty} {base : Word} {os : List (Option Int)} {rs : List Reg}
    {s : State} (hcalm : s.calm) (hplain : rs.all Reg.plain = true)
    (h : Claims.lineSt s.me i = some (g, d, ty, base, os, rs)) :
    i.len = 4 ∧ os.length ≤ 64 ∧
      ∃ body, exec i s = line i g body s ∧ body (s.issue 4) = lineStore ty s.me.k[d] base os (s.issue 4) := by
  unfold Claims.lineSt at h
  split at h
  -- VST
  next d a b ty g =>
    cases h
    rw [List.all_cons, List.all_cons, List.all_nil, Bool.and_true, Bool.and_eq_true] at hplain
    obtain ⟨ha, hb⟩ := hplain
    refine ⟨rfl, ?_, _, rfl, ?_⟩
    · rw [List.length_map, strides, List.length_map, List.length_range]
      exact lineCount_le ty
    · rw [bind_ok _ _ _ _ _ (rd2_issue 4 hcalm ha hb)]
      exact bind_ok _ _ _ _ _ (rdLine_issue 4 d hcalm)
  -- VSCAT
  next d a j ty g =>
    cases h
    rw [List.all_cons, List.all_nil, Bool.and_true] at hplain
    refine ⟨rfl, ?_, _, rfl, ?_⟩
    · rw [lineOffsets, List.length_map, List.length_range]
      exact lineCount_le ty
    · rw [bind_ok _ _ _ _ _ (rd_issue 4 hcalm hplain), bind_ok _ _ _ _ _ (rdLine_issue 4 j hcalm),
        bind_ok _ _ _ _ _ (rdLine_issue 4 d hcalm)]
  · cases h

end Sys2Proof.Machine
end

section
/-! PROOFS. The obligations of the line instructions (06_line_instructions): arithmetic, shuffles and reductions, loads and
stores, and streams. -/

namespace Sys2Proof.Machine

/-- Settles O20: each line instruction reads k registers and plain registers as they stand and writes its function of them. -/
theorem lineResult : Obligations.LineResult := by
  refine ⟨fun i n g d a b s hcalm hcore hg => ⟨fun f hi => ?line1, fun f hi => ?line2, fun f hi => ?line3⟩,
    fun d k r a b ty g s hcalm hcore hg hr ha hb => ⟨?vbcast, ?vget, ?vput, ?vrnd, fun i f hi => ?reduce⟩⟩
  case line1 =>
    obtain ⟨hlen, hexec⟩ := exec_of_line1 s hi
    rw [hexec, line_calm i g _ s hcalm hcore hg, hlen, bind_ok _ _ _ _ _ (rdLine_issue 4 a hcalm),
      wrLine_issue 4 d _ hcalm, finish]
    exact congrArg Host.Outcome.next (issued_congr rfl)
  case line2 =>
    obtain ⟨hlen, hexec⟩ := exec_of_line2 s hi
    rw [hexec, line_calm i g _ s hcalm hcore hg, hlen, bind_ok _ _ _ _ _ (rdLine_issue n a hcalm),
      bind_ok _ _ _ _ _ (rdLine_issue n b hcalm), wrLine_issue n d _ hcalm, finish]
    exact congrArg Host.Outcome.next (issued_congr rfl)
  case line3 =>
    obtain ⟨hlen, hexec⟩ := exec_of_line3 s hi
    rw [hexec, line_calm i g _ s hcalm hcore hg, hlen, line3, bind_ok _ _ _ _ _ (rdLine_issue n a hcalm),
      bind_ok _ _ _ _ _ (rdLine_issue n b hcalm), bind_ok _ _ _ _ _ (rdLineOld_issue n d hcalm),
      wrLine_issue n d _ hcalm, zip3Line, finish]
    exact congrArg Host.Outcome.next (issued_congr rfl)
  case vbcast =>
    have hlen : (Instr.vbcast (.k d) a ty g).len = 4 := rfl
    rw [exec, execVbcast, line_calm _ g _ s hcalm hcore hg, hlen, bind_ok _ _ _ _ _ (rd_issue 4 hcalm ha),
      wrLine_issue 4 d _ hcalm, bcast_eq, finish]
    exact congrArg Host.Outcome.next (issued_congr rfl)
  case vget =>
    have hlen : (Instr.vget r (.k k) b ty g).len = 4 := rfl
    rw [exec, execVget, line_calm _ g _ s hcalm hcore hg, hlen, bind_ok _ _ _ _ _ (rdLine_issue 4 k hcalm),
      bind_ok _ _ _ _ _ (rd_issue 4 hcalm hb), wr_issue 4 _ hcalm hr, finish]
    exact congrArg Host.Outcome.next (issued_congr rfl)
  case vput =>
    have hlen : (Instr.vput (.k d) a b ty g).len = 4 := rfl
    rw [exec, execVput, line_calm _ g _ s hcalm hcore hg, hlen, bind_ok _ _ _ _ _ (rd2_issue 4 hcalm ha hb)]
    dsimp only
    rw [bind_ok _ _ _ _ _ (rdLineOld_issue 4 d hcalm), wrLine_issue 4 d _ hcalm, finish]
    exact congrArg Host.Outcome.next (issued_congr rfl)
  case vrnd =>
    have hlen : (Instr.vrnd (.k d) (.k k) b ty g).len = 4 := rfl
    rw [exec, execVrnd, line_calm _ g _ s hcalm hcore hg, hlen, bind_ok _ _ _ _ _ (rdLine_issue 4 k hcalm),
      bind_ok _ _ _ _ _ (rd_issue 4 hcalm hb), wrLine_issue 4 d _ hcalm, mapLine_vrnd, finish]
    exact congrArg Host.Outcome.next (issued_congr rfl)
  case reduce =>
    obtain ⟨hlen, hexec⟩ := exec_of_lineReduce s hi
    rw [hexec, line_calm i g _ s hcalm hcore hg, hlen, reduce, bind_ok _ _ _ _ _ (rdLine_issue 4 k hcalm),
      wr_issue 4 _ hcalm hr, finish]
    exact congrArg Host.Outcome.next (issued_congr rfl)

/-- Settles O22: a load reads element by element what the strand sees and writes its register once; a store writes element by
element with four records of the dirty log at most for each, which is where the room for 256 comes from. -/
theorem lineMemoryResult : Obligations.LineMemoryResult := by
  refine ⟨fun i g d ty base os rs as hss s s1 hi hcalm hcore hg hplain haddrs hcheck hhere hclear => ?_,
    fun i g d ty base os rs as hss s s1 hi hcalm hcore hg hplain hwf hstores hroom haddrs hcheck hhere hclear hunlocked
      hlog => ?_⟩
  · obtain ⟨hlen, body, hexec, hbody⟩ := exec_of_lineLd hcalm hplain hi
    obtain ⟨t, hload, haccessed⟩ := lineLoad_here (d := d) hcalm haddrs hcheck hhere hclear
    refine ⟨t, ?_, haccessed⟩
    rw [hexec, line_calm i g _ s hcalm hcore hg, hlen, hbody, hload, finish]
  · obtain ⟨hlen, hcount, body, hexec, hbody⟩ := exec_of_lineSt hcalm hplain hi
    obtain ⟨t, hstore, haccessed, hwrote⟩ := lineStore_writable (x := s.me.k[d]) hcalm hwf hstores hroom hcount haddrs hcheck
      hclear ⟨hhere, hunlocked, hlog⟩
    refine ⟨t, ?_, haccessed, hwrote⟩
    rw [hexec, line_calm i g _ s hcalm hcore hg, hlen, hbody, hstore, finish]

/-- Settles O23: STRM and STRE end the binding there was, whose stores are performed, and STRM makes its own; a fetch ahead
puts what it gets at the end of the buffer. -/
theorem streamBinding : Obligations.StreamBinding := by
  refine ⟨fun i g s hcalm hcore hg hdone => ⟨fun a b ty ha hb hdims haligned => ?_, ?_⟩,
    fun i st s hi ht hhome hout hleft hroom => ⟨fun x u hfetch => ?_, fun cls detail tv hfetch => ?_⟩⟩
  · exact exec_strm hcalm hcore hg hdone ha hb hdims haligned
  · exact exec_stre hcalm hcore hg hdone
  · rw [exec_streamFetchAhead hi ht hhome hout hleft hroom, hfetch]
    rfl
  · rw [exec_streamFetchAhead hi ht hhome hout hleft hroom, hfetch]
    rfl

end Sys2Proof.Machine
end

section
/-! SUPPORT. Addresses of scalar accesses and the bytes checked for them (R110, R123, R125, R305). -/

namespace Sys2Proof.Machine

/-- A base with bits 63:56 clear gives a virtual address (R125). -/
theorem virt_of_top {a : Word} (o : Int) (s : State) (h : a.toNat / 2 ^ 56 = 0) :
    virt a o s = .ok (.v ((a.toNat + o) % 2 ^ 56).toNat, s) := by
  rw [virt, if_pos h]
  rfl

theorem virt_zero {a : Word} (s : State) (h : a.toNat / 2 ^ 56 = 0) : virt a 0 s = .ok (.v a.toNat, s) := by
  have haddr : (((a.toNat : Int) + 0) % 2 ^ 56).toNat = a.toNat := by omega
  rw [virt_of_top 0 s h, haddr]

theorem aligned_of {a : Addr} {n : Nat} (s : State) (h : a.val % n = 0) : aligned a n s = .ok ((), s) := by
  rw [aligned, if_pos h]
  rfl

/-- Each address has its hit. -/
theorem checkFrom_length {right lo : Nat} {as : List Addr} {s u : State} {hs : List Hit}
    (hx : checkFrom right lo as s = .ok (hs, u)) : hs.length = as.length := by
  induction as generalizing s hs with
  | nil => cases hx; rfl
  | cons a r ih =>
    obtain ⟨h, v, -, hrest⟩ := run_bind_eq_ok hx
    obtain ⟨l, w, hfrom, hpure⟩ := run_bind_eq_ok hrest
    cases hpure
    exact congrArg (· + 1) (ih hfrom)

theorem check_length {right n : Nat} {a : Addr} {s u : State} {hs : List Hit} (hx : check right a n s = .ok (hs, u)) :
    hs.length = n := by
  rw [checkFrom_length hx, span, List.length_map, List.length_range]

/-- The hit of an aperture address is no byte of this device (R305). -/
theorem not_isCell_of_inAperture {right lo x : Nat} {s u : State} {h : Hit} (hap : inAperture x = true)
    (hx : checkByte right lo (.v x) s = .ok (h, u)) : h.isCell = false := by
  unfold checkByte at hx
  split at hx
  · cases hx
  · dsimp only at hx
    rw [if_pos hap] at hx
    split at hx <;> cases hx
    rfl

/-- An access that reaches bytes of this device names no aperture address (R305). -/
theorem not_inAperture_of_check {right n x : Nat} {s u : State} {hs : List Hit} (hx : x < 2 ^ 56) (hn : 0 < n)
    (hcheck : check right (.v x) n s = .ok (hs, u)) (hcells : hs.all Hit.isCell = true) : inAperture x = false := by
  obtain ⟨n, rfl⟩ := Nat.exists_eq_succ_of_ne_zero hn.ne'
  have hspan : span (.v x) (n + 1) = .v x :: (List.range n).map fun i => Addr.add (i + 1) (.v x) := by
    rw [span, List.range_succ_eq_map, List.map_cons, List.map_map, Addr.add, Nat.add_zero, Nat.mod_eq_of_lt hx]
    rfl
  rw [check, hspan] at hcheck
  obtain ⟨h, v, hbyte, hrest⟩ := run_bind_eq_ok hcheck
  obtain ⟨l, w, -, hpure⟩ := run_bind_eq_ok hrest
  cases hpure
  rw [List.all_cons, Bool.and_eq_true] at hcells
  obtain ⟨hcell, -⟩ := hcells
  refine Bool.eq_false_iff.mpr fun hap => ?_
  rw [not_isCell_of_inAperture hap hbyte] at hcell
  cases hcell

theorem nearHome_calm (hs : List Hit) {s : State} (h : s.calm) : nearHome hs s = .ok ((), s) := by
  simp [nearHome, h.notAbroad]

/-- What a well-formed scalar access fulfils (R20, R125, Table 7.3). -/
theorem formed_iff {x : Claims.Access} : x.formed = true ↔
    (x.near = false → x.base.toNat / 2 ^ 56 = 0) ∧ x.addr.val % x.align = 0 ∧ x.srcs.all Reg.plain = true ∧
      x.regs.all Reg.plain = true := by
  simp only [Claims.Access.formed, Bool.and_eq_true, Bool.or_eq_true, decide_eq_true_eq, and_assoc]
  cases x.near <;> simp

end Sys2Proof.Machine
end

section
/-! SUPPORT. Scalar loads of this device's bytes (R122, R125, R334). -/

namespace Sys2Proof.Machine

/-! Registers written one after another (R65, R66). -/

/-- To write a register changes none of what makes a strand calm. -/
theorem calm_result {s : State} (d : Reg) (v : Word) (h : s.calm) : State.calm { s with me := s.me.result d v } := by
  cases d <;> exact h

theorem calm_results {s : State} (ds : List Reg) (vs : List Word) (h : s.calm) :
    State.calm { s with me := Claims.results s.me ds vs } := by
  induction ds generalizing s vs with
  | nil => exact h
  | cons d r ih =>
    cases vs with
    | nil => exact h
    | cons v vs => exact ih vs (calm_result d v h)

theorem result_trh (t : Strand) (d : Reg) (v : Word) : (t.result d v).trh = t.trh := by
  cases d <;> rfl

theorem result_status (t : Strand) (d : Reg) (v : Word) : (t.result d v).status = t.status := by
  cases d <;> rfl

theorem results_trh (t : Strand) (ds : List Reg) (vs : List Word) : (Claims.results t ds vs).trh = t.trh := by
  induction ds generalizing t vs with
  | nil => rfl
  | cons d r ih =>
    cases vs with
    | nil => rfl
    | cons v vs => rw [Claims.results, ih, result_trh]

theorem results_status (t : Strand) (ds : List Reg) (vs : List Word) : (Claims.results t ds vs).status = t.status := by
  induction ds generalizing t vs with
  | nil => rfl
  | cons d r ih =>
    cases vs with
    | nil => rfl
    | cons v vs => rw [Claims.results, ih, result_status]

/-- Registers are written without regard to pc and the watchdog's count. -/
theorem results_at (t : Strand) (ds : List Reg) (vs : List Word) (pc : BitVec 48) (clk : Word) :
    Claims.results { t with pc := pc, lastIssue := clk } ds vs =
      { Claims.results t ds vs with pc := pc, lastIssue := clk } := by
  induction ds generalizing t vs with
  | nil => rfl
  | cons d r ih =>
    cases vs with
    | nil => rfl
    | cons v vs => rw [Claims.results, result_at, ih, Claims.results]

theorem wrAll_plain {ds : List Reg} (vs : List Word) {s : State} (h : s.calm) (hds : ds.all Reg.plain = true) :
    wrAll ds vs s = .ok ((), { s with me := Claims.results s.me ds vs }) := by
  induction ds generalizing s vs with
  | nil => rfl
  | cons d r ih =>
    rw [List.all_cons, Bool.and_eq_true] at hds
    obtain ⟨hd, hr⟩ := hds
    cases vs with
    | nil => rfl
    | cons v vs =>
      rw [wrAll, bind_ok _ _ _ _ _ (wr_plain d v s h hd), ih vs (calm_result d v h) hr]
      rfl

theorem issued_results {s : State} {n : Nat} {ds : List Reg} {vs : List Word} (hcalm : s.calm) :
    { s.issue n with me := Claims.results (s.issue n).me ds vs } = s.issued n fun u => Claims.results u ds vs := by
  rw [issue_calm hcalm n]
  exact congrArg (fun t => { s with me := t }) (results_at ..)

/-! The whole of a scalar load. -/

/-- A load of checked bytes of this device reads what the strand sees there and writes its registers (R125, R334). -/
theorem loadAt_here {ds : List Reg} {size n la : Nat} {sx : Bool} {a : Addr} {hs : List Hit} {s s1 : State} (hcalm : s.calm)
    (hds : ds.all Reg.plain = true) (hcheck : check rR a size (s.issue n) = .ok (hs, s1)) (hhere : Claims.here s hs)
    (hclear : Claims.clear s hs) :
    ∃ t, loadAt ds size sx la a (s.issue n) = .ok ((), t) ∧ Claims.accessed s t s.mem
      (fun u => Claims.results u ds (loadValues ds.length sx ((Claims.cells s hs).map s.see))) n := by
  have hread := checkFrom_readOnly hcheck
  have hcalm' := hread.framed.calm (State.calm_issue s n hcalm)
  have hfree := soFree_of_clear (hread.framed.clear (clear_issue n hcalm hclear))
  have hhere' : Claims.here s1 hs := hread.framed.here (s := s.issue n) hhere
  have hcounted := counted_readOnly s1 hs
  have hwrite := wrAll_plain (loadValues ds.length sx ((Claims.cells s1 hs).map s1.see)) (hcounted.framed.calm hcalm') hds
  obtain ⟨t, hcount, htally⟩ := countFirst_calm hs (calm_results ds
    (loadValues ds.length sx ((Claims.cells s1 hs).map s1.see)) (hcounted.framed.calm hcalm'))
  refine ⟨t, ?_, accessed_of ?_ htally (results_trh ..) (results_status ..)⟩
  · rw [loadAt, bind_ok _ _ _ _ _ hcheck, bind_ok _ _ _ _ _ (nearHome_calm hs hcalm'), bind_ok _ _ _ _ _ hfree,
      bind_ok _ _ _ _ _ rfl, if_neg (Bool.eq_false_iff.mp (not_away_of_here hhere')), bind_ok _ _ _ _ _ (readHits_here _ hhere'),
      bind_ok _ _ _ _ _ hwrite]
    exact hcount
  · obtain ⟨⟨mem, tlb, tier, agenda, queues, hframe⟩, hmem⟩ := hread.trans hcounted
    refine ⟨tlb, tier, agenda, queues, ?_⟩
    obtain rfl : mem = s.mem := by rw [hframe] at hmem; exact hmem
    rw [hread.see, hread.framed.cells, ← issued_results hcalm, hframe]
    rfl

/-- Each scalar load is a load at its address (Table 7.2). -/
theorem exec_of_load {i : Instr} {x : Claims.Access} {s : State} (hcalm : s.calm) (hg : s.me.guarded x.guard = true)
    (hformed : x.formed = true) (hi : Claims.load s.me i = some x) :
    exec i s = finishLong x.len x.la x.regs none s (loadAt x.regs x.size x.sx x.la x.addr (s.issue x.len)) := by
  obtain ⟨hbase, haligned, hsrcs, -⟩ := formed_iff.mp hformed
  unfold Claims.load at hi
  split at hi <;> cases hi
  all_goals simp only [List.all_cons, List.all_nil, Bool.and_true, Bool.and_eq_true] at hsrcs
  -- LD
  · rw [exec, execLd, long_calm _ _ _ _ _ s hcalm hg, bind_ok _ _ _ _ _ (rd_issue 4 hcalm hsrcs),
      bind_ok _ _ _ _ _ (virt_of_top _ _ (hbase rfl))]
    rfl
  -- LDL
  · rw [exec, execLdl, long_calm _ _ _ _ _ s hcalm hg, bind_ok _ _ _ _ _ (rd_issue 4 hcalm hsrcs)]
    rfl
  -- LDX
  · obtain ⟨ha, hb⟩ := hsrcs
    rw [exec, execLdx, long_calm _ _ _ _ _ s hcalm hg, bind_ok _ _ _ _ _ (rd_issue 4 hcalm ha),
      bind_ok _ _ _ _ _ (rd_issue 4 hcalm hb), bind_ok _ _ _ _ _ (virt_of_top _ _ (hbase rfl))]
    rfl
  -- LDL as a 16-bit instruction
  · rw [exec, execCompactLdl, long_calm _ _ _ _ _ s hcalm hg, bind_ok _ _ _ _ _ (rd_issue 2 hcalm hsrcs)]
    rfl
  -- LDA of a pair
  · rw [exec, execLda, long_calm _ _ _ _ _ s hcalm hg, bind_ok _ _ _ _ _ (rd_issue 4 hcalm hsrcs),
      bind_ok _ _ _ _ _ (virt_of_top _ _ (hbase rfl))]
    exact congrArg (finishLong 4 _ _ none s) (bind_ok _ _ _ _ _ (aligned_of _ haligned))
  -- LDA of one register
  · rw [exec, execLda, long_calm _ _ _ _ _ s hcalm hg, bind_ok _ _ _ _ _ (rd_issue 4 hcalm hsrcs),
      bind_ok _ _ _ _ _ (virt_of_top _ _ (hbase rfl))]
    exact congrArg (finishLong 4 _ _ none s) (bind_ok _ _ _ _ _ (aligned_of _ haligned))

end Sys2Proof.Machine
end

section
/-! SUPPORT. Bytes of this device that a store writes at once (R126, R137, R275, R285, R334). -/

namespace Sys2Proof.Machine

theorem queuedTo_of_subset {s : State} {ks ks' : List Nat} (hsub : ks ⊆ ks') (h : s.queuedTo ks' = false) :
    s.queuedTo ks = false := by
  simp only [State.queuedTo, List.any_eq_false] at h ⊢
  intro p hp hmeets
  obtain ⟨c, hc, hmem⟩ := List.any_eq_true.mp hmeets
  exact h p hp (List.any_eq_true.mpr ⟨c, hc, List.contains_iff_mem.mpr (hsub (List.contains_iff_mem.mp hmem))⟩)

theorem queuedTo_of_no_stores {s : State} (ks : List Nat) (h : s.me.stores = []) : s.queuedTo ks = false := by
  rw [State.queuedTo, h]
  rfl

/-- Bytes of this device that the strand may write: none in error or locked, and no queued store of the strand goes first. -/
structure State.storable (s : State) (hs : List Hit) : Prop where
  here : Claims.here s hs
  unlocked : Claims.unlocked s hs
  unqueued : s.queuedTo (Claims.cells s hs) = false

theorem State.storable.of_subset {s : State} {hs hs' : List Hit} (h : s.storable hs) (hsub : hs' ⊆ hs) : s.storable hs' :=
  ⟨here_of_subset h.here hsub, fun k hk => h.unlocked k (List.map_subset _ hsub hk),
    queuedTo_of_subset (List.map_subset _ hsub) h.unqueued⟩

theorem State.framed.storable {s t : State} {hs : List Hit} (hframe : s.framed t) (h : s.storable hs) : t.storable hs := by
  refine ⟨hframe.here h.here, fun k hk => ?_, ?_⟩
  · rw [hframe.cells] at hk
    rw [hframe.locked, h.unlocked k hk]
  · rw [hframe.cells, State.queuedTo, hframe.me]
    exact h.unqueued

theorem State.framed.atOnce {s t : State} (hframe : s.framed t) : atOnce t = atOnce s := by
  funext h
  rw [Machine.atOnce, hframe.me, Machine.atOnce]

theorem writeCells_storable {s : State} {hs : List Hit} (tval : Word) (bs : List Byte) (h : s.storable hs) :
    writeCells tval ((Claims.cells s hs).zip bs) s = .ok ((), s.setCells ((Claims.cells s hs).zip bs)) := by
  obtain ⟨⟨-, hgood⟩, hunlocked, hunqueued⟩ := h
  have hcell : ∀ c ∈ (Claims.cells s hs).zip bs, c.1 ∈ Claims.cells s hs := fun c hc => (List.of_mem_zip hc).1
  have hqueued : s.queuedTo (((Claims.cells s hs).zip bs).map Prod.fst) = false :=
    queuedTo_of_subset (fun k hk => by
      obtain ⟨c, hc, rfl⟩ := List.mem_map.mp hk
      exact hcell c hc) hunqueued
  have hfree : ((Claims.cells s hs).zip bs).any (fun c => s.locked c.1) = false :=
    List.any_eq_false.mpr fun c hc => Bool.not_eq_true _ ▸ hunlocked _ (hcell c hc)
  have hnone : ((Claims.cells s hs).zip bs).find? (fun c => s.badAt c.1) = none :=
    List.find?_eq_none.mpr fun c hc => Bool.not_eq_true _ ▸ hgood _ (hcell c hc)
  simp only [writeCells, hqueued, hfree, hnone, Bool.or_self, Bool.false_eq_true, if_false]

/-- A queued store of this device's bytes (R126). -/
def State.piece (s : State) (a : Addr) (cs : List (Nat × Byte)) : PendStore :=
  { dev := 0, job := s.me.job.toNat, va := a.val, cells := cs }

/-- Bytes of this device that go the same way are logged and counted, and then written at once or queued (R126). -/
theorem writeRun_of_isCell {h : Hit} (hcell : h.isCell = true) (w : Wait) (a : Addr) (r : List Hit) (bs : List Byte)
    (s : State) : writeRun false w a (h :: r) bs s =
      (logPages (h :: r) a.val (a.add (bs.length - 1)).val >>= fun _ => (upd fun s => s.counted (h :: r)) >>= fun _ =>
        if (h :: r).all (atOnce s) = true then writeCells a.tval ((Claims.cells s (h :: r)).zip bs)
        else queueStore (s.piece a ((Claims.cells s (h :: r)).zip bs))) s := by
  obtain ⟨loc, w0⟩ := h
  obtain ⟨k, rfl⟩ : ∃ k, loc = .cell k := Hit.isCell_iff.mp hcell
  rfl

/-! The two runs of an access are its bytes up to some point and those from there on. -/

theorem cells_zip_take (s : State) (hs : List Hit) (bs : List Byte) (n : Nat) :
    (Claims.cells s (hs.take n)).zip (bs.take n) = ((Claims.cells s hs).zip bs).take n := by
  rw [Claims.cells, Claims.cells, List.map_take]
  exact List.take_zipWith.symm

theorem cells_zip_drop (s : State) (hs : List Hit) (bs : List Byte) (n : Nat) :
    (Claims.cells s (hs.drop n)).zip (bs.drop n) = ((Claims.cells s hs).zip bs).drop n := by
  rw [Claims.cells, Claims.cells, List.map_drop]
  exact List.drop_zipWith.symm

theorem cells_zip_split (s : State) (hs : List Hit) (bs : List Byte) (n : Nat) :
    (Claims.cells s (hs.take n)).zip (bs.take n) ++ (Claims.cells s (hs.drop n)).zip (bs.drop n) =
      (Claims.cells s hs).zip bs := by
  rw [cells_zip_take, cells_zip_drop, List.take_append_drop]

/-! Local store of the core the strand runs on: no page is logged (R126, R289). -/

/-- Every byte lies in the local store of the core the strand runs on. -/
def State.owns (s : State) (hs : List Hit) : Prop :=
  ∀ k ∈ Claims.cells s hs, isLs k = true ∧ k / 2 ^ 20 % 4096 = s.me.core

theorem State.owns.of_subset {s : State} {hs hs' : List Hit} (h : s.owns hs) (hsub : hs' ⊆ hs) : s.owns hs' :=
  fun k hk => h k (List.map_subset _ hsub hk)

theorem State.framed.owns {s t : State} {hs : List Hit} (hframe : s.framed t) (h : s.owns hs) : t.owns hs := by
  intro k hk
  rw [hframe.cells] at hk
  rw [hframe.me]
  exact h k hk

theorem atOnce_of_owns {s : State} {hs : List Hit} (hhere : Claims.here s hs) (h : s.owns hs) :
    hs.all (atOnce s) = true := by
  refine List.all_eq_true.mpr fun x hx => ?_
  obtain ⟨k, hloc⟩ := Hit.isCell_iff.mp (isCell_of_here hhere hx)
  have hcell : cellOf s.me.job.toNat x = k := by rw [cellOf, hloc]
  obtain ⟨hls, hcore⟩ := h k (hcell ▸ List.mem_map_of_mem hx)
  simp only [atOnce, hloc, hls, hcore, beq_self_eq_true, Bool.and_self, Bool.true_or]

theorem logPages_of_owns {s : State} {h : Hit} {r : List Hit} (hcell : h.isCell = true) (hown : s.owns (h :: r))
    (first last : Nat) (t : State) : logPages (h :: r) first last t = .ok ((), t) := by
  obtain ⟨loc, w0⟩ := h
  obtain ⟨k, rfl⟩ : ∃ k, loc = .cell k := Hit.isCell_iff.mp hcell
  obtain ⟨hls, -⟩ := hown k List.mem_cons_self
  rw [logPages, if_pos hls]
  rfl

theorem writeRun_own {s : State} {hs : List Hit} (w : Wait) (a : Addr) (bs : List Byte) (h : s.storable hs)
    (hown : s.owns hs) :
    ∃ t, writeRun false w a hs bs s = .ok ((), t) ∧ s.framed t ∧ t.mem = s.mem.setAll ((Claims.cells s hs).zip bs) := by
  cases hs with
  | nil => exact ⟨s, rfl, .refl s, rfl⟩
  | cons x r =>
    have hcell := isCell_of_here h.here List.mem_cons_self
    have hcounted := counted_readOnly s (x :: r)
    refine ⟨(s.counted (x :: r)).setCells ((Claims.cells s (x :: r)).zip bs), ?_, hcounted.framed.trans ⟨_, _, _, _, _, rfl⟩,
      congrArg (Memory.setAll · _) hcounted.mem⟩
    rw [writeRun_of_isCell hcell, bind_ok _ _ _ _ _ (logPages_of_owns hcell hown _ _ s), bind_ok _ _ _ _ _ rfl,
      if_pos (atOnce_of_owns h.here hown), ← hcounted.framed.cells, writeCells_storable _ _ (hcounted.framed.storable h)]

theorem writeHits_own {s : State} {hs : List Hit} (w : Wait) (a : Addr) (bs : List Byte) (h : s.storable hs)
    (hown : s.owns hs) :
    ∃ t, writeHits false w a hs bs s = .ok ((), t) ∧ s.framed t ∧ t.mem = s.mem.setAll ((Claims.cells s hs).zip bs) := by
  cases hs with
  | nil => exact ⟨s, rfl, .refl s, rfl⟩
  | cons x r =>
    generalize hn : runLen x (x :: r) = n
    have hdrop := List.drop_subset n (x :: r)
    obtain ⟨u, hfirst, hu, hmem⟩ := writeRun_own w a (bs.take n) (h.of_subset (List.take_subset n _))
      (hown.of_subset (List.take_subset n _))
    obtain ⟨t, hsecond, ht, hmem'⟩ := writeRun_own w (a.add n) (bs.drop n) (hu.storable (h.of_subset hdrop))
      (hu.owns (hown.of_subset hdrop))
    refine ⟨t, ?_, hu.trans ht, ?_⟩
    · rw [writeHits, hn, bind_ok _ _ _ _ _ hfirst, hsecond]
    · rw [hmem', hmem, hu.cells, ← Memory.setAll_append, cells_zip_split]

/-! Bytes written at once wherever they lie: the pages are logged first (R285, R289). -/

theorem logRoom_setCells {s : State} {cs : List (Nat × Byte)} {m : Nat} (hwf : s.mem.wf = true)
    (hout : ∀ c ∈ cs, ¬ Claims.inLog s c.1) (hroom : Claims.logRoom s m) : Claims.logRoom (s.setCells cs) m := by
  refine logRoom_of_num (u := s) (n := 0) rfl (fun c hc => ?_) (by rwa [Nat.zero_add])
  have hkeeps : ∀ j < 2, (s.setCells cs).mem.get (lsKey c 0xFF000 + j) = s.mem.get (lsKey c 0xFF000 + j) := fun j hj =>
    Memory.get_setAll_of_notMem _ _ _ hwf fun x hx heq => hout x hx ⟨c, hc, by omega, by omega⟩
  rw [num_two, num_two]
  exact congrArg₂ (fun x y : Byte => x.toNat + 256 * y.toNat) (hkeeps 0 (by omega)) (hkeeps 1 (by omega))

/-- Every byte lies outside the dirty log. -/
def State.unlogged (s : State) (hs : List Hit) : Prop := ∀ k ∈ Claims.cells s hs, ¬ Claims.inLog s k

theorem State.unlogged.of_subset {s : State} {hs hs' : List Hit} (h : s.unlogged hs) (hsub : hs' ⊆ hs) : s.unlogged hs' :=
  fun k hk => h k (List.map_subset _ hsub hk)

theorem State.readOnly.logRoom {s t : State} {m : Nat} (h : s.readOnly t) (hroom : Claims.logRoom s m) :
    Claims.logRoom t m :=
  logRoom_of_num (n := 0) h.framed.me (fun _ _ => h.num _ _) (by rwa [Nat.zero_add])

theorem writes_storable {s : State} (tval : Word) {hs : List Hit} (bs : List Byte) (h : s.storable hs)
    (hout : s.unlogged hs) : Writes s (writeCells tval ((Claims.cells s hs).zip bs)) ((Claims.cells s hs).zip bs) 0 := by
  intro u m hframe hwf hroom
  have hwrite := writeCells_storable tval bs (hframe.storable h)
  rw [hframe.cells] at hwrite
  refine ⟨_, hwrite, hframe.trans ⟨_, _, _, _, _, rfl⟩, State.setCells_wf _ _ hwf, logRoom_setCells hwf (fun c hc => ?_) ?_,
    fun _ _ => rfl⟩
  · rw [hframe.inLog]
    exact hout _ (List.of_mem_zip hc).1
  · rwa [Nat.zero_add] at hroom

theorem writes_run_atOnce {s : State} (w : Wait) (a : Addr) {hs : List Hit} (bs : List Byte) (h : s.storable hs)
    (hout : s.unlogged hs) (hnow : hs.all (atOnce s) = true) :
    Writes s (writeRun false w a hs bs) ((Claims.cells s hs).zip bs) 2 := by
  cases hs with
  | nil => exact writes_pure s 2
  | cons x r =>
    have hcell := isCell_of_here h.here List.mem_cons_self
    intro u m hframe hwf hroom
    rw [writeRun_of_isCell hcell, hframe.atOnce, if_pos hnow, hframe.cells]
    obtain ⟨loc, w0⟩ := x
    obtain ⟨k, rfl⟩ : ∃ k, loc = .cell k := Hit.isCell_iff.mp hcell
    exact ((writes_logPages s r a.val (a.add (bs.length - 1)).val).bind
      ((writes_counted s _).bind (writes_storable a.tval bs h hout))) u m hframe hwf hroom

theorem writes_hits_atOnce {s : State} (w : Wait) (a : Addr) {hs : List Hit} (bs : List Byte) (h : s.storable hs)
    (hout : s.unlogged hs) (hnow : hs.all (atOnce s) = true) :
    Writes s (writeHits false w a hs bs) ((Claims.cells s hs).zip bs) 4 := by
  cases hs with
  | nil => exact writes_pure s 4
  | cons x r =>
    have hsub : ∀ {hs'}, hs' ⊆ x :: r → hs'.all (atOnce s) = true := fun hsub =>
      List.all_eq_true.mpr fun y hy => List.all_eq_true.mp hnow y (hsub hy)
    rw [← cells_zip_split s (x :: r) bs (runLen x (x :: r))]
    have htake := List.take_subset (runLen x (x :: r)) (x :: r)
    have hdrop := List.drop_subset (runLen x (x :: r)) (x :: r)
    exact (writes_run_atOnce w a _ (h.of_subset htake) (hout.of_subset htake) (hsub htake)).bind
      (writes_run_atOnce w _ _ (h.of_subset hdrop) (hout.of_subset hdrop) (hsub hdrop))

end Sys2Proof.Machine
end

section
/-! SUPPORT. Stores that join the store queue, and a queued store performed (R126, R335). -/

namespace Sys2Proof.Machine

/-- The state with some stores at the end of the strand's queue. -/
def State.stored (s : State) (ps : List PendStore) : State := { s with me := { s.me with stores := s.me.stores ++ ps } }

/-- The queue has places for n more stores (R126). -/
def State.storeRoom (s : State) (n : Nat) : Prop := (s.me.stores.filter fun q => q.kind == 1).length + n ≤ 8

/-- The performance of a queued store of the strand, as it falls due. -/
def State.performDue (s : State) : Due := { ev := .storePerform, arg := { sid := s.me.sid.toNat } }

/-- From s, stores have joined the queue and their performance is due; memory changed in the dirty log alone, which has room
for m more records. -/
structure State.queuesUp (s t : State) (ps : List PendStore) (m : Nat) : Prop where
  framed : (s.stored ps).framed t
  wf : t.mem.wf = true
  room : Claims.logRoom t m
  logOnly : Claims.logOnly s t.mem
  due : s.performDue ∈ t.agenda

theorem State.stored_append (s : State) (ps qs : List PendStore) : (s.stored ps).stored qs = s.stored (ps ++ qs) := by
  rw [State.stored, State.stored, State.stored]
  exact congrArg (fun l => { s with me := { s.me with stores := l } }) (List.append_assoc _ _ _)

theorem State.framed.stored {s t : State} (h : s.framed t) (ps : List PendStore) : (s.stored ps).framed (t.stored ps) := by
  obtain ⟨_, _, _, _, _, rfl⟩ := h
  exact ⟨_, _, _, _, _, rfl⟩

theorem due_readOnly (s : State) (ev : Instr) (arg : Arg) : s.readOnly (s.due ev arg) := ⟨⟨_, _, _, _, _, rfl⟩, rfl⟩

theorem State.framed.pieces {s t : State} (h : s.framed t) (a : Addr) (hs : List Hit) (bs : List Byte) :
    Claims.pieces t a hs bs = Claims.pieces s a hs bs := by
  cases hs with
  | nil => rfl
  | cons x r => rw [Claims.pieces, Claims.pieces, h.cells, h.me]

theorem State.queuesUp.trans {s t u : State} {ps qs : List PendStore} {m m' : Nat} (h : s.queuesUp t ps m)
    (h' : t.queuesUp u qs m') : s.queuesUp u (ps ++ qs) m' := by
  have hme : t.me = (s.stored ps).me := h.framed.me
  refine ⟨?_, h'.wf, h'.room, fun k hk => ?_, ?_⟩
  · rw [← State.stored_append]
    exact (h.framed.stored qs).trans h'.framed
  · have hk' : ¬ Claims.inLog t k := by
      rw [h.framed.inLog]
      exact hk
    rw [h'.logOnly k hk', h.logOnly k hk]
  · have hdue := h'.due
    rw [State.performDue, hme] at hdue
    exact hdue

/-- The kind of a scalar store takes a place of the queue (R126). -/
theorem queueStore_of_room {s : State} (a : Addr) (cs : List (Nat × Byte)) (hroom : s.storeRoom 1) :
    queueStore (s.piece a cs) s = .ok ((), (s.stored [s.piece a cs]).due .storePerform { sid := s.me.sid.toNat }) := by
  have hfull : ¬ 8 ≤ (s.me.stores.filter fun q => q.kind == 1).length := Nat.not_le.mpr hroom
  rw [queueStore, decide_eq_false hfull, Bool.and_false, if_neg Bool.false_ne_true]
  rfl

theorem writeRun_queues {s : State} {x : Hit} {r : List Hit} (w : Wait) (a : Addr) (bs : List Byte) (m : Nat)
    (hwf : s.mem.wf = true) (hhere : Claims.here s (x :: r)) (hlater : ∀ h ∈ x :: r, atOnce s h = false)
    (hroom : s.storeRoom 1) (hlog : Claims.logRoom s (2 + m)) :
    ∃ t, writeRun false w a (x :: r) bs s = .ok ((), t) ∧
      s.queuesUp t [s.piece a ((Claims.cells s (x :: r)).zip bs)] m := by
  have hcell := isCell_of_here hhere List.mem_cons_self
  have hnow : ¬ (x :: r).all (atOnce s) = true := by
    rw [List.all_cons, hlater x List.mem_cons_self, Bool.false_and]
    exact Bool.false_ne_true
  rw [writeRun_of_isCell hcell, if_neg hnow]
  obtain ⟨loc, w0⟩ := x
  obtain ⟨k, rfl⟩ : ∃ k, loc = .cell k := Hit.isCell_iff.mp hcell
  obtain ⟨u, hsteps, hu, huwf, hulog, huwrote⟩ := ((writes_logPages s (k := k) (w0 := w0) r a.val
    (a.add (bs.length - 1)).val).bind (writes_counted s (⟨.cell k, w0⟩ :: r))) s m (.refl s) hwf hlog
  have hpiece : ∀ cs, s.piece a cs = u.piece a cs := fun cs => by rw [State.piece, State.piece, hu.me]
  have hroom' : u.storeRoom 1 := by
    rw [State.storeRoom, hu.me]
    exact hroom
  generalize hp : s.piece a ((Claims.cells s (⟨.cell k, w0⟩ :: r)).zip bs) = p
  have hqueue : queueStore p u = .ok ((), (u.stored [p]).due .storePerform { sid := u.me.sid.toNat }) := by
    rw [← hp, hpiece]
    exact queueStore_of_room a _ hroom'
  have hdue := due_readOnly (u.stored [p]) .storePerform { sid := u.me.sid.toNat }
  refine ⟨(u.stored [p]).due .storePerform { sid := u.me.sid.toNat }, ?_, (hu.stored [p]).trans hdue.framed, huwf, ?_,
    huwrote, ?_⟩
  · rw [← bind_assoc, bind_ok _ _ _ _ _ hsteps, hqueue]
  · exact hulog
  · rw [State.performDue, ← hu.me]
    exact List.mem_append_right _ List.mem_cons_self

theorem State.storeRoom.mono {s : State} {n m : Nat} (h : s.storeRoom n) (hle : m ≤ n) : s.storeRoom m :=
  (Nat.add_le_add_left hle _).trans h

theorem State.queuesUp.storeRoom {s t : State} {ps : List PendStore} {m n : Nat} (h : s.queuesUp t ps m)
    (hroom : s.storeRoom (ps.length + n)) : t.storeRoom n := by
  have hfew := List.length_filter_le (fun q : PendStore => q.kind == 1) ps
  rw [State.storeRoom] at hroom ⊢
  rw [h.framed.me, State.stored, List.filter_append, List.length_append]
  omega

theorem runLen_pos (x : Hit) (r : List Hit) : 0 < runLen x (x :: r) := by
  have hsame : sameWay x x = true := by
    unfold sameWay
    cases x.loc <;> simp
  rw [runLen, if_pos hsame]
  exact Nat.succ_pos _

/-- An access whose bytes are not written at once queues its one or two runs (R126, R335). -/
theorem writeHits_queues {s : State} {hs : List Hit} (w : Wait) (a : Addr) (bs : List Byte) (hne : hs ≠ [])
    (hwf : s.mem.wf = true) (hhere : Claims.here s hs) (hlater : ∀ h ∈ hs, atOnce s h = false)
    (hroom : s.storeRoom (Claims.pieces s a hs bs).length) (hlog : Claims.logRoom s 4) :
    ∃ t, writeHits false w a hs bs s = .ok ((), t) ∧ s.queuesUp t (Claims.pieces s a hs bs) 0 := by
  obtain ⟨x, r, rfl⟩ := List.exists_cons_of_ne_nil hne
  obtain ⟨n, hn⟩ : ∃ n, runLen x (x :: r) = n + 1 := ⟨_, (Nat.succ_pred_eq_of_pos (runLen_pos x r)).symm⟩
  have hcons : (x :: r).take (n + 1) = x :: r.take n := rfl
  have htake := List.take_subset (n + 1) (x :: r)
  have hdrop := List.drop_subset (n + 1) (x :: r)
  have hpieces : Claims.pieces s a (x :: r) bs = s.piece a ((Claims.cells s ((x :: r).take (n + 1))).zip (bs.take (n + 1))) ::
      (if (x :: r).length ≤ n + 1 then [] else
        [s.piece (a.add (n + 1)) ((Claims.cells s ((x :: r).drop (n + 1))).zip (bs.drop (n + 1)))]) := by
    rw [cells_zip_take, cells_zip_drop, Claims.pieces, hn]
    rfl
  rw [hpieces] at hroom ⊢
  rw [hcons] at hroom htake ⊢
  obtain ⟨u, hfirst, hu⟩ := writeRun_queues w a (bs.take (n + 1)) 2 hwf (here_of_subset hhere htake)
    (fun h hh => hlater h (htake hh)) (hroom.mono (Nat.le_add_left 1 _)) hlog
  have hhits : writeHits false w a (x :: r) bs s =
      writeRun false w (a.add (n + 1)) ((x :: r).drop (n + 1)) (bs.drop (n + 1)) u := by
    rw [writeHits, hn, hcons, bind_ok _ _ _ _ _ hfirst]
  rw [hhits]
  split_ifs at hroom ⊢ with hlast
  · rw [List.drop_eq_nil_of_le hlast]
    exact ⟨u, rfl, hu.framed, hu.wf, logRoom_of_num rfl (fun _ _ => rfl) hu.room, hu.logOnly, hu.due⟩
  · obtain ⟨y, l, hyl⟩ := List.exists_cons_of_length_pos (List.length_drop ▸ Nat.sub_pos_of_lt (Nat.not_le.mp hlast))
    rw [hyl] at hdrop ⊢
    have hlater' : ∀ h ∈ y :: l, atOnce u h = false := fun h hh => by
      rw [hu.framed.atOnce]
      exact hlater h (hdrop hh)
    obtain ⟨t, hsecond, ht⟩ := writeRun_queues w (a.add (n + 1)) (bs.drop (n + 1)) 0 hu.wf
      (hu.framed.here (here_of_subset hhere hdrop)) hlater' (hu.storeRoom hroom) hu.room
    refine ⟨t, hsecond, ?_⟩
    rw [hu.framed.cells, State.piece, hu.framed.me] at ht
    exact hu.trans ht

theorem perform_of_good {s : State} {p : PendStore} (sid : Nat) (h : ∀ c ∈ p.cells, s.badAt c.1 = false) :
    s.perform sid p = s.setCells p.cells := by
  have hfilter : p.cells.filter (fun c => !s.badAt c.1) = p.cells :=
    List.filter_eq_self.mpr fun c hc => by rw [h c hc]; rfl
  have hnone : p.cells.find? (fun c => s.badAt c.1) = none :=
    List.find?_eq_none.mpr fun c hc => Bool.not_eq_true _ ▸ h c hc
  simp only [State.perform, hfilter, hnone]

/-- A strand's only queued store, of this device's bytes, is performed: its bytes are written and it leaves the queue (R126). -/
theorem exec_storePerform_only {s : State} {p : PendStore} (hstores : s.me.stores = [p]) (hvas : p.vas = [])
    (hdev : p.dev ≠ aperture) (hso : p.so = false) (hgood : ∀ c ∈ p.cells, s.badAt c.1 = false ∧ s.locked c.1 = false) :
    exec .storePerform s = .next { s with me := { s.me with stores := [] }, mem := s.mem.setAll p.cells } := by
  have hunlocked : p.cells.any (fun c => s.locked c.1) = false :=
    List.any_eq_false.mpr fun c hc => Bool.not_eq_true _ ▸ (hgood c hc).2
  have hmay : s.mayPerform [] p = true := by
    rw [State.mayPerform, hunlocked, hso, bne_iff_ne.mpr hdev]
    rfl
  have hcandidates : s.choose (s.candidates [] s.me.stores) = some 0 := by
    rw [hstores, State.candidates, State.candidates, hmay]
    rfl
  have hfirst : s.me.stores[0]? = some p := by rw [hstores]; rfl
  rw [exec, execStorePerform]
  simp only [hcandidates, hfirst, hdev, hvas, if_false, List.isEmpty_nil, if_true]
  rw [hstores]
  exact congrArg Host.Outcome.next (perform_of_good _ fun c hc => (hgood c hc).1)

end Sys2Proof.Machine
end

section
/-! SUPPORT. Scalar stores of this device's bytes (R122, R125, R126, R228). -/

namespace Sys2Proof.Machine

/-! The count by home takes no move away from the units (R228). -/

theorem depart_agenda (s : State) (core reason : Nat) : s.agenda ⊆ (s.depart core reason).agenda := by
  rw [State.depart]
  split
  · exact fun d hd => List.mem_append_left _ (List.mem_append_left _ hd)
  · exact List.subset_append_left _ _

theorem countAccess_agenda {s : State} (h : Hit) (hcalm : s.calm) :
    ∃ t, countAccess h s = .ok ((), t) ∧ s.agenda ⊆ t.agenda := by
  have ⟨_, hpend, _⟩ := hcalm
  unfold countAccess
  split
  next k _ =>
    dsimp only
    split
    · split
      · exact ⟨s, rfl, List.Subset.refl _⟩
      · generalize (if s.me.rac.toNat % 65536 = _ then _ else _ : Nat) = n
        split
        · exact ⟨_, rfl, List.Subset.refl s.agenda⟩
        · exact ⟨_, if_pos (List.isEmpty_iff.mpr hpend), depart_agenda { s with me := { s.me with rac := 0 } } _ _⟩
    · exact ⟨s, rfl, List.Subset.refl _⟩
  next => exact ⟨s, rfl, List.Subset.refl _⟩

theorem countFirst_agenda {s t : State} {hs : List Hit} (hcalm : s.calm) (hcount : countFirst hs s = .ok ((), t)) :
    s.agenda ⊆ t.agenda := by
  cases hs with
  | nil => cases hcount; exact List.Subset.refl _
  | cons h r =>
    obtain ⟨u, hcount', hagenda⟩ := countAccess_agenda h hcalm
    have heq : (Except.ok ((), u) : Except Stop (Unit × State)) = .ok ((), t) := hcount'.symm.trans hcount
    cases heq
    exact hagenda

/-! The whole of a scalar store. -/

/-- A store of checked bytes writes them as it is told and counts them (R126, R228). -/
theorem storeAt_of_writeHits {n la : Nat} {a : Addr} {bs : List Byte} {hs : List Hit} {s s1 u : State} (hcalm : s.calm)
    (hcheck : check rW a bs.length (s.issue n) = .ok (hs, s1)) (hclear : Claims.clear s hs)
    (hwrite : writeHits false { la, holds := true } a hs bs s1 = .ok ((), u)) (hcalm' : u.calm) :
    ∃ t, storeAt la bs a (s.issue n) = .ok ((), t) ∧ u.tallied t ∧ u.agenda ⊆ t.agenda := by
  have hread := checkFrom_readOnly hcheck
  have hfree := soFree_of_clear (hread.framed.clear (clear_issue n hcalm hclear))
  obtain ⟨t, hcount, htally⟩ := countFirst_calm hs hcalm'
  refine ⟨t, ?_, htally, countFirst_agenda hcalm' hcount⟩
  rw [storeAt, bind_ok _ _ _ _ _ hcheck,
    bind_ok _ _ _ _ _ (nearHome_calm hs (hread.framed.calm (State.calm_issue s n hcalm))), bind_ok _ _ _ _ _ hfree,
    bind_ok _ _ _ _ _ hwrite, hcount]

/-- STA checks its alignment, and that its address lies outside the aperture (R305). -/
theorem storeAt_aligned {n la : Nat} {a : Addr} {bs : List Byte} {s : State} (haligned : a.val % n = 0)
    (hap : inAperture a.val = false) :
    (aligned a n >>= fun _ => need (!inAperture a.val) (trap 5 0 a.tval) >>= fun _ => storeAt la bs a) s =
      storeAt la bs a s := by
  rw [bind_ok _ _ _ _ _ (aligned_of s haligned), bind_ok _ _ _ _ _ (need_of_true _ s (by rw [hap]; rfl))]

/-- Each scalar store is a store of its bytes at its address (Table 7.2). -/
theorem exec_of_store {i : Instr} {x : Claims.Access} {s : State} (hcalm : s.calm) (hg : s.me.guarded x.guard = true)
    (hformed : x.formed = true) (hap : x.near = false → inAperture x.addr.val = false)
    (hi : Claims.store s.me i = some x) :
    exec i s = finishLong x.len x.la [] none s (storeAt x.la x.data x.addr (s.issue x.len)) := by
  obtain ⟨hbase, haligned, hsrcs, -⟩ := formed_iff.mp hformed
  unfold Claims.store at hi
  split at hi <;> cases hi
  all_goals simp only [List.all_cons, List.all_nil, Bool.and_true, Bool.and_eq_true] at hsrcs
  -- ST
  · obtain ⟨ha, hd⟩ := hsrcs
    rw [exec, execSt, long_calm _ _ _ _ _ s hcalm hg, bind_ok _ _ _ _ _ (rd_issue 4 hcalm ha),
      bind_ok _ _ _ _ _ (rd_issue 4 hcalm hd), bind_ok _ _ _ _ _ (virt_of_top _ _ (hbase rfl))]
    rfl
  -- STL
  · obtain ⟨ha, hd⟩ := hsrcs
    rw [exec, execStl, long_calm _ _ _ _ _ s hcalm hg, bind_ok _ _ _ _ _ (rd_issue 4 hcalm ha),
      bind_ok _ _ _ _ _ (rd_issue 4 hcalm hd)]
    rfl
  -- STX
  · obtain ⟨ha, hb, hd⟩ := hsrcs
    rw [exec, execStx, long_calm _ _ _ _ _ s hcalm hg, bind_ok _ _ _ _ _ (rd_issue 4 hcalm ha),
      bind_ok _ _ _ _ _ (rd_issue 4 hcalm hb), bind_ok _ _ _ _ _ (rd_issue 4 hcalm hd),
      bind_ok _ _ _ _ _ (virt_of_top _ _ (hbase rfl))]
    rfl
  -- STL as a 16-bit instruction
  · obtain ⟨ha, hd⟩ := hsrcs
    rw [exec, execCompactStl, long_calm _ _ _ _ _ s hcalm hg, bind_ok _ _ _ _ _ (rd_issue 2 hcalm ha),
      bind_ok _ _ _ _ _ (rd_issue 2 hcalm hd)]
    rfl
  -- STA of a pair
  next d a off la =>
    obtain ⟨ha, hd, hd'⟩ := hsrcs
    have htake : (lowBytes 8 (s.me.src d) ++ lowBytes 8 (s.me.src (Reg.next d))).take 16 =
        lowBytes 8 (s.me.src d) ++ lowBytes 8 (s.me.src (Reg.next d)) :=
      List.take_of_length_le (by simp [lowBytes, length_leBytes])
    rw [exec, execSta, long_calm _ _ _ _ _ s hcalm hg, bind_ok _ _ _ _ _ (rd_issue 4 hcalm ha),
      bind_ok _ _ _ _ _ (rd_issue 4 hcalm hd), if_pos rfl, bind_ok _ _ _ _ _ (rd_issue 4 hcalm hd')]
    dsimp only
    rw [bind_ok _ _ _ _ _ (virt_of_top _ _ (hbase rfl)), asize, pairSize, if_pos rfl, htake]
    exact congrArg (finishLong 4 _ _ none s) (storeAt_aligned haligned (hap rfl))
  -- STA of one register
  next d a off sz la =>
    obtain ⟨ha, hd⟩ := hsrcs
    have htake : (lowBytes (asize sz) (s.me.src d) ++ lowBytes 8 0).take (asize sz) = lowBytes (asize sz) (s.me.src d) :=
      List.take_left' (length_leBytes _ _)
    rw [exec, execSta, long_calm _ _ _ _ _ s hcalm hg, bind_ok _ _ _ _ _ (rd_issue 4 hcalm ha),
      bind_ok _ _ _ _ _ (rd_issue 4 hcalm hd), if_neg Bool.false_ne_true, bind_ok _ _ _ _ _ rfl]
    dsimp only
    rw [bind_ok _ _ _ _ _ (virt_of_top _ _ (hbase rfl)), pairSize, if_neg Bool.false_ne_true, htake]
    exact congrArg (finishLong 4 _ _ none s) (storeAt_aligned haligned (hap rfl))

theorem length_of_store {t : Strand} {i : Instr} {x : Claims.Access} (hi : Claims.store t i = some x) :
    x.data.length = x.size ∧ 0 < x.size := by
  have hpos : ∀ sz, 0 < asize sz := fun sz => by cases sz <;> decide
  unfold Claims.store at hi
  split at hi <;> cases hi <;> simp [length_leBytes, hpos]

theorem access_not_inAperture {x : Claims.Access} {right : Nat} {s u : State} {hs : List Hit} (hsize : 0 < x.size)
    (hcheck : check right x.addr x.size s = .ok (hs, u)) (hcells : hs.all Hit.isCell = true) (hnear : x.near = false) :
    inAperture x.addr.val = false := by
  have haddr : x.addr = .v ((x.base.toNat + x.off) % 2 ^ 56).toNat := by
    rw [Claims.Access.addr, hnear]
    rfl
  rw [haddr] at hcheck ⊢
  exact not_inAperture_of_check (x := ((x.base.toNat + x.off) % 2 ^ 56).toNat) (by omega) hsize hcheck hcells

/-- What makes an instruction a store of this device's bytes: the instruction, and its bytes as they are checked. -/
structure StoreHere (i : Instr) (x : Claims.Access) (s s1 : State) (hs : List Hit) : Prop where
  store : Claims.store s.me i = some x
  calm : s.calm
  guarded : s.me.guarded x.guard = true
  formed : x.formed = true
  check : check rW x.addr x.size (s.issue x.len) = .ok (hs, s1)
  here : Claims.here s hs
  clear : Claims.clear s hs

section
variable {i : Instr} {x : Claims.Access} {s s1 : State} {hs : List Hit} (h : StoreHere i x s s1 hs)
include h

theorem StoreHere.readOnly : (s.issue x.len).readOnly s1 := checkFrom_readOnly h.check

theorem StoreHere.calm' : s1.calm := h.readOnly.framed.calm (State.calm_issue s x.len h.calm)

theorem StoreHere.ne_nil : hs ≠ [] := by
  obtain ⟨-, hsize⟩ := length_of_store h.store
  have hlen := check_length h.check
  exact List.ne_nil_of_length_pos (by omega)

/-- The store answers what its writing of the bytes answers, but for the count by home (R228). -/
theorem StoreHere.exec_eq {u : State} (hwrite : writeHits false { la := x.la, holds := true } x.addr hs x.data s1 = .ok ((), u))
    (hcalm : u.calm) : ∃ t, exec i s = .next t ∧ u.tallied t ∧ u.agenda ⊆ t.agenda := by
  obtain ⟨hlen, hsize⟩ := length_of_store h.store
  obtain ⟨hcells, -⟩ := h.here
  obtain ⟨t, hstore, htally, hagenda⟩ := storeAt_of_writeHits h.calm (hlen ▸ h.check) h.clear hwrite hcalm
  refine ⟨t, ?_, htally, hagenda⟩
  rw [exec_of_store h.calm h.guarded h.formed (access_not_inAperture hsize h.check hcells) h.store, hstore, finishLong]

end

/-- What writing and counting leave of a strand that has issued. -/
theorem accessed_of_framed {s u t : State} {n : Nat} {ps : List PendStore} (hcalm : s.calm)
    (hframe : ((s.issue n).stored ps).framed u) (htally : u.tallied t) :
    Claims.accessed s t t.mem (fun v => { v with stores := v.stores ++ ps }) n := by
  obtain ⟨mem, tlb, tier, agenda, queues, rfl⟩ := hframe
  refine accessed_of ⟨tlb, tier, agenda, queues, ?_⟩ htally rfl rfl
  rw [htally.mem, issue_calm hcalm n]
  rfl

/-- The same where nothing is queued. -/
theorem accessed_of_framed_id {s u t : State} {n : Nat} (hcalm : s.calm) (hframe : (s.issue n).framed u)
    (htally : u.tallied t) : Claims.accessed s t t.mem id n := by
  obtain ⟨mem, tlb, tier, agenda, queues, rfl⟩ := hframe
  refine accessed_of ⟨tlb, tier, agenda, queues, ?_⟩ htally rfl rfl
  rw [htally.mem, issue_calm hcalm n]

section
variable {i : Instr} {x : Claims.Access} {s s1 : State} {hs : List Hit} (h : StoreHere i x s s1 hs) (hwf : s.mem.wf = true)
include h hwf

/-- A store to the core's own local store writes its bytes and nothing else (R126). -/
theorem StoreHere.own (hunlocked : Claims.unlocked s hs) (hunqueued : s.queuedTo (Claims.cells s hs) = false)
    (hown : s.owns hs) : ∃ t, exec i s = .next t ∧
      Claims.accessed s t (s.mem.setAll ((Claims.cells s hs).zip x.data)) id x.len ∧
      ∀ k, k ∉ Claims.cells s hs → t.mem.get k = s.mem.get k := by
  have hframe := h.readOnly.framed
  obtain ⟨u, hwrite, hu, hmem⟩ := writeHits_own { la := x.la, holds := true } x.addr x.data
    (hframe.storable (s := s.issue x.len) ⟨h.here, hunlocked, hunqueued⟩) (hframe.owns (s := s.issue x.len) hown)
  obtain ⟨t, hexec, htally, -⟩ := h.exec_eq hwrite (hu.calm h.calm')
  have hmem' : t.mem = s.mem.setAll ((Claims.cells s hs).zip x.data) := by
    rw [htally.mem, hmem, h.readOnly.mem, hframe.cells]
    rfl
  refine ⟨t, hexec, hmem' ▸ accessed_of_framed_id h.calm (hframe.trans hu) htally, fun k hk => ?_⟩
  rw [hmem']
  exact Memory.get_setAll_of_notMem _ _ _ hwf fun c hc heq => hk (heq ▸ (List.of_mem_zip hc).1)

variable (hroom : Claims.logRoom s 4)
include hroom

/-- A store whose bytes are all written at once logs its pages, four records at most, and writes them (R126, R285, R289). -/
theorem StoreHere.now (hunlocked : Claims.unlocked s hs) (hunqueued : s.queuedTo (Claims.cells s hs) = false)
    (hnow : hs.all (atOnce s) = true) (hout : s.unlogged hs) : ∃ t, exec i s = .next t ∧
      Claims.accessed s t t.mem id x.len ∧ Claims.wrote s t.mem ((Claims.cells s hs).zip x.data) := by
  have hread := h.readOnly
  obtain ⟨u, hwrite, hu, -, -, hwrote⟩ := writes_hits_atOnce (s := s.issue x.len) { la := x.la, holds := true } x.addr
    x.data ⟨h.here, hunlocked, hunqueued⟩ hout hnow s1 0 hread.framed (hread.mem ▸ hwf) (hread.logRoom (s := s.issue x.len) hroom)
  obtain ⟨t, hexec, htally, -⟩ := h.exec_eq hwrite (hu.calm (State.calm_issue s x.len h.calm))
  refine ⟨t, hexec, accessed_of_framed_id h.calm hu htally, fun k hk => ?_⟩
  rw [htally.mem, hwrote k ((hread.framed.inLog k).not.mpr hk), hread.mem]
  rfl

/-- A store none of whose bytes is written at once joins the queue in one or two pieces (R126, R335). -/
theorem StoreHere.later (hlater : ∀ y ∈ hs, atOnce s y = false)
    (hfew : s.storeRoom (Claims.pieces s x.addr hs x.data).length) : ∃ t, exec i s = .next t ∧ Claims.logOnly s t.mem ∧
      Claims.accessed s t t.mem (fun u => { u with stores := u.stores ++ Claims.pieces s x.addr hs x.data }) x.len ∧
      s.performDue ∈ t.agenda := by
  have hread := h.readOnly
  have hpieces := hread.framed.pieces x.addr hs x.data
  have hfew' : s1.storeRoom (Claims.pieces s1 x.addr hs x.data).length := by
    rw [hpieces, State.storeRoom, hread.framed.me]
    exact hfew
  obtain ⟨u, hwrite, hu⟩ := writeHits_queues { la := x.la, holds := true } x.addr x.data h.ne_nil (hread.mem ▸ hwf)
    (hread.framed.here (s := s.issue x.len) h.here) (hread.framed.atOnce ▸ hlater) hfew'
    (hread.logRoom (s := s.issue x.len) hroom)
  rw [hpieces] at hu
  obtain ⟨t, hexec, htally, hagenda⟩ := h.exec_eq hwrite (hu.framed.calm h.calm')
  refine ⟨t, hexec, fun k hk => ?_, accessed_of_framed h.calm ((hread.framed.stored _).trans hu.framed) htally, hagenda ?_⟩
  · rw [htally.mem, hu.logOnly k ((hread.framed.inLog k).not.mpr hk), hread.mem]
    rfl
  · have hdue := hu.due
    rw [State.performDue, hread.framed.me] at hdue
    exact hdue

end

end Sys2Proof.Machine
end

section
/-! SUPPORT. Atomic operations on a word of this device, and the remote line add (R129, R134, R225). -/

namespace Sys2Proof.Machine

/-! Words and destinations of a calm strand. -/

theorem tval_toNat (x : Word) : Addr.tval (.v x.toNat) = x :=
  (BitVec.ofNat_toNat 64 x).trans (BitVec.setWidth_eq x)

theorem see_of_no_stores {s : State} (h : s.me.stores = []) : s.see = s.mem.get := by
  funext k
  rw [State.see, h]
  rfl

theorem State.storable_of_no_stores {s : State} {hs : List Hit} (hstores : s.me.stores = []) (hhere : Claims.here s hs)
    (hunlocked : Claims.unlocked s hs) : s.storable hs :=
  ⟨hhere, hunlocked, queuedTo_of_no_stores _ hstores⟩

/-- The number that checked bytes spell in memory. -/
def State.wordAt (s : State) (hs : List Hit) : Word := toW (leNat ((Claims.cells s hs).map s.mem.get))

theorem State.readOnly.wordAt {s t : State} (h : s.readOnly t) (hs : List Hit) : t.wordAt hs = s.wordAt hs := by
  rw [State.wordAt, State.wordAt, h.framed.cells, h.mem]

theorem State.readOnly.logOnly {s t : State} {m : Memory} (h : s.readOnly t) (hm : Claims.logOnly t m) :
    Claims.logOnly s m := by
  intro k hk
  rw [hm k ((h.framed.inLog k).not.mpr hk), h.mem]

/-- Bytes of this device are read as memory holds them while the strand has no store queued. -/
theorem State.readOnly.readHits {s u : State} {hs : List Hit} (h : s.readOnly u) (hstores : s.me.stores = [])
    (hhere : Claims.here s hs) (tval : Word) :
    readHits tval hs u = .ok ((Claims.cells s hs).map s.mem.get, u.counted hs) := by
  rw [readHits_here tval (h.framed.here hhere), h.see, h.framed.cells, see_of_no_stores hstores]

theorem readWord_here (a : Addr) {hs : List Hit} {s : State} (hstores : s.me.stores = []) (h : Claims.here s hs) :
    readWord a hs s = .ok (s.wordAt hs, s.counted hs) := by
  rw [readWord, bind_ok _ _ _ _ _ (readHits_here a.tval h), see_of_no_stores hstores]
  rfl

/-- A plain destination is no stream, which is all that is asked of it before the operation (R129). -/
theorem farDest_plain {d : Reg} (s : State) (hd : d.plain = true) : farDest d s = .ok ((), s) := by
  cases d with
  | t i => cases hd
  | _ => rfl

/-- At home a register written from afar is written as any other (R129). -/
theorem wrFar_plain (d : Reg) (v : Word) (s : State) (h : s.calm) (hd : d.plain = true) :
    wrFar d v s = .ok ((), { s with me := s.me.result d v }) := by
  rw [← wr_plain d v s h hd]
  cases d with
  | m i =>
    have ⟨hstay, hpend, hcore⟩ := h
    have hnear : State.calm { s with me := s.me.shift v } := ⟨hstay, congrArg (List.map _) hpend, hcore⟩
    rw [wr, bind_ok _ _ _ () { s with me := s.me.shift v } rfl, place, bind_ok _ _ _ _ _ (nearM_calm _ hnear)]
    rfl
  | _ => rfl

/-! A word logged and written (R129, R289). -/

/-- The page is logged, and the bytes are written over what that leaves. -/
theorem logAndWrite {s : State} {hs : List Hit} (va : Nat) (tval : Word) (bs : List Byte) (hwf : s.mem.wf = true)
    (h : s.storable hs) (hroom : Claims.logRoom s 2) :
    ∃ (t : State) (m : Memory), (logWrite va >>= fun _ => writeCells tval ((Claims.cells s hs).zip bs)) s = .ok ((), t) ∧
      s.framed t ∧ Claims.logOnly s m ∧ t.mem = m.setAll ((Claims.cells s hs).zip bs) := by
  obtain ⟨u, hlog, hu, -, -, hwrote⟩ := writes_logWrite s va s 1 (.refl s) hwf hroom
  have hwrite := writeCells_storable tval bs (hu.storable h)
  rw [hu.cells] at hwrite
  refine ⟨u.setCells ((Claims.cells s hs).zip bs), u.mem, ?_, hu.trans ⟨_, _, _, _, _, rfl⟩, hwrote, rfl⟩
  rw [bind_ok _ _ _ _ _ hlog, hwrite]

/-- An AMO at its word's home reads the word and leaves there what the operation gives, where it writes (R129). -/
theorem amoAt_here {s : State} {hs : List Hit} (op : Nat) (a : Addr) (b c : Word) (hwf : s.mem.wf = true)
    (hstores : s.me.stores = []) (h : s.storable hs) (hroom : Claims.logRoom s 2) :
    ∃ (t : State) (m : Memory), amoAt op a b c hs s = .ok (s.wordAt hs, t) ∧ s.framed t ∧ Claims.logOnly s m ∧
      t.mem = if amoWrites op (s.wordAt hs) c then
        m.setAll ((Claims.cells s hs).zip (leBytes 8 (amoNew op (s.wordAt hs) b c).toNat)) else m := by
  have hcounted := counted_readOnly s hs
  rw [amoAt, bind_ok _ _ _ _ _ (readWord_here a hstores h.here)]
  cases hwrites : amoWrites op (s.wordAt hs) c with
  | false => exact ⟨s.counted hs, s.mem, rfl, hcounted.framed, fun _ _ => rfl, hcounted.mem⟩
  | true =>
    obtain ⟨t, m, hwrite, ht, hm, hmem⟩ := logAndWrite (s := s.counted hs) a.val a.tval
      (leBytes 8 (amoNew op (s.wordAt hs) b c).toNat) (hcounted.mem ▸ hwf)
      (hcounted.framed.storable h) (hcounted.logRoom hroom)
    rw [hcounted.framed.cells] at hmem
    refine ⟨t, m, ?_, hcounted.framed.trans ht, hcounted.logOnly hm, hmem⟩
    rw [if_pos rfl, bind_ok _ _ _ _ _ rfl, ← bind_assoc]
    exact bind_ok _ _ _ _ _ hwrite

/-! The AMO as an instruction. -/

/-- Each AMO is one operation on its word (Table 7.4). -/
theorem exec_of_amo {i : Instr} {d a b : Reg} {g : Guard} {f : Word → Word → Word → Option Word} (s : State)
    (hi : Claims.amo i = some (d, a, b, g, f)) :
    ∃ op, exec i s = short 4 g (amo op d a b) s ∧ op < 8 ∧
      ∀ x y z, f x y z = if amoWrites op x z then some (amoNew op x y z) else none := by
  unfold Claims.amo at hi
  split at hi <;> cases hi
  · exact ⟨0, rfl, by decide, fun _ _ _ => rfl⟩
  · exact ⟨1, rfl, by decide, fun _ _ _ => rfl⟩
  · exact ⟨2, rfl, by decide, fun _ _ _ => rfl⟩
  · exact ⟨3, rfl, by decide, fun _ _ _ => rfl⟩
  · exact ⟨4, rfl, by decide, fun _ _ _ => rfl⟩
  · exact ⟨5, rfl, by decide, fun _ _ _ => rfl⟩
  · exact ⟨6, rfl, by decide, fun _ _ _ => rfl⟩
  · refine ⟨7, rfl, by decide, fun x y z => ?_⟩
    by_cases h : x = z <;> simp [amoWrites, amoNew, h]

/-- What makes an instruction an atomic operation on n bytes of this device: its strand, and the bytes as they are checked. -/
structure AtomicHere (n : Nat) (a : Reg) (s s1 : State) (h : Hit) (r : List Hit) : Prop where
  calm : s.calm
  plain : a.plain = true
  noStores : s.me.stores = []
  top : (s.me.src a).toNat / 2 ^ 56 = 0
  aligned : (s.me.src a).toNat % n = 0
  check : check rRW (.v (s.me.src a).toNat) n (s.issue 4) = .ok (h :: r, s1)
  here : Claims.here s (h :: r)
  clear : Claims.clear s (h :: r)

/-- An AMO at its word's home (R129). -/
def atomicNear (op : Nat) (d : Reg) (a : Addr) (b c : Word) (hs : List Hit) : M Unit := do
  let old ← amoAt op a b c hs
  wrFar d old

/-- An LRW at its line's home (R132). -/
def reserveNear (d : Reg) (a : Addr) (b c : Word) (core line : Nat) : M Unit := do
  await [d] (.atomic 8 a.tval b c none) 0
  fun s =>
    match takePend Pending.isCarried s.me with
    | none => .error .wait
    | some (p, t) => .ok ((), reserveAt p a core line { s with me := t })

/-- An atomic operation whose word has another home in the package: the strand starts for it (R225). -/
def atomicAway (op : Nat) (d : Reg) (a : Addr) (b c : Word) (core : Nat) : M Unit := do
  settledAll
  await [d] (.atomic op a.tval b c none) 0
  upd fun s => s.depart core (if op = 8 then 2 else 1)

theorem State.framed.home {s t : State} (h : s.framed t) : t.home = s.home := by
  obtain ⟨_, _, _, _, _, rfl⟩ := h
  rfl

theorem State.framed.imageCore {s t : State} (h : s.framed t) : t.imageCore = s.imageCore := by
  obtain ⟨_, _, _, _, _, rfl⟩ := h
  rfl

section
variable {n : Nat} {a : Reg} {s s1 : State} {h : Hit} {r : List Hit} (hat : AtomicHere n a s s1 h r)
include hat

theorem AtomicHere.readOnly : (s.issue 4).readOnly s1 := checkFrom_readOnly hat.check

theorem AtomicHere.calm' : s1.calm := hat.readOnly.framed.calm (State.calm_issue s 4 hat.calm)

theorem AtomicHere.noStores' : s1.me.stores = [] := by
  rw [hat.readOnly.framed.me]
  exact hat.noStores

theorem AtomicHere.wf' (hwf : s.mem.wf = true) : s1.mem.wf = true := by
  rw [hat.readOnly.mem]
  exact hwf

theorem AtomicHere.here' : Claims.here s1 (h :: r) := hat.readOnly.framed.here (s := s.issue 4) hat.here

theorem AtomicHere.storable' (hunlocked : Claims.unlocked s (h :: r)) : s1.storable (h :: r) :=
  hat.readOnly.framed.storable (s := s.issue 4) (State.storable_of_no_stores hat.noStores hat.here hunlocked)

theorem AtomicHere.logRoom' {m : Nat} (hroom : Claims.logRoom s m) : Claims.logRoom s1 m :=
  hat.readOnly.logRoom hroom

theorem AtomicHere.soFree : soFree (h :: r) s1 = .ok ((), s1) :=
  soFree_of_clear (hat.readOnly.framed.clear (clear_issue 4 hat.calm hat.clear))

end

section
variable {a : Reg} {s s1 : State} {h : Hit} {r : List Hit} (hat : AtomicHere 8 a s s1 h r)
include hat

theorem AtomicHere.hits : atomicHits (.v (s.me.src a).toNat) (s.issue 4) = .ok (h :: r, s1) := by
  rw [atomicHits, bind_ok _ _ _ _ _ (aligned_of _ hat.aligned), hat.check]

/-- An atomic operation on a word of this device: at its home, or on the way there (R129, R132, R225). -/
theorem atomicGo_here {op core : Nat} {d : Reg} {b c : Word} (hd : d.plain = true)
    (hcore : core = s.home (cellOf s.me.job.toNat h)) (himage : s.imageCore core = true) :
    atomicGo op d (.v (s.me.src a).toNat) b c (s.issue 4) =
      (if core = s.me.core then
        if op = 8 then reserveNear d (.v (s.me.src a).toNat) b c core (lineOf (cellOf s.me.job.toNat h))
        else atomicNear op d (.v (s.me.src a).toNat) b c (h :: r)
      else atomicAway op d (.v (s.me.src a).toNat) b c core) s1 := by
  obtain ⟨loc, w0⟩ := h
  obtain ⟨k, rfl⟩ : ∃ k, loc = .cell k := Hit.isCell_iff.mp (isCell_of_here hat.here List.mem_cons_self)
  have hhome : s1.home k = core := by
    rw [hat.readOnly.framed.home, hcore]
    rfl
  have himage' : s1.imageCore core = true := by
    rw [hat.readOnly.framed.imageCore]
    exact himage
  have hme : s1.me.core = s.me.core := by rw [hat.readOnly.framed.me]; rfl
  rw [atomicGo, bind_ok _ _ _ _ _ hat.hits, bind_ok _ _ _ _ _ hat.soFree, bind_ok _ _ _ _ _ rfl]
  dsimp only
  rw [hhome, bind_ok _ _ _ _ _ (need_of_true _ _ himage'),
    if_neg (Bool.eq_false_iff.mp (queuedTo_of_no_stores _ hat.noStores')), bind_ok _ _ _ _ _ (farDest_plain s1 hd), hme]
  simp only [beq_iff_eq]
  rfl

theorem amo_issue {op : Nat} {d b : Reg} (hb : b.plain = true) : amo op d a b (s.issue 4) =
    atomicGo op d (.v (s.me.src a).toNat) (s.me.src b) s.me.e[0] (s.issue 4) := by
  rw [amo, bind_ok _ _ _ _ _ (rd_issue 4 hat.calm hat.plain), bind_ok _ _ _ _ _ (rd_issue 4 hat.calm hb),
    bind_ok _ _ _ _ _ rfl, bind_ok _ _ _ _ _ (virt_zero _ hat.top)]
  rfl

end

/-- The open instruction that owes one register. -/
def State.owing (s : State) (d : Reg) (src : Owe) (la : Nat) : Pending :=
  { s.me.opened src la (s.me.pc - 4) with dsts := [d].filter Reg.kept, lands := landsOf [d], own := 1, sh := 1 }

/-- The strand with that as its only open instruction; the value to come shifts the last-result file (R26, R65). -/
def State.awaiting (s : State) (d : Reg) (src : Owe) (la : Nat) : State :=
  { s with me := { s.me with l1 := s.me.l0, pend := [s.owing d src la] } }

theorem await_one {s : State} (d : Reg) (src : Owe) (la : Nat) (hpend : s.me.pend = []) :
    await [d] src la s = .ok ((), s.awaiting d src la) := by
  have hclaim : s.me.claims [d] = s.me := claim_of_pend_nil d hpend
  rw [await, bind_ok _ _ _ _ _ rfl, hclaim]
  simp only [State.open, shifts, hpend]
  rfl

/-- An AMO at its word's home gives its register the old word and leaves there what it computes (R129). -/
theorem atomicNear_here {a d : Reg} {s s1 : State} {h : Hit} {r : List Hit} (hat : AtomicHere 8 a s s1 h r) (op : Nat) (b c : Word)
    (hd : d.plain = true) (hwf : s.mem.wf = true) (hunlocked : Claims.unlocked s (h :: r)) (hroom : Claims.logRoom s 2) :
    ∃ (t : State) (m : Memory), atomicNear op d (.v (s.me.src a).toNat) b c (h :: r) s1 = .ok ((), t) ∧
      Claims.logOnly s m ∧ t.me = (s.issued 4 fun u => u.result d (s.wordAt (h :: r))).me ∧
      t.mem = (if amoWrites op (s.wordAt (h :: r)) c then
        m.setAll ((Claims.cells s (h :: r)).zip (leBytes 8 (amoNew op (s.wordAt (h :: r)) b c).toNat)) else m) ∧
      t = { s with me := t.me, mem := t.mem, tlb := t.tlb, tier := t.tier, queues := t.queues, agenda := t.agenda } := by
  have hread := hat.readOnly
  obtain ⟨t, m, hamo, ht, hm, hmem⟩ := amoAt_here op (.v (s.me.src a).toNat) b c (hat.wf' hwf) hat.noStores'
    (hat.storable' hunlocked) (hat.logRoom' hroom)
  have hword : s1.wordAt (h :: r) = s.wordAt (h :: r) := hread.wordAt _
  rw [hword] at hamo hmem
  have hwrite := wrFar_plain d (s.wordAt (h :: r)) t (ht.calm hat.calm') hd
  refine ⟨_, m, by rw [atomicNear, bind_ok _ _ _ _ _ hamo, hwrite], hread.logOnly hm, ?_, ?_, ?_⟩
  · show t.me.result d _ = _
    rw [ht.me, hread.framed.me, issue_calm hat.calm 4]
    exact result_at ..
  · rw [hread.framed.cells] at hmem
    exact hmem
  · obtain ⟨_, _, _, _, _, rfl⟩ := hread.framed.trans ht
    rfl

/-- An AMO whose word has another home starts for it with the operation, which owes its register the old word (R225). -/
theorem atomicAway_here {a : Reg} {s s1 : State} {h : Hit} {r : List Hit} (hat : AtomicHere 8 a s s1 h r) {op : Nat} (d : Reg)
    (b c : Word) (core : Nat) (hop : op < 8) :
    ∃ (t : State) (p : Pending), atomicAway op d (.v (s.me.src a).toNat) b c core s1 = .ok ((), t) ∧
      t.me.status = .transit core 1 ∧ t.me.pend = [p] ∧ p.src = .atomic op (s.me.src a) b c none ∧
      p.dsts = [d].filter Reg.kept ∧ t.me.pc = s.me.pc + 4 ∧ t.mem = s.mem ∧
      ({ ev := .migrationArrival, arg := { sid := s.me.sid.toNat, core, n := 1 } } : Due) ∈ t.agenda := by
  have ⟨_, hpend, _⟩ := hat.calm'
  have hme := hat.readOnly.framed.me
  have hgo : atomicAway op d (.v (s.me.src a).toNat) b c core s1 =
      .ok ((), (s1.awaiting d (.atomic op (s.me.src a) b c none) 0).depart core 1) := by
    rw [atomicAway, bind_ok _ _ _ _ _ (settledAll_near hat.calm'.near), bind_ok _ _ _ _ _ (await_one _ _ _ hpend), upd,
      if_neg (Nat.ne_of_lt hop), tval_toNat]
  rw [depart_home (s := s1.awaiting _ _ _) _ _ hat.calm'.notAbroad] at hgo
  refine ⟨_, _, hgo, rfl, rfl, rfl, rfl, ?_, hat.readOnly.mem, ?_⟩
  · show s1.me.pc = _
    rw [hme]
    rfl
  · show _ ∈ s1.agenda ++ [({ ev := .migrationArrival, arg := { sid := s1.me.sid.toNat, core, n := 1 } } : Due)]
    rw [hme]
    exact List.mem_append_right _ List.mem_cons_self

/-! VAMO (R134). -/

/-- VAMO reads the line to add, reads the target, and leaves the sum there (R134). -/
theorem vamo_here {a b : Reg} {s s1 s2 : State} {h : Hit} {r src : List Hit} (bf : Bool) (la : Nat)
    (hat : AtomicHere 128 a s s1 h r) (hb : b.plain = true) (haligned : (s.me.src b).toNat % 4 = 0) (hwf : s.mem.wf = true)
    (hcheck : Machine.check rR (.l ((s.me.src b).toNat % 2 ^ 32)) 128 s1 = .ok (src, s2)) (hsrc : Claims.here s src)
    (hunlocked : Claims.unlocked s (h :: r)) (hroom : Claims.logRoom s 2) :
    ∃ (t : State) (m : Memory), vamo bf a b la (s.issue 4) = .ok ((), t) ∧ (s.issue 4).framed t ∧ Claims.logOnly s m ∧
      t.mem = m.setAll ((Claims.cells s (h :: r)).zip
        (vamoBytes bf ((Claims.cells s (h :: r)).map s.mem.get) ((Claims.cells s src).map s.mem.get))) := by
  have hlocal : local_ (s.me.src b) 0 = .l ((s.me.src b).toNat % 2 ^ 32) := rfl
  have haligned' : Addr.val (.l ((s.me.src b).toNat % 2 ^ 32)) % 4 = 0 := by
    show (s.me.src b).toNat % 2 ^ 32 % 4 = 0
    omega
  have hread := hat.readOnly.trans (checkFrom_readOnly hcheck)
  have hread' := hread.trans (counted_readOnly s2 src)
  have hread'' := hread'.trans (counted_readOnly (s2.counted src) (h :: r))
  obtain ⟨loc, w0⟩ := h
  obtain ⟨k, rfl⟩ : ∃ k, loc = .cell k := Hit.isCell_iff.mp (isCell_of_here hat.here List.mem_cons_self)
  obtain ⟨t, m, hwrite, ht, hm, hmem⟩ := logAndWrite (hs := ⟨.cell k, w0⟩ :: r) (s.me.src a).toNat (Addr.tval (.v (s.me.src a).toNat))
    (vamoBytes bf ((Claims.cells s (⟨.cell k, w0⟩ :: r)).map s.mem.get) ((Claims.cells s src).map s.mem.get))
    (s := (s2.counted src).counted (⟨.cell k, w0⟩ :: r)) (hread''.mem ▸ hwf)
    (hread''.framed.storable (s := s.issue 4) (State.storable_of_no_stores hat.noStores hat.here hunlocked)) (hread''.logRoom hroom)
  rw [vamo, bind_ok _ _ _ _ _ (rd_issue 4 hat.calm hat.plain), bind_ok _ _ _ _ _ (rd_issue 4 hat.calm hb),
    bind_ok _ _ _ _ _ (virt_zero _ hat.top), bind_ok _ _ _ _ _ (aligned_of _ hat.aligned), bind_ok _ _ _ _ _ hat.check,
    bind_ok _ _ _ _ _ (nearHome_calm _ hat.calm'), bind_ok _ _ _ _ _ hat.soFree]
  dsimp only
  rw [hlocal, bind_ok _ _ _ _ _ (aligned_of _ haligned'), bind_ok _ _ _ _ _ hcheck,
    bind_ok _ _ _ _ _ (hread.readHits (s := s.issue 4) hat.noStores hsrc _), bind_ok _ _ _ _ _ rfl,
    bind_ok _ _ _ _ _ (hread'.readHits (s := s.issue 4) hat.noStores hat.here _)]
  refine ⟨t, m, ?_, hread''.framed.trans ht, hread''.logOnly hm, ?_⟩
  · rw [hread'.framed.me]
    rw [hread''.framed.cells] at hwrite
    exact hwrite
  · rw [hread''.framed.cells] at hmem
    exact hmem

theorem exec_of_vamo {i : Instr} {a b : Reg} {g : Guard} {bf : Bool} (hi : Claims.vamo i = some (a, b, g, bf)) :
    ∃ la : Look, ∀ s, exec i s = long 4 g la.val [] (vamo bf a b la.val) s := by
  unfold Claims.vamo at hi
  split at hi <;> cases hi
  · exact ⟨_, fun _ => rfl⟩
  · exact ⟨_, fun _ => rfl⟩

end Sys2Proof.Machine
end

section
/-! SUPPORT. Reservations: a line held at its home, given back, and granted to a waiter (R132), and the arrival of the value (R26). -/

namespace Sys2Proof.Machine

/-! The checks of an access leave the queues alone. -/

theorem lookup_queues {s u : State} {cl job va : Nat} {t : Tr} (h : s.lookup cl job va = some (t, u)) :
    u.queues = s.queues := by
  rw [State.lookup] at h
  split at h
  · cases h; rfl
  · split at h
    · cases h
    · cases h; rfl

theorem checkByte_queues {s u : State} {right lo : Nat} {a : Addr} {h : Hit} (hx : checkByte right lo a s = .ok (h, u)) :
    u.queues = s.queues := by
  unfold checkByte at hx
  split at hx
  · cases hx
  · cases a with
    | l x => rw [laddr_eq hx]
    | v x =>
      dsimp only at hx
      split_ifs at hx
      · cases hx; rfl
      · rw [xlate] at hx
        split at hx
        · exact absurd hx vfault_ne_ok
        · next hlookup =>
          dsimp only at hx
          split at hx
          · cases hx; exact lookup_queues hlookup
          · exact absurd hx vfault_ne_ok
      · exact absurd hx vfault_ne_ok

theorem checkFrom_queues {right lo : Nat} {as : List Addr} {s u : State} {hs : List Hit}
    (hx : checkFrom right lo as s = .ok (hs, u)) : u.queues = s.queues := by
  induction as generalizing s hs with
  | nil => cases hx; rfl
  | cons a r ih =>
    obtain ⟨h, v, hbyte, hrest⟩ := run_bind_eq_ok hx
    obtain ⟨l, w, hfrom, hpure⟩ := run_bind_eq_ok hrest
    cases hpure
    exact (ih hfrom).trans (checkByte_queues hbyte)

theorem counted_queues (s : State) (hs : List Hit) : (s.counted hs).queues = s.queues := by
  unfold State.counted
  split
  · rfl
  · split <;> rfl

/-! A line reserved (R132). -/

theorem hold_resv_of_free {s : State} {line : Nat} (h : s.resvOf line = none) : (s.hold line).queues.resv =
    s.queues.resv ++ [{ line, holder := some (s.me.sid.toNat % 65536), waiters := [] }] := by
  simp only [State.hold, h]

theorem atomicHits_readOnly {ea : Addr} {s u : State} {hs : List Hit} (h : atomicHits ea s = .ok (hs, u)) :
    s.readOnly u ∧ u.queues = s.queues := by
  rw [atomicHits] at h
  obtain ⟨_, v, haligned, hcheck⟩ := run_bind_eq_ok h
  obtain rfl := aligned_eq haligned
  exact ⟨checkFrom_readOnly hcheck, checkFrom_queues hcheck⟩

/-- The new holder of a line reads its word, and the value is owed to its instruction (R132). -/
theorem grantRead_here {p : Pending} {ea : Addr} {line : Nat} {s u : State} {hs : List Hit}
    (hhits : atomicHits ea (s.hold line) = .ok (hs, u)) (hpend : s.me.pend = []) (hstores : s.me.stores = [])
    (hhere : Claims.here s hs) :
    ∃ t, grantRead p ea line s = t ∧
      t.me = { s.me with resv := some line, pend := [{ p with src := .value [s.wordAt hs] }] } ∧
      t.mem = s.mem ∧ t.queues = (s.hold line).queues := by
  obtain ⟨hread, hqueues⟩ := atomicHits_readOnly hhits
  have hread' := hread.trans (counted_readOnly u hs)
  have hme : (u.counted hs).me = { s.me with resv := some line } := hread'.framed.me
  have hword := readWord_here ea (s := u) (by rw [hread.framed.me]; exact hstores) (hread.framed.here (s := s.hold line) hhere)
  have hgrant : (do let hs ← atomicHits ea; readWord ea hs : M Word) (s.hold line) = .ok (s.wordAt hs, u.counted hs) := by
    rw [bind_ok _ _ _ _ _ hhits, hword, hread.wordAt]
    rfl
  refine ⟨_, rfl, ?_, ?_, ?_⟩ <;> simp only [grantRead, hgrant]
  · rw [hme, hpend]
    rfl
  · exact hread'.mem
  · exact (counted_queues u hs).trans hqueues

/-- A request finds its line free and its turn come (R132). -/
theorem reserveAt_of_free {p : Pending} {ea : Addr} {core line : Nat} {s : State}
    (hinput : (s.queues.input.any fun x => s.home (x.1 * 256) == core) = false) (hadmits : s.admits core line = true)
    (hfree : s.resvOf line = none) : reserveAt p ea core line s = grantRead p ea line s := by
  simp only [reserveAt, hinput, hadmits, hfree, Bool.not_true, Bool.false_and, Bool.or_self, Bool.false_eq_true, if_false]

/-- The last-result file shifted for a value still to come (R65). -/
def State.shifted (s : State) : State := { s with me := { s.me with l1 := s.me.l0 } }

theorem reserveNear_eq {s : State} (d : Reg) (a : Addr) (b c : Word) (core line : Nat) (hpend : s.me.pend = []) :
    reserveNear d a b c core line s = .ok ((), reserveAt (s.owing d (.atomic 8 a.tval b c none) 0) a core line s.shifted) := by
  have hme : ({ s.me with l1 := s.me.l0, pend := [] } : Strand) = { s.me with l1 := s.me.l0 } := by rw [← hpend]
  have htake : takePend Pending.isCarried (s.awaiting d (.atomic 8 a.tval b c none) 0).me =
      some (s.owing d (.atomic 8 a.tval b c none) 0, { s.me with l1 := s.me.l0 }) := by
    rw [← hme]
    rfl
  rw [reserveNear, bind_ok _ _ _ _ _ (await_one _ _ _ hpend), htake]
  rfl

theorem State.admits_congr {s t : State} (hqueues : t.queues = s.queues) (hhome : t.home = s.home) (core line : Nat) :
    t.admits core line = s.admits core line := by
  rw [State.admits, State.resvOf, hqueues, hhome, State.admits, State.resvOf]

section
variable {a : Reg} {s s1 : State} {h : Hit} {r : List Hit} (hat : AtomicHere 8 a s s1 h r)
include hat

/-- LRW looks for its word as an atomic operation does, once the strand holds no reservation (R132). -/
theorem exec_lrw {d : Reg} {g : Guard} {la : Look} (hg : s.me.guarded g = true) (hresv : s.me.resv = none) :
    exec (.lrw d a g la) s = finish s (atomicGo 8 d (.v (s.me.src a).toNat) 0 0 (s.issue 4)) := by
  have hnone : (s.issue 4).me.resv.isNone = true := by
    rw [State.issue_me_resv, hresv]
    rfl
  rw [exec, execLrw, short_calm 4 g _ s hat.calm hg, bind_ok _ _ _ _ _ (rd_issue 4 hat.calm hat.plain),
    bind_ok _ _ _ _ _ rfl, bind_ok _ _ _ _ _ (need_of_true _ _ hnone), bind_ok _ _ _ _ _ (virt_zero _ hat.top)]

/-- LRW at the home of a line that is free makes the strand its holder (R132). -/
theorem exec_lrw_free {d : Reg} {g : Guard} {la : Look} {s2 : State} {line : Nat} (hd : d.plain = true)
    (hg : s.me.guarded g = true) (hresv : s.me.resv = none) (hline : line = lineOf (cellOf s.me.job.toNat h))
    (hfree : s.resvOf line = none) (hadmits : s.admits s.me.core line = true)
    (hinput : (s.queues.input.any fun x => s.home (x.1 * 256) == s.me.core) = false)
    (hcheck : Machine.check rRW (.v (s.me.src a).toNat) 8 (s1.shifted.hold line) = .ok (h :: r, s2))
    (hhome : s.home (cellOf s.me.job.toNat h) = s.me.core) (himage : s.imageCore s.me.core = true) :
    ∃ (t : State) (p : Pending), exec (.lrw d a g la) s = .next t ∧ t.me.resv = some line ∧ t.me.pend = [p] ∧
      p.src = .value [s.wordAt (h :: r)] ∧ t.me.pc = s.me.pc + 4 ∧
      t.queues.resv = s.queues.resv ++ [{ line, holder := some (s.me.sid.toNat % 65536), waiters := [] }] ∧
      t.mem = s.mem ∧ p.dsts = [d].filter Reg.kept := by
  have hread := hat.readOnly
  have hme := hread.framed.me
  have hqueues : s1.shifted.queues = s.queues := checkFrom_queues (s := s.issue 4) (u := s1) hat.check
  have hhome' : s1.shifted.home = s.home := hread.framed.home (t := s1)
  have ⟨_, hpend, _⟩ := hat.calm'
  have hhits : atomicHits (.v (s.me.src a).toNat) (s1.shifted.hold line) = .ok (h :: r, s2) := by
    rw [atomicHits, bind_ok _ _ _ _ _ (aligned_of _ hat.aligned), hcheck]
  have hadmits' : s1.shifted.admits s.me.core line = true := by rw [State.admits_congr hqueues hhome', hadmits]
  have hfree' : s1.shifted.resvOf line = none := by
    rw [State.resvOf, hqueues]
    exact hfree
  have hinput' : (s1.shifted.queues.input.any fun x => s1.shifted.home (x.1 * 256) == s.me.core) = false := by
    rw [hqueues, hhome', hinput]
  obtain ⟨t, hgrant, htme, htmem, htqueues⟩ := grantRead_here
    (p := s1.owing d (.atomic 8 (Addr.tval (.v (s.me.src a).toNat)) 0 0 none) 0) hhits hpend hat.noStores' hat.here'
  have hgo := atomicGo_here hat (op := 8) (b := 0) (c := 0) hd hhome.symm himage
  rw [if_pos rfl, if_pos rfl, ← hline, reserveNear_eq d _ 0 0 _ _ hpend, reserveAt_of_free hinput' hadmits' hfree',
    hgrant] at hgo
  refine ⟨t, _, by rw [exec_lrw hat hg hresv, hgo, finish], by rw [htme], by rw [htme], ?_, ?_, ?_, ?_, rfl⟩
  · exact congrArg (fun v => Owe.value [v]) (hread.wordAt (h :: r))
  · rw [htme]
    show s1.me.pc = _
    rw [hme]
    rfl
  · rw [htqueues, hold_resv_of_free hfree', hqueues]
    show s.queues.resv ++ [{ line, holder := some (s1.me.sid.toNat % 65536), waiters := [] }] = _
    rw [hme]
    rfl
  · exact htmem.trans hread.mem

end

/-! A line given back (R132). -/

theorem passOn_me (s : State) (line : Nat) : (s.passOn line).me = s.me := by
  unfold State.passOn
  split
  · rfl
  · split <;> rfl

theorem passOn_mem (s : State) (line : Nat) : (s.passOn line).mem = s.mem := by
  unfold State.passOn
  split
  · rfl
  · split <;> rfl

/-- To give a line back leaves pc past the instruction and memory as it is. -/
theorem passResv_issued {s t : State} (line : Nat) (hcalm : s.calm) (hframe : (s.issue 4).framed t) :
    ∃ u, passResv line t = .ok ((), u) ∧ u.me.resv = none ∧ u.mem = t.mem ∧ u.me.pc = s.me.pc + 4 ∧ u.me.pend = [] := by
  have ⟨_, hpend, _⟩ := hframe.calm (State.calm_issue s 4 hcalm)
  have hpc : t.me.pc = s.me.pc + 4 := by
    rw [hframe.me]
    rfl
  refine ⟨_, rfl, ?_, ?_, ?_, ?_⟩
  · rw [passOn_me]
  · rw [passOn_mem]
  · rw [passOn_me]
    exact hpc
  · rw [passOn_me]
    exact hpend

/-- What is written to a line's word as it is given back: SCV writes, RELQ does not. -/
def writeBack (a : Addr) (ks : List Nat) : Option Word → M Unit
  | none => pure ()
  | some v => do
    logWrite a.val
    writeCells a.tval (ks.zip (leBytes 8 v.toNat))

section
variable {a : Reg} {s s1 : State} {h : Hit} {r : List Hit} (hat : AtomicHere 8 a s s1 h r)
include hat

theorem giveBack_here {line : Nat} (v : Option Word) (la : Nat) (hline : line = lineOf (cellOf s.me.job.toNat h))
    (hresv : s.me.resv = some line) : giveBack (.v (s.me.src a).toNat) v la (s.issue 4) =
      (writeBack (.v (s.me.src a).toNat) (Claims.cells s (h :: r)) v >>= fun _ => passResv line) s1 := by
  have hme := hat.readOnly.framed.me
  have ⟨_, hpend, _⟩ := hat.calm'
  have hkey : lineKey s1.me.job.toNat (h :: r) = line := by
    rw [hme, hline]
    rfl
  have hholds : (s1.me.resv == some (lineKey s1.me.job.toNat (h :: r))) = true := by
    rw [hkey, hme, State.issue_me_resv, hresv]
    exact beq_self_eq_true _
  have hcells : (h :: r).map (cellOf s1.me.job.toNat) = Claims.cells s (h :: r) := hat.readOnly.framed.cells (h :: r)
  obtain ⟨loc, w0⟩ := h
  obtain ⟨k, rfl⟩ : ∃ k, loc = .cell k := Hit.isCell_iff.mp (isCell_of_here hat.here List.mem_cons_self)
  rw [giveBack, bind_ok _ _ _ _ _ hat.hits, bind_ok _ _ _ _ _ rfl]
  dsimp only
  rw [bind_ok _ _ _ _ _ (need_of_true _ _ hholds), bind_ok _ _ _ _ _ hat.soFree]
  rw [releaseFor, bind_ok _ _ _ _ _ (released_empty s1 hat.noStores' hpend)]
  rw [hcells, hkey]
  cases v with
  | none => rfl
  | some v =>
    rw [writeBack, bind_assoc]

theorem exec_scv {d : Reg} {g : Guard} {la : Look} (hd : d.plain = true) (hg : s.me.guarded g = true) :
    exec (.scv d a g la) s = finishLong 4 la.val [] none s
      (giveBack (.v (s.me.src a).toNat) (some (s.me.src d)) la.val (s.issue 4)) := by
  rw [exec, execScv, long_calm _ _ _ _ _ s hat.calm hg, bind_ok _ _ _ _ _ (rd_issue 4 hat.calm hat.plain),
    bind_ok _ _ _ _ _ (rd_issue 4 hat.calm hd), bind_ok _ _ _ _ _ (virt_zero _ hat.top)]

theorem exec_relq {g : Guard} {la : Look} (hg : s.me.guarded g = true) : exec (.relq a g la) s =
    finishLong 4 la.val [] none s (giveBack (.v (s.me.src a).toNat) none la.val (s.issue 4)) := by
  rw [exec, execRelq, long_calm _ _ _ _ _ s hat.calm hg, bind_ok _ _ _ _ _ (rd_issue 4 hat.calm hat.plain),
    bind_ok _ _ _ _ _ (virt_zero _ hat.top)]

/-- SCV by the holder writes its word and passes the line on (R132). -/
theorem exec_scv_holder {d : Reg} {g : Guard} {la : Look} {line : Nat} (hd : d.plain = true) (hg : s.me.guarded g = true)
    (hline : line = lineOf (cellOf s.me.job.toNat h)) (hresv : s.me.resv = some line) (hwf : s.mem.wf = true)
    (hunlocked : Claims.unlocked s (h :: r)) (hroom : Claims.logRoom s 2) :
    ∃ (t : State) (m : Memory), exec (.scv d a g la) s = .next t ∧ t.me.resv = none ∧ Claims.logOnly s m ∧
      t.mem = m.setAll ((Claims.cells s (h :: r)).zip (leBytes 8 (s.me.src d).toNat)) ∧ t.me.pc = s.me.pc + 4 ∧
      t.me.pend = [] := by
  obtain ⟨t, m, hwrite, ht, hm, hmem⟩ := logAndWrite (s.me.src a).toNat (Addr.tval (.v (s.me.src a).toNat))
    (leBytes 8 (s.me.src d).toNat) (hat.wf' hwf) (hat.storable' hunlocked) (hat.logRoom' hroom)
  obtain ⟨u, hpass, hnone, hkeeps, hpc, hpend⟩ := passResv_issued line hat.calm (hat.readOnly.framed.trans ht)
  rw [hat.readOnly.framed.cells] at hwrite hmem
  have hback : writeBack (.v (s.me.src a).toNat) (Claims.cells s (h :: r)) (some (s.me.src d)) s1 = .ok ((), t) := hwrite
  refine ⟨u, m, ?_, hnone, hat.readOnly.logOnly hm, hkeeps.trans hmem, hpc, hpend⟩
  rw [exec_scv hat hd hg, giveBack_here hat _ _ hline hresv, bind_ok _ _ _ _ _ hback, hpass, finishLong]

/-- RELQ by the holder passes the line on and writes nothing (R132). -/
theorem exec_relq_holder {g : Guard} {la : Look} {line : Nat} (hg : s.me.guarded g = true)
    (hline : line = lineOf (cellOf s.me.job.toNat h)) (hresv : s.me.resv = some line) :
    ∃ t : State, exec (.relq a g la) s = .next t ∧ t.me.resv = none ∧ t.mem = s.mem ∧ t.me.pc = s.me.pc + 4 ∧
      t.me.pend = [] := by
  obtain ⟨u, hpass, hnone, hkeeps, hpc, hpend⟩ := passResv_issued line hat.calm hat.readOnly.framed
  refine ⟨u, ?_, hnone, hkeeps.trans hat.readOnly.mem, hpc, hpend⟩
  rw [exec_relq hat hg, giveBack_here hat none _ hline hresv, bind_ok _ _ _ _ _ rfl, hpass, finishLong]

end

/-! A line granted to a waiter, and the arrival of its word (R26, R132). -/

theorem focus_mod (s : State) : s.focus (s.me.sid.toNat % 65536) = s := by
  rw [State.focus, Nat.mod_mod, if_pos rfl]

/-- The first waiter of a line that nobody holds is the strand in focus: it becomes the holder and reads its word. -/
theorem exec_reservationGrant {s : State} {p : Pending} {ws : List Nat} {ea : Word} (hflag : s.arg.flag = false)
    (hresv : s.resvOf s.arg.n =
      some { line := s.arg.n, holder := none, waiters := s.me.sid.toNat % 65536 :: ws })
    (htag : s.lrwTag (s.me.sid.toNat % 65536) s.arg.n = none) (hpend : s.me.pend = [p])
    (hsrc : p.src = .reserve s.arg.n ea) :
    exec .reservationGrant s =
      .next (grantRead p (.v ea.toNat) s.arg.n { s with me := { s.me with pend := [] } }) := by
  have hnear : ¬ 2 ^ 32 ≤ s.me.sid.toNat % 65536 := by omega
  have htake : takePend (Pending.isReserve s.arg.n) s.me = some (p, { s.me with pend := [] }) := by
    have hits : Pending.isReserve s.arg.n p = true := by
      rw [Pending.isReserve, hsrc]
      exact beq_self_eq_true _
    rw [takePend, hpend, pull, if_pos hits]
    rfl
  rw [exec, execReservationGrant, hflag, if_neg Bool.false_ne_true]
  simp only [hresv, Option.isSome_none, Bool.false_eq_true, if_false, htag, hnear, focus_mod, htake, hsrc]

/-- A value that has arrived for o_i and l0 is written there (R26, R65). -/
theorem exec_resultArrival {s : State} {p : Pending} {v : Word} {i : Fin 6} (hflag : s.arg.flag = false)
    (hpend : s.me.pend = [p]) (hsrc : p.src = .value [v]) (hdsts : p.dsts = [.o i]) (hlands : p.lands = [0]) :
    exec .resultArrival s = .next { s with me := { s.me with pend := [], l0 := v, o := s.me.o.set i v } } := by
  have htake : takePend Pending.isValue s.me = some (p, { s.me with pend := [] }) := by
    have hits : p.isValue = true := by rw [Pending.isValue, hsrc]
    rw [takePend, hpend, pull, if_pos hits]
    rfl
  have hdeliver : deliver p [v] { s with me := { s.me with pend := [] } } =
      .ok ((), { s with me := { s.me with pend := [], l0 := v, o := s.me.o.set i v } }) := by
    rw [deliver, hdsts, hlands]
    rfl
  rw [exec, execResultArrival, hflag, if_neg Bool.false_ne_true]
  simp only [htake, completeNow, hsrc, Pending.values, complete, hdeliver]

end Sys2Proof.Machine
end

section
/-! SUPPORT. Releases and the acquire of a FENCE (R135, R298, R338, R340). -/

namespace Sys2Proof.Machine

section
variable {s : State} (hpend : s.me.pend = [])
include hpend

theorem loadsDone_of_pend_nil : loadsDone s = .ok ((), s) := by
  rw [loadsDone, hpend]
  rfl

/-- A queued store holds a release (R338). -/
theorem released_waits (hstores : s.me.stores ≠ []) : released s = .error .wait := by
  rw [released, bind_ok _ _ _ _ _ (loadsDone_of_pend_nil hpend), storesDone, if_neg (by rwa [List.isEmpty_iff])]

theorem releasedSpan_waits (h : s.me.stores ≠ [] ∨ s.unacked = true) : releasedSpan s = .error .wait := by
  by_cases hstores : s.me.stores = []
  · rw [releasedSpan, bind_ok _ _ _ _ _ (released_empty s hstores hpend), if_pos (h.resolve_left (not_not_intro hstores))]
  · rw [releasedSpan, bind_error _ (released_waits hpend hstores)]

variable (hstores : s.me.stores = []) (hunacked : s.unacked = false)
include hstores hunacked

/-- Everything is performed and acknowledged: a store that failed is reported (R298). -/
theorem releasedSpan_acked : releasedSpan s =
    match s.me.spanErr with
    | some a => .error (.trap 8 1 a)
    | none => .ok ((), s) := by
  rw [releasedSpan, bind_ok _ _ _ _ _ (released_empty s hstores hpend), hunacked]
  rfl

end

/-- The release that a FENCE makes (R340). -/
def fenceRelease (k : FKind) (sc : Scope) : M Unit :=
  if k = .acq ∨ sc = .strand then pure () else if sc = .span then releasedSpan else released

/-- The acquire that a FENCE makes of lines of another device (R284, R340). -/
def fenceAcquire (k : FKind) (sc : Scope) : M Unit := if sc = .span ∧ k ≠ .rel then acquireSpan else pure ()

/-- FENCE is a release and an acquire. -/
theorem exec_fence {sc : Scope} {k : FKind} {g : Guard} {s : State} (hcalm : s.calm) (hg : s.me.guarded g = true) :
    exec (.fence sc k g) s = finish s ((fenceRelease k sc >>= fun _ => fenceAcquire k sc) (s.issue 4)) := by
  have ⟨_, hpend, _⟩ := State.calm_issue s 4 hcalm
  have hunit : ∀ x : M Unit, x (s.issue 4) = (x >>= fun _ => pure ()) (s.issue 4) := fun x => by rw [bind_pure_unit]
  rw [exec]
  unfold execFence
  rw [short_calm 4 g _ s hcalm hg, bind_ok _ _ _ _ _ (loadsDone_of_pend_nil hpend)]
  refine congrArg (finish s) ?_
  cases k with
  | acq => cases sc <;> rfl
  | full =>
    cases sc with
    | strand | span => rfl
    | core | cluster | die | package => exact hunit released
  | rel =>
    cases sc with
    | strand => rfl
    | span => exact hunit releasedSpan
    | core | cluster | die | package => exact hunit released

theorem fenceRelease_ok {k : FKind} {sc : Scope} {s : State} (hpend : s.me.pend = []) (h : k = .acq ∨ sc = .strand ∨
    (s.me.stores = [] ∧ (sc = .span → s.unacked = false ∧ s.me.spanErr = none))) :
    fenceRelease k sc s = .ok ((), s) := by
  rw [fenceRelease]
  split_ifs with hnone hspan
  · rfl
  · obtain ⟨hstores, hacked⟩ := (h.resolve_left (not_or.mp hnone).1).resolve_left (not_or.mp hnone).2
    obtain ⟨hunacked, herr⟩ := hacked hspan
    rw [releasedSpan_acked hpend hstores hunacked, herr]
  · obtain ⟨hstores, -⟩ := (h.resolve_left (not_or.mp hnone).1).resolve_left (not_or.mp hnone).2
    exact released_empty s hstores hpend

/-- A release is held by a queued store, and at span scope by an unacknowledged access (R338). -/
theorem fenceRelease_waits {k : FKind} {sc : Scope} {s : State} (hpend : s.me.pend = []) (hk : k ≠ .acq) (hsc : sc ≠ .strand)
    (h : s.me.stores ≠ [] ∨ sc = .span ∧ s.unacked = true) : fenceRelease k sc s = .error .wait := by
  rw [fenceRelease, if_neg (not_or.mpr ⟨hk, hsc⟩)]
  split_ifs with hspan
  · exact releasedSpan_waits hpend (h.imp_right And.right)
  · exact released_waits hpend (h.resolve_right fun h => hspan h.1)

theorem fenceAcquire_ok (k : FKind) (sc : Scope) (s : State) :
    fenceAcquire k sc s = .ok ((), { s with fabric := Claims.acquired s (sc == .span && k != .rel) }) := by
  rw [fenceAcquire, Claims.acquired]
  cases sc <;> cases k <;> rfl

end Sys2Proof.Machine
end

section
/-! PROOFS. The obligations of the memories (07_memories_inventory): loads, stores, atomic operations, reservations and
fences. -/

namespace Sys2Proof.Machine

/-- Settles O14: a load is one access of checked bytes, which writes its registers one after the other. -/
theorem loadResult : Obligations.LoadResult := by
  intro i x s s1 hs hi hcalm hg hformed hcheck hhere hclear
  obtain ⟨-, -, -, hregs⟩ := formed_iff.mp hformed
  obtain ⟨t, hload, haccessed⟩ := loadAt_here (sx := x.sx) (la := x.la) hcalm hregs hcheck hhere hclear
  exact ⟨t, by rw [exec_of_load hcalm hg hformed hi, hload, finishLong], haccessed⟩

/-- Settles O15: a store of checked bytes writes its one or two runs at once or queues them, and then counts them by home. -/
theorem storeResult : Obligations.StoreResult := by
  refine ⟨fun i x s s1 hs hi hcalm hg hformed hwf hcheck hhere hclear hunlocked hunqueued => ?_,
    fun i x s s1 hs hi hcalm hg hformed hwf hcheck hhere hclear hroom hlater hfew => ?_,
    fun s p hstores hvas hdev hso hgood => exec_storePerform_only hstores hvas hdev hso hgood⟩
  · have hstore : StoreHere i x s s1 hs := ⟨hi, hcalm, hg, hformed, hcheck, hhere, hclear⟩
    exact ⟨hstore.own hwf hunlocked hunqueued, fun hnow hout hroom => hstore.now hwf hroom hunlocked hunqueued hnow hout⟩
  · have hstore : StoreHere i x s s1 hs := ⟨hi, hcalm, hg, hformed, hcheck, hhere, hclear⟩
    exact hstore.later hwf hroom hlater hfew

/-- Settles O16: an AMO at its word's home is one read and one write, with another home it departs; VAMO reads its line and its
target and writes the sum. -/
theorem atomicResult : Obligations.AtomicResult := by
  refine ⟨fun i d a b g f s s1 h r hi hcalm hg hd ha hb hwf hstores htop haligned hcheck hhere hclear himage => ?amo,
    fun i a b g bf s s1 s2 h r src hi hcalm hg ha hb hwf hstores htop haligned haligned' hcheck hcheck' hhere hclear hunlocked
      hsrc hroom => ?vamo⟩
  case amo =>
    obtain ⟨op, hexec, hop, hf⟩ := exec_of_amo s hi
    have hat : AtomicHere 8 a s s1 h r := ⟨hcalm, ha, hstores, htop, haligned, hcheck, hhere, hclear⟩
    rw [short_calm 4 g _ s hcalm hg, amo_issue hat hb, atomicGo_here hat hd rfl himage] at hexec
    refine ⟨fun hunlocked hroom hhome => ?_, fun core hcore haway => ?_⟩
    · obtain ⟨t, m, hnear, hm, hme, hmem, hframe⟩ :=
        atomicNear_here hat op (s.me.src b) s.me.e[0] hd hwf hunlocked hroom
      rw [if_pos hhome, if_neg (Nat.ne_of_lt hop), hnear, finish] at hexec
      refine ⟨t, m, s.wordAt (h :: r), hexec, hm, rfl, hme, ?_, hframe⟩
      rw [hmem, hf]
      split <;> rfl
    · subst hcore
      obtain ⟨t, p, haway', hdeparts⟩ := atomicAway_here hat d (s.me.src b) s.me.e[0] _ hop
      rw [if_neg haway, haway', finish] at hexec
      exact ⟨t, p, op, hexec, hf, hdeparts⟩
  case vamo =>
    have hat : AtomicHere 128 a s s1 h r := ⟨hcalm, ha, hstores, htop, haligned, hcheck, hhere, hclear⟩
    obtain ⟨la, hexec⟩ := exec_of_vamo hi
    obtain ⟨t, m, hadd, ht, hm, hmem⟩ := vamo_here bf la.val hat hb haligned' hwf hcheck' hsrc hunlocked hroom
    refine ⟨t, m, ?_, hm, ?_, hmem, ?_⟩
    · rw [hexec, long_calm 4 g _ _ _ s hcalm hg, hadd, finishLong]
    · rw [ht.me, issue_calm hcalm 4]
    · obtain ⟨_, _, _, _, _, rfl⟩ := ht
      rfl

/-- Settles O17: LRW at a free line and the first waiter of one hold it and read; SCV and RELQ pass it on. -/
theorem reservationResult : Obligations.ReservationResult := by
  refine ⟨fun d a g la s s1 h r line hcalm hg hd ha hwf hstores htop haligned hcheck hhere hclear hline => ?word,
    fun s s1 p hs ws ea hflag hresv htag hpend hsrc hstores hhits hhere => ?grant,
    fun s p v i hflag hpend hsrc hdsts hlands => exec_resultArrival hflag hpend hsrc hdsts hlands⟩
  case word =>
    have hat : AtomicHere 8 a s s1 h r := ⟨hcalm, ha, hstores, htop, haligned, hcheck, hhere, hclear⟩
    exact ⟨fun s2 hresv hfree hadmits hinput hcheck' hhome himage =>
        exec_lrw_free hat hd hg hresv hline hfree hadmits hinput hcheck' hhome himage,
      fun hresv => ⟨fun hunlocked hroom => exec_scv_holder hat hd hg hline hresv hwf hunlocked hroom,
        exec_relq_holder hat hg hline hresv⟩⟩
  case grant =>
    obtain ⟨t, hgrant, hme, hmem, -⟩ := grantRead_here (p := p) hhits rfl hstores hhere
    refine ⟨t, ?_, ?_, ?_, hmem⟩
    · rw [exec_reservationGrant hflag hresv htag hpend hsrc, hgrant]
    · rw [hme]
    · rw [hme]
      rfl

/-- Settles O18: a FENCE is a release, which completes, waits or reports, and then an acquire. -/
theorem fenceResult : Obligations.FenceResult := by
  intro sc k g s hcalm hg
  have ⟨_, hpend, _⟩ := State.calm_issue s 4 hcalm
  refine ⟨fun hdone => ?_, fun hk hsc hstores => ?_, fun hk hspan hstores => ⟨fun hunacked => ?_, fun a hunacked herr => ?_⟩⟩
  · rw [exec_fence hcalm hg, bind_ok _ _ _ _ _ (fenceRelease_ok hpend hdone), fenceAcquire_ok, finish, issue_calm hcalm 4]
    rfl
  · rw [exec_fence hcalm hg, bind_error _ (fenceRelease_waits hpend hk hsc (.inl hstores)), finish, stopped]
  · have hsc : sc ≠ .strand := hspan ▸ nofun
    rw [exec_fence hcalm hg, bind_error _ (fenceRelease_waits hpend hk hsc (.inr ⟨hspan, hunacked⟩)), finish, stopped]
  · have hfails : fenceRelease k sc (s.issue 4) = .error (.trap 8 1 a) := by
      have herr' : (s.issue 4).me.spanErr = some a := herr
      rw [fenceRelease, hspan, if_neg (not_or.mpr ⟨hk, nofun⟩), if_pos rfl, releasedSpan_acked hpend hstores hunacked, herr']
    rw [exec_fence hcalm hg, bind_error _ hfails, finish, stopped]

end Sys2Proof.Machine
end

section
/-! SUPPORT. The field an operand names, its plane count and its index, and the bytes checked for its elements (R123, R141,
R147, R148, R258). -/

namespace Sys2Proof.Machine

/-- A field that the claims admit is the one the operand names, once the instruction has issued (R258, R264). -/
theorem fieldOf_issue {s : State} {a : Word} {r : Right} {key : Nat} {f : View} (n : Nat) (h : Claims.field s a r key f) :
    fieldOf a r (s.issue n) = .ok (f, s.issue n) := by
  obtain ⟨rfl, ⟨o, huse⟩, hon, rfl⟩ := h
  have huse' : useHandle (s.issue n).me.job.toNat (wbits a 0 16) 1 r a (s.issue n) = .ok (o, s.issue n) := by
    unfold useHandle at huse ⊢
    dsimp only at huse
    split_ifs at huse with hinvalid hright hkind
    · cases huse
      exact (if_neg hinvalid).trans (if_pos hright)
    · exact absurd rfl hkind
  have hready : fieldReady (s.issue n) = .ok ((), s.issue n) := if_neg (Bool.eq_false_iff.mp hon)
  rw [fieldOf, bind_ok _ _ _ _ _ rfl, bind_ok _ _ _ _ _ huse', bind_ok _ _ _ _ _ hready]
  rfl

/-- An admitted plane count passes (R147). -/
theorem planesOk_of_fit {o : Obj} {c : Nat} {md : Bool} (s : State) (h : Claims.planesFit o c md) :
    planesOk o c md s = .ok ((), s) := by
  have hok : (if isChain o.fmt then decide ((if o.fmt = 16 then 1 else 2) ≤ c) && decide (c ≤ o.planes)
      else c == 1 && !md) = true := by
    unfold Claims.planesFit at h
    split at h
    next hchain => simpa only [hchain, if_true, Bool.and_eq_true, decide_eq_true_eq] using h
    next hchain => simpa only [hchain, Bool.false_eq_true, if_false, Bool.and_eq_true, beq_iff_eq, Bool.not_eq_true'] using h
  rw [planesOk, if_pos hok]
  rfl

/-- An index of the field that is no padding passes (R141). -/
theorem indexOk_of_lt {o : Obj} {b : Word} (s : State) (hlt : b.toNat < 2 ^ o.bitsN) (hpad : o.isPad b.toNat = false) :
    indexOk o b s = .ok ((), s) := by
  rw [indexOk, if_pos ⟨hlt, by rw [hpad]; rfl⟩]
  rfl

/-! The checks of elements: only the translation caches change (R123, R283). -/

theorem fieldByte_readOnly {s u : State} {right lo : Nat} {p : Nat × Nat} {h : Hit}
    (hx : fieldByte right lo p s = .ok (h, u)) : s.readOnly u := by
  unfold fieldByte at hx
  split_ifs at hx
  · exact checkByte_readOnly hx
  · cases hx; exact .refl s
  · exact absurd hx vfault_ne_ok

theorem fieldBytes_readOnly {right lo : Nat} {ps : List (Nat × Nat)} {s u : State} {hs : List Hit}
    (hx : fieldBytes right lo ps s = .ok (hs, u)) : s.readOnly u := by
  induction ps generalizing s hs with
  | nil => cases hx; exact .refl _
  | cons p r ih =>
    obtain ⟨h, v, hbyte, hrest⟩ := run_bind_eq_ok hx
    obtain ⟨l, w, hbytes, hpure⟩ := run_bind_eq_ok hrest
    cases hpure
    exact (fieldByte_readOnly hbyte).trans (ih hbytes)

theorem checkElem_readOnly {right n idx : Nat} {f : View} {s u : State} {hs : List Hit}
    (hx : checkElem right f n idx s = .ok (hs, u)) : s.readOnly u := by
  obtain ⟨s', v, hget, hbytes⟩ := run_bind_eq_ok hx
  cases hget
  exact fieldBytes_readOnly hbytes

theorem checkLanes_readOnly {right n : Nat} {f : View} {is : List Nat} {s u : State} {hss : List (Option (List Hit))}
    (hx : checkLanes right f n is s = .ok (hss, u)) : s.readOnly u := by
  induction is generalizing s hss with
  | nil => cases hx; exact .refl _
  | cons i r ih =>
    rw [checkLanes] at hx
    split at hx
    · obtain ⟨t, v, hlanes, hpure⟩ := run_bind_eq_ok hx
      cases hpure
      exact ih hlanes
    · obtain ⟨h, v, helem, hrest⟩ := run_bind_eq_ok hx
      obtain ⟨t, w, hlanes, hpure⟩ := run_bind_eq_ok hrest
      cases hpure
      exact (checkElem_readOnly helem).trans (ih hlanes)

/-- Where an element sits depends on the remap in progress alone (R142, R274). -/
theorem State.framed.spot {s t : State} (h : s.framed t) (f : View) (idx : Nat) : t.spot f idx = s.spot f idx := by
  obtain ⟨_, _, _, _, _, rfl⟩ := h
  rfl

/-! The line forms. -/

/-- A line form issues on a compute core (R97). -/
theorem fieldLine_calm (i : Instr) (la : Look) (k : Option (Fin 8)) (body : M Unit) {s : State} (h : s.calm)
    (hcore : Claims.compute s) : fieldLine i la k body s = finishLong 4 (window la) [] k s (body (s.issue 4)) := by
  have hlegal : coreNo s.me.homeCore < 16 := hcore
  obtain ⟨hstay, -, -⟩ := id h
  rw [fieldLine, legalIf, if_pos (decide_eq_true hlegal), longLine, hstay, if_neg Bool.false_ne_true,
    guardHeld_calm s h 0, guarded_zero, if_pos rfl, bind_ok _ _ _ _ _ (atHome_calm _ (State.calm_issue s 4 h))]

theorem opFault_ne_ok {α : Type} {detail : Nat} {tval : Word} {s : State} {x : α × State} :
    opFault detail tval s ≠ .ok x := by
  rw [opFault, trap]
  exact nofun

theorem need_eq_ok {c : Bool} {x : M Unit} {s u : State} (hx : ∀ v, x s ≠ .ok v) (h : need c x s = .ok ((), u)) :
    c = true ∧ u = s := by
  rw [need] at h
  split at h
  next hc => cases h; exact ⟨hc, rfl⟩
  next => exact absurd h (hx _)

/-- A line names 64 elements at most (R149). -/
theorem lineIndices_length {o : Obj} {b : Word} {s u : State} {is : List Nat} (hx : lineIndices o b s = .ok (is, u)) :
    is.length ≤ 64 := by
  obtain ⟨s', v, hget, hrest⟩ := run_bind_eq_ok hx
  cases hget
  obtain ⟨_, v, hlist, hrest⟩ := run_bind_eq_ok hrest
  obtain ⟨hok, rfl⟩ := need_eq_ok (fun _ => opFault_ne_ok) hlist
  obtain ⟨_, w, -, hpure⟩ := run_bind_eq_ok hrest
  cases hpure
  have hcount : listCount v.me.e[0] ≤ 6 := by
    simp only [listOk, Bool.and_eq_true, decide_eq_true_eq] at hok
    obtain ⟨⟨hcount, -⟩, -⟩ := hok
    split at hcount <;> omega
  rw [List.length_map, List.length_range]
  exact Nat.pow_le_pow_right (by decide) hcount

/-! An access by its operands and the bytes checked for it. -/

/-- What makes an instruction an access with a right to one element of a field, n planes of which are checked (R148). -/
structure ElemAccess (a b : Reg) (c : Nat) (md : Bool) (right : Right) (bits n : Nat) (f : View) (key idx : Nat)
    (hs : List Hit) (s s1 : State) : Prop where
  calm : s.calm
  plainBase : a.plain = true
  plainIndex : b.plain = true
  fit : Claims.planesFit f.o c md
  idx_eq : idx = (s.me.src b).toNat
  inside : idx < 2 ^ f.o.bitsN
  unpadded : f.o.isPad idx = false
  field : Claims.field s (s.me.src a) right key f
  check : checkElem bits f n idx (s.issue 4) = .ok (hs, s1)
  clear : Claims.clear s hs

section
variable {a b : Reg} {c : Nat} {md : Bool} {right : Right} {bits n : Nat} {f : View} {key idx : Nat} {hs : List Hit}
  {s s1 : State} (h : ElemAccess a b c md right bits n f key idx hs s s1)
include h

theorem ElemAccess.readOnly : (s.issue 4).readOnly s1 := checkElem_readOnly h.check

theorem ElemAccess.calm' : s1.calm := h.readOnly.framed.calm (State.calm_issue s 4 h.calm)

theorem ElemAccess.indexOk (t : State) : indexOk f.o (s.me.src b) t = .ok ((), t) :=
  indexOk_of_lt t (h.idx_eq ▸ h.inside) (h.idx_eq ▸ h.unpadded)

theorem ElemAccess.soFree : soFree hs s1 = .ok ((), s1) :=
  soFree_of_clear (h.readOnly.framed.clear (clear_issue 4 h.calm h.clear))

end

/-- What makes an instruction an access with a right to the elements of a line, n planes of each being checked (R149, R150). -/
structure LineAccess (a b : Reg) (right : Right) (bits n : Nat) (f : View) (key : Nat) (is : List Nat)
    (hss : List (Option (List Hit))) (s s1 : State) : Prop where
  calm : s.calm
  core : Claims.compute s
  plainBase : a.plain = true
  plainIndex : b.plain = true
  indices : lineIndices f.o (s.me.src b) (s.issue 4) = .ok (is, s.issue 4)
  field : Claims.field s (s.me.src a) right key f
  check : checkLanes bits f n is (s.issue 4) = .ok (hss, s1)
  clear : Claims.clear s (lanesHits hss)

section
variable {a b : Reg} {right : Right} {bits n : Nat} {f : View} {key : Nat} {is : List Nat} {hss : List (Option (List Hit))}
  {s s1 : State} (h : LineAccess a b right bits n f key is hss s s1)
include h

theorem LineAccess.readOnly : (s.issue 4).readOnly s1 := checkLanes_readOnly h.check

theorem LineAccess.calm' : s1.calm := h.readOnly.framed.calm (State.calm_issue s 4 h.calm)

theorem LineAccess.soFree : soFree (lanesHits hss) s1 = .ok ((), s1) :=
  soFree_of_clear (h.readOnly.framed.clear (clear_issue 4 h.calm h.clear))

theorem LineAccess.rdLine (k : Fin 8) : rdLine (.k k) s1 = .ok (s.me.k[k], s1) := by
  rw [rdLine_k k h.calm', h.readOnly.framed.me]
  rfl

end

end Sys2Proof.Machine
end

section
/-! SUPPORT. Elements of a field that lie in this device read (R46, R148, R149, R151). -/

namespace Sys2Proof.Machine

/-- An element that is read: its index, its bytes, and nothing still to come. -/
structure Elem.holds (e : Elem) (idx : Nat) (bs : List Byte) : Prop where
  idx : e.idx = idx
  bytes : e.bytes = bs
  got : e.runs.all Run.isGot = true

theorem Elem.holds.allGot {e : Elem} {idx : Nat} {bs : List Byte} (h : e.holds idx bs) : allGot [some e] = true := by
  rw [allGot_cons]
  exact (Bool.and_true _).trans h.got

theorem Elem.holds.code {e : Elem} {idx : Nat} {bs : List Byte} (h : e.holds idx bs) (s : State) (f : View) :
    s.elemCode f e = Claims.fieldCode s f idx bs := by
  rw [State.elemCode, h.idx, h.bytes, Claims.fieldCode]

theorem State.framed.fieldCode {s t : State} (h : s.framed t) : Claims.fieldCode t = Claims.fieldCode s := by
  funext f idx bs
  rw [Claims.fieldCode, h.spot, Claims.fieldCode]

/-- The bytes of checked hits as the strand sees them (R334). -/
def State.bytesOf (s : State) (hs : List Hit) : List Byte := (Claims.cells s hs).map s.see

theorem State.readOnly.bytesOf {s t : State} (h : s.readOnly t) : t.bytesOf = s.bytesOf := by
  funext hs
  rw [State.bytesOf, h.see, h.framed.cells, State.bytesOf]

theorem elemRead_here (tval : Word) {hs : List Hit} {s : State} (h : Claims.here s hs) :
    ∃ e, elemRead tval hs s = .ok (e, s.counted hs) ∧ e.bytes = s.bytesOf hs ∧ e.runs.all Run.isGot = true := by
  refine ⟨{ runs := [{ tval, dev := 0, vas := [], rep := [], rd := .got (s.bytesOf hs) }] }, ?_, List.append_nil _, rfl⟩
  rw [elemRead, bind_ok _ _ _ _ _ rfl, if_neg (Bool.eq_false_iff.mp (not_away_of_here h)),
    bind_ok _ _ _ _ _ (readHits_here tval h)]
  rfl

section
variable {f : View} {c idx : Nat} {near : Bool} {hs : List Hit} {s : State} (hhere : Claims.here s hs)
include hhere

/-- Planes that decide the element are all that is read of it (R46, R151). -/
theorem readField_decided (hdec : f.o.undecided c (f.o.uses c near) (s.bytesOf hs) = false) :
    ∃ e, readField f c near idx hs s = .ok (e, s.counted hs) ∧ e.holds idx (s.bytesOf hs) := by
  obtain ⟨e, hread, hbytes, hgot⟩ := elemRead_here (s.elemAddr f idx) hhere
  refine ⟨{ e with idx, full := !isChain f.o.fmt || decide (f.o.planes ≤ f.o.uses c near) }, ?_, rfl, hbytes, hgot⟩
  rw [readField, bind_ok _ _ _ _ _ rfl, bind_ok _ _ _ _ _ hread, hbytes, hdec, Bool.and_false, if_neg Bool.false_ne_true]
  rfl

/-- Planes that do not decide it are read again with the others (R46, log 24). -/
theorem readField_undecided {hs' : List Hit} {u : State} (hdec : f.o.undecided c (f.o.uses c near) (s.bytesOf hs) = true)
    (hcheck : checkElem rR f f.o.planes idx (s.counted hs) = .ok (hs', u)) (hhere' : Claims.here u hs') :
    ∃ e, readField f c near idx hs s = .ok (e, u.counted hs') ∧ e.holds idx (u.bytesOf hs') := by
  obtain ⟨e, hread, hbytes, hgot⟩ := elemRead_here (s.elemAddr f idx) hhere
  obtain ⟨e', hread', hbytes', hgot'⟩ := elemRead_here ((s.counted hs).elemAddr f idx) hhere'
  have hagain : (allGot [some e] && f.o.undecided c (f.o.uses c near) e.bytes) = true := by
    rw [hbytes, hdec, allGot_cons, Option.map_some, Option.getD_some, hgot]
    rfl
  refine ⟨{ e' with idx }, ?_, rfl, hbytes', hgot'⟩
  rw [readField, bind_ok _ _ _ _ _ rfl, bind_ok _ _ _ _ _ hread, if_pos hagain, readRest, bind_ok _ _ _ _ _ rfl,
    bind_ok _ _ _ _ _ hcheck, bind_ok _ _ _ _ _ hread']
  rfl

end

/-! LDF (R148). -/

/-- Reading what f then does to the strand, and counting by home, make an access (R228). -/
theorem accessed_of_readOnly {s u t : State} {n : Nat} {f : Strand → Strand} (hcalm : s.calm)
    (hread : (s.issue n).readOnly u) (htally : State.tallied { u with me := f u.me } t)
    (hf : f (s.issued n id).me = (s.issued n f).me) (htrh : (f s.me).trh = s.me.trh)
    (hstatus : (f s.me).status = s.me.status) : Claims.accessed s t s.mem f n := by
  obtain ⟨⟨mem, tlb, tier, agenda, queues, rfl⟩, hmem⟩ := hread
  obtain rfl : mem = s.mem := hmem
  refine accessed_of ⟨tlb, tier, agenda, queues, ?_⟩ htally htrh hstatus
  rw [issue_calm hcalm n]
  exact congrArg (fun me => { s with me, mem := s.mem, tlb, tier, agenda, queues }) hf

/-- LDF of a checked element whose read is over writes its register with the value of the bytes read (R148). -/
theorem exec_ldf {d a b : Reg} {c : Fin 4} {md : Bool} {g : Guard} (la : Look) {f : View} {key idx : Nat} {hs : List Hit}
    {s s1 u : State} {e : Elem} {bs : List Byte}
    (h : ElemAccess a b (c.val + 1) md .read rR (f.o.uses (c.val + 1) md) f key idx hs s s1) (hg : s.me.guarded g = true)
    (hd : d.plain = true) (hread : readField f (c.val + 1) md idx hs s1 = .ok (e, u)) (hu : s1.readOnly u)
    (hholds : e.holds idx bs) :
    ∃ t, exec (.ldf d a b c md g la) s = .next t ∧ Claims.accessed s t s.mem
      (fun v => v.result d (ldValue f.o (c.val + 1) md (Claims.fieldCode s f idx bs))) 4 := by
  have hcode : u.elemCode f e = Claims.fieldCode s f idx bs := by
    rw [hholds.code, (h.readOnly.trans hu).framed.fieldCode]
    rfl
  have hcalm := hu.framed.calm h.calm'
  obtain ⟨t, hcount, htally⟩ := countFirst_calm hs
    (calm_result d (ldValue f.o (c.val + 1) md (Claims.fieldCode s f idx bs)) hcalm)
  refine ⟨t, ?_, accessed_of_readOnly h.calm (h.readOnly.trans hu) htally (result_at ..) (result_trh ..) (result_status ..)⟩
  rw [exec, execLdf, long_calm 4 g la.val [d] _ s h.calm hg, bind_ok _ _ _ _ _ (rd2_issue 4 h.calm h.plainBase h.plainIndex)]
  dsimp only
  rw [bind_ok _ _ _ _ _ (fieldOf_issue 4 h.field), bind_ok _ _ _ _ _ (planesOk_of_fit _ h.fit),
    bind_ok _ _ _ _ _ (h.indexOk _), ← h.idx_eq, bind_ok _ _ _ _ _ h.check, bind_ok _ _ _ _ _ (nearHome_calm hs h.calm'),
    bind_ok _ _ _ _ _ h.soFree, bind_ok _ _ _ _ _ hread, if_pos hholds.allGot, bind_ok _ _ _ _ _ rfl, hcode,
    bind_ok _ _ _ _ _ (wr_plain d _ u hcalm hd), hcount, finishLong]

/-! VLDF (R149). -/

/-- The lanes VLDF gets from an element; padding gives +0 (R141). -/
def State.elemHalves (s : State) (f : View) (c : Nat) (near : Bool) : Option Elem → List Half
  | some e => ldLanes f.o c near (s.elemCode f e)
  | none => if isCplxF f.o.fmt then [0, 0] else [0]

theorem fieldLanes_eq (s : State) (f : View) (c : Nat) (near : Bool) (els : List (Option Elem)) :
    s.fieldLanes f c near els = lineOfList (els.flatMap (s.elemHalves f c near)) :=
  congrArg (fun g => lineOfList (els.flatMap g)) (funext fun e => by cases e <;> rfl)

/-- The lanes of an index from the bytes the strand sees at its checked cells. -/
def State.seenHalves (s : State) (f : View) (c : Nat) (near : Bool) (x : Nat × Option (List Hit)) : List Half :=
  match x.2 with
  | none => if isCplxF f.o.fmt then [0, 0] else [0]
  | some hs => ldLanes f.o c near (Claims.fieldCode s f x.1 (s.bytesOf hs))

theorem State.readOnly.seenHalves {s t : State} (h : s.readOnly t) (f : View) (c : Nat) (near : Bool) :
    t.seenHalves f c near = s.seenHalves f c near := by
  funext x
  rw [State.seenHalves, h.bytesOf, h.framed.fieldCode]
  rfl

theorem State.framed.elemHalves {s t : State} (h : s.framed t) (f : View) (c : Nat) (near : Bool) :
    t.elemHalves f c near = s.elemHalves f c near := by
  funext e
  cases e with
  | none => rfl
  | some e => rw [State.elemHalves, State.elemCode, h.spot]; rfl

theorem lanesHits_cons (x : Option (List Hit)) (hss : List (Option (List Hit))) :
    lanesHits (x :: hss) = x.getD [] ++ lanesHits hss := List.flatMap_cons

/-- Elements of this device that their planes decide are read in lane order (R149). -/
theorem readFields_decided {f : View} {c : Nat} {near : Bool} {is : List Nat} {hss : List (Option (List Hit))} {s : State}
    (hhere : Claims.here s (lanesHits hss))
    (hdec : ∀ hs, some hs ∈ hss → f.o.undecided c (f.o.uses c near) (s.bytesOf hs) = false) :
    ∃ els t, readFields f c near is hss s = .ok (els, t) ∧ s.readOnly t ∧ allGot els = true ∧
      els.flatMap (s.elemHalves f c near) = (is.zip hss).flatMap (s.seenHalves f c near) := by
  induction is generalizing hss s with
  | nil => exact ⟨[], s, by cases hss <;> rfl, .refl s, rfl, rfl⟩
  | cons i r ih =>
    cases hss with
    | nil => exact ⟨[], s, rfl, .refl s, rfl, rfl⟩
    | cons x hss =>
      rw [lanesHits_cons] at hhere
      have hhere' := here_of_subset hhere (List.subset_append_right _ _)
      have hdec' : ∀ hs, some hs ∈ hss → f.o.undecided c (f.o.uses c near) (s.bytesOf hs) = false :=
        fun hs hmem => hdec hs (List.mem_cons_of_mem _ hmem)
      cases x with
      | none =>
        obtain ⟨els, t, hfields, hread, hgot, hhalves⟩ := ih hhere' hdec'
        refine ⟨none :: els, t, ?_, hread, by rw [allGot_cons, hgot]; rfl, ?_⟩
        · rw [readFields, bind_ok _ _ _ _ _ hfields]
          rfl
        · rw [List.flatMap_cons, hhalves, List.zip_cons_cons, List.flatMap_cons]
          rfl
      | some hs =>
        have hfirst : Claims.here s hs := here_of_subset hhere (List.subset_append_left _ _)
        obtain ⟨e, hfield, hholds⟩ := readField_decided (idx := i) hfirst (hdec hs List.mem_cons_self)
        have hcounted := counted_readOnly s hs
        obtain ⟨els, t, hfields, hread, hgot, hhalves⟩ := ih (hcounted.framed.here hhere') (by rwa [hcounted.bytesOf])
        rw [hcounted.framed.elemHalves, hcounted.seenHalves] at hhalves
        refine ⟨some e :: els, t, ?_, hcounted.trans hread, ?_, ?_⟩
        · rw [readFields, bind_ok _ _ _ _ _ hfield, bind_ok _ _ _ _ _ hfields]
          rfl
        · rw [allGot_cons, hgot]
          exact (Bool.and_true _).trans hholds.got
        · rw [List.flatMap_cons, hhalves, List.zip_cons_cons, List.flatMap_cons, State.elemHalves, hholds.code]
          rfl

/-- VLDF of checked elements that their planes decide writes its register with their lanes (R149). -/
theorem exec_vldf {a b : Reg} (k : Fin 8) {c : Fin 4} {md : Bool} (la : Look) {f : View} {key : Nat} {is : List Nat}
    {hss : List (Option (List Hit))} {s s1 : State}
    (h : LineAccess a b .read rR (f.o.uses (c.val + 1) md) f key is hss s s1) (hhere : Claims.here s (lanesHits hss))
    (hfit : Claims.planesFit f.o (c.val + 1) md) (hwide : wideFmt f.o.fmt = false)
    (hdec : ∀ hs, some hs ∈ hss → f.o.undecided (c.val + 1) (f.o.uses (c.val + 1) md) (s.bytesOf hs) = false) :
    ∃ t, exec (.vldf a b k c md la) s = .next t ∧ Claims.accessed s t s.mem (fun u => { u with
      k := u.k.set k (lineOfList ((is.zip hss).flatMap (s.seenHalves f (c.val + 1) md))) }) 4 := by
  have hbytes : s1.bytesOf = s.bytesOf := h.readOnly.bytesOf
  obtain ⟨els, u, hfields, hu, hgot, hhalves⟩ := readFields_decided (is := is)
    (h.readOnly.framed.here (s := s.issue 4) hhere) (hbytes ▸ hdec)
  have hline : u.fieldLanes f (c.val + 1) md els =
      lineOfList ((is.zip hss).flatMap (s.seenHalves f (c.val + 1) md)) := by
    rw [fieldLanes_eq, hu.framed.elemHalves, hhalves, h.readOnly.seenHalves]
    rfl
  have hcalm := hu.framed.calm h.calm'
  obtain ⟨t, hcount, htally⟩ := countFirst_calm (lanesHits hss) (s := { u with me := { u.me with
    k := u.me.k.set k (lineOfList ((is.zip hss).flatMap (s.seenHalves f (c.val + 1) md))) } }) hcalm
  refine ⟨t, ?_, accessed_of_readOnly h.calm (h.readOnly.trans hu) htally rfl rfl rfl⟩
  rw [exec, execVldf, fieldLine_calm _ _ _ _ h.calm h.core, bind_ok _ _ _ _ _ (rd2_issue 4 h.calm h.plainBase h.plainIndex)]
  dsimp only
  rw [bind_ok _ _ _ _ _ (fieldOf_issue 4 h.field), bind_ok _ _ _ _ _ (planesOk_of_fit _ hfit),
    bind_ok _ _ _ _ _ (need_of_true _ _ (by rw [hwide]; rfl)), bind_ok _ _ _ _ _ h.indices, bind_ok _ _ _ _ _ h.check,
    bind_ok _ _ _ _ _ h.soFree, bind_ok _ _ _ _ _ hfields, bind_ok _ _ _ _ _ (settledK_calm k hcalm), if_pos hgot,
    bind_ok _ _ _ _ _ rfl, hline, bind_ok _ _ _ _ _ (wrLine_k k _ hcalm), hcount, finishLong]

end Sys2Proof.Machine
end

section
/-! SUPPORT. Elements of a field that lie in this device written, each with the records of its first and its last page in the
dirty log (R148, R149, R151, R289). -/

namespace Sys2Proof.Machine

/-! The bytes of an element written whole. -/

/-- Without an error an element is written as any other bytes are (R151, R153). -/
theorem writeWhole_eq_writeCells (tval : Word) {cs : List (Nat × Byte)} {s : State}
    (hgood : ∀ c ∈ cs, s.badAt c.1 = false) : writeWhole tval cs s = writeCells tval cs s := by
  have hnone : cs.find? (fun c => s.badAt c.1) = none :=
    List.find?_eq_none.mpr fun c hc => Bool.not_eq_true _ ▸ hgood c hc
  simp only [writeWhole, writeCells, hnone]

theorem writeWhole_storable {s : State} {hs : List Hit} (tval : Word) (bs : List Byte) (h : s.storable hs) :
    writeWhole tval ((Claims.cells s hs).zip bs) s = .ok ((), s.setCells ((Claims.cells s hs).zip bs)) := by
  obtain ⟨-, hgood⟩ := h.here
  rw [writeWhole_eq_writeCells tval fun c hc => hgood c.1 (List.of_mem_zip hc).1, writeCells_storable tval bs h]

/-- To issue changes nothing that a write of bytes asks for. -/
theorem State.storable.issue {s : State} {hs : List Hit} {n : Nat} (h : s.storable hs) : (s.issue n).storable hs :=
  ⟨h.here, h.unlocked, h.unqueued⟩

theorem framed_setCells (s : State) (cs : List (Nat × Byte)) : s.framed (s.setCells cs) := ⟨_, _, _, _, _, rfl⟩

theorem setCells_setCells (s : State) (cs ds : List (Nat × Byte)) : (s.setCells cs).setCells ds = s.setCells (cs ++ ds) :=
  congrArg (fun mem => { s with mem }) (Memory.setAll_append s.mem cs ds).symm

theorem putRuns_cons_of_isCell (kind : Nat) (tval : Word) {h : Hit} (hcell : h.isCell = true) (l : List Hit)
    (r : List (List Hit)) (bs : List Byte) (s : State) : putRuns kind tval ((h :: l) :: r) bs s =
      (writeWhole tval ((Claims.cells s (h :: l)).zip (bs.take (h :: l).length)) >>= fun _ =>
        putRuns kind tval r (bs.drop (h :: l).length)) s := by
  obtain ⟨loc, w0⟩ := h
  obtain ⟨k, rfl⟩ : ∃ k, loc = .cell k := Hit.isCell_iff.mp hcell
  rfl

/-- The runs of an element are written one behind the other. -/
theorem putRuns_storable (kind : Nat) (tval : Word) {runs : List (List Hit)} (bs : List Byte) {s : State}
    (h : s.storable runs.flatten) :
    putRuns kind tval runs bs s = .ok ((), s.setCells ((Claims.cells s runs.flatten).zip bs)) := by
  induction runs generalizing s bs with
  | nil => rfl
  | cons hs r ih =>
    rw [List.flatten_cons] at h ⊢
    cases hs with
    | nil => exact ih bs h
    | cons x l =>
      have hcell := isCell_of_here h.here (List.mem_append_left _ List.mem_cons_self)
      have hframe := framed_setCells s ((Claims.cells s (x :: l)).zip (bs.take (x :: l).length))
      have hsplit := cells_zip_split s ((x :: l) ++ r.flatten) bs (x :: l).length
      rw [List.take_left, List.drop_left] at hsplit
      rw [putRuns_cons_of_isCell kind tval hcell,
        bind_ok _ _ _ _ _ (writeWhole_storable tval _ (h.of_subset (List.subset_append_left _ _))),
        ih _ (hframe.storable (h.of_subset (List.subset_append_right _ _))), hframe.cells, setCells_setCells, hsplit]

/-! One element with its log records. -/

/-- From s, some records have joined the dirty log, which has room for m more; memory reads elsewhere as before. -/
structure State.noted (s t : State) (m : Nat) : Prop where
  framed : s.framed t
  wf : t.mem.wf = true
  room : Claims.logRoom t m
  logOnly : Claims.logOnly s t.mem

/-- The two pages of an element logged, and its access counted. -/
def noteElem (first last : Nat) (hs : List Hit) : M Unit := do
  logWrite first
  logWrite last
  upd fun s => s.counted hs

theorem writes_noteElem (s : State) (first last : Nat) (hs : List Hit) : Writes s (noteElem first last hs) [] 2 :=
  (writes_logWrite s first).bind ((writes_logWrite s last).bind (writes_counted s hs))

theorem noteElem_ok (first last : Nat) (hs : List Hit) {s : State} {m : Nat} (hwf : s.mem.wf = true)
    (hroom : Claims.logRoom s (2 + m)) : ∃ t, noteElem first last hs s = .ok ((), t) ∧ s.noted t m := by
  obtain ⟨t, hnote, hframe, hwf', hroom', hwrote⟩ := writes_noteElem s first last hs s m (.refl s) hwf hroom
  exact ⟨t, hnote, hframe, hwf', hroom', hwrote⟩

theorem putElem_eq (f : View) (idx : Nat) (hs : List Hit) (bs : List Byte) (s : State) : putElem f idx hs bs s =
    (noteElem (s.elemAddr f idx).toNat (s.elemLast f idx).toNat hs >>= fun _ =>
      putRuns 10 (s.elemAddr f idx) (runsOf hs.length hs) bs) s := by
  simp only [noteElem, bind_assoc]
  rw [putElem, bind_ok _ _ _ _ _ rfl]

theorem putElem_storable (f : View) (idx : Nat) {hs : List Hit} (bs : List Byte) {s : State} {m : Nat}
    (hwf : s.mem.wf = true) (hroom : Claims.logRoom s (2 + m)) (h : s.storable hs) :
    ∃ t, putElem f idx hs bs s = .ok ((), t.setCells ((Claims.cells s hs).zip bs)) ∧ s.noted t m := by
  obtain ⟨t, hnote, ht⟩ := noteElem_ok (s.elemAddr f idx).toNat (s.elemLast f idx).toNat hs hwf hroom
  have hflat := flatten_runsOf hs.length hs (Nat.le_refl _)
  have hput := putRuns_storable 10 (s.elemAddr f idx) (runs := runsOf hs.length hs) bs
    (by rw [hflat]; exact ht.framed.storable h)
  rw [hflat, ht.framed.cells] at hput
  exact ⟨t, by rw [putElem_eq, bind_ok _ _ _ _ _ hnote, hput], ht⟩

/-- Bytes written over what a change of the log alone has left. -/
theorem wrote_of_logOnly {s : State} {m : Memory} (cs : List (Nat × Byte)) (hwf : s.mem.wf = true) (hwf' : m.wf = true)
    (h : Claims.logOnly s m) : Claims.wrote s (m.setAll cs) cs :=
  fun k hk => Memory.get_setAll_congr cs hwf' hwf (h k hk)

theorem State.framed.unlogged {s t : State} {hs : List Hit} (h : s.framed t) (hout : s.unlogged hs) : t.unlogged hs := by
  intro k hk
  rw [h.cells] at hk
  rw [h.inLog]
  exact hout k hk

theorem writes_putElem {s : State} (f : View) (idx : Nat) {hs : List Hit} (bs : List Byte) (h : s.storable hs)
    (hout : s.unlogged hs) : Writes s (putElem f idx hs bs) ((Claims.cells s hs).zip bs) 2 := by
  intro u m hframe hwf hroom
  obtain ⟨t, hput, ht⟩ := putElem_storable f idx bs hwf hroom (hframe.storable h)
  rw [hframe.cells] at hput
  have hframe' := hframe.trans ht.framed
  refine ⟨_, hput, hframe'.trans (framed_setCells t _), State.setCells_wf _ _ ht.wf,
    logRoom_setCells ht.wf (fun c hc => ?_) ht.room, wrote_of_logOnly _ hwf ht.wf ht.logOnly⟩
  rw [hframe'.inLog]
  exact hout _ (List.of_mem_zip hc).1

/-! The end of a write: nothing is left to acknowledge, and the access is counted (R150, R153, R228). -/

theorem awaitWrites_of_no_stores (la : Nat) (detached : Bool) {s : State} (h : s.me.stores = []) :
    awaitWrites la detached s = .ok ((), s) := by
  have hnone : (!detached && s.me.stores.any fun p => p.n == s.writeNo) = false := by
    rw [h, List.any_nil, Bool.and_false]
  rw [awaitWrites, bind_ok _ _ _ _ _ rfl, hnone]
  rfl

/-- What an instruction leaves that has checked one element and written its bytes. -/
theorem written_of_noted {s s1 u t : State} {n m : Nat} {cs : List (Nat × Byte)} (hcalm : s.calm) (hwf : s.mem.wf = true)
    (hread : (s.issue n).readOnly s1) (hu : s1.noted u m) (htally : (u.setCells cs).tallied t) :
    Claims.accessed s t t.mem id n ∧ Claims.wrote s t.mem cs := by
  refine ⟨accessed_of_framed_id hcalm ((hread.framed.trans hu.framed).trans (framed_setCells u cs)) htally, ?_⟩
  rw [htally.mem]
  exact wrote_of_logOnly (s := s) cs hwf hu.wf (hread.logOnly (s := s.issue n) hu.logOnly)

/-! STF (R148). -/

/-- STF of a checked element writes the code of its source, in the planes it names or all of them (R148, R151). -/
theorem exec_stf {d a b : Reg} {c : Fin 4} {md : Bool} {g : Guard} (la : Look) {f : View} {key idx : Nat} {hs : List Hit}
    {s s1 : State} (h : ElemAccess a b (c.val + 1) md .write rW (storePlanes f.o (c.val + 1) md) f key idx hs s s1)
    (hg : s.me.guarded g = true) (hd : d.plain = true) (hfmt : isQ4 f.o.fmt = false) (hwf : s.mem.wf = true)
    (hstores : s.me.stores = []) (hroom : Claims.logRoom s 2) (hstorable : s.storable hs) :
    ∃ t, exec (.stf d a b c md g la) s = .next t ∧ Claims.accessed s t t.mem id 4 ∧
      Claims.wrote s t.mem ((Claims.cells s hs).zip (storeBytes f.o (c.val + 1) md (stCode f.o 64 (s.me.src d)))) := by
  obtain ⟨u, hput, hu⟩ := putElem_storable f idx (storeBytes f.o (c.val + 1) md (stCode f.o 64 (s.me.src d))) (m := 0)
    (h.readOnly.mem ▸ hwf) (h.readOnly.logRoom (s := s.issue 4) hroom) (h.readOnly.framed.storable hstorable.issue)
  rw [h.readOnly.framed.cells] at hput
  have hnone : u.me.stores = [] := by rw [hu.framed.me, h.readOnly.framed.me]; exact hstores
  obtain ⟨t, hcount, htally⟩ := countFirst_calm hs (s := u.setCells ((Claims.cells s hs).zip
    (storeBytes f.o (c.val + 1) md (stCode f.o 64 (s.me.src d))))) (hu.framed.calm h.calm')
  refine ⟨t, ?_, written_of_noted h.calm hwf h.readOnly hu htally⟩
  rw [exec, execStf, long_calm 4 g la.val [] _ s h.calm hg, bind_ok _ _ _ _ _ (rd2_issue 4 h.calm h.plainBase h.plainIndex)]
  dsimp only
  rw [bind_ok _ _ _ _ _ (rd_issue 4 h.calm hd), bind_ok _ _ _ _ _ (fieldOf_issue 4 h.field),
    bind_ok _ _ _ _ _ (planesOk_of_fit _ h.fit), bind_ok _ _ _ _ _ (need_of_true _ _ (by rw [hfmt]; rfl)),
    bind_ok _ _ _ _ _ (h.indexOk _), ← h.idx_eq, bind_ok _ _ _ _ _ h.check, bind_ok _ _ _ _ _ (nearHome_calm hs h.calm'),
    bind_ok _ _ _ _ _ h.soFree, bind_ok _ _ _ _ _ hput,
    bind_ok _ _ _ _ _ (awaitWrites_of_no_stores (s := u.setCells _) _ _ hnone)]
  exact congrArg (finishLong 4 la.val [] none s) hcount

/-! VSTF (R149). -/

/-- The bytes of a lane at the checked cells of its element; padding has none. -/
def State.laneCells (s : State) (bytes : Nat → List Byte) (x : Nat × Option (List Hit)) : List (Nat × Byte) :=
  match x.2 with
  | none => []
  | some hs => (Claims.cells s hs).zip (bytes x.1)

/-- The elements of the lanes from lane j on are written in order, with two log records at most for each. -/
theorem writes_lanes {s : State} (f : View) (bytes : Nat → List Byte) (j : Nat) {is : List Nat}
    {hss : List (Option (List Hit))} (h : s.storable (lanesHits hss)) (hout : s.unlogged (lanesHits hss)) :
    Writes s (writeLanes f bytes j is hss) (((List.range' j is.length).zip hss).flatMap (s.laneCells bytes))
      (is.length * 2) := by
  induction is generalizing hss j with
  | nil => cases hss <;> exact writes_pure s _
  | cons i r ih =>
    cases hss with
    | nil => exact writes_pure s _
    | cons x t =>
      rw [lanesHits_cons] at h hout
      have hrest := ih (j + 1) (h.of_subset (List.subset_append_right _ _)) (hout.of_subset (List.subset_append_right _ _))
      have hhead := List.subset_append_left (x.getD []) (lanesHits t)
      rw [List.length_cons, List.range'_succ, List.zip_cons_cons, List.flatMap_cons, Nat.succ_mul, Nat.add_comm _ 2]
      cases x with
      | none => exact (writes_pure s 2).bind hrest
      | some hs => exact (writes_putElem f i (bytes j) (h.of_subset hhead) (hout.of_subset hhead)).bind hrest

/-- VSTF of checked elements writes the codes of its lanes, in the planes it names or all of them (R149, R151). -/
theorem exec_vstf {a b : Reg} (k : Fin 8) {c : Fin 4} {md : Bool} (la : Look) {f : View} {key : Nat} {is : List Nat}
    {hss : List (Option (List Hit))} {s s1 : State}
    (h : LineAccess a b .write rW (storePlanes f.o (c.val + 1) md) f key is hss s s1)
    (hfit : Claims.planesFit f.o (c.val + 1) md) (hwide : wideFmt f.o.fmt = false) (hfmt : isQ4 f.o.fmt = false)
    (hwf : s.mem.wf = true) (hstores : s.me.stores = []) (hroom : Claims.logRoom s 128)
    (hstorable : s.storable (lanesHits hss)) (hout : s.unlogged (lanesHits hss)) :
    ∃ t, exec (.vstf a b k c md la) s = .next t ∧ Claims.accessed s t t.mem id 4 ∧
      Claims.wrote s t.mem (((List.range is.length).zip hss).flatMap (s.laneCells fun j =>
        storeBytes f.o (c.val + 1) md (stCode f.o 32 (laneSource f.o s.me.k[k] j)))) := by
  have hfew := lineIndices_length h.indices
  have hroom1 : Claims.logRoom s1 (is.length * 2 + (128 - is.length * 2)) := by
    rw [Nat.add_sub_cancel' (by omega)]
    exact h.readOnly.logRoom (s := s.issue 4) hroom
  obtain ⟨u, hlanes, hu, -, -, hwrote⟩ := writes_lanes (s := s.issue 4) f (fun j =>
    storeBytes f.o (c.val + 1) md (stCode f.o 32 (laneSource f.o s.me.k[k] j))) 0 (is := is) hstorable.issue hout s1 _
    h.readOnly.framed (h.readOnly.mem ▸ hwf) hroom1
  have hnone : u.me.stores = [] := by rw [hu.me]; exact hstores
  obtain ⟨t, hcount, htally⟩ := countFirst_calm (lanesHits hss) (hu.calm (State.calm_issue s 4 h.calm))
  refine ⟨t, ?_, accessed_of_framed_id h.calm hu htally, fun i hi => ?_⟩
  · rw [exec, execVstf, fieldLine_calm _ _ _ _ h.calm h.core, bind_ok _ _ _ _ _ (rd2_issue 4 h.calm h.plainBase h.plainIndex)]
    dsimp only
    rw [bind_ok _ _ _ _ _ (fieldOf_issue 4 h.field), bind_ok _ _ _ _ _ (planesOk_of_fit _ hfit),
      bind_ok _ _ _ _ _ (need_of_true _ _ (by rw [hwide, hfmt]; rfl)), bind_ok _ _ _ _ _ h.indices,
      bind_ok _ _ _ _ _ h.check, bind_ok _ _ _ _ _ h.soFree, bind_ok _ _ _ _ _ (h.rdLine k), bind_ok _ _ _ _ _ hlanes,
      bind_ok _ _ _ _ _ (awaitWrites_of_no_stores _ _ hnone), hcount, finishLong]
  · rw [htally.mem, hwrote i ((h.readOnly.framed.inLog i).not.mpr hi), h.readOnly.mem, List.range_eq_range']
    rfl

end Sys2Proof.Machine
end

section
/-! SUPPORT. The optimisers on one element that lies in this device (R150, R153). -/

namespace Sys2Proof.Machine

theorem optElem_of_cells (op : Nat) (f : View) (coef g : Half) (idx : Nat) {hs : List Hit} (hcells : hs.all Hit.isCell = true)
    (hreadable : hs.all Hit.readable = true) (s : State) : optElem op f coef g idx hs s =
      (noteElem (s.elemAddr f idx).toNat (s.elemLast f idx).toNat hs >>= fun _ =>
        optHere (s.elemAddr f idx) hs (optBytes op f.o.fmt f.o.planes f.o.fsat coef g)) s := by
  rw [optElem, bind_ok _ _ _ _ _ rfl]
  simp only [noteElem, hcells, hreadable, Bool.not_true, Bool.false_eq_true, if_false, if_true, bind_assoc]

/-- An element is computed from what memory holds of it and written whole (R150). -/
theorem optHere_storable (tval : Word) {hs : List Hit} (g : List Byte → List Byte) {s : State} (h : s.storable hs) :
    optHere tval hs g s =
      .ok ((), s.setCells ((Claims.cells s hs).zip (g ((Claims.cells s hs).map s.mem.get)))) := by
  have hfree : ¬ s.queuedTo (hs.map (cellOf s.me.job.toNat)) = true := Bool.eq_false_iff.mp h.unqueued
  rw [optHere, bind_ok _ _ _ _ _ rfl, if_neg hfree]
  exact writeWhole_storable tval _ h

theorem optElem_storable (op : Nat) (f : View) (coef g : Half) (idx : Nat) {hs : List Hit} {s : State} {m : Nat}
    (hwf : s.mem.wf = true) (hroom : Claims.logRoom s (2 + m)) (h : s.storable hs) (hout : s.unlogged hs) :
    ∃ t, optElem op f coef g idx hs s = .ok ((), t.setCells ((Claims.cells s hs).zip
      (optBytes op f.o.fmt f.o.planes f.o.fsat coef g ((Claims.cells s hs).map s.mem.get)))) ∧ s.noted t m := by
  obtain ⟨t, hnote, ht⟩ := noteElem_ok (s.elemAddr f idx).toNat (s.elemLast f idx).toNat hs hwf hroom
  have hwrite := optHere_storable (s.elemAddr f idx) (optBytes op f.o.fmt f.o.planes f.o.fsat coef g)
    (ht.framed.storable h)
  have hold : (Claims.cells s hs).map t.mem.get = (Claims.cells s hs).map s.mem.get :=
    List.map_congr_left fun k hk => ht.logOnly k (hout k hk)
  rw [ht.framed.cells, hold] at hwrite
  obtain ⟨hcells, -⟩ := h.here
  exact ⟨t, by rw [optElem_of_cells op f coef g idx hcells (readable_of_here h.here), bind_ok _ _ _ _ _ hnote, hwrite], ht⟩

theorem optLanes_one (op : Nat) (f : View) (coef : Half) (v : Line) (j i : Nat) (hs : List Hit) :
    optLanes op f coef v j [i] [some hs] = optElem op f coef v[Fin.ofNat 64 j] i hs := bind_pure_unit

/-- Each optimiser is one operation on the elements of its line (Table 8.5). -/
theorem exec_of_optimise {i : Instr} {op : Nat} {a b : Reg} {k : Fin 8} (s : State)
    (hi : Claims.optimise i = some (op, a, b, k)) : ∃ la, exec i s = optimiser i op a b k la s := by
  unfold Claims.optimise at hi
  split at hi <;> cases hi <;> exact ⟨_, rfl⟩

/-- An optimiser on one checked element leaves there what it computes from the element and lane 0 (R150). -/
theorem optimiser_one (i : Instr) (op : Nat) {a b : Reg} (k : Fin 8) (la : Look) {f : View} {key j : Nat} {hs : List Hit}
    {s s1 : State} (h : LineAccess a b .write rW f.o.planes f key [j] [some hs] s s1) (hfmt : optFmt f.o.fmt = true)
    (hwf : s.mem.wf = true) (hstores : s.me.stores = []) (hroom : Claims.logRoom s 2) (hstorable : s.storable hs)
    (hout : s.unlogged hs) :
    ∃ t, optimiser i op a b k la s = .next t ∧ Claims.accessed s t t.mem id 4 ∧
      Claims.wrote s t.mem ((Claims.cells s hs).zip (optBytes op f.o.fmt f.o.planes f.o.fsat (s.me.e[1].setWidth 32)
        s.me.k[k][(0 : Fin 64)] ((Claims.cells s hs).map s.mem.get))) := by
  have hcoef : getE 1 s1 = .ok (s.me.e[1], s1) := by
    rw [getE, gets', h.readOnly.framed.me]
    rfl
  obtain ⟨u, hopt, hu⟩ := optElem_storable op f (s.me.e[1].setWidth 32) s.me.k[k][Fin.ofNat 64 0] j (m := 0)
    (h.readOnly.mem ▸ hwf) (h.readOnly.logRoom (s := s.issue 4) hroom) (h.readOnly.framed.storable hstorable.issue)
    (h.readOnly.framed.unlogged (s := s.issue 4) hout)
  rw [h.readOnly.framed.cells, h.readOnly.mem] at hopt
  have hnone : u.me.stores = [] := by rw [hu.framed.me, h.readOnly.framed.me]; exact hstores
  refine ⟨_, ?_, written_of_noted h.calm hwf h.readOnly hu (.refl _)⟩
  rw [optimiser, fieldLine_calm _ _ _ _ h.calm h.core, bind_ok _ _ _ _ _ (rd2_issue 4 h.calm h.plainBase h.plainIndex)]
  dsimp only
  rw [bind_ok _ _ _ _ _ (fieldOf_issue 4 h.field), bind_ok _ _ _ _ _ (need_of_true _ _ hfmt),
    bind_ok _ _ _ _ _ h.indices, bind_ok _ _ _ _ _ h.check, bind_ok _ _ _ _ _ h.soFree, bind_ok _ _ _ _ _ (h.rdLine k),
    bind_ok _ _ _ _ _ hcoef, optLanes_one, bind_ok _ _ _ _ _ hopt,
    awaitWrites_of_no_stores (s := u.setCells _) _ _ hnone, finishLong]
  rfl

/-- The three results as functions of the element and the lane (R150). -/
theorem optResult_eq (op : Nat) (coef : Num.FV) : optResult op coef =
    match op with
    | 0 => fun x g => x.add g
    | 1 => fun x g => x.add (coef.mul g)
    | _ => fun x g => (coef.mul x).add (((Num.FV.fin false 1 0).add coef.neg).mul g) :=
  match op with
  | 0 | 1 | _ + 2 => rfl

/-- What the claims say of the element's new bytes. -/
theorem optBytes_eq {o : Obj} (op loc : Nat) (coef g : Half) (old : List Byte) (hfmt : optFmt o.fmt = true) :
    optBytes op o.fmt o.planes o.fsat coef g old = o.codeBytes (codeOf o.fmt o.planes .rne o.fsat
      [optResult op (Num.val32 coef) ((partsOf o.fmt o.planes (o.code loc old)).headD (.fin false 0 0)) (Num.val32 g)]) := by
  have hcode : codeIn o.fmt old = o.code loc old := by
    rw [codeIn, Obj.code]
    split
    · rfl
    next hchain =>
      have hq4 : isQ4 o.fmt = false := by
        simp only [optFmt, Bool.or_eq_true, beq_iff_eq, hchain, false_or, Bool.false_eq_true] at hfmt
        rw [isQ4, beq_eq_false_iff_ne]
        omega
      rw [hq4, if_neg Bool.false_ne_true]
  rw [optBytes, hcode]
  rfl

end Sys2Proof.Machine
end

section
/-! PROOFS. The obligation of fields and planes (08_fields_and_planes): the field instructions on elements of this device. -/

namespace Sys2Proof.Machine

/-- Settles O24: LDF and VLDF read what the strand sees at the checked cells, once where the planes decide and once more where
they do not; STF, VSTF and the optimisers log two pages for each element and write its bytes. -/
theorem fieldResult : Obligations.FieldResult := by
  refine ⟨fun d a b c md g la f key idx n hs s s1 hcalm hg hd ha hb hfit hidx hlt hpad =>
      ⟨fun hfield hn hcheck hhere hclear => ?ldf,
        fun hfield hfmt hwf hstores hroom hcheck hhere hclear hunlocked => ?stf⟩,
    fun a b k c md la f key n is hss s s1 hcalm hcore ha hb his hhere hclear =>
      ⟨fun hfield hfit hwide hn hcheck hdec => ?vldf,
        fun hfield hwf hstores hroom hunlocked hout =>
          ⟨fun hfit hwide hfmt hcheck => ?vstf, fun i op j hs r hi hfmt hj hcheck hone hr => ?optimiser⟩⟩⟩
  case ldf =>
    subst hn
    have h : ElemAccess a b (c.val + 1) md .read rR (f.o.uses (c.val + 1) md) f key idx hs s s1 :=
      ⟨hcalm, ha, hb, hfit, hidx, hlt, hpad, hfield, hcheck, hclear⟩
    have hhere1 : Claims.here s1 hs := h.readOnly.framed.here (s := s.issue 4) hhere
    have hbytes : s1.bytesOf = s.bytesOf := h.readOnly.bytesOf
    refine ⟨fun hdec => ?_, fun hs' s2 hdec hcheck' hhere' => ?_⟩
    · obtain ⟨e, hread, hholds⟩ := readField_decided (idx := idx) hhere1 (by rw [hbytes]; exact hdec)
      rw [hbytes] at hholds
      exact exec_ldf la h hg hd hread (counted_readOnly s1 hs) hholds
    · have hagain := (counted_readOnly s1 hs).trans (checkElem_readOnly hcheck')
      obtain ⟨e, hread, hholds⟩ := readField_undecided hhere1 (by rw [hbytes]; exact hdec) hcheck'
        ((h.readOnly.trans hagain).framed.here (s := s.issue 4) hhere')
      rw [hagain.bytesOf, hbytes] at hholds
      exact exec_ldf la h hg hd hread (hagain.trans (counted_readOnly s2 hs')) hholds
  case stf =>
    exact exec_stf la ⟨hcalm, ha, hb, hfit, hidx, hlt, hpad, hfield, hcheck, hclear⟩ hg hd hfmt hwf hstores hroom
      (State.storable_of_no_stores hstores hhere hunlocked)
  case vldf =>
    subst hn
    exact exec_vldf k la ⟨hcalm, hcore, ha, hb, his, hfield, hcheck, hclear⟩ hhere hfit hwide hdec
  case vstf =>
    exact exec_vstf k la ⟨hcalm, hcore, ha, hb, his, hfield, hcheck, hclear⟩ hfit hwide hfmt hwf hstores hroom
      (State.storable_of_no_stores hstores hhere hunlocked) hout
  case optimiser =>
    subst hj hone
    have hhits : lanesHits [some hs] = hs := List.append_nil hs
    have hstorable := State.storable_of_no_stores hstores hhere hunlocked
    rw [hhits] at hstorable hout
    obtain ⟨la, hexec⟩ := exec_of_optimise s hi
    obtain ⟨t, hopt, haccessed, hwrote⟩ := optimiser_one i op k la
      ⟨hcalm, hcore, ha, hb, his, hfield, hcheck, hclear⟩ hfmt hwf hstores
      (fun core hlog => (Nat.add_le_add_left (by decide) _).trans (hroom core hlog)) hstorable hout
    have hr' : r = optResult op (Num.val32 (s.me.e[1].setWidth 32)) := hr.trans (optResult_eq op _).symm
    rw [optBytes_eq op (s.spot f j).loc _ _ _ hfmt, ← hr'] at hwrote
    exact ⟨t, hexec.trans hopt, haccessed, hwrote⟩

end Sys2Proof.Machine
end

section
/-! SUPPORT. An operator command as it comes before its sequencer (R159, R160, R344): what the strand reads and waits for, and
whether the sequencer takes it. -/

namespace Sys2Proof.Machine

/-- A command of an engine by a calm strand of a core that has engines runs its body once it has issued (R25, R159, R196). -/
theorem engineCommand_calm (i : Instr) (la : Look) (body : M Unit) {s : State} (hcalm : s.calm) (hcore : Claims.engineCore s) :
    engineCommand i la body s = finishLong 4 (window la) [.l0] none s (body (s.issue 4)) := by
  have hengine : coreNo s.me.homeCore ≤ 16 := hcore
  have hlevel : ¬ s.me.plv < 0 := BitVec.not_lt_zero
  rw [engineCommand, legalIf, if_pos (decide_eq_true hengine), command, atLevel, if_neg hlevel,
    long_calm 4 0 _ _ _ s hcalm (guarded_zero _), bind_ok _ _ _ _ _ (atHome_calm _ (State.calm_issue s 4 hcalm))]

theorem rd3_issue_calm {a b c : Reg} {s : State} (n : Nat) (hcalm : s.calm) (h : [a, b, c].all Reg.plain = true) :
    rd3 a b c (s.issue n) = .ok ((s.me.src a, s.me.src b, s.me.src c), s.issue n) := by
  simp only [List.all_cons, List.all_nil, Bool.and_true, Bool.and_eq_true] at h
  obtain ⟨ha, hb, hc⟩ := h
  rw [rd3, bind_ok _ _ _ _ _ (rd_issue_near n hcalm.near ha), bind_ok _ _ _ _ _ (rd_issue_near n hcalm.near hb),
    bind_ok _ _ _ _ _ (rd_issue_near n hcalm.near hc)]
  rfl

theorem issueFor_ok {s : State} {far : Bool} (hpend : s.me.pend = []) (h : Claims.releasable s far) :
    issueFor far s = .ok ((), s) := by
  obtain ⟨hstores, hacked⟩ := h
  rw [issueFor]
  split
  next hfar =>
    obtain ⟨hunacked, herr⟩ := hacked hfar
    rw [releasedSpan_acked hpend hstores hunacked, herr]
  next => exact released_empty s hstores hpend

/-! The instruction as the command it presents. -/

theorem opForm_of_operatorCmd {s : State} {i : Instr} {la : Look} {rs : List Reg} {c : Cmd}
    (h : Claims.operatorCmd s i = some (la, rs, c)) :
    ∃ f, opForm i = some f ∧ f.op ≠ 8 ∧ rs = [f.a, f.b, f.c] ∧ c = f.cmd (s.me.src f.a) (s.me.src f.b) (s.me.src f.c) s := by
  unfold Claims.operatorCmd at h
  split at h
  -- No other instruction presents a command.
  case h_9 => cases h
  all_goals cases h; exact ⟨_, rfl, Nat.ne_of_beq_eq_false rfl, rfl, rfl⟩

theorem exec_of_opForm {i : Instr} {f : OpForm} (s : State) (h : opForm i = some f) : exec i s = operator i s := by
  unfold opForm at h
  split at h
  case h_10 => cases h
  all_goals rfl

/-- What a strand presents (R160). -/
def State.offer (s : State) (i : Instr) : Offer := { cl := clusterOf s.me.homeCore, sid := s.me.sid.toNat, pc := s.me.pc, ins := i }

/-- The state in which it stands at the instruction and presents it. -/
def State.presenting (s : State) (i : Instr) : State :=
  { s with engines := { s.engines with offers := (s.engines.offers.filter (· != s.offer i)) ++ [s.offer i] } }

/-- An operator command or OPWAIT presents itself: it is served at once where nothing else is presented (R160). -/
theorem exec_operator {i : Instr} {f : OpForm} {s : State} (h : opForm i = some f) (hcalm : s.calm) (hcore : Claims.engineCore s) :
    exec i s = finishLong 4 (window f.la) [.l0] none s
      (presented f (stop (.hold (s.presenting i))) (fun t => !(t.engines.offers.any fun x => x.cl == clusterOf s.me.homeCore))
        (s.issue 4)) := by
  rw [exec_of_opForm s h, operator, h]
  exact engineCommand_calm i f.la _ hcalm hcore

/-- The sequencer takes a command: its checks, the decision on its fields, its record (R161, R166, R171). -/
def sequence (c : Cmd) : M Unit := do
  let p ← plan c
  let sw ← allSwaps c p.needs
  serve
  accept c p sw

section
variable {f : OpForm} {s : State} (wait_ : M Unit) (free : State → Bool) (hcalm : s.calm)
  (hplain : [f.a, f.b, f.c].all Reg.plain = true)
include hcalm hplain

/-- A command whose strand waits for nothing is taken where it may be and held back otherwise (R160). -/
theorem presented_command {c : Cmd} (hop : f.op ≠ 8) (hc : c = f.cmd (s.me.src f.a) (s.me.src f.b) (s.me.src f.c) s)
    (hrel : Claims.releasable s (c.fields.any s.farField)) :
    presented f wait_ free (s.issue 4) = (if free (s.issue 4) && s.canAccept c then sequence c else wait_) (s.issue 4) := by
  have hissued := State.calm_issue s 4 hcalm
  have ⟨_, hpend, _⟩ := hissued
  have hissue : issueFor (c.fields.any (s.issue 4).farField) (s.issue 4) = .ok ((), s.issue 4) := issueFor_ok hpend hrel
  have hcmd : f.cmd (s.me.src f.a) (s.me.src f.b) (s.me.src f.c) (s.issue 4) = c := hc.symm
  rw [presented, bind_ok _ _ _ _ _ (atHome_calm _ hissued), bind_ok _ _ _ _ _ (rd3_issue_calm 4 hcalm hplain)]
  dsimp only
  rw [bind_ok _ _ _ _ _ rfl, if_neg hop, hcmd, bind_ok _ _ _ _ _ hissue]
  rfl

/-- OPWAIT is served where it may be and held back otherwise (R188). -/
theorem presented_opwait (hop : f.op = 8) :
    presented f wait_ free (s.issue 4) =
      (if free (s.issue 4) then opwaitServed (s.me.src f.a) f.la else wait_) (s.issue 4) := by
  rw [presented, bind_ok _ _ _ _ _ (atHome_calm _ (State.calm_issue s 4 hcalm)), bind_ok _ _ _ _ _ (rd3_issue_calm 4 hcalm hplain)]
  dsimp only
  rw [bind_ok _ _ _ _ _ rfl, if_pos hop]

end

/-! OPWAIT (R188). -/

/-- The sequencer of the strand's cluster goes on from its core (Table 9.2). -/
def State.rotated (s : State) : State :=
  { s with engines := { s.engines with ptr := SMap.put (clusterOf s.me.homeCore) (coreNo s.me.homeCore) s.engines.ptr } }

/-- What OPWAIT waits for: the command in flight that holds the id, or the status of the last one that did. -/
def State.opwaitOwes (s : State) (x : Word) : Owe :=
  match (s.inFlight (clusterOf s.me.homeCore)).find? fun c => c.id == wbits x 0 8 with
  | some c => .command c.seq
  | none => .value [(SMap.find (clusterOf s.me.homeCore * 256 + wbits x 0 8) s.engines.status).getD 0]

theorem opwaitServed_of_pend_nil {s : State} (x : Word) (la : Look) (hpend : s.me.pend = []) :
    opwaitServed x la s = .ok ((), s.rotated.awaiting .l0 (s.opwaitOwes x) la.val) := by
  rw [opwaitServed, bind_ok _ _ _ _ _ rfl, bind_ok serve _ _ _ s.rotated rfl, State.opwaitOwes]
  cases (s.inFlight (clusterOf s.me.homeCore)).find? fun c => c.id == wbits x 0 8 with
  | some c => exact await_one .l0 _ _ hpend
  | none => exact await_one .l0 _ _ hpend

/-- OPWAIT with nothing else before the sequencer owes l0 what it waits for. -/
theorem exec_opwait {a : Reg} {la : Look} {s : State} (hcalm : s.calm) (hcore : Claims.engineCore s) (ha : a.plain = true)
    (hfree : (s.engines.offers.any fun x => x.cl == clusterOf s.me.homeCore) = false) :
    ∃ t, exec (.opwait a la) s = .next t ∧ Claims.waits s t [.l0] (s.opwaitOwes (s.me.src a)) la.val := by
  have ⟨_, hpend, _⟩ := State.calm_issue s 4 hcalm
  have hplain : [a, .z, .z].all Reg.plain = true := by rw [List.all_cons, ha]; rfl
  have hfree' : (!((s.issue 4).engines.offers.any fun x => x.cl == clusterOf s.me.homeCore)) = true := congrArg Bool.not hfree
  have hxpc : s.me.pc + 4 - 4 = s.me.pc := BitVec.add_sub_cancel _ _
  refine ⟨(s.issue 4).rotated.awaiting .l0 (s.opwaitOwes (s.me.src a)) la.val, ?_, _, rfl, rfl, rfl, rfl, rfl, hxpc, rfl⟩
  rw [exec_operator (f := { op := 8, a, la }) rfl hcalm hcore, presented_opwait _ _ hcalm hplain rfl, if_pos hfree',
    opwaitServed_of_pend_nil _ _ hpend]
  rfl

end Sys2Proof.Machine
end

section
/-! SUPPORT. A command taken by its sequencer (R161, R163, R171, R176): the decision on its fields where none needs a remap, the
promise, and the record that is in flight from then on. -/

namespace Sys2Proof.Machine

/-! The decision on the fields (R171, R258). -/

/-- Only the log of a field table has grown: every field is what it was. -/
def State.fieldsLogged (s t : State) : Prop :=
  (∃ fieldTabs obj, t = { s with fieldTabs, obj }) ∧ t.objAt = s.objAt

theorem State.fieldsLogged.refl (s : State) : s.fieldsLogged s := ⟨⟨_, _, rfl⟩, rfl⟩

theorem State.fieldsLogged.trans {s t u : State} (h : s.fieldsLogged t) (h' : t.fieldsLogged u) : s.fieldsLogged u := by
  obtain ⟨⟨_, _, rfl⟩, hobj⟩ := h
  obtain ⟨⟨_, _, rfl⟩, hobj'⟩ := h'
  exact ⟨⟨_, _, rfl⟩, hobj'.trans hobj⟩

theorem objAt_modObj_id (s : State) (key : Nat) : (s.modObj key id).objAt = s.objAt := by
  funext j
  rw [State.objAt, State.obj?, State.modObj_obj, SMap.find_put]
  split
  next h => rw [h]; rfl
  next => rfl

theorem requestRemap_of_no_swaps (s : State) (key : Nat) (o : Obj) :
    s.requestRemap key o [] = (s.logChange key 0 .sweep id, [], 0) := rfl

theorem fieldsLogged_logChange (s : State) (key call : Nat) (change : Change) :
    s.fieldsLogged (s.logChange key call change id) :=
  ⟨⟨_, _, rfl⟩, objAt_modObj_id { s with fieldTabs := _ } key⟩

/-- Where no field needs a remap, each decision is an entry of its field's log alone (R276). -/
theorem startAll_of_no_swaps {sw : List (Nat × List (Nat × Nat))} (h : ∀ x ∈ sw, x.2 = []) (s : State) :
    ∃ u, startAll sw s = .ok (([], 0), u) ∧ s.fieldsLogged u := by
  induction sw generalizing s with
  | nil => exact ⟨s, rfl, .refl s⟩
  | cons x r ih =>
    obtain ⟨hx, hr⟩ := List.forall_mem_cons.mp h
    obtain ⟨u, hstart, hu⟩ := ih hr (s.logChange x.1 0 .sweep id)
    refine ⟨u, ?_, (fieldsLogged_logChange s x.1 0 .sweep).trans hu⟩
    rw [startAll, bind_ok _ _ _ _ _ rfl, hx, requestRemap_of_no_swaps, bind_ok _ _ _ _ _ rfl, bind_ok _ _ _ _ _ hstart]
    rfl

/-- What a command costs depends on the fields it names, the maps in force, the tags of the slots and the device (R176). -/
theorem costOf_congr {s t : State} (hobj : t.objAt = s.objAt) (hremaps : t.remaps = s.remaps)
    (htags : t.engines.tags = s.engines.tags) (hsid : t.me.sid = s.me.sid) (c : Cmd) : t.costOf c = s.costOf c := by
  have hmap : t.forceMap = s.forceMap := by
    funext key o
    rw [State.forceMap, hremaps]
    rfl
  have hbits : t.holderBits = s.holderBits := by
    funext job die o m
    simp only [State.holderBits, State.holder, State.devNo, hsid]
  simp only [State.costOf, State.workOf, State.tag, hobj, hmap, hbits, htags]

theorem State.fieldsLogged.costOf {s t : State} (h : s.fieldsLogged t) (c : Cmd) : t.costOf c = s.costOf c := by
  obtain ⟨⟨_, _, rfl⟩, hobj⟩ := h
  exact costOf_congr hobj rfl rfl rfl c

/-! The record (R161, R163, R176). -/

/-- A command as it is accepted where its fields need no remap, with the tags of the slots it reads: the commands it is linked to
and its promise, which counts from the last of theirs. -/
def Cmd.recorded (c : Cmd) (p : Plan) (s : State) (tags : List Nat) : Cmd :=
  let preds := (s.inFlight c.cl).filter fun x => c.predIds.contains x.id
  let w := s.costOf c
  { c with
    seq := s.engines.next
    promise := toW (Max.max s.clk.toNat (preds.foldl (fun v x => Max.max v x.promise.toNat) s.clk.toNat) +
      (Max.max w.1 (Max.max (ceilDiv w.2 512) p.tslot) + 40))
    preds := preds.map Cmd.seq
    remaps := []
    tags }

/-- A command joins those in flight, and its promise the last-result file (R160, R65). -/
def State.recording (s : State) (c : Cmd) (tags : SMap Nat) : State :=
  { s with
    me := s.me.shift c.promise
    engines := { s.engines with
      next := s.engines.next + 1
      cmds := s.engines.cmds ++ [c]
      status := SMap.put (c.cl * 256 + c.id) 0 s.engines.status
      tags } }

theorem accept_eq {v u : State} (c : Cmd) (p : Plan) {sw : List (Nat × List (Nat × Nat))}
    (hstart : startAll sw v = .ok (([], 0), u)) :
    ∃ ts tags, accept c p sw v = (waitFor (.command u.engines.next) (Fin.ofNat 16 c.la) >>= fun _ =>
      upd fun s => s.due .commandStart { n := u.engines.next }) (u.recording (c.recorded p u ts) tags) := by
  rw [accept, bind_ok _ _ _ _ _ hstart]
  -- The slots that the command writes are tagged, if it writes any.
  cases p.writes with
  | none => exact ⟨_, _, rfl⟩
  | some => exact ⟨_, _, rfl⟩

/-- With nothing to wait for, the promise counts from the acceptance (R176). -/
theorem recorded_promise {c : Cmd} {p : Plan} {s : State} {tags : List Nat} (h : (c.recorded p s tags).preds = []) :
    (c.recorded p s tags).promise = BitVec.ofNat 64
      (s.clk.toNat + (Max.max (s.costOf c).1 (Max.max (ceilDiv (s.costOf c).2 512) p.tslot) + 40)) := by
  have hnone : (s.inFlight c.cl).filter (fun x => c.predIds.contains x.id) = [] := List.map_eq_nil_iff.mp h
  simp only [Cmd.recorded, hnone, List.foldl_nil, Nat.max_self, toW]

theorem waitFor_of_pend_nil {s : State} (src : Owe) (la : Look) (hpend : s.me.pend = []) :
    ∃ pend, waitFor src la s = .ok ((), { s with me := { s.me with pend } }) ∧
      if la.val = 15 then pend = [] else ∃ q : Pending, pend = [q] ∧ q.src = src ∧ q.left = la.val := by
  rw [waitFor]
  split
  next => exact ⟨s.me.pend, rfl, hpend⟩
  next => exact ⟨_, rfl, _, by rw [hpend]; rfl, rfl, rfl⟩

/-- A command whose fields are decided is in flight, its strand has its promise, and it is to start. -/
theorem accept_logged {v u : State} {c : Cmd} (p : Plan) {sw : List (Nat × List (Nat × Nat))}
    (hstart : startAll sw v = .ok (([], 0), u)) (hu : v.fieldsLogged u) (hpend : v.me.pend = []) (hla : c.la < 16)
    (hptr : SMap.find c.cl v.engines.ptr = some (coreNo v.me.homeCore)) :
    ∃ t, accept c p sw v = .ok ((), t) ∧ Claims.accepted v t c p ∧ t.me.pc = v.me.pc ∧ t.engines.offers = v.engines.offers := by
  obtain ⟨ts, tags, haccept⟩ := accept_eq c p hstart
  have hshift : (u.recording (c.recorded p u ts) tags).me.pend = [] := by
    obtain ⟨⟨_, _, rfl⟩, -⟩ := hu
    exact congrArg (List.map _) hpend
  obtain ⟨pend, hwait, howes⟩ := waitFor_of_pend_nil (.command u.engines.next) (Fin.ofNat 16 c.la) hshift
  have hlook : (Fin.ofNat 16 c.la).val = c.la := Nat.mod_eq_of_lt hla
  rw [bind_ok _ _ _ _ _ hwait] at haccept
  rw [hlook] at howes
  have hpromise (h : (c.recorded p u ts).preds = []) := recorded_promise h
  rw [hu.costOf c] at hpromise
  obtain ⟨⟨_, _, rfl⟩, -⟩ := hu
  exact ⟨_, haccept, ⟨_, rfl, rfl, rfl, hpromise, rfl, rfl, rfl, hptr, List.mem_append_right _ (List.mem_singleton_self _), howes⟩,
    rfl, rfl⟩

/-- A command that passes its checks, with no field to remap, is taken as R160 to R163 say. -/
theorem sequence_presentable {s : State} {c : Cmd} {p : Plan} (hcalm : s.calm) (hcl : c.cl = clusterOf s.me.homeCore) (hla : c.la < 16)
    (h : Claims.presentable (s.issue 4) c p) :
    ∃ t, sequence c (s.issue 4) = .ok ((), t) ∧ Claims.accepted s t c p ∧ t.me.pc = s.me.pc + 4 ∧
      t.engines.offers = s.engines.offers := by
  obtain ⟨hplan, sw, hswaps, hlocal⟩ := h
  have ⟨_, hpend, _⟩ := State.calm_issue s 4 hcalm
  obtain ⟨u, hstart, hu⟩ := startAll_of_no_swaps hlocal (s.issue 4).rotated
  have hptr : SMap.find c.cl (SMap.put (clusterOf s.me.homeCore) (coreNo s.me.homeCore) s.engines.ptr) =
      some (coreNo s.me.homeCore) := by
    rw [SMap.find_put, if_pos hcl]
  obtain ⟨t, haccept, ht⟩ := accept_logged p hstart hu hpend hla hptr
  refine ⟨t, ?_, ht⟩
  rw [sequence, bind_ok _ _ _ _ _ hplan, bind_ok _ _ _ _ _ hswaps, bind_ok serve _ _ _ (s.issue 4).rotated rfl, haccept]

/-- A presented command that may be taken is taken. -/
theorem presented_taken {f : OpForm} {s : State} {c : Cmd} {p : Plan} (wait_ : M Unit) {free : State → Bool} (hcalm : s.calm)
    (hplain : [f.a, f.b, f.c].all Reg.plain = true) (hop : f.op ≠ 8)
    (hc : c = f.cmd (s.me.src f.a) (s.me.src f.b) (s.me.src f.c) s) (hrel : Claims.releasable s (c.fields.any s.farField))
    (hfree : free (s.issue 4) = true) (hroom : s.canAccept c = true) (h : Claims.presentable (s.issue 4) c p) :
    ∃ t, presented f wait_ free (s.issue 4) = .ok ((), t) ∧ Claims.accepted s t c p ∧ t.me.pc = s.me.pc + 4 ∧
      t.engines.offers = s.engines.offers := by
  have hcl : c.cl = clusterOf s.me.homeCore := by rw [hc]; rfl
  have hla : c.la < 16 := by rw [hc]; exact f.la.isLt
  rw [presented_command _ _ hcalm hplain hop hc hrel, hfree, hroom, Bool.and_self, if_pos rfl]
  exact sequence_presentable hcalm hcl hla h

end Sys2Proof.Machine
end

section
/-! SUPPORT. The course of an operator command (R160, R162, R175, R189, R190): the presented one that is served, the record as it
changes, and the retirement. -/

namespace Sys2Proof.Machine

/-! COMMAND_ACCEPT (R160). -/

theorem findSome?_of_forall_eq {α β : Type} {f : α → Option β} {a : α} {l : List α} (hall : ∀ x ∈ l, x = a) (hmem : a ∈ l) :
    l.findSome? f = f a := by
  rw [List.eq_replicate_of_mem hall, List.findSome?_replicate, if_neg (List.length_pos_of_mem hmem).ne']

/-- The rotation meets every core of a cluster that presents a command (R160). -/
theorem mem_rotation {s : State} {o : Offer} (h : o ∈ s.engines.offers) (hcore : coreNo (o.sid / 16) ≤ 16) :
    o ∈ s.rotation o.cl := by
  let p := (SMap.find o.cl s.engines.ptr).getD 16
  have hturn : (coreNo (o.sid / 16) == (p + 1 + (coreNo (o.sid / 16) + 16 * (p + 1)) % 17) % 17) = true := by
    rw [beq_iff_eq]
    omega
  refine List.mem_flatMap.mpr ⟨_, List.mem_range.mpr (Nat.mod_lt (coreNo (o.sid / 16) + 16 * (p + 1)) (by decide)), ?_⟩
  exact List.mem_filter.mpr ⟨h, by rw [beq_self_eq_true, Bool.true_and]; exact hturn⟩

/-- The only command presented to a sequencer is the first that it serves. -/
theorem accepts_of_single {s : State} {o : Offer} (hoffers : s.engines.offers = [o]) (hcore : coreNo (o.sid / 16) ≤ 16) :
    s.accepts o.cl = s.served o := by
  refine findSome?_of_forall_eq (fun x hx => ?_) (mem_rotation (hoffers ▸ List.mem_singleton_self o) hcore)
  obtain ⟨_, -, hx⟩ := List.mem_flatMap.mp hx
  have hmem := List.mem_of_mem_filter hx
  rw [hoffers] at hmem
  exact List.mem_singleton.mp hmem

/-- The strand of the only command presented goes on where the command is taken. -/
theorem exec_commandAccept_single {s u t : State} {o : Offer} {f : OpForm} (hoffers : s.engines.offers = [o])
    (hcl : o.cl = s.arg.cl) (hsid : o.sid = s.me.sid.toNat) (hcore : coreNo (o.sid / 16) ≤ 16)
    (hu : u = { s with engines := { s.engines with offers := [] } }) (hform : opForm o.ins = some f)
    (h : presented f (stop .wait) (fun _ => true) (u.issue 4) = .ok ((), t)) : exec .commandAccept s = .next t := by
  have hfocus : s.focus (o.sid % 65536) = s := by
    rw [hsid]
    exact if_pos (Nat.mod_mod _ _).symm
  have herase : s.engines.offers.erase o = [] := by rw [hoffers, List.erase_cons_head]
  have hserved : s.served o = some (.next t) := by
    rw [State.served, hform, hfocus, herase, ← hu]
    dsimp only
    rw [h]
    rfl
  rw [exec, execCommandAccept, ← hcl, accepts_of_single hoffers hcore, hserved]

/-! The record of a command as it changes. -/

theorem cmd?_setCmd {s : State} {c x : Cmd} (h : s.cmd? x.seq = some c) : (s.setCmd x).cmd? x.seq = some x := by
  have hsame : ((fun y : Cmd => y.seq == x.seq) ∘ fun y : Cmd => if y.seq == x.seq then x else y) = fun y => y.seq == x.seq := by
    funext y
    by_cases hy : y.seq = x.seq <;> simp [hy]
  have hfound : s.engines.cmds.find? (fun y => y.seq == x.seq) = some c := h
  have hseq := List.find?_some hfound
  rw [State.cmd?, State.setCmd, List.find?_map, hsame, hfound, Option.map_some, if_pos hseq]

/-- Matrix buffers are the only thing that differs. -/
def State.withBufs (s : State) (bufs : List (Nat × Nat × Nat)) : State := { s with engines := { s.engines with bufs } }

theorem foldl_withBufs_eq (f : State → Nat → List (Nat × Nat × Nat)) (l : List Nat) (t : State) :
    ∃ bufs, l.foldl (fun t u => t.withBufs (f t u)) t = t.withBufs bufs := by
  induction l generalizing t with
  | nil => exact ⟨t.engines.bufs, rfl⟩
  | cons u r ih =>
    obtain ⟨bufs, h⟩ := ih (t.withBufs (f t u))
    exact ⟨bufs, h⟩

theorem dropBufs_withBufs_eq (t : State) (bufs : List (Nat × Nat × Nat)) (cl s0 n : Nat) :
    ∃ bufs', (t.withBufs bufs).dropBufs cl s0 n = t.withBufs bufs' := ⟨_, rfl⟩

/-- Slots that OPLD or OPGEN writes (R182, R183). -/
def Cmd.slotsWritten (c : Cmd) : Nat :=
  if c.op = 6 then slotsPer (wbits c.a 16 4) * 2 ^ listCount c.e[0]
  else if wbits c.a 0 4 = 5 then wbits c.a 16 16
  else slotsPer (wbits c.a 8 4)

/-- A command that starts is computing, and the buffers have changed (R156, R192). -/
theorem begin_eq (s : State) (c : Cmd) : ∃ bufs, s.begin c = (s.setCmd { c with st := 1 }).withBufs bufs := by
  obtain ⟨bufs, h⟩ := foldl_withBufs_eq
    (fun t u => useBuf (c.cl, c.hi + u * slotsPer c.slotFmt, slotsPer c.slotFmt) t.engines.bufs)
    (List.range (c.tags.length / slotsPer c.slotFmt)) (s.setCmd { c with st := 1 })
  by_cases hop : c.op < 6
  · exact ⟨bufs, (if_pos hop).trans h⟩
  · obtain ⟨bufs', h'⟩ := dropBufs_withBufs_eq (s.setCmd { c with st := 1 }) bufs c.cl c.hi c.slotsWritten
    have hdrop := congrArg (fun t : State => t.dropBufs c.cl c.hi c.slotsWritten) h
    exact ⟨bufs', (if_neg hop).trans (hdrop.trans h')⟩

theorem noteErr_none (s : State) (c : Cmd) : s.noteErr c none = (s, c.status) := rfl

/-! COMMAND_START (R162, R175, R189). -/

section
variable {s : State} {c : Cmd} (hc : s.cmd? s.arg.n = some c)
include hc

section
variable (hst : c.st = 0) (hready : c.ready = true)
  (hfirst : ((s.inFlight c.cl).any fun x => x.ready && decide (x.seq < c.seq)) = false)
include hst hready hfirst

/-- A command that waits for nothing starts, unless a slot it reads has changed since it was accepted. -/
theorem exec_commandStart_starts (htags : tagChanged s c = none) :
    exec .commandStart s = .next ((s.begin c).due .commandStart s.arg) := by
  simp [exec, execCommandStart, hc, hst, hready, hfirst, htags]

theorem exec_commandStart_tagChanged {n : Nat} (htags : tagChanged s c = some n) :
    exec .commandStart s = .next (s.retire c (toW (4 + n * 256))) := by
  simp [exec, execCommandStart, hc, hst, hready, hfirst, htags]

end

section
variable (hst : c.st = 1)
include hst

theorem exec_commandStart_done (hputs : c.puts = []) (hdone : c.units s ≤ c.done) :
    exec .commandStart s = .next (s.retire c c.status) := by
  simp [exec, execCommandStart, hc, hst, hputs, hdone]

theorem exec_commandStart_works (h : c.puts ≠ [] ∨ c.done < c.units s) : exec .commandStart s = .next (s.work c) := by
  have hmore : ¬ (c.puts.isEmpty && decide (c.units s ≤ c.done)) = true := by
    rw [Bool.and_eq_true, List.isEmpty_iff, decide_eq_true_eq, not_and_or, not_le]
    exact h
  simp only [exec, execCommandStart, hc, hst, if_neg hmore]
  rfl

end

end

section
variable {s : State} {c : Cmd} (hslots : badSlot s c.cl c.hi c.tags.length = none) (hfields : s.fieldsReady c = true)
include hslots hfields

/-- What a unit computed is written in a move of its own. -/
theorem work_writes {t : State} (hputs : c.puts ≠ []) (hwrite : c.write c.puts none s = .ok (none, t)) :
    s.work c = (t.setCmd { c with puts := [] }).due .commandStart { n := c.seq } := by
  simp [State.work, hslots, hfields, hputs, hwrite, noteErr_none]

theorem work_computes {t : State} {w : Work} (hputs : c.puts = []) (hunit : c.unit c.done s = .ok (w, t)) (herr : w.err = none) :
    s.work c = (t.setCmd { c with done := c.done + 1, puts := w.puts }).due .commandStart { n := c.seq } := by
  simp [State.work, hslots, hfields, hputs, hunit, herr, noteErr_none]

end

/-! COMMAND_RETIRE (R162, R188 to R190). -/

/-- What a retirement makes of a command still in flight: it no longer waits for the one that has retired, or it fails as that one
did, unless it has started. -/
def Cmd.after (seq : Nat) (status : Word) (x : Cmd) : Cmd :=
  if x.preds.contains seq then
    (if status = 0 then { x with preds := x.preds.filter (· != seq) } else if x.st = 0 then { x with st := 2, status := 3 } else x)
  else x

theorem after_seq (seq : Nat) (status : Word) (x : Cmd) : (x.after seq status).seq = x.seq := by
  rw [Cmd.after]
  split_ifs <;> rfl

theorem after_linked {seq : Nat} {x : Cmd} (h : x.preds.contains seq = true) :
    x.after seq 0 = { x with preds := x.preds.filter (· != seq) } := by
  rw [Cmd.after, if_pos h, if_pos rfl]

theorem after_linked_failed {seq : Nat} {status : Word} {x : Cmd} (h : x.preds.contains seq = true) (hstatus : status ≠ 0)
    (hst : x.st = 0) : x.after seq status = { x with st := 2, status := 3 } := by
  rw [Cmd.after, if_pos h, if_neg hstatus, if_pos hst]

theorem foldl_due_eq (ev : Instr) (f : Cmd → Arg) (l : List Cmd) (t : State) :
    ∃ agenda, l.foldl (fun t x => t.due ev (f x)) t = { t with agenda } := by
  induction l generalizing t with
  | nil => exact ⟨t.agenda, rfl⟩
  | cons x r ih =>
    obtain ⟨agenda, h⟩ := ih (t.due ev (f x))
    exact ⟨agenda, h⟩

theorem ite_foldl_due_eq (p : Prop) [Decidable p] (ev : Instr) (f : Cmd → Arg) (l : List Cmd) (t : State) :
    ∃ agenda, (if p then t else l.foldl (fun t x => t.due ev (f x)) t) = { t with agenda } := by
  split
  next => exact ⟨t.agenda, rfl⟩
  next => exact foldl_due_eq ev f l t

/-- A command that retires leaves its status, and the commands in flight and the strands hear of it. -/
structure State.retiresTo (s t : State) (c : Cmd) : Prop where
  pend : t.me.pend = s.me.pend.filterMap (retired c.seq c.status)
  mem : t.mem = s.mem
  status : t.engines.status = SMap.put (c.cl * 256 + c.id) c.status s.engines.status
  cmds : t.engines.cmds = (s.engines.cmds.filter fun x => x.seq != c.seq).map (Cmd.after c.seq c.status)

theorem exec_commandRetire {s : State} {c : Cmd} (hc : s.cmd? s.arg.n = some c) (hst : c.st = 2) :
    ∃ t, exec .commandRetire s = .next t ∧ s.retiresTo t c := by
  rw [exec, execCommandRetire, hc]
  dsimp only
  rw [if_neg (not_not_intro hst)]
  obtain ⟨agenda, h⟩ := ite_foldl_due_eq (c.status = 0) .commandRetire (fun x => { n := x.seq }) _ _
  exact ⟨_, congrArg Host.Outcome.next h, rfl, rfl, rfl, rfl⟩

section
variable {s t : State} {c : Cmd} (h : s.retiresTo t c)
include h

theorem State.retiresTo.find_status : SMap.find (c.cl * 256 + c.id) t.engines.status = some c.status := by
  rw [h.status, SMap.find_put, if_pos rfl]

theorem State.retiresTo.seq_ne {x : Cmd} (hx : x ∈ t.engines.cmds) : x.seq ≠ c.seq := by
  rw [h.cmds] at hx
  obtain ⟨y, hy, rfl⟩ := List.mem_map.mp hx
  rw [after_seq]
  exact bne_iff_ne.mp (List.mem_filter.mp hy).2

theorem State.retiresTo.after_mem {x : Cmd} (hx : x ∈ s.engines.cmds) (hne : x.seq ≠ c.seq) :
    x.after c.seq c.status ∈ t.engines.cmds := by
  rw [h.cmds]
  exact List.mem_map_of_mem (List.mem_filter.mpr ⟨hx, bne_iff_ne.mpr hne⟩)

variable {p : Pending} (hpend : s.me.pend = [p])
include hpend

theorem State.retiresTo.pend_of_some {q : Pending} (hq : retired c.seq c.status p = some q) : t.me.pend = [q] := by
  rw [h.pend, hpend, List.filterMap_cons_some hq, List.filterMap_nil]

theorem State.retiresTo.pend_of_none (hnone : retired c.seq c.status p = none) : t.me.pend = [] := by
  rw [h.pend, hpend, List.filterMap_cons_none hnone, List.filterMap_nil]

end

section
variable {seq : Nat} {status : Word} {p : Pending} (hsrc : p.src = .command seq)
include hsrc

/-- OPWAIT takes the status for its value (R188). -/
theorem retired_lands (hlands : p.lands ≠ []) : retired seq status p = some { p with src := .value [status] } := by
  simp [retired, hsrc, hlands]

variable (hlands : p.lands = [])
include hlands

/-- The strand of the command goes on. -/
theorem retired_zero (hstatus : status = 0) : retired seq status p = none := by
  simp [retired, hsrc, hlands, wbits, bitsOf, hstatus]

theorem retired_memory (hcode : status.toNat % 8 = 1) : retired seq status p = some (p.fail (.fault 8 0 (status >>> 8))) := by
  simp [retired, hsrc, hlands, wbits, bitsOf, hcode]

theorem retired_failed (hcode : status.toNat % 8 = 3 ∨ status.toNat % 8 = 4 ∨ status.toNat % 8 = 5) :
    retired seq status p = some (p.fail (.fault 3 7 status)) := by
  rcases hcode with hcode | hcode | hcode <;> simp [retired, hsrc, hlands, wbits, bitsOf, hcode]

theorem retired_access (hcode : status.toNat % 8 = 6) : retired seq status p = some (p.fail (.fault 5 0 (status >>> 8))) := by
  simp [retired, hsrc, hlands, wbits, bitsOf, hcode]

end

end Sys2Proof.Machine
end

section
/-! PROOFS. The obligations of operator commands (09_operator_apply): acceptance and OPWAIT, and the course of a command. -/

namespace Sys2Proof.Machine

/-- Settles O33: an operator command whose checks pass joins the commands in flight where nothing else stands before the
sequencer and it has room, and is presented otherwise; OPWAIT owes l0 the status of its id. -/
theorem operatorAccepted : Obligations.OperatorAccepted := by
  refine ⟨fun i la rs c s hcmd hcalm hcore hplain hrel => ?command, fun a la s hcalm hcore ha hfree => ?opwait⟩
  case command =>
    obtain ⟨f, hform, hop, rfl, hc⟩ := opForm_of_operatorCmd hcmd
    have hcl : c.cl = clusterOf s.me.homeCore := by rw [hc]; rfl
    have hrun := exec_operator hform hcalm hcore
    rw [← hcl] at hrun
    refine ⟨fun p hp hroom hfree => ?_, fun hheld o ho => ?_⟩
    · obtain ⟨t, htaken, haccepted, hpc, -⟩ := presented_taken (stop (.hold (s.presenting i))) hcalm hplain hop hc hrel
        (free := fun t => !(t.engines.offers.any fun x => x.cl == c.cl)) (congrArg Bool.not hfree) hroom hp
      rw [htaken] at hrun
      exact ⟨t, hrun, haccepted, hpc⟩
    · have hheld' : ¬ (!((s.issue 4).engines.offers.any fun x => x.cl == c.cl) && s.canAccept c) = true := by
        rw [Bool.and_eq_true, not_and_or, Bool.not_eq_true', Bool.not_eq_false, Bool.not_eq_true]
        exact hheld
      rw [hrun, presented_command _ _ hcalm hplain hop hc hrel, if_neg hheld', ho, hcl]
      rfl
  case opwait =>
    obtain ⟨t, hexec, hwaits⟩ := exec_opwait (la := la) hcalm hcore ha hfree
    rw [State.opwaitOwes] at hwaits
    refine ⟨fun c hholds => ⟨t, hexec, ?_⟩, fun hidle => ⟨t, hexec, ?_⟩⟩
    · rwa [hholds] at hwaits
    · rwa [hidle] at hwaits

/-- Settles O34: a presented command is taken in its turn; its record changes move by move; its retirement tells the commands linked
to it and the instruction that waits. -/
theorem operatorCourse : Obligations.OperatorCourse := by
  refine ⟨fun s u la rs c p o hoffers hcl hsid hcore hu hcmd hcalm hplain hrel hp hroom => ?accept, fun s c hc hseq => ?course⟩
  case accept =>
    obtain ⟨f, hform, hop, rfl, hc⟩ := opForm_of_operatorCmd hcmd
    have hcalm' : u.calm := by rw [hu]; exact hcalm
    have hrel' : Claims.releasable u (c.fields.any u.farField) := by rw [hu]; exact hrel
    obtain ⟨t, htaken, haccepted, hpc, hleft⟩ := presented_taken (stop .wait) (free := fun _ => true) hcalm' hplain hop hc
      hrel' rfl hroom hp
    rw [hu] at hpc hleft
    exact ⟨t, exec_commandAccept_single hoffers hcl hsid hcore hu hform htaken, haccepted, hleft, hpc⟩
  case course =>
    have hfound : s.cmd? c.seq = some c := by rw [hseq]; exact hc
    refine ⟨fun hst hready hfirst => ⟨fun htags => ?starts, fun n htags => ?changed⟩, fun hst hputs hdone => ?done,
      fun w t hst hputs hmore hslots hfields hunit herr => ?computes, fun t hst hputs hslots hfields hwrite => ?writes,
      fun p hst hpend hsrc => ?retires⟩
    case starts =>
      obtain ⟨bufs, hbegin⟩ := begin_eq s c
      refine ⟨_, exec_commandStart_starts hc hst hready hfirst htags, ?_⟩
      rw [hbegin]
      exact ⟨cmd?_setCmd (x := { c with st := 1 }) hfound, rfl, rfl⟩
    case changed =>
      exact ⟨_, exec_commandStart_tagChanged hc hst hready hfirst htags, cmd?_setCmd (x := { c with st := 2, status := _ }) hfound,
        rfl, rfl⟩
    case done =>
      exact ⟨_, exec_commandStart_done hc hst hputs hdone, cmd?_setCmd (x := { c with st := 2 }) hfound, rfl, rfl⟩
    case computes => rw [exec_commandStart_works hc hst (.inr hmore), work_computes hslots hfields hputs hunit herr]
    case writes => rw [exec_commandStart_works hc hst (.inl hputs), work_writes hslots hfields hputs hwrite]
    case retires =>
      obtain ⟨t, hexec, ht⟩ := exec_commandRetire hc hst
      refine ⟨t, hexec, ht.find_status, fun x => ht.seq_ne, fun x hx hne hlinked hwaits => ?linked, ht.mem,
        fun hlands => ht.pend_of_some hpend (retired_lands hsrc hlands),
        fun hlands hok => ht.pend_of_none hpend (retired_zero hsrc hlands hok),
        fun hlands hcode => ht.pend_of_some hpend (retired_memory hsrc hlands hcode),
        fun hlands hcode => ht.pend_of_some hpend (retired_failed hsrc hlands hcode),
        fun hlands hcode => ht.pend_of_some hpend (retired_access hsrc hlands hcode)⟩
      have hafter := ht.after_mem hx hne
      refine ⟨fun hok => ?_, fun hbad => ?_⟩
      · rwa [hok, after_linked hlinked] at hafter
      · rwa [after_linked_failed hlinked hbad hwaits] at hafter

end Sys2Proof.Machine
end

section
/-! SUPPORT. XFER before its transfer unit (R196 to R204): what the strand presents, whether the unit takes it, the checks of its
acceptance, and the entry it becomes. -/

namespace Sys2Proof.Machine

/-- The three rows of the word of XFER have one meaning (log 16). -/
theorem exec_of_isXfer {i : Instr} {a b c : Reg} {la : Look} (s : State) (hi : Claims.isXfer i a b c la) :
    exec i s = xfer i a b c la s := by
  obtain rfl | rfl | rfl := hi <;> rfl

section
variable {i : Instr} {a b c : Reg} {la : Look} {s : State} (hi : Claims.isXfer i a b c la) (hcalm : s.calm)
  (hcore : Claims.engineCore s) (hplain : [a, b, c].all Reg.plain = true)
include hi hcalm hcore hplain

theorem exec_xfer : exec i s = finishLong 4 (window la) [.l0] none s
    ((if transform (s.me.src a) = 0xF0 ∨ transform (s.me.src a) = 0xF1 then
        released >>= fun _ => xferAnswer i.encode (s.me.src a) (s.me.src b)
      else xferBody (s.me.src a) (s.me.src b) (s.me.src c) la) (s.issue 4)) := by
  rw [exec_of_isXfer s hi, xfer, engineCommand_calm i la _ hcalm hcore, bind_ok _ _ _ _ _ (rd3_issue_calm 4 hcalm hplain)]

/-- A word with a transform of Table 11.3 is a transfer (R197). -/
theorem exec_xfer_transfer (htrans : transform (s.me.src a) ≤ 4) :
    exec i s = finishLong 4 (window la) [.l0] none s
      (xferBody (s.me.src a) (s.me.src b) (s.me.src c) la (s.issue 4)) := by
  have htransfer : ¬ (transform (s.me.src a) = 0xF0 ∨ transform (s.me.src a) = 0xF1) := by omega
  rw [exec_xfer hi hcalm hcore hplain, if_neg htransfer]

/-- One with transform 0xF0 or 0xF1 is an answer to a held entry (R209). -/
theorem exec_xfer_answer (htrans : transform (s.me.src a) = 0xF0 ∨ transform (s.me.src a) = 0xF1) (hstores : s.me.stores = []) :
    exec i s = finishLong 4 (window la) [.l0] none s (xferAnswer i.encode (s.me.src a) (s.me.src b) (s.issue 4)) := by
  have ⟨_, hpend, _⟩ := State.calm_issue s 4 hcalm
  rw [exec_xfer hi hcalm hcore hplain, if_pos htrans, bind_ok _ _ _ _ _ (released_empty (s.issue 4) hstores hpend)]

end

/-! At the unit (R198, R203). -/

/-- What an XFER presents to its unit. -/
def State.xwait (s : State) (a b c : Word) : XWait where
  id := s.engines.next
  cl := clusterOf s.me.homeCore
  a := a
  b := b
  c := c
  e0 := s.me.e[0]
  e1 := s.me.e[1]
  sid := s.me.sid.toNat

/-- A value goes to l0 (R65). -/
def State.arriving (s : State) (v : Word) : State := { s with me := s.me.shift v }

theorem issue_shift {s : State} (v : Word) (hcalm : s.calm) :
    (s.issue 4).me.shift v = (s.issued 4 fun u => u.result .l0 v).me := by
  have ⟨_, hpend, _⟩ := State.calm_issue s 4 hcalm
  rw [shift_of_pend_nil v hpend, issue_calm hcalm]
  rfl

/-- The unit takes a transfer, whose promise goes to l0. -/
def takeXfer (w : XWait) : M Unit := do
  let p ← xferAccept w
  updMe fun t => t.shift p

/-- A transfer waits at its unit: the strand owes l0 its promise, and a detached one does not hold it. -/
def leaveXfer (w : XWait) (la : Look) : M Unit := do
  await [.l0] (.engine w.cl 2 w.id) (window la)
  upd fun s => { s.openLine none (la.val != 15) with engines := { s.engines with
    next := w.id + 1, xwaits := s.engines.xwaits ++ [w] } }

theorem leaveXfer_of_pend_nil {s : State} (w : XWait) (la : Look) (hpend : s.me.pend = []) :
    leaveXfer w la s = .ok ((), { (s.awaiting .l0 (.engine w.cl 2 w.id) (window la)).openLine none (la.val != 15) with
      engines := { s.engines with next := w.id + 1, xwaits := s.engines.xwaits ++ [w] } }) := by
  rw [leaveXfer, bind_ok _ _ _ _ _ (await_one .l0 _ _ hpend)]
  rfl

section
variable {s : State} {a b c : Word} {w : XWait} {x y : End} (la : Look) (hw : w = s.xwait a b c) (hends : w.ends s = (x, y))
  (hpend : s.me.pend = [])
  (hrel : Claims.releasable s (x.far s s.me.job.toNat w.e0.toNat || y.far s s.me.job.toNat w.e0.toNat))
include hw hends hpend hrel

theorem xferBody_eq : xferBody a b c la s =
    (if !(s.engines.xwaits.any fun v => v.cl == w.cl) && s.takesXfer w then takeXfer w else leaveXfer w la) s := by
  subst hw
  rw [xferBody, bind_ok _ _ _ _ _ rfl, ← State.xwait, hends]
  dsimp only
  rw [bind_ok _ _ _ _ _ (issueFor_ok hpend hrel)]
  rfl

/-- A unit that nothing waits for, and that can take it, takes a transfer (R198). -/
theorem xferBody_takes (hfree : (s.engines.xwaits.any fun v => v.cl == w.cl) = false) (htakes : s.takesXfer w = true) :
    xferBody a b c la s = takeXfer w s := by
  rw [xferBody_eq la hw hends hpend hrel, hfree, htakes]
  rfl

theorem xferBody_waits (hheld : (s.engines.xwaits.any fun v => v.cl == w.cl) = true ∨ s.takesXfer w = false) :
    xferBody a b c la s = leaveXfer w la s := by
  have hbusy : ¬ (!(s.engines.xwaits.any fun v => v.cl == w.cl) && s.takesXfer w) = true := by
    rw [Bool.and_eq_true, not_and_or, Bool.not_eq_true', Bool.not_eq_false, Bool.not_eq_true]
    exact hheld
  rw [xferBody_eq la hw hends hpend hrel, if_neg hbusy]

end

/-! Acceptance (R198 to R201, R204). -/

/-- The checks of a transfer's acceptance pass where both sides are local and entry n of its unit is free. -/
structure XWait.passes (w : XWait) (s : State) (x y : End) (core n : Nat) : Prop where
  ends : w.ends s = (x, y)
  source : xferField (xSrc w.a) .read s = .ok ((), s)
  dest : xferField (xDst w.a) .write s = .ok ((), s)
  legal : (transformOk w.a w.b w.c w.e0 x y && (transform w.a ≤ 1 || (!wide64 x.fmt && !wide64 y.fmt))) = true
  inRange : (rangeOk w.e0.toNat x && rangeOk w.e0.toNat y && decide (y.bytesFor w.a w.e0.toNat ≤ 2 ^ 32)) = true
  sourceBase : xSrc w.a = 0 → w.b.toNat / 2 ^ 56 = 0
  destBase : xDst w.a = 0 → w.c.toNat / 2 ^ 56 = 0
  sourceLease : leaseMiss s rR w.e0.toNat x = none
  destLease : leaseMiss s rW w.e0.toNat y = none
  bitmap : bitmapCore w.e1 (ceilDiv (chunkCount w.a w.e0 y) 8) s = .ok (core, s)
  sourceLocal : xferSwaps w.a (chunkLen w.a y) x s = .ok ([], s)
  destLocal : xferSwaps w.a (chunkLen w.a y) y s = .ok ([], s)
  free : freeEntry s w.cl = some n

/-- Bytes that a transfer reads and writes (R204). -/
def XWait.bytes (w : XWait) (x y : End) : Nat := bytesRead w.a w.e0.toNat x + bytesWritten w.a w.e0.toNat y

/-- Cycles to its promise where no remap comes first (R204). -/
def XWait.cycles (w : XWait) (s : State) (x y : End) : Nat :=
  if w.e0 = 0 then 1
  else 60 + Max.max (farthest s w.e0.toNat x) (farthest s w.e0.toNat y) + ceilDiv (w.bytes x y + outstanding s w.cl) 512

/-- The entry it becomes (R201). -/
def XWait.entry (w : XWait) (s : State) (x y : End) (core n : Nat) : Xfer where
  cl := w.cl
  n := n
  seq := s.engines.next
  a := w.a
  b := w.b
  c := w.c
  e0 := w.e0
  e1 := w.e1
  sid := s.me.sid.toNat
  job := s.me.job.toNat
  launch := s.me.launch?
  die := coreDie s.me.homeCore
  remaps := []
  chunks := chunkCount w.a w.e0 y
  done := []
  spoiled := []
  failed := []
  bytes := w.bytes x y
  core := core
  map := Claims.destMap s y

/-- An entry joins its unit, and its bytes those outstanding there (R204). -/
def State.entering (s : State) (e : Xfer) : State :=
  { s with engines := { s.engines with next := s.engines.next + 1, xfers := s.engines.xfers ++ [e] } }.setOut e.cl
    (outstanding s e.cl + e.bytes)

/-- A transfer of no chunk takes no entry. -/
def State.enrolling (s : State) (e : Xfer) : State := if e.chunks = 0 then s else s.entering e

theorem enrolling_empty {s : State} {e : Xfer} (h : e.chunks = 0) : s.enrolling e = s := if_pos h

theorem enrolling_nonempty {s : State} {e : Xfer} (h : e.chunks ≠ 0) : s.enrolling e = s.entering e := if_neg h

theorem enrolling_me (s : State) (e : Xfer) : (s.enrolling e).me = s.me := by
  rw [State.enrolling]
  split <;> rfl

theorem enrolling_mem (s : State) (e : Xfer) : (s.enrolling e).mem = s.mem := by
  rw [State.enrolling]
  split <;> rfl

theorem outstanding_setOut (s : State) (cl v : Nat) : outstanding (s.setOut cl v) cl = v := by
  rw [outstanding, State.setOut, SMap.find_put, if_pos rfl]
  rfl

theorem baseOk_of_top {h : Nat} {b : Word} (s : State) (htop : h = 0 → b.toNat / 2 ^ 56 = 0) : baseOk h b s = .ok ((), s) := by
  rw [baseOk]
  split
  next h0 => rw [bind_ok _ _ _ _ _ (virt_zero s (htop h0))]; rfl
  next => rfl

theorem xferAccept_of_passes {w : XWait} {s : State} {x y : End} {core n : Nat} (h : w.passes s x y core n) :
    xferAccept w s = .ok (s.clk + toW (w.cycles s x y), s.enrolling (w.entry s x y core n)) := by
  have hswaps (f : List (Nat × List (Nat × Nat)) → M Word) :
      (if xSrc w.a = xDst w.a then pure [] >>= f else xferSwaps w.a (chunkLen w.a y) y >>= f) s = f [] s := by
    split
    next => rfl
    next => exact bind_ok _ _ _ _ _ h.destLocal
  have hcycles : w.cycles s x y = if w.e0.toNat = 0 then 1
      else 0 + 60 + Max.max (farthest s w.e0.toNat x) (farthest s w.e0.toNat y) + ceilDiv (w.bytes x y + outstanding s w.cl) 512 := by
    rw [XWait.cycles, Nat.zero_add]
    exact if_congr BitVec.toNat_eq rfl rfl
  rw [xferAccept, bind_ok _ _ _ _ _ rfl]
  dsimp only
  rw [bind_ok _ _ _ _ _ h.source, bind_ok _ _ _ _ _ h.dest, h.ends]
  dsimp only
  rw [bind_ok _ _ _ _ _ (need_of_true _ s h.legal), bind_ok _ _ _ _ _ (need_of_true _ s h.inRange),
    bind_ok _ _ _ _ _ (baseOk_of_top s h.sourceBase), bind_ok _ _ _ _ _ (baseOk_of_top s h.destBase), h.sourceLease, h.destLease]
  dsimp only
  rw [bind_ok _ _ _ _ _ h.bitmap, bind_ok _ _ _ _ _ h.sourceLocal, hswaps, h.free]
  dsimp only
  rw [List.append_nil, bind_ok (startAll []) _ _ _ _ rfl, hcycles]
  by_cases hchunks : chunkCount w.a w.e0 y = 0
  · rw [if_pos hchunks, enrolling_empty (e := w.entry s x y core n) hchunks]
    rfl
  · rw [if_neg hchunks, enrolling_nonempty (e := w.entry s x y core n) hchunks]
    rfl

theorem takeXfer_of_passes {w : XWait} {s : State} {x y : End} {core n : Nat} (h : w.passes s x y core n) :
    takeXfer w s = .ok ((), (s.enrolling (w.entry s x y core n)).arriving (s.clk + toW (w.cycles s x y))) := by
  rw [takeXfer, bind_ok _ _ _ _ _ (xferAccept_of_passes h)]
  rfl

/-! The answers of a held entry (R209). -/

/-- A chunk of an entry may be tried again: it is neither failed nor done. -/
def Xfer.retried (x : Xfer) (k : Nat) : Xfer := { x with failed := x.failed.filter (· != k), done := x.done.filter (· != k) }

/-- The entry with a chunk to be tried again; the bytes of one that was done are outstanding again. -/
def State.retrying (s : State) (x : Xfer) (k : Nat) : State :=
  (if x.done.contains k then s.setOut x.cl (outstanding s x.cl + x.share k) else s).setXfer (x.retried k)

theorem xfer?_setXfer {s : State} {x y : Xfer} (h : s.xfer? y.cl y.n = some x) : (s.setXfer y).xfer? y.cl y.n = some y := by
  have hfound : s.engines.xfers.find? (fun v => v.cl == y.cl && v.n == y.n) = some x := h
  have hsame : ((fun v : Xfer => v.cl == y.cl && v.n == y.n) ∘ fun v : Xfer => if v.cl == y.cl && v.n == y.n then y else v) =
      fun v => v.cl == y.cl && v.n == y.n := by
    funext v
    dsimp only [Function.comp_apply]
    split
    next hv => rw [hv, beq_self_eq_true, beq_self_eq_true, Bool.and_self]
    next => rfl
  have hkey := List.find?_some hfound
  rw [State.xfer?, State.setXfer, List.find?_map, hsame, hfound, Option.map_some, if_pos hkey]

theorem xfer?_freeXfer (s : State) (x : Xfer) : (s.freeXfer x).xfer? x.cl x.n = none := by
  rw [State.xfer?, List.find?_eq_none]
  intro v hv
  have hkept := (List.mem_filter.mp hv).2
  rwa [Bool.not_eq_true', ← Bool.not_eq_true] at hkept

theorem freeXfer_mem (s : State) (x : Xfer) : (s.freeXfer x).mem = s.mem := rfl

theorem retrying_me (s : State) (x : Xfer) (k : Nat) : (s.retrying x k).me = s.me := by
  rw [State.retrying]
  split <;> rfl

theorem retrying_mem (s : State) (x : Xfer) (k : Nat) : (s.retrying x k).mem = s.mem := by
  rw [State.retrying]
  split <;> rfl

theorem xfer?_retrying {s : State} {x : Xfer} (k : Nat) (h : s.xfer? x.cl x.n = some x) :
    (s.retrying x k).xfer? x.cl x.n = some (x.retried k) := by
  rw [State.retrying]
  split <;> exact xfer?_setXfer (y := x.retried k) h

theorem outstanding_retrying (s : State) (x : Xfer) (k : Nat) :
    outstanding (s.retrying x k) x.cl = outstanding s x.cl + if x.done.contains k then x.share k else 0 := by
  rw [State.retrying]
  split
  next => exact outstanding_setOut s x.cl _
  next => rfl

/-- What an answer does to the entry that is held (R209). -/
def answerHeld (x : Xfer) (a b : Word) : M Unit :=
  if transform a = 0xF0 then do
    need (decide (b.toNat < x.chunks)) (opFault 2 b)
    upd fun s => (s.retrying x b.toNat).arriving 0
  else upd fun s => (s.freeXfer x).arriving 0

theorem wbits_zero (w : Word) (n : Nat) : wbits w 0 n = w.toNat % 2 ^ n := by rw [wbits, bitsOf, pow_zero, Nat.div_one]

/-- The supervisor's answer that names a held entry, every other bit of its word clear, reaches it. -/
theorem xferAnswer_held {w : Nat} {a b : Word} {s : State} {x : Xfer} (hlevel : s.me.plv ≠ 0)
    (hclear : a.toNat % 2 ^ 48 = a.toNat % 32) (htop : a.toNat / 2 ^ 56 = 0) (hcl : x.cl = clusterOf s.me.homeCore)
    (hx : s.xfer? x.cl (a.toNat % 32) = some x) (hheld : x.failed ≠ []) :
    xferAnswer w a b s = answerHeld x a b s := by
  have hword : (a.toNat % 2 ^ 48 == a.toNat % 32 && a.toNat / 2 ^ 56 == 0) = true := by
    rw [hclear, htop, beq_self_eq_true, beq_self_eq_true, Bool.and_self]
  have hnumber : wbits a 0 5 = a.toNat % 32 := wbits_zero a 5
  rw [xferAnswer, bind_ok _ _ _ _ _ rfl]
  dsimp only
  rw [bind_ok _ _ _ _ _ (need_of_true _ s (bne_iff_ne.mpr hlevel)), hnumber,
    bind_ok _ _ _ _ _ (need_of_true _ s hword), ← hcl, hx]
  dsimp only
  rw [List.isEmpty_eq_false_iff.mpr hheld, if_neg Bool.false_ne_true]
  rfl

theorem answerHeld_retry {a b : Word} {x : Xfer} (s : State) (htrans : transform a = 0xF0) (hchunk : b.toNat < x.chunks) :
    answerHeld x a b s = .ok ((), (s.retrying x b.toNat).arriving 0) := by
  rw [answerHeld, if_pos htrans, bind_ok _ _ _ _ _ (need_of_true _ s (decide_eq_true hchunk))]
  rfl

theorem answerHeld_abandon {a : Word} (b : Word) (x : Xfer) (s : State) (htrans : transform a = 0xF1) :
    answerHeld x a b s = .ok ((), (s.freeXfer x).arriving 0) := by
  have hother : ¬ transform a = 0xF0 := by omega
  rw [answerHeld, if_neg hother]
  rfl

end Sys2Proof.Machine
end

section
/-! SUPPORT. The acceptance of an XFER that waits at its unit (R198, R203): what it leaves of the strand it is made for. -/

namespace Sys2Proof.Machine

/-- A step of a meaning that leaves its strand alone where it answers. -/
def KeepsMe {α : Type} (x : M α) : Prop := ∀ ⦃s : State⦄ ⦃v : α⦄ ⦃t : State⦄, x s = .ok (v, t) → t.me = s.me

section
variable {α β : Type}

theorem keepsMe_pure (v : α) : KeepsMe (pure v : M α) := by
  intro s _ t h
  cases h
  rfl

theorem keepsMe_get : KeepsMe (get : M State) := by
  intro s _ t h
  cases h
  rfl

theorem keepsMe_stop (x : Stop) : KeepsMe (stop x : M α) := by
  intro s _ t h
  cases h

theorem keepsMe_upd {f : State → State} (hf : ∀ s, (f s).me = s.me) : KeepsMe (upd f) := by
  intro s _ t h
  cases h
  exact hf s

/-- A trap is a stop. -/
theorem keepsMe_trap (cls detail : Nat) (tval : Word) : KeepsMe (trap cls detail tval : M α) := keepsMe_stop _

theorem keepsMe_bind {x : M α} {f : α → M β} (hx : KeepsMe x) (hf : ∀ v, KeepsMe (f v)) : KeepsMe (x >>= f) := by
  intro s v t h
  obtain ⟨a, u, hfirst, hrest⟩ := run_bind_eq_ok h
  exact (hf a hrest).trans (hx hfirst)

/-- What stands after a stop is not reached. -/
theorem keepsMe_stop_bind (x : Stop) (f : α → M β) : KeepsMe (stop x >>= f) := by
  intro s _ t h
  rw [bind_error f rfl] at h
  cases h

theorem keepsMe_ite {c : Prop} [Decidable c] {x y : M α} (hx : KeepsMe x) (hy : KeepsMe y) : KeepsMe (if c then x else y) := by
  split
  · exact hx
  · exact hy

theorem keepsMe_need {c : Bool} {x : M Unit} (hx : KeepsMe x) : KeepsMe (need c x) := keepsMe_ite (keepsMe_pure ()) hx

end

theorem keepsMe_virt (a : Word) (o : Int) : KeepsMe (virt a o) := by
  refine keepsMe_ite (keepsMe_pure _) fun s v t h => ?_
  exact absurd h vfault_ne_ok

theorem keepsMe_useHandle (job h kind : Nat) (right : Right) (tv : Word) : KeepsMe (useHandle job h kind right tv) := by
  intro s v t hx
  unfold useHandle at hx
  dsimp only at hx
  split at hx
  · cases hx
  · split at hx
    · cases hx
      split <;> rfl
    · cases hx

theorem keepsMe_xferField (h : Nat) (right : Right) : KeepsMe (xferField h right) :=
  keepsMe_ite (keepsMe_pure ()) (keepsMe_bind (keepsMe_bind keepsMe_get fun _ => keepsMe_useHandle ..) fun _ => keepsMe_pure ())

theorem keepsMe_baseOk (h : Nat) (b : Word) : KeepsMe (baseOk h b) :=
  keepsMe_ite (keepsMe_bind (keepsMe_virt b 0) fun _ => keepsMe_pure ()) (keepsMe_pure ())

theorem keepsMe_bitmapCore (e1 : Word) (n : Nat) : KeepsMe (bitmapCore e1 n) := by
  refine keepsMe_bind keepsMe_get fun s => keepsMe_ite (keepsMe_pure _) (keepsMe_ite (keepsMe_trap ..) ?_)
  dsimp only
  split
  · exact keepsMe_pure _
  · exact keepsMe_trap ..
  · exact keepsMe_stop _
  · exact keepsMe_stop _

theorem keepsMe_xferSwaps (a : Word) (len : Nat) (e : End) : KeepsMe (xferSwaps a len e) := by
  refine keepsMe_bind keepsMe_get fun s => ?_
  dsimp only
  split
  · refine keepsMe_ite (keepsMe_pure _) ?_
    split
    · exact keepsMe_pure _
    · split
      · exact keepsMe_pure _
      · exact keepsMe_trap ..
  · exact keepsMe_pure _

theorem requestRemap_me (s : State) (key : Nat) (o : Obj) (swaps : List (Nat × Nat)) :
    (s.requestRemap key o swaps).1.me = s.me := by
  unfold State.requestRemap
  dsimp only
  split <;> rfl

theorem keepsMe_startAll (sw : List (Nat × List (Nat × Nat))) : KeepsMe (startAll sw) := by
  induction sw with
  | nil => exact keepsMe_pure _
  | cons x r ih =>
    intro s v t h
    obtain ⟨_, _, hget, h⟩ := run_bind_eq_ok h
    cases hget
    obtain ⟨_, _, hset, h⟩ := run_bind_eq_ok h
    cases hset
    obtain ⟨_, _, hrest, hpure⟩ := run_bind_eq_ok h
    cases hpure
    exact (ih hrest).trans (requestRemap_me ..)

/-- Acceptance leaves the strand alone: its promise is the caller's to deliver. -/
theorem keepsMe_xferAccept (w : XWait) : KeepsMe (xferAccept w) := by
  refine keepsMe_bind keepsMe_get fun s => ?_
  refine keepsMe_bind (keepsMe_xferField _ _) fun _ => keepsMe_bind (keepsMe_xferField _ _) fun _ => ?_
  refine keepsMe_bind (keepsMe_need (keepsMe_trap ..)) fun _ => keepsMe_bind (keepsMe_need (keepsMe_trap ..)) fun _ => ?_
  refine keepsMe_bind (keepsMe_baseOk _ _) fun _ => keepsMe_bind (keepsMe_baseOk _ _) fun _ => ?_
  dsimp only
  split
  · exact keepsMe_stop_bind ..
  · exact keepsMe_stop_bind ..
  · refine keepsMe_bind (keepsMe_bitmapCore ..) fun _ => keepsMe_bind (keepsMe_xferSwaps ..) fun _ => ?_
    refine keepsMe_ite (keepsMe_bind (keepsMe_pure _) fun _ => ?_) (keepsMe_bind (keepsMe_xferSwaps ..) fun _ => ?_)
    all_goals
      split
      · exact keepsMe_stop _
      · refine keepsMe_bind (keepsMe_startAll _) fun _ => keepsMe_ite (keepsMe_pure _) ?_
        exact keepsMe_bind (keepsMe_upd fun _ => rfl) fun _ => keepsMe_pure _

/-- The strand of a transfer that has been taken has its promise, and the transfer waits no more. -/
def State.xferTaken (t : State) (w : XWait) (p : Pending) (v : Word) : State :=
  { t with
    me := { t.me with pend := t.me.pend.map fun x => if x = p then { p with src := .value [v] } else x }
    engines := { t.engines with xwaits := t.engines.xwaits.filter fun u => u.id != w.id } }

/-- The first transfer that waits at its unit is taken when the unit can take it (R198). -/
theorem acceptXfer_of_accept {s t : State} {w : XWait} {p : Pending} {v : Word} (hsid : w.sid = s.me.sid.toNat)
    (hfound : (s.me.pend.find? fun p => p.src == .engine w.cl 2 w.id) = some p) (htakes : s.takesXfer w = true)
    (haccept : xferAccept w s = .ok (v, t)) : s.acceptXfer w = t.xferTaken w p v := by
  have hfocus : s.focus (w.sid % 65536) = s := by
    rw [hsid]
    exact if_pos (Nat.mod_mod _ _).symm
  have hback : (t.xferTaken w p v).focus s.me.sid.toNat = t.xferTaken w p v := by
    rw [← keepsMe_xferAccept w haccept]
    exact focus_self (t.xferTaken w p v)
  rw [State.acceptXfer, hfocus]
  dsimp only
  rw [hfound]
  dsimp only
  rw [htakes, Bool.not_true, if_neg Bool.false_ne_true, haccept]
  exact hback

end Sys2Proof.Machine
end

section
/-! SUPPORT. The load of a code book (R205 to R207): CBLD with its checks passed, and what is read or in error when it is over. -/

namespace Sys2Proof.Machine

section
variable {s t : State} (h : s.framed t)
include h

theorem State.framed.ticks : t.ticks = s.ticks := by
  obtain ⟨_, _, _, _, _, rfl⟩ := h
  rfl

theorem State.framed.engines : t.engines = s.engines := by
  obtain ⟨_, _, _, _, _, rfl⟩ := h
  rfl

theorem State.framed.releasable {far : Bool} (hrel : Claims.releasable s far) : Claims.releasable t far := by
  obtain ⟨_, _, _, _, _, rfl⟩ := h
  exact hrel

end

/-! CBLD (R205, R206). -/

/-- What CBLD does with the checked bytes of its image. -/
def loadBook (x y : Word) (la : Look) (hs : List Hit) : M Unit := do
  let s ← get
  need (hs.all Hit.readable && !((hs.any fun h => h.away?.isSome) && Config.farRefuses s.ticks)) (trap 5 0 y)
  let cl := clusterOf s.me.homeCore
  let book := wbits x 0 3
  if (s.engines.xfers.any fun t => t.cl == cl && transform t.a == 4 && xparam t.a % 8 == book) then stop .wait
  upd fun s => (hs.foldl (fetchHit s.me.job.toNat) s).counted hs
  let keys := hs.map (cellOf s.me.job.toNat)
  let id := s.engines.next
  promise (keys.foldl (fun m k => Max.max m (bookLatency s k)) 0 + 64)
  waitFor (.engine cl 1 id) la
  upd fun s => { s with engines := { s.engines with
      next := id + 1
      loads := s.engines.loads ++ [({ id, cl, book, a := x, b := y, keys, sid := s.me.sid.toNat, job := s.me.job.toNat,
                                      detached := la.val == 15 } : BookLoad)] } }.due .codeBookLoaded { n := id }

theorem wbits_zero_of_lt {w : Word} {n : Nat} (h : w.toNat < 2 ^ n) : wbits w 0 n = w.toNat := by
  rw [wbits_zero, Nat.mod_eq_of_lt h]

theorem exec_cbld {a b : Reg} {la : Look} {s s1 : State} {e : Addr} {hs : List Hit} (hcalm : s.calm) (hcore : Claims.engineCore s)
    (ha : a.plain = true) (hb : b.plain = true) (hbook : (s.me.src a).toNat < 8)
    (haddr : lineAddr (s.me.src b) 0 (s.issue 4) = .ok (e, s.issue 4)) (heven : e.val % 2 = 0)
    (hcheck : check rR e 512 (s.issue 4) = .ok (hs, s1)) (hrel : Claims.releasable s1 (hs.any fun h => h.away?.isSome)) :
    exec (.cbld a b la) s = finishLong 4 (window la) [.l0] none s (loadBook (s.me.src a) (s.me.src b) la hs s1) := by
  have ⟨_, hpend, _⟩ := (checkFrom_readOnly hcheck).framed.calm (State.calm_issue s 4 hcalm)
  have hclear : (wbits (s.me.src a) 3 61 == 0) = true := by
    rw [beq_iff_eq, wbits, bitsOf]
    omega
  rw [exec, execCbld, engineCommand_calm _ la _ hcalm hcore, bind_ok _ _ _ _ _ (rd2_issue 4 hcalm ha hb)]
  dsimp only
  rw [bind_ok _ _ _ _ _ (need_of_true _ _ hclear), bind_ok _ _ _ _ _ haddr, bind_ok _ _ _ _ _ (aligned_of _ heven),
    bind_ok _ _ _ _ _ hcheck, bind_ok _ _ _ _ _ (issueFor_ok hpend hrel)]
  rfl

/-- A fetch of replica lines changes memory and their valid bits, and neither where the bytes are this device's (R284). -/
theorem fetchHit_eq (job : Nat) (s : State) (h : Hit) :
    ∃ mem fabric, fetchHit job s h = { s with mem, fabric } ∧ (h.away?.isSome = false → mem = s.mem) := by
  unfold fetchHit
  split
  next dev va pa hloc =>
    have haway : h.away?.isSome = true := by rw [Hit.away?, hloc]; rfl
    split
    next => exact ⟨_, _, rfl, fun _ => rfl⟩
    next => exact ⟨_, _, rfl, fun hlocal => absurd haway (by rw [hlocal]; exact Bool.false_ne_true)⟩
  next => exact ⟨_, _, rfl, fun _ => rfl⟩

theorem foldl_fetchHit_eq (job : Nat) (hs : List Hit) (s : State) :
    ∃ mem fabric, hs.foldl (fetchHit job) s = { s with mem, fabric } ∧
      ((hs.any fun h => h.away?.isSome) = false → mem = s.mem) := by
  induction hs generalizing s with
  | nil => exact ⟨_, _, rfl, fun _ => rfl⟩
  | cons h r ih =>
    obtain ⟨mem, fabric, hfetch, hmem⟩ := fetchHit_eq job s h
    obtain ⟨mem', fabric', hrest, hmem'⟩ := ih { s with mem, fabric }
    refine ⟨mem', fabric', ?_, fun hlocal => ?_⟩
    · rw [List.foldl_cons, hfetch, hrest]
    · rw [List.any_cons, Bool.or_eq_false_iff] at hlocal
      exact (hmem' hlocal.2).trans (hmem hlocal.1)

/-- An access counted changes the policy's counts alone (R293). -/
theorem counted_eq (s : State) (hs : List Hit) : ∃ tier, s.counted hs = { s with tier } := by
  unfold State.counted
  split
  next => exact ⟨_, rfl⟩
  next => split <;> exact ⟨_, rfl⟩

/-- A load whose image may not be read takes the access fault (R206). -/
theorem loadBook_refused {x y : Word} (la : Look) {hs : List Hit} {s : State}
    (hrefused : ((hs.any fun h => h.away?.isSome) && Config.farRefuses s.ticks) = true) :
    loadBook x y la hs s = .error (.trap 5 0 y) := by
  rw [loadBook, bind_ok _ _ _ _ _ rfl]
  dsimp only
  rw [hrefused, Bool.not_true, Bool.and_false]
  rfl

/-- The promise of a load: the latency of its farthest byte and 64 cycles (R205). -/
def State.bookPromise (s : State) (hs : List Hit) : Word :=
  s.clk + toW ((Claims.cells s hs).foldl (fun m k => Max.max m (bookLatency s k)) 0 + 64)

/-- A load under way: its promise in l0, its image and its issuer noted (R205). -/
structure State.loadsBook (s t : State) (x y : Word) (la : Look) (hs : List Hit) : Prop where
  mem : (hs.any fun h => h.away?.isSome) = false → t.mem = s.mem
  pc : t.me.pc = s.me.pc
  l1 : t.me.l1 = s.me.l0
  l0 : t.me.l0 = s.bookPromise hs
  loads : t.engines.loads = s.engines.loads ++ [{
    id := s.engines.next, cl := clusterOf s.me.homeCore, book := wbits x 0 3, a := x, b := y
    keys := Claims.cells s hs, sid := s.me.sid.toNat, job := s.me.job.toNat, detached := la.val == 15 }]

theorem loadBook_loads {x y : Word} (la : Look) {hs : List Hit} {s : State} (hpend : s.me.pend = [])
    (hread : hs.all Hit.readable = true) (hserved : ((hs.any fun h => h.away?.isSome) && Config.farRefuses s.ticks) = false)
    (hidle : (s.engines.xfers.any fun t => t.cl == clusterOf s.me.homeCore && transform t.a == 4 &&
      xparam t.a % 8 == wbits x 0 3) = false) :
    ∃ t, loadBook x y la hs s = .ok ((), t) ∧ s.loadsBook t x y la hs := by
  obtain ⟨mem, fabric, hfetch, hmem⟩ := foldl_fetchHit_eq s.me.job.toNat hs s
  obtain ⟨tier, hcounted⟩ := counted_eq { s with mem, fabric } hs
  have hallowed : (hs.all Hit.readable && !((hs.any fun h => h.away?.isSome) && Config.farRefuses s.ticks)) = true := by
    rw [hread, hserved]
    rfl
  have hread' : upd (fun s => (hs.foldl (fetchHit s.me.job.toNat) s).counted hs) s = .ok ((), { s with mem, fabric, tier }) := by
    rw [upd, hfetch, hcounted]
  have hpromise : promise ((hs.map (cellOf s.me.job.toNat)).foldl (fun m k => Max.max m (bookLatency s k)) 0 + 64)
      { s with mem, fabric, tier } = .ok ((), State.arriving { s with mem, fabric, tier } (s.bookPromise hs)) := rfl
  have hshift : (s.me.shift (s.bookPromise hs)).pend = [] := by rw [shift_of_pend_nil _ hpend, hpend]
  obtain ⟨pend, hwait, -⟩ := waitFor_of_pend_nil (s := State.arriving { s with mem, fabric, tier } (s.bookPromise hs))
    (.engine (clusterOf s.me.homeCore) 1 s.engines.next) la hshift
  rw [loadBook, bind_ok _ _ _ _ _ rfl]
  dsimp only
  rw [bind_ok _ _ _ _ _ (need_of_true _ s hallowed), hidle, if_neg Bool.false_ne_true, bind_ok _ _ _ _ _ hread',
    bind_ok _ _ _ _ _ hpromise, bind_ok _ _ _ _ _ hwait]
  exact ⟨_, rfl, hmem, rfl, rfl, rfl, rfl⟩

/-- It is the same load seen from before the checks of its image. -/
theorem State.readOnly.loadsBook {s u t : State} {x y : Word} {la : Look} {hs : List Hit} (h : s.readOnly u)
    (ht : u.loadsBook t x y la hs) : s.loadsBook t x y la hs := by
  obtain ⟨⟨_, _, _, _, _, rfl⟩, hmem⟩ := h
  obtain ⟨hmem', hpc, hl1, hl0, hloads⟩ := ht
  exact ⟨fun hhere => (hmem' hhere).trans hmem, hpc, hl1, hl0, hloads⟩

/-! The end of a load (R205, R207). -/

/-- An instruction that waits for a load goes on. -/
def Strand.bookRead (l : BookLoad) (t : Strand) : Strand :=
  { t with pend := t.pend.filter fun p => p.src != .engine l.cl 1 l.id }

/-- It fails at an address. -/
def Strand.bookFailed (l : BookLoad) (va : Word) (t : Strand) : Strand :=
  { t with pend := t.pend.map fun p => if p.src == .engine l.cl 1 l.id then p.fail (.fault 8 0 va) else p }

section
variable {s : State} {l : BookLoad} (hloads : s.engines.loads = [l]) (hid : l.id = s.arg.n)
include hloads hid

theorem find?_load : (s.engines.loads.find? fun x => x.id == s.arg.n) = some l := by
  have hl : (l.id == s.arg.n) = true := beq_iff_eq.mpr hid
  rw [hloads, List.find?_singleton, if_pos hl]

omit hid in
theorem filter_load : (s.engines.loads.filter fun x => x.id != l.id) = [] := by
  rw [hloads, List.filter_singleton, bne_self_eq_false]
  rfl

/-- Where every byte is read, the book holds what they spell, and no strand waits for the load any more. -/
theorem exec_codeBookLoaded_read (hgood : ∀ k ∈ l.keys, s.badAt k = false) :
    exec .codeBookLoaded s = .next (State.allStrands { s with engines := { s.engines with
      loads := []
      books := SMap.put (l.cl * 8 + l.book) (halfwords (s.mem.getAll l.keys)) s.engines.books } } (Strand.bookRead l)) := by
  have hnone : l.keys.findIdx? (State.badAt { s with engines := { s.engines with loads := [] } }) = none :=
    List.findIdx?_eq_none_iff.mpr hgood
  rw [exec, execCodeBookLoaded, find?_load hloads hid]
  dsimp only
  rw [filter_load hloads, hnone]
  rfl

/-- An error in the image leaves the book as it was; it is logged, and the instruction that waits fails at its halfword. -/
theorem exec_codeBookLoaded_spoiled {j : Nat} (hbad : l.keys.findIdx? s.badAt = some j) (hwaits : l.detached = false) :
    exec .codeBookLoaded s = .next ((State.logError { s with engines := { s.engines with loads := [] } }
      (l.keys.getD j 0)).allStrands (Strand.bookFailed l (toW (l.b.toNat + j / 2 * 2)))) := by
  have hsome : l.keys.findIdx? (State.badAt { s with engines := { s.engines with loads := [] } }) = some j := hbad
  rw [exec, execCodeBookLoaded, find?_load hloads hid]
  dsimp only
  rw [filter_load hloads, hsome]
  dsimp only
  rw [hwaits, if_neg Bool.false_ne_true]
  rfl

end

section
variable {l : BookLoad} {t : Strand} {p : Pending} (hpend : t.pend = [p]) (hsrc : p.src = .engine l.cl 1 l.id)
include hpend hsrc

theorem bookRead_of_waits : t.bookRead l = { t with pend := [] } := by
  rw [Strand.bookRead, hpend, List.filter_singleton, hsrc, bne_self_eq_false]
  rfl

theorem bookFailed_pend (va : Word) : (t.bookFailed l va).pend = [p.fail (.fault 8 0 va)] := by
  rw [Strand.bookFailed, hpend, List.map_singleton, hsrc, beq_self_eq_true, if_pos rfl]

end

end Sys2Proof.Machine
end

section
/-! SUPPORT. The chunks of a transfer (R200, R201, R208): one that is moved, one that meets an error, and the message of a failed one. -/

namespace Sys2Proof.Machine

/-- A chunk that has met an error is to be reported: a memory error as 0, an access fault as 1 (R208). -/
def State.spoiling (s : State) (x : Xfer) (k : Nat) (e : EngErr) : State :=
  s.setXfer { x with spoiled := x.spoiled ++ [(k, if e.status = 1 then 0 else 1, e.va, e.pa)] }

/-- A chunk that has been moved: its bit is set in the bitmap, its bytes are no longer outstanding, and with the last one the entry
is free (R201). -/
def State.bitSet (s : State) (x : Xfer) (k : Nat) : State :=
  let cell := lsKey x.core (wbits x.e1 0 20 + k / 8)
  let t := s.setByte cell (s.byte cell ||| BitVec.ofNat 8 (2 ^ (k % 8)))
  let t := t.setOut x.cl (outstanding t x.cl - x.share k)
  let y := { x with done := k :: x.done }
  if y.done.length = x.chunks then (t.setXfer y).freeXfer y else t.setXfer y

/-- What comes of a chunk whose elements have been moved as far as they could be. -/
def Xfer.chunkEnd (x : Xfer) (k : Nat) (s : State) : Except EngErr (Option EngErr × State) → State
  | .error e => if e.status = 0 then s else s.spoiling x k e
  | .ok (some e, t) => t.spoiling x k e
  | .ok (none, t) => t.bitSet x k

section
variable {s : State} {x : Xfer} (hx : s.xfer? s.arg.cl s.arg.n = some x) (hstarted : x.remaps = []) (hone : x.chunks = 1)
  (hdone : x.done = []) (hspoiled : x.spoiled = []) (hfailed : x.failed = []) (hfields : s.fieldOff x.job x.die = false)
  {p q : End} (hends : endsOf (s.viewOn x.die (some x.seq)) x.job x.a x.b x.c = (p, q))

include hstarted hone hdone hspoiled hfailed hfields in
/-- The only chunk of a transfer that has started may be performed. -/
theorem openChunks_single : s.openChunks x = [0] := by
  rw [State.openChunks, hstarted, hfields, hone, hdone, hspoiled, hfailed]
  rfl

include hx hstarted hone hdone hspoiled hfailed hfields hends in
theorem exec_chunkComplete_single :
    exec .chunkComplete s = .next (x.chunkEnd 0 s (moveElems x.cl x.job x.a p q (chunkElems x.map x.a x.e0 q 0) s)) := by
  have hchosen : s.choose [0] = some 0 := rfl
  rw [exec, execChunkComplete, hx]
  dsimp only
  rw [openChunks_single hstarted hone hdone hspoiled hfailed hfields, hchosen]
  dsimp only
  rw [hends]
  dsimp only
  rcases moveElems x.cl x.job x.a p q (chunkElems x.map x.a x.e0 q 0) s with e | ⟨_ | e, t⟩
  · exact (apply_ite Host.Outcome.next (e.status = 0) s _).symm
  · rfl
  · rfl

end

section
variable {x : Xfer} (hone : x.chunks = 1) (hdone : x.done = []) (s : State)
include hone hdone

/-- The only chunk is the last one. -/
theorem bitSet_single : ∃ t : State, s.bitSet x 0 = t.freeXfer { x with done := 0 :: x.done } ∧ t.me = s.me ∧
    t.mem = s.mem.set (lsKey x.core (wbits x.e1 0 20)) (s.mem.get (lsKey x.core (wbits x.e1 0 20)) ||| 1) := by
  have hlast : (0 :: x.done).length = x.chunks := by rw [hdone, hone]; rfl
  exact ⟨_, if_pos hlast, rfl, rfl⟩

end

/-! CHUNK_FAILED (R208). -/

/-- Table 11.5: what the gaffer is told of a failed chunk. -/
def Xfer.failure (x : Xfer) (k reason va pa : Nat) : Vector Word 6 :=
  #v[toW (0x11 + x.n * 2 ^ 16 + reason * 2 ^ 21), toW k, toW va, toW (if reason = 0 then pa else 0), toW x.sid, x.a]

/-- A hardware message joins those that wait to be taken (R405). -/
theorem hwPost_gaffer (s : State) (cl job : Nat) (o : Vector Word 6) :
    ∃ h0, s.hwPost (gafferSid cl) job o =
      State.due { s with queues := { s.queues with hw := s.queues.hw ++ [HwMsg.mk (gafferSid cl) { h0, o }] } }
        .hardwareMessageDelivery := by
  have hsomebody : ¬ gafferSid cl = 0xFFFFFFFF := by
    rw [gafferSid]
    omega
  exact ⟨_, if_neg hsomebody⟩

/-- The entry is held at a failed chunk, and a memory error is counted and logged. -/
def State.holding (s : State) (x : Xfer) (k reason pa : Nat) (r : List (Nat × Nat × Nat × Nat)) : State :=
  if reason = 0 then (s.setXfer { x with spoiled := r, failed := k :: x.failed }).logError pa
  else s.setXfer { x with spoiled := r, failed := k :: x.failed }

section
variable (s : State) (x : Xfer) (k reason pa : Nat) (r : List (Nat × Nat × Nat × Nat))

theorem holding_me : (s.holding x k reason pa r).me = s.me := by
  rw [State.holding]
  split <;> rfl

theorem holding_mem (h : reason ≠ 0) : (s.holding x k reason pa r).mem = s.mem := by
  rw [State.holding, if_neg h]
  rfl

theorem holding_engines :
    (s.holding x k reason pa r).engines = (s.setXfer { x with spoiled := r, failed := k :: x.failed }).engines := by
  rw [State.holding]
  split <;> rfl

end

theorem exec_chunkFailed {s : State} {x : Xfer} {k reason va pa : Nat} {r : List (Nat × Nat × Nat × Nat)}
    (hx : s.xfer? s.arg.cl s.arg.n = some x) (hspoiled : x.spoiled = (k, reason, va, pa) :: r) :
    exec .chunkFailed s =
      .next ((s.holding x k reason pa r).hwPost (gafferSid x.cl) x.job (x.failure k reason va pa)) := by
  rw [exec, execChunkFailed, hx]
  dsimp only
  rw [hspoiled]
  rfl

end Sys2Proof.Machine
end

section
/-! PROOFS. The obligations of transfers (11_transfers). -/

namespace Sys2Proof.Machine

/-- Settles O35: an XFER that its unit takes becomes an entry, one it cannot take waits there, and the answers to a held entry
change it or free it. -/
theorem xferResult : Obligations.XferResult := by
  refine ⟨fun i a b c la s x y w core n q bytes k hi hcalm hcore ha hb hc hw htrans hends hrel => ?transfer,
    fun i a b c la s x cl hi hcalm hcore ha hb hc hstores hlevel hcl hclear htop hx hheld hxcl hxn => ?answer⟩
  case transfer =>
    have ⟨_, hpend, _⟩ := State.calm_issue s 4 hcalm
    have hplain : [a, b, c].all Reg.plain = true := by simp only [List.all_cons, ha, hb, hc]; rfl
    have hw' : w = (s.issue 4).xwait (s.me.src a) (s.me.src b) (s.me.src c) := hw
    have hrun := exec_xfer_transfer hi hcalm hcore hplain (by rw [hw] at htrans; exact htrans)
    refine ⟨fun hfree htakes hsource hdest hlegal hrange hsbase hdbase hslease hdlease hbitmap hslocal hdlocal hentry
      hbytes hq hk => ?taken, fun hheld => ?waits⟩
    case taken =>
      have hpasses : w.passes (s.issue 4) x y core n := ⟨hends, hsource, hdest, hlegal, hrange, hsbase, hdbase, hslease,
        hdlease, hbitmap, hslocal, hdlocal, hentry⟩
      have hcycles : w.cycles (s.issue 4) x y = k := by rw [hk, hbytes, hq]; rfl
      have hfree' : (s.engines.xwaits.any fun v => v.cl == w.cl) = false :=
        List.any_eq_false.mpr fun v hv heq => hfree v hv (beq_iff_eq.mp heq)
      rw [xferBody_takes la hw' hends hpend hrel hfree' htakes, takeXfer_of_passes hpasses, hcycles] at hrun
      refine ⟨_, hrun, ?_, enrolling_mem _ _, fun hnone => ?_, fun hsome => ?_⟩
      · rw [State.arriving, enrolling_me, issue_shift _ hcalm]
        rfl
      · rw [enrolling_empty (e := w.entry (s.issue 4) x y core n) hnone]
        rfl
      · rw [enrolling_nonempty (e := w.entry (s.issue 4) x y core n) hsome, hbytes, hq]
        exact ⟨outstanding_setOut _ w.cl _, rfl⟩
    case waits =>
      rw [xferBody_waits la hw' hends hpend hrel hheld, leaveXfer_of_pend_nil w la hpend] at hrun
      exact ⟨_, _, hrun, rfl, rfl, rfl, rfl, rfl, rfl, rfl, rfl⟩
  case answer =>
    subst hcl
    have hplain : [a, b, c].all Reg.plain = true := by simp only [List.all_cons, ha, hb, hc]; rfl
    have hx' : s.xfer? x.cl x.n = some x := by rw [hxcl, hxn, hx]
    rw [← hxcl]
    rw [← hxcl] at hx
    have hanswer := xferAnswer_held (w := i.encode) (b := s.me.src b) (s := s.issue 4) hlevel hclear htop hxcl hx hheld
    refine ⟨fun htrans hchunk => ?retry, fun htrans => ?abandon⟩
    case retry =>
      have hrun := exec_xfer_answer hi hcalm hcore hplain (.inl htrans) hstores
      rw [hanswer, answerHeld_retry _ htrans hchunk] at hrun
      refine ⟨_, hrun, ?_, retrying_mem _ _ _, xfer?_retrying (s := s.issue 4) _ hx', outstanding_retrying (s.issue 4) x _⟩
      rw [State.arriving, retrying_me, issue_shift _ hcalm]
    case abandon =>
      have hrun := exec_xfer_answer hi hcalm hcore hplain (.inr htrans) hstores
      rw [hanswer, answerHeld_abandon _ _ _ htrans] at hrun
      exact ⟨_, hrun, issue_shift 0 hcalm, rfl, xfer?_freeXfer (s.issue 4) x⟩

/-- Settles O36: a code book is promised and loaded, a waiting XFER is taken in its turn, and a chunk moves its elements, sets its
bit and frees its entry, or holds it with an error that the gaffer is told of. -/
theorem transferCourse : Obligations.TransferCourse := by
  refine ⟨fun a b la s s1 e hs away hcalm hcore ha hb hbook haddr heven hcheck hread haway hrel hidle => ?book,
    fun s l p hloads hid hpend hsrc => ⟨fun hgood => ?bookRead, fun j hbad hwaits => ?bookSpoiled⟩,
    fun s t w p v hsid hpend hsrc htakes haccept => ?accept,
    fun s t x e hx hcl hn hstarted hone hdone hspoiled hfailed hfields he => ⟨fun hmove hwf => ?moved, fun r hmove => ?spoiled⟩,
    fun s x k reason va pa r hx hcl hn hspoiled => ?failed⟩
  case book =>
    subst haway
    have hreadOnly : (s.issue 4).readOnly s1 := checkFrom_readOnly hcheck
    have ⟨_, hpend, _⟩ := hreadOnly.framed.calm (State.calm_issue s 4 hcalm)
    have hticks : s1.ticks = s.ticks := hreadOnly.framed.ticks
    have hengines : s1.engines = s.engines := hreadOnly.framed.engines
    have hcore1 : s1.me.homeCore = s.me.homeCore := by rw [hreadOnly.framed.me]; rfl
    have hnumber : wbits (s.me.src a) 0 3 = (s.me.src a).toNat := wbits_zero_of_lt hbook
    have hrun := exec_cbld (la := la) hcalm hcore ha hb hbook haddr heven hcheck
      (hreadOnly.framed.releasable (s := s.issue 4) hrel)
    rw [← hticks]
    split
    next hrefused => rw [hrun, loadBook_refused la hrefused]
    next hserved =>
      rw [← hnumber, ← hengines, ← hcore1] at hidle
      obtain ⟨t, hload, ht⟩ := loadBook_loads la hpend hread (Bool.eq_false_of_not_eq_true hserved) hidle
      obtain ⟨hmem, hpc, hl1, hl0, hloads⟩ := hreadOnly.loadsBook ht
      rw [hnumber] at hloads
      rw [hload] at hrun
      exact ⟨t, hrun, hmem, hpc, hl1, hl0, hloads⟩
  case bookRead =>
    have hme := bookRead_of_waits (t := s.me) hpend hsrc
    refine ⟨_, exec_codeBookLoaded_read hloads hid hgood, hme, rfl, rfl, ?_⟩
    exact (SMap.find_put _ _ _ _).trans (if_pos rfl)
  case bookSpoiled =>
    exact ⟨_, exec_codeBookLoaded_spoiled hloads hid hbad hwaits, rfl, rfl, bookFailed_pend (t := s.me) hpend hsrc _⟩
  case accept =>
    have hfound : (s.me.pend.find? fun p => p.src == .engine w.cl 2 w.id) = some p := by
      rw [hpend, List.find?_singleton, hsrc, beq_self_eq_true, if_pos rfl]
    rw [acceptXfer_of_accept hsid hfound htakes haccept]
    exact ⟨rfl, rfl, rfl⟩
  case moved =>
    obtain ⟨u, hlast, hme, hmem⟩ := bitSet_single hone hdone t
    have hexec := exec_chunkComplete_single hx hstarted hone hdone hspoiled hfailed hfields he.symm
    rw [hmove, Xfer.chunkEnd, hlast] at hexec
    refine ⟨_, hexec, xfer?_freeXfer u { x with done := 0 :: x.done }, hme, fun k hk => ?_, ?_⟩
    · rw [freeXfer_mem, hmem, Memory.get_set _ _ _ _ hwf, if_neg hk]
    · rw [freeXfer_mem, hmem, Memory.get_set _ _ _ _ hwf, if_pos rfl]
  case spoiled =>
    rw [exec_chunkComplete_single hx hstarted hone hdone hspoiled hfailed hfields he.symm]
    rcases hmove with hwritten | ⟨hread, hstatus, rfl⟩
    · rw [hwritten, Xfer.chunkEnd, State.spoiling, hspoiled, List.nil_append]
    · rw [hread, Xfer.chunkEnd, if_neg hstatus, State.spoiling, hspoiled, List.nil_append]
  case failed =>
    have hx' : s.xfer? x.cl x.n = some x := by rw [hcl, hn, hx]
    have hexec := exec_chunkFailed hx hspoiled
    obtain ⟨h0, hpost⟩ := hwPost_gaffer (s.holding x k reason pa r) x.cl x.job (x.failure k reason va pa)
    rw [hpost] at hexec
    refine ⟨_, hexec, ?_, holding_mem s x k reason pa r, holding_me s x k reason pa r, ?_⟩
    · rw [State.xfer?, State.due_engines, holding_engines]
      exact xfer?_setXfer (y := { x with spoiled := r, failed := k :: x.failed }) hx'
    · rw [State.due_queues, List.getLast?_concat]
      rfl

end Sys2Proof.Machine
end

section
/-! SUPPORT. Slots and their receive queues (R214, R215, R223): the strand a slot holds while only the moving one changes, and a
queue of 8 that takes an entry or is full. -/

namespace Sys2Proof.Machine

/-! The strand a slot holds. -/

section
variable {s : State} {u : Strand} (hsid : u.sid = s.me.sid)
include hsid

/-- A change of the moving strand that keeps its slot changes no other slot's strand. -/
theorem strand?_setMe (sid : Nat) : State.strand? { s with me := u } sid =
    if s.me.sid.toNat % 65536 = sid % 65536 then some u else s.strand? sid := by
  simp only [State.strand?, hsid]
  split <;> rfl

/-- What the change of the moving strand keeps is kept of the strand in every slot. -/
theorem strand?_map_setMe {β : Type} (f : Strand → β) (hf : f u = f s.me) (sid : Nat) :
    (State.strand? { s with me := u } sid).map f = (s.strand? sid).map f := by
  rw [strand?_setMe hsid, State.strand?]
  split
  · exact congrArg some hf
  · rfl

end

theorem slotTaken_eq (s : State) (sid : Nat) :
    s.slotTaken sid = ((s.strand? sid).map fun t => t.status != .idle).getD false := by
  rw [State.slotTaken]
  cases s.strand? sid <;> rfl

theorem foreign_eq (s : State) (sid job : Nat) :
    s.foreign sid job = ((s.strand? sid).map fun t => t.task && t.job.toNat != job).getD false := by
  rw [State.foreign]
  cases s.strand? sid <;> rfl

theorem noStrand_issue (s : State) (n sid : Nat) : (s.issue n).noStrand sid = s.noStrand sid := by
  have hstatus : ((s.issue n).strand? sid).map (fun t => t.status != .idle) =
      (s.strand? sid).map (fun t => t.status != .idle) := strand?_map_setMe (s := s) (u := (s.issue n).me) rfl _ rfl sid
  rw [State.noStrand, State.noStrand, slotTaken_eq, slotTaken_eq, hstatus]

theorem foreign_issue (s : State) (n sid job : Nat) : (s.issue n).foreign sid job = s.foreign sid job := by
  have htask : ((s.issue n).strand? sid).map (fun t => t.task && t.job.toNat != job) =
      (s.strand? sid).map (fun t => t.task && t.job.toNat != job) :=
    strand?_map_setMe (s := s) (u := (s.issue n).me) rfl _ rfl sid
  rw [foreign_eq, foreign_eq, htask]

/-! A slot's strand changed. -/

section
variable {s : State} {sid : Nat} {f : Strand → Strand}

theorem strand?_modStrand {u : Strand} (hf : ∀ t, (f t).sid = t.sid) (h : s.strand? sid = some u) :
    (s.modStrand sid f).strand? sid = some (f u) := by
  rw [State.strand?] at h
  rw [State.modStrand]
  split at h
  next hme =>
    cases h
    rw [if_pos hme, strand?_setMe (hf s.me), if_pos hme]
  next hme =>
    have hkeeps : ((fun t : Strand => t.sid.toNat % 65536 == sid % 65536) ∘ fun t =>
        if t.sid.toNat % 65536 == sid % 65536 then f t else t) = fun t => t.sid.toNat % 65536 == sid % 65536 := by
      funext t
      dsimp only [Function.comp_apply]
      split
      · rw [hf]
      · rfl
    have hu := List.find?_some h
    rw [if_neg hme, State.strand?, if_neg hme, List.find?_map, hkeeps, h, Option.map_some, if_pos hu]

/-- Only the strands change. -/
theorem modStrand_eq (s : State) (sid : Nat) (f : Strand → Strand) :
    ∃ me others, s.modStrand sid f = { s with me, others } ∧ (me = f s.me ∨ me = s.me) := by
  rw [State.modStrand]
  split
  · exact ⟨_, _, rfl, .inl rfl⟩
  · exact ⟨_, _, rfl, .inr rfl⟩

end

/-! Entries that join a receive queue (R214, R223). -/

/-- The strand with one entry more in its queue; a parked one resumes. -/
def Strand.receive (m : Msg) (t : Strand) : Strand :=
  { t with q := t.q ++ [m], status := if t.status == .parked true then .ready else t.status }

/-- The state once an entry has been offered to a slot: a full queue takes none. -/
def State.mailed (s : State) (sid : Nat) (m : Msg) : State := (s.enqueue sid m).getD s

section
variable {s : State} {sid : Nat} {u : Strand} (m : Msg) (hu : s.strand? sid = some u)
include hu

theorem mailed_of_room (hroom : u.q.length < 8) : s.mailed sid m = s.modStrand sid (Strand.receive m) := by
  rw [State.mailed, State.enqueue, hu]
  exact congrArg (Option.getD · s) (if_neg (Nat.not_le.mpr hroom))

theorem enqueue_of_room (hroom : u.q.length < 8) : s.enqueue sid m = some (s.mailed sid m) := by
  rw [mailed_of_room m hu hroom, State.enqueue, hu]
  exact if_neg (Nat.not_le.mpr hroom)

theorem enqueue_of_full (hfull : 8 ≤ u.q.length) : s.enqueue sid m = none := by
  rw [State.enqueue, hu]
  exact if_pos hfull

theorem mailed_of_full (hfull : 8 ≤ u.q.length) : s.mailed sid m = s := by
  rw [State.mailed, enqueue_of_full m hu hfull, Option.getD_none]

theorem mailed_queue :
    ((s.mailed sid m).strand? sid).map Strand.q = some (if u.q.length < 8 then u.q ++ [m] else u.q) := by
  split
  next hroom =>
    rw [mailed_of_room m hu hroom, strand?_modStrand (f := Strand.receive m) (fun _ => rfl) hu]
    rfl
  next hfull =>
    rw [mailed_of_full m hu (Nat.not_lt.mp hfull), hu]
    rfl

end

/-- Only strands change, and what the moving one has open stays. -/
theorem mailed_eq (s : State) (sid : Nat) (m : Msg) :
    ∃ me others, s.mailed sid m = { s with me, others } ∧ me.pend = s.me.pend := by
  have hstays : ∃ me others, s = { s with me, others } ∧ me.pend = s.me.pend := ⟨s.me, s.others, rfl, rfl⟩
  rw [State.mailed, State.enqueue]
  cases s.strand? sid with
  | none => exact hstays
  | some u =>
    dsimp only
    split
    · exact hstays
    · obtain ⟨me, others, hmod, rfl | rfl⟩ := modStrand_eq s sid (Strand.receive m)
      all_goals exact ⟨_, others, hmod, rfl⟩

section
variable (s : State) (sid : Nat) (m : Msg)

theorem mailed_pend : (s.mailed sid m).me.pend = s.me.pend := by
  obtain ⟨_, _, h, hpend⟩ := mailed_eq s sid m
  rw [h, hpend]

theorem mailed_mem : (s.mailed sid m).mem = s.mem := by
  obtain ⟨_, _, h, _⟩ := mailed_eq s sid m
  rw [h]

theorem mailed_agenda : (s.mailed sid m).agenda = s.agenda := by
  obtain ⟨_, _, h, _⟩ := mailed_eq s sid m
  rw [h]

theorem mailed_queues : (s.mailed sid m).queues = s.queues := by
  obtain ⟨_, _, h, _⟩ := mailed_eq s sid m
  rw [h]

theorem mailed_fabric : (s.mailed sid m).fabric = s.fabric := by
  obtain ⟨_, _, h, _⟩ := mailed_eq s sid m
  rw [h]

end

/-- A slot of R215 that is not without a strand holds one. -/
theorem strand?_of_noStrand {s : State} {sid : Nat} (h : s.noStrand sid = false) : ∃ u, s.strand? sid = some u := by
  rw [State.noStrand, slotTaken_eq] at h
  cases hu : s.strand? sid with
  | some u => exact ⟨u, rfl⟩
  | none => rw [hu, Option.map_none, Option.getD_none, Bool.not_false, Bool.or_true] at h; cases h

end Sys2Proof.Machine
end

section
/-! SUPPORT. The course of a SEND (R215, R218): its issue, the offer that reaches a slot of this device, the answer, and the end of
its time. -/

namespace Sys2Proof.Machine

/-! The issue. -/

/-- What SEND does once its earlier accesses are performed, toward a slot of this device. -/
def sendHere (d : Reg) (la : Look) (dst tag : Nat) : M Unit := do
  let s ← get
  if s.noStrand dst then wr d 2
  else if s.foreign dst s.me.job.toNat then wr d 3
  else do
    destOk d
    await [d] (.send dst (sendMsg s.me tag) s.clk s.ticks none) la.val
    upd fun s => s.due .messageArrival { sid := s.me.sid.toNat, n := s.ticks }

theorem exec_send_here {d a b : Reg} {g : Guard} {s : State} {dst : Nat} (la : Look) (hcalm : s.calm)
    (hg : s.me.guarded g = true) (ha : a.plain = true) (hb : b.plain = true) (hstores : s.me.stores = [])
    (hdst : dst = (s.me.src a).toNat % 2 ^ 32) (hhere : dst / 65536 = s.devNo) :
    exec (.send d a b g la) s = finishLong 4 la.val [d] none s
      (sendHere d la dst ((s.me.src b).toNat % 65536) (s.issue 4)) := by
  have hcalm' := State.calm_issue s 4 hcalm
  have ⟨_, hpend, _⟩ := hcalm'
  have hword : wbits (s.me.src a) 0 32 = dst := by rw [wbits_zero, hdst]
  have his : (s.issue 4).isHere dst = true := by
    rw [State.isHere, Bool.or_eq_true]
    exact .inr (beq_iff_eq.mpr hhere)
  rw [exec, execSend, long_calm _ _ _ _ _ s hcalm hg, bind_ok _ _ _ _ _ (rd2_issue 4 hcalm ha hb)]
  dsimp only
  rw [settledO, bind_ok _ _ _ _ _ (settled_calm _ _ hcalm'), bind_ok _ _ _ _ _ rfl, hword]
  simp only [his, if_true, Bool.true_and]
  rw [bind_ok _ _ _ _ _ (released_empty (s.issue 4) hstores hpend), wbits_zero]
  rfl

section
variable {d : Reg} {s : State} {dst : Nat} (la : Look) (tag : Nat) (hcalm : s.calm) (hd : d.plain = true)
include hcalm hd

theorem sendHere_noStrand (hno : s.noStrand dst = true) :
    sendHere d la dst tag (s.issue 4) = .ok ((), s.issued 4 fun u => u.result d 2) := by
  rw [sendHere, bind_ok _ _ _ _ _ rfl, noStrand_issue, if_pos hno, wr_issue 4 _ hcalm hd]

theorem sendHere_foreign (hno : s.noStrand dst = false) (hjob : s.foreign dst s.me.job.toNat = true) :
    sendHere d la dst tag (s.issue 4) = .ok ((), s.issued 4 fun u => u.result d 3) := by
  have hjob' : (s.issue 4).foreign dst (s.issue 4).me.job.toNat = true := (foreign_issue s 4 dst _).trans hjob
  rw [sendHere, bind_ok _ _ _ _ _ rfl, noStrand_issue, hno, if_neg Bool.false_ne_true, if_pos hjob', wr_issue 4 _ hcalm hd]

theorem destOk_plain : destOk d s = .ok ((), s) := by
  cases d with
  | m i => exact nearM_calm s hcalm
  | t i => cases hd
  | _ => rfl

/-- A SEND that may be taken stays open, and its first offer is due. -/
theorem sendHere_offers (hno : s.noStrand dst = false) (hjob : s.foreign dst s.me.job.toNat = false) :
    sendHere d la dst tag (s.issue 4) = .ok ((), ((s.issue 4).awaiting d
      (.send dst (sendMsg s.me tag) s.clk s.ticks none) la.val).due .messageArrival
        { sid := s.me.sid.toNat, n := s.ticks }) := by
  have hcalm' := State.calm_issue s 4 hcalm
  have ⟨_, hpend, _⟩ := hcalm'
  have hjob' : (s.issue 4).foreign dst (s.issue 4).me.job.toNat = false := (foreign_issue s 4 dst _).trans hjob
  rw [sendHere, bind_ok _ _ _ _ _ rfl, noStrand_issue, hno, if_neg Bool.false_ne_true, hjob', if_neg Bool.false_ne_true,
    bind_ok _ _ _ _ _ (destOk_plain hcalm' hd), bind_ok _ _ _ _ _ (await_one _ _ _ hpend)]
  rfl

end

/-! The open SEND. -/

/-- The strand with one open instruction and no other. -/
def State.onlyOpen (s : State) (p : Pending) : State := { s with me := { s.me with pend := [p] } }

theorem onlyOpen_queue (s : State) (p : Pending) (sid : Nat) :
    ((s.onlyOpen p).strand? sid).map Strand.q = (s.strand? sid).map Strand.q :=
  strand?_map_setMe (s := s) (u := { s.me with pend := [p] }) rfl Strand.q rfl sid

section
variable {s : State} {p : Pending} {dst n : Nat} {m : Msg} {t0 : Word} {offer : Option Nat} (hpend : s.me.pend = [p])
  (hsrc : p.src = .send dst m t0 n offer)
include hsrc

theorem isSend_of_src : p.isSend n = true := by
  rw [Pending.isSend, hsrc]
  exact beq_self_eq_true n

include hpend

theorem find?_isSend : s.me.pend.find? (Pending.isSend n) = some p := by
  rw [hpend, List.find?_singleton, if_pos (isSend_of_src hsrc)]

theorem setSend_only (src : Owe) : s.setSend n src = s.onlyOpen { p with src } := by
  rw [State.setSend, hpend, List.map_singleton, if_pos (isSend_of_src hsrc)]
  rfl

end

/-! An offer within the package (R215). -/

section
variable {s : State} {p : Pending} {dst : Nat} {m : Msg} {t0 : Word} (hpend : s.me.pend = [p])
  (hsrc : p.src = .send dst m t0 s.arg.n none)
include hpend hsrc

theorem exec_messageArrival_offer (hflag : s.arg.flag = false) (htime : s.clk.toNat < t0.toNat + 65536) :
    exec .messageArrival s = .next (offerSend s.arg.n p s) := by
  have hopen : (sendOver s t0 && s.arg.kind == 1) = false := by
    rw [sendOver, decide_eq_false (Nat.not_le.mpr htime), Bool.false_and]
  rw [exec, execMessageArrival, hflag, if_neg Bool.false_ne_true]
  simp only [find?_isSend hpend hsrc, hsrc, hopen, Bool.false_eq_true, if_false]

/-- The slot takes or refuses the entry, and its answer is due at the sender. -/
theorem offerSend_here {u : Strand} (hhere : s.isHere dst = true)
    (hu : (s.onlyOpen { p with src := .send dst m t0 s.arg.n (some 0) }).strand? dst = some u) :
    offerSend s.arg.n p s = ((s.onlyOpen { p with src := .send dst m t0 s.arg.n (some 0) }).mailed dst m).due .sendOfferAnswer
      { sid := s.me.sid.toNat, n := s.arg.n, kind := if u.q.length < 8 then 0 else 1 } := by
  have hfirst : ((s.me.pend.takeWhile fun q => !q.isSend s.arg.n).any (Pending.sendsTo dst)) = false := by
    rw [hpend, List.takeWhile_cons, isSend_of_src hsrc]
    rfl
  by_cases hroom : u.q.length < 8
  · simp only [offerSend, hsrc, hfirst, hhere, setSend_only hpend hsrc, enqueue_of_room m hu hroom, if_true, Bool.false_eq_true,
      if_false, if_pos hroom]
    rfl
  · have hfull := Nat.not_lt.mp hroom
    simp only [offerSend, hsrc, hfirst, hhere, setSend_only hpend hsrc, enqueue_of_full m hu hfull, mailed_of_full m hu hfull,
      if_true, Bool.false_eq_true, if_false, if_neg hroom]
    rfl

theorem messageArrival_here {u : Strand} (hflag : s.arg.flag = false) (htime : s.clk.toNat < t0.toNat + 65536)
    (hhere : s.isHere dst = true) (hu : s.strand? dst = some u) :
    ∃ t, exec .messageArrival s = .next t ∧ t.me.pend = [{ p with src := .send dst m t0 s.arg.n (some 0) }] ∧ t.mem = s.mem ∧
      (t.strand? dst).map Strand.q = some (if u.q.length < 8 then u.q ++ [m] else u.q) ∧
      t.agenda = s.agenda ++ [{ ev := .sendOfferAnswer, arg :=
        { sid := s.me.sid.toNat, n := s.arg.n, kind := if u.q.length < 8 then 0 else 1 } }] := by
  have hkeeps := onlyOpen_queue s { p with src := .send dst m t0 s.arg.n (some 0) } dst
  rw [hu] at hkeeps
  obtain ⟨v, hv, hq⟩ := Option.map_eq_some_iff.mp hkeeps
  rw [exec_messageArrival_offer hpend hsrc hflag htime, offerSend_here hpend hsrc hhere hv, hq]
  refine ⟨_, rfl, mailed_pend _ _ _, mailed_mem _ _ _, ?_, ?_⟩
  · rw [← hq]
    exact mailed_queue m hv
  · rw [State.due, mailed_agenda]
    rfl

end

/-! The answer (R215). -/

section
variable {s : State} {p : Pending} {dst n : Nat} {m : Msg} {t0 : Word} {offer : Option Nat} (hpend : s.me.pend = [p])
  (hsrc : p.src = .send dst m t0 n offer)
include hpend hsrc

/-- An answer other than a refusal is the value of the SEND. -/
theorem answered_value {kind : Nat} (hkind : kind ≠ 1) :
    answered n kind s = s.onlyOpen { p with src := .value [BitVec.ofNat 64 kind] } := by
  simp only [answered, find?_isSend hpend hsrc, hsrc, setSend_only hpend hsrc, if_neg hkind]
  split
  next hzero => rw [hzero]; rfl
  next => rfl

/-- A refused entry is offered again while the time of the SEND lasts. -/
theorem answered_refusal (htime : s.clk.toNat < t0.toNat + 65536) :
    answered n 1 s = (s.onlyOpen { p with src := .send dst m t0 n none }).due .messageArrival
      { sid := s.me.sid.toNat, n, kind := 1 } := by
  have hlasts : sendOver (s.onlyOpen { p with src := .send dst m t0 n none }) t0 = false :=
    decide_eq_false (Nat.not_le.mpr htime)
  simp only [answered, find?_isSend hpend hsrc, hsrc, setSend_only hpend hsrc, if_neg Nat.one_ne_zero, if_true, hlasts,
    Bool.false_eq_true, if_false]
  rfl

end

theorem exec_sendOfferAnswer {s : State} (hflag : s.arg.flag = false) :
    exec .sendOfferAnswer s = .next (answered s.arg.n s.arg.kind s) := by
  rw [exec, execSendOfferAnswer]
  simp only [hflag, Bool.false_eq_true, if_false]

/-- With no offer in flight a SEND whose time has passed is given up, and counted at its sender's die (R215). -/
theorem exec_sendRetryLimit {s : State} {p : Pending} {dst n : Nat} {m : Msg} {t0 : Word} (hpend : s.me.pend = [p])
    (hsrc : p.src = .send dst m t0 n none) (htime : t0.toNat + 65536 ≤ s.clk.toNat) :
    exec .sendRetryLimit s =
      .next ((s.onlyOpen { p with src := .value [1] }).count (coreDie s.me.homeCore) 0xFE058) := by
  have hends : p.sendEnds s = true := by
    simp only [Pending.sendEnds, hsrc, sendOver, decide_eq_true htime]
  have hfind : s.me.pend.find? (Pending.sendEnds s) = some p := by rw [hpend, List.find?_singleton, if_pos hends]
  rw [exec, execSendRetryLimit]
  simp only [hfind, hsrc, setSend_only hpend hsrc]

/-! An offer from another device (R215). -/

section
variable {s : State} {sid job : Nat} (m : Msg)

theorem offered_noStrand (hno : s.noStrand sid = true) : s.offered sid job m = (2, s) := if_pos hno

theorem offered_foreign (hno : s.noStrand sid = false) (hjob : s.foreign sid job = true) : s.offered sid job m = (3, s) := by
  rw [State.offered, hno, if_neg Bool.false_ne_true, if_pos hjob]

theorem offered_slot {u : Strand} (hno : s.noStrand sid = false) (hjob : s.foreign sid job = false)
    (hu : s.strand? sid = some u) : s.offered sid job m = (if u.q.length < 8 then 0 else 1, s.mailed sid m) := by
  by_cases hroom : u.q.length < 8
  · simp only [State.offered, hno, hjob, Bool.false_eq_true, if_false, enqueue_of_room m hu hroom, if_pos hroom]
  · have hfull := Nat.not_lt.mp hroom
    simp only [State.offered, hno, hjob, Bool.false_eq_true, if_false, enqueue_of_full m hu hfull, mailed_of_full m hu hfull,
      if_neg hroom]

/-- Whatever a slot answers, at most strands change. -/
theorem offered_rest (s : State) (sid job : Nat) (m : Msg) :
    (s.offered sid job m).2.mem = s.mem ∧ (s.offered sid job m).2.fabric = s.fabric := by
  cases hno : s.noStrand sid with
  | true => rw [offered_noStrand m hno]; exact ⟨rfl, rfl⟩
  | false =>
    cases hjob : s.foreign sid job with
    | true => rw [offered_foreign m hno hjob]; exact ⟨rfl, rfl⟩
    | false =>
      obtain ⟨u, hu⟩ := strand?_of_noStrand hno
      rw [offered_slot m hno hjob hu]
      exact ⟨mailed_mem s sid m, mailed_fabric s sid m⟩

end

/-- The answer to an offer on its way to the device that made it. -/
def State.replying (s : State) (a : Arg) (b : Nat) : State :=
  { s with fabric := { s.fabric with out := s.fabric.out ++
    [({ dev := a.dev, job := a.job, kind := 10, a := a.m, b, bytes := [] } : Packet)] } }

theorem exec_messageArrival_remote {s : State} (hflag : s.arg.flag = true) :
    exec .messageArrival s = .next ((s.offered s.arg.n s.arg.job (arrivingMsg s.arg.ws)).2.replying s.arg
      (s.offered s.arg.n s.arg.job (arrivingMsg s.arg.ws)).1) := if_pos hflag

/-! Hardware messages (R405). -/

section
variable {s : State} {x : HwMsg} {r : List HwMsg} (hfirst : s.queues.hw = x :: r) (hhere : s.isHere x.dst = true)
include hfirst hhere

theorem exec_hardwareMessageDelivery_noStrand (hno : s.noStrand x.dst = true) :
    exec .hardwareMessageDelivery s = .next
      (State.count { s with queues := { s.queues with hw := r } } (coreDie (x.dst / 16)) 0xFE028) := by
  rw [exec, execHardwareMessageDelivery]
  simp only [hfirst, hhere, hno, if_true]

section
variable {u : Strand} (hno : s.noStrand x.dst = false)
  (hu : State.strand? { s with queues := { s.queues with hw := r } } x.dst = some u)
include hno hu

theorem exec_hardwareMessageDelivery_taken (hroom : u.q.length < 8) :
    exec .hardwareMessageDelivery s =
      .next (State.mailed { s with queues := { s.queues with hw := r } } x.dst x.msg) := by
  rw [exec, execHardwareMessageDelivery]
  simp only [hfirst, hhere, hno, if_true, Bool.false_eq_true, if_false, enqueue_of_room x.msg hu hroom, Option.getD_some]

/-- A message that finds a full queue goes behind the others. -/
theorem exec_hardwareMessageDelivery_renewed (hfull : 8 ≤ u.q.length) :
    exec .hardwareMessageDelivery s = .next { s with
      queues := { s.queues with hw := r ++ [x] }
      agenda := s.agenda ++ [{ ev := .hardwareMessageDelivery, arg := {} }] } := by
  rw [exec, execHardwareMessageDelivery]
  simp only [hfirst, hhere, hno, if_true, Bool.false_eq_true, if_false, enqueue_of_full x.msg hu hfull, Option.getD_none]
  rfl

end

end

end Sys2Proof.Machine
end

section
/-! SUPPORT. Records that join a queue (R212, R213), and the end of a task (R220): what each changes. -/

namespace Sys2Proof.Machine

/-! A record at the tail of a queue. -/

/-- The clusters of a die are to look at their slots: the agenda alone changes. -/
theorem foldl_slotFill_eq (die : Nat) (cs : List Nat) (s : State) :
    ∃ agenda, cs.foldl (fun s c => s.due .slotFill { core := coreOf die c 0 }) s = { s with agenda } := by
  induction cs generalizing s with
  | nil => exact ⟨_, rfl⟩
  | cons c cs ih =>
    obtain ⟨agenda, h⟩ := ih (s.due .slotFill { core := coreOf die c 0 })
    exact ⟨agenda, h⟩

/-- A record in the hardware part of a queue: a die's from 1024 on, a cluster's below. -/
def Queues.push (qs : Queues) (q : Nat) (r : Rec) : Queues :=
  if 1024 ≤ q then { qs with die := qs.die ++ [(q - 1024, r)] } else { qs with task := qs.task ++ [(q, r)] }

theorem joinQueue_eq (s : State) (q : Nat) (r : Rec) :
    ∃ agenda, s.joinQueue q r = { s with agenda, queues := s.queues.push q { r with since := s.clk } } := by
  rw [State.joinQueue, Queues.push]
  split
  · exact foldl_slotFill_eq (q - 1024) (List.range 16) _
  · exact ⟨_, rfl⟩

theorem push_ring (qs : Queues) (q : Nat) (r : Rec) : (qs.push q r).ring = qs.ring := by
  rw [Queues.push]
  split <;> rfl

theorem push_hw (qs : Queues) (q : Nat) (r : Rec) :
    if 1024 ≤ q then (qs.push q r).die = qs.die ++ [(q - 1024, r)] ∧ (qs.push q r).task = qs.task
    else (qs.push q r).task = qs.task ++ [(q, r)] ∧ (qs.push q r).die = qs.die := by
  rw [Queues.push]
  split
  · exact ⟨rfl, rfl⟩
  · exact ⟨rfl, rfl⟩

theorem putQueue_hw {s : State} {q : Nat} (r : Rec) (h : (s.hwRoom q && !s.inRing q) = true) :
    s.putQueue q r = s.joinQueue q r := by
  rw [State.putQueue, if_pos h]

theorem putQueue_ring {s : State} {q i : Nat} (r : Rec) (h : (s.hwRoom q && !s.inRing q) = false)
    (hi : s.ringPlace q = some i) :
    ∃ mem, s.putQueue q r = { s with mem, queues := { s.queues with ring := s.queues.ring ++ [(q, i, r)] } } ∧
      ∀ ks, s.ringCells q i = some ks → mem = s.mem.setAll (ks.zip r.bytes) := by
  rw [State.putQueue, h, if_neg Bool.false_ne_true, hi]
  dsimp only
  cases hks : s.ringCells q i with
  | none => exact ⟨s.mem, rfl, nofun⟩
  | some ks => exact ⟨_, rfl, fun ks' hks' => by cases hks'; rfl⟩

/-- A queue with room takes a record at its tail. -/
theorem joined_putQueue {s : State} {q : Nat} (r : Rec) (hroom : s.queueRoom q = true) :
    Claims.joined s (s.putQueue q r) q r := by
  rw [Claims.joined]
  split
  next hhw =>
    obtain ⟨agenda, hjoin⟩ := joinQueue_eq s q r
    rw [putQueue_hw r hhw, hjoin]
    exact ⟨rfl, push_ring _ _ _, push_hw _ _ _⟩
  next hring =>
    rw [Bool.not_eq_true] at hring
    rw [State.queueRoom, hring, Bool.false_or] at hroom
    obtain ⟨i, hi⟩ := Option.isSome_iff_exists.mp hroom
    obtain ⟨mem, hput, hmem⟩ := putQueue_ring r hring hi
    rw [hput]
    exact ⟨i, hi, rfl, rfl, rfl, hmem⟩

theorem putQueue_me (s : State) (q : Nat) (r : Rec) : (s.putQueue q r).me = s.me := by
  obtain ⟨agenda, hjoin⟩ := joinQueue_eq s q r
  rw [State.putQueue]
  split
  · rw [hjoin]
  · split <;> rfl

/-! A slot left. -/

theorem freed_eq (s : State) (t : Strand) : ∃ agenda, s.freed t = { s with me := t, agenda } := by
  rw [State.freed]
  split <;> exact ⟨_, rfl⟩

theorem passOn_eq (s : State) (line : Nat) : ∃ queues agenda, s.passOn line = { s with queues, agenda } := by
  rw [State.passOn]
  split
  · exact ⟨_, _, rfl⟩
  · split <;> exact ⟨_, _, rfl⟩

theorem dropResv_of_none {s : State} (h : s.me.resv = none) : s.dropResv = s := by rw [State.dropResv, h]

/-- A reservation passed on is counted in memory, and may bring a grant (R133). -/
theorem dropResv_eq (s : State) :
    ∃ mem queues agenda, s.dropResv = { s with me := { s.me with resv := none }, mem, queues, agenda } := by
  cases h : s.me.resv with
  | none =>
    rw [dropResv_of_none h, ← h]
    exact ⟨_, _, _, rfl⟩
  | some line =>
    obtain ⟨queues, agenda, hpass⟩ := passOn_eq { s with me := { s.me with resv := none } } line
    rw [State.dropResv, h]
    dsimp only
    rw [hpass]
    split <;> exact ⟨_, _, _, rfl⟩

/-! The end of a task (R220). -/

/-- The messages still in the queue of a slot that is left are counted in memory. -/
theorem foldl_count_eq (die off : Nat) (q : List Msg) (s : State) :
    ∃ mem, q.foldl (fun s _ => s.count die off) s = { s with mem } ∧ (q = [] → mem = s.mem) := by
  induction q generalizing s with
  | nil => exact ⟨_, rfl, fun _ => rfl⟩
  | cons x q ih =>
    obtain ⟨mem, h, -⟩ := ih (s.count die off)
    exact ⟨mem, h, nofun⟩

/-- The state in which the strand's launch, if it has one, has counted its task. -/
def State.launchCounted (s : State) (how : Ending) : State :=
  match s.me.launch? with
  | some key => s.countTasks key how 1
  | none => s

theorem launchCounted_of_same {s u : State} (how : Ending) (hlaunch : u.me.launch? = s.me.launch?) (hobj : u.obj = s.obj) :
    u.launchCounted how = { u with obj := (s.launchCounted how).obj } := by
  cases hkey : s.me.launch? with
  | none => simp only [State.launchCounted, hlaunch, hkey, ← hobj]
  | some key =>
    simp only [State.launchCounted, hlaunch, hkey, State.countTasks, State.modObj, State.setObj, State.objAt, State.obj?, hobj]

theorem launchCounted_none {s : State} (how : Ending) (h : s.me.launch? = none) : (s.launchCounted how).obj = s.obj := by
  rw [State.launchCounted, h]

/-- The launch of a task that ends has counted one more of its kind. -/
theorem launchCounted_some {s : State} {key : Nat} (how : Ending) (h : s.me.launch? = some key) :
    (s.launchCounted how).objAt key = (s.objAt key).setFld how.word 0 40 ((s.objAt key).fld how.word 0 40 + 1) := by
  rw [State.launchCounted, h]
  exact congrArg (Option.getD · Obj.empty) ((SMap.find_put key key _ s.obj).trans (if_pos rfl))

/-- A strand that ends holds no reservation any more, and waits for none and at no barrier. -/
def State.withdrawn (s : State) : State := (s.dropResv.unwait s.dropResv.me.sid.toNat).withdrawBar s.dropResv.me.sid.toNat

theorem withdrawn_eq (s : State) : ∃ mem queues barriers agenda,
    s.withdrawn = { s with me := { s.me with resv := none }, mem, queues, barriers, agenda } ∧
      (s.me.resv = none → mem = s.mem) := by
  obtain ⟨mem, queues, agenda, hresv⟩ := dropResv_eq s
  rw [State.withdrawn, hresv]
  refine ⟨mem, _, _, agenda, rfl, fun h => ?_⟩
  rw [dropResv_of_none h] at hresv
  exact (congrArg State.mem hresv).symm

/-- The messages still in a queue are counted, and the slot is given up. -/
def State.vacated (s : State) : State :=
  let t := s.me.q.foldl (fun t _ => t.count (coreDie s.me.homeCore) 0xFE028) s
  t.freed (Strand.fresh t.me.sid .idle 0)

theorem vacated_eq (s : State) : ∃ mem agenda,
    s.vacated = { s with me := Strand.fresh s.me.sid .idle 0, mem, agenda } ∧ (s.me.q = [] → mem = s.mem) := by
  obtain ⟨mem, hcount, hmem⟩ := foldl_count_eq (coreDie s.me.homeCore) 0xFE028 s.me.q s
  obtain ⟨agenda, hfreed⟩ := freed_eq { s with mem } (Strand.fresh s.me.sid .idle 0)
  rw [State.vacated, hcount, hfreed]
  exact ⟨mem, agenda, rfl, hmem⟩

theorem endTask_eq_vacated (s : State) (how : Ending) : s.endTask how = (s.withdrawn.launchCounted how).vacated := rfl

/-- The slot is idle, the launch has counted the task, and memory has changed only for a reservation or a message lost. -/
theorem endTask_eq (s : State) (how : Ending) : ∃ mem queues barriers agenda,
    s.endTask how = { s with
      me := Strand.fresh s.me.sid .idle 0, mem, queues, barriers, agenda, obj := (s.launchCounted how).obj } ∧
    (s.me.q = [] → s.me.resv = none → mem = s.mem) := by
  obtain ⟨mem, queues, barriers, agenda, hwithdrawn, hmem⟩ := withdrawn_eq s
  have hcounted : s.withdrawn.launchCounted how = { s.withdrawn with obj := (s.launchCounted how).obj } := by
    rw [hwithdrawn]
    exact launchCounted_of_same how rfl rfl
  obtain ⟨mem', agenda', hvacated, hmem'⟩ := vacated_eq (s.withdrawn.launchCounted how)
  rw [hcounted, hwithdrawn] at hvacated hmem'
  rw [endTask_eq_vacated, hcounted, hwithdrawn, hvacated]
  exact ⟨mem', queues, barriers, agenda', rfl, fun hq hnone => (hmem' hq).trans (hmem hnone)⟩

end Sys2Proof.Machine
end

section
/-! SUPPORT. END, YIELD and SUSP of a strand at home (R220, R222, R223), and the record each leaves. -/

namespace Sys2Proof.Machine

/-! END. -/

theorem drained_ok {s : State} (h : s.storesDone = true) : drained s = .ok ((), s) := if_pos h

theorem storesDone_of {s : State} (hstores : s.me.stores = []) (hunacked : s.unacked = false) : s.storesDone = true := by
  rw [State.storesDone, hstores, hunacked]
  rfl

theorem State.framed.storesDone {s t : State} (h : s.framed t) (hdone : s.storesDone = true) : t.storesDone = true := by
  obtain ⟨_, _, _, _, _, rfl⟩ := h
  exact hdone

/-- The strand with other bindings of its stream registers. -/
def State.withStreams (s : State) (t : Vector (Option Stream) 4) : State := { s with me := { s.me with t } }

/-- The bindings of all four stream registers end. -/
theorem endStreams_ok {s : State} (hdone : s.storesDone = true) : ∃ t, endStreams s = .ok ((), s.withStreams t) := by
  have hend : ∀ (t : Vector (Option Stream) 4) (i : Fin 4),
      endStream i (s.withStreams t) = .ok ((), s.withStreams (t.set i none)) :=
    fun t i => endStream_ok (s := s.withStreams t) fun _ _ _ => hdone
  have hfirst : endStream 0 s = _ := hend s.me.t 0
  rw [endStreams, bind_ok _ _ _ _ _ hfirst, bind_ok _ _ _ _ _ (hend _ 1), bind_ok _ _ _ _ _ (hend _ 2), hend]
  exact ⟨_, rfl⟩

/-- END with its stores performed ends the task (R220). -/
theorem endBody_ok {s : State} (hcalm : s.calm) (hstores : s.me.stores = []) (hunacked : s.unacked = false) :
    ∃ t, endBody s = .ok ((), (s.withStreams t).endTask .done) := by
  have hdone := storesDone_of hstores hunacked
  obtain ⟨t, hstreams⟩ := endStreams_ok hdone
  have hcalm' : (s.withStreams t).calm := hcalm
  have hdone' : (s.withStreams t).storesDone = true := hdone
  have ⟨_, hpend, _⟩ := hcalm'
  refine ⟨t, ?_⟩
  rw [endBody, bind_ok _ _ _ _ _ (atHome_calm s hcalm), bind_ok _ _ _ _ _ hstreams,
    bind_ok _ _ _ _ _ (settledAll_near hcalm'.near), bind_ok _ _ _ _ _ (released_empty (s.withStreams t) hstores hpend),
    bind_ok _ _ _ _ _ (drained_ok hdone')]
  rfl

theorem exec_of_end {i : Instr} (s : State) (hi : i = .endTask ∨ i = .compactEnd) :
    ∃ n, exec i s = short n 0 endBody s := by
  obtain rfl | rfl := hi
  · exact ⟨4, rfl⟩
  · exact ⟨2, rfl⟩

theorem exec_end {i : Instr} {s : State} (hi : i = .endTask ∨ i = .compactEnd) (hcalm : s.calm) (hstores : s.me.stores = [])
    (hunacked : s.unacked = false) :
    ∃ n t, exec i s = .next (((s.issue n).withStreams t).endTask .done) := by
  obtain ⟨n, hexec⟩ := exec_of_end s hi
  obtain ⟨t, hbody⟩ := endBody_ok (State.calm_issue s n hcalm) hstores hunacked
  refine ⟨n, t, ?_⟩
  rw [hexec, short_calm n 0 _ s hcalm (guarded_zero _), hbody, finish]

/-! YIELD (R222). -/

theorem anyStream_of_none {t : Strand} (h : t.t = Vector.replicate 4 none) : t.anyStream = false := by
  rw [Strand.anyStream, h]
  rfl

theorem exec_of_yield {i : Instr} {n : Nat} (s : State) (hi : i = .yield ∧ n = 4 ∨ i = .compactYield ∧ n = 2) :
    exec i s = short n 0 yieldBody s := by
  obtain ⟨rfl, rfl⟩ | ⟨rfl, rfl⟩ := hi <;> rfl

/-- A strand that leaves its slot, whose record joins a queue. -/
def State.leavesFor (s : State) (q : Nat) : State :=
  (s.freed (Strand.fresh s.me.sid .idle 0)).putQueue q (recOf s.me s.clk)

theorem leavesFor_joined {s : State} {q : Nat} (hroom : s.queueRoom q = true) :
    Claims.joined s (s.leavesFor q) q (recOf s.me s.clk) := by
  obtain ⟨agenda, hfreed⟩ := freed_eq s (Strand.fresh s.me.sid .idle 0)
  rw [State.leavesFor, hfreed]
  exact joined_putQueue (s := { s with me := Strand.fresh s.me.sid .idle 0, agenda }) _ hroom

theorem leavesFor_me (s : State) (q : Nat) : (s.leavesFor q).me = Strand.fresh s.me.sid .idle 0 := by
  obtain ⟨agenda, hfreed⟩ := freed_eq s (Strand.fresh s.me.sid .idle 0)
  rw [State.leavesFor, hfreed, putQueue_me]

section
variable {s : State} (hcalm : s.calm) (hdepth : s.me.wdep = 0) (hstreams : s.me.t = Vector.replicate 4 none)
include hcalm hdepth hstreams

theorem yieldBody_goesOn (h : s.me.q ≠ [] ∨ s.waitsFor (clusterOf s.me.homeCore) = false) : yieldBody s = .ok ((), s) := by
  have hgoes : (!s.me.q.isEmpty || !s.waitsFor (clusterOf s.me.homeCore)) = true := by
    rcases h with hq | hwaits
    · rw [List.isEmpty_eq_false_iff.mpr hq]; rfl
    · rw [hwaits, Bool.not_false, Bool.or_true]
  have hstate : (s.me.wdep == 0 && !s.me.anyStream) = true := by rw [hdepth, anyStream_of_none hstreams]; rfl
  rw [yieldBody, bind_ok _ _ _ _ _ (atHome_calm s hcalm), bind_ok _ _ _ _ _ rfl,
    bind_ok _ _ _ _ _ (need_of_true _ s hstate), if_pos hgoes]
  rfl

theorem yieldBody_leaves (hstores : s.me.stores = []) (hunacked : s.unacked = false) (hq : s.me.q = [])
    (hwaits : s.waitsFor (clusterOf s.me.homeCore) = true) (hroom : s.taskRoom (clusterOf s.me.homeCore) = true)
    (hresv : s.me.resv = none) : yieldBody s = .ok ((), s.leavesFor (clusterOf s.me.homeCore)) := by
  have hstays : (!s.me.q.isEmpty || !s.waitsFor (clusterOf s.me.homeCore)) = false := by rw [hq, hwaits]; rfl
  have hstate : (s.me.wdep == 0 && !s.me.anyStream) = true := by rw [hdepth, anyStream_of_none hstreams]; rfl
  rw [yieldBody, bind_ok _ _ _ _ _ (atHome_calm s hcalm), bind_ok _ _ _ _ _ rfl,
    bind_ok _ _ _ _ _ (need_of_true _ s hstate), hstays, if_neg Bool.false_ne_true,
    bind_ok _ _ _ _ _ (settledAll_near hcalm.near), bind_ok _ _ _ _ _ (drained_ok (storesDone_of hstores hunacked)),
    bind_ok _ _ _ _ _ (need_of_true _ s hroom), upd, dropResv_of_none hresv]
  rfl

end

/-! SUSP (R223). -/

/-- Whether what SUSP waits for is there already: a message, the word at y at its target, or the time y. -/
def suspTest (kind : Nat) (y : Word) (s : State) : M Bool :=
  if kind = 1 then do
    need (wbits y 0 3 == 0) (trap 4 0 y)
    let e ← virt y 0
    let hs ← check rR e 8
    let bs ← readHits y hs
    pure (decide (s.me.e[0].toNat ≤ leNat bs))
  else if kind = 2 then pure (decide (y.toNat ≤ s.clk.toNat))
  else pure (!s.me.q.isEmpty)

/-- The strand parks in its slot. -/
def State.parks (s : State) : State := { s with me := s.parkedStrand }

/-- The record of the strand with a condition to wake it, as the wait set keeps it. -/
def State.waitRec (s : State) (kind : Nat) (y : Word) : Rec :=
  { recOf s.me s.clk with wake := kind, t1 := y, t2 := s.me.e[0] }

theorem State.framed.waitRec {s t : State} (h : s.framed t) (kind : Nat) (y : Word) : t.waitRec kind y = s.waitRec kind y := by
  obtain ⟨_, _, _, _, _, rfl⟩ := h
  rfl

/-- The strand leaves its slot, and its record joins the wait set of a cluster. -/
def State.leavesWaiting (s : State) (cl kind : Nat) (y : Word) : State :=
  let t := s.freed (Strand.fresh s.me.sid .idle 0)
  { t with queues := { t.queues with waits := t.queues.waits ++ [(cl, s.waitRec kind y)] } }

/-- What SUSP does once it knows. -/
def suspRest (kind : Nat) (y : Word) (s : State) (ok : Bool) : M Unit := do
  need (kind == 0 || s.me.q.isEmpty) illegalState
  settledAll
  if ok then pure ()
  else if kind = 0 then upd fun s => s.dropResv.parks
  else do
    drained
    let cl := clusterOf s.me.homeCore
    need (decide ((s.queues.waits.filter fun e => e.1 == cl).length < 256)) (stop .wait)
    upd fun s => s.dropResv.leavesWaiting cl kind y

theorem suspTest_message (y : Word) (s u : State) : suspTest 0 y s u = .ok (!s.me.q.isEmpty, u) := rfl

theorem suspTest_time (y : Word) (s u : State) : suspTest 2 y s u = .ok (decide (y.toNat ≤ s.clk.toNat), u) := rfl

section
variable {kind : Nat} {y : Word} {s u : State} (hcalm : u.calm)
include hcalm

/-- What is there already is not waited for. -/
theorem suspRest_held (h : kind = 0 ∨ s.me.q = []) : suspRest kind y s true u = .ok ((), u) := by
  have hstate : (kind == 0 || s.me.q.isEmpty) = true := by
    rcases h with rfl | hq
    · rfl
    · rw [hq, List.isEmpty_nil, Bool.or_true]
  rw [suspRest, bind_ok _ _ _ _ _ (need_of_true _ u hstate), bind_ok _ _ _ _ _ (settledAll_near hcalm.near)]
  rfl

theorem suspRest_parks (hresv : u.me.resv = none) : suspRest 0 y s false u = .ok ((), u.parks) := by
  have hstate : ((0 : Nat) == 0 || s.me.q.isEmpty) = true := rfl
  rw [suspRest, bind_ok _ _ _ _ _ (need_of_true _ u hstate), bind_ok _ _ _ _ _ (settledAll_near hcalm.near),
    if_neg Bool.false_ne_true, if_pos rfl, upd, dropResv_of_none hresv]

theorem suspRest_leaves (hkind : kind ≠ 0) (hq : s.me.q = []) (hdone : u.storesDone = true) (hresv : u.me.resv = none)
    (hroom : (s.queues.waits.filter fun e => e.1 == clusterOf s.me.homeCore).length < 256) :
    suspRest kind y s false u = .ok ((), u.leavesWaiting (clusterOf s.me.homeCore) kind y) := by
  have hstate : (kind == 0 || s.me.q.isEmpty) = true := by rw [hq, List.isEmpty_nil, Bool.or_true]
  rw [suspRest, bind_ok _ _ _ _ _ (need_of_true _ u hstate), bind_ok _ _ _ _ _ (settledAll_near hcalm.near),
    if_neg Bool.false_ne_true, if_neg hkind, bind_ok _ _ _ _ _ (drained_ok hdone),
    bind_ok _ _ _ _ _ (need_of_true _ u (decide_eq_true hroom)), upd, dropResv_of_none hresv]

end

section
variable {a b : Reg} {g : Guard} {s u : State} {kind : Nat} (hcalm : s.calm) (hg : s.me.guarded g = true)
  (ha : a.plain = true) (hb : b.plain = true) (hdepth : s.me.wdep = 0) (hstreams : s.me.t = Vector.replicate 4 none)
  (hkind : (s.me.src a).toNat % 4 = kind) (hle : kind ≠ 3)
include hcalm hg ha hb hdepth hstreams hkind hle

theorem exec_susp {ok : Bool} (htest : suspTest kind (s.me.src b) (s.issue 4) (s.issue 4) = .ok (ok, u)) :
    exec (.susp a b g) s = finish s (suspRest kind (s.me.src b) (s.issue 4) ok u) := by
  have hcalm' := State.calm_issue s 4 hcalm
  have hword : wbits (s.me.src a) 0 2 = kind := (wbits_zero _ 2).trans hkind
  have hstate : ((s.issue 4).me.wdep == 0 && !(s.issue 4).me.anyStream) = true := by
    rw [anyStream_of_none (t := (s.issue 4).me) hstreams, State.issue_me_wdep, hdepth]
    rfl
  rw [exec, execSusp, short_calm 4 g _ s hcalm hg, bind_ok _ _ _ _ _ (atHome_calm _ hcalm'),
    bind_ok _ _ _ _ _ (rd2_issue 4 hcalm ha hb)]
  dsimp only
  rw [bind_ok _ _ _ _ _ rfl, bind_ok _ _ _ _ _ (need_of_true _ _ hstate), hword, if_neg hle,
    ← bind_ok _ (suspRest kind (s.me.src b) (s.issue 4)) _ _ _ htest, suspTest]
  split
  next => simp only [bind_assoc]; rfl
  next => split <;> rfl

theorem exec_susp_held (htest : suspTest kind (s.me.src b) (s.issue 4) (s.issue 4) = .ok (true, u)) (hu : u.calm)
    (hq : kind = 0 ∨ s.me.q = []) : exec (.susp a b g) s = .next u := by
  rw [exec_susp hcalm hg ha hb hdepth hstreams hkind hle htest, suspRest_held (s := s.issue 4) hu hq, finish]

theorem exec_susp_leaves (htest : suspTest kind (s.me.src b) (s.issue 4) (s.issue 4) = .ok (false, u)) (hu : u.calm)
    (hne : kind ≠ 0) (hq : s.me.q = []) (hdone : u.storesDone = true) (hresv : u.me.resv = none)
    (hroom : (s.queues.waits.filter fun e => e.1 == clusterOf s.me.homeCore).length < 256) :
    exec (.susp a b g) s = .next (u.leavesWaiting (clusterOf s.me.homeCore) kind (s.me.src b)) := by
  rw [exec_susp hcalm hg ha hb hdepth hstreams hkind hle htest, suspRest_leaves (s := s.issue 4) hu hne hq hdone hresv hroom,
    finish]
  rfl

end

/-- The slot is idle, and the wait set has one record more. -/
theorem leavesWaiting_eq (s : State) (cl kind : Nat) (y : Word) : ∃ agenda, s.leavesWaiting cl kind y = { s with
    me := Strand.fresh s.me.sid .idle 0, agenda
    queues := { s.queues with waits := s.queues.waits ++ [(cl, s.waitRec kind y)] } } := by
  obtain ⟨agenda, hfreed⟩ := freed_eq s (Strand.fresh s.me.sid .idle 0)
  rw [State.leavesWaiting, hfreed]
  exact ⟨agenda, rfl⟩

/-- A parked strand has the start registers of its record (R61, R223). -/
theorem parkedStrand_regs (s : State) : s.parkedStrand.status = .parked true ∧ s.parkedStrand.pc = s.me.pc ∧
    s.parkedStrand.o = s.me.o ∧ s.parkedStrand.sid = s.me.sid := by
  rw [State.parkedStrand, State.startStrand]
  dsimp only
  split <;> exact ⟨rfl, rfl, rfl, rfl⟩

/-! The word SUSP looks at. -/

theorem leNat_lt (bs : List Byte) : leNat bs < 256 ^ bs.length := by
  induction bs with
  | nil => exact Nat.one_pos
  | cons b r ih =>
    have hb : b.toNat < 256 := b.isLt
    rw [leNat, List.length_cons, pow_succ]
    omega

/-- Eight bytes are one word. -/
theorem wordVal_toNat {s : State} {hs : List Hit} (hlen : hs.length = 8) :
    (Claims.wordVal s hs).toNat = leNat ((Claims.cells s hs).map s.see) := by
  have hlt := leNat_lt ((Claims.cells s hs).map s.see)
  rw [List.length_map, Claims.cells, List.length_map, hlen] at hlt
  exact Nat.mod_eq_of_lt hlt

section
variable {y : Word} {s s1 : State} {hs : List Hit} (htop : y.toNat / 2 ^ 56 = 0) (haligned : y.toNat % 8 = 0)
  (hcheck : check rR (.v y.toNat) 8 (s.issue 4) = .ok (hs, s1)) (hhere : Claims.here s hs)
include htop haligned hcheck hhere

theorem suspTest_word : suspTest 1 y (s.issue 4) (s.issue 4) =
    .ok (decide (s.me.e[0].toNat ≤ (Claims.wordVal s hs).toNat), s1.counted hs) := by
  have hread : (s.issue 4).readOnly s1 := checkFrom_readOnly hcheck
  have hlow : (wbits y 0 3 == 0) = true := beq_iff_eq.mpr ((wbits_zero y 3).trans haligned)
  have hsee : (Claims.cells s1 hs).map s1.see = (Claims.cells s hs).map s.see := by
    rw [hread.framed.cells, hread.see]
    rfl
  rw [suspTest, if_pos rfl, bind_ok _ _ _ _ _ (need_of_true _ _ hlow), bind_ok _ _ _ _ _ (virt_zero _ htop),
    bind_ok _ _ _ _ _ hcheck, bind_ok _ _ _ _ _ (readHits_here y (hread.framed.here (s := s.issue 4) hhere)), hsee,
    wordVal_toNat (check_length hcheck)]
  rfl

end

end Sys2Proof.Machine
end

section
/-! SUPPORT. Migration (R224, R225, R229, R237): what the checks of its address leave, MIGR and HOME, and the packet that reaches
its core. -/

namespace Sys2Proof.Machine

/-! The checks of an address (R123): the translation caches change and nothing else (R283). -/

theorem lookup_eq {s u : State} {cl job va : Nat} {t : Tr} (h : s.lookup cl job va = some (t, u)) :
    ∃ tlb, u = { s with tlb } := by
  rw [State.lookup] at h
  split at h
  · cases h; exact ⟨_, rfl⟩
  · split at h
    · cases h
    · cases h; exact ⟨_, rfl⟩

theorem xlate_eq {s u : State} {job right va : Nat} {h : Hit} (hx : xlate job right va s = .ok (h, u)) :
    ∃ tlb, u = { s with tlb } := by
  rw [xlate] at hx
  split at hx
  · exact absurd hx vfault_ne_ok
  · next hlookup =>
    dsimp only at hx
    split at hx
    · cases hx; exact lookup_eq hlookup
    · exact absurd hx vfault_ne_ok

theorem checkByte_eq {s u : State} {right lo : Nat} {a : Addr} {h : Hit} (hx : checkByte right lo a s = .ok (h, u)) :
    ∃ tlb, u = { s with tlb } := by
  unfold checkByte at hx
  split at hx
  · cases hx
  · cases a with
    | l x => exact ⟨_, laddr_eq hx⟩
    | v x =>
      dsimp only at hx
      split_ifs at hx
      · cases hx; exact ⟨_, rfl⟩
      · exact xlate_eq hx
      · exact absurd hx vfault_ne_ok

theorem checkFrom_eq {right lo : Nat} {as : List Addr} {s u : State} {hs : List Hit}
    (hx : checkFrom right lo as s = .ok (hs, u)) : ∃ tlb, u = { s with tlb } := by
  induction as generalizing s hs with
  | nil => cases hx; exact ⟨_, rfl⟩
  | cons a r ih =>
    obtain ⟨h, v, hbyte, hrest⟩ := run_bind_eq_ok hx
    obtain ⟨l, w, hfrom, hpure⟩ := run_bind_eq_ok hrest
    cases hpure
    obtain ⟨_, rfl⟩ := checkByte_eq hbyte
    obtain ⟨tlb, rfl⟩ := ih hfrom
    exact ⟨tlb, rfl⟩

/-- The strand of an instruction of 4 bytes that has issued and whose address has been checked. -/
def State.checked (s : State) (tlb : List Tr) : State := { s.issue 4 with tlb }

theorem checked_calm {s : State} (tlb : List Tr) (hcalm : s.calm) : (s.checked tlb).calm := State.calm_issue s 4 hcalm

/-! MIGR (R224). -/

theorem hereCell_cell {tv : Word} {h : Hit} {k : Nat} (s : State) (r : List Hit) (hk : h.loc = .cell k) :
    hereCell tv (h :: r) s = .ok (k, s) := by
  obtain ⟨loc, w0⟩ := h
  cases hk
  rfl

/-- MIGR once it knows the core it names. -/
def migrTo (d : Reg) (core : Nat) (s : State) : M Unit :=
  if core == s.me.core then wrFar d ((s.sidOf s.me.core s.me.slot).setWidth 64)
  else do
    settledAll
    await [d] .arrival 0
    upd fun s => s.depart core 0

section
variable {d a : Reg} {g : Guard} {s s1 : State} {h : Hit} {k : Nat} (hcalm : s.calm)
include hcalm

theorem exec_migr (la : Look) (hd : d.plain = true) (hg : s.me.guarded g = true) (ha : a.plain = true)
    (htop : (s.me.src a).toNat / 2 ^ 56 = 0)
    (hcheck : check rR (.v (s.me.src a).toNat) 1 (s.issue 4) = .ok ([h], s1)) (hk : h.loc = .cell k)
    (himage : s.imageCore (s.home k) = true) : ∃ tlb, exec (.migr d a g la) s =
      finishLong 4 la.val [d] none s (migrTo d (s.home k) (s.checked tlb) (s.checked tlb)) := by
  obtain ⟨tlb, rfl⟩ := checkFrom_eq hcheck
  have hchecked : check rR (.v (s.me.src a).toNat) 1 (s.issue 4) = .ok ([h], s.checked tlb) := hcheck
  have himage' : (s.checked tlb).imageCore ((s.checked tlb).home k) = true := himage
  refine ⟨tlb, ?_⟩
  rw [exec, execMigr, long_calm _ _ _ _ _ s hcalm hg, bind_ok _ _ _ _ _ (rd_issue 4 hcalm ha),
    bind_ok _ _ _ _ _ (virt_zero _ htop), bind_ok _ _ _ _ _ hchecked, bind_ok _ _ _ _ _ (hereCell_cell _ _ hk),
    bind_ok _ _ _ _ _ rfl, bind_ok _ _ _ _ _ (need_of_true _ _ himage'),
    bind_ok _ _ _ _ _ (farDest_plain _ hd)]
  rfl

theorem migrTo_here (hd : d.plain = true) (tlb : List Tr) (hhome : s.home k = s.me.core) :
    ∃ t, migrTo d (s.home k) (s.checked tlb) (s.checked tlb) = .ok ((), t) ∧ t.mem = s.mem ∧
      t.me = (s.issued 4 fun u => u.result d ((s.sidOf s.me.core s.me.slot).setWidth 64)).me := by
  have hcore : (s.home k == (s.checked tlb).me.core) = true := beq_iff_eq.mpr hhome
  rw [migrTo, if_pos hcore, wrFar_plain _ _ _ (checked_calm tlb hcalm) hd]
  refine ⟨_, rfl, rfl, ?_⟩
  rw [State.checked, issue_calm hcalm]
  exact result_at s.me d _ _ _

theorem migrTo_away (tlb : List Tr) (hhome : s.home k ≠ s.me.core) :
    ∃ t, migrTo d (s.home k) (s.checked tlb) (s.checked tlb) = .ok ((), t) ∧ t.me.status = .transit (s.home k) 0 ∧
      Claims.waits s t [d] .arrival 0 ∧ t.agenda = s.agenda ++
        [{ ev := .migrationArrival, arg := { sid := s.me.sid.toNat, core := s.home k, n := 0 } }] := by
  have hcore : (s.home k == (s.checked tlb).me.core) = false := beq_false_of_ne hhome
  have hcalm' := checked_calm tlb hcalm
  have ⟨_, hpend, _⟩ := hcalm'
  have hxpc : s.me.pc + 4 - 4 = s.me.pc := BitVec.add_sub_cancel _ _
  have hdepart : upd (fun s => s.depart _ 0) ((s.checked tlb).awaiting d .arrival 0) = .ok ((), _) :=
    congrArg (fun t => Except.ok ((), t)) (depart_home (s.home k) 0 hcalm'.notAbroad)
  rw [migrTo, hcore, if_neg Bool.false_ne_true, bind_ok _ _ _ _ _ (settledAll_near hcalm'.near),
    bind_ok _ _ _ _ _ (await_one d .arrival 0 hpend), hdepart]
  exact ⟨_, rfl, rfl, ⟨_, rfl, rfl, rfl, rfl, rfl, hxpc, rfl⟩, rfl⟩

end

/-! HOME (R229). -/

theorem exec_home_calm {g : Guard} (la : Look) {s : State} (hcalm : s.calm) (hg : s.me.guarded g = true) :
    exec (.home g la) s = .next (s.issued 4 id) := by
  have hhome : (!(s.issue 4).me.abroad) = true := congrArg Bool.not (State.calm_issue s 4 hcalm).notAbroad
  rw [exec, execHome, long_calm _ _ _ _ _ s hcalm hg, bind_ok _ _ _ _ _ rfl, if_pos hhome, ← issue_calm hcalm]
  rfl

theorem exec_home_abroad {g : Guard} (la : Look) {s : State} (hstay : s.me.stay = false) (hpend : s.me.pend = [])
    (haway : s.me.core ≠ s.me.homeCore) (hg : s.me.guarded g = true) :
    exec (.home g la) s = .next ((s.issue 4).depart s.me.homeCore 5) := by
  have hheld : s.me.guardHeld g = none := by
    simp only [Strand.guardHeld, Strand.pwOwed, hpend, List.find?_nil, Option.map_none, ite_self]
  have habroad : (!(s.issue 4).me.abroad) = false := congrArg Bool.not (bne_iff_ne.mpr haway)
  have hsettled : settledAll (s.issue 4) = .ok ((), s.issue 4) := by
    simp only [settledAll, State.issue_me_pend, hpend, List.map_nil, List.any_nil, Bool.false_eq_true, if_false]
  rw [exec, execHome, long, longLine, hstay, if_neg Bool.false_ne_true]
  simp only [hheld, hg, if_true]
  rw [bind_ok _ _ _ _ _ rfl, habroad, if_neg Bool.false_ne_true, bind_ok _ _ _ _ _ hsettled]
  rfl

/-! The packet (R225, R237). -/

section
variable {s : State} {c n : Nat} (hflag : s.arg.flag = false) (hstatus : s.me.status = .transit c n)
include hflag hstatus

theorem exec_migrationArrival_home (hdoom : s.me.doom = none) (hn : n = 5) :
    exec .migrationArrival s = .next s.backHome := by
  simp only [exec, execMigrationArrival, hflag, hstatus, hdoom, hn, Option.isSome_none, Bool.false_eq_true, if_false, if_true]

theorem exec_migrationArrival_run (hdoom : s.me.doom = none) (hn : n ≠ 5) (hroom : s.runRoom c = true) :
    exec .migrationArrival s = .next (s.putRun c (.strand (s.me.sid.toNat % 65536))) := by
  simp only [exec, execMigrationArrival, hflag, hstatus, hdoom, hn, hroom, Option.isSome_none, Bool.false_eq_true, if_false,
    if_true]

theorem exec_migrationArrival_doomed (hdoom : s.me.doom.isSome = true) :
    exec .migrationArrival s = .next s.backHome.endDoomed := by
  simp only [exec, execMigrationArrival, hflag, hstatus, hdoom, Bool.false_eq_true, if_false, if_true]

end

end Sys2Proof.Machine
end

section
/-! SUPPORT. The state that refutes SpawnResult: an object table whose keys do not rise, in which the record of the strand's launch
is itself that of a task queue (R212, R213, R219, R263). -/

namespace Sys2Proof.Machine

/-- A valid task-queue object of cluster 0 whose overflow ring has n entries and its base at 0 (Table 15.2). -/
def taskQueueObj (n : Nat) : Obj := { img := BitVec.ofNat 2048 (5 + n * 2 ^ 192), acc := 32 }

/-- A strand of job 1 and launch record 1 on core 0 of cluster 0. -/
def spawner : Strand := { Strand.fresh 0 .ready 0 with job := 1, lrec := 1 }

/-- The table lists the ring of two entries before the launch's own, of one entry, although its key is the greater; one record
stands in the ring already. -/
def unsortedRings : State := { State.reset with
  me := spawner
  obj := [(65538, taskQueueObj 2), (65537, taskQueueObj 1)]
  queues := { State.reset.queues with ring := [(0, 0, recOf spawner 0)] } }

/-- The records in overflow rings after a step. -/
def ringLength : Out → Option Nat
  | .next t => some t.queues.ring.length
  | _ => none

/-- Before SPAWN the ring of two entries is the queue's, and has room. -/
theorem unsortedRings_room : unsortedRings.queueRoom 0 = true := by decide +kernel

theorem unsortedRings_overflows : (unsortedRings.hwRoom 0 && !unsortedRings.inRing 0) = false := by decide +kernel

/-- To count the task in TOTAL writes the launch record in front of the ring of two entries. From then on the ring of one entry is
the queue's; it is full, and the record joins the hardware part. -/
theorem ringLength_spawn : ringLength (exec (.spawn .z .z .z 0 0) unsortedRings) = some 1 := by decide +kernel

end Sys2Proof.Machine
end

section
/-! PROOFS. The obligations of messages, tasks and migration (12_queues_inventory). -/

namespace Sys2Proof.Machine

/-- Settles O28: a SEND is answered at issue or stays open with its first offer due, each offer finds room or a full queue, and
its answer ends the SEND or renews the offer; a hardware message is taken, counted or offered again in the same way. -/
theorem sendResult : Obligations.SendResult := by
  refine ⟨⟨fun d a b g la dst s hcalm hg hd ha hb hstores hdst hhere => ?issue,
    fun s u p dst m t0 hflag hpend hsrc htime hhere hu => messageArrival_here hpend hsrc hflag htime hhere hu,
    fun s p dst m t0 hflag hpend hsrc => ⟨fun hkind => ?value, fun hkind htime => ?refusal⟩,
    fun s p dst n m t0 hpend hsrc htime => exec_sendRetryLimit hpend hsrc htime,
    fun s hflag => ?remote⟩, fun s x r hfirst hhere => ⟨?counted, fun u hno hu hroom => ?taken, fun u hno hu hfull => ?renewed⟩⟩
  case issue =>
    have hexec := exec_send_here (d := d) la hcalm hg ha hb hstores hdst hhere
    have hxpc : s.me.pc + 4 - 4 = s.me.pc := BitVec.add_sub_cancel _ _
    refine ⟨fun hno => ?_, fun hno hjob => ?_, fun hno hjob => ?_⟩
    · rw [hexec, sendHere_noStrand la _ hcalm hd hno, finishLong]
    · rw [hexec, sendHere_foreign la _ hcalm hd hno hjob, finishLong]
    · rw [sendHere_offers la _ hcalm hd hno hjob, finishLong] at hexec
      exact ⟨_, hexec, ⟨_, rfl, rfl, rfl, rfl, rfl, hxpc, rfl⟩, rfl⟩
  case value =>
    rw [exec_sendOfferAnswer hflag, answered_value hpend hsrc hkind]
    rfl
  case refusal =>
    rw [exec_sendOfferAnswer hflag, hkind, answered_refusal hpend hsrc htime]
    exact ⟨_, rfl, rfl, rfl⟩
  case remote =>
    obtain ⟨hmem, hfabric⟩ := offered_rest s s.arg.n s.arg.job (arrivingMsg s.arg.ws)
    refine ⟨_, (s.offered s.arg.n s.arg.job (arrivingMsg s.arg.ws)).1, exec_messageArrival_remote hflag, hmem, ?_,
      fun hno => ?_, fun hno hjob => ?_, fun u hno hjob hu => ?_⟩
    · rw [State.replying, hfabric]
    · rw [offered_noStrand _ hno]
    · rw [offered_foreign _ hno hjob]
    · rw [offered_slot _ hno hjob hu]
      exact ⟨rfl, mailed_queue _ hu⟩
  case counted => exact exec_hardwareMessageDelivery_noStrand hfirst hhere
  case taken =>
    have hu' : State.strand? { s with queues := { s.queues with hw := r } } x.dst = some u := hu
    have hqueue := mailed_queue x.msg hu'
    rw [if_pos hroom] at hqueue
    exact ⟨_, exec_hardwareMessageDelivery_taken hfirst hhere hno hu' hroom, congrArg Queues.hw (mailed_queues _ _ _),
      mailed_mem _ _ _, hqueue⟩
  case renewed => exact exec_hardwareMessageDelivery_renewed hfirst hhere hno (u := u) hu hfull

/-- Settles O29: END gives up the slot once the launch has counted the task, YIELD leaves a record in a queue with room, and SUSP
goes on with what it waits for there, parks, or leaves a record in the wait set. -/
theorem taskEndResult : Obligations.TaskEndResult := by
  refine ⟨fun s hcalm hstores hunacked => ⟨fun i hi => ?ends, fun i n hi hdepth hstreams =>
      ⟨fun h => ?goesOn, fun hq hwaits hroom hresv => ?leaves⟩⟩,
    fun a b g s hcalm hg ha hb hdepth hstreams hresv => ⟨fun hkind hq => ?message, fun hkind hq => ?parks,
      fun hkind hq htime => ?timeReached, fun hkind hq htime hstores hunacked hroom => ?timeAwaited,
      fun s1 hs hkind hq htop haligned hcheck hhere => ?word⟩⟩
  case ends =>
    obtain ⟨n, t, hexec⟩ := exec_end hi hcalm hstores hunacked
    obtain ⟨mem, queues, barriers, agenda, hend, hmem⟩ := endTask_eq ((s.issue n).withStreams t) .done
    rw [hend] at hexec
    exact ⟨_, hexec, rfl, hmem, fun hnone => launchCounted_none (s := (s.issue n).withStreams t) .done hnone,
      fun key hkey => launchCounted_some (s := (s.issue n).withStreams t) .done hkey⟩
  case goesOn =>
    rw [exec_of_yield s hi, short_calm n 0 _ s hcalm (guarded_zero _),
      yieldBody_goesOn (State.calm_issue s n hcalm) hdepth hstreams h, finish, issue_calm hcalm]
  case leaves =>
    have hbody := yieldBody_leaves (State.calm_issue s n hcalm) hdepth hstreams hstores hunacked hq hwaits hroom hresv
    refine ⟨_, ?_, leavesFor_me (s.issue n) (clusterOf s.me.homeCore), ?_⟩
    · rw [exec_of_yield s hi, short_calm n 0 _ s hcalm (guarded_zero _), hbody]
      rfl
    · rw [← issue_calm hcalm n]
      exact leavesFor_joined (s := s.issue n) hroom
  case message =>
    have hheld : (!(s.issue 4).me.q.isEmpty) = true := congrArg Bool.not (List.isEmpty_eq_false_iff.mpr hq)
    have htest := suspTest_message (s.me.src b) (s.issue 4) (s.issue 4)
    rw [hheld] at htest
    rw [exec_susp_held hcalm hg ha hb hdepth hstreams hkind (by decide) htest (State.calm_issue s 4 hcalm) (.inl rfl),
      issue_calm hcalm]
  case parks =>
    have hheld : (!(s.issue 4).me.q.isEmpty) = false := congrArg Bool.not (List.isEmpty_iff.mpr hq)
    have htest := suspTest_message (s.me.src b) (s.issue 4) (s.issue 4)
    rw [hheld] at htest
    obtain ⟨hstatus, hpc, ho, hsid⟩ := parkedStrand_regs (s.issue 4)
    refine ⟨(s.issue 4).parks, ?_, hstatus, hpc, ho, hsid, rfl, rfl⟩
    rw [exec_susp hcalm hg ha hb hdepth hstreams hkind (by decide) htest, suspRest_parks (State.calm_issue s 4 hcalm) hresv,
      finish]
  case timeReached =>
    have htest := suspTest_time (s.me.src b) (s.issue 4) (s.issue 4)
    rw [State.issue_clk, decide_eq_true htime] at htest
    rw [exec_susp_held hcalm hg ha hb hdepth hstreams hkind (by decide) htest (State.calm_issue s 4 hcalm) (.inr hq),
      issue_calm hcalm]
  case timeAwaited =>
    have htest := suspTest_time (s.me.src b) (s.issue 4) (s.issue 4)
    rw [State.issue_clk, decide_eq_false (Nat.not_le.mpr htime)] at htest
    have hexec := exec_susp_leaves hcalm hg ha hb hdepth hstreams hkind (by decide) htest (State.calm_issue s 4 hcalm)
      (by decide) hq (storesDone_of (s := s.issue 4) hstores hunacked) hresv hroom
    obtain ⟨agenda, hleaves⟩ := leavesWaiting_eq (s.issue 4) (clusterOf s.me.homeCore) 2 (s.me.src b)
    rw [hleaves] at hexec
    refine ⟨_, hexec, rfl, rfl, ?_⟩
    rw [← issue_calm hcalm 4]
    rfl
  case word =>
    have hread : (s.issue 4).readOnly (s1.counted hs) := (checkFrom_readOnly hcheck).trans (counted_readOnly s1 hs)
    have hu := hread.framed.calm (State.calm_issue s 4 hcalm)
    have htest := suspTest_word htop haligned hcheck hhere
    refine ⟨fun hmet => ?_, fun hunmet hstores hunacked hroom => ?_⟩
    · rw [decide_eq_true hmet] at htest
      refine ⟨_, exec_susp_held hcalm hg ha hb hdepth hstreams hkind (by decide) htest hu (.inr hq), ?_⟩
      exact accessed_of_readOnly (f := id) hcalm hread (.refl _) rfl rfl rfl
    · have hqueues : (s1.counted hs).queues = s.queues :=
          (counted_queues s1 hs).trans (checkFrom_queues (s := s.issue 4) hcheck)
      have hdone : (s1.counted hs).storesDone = true :=
          hread.framed.storesDone (storesDone_of (s := s.issue 4) hstores hunacked)
      rw [decide_eq_false (Nat.not_le.mpr hunmet)] at htest
      have hexec := exec_susp_leaves hcalm hg ha hb hdepth hstreams hkind (by decide) htest hu (by decide) hq hdone
        (by rw [hread.framed.me]; exact hresv) hroom
      obtain ⟨agenda, hleaves⟩ := leavesWaiting_eq (s1.counted hs) (clusterOf s.me.homeCore) 1 (s.me.src b)
      rw [hleaves, hread.framed.me, hqueues, hread.framed.waitRec] at hexec
      refine ⟨_, hexec, rfl, hread.mem, ?_⟩
      rw [← issue_calm hcalm 4]
      rfl

/-- Refutes O30, for object tables whose keys do not rise: SPAWN looks the queue's overflow ring up after it has counted the task in
the launch record, and where that write puts a second task-queue record in front, the record does not join the ring that the table
named before. -/
theorem not_spawnResult : ¬ Obligations.SpawnResult := by
  intro h
  obtain ⟨hspawn, -⟩ := h .z .z .z 0 0 65537 0 _ _ unsortedRings ⟨rfl, rfl, rfl⟩ rfl rfl rfl rfl rfl rfl rfl rfl rfl
  obtain ⟨hjoins, -⟩ := hspawn rfl
  obtain ⟨t, hexec, -, -, hjoined⟩ := hjoins (by decide +kernel) unsortedRings_room
  have hone := ringLength_spawn
  rw [hexec, ringLength, Option.some_inj] at hone
  rw [Claims.joined, unsortedRings_overflows, if_neg Bool.false_ne_true] at hjoined
  obtain ⟨i, -, hring, -⟩ := hjoined
  have htwo : t.queues.ring.length = 2 := by rw [hring]; rfl
  omega

/-- Settles O31: MIGR gives its place here or leaves with it owed, HOME goes back from abroad, and a packet takes its own slot, a
place in the run queue, or goes on with its ending. -/
theorem migrationResult : Obligations.MigrationResult := by
  refine ⟨fun d a g la s s1 h k hcalm hg hd ha htop hcheck hk himage => ?migr,
    fun g la s hcalm hg => exec_home_calm la hcalm hg,
    fun g la s hstay hpend haway hg => ?abroad, fun s u c n hflag hstatus hu => ?arrival⟩
  case migr =>
    obtain ⟨tlb, hexec⟩ := exec_migr hcalm la hd hg ha htop hcheck hk himage
    refine ⟨fun hhome => ?_, fun hhome => ?_⟩
    · obtain ⟨t, ht, hplace⟩ := migrTo_here hcalm hd tlb hhome
      rw [ht] at hexec
      exact ⟨t, hexec, hplace⟩
    · obtain ⟨t, ht, hleaves⟩ := migrTo_away (d := d) hcalm tlb hhome
      rw [ht] at hexec
      exact ⟨t, hexec, hleaves⟩
  case abroad =>
    have hexec := exec_home_abroad la hstay hpend haway hg
    obtain ⟨agenda, hdepart⟩ := depart_eq (s.issue 4) s.me.homeCore 5
    rw [hdepart] at hexec
    exact ⟨_, hexec, rfl, rfl, rfl⟩
  case arrival =>
    subst hu
    exact ⟨exec_migrationArrival_home hflag hstatus,
      fun hdoom hn hroom => ⟨_, exec_migrationArrival_run hflag hstatus hdoom hn hroom, rfl, rfl⟩,
      exec_migrationArrival_doomed hflag hstatus⟩

end Sys2Proof.Machine
end

section
/-! SUPPORT. How free slots are filled, how records age, and how the wait set is left (R225, R241): what each step does to the
queues when it finds the entry it looks for at their head. -/

namespace Sys2Proof.Machine

theorem pull_head {α : Type} {p : α → Bool} {x : α} (r : List α) (h : p x = true) : pull p (x :: r) = some (x, r) := by
  rw [pull, if_pos h]

/-! A task started from its record (R242). -/

/-- A strand has the registers of a record of a task, and is ready at the user level. -/
def Strand.startedFrom (u : Strand) (r : Rec) : Prop :=
  u.pc = r.pc ∧ u.o = r.o ∧ u.tix = r.tix ∧ u.job = r.job ∧ u.lrec = r.lrec ∧ u.status = .ready ∧ u.plv = 0

theorem startStrand_sid (s : State) (sid : BitVec 32) (r : Rec) (plv : BitVec 2) : (s.startStrand sid r plv).sid = sid := by
  rw [State.startStrand]
  split <;> rfl

theorem startStrand_startedFrom (s : State) (sid : BitVec 32) (r : Rec) : (s.startStrand sid r 0).startedFrom r := by
  rw [State.startStrand]
  split <;> exact ⟨rfl, rfl, rfl, rfl, rfl, rfl, rfl⟩

/-- A strand put into a slot that is not that of the moving one joins the others. -/
theorem putStrand_of_ne {s : State} {u : Strand} (h : s.me.sid.toNat % 65536 ≠ u.sid.toNat % 65536) :
    s.putStrand u = { s with others := u :: s.others.filter fun x => x.sid.toNat % 65536 != u.sid.toNat % 65536 } := by
  rw [State.putStrand, if_neg h]

theorem strand?_putStrand {s : State} {u : Strand} (h : s.me.sid.toNat % 65536 ≠ u.sid.toNat % 65536) :
    (s.putStrand u).strand? u.sid.toNat = some u := by
  rw [putStrand_of_ne h, State.strand?, if_neg h]
  exact List.find?_cons_of_pos (beq_self_eq_true _)

/-- A task put into a slot of a core: its strand is there, and neither the moving one nor the queues have changed. -/
theorem startIn_of_ne {s : State} {core slot : Nat} (r : Rec)
    (h : s.me.sid.toNat % 65536 ≠ (s.sidOf core slot).toNat % 65536) :
    (s.startIn core slot r).me = s.me ∧ (s.startIn core slot r).queues = s.queues ∧
      ∃ u, (s.startIn core slot r).strand? (s.sidOf core slot).toNat = some u ∧ u.startedFrom r := by
  have hsid : (s.startStrand (s.sidOf core slot) r 0).sid = s.sidOf core slot := startStrand_sid _ _ _ _
  have hne : s.me.sid.toNat % 65536 ≠ (s.startStrand (s.sidOf core slot) r 0).sid.toNat % 65536 := by rwa [hsid]
  have hput := putStrand_of_ne hne
  have hat := strand?_putStrand hne
  rw [hsid] at hat
  have ⟨hme, hqueues⟩ : (s.startIn core slot r).me = s.me ∧ (s.startIn core slot r).queues = s.queues := by
    rw [State.startIn, hput]
    exact ⟨rfl, rfl⟩
  exact ⟨hme, hqueues, _, hat, startStrand_startedFrom s _ r⟩

/-! SLOT_FILL (R225, R241). -/

section
variable {s : State} (hserving : s.serving s.arg.core = true)
include hserving

/-- The run queue of the core comes first, and its oldest entry first. -/
theorem exec_slotFill_run {e : RunEntry} {rest : List (Nat × RunEntry)} {slot : Nat}
    (hslot : s.freeSlot s.arg.core = some slot) (hrun : s.queues.run = (s.arg.core, e) :: rest) :
    exec .slotFill s = .next (s.fillFromRun s.arg.core slot e rest) := by
  have hpull : pull (fun e : Nat × RunEntry => e.1 == s.arg.core) s.queues.run = some ((s.arg.core, e), rest) := by
    rw [hrun]
    exact pull_head rest (beq_self_eq_true _)
  simp only [exec, execSlotFill, hserving, hslot, hpull, Bool.not_true, Bool.false_eq_true, if_false]

/-- With no run queue, the head record of the core's cluster goes to the compute core with the most free slots. -/
theorem exec_slotFill_task {r : Rec} {die : Bool} {core slot : Nat} (hrun : s.queues.run = [])
    (hnext : s.nextRec (clusterOf s.arg.core) = some (die, r)) (hroom : s.roomiest (clusterOf s.arg.core) = some core)
    (hslot : s.freeSlot core = some slot) :
    exec .slotFill s = .next ((s.fillFromTask (clusterOf s.arg.core) die r core slot).due .slotFill { core := s.arg.core }) := by
  simp only [exec, execSlotFill, hserving, hrun, hnext, hroom, hslot, pull, Bool.not_true, Bool.false_eq_true, if_false]

end

/-- A record of level 3 at the head of its cluster's queue comes before any other of that queue. -/
theorem bestRec_head {f : Nat × Rec → Bool} {e : Nat × Rec} (rest : List (Nat × Rec)) (hf : f e = true)
    (hprio : e.2.prio = 3) : bestRec f (e :: rest) = some e := by
  have hhit : (f e && e.2.prio.toNat == 3) = true := by rw [hf, hprio]; rfl
  have hlevels : (List.range 4).reverse = [3, 2, 1, 0] := rfl
  have hfind : (e :: rest).find? (fun e => f e && e.2.prio.toNat == 3) = some e := List.find?_cons_of_pos hhit
  rw [bestRec, hlevels, List.findSome?_cons, hfind]

theorem bestRec_nil (f : Nat × Rec → Bool) : bestRec f [] = none := rfl

theorem nextRec_head {s : State} {r : Rec} {cl : Nat} {rest : List (Nat × Rec)} (hdie : s.queues.die = [])
    (htask : s.queues.task = (cl, r) :: rest) (hprio : r.prio = 3) : s.nextRec cl = some (false, r) := by
  have hbest : bestRec (fun e => e.1 == cl) s.queues.task = some (cl, r) := by
    rw [htask]
    exact bestRec_head rest (beq_self_eq_true _) hprio
  rw [State.nextRec, hbest, hdie, bestRec_nil]

theorem refill_of_empty {s : State} (q : Nat) (hring : s.queues.ring = []) : s.refill q = s := by
  rw [State.refill, hring]
  rfl

/-- With no overflow ring, the head record leaves its queue for the slot. -/
theorem fillFromTask_head {s : State} {r : Rec} {cl : Nat} {rest : List (Nat × Rec)} (core slot : Nat)
    (hring : s.queues.ring = []) (htask : s.queues.task = (cl, r) :: rest) :
    s.fillFromTask cl false r core slot = State.startIn { s with queues := { s.queues with task := rest } } core slot r := by
  have herase : s.queues.task.erase (cl, r) = rest := by rw [htask, List.erase_cons_head]
  rw [State.fillFromTask, if_neg Bool.false_ne_true, if_neg Bool.false_ne_true, herase]
  exact congrArg (State.startIn · core slot r) (refill_of_empty cl hring)

/-- A spawned record at the head of the run queue becomes a task in the free slot. -/
theorem slotFill_spawn {s : State} {r : Rec} {slot : Nat} {rest : List (Nat × RunEntry)}
    (hserving : s.serving s.arg.core = true) (hslot : s.freeSlot s.arg.core = some slot)
    (hrun : s.queues.run = (s.arg.core, .spawn r) :: rest)
    (hne : s.me.sid.toNat % 65536 ≠ (s.sidOf s.arg.core slot).toNat % 65536) :
    ∃ t u, exec .slotFill s = .next t ∧ t.queues.run = rest ∧ t.me = s.me ∧
      t.strand? (s.sidOf s.arg.core slot).toNat = some u ∧ u.startedFrom r := by
  have hexec := exec_slotFill_run hserving hslot hrun
  let s' := State.due { s with queues := { s.queues with run := rest } } .slotFill { core := s.arg.core }
  obtain ⟨hme, hqueues, u, hat, hfrom⟩ := startIn_of_ne (s := s') r hne
  exact ⟨_, u, hexec, congrArg Queues.run hqueues, hme, hat, hfrom⟩

/-- The first record of the highest level becomes a task in the free slot of the roomiest core. -/
theorem slotFill_task {s : State} {r : Rec} {core slot : Nat} {rest : List (Nat × Rec)}
    (hserving : s.serving s.arg.core = true) (hrun : s.queues.run = []) (hdie : s.queues.die = []) (hring : s.queues.ring = [])
    (htask : s.queues.task = (clusterOf s.arg.core, r) :: rest) (hprio : r.prio = 3)
    (hroom : s.roomiest (clusterOf s.arg.core) = some core) (hslot : s.freeSlot core = some slot)
    (hne : s.me.sid.toNat % 65536 ≠ (s.sidOf core slot).toNat % 65536) :
    ∃ t u, exec .slotFill s = .next t ∧ t.queues.task = rest ∧ t.me = s.me ∧
      t.strand? (s.sidOf core slot).toNat = some u ∧ u.startedFrom r := by
  have hexec := exec_slotFill_task hserving hrun (nextRec_head hdie htask hprio) hroom hslot
  rw [fillFromTask_head core slot hring htask] at hexec
  obtain ⟨hme, hqueues, u, hat, hfrom⟩ := startIn_of_ne (s := { s with queues := { s.queues with task := rest } }) r hne
  exact ⟨_, u, hexec, congrArg Queues.task hqueues, hme, hat, hfrom⟩

theorem landed_of_pend_nil {s : State} (hpend : s.me.pend = []) : s.landed = s := by
  rw [State.landed, hpend, List.map_nil, ← hpend]

theorem carried_of_pend_nil {s : State} (hpend : s.me.pend = []) : s.carried = some s := by
  rw [State.carried, takePend, hpend]
  rfl

/-- A strand that owes nothing takes a slot it has come to, and carries nothing there (R225). -/
theorem enterSlot_of_pend_nil {s : State} (core slot : Nat) (hpend : s.me.pend = []) :
    s.enterSlot core slot = { s with me := { s.me with core, slot, status := .ready, lastIssue := s.clk } } := by
  have hlanded := landed_of_pend_nil
    (s := { s with me := { s.me with core, slot, status := .ready, lastIssue := s.clk } }) hpend
  simp only [State.enterSlot, hlanded]
  rw [carried_of_pend_nil]
  exact hpend

/-- A strand at the head of the run queue takes the free slot. -/
theorem slotFill_strand {s : State} {slot : Nat} {rest : List (Nat × RunEntry)} (hserving : s.serving s.arg.core = true)
    (hslot : s.freeSlot s.arg.core = some slot)
    (hrun : s.queues.run = (s.arg.core, .strand (s.me.sid.toNat % 65536)) :: rest) (hpend : s.me.pend = []) :
    ∃ t, exec .slotFill s = .next t ∧ t.queues.run = rest ∧ t.mem = s.mem ∧
      t.me = { s.me with core := s.arg.core, slot, status := .ready, lastIssue := s.clk } := by
  let s' := State.due { s with queues := { s.queues with run := rest } } .slotFill { core := s.arg.core }
  have hfill : s.fillFromRun s.arg.core slot (.strand (s.me.sid.toNat % 65536)) rest = s'.enterSlot s.arg.core slot :=
    congrArg (State.enterSlot · s.arg.core slot) (focus_mod s')
  have hexec := exec_slotFill_run hserving hslot hrun
  rw [hfill, enterSlot_of_pend_nil (s := s') _ _ hpend] at hexec
  exact ⟨_, hexec, rfl, rfl, rfl⟩

/-! RECORD_AGEING and WAIT_SET_TIME_WAKE (R223, R241). -/

theorem exec_recordAgeing_head {s : State} {r : Rec} {c : Nat} {rest : List (Nat × Rec)}
    (htask : s.queues.task = (c, r) :: rest) (hlevel : r.prio.toNat < 3) (hold : r.since.toNat + 1024 < s.clk.toNat) :
    exec .recordAgeing s = .next { s with queues := { s.queues with
      task := rest ++ [(c, { r with prio := r.prio + 1, since := s.clk })] } } := by
  have hdue : (decide (r.prio.toNat < 3) && decide (r.since.toNat + 1024 < s.clk.toNat)) = true := by
    rw [decide_eq_true hlevel, decide_eq_true hold, Bool.and_self]
  have hage : ageOne s.clk s.queues.task = some (rest ++ [(c, { r with prio := r.prio + 1, since := s.clk })]) := by
    rw [ageOne, htask, pull_head rest hdue]
  rw [exec, execRecordAgeing, hage]

/-- An entry of the wait set whose time has come goes to the tail of its cluster's queue. -/
theorem exec_waitSetTimeWake_head {s : State} {r : Rec} {c : Nat} {rest : List (Nat × Rec)}
    (hwaits : s.queues.waits = (c, r) :: rest) (hwake : r.wake = 2) (htime : r.t1.toNat ≤ s.clk.toNat)
    (hroom : s.taskRoom c = true) :
    exec .waitSetTimeWake s = .next (State.putQueue { s with queues := { s.queues with waits := rest } } c
      { r with wake := 0, t1 := 0, t2 := 0 }) := by
  have hdue : ((r.wake == 2 && decide (r.t1.toNat ≤ s.clk.toNat)) && s.taskRoom c) = true := by
    rw [hwake, decide_eq_true htime, hroom]
    rfl
  rw [exec, execWaitSetTimeWake, State.wakeRec, hwaits, pull_head rest hdue]
  rfl

/-- A record that joins a queue leaves the wait set as it is. -/
theorem putQueue_waits (s : State) (q : Nat) (r : Rec) : (s.putQueue q r).queues.waits = s.queues.waits := by
  have hpush : ∀ r', (s.queues.push q r').waits = s.queues.waits := fun r' => by
    rw [Queues.push]
    split <;> rfl
  obtain ⟨agenda, hjoin⟩ := joinQueue_eq s q r
  rw [State.putQueue]
  split
  · rw [hjoin]
    exact hpush _
  · split <;> rfl

end Sys2Proof.Machine
end

section
/-! SUPPORT. Bit fields of object records (R263): what is read after a field has been written. -/

namespace Sys2Proof.Machine

theorem testBit_bitsOf (v lo n i : Nat) : (bitsOf v lo n).testBit i = (decide (i < n) && v.testBit (lo + i)) := by
  rw [bitsOf, Nat.testBit_mod_two_pow, Nat.testBit_div_two_pow, Nat.add_comm]

/-- A number with n bits replaced is its upper part, the new bits and its lower part. -/
theorem setBits_eq (v lo n x : Nat) :
    setBits v lo n x = 2 ^ lo * (2 ^ n * (v / 2 ^ lo / 2 ^ n) + x % 2 ^ n) + v % 2 ^ lo := by
  have hv : 2 ^ lo * (2 ^ n * (v / 2 ^ lo / 2 ^ n) + v / 2 ^ lo % 2 ^ n) + v % 2 ^ lo = v := by
    rw [Nat.div_add_mod, Nat.div_add_mod]
  rw [setBits, bitsOf]
  generalize 2 ^ n * (v / 2 ^ lo / 2 ^ n) = hi, v / 2 ^ lo % 2 ^ n = mid, v % 2 ^ lo = low, x % 2 ^ n = new at hv ⊢
  rw [← hv]
  simp only [Nat.mul_add, Nat.mul_comm _ (2 ^ lo)]
  omega

theorem testBit_setBits (v lo n x i : Nat) :
    (setBits v lo n x).testBit i = if lo ≤ i ∧ i < lo + n then x.testBit (i - lo) else v.testBit i := by
  have hlow : v % 2 ^ lo < 2 ^ lo := Nat.mod_lt _ (Nat.two_pow_pos lo)
  have hnew : x % 2 ^ n < 2 ^ n := Nat.mod_lt _ (Nat.two_pow_pos n)
  rw [setBits_eq, Nat.testBit_two_pow_mul_add _ hlow]
  split
  next h =>
    rw [if_neg (by omega), Nat.testBit_mod_two_pow, decide_eq_true h, Bool.true_and]
  next h =>
    rw [Nat.testBit_two_pow_mul_add _ hnew]
    split
    next hn => rw [if_pos (by omega), Nat.testBit_mod_two_pow, decide_eq_true hn, Bool.true_and]
    next hn =>
      rw [if_neg (by omega), Nat.testBit_div_two_pow, Nat.testBit_div_two_pow]
      congr 1
      omega

theorem testBit_fld (o : Obj) (w lo n i : Nat) :
    (o.fld w lo n).testBit i = (decide (i < n) && o.img.toNat.testBit (64 * w + lo + i)) := testBit_bitsOf _ _ _ _

theorem testBit_setFld (o : Obj) (w lo n v i : Nat) : (o.setFld w lo n v).img.toNat.testBit i =
    (decide (i < 2048) && if 64 * w + lo ≤ i ∧ i < 64 * w + lo + n then v.testBit (i - (64 * w + lo))
      else o.img.toNat.testBit i) := by
  rw [Obj.setFld, BitVec.testBit_toNat, BitVec.getLsbD_ofNat, testBit_setBits]

theorem valid_setFld (o : Obj) (w lo n v : Nat) : (o.setFld w lo n v).valid = o.valid := by
  rw [Obj.valid, Obj.setFld, Obj.valid]

/-- A field that lies in the record reads as it was written. -/
theorem fld_setFld_same (o : Obj) {w lo n : Nat} (v : Nat) (hin : 64 * w + lo + n ≤ 2048) :
    (o.setFld w lo n v).fld w lo n = v % 2 ^ n := by
  refine Nat.eq_of_testBit_eq fun i => ?_
  rw [testBit_fld, testBit_setFld, Nat.testBit_mod_two_pow]
  by_cases hi : i < n
  · have hpos : 64 * w + lo + i < 2048 := by omega
    rw [if_pos (by omega), decide_eq_true hi, decide_eq_true hpos, Nat.add_sub_cancel_left, Bool.true_and]
  · rw [decide_eq_false hi, Bool.false_and, Bool.false_and]

/-- A field apart from the written one keeps its value. -/
theorem fld_setFld_apart (o : Obj) {w lo n w' lo' n' : Nat} (v : Nat)
    (h : 64 * w' + lo' + n' ≤ 64 * w + lo ∨ 64 * w + lo + n ≤ 64 * w' + lo') :
    (o.setFld w lo n v).fld w' lo' n' = o.fld w' lo' n' := by
  refine Nat.eq_of_testBit_eq fun i => ?_
  rw [testBit_fld, testBit_setFld, testBit_fld]
  by_cases hi : i < n'
  · rw [if_neg (by omega), decide_eq_true hi, Bool.true_and, Bool.true_and, BitVec.testBit_toNat]
    by_cases hin : 64 * w' + lo' + i < 2048
    · rw [decide_eq_true hin, Bool.true_and]
    · rw [BitVec.getLsbD_of_ge _ _ (Nat.le_of_not_lt hin), Bool.and_false]
  · rw [decide_eq_false hi, Bool.false_and, Bool.false_and]

end Sys2Proof.Machine
end

section
/-! SUPPORT. What a launch unit leaves alone when it writes a completion word or a message (R240), and where a graph ends. -/

namespace Sys2Proof.Machine

/-- An access of a unit that leaves the moving strand as it is. -/
def UnitKeepsMe {α : Type} (x : EM α) : Prop := ∀ s v t, x s = .ok (v, t) → t.me = s.me

section
variable {α β : Type}

theorem unitKeepsMe_pure (v : α) : UnitKeepsMe (pure v : EM α) := fun _ _ _ h => by cases h; rfl

theorem unitKeepsMe_get : UnitKeepsMe (get : EM State) := fun _ _ _ h => by cases h; rfl

theorem unitKeepsMe_bind {x : EM α} {f : α → EM β} (hx : UnitKeepsMe x) (hf : ∀ v, UnitKeepsMe (f v)) :
    UnitKeepsMe (x >>= f) := by
  intro s w u h
  cases hrun : x s with
  | error e =>
    simp only [bind, StateT.bind, hrun, Except.bind] at h
    cases h
  | ok p =>
    simp only [bind, StateT.bind, hrun, Except.bind] at h
    exact (hf p.1 p.2 w u h).trans (hx s p.1 p.2 hrun)

end

theorem unitKeepsMe_engHit (cl job right va : Nat) (p : Nat × Nat) : UnitKeepsMe (engHit cl job right va p) := by
  intro s h t hx
  unfold engHit at hx
  split at hx
  · split at hx
    · cases hx
    next hlookup =>
      split at hx
      · cases hx
        obtain ⟨tlb, htlb⟩ := lookup_eq hlookup
        rw [htlb]
      · cases hx
  · cases hx
    rfl

theorem unitKeepsMe_engFrom (cl job right va : Nat) (ps : List (Nat × Nat)) : UnitKeepsMe (engFrom cl job right va ps) := by
  induction ps with
  | nil => exact unitKeepsMe_pure []
  | cons p r ih =>
    exact unitKeepsMe_bind (unitKeepsMe_engHit _ _ _ _ _) fun h => unitKeepsMe_bind ih fun t => unitKeepsMe_pure (h :: t)

theorem unitKeepsMe_engHits (cl job right : Nat) (ps : List (Nat × Nat)) : UnitKeepsMe (engHits cl job right ps) := by
  refine unitKeepsMe_bind (unitKeepsMe_engFrom _ _ _ _ _) fun hs s v t hx => ?_
  split at hx
  · cases hx
  · cases hx
    rfl

theorem hwSend_me (s : State) (dst kind job : Nat) (o1 o2 o3 o4 : Word) : (s.hwSend dst kind job o1 o2 o3 o4).me = s.me :=
  (hwSend_readOnly s dst kind job o1 o2 o3 o4).framed.me

theorem counted_me (s : State) (hs : List Hit) : (s.counted hs).me = s.me := (counted_readOnly s hs).framed.me

theorem appendLog_me {s t : State} {core job va : Nat} (h : s.appendLog core job va = some t) : t.me = s.me := by
  rw [State.appendLog] at h
  dsimp only at h
  split at h
  · cases h
  · cases h
    split
    · rw [hwSend_me, State.setNum_me, State.setNum_me]
    · rw [State.setNum_me, State.setNum_me]

theorem unitKeepsMe_engLog (cl job va : Nat) : UnitKeepsMe (engLog cl job va) := by
  intro s v t hx
  unfold engLog at hx
  split at hx
  · cases hx; rfl
  · split at hx
    · cases hx; rfl
    · split at hx
      · cases hx
      next happend =>
        cases hx
        have hme := appendLog_me happend
        exact hme

theorem unitKeepsMe_engLogs (cl job : Nat) (ps : List (Nat × Nat)) : UnitKeepsMe (engLogs cl job ps) := by
  induction ps with
  | nil => exact unitKeepsMe_pure ()
  | cons p r ih => exact unitKeepsMe_bind (unitKeepsMe_engLog _ _ _) fun _ => ih

theorem farWrite_me (s : State) (job : Nat) (hs : List Hit) (bs : List Byte) : (s.farWrite job hs bs).me = s.me := by
  rw [State.farWrite]
  split
  · rfl
  · dsimp only
    split <;> rfl

theorem unitKeepsMe_engWrite (cl job : Nat) (ps : List (Nat × Nat)) (bs : List Byte) :
    UnitKeepsMe (engWrite cl job ps bs) := by
  refine unitKeepsMe_bind (unitKeepsMe_engHits _ _ _ _) fun hs =>
    unitKeepsMe_bind (unitKeepsMe_engLogs _ _ _) fun _ s v t hx => ?_
  dsimp only at hx
  split at hx
  · cases hx
  · split at hx
    · cases hx; rfl
    · cases hx
      rw [counted_me, farWrite_me]
      rfl

theorem unitKeepsMe_engAdd (cl job va n : Nat) : UnitKeepsMe (engAdd cl job va n) := by
  refine unitKeepsMe_bind unitKeepsMe_get fun s => unitKeepsMe_bind (unitKeepsMe_engHits _ _ _ _) fun hs => ?_
  split
  · exact fun u => unitKeepsMe_engWrite _ _ _ _ u
  · refine unitKeepsMe_bind (unitKeepsMe_engLogs _ _ _) fun _ u v t hx => ?_
    dsimp only at hx
    split at hx
    · cases hx; rfl
    · cases hx
      rw [counted_me]
      split <;> rfl

theorem addWord_me (s : State) (cl job va n : Nat) : (s.addWord cl job va n).me = s.me := by
  rw [State.addWord]
  split
  next h => exact unitKeepsMe_engAdd cl job va n s _ _ h
  next t h =>
    have hme : t.me = s.me := unitKeepsMe_engAdd cl job va n s _ _ h
    exact hme
  · split <;> rfl

theorem bump_me (s : State) (die job h va : Nat) : (s.bump die job h va).me = s.me := by
  rw [State.bump]
  split
  · rfl
  · split
    · split
      · exact addWord_me ..
      · exact hwSend_me ..
    · exact addWord_me ..

theorem notify_me (s : State) (job w : Nat) (o : Vector Word 6) : (s.notify job w o).me = s.me := by
  rw [State.notify]
  dsimp only
  split <;> rfl

/-- One field written in many records: the object table alone changes. -/
theorem foldl_setObjFld_eq {α : Type} (key : α → Nat) (w lo n v : Nat) (l : List α) (s : State) :
    ∃ obj, l.foldl (fun s x => s.setObjFld (key x) w lo n v) s = { s with obj } :=
  List.foldlRecOn (motive := fun t : State => ∃ obj, t = { s with obj }) l _ ⟨_, rfl⟩ fun _ ⟨_, ht⟩ _ _ => by
    rw [ht]
    exact ⟨_, rfl⟩

theorem endGraph_me (s : State) (g : Nat) : (s.endGraph g).me = s.me := by
  rw [State.endGraph]
  dsimp only
  split
  · rfl
  · rw [notify_me]
    refine (bump_me ..).trans ?_
    obtain ⟨obj, hfold⟩ := foldl_setObjFld_eq (fun v => objKey (g / 65536) ((s.objAt g).nodeHandle v)) 0 32 16 0
      (List.range (s.objAt g).nodes) (s.setObjFld g 0 15 3 5)
    rw [hfold]
    rfl

end Sys2Proof.Machine
end

section
/-! SUPPORT. Handles of records that are not fields, and the job record among them (R234, R264). -/

namespace Sys2Proof.Machine

theorem cacheEntry_calm {s : State} (key : Nat) (hcalm : s.calm) : (s.cacheEntry key).calm := hcalm

/-- A handle whose checks pass gives its key, and its entry is cached (R262). -/
theorem ownHandle_issue {s : State} {a : Word} {kind key : Nat} {r : Right} {o : Obj} (n : Nat) (hkind : kind ≠ 1)
    (h : Claims.handle s a kind r key o) :
    ownHandle a kind r (s.issue n) = .ok (key, (s.cacheEntry key).issue n) := by
  obtain ⟨rfl, -, t, huse⟩ := h
  have huse' : useHandle (s.issue n).me.job.toNat (wbits a 0 16) kind r a (s.issue n) =
      .ok (o, (s.cacheEntry (objKey s.me.job.toNat (wbits a 0 16))).issue n) := by
    unfold useHandle at huse ⊢
    dsimp only at huse
    split_ifs at huse with hinvalid hright
    cases huse
    exact (if_neg hinvalid).trans ((if_pos hright).trans (by rw [if_neg hkind]; rfl))
  rw [ownHandle, bind_ok _ _ _ _ _ rfl, bind_ok _ _ _ _ _ huse']
  rfl

/-- The record a handle names is valid and of its kind. -/
theorem valid_of_handle {s : State} {a : Word} {kind key : Nat} {r : Right} {o : Obj} (h : Claims.handle s a kind r key o) :
    o.valid = true ∧ o.kind = kind := by
  obtain ⟨-, -, t, huse⟩ := h
  unfold useHandle at huse
  dsimp only at huse
  split_ifs at huse with hinvalid hright <;>
  · cases huse
    obtain ⟨-, hrest⟩ := not_or.mp hinvalid
    obtain ⟨hvalid, hkind⟩ := not_or.mp hrest
    exact ⟨by simpa using hvalid, not_not.mp hkind⟩

/-- An entry is the record of a job (R234). -/
def Obj.isJob (o : Obj) (job : Nat) : Bool := o.valid && o.kind == 4 && o.fld 0 8 16 == job

/-- The record of a job stays the one found when it is written over by one of the same job. -/
theorem findJob_put {job key : Nat} {v : Obj} {m : SMap Obj} (hv : v.isJob job = true) (h : findJob job m = some key) :
    findJob job (SMap.put key v m) = some key := by
  have hhead : ∀ r, findJob job ((key, v) :: r) = some key := fun r => if_pos hv
  induction m with
  | nil => exact hhead []
  | cons e r ih =>
    obtain ⟨a, w⟩ := e
    rw [SMap.put]
    split
    · exact hhead r
    next hne =>
      split
      · exact hhead _
      · rw [findJob] at h ⊢
        split at h
        · cases h
          exact absurd rfl hne
        next hw => rw [if_neg hw, ih h]

theorem objAt_congr {s t : State} (h : t.obj = s.obj) : t.objAt = s.objAt := by
  funext key
  rw [State.objAt, State.objAt, State.obj?, State.obj?, h]

theorem objAt_setObj (s : State) (key : Nat) (o : Obj) : (s.setObj key o).objAt key = o := by
  rw [State.objAt, State.obj?, State.setObj, SMap.find_put, if_pos rfl]
  rfl

theorem objAt_setObjFld (s : State) (key w lo n v : Nat) :
    (s.setObjFld key w lo n v).objAt key = (s.objAt key).setFld w lo n v := objAt_setObj s key _

/-- The state of a job in a record written there. -/
theorem jState_setFld (o : Obj) (v : Nat) : (o.setFld 0 28 3 v).jState = v % 2 ^ 3 := by
  rw [Obj.jState, fld_setFld_same o v (by omega)]

/-- The state of a job is no part of what makes its record. -/
theorem isJob_setFld_jState (o : Obj) (job v : Nat) : (o.setFld 0 28 3 v).isJob job = o.isJob job := by
  rw [Obj.isJob, Obj.isJob, Obj.kind, Obj.kind, valid_setFld, fld_setFld_apart o v (by omega), fld_setFld_apart o v (by omega)]

end Sys2Proof.Machine
end

section
/-! SUPPORT. CANCEL (R237, R244): what becomes of the queues and engines, of a launch, a graph and a job. -/

namespace Sys2Proof.Machine

/-! The engines (R191, R210). -/

theorem cancelCmds_eq (s : State) (f : Cmd → Bool) : ∃ engines agenda, s.cancelCmds f = { s with engines, agenda } :=
  List.foldlRecOn (motive := fun t : State => ∃ engines agenda, t = { s with engines, agenda }) _ _ ⟨_, _, rfl⟩
    fun _ ⟨_, _, ht⟩ _ _ => by
      rw [ht]
      exact ⟨_, _, rfl⟩

theorem stopXfers_eq (s : State) (f : Xfer → Bool) : ∃ engines, s.stopXfers f = { s with engines } :=
  List.foldlRecOn (motive := fun t : State => ∃ engines, t = { s with engines }) _ _ ⟨_, rfl⟩
    fun _ ⟨_, ht⟩ _ _ => by
      rw [ht]
      exact ⟨_, rfl⟩

/-- Commands that have not started retire, and transfers stop: nothing outside the engines changes but the moves due. -/
theorem cancelled_engines_eq (s : State) (f : Cmd → Bool) (g : Xfer → Bool) :
    ∃ engines agenda, (s.cancelCmds f).stopXfers g = { s with engines, agenda } := by
  obtain ⟨engines, agenda, hcmds⟩ := cancelCmds_eq s f
  obtain ⟨engines', hxfers⟩ := stopXfers_eq (s.cancelCmds f) g
  rw [hxfers, hcmds]
  exact ⟨engines', agenda, rfl⟩

theorem cancelEngines_of_idle {s : State} (f : Option Nat → Bool) (hcmds : s.engines.cmds = [])
    (hxfers : s.engines.xfers = []) : s.cancelEngines f = s := by
  have hcancel : (s.cancelCmds fun c => f c.launch) = s := by
    rw [State.cancelCmds, hcmds]
    rfl
  rw [State.cancelEngines, hcancel, State.stopXfers, hxfers]
  rfl

theorem cancelRuns_of_no_graphs {s : State} (step : Nat) (f : CGraph → Bool) (h : s.fabric.graphs = []) :
    s.cancelRuns step f = s := by
  rw [State.cancelRuns, h]
  rfl

/-! A launch (R237). -/

/-- Records of a launch taken out of the queues. -/
def Queues.without (q : Queues) (key : Nat) : Queues := { q with
  ring := q.ring.filter fun e => !e.2.2.of key
  task := q.task.filter fun e => !e.2.of key
  die := q.die.filter fun e => !e.2.of key
  waits := q.waits.filter fun e => !e.2.of key
  run := q.run.filter fun e => !e.2.of key }

/-- No queue holds a record. -/
def Queues.idle (q : Queues) : Prop := q.task = [] ∧ q.die = [] ∧ q.ring = [] ∧ q.waits = [] ∧ q.run = []

theorem without_of_idle {q : Queues} (key : Nat) (h : q.idle) : q.without key = q := by
  obtain ⟨htask, hdie, hring, hwaits, hrun⟩ := h
  cases q
  cases htask
  cases hdie
  cases hring
  cases hwaits
  cases hrun
  rfl

theorem refillAll_of_empty {s : State} (h : s.queues.ring = []) : s.refillAll = s := by
  rw [State.refillAll, h]
  rfl

theorem discard_of_idle {s : State} (key : Nat) (h : s.queues.idle) : s.discard key = (s, 0) := by
  have hqueues : State.refillAll { s with queues := s.queues.without key } = s := by
    rw [without_of_idle key h]
    obtain ⟨-, -, hring, -, -⟩ := h
    exact refillAll_of_empty hring
  obtain ⟨htask, hdie, hring, hwaits, hrun⟩ := h
  have hcount : (s.discard key).2 = 0 := by
    simp only [State.discard, htask, hdie, hring, hwaits, hrun, List.filter_nil, List.length_nil]
  exact Prod.ext hqueues hcount

theorem cancelStrands_of_none {s : State} {f : Strand → Bool} (hothers : s.others = []) (hme : f s.me = false) :
    s.cancelStrands f = s := by
  have hnone : s.strands.filter f = [] := by
    rw [State.strands, hothers, List.filter_cons, hme]
    rfl
  rw [State.cancelStrands, hnone]
  exact focus_self s

/-- With no task of it anywhere, a launch is marked CANCELLED and the tasks not generated are counted. -/
theorem cancelLaunch_quiet {s : State} {key : Nat} (hactive : s.launchActive key = true) (hstate : (s.objAt key).lState ≠ 4)
    (hquiet : Claims.quiet s) (hown : s.me.launch? ≠ some key) :
    s.cancelLaunch key = (s.setObjFld key 0 10 3 4).countTasks key .canc ((s.objAt key).tcount - s.generated key) := by
  obtain ⟨hothers, htask, hdie, hring, hwaits, hrun, hcmds, hxfers, hgraphs⟩ := hquiet
  have hgoes : ¬ ((!s.launchActive key || (s.objAt key).lState == 4) = true) := by
    rw [hactive, Bool.not_true, Bool.false_or, beq_iff_eq]
    exact hstate
  have hdiscard : (s.setObjFld key 0 10 3 4).discard key = (s.setObjFld key 0 10 3 4, 0) :=
    discard_of_idle key ⟨htask, hdie, hring, hwaits, hrun⟩
  have hengines := cancelEngines_of_idle (s := s.setObjFld key 0 10 3 4) (· == some key) hcmds hxfers
  have hruns := cancelRuns_of_no_graphs (s := s.setObjFld key 0 10 3 4) 63 (fun g => g.launch == some key) hgraphs
  rw [State.cancelLaunch]
  dsimp only
  rw [if_neg hgoes, hdiscard]
  dsimp only
  rw [hengines, hruns]
  exact cancelStrands_of_none hothers (beq_eq_false_iff_ne.mpr hown)

theorem countTasks_me (s : State) (key : Nat) (how : Ending) (n : Nat) : (s.countTasks key how n).me = s.me :=
  State.modObj_me _ _ _

theorem countTasks_mem (s : State) (key : Nat) (how : Ending) (n : Nat) : (s.countTasks key how n).mem = s.mem :=
  State.modObj_mem _ _ _

theorem objAt_countTasks (s : State) (key : Nat) (how : Ending) (n : Nat) : (s.countTasks key how n).objAt key =
    (s.objAt key).setFld how.word 0 40 ((s.objAt key).fld how.word 0 40 + n) := objAt_setObj s key _

/-! A graph (R237). -/

theorem cancelGraph_of_not_running {s : State} {g : Nat} (h : (s.objAt g).gState ≠ 3) : s.cancelGraph g = s := if_pos h

/-- A running graph with none of its launches active is marked, and what it has not started is skipped. -/
theorem cancelGraph_of_no_launches {s : State} {g : Nat} (hruns : (s.objAt g).gState = 3)
    (hnone : (Claims.skipped s g).graphLaunches g = []) :
    ∃ f, s.cancelGraph g = ((Claims.skipped s g).cancelEngines f).endGraph g := by
  have hcancel : s.cancelGraph g =
      ((((Claims.skipped s g).graphLaunches g).foldl State.cancelLaunch (Claims.skipped s g)).cancelEngines
        (((Claims.skipped s g).graphAll g).map some).contains).endGraph g := if_neg (not_not.mpr hruns)
  rw [hcancel, hnone]
  exact ⟨_, rfl⟩

/-- A graph with none of its launches active is cancelled without the strand. -/
theorem cancelGraph_me {s : State} {g : Nat} (h : (s.objAt g).gState = 4 ∨ (Claims.skipped s g).graphLaunches g = []) :
    (s.cancelGraph g).me = s.me := by
  by_cases hruns : (s.objAt g).gState = 3
  · have hnone := h.resolve_left (by rw [hruns]; decide)
    obtain ⟨f, hcancel⟩ := cancelGraph_of_no_launches hruns hnone
    obtain ⟨engines, agenda, hengines⟩ :=
      cancelled_engines_eq (Claims.skipped s g) (fun c => f c.launch) fun x => f x.launch
    rw [hcancel, endGraph_me, State.cancelEngines, hengines]
    rfl
  · rw [cancelGraph_of_not_running hruns]

/-! A job (R244). -/

theorem leavePort_eq (s : State) (g port root : Nat) : ∃ fabric, s.leavePort g port root = { s with fabric } := by
  rw [State.leavePort]
  dsimp only
  split <;> exact ⟨_, rfl⟩

theorem unsub_eq (s : State) (die job g : Nat) : ∃ obj fabric, s.unsub die job g = { s with obj, fabric } := by
  rw [State.unsub]
  dsimp only
  split
  · split
    · exact ⟨_, _, rfl⟩
    · obtain ⟨fabric, hleave⟩ := leavePort_eq (List.foldl (fun s k => State.setObjFld s k 0 20 1 0) _ _) g ownPort _
      rw [hleave]
      obtain ⟨obj, hfold⟩ := foldl_setObjFld_eq (fun k : Nat => k) 0 20 1 0 _ _
      rw [hfold]
      exact ⟨_, _, rfl⟩
  · exact ⟨_, _, rfl⟩

theorem jobGone_eq (s : State) (job : Nat) : ∃ obj fabric device, s.jobGone job = { s with obj, fabric, device } :=
  List.foldlRecOn (motive := fun t : State => ∃ obj fabric device, t = { s with obj, fabric, device }) _ _ ⟨_, _, _, rfl⟩
    fun t ⟨_, _, _, ht⟩ e _ => by
      obtain ⟨_, _, hunsub⟩ := unsub_eq t e.1 job e.2.2.1
      rw [hunsub, ht]
      exact ⟨_, _, _, rfl⟩

theorem jobGone_obj {s : State} (job : Nat) (h : s.fabric.subs = []) : (s.jobGone job).obj = s.obj := by
  rw [State.jobGone]
  dsimp only
  rw [h]
  rfl

theorem modJob_eq (s : State) (job : Nat) (f : Obj → Obj) : ∃ obj, s.modJob job f = { s with obj } := by
  rw [State.modJob]
  split <;> exact ⟨_, rfl⟩

theorem modJob_of_found {s : State} {job key : Nat} (f : Obj → Obj) (h : findJob job s.obj = some key) :
    s.modJob job f = s.modObj key f := by
  rw [State.modJob, h]

theorem jobState_of_found {s : State} {job key : Nat} (h : findJob job s.obj = some key) :
    s.jobState job = (s.objAt key).jState := by
  rw [State.jobState, State.jobRec?, h]
  rfl

/-- The end of a job is a matter of records, groups and keys. -/
theorem endJob_eq (s : State) (job : Nat) : ∃ obj fabric device, s.endJob job = { s with obj, fabric, device } := by
  rw [State.endJob]
  split
  · obtain ⟨_, hmod⟩ := modJob_eq s job fun j => j.setFld 0 28 3 5
    obtain ⟨_, _, _, hgone⟩ := jobGone_eq (s.modJob job fun j => j.setFld 0 28 3 5) job
    rw [hgone, hmod]
    exact ⟨_, _, _, rfl⟩
  · exact ⟨_, _, _, rfl⟩

/-- A cancelled job with no active record and no group has ended. -/
theorem endJob_jState {s : State} {job key : Nat} (hfind : findJob job s.obj = some key) (hstate : (s.objAt key).jState = 4)
    (hactive : (s.launches.die.any fun e => e.1 / 65536 == job) = false) (hsubs : s.fabric.subs = []) :
    ((s.endJob job).objAt key).jState = 5 := by
  have hends : s.jobState job = 4 ∧ (!(s.launches.die.any fun e => e.1 / 65536 == job)) = true := by
    rw [jobState_of_found hfind, hactive]
    exact ⟨hstate, rfl⟩
  have hobj := jobGone_obj (s := s.modObj key fun j => j.setFld 0 28 3 5) job hsubs
  rw [State.endJob, if_pos hends, modJob_of_found _ hfind, objAt_congr hobj, State.modObj, objAt_setObj, jState_setFld,
    Nat.mod_eq_of_lt (by decide)]

/-- The records of a job that are active on some die. -/
def State.jobKeys (s : State) (job : Nat) : List Nat := (s.launches.die.map Prod.fst).filter fun k => k / 65536 == job

theorem jobKeys_of_none {s : State} {job : Nat} (h : (s.launches.die.any fun e => e.1 / 65536 == job) = false) :
    s.jobKeys job = [] := by
  rw [State.jobKeys, List.filter_eq_nil_iff]
  intro k hk
  obtain ⟨e, he, rfl⟩ := List.mem_map.mp hk
  exact List.any_eq_false.mp h e he

/-- A job cancelled with the launches and graphs of it that are active (R244). -/
def State.cancelJob (s : State) (j job : Nat) (ls gs : List Nat) : State :=
  let s := s.setObjFld j 0 28 3 4
  let s := ls.foldl State.cancelLaunch (gs.foldl State.cancelGraph s)
  let s := (s.cancelCmds fun c => c.job == job).stopXfers fun x => x.job == job
  (s.cancelRuns 63 fun g => g.job == job).endJob job

/-- With no launch, graph or run of it, a job is marked, its commands and transfers end, and it ends. -/
theorem cancelJob_idle {s : State} (j job : Nat) (hgraphs : s.fabric.graphs = []) :
    ∃ engines agenda, s.cancelJob j job [] [] = State.endJob { s.setObjFld j 0 28 3 4 with engines, agenda } job := by
  obtain ⟨engines, agenda, hengines⟩ :=
    cancelled_engines_eq (s.setObjFld j 0 28 3 4) (fun c => c.job == job) fun x => x.job == job
  refine ⟨engines, agenda, ?_⟩
  rw [State.cancelJob]
  dsimp only [List.foldl_nil]
  rw [hengines]
  exact congrArg (State.endJob · job) (cancelRuns_of_no_graphs 63 _ hgraphs)

/-- To cancel such a job changes records, engines, groups and keys only. -/
theorem cancelJob_idle_eq (s : State) (j job : Nat) (hgraphs : s.fabric.graphs = []) :
    ∃ obj engines agenda fabric device, s.cancelJob j job [] [] = { s with obj, engines, agenda, fabric, device } := by
  obtain ⟨engines, agenda, hcancel⟩ := cancelJob_idle j job hgraphs
  obtain ⟨obj, fabric, device, hend⟩ := endJob_eq { s.setObjFld j 0 28 3 4 with engines, agenda } job
  rw [hcancel, hend]
  exact ⟨obj, engines, agenda, fabric, device, rfl⟩

theorem cancelJob_me (s : State) (j job : Nat) (hgraphs : s.fabric.graphs = []) : (s.cancelJob j job [] []).me = s.me := by
  obtain ⟨_, _, _, _, _, hcancel⟩ := cancelJob_idle_eq s j job hgraphs
  rw [hcancel]

theorem cancelJob_mem (s : State) (j job : Nat) (hgraphs : s.fabric.graphs = []) : (s.cancelJob j job [] []).mem = s.mem := by
  obtain ⟨_, _, _, _, _, hcancel⟩ := cancelJob_idle_eq s j job hgraphs
  rw [hcancel]

/-- The record of such a job says that it has ended. -/
theorem cancelJob_jState {s : State} {o : Obj} {key : Nat} (ho : s.objAt key = o) (hvalid : o.valid = true) (hkind : o.kind = 4)
    (hnone : (s.launches.die.any fun e => e.1 / 65536 == o.fld 0 8 16) = false) (hgraphs : s.fabric.graphs = [])
    (hsubs : s.fabric.subs = []) (hfind : findJob (o.fld 0 8 16) s.obj = some key) :
    ((s.cancelJob key (o.fld 0 8 16) [] []).objAt key).jState = 5 := by
  obtain ⟨engines, agenda, hcancel⟩ := cancelJob_idle key (o.fld 0 8 16) hgraphs
  have hjob : (o.setFld 0 28 3 4).isJob (o.fld 0 8 16) = true := by
    rw [isJob_setFld_jState, Obj.isJob, hvalid, hkind, beq_self_eq_true, beq_self_eq_true]
    rfl
  have hmarked : (s.setObjFld key 0 28 3 4).obj = SMap.put key (o.setFld 0 28 3 4) s.obj := by
    rw [← ho]
    rfl
  have hstate : ((s.setObjFld key 0 28 3 4).objAt key).jState = 4 := by
    rw [objAt_setObjFld, jState_setFld, Nat.mod_eq_of_lt (by decide)]
  have hfind' : findJob (o.fld 0 8 16) (s.setObjFld key 0 28 3 4).obj = some key := by
    rw [hmarked, findJob_put hjob hfind]
  rw [hcancel]
  exact endJob_jState hfind' hstate hnone hsubs

/-! The instruction. -/

/-- Whether a strand's own launch is one of some. -/
def Strand.inLaunches (t : Strand) (keys : List Nat) : Bool :=
  match t.launch? with
  | none => false
  | some k => keys.contains k

theorem inLaunches_nil (t : Strand) : t.inLaunches [] = false := by
  rw [Strand.inLaunches]
  split <;> rfl

theorem inLaunches_single {t : Strand} {key : Nat} (h : t.launch? ≠ some key) : t.inLaunches [key] = false := by
  rw [Strand.inLaunches]
  split
  · rfl
  next k hk =>
    rw [List.contains_cons, List.contains_nil, Bool.or_false, beq_eq_false_iff_ne]
    exact fun e => h (by rw [hk, e])

/-- CANCEL of a launch (b 0), in the state it issued in. -/
def cancelLaunchAt (d : Reg) (la : Look) (x : Word) (s : State) : M Unit := do
  let key ← ownHandle x 2 .admin
  if !s.launchActive key then wr d 1
  else do
    destOk d
    upd fun s => s.cancelLaunch key
    cancelWait d la.val (key / 65536) [key] (s.me.inLaunches [key])

/-- CANCEL of a graph (b 1). -/
def cancelGraphAt (d : Reg) (la : Look) (x : Word) (s : State) : M Unit := do
  let key ← ownHandle x 3 .admin
  if !s.graphActive key then wr d 1
  else do
    destOk d
    upd fun s => s.cancelGraph key
    cancelWait d la.val (key / 65536) (s.graphLaunches key) (s.me.inLaunches (s.graphLaunches key))

/-- CANCEL of a job (b 2). -/
def cancelJobAt (i : Instr) (d : Reg) (la : Look) (x : Word) (s : State) : M Unit := do
  need (decide (supervisor ≤ s.me.plv)) (trap 2 0 (toW i.encode))
  let j ← ownHandle x 4 .admin
  let job := (s.objAt j).fld 0 8 16
  if (s.objAt j).jState ≠ 0 then wr d 1
  else do
    destOk d
    let ls := (s.jobKeys job).filter fun k => (s.objAt k).kind == 2
    let gs := (s.jobKeys job).filter fun k => (s.objAt k).kind == 3
    upd fun s => s.cancelJob j job ls gs
    cancelWait d la.val job ls (s.me.inLaunches ls)

/-- What bits 1:0 of b select (R237). -/
def cancelAt (i : Instr) (d : Reg) (la : Look) (x y : Word) (s : State) : Nat → M Unit
  | 0 => cancelLaunchAt d la x s
  | 1 => cancelGraphAt d la x s
  | 2 => cancelJobAt i d la x s
  | _ => opFault 0 y

theorem exec_of_isCancel {i : Instr} {d a b : Reg} {g : Guard} {la : Look} (s : State) (hi : Claims.isCancel i d a b g la) :
    exec i s = cancel i d a b g la s := by
  rcases hi with rfl | rfl | rfl <;> rfl

theorem exec_cancel {i : Instr} {d a b : Reg} {g : Guard} {la : Look} {s : State} (hi : Claims.isCancel i d a b g la)
    (hcalm : s.calm) (hg : s.me.guarded g = true) (ha : a.plain = true) (hb : b.plain = true) :
    exec i s = finishLong 4 la.val [d] none s
      (cancelAt i d la (s.me.src a) (s.me.src b) (s.issue 4) ((s.me.src b).toNat % 4) (s.issue 4)) := by
  have hlevel : wbits (s.me.src b) 0 2 = (s.me.src b).toNat % 4 := wbits_zero _ 2
  rw [exec_of_isCancel s hi, cancel, long_calm _ _ _ _ _ s hcalm hg, bind_ok _ _ _ _ _ (rd2_issue 4 hcalm ha hb)]
  dsimp only
  rw [bind_ok _ _ _ _ _ rfl, hlevel]
  unfold cancelAt
  rfl

/-- The job form needs the supervisor level (R244). -/
theorem cancelJobAt_unprivileged {s : State} (i : Instr) (d : Reg) (la : Look) (x : Word) (hplv : s.me.plv = 0) :
    cancelJobAt i d la x (s.issue 4) (s.issue 4) = .error (.trap 2 0 (toW i.encode)) := by
  have hlow : decide (supervisor ≤ (s.issue 4).me.plv) = false := by
    rw [State.issue_me_plv, hplv]
    rfl
  refine bind_error _ ?_
  rw [hlow]
  rfl

theorem need_supervisor {s : State} (i : Instr) (hplv : 1 ≤ s.me.plv.toNat) :
    need (decide (supervisor ≤ (s.issue 4).me.plv)) (trap 2 0 (toW i.encode)) (s.issue 4) = .ok ((), s.issue 4) :=
  need_of_true _ _ (decide_eq_true hplv)

theorem awaiting_obj (s : State) (d : Reg) (src : Owe) (la : Nat) : (s.awaiting d src la).obj = s.obj := rfl

/-- A strand that has issued an instruction and waits in it. -/
theorem waits_awaiting {s u : State} (d : Reg) (src : Owe) (la : Nat) (hme : u.me = (s.issue 4).me) (hmem : u.mem = s.mem) :
    Claims.waits s (u.awaiting d src la) [d] src la := by
  have hpc : u.me.pc = s.me.pc + 4 := congrArg Strand.pc hme
  have hxpc : u.me.pc - 4 = s.me.pc := by rw [hpc, BitVec.add_sub_cancel]
  exact ⟨_, rfl, rfl, rfl, rfl, hpc, hxpc, hmem⟩

section
variable {d : Reg} {la : Look} {x : Word} {key : Nat} {o : Obj} {s : State} (hcalm : s.calm) (hd : d.plain = true)
include hcalm hd

/-- A result written when the handle has been checked and nothing has been done. -/
theorem wr_refused (v : Word) : wr d v ((s.cacheEntry key).issue 4) =
    .ok ((), (s.cacheEntry key).issued 4 fun u => u.result d v) := wr_issue 4 v (cacheEntry_calm key hcalm) hd

/-- A result written when the strand has changed in nothing but its issue. -/
theorem wr_of_issued_me {u : State} (hme : u.me = (s.issue 4).me) (v : Word) :
    ∃ t, wr d v u = .ok ((), t) ∧ t.me = (s.issued 4 fun x => x.result d v).me ∧ t.mem = u.mem ∧ t.obj = u.obj := by
  have hu : u.calm := by
    rw [State.calm, hme]
    exact State.calm_issue s 4 hcalm
  have hresult : (s.issue 4).me.result d v = (s.issued 4 fun x => x.result d v).me := by
    rw [issue_calm hcalm 4]
    exact result_at s.me d v _ _
  rw [wr_plain d v u hu hd, hme, hresult]
  exact ⟨_, rfl, rfl, rfl, rfl⟩

theorem cancelLaunchAt_inactive (hhandle : Claims.handle s x 2 .admin key o) (h : s.launchActive key = false) :
    cancelLaunchAt d la x (s.issue 4) (s.issue 4) = .ok ((), (s.cacheEntry key).issued 4 fun u => u.result d 1) := by
  have hidle : (!(s.issue 4).launchActive key) = true := congrArg Bool.not h
  rw [cancelLaunchAt, bind_ok _ _ _ _ _ (ownHandle_issue 4 (by decide) hhandle), if_pos hidle, wr_refused hcalm hd]

theorem cancelGraphAt_inactive (hhandle : Claims.handle s x 3 .admin key o) (h : s.graphActive key = false) :
    cancelGraphAt d la x (s.issue 4) (s.issue 4) = .ok ((), (s.cacheEntry key).issued 4 fun u => u.result d 1) := by
  have hidle : (!(s.issue 4).graphActive key) = true := congrArg Bool.not h
  rw [cancelGraphAt, bind_ok _ _ _ _ _ (ownHandle_issue 4 (by decide) hhandle), if_pos hidle, wr_refused hcalm hd]

/-- A launch with no task anywhere, cancelled: the strand waits for it. -/
theorem cancelLaunchAt_quiet (hhandle : Claims.handle s x 2 .admin key o) (hactive : s.launchActive key = true)
    (hstate : o.lState ≠ 4) (hquiet : Claims.quiet s) (hown : s.me.launch? ≠ some key) :
    cancelLaunchAt d la x (s.issue 4) (s.issue 4) = .ok ((), State.awaiting
      ((((s.cacheEntry key).issue 4).setObjFld key 0 10 3 4).countTasks key .canc (o.tcount - s.generated key)) d
      (.cancel (key / 65536) [key % 65536]) la.val) := by
  have hcalm' := State.calm_issue _ 4 (cacheEntry_calm key hcalm)
  have ⟨_, hpend, _⟩ := hcalm'
  obtain ⟨-, rfl, -⟩ := id hhandle
  have hruns : ¬ ((!(s.issue 4).launchActive key) = true) := by
    rw [Bool.not_eq_true]
    exact congrArg Bool.not hactive
  have hcancel : ((s.cacheEntry key).issue 4).cancelLaunch key = _ := cancelLaunch_quiet hactive hstate hquiet hown
  have hupd : upd (fun s => s.cancelLaunch key) ((s.cacheEntry key).issue 4) = .ok ((), _) :=
    congrArg (fun t => Except.ok ((), t)) hcancel
  have hwait : (s.issue 4).me.inLaunches [key] = false := inLaunches_single hown
  rw [cancelLaunchAt, bind_ok _ _ _ _ _ (ownHandle_issue 4 (by decide) hhandle), if_neg hruns,
    bind_ok _ _ _ _ _ (destOk_plain hcalm' hd), bind_ok _ _ _ _ _ hupd, hwait]
  exact await_one d _ _ hpend

/-- A graph with none of its launches active, cancelled: 0 at once. -/
theorem cancelGraphAt_no_launches (hhandle : Claims.handle s x 3 .admin key o) (hactive : s.graphActive key = true)
    (hnone : s.graphLaunches key = []) (h : o.gState = 4 ∨ (Claims.skipped (s.issue 4) key).graphLaunches key = []) :
    ∃ t, cancelGraphAt d la x (s.issue 4) (s.issue 4) = .ok ((), t) ∧ t.me = (s.issued 4 fun u => u.result d 0).me := by
  have hcalm' := State.calm_issue _ 4 (cacheEntry_calm key hcalm)
  obtain ⟨-, rfl, -⟩ := id hhandle
  have hruns : ¬ ((!(s.issue 4).graphActive key) = true) := by
    rw [Bool.not_eq_true]
    exact congrArg Bool.not hactive
  have hme : (((s.cacheEntry key).issue 4).cancelGraph key).me = (s.issue 4).me := cancelGraph_me h
  have hkeys : (s.issue 4).graphLaunches key = [] := hnone
  rw [cancelGraphAt, bind_ok _ _ _ _ _ (ownHandle_issue 4 (by decide) hhandle), if_neg hruns,
    bind_ok _ _ _ _ _ (destOk_plain hcalm' hd), bind_ok _ _ _ _ _ rfl, hkeys, inLaunches_nil]
  obtain ⟨t, hwr, hresult, -, -⟩ := wr_of_issued_me hcalm hd hme 0
  exact ⟨t, hwr, hresult⟩

theorem cancelJobAt_ended (i : Instr) (hplv : 1 ≤ s.me.plv.toNat) (hhandle : Claims.handle s x 4 .admin key o)
    (h : o.jState ≠ 0) :
    cancelJobAt i d la x (s.issue 4) (s.issue 4) = .ok ((), (s.cacheEntry key).issued 4 fun u => u.result d 1) := by
  obtain ⟨-, rfl, -⟩ := id hhandle
  have hended : ((s.issue 4).objAt key).jState ≠ 0 := h
  rw [cancelJobAt, bind_ok _ _ _ _ _ (need_supervisor i hplv),
    bind_ok _ _ _ _ _ (ownHandle_issue 4 (by decide) hhandle)]
  dsimp only
  rw [if_pos hended, wr_refused hcalm hd]

/-- A live job with no launch, graph or run, cancelled: 0 at once. -/
theorem cancelJobAt_idle (i : Instr) (hplv : 1 ≤ s.me.plv.toNat) (hhandle : Claims.handle s x 4 .admin key o)
    (hlive : o.jState = 0) (hnone : (s.launches.die.any fun e => e.1 / 65536 == o.fld 0 8 16) = false)
    (hgraphs : s.fabric.graphs = []) :
    ∃ t, cancelJobAt i d la x (s.issue 4) (s.issue 4) = .ok ((), t) ∧ t.me = (s.issued 4 fun u => u.result d 0).me ∧
      t.mem = s.mem ∧ t.obj = (((s.cacheEntry key).issue 4).cancelJob key (o.fld 0 8 16) [] []).obj := by
  have hcalm' := State.calm_issue _ 4 (cacheEntry_calm key hcalm)
  obtain ⟨-, rfl, -⟩ := id hhandle
  have hruns : ¬ (((s.issue 4).objAt key).jState ≠ 0) := not_not.mpr hlive
  have hkeys : (s.issue 4).jobKeys (((s.issue 4).objAt key).fld 0 8 16) = [] := jobKeys_of_none hnone
  have hme := cancelJob_me ((s.cacheEntry key).issue 4) key ((s.objAt key).fld 0 8 16) hgraphs
  have hmem := cancelJob_mem ((s.cacheEntry key).issue 4) key ((s.objAt key).fld 0 8 16) hgraphs
  rw [cancelJobAt, bind_ok _ _ _ _ _ (need_supervisor i hplv),
    bind_ok _ _ _ _ _ (ownHandle_issue 4 (by decide) hhandle)]
  dsimp only
  rw [if_neg hruns, bind_ok _ _ _ _ _ (destOk_plain hcalm' hd)]
  simp only [hkeys, List.filter_nil]
  rw [bind_ok _ _ _ _ _ rfl, inLaunches_nil]
  obtain ⟨t, hwr, hresult, hkept, hobj⟩ := wr_of_issued_me hcalm hd hme 0
  exact ⟨t, hwr, hresult, hkept.trans hmem, hobj⟩

end

end Sys2Proof.Machine
end

section
/-! SUPPORT. The state that refutes LaunchResult: the strand's die has not applied the change that made a field of a launch record,
and GRUN checks the one and starts the other (R236, R258, R264). -/

namespace Sys2Proof.Machine

/-- The EDGES of a graph whose nodes pass the checks of GRUN, as its die reads them (R236). -/
def State.graphEdges (s : State) (key : Nat) (o : Obj) : Option (List Nat) :=
  match nodesOk (key / 65536) o (List.range o.nodes) ((s.issue 4).cacheEntry key) with
  | .error _ => none
  | .ok (_, s1) =>
    match edgesOf (coreDie s.me.homeCore) (key / 65536) (o.fld 25 0 56) s1 with
    | .error _ => none
    | .ok (edges, _) => some edges

theorem checks_of_graphEdges {s : State} {key : Nat} {o : Obj} {edges : List Nat} (h : s.graphEdges key o = some edges) :
    ∃ s1 s2, nodesOk (key / 65536) o (List.range o.nodes) ((s.issue 4).cacheEntry key) = .ok ((), s1) ∧
      edgesOf (coreDie s.me.homeCore) (key / 65536) (o.fld 25 0 56) s1 = .ok (edges, s2) := by
  rw [State.graphEdges] at h
  split at h
  · cases h
  next s1 hnodes =>
    split at h
    · cases h
    next s2 hedges =>
      cases h
      exact ⟨s1, s2, hnodes, hedges⟩

/-- A handle that the checks of R264 let pass. -/
def passes (x : Except Stop (Obj × State)) (o : Obj) : Bool :=
  match x with
  | .ok p => p.1 == o
  | .error _ => false

theorem handle_of_passes {s : State} {a : Word} {kind key : Nat} {r : Right} {o : Obj}
    (hkey : key = objKey s.me.job.toNat (wbits a 0 16)) (ho : o = s.objAt key)
    (h : passes (useHandle s.me.job.toNat (wbits a 0 16) kind r a s) o = true) : Claims.handle s a kind r key o := by
  unfold passes at h
  split at h
  next p hp =>
    obtain ⟨o', t⟩ := p
    cases beq_iff_eq.mp h
    exact ⟨hkey, ho, t, hp⟩
  · cases h

/-- Launch record of the lease set 101, with the call right. -/
def formerLaunch : Obj := { img := BitVec.ofNat 2048 (2 + 101 * 2 ^ 16), acc := 40 }

/-- Graph 102 of job 0 in l0 has the one node 100. The object table has a field there; in the log of the job's field table that
field has replaced a launch record, and the replica of die 0 has not come to the entry. -/
def staleNode : State := { State.reset with
  me := { Strand.fresh 0 .ready 0 with l0 := 102 }
  obj := [(100, { img := 1, acc := 32 }), (101, { img := 11, acc := 32 }),
    (102, { img := BitVec.ofNat 2048 (3 + 2 ^ 8 + 100 * 2 ^ 64), acc := 40 })]
  tlb := [{ cl := 0, job := 0, base := 0, size := 2 ^ 16, pte := 0, w0 := 0xFFFF000000000063, pinners := [], logged := false }]
  fieldTabs := [{ job := 0, tail := 1, trim := 0, asleep := []
                  log := [{ pos := 1, key := 100, old := formerLaunch, change := .whole, call := 0 }]
                  reps := [{ die := 0, pos := 0, told := 0, incl := true, sync := none, untaken := [] }] }] }

/-- The die a launch is active on after a step. -/
def activeAfter (key : Nat) : Out → Option Nat
  | .next t => SMap.find key t.launches.die
  | _ => none

theorem staleNode_handle : Claims.handle staleNode 102 3 .call 102 (staleNode.objAt 102) :=
  handle_of_passes (by decide +kernel) rfl (by decide +kernel)

/-- The checks see the launch record that die 0 still holds. -/
theorem staleNode_edges : staleNode.graphEdges 102 (staleNode.objAt 102) = some (List.replicate 64 0) := by decide +kernel

/-- The start finds the field in the object table: the node counts as failed and no launch begins. -/
theorem staleNode_notLaunched : activeAfter 100 (exec (.grun .z .l0 0 0) staleNode) = none := by decide +kernel

end Sys2Proof.Machine
end

section
/-! PROOFS. The obligations from launch to issue (13_launch_to_issue). -/

namespace Sys2Proof.Machine

/-- Settles O32: a free slot takes the head of its core's run queue, or else of its cluster's levels; ageing and the wait set each
move the entry they find. -/
theorem slotFillResult : Obligations.SlotFillResult := by
  refine ⟨fun s rest slot hserving hslot => ⟨fun r hrun hne => ?spawned, fun hrun hpend => ?arrived⟩,
    fun s r core slot rest hserving hrun hdie hring htask hprio hroom hslot hne => ?queued,
    fun s r c rest htask hlevel hold => exec_recordAgeing_head htask hlevel hold,
    fun s r c rest hwaits hwake htime hroom => ?woken⟩
  case spawned =>
    obtain ⟨t, u, hexec, hrest, hme, hat, hpc, ho, htix, hjob, hlrec, hstatus, hplv⟩ := slotFill_spawn hserving hslot hrun hne
    exact ⟨t, u, hexec, hrest, hme, hat, hpc, ho, htix, hjob, hlrec, hstatus, hplv⟩
  case arrived => exact slotFill_strand hserving hslot hrun hpend
  case queued =>
    obtain ⟨t, u, hexec, hrest, hme, hat, hpc, ho, -, -, -, hstatus, -⟩ :=
      slotFill_task hserving hrun hdie hring htask hprio hroom hslot hne
    exact ⟨t, u, hexec, hrest, hme, hat, hpc, ho, hstatus⟩
  case woken =>
    exact ⟨_, exec_waitSetTimeWake_head hwaits hwake htime hroom, putQueue_waits _ _ _, putQueue_me _ _ _,
      joined_putQueue (s := { s with queues := { s.queues with waits := rest } }) _ hroom⟩

/-- Refutes O38, for field tables whose log says that a field has replaced a valid launch record (OTSET logs no such entry,
R266): GRUN checks a node as the strand's die sees it, but starts it from the object table. Where the two differ in kind the graph
starts and gives 0, and its node of count 0 is not launched. -/
theorem not_launchResult : ¬ Obligations.LaunchResult := by
  intro h
  obtain ⟨-, hgrun⟩ := h
  obtain ⟨s1, s2, hnodes, hedges⟩ := checks_of_graphEdges staleNode_edges
  have hsettle : ∀ v < (staleNode.objAt 102).nodes, v ∈ settleNodes (List.replicate 64 0) (staleNode.objAt 102).nodes
      ((List.range (staleNode.objAt 102).nodes).map (staleNode.objAt 102).nodeCount) (staleNode.objAt 102).nodes [] := by
    decide +kernel
  have hidle : ∀ v < (staleNode.objAt 102).nodes,
      ((staleNode.objAt (Claims.node staleNode 102 (staleNode.objAt 102) v)).lState = 0 ∨
        (staleNode.objAt (Claims.node staleNode 102 (staleNode.objAt 102) v)).lState = 5) ∧
      ((staleNode.objAt 102).nodeCount v = 0 →
        (staleNode.objAt (Claims.node staleNode 102 (staleNode.objAt 102) v)).noCluster = false) := by
    decide +kernel
  obtain ⟨-, -, hstart⟩ := hgrun .z .l0 0 0 102 _ _ staleNode s1 s2 ⟨rfl, rfl, rfl⟩ rfl rfl rfl rfl staleNode_handle hnodes
    hedges hsettle
  obtain ⟨t, hexec, -, -, -, -, -, hlaunched⟩ := hstart (by decide +kernel) (by decide +kernel) (by decide +kernel)
    (by decide +kernel) hidle (by decide +kernel) (by decide +kernel)
  have hnode : Claims.node staleNode 102 (staleNode.objAt 102) 0 = 100 := by decide +kernel
  have hactive := hlaunched 0 (by decide +kernel) (by decide +kernel)
  rw [hnode] at hactive
  have hnone := staleNode_notLaunched
  rw [hexec, activeAfter, hactive] at hnone
  cases hnone

/-- Settles O39: what is not active gives 1; a launch, graph or job with nothing of it under way is cancelled by its record, a
launch then being waited for. -/
theorem cancelResult : Obligations.CancelResult := by
  intro i d a b g la key o s hi hcalm hg hd ha hb
  have hexec := exec_cancel hi hcalm hg ha hb
  refine ⟨fun hlevel hhandle => ⟨fun hidle => ?launchIdle, fun hactive hstate hquiet hown => ?launch⟩,
    fun hlevel hhandle => ⟨fun hidle => ?graphIdle, fun hactive hnone h => ?graph⟩,
    fun hlevel => ⟨fun hplv => ?unprivileged, fun hplv hhandle => ⟨fun hended => ?ended, fun hlive hnone hgraphs => ?job⟩⟩⟩ <;>
    rw [hlevel, cancelAt] at hexec
  case launchIdle => rw [hexec, cancelLaunchAt_inactive hcalm hd hhandle hidle, finishLong]
  case launch =>
    obtain ⟨-, ho, -⟩ := id hhandle
    have hcounted := objAt_countTasks (((s.cacheEntry key).issue 4).setObjFld key 0 10 3 4) key .canc (o.tcount - s.generated key)
    have hmarked : (((s.cacheEntry key).issue 4).setObjFld key 0 10 3 4).objAt key = o.setFld 0 10 3 4 := by
      rw [objAt_setObjFld, ho]
      rfl
    rw [hmarked] at hcounted
    rw [cancelLaunchAt_quiet hcalm hd hhandle hactive hstate hquiet hown, finishLong] at hexec
    refine ⟨_, hexec, waits_awaiting d _ _ ?_ ?_, (congrFun (objAt_congr (awaiting_obj _ _ _ _)) key).trans hcounted⟩
    · rw [countTasks_me, State.setObjFld_me]
      rfl
    · rw [countTasks_mem, State.setObjFld_mem]
      rfl
  case graphIdle => rw [hexec, cancelGraphAt_inactive hcalm hd hhandle hidle, finishLong]
  case graph =>
    obtain ⟨t, ht, hresult⟩ := cancelGraphAt_no_launches (la := la) hcalm hd hhandle hactive hnone h
    rw [ht, finishLong] at hexec
    exact ⟨t, hexec, hresult⟩
  case unprivileged => rw [hexec, cancelJobAt_unprivileged i d la _ hplv]
  case ended => rw [hexec, cancelJobAt_ended hcalm hd i hplv hhandle hended, finishLong]
  case job =>
    obtain ⟨hvalid, hkind⟩ := valid_of_handle hhandle
    obtain ⟨-, ho, -⟩ := id hhandle
    obtain ⟨t, ht, hresult, hmem, hobj⟩ := cancelJobAt_idle (la := la) hcalm hd i hplv hhandle hlive hnone hgraphs
    rw [ht, finishLong] at hexec
    refine ⟨t, hexec, hresult, hmem, fun hsubs hfind => ?_⟩
    rw [objAt_congr hobj]
    exact cancelJob_jState (s := (s.cacheEntry key).issue 4) ho.symm hvalid hkind hnone hgraphs hsubs hfind

end Sys2Proof.Machine
end

section
/-! SUPPORT. Traps (R357 to R362): what taking one leaves of a strand at home, the end of a task whose trap is unhandled, and the
hardware messages about both. -/

namespace Sys2Proof.Machine

/-! Hardware messages (R405). -/

theorem gafferSid_ne_nobody (cl : Nat) : gafferSid cl ≠ 0xFFFFFFFF := by
  rw [gafferSid]
  omega

theorem sysSid_ne_nobody (die : Nat) : sysSid die ≠ 0xFFFFFFFF := by
  rw [sysSid]
  omega

/-- A hardware message to a slot of this device joins the last place of what the units hold. -/
theorem hwSend_eq {dst : Nat} (h : dst ≠ 0xFFFFFFFF) (s : State) (kind job : Nat) (o1 o2 o3 o4 : Word) :
    s.hwSend dst kind job o1 o2 o3 o4 =
      State.due { s with queues := { s.queues with hw := s.queues.hw ++ [HwMsg.mk dst (hwMsg kind job o1 o2 o3 o4)] } }
        .hardwareMessageDelivery := if_neg h

theorem hwSend_obj (s : State) (dst kind job : Nat) (o1 o2 o3 o4 : Word) : (s.hwSend dst kind job o1 o2 o3 o4).obj = s.obj := by
  rw [State.hwSend]
  split <;> rfl

/-! A trap taken (R358). -/

/-- The strand after a trap that its handler takes. -/
def Strand.trapped (t : Strand) (cls detail : Nat) (tval : Word) (xpc : BitVec 48) : Strand :=
  { t with
    tcause := BitVec.ofNat 16 (cls + detail * 1024), tval, xpc, xplv := t.plv
    pc := t.tvec &&& 0xFFFFFFFFFFFE#48, t := t.t.map fun x => x.map Stream.forget
    spanErr := if cls = 8 ∧ detail = 1 then none else t.spanErr }

/-- A strand with nothing open that has a handler takes a trap in one move. -/
theorem takeTrap_handled {s : State} {at_ : BitVec 48} (hhandled : unhandled s.me.tvec at_ = false) (hskip : s.me.skip = none)
    (hpend : s.me.pend = []) (cls detail : Nat) (tval : Word) (xpc : BitVec 48) :
    s.takeTrap s.me.tvec s.me.plv cls 0 detail tval xpc at_ = { s with me := s.me.trapped cls detail tval xpc } := by
  rcases takeTrap_cases s s.me.tvec s.me.plv cls 0 detail tval xpc at_ with ⟨-, h⟩ | ⟨hnot, -⟩
  · rw [h]
    simp [Strand.trapped, causeWord, even48, hskip, hpend]
  · rw [hhandled] at hnot
    cases hnot

/-- A calm strand takes its trap at once. -/
theorem raise_calm {s : State} (hcalm : s.calm) (cls detail : Nat) (tval : Word) :
    s.raise cls detail tval = s.takeTrap s.me.tvec s.me.plv cls 0 detail tval s.me.pc s.me.pc := by
  obtain ⟨-, hpend, -⟩ := id hcalm
  simp [State.raise, hpend, hcalm.notAbroad]

/-! An unhandled trap of a task (R359, R220). -/

/-- A strand marked to end that owes and awaits nothing. -/
def State.doomed (s : State) (d : Doom) : State :=
  (({ s with me := { s.me with doom := some d, pend := [] } }).unwait s.me.sid.toNat).withdrawBar s.me.sid.toNat

/-- A ready strand at home whose stores are performed ends as soon as it is marked. -/
theorem condemn_ready {s : State} (d : Doom) (hstatus : s.me.status = .ready) (hstores : s.me.stores = [])
    (hacked : s.unacked = false) (hhome : s.me.core = s.me.homeCore) (hkind : d.kind ≠ 0) :
    s.condemn d = ((s.doomed d).endTask d.how).hwSend (gafferSid (clusterOf s.me.homeCore)) d.kind s.me.job.toNat
      d.o[0] d.o[1] d.o[2] d.o[3] := by
  have hdone : (s.doomed d).storesDone = true := by
    rw [State.storesDone]
    exact Bool.and_eq_true_iff.2 ⟨by rw [show (s.doomed d).me.stores = [] from hstores]; rfl,
      by rw [show (s.doomed d).unacked = false from hacked]; rfl⟩
  have habroad : (s.doomed d).me.abroad = false := bne_eq_false_iff_eq.2 hhome
  change (s.doomed d).endDoomed = _
  rw [State.endDoomed, show (s.doomed d).me.doom = some d from rfl]
  dsimp only
  rw [show (s.doomed d).me.status = .ready from hstatus]
  simp only [hdone, habroad, Bool.not_true, Bool.false_eq_true, if_false, if_neg hkind]
  rfl

/-- The ending of a task whose trap is unhandled (R359). -/
def Strand.failing (t : Strand) (cause : BitVec 16) (tval : Word) (xpc : BitVec 48) : Doom where
  how := .fail
  kind := 0x18
  o := #v[cause.setWidth 64, tval, xpc.setWidth 64, t.sid.setWidth 64]

theorem unhandledTrap_task (s : State) (cause : BitVec 16) (tval : Word) (xpc : BitVec 48) :
    s.unhandledTrap 0 cause tval xpc = s.condemn (s.me.failing cause tval xpc) := by
  rw [State.unhandledTrap]
  exact if_pos rfl

/-- The record of a task's launch after the task has ended. -/
theorem endTask_objAt {s : State} {key : Nat} (hlaunch : s.me.launch? = some key) (how : Ending) :
    (s.endTask how).objAt key = (s.objAt key).setFld how.word 0 40 ((s.objAt key).fld how.word 0 40 + 1) := by
  obtain ⟨mem, queues, barriers, agenda, h, -⟩ := endTask_eq s how
  have hobj : (s.endTask how).obj = (s.launchCounted how).obj := by rw [h]
  rw [objAt_congr hobj, State.launchCounted, hlaunch]
  exact objAt_countTasks s key how 1

theorem endTask_me (s : State) (how : Ending) : (s.endTask how).me = Strand.fresh s.me.sid .idle 0 := by
  obtain ⟨mem, queues, barriers, agenda, h, -⟩ := endTask_eq s how
  rw [h]

/-- What is left of a ready strand at home, its stores performed, once it has been marked to end: an idle slot, its task counted,
and a message to its gaffer. -/
theorem condemn_ready_leaves {s : State} (d : Doom) (hstatus : s.me.status = .ready) (hstores : s.me.stores = [])
    (hacked : s.unacked = false) (hhome : s.me.core = s.me.homeCore) (hkind : d.kind ≠ 0) :
    (s.condemn d).me = Strand.fresh s.me.sid .idle 0 ∧
    (∀ key, s.me.launch? = some key →
      (s.condemn d).objAt key = (s.objAt key).setFld d.how.word 0 40 ((s.objAt key).fld d.how.word 0 40 + 1)) ∧
    (s.condemn d).queues.hw.getLast? = some (HwMsg.mk (gafferSid (clusterOf s.me.homeCore))
      (hwMsg d.kind s.me.job.toNat d.o[0] d.o[1] d.o[2] d.o[3])) := by
  rw [condemn_ready d hstatus hstores hacked hhome hkind]
  refine ⟨(hwSend_me _ _ _ _ _ _ _ _).trans (endTask_me _ _), fun key hlaunch => ?_, ?_⟩
  · have hmarked : (s.doomed d).objAt key = s.objAt key := congrFun (objAt_congr rfl) key
    rw [congrFun (objAt_congr (hwSend_obj _ _ _ _ _ _ _ _)) key, endTask_objAt (s := s.doomed d) hlaunch, hmarked]
  · rw [hwSend_eq (gafferSid_ne_nobody _), State.due_queues, List.getLast?_concat]

/-! TRAP, RTE and IDLE (R360 to R362). -/

/-- A calm strand runs the body of an instruction without a guard on the state in which it has issued. -/
theorem short_unguarded {s : State} (hcalm : s.calm) (n : Nat) (body : M Unit) :
    short n 0 body s = finish s (body (s.issued n id)) := by
  rw [short_calm n 0 body s hcalm (guarded_zero s.me), issue_calm hcalm]

theorem atHome_issued {s : State} (hcalm : s.calm) (n : Nat) : atHome (s.issued n id) = .ok ((), s.issued n id) := by
  rw [← issue_calm hcalm]
  exact atHome_calm _ (State.calm_issue s n hcalm)

theorem here_issued (s : State) (f : Strand → Strand) : here 4 (s.issued 4 f) = .ok (s.me.pc, s.issued 4 f) :=
  congrArg (fun pc => Except.ok (pc, s.issued 4 f)) (BitVec.add_sub_cancel _ _)

theorem exec_trap_handled {s : State} (hcalm : s.calm) (hhandled : unhandled s.me.tvec s.me.pc = false) (hskip : s.me.skip = none)
    (code : BitVec 9) : exec (.trap code) s =
      .next { s with me := (s.issued 4 id).me.trapped 11 0 (code.setWidth 64) (s.me.pc + 4) } := by
  obtain ⟨-, hpend, -⟩ := id hcalm
  have hnoFault : (s.issued 4 id).me.pend.any Pending.isFault = false := by
    rw [show (s.issued 4 id).me.pend = [] from hpend]
    rfl
  have hengines : (!(s.issued 4 id).me.pend.all Pending.isEngine) = false := by
    rw [show (s.issued 4 id).me.pend = [] from hpend]
    rfl
  rw [exec, execTrap, short_unguarded hcalm, bind_ok _ _ _ _ _ (atHome_issued hcalm 4), bind_ok _ _ _ _ _ rfl]
  simp only [hnoFault, hengines, Bool.false_eq_true, if_false]
  rw [bind_ok _ _ _ _ _ (here_issued s id)]
  exact congrArg Host.Outcome.next (takeTrap_handled (s := s.issued 4 id) hhandled hskip hpend 11 0 (code.setWidth 64) _)

theorem exec_rte_even {s : State} (hcalm : s.calm) (heven : s.me.xpc.getLsbD 0 = false) :
    exec .rte s = .next (Claims.jumped s s.me.xpc fun t => { t with plv := minLevel t.xplv t.plv }) := by
  rw [exec, execRte, short_unguarded hcalm, bind_ok _ _ _ _ _ (atHome_issued hcalm 4), bind_ok _ _ _ _ _ rfl,
    show (s.issued 4 id).me.xpc.getLsbD 0 = false from heven]
  rfl

theorem exec_rte_odd {s : State} (hcalm : s.calm) (hodd : s.me.xpc.getLsbD 0 = true) :
    exec .rte s = .next (s.raise 4 0 (s.me.xpc.setWidth 64)) := by
  rw [exec, execRte, short_unguarded hcalm, bind_ok _ _ _ _ _ (atHome_issued hcalm 4), bind_ok _ _ _ _ _ rfl,
    show (s.issued 4 id).me.xpc.getLsbD 0 = true from hodd]
  rfl

/-- What IDLE does once it has issued. -/
def idleBody (s : State) : M Unit :=
  if !s.me.q.isEmpty then pure ()
  else
    match s.me.armed with
    | none => stop .rest
    | some t => if t.toNat ≤ s.clk.toNat then updMe fun t => { t with armed := none } else stop .rest

theorem exec_idle_eq {s : State} (hcalm : s.calm) : exec .idle s = finish s (idleBody s (s.issued 4 id)) := by
  rw [exec, execIdle, short_unguarded hcalm, bind_ok _ _ _ _ _ (atHome_issued hcalm 4), bind_ok _ _ _ _ _ rfl]
  rfl

theorem exec_idle_queued {s : State} (hcalm : s.calm) (hq : s.me.q ≠ []) : exec .idle s = .next (s.issued 4 id) := by
  rw [exec_idle_eq hcalm, idleBody, if_pos (by simpa using hq)]
  rfl

theorem exec_idle_late {s : State} (hcalm : s.calm) {t : Word} (hq : s.me.q = []) (harmed : s.me.armed = some t)
    (hlate : t.toNat ≤ s.clk.toNat) : exec .idle s = .next (s.issued 4 fun u => { u with armed := none }) := by
  rw [exec_idle_eq hcalm, idleBody, if_neg (by simp [hq]), harmed]
  dsimp only
  rw [if_pos hlate]
  rfl

theorem exec_idle_rests {s : State} (hcalm : s.calm) (hq : s.me.q = []) (hearly : ∀ t, s.me.armed = some t → s.clk.toNat < t.toNat) :
    exec .idle s = .next s := by
  rw [exec_idle_eq hcalm, idleBody, if_neg (by simp [hq])]
  cases harmed : s.me.armed with
  | none => rfl
  | some t =>
    dsimp only
    rw [if_neg (Nat.not_le_of_lt (hearly t harmed))]
    rfl

/-! TRAP_ENTRY (R357, R358) and the watchdog (R363). -/

theorem isFault_of_src {p : Pending} {cls detail : Nat} {tval : Word} (h : p.src = .fault cls detail tval) : p.isFault = true := by
  rw [Pending.isFault, h]

theorem dueFault_single {p : Pending} (h : p.isFault = true) : dueFault [p] = some p := if_pos h

/-- The one instruction open has failed: the strand takes its trap, or starts for home. -/
theorem takeOwed_single {s : State} {p : Pending} {cls detail : Nat} {tval : Word} (hpend : s.me.pend = [p])
    (hsrc : p.src = .fault cls detail tval) (hown : p.own = 0) :
    s.takeOwed = if s.me.abroad then s.goHome
      else ({ s with me := { s.me with pend := [] } } : State).takeTrap p.tvec p.plv cls p.win detail tval p.xpc p.xpc := by
  have hfault := isFault_of_src hsrc
  have hleft : s.me.pend.filter (fun q => !q.isFault) = [] := by simp [hpend, hfault]
  have hshift : unshift p s.me = s.me := if_pos hown
  rw [State.takeOwed, hpend, dueFault_single hfault]
  dsimp only
  rw [hsrc]
  dsimp only
  rw [hshift, hleft]

theorem goHome_fault {s : State} {p : Pending} (hpend : s.me.pend = [p]) (hfault : p.isFault = true) :
    s.goHome = ({ s with me := { s.me with pend := [{ p with left := 0 }] } } : State).depart s.me.homeCore 5 := by
  have hfree : s.me.free = true := by simp [Strand.free, hpend, hfault]
  rw [State.goHome, if_pos hfree, hpend, List.map_singleton, if_pos hfault]

theorem depart_me (s : State) (core reason : Nat) :
    (s.depart core reason).me = { s.me with status := .transit core reason } := by
  rw [State.depart]
  split <;> rfl

theorem depart_mem (s : State) (core reason : Nat) : (s.depart core reason).mem = s.mem := by
  rw [State.depart]
  split <;> rfl

theorem supervisorOf_ne_nobody (k : Nat) : supervisorOf k ≠ 0xFFFFFFFF := by
  rw [supervisorOf]
  split
  · exact sysSid_ne_nobody _
  · exact gafferSid_ne_nobody _

theorem exec_watchdogExpiry (s : State) : exec .watchdogExpiry s =
    .next (State.due { s with
      me := { s.me with lastIssue := s.clk }
      queues := { s.queues with hw := s.queues.hw ++ [HwMsg.mk (supervisorOf s.me.core)
        (hwMsg 0x19 s.me.job.toNat (s.me.sid.setWidth 64) (s.me.pc.setWidth 64) 0 0)] } } .hardwareMessageDelivery) := by
  rw [exec, execWatchdogExpiry]
  dsimp only
  rw [hwSend_eq (supervisorOf_ne_nobody _)]

end Sys2Proof.Machine
end

section
/-! PROOFS. Traps and preemption (21_traps_and_preemption). -/

namespace Sys2Proof.Machine

/-- Settles O6: a calm strand takes its trap in one move; without a handler its task, whose stores are performed, ends at once. -/
theorem trapEntryState : Obligations.TrapEntryState := by
  refine ⟨fun s cls detail tval hcalm hhandled hskip => ?_, fun s cls detail tval hcalm hnone hskip hplv hready hstores hacked => ?_⟩
  · obtain ⟨-, hpend, -⟩ := id hcalm
    rw [raise_calm hcalm, takeTrap_handled hhandled hskip hpend]
    rfl
  · obtain ⟨-, -, hhome⟩ := id hcalm
    have htrap : s.raise cls detail tval = s.condemn (s.me.failing (causeWord cls 0 detail) tval s.me.pc) := by
      rcases takeTrap_cases s s.me.tvec s.me.plv cls 0 detail tval s.me.pc s.me.pc with ⟨hsome, -⟩ | ⟨-, h⟩
      · rw [hnone] at hsome
        cases hsome
      · have hme : { s.me with skip := none } = s.me := by rw [← hskip]
        rw [raise_calm hcalm, h, hplv, unhandledTrap_task, hme, hskip]
        rfl
    rw [htrap]
    obtain ⟨hme, hcounted, hlast⟩ := condemn_ready_leaves (s.me.failing (causeWord cls 0 detail) tval s.me.pc)
      hready hstores hacked hhome (Nat.succ_ne_zero _)
    refine ⟨hme, hcounted, ?_⟩
    rw [hlast]
    rfl

/-- Settles O7: TRAP is one trap taken, RTE one jump or one fault, and IDLE ends by its queue or by its deadline. -/
theorem trapReturnAndIdle : Obligations.TrapReturnAndIdle := by
  refine ⟨fun code s hcalm hhandled hskip => ?trap, fun s hcalm => ⟨exec_rte_even hcalm, exec_rte_odd hcalm⟩,
    fun s hcalm => ⟨exec_idle_queued hcalm, fun t => exec_idle_late hcalm, exec_idle_rests hcalm⟩, fun code => ?word⟩
  case trap =>
    rw [exec_trap_handled hcalm hhandled hskip]
    rfl
  case word =>
    simp [Instr.encode, Instr.raw, Dec.wordOf]
    omega

/-- Settles O55: the one fault owed is the due one, which a strand at home takes and one abroad carries home. -/
theorem owedTrapAndWatchdog : Obligations.OwedTrapAndWatchdog := by
  refine ⟨fun s p cls detail tval hpend hsrc hown => ⟨fun hhome hskip hhandled => ?taken, fun haway => ?home⟩,
    fun s => ⟨_, exec_watchdogExpiry s, rfl, rfl, ?watchdog⟩⟩
  case taken =>
    have hnear : s.me.abroad = false := bne_eq_false_iff_eq.2 hhome
    rw [exec, execTrapEntry, takeOwed_single hpend hsrc hown, hnear, if_neg Bool.false_ne_true]
    rcases takeTrap_cases ({ s with me := { s.me with pend := [] } } : State) p.tvec p.plv cls p.win detail tval p.xpc p.xpc with
      ⟨-, h⟩ | ⟨hnone, -⟩
    · rw [h]
      simp [hskip, even48]
    · rw [hhandled] at hnone
      cases hnone
  case home =>
    have hfar : s.me.abroad = true := bne_iff_ne.2 haway
    have hgo : s.takeOwed = _ := (takeOwed_single hpend hsrc hown).trans (if_pos hfar)
    rw [goHome_fault hpend (isFault_of_src hsrc)] at hgo
    exact ⟨_, congrArg Host.Outcome.next hgo, by rw [depart_me], by rw [depart_me], depart_mem _ _ _⟩
  case watchdog =>
    rw [State.due_queues, List.getLast?_concat]
    rfl

end Sys2Proof.Machine
end

section
/-! SUPPORT. Counter words of this device (R318, R323 to R325): the checks, SIG and CNTSET. -/

namespace Sys2Proof.Machine

theorem lineAddr_readOnly {a : Word} {o : Int} {e : Addr} {s u : State} (h : lineAddr a o s = .ok (e, u)) : u = s := by
  unfold lineAddr at h
  split at h
  · cases h
    rfl
  · unfold virt at h
    split at h
    · cases h
      rfl
    · exact absurd h vfault_ne_ok

/-- The checks of a counter word find 8 bytes and change the translation caches alone. -/
theorem counterHits_checked {right : Nat} {a : Word} {e : Addr} {hs : List Hit} {s u : State}
    (h : counterHits right a s = .ok ((e, hs), u)) : s.readOnly u ∧ hs.length = 8 := by
  obtain ⟨e', u', haddr, hrest⟩ := run_bind_eq_ok h
  obtain rfl := lineAddr_readOnly haddr
  dsimp only at hrest
  split at hrest
  · obtain ⟨hs', v, hcheck, hlast⟩ := run_bind_eq_ok hrest
    split at hlast
    · cases hlast
      exact ⟨checkFrom_readOnly hcheck, check_length hcheck⟩
    · cases hlast
  · cases hrest

theorem wordAt_checked {right : Nat} {a : Word} {s u : State} {hs : List Hit} (h : Claims.wordAt right a s u hs) :
    ∃ e, counterHits right a s = .ok ((e, hs), u) ∧ s.readOnly u ∧ hs.length = 8 ∧ Claims.here s hs := by
  obtain ⟨⟨e, hcheck⟩, hhere⟩ := h
  obtain ⟨hread, hlength⟩ := counterHits_checked hcheck
  exact ⟨e, hcheck, hread, hlength, hhere⟩

theorem not_elsewhere_of_here {s : State} {hs : List Hit} (h : Claims.here s hs) : hs.any Hit.elsewhere = false := by
  refine List.any_eq_false.mpr fun x hx => ?_
  obtain ⟨k, hk⟩ := Hit.isCell_iff.mp (isCell_of_here h hx)
  simp [Hit.elsewhere, hk]

/-- The page is logged where it is no local store, and the bytes are written (R126, R289). -/
theorem writeLogged {s : State} {hs : List Hit} (k va : Nat) (tval : Word) (bs : List Byte) (hwf : s.mem.wf = true)
    (h : s.storable hs) (hroom : Claims.logRoom s 2) :
    ∃ t, (if isLs k then writeCells tval ((Claims.cells s hs).zip bs)
        else logWrite va >>= fun _ => writeCells tval ((Claims.cells s hs).zip bs)) s = .ok ((), t) ∧
      s.framed t ∧ Claims.wrote s t.mem ((Claims.cells s hs).zip bs) := by
  by_cases hlocal : isLs k = true
  · rw [if_pos hlocal, writeCells_storable tval bs h]
    exact ⟨_, rfl, ⟨_, _, _, _, _, rfl⟩, fun _ _ => rfl⟩
  · obtain ⟨u, hlog, hu, huwf, -, hlogged⟩ := writes_logWrite s va s 1 (.refl s) hwf hroom
    have hwrite := writeCells_storable tval bs (hu.storable h)
    rw [hu.cells] at hwrite
    rw [if_neg hlocal, bind_ok _ _ _ _ _ hlog, hwrite]
    exact ⟨_, rfl, hu.trans ⟨_, _, _, _, _, rfl⟩, wrote_of_logOnly _ hwf huwf hlogged⟩

/-- What a counter write finds in the word before it: SIG reads it, CNTSET does not. -/
def counterOld (kind : Nat) (s : State) (hs : List Hit) : Word := if kind = 2 then Claims.wordVal s hs else 0

/-- A write of a counter word of this device (R323, R325). -/
theorem counterWrite_here {s : State} {hs : List Hit} (kind : Nat) (f : Word → Word) (v a : Word) (e : Addr) (la : Nat)
    (hne : hs ≠ []) (hwf : s.mem.wf = true) (h : s.storable hs) (hclear : Claims.clear s hs) (hroom : Claims.logRoom s 2) :
    ∃ t, counterWrite kind f v a e hs la s = .ok ((), t) ∧ s.framed t ∧
      Claims.wrote s t.mem ((Claims.cells s hs).zip (leBytes 8 (f (counterOld kind s hs)).toNat)) := by
  obtain ⟨⟨loc, w0⟩, r, rfl⟩ := List.exists_cons_of_ne_nil hne
  obtain ⟨k, rfl⟩ : ∃ k, loc = .cell k := Hit.isCell_iff.mp (isCell_of_here h.here List.mem_cons_self)
  rw [counterWrite, bind_ok _ _ _ _ _ (soFree_of_clear hclear), bind_ok _ _ _ _ _ rfl]
  dsimp only
  by_cases hkind : kind = 2
  · have hcounted := counted_readOnly s (⟨.cell k, w0⟩ :: r)
    obtain ⟨t, hwrite, ht, hwrote⟩ := writeLogged (s := s.counted (⟨.cell k, w0⟩ :: r)) k e.val a
      (leBytes 8 (f (Claims.wordVal s (⟨.cell k, w0⟩ :: r))).toNat) (hcounted.mem ▸ hwf) (hcounted.framed.storable h)
      (hcounted.logRoom hroom)
    rw [hcounted.framed.cells] at hwrite hwrote
    rw [if_pos hkind, bind_ok _ _ _ _ _ (readHits_here a h.here), counterOld, if_pos hkind]
    refine ⟨t, hwrite, hcounted.framed.trans ht, fun j hj => ?_⟩
    rw [hwrote j ((hcounted.framed.inLog j).not.mpr hj), hcounted.mem]
  · rw [if_neg hkind, bind_ok _ _ _ _ _ rfl, counterOld, if_neg hkind]
    exact writeLogged k e.val a _ hwf h hroom

theorem unacked_of_framed {s t : State} (h : s.framed t) : t.unacked = s.unacked := by
  obtain ⟨_, _, _, _, _, rfl⟩ := h
  rfl

/-- The release of SIG toward a word of this device, once what it waits for is performed (R338). -/
theorem sigRelease_here {sc : Scope} {s : State} (hpend : s.me.pend = []) (hstores : sc = .strand ∨ s.me.stores = [])
    (hspan : sc = .span → s.unacked = false ∧ s.me.spanErr = none) : sigRelease sc false s = .ok ((), s) := by
  unfold sigRelease
  rw [if_neg Bool.false_ne_true]
  cases sc with
  | strand => exact loadsDone_of_pend_nil hpend
  | span =>
    obtain ⟨hacked, hnone⟩ := hspan rfl
    dsimp only
    rw [releasedSpan_acked hpend (hstores.resolve_left nofun) hacked, hnone]
  | _ => exact released_empty s (hstores.resolve_left nofun) hpend

/-! One test of a word (R320, R322). -/

section
variable {s u : State} {e : Addr} {hs : List Hit} {a : Word} (hhits : counterHits rR a s = .ok ((e, hs), u))
  (hread : s.readOnly u) (hhere : Claims.here s hs)
include hhits hread hhere

/-- A word of this device is read as the strand sees it. -/
theorem testWord_here (f : Word → Bool) : testWord f a s = .ok ((f (Claims.wordVal s hs), Claims.wordVal s hs), u.counted hs) := by
  have hval : Claims.wordVal s hs = toW (leNat ((Claims.cells u hs).map u.see)) := by
    rw [Claims.wordVal, hread.framed.cells, hread.see]
  rw [testWord, bind_ok _ _ _ _ _ hhits]
  dsimp only
  rw [bind_ok _ _ _ _ _ (readHits_here a (hread.framed.here hhere)), ← hval, not_elsewhere_of_here hhere, Bool.and_false,
    if_neg Bool.false_ne_true]
  rfl

theorem promised_met {b : Word} (hmet : Claims.wordVal s hs &&& b = b) : promised a b s = .ok ((), u.counted hs) := by
  have hholds : holds true b (Claims.wordVal s hs) = true := beq_iff_eq.mpr hmet
  rw [Machine.promised, bind_ok _ _ _ _ _ (testWord_here hhits hread hhere _), hholds]
  rfl

theorem promised_missed {b : Word} (hmissed : Claims.wordVal s hs &&& b ≠ b) :
    promised a b s = .error (.trap 9 0 (b &&& ~~~(Claims.wordVal s hs))) := by
  have hholds : holds true b (Claims.wordVal s hs) = false := beq_eq_false_iff_ne.mpr hmissed
  rw [Machine.promised, bind_ok _ _ _ _ _ (testWord_here hhits hread hhere _), hholds]
  rfl

end

/-! WAITC and WAITB (R320, R321). -/

/-- With nothing else open the armed deadline bounds the wait. -/
theorem deadline_eq_armed {t : Strand} (hpend : t.pend = []) : t.deadline = t.armed := by
  rw [Strand.deadline, hpend]
  cases t.armed <;> rfl

theorem disarm_armed (t : Strand) : t.disarm t.armed = { t with armed := none } := by
  obtain ⟨⟩ := t
  rename_i armed _ _ _ _ _ _ _ _ _
  cases armed <;> simp [Strand.disarm]

/-- What WAITC or WAITB does once its word has been tested. -/
def waitTail (d : Reg) (x y : Word) (mask met : Bool) (la : Nat) : M Unit := do
  let s ← get
  if met then do
    updMe fun t => t.disarm s.me.deadline
    wr d 0
  else if s.passed s.me.deadline then do
    updMe fun t => t.disarm s.me.deadline
    wr d 1
  else do
    destOk d
    await [d] (.word x y mask s.me.deadline) la

theorem tested_readOnly {x : Word} {s s1 : State} {hs : List Hit} (hword : Claims.wordAt rR x s s1 hs) :
    s.readOnly (s1.counted hs) := by
  obtain ⟨-, -, hread, -, -⟩ := wordAt_checked hword
  exact hread.trans (counted_readOnly s1 hs)

theorem tested_passed {x : Word} {s s1 : State} {hs : List Hit} (hword : Claims.wordAt rR x (s.issue 4) s1 hs) (dl : Option Word) : (s1.counted hs).passed dl = s.passed dl := by
  obtain ⟨⟨_, _, _, _, _, h⟩, -⟩ := tested_readOnly hword
  rw [h]
  rfl

section
variable {d a b : Reg} {s s1 : State} {hs : List Hit} (hcalm : s.calm) (hword : Claims.wordAt rR (s.me.src a) (s.issue 4) s1 hs)
include hcalm hword

theorem waitWord_here (ha : a.plain = true) (hb : b.plain = true) (mask : Bool) (d : Reg) (la : Nat) : waitWord mask d a b la (s.issue 4) =
    waitTail d (s.me.src a) (s.me.src b) mask (holds mask (s.me.src b) (Claims.wordVal s hs)) la (s1.counted hs) := by
  obtain ⟨e, hhits, hread, -, hhere⟩ := wordAt_checked hword
  rw [waitWord, bind_ok _ _ _ _ _ (atHome_calm _ (State.calm_issue s 4 hcalm)), bind_ok _ _ _ _ _ (rd2_issue 4 hcalm ha hb)]
  dsimp only
  rw [bind_ok _ _ _ _ _ (testWord_here hhits hread hhere _)]
  rfl

/-- The wait is over at issue: its deadline is disarmed, and its register written. -/
theorem waitTail_ends (hd : d.plain = true) (v : Word) :
    ∃ t, (updMe (fun t => t.disarm (s1.counted hs).me.deadline) >>= fun _ => wr d v) (s1.counted hs) = .ok ((), t) ∧
      Claims.accessed s t s.mem (fun u => ({ u with armed := none } : Strand).result d v) 4 := by
  have hread := tested_readOnly hword
  have hcalm' : (s1.counted hs).calm := hread.framed.calm (State.calm_issue s 4 hcalm)
  obtain ⟨-, hpend, -⟩ := id hcalm'
  have hdisarm : (s1.counted hs).me.disarm (s1.counted hs).me.deadline = { (s1.counted hs).me with armed := none } := by
    rw [deadline_eq_armed hpend, disarm_armed]
  have hupd : updMe (fun t => t.disarm (s1.counted hs).me.deadline) (s1.counted hs) =
      .ok ((), { s1.counted hs with me := { (s1.counted hs).me with armed := none } }) := by
    rw [updMe, hdisarm]
  have hcalm'' : State.calm { s1.counted hs with me := { (s1.counted hs).me with armed := none } } := hcalm'
  rw [bind_ok _ _ _ _ _ hupd, wr_plain d v _ hcalm'' hd]
  exact ⟨_, rfl, accessed_of_readOnly hcalm hread (.refl _) (result_at ({ s.me with armed := none } : Strand) d v _ _)
    (by cases d <;> rfl) (by cases d <;> rfl)⟩

theorem waitTail_met (hd : d.plain = true) (x y : Word) (mask : Bool) (la : Nat) :
    ∃ t, waitTail d x y mask true la (s1.counted hs) = .ok ((), t) ∧
      Claims.accessed s t s.mem (fun u => ({ u with armed := none } : Strand).result d 0) 4 :=
  waitTail_ends hcalm hword hd 0

theorem tested_deadline : (s1.counted hs).me.deadline = s.me.armed := by
  have hread := tested_readOnly hword
  obtain ⟨-, hpend, -⟩ := hread.framed.calm (State.calm_issue s 4 hcalm)
  rw [deadline_eq_armed hpend, hread.framed.me]
  rfl

theorem waitTail_late (hd : d.plain = true) (y : Word) (mask : Bool) (la : Nat) {x : Word} (z : Word) (harmed : s.me.armed = some z)
    (hlate : z.toNat ≤ s.clk.toNat) : ∃ t, waitTail d x y mask false la (s1.counted hs) = .ok ((), t) ∧
      Claims.accessed s t s.mem (fun u => ({ u with armed := none } : Strand).result d 1) 4 := by
  have hpassed : (s1.counted hs).passed (s1.counted hs).me.deadline = true := by
    rw [tested_passed hword, tested_deadline hcalm hword, harmed]
    exact decide_eq_true hlate
  rw [waitTail, bind_ok _ _ _ _ _ rfl, if_neg Bool.false_ne_true, if_pos hpassed]
  exact waitTail_ends hcalm hword hd 1

theorem waitTail_opens (hd : d.plain = true) (x y : Word) (mask : Bool) (la : Nat)
    (hearly : ∀ z, s.me.armed = some z → s.clk.toNat < z.toNat) :
    ∃ t, waitTail d x y mask false la (s1.counted hs) = .ok ((), t) ∧ Claims.waits s t [d] (.word x y mask s.me.armed) la := by
  have hread := tested_readOnly hword
  have hcalm' : (s1.counted hs).calm := hread.framed.calm (State.calm_issue s 4 hcalm)
  obtain ⟨-, hpend, -⟩ := id hcalm'
  have hopen : (s1.counted hs).passed (s1.counted hs).me.deadline = false := by
    rw [tested_passed hword, tested_deadline hcalm hword]
    cases harmed : s.me.armed with
    | none => rfl
    | some z => exact decide_eq_false (Nat.not_le_of_lt (hearly z harmed))
  rw [waitTail, bind_ok _ _ _ _ _ rfl, if_neg Bool.false_ne_true, hopen, if_neg Bool.false_ne_true,
    bind_ok _ _ _ _ _ (destOk_plain hcalm' hd), await_one d _ la hpend, tested_deadline hcalm hword]
  exact ⟨_, rfl, waits_awaiting d _ la hread.framed.me hread.mem⟩

end

/-- WAITC and WAITB are one wait on a word. -/
theorem exec_waitWord {i : Instr} {d a b : Reg} {g : Guard} {la : Look} {s : State} {mask met : Bool} {hs : List Hit} (hcalm : s.calm)
    (hg : s.me.guarded g = true)
    (hi : (i = .waitc d a b g la ∧ mask = false ∧ met = decide ((s.me.src b).toNat ≤ (Claims.wordVal s hs).toNat)) ∨
      (i = .waitb d a b g la ∧ mask = true ∧ met = (Claims.wordVal s hs &&& s.me.src b == s.me.src b))) :
    exec i s = finishLong 4 la.val [d] none s (waitWord mask d a b la.val (s.issue 4)) ∧
      holds mask (s.me.src b) (Claims.wordVal s hs) = met := by
  rcases hi with ⟨rfl, rfl, rfl⟩ | ⟨rfl, rfl, rfl⟩
  · exact ⟨long_calm 4 g _ _ _ s hcalm hg, rfl⟩
  · exact ⟨long_calm 4 g _ _ _ s hcalm hg, rfl⟩

/-! WAITT and ARMT (R320, R321). -/

theorem exec_waitt_past {d a : Reg} {g : Guard} {la : Look} {s : State} (hcalm : s.calm) (hg : s.me.guarded g = true)
    (hd : d.plain = true) (ha : a.plain = true) (hpast : (s.me.src a).toNat ≤ s.clk.toNat) :
    exec (.waitt d a g la) s = .next (s.issued 4 fun u => u.result d s.clk) := by
  have hover : (s.me.src a).toNat ≤ (s.issue 4).clk.toNat := hpast
  rw [exec, execWaitt, long_calm 4 g _ _ _ s hcalm hg, bind_ok _ _ _ _ _ (rd_issue 4 hcalm ha), bind_ok _ _ _ _ _ rfl,
    if_pos hover, wr_plain d _ _ (State.calm_issue s 4 hcalm) hd, issue_calm hcalm, finishLong]
  exact congrArg (fun me => Host.Outcome.next { s with me }) (result_at s.me d s.clk _ _)

theorem exec_waitt_future {d a : Reg} {g : Guard} {la : Look} {s : State} (hcalm : s.calm) (hg : s.me.guarded g = true)
    (hd : d.plain = true) (ha : a.plain = true) (hfuture : s.clk.toNat < (s.me.src a).toNat) :
    ∃ t, exec (.waitt d a g la) s = .next t ∧ Claims.waits s t [d] (.time (s.me.src a)) la.val := by
  have hcalm' := State.calm_issue s 4 hcalm
  obtain ⟨-, hpend, -⟩ := id hcalm'
  have hlater : ¬ (s.me.src a).toNat ≤ (s.issue 4).clk.toNat := Nat.not_le_of_lt hfuture
  rw [exec, execWaitt, long_calm 4 g _ _ _ s hcalm hg, bind_ok _ _ _ _ _ (rd_issue 4 hcalm ha), bind_ok _ _ _ _ _ rfl,
    if_neg hlater, bind_ok _ _ _ _ _ (destOk_plain hcalm' hd), await_one d _ _ hpend, finishLong]
  exact ⟨_, rfl, waits_awaiting d _ _ rfl rfl⟩

theorem exec_armt {a : Reg} {g : Guard} {s : State} (hcalm : s.calm) (hg : s.me.guarded g = true) (ha : a.plain = true) :
    exec (.armt a g) s = .next (s.issued 4 fun u =>
      { u with armed := if s.me.src a = 0 then none else some (s.clk + s.me.src a) }) := by
  rw [exec, execArmt, short_calm 4 g _ s hcalm hg, bind_ok _ _ _ _ _ (atHome_calm _ (State.calm_issue s 4 hcalm)),
    bind_ok _ _ _ _ _ (rd_issue 4 hcalm ha), issue_calm hcalm]
  rfl

/-! WAITP (R322). -/

/-- An instruction that opens without a register. -/
theorem await_none {s : State} (src : Owe) (la : Nat) (hpend : s.me.pend = []) :
    ∃ p : Pending, await [] src la s = .ok ((), { s with me := { s.me with pend := [p] } }) ∧
      p.src = src ∧ p.left = la ∧ p.dsts = [] ∧ p.xpc = s.me.pc - 4 := by
  have hclaim : s.me.claims [] = s.me := rfl
  rw [await, bind_ok _ _ _ _ _ rfl, hclaim]
  simp only [State.open, shifts, hpend]
  exact ⟨_, rfl, rfl, rfl, rfl, rfl⟩

section
variable {p a b : Reg} {g : Guard} {la : Look} {s s1 : State} {h1 : List Hit} (hcalm : s.calm) (hg : s.me.guarded g = true)
  (hp : p.plain = true) (ha : a.plain = true) (hb : b.plain = true)
  (hword : Claims.wordAt rR (s.me.src a) (s.issue 4) s1 h1)
include hcalm hg hp ha hb hword

theorem exec_waitp_checked : exec (.waitp p a b g la) s = finishLong 4 la.val [] none s
    ((if (s.me.src p).toNat ≤ s.clk.toNat then promised (s.me.src a) (s.me.src b)
      else await [] (.promise (s.me.src p) (s.me.src a) (s.me.src b)) la.val) s1) := by
  obtain ⟨e, hhits, hread, -, -⟩ := wordAt_checked hword
  have hclk : s1.clk = s.clk := by
    obtain ⟨⟨_, _, _, _, _, h⟩, -⟩ := hread
    rw [h]
    rfl
  rw [exec, execWaitp, long_calm 4 g _ _ _ s hcalm hg, bind_ok _ _ _ _ _ (rd2_issue 4 hcalm ha hb)]
  dsimp only
  rw [bind_ok _ _ _ _ _ (rd_issue 4 hcalm hp), bind_ok _ _ _ _ _ hhits, bind_ok _ _ _ _ _ rfl, hclk]

theorem exec_waitp_opens (hfuture : s.clk.toNat < (s.me.src p).toNat) : ∃ t, exec (.waitp p a b g la) s = .next t ∧
    Claims.waits s t [] (.promise (s.me.src p) (s.me.src a) (s.me.src b)) la.val := by
  obtain ⟨-, -, hread, -, -⟩ := wordAt_checked hword
  have hme : s1.me = (s.issue 4).me := hread.framed.me
  obtain ⟨-, hpend, -⟩ := hread.framed.calm (State.calm_issue s 4 hcalm)
  obtain ⟨q, hawait, hsrc, hleft, hdsts, hxpc⟩ :=
    await_none (.promise (s.me.src p) (s.me.src a) (s.me.src b)) la.val hpend
  have hpc : s1.me.pc = s.me.pc + 4 := congrArg Strand.pc hme
  rw [exec_waitp_checked hcalm hg hp ha hb hword, if_neg (Nat.not_le_of_lt hfuture), hawait, finishLong]
  exact ⟨_, rfl, q, rfl, hsrc, hleft, hdsts, hpc, by rw [hxpc, hpc, BitVec.add_sub_cancel], hread.mem⟩

end

/-! The ends of waits (R320 to R322). -/

theorem takePend_single {f : Pending → Bool} {t : Strand} {p : Pending} (hpend : t.pend = [p]) (hf : f p = true) :
    takePend f t = some (p, { t with pend := [] }) := by
  rw [takePend, hpend, pull, if_pos hf]
  rfl

theorem swapPend_single {s : State} {p : Pending} (hpend : s.me.pend = [p]) (q : Pending) :
    s.swapPend p q = { s with me := { s.me with pend := [q] } } := by
  rw [State.swapPend, hpend, swapIn, if_pos rfl]

/-- A value that comes to o_i and l0 (R26, R65). -/
theorem complete_paid {s : State} {p : Pending} {i : Fin 6} (howes : Claims.owesO p i) (v : Word) :
    complete s p { s.me with pend := [] } [v] = { s with me := Claims.paid s.me i v } := by
  obtain ⟨hdsts, hlands⟩ := howes
  have hdeliver : deliver p [v] { s with me := { s.me with pend := [] } } = .ok ((), { s with me := Claims.paid s.me i v }) := by
    rw [deliver, hdsts, hlands]
    rfl
  rw [complete, hdeliver]

theorem exec_waittTimeReached {s : State} {p : Pending} {t : Word} {i : Fin 6} (hpend : s.me.pend = [p]) (hsrc : p.src = .time t)
    (hpast : t.toNat ≤ s.clk.toNat) (howes : Claims.owesO p i) :
    exec .waittTimeReached s = .next { s with me := Claims.paid s.me i s.clk } := by
  have hdue : Pending.isTime s p = true := by
    rw [Pending.isTime, hsrc]
    exact decide_eq_true hpast
  rw [exec, execWaittTimeReached, takePend_single hpend hdue]
  exact congrArg Host.Outcome.next (complete_paid howes s.clk)

/-- A promise whose time has come is tested without its entry among the open instructions. -/
theorem exec_promiseReached_eq {s : State} {p : Pending} {v a b : Word} (hpend : s.me.pend = [p]) (hsrc : p.src = .promise v a b)
    (hpast : v.toNat ≤ s.clk.toNat) : exec .promiseReached s =
      match promised a b { s with me := { s.me with pend := [] } } with
      | .ok (_, s') => .next s'
      | .error (.trap cls detail tv) => .next (s.swapPend p (p.fail (.fault cls detail tv)))
      | .error (.lease x) => .next (s.swapPend p (p.fail (.lease x)))
      | .error (.bad k tv) => .next ((s.logError k).swapPend p (p.fail (.fault 8 0 tv)))
      | .error _ => .next s := by
  have hdue : Pending.isDue s p = true := by
    rw [Pending.isDue, hsrc]
    exact decide_eq_true hpast
  rw [exec, execPromiseReached, takePend_single hpend hdue]
  dsimp only
  rw [hsrc] <;> rfl

theorem exec_deadlineExpiry_word {s : State} {p : Pending} {a b d : Word} {m : Bool} (hpend : s.me.pend = [p])
    (hsrc : p.src = .word a b m (some d)) (harmed : s.me.armed = some d) (hlate : d.toNat ≤ s.clk.toNat) :
    exec .deadlineExpiry s = .next { s with me := { s.me with armed := none, pend := [{ p with src := .value [1] }] } } := by
  have hdue : Pending.isLate s p = true := by
    rw [Pending.isLate, hsrc]
    exact decide_eq_true hlate
  have hfind : s.me.pend.find? (Pending.isLate s) = some p := by
    rw [hpend]
    exact List.find?_cons_of_pos hdue
  rw [exec, execDeadlineExpiry, hfind]
  dsimp only
  rw [hsrc]
  dsimp only
  rw [← harmed, disarm_armed, swapPend_single (s := { s with me := { s.me with armed := none } }) hpend]

end Sys2Proof.Machine
end

section
/-! PROOFS. Counters, promises, waits and barriers (18_counters). -/

namespace Sys2Proof.Machine

/-- Settles O25: the checks change the caches alone, SIG and CNTSET then write what they find the word to become. -/
theorem counterWriteResult : Obligations.CounterWriteResult := by
  intro sc a b g la s s1 hs hcalm hg ha hb hwf hroom hword hclear hunlocked hqueued
  obtain ⟨e, hhits, hread, hlength, hhere⟩ := wordAt_checked hword
  have hne : hs ≠ [] := List.ne_nil_of_length_pos (by omega)
  have hissued : (s.issue 4).framed s1 := hread.framed
  have hme : s1.me = (s.issue 4).me := hread.framed.me
  have hmem : s1.mem = s.mem := hread.mem
  have hstorable : (s.issue 4).storable hs := ⟨hhere, hunlocked, hqueued⟩
  have hreads : s1.mem.wf = true := by rw [hmem]; exact hwf
  have hcells : Claims.cells s1 hs = Claims.cells s hs := hread.framed.cells hs
  have hval : Claims.wordVal s1 hs = Claims.wordVal s hs := by
    rw [Claims.wordVal, hcells, hread.see]
    rfl
  have hwritten (kind : Nat) (f : Word → Word) (v : Word) :=
    counterWrite_here kind f v (s.me.src a) e la.val hne hreads (hissued.storable hstorable)
      (hissued.clear (clear_issue 4 hcalm hclear)) (hread.logRoom hroom)
  have hwrote {m : Memory} {cs : List (Nat × Byte)} (h : Claims.wrote s1 m cs) : Claims.wrote s m cs := fun k hk => by
    rw [h k ((hissued.inLog k).not.mpr hk), hmem]
  refine ⟨fun hstores hspan => ?sig, ?cntset⟩
  case sig =>
    obtain ⟨t, hwrite, ht, hbytes⟩ := hwritten 2 (fun w => w + s.me.src b) (s.me.src b)
    have hrelease : sigRelease sc (hs.any Hit.elsewhere) s1 = .ok ((), s1) := by
      rw [not_elsewhere_of_here hhere]
      refine sigRelease_here (by rw [hme]; exact (State.calm_issue s 4 hcalm).2.1) (by rw [hme]; exact hstores) fun h => ?_
      rw [hme, unacked_of_framed hissued]
      exact hspan h
    refine ⟨t, ?_, accessed_of_framed_id hcalm (hissued.trans ht) (.refl t), ?_⟩
    · rw [exec, execSig, long_calm 4 g _ _ _ s hcalm hg, bind_ok _ _ _ _ _ (rd2_issue 4 hcalm ha hb)]
      dsimp only
      rw [bind_ok _ _ _ _ _ hhits]
      dsimp only
      rw [bind_ok _ _ _ _ _ hrelease, hwrite, finishLong]
    · rw [hcells, counterOld, if_pos rfl, hval] at hbytes
      exact hwrote hbytes
  case cntset =>
    obtain ⟨t, hwrite, ht, hbytes⟩ := hwritten 1 (fun _ => s.me.src b) (s.me.src b)
    refine ⟨t, ?_, accessed_of_framed_id hcalm (hissued.trans ht) (.refl t), ?_⟩
    · rw [exec, execCntset, long_calm 4 g _ _ _ s hcalm hg, bind_ok _ _ _ _ _ (rd2_issue 4 hcalm ha hb)]
      dsimp only
      rw [bind_ok _ _ _ _ _ hhits]
      dsimp only
      rw [hwrite, finishLong]
    · rw [hcells] at hbytes
      exact hwrote hbytes

/-- Settles O26: each wait tests its word, or its time, once at issue, and its end tests it once more. -/
theorem waitResult : Obligations.WaitResult := by
  refine ⟨fun d a b g la s hcalm hg hd ha hb => ⟨fun i mask met hs s1 hi hword => ?_,
      exec_waitt_past hcalm hg hd ha, exec_waitt_future hcalm hg hd ha, exec_armt hcalm hg ha⟩,
    fun p a b g la s s1 s2 h1 hs hcalm hg hp ha hb hword => ⟨fun hpast hword' => ?_, exec_waitp_opens hcalm hg hp ha hb hword⟩,
    fun s p t i => exec_waittTimeReached, fun s s1 p v a b hs hpend hsrc hpast hstores hword => ?_,
    fun s p a b d m => exec_deadlineExpiry_word⟩
  · obtain ⟨hexec, hholds⟩ := exec_waitWord hcalm hg hi
    rw [waitWord_here hcalm hword ha hb, hholds] at hexec
    refine ⟨fun hmet => ?_, fun x hnot harmed hlate => ?_, fun hnot hearly => ?_⟩
    · obtain ⟨t, htail, hresult⟩ := waitTail_met hcalm hword hd (s.me.src a) (s.me.src b) mask la.val
      rw [hmet, htail, finishLong] at hexec
      exact ⟨t, hexec, hresult⟩
    · obtain ⟨t, htail, hresult⟩ := waitTail_late hcalm hword hd (s.me.src b) mask la.val (x := s.me.src a) x harmed hlate
      rw [hnot, htail, finishLong] at hexec
      exact ⟨t, hexec, hresult⟩
    · obtain ⟨t, htail, hresult⟩ := waitTail_opens hcalm hword hd (s.me.src a) (s.me.src b) mask la.val hearly
      rw [hnot, htail, finishLong] at hexec
      exact ⟨t, hexec, hresult⟩
  · obtain ⟨-, -, hread, -, -⟩ := wordAt_checked hword
    obtain ⟨e, hhits', hread', -, hhere'⟩ := wordAt_checked hword'
    have hval : Claims.wordVal s1 hs = Claims.wordVal s hs := by
      rw [Claims.wordVal, hread.framed.cells, hread.see]
      rfl
    refine ⟨fun hmet => ?_, fun hmissed => ?_⟩
    · rw [exec_waitp_checked hcalm hg hp ha hb hword, if_pos hpast, promised_met hhits' hread' hhere' (by rw [hval, hmet]), finishLong]
      exact ⟨_, rfl, accessed_of_readOnly hcalm (hread.trans (hread'.trans (counted_readOnly s2 hs))) (.refl _) rfl rfl rfl⟩
    · rw [exec_waitp_checked hcalm hg hp ha hb hword, if_pos hpast, promised_missed hhits' hread' hhere' (by rwa [hval]), hval]
      rfl
  · obtain ⟨e, hhits, hread, -, hhere⟩ := wordAt_checked hword
    rw [exec_promiseReached_eq hpend hsrc hpast]
    refine ⟨fun hmet => ?_, fun hmissed => ?_⟩
    · rw [promised_met hhits hread hhere hmet]
      have hread' := hread.trans (counted_readOnly s1 hs)
      exact ⟨_, rfl, hread'.framed.me, hread'.mem⟩
    · rw [promised_missed hhits hread hhere hmissed]
      exact congrArg Host.Outcome.next (swapPend_single hpend _)

end Sys2Proof.Machine
end

section
/-! SUPPORT. Commands at supervisor level and their promises (R10, R25, R263), and the barrier units (R326 to R329). -/

namespace Sys2Proof.Machine

/-! Commands. -/

/-- A calm strand at supervisor level runs the body of a command. -/
theorem command_sup {s : State} (hcalm : s.calm) (hplv : 1 ≤ s.me.plv.toNat) (i : Instr) (la : Look) (body : M Unit) :
    command i supervisor la body s = finishLong 4 (window la) [.l0] none s (body (s.issue 4)) := by
  have hlevel : ¬ s.me.plv < supervisor := fun h => absurd (BitVec.lt_def.mp h) (Nat.not_lt.mpr hplv)
  rw [command, atLevel, if_neg hlevel, long_calm 4 0 _ _ _ s hcalm (guarded_zero _)]

/-- A promise shifts into l0 (R65, R25). -/
theorem promise_of_pend_nil {s : State} (n : Nat) (hpend : s.me.pend = []) :
    promise n s = .ok ((), { s with me := s.me.result .l0 (s.clk + toW n) }) := by
  have hshift : s.me.shift (s.clk + toW n) = s.me.result .l0 (s.clk + toW n) := by
    simp [Strand.shift, hpend, Strand.result]
  rw [promise, upd, hshift]

theorem issue_result (s : State) (hcalm : s.calm) (n : Nat) (d : Reg) (v : Word) :
    ({ s.issue n with me := (s.issue n).me.result d v } : State) = s.issued n fun t => t.result d v := by
  rw [issue_calm hcalm]
  exact congrArg (fun me => { s with me }) (result_at s.me d v _ _)

/-! The open BARW of a strand (R328, R329). -/

/-- The deadline that bounds a BARW. -/
def Pending.barDeadline (p : Pending) : Option Word :=
  match p.src with
  | .barrier _ _ dl => dl
  | _ => none

/-- A strand with its open BARW at a group given a status. -/
def Strand.endBar (job h : Nat) (v : Word) (t : Strand) : Strand :=
  match t.pend.find? (Pending.isBar job h) with
  | none => t
  | some p => { t.disarm p.barDeadline with pend := swapIn p { p with src := .value [v] } t.pend }

theorem endBar_eq (s : State) (job h sid : Nat) (v : Word) : s.endBar job h sid v = s.modStrand sid (Strand.endBar job h v) := rfl

theorem disarm_sid (t : Strand) (dl : Option Word) : (t.disarm dl).sid = t.sid := by
  rw [Strand.disarm]
  split <;> rfl

theorem Strand.endBar_sid (job h : Nat) (v : Word) (t : Strand) : (t.endBar job h v).sid = t.sid := by
  rw [Strand.endBar]
  split
  · rfl
  · exact disarm_sid ..

theorem isBar_of_src {p : Pending} {job h : Nat} {dl : Option Word} (hsrc : p.src = .barrier job h dl) :
    Pending.isBar job h p = true := by
  rw [Pending.isBar, hsrc]
  simp

theorem find_isBar {t : Strand} {p : Pending} {job h : Nat} {dl : Option Word} (hpend : t.pend = [p])
    (hsrc : p.src = .barrier job h dl) : t.pend.find? (Pending.isBar job h) = some p := by
  rw [hpend]
  exact List.find?_cons_of_pos (isBar_of_src hsrc)

theorem Strand.endBar_waiting {t : Strand} {p : Pending} {job h : Nat} {dl : Option Word} (hpend : t.pend = [p])
    (hsrc : p.src = .barrier job h dl) (v : Word) : (t.endBar job h v).pend = [{ p with src := .value [v] }] := by
  rw [Strand.endBar, find_isBar hpend hsrc]
  show swapIn p { p with src := .value [v] } t.pend = _
  rw [hpend, swapIn, if_pos rfl]

theorem Strand.endBar_of_none {t : Strand} {job h : Nat} (hnone : t.pend.any (Pending.isBar job h) = false) (v : Word) :
    t.endBar job h v = t := by
  have hfind : t.pend.find? (Pending.isBar job h) = none :=
    List.find?_eq_none.mpr fun p hp => List.any_eq_false.mp hnone p hp
  rw [Strand.endBar, hfind]

/-- Many BARWs ended with one status: only strands change. -/
theorem foldl_endBar_eq {α : Type} (sid : α → Nat) (job h : Nat) (v : Word) (l : List α) (s : State) :
    ∃ me others, l.foldl (fun s w => s.endBar job h (sid w) v) s = { s with me, others } :=
  List.foldlRecOn (motive := fun t : State => ∃ me others, t = { s with me, others }) l _ ⟨_, _, rfl⟩
    fun _ ⟨_, _, ht⟩ w _ => by
      rw [ht, endBar_eq]
      obtain ⟨me, others, hmod, -⟩ := modStrand_eq { s with me := _, others := _ } (sid w) (Strand.endBar job h v)
      exact ⟨me, others, hmod⟩

/-- The strand of a slot after a change of another slot's. -/
theorem strand?_modStrand_other {s : State} {sid k : Nat} {f : Strand → Strand} (hf : ∀ t, (f t).sid = t.sid)
    (hother : sid % 65536 ≠ k % 65536) : (s.modStrand sid f).strand? k = s.strand? k := by
  rw [State.modStrand]
  split
  next hme => rw [strand?_setMe (hf s.me), if_neg fun h => hother (hme.symm.trans h)]
  next hme =>
    have hkeeps : ((fun t : Strand => t.sid.toNat % 65536 == k % 65536) ∘ fun t =>
        if t.sid.toNat % 65536 == sid % 65536 then f t else t) = fun t => t.sid.toNat % 65536 == k % 65536 := by
      funext t
      dsimp only [Function.comp_apply]
      split
      · rw [hf]
      · rfl
    rw [State.strand?, State.strand?]
    split
    · rfl
    · rw [List.find?_map, hkeeps]
      cases hfind : s.others.find? fun t => t.sid.toNat % 65536 == k % 65536 with
      | none => rfl
      | some t =>
        have hslot : t.sid.toNat % 65536 = k % 65536 := by simpa using List.find?_some hfind
        rw [Option.map_some, if_neg]
        rw [beq_iff_eq, hslot]
        exact fun h => hother h.symm

/-- A strand that waits, where the moving one does not, is among the others. -/
theorem strand?_of_waiting {s t : State} {k : Nat} {v : Strand} (hme : s.me.pend = []) (hv : s.strand? k = some v) (hwaits : v.pend ≠ [])
    (hsid : t.me.sid = s.me.sid) (hothers : t.others = s.others) : t.strand? k = some v := by
  have hother : ¬ s.me.sid.toNat % 65536 = k % 65536 := fun h => by
    rw [State.strand?, if_pos h] at hv
    exact hwaits (Option.some.inj hv ▸ hme)
  rw [State.strand?, if_neg hother] at hv
  rw [State.strand?, hsid, if_neg hother, hothers, hv]

/-- A slot's strand that has no BARW open at the group stays as it is. -/
theorem strand?_foldl_endBar_of_none {α : Type} (sid : α → Nat) (job h : Nat) (v : Word) (l : List α) {s : State} {k : Nat} {u : Strand}
    (hu : s.strand? k = some u) (hnone : u.pend.any (Pending.isBar job h) = false) :
    (l.foldl (fun s w => s.endBar job h (sid w) v) s).strand? k = some u :=
  List.foldlRecOn (motive := fun t : State => t.strand? k = some u) l _ hu fun t ht w _ => by
    rw [endBar_eq]
    by_cases hslot : sid w % 65536 = k % 65536
    · have hsame : t.strand? (sid w) = some u := by rw [State.strand?, hslot]; exact ht
      have hmod := strand?_modStrand (Strand.endBar_sid job h v) hsame
      rw [Strand.endBar_of_none hnone, State.strand?, hslot] at hmod
      exact hmod
    · rw [strand?_modStrand_other (Strand.endBar_sid job h v) hslot]
      exact ht

/-- Each strand that waits at the group and is named has its BARW ended. -/
theorem strand?_foldl_endBar {α : Type} (sid : α → Nat) (job h : Nat) (v : Word) (l : List α) {s : State} {k : α} {u : Strand} {p : Pending}
    {dl : Option Word} (hk : k ∈ l) (hu : s.strand? (sid k) = some u) (hpend : u.pend = [p]) (hsrc : p.src = .barrier job h dl) :
    ∃ u', (l.foldl (fun s w => s.endBar job h (sid w) v) s).strand? (sid k) = some u' ∧ u'.pend = [{ p with src := .value [v] }] := by
  induction l generalizing s with
  | nil => cases hk
  | cons w r ih =>
    rw [List.foldl_cons, endBar_eq]
    by_cases hslot : sid w % 65536 = sid k % 65536
    · have hsame : s.strand? (sid w) = some u := by rw [State.strand?, hslot]; exact hu
      have hmod := strand?_modStrand (Strand.endBar_sid job h v) hsame
      rw [State.strand?, hslot] at hmod
      have hended := Strand.endBar_waiting hpend hsrc v
      exact ⟨_, strand?_foldl_endBar_of_none sid job h v r hmod (by rw [hended]; rfl), hended⟩
    · obtain hk | hk := List.mem_cons.mp hk
      · exact absurd (by rw [hk]) hslot
      · exact ih hk (by rw [strand?_modStrand_other (Strand.endBar_sid job h v) hslot]; exact hu)

/-- The moving strand has no BARW open, so none of its own is ended. -/
theorem foldl_endBar_me {α : Type} (sid : α → Nat) (job h : Nat) (v : Word) (l : List α) {s : State}
    (hnone : s.me.pend.any (Pending.isBar job h) = false) : (l.foldl (fun s w => s.endBar job h (sid w) v) s).me = s.me :=
  List.foldlRecOn (motive := fun t : State => t.me = s.me) l _ rfl fun t ht w _ => by
    rw [endBar_eq]
    obtain ⟨me, others, hmod, hme | hme⟩ := modStrand_eq t (sid w) (Strand.endBar job h v)
    · rw [hmod]
      exact hme.trans (by rw [ht, Strand.endBar_of_none hnone])
    · rw [hmod]
      exact hme.trans ht

/-! BARCFG (R327). -/

/-- Either row is one command that does what b bit 0 says. -/
theorem exec_barcfg {i : Instr} {a b : Reg} {la : Look} (hi : i = .barcfgConfigure a b la ∨ i = .barcfgRelease a b la) (s : State) :
    exec i s = barcfg i a b la s := by
  rcases hi with rfl | rfl <;> rfl

/-- The new group of a record (Table 18.5). -/
def Obj.newBarrier (o : Obj) (key : Nat) : Barrier where
  die := o.fld 0 8 3
  form := o.fld 0 11 2
  group := o.fld 0 13 4
  job := key / 65536
  h := key % 65536
  members := o.fld 1 0 256
  sense := false
  cur := 0
  nxt := 0
  waitCur := []
  waitNxt := []
  held := []
  releasing := []

/-- A group taken out, its waiters ended. -/
def State.releaseBarrier (s : State) (job h : Nat) : State :=
  match s.barrier? job h with
  | none => s
  | some bar =>
    let t := (bar.waitCur ++ bar.waitNxt ++ bar.held).foldl (fun s w => s.endBar job h w.1 2) s
    let t := bar.releasing.foldl (fun s sid => s.endBar job h sid 0) t
    { t with barriers := t.barriers.filter fun b => !b.named job h }

section
variable {i : Instr} {a b : Reg} {la : Look} {key : Nat} {o : Obj} {s : State}
  (hi : i = .barcfgConfigure a b la ∨ i = .barcfgRelease a b la) (hcalm : s.calm) (hplv : 1 ≤ s.me.plv.toNat)
  (ha : a.plain = true) (hb : b.plain = true) (hhandle : Claims.handle s (s.me.src a) 10 .admin key o)
include hi hcalm hplv ha hb hhandle

theorem barcfg_configures (hbit : (s.me.src b).getLsbD 0 = true) (hok : barRecordOk o = true)
    (hfree : (s.barriers.any fun x => x.named (key / 65536) (key % 65536) ||
      (x.die == o.fld 0 8 3 && (barUnits x.form x.group).any (barUnits (o.fld 0 11 2) (o.fld 0 13 4)).contains)) = false) :
    exec i s = .next (State.setObjFld { (s.cacheEntry key).issued 4 (fun t => t.result .l0 (s.clk + 40)) with
      barriers := s.barriers ++ [o.newBarrier key] } key 0 17 1 1) := by
  have hobj : ((s.cacheEntry key).issue 4).objAt key = o := by
    obtain ⟨-, hobj, -⟩ := hhandle
    exact hobj.symm
  have hbarriers : ((s.cacheEntry key).issue 4).barriers = s.barriers := rfl
  have hcalm' := State.calm_issue (s.cacheEntry key) 4 hcalm
  obtain ⟨-, hpend, -⟩ := id hcalm'
  rw [exec_barcfg hi, barcfg, command_sup hcalm hplv, bind_ok _ _ _ _ _ (rd2_issue 4 hcalm ha hb)]
  dsimp only
  rw [bind_ok _ _ _ _ _ (ownHandle_issue 4 (by decide) hhandle), bind_ok _ _ _ _ _ rfl, if_pos hbit, hobj, hbarriers,
    bind_ok _ _ _ _ _ (need_of_true _ _ (congrArg Bool.not hfree)), bind_ok _ _ _ _ _ (need_of_true _ _ hok),
    bind_ok _ _ _ _ _ rfl, promise_of_pend_nil 40, finishLong]
  · have hme : ((s.cacheEntry key).issue 4).me.result .l0 (s.clk + toW 40) =
        ((s.cacheEntry key).issued 4 fun t => t.result .l0 (s.clk + 40)).me :=
      congrArg State.me (issue_result (s.cacheEntry key) hcalm 4 .l0 (s.clk + toW 40))
    refine congrArg Host.Outcome.next ?_
    rw [← hme]
    rfl
  · exact hpend

theorem barcfg_releases (hbit : (s.me.src b).getLsbD 0 = false) :
    exec i s = finishLong 4 (window la) [.l0] none s (promise 40
      ((((s.cacheEntry key).issue 4).releaseBarrier (key / 65536) (key % 65536)).setObjFld key 0 17 1 0)) := by
  rw [exec_barcfg hi, barcfg, command_sup hcalm hplv, bind_ok _ _ _ _ _ (rd2_issue 4 hcalm ha hb)]
  dsimp only
  rw [bind_ok _ _ _ _ _ (ownHandle_issue 4 (by decide) hhandle), bind_ok _ _ _ _ _ rfl,
    if_neg (Bool.eq_false_iff.mp hbit), State.releaseBarrier]
  cases ((s.cacheEntry key).issue 4).barrier? (key / 65536) (key % 65536) <;> rfl

end

/-- What the release of a group leaves: the strands with their BARWs ended, and the other groups. -/
theorem releaseBarrier_eq {s : State} (job h : Nat) (hnone : s.me.pend = []) : ∃ others,
    s.releaseBarrier job h = { s with others, barriers := s.barriers.filter fun x => !x.named job h } ∧
    ∀ x, s.barrier? job h = some x → ∀ w ∈ x.waitCur ++ x.waitNxt ++ x.held, ∀ v p dl,
      s.strand? w.1 = some v → v.pend = [p] → p.src = .barrier job h dl →
      ∃ v', (s.releaseBarrier job h).strand? w.1 = some v' ∧ v'.pend = [{ p with src := .value [2] }] := by
  have hme : s.me.pend.any (Pending.isBar job h) = false := by rw [hnone]; rfl
  rw [State.releaseBarrier]
  cases hx : s.barrier? job h with
  | none =>
    have hkept : s.barriers.filter (fun x => !x.named job h) = s.barriers :=
      List.filter_eq_self.mpr fun x hmem => by simpa using List.find?_eq_none.mp hx x hmem
    rw [hkept]
    exact ⟨_, rfl, nofun⟩
  | some x =>
    dsimp only
    obtain ⟨me, others, hfirst⟩ := foldl_endBar_eq Prod.fst job h 2 (x.waitCur ++ x.waitNxt ++ x.held) s
    have hme1 := foldl_endBar_me Prod.fst job h 2 (x.waitCur ++ x.waitNxt ++ x.held) hme
    have hme2 := foldl_endBar_me id job h 0 x.releasing (s := (x.waitCur ++ x.waitNxt ++ x.held).foldl _ s) (by rw [hme1]; exact hme)
    obtain ⟨me', others', hsecond⟩ := foldl_endBar_eq id job h 0 x.releasing
      ((x.waitCur ++ x.waitNxt ++ x.held).foldl (fun s w => s.endBar job h w.1 2) s)
    have hkeeps : me' = s.me := by
      have := hme2.trans hme1
      rwa [hsecond] at this
    refine ⟨others', ?_, fun y hy w hw v p dl hv hpend hsrc => ?_⟩
    · simp only [id] at hsecond
      rw [hsecond, hfirst, hkeeps]
    · obtain rfl := Option.some.inj hy
      obtain ⟨v', hv', hpend'⟩ := strand?_foldl_endBar Prod.fst job h 2 _ hw hv hpend hsrc
      exact ⟨v', strand?_foldl_endBar_of_none id job h 0 x.releasing hv' (by rw [hpend']; rfl), hpend'⟩

/-! BARW (R328). -/

theorem exec_barw {d a : Reg} {g : Guard} (la : Look) {key : Nat} {o : Obj} {x : Barrier} {s : State} (hcalm : s.calm)
    (hg : s.me.guarded g = true) (hd : d.plain = true) (ha : a.plain = true) (hstores : s.me.stores = [])
    (hhandle : Claims.handle s (s.me.src a) 10 .call key o) (hx : s.barrier? (key / 65536) (key % 65536) = some x)
    (hdie : coreDie s.me.core = x.die) (hcompute : coreNo s.me.core < 16) (hmember : nbit x.members (barBit s.me.core) = true) :
    exec (.barw d a g la) s = .next ((((s.cacheEntry key).issue 4).awaiting d
      (.barrier (key / 65536) (key % 65536) s.me.armed) la.val).due .barrierArrival
        { sid := s.me.sid.toNat, job := key / 65536, h := key % 65536 }) := by
  have hcalm' := State.calm_issue (s.cacheEntry key) 4 hcalm
  obtain ⟨-, hpend, -⟩ := id hcalm'
  have hbarrier : ((s.cacheEntry key).issue 4).barrier? (key / 65536) (key % 65536) = some x := hx
  have hcheck : (coreDie ((s.cacheEntry key).issue 4).me.core == x.die && decide (coreNo ((s.cacheEntry key).issue 4).me.core < 16) &&
      nbit x.members (barBit ((s.cacheEntry key).issue 4).me.core)) = true :=
    Bool.and_eq_true_iff.mpr ⟨Bool.and_eq_true_iff.mpr ⟨beq_iff_eq.mpr hdie, decide_eq_true hcompute⟩, hmember⟩
  have hdeadline : ((s.cacheEntry key).issue 4).me.deadline = s.me.armed := deadline_eq_armed hpend
  rw [exec, execBarw, long_calm 4 g _ _ _ s hcalm hg, bind_ok _ _ _ _ _ (atHome_calm _ (State.calm_issue s 4 hcalm)),
    bind_ok _ _ _ _ _ (rd_issue 4 hcalm ha), bind_ok _ _ _ _ _ (ownHandle_issue 4 (by decide) hhandle),
    bind_ok _ _ _ _ _ rfl, hbarrier]
  dsimp only
  rw [bind_ok _ _ _ _ _ (need_of_true _ _ hcheck), bind_ok _ _ _ _ _ (released_empty ((s.cacheEntry key).issue 4) hstores hpend),
    bind_ok _ _ _ _ _ (destOk_plain hcalm' hd), bind_ok _ _ _ _ _ (await_one d _ _ hpend), hdeadline]
  rfl

/-! The unit (R328, R329). -/

/-- A group of the device is the one its job and handle name. -/
theorem named_of_barrier? {s : State} {job h : Nat} {x : Barrier} (hx : s.barrier? job h = some x) : x.named job h = true := by
  rw [State.barrier?] at hx
  exact List.find?_some (p := fun b : Barrier => b.named job h) hx

theorem named_iff {x : Barrier} {job h : Nat} : x.named job h = true ↔ x.job = job ∧ x.h = h := by
  simp [Barrier.named]

/-- The group after it has been written. -/
theorem barrier?_setBarrier {s : State} {job h : Nat} {x c : Barrier} (hx : s.barrier? job h = some x) (hc : c.named job h = true) :
    (s.setBarrier c).barrier? job h = some c := by
  obtain ⟨rfl, rfl⟩ := named_iff.mp hc
  have hkeeps : ((fun b : Barrier => b.named c.job c.h) ∘ fun b => if b.named c.job c.h then c else b) =
      fun b => b.named c.job c.h := by
    funext b
    dsimp only [Function.comp_apply]
    split
    next hb => rw [hb, hc]
    · rfl
  rw [State.barrier?] at hx
  rw [State.barrier?, State.setBarrier, List.find?_map, hkeeps, hx, Option.map_some]
  have hnamed : x.named c.job c.h = true := List.find?_some (p := fun b : Barrier => b.named c.job c.h) hx
  rw [if_pos hnamed]

/-- The group after a current arrival: complete, its phase turns once; else it waits. -/
theorem arrive_turn {x : Barrier} {sid bit : Nat} (hclear : nbit x.cur bit = false) (hheld : x.held = []) (hnone : x.releasing = [])
    (hnext : (x.nxt &&& x.members) ≠ x.members) : (x.arrive sid bit).turn 32 =
      if setBit x.cur bit true &&& x.members == x.members then
        { x with sense := !x.sense, cur := x.nxt, nxt := 0, waitCur := x.waitNxt, waitNxt := []
                 releasing := x.waitCur.map Prod.fst ++ [sid] }
      else { x with cur := setBit x.cur bit true, waitCur := x.waitCur ++ [(sid, bit)] } := by
  have harrive : x.arrive sid bit = { x with cur := setBit x.cur bit true, waitCur := x.waitCur ++ [(sid, bit)] } := by
    rw [Barrier.arrive, hclear]
    rfl
  have hopen : ¬ ({ x with sense := !x.sense, cur := x.nxt, nxt := 0, waitCur := x.waitNxt, waitNxt := [], held := []
                           releasing := x.waitCur.map Prod.fst ++ [sid] } : Barrier).full = true := by
    simpa [Barrier.full] using hnext
  rw [harrive, Barrier.turn, Barrier.full]
  dsimp only
  rw [hheld, List.foldl_nil, hnone, List.nil_append, List.map_append, List.map_singleton, Barrier.turn, if_neg hopen]

/-- The groups and the moves due after an arrival that is counted. -/
def State.arrived (s : State) (c : Barrier) : State :=
  if c.releasing.isEmpty then s.setBarrier c
  else (s.setBarrier c).due .barrierRelease { job := s.arg.job, h := s.arg.h }

theorem exec_barrierArrival {s : State} {x c : Barrier} {p : Pending} {dl : Option Word}
    (hx : s.barrier? s.arg.job s.arg.h = some x) (hpend : s.me.pend = [p]) (hsrc : p.src = .barrier s.arg.job s.arg.h dl)
    (hc : (x.arrive (s.me.sid.toNat % 65536) (barBit s.me.homeCore)).turn 32 = c) : exec .barrierArrival s = .next
      (if s.passed dl && !c.releasing.contains (s.me.sid.toNat % 65536) then
        ((s.arrived c).setBarrier (c.withdraw (s.me.sid.toNat % 65536))).endBar s.arg.job s.arg.h (s.me.sid.toNat % 65536) 1
      else s.arrived c) := by
  rw [exec, execBarrierArrival]
  dsimp only
  rw [hx, find_isBar hpend hsrc]
  dsimp only
  rw [hc, hsrc]
  dsimp only
  rw [State.arrived]
  split <;> rfl

theorem arrived_me (s : State) (c : Barrier) : (s.arrived c).me = s.me := by
  rw [State.arrived]
  split <;> rfl

theorem arrived_mem (s : State) (c : Barrier) : (s.arrived c).mem = s.mem := by
  rw [State.arrived]
  split <;> rfl

theorem arrived_barrier? {s : State} {x c : Barrier} {job h : Nat} (hx : s.barrier? job h = some x) (hc : c.named job h = true) :
    (s.arrived c).barrier? job h = some c := by
  have hset := barrier?_setBarrier hx hc
  rw [State.arrived]
  split <;> exact hset

/-- The BARW of the moving strand ended. -/
theorem endBar_self {t : Strand} {u : State} {p : Pending} {job h : Nat} {dl : Option Word} (hme : u.me = t) (hpend : t.pend = [p])
    (hsrc : p.src = .barrier job h dl) (v : Word) :
    (u.endBar job h (t.sid.toNat % 65536) v).me.pend = [{ p with src := .value [v] }] := by
  subst hme
  rw [endBar_eq, State.modStrand, if_pos (Nat.mod_mod _ _).symm]
  exact Strand.endBar_waiting hpend hsrc v

theorem endBar_mem (s : State) (job h sid : Nat) (v : Word) : (s.endBar job h sid v).mem = s.mem := by
  rw [endBar_eq]
  obtain ⟨me, others, hmod, -⟩ := modStrand_eq s sid (Strand.endBar job h v)
  rw [hmod]

theorem exec_barrierRelease {s : State} {x : Barrier} (hx : s.barrier? s.arg.job s.arg.h = some x) : exec .barrierRelease s =
    .next (x.releasing.foldl (fun t sid => t.endBar s.arg.job s.arg.h sid 0) (s.setBarrier { x with releasing := [] })) := by
  rw [exec, execBarrierRelease, hx]

end Sys2Proof.Machine
end

section
/-! PROOFS. Barriers (18_counters). -/

namespace Sys2Proof.Machine

/-- Settles O27: BARCFG adds or takes out one group, an arrival turns the group once at most, and a release ends the BARW of each
strand it names. -/
theorem barrierResult : Obligations.BarrierResult := by
  refine ⟨fun i a b la key o s u hi hcalm hplv ha hb hhandle hu => ⟨fun hbit hok hfree => ?_, fun hbit => ?_⟩,
    fun d a g la key o x s hcalm hg hd ha hstores hhandle hx hdie hcompute hmember => ?_,
    fun s x p bit dl full hx hpend hsrc hbit hclear hheld hnone hnext hfull => ?_, fun s x hx => ?_⟩
  · rw [hu]
    exact barcfg_configures hi hcalm hplv ha hb hhandle hbit hok hfree
  · obtain ⟨-, hobj, -⟩ := id hhandle
    have ⟨_, hpend, _⟩ := State.calm_issue (s.cacheEntry key) 4 hcalm
    obtain ⟨others, hrelease, hended⟩ := releaseBarrier_eq (key / 65536) (key % 65536) hpend
    have hexec := barcfg_releases hi hcalm hplv ha hb hhandle hbit
    rw [hrelease, promise_of_pend_nil 40, finishLong] at hexec
    · refine ⟨_, hexec, ?_, ?_, rfl, rfl, fun x hx w hw v p dl hv hvpend hsrc => ?_⟩
      · have hme := congrArg State.me (issue_result (s.cacheEntry key) hcalm 4 .l0 (s.clk + toW 40))
        rw [hu]
        exact hme
      · rw [hobj]
        exact objAt_setObj _ _ _
      · have hslot : ((s.cacheEntry key).issue 4).strand? w.1 = some v :=
          strand?_of_waiting hcalm.2.1 hv (by rw [hvpend]; exact List.cons_ne_nil _ _) rfl rfl
        obtain ⟨v', hv', hpend'⟩ := hended x hx w hw v p dl hslot hvpend hsrc
        rw [hrelease] at hv'
        exact ⟨v', strand?_of_waiting (by exact hpend) hv' (by rw [hpend']; exact List.cons_ne_nil _ _) rfl rfl, hpend'⟩
    · exact hpend
  · have hexec := exec_barw la hcalm hg hd ha hstores hhandle hx hdie hcompute hmember
    exact ⟨_, hexec, waits_awaiting (s := s) (u := (s.cacheEntry key).issue 4) d _ _ rfl rfl, rfl, rfl⟩
  · subst hbit
    have hturn := arrive_turn (sid := s.me.sid.toNat % 65536) hclear hheld hnone hnext
    rw [← hfull] at hturn
    have hexec := exec_barrierArrival hx hpend hsrc hturn
    have hnamed : x.named s.arg.job s.arg.h = true := named_of_barrier? hx
    refine ⟨fun hstays => ?_, fun d hdl hlate hnot => ?_⟩
    · have hkept : (s.passed dl && !(if full then
          { x with sense := !x.sense, cur := x.nxt, nxt := 0, waitCur := x.waitNxt, waitNxt := []
                   releasing := x.waitCur.map Prod.fst ++ [s.me.sid.toNat % 65536] }
          else { x with cur := setBit x.cur (barBit s.me.homeCore) true
                        waitCur := x.waitCur ++ [(s.me.sid.toNat % 65536, barBit s.me.homeCore)] } : Barrier).releasing.contains
            (s.me.sid.toNat % 65536)) = false := by
        rcases hstays with rfl | rfl
        · rfl
        · simp
      rw [hkept, if_neg Bool.false_ne_true] at hexec
      refine ⟨_, hexec, arrived_me _ _, arrived_mem _ _, arrived_barrier? hx (by split <;> exact hnamed), fun htrue => ?_⟩
      rw [State.arrived, htrue, if_pos rfl, if_neg (by simp)]
      rfl
    · have hwithdrawn : s.passed dl = true := by
        rw [hdl]
        exact decide_eq_true hlate
      rw [hnot, if_neg Bool.false_ne_true, hwithdrawn, hnone, List.contains_nil, Bool.not_false, Bool.and_self,
        if_pos rfl] at hexec
      refine ⟨_, hexec, endBar_self ?_ hpend hsrc 1, (endBar_mem ..).trans (arrived_mem s _)⟩
      exact arrived_me s _
  · obtain ⟨me, others, hfold⟩ := foldl_endBar_eq id s.arg.job s.arg.h 0 x.releasing (s.setBarrier { x with releasing := [] })
    refine ⟨_, exec_barrierRelease hx, ?_, ?_, fun w hw v p dl hv hpend hsrc => ?_⟩
    · simp only [id] at hfold
      rw [hfold]
      rfl
    · simp only [id] at hfold
      rw [hfold]
      have hnamed := named_of_barrier? hx
      exact barrier?_setBarrier hx hnamed
    · exact strand?_foldl_endBar id s.arg.job s.arg.h 0 x.releasing hw hv hpend hsrc

end Sys2Proof.Machine
end

section
/-! SUPPORT. Calls on a replayed object (R249 to R251, R254, R257): the checks of a call word, and what CALLM, CALLQ and CALLW leave
with the issuer, the object and the log home. -/

namespace Sys2Proof.Machine

/-! The replays by key. -/

/-- The object of a key after it has been written. -/
theorem replay?_setReplay {s : State} {key : Nat} {r x : Replay} (h : s.replay? key = some r) (hx : x.key = key) :
    (s.setReplay x).replay? key = some x := by
  have hkeeps : ((fun y : Replay => y.key == key) ∘ fun y => if y.key == x.key then x else y) = fun y => y.key == key := by
    funext y
    dsimp only [Function.comp_apply]
    split
    next hy => rw [beq_iff_eq.mp hy]
    · rfl
  have hr : (r.key == x.key) = true := hx ▸ List.find?_some (p := fun y : Replay => y.key == key) h
  rw [State.replay?] at h
  rw [State.replay?, State.setReplay, List.find?_map, hkeeps, h, Option.map_some, if_pos hr]

theorem updReplay_of {s : State} {key : Nat} {r : Replay} (f : Replay → Replay) (h : s.replay? key = some r) :
    updReplay key f s = .ok ((), s.setReplay (f r)) := by
  rw [updReplay, upd, h]

/-! The checks (R249, R250, R257). -/

section
variable {s : State} {key : Nat} {o : Obj} {r : Replay} (hr : s.replay? key = some r)
include hr

theorem methodOk_of {x : Word} {mutates : Bool} (hkind : methodMutates (r.methods.getD (wbits x 16 6) 0) = mutates)
    (hlt : wbits x 16 6 < o.nmeth) : methodOk key o x mutates s = .ok ((), s) := by
  rw [methodOk, bind_ok _ _ _ _ _ rfl, hr]
  exact need_of_true _ _ (Bool.and_eq_true_iff.mpr ⟨decide_eq_true hlt, beq_iff_eq.mpr hkind⟩)

theorem replicaOk_serves (x : Word) (h : Claims.serves s o r) : replicaOk key o x s = .ok ((), s) := by
  obtain ⟨p, hon, hincl, hsync, hruns⟩ := h
  rw [replicaOk, bind_ok _ _ _ _ _ rfl, hr, Option.bind_some, hon]
  dsimp only
  exact need_of_true _ _ (by rw [hincl, hsync, hruns]; rfl)

theorem replicaOk_excluded (x : Word) (h : o.incl (coreDie s.me.core) = false) :
    replicaOk key o x s = .error (.trap 7 0 x) := by
  rw [replicaOk, bind_ok _ _ _ _ _ rfl, hr, Option.bind_some]
  cases r.on (coreDie s.me.core) with
  | none => rfl
  | some p =>
    dsimp only
    rw [h]
    rfl

end

theorem callObject_issue {s : State} {a : Word} {key : Nat} {right : Right} {o : Obj} (h : Claims.handle s a 6 right key o) :
    callObject a right (s.issue 4) = .ok ((key, o), (s.cacheEntry key).issue 4) := by
  rw [callObject, bind_ok _ _ _ _ _ (ownHandle_issue 4 (by decide) h)]
  obtain ⟨-, rfl, -⟩ := h
  rfl

/-- The release that a call makes is over: of span scope for an object of span scope (R254). -/
theorem released_then {s : State} {far : Bool} (hpend : s.me.pend = []) (h : Claims.releasable s far) (f : Unit → M Unit) :
    (if far then releasedSpan >>= f else released >>= f) s = f () s := by
  obtain ⟨hstores, hfar⟩ := h
  cases far with
  | false => exact bind_ok _ _ _ _ _ (released_empty s hstores hpend)
  | true =>
    obtain ⟨hacked, hnone⟩ := hfar rfl
    exact bind_ok _ _ _ _ _ (by rw [releasedSpan_acked hpend hstores hacked, hnone])

theorem settledO_calm {s : State} (hcalm : s.calm) : settledO s = .ok ((), s) := settled_calm _ s hcalm

/-! CALLM, CALLQ and CALLW (R249 to R251). -/

/-- The packet that takes a call to the log home on another device (R249). -/
def callPacket (key : Nat) (o : Obj) (c : Call) : Packet where
  dev := Config.setDevice (key / 65536) (o.fld 0 32 16) (o.fld 0 48 16)
  job := key / 65536
  kind := 12
  a := key % 65536
  b := c.method
  bytes := leBytes 8 c.sid ++ c.o.toList.flatMap fun w => leBytes 8 w.toNat

/-- The call sent to the log home, here or on another device (R249). -/
def State.callSent (s : State) (key : Nat) (o : Obj) (c : Call) : State :=
  if s.logHere (key / 65536) o then s.due .logAppend { job := key / 65536, h := key % 65536, sid := c.sid }
  else { s with fabric := { s.fabric with out := s.fabric.out ++ [callPacket key o c] } }

/-- A call numbered, with what its strand waits for: the result's registers beside the first one that is owed. -/
def State.numbered (s : State) : State := { s with engines := { s.engines with next := s.engines.next + 1 } }
def State.alsoOwed (s : State) (ds : List Reg) (src : Owe) (la : Nat) : State :=
  { s with me := { s.me with pend := s.me.pend ++ [{ s.me.opened src la (s.me.pc - 4) with dsts := ds }] } }

/-- What CALLM owes its strand, and the call kept with the object until it has reached the log home (R249). -/
def State.callmOwed (s : State) (key : Nat) (r : Replay) (d : Reg) (x : Word) (la : Nat) : State :=
  (((((s.cacheEntry key).issue 4).numbered.awaiting d (.callm (key / 65536) (key % 65536) s.engines.next) la).alsoOwed [.o 0]
    (.query s.engines.next) la).alsoOwed [.pw] (.query s.engines.next) la).setReplay
      { r with sent := r.sent ++ [Claims.callOf s x] }

theorem alsoOwe_eq (ds : List Reg) (src : Owe) (la : Nat) (s : State) : alsoOwe ds src la s = .ok ((), s.alsoOwed ds src la) := rfl
theorem callNumber_eq (s : State) : callNumber s = .ok (s.engines.next, s.numbered) := rfl

section
variable {d a b : Reg} {g : Guard} (la : Look) {key : Nat} {o : Obj} {r : Replay} {s : State} (hcalm : s.calm)
  (hg : s.me.guarded g = true) (hd : d.plain = true) (ha : a.plain = true) (hr : s.replay? key = some r)
include hcalm hg hd ha hr

/-- CALLM checked: its release follows, and then the call (R249, R254). -/
theorem exec_callm_checked (hkind : methodMutates (r.methods.getD (wbits (s.me.src a) 16 6) 0) = true)
    (hlt : wbits (s.me.src a) 16 6 < o.nmeth) (hhandle : Claims.handle s (s.me.src a) 6 .call key o)
    (hserves : Claims.serves s o r) (hrelease : Claims.releasable s o.spanScope) :
    exec (.callm d a g la) s = .next ((s.callmOwed key r d (s.me.src a) la.val).callSent key o
      (Claims.callOf s (s.me.src a))) := by
  have hcalm' := State.calm_issue (s.cacheEntry key) 4 hcalm
  obtain ⟨-, hpend, -⟩ := id hcalm'
  have hr' : ((s.cacheEntry key).issue 4).replay? key = some r := hr
  have hserves' : Claims.serves ((s.cacheEntry key).issue 4) o r := hserves
  have hrelease' : Claims.releasable ((s.cacheEntry key).issue 4) o.spanScope := hrelease
  rw [exec, execCallm, long_calm 4 g _ _ _ s hcalm hg, bind_ok _ _ _ _ _ (rd_issue 4 hcalm ha),
    bind_ok _ _ _ _ _ (settledO_calm (State.calm_issue s 4 hcalm)), bind_ok _ _ _ _ _ (callObject_issue hhandle)]
  dsimp only
  rw [bind_ok _ _ _ _ _ (methodOk_of hr' hkind hlt), bind_ok _ _ _ _ _ (replicaOk_serves hr' _ hserves')]
  rw [released_then hpend hrelease', bind_ok _ _ _ _ _ (destOk_plain hcalm' hd), bind_ok _ _ _ _ _ (pwHere_calm _ hcalm'),
    bind_ok _ _ _ _ _ (callNumber_eq _), bind_ok _ _ _ _ _ rfl,
    bind_ok _ _ _ _ _ (await_one (s := ((s.cacheEntry key).issue 4).numbered) d _ _ hpend), bind_ok _ _ _ _ _ (alsoOwe_eq ..),
    bind_ok _ _ _ _ _ (alsoOwe_eq ..), bind_ok _ _ _ _ _ (updReplay_of (r := r) _ ?_)]
  · rfl
  · exact hr'

end

theorem callSent_here {s : State} {key : Nat} {o : Obj} (c : Call) (h : s.logHere (key / 65536) o = true) :
    s.callSent key o c = s.due .logAppend { job := key / 65536, h := key % 65536, sid := c.sid } := if_pos h

theorem callSent_away {s : State} {key : Nat} {o : Obj} (c : Call) (h : s.logHere (key / 65536) o = false) :
    s.callSent key o c = { s with fabric := { s.fabric with out := s.fabric.out ++ [callPacket key o c] } } :=
  if_neg (Bool.eq_false_iff.mp h)

theorem callSent_frame (s : State) (key : Nat) (o : Obj) (c : Call) : (s.callSent key o c).me = s.me ∧
    (s.callSent key o c).mem = s.mem ∧ (s.callSent key o c).replays = s.replays := by
  rw [State.callSent]
  split <;> exact ⟨rfl, rfl, rfl⟩

section
variable {d a b : Reg} {g : Guard} (la : Look) {key : Nat} {o : Obj} {r : Replay} {s : State} (hcalm : s.calm)
  (hg : s.me.guarded g = true) (ha : a.plain = true) (hr : s.replay? key = some r)
include hcalm hg ha hr

/-- CALLM on an excluded replica (R257). -/
theorem exec_callm_excluded (d : Reg) (hkind : methodMutates (r.methods.getD (wbits (s.me.src a) 16 6) 0) = true)
    (hlt : wbits (s.me.src a) 16 6 < o.nmeth) (hhandle : Claims.handle s (s.me.src a) 6 .call key o)
    (hout : o.incl (coreDie s.me.core) = false) :
    exec (.callm d a g la) s = finishLong 4 la.val [d] none s (.error (.trap 7 0 (s.me.src a))) := by
  have hr' : ((s.cacheEntry key).issue 4).replay? key = some r := hr
  have hout' : o.incl (coreDie ((s.cacheEntry key).issue 4).me.core) = false := hout
  rw [exec, execCallm, long_calm 4 g _ _ _ s hcalm hg, bind_ok _ _ _ _ _ (rd_issue 4 hcalm ha),
    bind_ok _ _ _ _ _ (settledO_calm (State.calm_issue s 4 hcalm)), bind_ok _ _ _ _ _ (callObject_issue hhandle)]
  dsimp only
  rw [bind_ok _ _ _ _ _ (methodOk_of hr' hkind hlt), bind_error _ (replicaOk_excluded hr' _ hout')]

variable (hb : b.plain = true)
include hb

/-- CALLQ checked: the query joins the object's, and the result and p15 are owed (R250). -/
theorem exec_callq_checked (hd : d.plain = true) (hkind : methodMutates (r.methods.getD (wbits (s.me.src a) 16 6) 0) = false)
    (hlt : wbits (s.me.src a) 16 6 < o.nmeth) (hhandle : Claims.handle s (s.me.src a) 6 .call key o)
    (hserves : Claims.serves s o r) : exec (.callq d a b g la) s = .next
      ((((((s.cacheEntry key).issue 4).numbered.awaiting d (.query s.engines.next) la.val).alsoOwed [.pw]
        (.query s.engines.next) la.val).setReplay { r with queries := r.queries ++
          [{ call := Claims.callOf s (s.me.src a), floor := (s.me.src b).toNat, wait := false, a := s.me.src a }] })) := by
  have hcalm' := State.calm_issue (s.cacheEntry key) 4 hcalm
  obtain ⟨-, hpend, -⟩ := id hcalm'
  have hr' : ((s.cacheEntry key).issue 4).replay? key = some r := hr
  have hserves' : Claims.serves ((s.cacheEntry key).issue 4) o r := hserves
  rw [exec, execCallq, long_calm 4 g _ _ _ s hcalm hg, bind_ok _ _ _ _ _ (rd2_issue 4 hcalm ha hb)]
  dsimp only
  rw [bind_ok _ _ _ _ _ (settledO_calm (State.calm_issue s 4 hcalm)), bind_ok _ _ _ _ _ (callObject_issue hhandle)]
  dsimp only
  rw [bind_ok _ _ _ _ _ (methodOk_of hr' hkind hlt), bind_ok _ _ _ _ _ (replicaOk_serves hr' _ hserves'),
    bind_ok _ _ _ _ _ (destOk_plain hcalm' hd), bind_ok _ _ _ _ _ (pwHere_calm _ hcalm'),
    bind_ok _ _ _ _ _ (callNumber_eq _), bind_ok _ _ _ _ _ rfl,
    bind_ok _ _ _ _ _ (await_one (s := ((s.cacheEntry key).issue 4).numbered) d _ _ hpend), bind_ok _ _ _ _ _ (alsoOwe_eq ..),
    updReplay_of (r := r) _ ?_]
  · rfl
  · exact hr'

theorem exec_callq_excluded (d : Reg) (hkind : methodMutates (r.methods.getD (wbits (s.me.src a) 16 6) 0) = false)
    (hlt : wbits (s.me.src a) 16 6 < o.nmeth) (hhandle : Claims.handle s (s.me.src a) 6 .call key o)
    (hout : o.incl (coreDie s.me.core) = false) :
    exec (.callq d a b g la) s = finishLong 4 la.val [d] none s (.error (.trap 7 0 (s.me.src a))) := by
  have hr' : ((s.cacheEntry key).issue 4).replay? key = some r := hr
  have hout' : o.incl (coreDie ((s.cacheEntry key).issue 4).me.core) = false := hout
  rw [exec, execCallq, long_calm 4 g _ _ _ s hcalm hg, bind_ok _ _ _ _ _ (rd2_issue 4 hcalm ha hb)]
  dsimp only
  rw [bind_ok _ _ _ _ _ (settledO_calm (State.calm_issue s 4 hcalm)), bind_ok _ _ _ _ _ (callObject_issue hhandle)]
  dsimp only
  rw [bind_ok _ _ _ _ _ (methodOk_of hr' hkind hlt), bind_error _ (replicaOk_excluded hr' _ hout')]

/-- CALLW checked: it waits for its floor as a query does (R251). -/
theorem exec_callw_checked (hhandle : Claims.handle s (s.me.src a) 6 .read key o) (hserves : Claims.serves s o r) :
    exec (.callw a b g la) s = .next
      ((((s.cacheEntry key).issue 4).numbered.alsoOwed [] (.query s.engines.next) la.val).setReplay { r with queries := r.queries ++
        [{ call := Claims.callOf s (s.me.src a), floor := (s.me.src b).toNat, wait := true, a := s.me.src a }] }) := by
  have hr' : ((s.cacheEntry key).issue 4).replay? key = some r := hr
  have hserves' : Claims.serves ((s.cacheEntry key).issue 4) o r := hserves
  rw [exec, execCallw, long_calm 4 g _ _ _ s hcalm hg, bind_ok _ _ _ _ _ (rd2_issue 4 hcalm ha hb)]
  dsimp only
  rw [bind_ok _ _ _ _ _ (callObject_issue hhandle)]
  dsimp only
  rw [bind_ok _ _ _ _ _ (replicaOk_serves hr' _ hserves'), bind_ok _ _ _ _ _ (callNumber_eq _), bind_ok _ _ _ _ _ rfl,
    bind_ok _ _ _ _ _ (alsoOwe_eq ..), updReplay_of (r := r) _ ?_]
  · rfl
  · exact hr'

theorem exec_callw_excluded (hhandle : Claims.handle s (s.me.src a) 6 .read key o)
    (hout : o.incl (coreDie s.me.core) = false) :
    exec (.callw a b g la) s = finishLong 4 la.val [] none s (.error (.trap 7 0 (s.me.src a))) := by
  have hr' : ((s.cacheEntry key).issue 4).replay? key = some r := hr
  have hout' : o.incl (coreDie ((s.cacheEntry key).issue 4).me.core) = false := hout
  rw [exec, execCallw, long_calm 4 g _ _ _ s hcalm hg, bind_ok _ _ _ _ _ (rd2_issue 4 hcalm ha hb)]
  dsimp only
  rw [bind_ok _ _ _ _ _ (callObject_issue hhandle)]
  dsimp only
  rw [bind_error _ (replicaOk_excluded hr' _ hout')]

end

end Sys2Proof.Machine
end

section
/-! PROOFS. Replayed objects (14_replayed_objects). -/

namespace Sys2Proof.Machine

/-- Settles O41: each call is checked, numbered and left with the object; where the die's replica is excluded the check fails. -/
theorem replayedCallResult : Obligations.ReplayedCallResult := by
  intro d a b g la key o r s hcalm hg hd ha hb hr hkey
  have hpend : s.me.pend = [] := hcalm.2.1
  refine ⟨fun mutates hmutates hlt hhandle => ⟨fun hkind hserves hrelease => ?callm, fun hkind hserves => ?callq,
    fun hout => ⟨fun hkind => ?callmOut, fun hkind => ?callqOut⟩⟩, fun hhandle => ⟨fun hserves => ?callw,
    exec_callw_excluded la hcalm hg ha hr hb hhandle⟩⟩
  case callm =>
    have hexec := exec_callm_checked la hcalm hg hd ha hr (hmutates.symm.trans hkind) hlt hhandle hserves hrelease
    obtain ⟨hme, hmem, hreplays⟩ := callSent_frame (s.callmOwed key r d (s.me.src a) la.val) key o
      (Claims.callOf s (s.me.src a))
    refine ⟨_, _, _, _, hexec, (congrArg Strand.pend hme).trans rfl, rfl, rfl, rfl, rfl, rfl, rfl, ?_, hmem, fun hnear => ?_,
      fun hfar => ?_⟩
    · rw [State.replay?, hreplays]
      exact replay?_setReplay (s := s) hr hkey
    · rw [callSent_here _ (by exact hnear)]
      exact ⟨rfl, rfl⟩
    · rw [callSent_away _ (by exact hfar)]
      exact ⟨rfl, List.map_append⟩
  case callq =>
    refine ⟨_, _, _, exec_callq_checked la hcalm hg ha hr hb hd (hmutates.symm.trans hkind) hlt hhandle hserves, rfl, rfl, rfl, rfl,
      rfl, rfl, replay?_setReplay (s := s) hr hkey⟩
  case callmOut => exact exec_callm_excluded la hcalm hg ha hr d (hmutates.symm.trans hkind) hlt hhandle hout
  case callqOut => exact exec_callq_excluded la hcalm hg ha hr hb d (hmutates.symm.trans hkind) hlt hhandle hout
  case callw =>
    have hnone : ((s.cacheEntry key).issue 4).numbered.me.pend = [] := (State.calm_issue (s.cacheEntry key) 4 hcalm).2.1
    exact ⟨_, _, exec_callw_checked la hcalm hg ha hr hb hhandle hserves, congrArg (fun l : List Pending => l ++ [_]) hnone,
      rfl, rfl, rfl, rfl, replay?_setReplay (s := s) hr hkey⟩

end Sys2Proof.Machine
end

section
/-! SUPPORT. Accesses to another device and what their answers do (R26, R284, R298). -/

namespace Sys2Proof.Machine

/-! A load that goes to another device (R284). -/

theorem findTag_congr {s t : State} (hfabric : t.fabric = s.fabric) (hclk : t.clk = s.clk) (base n i : Nat) :
    t.findTag base n i = s.findTag base n i := by
  induction n generalizing i with
  | zero => rfl
  | succ n ih => rw [State.findTag, State.findTag, ih, State.tagFree, State.tagFree, hfabric, hclk]

/-- The bytes of a hit list all lie on one other device, in pages of one kind. -/
def remoteAll (dev : Nat) (h : Hit) (hs : List Hit) : Prop := ∀ y ∈ hs, (∃ va, y.loc = .remote dev va) ∧ y.so = h.so

section
variable {dev : Nat} {h : Hit} {hs : List Hit} (hway : remoteAll dev h hs)
include hway

theorem remoteAll_tail {x : Hit} {r : List Hit} (hx : hs = x :: r) : remoteAll dev h r :=
  fun y hy => hway y (hx ▸ List.mem_cons_of_mem _ hy)

theorem readable_remote : hs.all Hit.readable = true :=
  List.all_eq_true.mpr fun y hy => by
    obtain ⟨⟨va, hloc⟩, -⟩ := hway y hy
    rw [Hit.readable, hloc]

theorem rep?_remote : hs.filterMap Hit.rep? = [] :=
  List.filterMap_eq_nil_iff.mpr fun y hy => by
    obtain ⟨⟨va, hloc⟩, -⟩ := hway y hy
    rw [Hit.rep?, hloc]

theorem runLen_remote : ∀ x, (∃ va, x.loc = .remote dev va) → x.so = h.so → runLen x hs = hs.length := by
  intro x hx hso
  induction hs with
  | nil => rfl
  | cons y r ih =>
    obtain ⟨⟨va, hloc⟩, hyso⟩ := hway y List.mem_cons_self
    obtain ⟨vx, hxloc⟩ := hx
    have hsame : sameWay x y = true := by
      rw [sameWay, hso, hyso, hxloc, hloc, beq_self_eq_true, Bool.true_and]
      exact beq_self_eq_true dev
    rw [runLen, if_pos hsame, ih (remoteAll_tail hway rfl), List.length_cons]

end

/-- The run of bytes of another device, and how far its read has come. -/
def farRun (tval : Word) (dev : Nat) (hs : List Hit) (rd : Read) : Run :=
  { tval, dev, vas := hs.filterMap fun y => y.away?.map Prod.snd, rep := [], rd }

section
variable {dev : Nat} {h : Hit} {r : List Hit} (hway : remoteAll dev h (h :: r))
include hway

theorem away_remote (s : State) : (h :: r).any (Hit.away s) = true := by
  obtain ⟨⟨va, hloc⟩, -⟩ := hway h List.mem_cons_self
  rw [List.any_cons, Hit.away, hloc, Bool.true_or]

theorem readElem_remote (tval : Word) {s : State} (hopen : (h :: r).any (Hit.open s) = false) :
    readElem tval (h :: r) s = .ok ({ runs := [farRun tval dev (h :: r) .todo] }, s) := by
  obtain ⟨⟨va, hloc⟩, -⟩ := id (hway h List.mem_cons_self)
  have hruns : runsOf (h :: r).length (h :: r) = [h :: r] := by
    rw [List.length_cons, runsOf, runLen_remote (remoteAll_tail hway rfl) h ⟨va, hloc⟩ rfl, List.take_length, List.drop_length]
    cases r <;> rfl
  have hread : readRun tval (h :: r) s = .ok (farRun tval dev (h :: r) .todo, s) := by
    have hdev : (((h :: r).head?.bind Hit.away?).map Prod.fst).getD 0 = dev := by
      rw [List.head?_cons, Option.bind_some, Hit.away?, hloc]
      rfl
    simp only [readRun, readable_remote hway, away_remote hway, hopen, hdev, rep?_remote hway, Bool.not_true,
      Bool.false_eq_true, if_false, if_true, farRun]
  rw [readElem, hruns, readRuns, bind_ok _ _ _ _ _ (bind_ok _ _ _ _ _ hread)]
  rfl

end

/-- The request of a load, and the state that has sent it (R284, R298). -/
def State.loadReq (s : State) (dev k : Nat) (vas : List Nat) : Req where
  die := coreDie s.me.core
  sid := s.me.sid.toNat
  gen := s.gen k
  dev := dev
  job := s.me.job.toNat
  va := vas.headD 0
  vas := vas
  kind := 0
  t := s.clk
  bytes := []
  rep := []
  n := 0

def State.loadSent (s : State) (dev k : Nat) (vas : List Nat) : State :=
  State.due { s with fabric := { s.fabric with
    reqs := SMap.put k (s.loadReq dev k vas) s.fabric.reqs
    out := s.fabric.out ++ [({ dev, job := s.me.job.toNat, kind := packetKind 0, a := vas.headD 0, b := k
                               bytes := [] } : Packet)] } }
    .resultArrival { sid := s.me.sid.toNat, n := k, m := s.gen k, flag := true }

theorem request_load {s : State} {dev k : Nat} (vas : List Nat) (hdev : dev < 0xF000)
    (hk : s.findTag (coreDie s.me.core * 4096) 4096 0 = some k) :
    s.request dev s.me.job.toNat vas 0 [] [] = some (k, s.loadSent dev k vas) := by
  simp only [State.request, hk, if_neg (Nat.not_le.mpr hdev)]
  rfl

theorem askAll_load {s : State} {dev k : Nat} (so : Bool) (tval : Word) (hs : List Hit) (hdev : dev < 0xF000)
    (hk : s.findTag (coreDie s.me.core * 4096) 4096 0 = some k) :
    askAll so [some { runs := [farRun tval dev hs .todo] }] s =
      .ok ([some { runs := [farRun tval dev hs (.asked k)] }], s.loadSent dev k (farRun tval dev hs .todo).vas) := by
  have hask : askRun s.me.job.toNat so (false, s) (farRun tval dev hs .todo) =
      (farRun tval dev hs (.asked k), (true, s.loadSent dev k (farRun tval dev hs .todo).vas)) := by
    rw [askRun, if_pos (by rw [Bool.and_false]; rfl)]
    have hsend := request_load (farRun tval dev hs .todo).vas hdev hk
    have hreq : (false, s).2.request (farRun tval dev hs .todo).dev s.me.job.toNat (farRun tval dev hs .todo).vas 0 []
        (farRun tval dev hs .todo).rep = some (k, s.loadSent dev k (farRun tval dev hs .todo).vas) := hsend
    rw [hreq]
    rfl
  simp only [askAll, askElems, askRuns, hask, Bool.not_true, Bool.and_false, Bool.false_eq_true, if_false]

theorem claims_of_pend_nil {t : Strand} (ds : List Reg) (h : t.pend = []) : t.claims ds = t := by
  induction ds with
  | nil => rfl
  | cons d ds ih => exact (congrArg (fun u : Strand => u.claims ds) (claim_of_pend_nil d h)).trans ih

theorem await_calm {s : State} (ds : List Reg) (src : Owe) (la : Nat) (hpend : s.me.pend = []) :
    await ds src la s = .ok ((), s.open ds src la (s.me.pc - 4)) := by
  rw [await, bind_ok _ _ _ _ _ rfl, claims_of_pend_nil ds hpend]
  rfl

/-- The open instructions of the strand marked as accesses to SO pages (R285). -/
def State.markedSo (s : State) (so : Bool) : State :=
  { s with me := { s.me with pend := s.me.pend.map fun p => if so then { p with so := true } else p } }

theorem markSo_single {s : State} {p : Pending} (hs : List Hit) (hpend : s.me.pend = [p]) :
    markSo hs s = .ok ((), s.markedSo (hs.any Hit.so)) := by
  unfold markSo updMe State.markedSo
  cases hs.any Hit.so with
  | true =>
    simp only [if_true, hpend]
    rfl
  | false =>
    simp only [Bool.false_eq_true, if_false, List.map_id']

theorem countFirst_remote {dev va : Nat} {h : Hit} (r : List Hit) (s : State) (hloc : h.loc = .remote dev va) :
    countFirst (h :: r) s = .ok ((), s) := by
  rw [countFirst, countAccess, hloc]

theorem destsOk_plain {s : State} (hcalm : s.calm) {ds : List Reg} (hds : ds.all Reg.plain = true) :
    destsOk ds s = .ok ((), s) := by
  induction ds with
  | nil => rfl
  | cons d ds ih =>
    obtain ⟨hd, hrest⟩ := Bool.and_eq_true_iff.mp hds
    rw [destsOk, bind_ok _ _ _ _ _ (destOk_plain hcalm hd), ih hrest]

/-- What a load that goes to another device leaves: the request, and its registers owed the answer. -/
def State.loadOwed (s : State) (ds : List Reg) (sx so : Bool) (la dev k : Nat) (tval : Word) (hs : List Hit) : State :=
  ((s.loadSent dev k (farRun tval dev hs .todo).vas).open ds
    (.fetch [some { runs := [farRun tval dev hs (.asked k)] }] (.scalar sx)) la (s.me.pc - 4)).markedSo so

theorem open_of_pend_nil {s : State} (ds : List Reg) (src : Owe) (la : Nat) (xpc : BitVec 48) (hpend : s.me.pend = []) :
    (s.open ds src la xpc).me.pend = [{ s.me.opened src la xpc with
      dsts := ds.filter Reg.kept, lands := landsOf ds, own := ds.length, sh := ds.length }] := by
  simp only [State.open, shifts, hpend, List.map_nil, List.nil_append]

/-- A load whose checked bytes lie on another device (R284, R298). -/
theorem loadAt_remote {ds : List Reg} {size la dev k : Nat} {sx : Bool} {a : Addr} {h : Hit} {r : List Hit} {s s1 : State}
    (hcalm : s1.calm) (hds : ds.all Reg.plain = true) (hcheck : check rR a size s = .ok (h :: r, s1))
    (hfree : soFree (h :: r) s1 = .ok ((), s1)) (hway : remoteAll dev h (h :: r)) (hopen : (h :: r).any (Hit.open s1) = false)
    (hdev : dev < 0xF000) (hk : s1.findTag (coreDie s1.me.core * 4096) 4096 0 = some k) :
    loadAt ds size sx la a s = .ok ((), s1.loadOwed ds sx ((h :: r).any Hit.so) la dev k a.tval (h :: r)) := by
  obtain ⟨⟨va, hloc⟩, -⟩ := id (hway h List.mem_cons_self)
  obtain ⟨-, hpend, -⟩ := id hcalm
  rw [loadAt, bind_ok _ _ _ _ _ hcheck, bind_ok _ _ _ _ _ (nearHome_calm _ hcalm), bind_ok _ _ _ _ _ hfree,
    bind_ok _ _ _ _ _ rfl, if_pos (away_remote hway _), bind_ok _ _ _ _ _ (destsOk_plain hcalm hds),
    bind_ok _ _ _ _ _ (readElem_remote hway _ hopen), bind_ok _ _ _ _ _ (askAll_load _ _ _ hdev hk),
    bind_ok _ _ _ _ _ (await_calm ds _ la (by exact hpend)),
    bind_ok _ _ _ _ _ (markSo_single _ (open_of_pend_nil ds _ la _ (by exact hpend)))]
  exact countFirst_remote r _ hloc

/-- The facts of what it leaves. -/
theorem loadOwed_facts {s : State} (ds : List Reg) (sx so : Bool) (la dev k : Nat) (tval : Word) (hs : List Hit)
    (hpend : s.me.pend = []) :
    ∃ p : Pending, (s.loadOwed ds sx so la dev k tval hs).me.pend = [p] ∧ p.left = la ∧ p.dsts = ds.filter Reg.kept ∧
      p.src = .fetch [some { runs := [farRun tval dev hs (.asked k)] }] (.scalar sx) := by
  have hmap : (s.loadOwed ds sx so la dev k tval hs).me.pend = _ :=
    congrArg (List.map fun p : Pending => if so then { p with so := true } else p)
      (open_of_pend_nil (s := s.loadSent dev k (farRun tval dev hs .todo).vas) ds
        (.fetch [some { runs := [farRun tval dev hs (.asked k)] }] (.scalar sx)) la (s.me.pc - 4) (by exact hpend))
  cases so with
  | false => exact ⟨_, hmap, rfl, rfl, rfl⟩
  | true => exact ⟨_, hmap, rfl, rfl, rfl⟩

/-! The answer of a load (R26, R284). -/

/-- A load of one run with its tag's answer. -/
def Pending.answered (p : Pending) (u : Run) (how : Shape) (x : Read) : Pending :=
  { p with src := .fetch [some { runs := [{ u with rd := x }] }] how }

theorem answer_single {k : Nat} {p : Pending} {u : Run} {how : Shape} (x : Read)
    (hsrc : p.src = .fetch [some { runs := [u] }] how) (hrd : u.rd = .asked k) : p.answer k x = p.answered u how x := by
  have hrun : u.answer k x = { u with rd := x } := by rw [Run.answer, if_pos hrd]
  rw [Pending.answer, hsrc]
  simp only [List.map_cons, List.map_nil, Option.map_some, Elem.answer, hrun, Pending.answered]

/-- A read that has come: the load delivers its value. -/
theorem goOn_got {s : State} {p : Pending} {u : Run} {sx : Bool} {i : Fin 6} (bs : List Byte) (hown : p.own = 1)
    (howes : Claims.owesO p i) :
    goOn s (p.answered u (.scalar sx) (.got bs)) { s.me with pend := [] } =
      { s with me := Claims.paid s.me i (extend sx bs.length (leNat bs)) } := by
  obtain ⟨hdsts, hlands⟩ := howes
  have hdeliver : deliverFetch (p.answered u (.scalar sx) (.got bs)) [some { runs := [{ u with rd := .got bs }] }] (.scalar sx)
      { s with me := { s.me with pend := [] } } =
      .ok ((), { s with me := Claims.paid s.me i (extend sx bs.length (leNat bs)) }) := by
    rw [deliverFetch, bind_ok _ _ _ _ _ rfl]
    have hvalues : loadValues (p.answered u (.scalar sx) (.got bs)).own sx bs = [extend sx bs.length (leNat bs)] := by
      rw [loadValues, if_neg (by rw [show (p.answered u (.scalar sx) (.got bs)).own = 1 from hown]; decide)]
    have hbytes : ([some { runs := [{ u with rd := .got bs }] }] : List (Option Elem)).flatMap
        (fun e => (e.map Elem.bytes).getD []) = bs := by
      simp [Elem.bytes]
    dsimp only
    rw [hbytes, hvalues, deliver]
    dsimp only [Pending.answered]
    rw [hdsts, hlands]
    rfl
  have hgo : goOn s (p.answered u (.scalar sx) (.got bs)) { s.me with pend := [] } =
      match deliverFetch (p.answered u (.scalar sx) (.got bs)) [some { runs := [{ u with rd := .got bs }] }] (.scalar sx)
        { s with me := { s.me with pend := [] } } with
      | .ok (_, t) => t
      | .error x => undelivered s (p.answered u (.scalar sx) (.got bs)) (p.answered u (.scalar sx) (.got bs)).src x := rfl
  rw [hgo, hdeliver]

/-- A read that is lost: the load faults at the end of its window. -/
theorem goOn_lost {s : State} {p : Pending} {u : Run} {sx : Bool} (cls detail : Nat) (t : Strand)
    (hpend : s.me.pend = [p.answered u (.scalar sx) (.lost cls detail)]) :
    goOn s (p.answered u (.scalar sx) (.lost cls detail)) t =
      { s with me := { s.me with pend := [p.fail (.fault cls detail u.tval)] } } := by
  exact swapPend_single hpend _

/-- The answer put into a load of one run, which then goes on. -/
theorem loadReply_single {s : State} {k : Nat} {q : Req} {p : Pending} {u : Run} {sx : Bool} {x : Read}
    (hx : (s.reqFault q).elim (.got (s.mem.getAll q.keys)) (fun cls => .lost cls 0) = x) (hrep : q.rep = []) (hsid : q.sid = s.me.sid.toNat) (hpend : s.me.pend = [p])
    (hsrc : p.src = .fetch [some { runs := [u] }] (.scalar sx)) (hrd : u.rd = .asked k) :
    loadReply s k q = goOn { s.dropReq k with me := s.me.answer k x (toW q.va) } (p.answered u (.scalar sx) x)
      { s.me.answer k x (toW q.va) with pend := [] } := by
  have hfill : (if (s.reqFault q).isNone then s.fillLines q.dev q.job (q.vas.zip q.rep) else s) = s := by
    rw [hrep, List.zip_nil_right]
    exact ite_self s
  have hasks : p.asks k = true := by
    rw [Pending.asks, hsrc]
    simp [asksFor, runsIn, hrd]
  have hmine : s.me.pend.find? (Pending.asks k) = some p := by rw [hpend, List.find?_singleton, if_pos hasks]
  have hfocus : (s.dropReq k).focus q.sid = s.dropReq k := hsid ▸ focus_self (s.dropReq k)
  have htake : takePend (· == p.answered u (.scalar sx) x) (s.me.answer k x (toW q.va)) =
      some (p.answered u (.scalar sx) x, { s.me.answer k x (toW q.va) with pend := [] }) := by
    refine takePend_single ?_ (beq_self_eq_true _)
    rw [Strand.answer, hpend, List.map_singleton, answer_single x hsrc hrd]
  have hme : (s.dropReq k).me = s.me := rfl
  unfold loadReply
  cases hfault : s.reqFault q
  all_goals
    rw [hfault] at hx hfill
    subst hx
    simp only [hfill, hfocus, hme, hmine, answer_single _ hsrc hrd]
    rw [if_pos (by rfl)]
    split
    · next h => cases h.symm.trans htake
    · next h =>
      cases h.symm.trans htake
      rfl

/-! The parts of a load's answer, of a time-out and of an acknowledgement (R26, R298). -/

theorem exec_resultArrival_reply {s : State} {q : Req} (hflag : s.arg.flag = true)
    (hreq : SMap.find s.arg.n s.fabric.reqs = some q) (hgen : q.gen = s.arg.m) (hkind : q.kind = 0) :
    exec .resultArrival s = .next (loadReply s s.arg.n q) := by
  rw [exec, execResultArrival, if_pos hflag]
  simp only [hreq, if_neg (not_not_intro hgen), if_pos hkind]

theorem reqFault_good {s : State} {q : Req} (hgood : ∀ k ∈ q.keys, s.badAt k = false) :
    s.reqFault q = if Config.farRefuses s.ticks then some 5 else none := by
  have hany : q.keys.any s.badAt = false := List.any_eq_false.mpr fun k hk => Bool.not_eq_true _ ▸ hgood k hk
  rw [State.reqFault, hany]
  rfl

/-- RESULT_ARRIVAL of a request's answer (R26, R298). -/
theorem answer_delivers {s : State} {q : Req} {p : Pending} {u : Run} {sx : Bool} {i : Fin 6} (hflag : s.arg.flag = true)
    (hreq : SMap.find s.arg.n s.fabric.reqs = some q) (hgen : q.gen = s.arg.m) (hkind : q.kind = 0) (hrep : q.rep = [])
    (hsid : q.sid = s.me.sid.toNat) (hpend : s.me.pend = [p]) (hsrc : p.src = .fetch [some { runs := [u] }] (.scalar sx))
    (hrd : u.rd = .asked s.arg.n) (hown : p.own = 1) (howes : Claims.owesO p i) (hgood : ∀ k ∈ q.keys, s.badAt k = false) :
    ∃ (t : State) (v : Word), exec .resultArrival s = .next t ∧ v = extend sx q.keys.length (leNat (s.mem.getAll q.keys)) ∧
       t.fabric.reqs = SMap.del s.arg.n s.fabric.reqs ∧ t.mem = s.mem ∧
       (if Config.farRefuses s.ticks then t.me.pend = [p.fail (.fault 5 0 u.tval)] ∧ t.me.o = s.me.o
        else t.me.pend = [] ∧ t.me.l0 = v ∧ t.me.o = s.me.o.set i v) := by
  have hexec := exec_resultArrival_reply hflag hreq hgen hkind
  have hfault := reqFault_good hgood
  by_cases hrefuses : Config.farRefuses s.ticks = true
  · rw [if_pos hrefuses] at hfault
    have hpend' : (s.me.answer s.arg.n (.lost 5 0) (toW q.va)).pend = [p.answered u (.scalar sx) (.lost 5 0)] := by
      rw [Strand.answer, hpend, List.map_singleton, answer_single _ hsrc hrd]
    rw [loadReply_single (x := .lost 5 0) (by rw [hfault]; rfl) hrep hsid hpend hsrc hrd, goOn_lost 5 0 _ (by exact hpend')] at hexec
    exact ⟨_, _, hexec, rfl, rfl, rfl, by rw [if_pos hrefuses]; exact ⟨rfl, rfl⟩⟩
  · rw [if_neg hrefuses] at hfault
    have hlen : (s.mem.getAll q.keys).length = q.keys.length := List.length_map ..
    rw [loadReply_single (x := .got (s.mem.getAll q.keys)) (by rw [hfault]; rfl) hrep hsid hpend hsrc hrd,
      goOn_got _ hown howes, hlen] at hexec
    exact ⟨_, _, hexec, rfl, rfl, rfl, by rw [if_neg hrefuses]; exact ⟨rfl, rfl, rfl⟩⟩

/-- REQUEST_TIMEOUT of a load (R298). -/
theorem timeout_loses {s : State} {q : Req} {p : Pending} {u : Run} {how : Shape}
    (hreq : SMap.find s.arg.n s.fabric.reqs = some q) (hkind : q.kind = 0) (hsid : q.sid = s.me.sid.toNat)
    (hpend : s.me.pend = [p]) (hsrc : p.src = .fetch [some { runs := [u] }] how) (hrd : u.rd = .asked s.arg.n) :
    ∃ t, exec .requestTimeout s = .next t ∧ t.me.pend = [p.answered u how (.lost 8 0)] ∧
      t.fabric.reqs = SMap.del s.arg.n s.fabric.reqs ∧
      t.fabric.gens = SMap.put s.arg.n ((q.gen + 1) % 16) s.fabric.gens := by
  have hexec : exec .requestTimeout s =
      .next ((s.giveUp s.arg.n q).modStrand q.sid (Strand.answer s.arg.n (.lost 8 0) (toW q.va))) := by
    rw [exec, execRequestTimeout]
    simp only [hreq, if_pos hkind]
  have hme : (s.giveUp s.arg.n q).me.sid.toNat % 65536 = q.sid % 65536 := by rw [hsid]; rfl
  rw [State.modStrand, if_pos hme] at hexec
  refine ⟨_, hexec, ?_, rfl, rfl⟩
  have hpend' : (s.giveUp s.arg.n q).me.pend = [p] := hpend
  dsimp only [Strand.answer]
  rw [hpend', List.map_singleton, answer_single _ hsrc hrd]

/-- RESULT_ARRIVAL of a load that is lost (R298). -/
theorem exec_resultArrival_lost {s : State} {p : Pending} {u : Run} {sx : Bool} {cls detail : Nat} (hflag : s.arg.flag = false)
    (hpend : s.me.pend = [p]) (hsrc : p.src = .fetch [some { runs := [u] }] (.scalar sx)) (hrd : u.rd = .lost cls detail) :
    exec .resultArrival s = .next { s with me := { s.me with pend := [p.fail (.fault cls detail u.tval)] } } := by
  have hp : p = p.answered u (.scalar sx) (.lost cls detail) := by
    rw [Pending.answered, ← hrd, ← hsrc]
  have hvalue : takePend Pending.isValue s.me = none := by
    rw [takePend, hpend, pull, if_neg (by rw [Pending.isValue, hsrc]; exact Bool.false_ne_true)]
    rfl
  have hgoes : takePend Pending.goesOn s.me = some (p, { s.me with pend := [] }) :=
    takePend_single hpend (by rw [hp]; rfl)
  rw [exec, execResultArrival, if_neg (Bool.eq_false_iff.mp hflag)]
  simp only [hvalue, hgoes]
  rw [hp] at hpend ⊢
  exact congrArg _ (goOn_lost cls detail _ hpend)

theorem settleWrites_of_pend_nil {s : State} (hpend : s.me.pend = []) : s.settleWrites s.me.sid.toNat = s := by
  rw [State.settleWrites, State.modStrand, if_pos rfl, hpend, List.filter_nil, ← hpend]

/-- The instruction that waits for one acknowledgement completes with it (R298). -/
theorem closeReq_acks {s : State} {k : Nat} {q : Req} {p : Pending} (hsid : q.sid = s.me.sid.toNat) (hpend : s.me.pend = [p])
    (hsrc : p.src = .acks [k]) : s.closeReq k q = { s.dropReq k with me := { s.me with pend := [] } } := by
  have hacked : p.acked k = none := by
    rw [Pending.acked, hsrc]
    simp
  have hmod : (s.dropReq k).modStrand q.sid (fun t => { t with pend := t.pend.filterMap (Pending.acked k) }) =
      { s.dropReq k with me := { s.me with pend := [] } } := by
    have hme : (s.dropReq k).me = s.me := rfl
    rw [State.modStrand, hme, if_pos (by rw [hsid]), hpend, List.filterMap_cons_none hacked, List.filterMap_nil]
  rw [State.closeReq, hmod, hsid]
  exact settleWrites_of_pend_nil (s := { s.dropReq k with me := { s.me with pend := [] } }) rfl

theorem serveReq_store {s : State} {q : Req} (hfault : s.reqFault q = none) (hkind : q.kind = 1) (hrep : q.rep = []) :
    s.serveReq q = s.setCells (q.keys.zip q.bytes) := by
  have hfault' : ∀ cs, (s.setCells cs).reqFault q = none := fun _ => hfault
  unfold State.serveReq
  simp only [hfault, hfault', hkind, hrep]
  rfl

theorem serveReq_refused {s : State} {q : Req} (hfault : s.reqFault q = some 5) : s.serveReq q = s := by
  unfold State.serveReq
  simp only [hfault]
  rfl

/-- A store that fails is reported to its strand (R137, R284). -/
theorem failReq_store {s : State} {k : Nat} {q : Req} {p : Pending} (cls : Nat) (hkind : q.kind = 1)
    (hsid : q.sid = s.me.sid.toNat) (hpend : s.me.pend = [p]) (hsrc : p.src = .acks [k]) :
    s.failReq k q cls = { s.dropReq k with me := { s.me with
      pend := [], storeErr := some (s.me.storeErr.getD (cls, toW q.va)) } } := by
  have hstore : ¬ (q.kind = 2 ∨ q.kind = 3 ∨ q.kind = 4) := by rw [hkind]; decide
  unfold State.failReq
  rw [if_neg hstore, closeReq_acks hsid hpend hsrc, State.modStrand, if_pos (by rw [hsid])]

/-- ACKNOWLEDGEMENT_ARRIVAL of a store (R284, R298). -/
theorem ack_performs {s : State} {q : Req} {p : Pending} (hreq : SMap.find s.arg.n s.fabric.reqs = some q)
    (hgen : q.gen = s.arg.m) (hkind : q.kind = 1) (hrep : q.rep = []) (hsid : q.sid = s.me.sid.toNat) (hpend : s.me.pend = [p])
    (hsrc : p.src = .acks [s.arg.n]) (hgood : ∀ k ∈ q.keys, s.badAt k = false) :
    exec .acknowledgementArrival s = .next { s with
       me := if Config.farRefuses s.ticks then { s.me with pend := [], storeErr := some (s.me.storeErr.getD (5, toW q.va)) }
             else { s.me with pend := [] }
       mem := if Config.farRefuses s.ticks then s.mem else s.mem.setAll (q.keys.zip q.bytes)
       fabric := { s.fabric with reqs := SMap.del s.arg.n s.fabric.reqs } } := by
  have hfault := reqFault_good hgood
  have hnone : ¬ (q.kind = 5 ∨ q.kind = 6) := by rw [hkind]; decide
  rw [exec, execAcknowledgementArrival]
  simp only [hreq, if_pos hgen, if_neg hnone]
  by_cases hrefuses : Config.farRefuses s.ticks = true
  · rw [if_pos hrefuses] at hfault
    simp only [if_pos hrefuses, hfault]
    rw [serveReq_refused hfault, failReq_store 5 hkind hsid hpend hsrc]
    rfl
  · rw [if_neg hrefuses] at hfault
    simp only [if_neg hrefuses, hfault]
    rw [serveReq_store hfault hkind hrep, closeReq_acks (s := s.setCells (q.keys.zip q.bytes)) hsid hpend hsrc]
    rfl

/-! Requests from another device (R284). -/

/-- REMOTE_ACCESS_REQUEST of a load or a store whose bytes this device holds. -/
theorem remoteRequest_performs {s : State} {hs : List Hit} {ks : List Nat} (hkind : s.arg.kind = 0 ∨ s.arg.kind = 1)
    (hhits : arrivingAll s s.arg.job (arrivingRight s.arg.kind)
      ((List.range s.arg.size).map fun i => (s.arg.va + i) % 2 ^ 56) = some hs) (hks : ks = hs.map (cellOf s.arg.job))
    (hclear : ∀ k ∈ ks, s.badAt k = false ∧ s.locked k = false) :
    exec .remoteAccessRequest s = .next { s with
       mem := if s.arg.kind = 0 then s.mem else s.mem.setAll (ks.zip s.arg.bs), tier := (s.counted hs).tier
       fabric := { s.fabric with out := s.fabric.out ++
         [({ dev := s.arg.dev, job := s.arg.job, kind := 10, a := s.arg.n, b := 0
             bytes := if s.arg.kind = 0 then s.mem.getAll ks else [] } : Packet)] } } := by
  have hcount : s.counted hs = { s with tier := (s.counted hs).tier } := by
    unfold State.counted
    split
    · rfl
    · split <;> rfl
  have hlocked : ks.any s.locked = false := List.any_eq_false.mpr fun k hk => Bool.not_eq_true _ ▸ (hclear k hk).2
  have hgood : ks.find? s.badAt = none := List.find?_eq_none.mpr fun k hk => Bool.not_eq_true _ ▸ (hclear k hk).1
  rw [exec, execRemoteAccessRequest]
  simp only [hhits]
  rw [hcount, ← hks]
  have hlocked' : ks.any (State.locked { s with tier := (s.counted hs).tier }) = false := hlocked
  have hgood' : ks.find? (State.badAt { s with tier := (s.counted hs).tier }) = none := hgood
  rw [hlocked', Bool.and_false, hgood']
  cases hkind with
  | inl hkind =>
    rw [hkind]
    rfl
  | inr hkind =>
    have hresult : ∀ old, arrivingResult s.arg old = s.arg.bs := fun old => by
      rw [arrivingResult, hkind]
      rfl
    simp only [hresult, hkind]
    rfl

end Sys2Proof.Machine
end
section
/-! PROOFS. Accesses to another device (R26, R284, R298). -/

namespace Sys2Proof.Machine

/-- Settles O19: a load of another device is a request, and each answer is one change of the strand, the requests and memory. -/
theorem remoteAccessResult : Obligations.RemoteAccessResult := by
  refine ⟨fun i x s s1 h r dev k hi hcalm hg hformed hcheck hclear hway hopen hdev hk => ?load,
    ⟨fun s q p u sx i hflag hreq hgen hkind hrep hsid hpend hsrc hrd hown hdsts hlands hgood =>
        answer_delivers hflag hreq hgen hkind hrep hsid hpend hsrc hrd hown ⟨hdsts, hlands⟩ hgood,
      fun s q p u how hreq hkind hsid hpend hsrc hrd => timeout_loses hreq hkind hsid hpend hsrc hrd,
      fun s p u sx cls detail hflag hpend hsrc hrd => exec_resultArrival_lost hflag hpend hsrc hrd⟩,
    ⟨fun s => rfl, fun s hstale => ?stale,
      fun s q p hreq hgen hkind hrep hsid hpend hsrc hgood => ack_performs hreq hgen hkind hrep hsid hpend hsrc hgood,
      fun s => rfl⟩,
    fun s hnone => ?refused, fun s hs ks hkind hhits hks hclear => remoteRequest_performs hkind hhits hks hclear⟩
  case load =>
    obtain ⟨-, -, -, hregs⟩ := formed_iff.mp hformed
    have hread := checkFrom_readOnly hcheck
    have hcalm' := hread.framed.calm (State.calm_issue s x.len hcalm)
    have hfree := soFree_of_clear (hread.framed.clear (clear_issue x.len hcalm hclear))
    obtain ⟨⟨mem, tlb, tier, agenda, queues, rfl⟩, hmem⟩ := hread
    obtain rfl : mem = s.mem := hmem
    have htag := (findTag_congr (s := s) (t := { s.issue x.len with mem := s.mem, tlb, tier, agenda, queues }) rfl rfl
      (coreDie s.me.core * 4096) 4096 0).trans hk
    have hload := loadAt_remote (sx := x.sx) (la := x.la) (dev := dev) (k := k) hcalm' hregs hcheck hfree hway
      (by exact hopen) hdev htag
    obtain ⟨-, hpend, -⟩ := hcalm'
    obtain ⟨p, hp, hleft, hdsts, hsrc⟩ := loadOwed_facts x.regs x.sx ((h :: r).any Hit.so) x.la dev k x.addr.tval (h :: r) hpend
    exact ⟨_, _, p, _, by rw [exec_of_load hcalm hg hformed hi, hload, finishLong], rfl, rfl, rfl, hp, hleft, hdsts, hsrc,
      List.mem_append_right _ (List.mem_singleton.mpr rfl), rfl, rfl⟩
  case stale =>
    rw [exec, execAcknowledgementArrival]
    cases hreq : SMap.find s.arg.n s.fabric.reqs with
    | none => rfl
    | some q => exact if_neg (hstale q hreq)
  case refused =>
    rw [exec, execRemoteAccessRequest]
    simp only [hnone]
    rfl

end Sys2Proof.Machine
end

section
/-! SUPPORT. The moves of a remap (R272 to R276). -/

namespace Sys2Proof.Machine

theorem objAt_modObj (s : State) (key : Nat) (f : Obj → Obj) : (s.modObj key f).objAt key = f (s.objAt key) := objAt_setObj ..

theorem objAt_logChange (s : State) (key call : Nat) (change : Change) (f : Obj → Obj) :
    (s.logChange key call change f).objAt key = f (s.objAt key) := objAt_modObj ..

/-- The cells of a group do not depend on which Marver served last. -/
theorem groupWrites_marvers (s : State) (marvers : SMap Nat) (key : Nat) (o : Obj) (xs : List FByte) :
    State.groupWrites { s with marvers } key o xs = s.groupWrites key o xs := by
  induction xs with
  | nil => rfl
  | cons x xs ih =>
    have hcell : State.fieldCell { s with marvers } key o = s.fieldCell key o := rfl
    rw [State.groupWrites, State.groupWrites, ih, hcell]

section
variable {s : State} {r : Remap} {m : Mover} {o : Obj} (hnext : s.marverNext s.arg.die = some (r, m)) (ho : s.objAt r.key = o)
include hnext ho

/-- A group in which nothing moves is done at once (R273). -/
theorem groupMove_still {b : Nat} (hphase : m.phase = 0) (hb : o.nextBrick r m = some b) (hmoves : o.moves (o.group b) = false) :
    exec .remapGroupMove s = .next (State.groupDone { s with marvers := SMap.put s.arg.die r.ticket s.marvers } r
      { m with cursor := brickPlace b + 1 } (o.group b)) := by
  rw [exec, execRemapGroupMove]
  simp only [hnext, ho, hphase, hb, hmoves]
  rfl

/-- A group of which an element moves is locked with its frames (R273, R275). -/
theorem groupMove_locks {b : Nat} {ws : List (Nat × Nat × Nat)} (hphase : m.phase = 0) (hb : o.nextBrick r m = some b)
    (hmoves : o.moves (o.group b) = true) (hws : s.groupWrites r.key o ((o.group b).flatMap o.brickBytes) = .ok ws)
    (hfree : s.framesBusy (rangesOf (ws.map fun x => x.1)) = false) (hgood : ∀ x ∈ ws, s.badAt x.1 = false) :
    exec .remapGroupMove s = .next (State.setRemap { s with marvers := SMap.put s.arg.die r.ticket s.marvers }
      (r.setMover { m with cursor := brickPlace b + 1, phase := 1, bricks := o.group b
                           frames := rangesOf (ws.map fun x => x.1) })) := by
  have hfind : (ws.find? fun x => s.badAt x.1) = none :=
    List.find?_eq_none.mpr fun x hx => Bool.not_eq_true _ ▸ hgood x hx
  rw [exec, execRemapGroupMove]
  simp only [hnext, ho, hphase, hb, hmoves]
  rw [groupWrites_marvers, hws]
  dsimp only
  rw [if_neg (by exact Bool.false_ne_true), if_neg (by exact Bool.eq_false_iff.mp hfree)]
  have hfind' : (ws.find? fun x => State.badAt { s with marvers := SMap.put s.arg.die r.ticket s.marvers } x.1) = none := hfind
  rw [hfind']

/-- The new contents of a locked group are read into the journal (R273). -/
theorem groupMove_reads {ws : List (Nat × Nat × Nat)} (hphase : m.phase = 1)
    (hws : s.groupWrites r.key o (m.bricks.flatMap o.brickBytes) = .ok ws) :
    exec .remapGroupMove s = .next (s.setRemap (r.setMover { m with
      phase := 2, journal := ws.map fun x => (x.1, s.mem.get x.2.1) })) := by
  rw [exec, execRemapGroupMove]
  simp only [hnext, ho, hphase, hws]

omit ho in
/-- The journal is written over the frames, and the bricks are done (R273). -/
theorem groupMove_writes (hphase : m.phase = 2) (hfree : s.framesBusy m.frames = false) :
    exec .remapGroupMove s = .next ((s.setCells m.journal).groupDone r { m with phase := 3 } m.bricks) := by
  rw [exec, execRemapGroupMove]
  simp only [hnext, hphase, hfree]
  rfl

omit ho in
/-- The group is let go (R273). -/
theorem groupMove_ends (hdie : m.die = s.arg.die) (hphase : m.phase = 3) :
    exec .remapGroupMove s = .next (s.setRemap (r.setMover { Mover.fresh m.die with cursor := m.cursor })) := by
  rw [exec, execRemapGroupMove]
  simp only [hnext, hphase, hdie]

end

/-- The first remap with a ticket that runs, after every one with that ticket has been replaced. -/
theorem find?_replaced {l : List Remap} {r x : Remap} (h : (l.find? fun y => y.ticket == x.ticket && y.started) = some r)
    (hstarted : x.started = true) :
    ((l.map fun y => if y.ticket == x.ticket then x else y).find? fun y => y.ticket == x.ticket && y.started) = some x := by
  induction l with
  | nil => cases h
  | cons y l ih =>
    rw [List.map_cons]
    by_cases hy : (y.ticket == x.ticket) = true
    · rw [if_pos hy, List.find?_cons_of_pos (by rw [beq_self_eq_true, hstarted]; rfl)]
    · have hno : (y.ticket == x.ticket && y.started) = false := by rw [Bool.eq_false_iff.mpr hy, Bool.false_and]
      rw [List.find?_cons, hno] at h
      rw [if_neg hy, List.find?_cons, hno]
      exact ih h

theorem ticket?_setRemap {s : State} {r x : Remap} (h : s.ticket? x.ticket = some r) (hstarted : x.started = true) :
    (s.setRemap x).ticket? x.ticket = some x := find?_replaced h hstarted

theorem ticket?_some {s : State} {t : Nat} {r : Remap} (h : s.ticket? t = some r) : r.ticket = t ∧ r.started = true := by
  obtain ⟨hticket, hstarted⟩ := Bool.and_eq_true_iff.mp
    (List.find?_some (p := fun y : Remap => y.ticket == t && y.started) h)
  exact ⟨beq_iff_eq.mp hticket, hstarted⟩

/-- The state in which a remap's next pass begins (R272, R273). -/
def State.nextPass (s : State) (r : Remap) : State :=
  s.setRemap { r with pass := r.pass + 1, done := [], movers := r.movers.map fun m => Mover.fresh m.die }

theorem exec_remapPassEnd {s : State} {r : Remap} (hticket : s.ticket? s.arg.n = some r) (hover : s.passOver r = true)
    (hmore : r.pass + 1 < r.passes.length) :
    exec .remapPassEnd s = .next ((s.nextPass r).logChange r.key 0 .sweep fun o =>
      ((o.setMapAt 19 (o.mapAt 25)).setMapAt 25 (r.mapAfter (r.pass + 1))).setFld 31 40 8 (r.pass + 1)) := by
  have hlast : r.lastPass = false := decide_eq_false (Nat.not_le.mpr hmore)
  rw [exec, execRemapPassEnd]
  simp only [hticket, hover, hlast]
  rfl

theorem exec_remapCommit {s : State} {r : Remap} (hticket : s.ticket? s.arg.n = some r) (hover : s.passOver r = true)
    (hlast : r.passes.length ≤ r.pass + 1) :
    exec .remapCommit s = .next ((s.logChange r.key 0 .sweep fun o =>
      ((o.setMapAt 1 (o.mapAt 25)).setFld 0 43 1 0).setFld 19 0 832 0).dropRemap r) := by
  have hlast : r.lastPass = true := decide_eq_true hlast
  rw [exec, execRemapCommit]
  simp only [hticket, hover, hlast]
  rfl

end Sys2Proof.Machine
end
section
/-! PROOFS. The moves of a remap (R272 to R276). -/

namespace Sys2Proof.Machine

/-- Settles O37: each move of a Marver's group replaces the remap by one, and a pass's end and the commit are a call on the
field table. -/
theorem remapCourse : Obligations.RemapCourse := by
  refine ⟨fun s r m o hnext hdie ho => ⟨fun b hphase hb => ⟨fun hmoves => ?still, fun ws hmoves hws hfree hgood => ?locks⟩,
      fun ws hphase hws => groupMove_reads hnext ho hphase hws, fun hphase hfree => ?writes,
      fun hphase => groupMove_ends hnext hdie hphase⟩,
    fun s r o hticket ho hover => ⟨fun hmore => ?passEnd, fun hlast honly => ?commit⟩, fun s r m hticket hm => ?retry⟩
  case still => exact ⟨_, groupMove_still hnext ho hphase hb hmoves, rfl, rfl, rfl, rfl⟩
  case locks => exact ⟨_, groupMove_locks hnext ho hphase hb hmoves hws hfree hgood, rfl, rfl, rfl, rfl⟩
  case writes => exact ⟨_, groupMove_writes hnext hphase hfree, rfl, rfl, rfl, rfl⟩
  case passEnd =>
    obtain ⟨hn, hstarted⟩ := ticket?_some hticket
    have hfind := ticket?_setRemap (x := { r with
      pass := r.pass + 1, done := [], movers := r.movers.map fun m => Mover.fresh m.die }) (hn ▸ hticket) hstarted
    have hobj : (s.nextPass r).objAt r.key = o := ho
    exact ⟨_, exec_remapPassEnd hticket hover hmore, rfl, rfl, hfind,
      (objAt_logChange (s.nextPass r) r.key 0 .sweep _).trans (by rw [hobj])⟩
  case commit =>
    have hgone : s.remaps.filter (fun x => x.ticket != r.ticket) = [] := by
      rw [honly, List.filter_singleton, bne_self_eq_false]
      rfl
    have hobj : ∀ u : State, (u.dropRemap r).objAt r.key = u.objAt r.key := fun _ => rfl
    exact ⟨_, exec_remapCommit hticket hover hlast, hgone, rfl, (hobj _).trans (ho ▸ objAt_logChange s r.key 0 .sweep _)⟩
  case retry =>
    rw [exec, execRemapGroupRetry]
    simp only [hticket, hm]

end Sys2Proof.Machine
end

section
/-! SUPPORT. Calls on a field table (R258, R270, R271): the release before them, what a call made at once leaves, and what one that
finds no room leaves. -/

namespace Sys2Proof.Machine

/-! Commands that need no level, and their promises (R25). -/

theorem command_calm {s : State} (hcalm : s.calm) (i : Instr) (la : Look) (body : M Unit) :
    command i 0 la body s = finishLong 4 (window la) [.l0] none s (body (s.issue 4)) := by
  have hlevel : ¬ s.me.plv < 0 := BitVec.not_lt_zero
  rw [command, atLevel, if_neg hlevel, long_calm 4 0 _ _ _ s hcalm (guarded_zero _)]

/-- The state of a command after its promise, which is the part's choice. -/
def State.freely (s : State) : State :=
  { s.issued 4 (fun t => t.result .l0 (Config.freeWord s.free)) with free := s.free + 1 }

theorem promiseFree_issue {s : State} (hcalm : s.calm) : promiseFree (s.issue 4) = .ok ((), s.freely) := by
  have hpend : (s.issue 4).me.pend = [] := (State.calm_issue s 4 hcalm).2.1
  rw [promiseFree, upd, shift_of_pend_nil _ hpend]
  exact congrArg (fun t : State => Except.ok ((), ({ t with free := s.free + 1 } : State))) (issue_result s hcalm 4 .l0 _)

theorem promisedWait_of {s t : State} {w : Word} {src : Owe} {la : Look} {pend : List Pending}
    (hme : t.me = { (s.issued 4 fun u => u.result .l0 w).me with pend })
    (hpend : if la.val = 15 then pend = [] else ∃ p : Pending, pend = [p] ∧ p.src = src ∧ p.left = la.val) :
    Claims.promisedWait s t src la := by
  obtain ⟨hl0, hp⟩ : t.me.l0 = w ∧ t.me.pend = pend := by rw [hme]; exact ⟨rfl, rfl⟩
  rw [Claims.promisedWait, hl0, hp]
  exact ⟨hme, hpend⟩

/-! The release before a call. -/

theorem tableRelease_done {s : State} {job : Nat} (hpend : s.me.pend = []) (h : Claims.releasable s (s.spanTable job)) :
    tableRelease job s = .ok ((), s) := by
  obtain ⟨hstores, hfar⟩ := h
  rw [tableRelease, bind_ok _ _ _ _ _ rfl]
  cases hspan : s.spanTable job with
  | false => exact released_empty s hstores hpend
  | true =>
    obtain ⟨hacked, hnone⟩ := hfar hspan
    rw [if_pos rfl, releasedSpan_acked hpend hstores hacked, hnone]

theorem fieldHandle_issue {s : State} {job h : Nat} {right : Right} {a : Word} (n : Nat)
    (huse : ∃ e, useHandle job h 1 right a s = .ok (e, s)) :
    ∃ e, useHandle job h 1 right a (s.issue n) = .ok (e, s.issue n) := by
  obtain ⟨e, huse⟩ := huse
  refine ⟨e, ?_⟩
  unfold useHandle at huse ⊢
  dsimp only at huse
  rw [if_pos rfl] at huse
  split_ifs at huse with hinvalid hright
  cases huse
  exact (if_neg hinvalid).trans (if_pos hright)

/-! A call made at once, and one that sleeps (R258). -/

/-- A call as its strand makes it: numbered, with its strand, its die, and whether the strand waits for it. -/
def Arg.calledBy (a : Arg) (s : State) (la : Look) : Arg :=
  { a with n := s.engines.next, sid := s.me.sid.toNat, die := coreDie s.me.core, flag := la.val != 15 }

theorem makeCall_made {s u : State} {a : Arg} {la : Look} {r : Option (Nat × Nat)} (hfree : Claims.tableFree s a.job)
    (hready : s.numbered.fieldReady (a.calledBy s la) = true)
    (hcall : fieldCall (a.calledBy s la) s.numbered = .ok (r, u)) (hpend : u.me.pend = []) :
    makeCall a la s = waitFor (callTail s (a.calledBy s la) r).2 la
      ((callTail s (a.calledBy s la) r).1.elim u fun v => { u with me := u.me.result .l0 v }) := by
  obtain ⟨hasleep, -⟩ := hfree
  have hnow : ((((s.fieldTab? a.job).map FieldTab.asleep).getD []).isEmpty && s.fieldReady (a.calledBy s la)) = true := by
    rw [hasleep]
    exact hready
  rw [makeCall, bind_ok _ _ _ _ _ rfl]
  dsimp only
  rw [bind_ok _ _ _ _ _ rfl, if_pos (by exact hnow)]
  refine (bind_ok (fieldCall (a.calledBy s la)) _ s.numbered r u hcall).trans ?_
  cases hv : (callTail s (a.calledBy s la) r).1 <;> simp only [Arg.calledBy] at hv ⊢ <;> rw [hv]
  case none => rfl
  case some v =>
    refine (bind_ok _ _ u () { u with me := u.me.shift v } rfl).trans ?_
    rw [shift_of_pend_nil v hpend]
    rfl

/-- The field table of a job with a call asleep behind the others. -/
def State.sleeping (s : State) (a : Arg) : State :=
  { s with fieldTabs := { s.fieldTab a.job with asleep := (s.fieldTab a.job).asleep ++ [a] } ::
      s.fieldTabs.filter fun x => x.job != a.job }

/-- What the strand of a call that sleeps waits for. -/
def Strand.callAsleep (t : Strand) (a : Arg) (la : Look) : Pending :=
  { t.opened a.callEnd (window la) (t.pc - 4) with line := none, holds := a.flag }

theorem makeCall_sleeps {s : State} {a : Arg} {la : Look} (hbusy : ¬ Claims.tableFree s a.job) (hkind : a.kind = 2)
    (hpend : s.me.pend = []) :
    makeCall a la s = .ok ((), ({ s.numbered with me := { s.me with
      pend := [s.me.callAsleep (a.calledBy s la) la] } } : State).sleeping (a.calledBy s la)) := by
  have hnot : ((((s.fieldTab? a.job).map FieldTab.asleep).getD []).isEmpty && s.fieldReady (a.calledBy s la)) = false := by
    refine Bool.eq_false_iff.mpr fun hboth => hbusy ?_
    obtain ⟨hasleep, hready⟩ := Bool.and_eq_true_iff.mp hboth
    exact ⟨List.isEmpty_iff.mp hasleep, (Bool.and_eq_true_iff.mp hready).1⟩
  have hother : ¬ a.kind = 3 := by rw [hkind]; decide
  have hopen : s.numbered.open [] (a.calledBy s la).callEnd (window la) (s.me.pc - 4) =
      { s.numbered with me := { s.me with pend := [s.me.opened (a.calledBy s la).callEnd (window la) (s.me.pc - 4)] } } := by
    have hme : s.numbered.me = s.me := rfl
    simp only [State.open, shifts, hme, hpend]
    rfl
  rw [makeCall, bind_ok _ _ _ _ _ rfl]
  dsimp only
  rw [bind_ok _ _ _ _ _ rfl, if_neg (by exact Bool.eq_false_iff.mp hnot), if_neg hother]
  refine (bind_ok _ _ _ _ _ (await_calm (s := s.numbered) [] (a.calledBy s la).callEnd (window la) hpend)).trans ?_
  rw [show s.numbered.me.pc = s.me.pc from rfl, hopen]
  rfl

/-! The methods FRENAME and FPERM name (R270, R271). -/

/-- The lists of an instruction do not depend on the state. -/
theorem twoLists_of_ok {o : Obj} {y z : Word} {l : List Nat × List Nat} {s t : State} (h : twoLists o y z s = .ok (l, t)) (u : State) :
    twoLists o y z u = .ok (l, u) := by
  obtain ⟨_, v, h1, h⟩ := run_bind_eq_ok h
  obtain ⟨_, w, h2, h⟩ := run_bind_eq_ok h
  obtain ⟨_, x, h3, h⟩ := run_bind_eq_ok h
  obtain ⟨hy, -⟩ := need_eq_ok (fun _ => opFault_ne_ok) h1
  obtain ⟨hz, -⟩ := need_eq_ok (fun _ => opFault_ne_ok) h2
  obtain ⟨hyz, -⟩ := need_eq_ok (fun _ => opFault_ne_ok) h3
  cases h
  rw [twoLists, bind_ok _ _ _ _ _ (need_of_true _ _ hy), bind_ok _ _ _ _ _ (need_of_true _ _ hz),
    bind_ok _ _ _ _ _ (need_of_true _ _ hyz)]
  rfl

section
variable {s : State} {a : Arg} {o : Obj} {l1 l2 : List Nat} (ho : s.objAt (objKey a.job a.h) = o) (hvalid : o.valid = true)
  (hfield : o.kind = 1) (hlists : ∀ u, twoLists o (a.ws.getD 1 0) (a.ws.getD 2 0) u = .ok ((l1, l2), u))
include ho hvalid hfield hlists

theorem fieldCall_renames (hkind : a.kind = 2) (hl1 : l1.any (usedAxes o).contains = false)
    (hl2 : l2.any (usedAxes o).contains = false) :
    fieldCall a s = .ok (none, s.rename (objKey a.job a.h) a.n (l1.zip l2)) := by
  have hkindOk : (o.valid && o.kind == 1) = true := by rw [hvalid, hfield]; rfl
  rw [fieldCall, bind_ok _ _ _ _ _ rfl]
  simp only [ho, hkind]
  rw [bind_ok _ _ _ _ _ (need_of_true _ _ hkindOk), bind_ok _ _ _ _ _ (hlists s)]
  dsimp only
  rw [bind_ok _ _ _ _ _ (need_of_true _ _ (by rw [hl1]; rfl)), bind_ok _ _ _ _ _ (need_of_true _ _ (by rw [hl2]; rfl)),
    bind_ok _ _ _ _ _ rfl]
  rfl

theorem fieldCall_permutes (hkind : a.kind = 3) {new : List Nat} {swaps : List (Nat × Nat)}
    (hperm : permuted (l1.zip l2) (s.forceMap (objKey a.job a.h) o) [] = (new, swaps))
    (hq4 : (isQ4 o.fmt && swaps.any fun p => decide (p.1 < 5) || decide (p.2 < 5)) = false) :
    fieldCall a s = .ok ((s.requestRemap (objKey a.job a.h) o swaps).2.1.head?.map fun t =>
      (t, (s.requestRemap (objKey a.job a.h) o swaps).2.2), (s.requestRemap (objKey a.job a.h) o swaps).1) := by
  have hkindOk : (o.valid && o.kind == 1) = true := by rw [hvalid, hfield]; rfl
  rw [fieldCall, bind_ok _ _ _ _ _ rfl]
  simp only [ho, hkind]
  rw [bind_ok _ _ _ _ _ (need_of_true _ _ hkindOk), bind_ok _ _ _ _ _ (hlists s)]
  dsimp only
  rw [hperm]
  dsimp only
  rw [bind_ok _ _ _ _ _ (need_of_true _ _ (by rw [hq4]; rfl)), bind_ok _ _ _ _ _ rfl]
  cases (s.requestRemap (objKey a.job a.h) o swaps).2.1 <;> rfl

end

/-! The passes of a remap (R271, R272). -/

theorem swapPos_self (p : Nat) (m : List Nat) : swapPos p p m = m := by
  have hid : (fun x => if x = p then p else if x = p then p else x) = id := by
    funext x
    by_cases h : x = p
    · rw [if_pos h]; exact h.symm
    · rw [if_neg h, if_neg h]; rfl
  rw [swapPos, hid, List.map_id]

/-- A map after swaps one after another. -/
def swapped (swaps : List (Nat × Nat)) (m : List Nat) : List Nat := swaps.foldl (fun m x => swapPos x.1 x.2 m) m

/-- FPERM's swaps are of two places each, and give the new map. -/
theorem permuted_spec {ps : List (Nat × Nat)} {m new : List Nat} {acc swaps : List (Nat × Nat)} {m0 : List Nat}
    (hacc : swapped acc.reverse m0 = m) (hne : ∀ x ∈ acc, x.1 ≠ x.2) (h : permuted ps m acc = (new, swaps)) :
    swapped swaps m0 = new ∧ ∀ x ∈ swaps, x.1 ≠ x.2 := by
  induction ps generalizing m acc with
  | nil =>
    cases h
    exact ⟨hacc, fun x hx => hne x (List.mem_reverse.mp hx)⟩
  | cons p ps ih =>
    obtain ⟨g, q⟩ := p
    rw [permuted] at h
    by_cases hpq : m.getD g 0 = q
    · rw [if_pos hpq, hpq, swapPos_self] at h
      exact ih hacc hne h
    · rw [if_neg hpq] at h
      refine ih ?_ ?_ h
      · rw [List.reverse_cons, swapped, List.foldl_append]
        exact congrArg (swapPos (m.getD g 0) q) hacc
      · exact List.forall_mem_cons.mpr ⟨hpq, hne⟩

/-- The passes hold the swaps in order. -/
theorem passSwaps_flatten (o : Obj) (swaps : List (Nat × Nat)) : (o.passSwaps swaps).flatten = swaps := by
  induction swaps with
  | nil => rfl
  | cons x r ih =>
    rw [Obj.passSwaps]
    split
    · next y t u heq =>
      rw [heq] at ih
      split <;> rw [← ih] <;> rfl
    · rw [List.flatten_cons, ih]
      rfl

theorem passSwaps_ne_nil (o : Obj) {swaps : List (Nat × Nat)} (h : swaps ≠ []) : o.passSwaps swaps ≠ [] := fun hnil =>
  h (by rw [← passSwaps_flatten o swaps, hnil]; rfl)

/-- The map after the last pass is the one after all swaps. -/
theorem passMaps_getLast? (gs : List (List (Nat × Nat))) (m : List Nat) (h : gs ≠ []) :
    (passMaps m gs).getLast? = some (swapped gs.flatten m) := by
  induction gs generalizing m with
  | nil => exact absurd rfl h
  | cons g r ih =>
    rw [passMaps, List.flatten_cons, swapped, List.foldl_append]
    cases r with
    | nil => rfl
    | cons g' r' => exact (List.getLast?_cons_cons ..).trans (ih _ (List.cons_ne_nil _ _))

/-- The remap a decision on a field asks for. -/
def State.swapRemap (s : State) (key : Nat) (o : Obj) (swaps : List (Nat × Nat)) : Remap where
  key := key
  ticket := s.engines.next
  passes := passMaps (s.forceMap key o) (o.passSwaps swaps)
  started := false
  pass := 0
  done := []
  area := 0
  movers := []
  stopped := false
  ended := false

theorem swapRemap_passes (s : State) (key : Nat) (o : Obj) {swaps : List (Nat × Nat)} (h : swaps ≠ []) :
    (s.swapRemap key o swaps).passes.getLast? = some (swapped swaps (s.forceMap key o)) := by
  rw [State.swapRemap, passMaps_getLast? _ _ (passSwaps_ne_nil o h), passSwaps_flatten]

theorem requestRemap_of_swaps {s : State} {key : Nat} {o : Obj} {swaps : List (Nat × Nat)} (hne : ∀ x ∈ swaps, x.1 ≠ x.2)
    (h : swaps ≠ []) :
    s.requestRemap key o swaps =
      (({ s.numbered with remaps := s.remaps ++ [s.swapRemap key o swaps] } : State).logChange key 0 .sweep id, [s.engines.next],
        s.estimate o (o.passSwaps swaps)) := by
  have hfilter : swaps.filter (fun x => x.1 != x.2) = swaps := List.filter_eq_self.mpr fun x hx => bne_iff_ne.mpr (hne x hx)
  have hsome : (o.passSwaps swaps).isEmpty = false :=
    Bool.eq_false_iff.mpr fun hnil => passSwaps_ne_nil o h (List.isEmpty_iff.mp hnil)
  rw [State.requestRemap, hfilter]
  exact if_neg (Bool.eq_false_iff.mp hsome)

/-! What the log of a field table gains (R258). -/

theorem fieldTab_job (s : State) (job : Nat) : (s.fieldTab job).job = job := by
  rw [State.fieldTab]
  cases h : s.fieldTab? job with
  | none => rfl
  | some f => exact beq_iff_eq.mp (List.find?_some (p := fun f : FieldTab => f.job == job) h)

theorem fieldTab_logChange (s : State) {key job : Nat} (call : Nat) (change : Change) (f : Obj → Obj) (hjob : key / 65536 = job) :
    ((s.logChange key call change f).fieldTab job).tail = (s.fieldTab job).tail + 1 := by
  subst hjob
  have hfirst : ((s.fieldTab (key / 65536)).job == key / 65536) = true := beq_iff_eq.mpr (fieldTab_job ..)
  have hfind : (s.logChange key call change f).fieldTab? (key / 65536) = some _ := List.find?_cons_of_pos hfirst
  rw [State.fieldTab, hfind]
  rfl

theorem objAt_rename (s : State) (key n : Nat) (ps : List (Nat × Nat)) :
    (s.rename key n ps).objAt key = Obj.renamed ps (s.objAt key) := objAt_logChange ..

theorem fieldTab_rename (s : State) {key job : Nat} (n : Nat) (ps : List (Nat × Nat)) (hjob : key / 65536 = job) :
    ((s.rename key n ps).fieldTab job).tail = (s.fieldTab job).tail + 1 := fieldTab_logChange _ _ _ _ hjob

theorem fieldTab_sleeping (s : State) (a : Arg) :
    ((s.sleeping a).fieldTab a.job).asleep = (s.fieldTab a.job).asleep ++ [a] := by
  have hfirst : ((s.fieldTab a.job).job == a.job) = true := beq_iff_eq.mpr (fieldTab_job ..)
  have hfind : (s.sleeping a).fieldTab? a.job = some _ := List.find?_cons_of_pos hfirst
  rw [State.fieldTab, hfind]
  rfl

end Sys2Proof.Machine
end
section
/-! PROOFS. FRENAME and FPERM (R258, R270, R271). -/

namespace Sys2Proof.Machine

theorem objKey_div (job : Nat) {h : Nat} (hlt : h < 65536) : objKey job h / 65536 = job := by
  rw [objKey]
  omega

theorem wbits_lt (a : Word) (lo n : Nat) : wbits a lo n < 2 ^ n := Nat.mod_lt _ (Nat.two_pow_pos n)

section
variable {a b c : Reg} (la : Look) {o : Obj} {l1 l2 : List Nat} {s : State} (hcalm : s.calm)
  (hplain : [a, b, c].all Reg.plain = true)
  (huse : ∃ e, useHandle s.me.job.toNat (wbits (s.me.src a) 0 16) 1 .write (s.me.src a) s = .ok (e, s))
include hcalm hplain huse

/-- The call of a field instruction on a strand's own job. -/
def fieldArg (s : State) (kind : Nat) (a b c : Reg) : Arg :=
  { kind, job := s.me.job.toNat, h := wbits (s.me.src a) 0 16, ws := [s.me.src a, s.me.src b, s.me.src c] }

/-- FRENAME checked and released: its promise, and the call (R270). -/
theorem exec_frename_calls (hrelease : Claims.releasable s (s.spanTable s.me.job.toNat)) :
    exec (.frename a b c la) s = finishLong 4 (window la) [.l0] none s (makeCall (fieldArg s 2 a b c) la s.freely) := by
  obtain ⟨e, huse⟩ := fieldHandle_issue 4 huse
  have hpend : (s.issue 4).me.pend = [] := (State.calm_issue s 4 hcalm).2.1
  rw [exec, execFrename, command_calm hcalm, bind_ok _ _ _ _ _ (rd3_issue_calm 4 hcalm hplain)]
  dsimp only
  rw [bind_ok _ _ _ _ _ rfl, bind_ok _ _ _ _ _ (by exact huse), bind_ok _ _ _ _ _ (tableRelease_done hpend (by exact hrelease)),
    bind_ok _ _ _ _ _ (promiseFree_issue hcalm)]
  rfl

/-- FPERM checked: the call (R271). -/
theorem exec_fperm_calls :
    exec (.fperm a b c la) s = finishLong 4 (window la) [.l0] none s (makeCall (fieldArg s 3 a b c) la (s.issue 4)) := by
  obtain ⟨e, huse⟩ := fieldHandle_issue 4 huse
  rw [exec, execFperm, command_calm hcalm, bind_ok _ _ _ _ _ (rd3_issue_calm 4 hcalm hplain)]
  dsimp only
  rw [bind_ok _ _ _ _ _ rfl, bind_ok _ _ _ _ _ (by exact huse)]
  rfl

end

/-- What a call of FPERM leaves that is made at once. -/
theorem fperm_called {a b c : Reg} (la : Look) {s u : State} {r : Option (Nat × Nat)} {v : Word} {src : Owe} (hcalm : s.calm)
    (hplain : [a, b, c].all Reg.plain = true)
    (huse : ∃ e, useHandle s.me.job.toNat (wbits (s.me.src a) 0 16) 1 .write (s.me.src a) s = .ok (e, s))
    (hfree : Claims.tableFree s s.me.job.toNat)
    (hready : (s.issue 4).numbered.fieldReady ((fieldArg s 3 a b c).calledBy (s.issue 4) la) = true)
    (hcall : fieldCall ((fieldArg s 3 a b c).calledBy (s.issue 4) la) (s.issue 4).numbered = .ok (r, u))
    (hme : u.me = (s.issue 4).me)
    (htail : callTail (s.issue 4) ((fieldArg s 3 a b c).calledBy (s.issue 4) la) r = (some v, src)) :
    ∃ t, exec (.fperm a b c la) s = .next t ∧ Claims.promisedWait s t src la ∧ t.me.l0 = v ∧ t.obj = u.obj ∧
      t.remaps = u.remaps ∧ t.mem = u.mem := by
  have hpend : u.me.pend = [] := hme ▸ (State.calm_issue s 4 hcalm).2.1
  have hmade := makeCall_made (la := la) (a := fieldArg s 3 a b c) (s := s.issue 4) hfree hready hcall hpend
  rw [htail] at hmade
  obtain ⟨pend, hwait, hp⟩ := waitFor_of_pend_nil (s := { u with me := u.me.result .l0 v }) src la hpend
  have hissued : (s.issue 4).me.result .l0 v = (s.issued 4 fun t => t.result .l0 v).me :=
    congrArg State.me (issue_result s hcalm 4 .l0 v)
  refine ⟨_, (exec_fperm_calls la hcalm hplain huse).trans
    (congrArg (finishLong 4 (window la) [.l0] none s) (hmade.trans hwait)), promisedWait_of (w := v) ?_ hp, rfl, rfl, rfl, rfl⟩
  dsimp only
  rw [hme, hissued]

/-- Settles O45: each is one call on the field table, made at once or asleep. -/
theorem fieldMaps : Obligations.FieldMaps := by
  intro a b c la key job o l1 l2 s hcalm ha hb hc hjob hkey huse ho hvalid hfield hlists
  subst hjob
  have hplain : [a, b, c].all Reg.plain = true := by rw [List.all_cons, List.all_cons, List.all_cons, ha, hb, hc]; rfl
  have hdiv : key / 65536 = s.me.job.toNat := hkey ▸ objKey_div _ (wbits_lt _ 0 16)
  subst hkey
  have hlists' := twoLists_of_ok hlists
  refine ⟨fun hrelease => ⟨fun hl1 hl2 hfree => ?renamed, fun hbusy => ?sleeps⟩, fun new swaps hperm hfree hcame => ?permuted⟩
  case renamed =>
    have hcall := fieldCall_renames (s := s.freely.numbered) (a := (fieldArg s 2 a b c).calledBy s.freely la) ho hvalid hfield hlists'
      rfl hl1 hl2
    obtain ⟨pend, hwait, hp⟩ := waitFor_of_pend_nil (s := s.freely.numbered.rename
      (objKey s.me.job.toNat (wbits (s.me.src a) 0 16)) s.engines.next (l1.zip l2))
      (.table 4 (objKey s.me.job.toNat (wbits (s.me.src a) 0 16)) s.engines.next) la hcalm.2.1
    have hmade := makeCall_made (la := la) (a := fieldArg s 2 a b c) (s := s.freely) hfree
      (Bool.and_eq_true_iff.mpr ⟨hfree.2, rfl⟩) hcall hcalm.2.1
    have hobj := objAt_rename s.freely.numbered (objKey s.me.job.toNat (wbits (s.me.src a) 0 16)) s.engines.next (l1.zip l2)
    rw [show s.freely.numbered.objAt = s.objAt from rfl, ho] at hobj
    have htail := fieldTab_rename s.freely.numbered s.engines.next (l1.zip l2) hdiv
    exact ⟨_, (exec_frename_calls la hcalm hplain huse hrelease).trans
        (congrArg (finishLong 4 (window la) [.l0] none s) (hmade.trans hwait)),
      promisedWait_of rfl hp, rfl, hobj, htail⟩
  case sleeps =>
    have hsleep := makeCall_sleeps (la := la) (a := fieldArg s 2 a b c) (s := s.freely) hbusy rfl hcalm.2.1
    exact ⟨_, _, _, (exec_frename_calls la hcalm hplain huse hrelease).trans
        (congrArg (finishLong 4 (window la) [.l0] none s) hsleep),
      rfl, fieldTab_sleeping _ ((fieldArg s 2 a b c).calledBy s.freely la), rfl, rfl, rfl, rfl⟩
  case permuted =>
    obtain ⟨rfl, hne⟩ := permuted_spec (m0 := s.forceMap (objKey s.me.job.toNat (wbits (s.me.src a) 0 16)) o) rfl
      (fun _ hx => absurd hx List.not_mem_nil) hperm
    have hready : (s.issue 4).numbered.fieldReady ((fieldArg s 3 a b c).calledBy (s.issue 4) la) = true :=
      Bool.and_eq_true_iff.mpr ⟨hfree.2, hcame⟩
    refine ⟨fun hnone => ?_, fun hsome hq4 => ?_⟩
    · subst hnone
      have hcall := fieldCall_permutes (s := (s.issue 4).numbered) (a := (fieldArg s 3 a b c).calledBy (s.issue 4) la) ho hvalid
        hfield hlists' rfl hperm (Bool.and_false _)
      obtain ⟨t, hexec, hwait, hl0, hobj, hremaps, hmem⟩ := fperm_called la hcalm hplain huse hfree hready hcall rfl rfl
      have hkept := congrFun (objAt_modObj_id (s.issue 4).numbered (objKey s.me.job.toNat (wbits (s.me.src a) 0 16)))
        (objKey s.me.job.toNat (wbits (s.me.src a) 0 16))
      exact ⟨t, hexec, hwait, hl0, (congrFun (objAt_congr hobj) _).trans (hkept.trans ho), hremaps, hmem⟩
    · have hcall := fieldCall_permutes (s := (s.issue 4).numbered) (a := (fieldArg s 3 a b c).calledBy (s.issue 4) la) ho hvalid
        hfield hlists' rfl hperm hq4
      have hreq := requestRemap_of_swaps (s := (s.issue 4).numbered) (key := objKey s.me.job.toNat (wbits (s.me.src a) 0 16))
        (o := o) hne hsome
      have hkey : objKey ((fieldArg s 3 a b c).calledBy (s.issue 4) la).job ((fieldArg s 3 a b c).calledBy (s.issue 4) la).h =
        objKey s.me.job.toNat (wbits (s.me.src a) 0 16) := rfl
      rw [hkey, hreq] at hcall
      obtain ⟨t, hexec, hwait, -, -, hremaps, hmem⟩ := fperm_called la hcalm hplain huse hfree hready hcall rfl rfl
      exact ⟨t, _, hexec, hwait, hmem, hremaps, rfl, rfl, swapRemap_passes (s.issue 4).numbered _ o hsome⟩

end Sys2Proof.Machine
end

section
/-! SUPPORT. A state in which OTGET finds no room in its dirty log although two records fit (R267, R289): its caches hold
translations of 64 bytes, so that the 264 bytes of an entry meet three of them, and each takes a record. -/

namespace Sys2Proof.Machine

/-- A cached translation of a few bytes of this device, readable and writable, not yet logged. -/
def thinTr (base size : Nat) : Tr where
  cl := 0
  job := 0
  base := base
  size := size
  pte := 0
  w0 := toW (0xFFFF * 2 ^ 48 + 2 ^ 16 + 3 * 2 ^ 5 + 1)
  pinners := []
  logged := false

/-- A strand of core 0 at supervisor level, o0 = 1, with a log of 509 records. -/
def thinState : State :=
  { State.reset with
    me := { Strand.fresh 0 .ready 1 with o := #v[1, 0, 0, 0, 0, 0] }
    tlb := [thinTr 0 64, thinTr 64 64, thinTr 128 192]
    mem := [(lsKey 0 0xFF000, 0xFD), (lsKey 0 0xFF000 + 1, 1)] }

/-- Whether an instruction leaves its strand at an address. -/
def leavesAt (pc : BitVec 48) : Out → Bool
  | .next t => t.me.pc == pc
  | _ => false

theorem pc_of_leavesAt {pc : BitVec 48} {x : Out} {t : State} (h : leavesAt pc x = true) (hx : x = .next t) : t.me.pc = pc := by
  rw [hx] at h
  exact beq_iff_eq.mp h

theorem thinState_checks :
    ((check rW (.v 0) 264 (thinState.issue 4)).toOption.any fun x => x.1.all Hit.isCell) = true := by decide +kernel

theorem thinState_stays : leavesAt 0 (exec (.otget (.o 0) .z 0) thinState) = true := by decide +kernel

end Sys2Proof.Machine
end
section
/-! PROOFS. OTSET, OTGET, OTINV and FINFO. -/

namespace Sys2Proof.Machine

/-- Refutes O44: room for two records in the dirty log does not let OTGET write its 264 bytes where the caches hold translations
smaller than a page (`thinState`): the third one finds the log full, and the strand stays at the instruction. -/
theorem not_tableEntries : ¬ Obligations.TableEntries := by
  intro h
  cases hchecked : check rW (.v 0) 264 (thinState.issue 4) with
  | error e =>
    have hcells := thinState_checks
    rw [hchecked] at hcells
    cases hcells
  | ok x =>
    obtain ⟨hs, s1⟩ := x
    have hcells := thinState_checks
    rw [hchecked] at hcells
    have hsup : Claims.sup thinState [.o 0, .z, .z] := ⟨⟨rfl, rfl, rfl⟩, by decide, rfl, rfl⟩
    have hroom : Claims.logRoom thinState 2 := fun c hc => by
      obtain rfl : 0 = c := Option.some.inj hc
      decide
    obtain ⟨-, hget, -⟩ := h (.o 0) .z .z 0 1 Obj.empty thinState hsup rfl (by decide) rfl rfl
    obtain ⟨hotget, -⟩ := hget hs s1 (by decide) (by decide) (by decide) hroom ⟨hcells, fun _ _ => rfl⟩ (fun _ => rfl)
      (fun _ _ => rfl)
    obtain ⟨t, hexec, hpromised, -⟩ := hotget hchecked
    have hpc : t.me.pc = 4 := by rw [hpromised]; rfl
    rw [pc_of_leavesAt thinState_stays hexec] at hpc
    exact absurd hpc (by decide)

end Sys2Proof.Machine
end

section
/-! SUPPORT. Bytes and numbers in memory: what a read gives after a write. -/

namespace Sys2Proof.Machine

open Sys2Proof.Num

/-- A byte after bytes have been written at an address. -/
theorem get_setBytes {s : State} (hwf : s.mem.wf = true) (a k : Nat) (bs : List Byte) :
    (s.setBytes a bs).mem.get k = if a ≤ k ∧ k < a + bs.length then bs.getD (k - a) 0 else s.mem.get k := by
  induction bs using List.reverseRecOn with
  | nil => rw [if_neg (by rw [List.length_nil]; omega)]; rfl
  | append_singleton bs b ih =>
    have hlast : (s.setBytes a (bs ++ [b])).mem = (s.setBytes a bs).mem.set (a + bs.length) b := by
      dsimp only [State.setBytes]
      rw [List.length_append, List.length_singleton, List.range_succ, List.zipWith_append (by rw [List.length_range]),
        Memory.setAll_append]
      rfl
    rw [hlast, Memory.get_set _ _ _ _ (State.setBytes_wf s a bs hwf), ih, List.length_append, List.length_singleton]
    by_cases hk : k = a + bs.length
    · subst hk
      rw [if_pos rfl, if_pos (by omega), Nat.add_sub_cancel_left, List.getD_append_right _ _ _ _ (Nat.le_refl _), Nat.sub_self]
      rfl
    · rw [if_neg hk]
      by_cases hin : a ≤ k ∧ k < a + bs.length
      · rw [if_pos hin, if_pos (by omega), List.getD_append _ _ _ _ (by omega)]
      · rw [if_neg hin, if_neg (by omega)]

theorem bytesAt_setBytes {s : State} (hwf : s.mem.wf = true) (a : Nat) {bs : List Byte} {n : Nat} (hn : bs.length = n) :
    (s.setBytes a bs).bytesAt a n = bs := by
  subst hn
  refine List.ext_getElem (by rw [State.bytesAt, List.length_map, List.length_range]) fun i hi hi' => ?_
  simp only [State.bytesAt, List.getElem_map, List.getElem_range]
  rw [get_setBytes hwf, if_pos (by omega), Nat.add_sub_cancel_left, List.getD_eq_getElem _ _ hi']

theorem bytesAt_congr {s t : State} {a n : Nat} (h : ∀ i < n, t.mem.get (a + i) = s.mem.get (a + i)) : t.bytesAt a n = s.bytesAt a n :=
  List.map_congr_left fun i hi => h i (List.mem_range.mp hi)

/-- Bytes apart from those written. -/
theorem bytesAt_setBytes_apart {s : State} (hwf : s.mem.wf = true) {a b n : Nat} {bs : List Byte}
    (hapart : b + n ≤ a ∨ a + bs.length ≤ b) : (s.setBytes a bs).bytesAt b n = s.bytesAt b n :=
  bytesAt_congr fun i hi => by rw [get_setBytes hwf, if_neg (by omega)]

theorem leNat_leBytes (n v : Nat) : leNat (leBytes n v) = v % 256 ^ n := by
  induction n generalizing v with
  | zero => rw [leBytes, leNat, Nat.pow_zero, Nat.mod_one]
  | succ n ih =>
    have hsplit : v % 256 ^ (n + 1) = v % 256 + 256 * (v / 256 % 256 ^ n) := by rw [Nat.pow_succ', Nat.mod_mul]
    rw [leBytes, leNat, ih, BitVec.toNat_ofNat, hsplit]

theorem num_setNum {s : State} (hwf : s.mem.wf = true) (a n v : Nat) : (s.setNum a n v).num a n = v % 256 ^ n := by
  rw [State.num, State.setNum, bytesAt_setBytes hwf a (length_leBytes n v), leNat_leBytes]

theorem num_setNum_apart {s : State} (hwf : s.mem.wf = true) {a b n m : Nat} (v : Nat) (hapart : b + m ≤ a ∨ a + n ≤ b) :
    (s.setNum a n v).num b m = s.num b m := by
  rw [State.num, State.setNum, bytesAt_setBytes_apart hwf (by rwa [length_leBytes]), State.num]

theorem num_lt (s : State) (a n : Nat) : s.num a n < 256 ^ n := by
  have hlt := leNat_lt (s.bytesAt a n)
  rwa [State.bytesAt, List.length_map, List.length_range] at hlt

end Sys2Proof.Machine
end
section
/-! SUPPORT. Pins, XINV and DLOGH (R287 to R291). -/

namespace Sys2Proof.Machine

/-- A state with a promise that is the part's choice. -/
def State.promisedFree (s : State) : State :=
  { s with me := s.me.result .l0 (Config.freeWord s.free), free := s.free + 1 }

theorem promiseFree_of_pend_nil {s : State} (hpend : s.me.pend = []) : promiseFree s = .ok ((), s.promisedFree) := by
  rw [promiseFree, upd, shift_of_pend_nil _ hpend]
  rfl

theorem promised_of {s t : State} {w : Word} (hcalm : s.calm) (hme : t.me = (s.issue 4).me.result .l0 w) : Claims.promised s t := by
  have hissued : (s.issue 4).me.result .l0 w = (s.issued 4 fun u => u.result .l0 w).me :=
    congrArg State.me (issue_result s hcalm 4 .l0 w)
  have hl0 : t.me.l0 = w := by rw [hme]; rfl
  rw [Claims.promised, hl0, hme, hissued]

/-- A command that ends with its promise, its strand as at its issue. -/
theorem promiseFree_ends {s u : State} (hcalm : s.calm) (hme : u.me = (s.issue 4).me) :
    promiseFree u = .ok ((), u.promisedFree) ∧ Claims.promised s u.promisedFree := by
  have hpend : u.me.pend = [] := hme ▸ (State.calm_issue s 4 hcalm).2.1
  refine ⟨promiseFree_of_pend_nil hpend, promised_of (w := Config.freeWord u.free) hcalm ?_⟩
  rw [← hme]
  rfl

/-! Pins (R287, R288). -/

/-- The pin a page of this device gets. -/
def Page.pinFor (job : Nat) (p : Page) : Pin := { owner := 0, pte := p.pte, job, va := p.va, size := p.size }

/-- Pins of all pages change memory and the list of pins. -/
theorem pinAll_frame {job : Nat} {ps : List Page} {s t : State} (h : State.pinAll 0 job ps s = .ok t) :
    t = { s with mem := t.mem, launches := { s.launches with
      pins := s.launches.pins ++ (ps.filter Page.here).map (Page.pinFor job) } } := by
  induction ps generalizing s with
  | nil =>
    cases h
    rw [List.filter_nil, List.map_nil, List.append_nil]
  | cons p ps ih =>
    rw [State.pinAll] at h
    cases hhere : p.here with
    | false =>
      have hpin : s.pin 0 job p = some s := by rw [State.pin, hhere]; rfl
      rw [hpin] at h
      rw [List.filter_cons_of_neg (by rw [hhere]; exact Bool.false_ne_true)]
      exact ih h
    | true =>
      by_cases hfull : s.pinCount p.pte = 255
      · have hpin : s.pin 0 job p = none := by rw [State.pin, hhere, if_pos hfull]; rfl
        rw [hpin] at h
        cases h
      · have hpin : s.pin 0 job p = some { s.setPins p.pte (s.pinCount p.pte + 1) with
            launches := { s.launches with pins := s.launches.pins ++ [p.pinFor job] } } := by
          rw [State.pin, hhere, if_neg hfull]
          rfl
        rw [hpin] at h
        rw [ih h, List.filter_cons_of_pos hhere, List.map_cons]
        simp only [List.append_assoc, List.singleton_append]
        rfl

theorem loadPinned_frame (s : State) (owner job : Nat) (p : Page) (cl : Nat) :
    s.loadPinned owner job p cl = { s with tlb := (s.loadPinned owner job p cl).tlb } := by
  unfold State.loadPinned
  split
  · rfl
  · split <;> split <;> rfl

/-- A fold of steps that change the translation caches alone. -/
theorem foldl_tlb {α : Type} {f : State → α → State} (hf : ∀ s x, f s x = { s with tlb := (f s x).tlb }) (l : List α) (s : State) :
    l.foldl f s = { s with tlb := (l.foldl f s).tlb } := by
  induction l generalizing s with
  | nil => rfl
  | cons x l ih =>
    rw [List.foldl_cons, ih, hf]

/-- LEASE with its pins: the pages of its lease set loaded pinned. -/
def State.loadLease (s : State) (job : Nat) (ps : List Page) (cls : List Nat) : State :=
  cls.foldl (fun s cl => ps.foldl (fun s p => s.loadPinned 0 job p cl) s) s

theorem loadLease_frame (s : State) (job : Nat) (ps : List Page) (cls : List Nat) :
    s.loadLease job ps cls = { s with tlb := (s.loadLease job ps cls).tlb } :=
  foldl_tlb (fun s cl => foldl_tlb (fun s p => loadPinned_frame s 0 job p cl) ps s) cls s

/-- The last pin of a page that no XINV has met. -/
theorem settleUnmap_of_none {s : State} (pte : Nat) (h : s.launches.deferred = []) : s.settleUnmap pte = s := by
  unfold State.settleUnmap
  simp only [h, List.filter_nil, List.foldl_nil]
  split
  · rfl
  · rw [← h]

theorem pinCount_setPins {s : State} (hwf : s.mem.wf = true) (pte : Nat) {n : Nat} (hn : n < 256) :
    (s.setPins pte n).pinCount pte = n := by
  rw [State.pinCount, State.setPins, num_setNum hwf, Nat.pow_one, Nat.mod_eq_of_lt hn]

/-- One page given up: its pin goes, and the translations LEASE alone kept. -/
def State.giveUpPage (s : State) (job : Nat) (p : Page) : State :=
  { s.setPins p.pte (s.pinCount p.pte - 1) with
    launches := { s.launches with pins := s.launches.pins.erase (p.pinFor job) }
    tlb := (s.tlb.filter fun t => !t.leased job p.pte).map fun t =>
      if t.job = job ∧ t.pte = p.pte then { t with pinners := t.pinners.filter (· != 0) } else t }

theorem unpinAll_single {s : State} {job : Nat} {o : Obj} {p : Page} (hranges : o.fld 0 8 4 = 1) (hpages : s.unpinPages job o 0 = [p])
    (hhere : p.here = true) (hdeferred : s.launches.deferred = []) : leaseOp.unpinAll job o s = s.giveUpPage job p := by
  have hlist : (List.range (o.fld 0 8 4)).flatMap (s.unpinPages job o) = [p] := by
    rw [hranges, List.range_one, List.flatMap_singleton, hpages]
  rw [leaseOp.unpinAll, hlist, List.foldl_cons, List.foldl_nil, hhere, if_neg (by decide)]
  dsimp only
  rw [State.unpin, settleUnmap_of_none p.pte (by exact hdeferred)]
  rfl

/-- What is left of the translations is not kept by LEASE alone. -/
theorem giveUpPage_leased (s : State) (job : Nat) (p : Page) : ∀ u ∈ (s.giveUpPage job p).tlb, u.leased job p.pte = false := by
  intro u hu
  obtain ⟨v, hv, rfl⟩ := List.mem_map.mp hu
  have hkept : v.leased job p.pte = false := by simpa using (List.mem_filter.mp hv).2
  split
  · have hzero : (v.pinners.filter (· != 0) == [0]) = false := by
      refine beq_eq_false_iff_ne.mpr fun heq => ?_
      have hmem : 0 ∈ v.pinners.filter (· != 0) := heq ▸ List.mem_singleton.mpr rfl
      exact absurd (List.mem_filter.mp hmem).2 (by decide)
    rw [Tr.leased, hzero, Bool.and_false]
  · exact hkept

/-! LEASE (R288). -/

theorem exec_lease {i : Instr} {a b c : Reg} {la : Look} (s : State) (h : Claims.isLease i a b c la) :
    exec i s = leaseOp i a b c la s := by
  obtain rfl | rfl := h <;> rfl

theorem low_ne_one {y : Word} (h : y.toNat % 4 = 0) : ¬ wbits y 0 2 = 1 := by
  rw [wbits, bitsOf, Nat.pow_zero, Nat.div_one]
  exact fun heq => absurd (h.symm.trans heq) (by decide)

/-- What LEASE does with the lease set it has found, before its promise. -/
def leaseTail (y z : Word) (job : Nat) (o : Obj) (x : State) : M Unit :=
  if wbits y 0 2 = 1 then upd (leaseOp.unpinAll job o)
  else
    match leasePages x job o (o.fld 0 8 4) 0 with
    | .error va =>
      match State.pinAll 0 job (leaseBefore x job o (o.fld 0 8 4) 0) x with
      | .ok _ => trap 5 0 (toW va)
      | .error _ => trap 7 0 0
    | .ok ps =>
      match State.pinAll 0 job ps x with
      | .ok t => set (t.loadLease job ps (maskClusters x z))
      | .error _ => trap 7 0 0

section
variable {i : Instr} {a b c : Reg} {la : Look} {s x : State} {job h : Nat} {o : Obj} (hsup : Claims.sup s [a, b, c])
  (hi : Claims.isLease i a b c la) (hword : (job, h) = entryWord s (s.me.src a))
  (huse : useHandle job h 11 .admin (s.me.src a) (s.issue 4) = .ok (o, x))
include hsup hi hword huse

theorem lease_checked (hb : (s.me.src b).toNat % 4 ≤ 1) : exec i s = finishLong 4 (window la) [.l0] none s
    ((leaseTail (s.me.src b) (s.me.src c) job o x >>= fun _ => promiseFree) x) := by
  have hb' : decide (wbits (s.me.src b) 0 2 ≤ 1) = true := by
    rw [wbits, bitsOf, Nat.pow_zero, Nat.div_one]
    exact decide_eq_true hb
  obtain ⟨hcalm, hplv, hplain, -⟩ := hsup
  rw [exec_lease s hi, leaseOp, command_sup hcalm hplv, bind_ok _ _ _ _ _ (rd3_issue_calm 4 hcalm hplain)]
  dsimp only
  rw [bind_ok _ _ _ _ _ rfl, show entryWord (s.issue 4) (s.me.src a) = (job, h) from hword.symm]
  dsimp only
  rw [bind_ok _ _ _ _ _ huse, bind_ok _ _ _ _ _ rfl, bind_ok _ _ _ _ _ (need_of_true _ _ hb')]
  unfold leaseTail
  split
  · rfl
  · cases leasePages x job o (o.fld 0 8 4) 0 with
    | error va =>
      dsimp only
      cases State.pinAll 0 job (leaseBefore x job o (o.fld 0 8 4) 0) x <;> rfl
    | ok ps =>
      dsimp only
      cases State.pinAll 0 job ps x <;> rfl

omit hsup hi hword in
/-- The strand and the device of LEASE's issuer are as at its issue when it has found its lease set. -/
theorem lease_found : x.me = (s.issue 4).me ∧ x.launches = s.launches ∧ x.mem = s.mem := by
  unfold useHandle at huse
  dsimp only at huse
  rw [if_neg (show ¬ 11 = 1 by decide)] at huse
  split_ifs at huse
  cases huse
  exact ⟨rfl, rfl, rfl⟩

theorem lease_pins {ps : List Page} {u : State} (hb : (s.me.src b).toNat % 4 = 0)
    (hpages : leasePages x job o (o.fld 0 8 4) 0 = .ok ps) (hpins : State.pinAll 0 job ps x = .ok u) :
    ∃ t, exec i s = .next t ∧ Claims.promised s t ∧ t.mem = u.mem ∧
      t.launches.pins = s.launches.pins ++ (ps.filter Page.here).map (Page.pinFor job) := by
  obtain ⟨hme, hlaunches, -⟩ := lease_found huse
  obtain ⟨hcalm, -⟩ := id hsup
  have hnot := low_ne_one hb
  have hfound := loadLease_frame u job ps (maskClusters x (s.me.src c))
  have hpinned := pinAll_frame hpins
  have hrun : leaseTail (s.me.src b) (s.me.src c) job o x x = .ok ((), u.loadLease job ps (maskClusters x (s.me.src c))) := by
    rw [leaseTail, if_neg hnot, hpages]
    dsimp only
    rw [hpins]
    rfl
  have humem : u.me = x.me := by rw [hpinned]
  have hlme : (u.loadLease job ps (maskClusters x (s.me.src c))).me = (s.issue 4).me := by rw [hfound, humem, hme]
  obtain ⟨hpromise, hpromised⟩ := promiseFree_ends hcalm hlme
  have hpins' : u.launches.pins = s.launches.pins ++ (ps.filter Page.here).map (Page.pinFor job) := by rw [hpinned, hlaunches]
  refine ⟨_, ?_, hpromised, ?_, ?_⟩
  · rw [lease_checked hsup hi hword huse (by omega), bind_ok _ _ _ _ _ hrun, hpromise]
    rfl
  · rw [State.promisedFree, hfound]
  · rw [State.promisedFree, hfound]
    exact hpins'

theorem lease_refuses {e : Stop} (hb : (s.me.src b).toNat % 4 = 0) (hrun : leaseTail (s.me.src b) (s.me.src c) job o x x = .error e) :
    exec i s = finishLong 4 (window la) [.l0] none s (.error e) := by
  rw [lease_checked hsup hi hword huse (by omega), bind_error _ hrun]

theorem lease_unpins {p : Page} (hb : (s.me.src b).toNat % 4 = 1) (hranges : o.fld 0 8 4 = 1) (hpages : x.unpinPages job o 0 = [p])
    (hhere : p.here = true) (hdeferred : s.launches.deferred = []) (hwf : s.mem.wf = true) :
    ∃ t, exec i s = .next t ∧ Claims.promised s t ∧ t.pinCount p.pte = s.pinCount p.pte - 1 ∧
      t.launches.pins = s.launches.pins.erase (p.pinFor job) ∧ ∀ u ∈ t.tlb, u.leased job p.pte = false := by
  obtain ⟨hme, hlaunches, hmem⟩ := lease_found huse
  obtain ⟨hcalm, -⟩ := id hsup
  have hone : wbits (s.me.src b) 0 2 = 1 := by
    rw [wbits, bitsOf, Nat.pow_zero, Nat.div_one]
    exact hb
  have hrun : leaseTail (s.me.src b) (s.me.src c) job o x x = .ok ((), x.giveUpPage job p) := by
    rw [leaseTail, if_pos hone, upd, unpinAll_single hranges hpages hhere (hlaunches ▸ hdeferred)]
  obtain ⟨hpromise, hpromised⟩ := promiseFree_ends (u := x.giveUpPage job p) hcalm hme
  have hcount : x.pinCount p.pte = s.pinCount p.pte := by rw [State.pinCount, State.num, State.bytesAt, hmem]; rfl
  have hlt : s.pinCount p.pte - 1 < 256 := by
    have := num_lt s (p.pte + 8) 1
    rw [State.pinCount]
    omega
  refine ⟨_, ?_, hpromised, ?_, ?_, giveUpPage_leased x job p⟩
  · rw [lease_checked hsup hi hword huse (by omega), bind_ok _ _ _ _ _ hrun, hpromise]
    rfl
  · rw [← hcount] at hlt ⊢
    exact pinCount_setPins (hmem ▸ hwf) p.pte hlt
  · exact congrArg (fun l : Launches => l.pins.erase (p.pinFor job)) hlaunches

end

/-! XINV (R291). -/

/-- The pinned pages of this device that an XINV of x, y and z names. -/
def State.xpinned (s : State) (x y z : Word) : List Pin :=
  s.launches.pins.filter fun p => Claims.xhits s x y z p.job p.va p.size && decide (s.pinCount p.pte ≠ 0)

/-- Whether an XINV keeps a translation, and what it makes of one it keeps. -/
def State.xkeeps (s : State) (x y z : Word) (t : Tr) : Bool :=
  !Claims.xhits s x y z t.job t.base t.size || (decide (s.pinCount t.pte ≠ 0) && wbits t.w0 48 16 == 0xFFFF)
def State.xclears (s : State) (x y z : Word) (t : Tr) : Tr :=
  if Claims.xhits s x y z t.job t.base t.size then { t with logged := false } else t

/-- The translations an XINV drops later, with their issuer. -/
def State.xlater (s : State) (x y z : Word) : List (Pin × Nat) :=
  ((s.xpinned x y z).map fun p => ({ p with owner := 0 }, s.me.sid.toNat)).eraseDups.filter fun d => !s.launches.deferred.contains d

/-- What an XINV leaves before its promise. -/
def State.invalidated (s : State) (x y z : Word) : State :=
  State.retryRemaps { s with
    tlb := (s.tlb.filter (s.xkeeps x y z)).map (s.xclears x y z)
    launches := { s.launches with deferred := s.launches.deferred ++ s.xlater x y z }
    me := { s.me with pw := if (s.xpinned x y z).isEmpty then s.me.pw &&& 0x7FFF#16 else s.me.pw ||| 0x8000#16 } }

section
variable {a b c : Reg} (la : Look) {s : State} (hsup : Claims.sup s [a, b, c])
include hsup

theorem exec_xinv : exec (.xinv a b c la) s =
    .next ((s.issue 4).invalidated (s.me.src a) (s.me.src b) (s.me.src c)).promisedFree := by
  obtain ⟨hcalm, hplv, hplain, hstores⟩ := hsup
  have hcalm' := State.calm_issue s 4 hcalm
  have hdone : storesDone (s.issue 4) = .ok ((), s.issue 4) := if_pos (List.isEmpty_iff.mpr hstores)
  have hpend : ((s.issue 4).invalidated (s.me.src a) (s.me.src b) (s.me.src c)).me.pend = [] := hcalm'.2.1
  rw [exec, execXinv, command_sup hcalm hplv, bind_ok _ _ _ _ _ (rd3_issue_calm 4 hcalm hplain)]
  dsimp only
  rw [bind_ok _ _ _ _ _ (pwHere_calm _ hcalm'), bind_ok _ _ _ _ _ hdone]
  exact congrArg (finishLong 4 (window la) [.l0] none s)
    ((bind_ok _ (fun _ => promiseFree) _ () ((s.issue 4).invalidated (s.me.src a) (s.me.src b) (s.me.src c)) rfl).trans
      (promiseFree_of_pend_nil hpend))

end

theorem mem_xkept {s : State} {x y z : Word} {u : Tr} (hu : u ∈ (s.tlb.filter (s.xkeeps x y z)).map (s.xclears x y z))
    (hhit : Claims.xhits s x y z u.job u.base u.size = true) :
    s.pinCount u.pte ≠ 0 ∧ wbits u.w0 48 16 = 0xFFFF ∧ u.logged = false := by
  obtain ⟨v, hv, rfl⟩ := List.mem_map.mp hu
  have hkeeps := (List.mem_filter.mp hv).2
  have hvhit : Claims.xhits s x y z v.job v.base v.size = true := by
    rw [State.xclears] at hhit
    split at hhit <;> exact hhit
  rw [State.xkeeps, hvhit] at hkeeps
  rw [State.xclears, if_pos hvhit]
  obtain ⟨hpin, hhere⟩ := Bool.and_eq_true_iff.mp hkeeps
  exact ⟨of_decide_eq_true hpin, beq_iff_eq.mp hhere, rfl⟩

theorem mem_xkept_of_miss {s : State} {x y z : Word} {u : Tr} (hu : u ∈ s.tlb)
    (hmiss : Claims.xhits s x y z u.job u.base u.size = false) :
    u ∈ (s.tlb.filter (s.xkeeps x y z)).map (s.xclears x y z) := by
  have hkeeps : s.xkeeps x y z u = true := by rw [State.xkeeps, hmiss]; rfl
  have hclears : s.xclears x y z u = u := by rw [State.xclears, if_neg (by rw [hmiss]; exact Bool.false_ne_true)]
  exact hclears ▸ List.mem_map_of_mem (List.mem_filter.mpr ⟨hu, hkeeps⟩)

/-- A pinned page an XINV names is dropped later. -/
theorem mem_deferred {s : State} {x y z : Word} {p : Pin} (hp : p ∈ s.xpinned x y z) :
    ({ p with owner := 0 }, s.me.sid.toNat) ∈ s.launches.deferred ++ s.xlater x y z := by
  by_cases hold : s.launches.deferred.contains ({ p with owner := 0 }, s.me.sid.toNat) = true
  · exact List.mem_append_left _ (List.contains_iff_mem.mp hold)
  · refine List.mem_append_right _ (List.mem_filter.mpr ⟨?_, by rw [Bool.eq_false_iff.mpr hold]; rfl⟩)
    exact List.mem_eraseDups.mpr (List.mem_map.mpr ⟨p, hp, rfl⟩)

/-! DLOGH (R290). -/

/-- The logs of a die's compute cores that hold records, in the clusters named. -/
def State.logsIn (s : State) (cls : List Nat) : List (Nat × Nat) :=
  ((cls.flatMap fun c => (List.range 16).map fun i => c * 32 + i).filter fun k => s.logCount k != 0).map fun k => (k, s.logCount k)

theorem mem_logsIn {s : State} {k : Nat} (hk : k < 4096) (hcore : coreNo k < 16) (hcount : s.logCount k ≠ 0) :
    (k, s.logCount k) ∈ s.logsIn (List.range 128) := by
  rw [coreNo] at hcore
  refine List.mem_map.mpr ⟨k, List.mem_filter.mpr ⟨List.mem_flatMap.mpr ⟨k / 32, List.mem_range.mpr (by omega), ?_⟩,
    bne_iff_ne.mpr hcount⟩, rfl⟩
  exact List.mem_map.mpr ⟨k % 32, List.mem_range.mpr hcore, by omega⟩

theorem exec_dlogh {a b c : Reg} (la : Look) {s : State} (hsup : Claims.sup s [a, b, c]) (hall : (s.me.src a).getLsbD 7 = true) :
    exec (.dlogh a la) s = finishLong 4 (window la) [.l0] none s ((promiseFree >>= fun _ =>
      if (s.logsIn (List.range 128)).isEmpty then pure () else waitFor (.logs (s.logsIn (List.range 128))) la) (s.issue 4)) := by
  obtain ⟨hcalm, hplv, hplain, -⟩ := hsup
  obtain ⟨ha, -⟩ := Bool.and_eq_true_iff.mp hplain
  rw [exec, execDlogh, command_sup hcalm hplv, bind_ok _ _ _ _ _ (rd_issue 4 hcalm ha)]
  dsimp only
  rw [bind_ok _ _ _ _ _ rfl, hall]
  rfl

theorem logsIn_nil {s : State} (h : ∀ k < 4096, s.logCount k = 0) : s.logsIn (List.range 128) = [] := by
  rw [State.logsIn, List.map_eq_nil_iff, List.filter_eq_nil_iff]
  intro k hk
  obtain ⟨c, hc, hk⟩ := List.mem_flatMap.mp hk
  obtain ⟨i, hi, rfl⟩ := List.mem_map.mp hk
  rw [h _ (by have := List.mem_range.mp hc; have := List.mem_range.mp hi; omega)]
  exact Bool.false_ne_true

end Sys2Proof.Machine
end
section
/-! PROOFS. LEASE, XINV and DLOGH (R287 to R291). -/

namespace Sys2Proof.Machine

/-- Settles O46: LEASE pins all of its pages or none and UNPIN gives one page up; XINV filters the translations; DLOGH lists the
logs that hold records. -/
theorem pinsAndInvalidation : Obligations.PinsAndInvalidation := by
  intro a b c la s hsup
  obtain ⟨hcalm, hplv, hplain, hstores⟩ := id hsup
  refine ⟨fun i job h o x hi hword huse => ⟨fun hb => ⟨fun ps hpages => ⟨fun u hpins => ?pins, fun va hpins => ?pinsFail⟩,
      fun va hpages => ⟨fun u hpins => ?missing, fun e hpins => ?missingFail⟩⟩, fun p hb hranges hpages hhere hdeferred hwf => ?unpins⟩,
    ?xinv, fun hall => ⟨fun hnone => ?logsEmpty, fun k hk hcore hcount => ?logs⟩⟩
  case pins => exact lease_pins hsup hi hword huse hb hpages hpins
  case pinsFail =>
    refine lease_refuses hsup hi hword huse hb ?_
    rw [leaseTail, if_neg (low_ne_one hb), hpages]
    dsimp only
    rw [hpins]
    rfl
  case missing =>
    refine lease_refuses hsup hi hword huse hb ?_
    rw [leaseTail, if_neg (low_ne_one hb), hpages]
    dsimp only
    rw [hpins]
    rfl
  case missingFail =>
    refine lease_refuses hsup hi hword huse hb ?_
    rw [leaseTail, if_neg (low_ne_one hb), hpages]
    dsimp only
    rw [hpins]
    rfl
  case unpins =>
    obtain ⟨t, hexec, hpromised, hcount, hpins, htlb⟩ := lease_unpins hsup hi hword huse hb hranges hpages hhere hdeferred hwf
    exact ⟨t, hexec, hpromised, hcount, hpins, htlb⟩
  case xinv =>
    refine ⟨_, exec_xinv la hsup, rfl, fun u hu hhit => mem_xkept (s := s.issue 4) hu hhit,
      fun u hu hmiss => mem_xkept_of_miss (s := s.issue 4) hu hmiss, fun hnone => ?_, fun p hp hhit hcount => ?_⟩
    · have hpinned : (s.issue 4).xpinned (s.me.src a) (s.me.src b) (s.me.src c) = [] := by
        rw [State.xpinned, show (s.issue 4).launches.pins = [] from hnone, List.filter_nil]
      have hme : ((s.issue 4).invalidated (s.me.src a) (s.me.src b) (s.me.src c)).me =
          { (s.issue 4).me with pw := (s.issue 4).me.pw &&& 0x7FFF#16 } := by
        simp only [State.invalidated, hpinned]
        rfl
      rw [State.promisedFree, hme, issue_calm hcalm]
      rfl
    · have hpinned : p ∈ (s.issue 4).xpinned (s.me.src a) (s.me.src b) (s.me.src c) :=
        List.mem_filter.mpr ⟨hp, Bool.and_eq_true_iff.mpr ⟨hhit, decide_eq_true hcount⟩⟩
      have hsome : ((s.issue 4).xpinned (s.me.src a) (s.me.src b) (s.me.src c)).isEmpty = false :=
        Bool.eq_false_iff.mpr fun hnil => List.not_mem_nil (List.isEmpty_iff.mp hnil ▸ hpinned)
      have hpw : ((s.issue 4).invalidated (s.me.src a) (s.me.src b) (s.me.src c)).promisedFree.me.pw =
          (s.issue 4).me.pw ||| 0x8000#16 := if_neg (Bool.eq_false_iff.mp hsome)
      exact ⟨by rw [hpw, BitVec.getLsbD_or]; exact Bool.or_true _, mem_deferred hpinned⟩
  case logsEmpty =>
    obtain ⟨hpromise, hpromised⟩ := promiseFree_ends (u := s.issue 4) hcalm rfl
    refine ⟨_, ?_, hpromised, rfl⟩
    rw [exec_dlogh la hsup hall, bind_ok _ _ _ _ _ hpromise, logsIn_nil hnone]
    rfl
  case logs =>
    obtain ⟨hpromise, -⟩ := promiseFree_ends (u := s.issue 4) hcalm rfl
    have hmem := mem_logsIn hk hcore hcount
    have hsome : (s.logsIn (List.range 128)).isEmpty = false :=
      Bool.eq_false_iff.mpr fun hnil => List.not_mem_nil (List.isEmpty_iff.mp hnil ▸ hmem)
    obtain ⟨pend, hwait, hp⟩ := waitFor_of_pend_nil (s := (s.issue 4).promisedFree) (.logs (s.logsIn (List.range 128))) la
      (State.calm_issue s 4 hcalm).2.1
    refine ⟨{ (s.issue 4).promisedFree with me := { (s.issue 4).promisedFree.me with pend } }, _, ?_, hmem,
      promisedWait_of (w := Config.freeWord s.free) ?_ hp, rfl⟩
    · rw [exec_dlogh la hsup hall, bind_ok _ _ _ _ _ hpromise, if_neg (Bool.eq_false_iff.mp hsome), hwait, finishLong]
    · simp only [State.promisedFree, issue_calm hcalm]
      rfl

end Sys2Proof.Machine
end

section
/-! SUPPORT. Bits of numbers and of words in memory, and leaf entries (R282, R292). -/

namespace Sys2Proof.Machine

open Sys2Proof.Num

theorem nbit_eq (v i : Nat) : nbit v i = v.testBit i := by
  rw [nbit, Nat.testBit_eq_decide_div_mod_eq, Bool.eq_iff_iff, beq_iff_eq, decide_eq_true_iff]

theorem bitsOf_setBits (v lo n x : Nat) : bitsOf (setBits v lo n x) lo n = x % 2 ^ n := by
  refine Nat.eq_of_testBit_eq fun i => ?_
  rw [testBit_bitsOf, testBit_setBits, Nat.testBit_mod_two_pow]
  by_cases hi : i < n
  · rw [if_pos (by omega), Nat.add_sub_cancel_left]
  · rw [decide_eq_false hi, Bool.false_and, Bool.false_and]

theorem bitsOf_mod (v : Nat) {lo n w : Nat} (h : lo + n ≤ w) : bitsOf (v % 2 ^ w) lo n = bitsOf v lo n := by
  refine Nat.eq_of_testBit_eq fun i => ?_
  rw [testBit_bitsOf, testBit_bitsOf, Nat.testBit_mod_two_pow]
  by_cases hi : i < n
  · rw [decide_eq_true (show lo + i < w by omega), Bool.true_and]
  · rw [decide_eq_false hi, Bool.false_and, Bool.false_and]

theorem num8_setNum {s : State} (hwf : s.mem.wf = true) (a v : Nat) : (s.setNum a 8 v).num a 8 = v % 2 ^ 64 := num_setNum hwf a 8 v

theorem setNum_wf {s : State} (hwf : s.mem.wf = true) (a n v : Nat) : (s.setNum a n v).mem.wf = true :=
  State.setBytes_wf s a _ hwf

/-! The two words of a leaf entry. -/

/-- A leaf entry written. -/
def State.setLeaf (s : State) (pte w0 w1 : Nat) : State := (s.setNum pte 8 w0).setNum (pte + 8) 8 w1

section
variable {s : State} (hwf : s.mem.wf = true) (pte w0 w1 : Nat)
include hwf

theorem leafW0_setLeaf : (s.setLeaf pte w0 w1).leafW0 pte = w0 % 2 ^ 64 := by
  rw [State.leafW0, State.setLeaf, num_setNum_apart (setNum_wf hwf _ _ _) _ (.inl (Nat.le_refl _)), num8_setNum hwf]

theorem leafW1_setLeaf : (s.setLeaf pte w0 w1).num (pte + 8) 8 = w1 % 2 ^ 64 := by
  rw [State.setLeaf, num8_setNum (setNum_wf hwf _ _ _)]

theorem nbit_leafW0_setLeaf {i : Nat} (hi : i < 64) : nbit ((s.setLeaf pte w0 w1).leafW0 pte) i = w0.testBit i := by
  rw [leafW0_setLeaf hwf, nbit_eq, Nat.testBit_mod_two_pow, decide_eq_true hi, Bool.true_and]

end

/-! PAGE_WALK (R282, R283). -/

theorem pull_some {α : Type} {p : α → Bool} {l : List α} {x : α} {r : List α} (h : pull p l = some (x, r)) : p x = true := by
  induction l generalizing r with
  | nil => cases h
  | cons y l ih =>
    rw [pull] at h
    split at h
    · next hy => cases h; exact hy
    · cases hpull : pull p l with
      | none => rw [hpull] at h; cases h
      | some z =>
        rw [hpull] at h
        cases h
        exact ih hpull

theorem pull_none {α : Type} {p : α → Bool} {l : List α} (h : ∀ x ∈ l, p x = false) : pull p l = none := by
  induction l with
  | nil => rfl
  | cons y l ih =>
    obtain ⟨hy, hl⟩ := List.forall_mem_cons.mp h
    rw [pull, if_neg (Bool.eq_false_iff.mp hy), ih hl]
    rfl

theorem pageSize_pos (level : Nat) : 0 < pageSize level := by
  unfold pageSize
  split <;> decide

/-- The page of a walk covers the address walked. -/
theorem covers_page (cl job va level pte : Nat) (w0 : Word) :
    Tr.covers { cl, job, base := va / pageSize level * pageSize level, size := pageSize level, pte, w0, pinners := [], logged := false }
      cl job va = true := by
  have hdiv := Nat.div_add_mod va (pageSize level)
  have hmod := Nat.mod_lt va (pageSize_pos level)
  rw [Nat.mul_comm] at hdiv
  simp only [Tr.covers, beq_self_eq_true, Bool.true_and, Bool.and_eq_true, decide_eq_true_eq]
  omega

theorem lookup_of_walk {s : State} {cl job va pte level w0 w1 : Nat} (hwalk : s.walk job va = some (pte, level, w0, w1)) :
    ∃ t u, s.lookup cl job va = some (t, u) ∧ u.me = s.me ∧ u.mem = s.mem ∧ t ∈ u.tlb ∧ t.covers cl job va = true := by
  rw [State.lookup]
  cases hpull : pull (fun t : Tr => t.covers cl job va) s.tlb with
  | some x =>
    obtain ⟨t, r⟩ := x
    exact ⟨t, _, rfl, rfl, rfl, List.mem_cons_self, pull_some (p := fun t : Tr => t.covers cl job va) hpull⟩
  | none =>
    dsimp only
    rw [hwalk]
    exact ⟨_, _, rfl, rfl, rfl, List.mem_cons_self, covers_page cl job va level pte (toW w0)⟩

theorem lookup_of_no_walk {s : State} {cl job va : Nat} (hwalk : s.walk job va = none)
    (hmiss : ∀ u ∈ s.tlb, u.covers cl job va = false) : s.lookup cl job va = none := by
  rw [State.lookup, pull_none hmiss]
  dsimp only
  rw [hwalk]

/-! PGMIG (R292). -/

/-- The migration a PGMIG starts. -/
def migOf (s : State) (la : Look) (job va pte level w0 new : Nat) : Mig where
  pte := pte
  old := bitsOf w0 16 32 * 65536
  new := new
  size := pageSize level
  moved := 0
  job := job
  va := va
  waiter := if la.val = 15 then none else some s.me.sid.toNat
  swap := false

/-- A frame with room for a page is not in memory the part lacks. -/
theorem lp6_of_installed {new size : Nat} (hsize : 0 < size) (h : installed new size = true) :
    (nbit new 47 && Config.lp6Share == 0) = false := by
  refine Bool.eq_false_iff.mpr fun hboth => ?_
  obtain ⟨hbit, hshare⟩ := Bool.and_eq_true_iff.mp hboth
  rw [installed, if_pos hbit] at h
  obtain ⟨-, hfit⟩ := Bool.and_eq_true_iff.mp h
  have hnone : lp6Bytes = 0 := by rw [lp6Bytes, beq_iff_eq.mp hshare]; exact Nat.zero_min _
  have := of_decide_eq_true hfit
  omega

theorem startMig_me (s : State) (m : Mig) : (s.startMig m).me = s.me := rfl

/-- Starting a migration sets FWD, and NEWPA to its target. -/
theorem startMig_leaf {s : State} (hwf : s.mem.wf = true) (m : Mig) :
    nbit ((s.startMig m).leafW0 m.pte) 10 = true ∧
    bitsOf ((s.startMig m).num (m.pte + 8) 8) 16 32 = m.new / 65536 % 2 ^ 32 := by
  refine ⟨(nbit_leafW0_setLeaf hwf m.pte _ _ (by decide)).trans ?_, ?_⟩
  · rw [setBit, testBit_setBits]
    rfl
  · refine (congrArg (bitsOf · 16 32) (leafW1_setLeaf hwf m.pte _ _)).trans ?_
    rw [bitsOf_mod _ (by decide), bitsOf_setBits]

theorem startMig_agenda (s : State) (m : Mig) :
    ({ ev := .pageMigrationLineCopy, arg := { n := m.pte } } : Due) ∈ (s.startMig m).agenda :=
  List.mem_append_right _ (List.mem_singleton.mpr rfl)

section
variable {a b c : Reg} (la : Look) {s : State} {job va pte level w0 w1 new : Nat} (hsup : Claims.sup s [a, b, c])
  (hjob : job = if wbits (s.me.src c) 0 16 = 0 then s.me.job.toNat else wbits (s.me.src c) 0 16)
  (hwalk : s.walk job ((s.me.src a).toNat % 2 ^ 56) = some (pte, level, w0, w1)) (hnew : new = wbits (s.me.src b) 16 32 * 65536)
  (hva : va = (s.me.src a).toNat % 2 ^ 56 / pageSize level * pageSize level)
  (hhere : bitsOf w0 48 16 = 0xFFFF) (halign : bitsOf new 0 47 % pageSize level = 0)
  (hfits : installed new (pageSize level) = true) (hmoves : new ≠ bitsOf w0 16 32 * 65536)
include hsup hjob hwalk hnew hva hhere halign hfits hmoves

/-- What a PGMIG of a good page does once its page is known. -/
theorem exec_pgmig : exec (.pgmig a b c la) s = finishLong 4 (window la) [.l0] none s ((do
    need (bitsOf w1 0 8 == 0) (illegalState (s.me.src a))
    if nbit w0 10 || s.targeted job va (pageSize level) then stop .wait
    promiseFree
    waitFor (.table 3 pte 0) la
    upd fun t => t.startMig (migOf t la job va pte level w0 new)) (s.issue 4)) := by
  obtain ⟨hcalm, hplv, hplain, -⟩ := hsup
  have hjob' : (if wbits (s.me.src c) 0 16 = 0 then (s.issue 4).me.job.toNat else wbits (s.me.src c) 0 16) = job := hjob.symm
  have hwalk' : (s.issue 4).walk job ((s.me.src a).toNat % 2 ^ 56) = some (pte, level, w0, w1) := hwalk
  rw [exec, execPgmig, command_sup hcalm hplv, bind_ok _ _ _ _ _ (rd3_issue_calm 4 hcalm hplain)]
  dsimp only
  rw [bind_ok _ _ _ _ _ rfl, hjob', hwalk']
  dsimp only
  rw [← hnew, ← hva, bind_ok _ _ _ _ _ (need_of_true _ _ ?_)]
  · rfl
  · rw [lp6_of_installed (pageSize_pos level) hfits, hhere, halign, hfits, bne_iff_ne.mpr hmoves]
    rfl

theorem pgmig_pinned (hpins : bitsOf w1 0 8 ≠ 0) :
    exec (.pgmig a b c la) s = finishLong 4 (window la) [.l0] none s (.error (.trap 7 0 (s.me.src a))) := by
  rw [exec_pgmig la hsup hjob hwalk hnew hva hhere halign hfits hmoves, need, beq_eq_false_iff_ne.mpr hpins]
  rfl

theorem pgmig_waits (hpins : bitsOf w1 0 8 = 0) (hbusy : nbit w0 10 = true ∨ s.targeted job va (pageSize level) = true) :
    exec (.pgmig a b c la) s = .next s := by
  rw [exec_pgmig la hsup hjob hwalk hnew hva hhere halign hfits hmoves, bind_ok _ _ _ _ _ (need_of_true _ _ (beq_iff_eq.mpr hpins)),
    if_pos (Bool.or_eq_true_iff.mpr hbusy)]
  rfl

theorem pgmig_starts (hwf : s.mem.wf = true) (hpins : bitsOf w1 0 8 = 0) (hstill : nbit w0 10 = false)
    (hfree : s.targeted job va (pageSize level) = false) : ∃ t m,
      exec (.pgmig a b c la) s = .next t ∧ Claims.promisedWait s t (.table 3 pte 0) la ∧ t.migs = s.migs ++ [m] ∧ m.pte = pte ∧
      m.va = va ∧ m.old = bitsOf w0 16 32 * 65536 ∧ m.new = new ∧ m.size = pageSize level ∧ m.moved = 0 ∧
      nbit (t.leafW0 pte) 10 = true ∧ bitsOf (t.num (pte + 8) 8) 16 32 = new / 65536 ∧
      ({ ev := .pageMigrationLineCopy, arg := { n := pte } } : Due) ∈ t.agenda := by
  have hcalm := hsup.1
  obtain ⟨hpromise, -⟩ := promiseFree_ends (u := s.issue 4) hcalm rfl
  obtain ⟨pend, hwait, hp⟩ := waitFor_of_pend_nil (s := (s.issue 4).promisedFree) (.table 3 pte 0) la (State.calm_issue s 4 hcalm).2.1
  let u : State := { (s.issue 4).promisedFree with me := { (s.issue 4).promisedFree.me with pend } }
  have hleaf := startMig_leaf (s := u) hwf (migOf u la job va pte level w0 new)
  refine ⟨u.startMig (migOf u la job va pte level w0 new), migOf u la job va pte level w0 new, ?_,
    promisedWait_of (w := Config.freeWord s.free) ?_ hp, rfl, rfl, rfl, rfl, rfl, rfl, rfl, hleaf.1, hleaf.2.trans ?_,
    startMig_agenda u (migOf u la job va pte level w0 new)⟩
  · rw [exec_pgmig la hsup hjob hwalk hnew hva hhere halign hfits hmoves,
      bind_ok _ _ _ _ _ (need_of_true _ _ (beq_iff_eq.mpr hpins)), hstill, hfree]
    refine (congrArg (finishLong 4 (window la) [.l0] none s) ((bind_ok _ _ _ _ _ hpromise).trans (bind_ok _ _ _ _ _ hwait))).trans ?_
    rfl
  · rw [startMig_me]
    simp only [u, State.promisedFree, issue_calm hcalm]
    rfl
  · have := wbits_lt (s.me.src b) 16 32
    rw [Nat.mod_eq_of_lt]
    · rfl
    · show new / 65536 < 2 ^ 32
      omega

end

/-! PAGE_MIGRATION_LINE_COPY (R292). -/

theorem copyLine_false (s : State) (src dst : Nat) :
    s.copyLine false src dst = (s.setBytes dst (s.bytesAt src 256)).moveLines (moveLine (src / 256) (dst / 256)) := rfl

theorem bytesAt_length (s : State) (a n : Nat) : (s.bytesAt a n).length = n := by
  rw [State.bytesAt, List.length_map, List.length_range]

/-- What undoing a copy keeps: the form of memory, the migrations, and a strand that waits for a migration. -/
structure Undone (s t : State) : Prop where
  wf : s.mem.wf = true → t.mem.wf = true
  migs : t.migs = s.migs
  sid : t.me.sid = s.me.sid
  waits : ∀ p pte, s.me.pend = [p] → p.src = .table 3 pte 0 → t.me.pend = [p]

theorem Undone.refl (s : State) : Undone s s := ⟨id, rfl, rfl, fun _ _ h _ => h⟩

theorem Undone.trans {s t u : State} (h : Undone s t) (h' : Undone t u) : Undone s u where
  wf hs := h'.wf (h.wf hs)
  migs := h'.migs.trans h.migs
  sid := h'.sid.trans h.sid
  waits p pte hp hsrc := h'.waits p pte (h.waits p pte hp hsrc) hsrc

theorem undone_moveLines (s : State) (f : Nat → Nat) : Undone s (s.moveLines f) where
  wf := id
  migs := rfl
  sid := rfl
  waits p pte hp hsrc := by
    simp only [State.moveLines, hp, List.map_cons, List.map_nil, hsrc]

theorem undone_setBytes (s : State) (a : Nat) (bs : List Byte) : Undone s (s.setBytes a bs) :=
  ⟨State.setBytes_wf s a bs, rfl, rfl, fun _ _ h _ => h⟩

theorem undone_copyLine (s : State) (swap : Bool) (src dst : Nat) : Undone s (s.copyLine swap src dst) := by
  cases swap with
  | false => exact (undone_setBytes _ _ _).trans (undone_moveLines _ _)
  | true => exact ((undone_setBytes _ _ _).trans (undone_setBytes _ _ _)).trans (undone_moveLines _ _)

theorem undone_foldl {α : Type} (f : State → α → State) (hf : ∀ s x, Undone s (f s x)) (l : List α) (s : State) :
    Undone s (l.foldl f s) := by
  induction l generalizing s with
  | nil => exact .refl s
  | cons x l ih => exact (hf s x).trans (ih (f s x))

theorem undone_logError (s : State) (k : Nat) : Undone s (s.logError k) :=
  ⟨State.setBytes_wf s _ _, rfl, rfl, fun _ _ h _ => h⟩

/-- What the end of a migration does with what a strand owes. -/
def Mig.over (m : Mig) (f : Pending → Option Pending) (p : Pending) : Option Pending :=
  if p.src == .table 3 m.pte 0 then f p else some p

/-- The end of a migration changes no more than strands. -/
theorem endMig_eq (s : State) (m : Mig) (f : Pending → Option Pending) : ∃ me others, s.endMig m f = { s with me, others } := by
  rw [State.endMig]
  cases m.waiter with
  | none => exact ⟨s.me, s.others, rfl⟩
  | some sid =>
    obtain ⟨me, others, heq, -⟩ := modStrand_eq s sid fun t => { t with pend := t.pend.filterMap (m.over f) }
    exact ⟨me, others, heq⟩

theorem endMig_mem (s : State) (m : Mig) (f : Pending → Option Pending) : (s.endMig m f).mem = s.mem := by
  obtain ⟨me, others, heq⟩ := endMig_eq s m f
  rw [heq]

theorem endMig_migs (s : State) (m : Mig) (f : Pending → Option Pending) : (s.endMig m f).migs = s.migs := by
  obtain ⟨me, others, heq⟩ := endMig_eq s m f
  rw [heq]

theorem endMig_tlb (s : State) (m : Mig) (f : Pending → Option Pending) : (s.endMig m f).tlb = s.tlb := by
  obtain ⟨me, others, heq⟩ := endMig_eq s m f
  rw [heq]

theorem endMig_pend {s : State} {m : Mig} {p q : Pending} {f : Pending → Option Pending} (hwaiter : m.waiter = some s.me.sid.toNat)
    (hpend : s.me.pend = [p]) (hsrc : p.src = .table 3 m.pte 0) (hf : f p = some q) : (s.endMig m f).me.pend = [q] := by
  rw [State.endMig, hwaiter]
  dsimp only
  rw [State.modStrand, if_pos rfl]
  simp only [hpend, hsrc, List.filterMap_cons, List.filterMap_nil, beq_self_eq_true, if_true, hf]

theorem filter_migs {s : State} {m : Mig} (h : s.migs = [m]) : s.migs.filter (fun x => x.pte != m.pte) = [] := by
  rw [h, List.filter_cons_of_neg (by rw [bne_self_eq_false]; exact Bool.false_ne_true), List.filter_nil]

/-- A migration's leaf written and the migration gone. -/
def State.migOver (s : State) (m : Mig) (w0 w1 : Nat) : State :=
  { s.setLeaf m.pte w0 w1 with migs := s.migs.filter fun x => x.pte != m.pte }

/-- The leaf of a migration once its two words are written. -/
theorem leaf_migOver {s t : State} {m : Mig} {w0 w1 : Nat} (hwf : s.mem.wf = true) (hmem : t.mem = (s.migOver m w0 w1).mem) :
    t.leafW0 m.pte = w0 % 2 ^ 64 ∧ t.num (m.pte + 8) 8 = w1 % 2 ^ 64 :=
  ⟨(congrArg leNat (bytesAt_congr fun _ _ => congrArg (fun x : Memory => x.get _) hmem)).trans (leafW0_setLeaf hwf m.pte w0 w1),
    (congrArg leNat (bytesAt_congr fun _ _ => congrArg (fun x : Memory => x.get _) hmem)).trans (leafW1_setLeaf hwf m.pte w0 w1)⟩

/-- The words of a leaf whose migration commits: PA and TIER name the target, FWD and NEWPA are 0. -/
def Mig.committed (m : Mig) (w0 w1 : Nat) : Nat × Nat :=
  (setBits (setBit w0 10 false) 16 32 (m.new / 65536), setBits w1 16 32 0)

theorem commitMig_eq (s : State) (m : Mig) : ∃ w1, s.commitMig m =
    ((s.migOver m (m.committed (s.leafW0 m.pte) w1).1 (m.committed (s.leafW0 m.pte) w1).2).dropTr m.job m.va m.size).endMig m
      fun _ => none := ⟨_, rfl⟩

theorem mem_committed (s : State) (m : Mig) (w0 w1 : Nat) :
    (((s.migOver m w0 w1).dropTr m.job m.va m.size).endMig m fun _ => none).mem = (s.migOver m w0 w1).mem := endMig_mem _ _ _

theorem nbit_committed (m : Mig) (w0 w1 : Nat) : nbit ((m.committed w0 w1).1 % 2 ^ 64) 10 = false := by
  rw [nbit_eq, Nat.testBit_mod_two_pow, Mig.committed, testBit_setBits, if_neg (by decide), setBit, testBit_setBits]
  rfl

/-- The end of a migration: its leaf names the target, and its translations are dropped. -/
theorem commitMig_done {s : State} {m : Mig} (hwf : s.mem.wf = true) (hmigs : s.migs = [m]) (hnew : m.new < 2 ^ 48) :
    (s.commitMig m).migs = [] ∧ bitsOf ((s.commitMig m).leafW0 m.pte) 16 32 = m.new / 65536 ∧
    nbit ((s.commitMig m).leafW0 m.pte) 10 = false ∧ bitsOf ((s.commitMig m).num (m.pte + 8) 8) 16 32 = 0 ∧
    ∀ u ∈ (s.commitMig m).tlb, u.job = m.job → u.base + u.size ≤ m.va ∨ m.va + m.size ≤ u.base := by
  obtain ⟨w1, heq⟩ := commitMig_eq s m
  rw [heq]
  obtain ⟨hw0, hw1⟩ := leaf_migOver hwf (mem_committed s m _ _)
  rw [hw0, hw1, bitsOf_mod _ (by decide), bitsOf_mod _ (by decide), nbit_committed]
  refine ⟨(endMig_migs _ _ _).trans (filter_migs hmigs), ?_, rfl, bitsOf_setBits _ _ _ _, fun u hu hjob => ?_⟩
  · rw [Mig.committed, bitsOf_setBits]
    exact Nat.mod_eq_of_lt (by omega)
  · rw [endMig_tlb] at hu
    have hkept := (List.mem_filter.mp hu).2
    rw [hjob, beq_self_eq_true, Bool.true_and, Bool.not_eq_true', Bool.and_eq_false_iff, decide_eq_false_iff_not,
      decide_eq_false_iff_not] at hkept
    omega

/-- The state in which a failed copy's lines stand at their old frame again. -/
def State.undo (s : State) (m : Mig) (bad : Nat) : State :=
  (List.range m.moved).foldl (fun s j => s.copyLine m.swap (m.new + 256 * j) (m.old + 256 * j)) (s.logError bad)

theorem undone_undo (s : State) (m : Mig) (bad : Nat) : Undone s (s.undo m bad) :=
  (undone_logError s bad).trans (undone_foldl _ (fun _ _ => undone_copyLine _ _ _ _) _ _)

theorem failMig_eq (s : State) (m : Mig) (bad i : Nat) : ∃ w1, s.failMig m bad i =
    ((s.undo m bad).migOver m (setBit ((s.undo m bad).leafW0 m.pte) 10 false) w1).endMig m
      fun p => some (p.fail (.fault 8 0 (toW (m.va + 256 * i)))) := ⟨_, rfl⟩

/-- A failed copy: FWD is clear again, and the strand that waits takes the memory-error trap. -/
theorem failMig_done {s : State} {m : Mig} (hwf : s.mem.wf = true) (hmigs : s.migs = [m]) (bad i : Nat) :
    (s.failMig m bad i).migs = [] ∧ nbit ((s.failMig m bad i).leafW0 m.pte) 10 = false ∧
    ∀ p, m.waiter = some s.me.sid.toNat → s.me.pend = [p] → p.src = .table 3 m.pte 0 →
      (s.failMig m bad i).me.pend = [p.fail (.fault 8 0 (toW (m.va + 256 * i)))] := by
  obtain ⟨w1, heq⟩ := failMig_eq s m bad i
  have hundone := undone_undo s m bad
  obtain ⟨hw0, -⟩ := leaf_migOver (hundone.wf hwf) (endMig_mem ((s.undo m bad).migOver m _ w1) m _)
  rw [heq]
  refine ⟨(endMig_migs _ _ _).trans (filter_migs (hundone.migs.trans hmigs)), ?_, fun p hwaiter hpend hsrc => ?_⟩
  · rw [hw0, nbit_eq, Nat.testBit_mod_two_pow, setBit, testBit_setBits]
    rfl
  · exact endMig_pend (hwaiter.trans (congrArg (fun x => some x.toNat) hundone.sid.symm)) (hundone.waits p _ hpend hsrc) hsrc rfl

section
variable {s : State} {m : Mig} (hmigs : s.migs = [m]) (hpte : m.pte = s.arg.n)
include hmigs hpte

theorem find_mig : (s.migs.find? fun m => m.pte == s.arg.n) = some m := by
  rw [hmigs]
  exact List.find?_cons_of_pos (beq_iff_eq.mpr hpte)

theorem exec_copy_commits (hswap : m.swap = false) (hend : m.size ≤ 256 * m.moved) :
    exec .pageMigrationLineCopy s = .next (s.commitMig m) := by
  rw [exec, execPageMigrationLineCopy, find_mig hmigs hpte]
  dsimp only
  rw [if_pos hend, hswap]
  rfl

end

theorem not_locked {s : State} {a b : Nat} (hfree : ∀ j < 8, s.locked (a + 32 * j) = false ∧ s.locked (b + 32 * j) = false) :
    ((List.range 8).any fun j => s.locked (a + 32 * j) || s.locked (b + 32 * j)) = false := by
  refine List.any_eq_false.mpr fun j hj => ?_
  obtain ⟨hold, hnew⟩ := hfree j (List.mem_range.mp hj)
  rw [hold, hnew]
  exact Bool.false_ne_true

section
variable {s : State} {m : Mig} (hmigs : s.migs = [m]) (hpte : m.pte = s.arg.n) (hswap : m.swap = false)
  (hmore : 256 * m.moved < m.size)
  (hfree : ∀ j < 8, s.locked (m.old + 256 * m.moved + 32 * j) = false ∧ s.locked (m.new + 256 * m.moved + 32 * j) = false)
include hmigs hpte hswap hmore hfree

theorem exec_copy_fails {k : Nat} (hbad : badLine s (m.old + 256 * m.moved) = some k) :
    exec .pageMigrationLineCopy s = .next (s.failMig m k m.moved) := by
  rw [exec, execPageMigrationLineCopy, find_mig hmigs hpte]
  dsimp only
  rw [if_neg (by omega), not_locked hfree, hbad, hswap]
  rfl

theorem exec_copy_moves (hgood : badLine s (m.old + 256 * m.moved) = none) : exec .pageMigrationLineCopy s =
    .next (((s.copyLine false (m.old + 256 * m.moved) (m.new + 256 * m.moved)).setMig { m with moved := m.moved + 1 }).due
      .pageMigrationLineCopy { n := m.pte }) := by
  rw [exec, execPageMigrationLineCopy, find_mig hmigs hpte]
  dsimp only
  rw [if_neg (by omega), not_locked hfree, hgood, hswap]
  cases badLine s (m.new + 256 * m.moved) with
  | none => simp only [execPageMigrationLineCopy.next, hswap]; rfl
  | some k => simp only [execPageMigrationLineCopy.next, hswap]; rfl

end

theorem setMig_migs {s : State} {m x : Mig} (hmigs : s.migs = [m]) (hpte : m.pte = x.pte) : (s.setMig x).migs = [x] := by
  rw [State.setMig, hmigs, List.map_cons, List.map_nil, if_pos (beq_iff_eq.mpr hpte)]

/-- One line moved: its bytes stand at the target, no other byte changes, and its reservations go with it. -/
theorem copied_line {s : State} {m : Mig} (hmigs : s.migs = [m]) (hwf : s.mem.wf = true) :
    ∃ t : State, t = ((s.copyLine false (m.old + 256 * m.moved) (m.new + 256 * m.moved)).setMig { m with moved := m.moved + 1 }).due
        .pageMigrationLineCopy { n := m.pte } ∧ t.migs = [{ m with moved := m.moved + 1 }] ∧
      t.bytesAt (m.new + 256 * m.moved) 256 = s.bytesAt (m.old + 256 * m.moved) 256 ∧
      (∀ k, k < m.new + 256 * m.moved ∨ m.new + 256 * m.moved + 256 ≤ k → t.mem.get k = s.mem.get k) ∧
      t.queues.resv = s.queues.resv.map (fun r => { r with line :=
        if r.line = (m.old + 256 * m.moved) / 256 then (m.new + 256 * m.moved) / 256 else r.line }) := by
  generalize hbs : s.bytesAt (m.old + 256 * m.moved) 256 = bs
  have hlength : bs.length = 256 := by rw [← hbs, bytesAt_length]
  have hset := bytesAt_setBytes hwf (m.new + 256 * m.moved) hlength
  rw [copyLine_false, hbs]
  refine ⟨_, rfl, setMig_migs hmigs rfl,
    (bytesAt_congr (s := s.setBytes (m.new + 256 * m.moved) bs) fun _ _ => rfl).trans hset, fun k hk => ?_, rfl⟩
  refine (get_setBytes hwf _ _ _).trans (if_neg ?_)
  rw [hlength]
  omega

/-! The tier policy (R293). -/

theorem victim_pair {s : State} {l v : Leaf} (hmigs : s.migs = []) (hl : nbit l.w0 47 = true) (hv : nbit v.w0 47 = false)
    (hmovable : v.movable = true) (hsize : v.size = l.size) (hfree : s.targeted v.job v.va v.size = false) :
    s.victim [l, v] l.size = some v := by
  have hnone : (s.migs.any fun m => m.pte == v.pte) = false := by rw [hmigs]; rfl
  simp only [State.victim, List.filter_cons, List.filter_nil, hl, hv, hmovable, hsize.symm, hfree, hnone, beq_self_eq_true, Bool.not_true,
    Bool.not_false, Bool.and_true, Bool.and_false, Bool.false_and, Bool.false_eq_true, if_true, if_false]
  rfl

theorem hwSend_migs (s : State) (dst kind job : Nat) (o1 o2 o3 o4 : Word) : (s.hwSend dst kind job o1 o2 o3 o4).migs = s.migs := by
  obtain ⟨mem, tlb, tier, agenda, queues, heq⟩ := (hwSend_readOnly s dst kind job o1 o2 o3 o4).framed
  rw [heq]

theorem promote_pair {s : State} {l v : Leaf} {ls : List Leaf} (hmigs : s.migs = []) (hmovable : l.movable = true)
    (hfree : s.targeted l.job l.va l.size = false) (hvictim : s.victim ls l.size = some v) :
    (State.promote ls s l).migs.map (fun m => (m.pte, m.old, m.new, m.swap)) =
      [(l.pte, bitsOf l.w0 16 32 * 65536, bitsOf v.w0 16 32 * 65536, true),
       (v.pte, bitsOf v.w0 16 32 * 65536, bitsOf l.w0 16 32 * 65536, true)] := by
  have hnone : (s.migs.any fun m => m.pte == l.pte) = false := by rw [hmigs]; rfl
  have hsome : (if l.movable && !s.targeted l.job l.va l.size then s.victim ls l.size else none) = some v := by
    rw [hmovable, hfree, hvictim]
    rfl
  rw [State.promote, if_neg (Bool.eq_false_iff.mp hnone), hsome]
  dsimp only
  rw [hwSend_migs]
  show List.map _ (s.migs ++ _) = _
  rw [hmigs]
  rfl

theorem promote_me (ls : List Leaf) (s : State) (l : Leaf) : (State.promote ls s l).me = s.me := by
  rw [State.promote]
  split
  · rfl
  · cases (if l.movable && !s.targeted l.job l.va l.size then s.victim ls l.size else none) with
    | none => rfl
    | some v => exact hwSend_me _ _ _ _ _ _ _ _

theorem promotes_me (ls l : List Leaf) (s : State) : (l.foldl (State.promote ls) s).me = s.me := by
  induction l generalizing s with
  | nil => rfl
  | cons x l ih => exact (ih _).trans (promote_me ls s x)

/-- The pages an epoch moves when no promotion waits: the hot ones. -/
theorem exec_tierEpochEnd_fresh {s : State} (hflag : s.arg.flag = false) (hshare : Config.lp6Share ≠ 0) (hwaiting : s.tier.waiting = []) :
    ∃ t, exec .tierEpochEnd s = .next t ∧ t.migs = ((s.leaves.filter fun l => l.movable && nbit l.w0 47 && decide (4096 < s.countOf l)).foldl
      (State.promote s.leaves) s).migs := by
  have hold : (s.leaves.filter fun l => s.tier.waiting.contains l.pte && nbit l.w0 47 && nbit l.w0 9) = [] := by
    refine List.filter_eq_nil_iff.mpr fun l _ => ?_
    rw [hwaiting]
    exact Bool.false_ne_true
  have hhot : (s.leaves.filter fun l => l.movable && nbit l.w0 47 && decide (4096 < s.countOf l) && !s.tier.waiting.contains l.pte) =
      s.leaves.filter fun l => l.movable && nbit l.w0 47 && decide (4096 < s.countOf l) := by
    refine List.filter_congr fun l _ => ?_
    rw [hwaiting]
    exact Bool.and_true _
  have hself : { s with tier := { s.tier with waiting := [] } } = s := by rw [← hwaiting]
  rw [exec, execTierEpochEnd, if_neg hshare]
  simp only [hold, hhot, hself, hflag, Bool.false_eq_true, if_false, List.nil_append]
  split
  · exact ⟨_, rfl, rfl⟩
  · exact ⟨_, rfl, rfl⟩

theorem exec_tierEpochEnd {s : State} (hflag : s.arg.flag = false) : ∃ t, exec .tierEpochEnd s = .next t ∧ t.me = s.me ∧
    t.tier.counts = [] ∧ t.tier.epoch = s.clk.toNat / 1048576 ∧ (Config.lp6Share = 0 → t.migs = s.migs) := by
  rw [exec, execTierEpochEnd]
  split
  · exact ⟨_, rfl, rfl, rfl, rfl, fun _ => rfl⟩
  · next hshare =>
    simp only [hflag, Bool.false_eq_true, if_false]
    split
    · exact ⟨_, rfl, promotes_me _ _ _, rfl, rfl, fun h => absurd h hshare⟩
    · exact ⟨_, rfl, promotes_me _ _ _, rfl, rfl, fun h => absurd h hshare⟩

end Sys2Proof.Machine
end
section
/-! PROOFS. Page walks, page migration and the tier policy (R283, R292, R293). -/

namespace Sys2Proof.Machine

/-- Settles O47: the lookup that fills a cache, PGMIG's checks and its start, one copied line, the commit and the failure of a
migration, and the promotions at the end of an epoch. -/
theorem pagesMove : Obligations.PagesMove := by
  refine ⟨fun s => ⟨fun pte level w0 w1 hwalk => ?walks, fun hwalk hmiss => ?walkless⟩,
    fun a b c la s job va pte level w0 w1 new hsup hjob hwalk hnew hva hhere halign hfits hmoves hwf => ⟨?pinned, ?waits, ?starts⟩,
    fun s m i hmigs hpte hswap hmoved hwf hnew hfree => ?copies, fun s hflag => ?epoch,
    fun s l v hmigs hl hv hhot hcold hsize hpte hfree hvfree => ?promotes⟩
  case walks =>
    obtain ⟨t, u, hlookup, hme, hmem, hin, hcovers⟩ := lookup_of_walk (cl := s.arg.cl) hwalk
    refine ⟨u, ?_, hme, hmem, t, hin, hcovers⟩
    rw [exec, execPageWalk, hlookup]
  case walkless => rw [exec, execPageWalk, lookup_of_no_walk hwalk hmiss]
  case pinned => exact pgmig_pinned la hsup hjob hwalk hnew hva hhere halign hfits hmoves
  case waits => exact pgmig_waits la hsup hjob hwalk hnew hva hhere halign hfits hmoves
  case starts => exact pgmig_starts la hsup hjob hwalk hnew hva hhere halign hfits hmoves hwf
  case copies =>
    subst hmoved
    refine ⟨fun hmore hgood => ?_, fun hend => ?_, fun k hmore hbad => ?_⟩
    · obtain ⟨t, rfl, hcopied⟩ := copied_line hmigs hwf
      exact ⟨_, exec_copy_moves hmigs hpte hswap hmore hfree hgood, hcopied⟩
    · exact ⟨_, exec_copy_commits hmigs hpte hswap hend, commitMig_done hwf hmigs hnew⟩
    · exact ⟨_, exec_copy_fails hmigs hpte hswap hmore hfree hbad, failMig_done hwf hmigs k m.moved⟩
  case epoch =>
    obtain ⟨t, hexec, hme, hcounts, hepoch, hnone⟩ := exec_tierEpochEnd hflag
    refine ⟨t, hexec, hme, hcounts, hepoch, fun hwaiting => ?_⟩
    by_cases hshare : Config.lp6Share = 0
    · rw [if_pos hshare, hnone hshare]
    · obtain ⟨u, hexec', hmigs⟩ := exec_tierEpochEnd_fresh hflag hshare hwaiting
      rw [if_neg hshare, ← hmigs, Host.Outcome.next.inj (hexec.symm.trans hexec')]
  case promotes => exact promote_pair hmigs hl hfree (victim_pair hmigs hhot hcold hv hsize hvfree)

end Sys2Proof.Machine
end

section
/-! SUPPORT. Multicast groups (R301 to R304). -/

namespace Sys2Proof.Machine

open Sys2Proof.Num

/-- The operand of an arrival or completion word that is 0 or passes its checks. -/
theorem wordOperand_good {b : Word} {s s1 : State} {hs : List Hit}
    (h : b.toNat ≠ 0 → b.toNat < 2 ^ 56 ∧ b.toNat % 8 = 0 ∧ check rW (.v b.toNat) 8 s = .ok (hs, s1)) :
    ∃ u, wordOperand b s = .ok (b.toNat, u) ∧ s.readOnly u := by
  by_cases hb : b = 0
  · subst hb
    exact ⟨s, rfl, .refl s⟩
  · obtain ⟨hlt, halign, hcheck⟩ := h fun h0 => hb (BitVec.eq_of_toNat_eq h0)
    refine ⟨s1, ?_, checkFrom_readOnly hcheck⟩
    rw [wordOperand, if_neg hb, bind_ok _ _ _ _ _ (virt_zero s (Nat.div_eq_of_lt hlt)), bind_ok _ _ _ _ _ (aligned_of s halign),
      bind_ok _ _ _ _ _ hcheck]
    rfl

theorem ports_setBitmap (s : State) (g v : Nat) : (s.setBitmap g v).ports g = v := by
  rw [State.ports, State.setBitmap, SMap.find_put, if_pos rfl]
  rfl

/-- The entry a SUBS or an UNSUB names. -/
def isSub (die job g : Nat) (e : Nat × Nat × Nat × Nat) : Bool := e.1 == die && e.2.1 == job && e.2.2.1 == g

/-- The state with a strand's entry in a group, and the group joined where it is the first. -/
def State.subscribed (s : State) (key g w : Nat) : State :=
  let die := coreDie s.me.core
  let t := { s with fabric := { s.fabric with
    subs := (s.fabric.subs.filter fun e => !isSub die (key / 65536) g e) ++ [(die, key / 65536, g, w)] } }
  if s.fabric.subs.any (fun e => e.2.2.1 == g) then t
  else (t.setObjFld key 0 20 1 1).joinPort g ownPort ((s.objAt key).fld 0 48 16)

/-- The other entries of a die. -/
theorem filter_others (l : List (Nat × Nat × Nat × Nat)) (die job g : Nat) :
    ((l.filter fun e => !isSub die job g e).filter fun e => e.1 == die) =
      l.filter fun e => e.1 == die && !(e.2.1 == job && e.2.2.1 == g) := by
  rw [List.filter_filter]
  refine List.filter_congr fun e _ => ?_
  rw [isSub]
  cases e.1 == die <;> rfl

section
variable {a b : Reg} (la : Look) {key g w : Nat} {o : Obj} {s s1 : State} {hs : List Hit} (hcalm : s.calm) (ha : a.plain = true)
  (hb : b.plain = true) (hhandle : Claims.handle s (s.me.src a) 9 .read key o) (hg : g = o.fld 0 8 12)
  (hw : w = (s.me.src b).toNat)
  (hword : w ≠ 0 → w < 2 ^ 56 ∧ w % 8 = 0 ∧ check rW (.v w) 8 ((s.issue 4).cacheEntry key) = .ok (hs, s1))
include hcalm ha hb hhandle hg hw hword

/-- SUBS up to the count of the die's entries. -/
theorem subs_checked : ∃ u, ((s.cacheEntry key).issue 4).readOnly u ∧
    ((s.fabric.subs.filter fun e => e.1 == coreDie s.me.core && !(e.2.1 == key / 65536 && e.2.2.1 == g)).length < 256 →
      exec (.subs a b la) s = finishLong 4 (window la) [.l0] none s (promiseFree (u.subscribed key g w))) ∧
    (256 ≤ (s.fabric.subs.filter fun e => e.1 == coreDie s.me.core && !(e.2.1 == key / 65536 && e.2.2.1 == g)).length →
      exec (.subs a b la) s = finishLong 4 (window la) [.l0] none s (.error (.trap 7 0 0))) := by
  subst hw
  obtain ⟨u, hoperand, hread⟩ := wordOperand_good (b := s.me.src b) (s := (s.cacheEntry key).issue 4) hword
  obtain ⟨mem, tlb, tier, agenda, queues, heq⟩ := id hread.framed
  have hobj : u.objAt key = o := (congrFun (objAt_congr (s := s) (by rw [heq]; rfl)) key).trans hhandle.2.1.symm
  have hsubs : s.fabric.subs = u.fabric.subs := by rw [heq]; rfl
  have hcore : s.me.core = u.me.core := by rw [heq]; rfl
  refine ⟨u, hread, ?_⟩
  rw [exec, execSubs, command_calm hcalm, bind_ok _ _ _ _ _ (rd2_issue 4 hcalm ha hb), hsubs, hcore, ← filter_others]
  dsimp only
  rw [bind_ok _ _ _ _ _ (ownHandle_issue 4 (by decide) hhandle), bind_ok _ _ _ _ _ hoperand, bind_ok _ _ _ _ _ rfl, hobj, ← hg]
  refine ⟨fun hroom => ?_, fun hfull => ?_⟩
  · refine congrArg (finishLong 4 (window la) [.l0] none s) ((bind_ok _ _ u () u (need_of_true _ _ (decide_eq_true hroom))).trans
      (bind_ok _ _ u () (u.subscribed key g (s.me.src b).toNat) ?_))
    rw [State.subscribed, hobj]
    cases hfirst : u.fabric.subs.any fun e => e.2.2.1 == g <;> rfl
  · have hno : need (decide (((u.fabric.subs.filter fun e => !isSub (coreDie u.me.core) (key / 65536) g e).filter
        fun e => e.1 == coreDie u.me.core).length < 256)) illegalState u = .error (.trap 7 0 0) := by
      rw [decide_eq_false (Nat.not_lt.mpr hfull)]
      rfl
    exact congrArg (finishLong 4 (window la) [.l0] none s) (bind_error _ hno)

end

theorem joinPort_sends (s : State) (g port root : Nat) : s.joinPort g port root =
    { s.setBitmap g (setBit (s.ports g) port true) with fabric := { (s.setBitmap g (setBit (s.ports g) port true)).fabric with
      out := s.fabric.out ++ if s.ports g = 0 ∧ root ≠ s.devNo then
        [({ dev := root, job := 0, kind := 4, a := g, b := 0, bytes := [] } : Packet)] else [] } } := by
  by_cases h : s.ports g = 0 ∧ root ≠ s.devNo
  · rw [if_pos h]
    exact if_pos h
  · rw [if_neg h, List.append_nil]
    exact if_neg h

theorem leavePort_sends (s : State) (g port root : Nat) : s.leavePort g port root =
    { s.setBitmap g (clearBit (s.ports g) port) with fabric := { (s.setBitmap g (clearBit (s.ports g) port)).fabric with
      out := s.fabric.out ++ if clearBit (s.ports g) port = 0 ∧ root ≠ s.devNo then
        [({ dev := root, job := 0, kind := 5, a := g, b := 0, bytes := [] } : Packet)] else [] } } := by
  by_cases h : clearBit (s.ports g) port = 0 ∧ root ≠ s.devNo
  · rw [if_pos h]
    exact if_pos h
  · rw [if_neg h, List.append_nil]
    exact if_neg h

theorem joinPort_objAt (s : State) (g port root : Nat) : (s.joinPort g port root).objAt = s.objAt :=
  objAt_congr (by rw [joinPort_sends]; rfl)

/-- A new entry of a group, and its own port where the device had none. -/
theorem subscribed_done (s : State) (key g w : Nat) : (s.subscribed key g w).me = s.me ∧ (s.subscribed key g w).mem = s.mem ∧
    (s.subscribed key g w).fabric.subs = (s.fabric.subs.filter fun e => !isSub (coreDie s.me.core) (key / 65536) g e) ++
      [(coreDie s.me.core, key / 65536, g, w)] ∧
    ((∀ e ∈ s.fabric.subs, e.2.2.1 ≠ g) → (s.subscribed key g w).ports g = setBit (s.ports g) 79 true ∧
      ((s.subscribed key g w).objAt key).fld 0 20 1 = 1) ∧
    ((∃ e ∈ s.fabric.subs, e.2.2.1 = g) → (s.subscribed key g w).ports g = s.ports g) := by
  rw [State.subscribed]
  dsimp only
  cases hmember : s.fabric.subs.any fun e => e.2.2.1 == g with
  | true =>
    obtain ⟨e, he, heq⟩ := List.any_eq_true.mp hmember
    rw [if_pos rfl]
    exact ⟨rfl, rfl, rfl, fun hnone => absurd (beq_iff_eq.mp heq) (hnone e he), fun _ => rfl⟩
  | false =>
    rw [if_neg Bool.false_ne_true]
    refine ⟨by rw [joinPort_sends]; rfl, by rw [joinPort_sends]; rfl, by rw [joinPort_sends]; rfl,
      fun _ => ⟨by rw [joinPort_sends]; exact ports_setBitmap _ _ _, ?_⟩, fun ⟨e, he, heq⟩ => ?_⟩
    · rw [joinPort_objAt, objAt_setObjFld, fld_setFld_same _ 1 (by decide)]
      rfl
    · exact absurd (beq_iff_eq.mpr heq) (List.any_eq_false.mp hmember e he)

theorem leavePort_subs (s : State) (g port root : Nat) : (s.leavePort g port root).fabric.subs = s.fabric.subs := by
  rw [leavePort_sends]
  rfl

/-- An entry of a group given up. -/
theorem unsub_subs (s : State) (die job g : Nat) :
    (s.unsub die job g).fabric.subs = s.fabric.subs.filter fun e => !isSub die job g e := by
  rw [State.unsub]
  dsimp only
  split
  · split
    · rfl
    · obtain ⟨obj, heq⟩ := foldl_setObjFld_eq (fun k : Nat => k) 0 20 1 0 _ _
      rw [leavePort_subs, heq]
      rfl
  · next hnone =>
    refine (List.filter_eq_self.mpr fun e he => ?_).symm
    rw [Bool.not_eq_true']
    exact Bool.eq_false_iff.mpr (List.any_eq_false.mp (Bool.eq_false_iff.mpr hnone) e he)

/-! MULTICAST_DELIVERY (R301, R303). -/

theorem addWord_foldl_none {l : List (Nat × Nat × Nat × Nat)} (job : Nat) (s : State) (h : ∀ e ∈ l, e.2.2.2 = 0) :
    l.foldl (fun s e => if e.2.2.2 = 0 then s else s.addWord (16 * e.1) job e.2.2.2 1) s = s := by
  induction l with
  | nil => rfl
  | cons e l ih =>
    obtain ⟨he, hl⟩ := List.forall_mem_cons.mp h
    rw [List.foldl_cons, if_pos he, ih hl]

section
variable {s u : State} {hs : List Hit} {ks : List Nat} (hflag : s.arg.flag = false) (hsize : s.arg.size ≠ 1)
  (hown : nbit (s.ports s.arg.n) 79 = true) (hfar : clearBit (s.ports s.arg.n) 79 = 0)
include hflag hsize hown hfar

/-- A packet that goes nowhere else is performed here. -/
theorem exec_delivery_here : exec .multicastDelivery s = .next (s.deliverGroup s.arg) := by
  rw [exec, execMulticastDelivery]
  simp only [hsize, if_false, hflag, Bool.false_and, Bool.false_eq_true, ownPort, hfar, hown, if_true]

end

/-- The entries a packet matches. -/
def State.matching (s : State) : List (Nat × Nat × Nat × Nat) := s.fabric.subs.filter fun e => e.2.1 == s.arg.job && e.2.2.1 == s.arg.n

theorem deliverGroup_none {s : State} (h : s.matching = []) : s.deliverGroup s.arg = s.count s.arg.die 0xFE028 := by
  rw [State.matching] at h
  rw [State.deliverGroup, h]
  rfl

theorem deliverGroup_some {s u : State} {hs : List Hit} {ks : List Nat} (hsome : s.matching ≠ [])
    (harrive : arrivingAll s s.arg.job rW ((List.range s.arg.bs.length).map fun i => (s.arg.va + i) % 2 ^ 56) = some hs)
    (hks : ks = hs.map (cellOf s.arg.job)) (hgood : ∀ k ∈ ks, s.badAt k = false ∧ s.locked k = false)
    (hu : u = (s.counted hs).setCells (ks.zip (if s.arg.kind = 2 then
      leBytes 8 (leNat (s.mem.getAll ks) + leNat s.arg.bs) else s.arg.bs))) :
    s.deliverGroup s.arg =
      s.matching.foldl (fun t e => if e.2.2.2 = 0 then t else t.addWord (16 * e.1) s.arg.job e.2.2.2 1) u := by
  have hlocked : ks.any s.locked = false := List.any_eq_false.mpr fun k hk => Bool.eq_false_iff.mp (hgood k hk).2
  have hbad : ks.find? (s.counted hs).badAt = none :=
    List.find?_eq_none.mpr fun k hk => Bool.eq_false_iff.mp (((counted_readOnly s hs).framed.badAt k).trans (hgood k hk).1)
  have hmem : (s.counted hs).mem = s.mem := (counted_readOnly s hs).mem
  have hne : s.matching.isEmpty = false := Bool.eq_false_iff.mpr fun h => hsome (List.isEmpty_iff.mp h)
  rw [State.matching] at hne
  rw [State.deliverGroup, hne]
  dsimp only
  rw [harrive]
  dsimp only
  rw [← hks, hlocked, hbad, hu, hmem]
  rfl

/-- A packet of a group without the device's own port only goes on. -/
theorem exec_delivery_passes {s : State} (hflag : s.arg.flag = false) (hsize : s.arg.size ≠ 1)
    (hown : nbit (s.ports s.arg.n) 79 = false) (hfar : s.ports s.arg.n ≠ 0) :
    exec .multicastDelivery s = .next { s with fabric := { s.fabric with out := s.fabric.out ++
      [({ dev := 0xF000 + s.arg.n, job := s.arg.job, kind := s.arg.kind - 1, a := s.arg.va, b := s.ports s.arg.n
          bytes := s.arg.bs } : Packet)] } } := by
  have hclear : clearBit (s.ports s.arg.n) 79 = s.ports s.arg.n := if_neg (Bool.eq_false_iff.mp hown)
  rw [exec, execMulticastDelivery]
  simp only [hsize, if_false, hflag, Bool.false_and, Bool.false_eq_true, ownPort, hclear, hown, hfar]

end Sys2Proof.Machine
end
section
/-! PROOFS. Multicast groups: entries, ports and deliveries (R301, R303, R304). -/

namespace Sys2Proof.Machine

/-- Settles O48: SUBS and UNSUB change the die's entries and the device's own port, joins and leaves one port each, and a delivery is
performed for the entries it matches. -/
theorem multicastGroups : Obligations.MulticastGroups := by
  refine ⟨fun a b la key g w o s s1 hs hcalm ha hb hhandle hg hw hword => ?entries,
    fun s => ⟨s.joinPort s.arg.n s.arg.m s.arg.dev, rfl, ?join⟩, fun s => ⟨s.leavePort s.arg.n s.arg.m s.arg.dev, rfl, ?leave⟩,
    fun s u hs ks hflag hsize hown harrive hks hgood hfar hu => ?deliver, fun s hflag hsize hown hfar =>
      ⟨_, exec_delivery_passes hflag hsize hown hfar, rfl, rfl, rfl⟩⟩
  case entries =>
    obtain ⟨u, hread, hroom, hfull⟩ := subs_checked la hcalm ha hb hhandle hg hw hword
    obtain ⟨mem, tlb, tier, agenda, queues, heq⟩ := id hread.framed
    obtain ⟨hme, hmem, hsubs, hfirst, hmember⟩ := subscribed_done u key g w
    have hfabric : u.fabric = s.fabric := by rw [heq]; rfl
    have hports : u.ports g = s.ports g := by rw [State.ports, State.ports, hfabric]
    have hume : u.me = (s.issue 4).me := by rw [heq]; rfl
    obtain ⟨hpromise, hpromised⟩ := promiseFree_ends (u := u.subscribed key g w) hcalm (hme.trans hume)
    refine ⟨fun hlt => ⟨(u.subscribed key g w).promisedFree, ?_, hpromised, hmem.trans hread.mem, ?_, fun hnone => ?_, fun hsome => ?_⟩,
      hfull, ?_⟩
    · rw [hroom hlt, hpromise]
      rfl
    · rw [show (u.subscribed key g w).promisedFree.fabric = (u.subscribed key g w).fabric from rfl, hsubs, hfabric, hume]
      rfl
    · exact hports ▸ hfirst (hfabric ▸ hnone)
    · exact hports ▸ hmember (hfabric ▸ hsome)
    · let v := ((s.cacheEntry key).issue 4).unsub (coreDie s.me.core) (key / 65536) g
      obtain ⟨obj, fabric, hunsub⟩ := unsub_eq ((s.cacheEntry key).issue 4) (coreDie s.me.core) (key / 65536) g
      have hv : v.me = (s.issue 4).me ∧ v.mem = s.mem := by rw [show v = _ from hunsub]; exact ⟨rfl, rfl⟩
      obtain ⟨hpromise, hpromised⟩ := promiseFree_ends (u := v) hcalm hv.1
      refine ⟨v.promisedFree, ?_, hpromised, hv.2, unsub_subs ((s.cacheEntry key).issue 4) (coreDie s.me.core) (key / 65536) g⟩
      rw [exec, execUnsub, command_calm hcalm, bind_ok _ _ _ _ _ (rd_issue 4 hcalm ha),
        bind_ok _ _ _ _ _ (ownHandle_issue 4 (by decide) hhandle)]
      have hobj : ((s.cacheEntry key).issue 4).objAt key = o := hhandle.2.1.symm
      refine congrArg (finishLong 4 (window la) [.l0] none s) ((bind_ok _ (fun _ => promiseFree) _ () v ?_).trans hpromise)
      rw [upd, hobj, ← hg]
      rfl
  case join =>
    rw [joinPort_sends]
    exact ⟨rfl, rfl, ports_setBitmap _ _ _, rfl⟩
  case leave =>
    rw [leavePort_sends]
    exact ⟨rfl, rfl, ports_setBitmap _ _ _, rfl⟩
  case deliver =>
    rw [exec_delivery_here hflag hsize hown hfar]
    refine ⟨fun ⟨e, he, hjob, hn⟩ hzero => ?_, fun e hone hword => ?_, fun hnone => ?_⟩
    · have hmatch : e ∈ s.matching := List.mem_filter.mpr ⟨he, by rw [hjob, hn, beq_self_eq_true, beq_self_eq_true]; rfl⟩
      rw [deliverGroup_some (List.ne_nil_of_mem hmatch) harrive hks hgood hu, addWord_foldl_none _ _ fun e he => ?_]
      obtain ⟨hin, hmatches⟩ := List.mem_filter.mp he
      obtain ⟨hj, hg⟩ := Bool.and_eq_true_iff.mp hmatches
      exact hzero e hin (beq_iff_eq.mp hj) (beq_iff_eq.mp hg)
    · have hmatching : s.matching = [e] := hone
      rw [deliverGroup_some (by rw [hmatching]; exact List.cons_ne_nil _ _) harrive hks hgood hu, hmatching, List.foldl_cons,
        List.foldl_nil, if_neg hword]
    · rw [deliverGroup_none (List.filter_eq_nil_iff.mpr fun e he hboth => ?_)]
      obtain ⟨hj, hg⟩ := Bool.and_eq_true_iff.mp hboth
      rcases hnone e he with h | h
      · exact h (beq_iff_eq.mp hj)
      · exact h (beq_iff_eq.mp hg)

end Sys2Proof.Machine
end


section
/-! SUPPORT. What engines and units without a strand leave as it is (R284, R289). -/

namespace Sys2Proof.Machine

open Sys2Proof.Num

/-- All that the access of an engine may change. -/
def State.engined (s t : State) : Prop :=
  ∃ mem tlb tier agenda queues out valid, t = { s with mem, tlb, tier, agenda, queues, fabric := { s.fabric with out, valid } }

theorem State.engined.refl (s : State) : s.engined s := ⟨_, _, _, _, _, _, _, rfl⟩

theorem State.engined.trans {s t u : State} : s.engined t → t.engined u → s.engined u := by
  rintro ⟨_, _, _, _, _, _, _, rfl⟩ ⟨_, _, _, _, _, _, _, rfl⟩
  exact ⟨_, _, _, _, _, _, _, rfl⟩

theorem State.framed.engined {s t : State} : s.framed t → s.engined t := by
  rintro ⟨_, _, _, _, _, rfl⟩
  exact ⟨_, _, _, _, _, _, _, rfl⟩

section
variable {s t : State} (h : s.engined t)
include h

theorem State.engined.me : t.me = s.me := by obtain ⟨_, _, _, _, _, _, _, rfl⟩ := h; rfl
theorem State.engined.obj : t.obj = s.obj := by obtain ⟨_, _, _, _, _, _, _, rfl⟩ := h; rfl
theorem State.engined.graphs : t.fabric.graphs = s.fabric.graphs := by obtain ⟨_, _, _, _, _, _, _, rfl⟩ := h; rfl
theorem State.engined.routes : t.fabric.routes = s.fabric.routes := by obtain ⟨_, _, _, _, _, _, _, rfl⟩ := h; rfl
theorem State.engined.graph? (key : Nat) : t.graph? key = s.graph? key := by rw [State.graph?, State.graph?, h.graphs]

end

theorem engined_fetchHits (job : Nat) (hs : List Hit) (s : State) : s.engined (hs.foldl (fetchHit job) s) := by
  refine List.foldlRecOn (motive := fun t => s.engined t) hs _ (.refl s) fun t ht h _ => ht.trans ?_
  rw [fetchHit]
  split
  · split
    · exact .refl t
    · exact ⟨_, _, _, _, _, _, _, rfl⟩
  · exact .refl t

/-- A unit's action that changes no more than an engine's access does. -/
def UnitFrames {α : Type} (x : EM α) : Prop := ∀ s v t, x s = .ok (v, t) → s.engined t

variable {α β : Type}

theorem unitFrames_pure (v : α) : UnitFrames (pure v : EM α) := fun s _ _ h => by cases h; exact .refl s

theorem unitFrames_get : UnitFrames (get : EM State) := fun s _ _ h => by cases h; exact .refl s

theorem unitFrames_bind {x : EM α} {f : α → EM β} (hx : UnitFrames x) (hf : ∀ v, UnitFrames (f v)) : UnitFrames (x >>= f) := by
  intro s w u h
  cases hrun : x s with
  | error e =>
    simp only [bind, StateT.bind, hrun, Except.bind] at h
    cases h
  | ok p =>
    simp only [bind, StateT.bind, hrun, Except.bind] at h
    exact (hx s p.1 p.2 hrun).trans (hf p.1 p.2 w u h)

theorem unitFrames_engFrom (cl job right va : Nat) (ps : List (Nat × Nat)) : UnitFrames (engFrom cl job right va ps) := by
  induction ps with
  | nil => exact unitFrames_pure []
  | cons p r ih =>
    refine unitFrames_bind (fun s h t hx => ?_) fun h => unitFrames_bind ih fun t => unitFrames_pure (h :: t)
    unfold engHit at hx
    split at hx
    · split at hx
      · cases hx
      next hlookup =>
        split at hx
        · cases hx
          obtain ⟨tlb, rfl⟩ := lookup_eq hlookup
          exact ⟨_, _, _, _, _, _, _, rfl⟩
        · cases hx
    · cases hx
      exact .refl s

theorem unitFrames_engHits (cl job right : Nat) (ps : List (Nat × Nat)) : UnitFrames (engHits cl job right ps) := by
  refine unitFrames_bind (unitFrames_engFrom _ _ _ _ _) fun hs s v t hx => ?_
  split at hx
  · cases hx
  · cases hx
    exact .refl s

theorem engined_appendLog {s t : State} {core job va : Nat} (h : s.appendLog core job va = some t) : s.engined t := by
  rw [State.appendLog] at h
  dsimp only at h
  split at h
  · cases h
  · cases h
    split
    · exact (State.engined.trans ⟨_, _, _, _, _, _, _, rfl⟩ (hwSend_readOnly _ _ _ _ _ _ _ _).framed.engined)
    · exact ⟨_, _, _, _, _, _, _, rfl⟩

theorem unitFrames_engLogs (cl job : Nat) (ps : List (Nat × Nat)) : UnitFrames (engLogs cl job ps) := by
  induction ps with
  | nil => exact unitFrames_pure ()
  | cons p r ih =>
    refine unitFrames_bind (fun s v t hx => ?_) fun _ => ih
    unfold engLog at hx
    split at hx
    · cases hx; exact .refl s
    · split at hx
      · cases hx; exact .refl s
      · split at hx
        · cases hx
        next happend =>
          cases hx
          exact (engined_appendLog happend).trans ⟨_, _, _, _, _, _, _, rfl⟩

theorem engined_farWrite (s : State) (job : Nat) (hs : List Hit) (bs : List Byte) : s.engined (s.farWrite job hs bs) := by
  rw [State.farWrite]
  split
  · exact .refl s
  · dsimp only
    split <;> exact ⟨_, _, _, _, _, _, _, rfl⟩

theorem unitFrames_engWrite (cl job : Nat) (ps : List (Nat × Nat)) (bs : List Byte) : UnitFrames (engWrite cl job ps bs) := by
  refine unitFrames_bind (unitFrames_engHits _ _ _ _) fun hs => unitFrames_bind (unitFrames_engLogs _ _ _) fun _ s v t hx => ?_
  dsimp only at hx
  split at hx
  · cases hx
  · split at hx
    · cases hx; exact .refl s
    · cases hx
      exact ((State.engined.trans ⟨_, _, _, _, _, _, _, rfl⟩ (engined_farWrite _ job hs bs))).trans (counted_readOnly _ hs).framed.engined

theorem unitFrames_engAdd (cl job va n : Nat) : UnitFrames (engAdd cl job va n) := by
  refine unitFrames_bind unitFrames_get fun s => unitFrames_bind (unitFrames_engHits _ _ _ _) fun hs => ?_
  split
  · exact fun u => unitFrames_engWrite _ _ _ _ u
  · refine unitFrames_bind (unitFrames_engLogs _ _ _) fun _ u v t hx => ?_
    dsimp only at hx
    split at hx
    · cases hx; exact .refl u
    · cases hx
      refine State.engined.trans ?_ (counted_readOnly _ hs).framed.engined
      split <;> exact ⟨_, _, _, _, _, _, _, rfl⟩

theorem unitFrames_engRead (cl job : Nat) (ps : List (Nat × Nat)) : UnitFrames (engRead cl job ps) := by
  refine unitFrames_bind (unitFrames_engHits _ _ _ _) fun hs s v t hx => ?_
  dsimp only at hx
  split at hx
  · cases hx
  · split at hx
    · cases hx
    · cases hx
      exact (engined_fetchHits job hs _).trans (counted_readOnly _ hs).framed.engined

theorem engined_unitPieces {cl job n k va : Nat} {s t : State} {bs : List Byte} (h : s.unitPieces cl job n k va = .ok (bs, t)) :
    s.engined t := by
  induction k generalizing s va bs with
  | zero => cases h; exact .refl _
  | succ k ih =>
    rw [State.unitPieces] at h
    split at h
    · cases h
    next hread =>
      split at h
      · cases h
      next hpieces =>
        cases h
        exact (unitFrames_engRead _ _ _ _ _ _ hread).trans (ih hpieces)

theorem virt_state {a : Word} {o : Int} {s u : State} {e : Addr} (h : virt a o s = .ok (e, u)) : u = s := by
  rw [virt] at h
  split at h
  · cases h; rfl
  · exact absurd h vfault_ne_ok

theorem engined_readHits {a : Word} {hs : List Hit} {s t : State} {bs : List Byte} (h : readHits a hs s = .ok (bs, t)) :
    s.engined t := by
  unfold readHits at h
  dsimp only at h
  split at h
  · cases h
  · split at h
    · cases h
    · split at h
      · cases h
      · cases h
        exact (engined_fetchHits _ hs _).trans (counted_readOnly _ hs).framed.engined

/-- Reading virtual memory for a strand changes no more than caches, counts and what it fetches. -/
theorem engined_readVirt {a : Word} {n : Nat} {s t : State} {bs : List Byte} (h : readVirt a n s = .ok (bs, t)) : s.engined t := by
  obtain ⟨e, u, hvirt, h⟩ := run_bind_eq_ok h
  cases virt_state hvirt
  obtain ⟨hs, v, hcheck, h⟩ := run_bind_eq_ok h
  obtain ⟨w, x, hget, h⟩ := run_bind_eq_ok h
  cases hget
  obtain ⟨_, y, hneed, hread⟩ := run_bind_eq_ok h
  obtain ⟨-, rfl⟩ := need_eq_ok (fun _ hx => by cases hx) hneed
  exact ((checkFrom_readOnly hcheck).framed.engined).trans (engined_readHits hread)

end Sys2Proof.Machine
end
section
/-! SUPPORT. Graphs, and what starting a step leaves as it is (R309, R310). -/

namespace Sys2Proof.Machine

theorem graph_key {s : State} {key : Nat} {g : CGraph} (h : s.graph? key = some g) : g.key = key :=
  beq_iff_eq.mp (List.find?_some (p := fun g : CGraph => g.key == key) h)

/-- What a list holds under a number after its entry of that number is replaced. -/
theorem find_replaced {α : Type} (k : α → Nat) {l : List α} {n : Nat} {x y : α} (h : l.find? (fun z => k z == n) = some x) (hy : k y = n) :
    (l.map fun z => if k z == k y then y else z).find? (fun z => k z == n) = some y := by
  subst hy
  induction l with
  | nil => cases h
  | cons z l ih =>
    rw [List.map_cons]
    by_cases hz : (k z == k y) = true
    · rw [if_pos hz]
      exact List.find?_cons_of_pos (beq_self_eq_true _)
    · rw [if_neg hz]
      have hskip := fun l : List α => List.find?_cons_of_neg (p := fun u : α => k u == k y) (a := z) (l := l) hz
      exact (hskip _).trans (ih ((hskip l).symm.trans h))

theorem graph?_setGraph {s : State} {key : Nat} {g g' : CGraph} (h : s.graph? key = some g) (hkey : g'.key = key) :
    (s.setGraph g').graph? key = some g' := find_replaced CGraph.key h hkey

/-- Two states of one run. -/
def CGraph.sameRun (g g' : CGraph) : Prop :=
  g'.key = g.key ∧ g'.running = g.running ∧ g'.run = g.run ∧ g'.word = g.word ∧ g'.ranks = g.ranks ∧ g'.bases = g.bases

theorem CGraph.sameRun.refl (g : CGraph) : g.sameRun g := ⟨rfl, rfl, rfl, rfl, rfl, rfl⟩

theorem CGraph.sameRun.trans {g g' g'' : CGraph} : g.sameRun g' → g'.sameRun g'' → g.sameRun g'' := by
  rintro ⟨h1, h2, h3, h4, h5, h6⟩ ⟨h1', h2', h3', h4', h5', h6'⟩
  exact ⟨h1'.trans h1, h2'.trans h2, h3'.trans h3, h4'.trans h4, h5'.trans h5, h6'.trans h6⟩

theorem CGraph.sameRun.symm {g g' : CGraph} : g.sameRun g' → g'.sameRun g := by
  rintro ⟨h1, h2, h3, h4, h5, h6⟩
  exact ⟨h1.symm, h2.symm, h3.symm, h4.symm, h5.symm, h6.symm⟩

theorem CGraph.sameRun_setStep (g : CGraph) (i : Nat) (x : CStep) : g.sameRun (g.setStep i x) := ⟨rfl, rfl, rfl, rfl, rfl, rfl⟩

/-- What the steps of a run leave as it is: the strand, the objects, and all of the run but its steps and held chunks. -/
structure Stepped (key : Nat) (s t : State) : Prop where
  me : t.me = s.me
  obj : t.obj = s.obj
  graph : ∀ g, s.graph? key = some g → ∃ g', t.graph? key = some g' ∧ g.sameRun g'

theorem Stepped.trans {key : Nat} {s t u : State} (h : Stepped key s t) (h' : Stepped key t u) : Stepped key s u where
  me := h'.me.trans h.me
  obj := h'.obj.trans h.obj
  graph g hg := by
    obtain ⟨g', hg', hsame⟩ := h.graph g hg
    obtain ⟨g'', hg'', hsame'⟩ := h'.graph g' hg'
    exact ⟨g'', hg'', hsame.trans hsame'⟩

/-- A change that leaves the loaded graphs alone. -/
theorem stepped_of {key : Nat} {s t : State} (hme : t.me = s.me) (hobj : t.obj = s.obj) (hgraphs : t.fabric.graphs = s.fabric.graphs) :
    Stepped key s t :=
  ⟨hme, hobj, fun g hg => ⟨g, by rw [State.graph?, hgraphs]; exact hg, .refl g⟩⟩

theorem Stepped.refl (key : Nat) (s : State) : Stepped key s s := stepped_of rfl rfl rfl

theorem State.engined.stepped {s t : State} (key : Nat) (h : s.engined t) : Stepped key s t := stepped_of h.me h.obj h.graphs

theorem stepped_setGraph {s : State} {key : Nat} {g g' : CGraph} (hg : s.graph? key = some g) (hsame : g.sameRun g') :
    Stepped key s (s.setGraph g') := by
  refine ⟨rfl, rfl, fun x hx => ?_⟩
  rw [hg] at hx
  cases hx
  exact ⟨g', graph?_setGraph hg (hsame.1.trans (graph_key hg)), hsame⟩

theorem stepped_addWord (key : Nat) (s : State) (cl job va n : Nat) : Stepped key s (s.addWord cl job va n) := by
  rw [State.addWord]
  split
  next h => exact (unitFrames_engAdd _ _ _ _ _ _ _ h).stepped key
  next h => exact ((unitFrames_engAdd _ _ _ _ _ _ _ h).stepped key).trans (stepped_of rfl rfl rfl)
  next => split <;> exact stepped_of rfl rfl rfl

theorem stepped_chunkWrite {key : Nat} {s t : State} {g : CGraph} {va : Nat} {bs : List Byte} (h : s.chunkWrite g va bs = some t) :
    Stepped key s t := by
  rw [State.chunkWrite] at h
  split at h
  next hwrite => cases h; exact (unitFrames_engWrite _ _ _ _ _ _ _ hwrite).stepped key
  next hwrite => cases h; exact ((unitFrames_engWrite _ _ _ _ _ _ _ hwrite).stepped key).trans (stepped_of rfl rfl rfl)
  next => cases h

theorem stepped_ackChunk (key : Nat) (s : State) (g : CGraph) (rank b : Nat) : Stepped key s (s.ackChunk g rank b) := by
  rw [State.ackChunk]
  split <;> exact stepped_of rfl rfl rfl

theorem Stepped.setGraph {key : Nat} {s t : State} {g g' : CGraph} (h : Stepped key s t) (hg : s.graph? key = some g)
    (hsame : g.sameRun g') : Stepped key s (t.setGraph g') := by
  obtain ⟨x, hx, hsame'⟩ := h.graph g hg
  exact h.trans (stepped_setGraph hx (hsame'.symm.trans hsame))

theorem stepped_count (key : Nat) (s : State) (die off : Nat) : Stepped key s (s.count die off) := stepped_of rfl rfl rfl

theorem stepped_writeChunk {key i : Nat} {s t : State} {g0 g : CGraph} {x : CStep} {c : Chunk} (hg : s.graph? key = some g0)
    (hsame : g0.sameRun g) (h : s.writeChunk g i x c = some t) : Stepped key s t := by
  rw [State.writeChunk] at h
  dsimp only at h
  split at h
  · cases h
  next u hwrite =>
    cases h
    have hu : Stepped key s (if min c.bytes.length (x.len - c.off) < c.bytes.length then u.count g.die 0xFE038 else u) := by
      split
      · exact (stepped_chunkWrite hwrite).trans (stepped_count _ _ _ _)
      · exact stepped_chunkWrite hwrite
    refine (hu.trans (stepped_ackChunk key _ g _ _)).setGraph hg (hsame.trans ?_)
    split
    · exact g.sameRun_setStep _ _
    · split
      · exact g.sameRun_setStep _ _
      · exact (g.sameRun_setStep _ _).trans (CGraph.sameRun_setStep _ _ _)

theorem stepped_writeHeld (key i : Nat) (cs : List Chunk) (s : State) : Stepped key s (s.writeHeld key i cs) := by
  induction cs generalizing s with
  | nil => exact .refl key s
  | cons c cs ih =>
    rw [State.writeHeld]
    refine Stepped.trans ?_ (ih _)
    split
    · exact .refl key s
    next g hg =>
      split
      · split
        · exact .refl key s
        next x hx =>
          have hsame : g.sameRun { g with held := g.held.erase c } := ⟨rfl, rfl, rfl, rfl, rfl, rfl⟩
          dsimp only
          split
          next t ht => exact stepped_writeChunk hg hsame ht
          next => exact (stepped_setGraph hg hsame).trans (stepped_of rfl rfl rfl)
      · exact .refl key s

theorem stepped_foldl {α : Type} {key : Nat} (f : State → α → State) (hf : ∀ s x, Stepped key s (f s x)) (l : List α) (s : State) :
    Stepped key s (l.foldl f s) :=
  List.foldlRecOn (motive := fun t => Stepped key s t) l _ (.refl key s) fun _ ht x _ => ht.trans (hf _ x)

theorem stepped_shipRead {key : Nat} {s t : State} {g : CGraph} {x : CStep} {bs : List Byte} (h : s.shipRead g x = .ok (bs, t)) :
    Stepped key s t := by
  rw [State.shipRead] at h
  split at h
  · cases h
  next hpieces =>
    split at h
    · cases h
    next hread =>
      cases h
      exact ((engined_unitPieces hpieces).trans (unitFrames_engRead _ _ _ _ _ _ hread)).stepped key

/-- Starting a step changes its run's steps and held chunks, memory and what goes out, and no more. -/
theorem stepped_startStep (key i : Nat) (s : State) : Stepped key s (s.startStep key i) := by
  rw [State.startStep]
  split
  · exact .refl key s
  next g hg =>
    split
    · exact .refl key s
    next x hx =>
      have hset : Stepped key s (s.setGraph (g.setStep i { x with st := 1, since := s.clk })) :=
        stepped_setGraph hg (g.sameRun_setStep _ _)
      dsimp only
      refine hset.trans ?_
      split
      · split
        · split <;> exact stepped_of rfl rfl rfl
        next bs t hread =>
          refine (stepped_shipRead hread).trans ?_
          split
          · exact stepped_foldl (fun (t : State) (c : Chunk) => t.due .collectiveChunkArrival (c.arrival key 0)) (fun _ _ => stepped_of rfl rfl rfl) _ _
          · exact stepped_of rfl rfl rfl
      · exact stepped_writeHeld _ _ _ _
      · split
        · exact (stepped_addWord key _ _ _ _ _).setGraph (graph?_setGraph hg (g' := g.setStep i { x with st := 1, since := s.clk }) (show g.key = key from graph_key hg)) (CGraph.sameRun_setStep _ _ _)
        · exact stepped_of rfl rfl rfl
      · exact .refl key _

end Sys2Proof.Machine
end

section
/-! SUPPORT. CGLD and CGRUN (R309, R310). -/

namespace Sys2Proof.Machine

theorem stepsOk_passes {fs : List (Nat × CStep → Bool)} {l : List (Nat × CStep)} (h : ∀ f ∈ fs, ∀ e ∈ l, f e = true) (s : State) :
    stepsOk fs l s = .ok ((), s) := by
  induction fs with
  | nil => rfl
  | cons f fs ih =>
    obtain ⟨hf, hfs⟩ := List.forall_mem_cons.mp h
    have hnone : (l.find? fun e => !f e) = none :=
      List.find?_eq_none.mpr fun e he => by rw [hf e he]; exact Bool.false_ne_true
    rw [stepsOk, hnone]
    exact ih hfs

/-- A graph as CGLD loads it. -/
def loadedGraph (key : Nat) (o : Obj) (bs rs : List Byte) : CGraph where
  key := key
  die := o.fld 0 36 3
  steps := stepsOf (o.fld 0 8 7) bs
  ranks := groups 2 (o.fld 0 16 10 + 1) rs
  rank := o.fld 0 26 10
  running := false
  run := 0
  bases := Vector.replicate 4 0
  word := 0
  launch := none
  held := []

/-- The state with a graph loaded. -/
def State.loaded (s : State) (g : CGraph) : State :=
  ({ s with fabric := { s.fabric with graphs := s.fabric.graphs ++ [g] } }).setObjFld g.key 0 39 1 1

section
variable {a : Reg} (la : Look) {key : Nat} {o : Obj} {s : State} (hcalm : s.calm) (ha : a.plain = true)
  (hhandle : Claims.handle s (s.me.src a) 8 .admin key o)
include hcalm ha hhandle

theorem cgld_loaded (hloaded : o.fld 0 39 1 = 1) :
    exec (.cgld a la) s = finishLong 4 (window la) [.l0] none s (.error (.trap 7 0 0)) := by
  have hobj : ((s.cacheEntry key).issue 4).objAt key = o := hhandle.2.1.symm
  rw [exec, execCgld, command_calm hcalm, bind_ok _ _ _ _ _ (rd_issue 4 hcalm ha),
    bind_ok _ _ _ _ _ (ownHandle_issue 4 (by decide) hhandle), bind_ok _ _ _ _ _ rfl]
  dsimp only
  rw [hobj, hloaded]
  rfl

theorem cgld_loads {s1 s2 : State} {bs rs : List Byte} (hfree : o.fld 0 39 1 = 0) (hstate : o.fld 0 40 2 = 0)
    (hsteps : readVirt (toW (o.fld 1 0 56)) (32 * o.fld 0 8 7) ((s.issue 4).cacheEntry key) = .ok (bs, s1))
    (hranks : readVirt (toW (o.fld 2 0 56)) (2 * (o.fld 0 16 10 + 1)) s1 = .ok (rs, s2))
    (hchecks : ∀ f ∈ stepChecks s key (o.fld 0 16 10 + 1) (stepsOf (o.fld 0 8 7) bs),
      ∀ e ∈ (List.range (o.fld 0 8 7)).zip (stepsOf (o.fld 0 8 7) bs), f e = true)
    (hroutes : ∀ d ∈ groups 2 (o.fld 0 16 10 + 1) rs, d = s.devNo ∨ routeEntry s.fabric.routes d = true)
    (hroom : (s.fabric.graphs.filter fun g => g.die == o.fld 0 36 3).length < 16)
    (hsum : ((s.fabric.graphs.filter fun g => g.die == o.fld 0 36 3).map fun g => g.steps.length).sum + o.fld 0 8 7 ≤ 1024) :
    ((s.cacheEntry key).issue 4).engined s2 ∧
      exec (.cgld a la) s = finishLong 4 (window la) [.l0] none s (promiseFree (s2.loaded (loadedGraph key o bs rs))) := by
  have hobj : ((s.cacheEntry key).issue 4).objAt key = o := hhandle.2.1.symm
  refine ⟨(engined_readVirt hsteps).trans (engined_readVirt hranks), ?_⟩
  rw [exec, execCgld, command_calm hcalm, bind_ok _ _ _ _ _ (rd_issue 4 hcalm ha),
    bind_ok _ _ _ _ _ (ownHandle_issue 4 (by decide) hhandle), bind_ok _ _ _ _ _ rfl]
  dsimp only
  rw [hobj, bind_ok _ _ _ _ _ (need_of_true _ _ (beq_iff_eq.mpr hfree)), bind_ok _ _ _ _ _ (need_of_true _ _ (beq_iff_eq.mpr hstate))]
  refine congrArg (finishLong 4 (window la) [.l0] none s) ((bind_ok _ _ _ _ _ hsteps).trans ((bind_ok _ _ _ _ _ hranks).trans
    ((bind_ok _ _ _ _ _ (stepsOk_passes hchecks s2)).trans ((bind_ok _ _ _ _ _ (need_of_true _ s2 ?_)).trans
    ((bind_ok _ _ _ _ _ (need_of_true _ s2 ?_)).trans (bind_ok _ _ _ () _ rfl))))))
  · refine List.all_eq_true.mpr fun d hd => ?_
    rcases hroutes d hd with h | h
    · exact Bool.or_eq_true_iff.mpr (.inl (beq_iff_eq.mpr h))
    · exact Bool.or_eq_true_iff.mpr (.inr h)
  · exact Bool.and_eq_true_iff.mpr ⟨decide_eq_true hroom, decide_eq_true hsum⟩

end

/-! CGRUN. -/

/-- The word of a base address (R310). -/
def baseWord (x : Word) : Word := x &&& 0xFFFFFFFFFFFFFF

/-- A graph as a CGRUN starts it. -/
def CGraph.begun (g : CGraph) (s : State) (run w : Nat) : CGraph :=
  { g with running := true, run, word := w, launch := s.me.launch?,
           bases := #v[baseWord s.me.e[0], baseWord s.me.e[1], baseWord s.me.e[2], baseWord s.me.e[3]]
           steps := g.steps.map fun (x : CStep) => { x with count := x.deps, st := 0, done := 0, since := 0 } }

/-- The steps of a run that wait for none are started. -/
def State.startFree (s : State) (key : Nat) (steps : List CStep) : State :=
  (List.range steps.length).foldl (fun s i => if ((steps[i]?).map CStep.count).getD 1 = 0 then s.startStep key i else s) s

theorem stepped_startFree (s : State) (key : Nat) (steps : List CStep) : Stepped key s (s.startFree key steps) := by
  refine stepped_foldl (fun t i => if ((steps[i]?).map CStep.count).getD 1 = 0 then t.startStep key i else t) (fun t i => ?_) _ _
  split
  · exact stepped_startStep _ _ _
  · exact .refl key t

/-- The state with a run begun and its record running. -/
def State.begun (s : State) (g : CGraph) (run : Nat) : State :=
  (((s.setGraph g).setObjFld g.key 0 48 16 (run + 1)).setObjFld g.key 0 40 2 1).startFree g.key g.steps

section
variable {a b : Reg} (la : Look) {key w : Nat} {o : Obj} {g : CGraph} {s s1 : State} {hs : List Hit} (hcalm : s.calm)
  (ha : a.plain = true) (hb : b.plain = true) (hrel : Claims.releasable s (g.ranks.any (· != s.devNo)))
  (hhandle : Claims.handle s (s.me.src a) 8 .call key o) (hw : w = (s.me.src b).toNat)
  (hword : w ≠ 0 → w < 2 ^ 56 ∧ w % 8 = 0 ∧ check rW (.v w) 8 ((s.issue 4).cacheEntry key) = .ok (hs, s1))
  (hloaded : o.fld 0 39 1 = 1) (hgraph : s.graph? key = some g)
include hcalm ha hb hrel hhandle hw hword hloaded hgraph

/-- CGRUN of a loaded graph up to its state's test. -/
theorem exec_cgrun : ∃ u, ((s.cacheEntry key).issue 4).readOnly u ∧
    (o.fld 0 40 2 ≠ 0 → exec (.cgrun a b la) s = .next s) ∧
    (o.fld 0 40 2 = 0 → ∀ pend, waitFor (.table 7 key 0) la { u with me := u.me.result .l0 (u.clk + toW (runCost g.steps)) } =
        .ok ((), { u with me := { u.me.result .l0 (u.clk + toW (runCost g.steps)) with pend } }) →
      exec (.cgrun a b la) s = finishLong 4 (window la) [.l0] none s (.ok ((), State.begun
        { u with me := { u.me.result .l0 (u.clk + toW (runCost g.steps)) with pend } } (g.begun u (o.fld 0 48 16) w) (o.fld 0 48 16)))) := by
  subst hw
  have hkey := graph_key hgraph
  obtain ⟨u, hoperand, hread⟩ := wordOperand_good (b := s.me.src b) (s := (s.cacheEntry key).issue 4) hword
  obtain ⟨mem, tlb, tier, agenda, queues, heq⟩ := id hread.framed
  have hobj0 : s.objAt key = o := hhandle.2.1.symm
  have hobj : u.objAt key = o := (congrFun (objAt_congr (s := s) (by rw [heq]; rfl)) key).trans hhandle.2.1.symm
  have hg : u.graph? key = some g := by rw [heq]; exact hgraph
  have hpend : u.me.pend = [] := by rw [heq]; exact (State.calm_issue s 4 hcalm).2.1
  have hissue : issueFor (g.ranks.any (· != u.devNo)) u = .ok ((), u) := issueFor_ok hpend (by rw [heq]; exact hrel)
  refine ⟨u, hread, ?_⟩
  rw [exec, execCgrun, command_calm hcalm, bind_ok _ _ _ _ _ (rd2_issue 4 hcalm ha hb)]
  dsimp only
  rw [bind_ok _ _ _ _ _ (ownHandle_issue 4 (by decide) hhandle), hobj0,
    bind_ok _ _ _ _ _ (need_of_true _ _ (beq_iff_eq.mpr hloaded)), bind_ok _ _ _ _ _ hoperand, bind_ok _ _ _ _ _ rfl, hobj, hg]
  dsimp only
  rw [bind_ok _ _ _ _ _ hissue]
  refine ⟨fun hbusy => ?_, fun hfree pend hwait => ?_⟩
  · rw [need, beq_eq_false_iff_ne.mpr hbusy]
    rfl
  · rw [bind_ok _ _ _ _ _ (need_of_true _ _ (beq_iff_eq.mpr hfree))]
    refine congrArg (finishLong 4 (window la) [.l0] none s) ((bind_ok _ _ _ _ _ (promise_of_pend_nil _ hpend)).trans
      ((bind_ok _ _ _ _ _ hwait).trans ?_))
    subst hkey
    rfl

end

theorem graph?_setObjFld (s : State) (key k w lo n v : Nat) : (s.setObjFld k w lo n v).graph? key = s.graph? key := rfl

/-- What a run that has just begun holds. -/
theorem begun_done {s : State} {g g0 : CGraph} (run : Nat) (hg : s.graph? g.key = some g0) : (s.begun g run).me = s.me ∧
    (∃ g', (s.begun g run).graph? g.key = some g' ∧ g.sameRun g') ∧
    (s.begun g run).objAt g.key = ((s.objAt g.key).setFld 0 48 16 (run + 1)).setFld 0 40 2 1 := by
  have hstepped := stepped_startFree (((s.setGraph g).setObjFld g.key 0 48 16 (run + 1)).setObjFld g.key 0 40 2 1) g.key g.steps
  refine ⟨hstepped.me, hstepped.graph g ?_, ?_⟩
  · rw [graph?_setObjFld, graph?_setObjFld, graph?_setGraph hg rfl]
  · rw [State.begun, objAt_congr hstepped.obj, objAt_setObjFld, objAt_setObjFld]
    rfl

end Sys2Proof.Machine
end
section
/-! PROOFS. Collective graphs: loading and starting a run (R309, R310). -/

namespace Sys2Proof.Machine

/-- Settles O49: CGLD's checks and the graph it loads; CGRUN's test of the state, and what starting the free steps leaves as it is. -/
theorem collectiveLoadAndRun : Obligations.CollectiveLoadAndRun := by
  refine ⟨fun a la key n o s s1 s2 bs rs hcalm ha hhandle hn => ⟨fun hloaded => cgld_loaded la hcalm ha hhandle hloaded,
    fun hfree hstate hsteps hranks hchecks hroutes hroom hsum => ?loads⟩,
    fun a b la key w o g s s1 hs hcalm ha hb hrel hhandle hw hword hloaded hgraph => ?runs⟩
  case loads =>
    subst hn
    obtain ⟨hframe, hexec⟩ := cgld_loads la hcalm ha hhandle hfree hstate hsteps hranks hchecks hroutes hroom hsum
    obtain ⟨hpromise, hpromised⟩ := promiseFree_ends (u := s2.loaded (loadedGraph key o bs rs)) hcalm hframe.me
    refine ⟨(s2.loaded (loadedGraph key o bs rs)).promisedFree, loadedGraph key o bs rs, ?_, hpromised, rfl, ?_, rfl, rfl, rfl, rfl, rfl, ?_⟩
    · rw [hexec, hpromise]
      rfl
    · exact congrArg (· ++ [loadedGraph key o bs rs]) hframe.graphs
    · refine (objAt_setObjFld _ key 0 39 1 1).trans (congrArg (fun x : Obj => x.setFld 0 39 1 1) ?_)
      exact (congrFun (objAt_congr (s := s) hframe.obj) key).trans hhandle.2.1.symm
  case runs =>
    obtain ⟨u, hread, hbusy, hstart⟩ := exec_cgrun la hcalm ha hb hrel hhandle hw hword hloaded hgraph
    obtain ⟨mem, tlb, tier, agenda, queues, heq⟩ := id hread.framed
    refine ⟨hbusy, fun hfree => ?_⟩
    obtain rfl := graph_key hgraph
    have hme : u.me = (s.issue 4).me := by rw [heq]; rfl
    obtain ⟨pend, hwait, hp⟩ := waitFor_of_pend_nil (s := { u with me := u.me.result .l0 (u.clk + toW (runCost g.steps)) }) (.table 7 g.key 0) la
      (hme ▸ (State.calm_issue s 4 hcalm).2.1)
    let v : State := { u with me := { u.me.result .l0 (u.clk + toW (runCost g.steps)) with pend } }
    have hgv : v.graph? g.key = some g := by simp only [v, heq]; exact hgraph
    have hov : v.objAt g.key = o := (congrFun (objAt_congr (s := s) (by simp only [v, heq]; rfl)) g.key).trans hhandle.2.1.symm
    obtain ⟨hbegun, ⟨g', hg', hkey', hrunning', hrun', hword', hranks', hbases'⟩, hobj⟩ :=
      begun_done (s := v) (g := g.begun u (o.fld 0 48 16) w) (o.fld 0 48 16) hgv
    refine ⟨v.begun (g.begun u (o.fld 0 48 16) w) (o.fld 0 48 16), g', hstart hfree pend hwait,
      promisedWait_of (w := u.clk + toW (runCost g.steps)) (hbegun.trans ?_) hp, ?_, hg', hrunning', hrun', hword', hranks', ?_, ?_⟩
    · simp only [v, hme, issue_calm hcalm]
      rfl
    · rw [hbegun]
      simp only [v, heq]
      rfl
    · rw [hbases', heq]
      rfl
    · refine hobj.trans ?_
      exact congrArg (fun x : Obj => (x.setFld 0 48 16 (o.fld 0 48 16 + 1)).setFld 0 40 2 1) hov

end Sys2Proof.Machine
end

section
/-! SUPPORT. The course of a collective run (R306, R307, R310, R311). -/

namespace Sys2Proof.Machine

/-- An acknowledgement changes no more than what goes out. -/
theorem ackChunk_sends (s : State) (g : CGraph) (rank b : Nat) :
    s.ackChunk g rank b = { s with fabric := { s.fabric with out := s.fabric.out ++ Claims.acks g [rank] b } } := by
  rw [State.ackChunk, Claims.acks]
  by_cases hself : rank = g.rank
  · rw [if_pos hself, List.filter_cons_of_neg (by rw [hself, bne_self_eq_false]; exact Bool.false_ne_true), List.filter_nil,
      List.map_nil, List.append_nil]
  · have hother : ([rank].filter fun r => r != g.rank) = [rank] := List.filter_cons_of_pos (bne_iff_ne.mpr hself)
    rw [if_neg hself, hother]
    rfl

theorem acks_append (g : CGraph) (l r : List Nat) (b : Nat) : Claims.acks g (l ++ r) b = Claims.acks g l b ++ Claims.acks g r b := by
  rw [Claims.acks, List.filter_append, List.map_append]
  rfl

theorem ackChunks_sends (g : CGraph) (b : Nat) (ws : List Word) (s : State) :
    ws.foldl (fun t r => t.ackChunk g r.toNat b) s =
      { s with fabric := { s.fabric with out := s.fabric.out ++ Claims.acks g (ws.map BitVec.toNat) b } } := by
  induction ws generalizing s with
  | nil => rw [List.map_nil, Claims.acks, List.filter_nil, List.map_nil, List.append_nil]; rfl
  | cons w ws ih =>
    rw [List.foldl_cons, ih, ackChunk_sends, List.map_cons, List.append_assoc, ← acks_append]
    rfl

theorem chunkWrite_of {s t : State} {g : CGraph} {va : Nat} {bs : List Byte}
    (h : engWrite g.cl g.job (s.line va bs.length) bs s = .ok (none, t)) : s.chunkWrite g va bs = some t := by
  rw [State.chunkWrite, h]

/-! A chunk that arrives. -/

section
variable {s t1 : State} {g : CGraph} {i : Nat} {x : CStep} {c : Chunk}

/-- A chunk of another rank that fits its RECV. -/
theorem writeChunk_of (hrank : c.rank ≠ g.rank) (hfits : c.off + c.bytes.length ≤ x.len)
    (hwrite : engWrite g.cl g.job (s.line ((g.dst x + c.off) % 2 ^ 56) c.bytes.length) c.bytes s = .ok (none, t1)) :
    s.writeChunk g i x c = some ((t1.ackChunk g c.rank (c.off + c.tag * 2 ^ 32 + c.run * 2 ^ 40)).setGraph
      (g.setStep i { x with done := x.done + c.bytes.length })) := by
  have hmin : min c.bytes.length (x.len - c.off) = c.bytes.length := Nat.min_eq_left (by omega)
  have hne : (c.rank == g.rank) = false := beq_eq_false_iff_ne.mpr hrank
  rw [State.writeChunk]
  simp only [hmin, List.take_length, chunkWrite_of hwrite, Nat.lt_irrefl, if_false]
  rw [List.find?_eq_none.mpr fun j _ => ?_]
  simp only [CGraph.setStep, hne, Bool.false_and]
  split <;> exact Bool.false_ne_true

end

/-- The chunk a COLLECTIVE_CHUNK_ARRIVAL brings. -/
def Arg.chunk (a : Arg) : Chunk := { rank := a.rank, tag := a.kind, run := a.n, off := a.m, bytes := a.bs }

section
variable {s : State} {g : CGraph} {i : Nat} {x : CStep} (hg : s.graph? (objKey s.arg.job s.arg.h) = some g) (hrunning : g.running = true)
  (hrun : s.arg.n = g.run) (hrecv : g.recvFor s.arg.chunk = some i) (hstep : g.step? i = some x)
include hg hrunning hrun hrecv hstep

/-- A chunk of the run under way for a RECV that takes it. -/
theorem exec_arrival : exec .collectiveChunkArrival s = .next (if x.st = 0 then
      (if s.heldBytes g.die + s.arg.bs.length ≤ 4194304 then s.setGraph { g with held := g.held ++ [s.arg.chunk] }
        else s.due .collectiveChunkArrival (s.arg.chunk.arrival (objKey s.arg.job s.arg.h) (s.clk + 1)))
    else if x.st = 2 ∨ x.len ≤ s.arg.m then s.count g.die 0xFE038
    else (s.writeChunk g i x s.arg.chunk).getD
      (s.due .collectiveChunkArrival (s.arg.chunk.arrival (objKey s.arg.job s.arg.h) (s.clk + 1)))) := by
  have hnow : (g.running && s.arg.chunk.run == g.run) = true :=
    Bool.and_eq_true_iff.mpr ⟨hrunning, beq_iff_eq.mpr hrun⟩
  rw [exec, execCollectiveChunkArrival]
  dsimp only
  rw [hg]
  dsimp only
  refine (if_pos hnow).trans ?_
  rw [show g.recvFor (Chunk.mk s.arg.rank s.arg.kind s.arg.n s.arg.m s.arg.bs) = some i from hrecv]
  dsimp only
  rw [hstep]
  dsimp only
  by_cases hst : x.st = 0
  · rw [if_pos hst, if_pos hst]
    rfl
  · rw [if_neg hst, if_neg hst]
    by_cases hlate : x.st = 2 ∨ x.len ≤ s.arg.m
    · rw [if_pos hlate, if_pos hlate]
    · rw [if_neg hlate, if_neg hlate, Arg.chunk]
      cases s.writeChunk g i x (Chunk.mk s.arg.rank s.arg.kind s.arg.n s.arg.m s.arg.bs) <;> rfl

end

/-! A reduction. -/

section
variable {s : State} {g : CGraph} {x : CStep} {own : List Byte} (hg : s.graph? (objKey s.arg.job s.arg.h) = some g)
  (hrunning : g.running = true) (hstep : g.step? s.arg.n = some x) (hop : x.op = 2) (hst : x.st = 1) (hmore : x.done < x.chunks)
  (hkids : s.arg.kids.length = x.children) (hown : s.ownChunk x x.done = some own)
include hg hrunning hstep hop hst hmore hkids hown

theorem exec_reduce_root {t1 : State} (hroot : x.peer = g.rank)
    (hwrite : engWrite g.cl g.job (s.line ((g.dst x + 128 * x.done) % 2 ^ 56) (reduceBytes own s.arg.kids).length)
      (reduceBytes own s.arg.kids) s = .ok (none, t1)) :
    exec .reduceChunk s = .next (s.arg.ws.foldl (fun t r => t.ackChunk g r.toNat (128 * x.done + x.rtag * 2 ^ 32 + g.run * 2 ^ 44))
      (t1.setGraph (g.setStep s.arg.n { x with done := x.done + 1 }))) := by
  have hready : (!g.running || x.op != 2 || x.st != 1 || decide (x.chunks ≤ x.done) || s.arg.kids.length != x.children) = false := by
    rw [hrunning, hop, hst, hkids, decide_eq_false (Nat.not_le.mpr hmore), bne_self_eq_false, bne_self_eq_false, bne_self_eq_false]
    rfl
  rw [exec, execReduceChunk]
  dsimp only
  rw [hg]
  dsimp only
  rw [hstep]
  dsimp only
  rw [hready, hown]
  dsimp only
  rw [if_neg Bool.false_ne_true, if_pos hroot, chunkWrite_of hwrite]

theorem exec_reduce_leaf (hleaf : x.peer ≠ g.rank) : ∃ p : Packet, p.dev = g.ranks.getD x.peer 0 ∧ p.bytes = reduceBytes own s.arg.kids ∧
    exec .reduceChunk s = .next (s.arg.ws.foldl (fun t r => t.ackChunk g r.toNat (128 * x.done + x.rtag * 2 ^ 32 + g.run * 2 ^ 44))
      { s.setGraph (g.setStep s.arg.n { x with done := x.done + 1 }) with fabric :=
        { (s.setGraph (g.setStep s.arg.n { x with done := x.done + 1 })).fabric with out := s.fabric.out ++ [p] } }) := by
  have hready : (!g.running || x.op != 2 || x.st != 1 || decide (x.chunks ≤ x.done) || s.arg.kids.length != x.children) = false := by
    rw [hrunning, hop, hst, hkids, decide_eq_false (Nat.not_le.mpr hmore), bne_self_eq_false, bne_self_eq_false, bne_self_eq_false]
    rfl
  refine ⟨{ dev := g.peerDev x, job := g.job, kind := 7, a := objKey s.arg.job s.arg.h % 65536,
            b := 128 * x.done + x.rtag * 2 ^ 32 + g.run * 2 ^ 44, bytes := reduceBytes own s.arg.kids }, rfl, rfl, ?_⟩
  rw [exec, execReduceChunk]
  dsimp only
  rw [hg]
  dsimp only
  rw [hstep]
  dsimp only
  rw [hready, hown]
  dsimp only
  rw [if_neg Bool.false_ne_true, if_neg hleaf]
  rfl

end

/-! A step that is done. -/

/-- A step's successors one nearer. -/
def CGraph.nearer (g : CGraph) (x : CStep) : CGraph :=
  x.succs.foldl (fun (g : CGraph) j => match g.step? j with
    | none => g
    | some y => g.setStep j { y with count := y.count - 1 }) g

theorem step?_setStep_other (g : CGraph) {i j : Nat} (x : CStep) (h : j ≠ i) : (g.setStep i x).step? j = g.step? j :=
  List.getElem?_set_ne h.symm

theorem step?_setStep_same {g : CGraph} {i : Nat} {y : CStep} (x : CStep) (h : g.step? i = some y) : (g.setStep i x).step? i = some x := by
  obtain ⟨hlt, -⟩ := List.getElem?_eq_some_iff.mp h
  exact List.getElem?_set_self hlt

theorem endRun_waits {s : State} {key j : Nat} {g : CGraph} {y : CStep} (hg : s.graph? key = some g) (hstep : g.step? j = some y)
    (hst : y.st ≠ 2) : s.endRun key = s := by
  have hnot : g.steps.all (fun x => x.st == 2) = false :=
    List.all_eq_false.mpr ⟨y, List.mem_of_getElem? hstep, fun h => hst (beq_iff_eq.mp h)⟩
  rw [State.endRun, hg]
  dsimp only
  rw [hnot, Bool.and_false, if_neg Bool.false_ne_true]

theorem endRun_ends {s : State} {key : Nat} {g : CGraph} (hg : s.graph? key = some g) (hrunning : g.running = true)
    (hword : g.word = 0) (hall : ∀ x ∈ g.steps, x.st = 2) :
    s.endRun key = ((s.setGraph { g with running := false }).setObjFld key 0 40 2 0).tellRun key fun _ => none := by
  have hdone : g.steps.all (fun x => x.st == 2) = true := List.all_eq_true.mpr fun x hx => beq_iff_eq.mpr (hall x hx)
  rw [State.endRun, hg]
  dsimp only
  rw [hrunning, hdone, Bool.and_self, if_pos rfl, if_pos hword]

theorem clearTag_if (s : State) (x : CStep) : ∃ apert, (if x.op = 2 then s.clearTag x.rtag else s) =
    { s with fabric := { s.fabric with apert } } := by
  split <;> exact ⟨_, rfl⟩

section
variable {s : State} {g : CGraph} {x : CStep} (hg : s.graph? (objKey s.arg.job s.arg.h) = some g) (hrunning : g.running = true)
  (hstep : g.step? s.arg.n = some x) (hst : x.st = 1) (hmet : s.stepMet g x = true ∨ (s.arg.flag = true ∧ stepAcked g x = true))
include hg hrunning hstep hst hmet

/-- A step without successors. -/
theorem exec_step_last (hsuccs : x.succs = []) : ∃ apert, exec .collectiveStepComplete s =
    .next (({ s with fabric := { s.fabric with apert } }.setGraph (g.setStep s.arg.n { x with st := 2 })).endRun
      (objKey s.arg.job s.arg.h)) := by
  obtain ⟨apert, hclear⟩ := clearTag_if s x
  have hdone : (g.running && x.st == 1 && (s.stepMet g x || (s.arg.flag && stepAcked g x))) = true := by
    rw [hrunning, hst]
    exact Bool.or_eq_true_iff.mpr (hmet.imp_right Bool.and_eq_true_iff.mpr)
  refine ⟨apert, ?_⟩
  rw [exec, execCollectiveStepComplete]
  dsimp only
  rw [hg]
  dsimp only
  rw [hstep]
  dsimp only
  rw [hdone, if_pos rfl, hclear, hsuccs]
  rfl

/-- A step whose one successor still waits for others. -/
theorem exec_step_next {j : Nat} {y : CStep} (hsuccs : x.succs = [j]) (hother : j ≠ s.arg.n) (hj : g.step? j = some y)
    (hcount : 2 ≤ y.count) : ∃ apert, exec .collectiveStepComplete s =
    .next (({ s with fabric := { s.fabric with apert } }.setGraph
      ((g.setStep s.arg.n { x with st := 2 }).setStep j { y with count := y.count - 1 })).endRun (objKey s.arg.job s.arg.h)) := by
  obtain ⟨apert, hclear⟩ := clearTag_if s x
  have hdone : (g.running && x.st == 1 && (s.stepMet g x || (s.arg.flag && stepAcked g x))) = true := by
    rw [hrunning, hst]
    exact Bool.or_eq_true_iff.mpr (hmet.imp_right Bool.and_eq_true_iff.mpr)
  have hj' := (step?_setStep_other g { x with st := 2 } hother).trans hj
  have hcounted : ¬ (y.count - 1 = 0 ∧ y.st = 0) := fun h => by omega
  refine ⟨apert, ?_⟩
  rw [exec, execCollectiveStepComplete]
  dsimp only
  rw [hg]
  dsimp only
  rw [hstep]
  dsimp only
  rw [hdone, if_pos rfl, hclear, hsuccs]
  simp only [List.foldl_cons, List.foldl_nil, hj', List.eraseDups_cons, List.filter_nil, List.eraseDups_nil]
  rw [step?_setStep_same _ hj']
  dsimp only
  rw [if_neg hcounted]

end

/-! A run cancelled. -/

theorem foldl_clearTags (l : List CStep) (s : State) : ∃ apert,
    l.foldl (fun s x => if x.op = 2 then s.clearTag x.rtag else s) s = { s with fabric := { s.fabric with apert } } :=
  List.foldlRecOn (motive := fun t : State => ∃ apert, t = { s with fabric := { s.fabric with apert } }) l _ ⟨_, rfl⟩
    fun t ⟨_, ht⟩ x _ => by
      obtain ⟨apert, hclear⟩ := clearTag_if t x
      rw [hclear, ht]
      exact ⟨apert, rfl⟩

/-- The cancel packets of a run (R311). -/
def CGraph.cancels (g : CGraph) (rank step : Nat) : List Packet :=
  ((List.range g.ranks.length).filter (· != g.rank)).map fun r =>
    ({ dev := g.ranks.getD r 0, job := g.key / 65536, kind := 8, a := g.key % 65536
       b := rank + step * 2 ^ 16 + g.run * 2 ^ 32, bytes := [] } : Packet)

/-- Packets put on the fabric. -/
def State.sends (s : State) (ps : List Packet) : State := { s with fabric := { s.fabric with out := s.fabric.out ++ ps } }

theorem objAt_tellRun (s : State) (key : Nat) (f : Pending → Option Pending) : (s.tellRun key f).objAt = s.objAt := rfl

theorem cancelRun_eq {s : State} {g : CGraph} (rank step : Nat) (hrunning : g.running = true) (hheld : g.held = []) (hword : g.word = 0) :
    s.cancelRun g rank step = (((g.steps.foldl (fun s x => if x.op = 2 then s.clearTag x.rtag else s) (s.sends (g.cancels rank step))).setGraph
      { g with running := false, held := [] }).setObjFld g.key 0 40 2 0).tellRun g.key
        fun p => some (p.fail (.fault 10 0 (toW (rank + step * 2 ^ 16 + g.run * 2 ^ 32)))) := by
  rw [State.cancelRun, hrunning]
  dsimp only
  rw [if_neg (by exact Bool.false_ne_true), hheld, List.filter_nil, List.filter_nil, List.foldl_nil, if_pos hword]
  rfl

theorem filterMap_ite_some {α : Type} (p : α → Prop) [DecidablePred p] (f : α → α) (l : List α) :
    l.filterMap (fun x => if p x then some (f x) else some x) = l.map fun x => if p x then f x else x := by
  rw [← List.filterMap_eq_map]
  refine List.filterMap_congr fun x _ => ?_
  by_cases hx : p x
  · simp only [Function.comp, if_pos hx]
  · simp only [Function.comp, if_neg hx]

theorem cancelRun_cancelled {s : State} {g : CGraph} (rank step : Nat) (hg : s.graph? g.key = some g) (hrunning : g.running = true)
    (hheld : g.held = []) (hword : g.word = 0) : Claims.cancelled s (s.cancelRun g rank step) g rank step := by
  obtain ⟨apert, hclear⟩ := foldl_clearTags g.steps (s.sends (g.cancels rank step))
  rw [cancelRun_eq rank step hrunning hheld hword, hclear]
  refine ⟨graph?_setGraph (key := g.key) (g' := { g with running := false, held := [] }) hg rfl, ?_, rfl, rfl, ?_⟩
  · rw [objAt_tellRun, objAt_setObjFld, fld_setFld_same _ 0 (by decide)]
    rfl
  · exact filterMap_ite_some (fun p : Pending => p.src = .table 7 g.key 0) _ _

end Sys2Proof.Machine
end
section
/-! PROOFS. The course of a collective run (R306, R307, R310, R311). -/

namespace Sys2Proof.Machine

/-- Settles O50: a chunk written or held, a reduction at the root or sent on, a step done, and a run cancelled. -/
theorem collectiveCourse : Obligations.CollectiveCourse := by
  intro s key g hkey hg hrunning
  subst hkey
  have hgk := graph_key hg
  refine ⟨fun i x c hc hrun hrank hrecv hstep => ?arrives, fun x own hstep hop hst hmore hkids hown => ⟨fun t1 hroot hwrite => ?root,
    fun hleaf => ?leaf⟩, fun x hstep hst hmet => ⟨fun p hsteps hsuccs hword hpend hsrc => ?last, fun j y hsuccs hother hj hcount hy => ?next⟩,
    fun hheld hword => ⟨fun x hstep hlate => ?late, fun hrun => ?cancel⟩⟩
  case arrives =>
    subst hc
    have hexec := exec_arrival hg hrunning hrun hrecv hstep
    refine ⟨fun t1 hst hoff hfits hwrite => ?_, fun hst hroom => ?_⟩
    · have hlate : ¬ (x.st = 2 ∨ x.len ≤ s.arg.m) := by omega
      have hframe := unitFrames_engWrite _ _ _ _ _ _ _ hwrite
      rw [if_neg (by omega), if_neg hlate, writeChunk_of (c := s.arg.chunk) hrank hfits hwrite] at hexec
      refine ⟨_, hexec, ?_, ?_, ?_, ?_⟩
      · rw [ackChunk_sends]; rfl
      · rw [ackChunk_sends]; rfl
      · rw [ackChunk_sends]
        exact graph?_setGraph ((hframe.graph? _).trans hg) (show g.key = _ from hgk)
      · rw [ackChunk_sends]; rfl
    · rw [hexec, if_pos hst, if_pos hroom]
      rfl
  case root =>
    have hframe := unitFrames_engWrite _ _ _ _ _ _ _ hwrite
    refine ⟨_, exec_reduce_root hg hrunning hstep hop hst hmore hkids hown hroot hwrite, ?_⟩
    rw [ackChunks_sends]
    exact ⟨rfl, rfl, graph?_setGraph ((hframe.graph? _).trans hg) (show g.key = _ from hgk), rfl⟩
  case leaf =>
    obtain ⟨p, hdev, hbytes, hexec⟩ := exec_reduce_leaf hg hrunning hstep hop hst hmore hkids hown hleaf
    refine ⟨_, p, hexec, ?_⟩
    rw [ackChunks_sends]
    exact ⟨rfl, rfl, rfl, hdev, hbytes⟩
  case last =>
    obtain ⟨apert, hexec⟩ := exec_step_last hg hrunning hstep hst hmet hsuccs
    have hzero : s.arg.n = 0 := by
      obtain ⟨hlt, -⟩ := List.getElem?_eq_some_iff.mp hstep
      rw [hsteps] at hlt
      exact Nat.lt_one_iff.mp hlt
    have hsets : g.setStep s.arg.n { x with st := 2 } = { g with steps := [{ x with st := 2 }] } := by
      rw [CGraph.setStep, hsteps, hzero]
      rfl
    rw [hsets] at hexec
    have hset := graph?_setGraph (s := { s with fabric := { s.fabric with apert } }) (g' := { g with steps := [{ x with st := 2 }] }) hg
      (show g.key = _ from hgk)
    rw [endRun_ends hset hrunning hword fun y hy => by rw [List.mem_singleton.mp hy]] at hexec
    refine ⟨_, hexec, ?_, rfl, ?_, graph?_setGraph (g' := { g with steps := [{ x with st := 2 }], running := false }) hset
      (show g.key = _ from hgk)⟩
    · have hgone : (s.me.pend.filterMap fun p => if p.src = .table 7 (objKey s.arg.job s.arg.h) 0 then none else some p) = [] := by
        rw [hpend, List.filterMap_cons, if_pos hsrc, List.filterMap_nil]
      exact congrArg (fun pend => { s.me with pend }) hgone
    · rw [objAt_tellRun, objAt_setObjFld, fld_setFld_same _ 0 (by decide)]
      rfl
  case next =>
    obtain ⟨apert, hexec⟩ := exec_step_next hg hrunning hstep hst hmet hsuccs hother hj hcount
    have hset := graph?_setGraph (s := { s with fabric := { s.fabric with apert } }) (g' := (g.setStep s.arg.n { x with st := 2 }).setStep j
      { y with count := y.count - 1 }) hg (show g.key = _ from hgk)
    have hj' := (step?_setStep_other g { x with st := 2 } hother).trans hj
    rw [endRun_waits hset (step?_setStep_same _ hj') (by simp only [hy]; decide)] at hexec
    exact ⟨_, hexec, rfl, rfl, hset⟩
  case late =>
    have hgk' : s.graph? g.key = some g := by rw [hgk]; exact hg
    refine ⟨_, ?_, cancelRun_cancelled g.rank s.arg.n hgk' hrunning hheld hword⟩
    rw [exec, execCollectiveStepTimeout, hg]
    dsimp only
    rw [hstep]
    dsimp only
    rw [if_pos hlate]
  case cancel =>
    have hgk' : s.graph? g.key = some g := by rw [hgk]; exact hg
    refine ⟨_, ?_, cancelRun_cancelled s.arg.rank s.arg.m hgk' hrunning hheld hword⟩
    rw [exec, execCollectiveCancelPacket, hg]
    dsimp only
    rw [if_pos hrun]

end Sys2Proof.Machine
end

section
/-! SUPPORT. OBJNEW and OBJSYNC (R256, R257). -/

namespace Sys2Proof.Machine

open Sys2Proof.Num

theorem State.engined.clk {s t : State} (h : s.engined t) : t.clk = s.clk := by
  obtain ⟨_, _, _, _, _, _, _, rfl⟩ := h
  rfl

theorem State.engined.replays {s t : State} (h : s.engined t) : t.replays = s.replays := by
  obtain ⟨_, _, _, _, _, _, _, rfl⟩ := h
  rfl

theorem incl_eq_testBit (o : Obj) {die : Nat} (hdie : die < 8) : o.incl die = (o.fld 8 0 8).testBit die := by
  have hbit : (o.fld 8 die 1).testBit 0 = (o.fld 8 0 8).testBit die := by
    rw [testBit_fld, testBit_fld, decide_eq_true hdie, Nat.add_zero, Nat.add_zero]
    rfl
  rw [← hbit, Nat.testBit_zero, Obj.incl, Bool.eq_iff_iff, beq_iff_eq, decide_eq_true_iff]
  have hlt : o.fld 8 die 1 < 2 ^ 1 := Nat.mod_lt _ (by decide)
  omega

/-- A record as OBJNEW installs it. -/
def Obj.installed (o : Obj) (off : Nat) : Obj :=
  let o := (o.setFld 5 0 20 off).setFld 8 0 8 255
  { o with acc := BitVec.ofNat 16 (32 + o.fld 0 24 5) }

theorem installed_img (o : Obj) (off : Nat) : (o.installed off).img = ((o.setFld 5 0 20 off).setFld 8 0 8 255).img := rfl

theorem installed_valid (o : Obj) (off : Nat) : (o.installed off).valid = true := by
  have hlt : ((o.setFld 5 0 20 off).setFld 8 0 8 255).fld 0 24 5 < 2 ^ 5 := Nat.mod_lt _ (by decide)
  rw [Obj.valid, nbit, Obj.installed, BitVec.toNat_ofNat, beq_iff_eq]
  omega

theorem installed_incl (o : Obj) (off : Nat) {die : Nat} (hdie : die < 8) : (o.installed off).incl die = true := by
  have hfld : (o.installed off).fld 8 0 8 = 255 % 2 ^ 8 := by
    rw [Obj.fld, installed_img, ← Obj.fld]
    exact fld_setFld_same (o.setFld 5 0 20 off) 255 (by decide)
  rw [incl_eq_testBit _ hdie, hfld, Nat.testBit_mod_two_pow, decide_eq_true hdie]
  interval_cases die <;> rfl

/-- The replayed object OBJNEW installs. -/
def newReplay (key : Nat) (methods image block : List Byte) : Replay where
  key := key
  methods := groups 8 64 methods
  image := image
  log := []
  sent := []
  asleep := []
  queries := []
  far := 0
  replicas := (List.range 8).map fun die => { die, block := blockOf block, pos := 0, told := 0, sync := none }

theorem foldl_setBytes_eq {α : Type} (f : α → Nat) (bs : List Byte) (l : List α) (s : State) :
    ∃ mem, l.foldl (fun s x => s.setBytes (f x) bs) s = { s with mem } :=
  List.foldlRecOn (motive := fun t : State => ∃ mem, t = { s with mem }) l _ ⟨_, rfl⟩ fun t ⟨_, ht⟩ x _ => by
    rw [ht]
    exact ⟨_, rfl⟩

theorem find_new {l : List Replay} {key : Nat} {r : Replay} (hr : r.key = key) :
    (l.filter (fun x => x.key != key) ++ [r]).find? (fun x => x.key == key) = some r := by
  have hnone : (l.filter fun x => x.key != key).find? (fun x => x.key == key) = none := by
    refine List.find?_eq_none.mpr fun x hx heq => ?_
    exact bne_iff_ne.mp (List.mem_filter.mp hx).2 (beq_iff_eq.mp heq)
  rw [List.find?_append, hnone, Option.none_or]
  exact List.find?_cons_of_pos (beq_iff_eq.mpr hr)

theorem installReplay_done (s : State) (key : Nat) (o : Obj) (methods image block : List Byte) :
    (s.installReplay key o methods image block).me = s.me ∧ (s.installReplay key o methods image block).clk = s.clk ∧
    (s.installReplay key o methods image block).replay? key = some (newReplay key methods image block) ∧
    (s.installReplay key o methods image block).objAt key = o.installed (s.imageOffset image.length) := by
  obtain ⟨mem, heq⟩ := foldl_setBytes_eq (fun die => lsKey (coreOf die 0 17) (s.imageOffset image.length)) image (List.range 8)
    ({ s with free := s.free + 1 }.setObj key (o.installed (s.imageOffset image.length)))
  have hinstall : s.installReplay key o methods image block =
      { { s with free := s.free + 1 }.setObj key (o.installed (s.imageOffset image.length)) with
        mem, replays := s.replays.filter (fun r => r.key != key) ++ [newReplay key methods image block] } :=
    congrArg (fun t : State => { t with replays := t.replays.filter (fun r : Replay => r.key != key) ++ [newReplay key methods image block] }) heq
  rw [hinstall]
  exact ⟨rfl, rfl, find_new rfl, objAt_setObj _ _ _⟩

section
variable {a b c : Reg} (la : Look) {s s1 s2 s3 s4 : State} {bs ms image block : List Byte} {o : Obj} {h : Nat} (hcalm : s.calm)
  (hplv : 1 ≤ s.me.plv.toNat) (hplain : [a, b, c].all Reg.plain = true) (hh : h = (s.me.src a).toNat % 65536) (hne : h ≠ 0)
  (hinvalid : (s.objAt (objKey s.me.job.toNat h)).valid = false) (hrecord : readVirt (s.me.src b) 256 (s.issue 4) = .ok (bs, s1))
  (ho : o = { img := BitVec.ofNat 2048 (leNat bs), acc := 0 }) (hok : recordOk o = true)
  (hmethods : readVirt (toW (o.fld 2 0 56)) 512 s1 = .ok (ms, s2))
  (hwords : ∀ i < o.nmeth, methodWordOk o.codeLen ((groups 8 64 ms).getD i 0) = true) (hspan : spanOk s.me.job.toNat o = true)
include hcalm hplv hplain hh hne hinvalid hrecord ho hok hmethods hwords hspan

/-- OBJNEW of a good record up to the room for it. -/
theorem exec_objnew : exec (.objnew a b c la) s = finishLong 4 (window la) [.l0] none s ((do
    need ((s.issue 4).replayRoom (s.issue 4).me.job.toNat o) (illegalState (s.me.src a))
    let image ← readVirt (toW (o.fld 3 0 56)) o.codeLen
    let block ← if s.me.src c = 0 then pure [] else readVirt (s.me.src c) o.sbytes
    upd fun t => t.installReplay (objKey (s.issue 4).me.job.toNat h) o ms image block
    promise (300 + 80 + ceilDiv (512 + o.codeLen + o.sbytes) 64 + (if o.spanScope then 2400 else 0))) s2) := by
  have hkey : wbits (s.me.src a) 0 16 = h := by rw [hh, wbits, bitsOf, Nat.pow_zero, Nat.div_one]; rfl
  rw [exec, execObjnew, command_sup hcalm hplv, bind_ok _ _ _ _ _ (rd3_issue_calm 4 hcalm hplain)]
  dsimp only
  rw [bind_ok _ _ _ _ _ rfl, hkey, bind_ok _ _ _ _ _ (need_of_true _ _ (bne_iff_ne.mpr hne)),
    bind_ok _ _ _ _ _ (need_of_true _ _ (by exact congrArg (!·) hinvalid)), bind_ok _ _ _ _ _ hrecord, ← ho]
  rw [bind_ok _ _ _ _ _ (need_of_true _ _ hok), bind_ok _ _ _ _ _ hmethods,
    bind_ok _ _ _ _ _ (need_of_true _ _ (List.all_eq_true.mpr fun i hi => hwords i (List.mem_range.mp hi)))]
  refine congrArg (finishLong 4 (window la) [.l0] none s) ((bind_ok _ _ s2 () s2 (need_of_true _ _ hspan)))

theorem objnew_refuses (hroom : s.replayRoom s.me.job.toNat o = false) :
    exec (.objnew a b c la) s = finishLong 4 (window la) [.l0] none s (.error (.trap 7 0 (s.me.src a))) := by
  have hno : need ((s.issue 4).replayRoom (s.issue 4).me.job.toNat o) (illegalState (s.me.src a)) s2 = .error (.trap 7 0 (s.me.src a)) := by
    rw [show (s.issue 4).replayRoom (s.issue 4).me.job.toNat o = false from hroom]
    rfl
  rw [exec_objnew la hcalm hplv hplain hh hne hinvalid hrecord ho hok hmethods hwords hspan, bind_error _ hno]

theorem objnew_installs (hroom : s.replayRoom s.me.job.toNat o = true)
    (himage : readVirt (toW (o.fld 3 0 56)) o.codeLen s2 = .ok (image, s3))
    (hblock : if s.me.src c = 0 then block = [] ∧ s4 = s3 else readVirt (s.me.src c) o.sbytes s3 = .ok (block, s4)) :
    exec (.objnew a b c la) s = finishLong 4 (window la) [.l0] none s (promise (300 + 80 + ceilDiv (512 + o.codeLen + o.sbytes) 64 +
      (if o.spanScope then 2400 else 0)) (s4.installReplay (objKey s.me.job.toNat h) o ms image block)) ∧ (s.issue 4).engined s4 := by
  have hframe : s3.engined s4 := by
    split at hblock
    · rw [hblock.2]
      exact .refl s3
    · exact engined_readVirt hblock
  refine ⟨?_, (engined_readVirt hrecord).trans ((engined_readVirt hmethods).trans ((engined_readVirt himage).trans hframe))⟩
  rw [exec_objnew la hcalm hplv hplain hh hne hinvalid hrecord ho hok hmethods hwords hspan,
    bind_ok _ _ _ _ _ (need_of_true _ s2 (show (s.issue 4).replayRoom (s.issue 4).me.job.toNat o = true from hroom)),
    bind_ok _ _ _ _ _ himage]
  by_cases hz : s.me.src c = 0
  · rw [if_pos hz] at hblock ⊢
    obtain ⟨rfl, rfl⟩ := hblock
    exact congrArg (finishLong 4 (window la) [.l0] none s) ((bind_ok _ _ s4 [] s4 rfl).trans (bind_ok _ _ _ () _ rfl))
  · rw [if_neg hz] at hblock ⊢
    exact congrArg (finishLong 4 (window la) [.l0] none s) ((bind_ok _ _ _ _ _ hblock).trans (bind_ok _ _ _ () _ rfl))

end

/-! OBJSYNC. -/

/-- A replica put in place of its die's. -/
theorem on_setOn {r : Replay} {die : Nat} {x q : Replica} (h : r.on die = some x) (hq : q.die = die) : (r.setOn q).on die = some q :=
  find_replaced Replica.die h hq

/-- A strand that no longer waits for a replica to catch up. -/
def Strand.caught (key die : Nat) (t : Strand) : Strand := { t with pend := t.pend.filter fun x => x.src != .table 6 key die }

/-- A replica that has reached its position is back at once; one behind it is still catching up. -/
theorem rejoined_eq (s : State) (r : Replay) (p : Replica) (tail : Nat) :
    s.rejoined r { p with sync := some tail } =
      if p.pos < tail then s.setReplay (r.setOn { p with sync := some tail })
      else (s.setReplay (r.setOn { p with sync := none })).allStrands (Strand.caught r.key p.die) := rfl

theorem rejoined_replay {s : State} {r : Replay} {p x : Replica} {key tail : Nat} (hr : s.replay? key = some r) (hkey : r.key = key)
    (hx : r.on p.die = some x) : ((s.rejoined r { p with sync := some tail }).replay? key).bind (fun y => y.on p.die) =
      some { p with sync := if p.pos < tail then some tail else none } := by
  rw [rejoined_eq]
  split
  · rw [replay?_setReplay hr (show (r.setOn _).key = key from hkey)]
    exact on_setOn hx rfl
  · refine (congrArg (Option.bind · fun y : Replay => y.on p.die) (replay?_setReplay hr (show (r.setOn _).key = key from hkey))).trans ?_
    exact on_setOn hx rfl

/-- A state whose strand owes what pend lists. -/
def State.withPend (s : State) (pend : List Pending) : State := { s with me := { s.me with pend } }

theorem withPend_self {s : State} {pend : List Pending} (h : s.me.pend = pend) : s.withPend pend = s := by
  rw [State.withPend, ← h]

theorem waitFor_withPend {s : State} (src : Owe) (la : Look) (hpend : s.me.pend = []) :
    ∃ pend, waitFor src la s = .ok ((), s.withPend pend) ∧
      if la.val = 15 then pend = [] else ∃ q : Pending, pend = [q] ∧ q.src = src ∧ q.left = la.val :=
  waitFor_of_pend_nil src la hpend

theorem caught_withPend {s : State} {pend : List Pending} {key die : Nat} {la : Look}
    (h : if la.val = 15 then pend = [] else ∃ q : Pending, pend = [q] ∧ q.src = .table 6 key die ∧ q.left = la.val) :
    (s.withPend pend).me.caught key die = (s.withPend []).me := by
  have hfilter : pend.filter (fun x => x.src != .table 6 key die) = [] := by
    split at h
    · rw [h, List.filter_nil]
    · obtain ⟨q, rfl, hsrc, -⟩ := h
      rw [List.filter_cons_of_neg (by rw [hsrc, bne_self_eq_false]; exact Bool.false_ne_true), List.filter_nil]
  exact congrArg (fun pend => (s.withPend pend).me) hfilter

/-- The die's Pontil serves again, and its replica of an object is taken from a copy (R257). -/
def State.synced (s : State) (key die tail : Nat) (r : Replay) (p : Replica) : State :=
  let s' := { s with device := { s.device with stopped := s.device.stopped.filter (· != die) } }.fieldReturn die
  (s'.setObjFld key 8 die 1 1).rejoined r { p with die, told := p.pos, sync := some tail }

section
variable {a : Reg} (la : Look) {key : Nat} {o : Obj} {r : Replay} {s : State} (hcalm : s.calm) (hplv : 1 ≤ s.me.plv.toNat)
  (ha : a.plain = true) (hhandle : Claims.handle s (s.me.src a) 6 .admin key o) (hr : s.replay? key = some r)
include hcalm hplv ha hhandle hr

theorem objsync_included (hin : o.incl (coreDie s.me.core) = true) :
    exec (.objsync a la) s = .next ((s.cacheEntry key).issue 4).promisedFree := by
  have hpromise := (promiseFree_ends (u := (s.cacheEntry key).issue 4) hcalm rfl).1
  have hobj : ((s.cacheEntry key).issue 4).promisedFree.objAt key = o := hhandle.2.1.symm
  have hr' : ((s.cacheEntry key).issue 4).promisedFree.replay? key = some r := hr
  rw [exec, execObjsync, command_sup hcalm hplv, bind_ok _ _ _ _ _ (rd_issue 4 hcalm ha),
    bind_ok _ _ _ _ _ (ownHandle_issue 4 (by decide) hhandle), bind_ok _ _ _ _ _ hpromise, bind_ok _ _ _ _ _ rfl, hobj, hr']
  dsimp only
  rw [if_pos (by exact hin)]
  rfl

theorem objsync_copies {p : Replica} {pend : List Pending} (hout : o.incl (coreDie s.me.core) = false)
    (hcopied : s.copied r (coreDie s.me.core) = some p)
    (hwait : waitFor (.table 6 key (coreDie s.me.core)) la ((s.cacheEntry key).issue 4).promisedFree =
      .ok ((), ((s.cacheEntry key).issue 4).promisedFree.withPend pend)) :
    exec (.objsync a la) s = .next ((((s.cacheEntry key).issue 4).promisedFree.withPend pend).synced key (coreDie s.me.core) o.tail r p) := by
  have hpromise := (promiseFree_ends (u := (s.cacheEntry key).issue 4) hcalm rfl).1
  have hobj : ((s.cacheEntry key).issue 4).promisedFree.objAt key = o := hhandle.2.1.symm
  have hr' : ((s.cacheEntry key).issue 4).promisedFree.replay? key = some r := hr
  have hcopied' : ((s.cacheEntry key).issue 4).promisedFree.copied r (coreDie s.me.core) = some p := hcopied
  rw [exec, execObjsync, command_sup hcalm hplv, bind_ok _ _ _ _ _ (rd_issue 4 hcalm ha),
    bind_ok _ _ _ _ _ (ownHandle_issue 4 (by decide) hhandle), bind_ok _ _ _ _ _ hpromise, bind_ok _ _ _ _ _ rfl, hobj, hr']
  dsimp only
  rw [show ((s.cacheEntry key).issue 4).promisedFree.me.core = s.me.core from rfl, if_neg (Bool.eq_false_iff.mp hout), hcopied']
  dsimp only
  rw [bind_ok _ _ _ _ _ hwait]
  rfl

end

theorem synced_done {s : State} {key die tail : Nat} {r : Replay} {p x : Replica} (hr : s.replay? key = some r) (hkey : r.key = key)
    (hx : r.on die = some x) : (s.synced key die tail r p).mem = s.mem ∧
    (s.synced key die tail r p).objAt key = (s.objAt key).setFld 8 die 1 1 ∧ die ∉ (s.synced key die tail r p).device.stopped ∧
    (((s.synced key die tail r p).replay? key).bind fun y => y.on die) =
      some { p with die := die, told := p.pos, sync := if p.pos < tail then some tail else none } ∧
    (s.synced key die tail r p).me = if p.pos < tail then s.me else s.me.caught key die := by
  refine ⟨?_, ?_, ?_, rejoined_replay (p := { p with die := die, told := p.pos }) hr hkey hx, ?_⟩
  · rw [State.synced, rejoined_eq _ r { p with die, told := p.pos } tail]
    split <;> rfl
  · rw [State.synced, rejoined_eq _ r { p with die, told := p.pos } tail]
    split <;> exact objAt_setObjFld _ key 8 die 1 1
  · have hstopped : (s.synced key die tail r p).device.stopped = s.device.stopped.filter (· != die) := by
      rw [State.synced, rejoined_eq _ r { p with die, told := p.pos } tail]
      split <;> rfl
    rw [hstopped]
    exact fun hin => bne_iff_ne.mp (List.mem_filter.mp hin).2 rfl
  · rw [State.synced, rejoined_eq _ r { p with die, told := p.pos } tail, hkey]
    split <;> rfl

end Sys2Proof.Machine
end
section
/-! PROOFS. OBJNEW and OBJSYNC (R256, R257). -/

namespace Sys2Proof.Machine

/-- Settles O43: the object an OBJNEW installs or its refusal, and the replica an OBJSYNC takes back in. -/
theorem objectCommands : Obligations.ObjectCommands := by
  refine ⟨fun a b c la s s1 s2 s3 s4 bs ms image block o h hcalm hplv ha hb hc hh hne hinvalid hrecord ho hok hmethods hwords hspan
    himage hblock => ?new, fun a la key die o r s hcalm hplv ha hhandle hr hkey hdie => ⟨fun hin => ?included, fun p x hout hcopied hx => ?copies⟩⟩
  case new =>
    have hplain : [a, b, c].all Reg.plain = true := by rw [List.all_cons, List.all_cons, List.all_cons, ha, hb, hc]; rfl
    split
    next hroom => exact objnew_refuses la hcalm hplv hplain hh hne hinvalid hrecord ho hok hmethods hwords hspan hroom
    next hroom =>
      obtain ⟨hexec, hframe⟩ := objnew_installs la hcalm hplv hplain hh hne hinvalid hrecord ho hok hmethods hwords hspan
        (Bool.not_eq_false _ ▸ hroom) himage hblock
      obtain ⟨hme, hclk, hnew, hobj⟩ := installReplay_done s4 (objKey s.me.job.toNat h) o ms image block
      have hpend : (s4.installReplay (objKey s.me.job.toNat h) o ms image block).me.pend = [] := by
        rw [hme, hframe.me]
        exact (State.calm_issue s 4 hcalm).2.1
      let v := s4.installReplay (objKey s.me.job.toNat h) o ms image block
      refine ⟨{ v with me := v.me.result .l0 (v.clk + toW (300 + 80 + ceilDiv (512 + o.codeLen + o.sbytes) 64 +
          (if o.spanScope then 2400 else 0))) }, newReplay (objKey s.me.job.toNat h) ms image block, ?_, ?_, hnew, rfl, rfl, fun p hp => ?_, ?_, fun die hdie => ?_⟩
      · rw [hexec, promise_of_pend_nil _ hpend]
        rfl
      · simp only [v, hme, hclk, hframe.me, hframe.clk, issue_calm hcalm]
        rfl
      · obtain ⟨die, -, rfl⟩ := List.mem_map.mp hp
        exact ⟨rfl, rfl⟩
      · refine (congrArg Obj.valid hobj).trans (installed_valid o _)
      · refine (congrArg (Obj.incl · die) hobj).trans (installed_incl o _ hdie)
  case included =>
    subst hdie
    exact ⟨_, objsync_included la hcalm hplv ha hhandle hr hin, (promiseFree_ends (u := (s.cacheEntry key).issue 4) hcalm rfl).2, rfl, rfl, rfl⟩
  case copies =>
    subst hdie
    obtain ⟨pend, hwait, hp⟩ := waitFor_withPend (s := ((s.cacheEntry key).issue 4).promisedFree) (.table 6 key (coreDie s.me.core)) la
      (State.calm_issue s 4 hcalm).2.1
    obtain ⟨hmem, hobj, hstopped, hreplica, hme⟩ := synced_done (s := ((s.cacheEntry key).issue 4).promisedFree.withPend pend) (p := p)
      (tail := o.tail) hr hkey hx
    have hobj' : (((s.cacheEntry key).issue 4).promisedFree.withPend pend).objAt key = o := hhandle.2.1.symm
    have hfree : ∀ l, (((s.cacheEntry key).issue 4).promisedFree.withPend l).me =
        { (s.issued 4 fun u => u.result .l0 (Config.freeWord s.free)).me with pend := l } := fun l => by
      simp only [State.withPend, State.promisedFree, State.cacheEntry, ← issue_result s hcalm]
      rfl
    refine ⟨_, objsync_copies la hcalm hplv ha hhandle hr hout hcopied hwait, hmem, hobj.trans (by rw [hobj']), hstopped, hreplica,
      fun hbehind => ?_, fun hlevel => ?_⟩
    · exact promisedWait_of (w := Config.freeWord s.free) (hme.trans ((if_pos hbehind).trans (hfree pend))) hp
    · refine promised_of (w := Config.freeWord s.free) hcalm (hme.trans ((if_neg (Nat.not_lt.mpr hlevel)).trans ?_))
      rw [caught_withPend hp, withPend_self (s := ((s.cacheEntry key).issue 4).promisedFree) (State.calm_issue s 4 hcalm).2.1]
      rfl

end Sys2Proof.Machine
end

section
/-! SUPPORT. The course of a replayed object (R252 to R258). -/

namespace Sys2Proof.Machine

open Sys2Proof.Num

/-- A valid object's table entry is not closed. -/
theorem closeReplay_of_valid {s : State} {key : Nat} (h : (s.objAt key).valid = true) : s.closeReplay key = s := by
  rw [State.closeReplay]
  split
  · rfl
  · dsimp only
    rw [h]
    rfl

/-- A result told to its caller (R249, R250). -/
theorem answerOne_eq (n : Nat) (v : Word) (trapped : Bool) (t : Strand) : answerOne n v trapped t = Claims.told n v trapped t := by
  refine congrArg (fun pend => { t with pend }) (List.map_congr_left fun p _ => ?_)
  by_cases hsrc : p.src = .query n
  · rw [if_pos hsrc, if_pos (beq_iff_eq.mpr hsrc)]
  · rw [if_neg hsrc, if_neg (fun h => hsrc (beq_iff_eq.mp h))]

/-! LOG_APPEND. -/

theorem exec_logAppend {s : State} {key : Nat} {r : Replay} {c : Call} {rest : List Call} (hkey : key = objKey s.arg.job s.arg.h)
    (hr : s.replay? key = some r) (hflag : s.arg.flag = false) (hsent : r.sent = c :: rest) (hsid : c.sid = s.arg.sid) :
    exec .logAppend s = .next ((s.setReplay { r with sent := rest }).callArrives key c) := by
  have hpull : pull (fun x : Call => x.sid == s.arg.sid) r.sent = some (c, rest) := by
    rw [hsent, pull, if_pos (beq_iff_eq.mpr hsid)]
  rw [exec, execLogAppend]
  dsimp only
  rw [← hkey, hr]
  dsimp only
  rw [hflag, if_neg Bool.false_ne_true, hpull]

section
variable {s : State} {key : Nat} {r : Replay} {o : Obj} (hr : s.replay? key = some r) (hrkey : r.key = key) (ho : s.objAt key = o)
  (hasleep : r.asleep = []) (c : Call)
include hr hrkey ho hasleep

theorem callArrives_room (hroom : s.canAppend key = true) (hdie : c.die < 8) :
    (s.callArrives key c).replay? key = some { r with log := r.log ++ [c] } ∧
    (s.callArrives key c).objAt key = o.setFld 6 0 64 (o.tail + 1) ∧ (s.callArrives key c).mem = s.mem ∧
    (s.callArrives key c).me = Claims.placed key c.n (o.tail + 1) s.me := by
  have hgo : (r.asleep.isEmpty && s.canAppend key) = true := by
    rw [hasleep, hroom]
    rfl
  rw [State.callArrives, hr]
  dsimp only
  rw [if_pos hgo, State.appendEntry, hr]
  dsimp only
  rw [if_neg (by omega), ho]
  exact ⟨replay?_setReplay hr hrkey, (objAt_setObjFld _ key 6 0 64 _).trans (congrArg (fun o : Obj => o.setFld 6 0 64 _) ho), rfl, rfl⟩

theorem callArrives_full (hfull : s.canAppend key = false) : (s.callArrives key c).objAt key = o ∧ (s.callArrives key c).me = s.me ∧
    (s.callArrives key c).replay? key = some { r with asleep := [c] } := by
  have hgo : (r.asleep.isEmpty && s.canAppend key) = false := by rw [hfull, Bool.and_false]
  rw [State.callArrives, hr]
  dsimp only
  rw [hgo, if_neg Bool.false_ne_true, hasleep, List.nil_append]
  exact ⟨ho, rfl, replay?_setReplay hr hrkey⟩

end

/-! ENTRY_APPLY and QUERY_RUN. -/

theorem rejoined_none (s : State) (r : Replay) {p : Replica} (h : p.sync = none) : s.rejoined r p = s.setReplay (r.setOn p) := by
  rw [State.rejoined, h]

theorem on_die {r : Replay} {die : Nat} {p : Replica} (h : r.on die = some p) : p.die = die :=
  beq_iff_eq.mp (List.find?_some (p := fun p : Replica => p.die == die) h)

/-- What an entry applied leaves: the replica a position further, and the result told where the call is of this die. -/
def State.applied (s : State) (r : Replay) (p : Replica) (c : Call) (x : MethodOut) : State :=
  let t := { s with mem := x.mem }.setReplay (r.setOn { p with pos := p.pos + 1, block := x.block })
  if c.die = s.arg.die then t.allStrands (answerOne c.n x.v x.trapped) else t

theorem exec_entryApply {s : State} {key : Nat} {r : Replay} {o : Obj} {p : Replica} {c : Call} (hr : s.replay? key = some r)
    (ho : s.objAt key = o) (hvalid : o.valid = true) (hkey : key = objKey s.arg.job s.arg.h) (hp : r.on s.arg.die = some p)
    (happlies : s.applies key p = true) (hsync : p.sync = none) (hentry : r.entry o.tail (p.pos + 1) = some c) :
    ∃ agenda, exec .entryApply s = .next { s.applied r p c (s.runMethod r p c false (p.pos + 1)) with agenda } := by
  generalize hx : s.runMethod r p c false (p.pos + 1) = x
  rw [exec, execEntryApply]
  dsimp only
  rw [← hkey, hr]
  dsimp only
  rw [hp]
  dsimp only
  rw [happlies, Bool.not_true, if_neg Bool.false_ne_true, ho, hentry]
  dsimp only
  rw [hx, rejoined_none _ _ (p := { p with pos := p.pos + 1, block := x.block }) hsync, closeReplay_of_valid]
  · rw [State.applied]
    split <;> split <;> exact ⟨_, rfl⟩
  · refine Eq.trans (congrArg Obj.valid ?_) hvalid
    rw [← ho]
    split <;> split <;> rfl

theorem applied_done {s : State} {key : Nat} {r : Replay} {p : Replica} (hr : s.replay? key = some r) (hrkey : r.key = key)
    (hp : r.on s.arg.die = some p) (c : Call) (x : MethodOut) : (s.applied r p c x).mem = x.mem ∧
    (((s.applied r p c x).replay? key).bind fun q => q.on s.arg.die) = some { p with pos := p.pos + 1, block := x.block } ∧
    (s.applied r p c x).me = if c.die = s.arg.die then Claims.told c.n x.v x.trapped s.me else s.me := by
  have hdie := on_die hp
  have hreplica : ((({ s with mem := x.mem }.setReplay (r.setOn { p with pos := p.pos + 1, block := x.block })).replay? key).bind
      fun q => q.on s.arg.die) = some { p with pos := p.pos + 1, block := x.block } := by
    rw [replay?_setReplay (s := { s with mem := x.mem }) hr (show (r.setOn _).key = key from hrkey)]
    exact on_setOn hp (by exact hdie)
  rw [State.applied]
  split
  · exact ⟨rfl, hreplica, answerOne_eq _ _ _ _⟩
  · exact ⟨rfl, hreplica, rfl⟩

/-- What a query leaves once it has run, or a CALLW once its floor is met. -/
def State.queried (s : State) (r : Replay) (p : Replica) (q : Query) (rest : List Query) : State :=
  let t := s.setReplay { r with queries := rest }
  if q.wait then t.allStrands (answerOne q.call.n 0 false)
  else
    let x := s.runMethod r p q.call true p.pos
    { t with mem := x.mem }.allStrands (answerOne q.call.n x.v x.trapped)

theorem queried_done {s : State} {key : Nat} {r : Replay} (hr : s.replay? key = some r) (hrkey : r.key = key) (p : Replica) (q : Query)
    (rest : List Query) : (s.queried r p q rest).replay? key = some { r with queries := rest } ∧
    (q.wait = true → (s.queried r p q rest).me = Claims.told q.call.n 0 false s.me ∧ (s.queried r p q rest).mem = s.mem) ∧
    (q.wait = false → (s.queried r p q rest).me = Claims.told q.call.n (s.runMethod r p q.call true p.pos).v
        (s.runMethod r p q.call true p.pos).trapped s.me ∧ (s.queried r p q rest).mem = (s.runMethod r p q.call true p.pos).mem) := by
  have hreplay : (s.setReplay { r with queries := rest }).replay? key = some { r with queries := rest } := replay?_setReplay hr hrkey
  rw [State.queried]
  dsimp only
  cases q.wait with
  | true => exact ⟨hreplay, fun _ => ⟨answerOne_eq _ _ _ _, rfl⟩, fun h => absurd h Bool.noConfusion⟩
  | false => exact ⟨hreplay, fun h => absurd h Bool.noConfusion, fun _ => ⟨answerOne_eq _ _ _ _, rfl⟩⟩

theorem exec_queryRun {s : State} {r : Replay} {q : Query} {rest : List Query} {p : Replica} (hvalid : (s.objAt r.key).valid = true)
    (hreplays : s.replays = [r]) (hqueries : r.queries = q :: rest) (hn : q.call.n = s.arg.n) (hp : r.on q.call.die = some p)
    (hdue : s.queryDue r q = true) : ∃ fabric, exec .queryRun s = .next { s.queried r p q rest with fabric } := by
  have hfind : (s.replays.find? fun r => r.queries.any fun q => q.call.n == s.arg.n) = some r := by
    rw [hreplays]
    exact List.find?_cons_of_pos (by rw [hqueries, List.any_cons, hn, beq_self_eq_true, Bool.true_or])
  have hpull : pull (fun q : Query => q.call.n == s.arg.n) r.queries = some (q, rest) := by
    rw [hqueries, pull, if_pos (beq_iff_eq.mpr hn)]
  rw [exec, execQueryRun, hfind]
  dsimp only
  rw [hpull]
  dsimp only
  rw [hp]
  dsimp only
  rw [hdue, Bool.not_true, if_neg Bool.false_ne_true, closeReplay_of_valid]
  · rw [State.queried]
    split <;> split <;> exact ⟨_, rfl⟩
  · refine Eq.trans (congrArg Obj.valid ?_) hvalid
    split <;> split <;> rfl

/-! REPLICA_REPORT. -/

/-- TRIM follows the lowest report of the included replicas. -/
theorem retrim_done {s : State} {key : Nat} {r : Replay} {o : Obj} {q : Replica} (hr : s.replay? key = some r) (ho : s.objAt key = o)
    (hasleep : r.asleep = []) (hhere : s.logHere (key / 65536) o = true) (hq : q ∈ r.replicas) (hin : o.incl q.die = true) (low : Nat)
    (hlow : low = (r.replicas.filter fun q => o.incl q.die).foldl (fun m q => Min.min m q.told) o.tail) :
    (s.retrim key).mem = s.mem ∧ (s.retrim key).me = s.me ∧
    (s.retrim key).objAt key = o.setFld 7 0 64 (Max.max o.trim (if o.spanScope then Min.min low r.far else low)) := by
  have hlive : (r.replicas.filter fun p => o.incl p.die).isEmpty = false :=
    Bool.eq_false_iff.mpr fun h => List.not_mem_nil (List.isEmpty_iff.mp h ▸ List.mem_filter.mpr ⟨hq, hin⟩)
  have hgo : (State.logHere (s.setReplay { r with log := r.log.drop (r.log.length - (o.tail - low)) }) (key / 65536) o &&
      !(r.replicas.filter fun p => o.incl p.die).isEmpty) = true := by
    rw [hlive]
    exact Bool.and_eq_true_iff.mpr ⟨hhere, rfl⟩
  rw [State.retrim, hr]
  dsimp only
  rw [ho, ← hlow, if_pos hgo, hasleep]
  exact ⟨rfl, rfl, (objAt_setObjFld _ key 7 0 64 _).trans (congrArg (fun o : Obj => o.setFld 7 0 64 _) ho)⟩

/-! REPLICA_EXCLUSION. -/

/-- Trimming leaves all but an object's TRIM and log as it is where no call sleeps. -/
theorem retrim_keeps {s : State} {key : Nat} {r : Replay} (hr : s.replay? key = some r) (hasleep : r.asleep = []) :
    ∃ replays obj, s.retrim key = { s with replays, obj } ∧ ((s.retrim key).objAt key).valid = (s.objAt key).valid ∧
      ∀ die, ((s.retrim key).objAt key).incl die = (s.objAt key).incl die := by
  rw [State.retrim, hr]
  dsimp only
  split
  · rw [hasleep]
    refine ⟨_, _, rfl, ?_, fun die => ?_⟩
    · exact (congrArg Obj.valid (objAt_setObjFld _ key 7 0 64 _)).trans (valid_setFld _ _ _ _ _)
    · refine (congrArg (fun o : Obj => o.incl die) (objAt_setObjFld _ key 7 0 64 _)).trans ?_
      rw [Obj.incl, fld_setFld_apart _ _ (.inr (by omega))]
      rfl
  · exact ⟨_, _, rfl, rfl, fun _ => rfl⟩

theorem hwSend_queues (s : State) (dst kind job : Nat) (o1 o2 o3 o4 : Word) :
    ∃ agenda queues, s.hwSend dst kind job o1 o2 o3 o4 = { s with agenda, queues } := by
  rw [State.hwSend]
  split <;> exact ⟨_, _, rfl⟩

theorem foldl_failCalls (ns : List Nat) (cls detail : Nat) (tval : Word) (s : State) : ∃ others,
    ns.foldl (fun s n => s.allStrands (failCall n cls detail tval)) s =
      { s with me := ns.foldl (fun u n => failCall n cls detail tval u) s.me, others } := by
  induction ns generalizing s with
  | nil => exact ⟨s.others, rfl⟩
  | cons n ns ih =>
    obtain ⟨others, heq⟩ := ih (s.allStrands (failCall n cls detail tval))
    exact ⟨others, by rw [List.foldl_cons, heq]; rfl⟩

theorem incl_lt {o : Obj} {die : Nat} (h : o.incl die = true) : 64 * 8 + die + 1 ≤ 2048 := by
  by_contra hlt
  have hbit : (o.fld 8 die 1).testBit 0 = true := by
    rw [beq_iff_eq.mp h]
    rfl
  rw [testBit_fld, Nat.testBit_lt_two_pow (lt_of_lt_of_le o.img.isLt (Nat.pow_le_pow_right (by decide) (by omega))), Bool.and_false] at hbit
  exact Bool.false_ne_true hbit

/-- An object without the calls of a die, its replica no longer catching up. -/
def Replay.leftOut (r : Replay) (die : Nat) (p : Replica) : Replay :=
  { r with sent := r.sent.filter (fun c => c.die != die), asleep := r.asleep.filter (fun c => c.die != die),
           queries := r.queries.filter (fun q => q.call.die != die) }.setOn { p with sync := none }

/-- A replica's die out of INCL, and the results owed there in fault. -/
def State.leftOut (s : State) (key die : Nat) (r : Replay) (p : Replica) : State :=
  (r.owed die p.pos (s.objAt key).tail).foldl (fun s n => s.allStrands (failCall n 7 0 (toW (key % 65536))))
    ((s.setReplay (r.leftOut die p)).setObjFld key 8 die 1 0)

/-- The message of an exclusion, where one is sent. -/
def State.tellExcluded (s : State) (key die : Nat) (tell : Bool) : State :=
  if tell then s.hwSend (s.faultSid (key / 65536)) 0x31 (key / 65536) (toW (key % 65536)) (toW die) 0 0 else s

theorem tellExcluded_queues (s : State) (key die : Nat) (tell : Bool) :
    ∃ agenda queues, s.tellExcluded key die tell = { s with agenda, queues } := by
  rw [State.tellExcluded]
  split
  · exact hwSend_queues _ _ _ _ _ _ _ _
  · exact ⟨_, _, rfl⟩

theorem exclude_eq {s : State} {key die : Nat} {r : Replay} {p : Replica} (hr : s.replay? key = some r) (hp : r.on die = some p)
    (hin : (s.objAt key).incl die = true) (tell : Bool) :
    s.exclude key die tell = (((s.leftOut key die r p).tellExcluded key die tell).retrim key).closeReplay key := by
  rw [State.exclude, hr]
  dsimp only
  rw [hp]
  dsimp only
  rw [hin, Bool.not_true, if_neg Bool.false_ne_true, State.leftOut]
  rfl

/-- A replica left out: its die is no longer included, and what is owed on its die faults. -/
theorem exclude_done {s : State} {key die : Nat} {r : Replay} {o : Obj} {p : Replica} (hr : s.replay? key = some r) (hrkey : r.key = key)
    (ho : s.objAt key = o) (hvalid : o.valid = true) (hp : r.on die = some p) (hin : o.incl die = true) (hasleep : r.asleep = [])
    (tell : Bool) : ∃ others obj replays agenda queues, s.exclude key die tell = { s with
        me := (r.owed die p.pos o.tail).foldl (fun u n => failCall n 7 0 (toW (key % 65536)) u) s.me, others, obj, replays, agenda, queues } ∧
      ((s.exclude key die tell).objAt key).incl die = false := by
  obtain ⟨others, hfail⟩ := foldl_failCalls (r.owed die p.pos (s.objAt key).tail) 7 0 (toW (key % 65536))
    ((s.setReplay (r.leftOut die p)).setObjFld key 8 die 1 0)
  have hleft : s.leftOut key die r p = _ := hfail
  obtain ⟨agenda, queues, htell⟩ := tellExcluded_queues (s.leftOut key die r p) key die tell
  have hobj : ((s.leftOut key die r p).tellExcluded key die tell).objAt key = o.setFld 8 die 1 0 := by
    rw [htell, hleft]
    exact (objAt_setObjFld _ key 8 die 1 0).trans (congrArg (fun o : Obj => o.setFld 8 die 1 0) ho)
  have hr' : ((s.leftOut key die r p).tellExcluded key die tell).replay? key = some (r.leftOut die p) := by
    rw [htell, hleft]
    exact replay?_setReplay hr hrkey
  have hnone : (r.leftOut die p).asleep = [] := by
    rw [Replay.leftOut, Replay.setOn]
    dsimp only
    rw [hasleep, List.filter_nil]
  obtain ⟨replays, obj, htrim, hvalid', hincl⟩ := retrim_keeps hr' hnone
  have hclose := closeReplay_of_valid (s := ((s.leftOut key die r p).tellExcluded key die tell).retrim key) (key := key)
    (by rw [hvalid', hobj, valid_setFld, hvalid])
  rw [exclude_eq hr hp (by rw [ho, hin]), hclose]
  refine ⟨others, obj, replays, agenda, queues, ?_, ?_⟩
  · rw [htrim, htell, hleft, ho]
    rfl
  · rw [hincl, hobj, Obj.incl, fld_setFld_same _ _ (incl_lt hin)]
    rfl

/-- A die left out of a field table changes that table and what is sent. -/
theorem fieldExclude_eq (s : State) (job die : Nat) (tell : Bool) :
    ∃ fieldTabs agenda queues, s.fieldExclude job die tell = { s with fieldTabs, agenda, queues } := by
  rw [State.fieldExclude]
  dsimp only
  split
  · exact ⟨_, _, _, rfl⟩
  · split
    · exact ⟨_, _, _, rfl⟩
    · split
      · obtain ⟨agenda, queues, hsend⟩ := hwSend_queues { s with fieldTabs := _ :: s.fieldTabs.filter fun x => x.job != job }
          (State.faultSid { s with fieldTabs := _ :: s.fieldTabs.filter fun x => x.job != job } job) 0x31 job 0 (toW die) 0 0
        exact ⟨_, _, _, hsend⟩
      · exact ⟨_, _, _, rfl⟩

theorem fieldExcludes_eq (jobs : List Nat) (die : Nat) (tell : Bool) (s : State) :
    ∃ fieldTabs agenda queues, jobs.foldl (fun s job => s.fieldExclude job die tell) s = { s with fieldTabs, agenda, queues } :=
  List.foldlRecOn (motive := fun t : State => ∃ fieldTabs agenda queues, t = { s with fieldTabs, agenda, queues }) jobs _ ⟨_, _, _, rfl⟩
    fun t ⟨_, _, _, ht⟩ job _ => by
      obtain ⟨fieldTabs, agenda, queues, heq⟩ := fieldExclude_eq t job die tell
      rw [heq, ht]
      exact ⟨_, _, _, rfl⟩

/-! A field table's entries, reports and exclusions. -/

theorem fieldTab?_setFieldTab {s : State} {job : Nat} {f g : FieldTab} (h : s.fieldTab? job = some f) (hjob : g.job = job) :
    (s.setFieldTab g).fieldTab? job = some g := find_replaced FieldTab.job h hjob

theorem fieldTab?_job {s : State} {job : Nat} {f : FieldTab} (h : s.fieldTab? job = some f) : f.job = job :=
  beq_iff_eq.mp (List.find?_some (p := fun f : FieldTab => f.job == job) h)

theorem rep?_setRep {f : FieldTab} {die : Nat} {x y : FRep} (h : f.rep? die = some x) (hy : y.die = die) : (f.setRep y).rep? die = some y :=
  find_replaced FRep.die h hy

theorem rep?_die {f : FieldTab} {die : Nat} {x : FRep} (h : f.rep? die = some x) : x.die = die :=
  beq_iff_eq.mp (List.find?_some (p := fun x : FRep => x.die == die) h)

theorem rep?_retrim (f : FieldTab) (die : Nat) : f.retrim.rep? die = f.rep? die := rfl

theorem fieldRep_of_tab {s : State} {job die : Nat} {f : FieldTab} (h : s.fieldTab? job = some f) : Claims.fieldRep s job die = f.rep? die := by
  rw [Claims.fieldRep, h]
  rfl

section
variable {s : State} {job die : Nat} {f : FieldTab} {x : FRep} (hf : s.fieldTab? job = some f) (hx : f.rep? die = some x)
include hf hx

theorem fieldApply_done (hmay : s.mayApply f x = true) : (s.fieldApply job die).me = s.me ∧ (s.fieldApply job die).obj = s.obj ∧
    (s.fieldApply job die).mem = s.mem ∧ (Claims.fieldRep (s.fieldApply job die) job die).map FRep.pos = some (x.pos + 1) := by
  have hdie := rep?_die hx
  have hpos : ∀ (t : State) (y : FRep), t.fieldTabs = (s.setFieldTab (f.setRep y)).fieldTabs → y.die = die →
      Claims.fieldRep t job die = some y := fun t y ht hy =>
    (fieldRep_of_tab ((congrArg (List.find? _) ht).trans (fieldTab?_setFieldTab hf (show f.job = job from fieldTab?_job hf)))).trans
      (rep?_setRep hx hy)
  rw [State.fieldApply, hf]
  dsimp only
  rw [hx]
  dsimp only
  rw [hmay, Bool.not_true, if_neg Bool.false_ne_true]
  split
  · exact ⟨rfl, rfl, rfl, congrArg (Option.map FRep.pos) (hpos _ _ rfl (by exact hdie))⟩
  · exact ⟨rfl, rfl, rfl, congrArg (Option.map FRep.pos) (hpos _ _ rfl (by exact hdie))⟩

theorem fieldReport_done : (s.fieldReport job die).me = s.me ∧ (s.fieldReport job die).obj = s.obj ∧
    (s.fieldReport job die).mem = s.mem ∧ (Claims.fieldRep (s.fieldReport job die) job die).map FRep.told = some x.pos := by
  have hdie := rep?_die hx
  have htab : (s.setFieldTab (f.setRep { x with told := x.pos }).retrim).fieldTab? job = some (f.setRep { x with told := x.pos }).retrim :=
    fieldTab?_setFieldTab hf (show f.job = job from fieldTab?_job hf)
  rw [State.fieldReport, hf]
  dsimp only
  rw [hx]
  dsimp only
  refine ⟨rfl, rfl, rfl, ?_⟩
  rw [fieldRep_of_tab htab, rep?_retrim, rep?_setRep hx (by exact hdie)]
  rfl

theorem fieldExclude_done (tell : Bool) : (Claims.fieldRep (s.fieldExclude job die tell) job die).map FRep.incl = some false := by
  have hdie := rep?_die hx
  have htab : s.fieldTab job = f := by rw [State.fieldTab, hf]; rfl
  rw [State.fieldExclude]
  dsimp only
  rw [htab, hx]
  dsimp only
  split
  next hout =>
    rw [fieldRep_of_tab hf, hx, Option.map_some, (Bool.not_eq_true' _).mp hout]
  next =>
    let g := (f.setRep { x with incl := false, sync := none }).retrim
    have hg : ∀ t : State, t.fieldTabs = g :: s.fieldTabs.filter (fun y => y.job != job) → Claims.fieldRep t job die = g.rep? die :=
      fun t ht => fieldRep_of_tab ((congrArg (List.find? _) ht).trans
        (List.find?_cons_of_pos (beq_iff_eq.mpr (show f.job = job from fieldTab?_job hf))))
    have hrep : (g.rep? die).map FRep.incl = some false := by
      rw [rep?_retrim, rep?_setRep hx (by exact hdie)]
      rfl
    split
    · rw [hg _ ?_, hrep]
      obtain ⟨agenda, queues, hsend⟩ := hwSend_queues { s with fieldTabs := g :: s.fieldTabs.filter fun x => x.job != job }
        (State.faultSid { s with fieldTabs := g :: s.fieldTabs.filter fun x => x.job != job } job) 0x31 job 0 (toW die) 0 0
      exact (congrArg State.fieldTabs hsend)
    · rw [hg _ rfl, hrep]

end

end Sys2Proof.Machine
end
section
/-! PROOFS. The course of a replayed object and of a field table (R252 to R258). -/

namespace Sys2Proof.Machine

/-- Settles O42: an append, an entry applied, a query run, a report and an exclusion of a replayed object, and the same of a field
table. -/
theorem replayCourse : Obligations.ReplayCourse := by
  refine ⟨fun s key r o hkey hreplays hrkey ho hvalid => ?_, fun s job die f x hjob hdie hh hnone hf hx => ?_⟩
  · have hr : s.replay? key = some r := by
      rw [State.replay?, hreplays]
      exact List.find?_cons_of_pos (beq_iff_eq.mpr hrkey)
    refine ⟨fun c rest hflag hsent hsid hasleep hdie => ?append, fun p c x hp happlies hsync hentry hx => ?apply,
      fun q rest p hqueries hn hp hdue => ?query, fun p low hflag hp hin hhere hasleep hlow => ?report,
      fun p hp hin hasleep => ⟨fun hkind hh => ?error, fun hkind => ?stopped⟩⟩
    case append =>
      have hr' : (s.setReplay { r with sent := rest }).replay? key = some { r with sent := rest } := replay?_setReplay hr hrkey
      have hexec := exec_logAppend hkey hr hflag hsent hsid
      exact ⟨fun hroom => ⟨_, hexec, callArrives_room (s := s.setReplay { r with sent := rest }) hr' hrkey ho hasleep c hroom hdie⟩,
        fun hfull => ⟨_, hexec, callArrives_full (s := s.setReplay { r with sent := rest }) hr' hrkey ho hasleep c hfull⟩⟩
    case apply =>
      subst hx
      obtain ⟨agenda, hexec⟩ := exec_entryApply hr ho hvalid hkey hp happlies hsync hentry
      obtain ⟨hmem, hreplica, hme⟩ := applied_done hr hrkey hp c (s.runMethod r p c false (p.pos + 1))
      exact ⟨_, hexec, hmem, hreplica, hme⟩
    case query =>
      obtain ⟨fabric, hexec⟩ := exec_queryRun (p := p) (by rw [hrkey, ho, hvalid]) hreplays hqueries hn hp hdue
      obtain ⟨hreplay, hwait, hrun⟩ := queried_done hr hrkey p q rest
      exact ⟨_, hexec, hreplay, hwait, fun hnow x hx => hx ▸ hrun hnow⟩
    case report =>
      have hdie := on_die hp
      have hr' : (s.setReplay (r.setOn { p with told := p.pos })).replay? key = some (r.setOn { p with told := p.pos }) :=
        replay?_setReplay hr hrkey
      have hin' : ({ p with told := p.pos } : Replica) ∈ (r.setOn { p with told := p.pos }).replicas :=
        List.mem_of_find?_eq_some (on_setOn hp (by exact hdie))
      obtain ⟨hmem, hme, hobj⟩ := retrim_done (s := s.setReplay (r.setOn { p with told := p.pos })) hr' ho hasleep hhere hin' hin low hlow
      refine ⟨_, ?_, hmem, hme, hobj⟩
      rw [exec, execReplicaReport, ← hkey, hr]
      dsimp only
      rw [hflag, if_neg Bool.false_ne_true, hp]
    case error =>
      obtain ⟨others, obj, replays', agenda, queues, heq, hincl⟩ :=
        exclude_done (s := s.logError s.arg.va) hr hrkey ho hvalid hp hin hasleep true
      refine ⟨(s.logError s.arg.va).exclude key s.arg.die true, ?_, hincl, by rw [heq]; rfl, by rw [heq]; rfl⟩
      rw [exec, execReplicaExclusion, hkind, hkey]
      exact congrArg Host.Outcome.next (if_neg hh)
    case stopped =>
      obtain ⟨others, obj, replays', agenda, queues, heq, hincl⟩ := exclude_done hr hrkey ho hvalid hp hin hasleep true
      have hfold : s.replays.foldl (fun t r => t.exclude r.key s.arg.die true) s = s.exclude key s.arg.die true := by
        rw [hreplays, List.foldl_cons, List.foldl_nil, hrkey]
      obtain ⟨fieldTabs, agenda', queues', hfields⟩ := fieldExcludes_eq (s.exclude key s.arg.die true).jobs s.arg.die true
        (s.exclude key s.arg.die true)
      have hdie : s.excludeDie s.arg.die true = { s.exclude key s.arg.die true with fieldTabs, agenda := agenda', queues := queues' } := by
        rw [State.excludeDie, hfold, hfields]
      refine ⟨s.excludeDie s.arg.die true, ?_, ?_, ?_⟩
      · rw [exec, execReplicaExclusion, hkind]
        rfl
      · rw [hdie]
        exact hincl
      · rw [hdie, heq]
  · subst hjob hdie
    refine ⟨fun hmay => ⟨s.fieldApply s.arg.job s.arg.die, ?_, fieldApply_done hf hx hmay⟩,
      ⟨s.fieldReport s.arg.job s.arg.die, ?_, fieldReport_done hf hx⟩, fun hkind => ⟨(s.logError s.arg.va).fieldExclude s.arg.job s.arg.die true, ?_⟩⟩
    · rw [exec, execEntryApply]
      dsimp only
      rw [hh, hnone]
      rfl
    · rw [exec, execReplicaReport, hh, hnone]
      rfl
    · obtain ⟨fieldTabs, agenda, queues, heq⟩ := fieldExclude_eq (s.logError s.arg.va) s.arg.job s.arg.die true
      refine ⟨?_, by rw [heq]; rfl, by rw [heq]; rfl, fieldExclude_done (s := s.logError s.arg.va) hf hx true⟩
      rw [exec, execReplicaExclusion, hkind]
      exact congrArg Host.Outcome.next (if_pos hh)

end Sys2Proof.Machine
end

section
/-! SUPPORT. The Lehr state and power (R377 to R380). -/

namespace Sys2Proof.Machine

open Sys2Proof.Num

/-- The Lehr state after entry begins, and after exit begins. -/
theorem lehrBegin_eq (s : State) : ∃ agenda, s.lehrBegin =
    { s with device := { s.device with lehr := if s.device.lehr = 0 then 1 else s.device.lehr }, agenda } := by
  rw [State.lehrBegin]
  split
  · exact ⟨_, rfl⟩
  · exact ⟨s.agenda, rfl⟩

theorem lehrLeave_eq (s : State) : ∃ agenda, s.lehrLeave =
    { s with device := { s.device with lehr := if s.device.lehr = 2 then 3 else s.device.lehr }, agenda } := by
  rw [State.lehrLeave]
  split
  · exact ⟨_, rfl⟩
  · exact ⟨s.agenda, rfl⟩

theorem lehrBegin_begins {s : State} (h : s.device.lehr = 0) :
    s.lehrBegin = ({ s with device := { s.device with lehr := 1 } }).due .lehrEntryComplete := if_pos h

theorem lehrLeave_leaves {s : State} (h : s.device.lehr = 2) :
    s.lehrLeave = ({ s with device := { s.device with lehr := 3 } }).due .lehrExitComplete := if_pos h

theorem exec_lehr_eq {i : Instr} {a : Reg} {la : Look} (hi : Claims.isLehr i a la) (s : State) : exec i s = lehr i a la s := by
  rcases hi with rfl | rfl | rfl | rfl <;> rfl

/-- The state of a strand with its acceptance cycle in l0. -/
def State.clocked (s : State) : State := { s.issue 4 with me := (s.issue 4).me.result .l0 ((s.issue 4).clk + toW 0) }

theorem clocked_l0 (s : State) : s.clocked.me.l0 = s.clk := BitVec.add_zero _

section
variable {i : Instr} {a : Reg} {la : Look} {s : State} (hi : Claims.isLehr i a la) (hcalm : s.calm) (hplv : 1 ≤ s.me.plv.toNat)
  (ha : a.plain = true)
include hi hcalm hplv ha

theorem lehr_refuses (hsys : isSys0 s.me.core = false) :
    exec i s = finishLong 4 (window la) [.l0] none s (.error (.trap 7 0 (s.me.src a))) := by
  rw [exec_lehr_eq hi, lehr, command_sup hcalm hplv, bind_ok _ _ _ _ _ (rd_issue 4 hcalm ha), bind_ok _ _ _ _ _ rfl,
    show isSys0 (s.issue 4).me.core = false from hsys]
  rfl

theorem lehr_waits (hsys : isSys0 s.me.core = true) (hmoves : s.lehrMoves = true) : exec i s = .next s := by
  rw [exec_lehr_eq hi, lehr, command_sup hcalm hplv, bind_ok _ _ _ _ _ (rd_issue 4 hcalm ha), bind_ok _ _ _ _ _ rfl,
    bind_ok _ _ _ _ _ (need_of_true _ _ (by exact hsys)), show (s.issue 4).lehrMoves = true from hmoves]
  rfl

/-- LEHR past its tests, by the operation its word names. -/
theorem lehr_accepts (hsys : isSys0 s.me.core = true) (hstill : s.lehrMoves = false) :
    ((s.me.src a).toNat % 4 = 0 → exec i s = finishLong 4 (window la) [.l0] none s (waitFor (.table 9 0 0) la s.clocked.lehrBegin)) ∧
    ((s.me.src a).toNat % 4 = 1 → exec i s = finishLong 4 (window la) [.l0] none s (waitFor (.table 9 1 0) la s.clocked.lehrLeave)) ∧
    ((s.me.src a).toNat % 4 = 2 → exec i s = .next { s.clocked with device := { s.device with lehrArmed := true } }) ∧
    ((s.me.src a).toNat % 4 = 3 → exec i s = .next { s.clocked with device := { s.device with lehrArmed := false } }) := by
  have hop : wbits (s.me.src a) 0 2 = (s.me.src a).toNat % 4 := by rw [wbits, bitsOf, Nat.pow_zero, Nat.div_one]; rfl
  have hpromise : promise 0 (s.issue 4) = .ok ((), s.clocked) := promise_of_pend_nil 0 (State.calm_issue s 4 hcalm).2.1
  rw [exec_lehr_eq hi, lehr, command_sup hcalm hplv, bind_ok _ _ _ _ _ (rd_issue 4 hcalm ha), bind_ok _ _ _ _ _ rfl,
    bind_ok _ _ _ _ _ (need_of_true _ _ (by exact hsys)),
    bind_ok _ _ _ _ _ (need_of_true _ _ (by exact congrArg (!·) hstill)), bind_ok _ _ _ _ _ hpromise, hop]
  refine ⟨fun h => ?_, fun h => ?_, fun h => ?_, fun h => ?_⟩ <;> rw [h]
  · exact congrArg (finishLong 4 (window la) [.l0] none s) (bind_ok _ _ _ () _ rfl)
  · exact congrArg (finishLong 4 (window la) [.l0] none s) (bind_ok _ _ _ () _ rfl)
  · rfl
  · rfl

theorem lehr_done (hsys : isSys0 s.me.core = true) (hstill : s.lehrMoves = false) : ∃ t, exec i s = .next t ∧ t.mem = s.mem ∧
    t.me.l0 = s.clk ∧
    t.device.lehr = (if (s.me.src a).toNat % 4 = 0 ∧ s.device.lehr = 0 then 1
      else if (s.me.src a).toNat % 4 = 1 ∧ s.device.lehr = 2 then 3 else s.device.lehr) ∧
    t.device.lehrArmed = (if (s.me.src a).toNat % 4 = 2 then true else if (s.me.src a).toNat % 4 = 3 then false else s.device.lehrArmed) ∧
    (if (s.me.src a).toNat % 4 < 2 then Claims.promisedWait s t (.table 9 ((s.me.src a).toNat % 4) 0) la else Claims.promised s t) := by
  obtain ⟨henter, hexit, harm, hdisarm⟩ := lehr_accepts hi hcalm hplv ha hsys hstill
  have hpend : s.clocked.me.pend = [] := (State.calm_issue s 4 hcalm).2.1
  have hme : ∀ pend, { s.clocked.me with pend } = { (s.issued 4 fun u => u.result .l0 (s.clk + toW 0)).me with pend } := fun pend => by
    simp only [State.clocked, ← issue_result s hcalm]
    rfl
  have hop : (s.me.src a).toNat % 4 = 0 ∨ (s.me.src a).toNat % 4 = 1 ∨ (s.me.src a).toNat % 4 = 2 ∨ (s.me.src a).toNat % 4 = 3 := by
    omega
  rcases hop with h | h | h | h
  · obtain ⟨agenda, hbegin⟩ := lehrBegin_eq s.clocked
    obtain ⟨pend, hwait, hp⟩ := waitFor_withPend (s := s.clocked.lehrBegin) (.table 9 0 0) la (by rw [hbegin]; exact hpend)
    refine ⟨s.clocked.lehrBegin.withPend pend, by rw [henter h, hwait]; rfl, by rw [hbegin]; rfl, by rw [hbegin]; exact clocked_l0 s,
      ?_, by rw [hbegin, h]; rfl, ?_⟩
    · rw [hbegin, h]
      show (if s.device.lehr = 0 then 1 else s.device.lehr) = _
      by_cases hlehr : s.device.lehr = 0 <;> simp [hlehr]
    · rw [h, if_pos (by decide)]
      refine promisedWait_of (w := s.clk + toW 0) ?_ hp
      rw [hbegin]
      exact hme pend
  · obtain ⟨agenda, hleave⟩ := lehrLeave_eq s.clocked
    obtain ⟨pend, hwait, hp⟩ := waitFor_withPend (s := s.clocked.lehrLeave) (.table 9 1 0) la (by rw [hleave]; exact hpend)
    refine ⟨s.clocked.lehrLeave.withPend pend, by rw [hexit h, hwait]; rfl, by rw [hleave]; rfl, by rw [hleave]; exact clocked_l0 s,
      ?_, by rw [hleave, h]; rfl, ?_⟩
    · rw [hleave, h]
      show (if s.device.lehr = 2 then 3 else s.device.lehr) = _
      by_cases hlehr : s.device.lehr = 2 <;> simp [hlehr]
    · rw [h, if_pos (by decide)]
      refine promisedWait_of (w := s.clk + toW 0) ?_ hp
      rw [hleave]
      exact hme pend
  · refine ⟨_, harm h, rfl, clocked_l0 s, ?_, ?_, ?_⟩
    · rw [h, if_neg (fun hand => absurd hand.1 (by decide)), if_neg (fun hand => absurd hand.1 (by decide))]
    · rw [h, if_pos rfl]
    · rw [h, if_neg (by decide)]
      exact promised_of (w := s.clk + toW 0) hcalm rfl
  · refine ⟨_, hdisarm h, rfl, clocked_l0 s, ?_, ?_, ?_⟩
    · rw [h, if_neg (fun hand => absurd hand.1 (by decide)), if_neg (fun hand => absurd hand.1 (by decide))]
    · rw [h, if_neg (by decide), if_pos rfl]
    · rw [h, if_neg (by decide)]
      exact promised_of (w := s.clk + toW 0) hcalm rfl

end

/-! PWR_WARN (R379). -/

theorem exec_pwrWarnAssert {s : State} (hstill : s.lehrMoves = false) : ∃ t, exec .pwrWarnAssert s = .next t ∧ t.device.pwrWarn = true ∧
    t.me = s.me ∧ t.mem = s.mem ∧
    (s.device.lehrArmed = true → s.device.lehr = 0 → t.device.lehr = 1 ∧
      t.agenda = s.agenda ++ [{ ev := .lehrEntryComplete, arg := {} }]) ∧
    (s.device.lehrArmed = false → t.device.lehr = s.device.lehr ∧
      (t.queues.hw.getLast?.map fun m => (m.dst, m.msg.o[0])) = some (sysSid 0, 0x51)) := by
  rw [exec, execPwrWarnAssert, hstill, if_neg Bool.false_ne_true]
  dsimp only
  by_cases harmed : s.device.lehrArmed = true
  · rw [if_pos harmed]
    obtain ⟨agenda, hbegin⟩ := lehrBegin_eq { s with device := { s.device with pwrWarn := true } }
    refine ⟨_, rfl, by rw [hbegin], by rw [hbegin], by rw [hbegin], fun _ hlehr => ?_, fun h => absurd (harmed.symm.trans h) Bool.noConfusion⟩
    rw [lehrBegin_begins (s := { s with device := { s.device with pwrWarn := true } }) hlehr]
    exact ⟨rfl, rfl⟩
  · rw [if_neg harmed, hwSend_eq (sysSid_ne_nobody 0)]
    refine ⟨_, rfl, rfl, rfl, rfl, fun h => absurd h harmed, fun _ => ⟨rfl, ?_⟩⟩
    exact congrArg (Option.map _) List.getLast?_concat

theorem exec_pwrWarnDeassert {s : State} (hstill : s.lehrMoves = false) : ∃ t, exec .pwrWarnDeassert s = .next t ∧
    t.device.pwrWarn = false ∧ t.me = s.me ∧ t.mem = s.mem ∧
    (s.device.lehrArmed = true → s.device.lehr = 2 → t.device.lehr = 3 ∧
      t.agenda = s.agenda ++ [{ ev := .lehrExitComplete, arg := {} }]) ∧
    (s.device.lehrArmed = false → t.device.lehr = s.device.lehr) := by
  rw [exec, execPwrWarnDeassert, hstill, if_neg Bool.false_ne_true]
  dsimp only
  by_cases harmed : s.device.lehrArmed = true
  · rw [if_pos harmed]
    obtain ⟨agenda, hleave⟩ := lehrLeave_eq { s with device := { s.device with pwrWarn := false } }
    refine ⟨_, rfl, by rw [hleave], by rw [hleave], by rw [hleave], fun _ hlehr => ?_, fun h => absurd (harmed.symm.trans h) Bool.noConfusion⟩
    rw [lehrLeave_leaves (s := { s with device := { s.device with pwrWarn := false } }) hlehr]
    exact ⟨rfl, rfl⟩
  · rw [if_neg harmed]
    exact ⟨_, rfl, rfl, rfl, rfl, fun h => absurd h harmed, fun _ => rfl⟩

/-! CAP_WINDOW_END (R377). -/

theorem mem_withheld {s : State} {x : Nat × Nat} {w : Nat}
    (hx : x ∈ (List.range 8).flatMap fun die => (((s.obj.filter fun e => e.2.valid && e.2.kind == 4 && e.2.fld 5 0 16 != 0).map
      fun e => e.2.fld 0 8 16).filter fun j => Config.overCap w die j).map fun j => (die, j)) :
    x.1 < 8 ∧ Config.overCap w x.1 x.2 = true ∧
      ∃ e ∈ s.obj, e.2.valid = true ∧ e.2.kind = 4 ∧ e.2.fld 0 8 16 = x.2 ∧ e.2.fld 5 0 16 ≠ 0 := by
  obtain ⟨die, hdie, hx⟩ := List.mem_flatMap.mp hx
  obtain ⟨j, hj, rfl⟩ := List.mem_map.mp hx
  obtain ⟨hj, hover⟩ := List.mem_filter.mp hj
  obtain ⟨e, he, rfl⟩ := List.mem_map.mp hj
  obtain ⟨hin, hjob⟩ := List.mem_filter.mp he
  obtain ⟨hjob, hcap⟩ := Bool.and_eq_true_iff.mp hjob
  obtain ⟨hvalid, hkind⟩ := Bool.and_eq_true_iff.mp hjob
  exact ⟨List.mem_range.mp hdie, hover, e, hin, hvalid, beq_iff_eq.mp hkind, rfl, bne_iff_ne.mp hcap⟩

end Sys2Proof.Machine
end
section
/-! PROOFS. LEHR, PWR_WARN and the power-cap window (R377 to R380). -/

namespace Sys2Proof.Machine

/-- Settles O52: LEHR by its operation, the end of an entry and of an exit, PWR_WARN, and what a power-cap window withholds. -/
theorem lehrAndPower : Obligations.LehrAndPower := by
  refine ⟨fun i a la s hi hcalm hplv ha => ⟨lehr_refuses hi hcalm hplv ha, lehr_waits hi hcalm hplv ha, lehr_done hi hcalm hplv ha⟩,
    fun s hlehr => ⟨fun hreqs => ?enters, fun hreqs => ?waits⟩, fun s hlehr => ?leaves,
    fun s hstill => ⟨exec_pwrWarnAssert hstill, exec_pwrWarnDeassert hstill⟩, fun s => ⟨_, rfl, rfl, rfl, rfl, fun x hx => mem_withheld hx⟩⟩
  case enters =>
    rw [exec, execLehrEntryComplete, if_neg (fun h => h hlehr), hreqs]
    exact ⟨_, rfl, rfl, rfl, rfl⟩
  case waits =>
    have hsome : (!s.fabric.reqs.isEmpty) = true := by
      rw [Bool.not_eq_true']
      exact Bool.eq_false_iff.mpr fun h => hreqs (List.isEmpty_iff.mp h)
    rw [exec, execLehrEntryComplete, if_neg (fun h => h hlehr), if_pos hsome]
  case leaves =>
    rw [exec, execLehrExitComplete, if_pos hlehr]
    exact ⟨_, rfl, rfl, rfl, rfl, rfl⟩

end Sys2Proof.Machine
end

section
/-! SUPPORT. The drain of a cluster (R381) takes no die out of service. -/

namespace Sys2Proof.Machine

open Sys2Proof.Num

/-! What a strand of the cluster does on its way leaves the drained dies alone. -/

@[simp] theorem drainedDies_hwSend (s : State) (dst kind job : Nat) (a b c d : Word) :
    (s.hwSend dst kind job a b c d).device.drainedDies = s.device.drainedDies := by
  obtain ⟨agenda, queues, hsend⟩ := hwSend_queues s dst kind job a b c d
  rw [hsend]

@[simp] theorem drainedDies_endTask (s : State) (how : Ending) : (s.endTask how).device.drainedDies = s.device.drainedDies := by
  obtain ⟨_, _, _, _, hend, _⟩ := endTask_eq s how
  rw [hend]

@[simp] theorem drainedDies_depart (s : State) (core reason : Nat) :
    (s.depart core reason).device.drainedDies = s.device.drainedDies := by
  obtain ⟨agenda, hdepart⟩ := depart_eq s core reason
  rw [hdepart]

@[simp] theorem drainedDies_endDoomed (s : State) : s.endDoomed.device.drainedDies = s.device.drainedDies := by
  rw [State.endDoomed]
  split
  · rfl
  · simp only [apply_ite State.device, apply_ite Device.drainedDies, drainedDies_depart, drainedDies_endTask,
      drainedDies_hwSend, ite_self]

@[simp] theorem drainedDies_condemn (s : State) (d : Doom) : (s.condemn d).device.drainedDies = s.device.drainedDies := by
  rw [State.condemn, drainedDies_endDoomed]
  rfl

@[simp] theorem drainedDies_unhandledTrap (s : State) (plv : BitVec 2) (cause : BitVec 16) (tval : Word) (xpc : BitVec 48) :
    (s.unhandledTrap plv cause tval xpc).device.drainedDies = s.device.drainedDies := by
  rw [State.unhandledTrap]
  split
  · exact drainedDies_condemn _ _
  · split
    · rfl
    · split <;> exact drainedDies_hwSend _ _ _ _ _ _ _ _

@[simp] theorem drainedDies_takeTrap (s : State) (tvec : BitVec 48) (plv : BitVec 2) (cls win detail : Nat) (tval : Word)
    (xpc at_ : BitVec 48) : (s.takeTrap tvec plv cls win detail tval xpc at_).device.drainedDies = s.device.drainedDies := by
  rw [State.takeTrap]
  split
  · exact drainedDies_unhandledTrap _ _ _ _ _
  · rfl

@[simp] theorem drainedDies_goHome (s : State) : s.goHome.device.drainedDies = s.device.drainedDies := by
  rw [State.goHome]
  split
  · exact drainedDies_depart _ _ _
  · rfl

@[simp] theorem drainedDies_takeOwed (s : State) : s.takeOwed.device.drainedDies = s.device.drainedDies := by
  rw [State.takeOwed]
  split
  · rfl
  · split
    · exact drainedDies_condemn _ _
    · split
      · exact drainedDies_goHome s
      · exact drainedDies_takeTrap _ _ _ _ _ _ _ _ _
    · rfl

@[simp] theorem drainedDies_raise (s : State) (cls detail : Nat) (tval : Word) :
    (s.raise cls detail tval).device.drainedDies = s.device.drainedDies := by
  rw [State.raise]
  split
  · exact drainedDies_takeOwed s
  · split
    · exact drainedDies_takeTrap _ _ _ _ _ _ _ _ _
    · dsimp only
      split
      · exact drainedDies_goHome _
      · rfl

@[simp] theorem drainedDies_storeTrap (s : State) (cls : Nat) (a : Word) :
    (s.storeTrap cls a).device.drainedDies = s.device.drainedDies := by
  rw [State.storeTrap]
  split
  · exact drainedDies_takeOwed s
  · exact drainedDies_raise _ _ _ _

theorem drainedDies_takeBack (s : State) (src : Owe) : (s.takeBack src).device.drainedDies = s.device.drainedDies := by
  cases src <;> rfl

theorem drainedDies_boundary {s t : State} {win : Option Nat} (h : s.boundary = some (t, win)) :
    t.device.drainedDies = s.device.drainedDies := by
  rw [State.boundary] at h
  dsimp only at h
  split at h
  · split at h
    · cases h
      rfl
    · cases h
  · split at h
    · cases h
      exact drainedDies_takeBack _ _
    · cases h

@[simp] theorem drainedDies_focus (s : State) (sid : Nat) : (s.focus sid).device.drainedDies = s.device.drainedDies := by
  rw [State.focus]
  split
  · rfl
  · split <;> rfl

theorem drainedDies_putStrand (s : State) (t : Strand) : (s.putStrand t).device.drainedDies = s.device.drainedDies := by
  rw [State.putStrand]
  split <;> rfl

theorem drainedDies_moveStrand (s : State) (core slot : Nat) (win : Option Nat) :
    (s.moveStrand core slot win).device.drainedDies = s.device.drainedDies := by
  rw [State.moveStrand, State.renameResv]
  exact drainedDies_putStrand _ _

/-- What a strand of a cluster that closes does: a fault owed and a failed store first, else it starts for home or moves. -/
def State.leaving (s : State) : State :=
  if !s.storesDone || s.me.doom.isSome then s
  else
    match s.me.storeErr with
    | some (cls, a) => s.storeTrap cls a
    | none =>
    match s.boundary with
    | none => s
    | some (t, win) =>
      if t.me.abroad then { t with me := { t.me with skip := if win.isSome then win else t.me.skip } }.goHome
      else
        match t.refuge t.me with
        | none => s
        | some (core, i) => t.moveStrand core i win

theorem drainedDies_leaving (s : State) : s.leaving.device.drainedDies = s.device.drainedDies := by
  rw [State.leaving]
  split
  · rfl
  · split
    · exact drainedDies_storeTrap _ _ _
    · split
      · rfl
      · next hbound =>
        have hdies := drainedDies_boundary hbound
        split
        · exact (drainedDies_goHome _).trans hdies
        · split
          · rfl
          · exact (drainedDies_moveStrand _ _ _ _).trans hdies

theorem drainedDies_evict (s : State) (sid : Nat) : (s.evict sid).device.drainedDies = s.device.drainedDies := by
  rw [State.evict, drainedDies_focus, ← drainedDies_focus s sid]
  split
  · exact drainedDies_leaving _
  · exact drainedDies_leaving _
  · rfl

/-! Records that move. -/

theorem drainedDies_joinQueue (s : State) (q : Nat) (r : Rec) : (s.joinQueue q r).device.drainedDies = s.device.drainedDies := by
  obtain ⟨agenda, hjoin⟩ := joinQueue_eq s q r
  rw [hjoin]

theorem drainedDies_putQueue (s : State) (q : Nat) (r : Rec) : (s.putQueue q r).device.drainedDies = s.device.drainedDies := by
  rw [State.putQueue]
  split
  · exact drainedDies_joinQueue s q r
  · split <;> rfl

theorem drainedDies_unring (s : State) (q i : Nat) (r : Rec) : (s.unring q i r).device.drainedDies = s.device.drainedDies := by
  rw [State.unring]
  split
  · exact drainedDies_joinQueue s q r
  · split
    · exact drainedDies_joinQueue _ _ _
    · split <;> rfl

theorem drainedDies_refillFrom (q : Nat) (n : Nat) (s : State) :
    (State.refillFrom q n s).device.drainedDies = s.device.drainedDies := by
  induction n generalizing s with
  | zero => rfl
  | succ n ih =>
    rw [State.refillFrom]
    split
    · split
      · rw [ih, drainedDies_unring]
      · rfl
    · rfl

theorem movedAll_keeps {f : State → Option State} {α : Type} (v : State → α) (hf : ∀ s t, f s = some t → v t = v s)
    (n : Nat) (s : State) : v (movedAll f n s) = v s := by
  induction n generalizing s with
  | zero => rfl
  | succ n ih =>
    rw [movedAll]
    split
    · rfl
    · next t ht => rw [ih, hf s t ht]

theorem drainedDies_moveRec (cl : Nat) (s t : State) (h : s.moveRec cl = some t) :
    t.device.drainedDies = s.device.drainedDies := by
  rw [State.moveRec] at h
  split at h
  · cases h
  · split at h
    · cases h
      rw [State.putDie, drainedDies_putQueue, State.refill, drainedDies_refillFrom]
    · cases h

theorem drainedDies_moveWait (cl : Nat) (s t : State) (h : s.moveWait cl = some t) :
    t.device.drainedDies = s.device.drainedDies := by
  rw [State.moveWait] at h
  dsimp only at h
  split at h
  · cases h
  · obtain ⟨c, _, rfl⟩ := Option.map_eq_some_iff.mp h
    rfl

theorem drainedDies_moveRun (cl : Nat) (s t : State) (h : s.moveRun cl = some t) :
    t.device.drainedDies = s.device.drainedDies := by
  rw [State.moveRun] at h
  split at h
  · cases h
  · obtain ⟨k, _, rfl⟩ := Option.map_eq_some_iff.mp h
    rfl

theorem drainedDies_moveEntries (s : State) (cl : Nat) : (s.moveEntries cl).device.drainedDies = s.device.drainedDies := by
  rw [State.moveEntries]
  rw [movedAll_keeps (fun s => s.device.drainedDies) (drainedDies_moveRun cl),
    movedAll_keeps (fun s => s.device.drainedDies) (drainedDies_moveWait cl),
    movedAll_keeps (fun s => s.device.drainedDies) (drainedDies_moveRec cl)]

theorem drainedDies_evicts (us : List Strand) (s : State) :
    (us.foldl (fun s t => s.evict t.sid.toNat) s).device.drainedDies = s.device.drainedDies :=
  List.foldlRecOn (motive := fun t : State => t.device.drainedDies = s.device.drainedDies) us _ rfl
    fun _ ht _ _ => (drainedDies_evict _ _).trans ht

/-- A cluster that closes, its entries moved (R381). -/
def State.withClosed (s : State) (cl : Nat) : State := (if s.device.closing.contains cl then s else s.closeCluster cl).moveEntries cl

theorem drainedDies_withClosed (s : State) (cl : Nat) : (s.withClosed cl).device.drainedDies = s.device.drainedDies := by
  rw [State.withClosed, drainedDies_moveEntries]
  split <;> rfl

/-- A cluster whose entries and engines are gone moves its strands, and is drained with the last one. -/
def State.vacate (s : State) (cl : Nat) : State :=
  let s := (s.strands.filter (evicted cl)).foldl (fun s t => s.evict t.sid.toNat) s
  if s.strands.any fun t => (t.status != .idle && clusterOf t.homeCore == cl && decide (coreNo t.homeCore < 16)) ||
      (t.abroad && clusterOf t.core == cl) then s.due .clusterDrain { cl, flag := true }
  else
    { s with device := { s.device with
        drained := s.device.drained ++ [cl], closing := s.device.closing.filter (· != cl) } }

theorem drainedDies_vacate (s : State) (cl : Nat) : (s.vacate cl).device.drainedDies = s.device.drainedDies := by
  rw [State.vacate]
  dsimp only
  split <;> exact drainedDies_evicts _ _

theorem drain_eq (s : State) (cl : Nat) : s.drain cl =
    if s.device.drained.contains cl then s
    else if !(s.withClosed cl).enginesRest cl || !(s.withClosed cl).emptied cl then (s.withClosed cl).due .clusterDrain { cl, flag := true }
    else (s.withClosed cl).vacate cl := rfl

theorem drainedDies_drain (s : State) (cl : Nat) : (s.drain cl).device.drainedDies = s.device.drainedDies := by
  rw [drain_eq]
  split
  · rfl
  · split
    · exact drainedDies_withClosed s cl
    · rw [drainedDies_vacate, drainedDies_withClosed]

theorem drainedDies_drains (cls : List Nat) (s : State) :
    (cls.foldl State.drain s).device.drainedDies = s.device.drainedDies :=
  List.foldlRecOn (motive := fun t : State => t.device.drainedDies = s.device.drainedDies) cls _ rfl
    fun _ ht cl _ => (drainedDies_drain _ cl).trans ht

end Sys2Proof.Machine
end

section
/-! SUPPORT. A cluster with nothing under way is drained at once (R381). -/

namespace Sys2Proof.Machine

open Sys2Proof.Num

/-- What is pulled is the first element that fits. -/
theorem filter_of_pull {α : Type} {p : α → Bool} {l : List α} {x : α} {r : List α} (h : pull p l = some (x, r)) :
    l.filter p = x :: r.filter p ∧ (l.filter fun y => !p y) = r.filter fun y => !p y := by
  induction l generalizing r with
  | nil => cases h
  | cons y l ih =>
    rw [pull] at h
    split at h
    next hy =>
      cases h
      rw [List.filter_cons_of_pos hy, List.filter_cons_of_neg (by rw [hy]; exact Bool.false_ne_true)]
      exact ⟨rfl, rfl⟩
    next hy =>
      obtain ⟨⟨z, r'⟩, hpull, hzr⟩ := Option.map_eq_some_iff.mp h
      cases hzr
      obtain ⟨hp, hnp⟩ := ih hpull
      rw [Bool.not_eq_true] at hy
      rw [List.filter_cons_of_neg (by rw [hy]; exact Bool.false_ne_true),
        List.filter_cons_of_neg (by rw [hy]; exact Bool.false_ne_true),
        List.filter_cons_of_pos (by rw [hy]; rfl), List.filter_cons_of_pos (by rw [hy]; rfl), hp, hnp]
      exact ⟨rfl, rfl⟩

theorem filter_of_pull_none {α : Type} {p : α → Bool} {l : List α} (h : pull p l = none) : ∀ x ∈ l, p x = false := by
  induction l with
  | nil => exact nofun
  | cons y l ih =>
    rw [pull] at h
    split at h
    · cases h
    next hy =>
      rw [Option.map_eq_none_iff] at h
      exact List.forall_mem_cons.mpr ⟨Bool.not_eq_true _ ▸ hy, ih h⟩

theorem dieQueue_beq (a b : Nat) : (dieQueue a == dieQueue b) = (a == b) := by
  rw [Bool.eq_iff_iff, beq_iff_eq, beq_iff_eq, dieQueue, dieQueue]
  omega

/-- A die's queue without ring takes a record while it holds fewer than 4096. -/
theorem dieRoom_of_short {s : State} {die : Nat} (hring : s.queues.ring = [])
    (h : (s.queues.die.filter fun e => e.1 == die).length < 4096) :
    (s.hwRoom (dieQueue die) && !s.inRing (dieQueue die)) = true := by
  have hq : 1024 ≤ dieQueue die := Nat.le_add_right _ _
  have hin : s.inRing (dieQueue die) = false := by
    rw [State.inRing, hring]
    rfl
  rw [hin, State.hwRoom, State.inQueue, if_pos hq, if_pos hq]
  simp only [dieQueue_beq]
  rw [decide_eq_true h]
  rfl

/-- The records of a cluster's task queue, as they stand in the die's queue from now on. -/
def State.handedOver (s : State) (cl : Nat) (rs : List (Nat × Rec)) : List (Nat × Rec) :=
  rs.map fun e => (cl / 16, { e.2 with since := s.clk })

/-- One record moves to the die's queue. -/
theorem moveRec_some {s : State} {cl : Nat} {e : Nat × Rec} {r : List (Nat × Rec)} (hring : s.queues.ring = [])
    (hpull : pull (fun (e : Nat × Rec) => e.1 == cl) s.queues.task = some (e, r))
    (hroom : (s.queues.die.filter fun e => e.1 == cl / 16).length < 4096) :
    ∃ agenda, s.moveRec cl = some { s with
      agenda, queues := { s.queues with task := r, die := s.queues.die ++ s.handedOver cl [e] } } := by
  let u : State := { s with queues := { s.queues with task := r } }
  have hhw : (u.hwRoom (dieQueue (cl / 16)) && !u.inRing (dieQueue (cl / 16))) = true := dieRoom_of_short hring hroom
  have hdie : s.dieRoom (cl / 16) = true := by
    rw [State.dieRoom, State.queueRoom, dieRoom_of_short hring hroom]
    rfl
  obtain ⟨agenda, hjoin⟩ := joinQueue_eq u (dieQueue (cl / 16)) e.2
  refine ⟨agenda, ?_⟩
  rw [State.moveRec, hpull]
  dsimp only
  rw [if_pos hdie, refill_of_empty (s := u) cl hring, State.putDie, putQueue_hw e.2 hhw, hjoin, Queues.push,
    if_pos (show 1024 ≤ dieQueue (cl / 16) from Nat.le_add_right _ _), dieQueue, Nat.add_sub_cancel_left]
  rfl

theorem moveRec_none {s : State} {cl : Nat} (hpull : pull (fun (e : Nat × Rec) => e.1 == cl) s.queues.task = none) :
    s.moveRec cl = none := by
  rw [State.moveRec, hpull]

/-- The records of a cluster all move, where the die's queue holds them. -/
theorem movedAll_moveRec (cl n : Nat) (s : State) (hring : s.queues.ring = [])
    (hn : (s.queues.task.filter fun e => e.1 == cl).length ≤ n)
    (hroom : (s.queues.die.filter fun e => e.1 == cl / 16).length + (s.queues.task.filter fun e => e.1 == cl).length ≤ 4096) :
    ∃ agenda, movedAll (fun s => s.moveRec cl) n s = { s with
      agenda, queues := { s.queues with
        task := s.queues.task.filter fun e => e.1 != cl
        die := s.queues.die ++ s.handedOver cl (s.queues.task.filter fun e => e.1 == cl) } } := by
  induction n generalizing s with
  | zero =>
    have hnil := List.length_eq_zero_iff.mp (Nat.le_zero.mp hn)
    have hall : (s.queues.task.filter fun e => e.1 != cl) = s.queues.task := by
      rw [List.filter_eq_self]
      intro e he
      rw [bne, Bool.not_eq_true', ← Bool.not_eq_true]
      exact List.filter_eq_nil_iff.mp hnil e he
    rw [hnil, hall, State.handedOver, List.map_nil, List.append_nil]
    exact ⟨_, rfl⟩
  | succ n ih =>
    cases hpull : pull (fun (e : Nat × Rec) => e.1 == cl) s.queues.task with
    | none =>
      have hno := filter_of_pull_none hpull
      have hnil : (s.queues.task.filter fun e => e.1 == cl) = [] :=
        List.filter_eq_nil_iff.mpr fun e he => Bool.not_eq_true _ ▸ hno e he
      have hall : (s.queues.task.filter fun e => e.1 != cl) = s.queues.task :=
        List.filter_eq_self.mpr fun e he => by rw [bne, hno e he]; rfl
      rw [movedAll, moveRec_none hpull, hnil, hall, State.handedOver, List.map_nil, List.append_nil]
      exact ⟨_, rfl⟩
    | some x =>
      obtain ⟨e, r⟩ := x
      obtain ⟨hsome, hrest⟩ := filter_of_pull hpull
      have hlen : (s.queues.task.filter fun e => e.1 == cl).length = (r.filter fun e => e.1 == cl).length + 1 :=
        congrArg List.length hsome
      obtain ⟨agenda, hmove⟩ := moveRec_some hring hpull (by omega)
      have hgrown : ((s.queues.die ++ s.handedOver cl [e]).filter fun e => e.1 == cl / 16).length =
          (s.queues.die.filter fun e => e.1 == cl / 16).length + 1 := by
        rw [List.filter_append, List.length_append]
        exact congrArg ((s.queues.die.filter fun e => e.1 == cl / 16).length + List.length ·)
          (List.filter_cons_of_pos (p := fun (e : Nat × Rec) => e.1 == cl / 16) (beq_self_eq_true (cl / 16)))
      obtain ⟨agenda', hmoved⟩ := ih { s with
        agenda, queues := { s.queues with task := r, die := s.queues.die ++ s.handedOver cl [e] } } hring
        (by dsimp only; omega) (by dsimp only; omega)
      refine ⟨agenda', ?_⟩
      rw [movedAll, hmove]
      refine hmoved.trans ?_
      rw [hsome]
      have hother : (s.queues.task.filter fun e => e.1 != cl) = r.filter fun e => e.1 != cl := hrest
      rw [hother]
      dsimp only
      rw [List.append_assoc]
      rfl

theorem movedAll_of_none {f : State → Option State} {s : State} (h : f s = none) (n : Nat) : movedAll f n s = s := by
  cases n with
  | zero => rfl
  | succ n => rw [movedAll, h]

theorem moveWait_none {s : State} {cl : Nat} (h : ∀ e ∈ s.queues.waits, e.1 ≠ cl) : s.moveWait cl = none := by
  rw [State.moveWait]
  dsimp only
  rw [pull_none fun e he => by rw [beq_false_of_ne (h e he), Bool.false_and]]

theorem moveRun_none {s : State} {cl : Nat} (h : ∀ e ∈ s.queues.run, clusterOf e.1 ≠ cl) : s.moveRun cl = none := by
  rw [State.moveRun, pull_none fun e he => by rw [beq_false_of_ne (h e he), Bool.false_and]]

/-- The entries of a cluster with an empty wait-set and no run queue entry, all gone to the die's queue. -/
def State.handOver (s : State) (cl : Nat) (agenda : List Due) : State := { s with
  agenda, queues := { s.queues with
    task := s.queues.task.filter fun e => e.1 != cl
    die := s.queues.die ++ s.handedOver cl (s.queues.task.filter fun e => e.1 == cl) } }

theorem moveEntries_eq {s : State} {cl : Nat} (hring : s.queues.ring = []) (hwaits : ∀ e ∈ s.queues.waits, e.1 ≠ cl)
    (hrun : ∀ e ∈ s.queues.run, clusterOf e.1 ≠ cl)
    (hroom : (s.queues.die.filter fun e => e.1 == cl / 16).length + (s.queues.task.filter fun e => e.1 == cl).length ≤ 4096) :
    ∃ agenda, s.moveEntries cl = s.handOver cl agenda := by
  obtain ⟨agenda, hmoved⟩ := movedAll_moveRec cl (s.queues.task.length + s.queues.ring.length) s hring
    ((List.length_filter_le _ _).trans (Nat.le_add_right _ _)) hroom
  refine ⟨agenda, ?_⟩
  have hwait : (s.handOver cl agenda).moveWait cl = none := moveWait_none hwaits
  have hruns : (s.handOver cl agenda).moveRun cl = none := moveRun_none hrun
  rw [State.moveEntries, hmoved]
  exact (congrArg (movedAll (fun s => s.moveRun cl) s.queues.run.length) (movedAll_of_none hwait _)).trans
    (movedAll_of_none hruns _)

theorem emptied_handOver {s : State} {cl : Nat} (agenda : List Due) (hwaits : ∀ e ∈ s.queues.waits, e.1 ≠ cl)
    (hrun : ∀ e ∈ s.queues.run, clusterOf e.1 ≠ cl) : (s.handOver cl agenda).emptied cl = true := by
  have htask : ((s.handOver cl agenda).queues.task.any fun e => e.1 == cl) = false :=
    List.any_eq_false.mpr fun e he => by
      have hne := (List.mem_filter.mp he).2
      rwa [bne, Bool.not_eq_true', ← Bool.not_eq_true] at hne
  have hwait : (s.queues.waits.any fun e => e.1 == cl) = false :=
    List.any_eq_false.mpr fun e he => by rw [beq_iff_eq]; exact hwaits e he
  have hruns : (s.queues.run.any fun e => clusterOf e.1 == cl) = false :=
    List.any_eq_false.mpr fun e he => by rw [beq_iff_eq]; exact hrun e he
  rw [State.emptied, htask]
  exact (congrArg₂ (fun a b => !a && !b) hwait hruns)

/-- A cluster on which no strand lives or stands is vacated at once. -/
theorem vacate_eq {s : State} {cl : Nat} (h : Claims.empty s cl) : s.vacate cl = { s with device := { s.device with
    drained := s.device.drained ++ [cl], closing := s.device.closing.filter (· != cl) } } := by
  have hnone : s.strands.filter (evicted cl) = [] := by
    rw [List.filter_eq_nil_iff]
    intro u hu
    obtain ⟨hhome, hcore⟩ := h u hu
    rw [evicted, beq_false_of_ne hhome, beq_false_of_ne hcore, Bool.false_and, Bool.and_false, Bool.false_or, Bool.and_false]
    exact Bool.false_ne_true
  have hgone : (s.strands.any fun t => (t.status != .idle && clusterOf t.homeCore == cl && decide (coreNo t.homeCore < 16)) ||
      (t.abroad && clusterOf t.core == cl)) = false := by
    rw [List.any_eq_false]
    intro u hu
    obtain ⟨hhome, hcore⟩ := h u hu
    rw [beq_false_of_ne hhome, beq_false_of_ne hcore, Bool.and_false, Bool.and_false, Bool.false_and, Bool.false_or]
    exact Bool.false_ne_true
  rw [State.vacate, hnone]
  exact if_neg (ne_true_of_eq_false hgone)

/-- A cluster with nothing under way closes and is drained in one move. -/
theorem drain_of_empty {s : State} {cl : Nat} (hdrained : s.device.drained.contains cl = false) (hclosing : s.device.closing = [])
    (hrest : s.enginesRest cl = true) (hempty : Claims.empty s cl) (hring : s.queues.ring = [])
    (hwaits : ∀ e ∈ s.queues.waits, e.1 ≠ cl) (hrun : ∀ e ∈ s.queues.run, clusterOf e.1 ≠ cl)
    (hroom : (s.queues.die.filter fun e => e.1 == cl / 16).length + (s.queues.task.filter fun e => e.1 == cl).length ≤ 4096) :
    ∃ agenda, s.drain cl = { s.handOver cl agenda with device := { s.device with
      drained := s.device.drained ++ [cl], closing := [] } } := by
  obtain ⟨agenda, hmoved⟩ := moveEntries_eq (s := s.closeCluster cl) hring hwaits hrun hroom
  have hclosed : s.withClosed cl = (s.closeCluster cl).handOver cl agenda := by
    rw [State.withClosed, hclosing]
    exact hmoved
  have hrest' : (s.withClosed cl).enginesRest cl = true := by
    rw [hclosed]
    exact hrest
  have hemptied : (s.withClosed cl).emptied cl = true := by
    rw [hclosed]
    exact emptied_handOver agenda hwaits hrun
  have hvacant : Claims.empty (s.withClosed cl) cl := by
    rw [hclosed]
    exact hempty
  refine ⟨agenda, ?_⟩
  rw [drain_eq, hdrained, hrest', hemptied]
  refine (vacate_eq hvacant).trans ?_
  have hnone : (s.closeCluster cl).device.closing.filter (· != cl) = [] := by
    rw [State.closeCluster, hclosing, List.nil_append, List.filter_cons_of_neg (by simp), List.filter_nil]
  rw [hclosed]
  have hall : ((s.closeCluster cl).handOver cl agenda).device.closing.filter (· != cl) = [] := hnone
  rw [hall]
  rfl

end Sys2Proof.Machine
end

section
/-! PROOFS. O54, the device at large (R369, R374, R381 to R383). -/

namespace Sys2Proof.Machine

open Sys2Proof.Num

/-! Drain and return (R381, R382). -/

/-- The state in which a drain is made: a request of the management port is counted once. -/
def State.requested (s : State) : State := if s.arg.flag then s else s.asked

theorem requested_eq (s : State) : ∃ received, s.requested = { s with device := { s.device with received } } := by
  rw [State.requested]
  split <;> exact ⟨_, rfl⟩

theorem exec_clusterDrain (s : State) : exec .clusterDrain s = .next (s.requested.drain s.arg.cl) := rfl

theorem clusterDrain_of_empty {s : State} {cl : Nat} (hcl : cl = s.arg.cl) (hdrained : s.device.drained.contains cl = false)
    (hclosing : s.device.closing = []) (hrest : s.enginesRest cl = true) (hempty : Claims.empty s cl) (hring : s.queues.ring = [])
    (hwaits : ∀ e ∈ s.queues.waits, e.1 ≠ cl) (hrun : ∀ e ∈ s.queues.run, clusterOf e.1 ≠ cl)
    (hroom : (s.queues.die.filter fun e => e.1 == cl / 16).length + (s.queues.task.filter fun e => e.1 == cl).length ≤ 4096) :
    ∃ t, exec .clusterDrain s = .next t ∧ t.device.drained = s.device.drained ++ [cl] ∧ t.device.closing = [] ∧
      t.me = s.me ∧ t.mem = s.mem ∧ t.queues.task = (s.queues.task.filter fun e => e.1 != cl) ∧
      t.queues.die = s.queues.die ++ (s.queues.task.filter fun e => e.1 == cl).map
        fun e => (cl / 16, { e.2 with since := s.clk }) := by
  obtain ⟨received, hreq⟩ := requested_eq s
  obtain ⟨agenda, hdrain⟩ := drain_of_empty (s := { s with device := { s.device with received } })
    hdrained hclosing hrest hempty hring hwaits hrun hroom
  rw [exec_clusterDrain, ← hcl, hreq, hdrain]
  exact ⟨_, rfl, rfl, rfl, rfl, rfl, rfl, rfl⟩

/-- A cluster is back in service, and its die with the last one. -/
def State.returned (s : State) (cl : Nat) : State := { s.asked with device := { s.asked.device with
  drained := s.device.drained.filter (· != cl), closing := s.device.closing.filter (· != cl)
  drainedDies := if (s.device.drained.filter (· != cl)).any fun c => c / 16 == cl / 16 then s.device.drainedDies
    else s.device.drainedDies.filter (· != cl / 16) } }

theorem exec_clusterReturn (s : State) : exec .clusterReturn s = .next (State.due
    (if s.device.drainedDies.contains (s.arg.cl / 16) && !(s.returned s.arg.cl).device.drainedDies.contains (s.arg.cl / 16) then
      (s.returned s.arg.cl).fieldReturn (s.arg.cl / 16) else s.returned s.arg.cl) .slotFill { core := s.arg.cl * 32 }) := rfl

/-- Replicas that rejoin change the field tables only. -/
theorem fieldReturn_if (s : State) (back : Bool) (die : Nat) :
    ∃ fieldTabs, (if back then s.fieldReturn die else s) = { s with fieldTabs } := by
  split <;> exact ⟨_, rfl⟩

theorem any_filter_ne (cs : List Nat) (cl : Nat) : ((cs.filter (· != cl)).any fun c => c / 16 == cl / 16) =
    cs.any fun c => c != cl && c / 16 == cl / 16 := List.any_filter

theorem clusterReturn_done (s : State) : ∃ t, exec .clusterReturn s = .next t ∧
    t.device.drained = s.device.drained.filter (· != s.arg.cl) ∧
    t.device.drainedDies = (if (s.device.drained.any fun c => c != s.arg.cl && c / 16 == s.arg.cl / 16) = true then
      s.device.drainedDies else s.device.drainedDies.filter (· != s.arg.cl / 16)) ∧
    t.me = s.me ∧ t.mem = s.mem ∧ t.agenda = s.agenda ++ [{ ev := .slotFill, arg := { core := s.arg.cl * 32 } }] := by
  obtain ⟨fieldTabs, hback⟩ := fieldReturn_if (s.returned s.arg.cl) (s.device.drainedDies.contains (s.arg.cl / 16) &&
    !(s.returned s.arg.cl).device.drainedDies.contains (s.arg.cl / 16)) (s.arg.cl / 16)
  rw [exec_clusterReturn, hback, ← any_filter_ne]
  exact ⟨_, rfl, rfl, rfl, rfl, rfl, rfl⟩

/-- With no replay and no job no replica of a die is in service. -/
theorem excludeDie_of_none {s : State} (die : Nat) (tell : Bool) (hreplays : s.replays = []) (hobj : s.obj = []) :
    s.excludeDie die tell = s := by
  have hjobs : s.jobs = [] := by
    rw [State.jobs, hobj]
    rfl
  rw [State.excludeDie, hreplays, List.foldl_nil, hjobs, List.foldl_nil]

/-- The clusters of a die. -/
def dieClusters (die : Nat) : List Nat := (List.range 16).map (die * 16 + ·)

theorem all_dieClusters (die : Nat) (p : Nat → Bool) : (dieClusters die).all p = true ↔ ∀ c < 16, p (die * 16 + c) = true := by
  rw [dieClusters, List.all_map, List.all_eq_true]
  exact forall_congr' fun c => imp_congr_left List.mem_range

theorem exec_dieDrain (s : State) : exec .dieDrain s =
    if (dieClusters s.arg.die).all s.requested.device.drained.contains then
      .next { s.requested.excludeDie s.arg.die false with device := { (s.requested.excludeDie s.arg.die false).device with
        drainedDies := (s.requested.excludeDie s.arg.die false).device.drainedDies ++ [s.arg.die] } }
    else .next ((((dieClusters s.arg.die).filter fun c => !s.requested.device.closing.contains c).foldl State.drain
      s.requested).due .dieDrain { die := s.arg.die, flag := true }) := rfl

theorem dieDrain_done {s : State} (hall : ∀ c < 16, s.device.drained.contains (s.arg.die * 16 + c) = true)
    (hreplays : s.replays = []) (hobj : s.obj = []) : ∃ t, exec .dieDrain s = .next t ∧
      t.device.drainedDies = s.device.drainedDies ++ [s.arg.die] ∧ t.me = s.me ∧ t.mem = s.mem := by
  obtain ⟨received, hreq⟩ := requested_eq s
  have hdone : (dieClusters s.arg.die).all s.requested.device.drained.contains = true := by
    rw [all_dieClusters, hreq]
    exact hall
  have hnone : s.requested.excludeDie s.arg.die false = s.requested := by
    rw [hreq]
    exact excludeDie_of_none _ _ hreplays hobj
  rw [exec_dieDrain, if_pos hdone, hnone, hreq]
  exact ⟨_, rfl, rfl, rfl, rfl⟩

theorem dieDrain_again {s : State} (hsome : ∃ c < 16, s.device.drained.contains (s.arg.die * 16 + c) = false) :
    ∃ t, exec .dieDrain s = .next t ∧ t.device.drainedDies = s.device.drainedDies ∧
      ({ ev := .dieDrain, arg := { die := s.arg.die, flag := true } } : Due) ∈ t.agenda := by
  obtain ⟨c, hc, hout⟩ := hsome
  obtain ⟨received, hreq⟩ := requested_eq s
  have hnot : ¬(dieClusters s.arg.die).all s.requested.device.drained.contains = true := by
    rw [all_dieClusters, hreq]
    exact fun h => ne_true_of_eq_false hout (h c hc)
  rw [exec_dieDrain, if_neg hnot]
  refine ⟨_, rfl, (drainedDies_drains _ _).trans ?_, List.mem_append_right _ (List.mem_singleton.mpr rfl)⟩
  rw [hreq]

/-! Obituaries (R383). -/

theorem obituary_eq {s : State} (hdead : s.fabric.dead.contains s.arg.dev = false) :
    exec .obituary s = .next { s.cancelRuns 62 (fun g => g.ranks.contains s.arg.dev) with
      fabric := { (s.cancelRuns 62 fun g => g.ranks.contains s.arg.dev).fabric with
        dead := (s.cancelRuns 62 fun g => g.ranks.contains s.arg.dev).fabric.dead ++ [s.arg.dev] } } :=
  if_neg (ne_true_of_eq_false hdead)

theorem cancelRuns_none {s : State} (step : Nat) {f : CGraph → Bool} (h : ∀ g ∈ s.fabric.graphs, f g = false) :
    s.cancelRuns step f = s := by
  rw [State.cancelRuns, List.filter_eq_nil_iff.mpr fun g hg => ne_true_of_eq_false (h g hg), List.foldl_nil]

theorem cancelRuns_one {s : State} {g : CGraph} (step : Nat) {f : CGraph → Bool} (hg : s.fabric.graphs = [g]) (hf : f g = true) :
    s.cancelRuns step f = s.cancelRun g g.rank step := by
  rw [State.cancelRuns, hg, List.filter_cons_of_pos hf, List.filter_nil, List.foldl_cons, List.foldl_nil]

theorem cancelRun_dead {s : State} {g : CGraph} (rank step : Nat) (hrunning : g.running = true) (hheld : g.held = [])
    (hword : g.word = 0) : (s.cancelRun g rank step).fabric.dead = s.fabric.dead := by
  obtain ⟨apert, hclear⟩ := foldl_clearTags g.steps (s.sends (g.cancels rank step))
  rw [cancelRun_eq rank step hrunning hheld hword, hclear]
  rfl

theorem graph?_of_one {s : State} {g : CGraph} (hg : s.fabric.graphs = [g]) : s.graph? g.key = some g := by
  rw [State.graph?, hg]
  exact List.find?_cons_of_pos (p := fun x : CGraph => x.key == g.key) (beq_self_eq_true _)

/-- The obituary of a device goes to every device of its group that a route leads to. -/
theorem mem_mourn {s : State} {dead d : Nat} (hgroup : dead / 32 = d / 32) (hd : d ≠ s.devNo) (hdead : d ≠ dead)
    (hroute : routeEntry s.fabric.routes d = true) :
    ({ dev := d, job := 0, kind := 9, a := dead, b := 0, bytes := [] } : Packet) ∈ (s.mourn dead).fabric.out := by
  have hmem : d ∈ (List.range 32).map (dead / 32 * 32 + ·) :=
    List.mem_map.mpr ⟨d % 32, List.mem_range.mpr (Nat.mod_lt _ (by decide)), by omega⟩
  refine List.mem_append_right _ (List.mem_map.mpr ⟨d, ?_, rfl⟩)
  rw [List.mem_filter, List.mem_eraseDups, List.mem_append]
  refine ⟨.inl hmem, ?_⟩
  rw [hroute, bne_iff_ne.mpr hd, bne_iff_ne.mpr hdead]
  rfl

/-! The kill of a job (R369). -/

/-- The graphs and launches of some keys cancelled (R369). -/
def State.killKeys (s : State) (keys : List Nat) : State :=
  let s := (keys.filter fun k => (s.objAt k).kind == 3).foldl State.cancelGraph s
  (keys.filter fun k => (s.objAt k).kind == 2).foldl State.cancelLaunch s

/-- The commands and transfers of a job stopped, and its waits for transfers gone. -/
def State.killUnits (s : State) (job : Nat) : State :=
  let s := (s.killCmds job).stopXfers fun x => x.job == job
  let mine (w : XWait) : Bool := match s.strand? (w.sid % 65536) with
    | some t => t.job.toNat == job
    | none => true
  { s with engines := { s.engines with xwaits := s.engines.xwaits.filter fun w => !mine w } }

/-- The remaps and runs of a job stopped. -/
def State.killCourses (s : State) (job : Nat) : State :=
  let s := ((s.remaps.filter fun r => r.key / 65536 == job).map Remap.key).eraseDups.foldl State.stopRemaps s
  s.cancelRuns 63 fun g => g.key / 65536 == job

theorem exec_jobKill (s : State) : exec .jobKill s = .next (State.endJob ((((
    (s.modJob s.arg.job fun j => j.setFld 0 28 3 4).killKeys (s.jobKeys s.arg.job)).cancelStrands
      fun t => t.job.toNat == s.arg.job && t.task).killUnits s.arg.job).killCourses s.arg.job) s.arg.job) := by
  change execJobKill s = _
  rw [execJobKill, State.killCourses, State.killUnits, State.killKeys, State.jobKeys] <;> rfl

theorem killUnits_of_idle {s : State} (job : Nat) (hcmds : s.engines.cmds = []) (hxfers : s.engines.xfers = []) :
    ∃ engines, s.killUnits job = { s with engines } := by
  have hkill : s.killCmds job = s := by
    rw [State.killCmds, hcmds]
    rfl
  have hstop : (s.stopXfers fun x => x.job == job) = s := by
    rw [State.stopXfers, hxfers]
    rfl
  rw [State.killUnits, hkill, hstop]
  exact ⟨_, rfl⟩

theorem killCourses_of_idle {s : State} (job : Nat) (hremaps : s.remaps = []) (hgraphs : s.fabric.graphs = []) :
    s.killCourses job = s := by
  rw [State.killCourses, hremaps]
  exact cancelRuns_of_no_graphs 63 _ hgraphs

/-- A job of which nothing is under way: its record is marked, waits for transfers go, and it ends. -/
theorem jobKill_of_quiet {s : State} {k : Nat} (hquiet : Claims.quiet s) (hdie : s.launches.die = []) (hremaps : s.remaps = [])
    (hfind : findJob s.arg.job s.obj = some k) (hme : s.me.job.toNat ≠ s.arg.job) :
    ∃ engines, exec .jobKill s = .next (State.endJob { s.setObjFld k 0 28 3 4 with engines } s.arg.job) := by
  obtain ⟨hothers, _, _, _, _, _, hcmds, hxfers, hgraphs⟩ := hquiet
  have hkeys : s.jobKeys s.arg.job = [] := by
    rw [State.jobKeys, hdie]
    rfl
  have hnot : (s.me.job.toNat == s.arg.job && s.me.task) = false := by
    rw [beq_false_of_ne hme, Bool.false_and]
  have hstrands : (s.setObjFld k 0 28 3 4).cancelStrands (fun t => t.job.toNat == s.arg.job && t.task) =
      s.setObjFld k 0 28 3 4 := cancelStrands_of_none hothers hnot
  obtain ⟨engines, hunits⟩ := killUnits_of_idle (s := s.setObjFld k 0 28 3 4) s.arg.job hcmds hxfers
  refine ⟨engines, ?_⟩
  rw [exec_jobKill, hkeys, modJob_of_found _ hfind]
  refine congrArg (fun t : State => Host.Outcome.next (t.endJob s.arg.job)) ?_
  refine (congrArg (fun t : State => (t.killUnits s.arg.job).killCourses s.arg.job) hstrands).trans ?_
  rw [hunits]
  exact killCourses_of_idle s.arg.job hremaps hgraphs

/-- An entry that is no record of a job, written over by another such, leaves the record found. -/
theorem findJob_put_other {job key : Nat} {v : Obj} {m : SMap Obj} (hv : v.isJob job = false)
    (hold : ∀ o, SMap.find key m = some o → o.isJob job = false) : findJob job (SMap.put key v m) = findJob job m := by
  have hhead : ∀ r, findJob job ((key, v) :: r) = findJob job r := fun r => if_neg (ne_true_of_eq_false hv)
  induction m with
  | nil => exact hhead []
  | cons e r ih =>
    obtain ⟨a, w⟩ := e
    rw [SMap.find] at hold
    rw [SMap.put]
    split
    next ha =>
      have hw : w.isJob job = false := hold w (if_pos ha)
      exact (hhead r).trans (if_neg (ne_true_of_eq_false hw)).symm
    next ha =>
      rw [if_neg ha] at hold
      split
      · exact hhead _
      · rw [findJob, findJob, ih hold]

/-- The state of the record found is no part of what finds it. -/
theorem findJob_setState {s : State} {job k : Nat} (v : Nat) (h : findJob job s.obj = some k) :
    findJob job (s.setObjFld k 0 28 3 v).obj = some k := by
  cases hjob : (s.objAt k).isJob job with
  | true => exact findJob_put ((isJob_setFld_jState _ job v).trans hjob) h
  | false =>
    refine (findJob_put_other ((isJob_setFld_jState _ job v).trans hjob) fun o ho => ?_).trans h
    have hobj : s.objAt k = o := by
      rw [State.objAt, State.obj?, ho]
      rfl
    rw [← hobj]
    exact hjob

theorem jobKill_done {s : State} {k : Nat} (hquiet : Claims.quiet s) (hdie : s.launches.die = []) (hremaps : s.remaps = [])
    (hsubs : s.fabric.subs = []) (hfind : findJob s.arg.job s.obj = some k) (hme : s.me.job.toNat ≠ s.arg.job) :
    ∃ t, exec .jobKill s = .next t ∧ t.me = s.me ∧ t.mem = s.mem ∧ (t.objAt k).fld 0 28 3 = 5 := by
  obtain ⟨engines, hexec⟩ := jobKill_of_quiet hquiet hdie hremaps hfind hme
  have hfind' : findJob s.arg.job (s.setObjFld k 0 28 3 4).obj = some k := findJob_setState 4 hfind
  have hstate : ((s.setObjFld k 0 28 3 4).objAt k).jState = 4 := by
    rw [objAt_setObjFld, jState_setFld, Nat.mod_eq_of_lt (by decide)]
  have hactive : (s.launches.die.any fun e => e.1 / 65536 == s.arg.job) = false := by
    rw [hdie]
    rfl
  obtain ⟨obj, fabric, device, hend⟩ := endJob_eq { s.setObjFld k 0 28 3 4 with engines } s.arg.job
  have hended := endJob_jState (s := { s.setObjFld k 0 28 3 4 with engines }) hfind' hstate hactive hsubs
  refine ⟨_, hexec, ?_, ?_, hended⟩
  · rw [hend]
    rfl
  · rw [hend]
    rfl

/-! The statement. -/

/-- Settles O54. -/
theorem deviceCourse : Obligations.DeviceCourse := by
  unfold Obligations.DeviceCourse
  refine ⟨fun s cl => clusterDrain_of_empty, clusterReturn_done, fun s => ⟨dieDrain_done, dieDrain_again⟩, fun s => ?_, fun s => ?_,
    fun s hdead => ⟨fun hgraphs => ?_, fun g hgraph hrank hrunning hheld hword => ?_⟩,
    fun s d hgroup hd => ⟨fun hlost hne => ?_, ?_⟩, fun s k => jobKill_done⟩
  · exact ⟨_, rfl, rfl, rfl, (SMap.find_put _ _ _ _).trans (if_pos rfl)⟩
  · change ∃ t, execLinkKeyAgreement s = .next t ∧ _
    rw [execLinkKeyAgreement]
    cases s.arg.flag with
    | true => exact ⟨_, rfl, rfl, rfl, fun _ => (SMap.find_put _ _ _ _).trans (if_pos rfl), nofun⟩
    | false => exact ⟨_, rfl, rfl, rfl, nofun, fun _ => rfl⟩
  · rw [obituary_eq hdead, cancelRuns_none 62 hgraphs]
  · have hruns := cancelRuns_one (f := fun g => g.ranks.contains s.arg.dev) 62 hgraph hrank
    have hcancelled := cancelRun_cancelled g.rank 62 (graph?_of_one hgraph) hrunning hheld hword
    rw [obituary_eq hdead, hruns]
    exact ⟨_, rfl, hcancelled, congrArg (· ++ [s.arg.dev]) (cancelRun_dead g.rank 62 hrunning hheld hword)⟩
  · exact ⟨_, rfl, rfl, rfl, mem_mourn (hlost.trans hgroup) hd (Ne.symm hne), rfl⟩
  · exact ⟨_, rfl, rfl, rfl, mem_mourn hgroup hd hd⟩

end Sys2Proof.Machine
end

section
/-! PROOFS. O53, boot, cluster reset and the management channel (R371 to R373, R376). -/

namespace Sys2Proof.Machine

open Sys2Proof.Num

/-! What boot leaves alone. -/

theorem placeSection_eq (s : State) (die : Nat) (body : List Byte) (x : Section) :
    ∃ mem, s.placeSection die body x = { s with mem } :=
  List.foldlRecOn (motive := fun t : State => ∃ mem, t = { s with mem }) _ _ ⟨_, rfl⟩
    fun _ ⟨_, ht⟩ _ _ => by rw [ht]; exact ⟨_, rfl⟩

/-- What a section leaves in memory is a matter of what memory held. -/
theorem placeSection_mem {s t : State} (die : Nat) (body : List Byte) (x : Section) (h : s.mem = t.mem) :
    (s.placeSection die body x).mem = (t.placeSection die body x).mem := by
  rw [State.placeSection, State.placeSection]
  induction targetCores die x.tgt generalizing s t with
  | nil => exact h
  | cons c cs ih => exact ih (congrArg (Memory.setAll · _) h)

/-- The sections of an image copied to their target cores. -/
def State.placeAll (s : State) (die : Nat) (body : List Byte) (secs : List Section) : State :=
  secs.foldl (fun s x => State.placeSection s die body x) s

theorem placeAll_eq (die : Nat) (body : List Byte) (secs : List Section) (s : State) :
    ∃ mem, s.placeAll die body secs = { s with mem } :=
  List.foldlRecOn (motive := fun t : State => ∃ mem, t = { s with mem }) secs _ ⟨_, rfl⟩
    fun t ⟨_, ht⟩ x _ => by
      obtain ⟨mem, hplace⟩ := placeSection_eq t die body x
      rw [hplace, ht]
      exact ⟨mem, rfl⟩

theorem placeAll_mem (die : Nat) (body : List Byte) (secs : List Section) {s t : State} (h : s.mem = t.mem) :
    (s.placeAll die body secs).mem = (t.placeAll die body secs).mem := by
  induction secs generalizing s t with
  | nil => exact h
  | cons x secs ih => exact ih (placeSection_mem die body x h)

/-- To start a core is to put a strand there. -/
theorem startFirmware_eq (s : State) (core pc : Nat) : ∃ me others, s.startFirmware core pc = { s with me, others } := by
  rw [State.startFirmware, State.putStrand]
  split <;> exact ⟨_, _, rfl⟩

theorem startTargets_eq (s : State) (die : Nat) (secs : List Section) :
    ∃ me others, s.startTargets die secs = { s with me, others } :=
  List.foldlRecOn (motive := fun t : State => ∃ me others, t = { s with me, others }) (List.range 4) _ ⟨_, _, rfl⟩
    fun t ht tgt _ => by
      split
      · exact ht
      next x _ =>
        exact List.foldlRecOn (motive := fun t : State => ∃ me others, t = { s with me, others }) _ _ ht
          fun u ⟨_, _, hu⟩ core _ => by
            obtain ⟨me, others, hstart⟩ := startFirmware_eq u core x.lso
            rw [hstart, hu]
            exact ⟨me, others, rfl⟩

/-! Boot (R371). -/

/-- The digest of an image taken stands recorded. -/
def State.measured (s : State) (die : Nat) (img : List Byte) : State := { s with device := { s.device with
  meas := SMap.put die (shake256 (covered img)) s.device.meas } }

/-- A die that serves loads a route table. -/
def State.routed (s : State) : State := { s with fabric := { s.fabric with routes := s.fabric.routes + 1 } }

section
variable {s s0 : State} {die : Nat} (hdie : die = s.arg.die) (hs0 : s0 = if s.arg.flag then s.resetDie die else s)
include hdie hs0

theorem exec_boot_none (hfind : s0.device.sources.find? (imageGood ((SMap.find die s0.device.rollback).getD 0)) = none) :
    exec .powerUpBoot s = .next (s0.haltDie die) := by
  subst hdie
  change execPowerUpBoot s = _
  rw [execPowerUpBoot]
  dsimp only
  rw [← hs0, hfind]

theorem exec_boot_some {img body : List Byte} (hbody : body = (img.drop 0x100).take (sliceNat img 0x10 8))
    (hfind : s0.device.sources.find? (imageGood ((SMap.find die s0.device.rollback).getD 0)) = some img) :
    exec .powerUpBoot s =
      if ((s0.measured die img).device.meas.all fun e => e.2 == shake256 (covered img)) = true then
        .next (((s0.measured die img).routed.placeAll die body (sectionsOf body)).startTargets die (sectionsOf body))
      else .next ((s0.measured die img).haltDie die) := by
  subst hdie hbody
  change execPowerUpBoot s = _
  rw [execPowerUpBoot]
  dsimp only
  rw [← hs0, hfind]
  rfl

end

/-! A section placed (R372). -/

theorem placeSection_one {die core : Nat} {x : Section} (s : State) (body : List Byte) (h : targetCores die x.tgt = [core]) :
    s.placeSection die body x = s.setBytes (lsKey core x.lso) ((body.drop x.off).take x.len) := by
  rw [State.placeSection, h, List.foldl_cons, List.foldl_nil]

theorem startTargets_one {die core : Nat} {x : Section} (s : State) (htgt : x.tgt < 3) (h : targetCores die x.tgt = [core]) :
    s.startTargets die [x] = s.startFirmware core x.lso := by
  have hfour : List.range 4 = [0, 1, 2, 3] := rfl
  have hcases : x.tgt = 0 ∨ x.tgt = 1 ∨ x.tgt = 2 := by omega
  rw [State.startTargets, hfour]
  rcases hcases with hx | hx | hx <;>
  · rw [hx] at h
    simp [hx, h, List.find?]

theorem sidOf_mod (s : State) {core : Nat} (hcore : core < 4096) :
    (s.sidOf core 0).toNat % 65536 = core * 16 := by
  rw [State.sidOf, BitVec.toNat_ofNat]
  omega

theorem startFirmware_strand (s : State) {core : Nat} (hcore : core < 4096) (pc : Nat) :
    (s.startFirmware core pc).strand? (core * 16) =
      some { Strand.fresh (s.sidOf core 0) .ready 2 with pc := BitVec.ofNat 48 pc, lastIssue := s.clk } := by
  have hsid := sidOf_mod s hcore
  have hkey : (s.sidOf core 0).toNat % 65536 = core * 16 % 65536 := by omega
  rw [State.startFirmware, State.putStrand]
  split
  next => exact if_pos hkey
  next hne =>
    have hother : ¬ s.me.sid.toNat % 65536 = core * 16 % 65536 := fun h => hne (h.trans hkey.symm)
    exact (if_neg hother).trans (List.find?_cons_of_pos
      (p := fun t : Strand => t.sid.toNat % 65536 == core * 16 % 65536) (beq_iff_eq.mpr hkey))

theorem placeSection_get {s : State} (hwf : s.mem.wf = true) {die core j : Nat} {x : Section} {body : List Byte}
    (h : targetCores die x.tgt = [core]) (hoff : x.off + x.len ≤ body.length) (hlso : x.lso + x.len ≤ 2 ^ 20) (hj : j < x.len) :
    (s.placeSection die body x).mem.get (lsKey core (x.lso + j)) = body.getD (x.off + j) 0 := by
  have hkey : lsKey core (x.lso + j) = lsKey core x.lso + j := by
    rw [lsKey, lsKey]
    omega
  have hlen : ((body.drop x.off).take x.len).length = x.len := by
    rw [List.length_take, List.length_drop]
    omega
  rw [placeSection_one s body h, get_setBytes hwf, hkey, hlen, if_pos (by omega), Nat.add_sub_cancel_left]
  simp [List.getD, hj]

/-! Cluster reset (R369). -/

theorem lose_mem (s : State) (rs : List Rec) : (s.lose rs).mem = s.mem :=
  List.foldlRecOn (motive := fun t : State => t.mem = s.mem) rs _ rfl fun t ht r _ => by
    split
    · exact (countTasks_mem t _ _ _).trans ht
    · exact ht

theorem resetUnits_mem (s : State) (cl : Nat) : (s.resetUnits cl).mem = s.mem := lose_mem s _

/-- Nothing of a cluster is left in its units. -/
theorem resetUnits_cleared (s : State) (cl : Nat) :
    (∀ c ∈ (s.resetUnits cl).engines.cmds, c.cl ≠ cl) ∧ (∀ x ∈ (s.resetUnits cl).engines.xfers, x.cl ≠ cl) ∧
      (∀ u ∈ (s.resetUnits cl).tlb, u.cl ≠ cl) ∧ ∀ e ∈ (s.resetUnits cl).queues.task, e.1 ≠ cl :=
  ⟨fun _ hc => bne_iff_ne.mp (List.mem_filter.mp hc).2, fun _ hx => bne_iff_ne.mp (List.mem_filter.mp hx).2,
    fun _ hu => bne_iff_ne.mp (List.mem_filter.mp hu).2, fun _ he => bne_iff_ne.mp (List.mem_filter.mp he).2⟩

/-- A byte that a filter takes out of memory reads 0. -/
theorem get_filter_out {p : Nat × Byte → Bool} {k : Nat} (h : ∀ b, p (k, b) = false) (m : Memory) :
    Memory.get (m.filter p) k = 0 := by
  have hnone : SMap.find k (m.filter p) = none := by
    induction m with
    | nil => rfl
    | cons e m ih =>
      obtain ⟨a, b⟩ := e
      rw [List.filter_cons]
      split
      next hp =>
        have hne : ¬ a = k := by
          rintro rfl
          exact ne_true_of_eq_false (h b) hp
        exact (if_neg hne).trans ih
      · exact ih
  rw [Memory.get, hnone]
  rfl

theorem isLs_lsKey {core : Nat} (hcore : core < 4096) (off : Nat) : isLs (lsKey core off) = true := by
  rw [isLs, lsKey, Bool.and_eq_true, decide_eq_true_iff, decide_eq_true_iff]
  omega

theorem core_lsKey {core : Nat} (hcore : core < 4096) (off : Nat) : lsKey core off / 2 ^ 20 % 4096 = core := by
  rw [lsKey]
  omega

/-- The local stores of cores that are reset read 0. -/
theorem resetCores_get {s : State} {f : Nat → Bool} {core : Nat} (hcore : core < 4096) (hf : f core = true) (off : Nat) :
    (s.resetCores f).mem.get (lsKey core off) = 0 :=
  get_filter_out (fun _ => by
    dsimp only
    rw [isLs_lsKey hcore, core_lsKey hcore, hf]
    rfl) _

/-! Reports (R373, R376). -/

theorem report_getLast? (s : State) (kind : Nat) (body : List Byte) :
    (s.report kind body).device.outbox.getLast? = some ((s.device.sent + 1) % 2 ^ 32, kind, body) := by
  rw [State.report]
  dsimp only
  rw [List.getLast?_drop, if_neg (by rw [List.length_append, List.length_singleton]; omega), List.getLast?_append]
  rfl

/-! The statement. -/

/-- Settles O53. -/
theorem bootAndManagement : Obligations.BootAndManagement := by
  unfold Obligations.BootAndManagement
  refine ⟨fun s s0 die hdie hs0 => ?boot, fun s die core j x body htgt hcore hlt hoff hlso hj hwf _ => ?placed, fun s => ?reset,
    fun s => ?status, fun s => ?attestation⟩
  case boot =>
    split
    next hfind => exact ⟨_, exec_boot_none hdie hs0 hfind, rfl, rfl, rfl, rfl⟩
    next img hfind =>
      have hexec := exec_boot_some hdie hs0 rfl hfind
      split at hexec
      next hall =>
        let body := (img.drop 0x100).take (sliceNat img 0x10 8)
        obtain ⟨mem, hplaced⟩ := placeAll_eq die body (sectionsOf body) (s0.measured die img).routed
        obtain ⟨me, others, hstarted⟩ := startTargets_eq ((s0.measured die img).routed.placeAll die body (sectionsOf body)) die
          (sectionsOf body)
        have hmem := placeAll_mem die body (sectionsOf body) (s := (s0.measured die img).routed) (t := s0) rfl
        refine ⟨_, hexec, ?_, ?_⟩
        · rw [hstarted, hplaced]
          rfl
        · rintro _ rfl
          have hmeas : (((s0.measured die img).routed.placeAll die body (sectionsOf body)).startTargets die
              (sectionsOf body)).device.meas = (s0.measured die img).device.meas := by
            rw [hstarted, hplaced]
            rfl
          rw [hmeas, if_pos hall]
          refine ⟨?_, ?_, _, rfl, hmem⟩
          · rw [hstarted, hplaced]
            rfl
          · rw [hstarted, hplaced]
            rfl
      next hall =>
        refine ⟨_, hexec, rfl, fun body _ => ?_⟩
        rw [if_neg (by exact hall)]
        exact ⟨rfl, rfl, rfl⟩
  case placed =>
    have hmem : ∀ u : State, (u.startFirmware core x.lso).mem = u.mem := fun u => by
      obtain ⟨me, others, hstart⟩ := startFirmware_eq u core x.lso
      rw [hstart]
    rw [startTargets_one _ hlt htgt, hmem]
    exact ⟨_, startFirmware_strand _ hcore x.lso, rfl, rfl, rfl,
      placeSection_get hwf htgt hoff hlso hj⟩
  case reset =>
    refine ⟨s.resetCluster s.arg.cl, rfl, fun core off hcore _ hcl hno => ?_, resetUnits_cleared _ s.arg.cl⟩
    rw [State.resetCluster, resetUnits_mem]
    refine resetCores_get hcore ?_ off
    rw [hcl, beq_self_eq_true, decide_eq_true hno]
    rfl
  case status => exact ⟨_, rfl, rfl, rfl, rfl, rfl, report_getLast? _ _ _⟩
  case attestation => exact ⟨_, _, rfl, rfl, rfl, rfl, rfl, rfl, report_getLast? _ _ _⟩

end Sys2Proof.Machine
end

section
/-! SUPPORT. Canonical memory (log 7): what it means for a result to leave it canonical, and how results are put together. -/

namespace Sys2Proof.Machine

/-! States. -/

theorem canonical_iff {s : State} : s.canonical = true ↔ s.mem.wf = true ∧ SMap.sorted s.obj = true := Bool.and_eq_true_iff

/-- Any other field of a state written. -/
theorem canonical_mk {s : State} {me others bad clk ticks free agenda arg tlb migs queues launches barriers fabric device engines
    remaps marvers fieldTabs objCache tier replays spills} (h : s.canonical = true) :
    (State.mk me others s.mem bad clk ticks free agenda arg s.obj tlb migs queues launches barriers fabric device engines
      remaps marvers fieldTabs objCache tier replays spills).canonical = true := h

/-- Canonical memory put in place of memory. -/
theorem canonical_of_mem {s t : State} (h : s.canonical = true) (hmem : t.mem.wf = true) (hobj : t.obj = s.obj) :
    t.canonical = true :=
  canonical_iff.mpr ⟨hmem, hobj ▸ (canonical_iff.mp h).2⟩

/-- Canonical memory put in place of memory, and any other field written. -/
theorem canonical_withMem {s : State} {m : Memory} {me others bad clk ticks free agenda arg tlb migs queues launches barriers
    fabric device engines remaps marvers fieldTabs objCache tier replays spills} (h : s.canonical = true) (hm : m.wf = true) :
    (State.mk me others m bad clk ticks free agenda arg s.obj tlb migs queues launches barriers fabric device engines
      remaps marvers fieldTabs objCache tier replays spills).canonical = true :=
  canonical_iff.mpr ⟨hm, (canonical_iff.mp h).2⟩

theorem canonical_ite {p : Prop} [Decidable p] {s t : State} (hs : s.canonical = true) (ht : t.canonical = true) :
    (if p then s else t).canonical = true := by
  split
  · exact hs
  · exact ht

theorem canonical_foldl {α : Type} {f : State → α → State} {s : State} (h : s.canonical = true)
    (hf : ∀ t a, t.canonical = true → (f t a).canonical = true) (l : List α) : (l.foldl f s).canonical = true :=
  List.foldlRecOn (motive := fun t : State => t.canonical = true) l f h fun t ht a _ => hf t a ht

/-! Memory of which some cells are left out. -/

theorem sortedFrom_filter {α : Type} (p : Nat × α → Bool) {m : SMap α} {lo : Nat} (h : SMap.sortedFrom lo m = true) :
    SMap.sortedFrom lo (m.filter p) = true := by
  induction m generalizing lo with
  | nil => rfl
  | cons x r ih =>
    obtain ⟨k, v⟩ := x
    obtain ⟨hk, hr⟩ := Bool.and_eq_true_iff.mp h
    rw [List.filter_cons]
    split
    · exact Bool.and_eq_true_iff.mpr ⟨hk, ih hr⟩
    · exact SMap.sortedFrom_mono _ _ _ (ih hr) (Nat.le_succ_of_le (of_decide_eq_true hk))

theorem noZero_filter (p : Nat × Byte → Bool) {m : Memory} (h : Memory.noZero m = true) : Memory.noZero (m.filter p) = true := by
  induction m with
  | nil => rfl
  | cons x r ih =>
    obtain ⟨hx, hr⟩ := Bool.and_eq_true_iff.mp h
    rw [List.filter_cons]
    split
    · exact Bool.and_eq_true_iff.mpr ⟨hx, ih hr⟩
    · exact ih hr

theorem memory_wf_filter (p : Nat × Byte → Bool) {m : Memory} (h : m.wf = true) : Memory.wf (m.filter p) = true := by
  obtain ⟨hs, hz⟩ := Bool.and_eq_true_iff.mp h
  exact Bool.and_eq_true_iff.mpr ⟨sortedFrom_filter p hs, noZero_filter p hz⟩

/-! Results: of a computation that can fail, that can find nothing, of an instruction. -/

/-- A result that satisfies P, a failure that satisfies E. -/
def Ends {ε α : Type} (E : ε → Prop) (P : α → Prop) : Except ε α → Prop
  | .ok a => P a
  | .error e => E e

theorem ends_ok {ε α : Type} {E : ε → Prop} {P : α → Prop} {r : Except ε α} {a : α} (h : Ends E P r) (hr : r = .ok a) : P a := by
  subst hr
  exact h

theorem ends_error {ε α : Type} {E : ε → Prop} {P : α → Prop} {r : Except ε α} {e : ε} (h : Ends E P r) (hr : r = .error e) :
    E e := by
  subst hr
  exact h

theorem ends_ite {ε α : Type} {E : ε → Prop} {P : α → Prop} {p : Prop} [Decidable p] {x y : Except ε α} (hx : Ends E P x)
    (hy : Ends E P y) : Ends E P (if p then x else y) := by
  split
  · exact hx
  · exact hy

theorem ends_bind {ε α β : Type} {E : ε → Prop} {P : α → Prop} {Q : β → Prop} {x : Except ε α} {f : α → Except ε β}
    (hx : Ends E P x) (hf : ∀ a, P a → Ends E Q (f a)) : Ends E Q (x >>= f) := by
  cases x with
  | error e => exact hx
  | ok a => exact hf a hx

theorem ends_map {ε α β : Type} {E : ε → Prop} {P : α → Prop} {Q : β → Prop} {x : Except ε α} {f : α → β}
    (hx : Ends E P x) (hf : ∀ a, P a → Q (f a)) : Ends E Q (x.map f) := by
  cases x with
  | error e => exact hx
  | ok a => exact hf a hx

theorem ends_true {ε α : Type} {x : Except ε α} : Ends (fun _ => True) (fun _ => True) x := by
  cases x with
  | error e => exact trivial
  | ok a => exact trivial

/-- What is found, if anything is, satisfies P. -/
def Finds {α : Type} (P : α → Prop) : Option α → Prop
  | some a => P a
  | none => True

theorem finds_some {α : Type} {P : α → Prop} {o : Option α} {a : α} (h : Finds P o) (ho : o = some a) : P a := by
  subst ho
  exact h

theorem finds_map {α β : Type} {P : β → Prop} {f : α → β} {o : Option α} (h : ∀ a, o = some a → P (f a)) : Finds P (o.map f) := by
  cases o with
  | none => exact trivial
  | some a => exact h a rfl

theorem finds_ite {α : Type} {P : α → Prop} {p : Prop} [Decidable p] {x y : Option α} (hx : Finds P x) (hy : Finds P y) :
    Finds P (if p then x else y) := by
  split
  · exact hx
  · exact hy

theorem finds_getD {α : Type} {P : α → Prop} {o : Option α} {a : α} (h : Finds P o) (ha : P a) : P (o.getD a) := by
  cases o with
  | none => exact ha
  | some b => exact h

/-- The next state of a move is canonical. -/
def Out.canonical : Out → Prop
  | .next s => s.canonical = true
  | _ => True

theorem out_ite {p : Prop} [Decidable p] {x y : Out} (hx : Out.canonical x) (hy : Out.canonical y) :
    Out.canonical (if p then x else y) := by
  split
  · exact hx
  · exact hy

/-- A stop that holds the strand in a state holds it in a canonical one. -/
def Stop.canonical : Stop → Prop
  | .hold s => s.canonical = true
  | _ => True

/-! Meanings. -/

/-- A computation on the state that ends in a canonical one, from each such; its failures satisfy E. -/
def Keeps {ε α : Type} (E : ε → Prop) (m : StateT State (Except ε) α) : Prop :=
  ∀ s, s.canonical = true → Ends E (fun x => x.2.canonical = true) (m s)

/-- A meaning keeps memory canonical, and what it holds the strand in. -/
abbrev Tidy {α : Type} (m : M α) : Prop := Keeps Stop.canonical m

/-- An engine's access keeps memory canonical. -/
abbrev UnitTidy {α : Type} (m : EM α) : Prop := Keeps (fun _ => True) m

section
variable {ε α β : Type} {E : ε → Prop}

theorem keeps_pure (a : α) : Keeps E (pure a : StateT State (Except ε) α) := fun _ h => h

theorem keeps_bind {m : StateT State (Except ε) α} {f : α → StateT State (Except ε) β} (hm : Keeps E m) (hf : ∀ a, Keeps E (f a)) :
    Keeps E (m >>= f) := by
  intro s h
  have hs := hm s h
  change Ends E _ (Except.bind (m s) fun x => f x.1 x.2)
  cases hr : m s with
  | error e =>
    rw [hr] at hs
    exact hs
  | ok x =>
    rw [hr] at hs
    exact hf x.1 x.2 hs

/-- The state read is the one the computation runs on. -/
theorem keeps_get {f : State → StateT State (Except ε) β} (hf : ∀ s, s.canonical = true → Keeps E (f s)) :
    Keeps E (get >>= f) := fun s h => hf s h s h

theorem keeps_set {s : State} (h : s.canonical = true) : Keeps E (set s : StateT State (Except ε) PUnit) := fun _ _ => h

theorem keeps_ite {p : Prop} [Decidable p] {x y : StateT State (Except ε) α} (hx : Keeps E x) (hy : Keeps E y) :
    Keeps E (if p then x else y) := by
  split
  · exact hx
  · exact hy

theorem keeps_mapM {γ : Type} {f : γ → StateT State (Except ε) α} (hf : ∀ c, Keeps E (f c)) (l : List γ) : Keeps E (l.mapM f) := by
  rw [← List.mapM'_eq_mapM]
  induction l with
  | nil => exact keeps_pure _
  | cons c l ih => exact keeps_bind (hf c) fun a => keeps_bind ih fun as => keeps_pure _

theorem keeps_foldlM {γ : Type} {f : α → γ → StateT State (Except ε) α} (hf : ∀ a c, Keeps E (f a c)) (l : List γ) (a : α) :
    Keeps E (l.foldlM f a) := by
  induction l generalizing a with
  | nil => exact keeps_pure _
  | cons c l ih => exact keeps_bind (hf a c) ih

end

end Sys2Proof.Machine
end

section
/-! SUPPORT. Canonical memory is kept: the state: cells, records, strands, traps, translation, accesses. -/

namespace Sys2Proof.Machine
open Sys2Proof.Num

/-! Memory cells. -/

theorem setByte_canonical {s : State} {a : Nat} {b : Byte} (h : s.canonical = true) : (s.setByte a b).canonical = true :=
  canonical_of_mem h (Memory.wf_set _ _ _ (canonical_iff.mp h).1) rfl

theorem setCells_canonical {s : State} {cs : List (Nat × Byte)} (h : s.canonical = true) : (s.setCells cs).canonical = true :=
  canonical_of_mem h (Memory.wf_setAll _ _ (canonical_iff.mp h).1) rfl

theorem setBytes_canonical {s : State} {a : Nat} {bs : List Byte} (h : s.canonical = true) :
    (s.setBytes a bs).canonical = true :=
  canonical_of_mem h (Memory.wf_setAll _ _ (canonical_iff.mp h).1) rfl

theorem setNum_canonical {s : State} {a n v : Nat} (h : s.canonical = true) : (s.setNum a n v).canonical = true :=
  setBytes_canonical h

theorem setWord_canonical {s : State} {a : Nat} {v : Word} (h : s.canonical = true) : (s.setWord a v).canonical = true :=
  setNum_canonical h

theorem count_canonical {s : State} {die off : Nat} (h : s.canonical = true) : (s.count die off).canonical = true :=
  setWord_canonical h

/-! Object records (R263). -/

theorem setObj_canonical {s : State} {key : Nat} {o : Obj} (h : s.canonical = true) : (s.setObj key o).canonical = true := by
  obtain ⟨hmem, hobj⟩ := canonical_iff.mp h
  exact canonical_iff.mpr ⟨hmem, SMap.sortedFrom_put _ _ _ _ hobj (Nat.zero_le _)⟩

theorem modObj_canonical {s : State} {key : Nat} {f : Obj → Obj} (h : s.canonical = true) :
    (s.modObj key f).canonical = true :=
  setObj_canonical h

theorem setObjFld_canonical {s : State} {key w lo n v : Nat} (h : s.canonical = true) :
    (s.setObjFld key w lo n v).canonical = true :=
  modObj_canonical h

/-! Strands. -/

theorem modStrand_canonical {s : State} {sid : Nat} {f : Strand → Strand} (h : s.canonical = true) :
    (s.modStrand sid f).canonical = true :=
  canonical_ite (canonical_mk h) (canonical_mk h)

theorem allStrands_canonical {s : State} {f : Strand → Strand} (h : s.canonical = true) : (s.allStrands f).canonical = true :=
  canonical_mk h

theorem focus_canonical {s : State} {sid : Nat} (h : s.canonical = true) : (s.focus sid).canonical = true := by
  rw [State.focus]
  refine canonical_ite h ?_
  split
  · exact h
  · exact canonical_mk h

theorem putStrand_canonical {s : State} {t : Strand} (h : s.canonical = true) : (s.putStrand t).canonical = true :=
  canonical_ite (canonical_mk h) (canonical_mk h)

theorem due_canonical {s : State} {ev : Instr} {arg : Arg} (h : s.canonical = true) : (s.due ev arg).canonical = true :=
  canonical_mk h

/-! Messages (R214, R405). -/

theorem hwSend_canonical {s : State} {dst kind job : Nat} {o1 o2 o3 o4 : Word} (h : s.canonical = true) :
    (s.hwSend dst kind job o1 o2 o3 o4).canonical = true :=
  canonical_ite h (due_canonical (canonical_mk h))

theorem hwPost_canonical {s : State} {dst job : Nat} {o : Vector Word 6} (h : s.canonical = true) :
    (s.hwPost dst job o).canonical = true :=
  canonical_ite h (due_canonical (canonical_mk h))

theorem enqueue_canonical {s : State} {sid : Nat} {m : Msg} (h : s.canonical = true) :
    Finds (fun x => x.canonical = true) (s.enqueue sid m) := by
  rw [State.enqueue]
  split
  · exact trivial
  · exact finds_ite trivial (modStrand_canonical h)

/-! Reservations (R132, R133). -/

theorem passOn_canonical {s : State} {line : Nat} (h : s.canonical = true) : (s.passOn line).canonical = true := by
  rw [State.passOn]
  split
  · exact h
  · exact canonical_ite (canonical_mk h) (due_canonical (canonical_mk h))

theorem unwait_canonical {s : State} {sid : Nat} (h : s.canonical = true) : (s.unwait sid).canonical = true := canonical_mk h

theorem dropResv_canonical {s : State} (h : s.canonical = true) : s.dropResv.canonical = true := by
  rw [State.dropResv]
  split
  · exact h
  · exact canonical_ite (passOn_canonical (canonical_mk h)) (count_canonical (passOn_canonical (canonical_mk h)))

/-! Barriers (R329). -/

theorem withdrawBar_canonical {s : State} {sid : Nat} (h : s.canonical = true) : (s.withdrawBar sid).canonical = true :=
  canonical_mk h

/-! Memory errors (R137). -/

theorem logError_canonical {s : State} {k : Nat} (h : s.canonical = true) : (s.logError k).canonical = true :=
  canonical_mk (count_canonical h)

/-! The end of a task (R220, R237, R243). -/

theorem countTasks_canonical {s : State} {key : Nat} {how : Ending} {n : Nat} (h : s.canonical = true) :
    (s.countTasks key how n).canonical = true :=
  modObj_canonical h

theorem perform_canonical {s : State} {sid : Nat} {p : PendStore} (h : s.canonical = true) :
    (s.perform sid p).canonical = true := by
  rw [State.perform]
  split
  · exact setCells_canonical h
  · exact modStrand_canonical (logError_canonical (setCells_canonical h))

theorem toGroup_canonical {s : State} {g job va kind : Nat} {bs : List Byte} (h : s.canonical = true) :
    (s.toGroup g job va kind bs).canonical = true :=
  due_canonical h

theorem freed_canonical {s : State} {t : Strand} (h : s.canonical = true) : (s.freed t).canonical = true :=
  canonical_ite (due_canonical (due_canonical (canonical_mk h))) (due_canonical (canonical_mk h))

theorem endTask_canonical {s : State} {how : Ending} (h : s.canonical = true) : (s.endTask how).canonical = true := by
  rw [State.endTask]
  refine freed_canonical ?_
  refine canonical_foldl ?_ (fun _ _ h1 => count_canonical h1) _
  split
  · exact countTasks_canonical (withdrawBar_canonical (unwait_canonical (dropResv_canonical h)))
  · exact withdrawBar_canonical (unwait_canonical (dropResv_canonical h))

theorem depart_canonical {s : State} {core reason : Nat} (h : s.canonical = true) : (s.depart core reason).canonical = true :=
  due_canonical (canonical_mk (canonical_ite (due_canonical h) h))

theorem endDoomed_canonical {s : State} (h : s.canonical = true) : s.endDoomed.canonical = true := by
  rw [State.endDoomed]
  split
  · exact h
  · exact canonical_ite h (canonical_ite (depart_canonical h) (canonical_ite (endTask_canonical h) (hwSend_canonical
      (endTask_canonical h))))

theorem condemn_canonical {s : State} {d : Doom} (h : s.canonical = true) : (s.condemn d).canonical = true :=
  endDoomed_canonical (withdrawBar_canonical (unwait_canonical (canonical_mk h)))

/-! Traps (21_traps_and_preemption). -/

theorem report_canonical {s : State} {kind : Nat} {body : List Byte} (h : s.canonical = true) :
    (s.report kind body).canonical = true :=
  canonical_mk h

theorem unhandledTrap_canonical {s : State} {plv : BitVec 2} {cause : BitVec 16} {tval : Word} {xpc : BitVec 48}
    (h : s.canonical = true) :
    (s.unhandledTrap plv cause tval xpc).canonical = true :=
  canonical_ite (condemn_canonical h) (canonical_ite (report_canonical (canonical_mk h)) (canonical_ite
    (due_canonical (canonical_mk (hwSend_canonical (canonical_mk h)))) (hwSend_canonical (canonical_mk h))))

theorem takeTrap_canonical {s : State} {tvec : BitVec 48} {plv : BitVec 2} {cls win detail : Nat} {tval : Word}
    {xpc at_ : BitVec 48} (h : s.canonical = true) :
    (s.takeTrap tvec plv cls win detail tval xpc at_).canonical = true :=
  canonical_ite (unhandledTrap_canonical (canonical_mk h)) (canonical_mk (canonical_mk h))

theorem leaseEnd_canonical {s : State} {addr : Word} {pc : BitVec 48} (h : s.canonical = true) :
    (s.leaseEnd addr pc).canonical = true :=
  condemn_canonical h

theorem goHome_canonical {s : State} (h : s.canonical = true) : s.goHome.canonical = true :=
  canonical_ite (depart_canonical (canonical_mk h)) (canonical_mk h)

theorem takeOwed_canonical {s : State} (h : s.canonical = true) : s.takeOwed.canonical = true := by
  rw [State.takeOwed]
  split
  · exact canonical_mk h
  · split
    · exact leaseEnd_canonical h
    · exact canonical_ite (goHome_canonical h) (takeTrap_canonical (canonical_mk h))
    · exact h

theorem raise_canonical {s : State} {cls detail : Nat} {tval : Word} (h : s.canonical = true) :
    (s.raise cls detail tval).canonical = true :=
  canonical_ite (takeOwed_canonical h) (canonical_ite (takeTrap_canonical h) (canonical_ite (goHome_canonical
    (canonical_mk h)) (canonical_mk h)))

theorem raiseLease_canonical {s : State} {addr : Word} (h : s.canonical = true) : (s.raiseLease addr).canonical = true :=
  canonical_ite (takeOwed_canonical h) (leaseEnd_canonical h)

/-! The monad of a meaning. -/

theorem trap_tidy {α : Type} {cls detail : Nat} {tval : Word} : Tidy (trap cls detail tval : M α) := fun _ _ => trivial

theorem opFault_tidy {α : Type} {detail : Nat} {tval : Word} : Tidy (opFault detail tval : M α) := trap_tidy

theorem illegalState_tidy {α : Type} {tval : Word} : Tidy (illegalState tval : M α) := trap_tidy

theorem stop_tidy {α : Type} {x : Stop} (hx : x.canonical) : Tidy (stop x : M α) := fun _ _ => hx

theorem need_tidy {c : Bool} {x : M Unit} (hx : Tidy x) : Tidy (need c x) := keeps_ite (keeps_pure _) hx

theorem gets'_tidy {α : Type} {f : State → α} : Tidy (gets' f : M α) := fun _ h => h

theorem upd_tidy {f : State → State} (hf : ∀ (a : State), a.canonical = true → (f a).canonical = true) : Tidy (upd f) :=
  fun _ h => hf _ h

theorem updMe_tidy {f : Strand → Strand} : Tidy (updMe f) := fun _ h => canonical_mk h

theorem stopped_canonical {s : State} {r : Stop} (h : s.canonical = true) (hr : r.canonical) : (stopped s r).canonical := by
  unfold stopped
  split
  · exact raise_canonical h
  · exact raiseLease_canonical h
  · exact goHome_canonical h
  · exact takeOwed_canonical h
  · exact raise_canonical (logError_canonical h)
  · exact h
  · exact h
  · exact hr
  · exact trivial

theorem finish_canonical {s : State} {r : Except Stop (Unit × State)} (h : s.canonical = true) (hr : Ends Stop.canonical
    (fun x => x.2.canonical = true) r) :
    (finish s r).canonical := by
  unfold finish
  split
  · exact hr
  · exact stopped_canonical h hr

theorem issue_canonical {s : State} {n : Nat} (h : s.canonical = true) : (s.issue n).canonical = true := canonical_mk h

theorem pwOwed_canonical {t : Strand} : Finds (fun x => x.canonical) t.pwOwed := by
  rw [Strand.pwOwed]
  refine finds_map ?_
  intro a h
  split
  · exact trivial
  · exact trivial

theorem guardHeld_canonical {t : Strand} {g : Guard} : Finds (fun x => x.canonical) (t.guardHeld g) :=
  finds_ite trivial pwOwed_canonical

theorem short_canonical {n : Nat} {g : Guard} {body : M Unit} {s : State} (hbody : Tidy body) (h : s.canonical = true) :
    (short n g body s).canonical := by
  rw [short]
  refine out_ite (goHome_canonical h) ?_
  split
  next heq => exact stopped_canonical h (finds_some guardHeld_canonical heq :)
  · exact out_ite (finish_canonical h (hbody _ (issue_canonical h))) (issue_canonical h)

theorem open_canonical {s : State} {ds : List Reg} {src : Owe} {la : Nat} {xpc : BitVec 48} (h : s.canonical = true) :
    (s.open ds src la xpc).canonical = true :=
  canonical_mk h

theorem openLine_canonical {s : State} {k : Option (Fin 8)} {holds : Bool} (h : s.canonical = true) :
    (s.openLine k holds).canonical = true :=
  canonical_mk h

theorem finishLong_canonical {n la : Nat} {ds : List Reg} {k : Option (Fin 8)} {s : State} {r : Except Stop (Unit × State)}
    (h : s.canonical = true) (hr : Ends Stop.canonical (fun x => x.2.canonical = true) r) :
    (finishLong n la ds k s r).canonical := by
  unfold finishLong
  split
  · exact hr
  · exact out_ite (raise_canonical h) (openLine_canonical (open_canonical (issue_canonical h)))
  · exact out_ite (raiseLease_canonical h) (openLine_canonical (open_canonical (issue_canonical h)))
  · exact out_ite (raise_canonical (logError_canonical h)) (openLine_canonical (open_canonical (issue_canonical
      (logError_canonical h))))
  · exact stopped_canonical h hr

theorem longLine_canonical {n : Nat} {g : Guard} {la : Nat} {ds : List Reg} {k : Option (Fin 8)} {body : M Unit} {s : State}
    (hbody : Tidy body) (h : s.canonical = true) :
    (longLine n g la ds k body s).canonical := by
  rw [longLine]
  refine out_ite (goHome_canonical h) ?_
  split
  next heq => exact stopped_canonical h (finds_some guardHeld_canonical heq :)
  · exact out_ite (finishLong_canonical h (hbody _ (issue_canonical h))) (issue_canonical h)

theorem long_canonical {n : Nat} {g : Guard} {la : Nat} {ds : List Reg} {body : M Unit} {s : State} (hbody : Tidy body)
    (h : s.canonical = true) :
    (long n g la ds body s).canonical :=
  longLine_canonical hbody h

theorem atLevel_canonical {lvl : BitVec 2} {w : Nat} {run : State → Out} {s : State} (hrun : ∀ (a : State),
    a.canonical = true → (run a).canonical) (h : s.canonical = true) :
    (atLevel lvl w run s).canonical :=
  out_ite (raise_canonical h) (hrun _ h)

theorem legalIf_canonical {c : Bool} {w : Nat} {run : State → Out} {s : State} (hrun : ∀ (a : State), a.canonical = true →
    (run a).canonical) (h : s.canonical = true) :
    (legalIf c w run s).canonical :=
  out_ite (hrun _ h) (raise_canonical h)

theorem await_tidy {ds : List Reg} {src : Owe} {la : Nat} : Tidy (await ds src la) :=
  keeps_get fun _ h => keeps_set (open_canonical (canonical_mk h))

theorem settledAll_tidy : Tidy settledAll := fun _ h => ends_ite trivial (ends_ite trivial h)

/-! Predicates (R67). -/

theorem pwHere_tidy : Tidy pwHere := by
  unfold pwHere
  intro s h
  beta_reduce
  split
  next heq => exact (finds_some pwOwed_canonical heq :)
  · exact h

theorem setPred_tidy {p : Pred} {b : Bool} : Tidy (setPred p b) :=
  keeps_ite (keeps_pure _) (keeps_bind pwHere_tidy fun _ => updMe_tidy)

theorem getPred_tidy {p : Pred} : Tidy (getPred p) := keeps_ite (keeps_pure _) (keeps_bind pwHere_tidy fun _ => gets'_tidy)

/-! The translation caches (R283). -/

theorem lookup_canonical {s : State} {cl job va : Nat} (h : s.canonical = true) :
    Finds (fun x => x.2.canonical = true) (s.lookup cl job va) := by
  rw [State.lookup]
  split
  · exact canonical_mk h
  · split
    · exact trivial
    · exact canonical_mk h

/-! Where an access goes (R284). -/

theorem vfault_tidy {α : Type} {a : Word} : Tidy (vfault a : M α) := fun _ _ => ends_ite trivial trivial

theorem xlate_tidy {job right va : Nat} : Tidy (xlate job right va) := by
  unfold xlate
  intro s h
  beta_reduce
  split
  · exact vfault_tidy _ h
  next heq => exact ends_ite (finds_some (lookup_canonical h) heq :) (vfault_tidy _ h)

theorem laddr_tidy {store : Bool} {a : Nat} : Tidy (laddr store a) :=
  fun _ h => ends_ite (ends_ite trivial h) (ends_ite trivial (ends_ite trivial (ends_ite trivial (ends_ite trivial
    (ends_ite trivial h)))))

theorem checkByte_tidy {right lo : Nat} {a : Addr} : Tidy (checkByte right lo a) := by
  unfold checkByte
  intro s h
  refine ends_ite trivial ?_
  split
  · exact laddr_tidy _ h
  · exact ends_ite (ends_ite h trivial) (ends_ite (xlate_tidy _ h) (vfault_tidy _ h))

theorem checkFrom_tidy {right lo : Nat} {r : List Addr} : Tidy (checkFrom right lo r) := by
  induction r with
  | nil =>
    rw [checkFrom]
    exact keeps_pure _
  | cons _ _ ih =>
    rw [checkFrom]
    exact keeps_bind checkByte_tidy fun _ => keeps_bind ih fun _ => keeps_pure _

theorem check_tidy {right : Nat} {a : Addr} {n : Nat} : Tidy (check right a n) := checkFrom_tidy

theorem aligned_tidy {a : Addr} {n : Nat} : Tidy (aligned a n) := keeps_ite (keeps_pure _) trap_tidy

/-! Replicas (R284). -/

theorem fillLine_canonical {s : State} {dev job va pa : Nat} (h : s.canonical = true) :
    (s.fillLine dev job va pa).canonical = true :=
  canonical_mk (setBytes_canonical h)

theorem fetchHit_canonical {job : Nat} {s : State} {h : Hit} (hs : s.canonical = true) :
    (fetchHit job s h).canonical = true := by
  rw [fetchHit]
  split
  · exact canonical_ite hs (fillLine_canonical hs)
  · exact hs

theorem counted_canonical {s : State} {hs : List Hit} (h : s.canonical = true) : (s.counted hs).canonical = true := by
  unfold State.counted
  split
  · exact h
  · exact canonical_ite (canonical_mk h) h

theorem readHits_tidy {tval : Word} {hs : List Hit} : Tidy (readHits tval hs) := by
  unfold readHits
  intro s h
  refine ends_ite trivial ?_
  refine ends_ite trivial ?_
  dsimp only
  split
  · exact trivial
  · exact counted_canonical (canonical_foldl h (fun _ _ h1 => fetchHit_canonical h1) _)

/-! Requests to other devices (R298). -/

theorem request_canonical {s : State} {dev job : Nat} {vas : List Nat} {kind : Nat} {bytes : List Byte} {rep : List Nat}
    (h : s.canonical = true) :
    Finds (fun x => x.2.canonical = true) (s.request dev job vas kind bytes rep) := by
  rw [State.request]
  split
  · exact trivial
  · exact due_canonical (canonical_ite (toGroup_canonical (canonical_mk h)) (canonical_mk h))

theorem dropReq_canonical {s : State} {k : Nat} (h : s.canonical = true) : (s.dropReq k).canonical = true := canonical_mk h

theorem stale_canonical {s : State} {k : Nat} (h : s.canonical = true) : (s.stale k).canonical = true := count_canonical h

theorem request_tidy {dev job : Nat} {vas : List Nat} {kind : Nat} {bytes : List Byte} {rep : List Nat} :
    Tidy (request dev job vas kind bytes rep) := by
  unfold request
  intro s h
  refine ends_ite trivial ?_
  split
  · exact trivial
  next heq => exact (finds_some (request_canonical h) heq :)

theorem soFree_tidy {hs : List Hit} : Tidy (soFree hs) := fun _ h => ends_ite trivial h

theorem markSo_tidy {hs : List Hit} : Tidy (markSo hs) := updMe_tidy

/-! The reduction aperture (R305, R306). -/

theorem contribute_canonical {s : State} {die va : Nat} {b : Byte} (h : s.canonical = true) :
    (s.contribute die va b).canonical = true := by
  rw [State.contribute]
  split
  · exact count_canonical h
  · exact canonical_mk h

theorem performApert_canonical {s : State} {p : PendStore} (h : s.canonical = true) : (s.performApert p).canonical = true := by
  rw [State.performApert]
  split
  · exact canonical_foldl h (fun _ _ h1 => count_canonical h1) _
  · exact canonical_foldl h (fun _ _ h1 => contribute_canonical h1) _

/-! Dirty logs (R289). -/

theorem appendLog_canonical {s : State} {core job va : Nat} (h : s.canonical = true) :
    Finds (fun x => x.canonical = true) (s.appendLog core job va) :=
  finds_ite trivial (canonical_ite (hwSend_canonical (setNum_canonical (setNum_canonical h))) (setNum_canonical
    (setNum_canonical h)))

theorem logWrite_tidy {va : Nat} : Tidy (logWrite va) := by
  unfold logWrite
  intro s h
  dsimp only
  split
  · exact h
  · refine ends_ite h ?_
    split
    · exact h
    · split
      · exact trivial
      next heq2 => exact canonical_mk (finds_some (appendLog_canonical h) heq2 :)

/-! Stores. -/

theorem queueStore_tidy {p : PendStore} : Tidy (queueStore p) := fun _ h => ends_ite trivial (due_canonical (canonical_mk h))

theorem writeCells_tidy {tval : Word} {cs : List (Nat × Byte)} : Tidy (writeCells tval cs) := by
  unfold writeCells
  intro s h
  refine ends_ite trivial ?_
  split
  · exact setCells_canonical h
  · exact canonical_mk (logError_canonical (setCells_canonical h))

theorem logPages_tidy {hs : List Hit} {first last : Nat} : Tidy (logPages hs first last) := by
  unfold logPages
  split
  · exact keeps_ite (keeps_pure _) (keeps_bind logWrite_tidy fun _ => logWrite_tidy)
  · exact keeps_bind logWrite_tidy fun _ => logWrite_tidy

theorem writeRun_tidy {now : Bool} {w : Wait} {a : Addr} {hs : List Hit} {bs : List Byte} : Tidy (writeRun now w a hs bs) := by
  rw [writeRun]
  refine keeps_get fun _ _ => ?_
  split
  · exact keeps_pure _
  · split
    · exact keeps_ite trap_tidy queueStore_tidy
    · exact keeps_bind logPages_tidy fun _ => keeps_bind (upd_tidy (fun _ h2 => counted_canonical h2)) fun _ =>
        keeps_ite writeCells_tidy queueStore_tidy
    · exact keeps_bind logPages_tidy fun _ => keeps_ite (keeps_bind request_tidy fun _ => keeps_bind await_tidy fun _ =>
        keeps_bind (upd_tidy (fun _ h2 => openLine_canonical h2)) fun _ => markSo_tidy) queueStore_tidy

theorem writeHits_tidy {now : Bool} {w : Wait} {a : Addr} {hs : List Hit} {bs : List Byte} : Tidy (writeHits now w a hs bs) := by
  unfold writeHits
  split
  · exact keeps_pure _
  · exact keeps_bind writeRun_tidy fun _ => writeRun_tidy

/-! Elements that are read (R111, R113, R148, R298). -/

theorem readRun_tidy {tval : Word} {hs : List Hit} : Tidy (readRun tval hs) := by
  unfold readRun
  intro s h
  refine ends_ite trivial ?_
  refine ends_ite (ends_ite trivial h) ?_
  split
  next heq => exact (ends_ok (readHits_tidy _ h) heq :)
  · exact logError_canonical h
  next heq => exact (ends_error (readHits_tidy _ h) heq :)

theorem readRuns_tidy {tval : Word} {r : List (List Hit)} : Tidy (readRuns tval r) := by
  induction r with
  | nil =>
    rw [readRuns]
    exact keeps_pure _
  | cons _ _ ih =>
    rw [readRuns]
    exact keeps_bind readRun_tidy fun _ => keeps_bind ih fun _ => keeps_pure _

theorem readElem_tidy {tval : Word} {hs : List Hit} : Tidy (readElem tval hs) :=
  keeps_bind readRuns_tidy fun _ => keeps_pure _

theorem askRun_canonical {job : Nat} {one : Bool} {x : Bool × State} {r : Run} (hx : x.2.canonical = true) :
    (askRun job one x r).2.2.canonical = true := by
  rw [askRun]
  split
  · split
    next heq1 => exact (finds_some (request_canonical hx) heq1 :)
    · exact hx
  · exact hx

theorem askRuns_canonical {job : Nat} {one : Bool} {x : Bool × State} {r : List Run} (hx : x.2.canonical = true) :
    (askRuns job one x r).2.2.canonical = true := by
  induction r generalizing job one x with
  | nil =>
    rw [askRuns]
    exact hx
  | cons _ _ ih =>
    rw [askRuns]
    exact ih (askRun_canonical hx)

theorem askElems_canonical {job : Nat} {one : Bool} {x : Bool × State} {es : List (Option Elem)} (hx : x.2.canonical = true) :
    (askElems job one x es).2.2.canonical = true := by
  fun_induction askElems job one x es with
  | case1 => exact hx
  | case2 x l b ih => exact ih hx
  | case3 x e l a b ih => exact ih (askRuns_canonical hx)

theorem askAll_tidy {so : Bool} {els : List (Option Elem)} : Tidy (askAll so els) :=
  fun _ h => ends_ite trivial (askElems_canonical h)

/-! Releases (R338, Table 19.3). -/

theorem loadsDone_tidy : Tidy loadsDone := fun _ h => ends_ite trivial h

theorem storesDone_tidy : Tidy storesDone := fun _ h => ends_ite h trivial

theorem released_tidy : Tidy released := keeps_bind loadsDone_tidy fun _ => storesDone_tidy

theorem releasedSpan_tidy : Tidy releasedSpan := by
  rw [releasedSpan]
  refine keeps_bind released_tidy fun _ => ?_
  intro s h
  refine ends_ite trivial ?_
  split
  · exact trivial
  · exact h

theorem acquireSpan_canonical {s : State} {job : Nat} (h : s.canonical = true) : (s.acquireSpan job).canonical = true :=
  canonical_mk h

theorem acquireSpan_tidy : Tidy acquireSpan := fun _ h => acquireSpan_canonical h

/-! Migration by counter (R228). -/

theorem countAccess_tidy {h : Hit} : Tidy (countAccess h) := by
  unfold countAccess
  intro s h1
  split
  · exact ends_ite (ends_ite h1 (ends_ite (canonical_mk h1) (ends_ite (depart_canonical (canonical_mk h1))
      (canonical_mk h1)))) h1
  · exact h1

theorem nearHome_tidy {hs : List Hit} : Tidy (nearHome hs) := fun _ h => ends_ite trivial h

end Sys2Proof.Machine
end

section
/-! SUPPORT. Canonical memory is kept: registers and scalar instructions. -/

namespace Sys2Proof.Machine
open Sys2Proof.Num

/-! Addresses from registers. -/

theorem virt_tidy {a : Word} {o : Int} : Tidy (virt a o) := keeps_ite (keeps_pure _) vfault_tidy

theorem lineAddr_tidy {a : Word} {o : Int} : Tidy (lineAddr a o) := keeps_ite (keeps_pure _) virt_tidy

/-! Elements read and written at checked addresses. -/

theorem checkElems_tidy {right size : Nat} {r : List Addr} : Tidy (checkElems right size r) := by
  induction r with
  | nil =>
    rw [checkElems]
    exact keeps_pure _
  | cons _ _ ih =>
    rw [checkElems]
    exact keeps_bind aligned_tidy fun _ => keeps_bind check_tidy fun _ => keeps_bind ih fun _ => keeps_pure _

theorem readElems_tidy {as : List Addr} {hs : List (List Hit)} : Tidy (readElems as hs) := by
  fun_induction readElems as hs with
  | case1 a r h t ih => exact keeps_bind readHits_tidy fun _ => keeps_bind ih fun _ => keeps_pure _
  | case2 => exact keeps_pure _

theorem writeElems_tidy {size : Nat} {as : List Addr} {hs : List (List Hit)} {vs : List Nat} :
    Tidy (writeElems size as hs vs) := by
  fun_induction writeElems size as hs vs with
  | case1 a r h t v l ih => exact keeps_bind writeHits_tidy fun _ => ih
  | case2 => exact keeps_pure _

theorem drained_tidy : Tidy drained := fun _ h => ends_ite h trivial

theorem storeElems_tidy {size : Nat} {as : List Addr} {vs : List Nat} : Tidy (storeElems size as vs) :=
  keeps_bind checkElems_tidy fun _ => keeps_bind soFree_tidy fun _ => writeElems_tidy

/-! Home items (R73). -/

theorem atHome_tidy : Tidy atHome := fun _ h => ends_ite trivial h

theorem nearM_tidy : Tidy nearM := fun _ h => ends_ite trivial h

theorem settled_tidy {hit : Strand → Pending → Bool} : Tidy (settled hit) := by
  unfold settled
  intro s h
  beta_reduce
  split
  · exact h
  · split
    · exact trivial
    · exact trivial

/-! Scalar registers. -/

theorem addr_tidy {st : Stream} {e : Nat} : Tidy (st.addr e) := lineAddr_tidy

theorem addrsFrom_tidy {st : Stream} {r r1 : Nat} : Tidy (addrsFrom st r r1) := by
  induction r generalizing st r1 with
  | zero =>
    rw [addrsFrom]
    exact keeps_pure _
  | succ _ ih =>
    rw [addrsFrom]
    exact keeps_bind addr_tidy fun _ => keeps_bind ih fun _ => keeps_pure _

theorem bound_tidy {i : Fin 4} {out : Bool} : Tidy (bound i out) := by
  unfold bound
  intro s h
  beta_reduce
  split
  · exact ends_ite h trivial
  · exact trivial

theorem aheadOk_tidy {l : List Ahead} : Tidy (aheadOk l) := by
  fun_induction aheadOk l with
  | case1 => exact keeps_pure _
  | case2 => exact trap_tidy
  | case3 _ _ _ ih => exact ih

theorem popRest_tidy {size : Nat} {as : List Addr} : Tidy (popRest size as) :=
  keeps_bind checkElems_tidy fun _ => keeps_get fun _ _ => keeps_bind soFree_tidy fun _ =>
    keeps_ite (keeps_bind (stop_tidy trivial) fun _ => readElems_tidy) readElems_tidy

theorem popElems_tidy {i : Fin 4} {n : Nat} : Tidy (popElems i n) :=
  keeps_bind nearM_tidy fun _ => keeps_bind bound_tidy fun _ => keeps_ite illegalState_tidy
    (keeps_ite (keeps_bind (stop_tidy trivial) fun _ => keeps_bind aheadOk_tidy fun _ => keeps_bind addrsFrom_tidy fun _ =>
    keeps_bind popRest_tidy fun _ => keeps_bind updMe_tidy fun _ => keeps_pure _) (keeps_bind aheadOk_tidy fun _ =>
    keeps_bind addrsFrom_tidy fun _ => keeps_bind popRest_tidy fun _ => keeps_bind updMe_tidy fun _ => keeps_pure _))

theorem pushElems_tidy {i : Fin 4} {n : Nat} {vs : Ty → List Nat} : Tidy (pushElems i n vs) :=
  keeps_bind nearM_tidy fun _ => keeps_bind bound_tidy fun _ => keeps_ite illegalState_tidy (keeps_bind addrsFrom_tidy
    fun _ => keeps_bind storeElems_tidy fun _ => updMe_tidy)

theorem settledO_tidy : Tidy settledO := settled_tidy

theorem popQ_tidy : Tidy popQ := by
  rw [popQ]
  refine keeps_bind nearM_tidy fun _ => ?_
  refine keeps_get fun _ _ => ?_
  split
  · exact stop_tidy trivial
  · exact keeps_bind updMe_tidy fun _ => keeps_ite (keeps_bind acquireSpan_tidy fun _ => keeps_pure _) (keeps_pure _)

theorem rd_tidy {r : Reg} : Tidy (rd r) := by
  unfold rd
  split
  · exact keeps_bind nearM_tidy fun _ => keeps_bind settled_tidy fun _ => gets'_tidy
  · exact keeps_bind settled_tidy fun _ => gets'_tidy
  · exact keeps_bind settled_tidy fun _ => gets'_tidy
  · exact keeps_bind settled_tidy fun _ => gets'_tidy
  · exact keeps_pure _
  · exact keeps_bind popElems_tidy fun _ => keeps_pure _
  · exact popQ_tidy
  · exact keeps_bind settled_tidy fun _ => gets'_tidy

theorem rdOld_tidy {d : Reg} : Tidy (rdOld d) := by
  unfold rdOld
  split
  · exact illegalState_tidy
  · exact rd_tidy

theorem place_tidy {d : Reg} {v : Word} : Tidy (place d v) := by
  unfold place
  split
  · exact keeps_bind nearM_tidy fun _ => updMe_tidy
  · exact updMe_tidy
  · exact keeps_pure _
  · exact updMe_tidy
  · exact keeps_pure _
  · exact keeps_bind settled_tidy fun _ => pushElems_tidy
  · exact trap_tidy
  · exact updMe_tidy

theorem wr_tidy {d : Reg} {v : Word} : Tidy (wr d v) := keeps_bind updMe_tidy fun _ => place_tidy

theorem wrFar_tidy {d : Reg} {v : Word} : Tidy (wrFar d v) := by
  unfold wrFar
  split
  · exact updMe_tidy
  · exact wr_tidy

theorem getE_tidy {i : Fin 8} : Tidy (getE i) := gets'_tidy

/-! Line operands. -/

theorem settledK_tidy {i : Fin 8} : Tidy (settledK i) := settled_tidy

theorem getK_tidy {i : Fin 8} : Tidy (getK i) := keeps_bind atHome_tidy fun _ => keeps_bind settledK_tidy fun _ => gets'_tidy

theorem rdLine_tidy {r : LReg} : Tidy (rdLine r) := by
  unfold rdLine
  split
  · exact getK_tidy
  · exact keeps_bind bound_tidy fun _ => keeps_bind popElems_tidy fun _ => keeps_pure _

theorem rdLineOld_tidy {r : LReg} : Tidy (rdLineOld r) := by
  unfold rdLineOld
  split
  · exact getK_tidy
  · exact illegalState_tidy

theorem wrLine_tidy {r : LReg} {v : Line} : Tidy (wrLine r v) := by
  unfold wrLine
  split
  · exact keeps_bind atHome_tidy fun _ => keeps_bind settledK_tidy fun _ => updMe_tidy
  · exact keeps_bind settled_tidy fun _ => keeps_bind bound_tidy fun _ => pushElems_tidy

/-! Shared operations. -/

theorem op1_tidy {f : Word → Word} {d a : Reg} : Tidy (op1 f d a) := keeps_bind rd_tidy fun _ => wr_tidy

theorem op2_tidy {f : Word → Word → Word} {d a b : Reg} : Tidy (op2 f d a b) :=
  keeps_bind rd_tidy fun _ => keeps_bind rd_tidy fun _ => wr_tidy

theorem op3_tidy {f : Word → Word → Word → Word} {d a b : Reg} : Tidy (op3 f d a b) :=
  keeps_bind rd_tidy fun _ => keeps_bind rd_tidy fun _ => keeps_bind rdOld_tidy fun _ => wr_tidy

theorem cmp2_tidy {f : Word → Word → Bool} {pd : Pred} {a b : Reg} : Tidy (cmp2 f pd a b) :=
  keeps_bind rd_tidy fun _ => keeps_bind rd_tidy fun _ => setPred_tidy

theorem cmp1_tidy {f : Word → Bool} {pd : Pred} {a : Reg} : Tidy (cmp1 f pd a) := keeps_bind rd_tidy fun _ => setPred_tidy

theorem pred2_tidy {f : Bool → Bool → Bool} {pd pa pb : Pred} : Tidy (pred2 f pd pa pb) :=
  keeps_bind getPred_tidy fun _ => keeps_bind getPred_tidy fun _ => setPred_tidy

/-! INT (R76). -/

theorem execAdd_canonical {d a b : Reg} {g : Guard} {s : State} (h : s.canonical = true) : (execAdd d a b g s).canonical :=
  short_canonical op2_tidy h

theorem execSub_canonical {d a b : Reg} {g : Guard} {s : State} (h : s.canonical = true) : (execSub d a b g s).canonical :=
  short_canonical op2_tidy h

theorem execMul_canonical {d a b : Reg} {g : Guard} {s : State} (h : s.canonical = true) : (execMul d a b g s).canonical :=
  short_canonical op2_tidy h

theorem execMulh_canonical {d a b : Reg} {g : Guard} {s : State} (h : s.canonical = true) : (execMulh d a b g s).canonical :=
  short_canonical op2_tidy h

theorem execMulhn_canonical {d a b : Reg} {g : Guard} {s : State} (h : s.canonical = true) :
    (execMulhn d a b g s).canonical :=
  short_canonical op2_tidy h

theorem execDiv_canonical {d a b : Reg} {g : Guard} {r : Look} {s : State} (h : s.canonical = true) :
    (execDiv d a b g r s).canonical :=
  short_canonical op2_tidy h

theorem execDivn_canonical {d a b : Reg} {g : Guard} {r : Look} {s : State} (h : s.canonical = true) :
    (execDivn d a b g r s).canonical :=
  short_canonical op2_tidy h

theorem execRem_canonical {d a b : Reg} {g : Guard} {r : Look} {s : State} (h : s.canonical = true) :
    (execRem d a b g r s).canonical :=
  short_canonical op2_tidy h

/-! LOGIC and SHIFT (R77). -/

theorem execAnd_canonical {d a b : Reg} {g : Guard} {s : State} (h : s.canonical = true) : (execAnd d a b g s).canonical :=
  short_canonical op2_tidy h

theorem execOr_canonical {d a b : Reg} {g : Guard} {s : State} (h : s.canonical = true) : (execOr d a b g s).canonical :=
  short_canonical op2_tidy h

theorem execXor_canonical {d a b : Reg} {g : Guard} {s : State} (h : s.canonical = true) : (execXor d a b g s).canonical :=
  short_canonical op2_tidy h

theorem execAndn_canonical {d a b : Reg} {g : Guard} {s : State} (h : s.canonical = true) : (execAndn d a b g s).canonical :=
  short_canonical op2_tidy h

theorem execOrn_canonical {d a b : Reg} {g : Guard} {s : State} (h : s.canonical = true) : (execOrn d a b g s).canonical :=
  short_canonical op2_tidy h

theorem execXnor_canonical {d a b : Reg} {g : Guard} {s : State} (h : s.canonical = true) : (execXnor d a b g s).canonical :=
  short_canonical op2_tidy h

theorem execMin_canonical {d a b : Reg} {g : Guard} {s : State} (h : s.canonical = true) : (execMin d a b g s).canonical :=
  short_canonical op2_tidy h

theorem execMax_canonical {d a b : Reg} {g : Guard} {s : State} (h : s.canonical = true) : (execMax d a b g s).canonical :=
  short_canonical op2_tidy h

theorem execShl_canonical {d a b : Reg} {g : Guard} {s : State} (h : s.canonical = true) : (execShl d a b g s).canonical :=
  short_canonical op2_tidy h

theorem execShr_canonical {d a b : Reg} {g : Guard} {s : State} (h : s.canonical = true) : (execShr d a b g s).canonical :=
  short_canonical op2_tidy h

theorem execSha_canonical {d a b : Reg} {g : Guard} {s : State} (h : s.canonical = true) : (execSha d a b g s).canonical :=
  short_canonical op2_tidy h

theorem execRot_canonical {d a b : Reg} {g : Guard} {s : State} (h : s.canonical = true) : (execRot d a b g s).canonical :=
  short_canonical op2_tidy h

theorem execMinn_canonical {d a b : Reg} {g : Guard} {s : State} (h : s.canonical = true) : (execMinn d a b g s).canonical :=
  short_canonical op2_tidy h

theorem execMaxn_canonical {d a b : Reg} {g : Guard} {s : State} (h : s.canonical = true) : (execMaxn d a b g s).canonical :=
  short_canonical op2_tidy h

theorem execClz_canonical {d a : Reg} {g : Guard} {s : State} (h : s.canonical = true) : (execClz d a g s).canonical :=
  short_canonical op1_tidy h

theorem execPopc_canonical {d a : Reg} {g : Guard} {s : State} (h : s.canonical = true) : (execPopc d a g s).canonical :=
  short_canonical op1_tidy h

/-! BITS, LUT3, FSL, FSR (R78, R79). -/

theorem execBext_canonical {d a b : Reg} {g : Guard} {s : State} (h : s.canonical = true) : (execBext d a b g s).canonical :=
  short_canonical op2_tidy h

theorem execBdep_canonical {d a b : Reg} {g : Guard} {s : State} (h : s.canonical = true) : (execBdep d a b g s).canonical :=
  short_canonical op2_tidy h

theorem execBrev_canonical {d a : Reg} {g : Guard} {s : State} (h : s.canonical = true) : (execBrev d a g s).canonical :=
  short_canonical op1_tidy h

theorem execScadd_canonical {d a b : Reg} {g : Guard} {s : State} (h : s.canonical = true) :
    (execScadd d a b g s).canonical :=
  short_canonical op2_tidy h

theorem execSel_canonical {d a b : Reg} {g : Guard} {s : State} (h : s.canonical = true) : (execSel d a b g s).canonical :=
  short_canonical op3_tidy h

theorem execLut3_canonical {d a b : Reg} {tbl : BitVec 8} {s : State} (h : s.canonical = true) :
    (execLut3 d a b tbl s).canonical :=
  short_canonical op3_tidy h

theorem execFsl_canonical {d a b : Reg} {n : BitVec 6} {s : State} (h : s.canonical = true) : (execFsl d a b n s).canonical :=
  short_canonical op2_tidy h

theorem execFsr_canonical {d a b : Reg} {n : BitVec 6} {s : State} (h : s.canonical = true) : (execFsr d a b n s).canonical :=
  short_canonical op2_tidy h

/-! CMP and PRED (R80, R81). -/

theorem execCmpeq_canonical {pd : Pred} {a b : Reg} {g : Guard} {s : State} (h : s.canonical = true) :
    (execCmpeq pd a b g s).canonical :=
  short_canonical cmp2_tidy h

theorem execCmpne_canonical {pd : Pred} {a b : Reg} {g : Guard} {s : State} (h : s.canonical = true) :
    (execCmpne pd a b g s).canonical :=
  short_canonical cmp2_tidy h

theorem execCmplt_canonical {pd : Pred} {a b : Reg} {g : Guard} {s : State} (h : s.canonical = true) :
    (execCmplt pd a b g s).canonical :=
  short_canonical cmp2_tidy h

theorem execCmple_canonical {pd : Pred} {a b : Reg} {g : Guard} {s : State} (h : s.canonical = true) :
    (execCmple pd a b g s).canonical :=
  short_canonical cmp2_tidy h

theorem execCmpltn_canonical {pd : Pred} {a b : Reg} {g : Guard} {s : State} (h : s.canonical = true) :
    (execCmpltn pd a b g s).canonical :=
  short_canonical cmp2_tidy h

theorem execCmplen_canonical {pd : Pred} {a b : Reg} {g : Guard} {s : State} (h : s.canonical = true) :
    (execCmplen pd a b g s).canonical :=
  short_canonical cmp2_tidy h

theorem execTst_canonical {pd : Pred} {a b : Reg} {g : Guard} {s : State} (h : s.canonical = true) :
    (execTst pd a b g s).canonical :=
  short_canonical cmp2_tidy h

theorem execPand_canonical {pd pa pb : Pred} {g : Guard} {s : State} (h : s.canonical = true) :
    (execPand pd pa pb g s).canonical :=
  short_canonical pred2_tidy h

theorem execPor_canonical {pd pa pb : Pred} {g : Guard} {s : State} (h : s.canonical = true) :
    (execPor pd pa pb g s).canonical :=
  short_canonical pred2_tidy h

theorem execPxor_canonical {pd pa pb : Pred} {g : Guard} {s : State} (h : s.canonical = true) :
    (execPxor pd pa pb g s).canonical :=
  short_canonical pred2_tidy h

theorem execPnot_canonical {pd pa : Pred} {g : Guard} {s : State} (h : s.canonical = true) : (execPnot pd pa g s).canonical :=
  short_canonical pred2_tidy h

/-! Immediate forms, LUI and ADDPC (R82, R83). -/

theorem execAddi_canonical {d a : Reg} {imm : BitVec 12} {g : Guard} {s : State} (h : s.canonical = true) :
    (execAddi d a imm g s).canonical :=
  short_canonical op1_tidy h

theorem execAndi_canonical {d a : Reg} {imm : BitVec 12} {g : Guard} {s : State} (h : s.canonical = true) :
    (execAndi d a imm g s).canonical :=
  short_canonical op1_tidy h

theorem execOri_canonical {d a : Reg} {imm : BitVec 12} {g : Guard} {s : State} (h : s.canonical = true) :
    (execOri d a imm g s).canonical :=
  short_canonical op1_tidy h

theorem execXori_canonical {d a : Reg} {imm : BitVec 12} {g : Guard} {s : State} (h : s.canonical = true) :
    (execXori d a imm g s).canonical :=
  short_canonical op1_tidy h

theorem execShli_canonical {d a : Reg} {n : BitVec 6} {g : Guard} {s : State} (h : s.canonical = true) :
    (execShli d a n g s).canonical :=
  short_canonical op1_tidy h

theorem execShri_canonical {d a : Reg} {n : BitVec 6} {g : Guard} {s : State} (h : s.canonical = true) :
    (execShri d a n g s).canonical :=
  short_canonical op1_tidy h

theorem execShai_canonical {d a : Reg} {n : BitVec 6} {g : Guard} {s : State} (h : s.canonical = true) :
    (execShai d a n g s).canonical :=
  short_canonical op1_tidy h

theorem execCmpeqi_canonical {pd : Pred} {a : Reg} {imm : BitVec 10} {g : Guard} {s : State} (h : s.canonical = true) :
    (execCmpeqi pd a imm g s).canonical :=
  short_canonical cmp1_tidy h

theorem execCmplti_canonical {pd : Pred} {a : Reg} {imm : BitVec 10} {g : Guard} {s : State} (h : s.canonical = true) :
    (execCmplti pd a imm g s).canonical :=
  short_canonical cmp1_tidy h

theorem execCmpltni_canonical {pd : Pred} {a : Reg} {imm : BitVec 10} {g : Guard} {s : State} (h : s.canonical = true) :
    (execCmpltni pd a imm g s).canonical :=
  short_canonical cmp1_tidy h

theorem execLui_canonical {d : Reg} {imm : BitVec 20} {s : State} (h : s.canonical = true) : (execLui d imm s).canonical :=
  short_canonical wr_tidy h

theorem execAddpc_canonical {d : Reg} {imm : BitVec 20} {s : State} (h : s.canonical = true) :
    (execAddpc d imm s).canonical :=
  short_canonical wr_tidy h

/-! Compact aliases. -/

theorem execCompactMov_canonical {d a : Reg} {s : State} (h : s.canonical = true) : (execCompactMov d a s).canonical :=
  short_canonical op2_tidy h

theorem execCompactAdd_canonical {d a : Reg} {s : State} (h : s.canonical = true) : (execCompactAdd d a s).canonical :=
  short_canonical op2_tidy h

theorem execCompactSub_canonical {d a : Reg} {s : State} (h : s.canonical = true) : (execCompactSub d a s).canonical :=
  short_canonical op2_tidy h

theorem execCompactAnd_canonical {d a : Reg} {s : State} (h : s.canonical = true) : (execCompactAnd d a s).canonical :=
  short_canonical op2_tidy h

theorem execCompactOr_canonical {d a : Reg} {s : State} (h : s.canonical = true) : (execCompactOr d a s).canonical :=
  short_canonical op2_tidy h

theorem execCompactXor_canonical {d a : Reg} {s : State} (h : s.canonical = true) : (execCompactXor d a s).canonical :=
  short_canonical op2_tidy h

theorem execCompactAndn_canonical {d a : Reg} {s : State} (h : s.canonical = true) : (execCompactAndn d a s).canonical :=
  short_canonical op2_tidy h

theorem execCompactShl_canonical {d a : Reg} {s : State} (h : s.canonical = true) : (execCompactShl d a s).canonical :=
  short_canonical op2_tidy h

theorem execCompactShr_canonical {d a : Reg} {s : State} (h : s.canonical = true) : (execCompactShr d a s).canonical :=
  short_canonical op2_tidy h

theorem execCompactSha_canonical {d a : Reg} {s : State} (h : s.canonical = true) : (execCompactSha d a s).canonical :=
  short_canonical op2_tidy h

theorem execCompactAddi_canonical {d : Reg} {imm : BitVec 5} {s : State} (h : s.canonical = true) :
    (execCompactAddi d imm s).canonical :=
  short_canonical op1_tidy h

theorem execCompactShli_canonical {d : Reg} {imm : BitVec 5} {s : State} (h : s.canonical = true) :
    (execCompactShli d imm s).canonical :=
  short_canonical op1_tidy h

theorem execCompactShri_canonical {d : Reg} {imm : BitVec 5} {s : State} (h : s.canonical = true) :
    (execCompactShri d imm s).canonical :=
  short_canonical op1_tidy h

theorem execCompactShai_canonical {d : Reg} {imm : BitVec 5} {s : State} (h : s.canonical = true) :
    (execCompactShai d imm s).canonical :=
  short_canonical op1_tidy h

theorem execCompactMovi_canonical {d : Reg} {imm : BitVec 5} {s : State} (h : s.canonical = true) :
    (execCompactMovi d imm s).canonical :=
  short_canonical op1_tidy h

theorem execCompactCmpeq_canonical {d a : Reg} {s : State} (h : s.canonical = true) : (execCompactCmpeq d a s).canonical :=
  short_canonical cmp2_tidy h

theorem execCompactCmplt_canonical {d a : Reg} {s : State} (h : s.canonical = true) : (execCompactCmplt d a s).canonical :=
  short_canonical cmp2_tidy h

theorem execCompactCmpltn_canonical {d a : Reg} {s : State} (h : s.canonical = true) : (execCompactCmpltn d a s).canonical :=
  short_canonical cmp2_tidy h

/-! Branches, calls, returns and loops (R90-R93), with the window of the main file (R62-R64). -/

theorem jump_tidy {a : BitVec 48} : Tidy (jump a) := updMe_tidy

theorem here_tidy {n : Nat} : Tidy (here n) := gets'_tidy

/-! Branches, calls, returns and loops (R90-R93), with the window of the main file (R62-R64). -/

theorem branchTo_tidy {off : Int} : Tidy (branchTo off) := keeps_bind here_tidy fun _ => jump_tidy

theorem target_tidy {v : Word} : Tidy (target v) := keeps_ite trap_tidy (keeps_pure _)

/-! The window file. -/

theorem spillOldest_tidy : Tidy spillOldest :=
  keeps_get fun _ _ => keeps_ite (stop_tidy trivial) (keeps_ite illegalState_tidy (keeps_bind writeCells_tidy fun _ =>
    updMe_tidy))

theorem newFrame_tidy {f : Nat} : Tidy (newFrame f) :=
  keeps_get fun _ _ => keeps_ite (keeps_bind spillOldest_tidy fun _ => updMe_tidy) updMe_tidy

theorem fillFrame_tidy {f : Nat} : Tidy (fillFrame f) := by
  rw [fillFrame]
  refine keeps_get fun _ _ => ?_
  refine keeps_ite (keeps_pure _) ?_
  dsimp only
  split
  · exact stop_tidy trivial
  · exact updMe_tidy

theorem callTo_tidy {tgt : BitVec 48} : Tidy (callTo tgt) :=
  keeps_bind atHome_tidy fun _ => keeps_get fun _ _ => keeps_bind (need_tidy illegalState_tidy) fun _ =>
    keeps_bind newFrame_tidy fun _ => keeps_bind place_tidy fun _ => updMe_tidy

theorem returnFrom_tidy : Tidy returnFrom :=
  keeps_bind atHome_tidy fun _ => keeps_get fun _ _ => keeps_bind (need_tidy illegalState_tidy) fun _ =>
    keeps_bind rd_tidy fun _ => keeps_bind target_tidy fun _ => keeps_bind fillFrame_tidy fun _ => updMe_tidy

/-! Meanings. -/

theorem execBr_canonical {p : Pred} {off : BitVec 20} {s : State} (h : s.canonical = true) : (execBr p off s).canonical :=
  short_canonical (keeps_bind getPred_tidy fun _ => keeps_ite branchTo_tidy (keeps_pure _)) h

theorem execBrF_canonical {p : Pred} {off : BitVec 20} {s : State} (h : s.canonical = true) : (execBrF p off s).canonical :=
  short_canonical (keeps_bind getPred_tidy fun _ => keeps_ite (keeps_pure _) branchTo_tidy) h

theorem execCall_canonical {off : BitVec 25} {s : State} (h : s.canonical = true) : (execCall off s).canonical :=
  short_canonical (keeps_bind here_tidy fun _ => callTo_tidy) h

theorem execJr_canonical {a : Reg} {g : Guard} {s : State} (h : s.canonical = true) : (execJr a g s).canonical :=
  short_canonical (keeps_bind rd_tidy fun _ => keeps_bind target_tidy fun _ => jump_tidy) h

theorem execCallr_canonical {a : Reg} {g : Guard} {s : State} (h : s.canonical = true) : (execCallr a g s).canonical :=
  short_canonical (keeps_bind atHome_tidy fun _ => keeps_bind rd_tidy fun _ => keeps_bind target_tidy fun _ => callTo_tidy) h

theorem execRet_canonical {g : Guard} {s : State} (h : s.canonical = true) : (execRet g s).canonical :=
  short_canonical returnFrom_tidy h

theorem execLoop_canonical {d : Reg} {off : BitVec 12} {g : Guard} {s : State} (h : s.canonical = true) :
    (execLoop d off g s).canonical :=
  short_canonical (keeps_bind rdOld_tidy fun _ => keeps_bind wr_tidy fun _ => keeps_ite (keeps_pure _) branchTo_tidy) h

theorem execCompactRet_canonical {s : State} (h : s.canonical = true) : (execCompactRet s).canonical :=
  short_canonical returnFrom_tidy h

theorem execSrd_canonical {d : Reg} {r : SReg} {g : Guard} {s : State} (h : s.canonical = true) :
    (execSrd d r g s).canonical :=
  short_canonical (keeps_ite (keeps_bind gets'_tidy fun _ => wr_tidy) (keeps_bind atHome_tidy fun _ =>
    keeps_bind gets'_tidy fun _ => wr_tidy)) h

theorem execSwr_canonical {r : SReg} {a : Reg} {g : Guard} {s : State} (h : s.canonical = true) :
    (execSwr r a g s).canonical :=
  atLevel_canonical (fun _ h1 => short_canonical (keeps_ite (keeps_bind rd_tidy fun _ => updMe_tidy) (keeps_bind atHome_tidy
    fun _ => keeps_bind rd_tidy fun _ => updMe_tidy)) h1) h

theorem execExt_canonical {k : Fin 8} {a : Reg} {g : Guard} {s : State} (h : s.canonical = true) :
    (execExt k a g s).canonical :=
  short_canonical (keeps_bind rd_tidy fun _ => updMe_tidy) h

theorem execRdcyc_canonical {d : Reg} {s : State} (h : s.canonical = true) : (execRdcyc d s).canonical :=
  short_canonical (keeps_bind gets'_tidy fun _ => wr_tidy) h

theorem execNop_canonical {s : State} (h : s.canonical = true) : (execNop s).canonical := short_canonical (keeps_pure _) h

theorem execCompactNop_canonical {s : State} (h : s.canonical = true) : (execCompactNop s).canonical :=
  short_canonical (keeps_pure _) h

theorem execIdle_canonical {s : State} (h : s.canonical = true) : (execIdle s).canonical := by
  rw [execIdle]
  refine short_canonical ?_ h
  refine keeps_bind atHome_tidy fun _ => ?_
  refine keeps_get fun _ _ => ?_
  refine keeps_ite (keeps_pure _) ?_
  split
  · exact stop_tidy trivial
  · exact keeps_ite updMe_tidy (stop_tidy trivial)

theorem execTrap_canonical {code : BitVec 9} {s : State} (h : s.canonical = true) : (execTrap code s).canonical :=
  short_canonical (keeps_bind atHome_tidy fun _ => keeps_get fun _ _ => keeps_ite (stop_tidy trivial)
    (keeps_ite (stop_tidy trivial) (keeps_bind here_tidy fun _ => upd_tidy (fun _ h2 => takeTrap_canonical h2)))) h

theorem execRte_canonical {s : State} (h : s.canonical = true) : (execRte s).canonical :=
  short_canonical (keeps_bind atHome_tidy fun _ => keeps_get fun _ _ => keeps_bind (need_tidy trap_tidy) fun _ => updMe_tidy)
    h

/-! The ends of waits. -/

theorem arrive_tidy {depth : Nat} {d : Reg} {v : Word} : Tidy (arrive depth d v) := by
  unfold arrive
  split
  · exact updMe_tidy
  · exact updMe_tidy
  · exact updMe_tidy
  · exact place_tidy
  · exact place_tidy
  · exact place_tidy
  · exact place_tidy
  · exact place_tidy

theorem arriveAll_tidy {depth : Nat} {ds : List Reg} {vs : List Word} : Tidy (arriveAll depth ds vs) := by
  fun_induction arriveAll depth ds vs with
  | case1 d r v l ih => exact keeps_bind arrive_tidy fun _ => ih
  | case2 => exact keeps_pure _

theorem deliver_tidy {p : Pending} {vs : List Word} : Tidy (deliver p vs) := keeps_bind updMe_tidy fun _ => arriveAll_tidy

theorem swapPend_canonical {s : State} {p q : Pending} (h : s.canonical = true) : (s.swapPend p q).canonical = true :=
  canonical_mk h

theorem undelivered_canonical {s : State} {p : Pending} {again : Owe} {r : Stop} (h : s.canonical = true) :
    (undelivered s p again r).canonical = true := by
  unfold undelivered
  split
  · exact swapPend_canonical h
  · exact swapPend_canonical h
  · exact swapPend_canonical (logError_canonical h)
  · exact goHome_canonical (swapPend_canonical h)
  · exact swapPend_canonical h

theorem complete_canonical {s : State} {p : Pending} {t : Strand} {vs : List Word} (h : s.canonical = true) :
    (complete s p t vs).canonical = true := by
  rw [complete]
  split
  next heq => exact (ends_ok (deliver_tidy _ (canonical_mk h)) heq :)
  · exact undelivered_canonical h

theorem completeNow_canonical {s : State} {p : Pending} {t : Strand} (h : s.canonical = true) :
    (completeNow s p t).canonical = true := by
  rw [completeNow]
  split
  · exact canonical_mk h
  · exact complete_canonical h

theorem storeTrap_canonical {s : State} {cls : Nat} {a : Word} (h : s.canonical = true) :
    (s.storeTrap cls a).canonical = true :=
  canonical_ite (takeOwed_canonical h) (raise_canonical (canonical_mk h))

theorem execTrapEntry_canonical {s : State} (h : s.canonical = true) : (execTrapEntry s).canonical := takeOwed_canonical h

theorem execWatchdogExpiry_canonical {s : State} (h : s.canonical = true) : (execWatchdogExpiry s).canonical :=
  hwSend_canonical (canonical_mk h)

end Sys2Proof.Machine
end

section
/-! SUPPORT. Canonical memory is kept: loads, stores, reservations, fences, handles, waits and barriers. -/

namespace Sys2Proof.Machine
open Sys2Proof.Num

/-! Scalar loads and stores (R125, R126, R128). -/

theorem destOk_tidy {d : Reg} : Tidy (destOk d) := by
  unfold destOk
  split
  · exact nearM_tidy
  · exact keeps_bind atHome_tidy fun _ => keeps_bind bound_tidy fun _ => settled_tidy
  · exact keeps_pure _

theorem destsOk_tidy {r : List Reg} : Tidy (destsOk r) := by
  induction r with
  | nil =>
    rw [destsOk]
    exact keeps_pure _
  | cons _ _ ih =>
    rw [destsOk]
    exact keeps_bind destOk_tidy fun _ => ih

theorem wrAll_tidy {ds : List Reg} {vs : List Word} : Tidy (wrAll ds vs) := by
  fun_induction wrAll ds vs with
  | case1 d r v l ih => exact keeps_bind wr_tidy fun _ => ih
  | case2 => exact keeps_pure _

theorem countFirst_tidy {hs : List Hit} : Tidy (countFirst hs) := by
  unfold countFirst
  split
  · exact keeps_pure _
  · exact countAccess_tidy

theorem loadAt_tidy {ds : List Reg} {size : Nat} {sx : Bool} {la : Nat} {a : Addr} : Tidy (loadAt ds size sx la a) :=
  keeps_bind check_tidy fun _ => keeps_bind nearHome_tidy fun _ => keeps_bind soFree_tidy fun _ => keeps_get fun _ _ =>
    keeps_ite (keeps_bind destsOk_tidy fun _ => keeps_bind readElem_tidy fun _ => keeps_bind askAll_tidy fun _ =>
    keeps_bind await_tidy fun _ => keeps_bind markSo_tidy fun _ => countFirst_tidy) (keeps_bind readHits_tidy fun _ =>
    keeps_bind wrAll_tidy fun _ => countFirst_tidy)

theorem storeAt_tidy {la : Nat} {bs : List Byte} {a : Addr} : Tidy (storeAt la bs a) :=
  keeps_bind check_tidy fun _ => keeps_bind nearHome_tidy fun _ => keeps_bind soFree_tidy fun _ => keeps_bind writeHits_tidy
    fun _ => countFirst_tidy

theorem execLd_canonical {d a : Reg} {off : BitVec 8} {sz : ASize} {sx : Bool} {la : Look} {s : State}
    (h : s.canonical = true) :
    (execLd d a off sz sx la s).canonical :=
  long_canonical (keeps_bind rd_tidy fun _ => keeps_bind virt_tidy fun _ => loadAt_tidy) h

theorem execSt_canonical {d a : Reg} {off : BitVec 8} {sz : ASize} {la : Look} {s : State} (h : s.canonical = true) :
    (execSt d a off sz la s).canonical :=
  long_canonical (keeps_bind rd_tidy fun _ => keeps_bind rd_tidy fun _ => keeps_bind virt_tidy fun _ => storeAt_tidy) h

theorem execLda_canonical {d a : Reg} {off : BitVec 8} {sz : ASize} {pair : Bool} {la : Look} {s : State}
    (h : s.canonical = true) :
    (execLda d a off sz pair la s).canonical :=
  long_canonical (keeps_bind rd_tidy fun _ => keeps_bind virt_tidy fun _ => keeps_bind aligned_tidy fun _ => loadAt_tidy) h

theorem execSta_canonical {d a : Reg} {off : BitVec 8} {sz : ASize} {pair : Bool} {la : Look} {s : State}
    (h : s.canonical = true) :
    (execSta d a off sz pair la s).canonical :=
  long_canonical (keeps_bind rd_tidy fun _ => keeps_bind rd_tidy fun _ => keeps_ite (keeps_bind rd_tidy fun _ =>
    keeps_bind virt_tidy fun _ => keeps_bind aligned_tidy fun _ => keeps_bind (need_tidy trap_tidy) fun _ => storeAt_tidy)
    (keeps_bind (keeps_pure _) fun _ => keeps_bind virt_tidy fun _ => keeps_bind aligned_tidy fun _ =>
    keeps_bind (need_tidy trap_tidy) fun _ => storeAt_tidy)) h

theorem execLdl_canonical {d a : Reg} {off : BitVec 8} {sz : ASize} {sx : Bool} {la : Look} {s : State}
    (h : s.canonical = true) :
    (execLdl d a off sz sx la s).canonical :=
  long_canonical (keeps_bind rd_tidy fun _ => loadAt_tidy) h

theorem execStl_canonical {d a : Reg} {off : BitVec 8} {sz : ASize} {la : Look} {s : State} (h : s.canonical = true) :
    (execStl d a off sz la s).canonical :=
  long_canonical (keeps_bind rd_tidy fun _ => keeps_bind rd_tidy fun _ => storeAt_tidy) h

theorem execLdx_canonical {d a b : Reg} {g : Guard} {la : Look} {s : State} (h : s.canonical = true) :
    (execLdx d a b g la s).canonical :=
  long_canonical (keeps_bind rd_tidy fun _ => keeps_bind rd_tidy fun _ => keeps_bind virt_tidy fun _ => loadAt_tidy) h

theorem execStx_canonical {d a b : Reg} {g : Guard} {la : Look} {s : State} (h : s.canonical = true) :
    (execStx d a b g la s).canonical :=
  long_canonical (keeps_bind rd_tidy fun _ => keeps_bind rd_tidy fun _ => keeps_bind rd_tidy fun _ =>
    keeps_bind virt_tidy fun _ => storeAt_tidy) h

theorem execCompactLdl_canonical {d a : Reg} {s : State} (h : s.canonical = true) : (execCompactLdl d a s).canonical :=
  long_canonical (keeps_bind rd_tidy fun _ => loadAt_tidy) h

theorem execCompactStl_canonical {d a : Reg} {s : State} (h : s.canonical = true) : (execCompactStl d a s).canonical :=
  long_canonical (keeps_bind rd_tidy fun _ => keeps_bind rd_tidy fun _ => storeAt_tidy) h

/-! The remote line add (R134). -/

theorem atomicHits_tidy {a : Addr} : Tidy (atomicHits a) := keeps_bind aligned_tidy fun _ => check_tidy

theorem readWord_tidy {a : Addr} {hs : List Hit} : Tidy (readWord a hs) := keeps_bind readHits_tidy fun _ => keeps_pure _

theorem amoAt_tidy {op : Nat} {a : Addr} {b c : Word} {hs : List Hit} : Tidy (amoAt op a b c hs) :=
  keeps_bind readWord_tidy fun _ => keeps_ite (keeps_bind gets'_tidy fun _ => keeps_bind logWrite_tidy fun _ =>
    keeps_bind writeCells_tidy fun _ => keeps_pure _) (keeps_pure _)

/-! Reservation queues (R132). -/

theorem hold_canonical {s : State} {line : Nat} (h : s.canonical = true) : (s.hold line).canonical = true := canonical_mk h

theorem queueUp_canonical {s : State} {sid line : Nat} (h : s.canonical = true) : (s.queueUp sid line).canonical = true := by
  rw [State.queueUp]
  split
  · exact canonical_mk h
  · exact canonical_mk h

theorem grantRead_canonical {p : Pending} {ea : Addr} {line : Nat} {s : State} (h : s.canonical = true) :
    (grantRead p ea line s).canonical = true := by
  rw [grantRead]
  split
  next heq => exact canonical_mk (ends_ok ((keeps_bind atomicHits_tidy fun _ => readWord_tidy) _ (hold_canonical h)) heq :)
  · exact canonical_mk (passOn_canonical (hold_canonical (logError_canonical (canonical_mk h))))
  · exact canonical_mk (passOn_canonical (hold_canonical (canonical_mk h)))
  · exact canonical_mk h

theorem reserveAt_canonical {p : Pending} {ea : Addr} {core line : Nat} {s : State} (h : s.canonical = true) :
    (reserveAt p ea core line s).canonical = true := by
  rw [reserveAt]
  refine canonical_ite (canonical_mk (canonical_mk h)) ?_
  split
  · exact canonical_ite (queueUp_canonical (canonical_mk h)) (grantRead_canonical h)
  · exact grantRead_canonical h

theorem performAt_canonical {p : Pending} {op : Nat} {ea b c : Word} {t : Strand} {s : State} (h : s.canonical = true) :
    Finds (fun x => x.canonical = true) (performAt p op ea b c t s) := by
  rw [performAt]
  refine finds_ite ?_ ?_
  · split
    next heq => exact reserveAt_canonical (ends_ok (atomicHits_tidy _ (canonical_mk h)) heq :)
    · exact canonical_mk h
    · exact canonical_mk h
    · exact trivial
  · split
    next heq => exact canonical_mk (ends_ok ((keeps_bind atomicHits_tidy fun _ => amoAt_tidy) _ (canonical_mk h)) heq :)
    · exact canonical_mk h
    · exact canonical_mk h
    · exact logError_canonical (canonical_mk h)
    · exact trivial

theorem carried_canonical {s : State} (h : s.canonical = true) : Finds (fun x => x.canonical = true) s.carried := by
  rw [State.carried]
  split
  · exact h
  · split
    · exact performAt_canonical h
    · exact h

theorem farDest_tidy {d : Reg} : Tidy (farDest d) := by
  unfold farDest
  split
  · exact keeps_bind atHome_tidy fun _ => keeps_bind bound_tidy fun _ => keeps_pure _
  · exact keeps_pure _

theorem askAtomic_tidy {kind : Nat} {bs : List Byte} {va : Nat} {hs : List Hit} : Tidy (askAtomic kind bs va hs) :=
  keeps_get fun _ _ => keeps_bind logWrite_tidy fun _ => request_tidy

theorem atomicGo_tidy {op : Nat} {d : Reg} {a : Addr} {b c : Word} : Tidy (atomicGo op d a b c) := by
  rw [atomicGo]
  refine keeps_bind atomicHits_tidy fun _ => ?_
  refine keeps_bind soFree_tidy fun _ => ?_
  refine keeps_get fun _ _ => ?_
  split
  · exact keeps_pure _
  · split
    · refine keeps_bind (need_tidy illegalState_tidy) fun _ => ?_
      refine keeps_ite ?_ ?_
      · refine keeps_bind (stop_tidy trivial) fun _ => ?_
        refine keeps_bind farDest_tidy fun _ => ?_
        refine keeps_ite ?_ (keeps_bind settledAll_tidy fun _ => keeps_bind await_tidy fun _ => upd_tidy (fun _ h2 =>
          depart_canonical h2))
        refine keeps_ite ?_ (keeps_bind amoAt_tidy fun _ => wrFar_tidy)
        refine keeps_bind await_tidy fun _ => ?_
        intro s1 h2
        beta_reduce
        split
        · exact trivial
        · exact reserveAt_canonical (canonical_mk h2)
      · refine keeps_bind farDest_tidy fun _ => ?_
        refine keeps_ite ?_ (keeps_bind settledAll_tidy fun _ => keeps_bind await_tidy fun _ => upd_tidy (fun _ h2 =>
          depart_canonical h2))
        refine keeps_ite ?_ (keeps_bind amoAt_tidy fun _ => wrFar_tidy)
        refine keeps_bind await_tidy fun _ => ?_
        intro s1 h2
        beta_reduce
        split
        · exact trivial
        · exact reserveAt_canonical (canonical_mk h2)
    · exact keeps_bind farDest_tidy fun _ => keeps_bind askAtomic_tidy fun _ => keeps_bind await_tidy fun _ => markSo_tidy
    · exact keeps_bind farDest_tidy fun _ => keeps_bind askAtomic_tidy fun _ => keeps_bind await_tidy fun _ => markSo_tidy
    · exact trap_tidy

theorem amo_tidy {op : Nat} {d a b : Reg} : Tidy (amo op d a b) :=
  keeps_bind rd_tidy fun _ => keeps_bind rd_tidy fun _ => keeps_bind getE_tidy fun _ => keeps_bind virt_tidy fun _ =>
    atomicGo_tidy

/-! Reservation queues (R132). -/

theorem execAmoadd_canonical {d a b : Reg} {g : Guard} {r : Look} {s : State} (h : s.canonical = true) :
    (execAmoadd d a b g r s).canonical :=
  short_canonical amo_tidy h

theorem execAmoand_canonical {d a b : Reg} {g : Guard} {r : Look} {s : State} (h : s.canonical = true) :
    (execAmoand d a b g r s).canonical :=
  short_canonical amo_tidy h

theorem execAmoor_canonical {d a b : Reg} {g : Guard} {r : Look} {s : State} (h : s.canonical = true) :
    (execAmoor d a b g r s).canonical :=
  short_canonical amo_tidy h

theorem execAmoxor_canonical {d a b : Reg} {g : Guard} {r : Look} {s : State} (h : s.canonical = true) :
    (execAmoxor d a b g r s).canonical :=
  short_canonical amo_tidy h

theorem execAmomin_canonical {d a b : Reg} {g : Guard} {r : Look} {s : State} (h : s.canonical = true) :
    (execAmomin d a b g r s).canonical :=
  short_canonical amo_tidy h

theorem execAmomax_canonical {d a b : Reg} {g : Guard} {r : Look} {s : State} (h : s.canonical = true) :
    (execAmomax d a b g r s).canonical :=
  short_canonical amo_tidy h

theorem execAmoswap_canonical {d a b : Reg} {g : Guard} {r : Look} {s : State} (h : s.canonical = true) :
    (execAmoswap d a b g r s).canonical :=
  short_canonical amo_tidy h

theorem execAmocas_canonical {d a b : Reg} {g : Guard} {r : Look} {s : State} (h : s.canonical = true) :
    (execAmocas d a b g r s).canonical :=
  short_canonical amo_tidy h

theorem execLrw_canonical {d a : Reg} {g : Guard} {r : Look} {s : State} (h : s.canonical = true) :
    (execLrw d a g r s).canonical :=
  short_canonical (keeps_bind rd_tidy fun _ => keeps_get fun _ _ => keeps_bind (need_tidy illegalState_tidy) fun _ =>
    keeps_bind virt_tidy fun _ => atomicGo_tidy) h

theorem releaseFor_tidy {h : Hit} : Tidy (releaseFor h) := by
  rw [releaseFor]
  split
  · exact releasedSpan_tidy
  · exact releasedSpan_tidy
  · exact released_tidy

theorem passResv_tidy {line : Nat} : Tidy (passResv line) := upd_tidy (fun _ h => passOn_canonical (canonical_mk h))

theorem giveBack_tidy {a : Addr} {v : Option Word} {la : Nat} : Tidy (giveBack a v la) := by
  rw [giveBack]
  refine keeps_bind atomicHits_tidy fun _ => ?_
  refine keeps_get fun _ _ => ?_
  refine keeps_bind (need_tidy illegalState_tidy) fun _ => ?_
  refine keeps_bind soFree_tidy fun _ => ?_
  split
  · exact keeps_pure _
  · refine keeps_bind releaseFor_tidy fun _ => ?_
    split
    · split
      · exact passResv_tidy
      · exact keeps_bind logWrite_tidy fun _ => keeps_bind writeCells_tidy fun _ => passResv_tidy
    · split
      · exact keeps_bind askAtomic_tidy fun _ => keeps_bind updMe_tidy fun _ => keeps_bind await_tidy fun _ => markSo_tidy
      · exact keeps_bind request_tidy fun _ => keeps_bind updMe_tidy fun _ => keeps_bind await_tidy fun _ => markSo_tidy
    · split
      · exact keeps_bind askAtomic_tidy fun _ => keeps_bind updMe_tidy fun _ => keeps_bind await_tidy fun _ => markSo_tidy
      · exact keeps_bind request_tidy fun _ => keeps_bind updMe_tidy fun _ => keeps_bind await_tidy fun _ => markSo_tidy
    · exact trap_tidy

theorem execScv_canonical {d a : Reg} {g : Guard} {la : Look} {s : State} (h : s.canonical = true) :
    (execScv d a g la s).canonical :=
  long_canonical (keeps_bind rd_tidy fun _ => keeps_bind rd_tidy fun _ => keeps_bind virt_tidy fun _ => giveBack_tidy) h

theorem execRelq_canonical {a : Reg} {g : Guard} {la : Look} {s : State} (h : s.canonical = true) :
    (execRelq a g la s).canonical :=
  long_canonical (keeps_bind rd_tidy fun _ => keeps_bind virt_tidy fun _ => giveBack_tidy) h

theorem farGrant_canonical {s : State} {line w : Nat} (h : s.canonical = true) : (s.farGrant line w).canonical = true := by
  rw [State.farGrant]
  dsimp only
  split
  · exact unwait_canonical h
  · split
    · exact canonical_mk h
    · exact passOn_canonical (logError_canonical (canonical_mk h))

theorem execReservationGrant_canonical {s : State} (h : s.canonical = true) : (execReservationGrant s).canonical := by
  rw [execReservationGrant]
  refine out_ite ?_ ?_
  · split
    · exact h
    · exact canonical_ite (due_canonical (queueUp_canonical (canonical_mk h))) (queueUp_canonical (canonical_mk h))
  · dsimp only
    split
    · exact h
    · refine out_ite h ?_
      split
      · exact passOn_canonical h
      · split
        · exact due_canonical h
        · refine out_ite (farGrant_canonical h) ?_
          split
          · exact passOn_canonical (unwait_canonical (focus_canonical h))
          · split
            · exact grantRead_canonical (canonical_mk (focus_canonical h))
            · exact focus_canonical h

theorem vamo_tidy {bf : Bool} {a b : Reg} {la : Nat} : Tidy (vamo bf a b la) := by
  rw [vamo]
  refine keeps_bind rd_tidy fun _ => ?_
  refine keeps_bind rd_tidy fun _ => ?_
  refine keeps_bind virt_tidy fun _ => ?_
  refine keeps_bind aligned_tidy fun _ => ?_
  refine keeps_bind check_tidy fun _ => ?_
  refine keeps_bind nearHome_tidy fun _ => ?_
  refine keeps_bind soFree_tidy fun _ => ?_
  refine keeps_bind aligned_tidy fun _ => ?_
  refine keeps_bind check_tidy fun _ => ?_
  refine keeps_bind readHits_tidy fun _ => ?_
  refine keeps_get fun _ _ => ?_
  split
  · exact keeps_pure _
  · split
    · exact keeps_bind readHits_tidy fun _ => keeps_bind logWrite_tidy fun _ => writeCells_tidy
    · exact keeps_bind askAtomic_tidy fun _ => keeps_bind await_tidy fun _ => markSo_tidy
    · exact keeps_bind askAtomic_tidy fun _ => keeps_bind await_tidy fun _ => markSo_tidy
    · exact trap_tidy

/-! VAMO (R134). -/

theorem execVamoBf16_canonical {a b : Reg} {g : Guard} {la : Look} {s : State} (h : s.canonical = true) :
    (execVamoBf16 a b g la s).canonical :=
  long_canonical vamo_tidy h

theorem execVamoFp32_canonical {a b : Reg} {g : Guard} {la : Look} {s : State} (h : s.canonical = true) :
    (execVamoFp32 a b g la s).canonical :=
  long_canonical vamo_tidy h

/-! Fences. -/

theorem execFence_canonical {scope : Scope} {kind : FKind} {g : Guard} {s : State} (h : s.canonical = true) :
    (execFence scope kind g s).canonical := by
  unfold execFence
  refine short_canonical ?_ h
  refine keeps_bind loadsDone_tidy fun _ => ?_
  split
  · exact acquireSpan_tidy
  · exact keeps_pure _
  · exact keeps_pure _
  · exact keeps_bind releasedSpan_tidy fun _ => acquireSpan_tidy
  · exact releasedSpan_tidy
  · exact released_tidy

theorem execIfence_canonical {g : Guard} {s : State} (h : s.canonical = true) : (execIfence g s).canonical :=
  short_canonical (keeps_pure _) h

/-! Handles. -/

theorem cacheEntry_canonical {s : State} {key : Nat} (h : s.canonical = true) : (s.cacheEntry key).canonical = true :=
  canonical_mk h

theorem dropCached_canonical {s : State} {key : Nat} (h : s.canonical = true) : (s.dropCached key).canonical = true :=
  canonical_mk h

theorem useHandle_tidy {job h kind : Nat} {right : Right} {tv : Word} : Tidy (useHandle job h kind right tv) :=
  fun _ h1 => ends_ite trivial (ends_ite (canonical_ite h1 (cacheEntry_canonical h1)) trivial)

theorem ownHandle_tidy {a : Word} {kind : Nat} {right : Right} : Tidy (ownHandle a kind right) :=
  keeps_get fun _ _ => keeps_bind useHandle_tidy fun _ => keeps_pure _

theorem promise_tidy {n : Nat} : Tidy (promise n) := upd_tidy (fun _ h => canonical_mk h)

theorem promiseFree_tidy : Tidy promiseFree := upd_tidy (fun _ h => canonical_mk h)

theorem rd2_tidy {a b : Reg} : Tidy (rd2 a b) := keeps_bind rd_tidy fun _ => keeps_bind rd_tidy fun _ => keeps_pure _

theorem rd3_tidy {a b c : Reg} : Tidy (rd3 a b c) :=
  keeps_bind rd_tidy fun _ => keeps_bind rd_tidy fun _ => keeps_bind rd_tidy fun _ => keeps_pure _

theorem command_canonical {i : Instr} {lvl : BitVec 2} {la : Look} {body : M Unit} {s : State} (hbody : Tidy body)
    (h : s.canonical = true) :
    (command i lvl la body s).canonical :=
  atLevel_canonical (fun _ h1 => long_canonical hbody h1) h

theorem waitFor_tidy {src : Owe} {la : Look} : Tidy (waitFor src la) :=
  keeps_ite (keeps_pure _) (upd_tidy (fun _ h => canonical_mk h))

/-! Words. -/

theorem counterHits_tidy {right : Nat} {a : Word} : Tidy (counterHits right a) :=
  keeps_bind lineAddr_tidy fun _ => keeps_ite (keeps_bind check_tidy fun _ => keeps_ite (keeps_pure _) trap_tidy)
    (keeps_bind trap_tidy fun _ => keeps_bind check_tidy fun _ => keeps_ite (keeps_pure _) trap_tidy)

theorem testWord_tidy {f : Word → Bool} {a : Word} : Tidy (testWord f a) :=
  keeps_bind counterHits_tidy fun _ => keeps_bind readHits_tidy fun _ => keeps_ite (keeps_bind acquireSpan_tidy fun _ =>
    keeps_pure _) (keeps_pure _)

theorem waitWord_tidy {mask : Bool} {d a b : Reg} {la : Nat} : Tidy (waitWord mask d a b la) :=
  keeps_bind atHome_tidy fun _ => keeps_bind rd2_tidy fun _ => keeps_bind testWord_tidy fun _ => keeps_get fun _ _ =>
    keeps_ite (keeps_bind updMe_tidy fun _ => wr_tidy) (keeps_ite (keeps_bind updMe_tidy fun _ => wr_tidy)
    (keeps_bind destOk_tidy fun _ => await_tidy))

theorem execWaitc_canonical {d a b : Reg} {g : Guard} {la : Look} {s : State} (h : s.canonical = true) :
    (execWaitc d a b g la s).canonical :=
  long_canonical waitWord_tidy h

theorem execWaitb_canonical {d a b : Reg} {g : Guard} {la : Look} {s : State} (h : s.canonical = true) :
    (execWaitb d a b g la s).canonical :=
  long_canonical waitWord_tidy h

theorem execWaitt_canonical {d a : Reg} {g : Guard} {la : Look} {s : State} (h : s.canonical = true) :
    (execWaitt d a g la s).canonical :=
  long_canonical (keeps_bind rd_tidy fun _ => keeps_get fun _ _ => keeps_ite wr_tidy (keeps_bind destOk_tidy fun _ =>
    await_tidy)) h

theorem promised_tidy {a b : Word} : Tidy (promised a b) :=
  keeps_bind testWord_tidy fun _ => keeps_ite (keeps_pure _) trap_tidy

/-! Words. -/

theorem execWaitp_canonical {p a b : Reg} {g : Guard} {la : Look} {s : State} (h : s.canonical = true) :
    (execWaitp p a b g la s).canonical :=
  long_canonical (keeps_bind rd2_tidy fun _ => keeps_bind rd_tidy fun _ => keeps_bind counterHits_tidy fun _ =>
    keeps_get fun _ _ => keeps_ite promised_tidy await_tidy) h

theorem execArmt_canonical {a : Reg} {g : Guard} {s : State} (h : s.canonical = true) : (execArmt a g s).canonical :=
  short_canonical (keeps_bind atHome_tidy fun _ => keeps_bind rd_tidy fun _ => upd_tidy (fun _ h1 => canonical_mk h1)) h

/-! The ends of waits. -/

theorem execWaittTimeReached_canonical {s : State} (h : s.canonical = true) : (execWaittTimeReached s).canonical := by
  rw [execWaittTimeReached]
  split
  · exact h
  · exact complete_canonical h

theorem execPromiseReached_canonical {s : State} (h : s.canonical = true) : (execPromiseReached s).canonical := by
  rw [execPromiseReached]
  split
  · exact h
  · split
    · split
      next heq2 => exact (ends_ok (promised_tidy _ (canonical_mk h)) heq2 :)
      · exact swapPend_canonical h
      · exact swapPend_canonical h
      · exact swapPend_canonical (logError_canonical h)
      · exact h
    · exact h

/-! Barriers (R326-R329). -/

theorem setBarrier_canonical {s : State} {x : Barrier} (h : s.canonical = true) : (s.setBarrier x).canonical = true :=
  canonical_mk h

theorem endBar_canonical {s : State} {job h sid : Nat} {v : Word} (hs : s.canonical = true) :
    (s.endBar job h sid v).canonical = true :=
  modStrand_canonical hs

theorem execBarw_canonical {d a : Reg} {g : Guard} {la : Look} {s : State} (h : s.canonical = true) :
    (execBarw d a g la s).canonical := by
  rw [execBarw]
  refine long_canonical ?_ h
  refine keeps_bind atHome_tidy fun _ => ?_
  refine keeps_bind rd_tidy fun _ => ?_
  refine keeps_bind ownHandle_tidy fun _ => ?_
  refine keeps_get fun _ _ => ?_
  dsimp only
  split
  · exact opFault_tidy
  · exact keeps_bind (need_tidy opFault_tidy) fun _ => keeps_bind released_tidy fun _ => keeps_bind destOk_tidy fun _ =>
      keeps_bind await_tidy fun _ => upd_tidy (fun _ h2 => due_canonical h2)

theorem execBarrierArrival_canonical {s : State} (h : s.canonical = true) : (execBarrierArrival s).canonical := by
  rw [execBarrierArrival]
  split
  · exact out_ite (endBar_canonical (setBarrier_canonical (canonical_ite (setBarrier_canonical h)
      (due_canonical (setBarrier_canonical h))))) (canonical_ite (setBarrier_canonical h) (due_canonical (setBarrier_canonical
      h)))
  · exact h

theorem execBarrierRelease_canonical {s : State} (h : s.canonical = true) : (execBarrierRelease s).canonical := by
  rw [execBarrierRelease]
  split
  · exact h
  · exact canonical_foldl (setBarrier_canonical h) (fun _ _ h1 => endBar_canonical h1) _

theorem execDeadlineExpiry_canonical {s : State} (h : s.canonical = true) : (execDeadlineExpiry s).canonical := by
  rw [execDeadlineExpiry]
  split
  · exact h
  · split
    · exact swapPend_canonical (canonical_mk h)
    · split
      · exact h
      · exact endBar_canonical (setBarrier_canonical h)
    · exact h

/-! BARCFG (R327). -/

theorem barcfg_canonical {i : Instr} {a b : Reg} {la : Look} {s : State} (h : s.canonical = true) :
    (barcfg i a b la s).canonical := by
  rw [barcfg]
  refine command_canonical ?_ h
  refine keeps_bind rd2_tidy fun _ => ?_
  refine keeps_bind ownHandle_tidy fun _ => ?_
  refine keeps_get fun _ _ => ?_
  refine keeps_ite (keeps_bind (need_tidy illegalState_tidy) fun _ => keeps_bind (need_tidy opFault_tidy) fun _ =>
    keeps_bind (upd_tidy (fun _ h2 => setObjFld_canonical (canonical_mk h2))) fun _ => promise_tidy) ?_
  split
  · exact keeps_bind (upd_tidy (fun _ h2 => setObjFld_canonical h2)) fun _ => promise_tidy
  · exact keeps_bind (upd_tidy (fun _ h2 => canonical_mk (canonical_foldl (canonical_foldl h2 (fun _ _ h3 =>
      endBar_canonical h3) _) (fun _ _ h3 => endBar_canonical h3) _))) fun _ => keeps_bind (upd_tidy (fun _ h2 =>
      setObjFld_canonical h2)) fun _ => promise_tidy

theorem execBarcfgConfigure_canonical {a b : Reg} {la : Look} {s : State} (h : s.canonical = true) :
    (execBarcfgConfigure a b la s).canonical :=
  barcfg_canonical h

theorem execBarcfgRelease_canonical {a b : Reg} {la : Look} {s : State} (h : s.canonical = true) :
    (execBarcfgRelease a b la s).canonical :=
  barcfg_canonical h

/-! SIG and CNTSET (R323-R325). -/

theorem sigRelease_tidy {scope : Scope} {away : Bool} : Tidy (sigRelease scope away) := by
  unfold sigRelease
  refine keeps_ite releasedSpan_tidy ?_
  split
  · exact loadsDone_tidy
  · exact releasedSpan_tidy
  · exact released_tidy

theorem counterWrite_tidy {kind : Nat} {f : Word → Word} {v a : Word} {e : Addr} {hs : List Hit} {la : Nat} :
    Tidy (counterWrite kind f v a e hs la) := by
  rw [counterWrite]
  refine keeps_bind soFree_tidy fun _ => ?_
  refine keeps_get fun _ _ => ?_
  split
  · exact keeps_pure _
  · split
    · exact keeps_ite (keeps_bind readHits_tidy fun _ => keeps_ite writeCells_tidy (keeps_bind logWrite_tidy fun _ =>
        writeCells_tidy)) (keeps_bind (keeps_pure _) fun _ => keeps_ite writeCells_tidy (keeps_bind logWrite_tidy fun _ =>
        writeCells_tidy))
    · exact keeps_bind askAtomic_tidy fun _ => keeps_bind await_tidy fun _ => markSo_tidy
    · exact keeps_bind askAtomic_tidy fun _ => keeps_bind await_tidy fun _ => markSo_tidy
    · exact keeps_bind askAtomic_tidy fun _ => keeps_bind await_tidy fun _ => markSo_tidy
    · exact trap_tidy

theorem execSig_canonical {scope : Scope} {a b : Reg} {g : Guard} {la : Look} {s : State} (h : s.canonical = true) :
    (execSig scope a b g la s).canonical :=
  long_canonical (keeps_bind rd2_tidy fun _ => keeps_bind counterHits_tidy fun _ => keeps_bind sigRelease_tidy fun _ =>
    counterWrite_tidy) h

theorem execCntset_canonical {a b : Reg} {g : Guard} {la : Look} {s : State} (h : s.canonical = true) :
    (execCntset a b g la s).canonical :=
  long_canonical (keeps_bind rd2_tidy fun _ => keeps_bind counterHits_tidy fun _ => counterWrite_tidy) h

end Sys2Proof.Machine
end

section
/-! SUPPORT. Canonical memory is kept: floating point, line instructions and streams. -/

namespace Sys2Proof.Machine
open Sys2Proof.Num

/-! Scalar floating point, its compares, conversions, and the F64 extension (R84-R87, R40). -/

theorem fop1_tidy {f : Half → Half} {d a : Reg} : Tidy (fop1 f d a) := op1_tidy

theorem fop2_tidy {f : Half → Half → Half} {d a b : Reg} : Tidy (fop2 f d a b) := op2_tidy

theorem execFadd_canonical {d a b : Reg} {g : Guard} {s : State} (h : s.canonical = true) : (execFadd d a b g s).canonical :=
  short_canonical fop2_tidy h

theorem execFsub_canonical {d a b : Reg} {g : Guard} {s : State} (h : s.canonical = true) : (execFsub d a b g s).canonical :=
  short_canonical fop2_tidy h

theorem execFmul_canonical {d a b : Reg} {g : Guard} {s : State} (h : s.canonical = true) : (execFmul d a b g s).canonical :=
  short_canonical fop2_tidy h

theorem execFma_canonical {d a b : Reg} {g : Guard} {s : State} (h : s.canonical = true) : (execFma d a b g s).canonical :=
  short_canonical op3_tidy h

theorem execFdiv_canonical {d a b : Reg} {g : Guard} {r : Look} {s : State} (h : s.canonical = true) :
    (execFdiv d a b g r s).canonical :=
  short_canonical fop2_tidy h

theorem execFsqrt_canonical {d a : Reg} {g : Guard} {r : Look} {s : State} (h : s.canonical = true) :
    (execFsqrt d a g r s).canonical :=
  short_canonical fop1_tidy h

theorem execFmin_canonical {d a b : Reg} {g : Guard} {s : State} (h : s.canonical = true) : (execFmin d a b g s).canonical :=
  short_canonical fop2_tidy h

theorem execFmax_canonical {d a b : Reg} {g : Guard} {s : State} (h : s.canonical = true) : (execFmax d a b g s).canonical :=
  short_canonical fop2_tidy h

theorem execFcmpeq_canonical {pd : Pred} {a b : Reg} {g : Guard} {s : State} (h : s.canonical = true) :
    (execFcmpeq pd a b g s).canonical :=
  short_canonical cmp2_tidy h

theorem execFcmplt_canonical {pd : Pred} {a b : Reg} {g : Guard} {s : State} (h : s.canonical = true) :
    (execFcmplt pd a b g s).canonical :=
  short_canonical cmp2_tidy h

theorem execFcmple_canonical {pd : Pred} {a b : Reg} {g : Guard} {s : State} (h : s.canonical = true) :
    (execFcmple pd a b g s).canonical :=
  short_canonical cmp2_tidy h

theorem execFcmpun_canonical {pd : Pred} {a b : Reg} {g : Guard} {s : State} (h : s.canonical = true) :
    (execFcmpun pd a b g s).canonical :=
  short_canonical cmp2_tidy h

/-! The stay of R40. -/

theorem f64_canonical {w : Nat} {g : Guard} {body : M Unit} {s : State} (hbody : Tidy body) (h : s.canonical = true) :
    (f64 w g body s).canonical := by
  rw [f64]
  refine legalIf_canonical ?_ h
  intro a h1
  split
  next heq => exact stopped_canonical h1 (finds_some guardHeld_canonical heq :)
  · refine out_ite (issue_canonical h1) ?_
    refine out_ite (finish_canonical h1 (hbody _ (issue_canonical h1))) ?_
    refine out_ite (goHome_canonical h1) ?_
    split
    next heq1 => exact stopped_canonical h1 (ends_error (settledAll_tidy _ h1) heq1 :)
    · exact depart_canonical (canonical_mk h1)

theorem execDadd_canonical {d a b : Reg} {g : Guard} {la : Look} {s : State} (h : s.canonical = true) :
    (execDadd d a b g la s).canonical :=
  f64_canonical op2_tidy h

theorem execDsub_canonical {d a b : Reg} {g : Guard} {la : Look} {s : State} (h : s.canonical = true) :
    (execDsub d a b g la s).canonical :=
  f64_canonical op2_tidy h

theorem execDmul_canonical {d a b : Reg} {g : Guard} {la : Look} {s : State} (h : s.canonical = true) :
    (execDmul d a b g la s).canonical :=
  f64_canonical op2_tidy h

theorem execDfma_canonical {d a b : Reg} {g : Guard} {la : Look} {s : State} (h : s.canonical = true) :
    (execDfma d a b g la s).canonical :=
  f64_canonical op3_tidy h

theorem execDdiv_canonical {d a b : Reg} {g : Guard} {la : Look} {s : State} (h : s.canonical = true) :
    (execDdiv d a b g la s).canonical :=
  f64_canonical op2_tidy h

theorem execDsqrt_canonical {d a : Reg} {g : Guard} {la : Look} {s : State} (h : s.canonical = true) :
    (execDsqrt d a g la s).canonical :=
  f64_canonical op1_tidy h

/-! CVT (R86). -/

theorem execCvt_canonical {d a : Reg} {src dst : Ty} {mode : RMode} {sat : Bool} {g : Guard} {s : State}
    (h : s.canonical = true) :
    (execCvt d a src dst mode sat g s).canonical :=
  out_ite (f64_canonical op1_tidy h) (short_canonical op1_tidy h)

/-! Line instructions and streams (06_line_instructions, R97-R117). -/

theorem line_canonical {i : Instr} {g : Guard} {body : M Unit} {s : State} (hbody : Tidy body) (h : s.canonical = true) :
    (line i g body s).canonical :=
  legalIf_canonical (fun _ h1 => short_canonical (keeps_bind atHome_tidy fun _ => hbody) h1) h

theorem line1_tidy {f : Half → Half} {d a : LReg} : Tidy (line1 f d a) := keeps_bind rdLine_tidy fun _ => wrLine_tidy

theorem line2_tidy {f : Half → Half → Half} {d a b : LReg} : Tidy (line2 f d a b) :=
  keeps_bind rdLine_tidy fun _ => keeps_bind rdLine_tidy fun _ => wrLine_tidy

theorem line3_tidy {f : Half → Half → Half → Half} {d a b : LReg} : Tidy (line3 f d a b) :=
  keeps_bind rdLine_tidy fun _ => keeps_bind rdLine_tidy fun _ => keeps_bind rdLineOld_tidy fun _ => wrLine_tidy

/-! Lane functions of Table 6.2. -/

theorem execVadd_canonical {d a b : LReg} {ty : Ty} {g : Guard} {s : State} (h : s.canonical = true) :
    (execVadd d a b ty g s).canonical :=
  line_canonical line2_tidy h

theorem execVsub_canonical {d a b : LReg} {ty : Ty} {g : Guard} {s : State} (h : s.canonical = true) :
    (execVsub d a b ty g s).canonical :=
  line_canonical line2_tidy h

theorem execVmul_canonical {d a b : LReg} {ty : Ty} {g : Guard} {s : State} (h : s.canonical = true) :
    (execVmul d a b ty g s).canonical :=
  line_canonical line2_tidy h

theorem execVfma_canonical {d a b : LReg} {ty : Ty} {g : Guard} {s : State} (h : s.canonical = true) :
    (execVfma d a b ty g s).canonical :=
  line_canonical line3_tidy h

theorem execVmin_canonical {d a b : LReg} {ty : Ty} {g : Guard} {s : State} (h : s.canonical = true) :
    (execVmin d a b ty g s).canonical :=
  line_canonical line2_tidy h

theorem execVmax_canonical {d a b : LReg} {ty : Ty} {g : Guard} {s : State} (h : s.canonical = true) :
    (execVmax d a b ty g s).canonical :=
  line_canonical line2_tidy h

theorem execVabs_canonical {d a : LReg} {ty : Ty} {g : Guard} {s : State} (h : s.canonical = true) :
    (execVabs d a ty g s).canonical :=
  line_canonical line1_tidy h

theorem execVneg_canonical {d a : LReg} {ty : Ty} {g : Guard} {s : State} (h : s.canonical = true) :
    (execVneg d a ty g s).canonical :=
  line_canonical line1_tidy h

theorem execCompactVadd_canonical {d a : LReg} {s : State} (h : s.canonical = true) : (execCompactVadd d a s).canonical :=
  line_canonical line2_tidy h

theorem execCompactVmul_canonical {d a : LReg} {s : State} (h : s.canonical = true) : (execCompactVmul d a s).canonical :=
  line_canonical line2_tidy h

theorem execCompactVfma_canonical {d a : LReg} {s : State} (h : s.canonical = true) : (execCompactVfma d a s).canonical :=
  line_canonical line3_tidy h

/-! Functions (R101). -/

theorem execVexp_canonical {d a : LReg} {g : Guard} {s : State} (h : s.canonical = true) : (execVexp d a g s).canonical :=
  line_canonical line1_tidy h

theorem execVlog_canonical {d a : LReg} {g : Guard} {s : State} (h : s.canonical = true) : (execVlog d a g s).canonical :=
  line_canonical line1_tidy h

theorem execVrcp_canonical {d a : LReg} {g : Guard} {s : State} (h : s.canonical = true) : (execVrcp d a g s).canonical :=
  line_canonical line1_tidy h

theorem execVrsq_canonical {d a : LReg} {g : Guard} {s : State} (h : s.canonical = true) : (execVrsq d a g s).canonical :=
  line_canonical line1_tidy h

theorem execVsin_canonical {d a : LReg} {g : Guard} {s : State} (h : s.canonical = true) : (execVsin d a g s).canonical :=
  line_canonical line1_tidy h

theorem execVcos_canonical {d a : LReg} {g : Guard} {s : State} (h : s.canonical = true) : (execVcos d a g s).canonical :=
  line_canonical line1_tidy h

/-! Logic, shifts, compares, selection (R102, R103). -/

theorem execVand_canonical {d a b : LReg} {ty : Ty} {g : Guard} {s : State} (h : s.canonical = true) :
    (execVand d a b ty g s).canonical :=
  line_canonical line2_tidy h

theorem execVor_canonical {d a b : LReg} {ty : Ty} {g : Guard} {s : State} (h : s.canonical = true) :
    (execVor d a b ty g s).canonical :=
  line_canonical line2_tidy h

theorem execVxor_canonical {d a b : LReg} {ty : Ty} {g : Guard} {s : State} (h : s.canonical = true) :
    (execVxor d a b ty g s).canonical :=
  line_canonical line2_tidy h

theorem execVshl_canonical {d a b : LReg} {ty : Ty} {g : Guard} {s : State} (h : s.canonical = true) :
    (execVshl d a b ty g s).canonical :=
  line_canonical line2_tidy h

theorem execVshr_canonical {d a b : LReg} {ty : Ty} {g : Guard} {s : State} (h : s.canonical = true) :
    (execVshr d a b ty g s).canonical :=
  line_canonical line2_tidy h

theorem execVcmp_canonical {rel : Rel} {d : Fin 8} {a b : LReg} {ty : Ty} {g : Guard} {s : State} (h : s.canonical = true) :
    (execVcmp rel d a b ty g s).canonical :=
  line_canonical line2_tidy h

theorem execVsel_canonical {d a b : LReg} {ty : Ty} {g : Guard} {s : State} (h : s.canonical = true) :
    (execVsel d a b ty g s).canonical :=
  line_canonical line3_tidy h

/-! Moves and shuffles (R104). -/

theorem execVbcast_canonical {d : LReg} {a : Reg} {ty : Ty} {g : Guard} {s : State} (h : s.canonical = true) :
    (execVbcast d a ty g s).canonical :=
  line_canonical (keeps_bind rd_tidy fun _ => wrLine_tidy) h

theorem execVget_canonical {d : Reg} {a : LReg} {b : Reg} {ty : Ty} {g : Guard} {s : State} (h : s.canonical = true) :
    (execVget d a b ty g s).canonical :=
  line_canonical (keeps_bind rdLine_tidy fun _ => keeps_bind rd_tidy fun _ => wr_tidy) h

theorem execVput_canonical {d : LReg} {a b : Reg} {ty : Ty} {g : Guard} {s : State} (h : s.canonical = true) :
    (execVput d a b ty g s).canonical :=
  line_canonical (keeps_bind rd2_tidy fun _ => keeps_bind rdLineOld_tidy fun _ => wrLine_tidy) h

theorem execVshuf_canonical {d a b : LReg} {ty : Ty} {g : Guard} {s : State} (h : s.canonical = true) :
    (execVshuf d a b ty g s).canonical :=
  line_canonical (keeps_bind rdLine_tidy fun _ => keeps_bind rdLine_tidy fun _ => wrLine_tidy) h

theorem execVcmul_canonical {d a b : LReg} {g : Guard} {s : State} (h : s.canonical = true) :
    (execVcmul d a b g s).canonical :=
  line_canonical (keeps_bind rdLine_tidy fun _ => keeps_bind rdLine_tidy fun _ => wrLine_tidy) h

theorem execVconj_canonical {d a : LReg} {g : Guard} {s : State} (h : s.canonical = true) : (execVconj d a g s).canonical :=
  line_canonical (keeps_bind rdLine_tidy fun _ => wrLine_tidy) h

/-! Conversion and the generator (R106, R107). -/

theorem execVcvt_canonical {d a : LReg} {src : VSrc} {sat : Bool} {mode : Fin 4} {ty : Ty} {g : Guard} {s : State}
    (h : s.canonical = true) :
    (execVcvt d a src sat mode ty g s).canonical :=
  line_canonical line1_tidy h

theorem execVrnd_canonical {d a : LReg} {b : Reg} {ty : Ty} {g : Guard} {s : State} (h : s.canonical = true) :
    (execVrnd d a b ty g s).canonical :=
  line_canonical (keeps_bind rdLine_tidy fun _ => keeps_bind rd_tidy fun _ => wrLine_tidy) h

/-! Reductions (R108, R58, R59). -/

theorem reduce_tidy {f : Line → Word} {d : Reg} {a : LReg} : Tidy (reduce f d a) := keeps_bind rdLine_tidy fun _ => wr_tidy

theorem execVrsum_canonical {d : Reg} {a : LReg} {ty : Ty} {g : Guard} {s : State} (h : s.canonical = true) :
    (execVrsum d a ty g s).canonical :=
  line_canonical reduce_tidy h

theorem execVrmax_canonical {d : Reg} {a : LReg} {ty : Ty} {g : Guard} {s : State} (h : s.canonical = true) :
    (execVrmax d a ty g s).canonical :=
  line_canonical reduce_tidy h

theorem execVrmin_canonical {d : Reg} {a : LReg} {ty : Ty} {g : Guard} {s : State} (h : s.canonical = true) :
    (execVrmin d a ty g s).canonical :=
  line_canonical reduce_tidy h

theorem execVrmaxi_canonical {d : Reg} {a : LReg} {ty : Ty} {g : Guard} {s : State} (h : s.canonical = true) :
    (execVrmaxi d a ty g s).canonical :=
  line_canonical reduce_tidy h

theorem execVrmini_canonical {d : Reg} {a : LReg} {ty : Ty} {g : Guard} {s : State} (h : s.canonical = true) :
    (execVrmini d a ty g s).canonical :=
  line_canonical reduce_tidy h

/-! Line memory access (R109-R111). -/

theorem lineAddrs_tidy {a : Word} {size : Nat} {r : List Int} : Tidy (lineAddrs a size r) := by
  induction r with
  | nil =>
    rw [lineAddrs]
    exact keeps_pure _
  | cons _ _ ih =>
    rw [lineAddrs]
    exact keeps_bind lineAddr_tidy fun _ => keeps_bind ih fun _ => keeps_pure _

theorem readLanes_tidy {is : List (Option Int)} {xs : List (Addr × List Hit)} : Tidy (readLanes is xs) := by
  fun_induction readLanes is xs with
  | case1 _ r x xs ih => exact keeps_bind readElem_tidy fun _ => keeps_bind ih fun _ => keeps_pure _
  | case2 r xs ih => exact keeps_bind ih fun _ => keeps_pure _
  | case3 => exact keeps_pure _

theorem awaitLine_tidy {d : LReg} {src : Owe} : Tidy (awaitLine d src) := by
  unfold awaitLine
  split
  · exact keeps_bind settledK_tidy fun _ => upd_tidy (fun _ h => canonical_mk h)
  · exact keeps_bind settled_tidy fun _ => keeps_bind bound_tidy fun _ => upd_tidy (fun _ h => canonical_mk h)

theorem lineLoad_tidy {ty : Ty} {d : LReg} {a : Word} {os : List (Option Int)} : Tidy (lineLoad ty d a os) :=
  keeps_bind lineAddrs_tidy fun _ => keeps_bind checkElems_tidy fun _ => keeps_bind soFree_tidy fun _ =>
    keeps_bind readLanes_tidy fun _ => keeps_ite (keeps_bind wrLine_tidy fun _ => countFirst_tidy) (keeps_bind askAll_tidy
    fun _ => keeps_bind awaitLine_tidy fun _ => keeps_bind markSo_tidy fun _ => countFirst_tidy)

theorem lineStore_tidy {ty : Ty} {x : Line} {a : Word} {os : List (Option Int)} : Tidy (lineStore ty x a os) :=
  keeps_bind lineAddrs_tidy fun _ => keeps_bind checkElems_tidy fun _ => keeps_bind soFree_tidy fun _ =>
    keeps_bind writeElems_tidy fun _ => countFirst_tidy

theorem execVld_canonical {d : LReg} {a b : Reg} {ty : Ty} {g : Guard} {s : State} (h : s.canonical = true) :
    (execVld d a b ty g s).canonical :=
  line_canonical (keeps_bind rd2_tidy fun _ => lineLoad_tidy) h

theorem execVst_canonical {d : LReg} {a b : Reg} {ty : Ty} {g : Guard} {s : State} (h : s.canonical = true) :
    (execVst d a b ty g s).canonical :=
  line_canonical (keeps_bind rd2_tidy fun _ => keeps_bind rdLine_tidy fun _ => lineStore_tidy) h

theorem execVgath_canonical {d : LReg} {a : Reg} {b : LReg} {ty : Ty} {g : Guard} {s : State} (h : s.canonical = true) :
    (execVgath d a b ty g s).canonical :=
  line_canonical (keeps_bind rd_tidy fun _ => keeps_bind rdLine_tidy fun _ => lineLoad_tidy) h

theorem execVscat_canonical {d : LReg} {a : Reg} {b : LReg} {ty : Ty} {g : Guard} {s : State} (h : s.canonical = true) :
    (execVscat d a b ty g s).canonical :=
  line_canonical (keeps_bind rd_tidy fun _ => keeps_bind rdLine_tidy fun _ => keeps_bind rdLine_tidy fun _ => lineStore_tidy)
    h

/-! Streams (R112-R115). -/

theorem endStream_tidy {t : Fin 4} : Tidy (endStream t) := by
  rw [endStream]
  refine keeps_get fun _ _ => ?_
  split
  · exact keeps_pure _
  · exact keeps_ite (keeps_bind drained_tidy fun _ => updMe_tidy) updMe_tidy

theorem execStrm_canonical {t : Fin 4} {a b : Reg} {ty : Ty} {g : Guard} {s : State} (h : s.canonical = true) :
    (execStrm t a b ty g s).canonical :=
  line_canonical (keeps_bind rd2_tidy fun _ => keeps_bind (need_tidy opFault_tidy) fun _ => keeps_bind (need_tidy trap_tidy)
    fun _ => keeps_bind endStream_tidy fun _ => keeps_bind gets'_tidy fun _ => updMe_tidy) h

theorem execStre_canonical {t : Fin 4} {g : Guard} {s : State} (h : s.canonical = true) : (execStre t g s).canonical :=
  line_canonical endStream_tidy h

theorem fetchElem_tidy {a : Addr} {hs : List Hit} : Tidy (fetchElem a hs) :=
  keeps_get fun _ _ => keeps_bind soFree_tidy fun _ => keeps_ite (keeps_ite (keeps_bind trap_tidy fun _ =>
    keeps_bind request_tidy fun _ => keeps_pure _) (keeps_bind request_tidy fun _ => keeps_pure _)) (keeps_bind readHits_tidy
    fun _ => keeps_pure _)

theorem fetchAhead_tidy {st : Stream} {e : Nat} : Tidy (fetchAhead st e) :=
  keeps_bind addr_tidy fun _ => keeps_bind checkElems_tidy fun _ => fetchElem_tidy

theorem execStreamFetchAhead_canonical {s : State} (h : s.canonical = true) : (execStreamFetchAhead s).canonical := by
  rw [execStreamFetchAhead]
  split
  · exact h
  · refine out_ite h ?_
    split
    next heq1 => exact canonical_mk (ends_ok (fetchAhead_tidy _ h) heq1 :)
    · exact canonical_mk (logError_canonical h)
    · exact canonical_mk h
    · exact h

end Sys2Proof.Machine
end

section
/-! SUPPORT. Canonical memory is kept: tasks, messages, migration, fields, other devices and remaps. -/

namespace Sys2Proof.Machine
open Sys2Proof.Num

/-! Messages (R214-R218). -/

theorem execSend_canonical {d a b : Reg} {g : Guard} {la : Look} {s : State} (h : s.canonical = true) :
    (execSend d a b g la s).canonical :=
  long_canonical (keeps_bind rd2_tidy fun _ => keeps_bind settledO_tidy fun _ => keeps_get fun _ _ =>
    keeps_ite (keeps_bind released_tidy fun _ => keeps_ite wr_tidy (keeps_ite wr_tidy (keeps_bind destOk_tidy fun _ =>
    keeps_bind await_tidy fun _ => upd_tidy (fun _ h2 => due_canonical h2)))) (keeps_bind releasedSpan_tidy fun _ =>
    keeps_ite wr_tidy (keeps_ite wr_tidy (keeps_bind destOk_tidy fun _ => keeps_bind await_tidy fun _ => upd_tidy (fun _ h2 =>
    due_canonical h2))))) h

theorem setSend_canonical {s : State} {n : Nat} {src : Owe} (h : s.canonical = true) : (s.setSend n src).canonical = true :=
  canonical_mk h

theorem offered_canonical {s : State} {sid job : Nat} {m : Msg} (h : s.canonical = true) :
    (s.offered sid job m).2.canonical = true := by
  rw [State.offered]
  split
  · exact h
  · split
    · exact h
    · split
      next heq => exact (finds_some (enqueue_canonical h) heq :)
      · exact h

theorem offerSend_canonical {n : Nat} {p : Pending} {s : State} (h : s.canonical = true) :
    (offerSend n p s).canonical = true := by
  rw [offerSend]
  dsimp only
  split
  · refine canonical_ite (due_canonical h) ?_
    refine canonical_ite ?_ ?_
    · split
      next heq1 => exact due_canonical (finds_some (enqueue_canonical (setSend_canonical h)) heq1 :)
      · exact due_canonical (setSend_canonical h)
    · split
      next heq1 => exact setSend_canonical (finds_some (request_canonical h) heq1 :)
      · exact due_canonical h
  · exact h

theorem execMessageArrival_canonical {s : State} (h : s.canonical = true) : (execMessageArrival s).canonical := by
  rw [execMessageArrival]
  refine out_ite (canonical_mk (offered_canonical h)) ?_
  dsimp only
  split
  · exact h
  · split
    · exact canonical_ite h (offerSend_canonical h)
    · exact h

theorem answered_canonical {n kind : Nat} {s : State} (h : s.canonical = true) : (answered n kind s).canonical = true := by
  rw [answered]
  split
  · exact h
  · split
    · exact canonical_ite (setSend_canonical h) (canonical_ite (canonical_ite (setSend_canonical h)
        (due_canonical (setSend_canonical h))) (setSend_canonical h))
    · exact h

theorem execSendOfferAnswer_canonical {s : State} (h : s.canonical = true) : (execSendOfferAnswer s).canonical := by
  rw [execSendOfferAnswer]
  refine out_ite ?_ (answered_canonical h)
  dsimp only
  split
  · exact stale_canonical h
  · refine out_ite ?_ (stale_canonical h)
    split
    · exact answered_canonical (dropReq_canonical h)
    · exact dropReq_canonical h

theorem execSendRetryLimit_canonical {s : State} (h : s.canonical = true) : (execSendRetryLimit s).canonical := by
  rw [execSendRetryLimit]
  split
  · exact h
  · split
    · exact count_canonical (setSend_canonical h)
    · exact h

theorem execQtest_canonical {d : Reg} {g : Guard} {s : State} (h : s.canonical = true) : (execQtest d g s).canonical :=
  short_canonical (keeps_bind atHome_tidy fun _ => keeps_bind gets'_tidy fun _ => wr_tidy) h

theorem execHardwareMessageDelivery_canonical {s : State} (h : s.canonical = true) :
    (execHardwareMessageDelivery s).canonical := by
  rw [execHardwareMessageDelivery]
  split
  · exact h
  · exact out_ite (out_ite (count_canonical (canonical_mk h)) (finds_getD (enqueue_canonical (canonical_mk h))
      (due_canonical (canonical_mk h)))) (canonical_mk (canonical_ite (canonical_mk h) (due_canonical (canonical_mk h))))

/-! Records (R213, R219). -/

theorem joinQueue_canonical {s : State} {q : Nat} {r : Rec} (h : s.canonical = true) : (s.joinQueue q r).canonical = true :=
  canonical_ite (canonical_foldl (canonical_mk h) (fun _ _ h1 => due_canonical h1) _) (due_canonical (canonical_mk h))

theorem putQueue_canonical {s : State} {q : Nat} {r : Rec} (h : s.canonical = true) : (s.putQueue q r).canonical = true := by
  rw [State.putQueue]
  split
  · exact joinQueue_canonical h
  · refine canonical_mk ?_
    split
    · exact setCells_canonical h
    · exact h

theorem putTask_canonical {s : State} {cl : Nat} {r : Rec} (h : s.canonical = true) : (s.putTask cl r).canonical = true :=
  putQueue_canonical h

theorem putDie_canonical {s : State} {die : Nat} {r : Rec} (h : s.canonical = true) : (s.putDie die r).canonical = true :=
  putQueue_canonical h

theorem unring_canonical {s : State} {q i : Nat} {r : Rec} (h : s.canonical = true) : (s.unring q i r).canonical = true := by
  rw [State.unring]
  split
  · exact joinQueue_canonical h
  · split
    · exact joinQueue_canonical h
    · refine canonical_mk ?_
      refine count_canonical ?_
      refine count_canonical ?_
      split
      · exact countTasks_canonical h
      · exact h

theorem refillFrom_canonical {q r : Nat} {s : State} (h : s.canonical = true) : (State.refillFrom q r s).canonical = true := by
  induction r generalizing s with
  | zero =>
    rw [State.refillFrom]
    exact h
  | succ _ ih =>
    rw [State.refillFrom]
    refine canonical_ite ?_ h
    split
    · exact ih (unring_canonical (canonical_mk h))
    · exact h

theorem refill_canonical {s : State} {q : Nat} (h : s.canonical = true) : (s.refill q).canonical = true :=
  refillFrom_canonical h

theorem refillAll_canonical {s : State} (h : s.canonical = true) : s.refillAll.canonical = true :=
  canonical_foldl h (fun _ _ h1 => refill_canonical h1) _

theorem addTotal_canonical {s : State} {key : Nat} (h : s.canonical = true) : (s.addTotal key).canonical = true :=
  modObj_canonical h

theorem spawnRec_tidy {a : Word} : Tidy (spawnRec a) := by
  rw [spawnRec]
  refine keeps_bind (need_tidy trap_tidy) fun _ => ?_
  refine keeps_bind settledO_tidy fun _ => ?_
  refine keeps_bind pwHere_tidy fun _ => ?_
  refine keeps_get fun _ _ => ?_
  split
  · exact illegalState_tidy
  · exact keeps_pure _

theorem spawnCancelled_tidy {key : Nat} {d : Reg} : Tidy (spawnCancelled key d) :=
  keeps_bind (upd_tidy (fun _ h => countTasks_canonical (addTotal_canonical h))) fun _ => wr_tidy

theorem execSpawn_canonical {d a b : Reg} {g : Guard} {la : Look} {s : State} (h : s.canonical = true) :
    (execSpawn d a b g la s).canonical :=
  long_canonical (keeps_bind rd2_tidy fun _ => keeps_bind (need_tidy trap_tidy) fun _ => keeps_bind (need_tidy opFault_tidy)
    fun _ => keeps_bind spawnRec_tidy fun _ => keeps_get fun _ _ => keeps_ite spawnCancelled_tidy
    (keeps_ite (keeps_bind (need_tidy (stop_tidy trivial)) fun _ => keeps_bind (upd_tidy (fun _ h2 =>
    putDie_canonical (addTotal_canonical h2))) fun _ => wr_tidy) (keeps_bind (need_tidy (stop_tidy trivial)) fun _ =>
    keeps_bind (upd_tidy (fun _ h2 => putTask_canonical (addTotal_canonical h2))) fun _ => wr_tidy))) h

theorem putRun_canonical {s : State} {core : Nat} {e : RunEntry} (h : s.canonical = true) :
    (s.putRun core e).canonical = true :=
  due_canonical (canonical_mk h)

theorem hereCell_tidy {tv : Word} {hs : List Hit} : Tidy (hereCell tv hs) := by
  unfold hereCell
  split
  · exact keeps_pure _
  · exact trap_tidy

theorem execSpawnh_canonical {d a b : Reg} {g : Guard} {la : Look} {s : State} (h : s.canonical = true) :
    (execSpawnh d a b g la s).canonical :=
  long_canonical (keeps_bind rd2_tidy fun _ => keeps_bind (need_tidy trap_tidy) fun _ => keeps_bind virt_tidy fun _ =>
    keeps_bind check_tidy fun _ => keeps_bind hereCell_tidy fun _ => keeps_bind spawnRec_tidy fun _ => keeps_get fun _ _ =>
    keeps_bind (need_tidy illegalState_tidy) fun _ => keeps_ite spawnCancelled_tidy
    (keeps_bind (need_tidy (stop_tidy trivial)) fun _ => keeps_bind (upd_tidy (fun _ h2 =>
    putRun_canonical (addTotal_canonical h2))) fun _ => wr_tidy)) h

/-! END, YIELD, SUSP (R220, R222, R223). -/

theorem endStreams_tidy : Tidy endStreams :=
  keeps_bind endStream_tidy fun _ => keeps_bind endStream_tidy fun _ => keeps_bind endStream_tidy fun _ => endStream_tidy

theorem endBody_tidy : Tidy endBody :=
  keeps_bind atHome_tidy fun _ => keeps_bind endStreams_tidy fun _ => keeps_bind settledAll_tidy fun _ =>
    keeps_bind released_tidy fun _ => keeps_bind drained_tidy fun _ => upd_tidy (fun _ h => endTask_canonical h)

theorem execEndTask_canonical {s : State} (h : s.canonical = true) : (execEndTask s).canonical :=
  short_canonical endBody_tidy h

theorem execCompactEnd_canonical {s : State} (h : s.canonical = true) : (execCompactEnd s).canonical :=
  short_canonical endBody_tidy h

theorem yieldBody_tidy : Tidy yieldBody :=
  keeps_bind atHome_tidy fun _ => keeps_get fun _ _ => keeps_bind (need_tidy illegalState_tidy) fun _ =>
    keeps_ite (keeps_pure _) (keeps_bind settledAll_tidy fun _ => keeps_bind drained_tidy fun _ =>
    keeps_bind (need_tidy (stop_tidy trivial)) fun _ => upd_tidy (fun _ h1 =>
    putTask_canonical (freed_canonical (dropResv_canonical h1))))

theorem execYield_canonical {s : State} (h : s.canonical = true) : (execYield s).canonical := short_canonical yieldBody_tidy h

theorem execCompactYield_canonical {s : State} (h : s.canonical = true) : (execCompactYield s).canonical :=
  short_canonical yieldBody_tidy h

theorem execSusp_canonical {a b : Reg} {g : Guard} {s : State} (h : s.canonical = true) : (execSusp a b g s).canonical :=
  short_canonical (keeps_bind atHome_tidy fun _ => keeps_bind rd2_tidy fun _ => keeps_get fun _ _ =>
    keeps_bind (need_tidy illegalState_tidy) fun _ => keeps_ite opFault_tidy (keeps_ite (keeps_bind (need_tidy trap_tidy)
    fun _ => keeps_bind virt_tidy fun _ => keeps_bind check_tidy fun _ => keeps_bind readHits_tidy fun _ =>
    keeps_bind (keeps_pure _) fun _ => keeps_bind (need_tidy illegalState_tidy) fun _ => keeps_bind settledAll_tidy fun _ =>
    keeps_ite (keeps_pure _) (keeps_ite (upd_tidy (fun _ h2 => canonical_mk (dropResv_canonical h2))) (keeps_bind drained_tidy
    fun _ => keeps_bind (need_tidy (stop_tidy trivial)) fun _ => upd_tidy (fun _ h2 =>
    canonical_mk (freed_canonical (dropResv_canonical h2)))))) (keeps_ite (keeps_bind (keeps_pure _) fun _ =>
    keeps_bind (need_tidy illegalState_tidy) fun _ => keeps_bind settledAll_tidy fun _ => keeps_ite (keeps_pure _)
    (keeps_ite (upd_tidy (fun _ h2 => canonical_mk (dropResv_canonical h2))) (keeps_bind drained_tidy fun _ =>
    keeps_bind (need_tidy (stop_tidy trivial)) fun _ => upd_tidy (fun _ h2 =>
    canonical_mk (freed_canonical (dropResv_canonical h2)))))) (keeps_bind (keeps_pure _) fun _ =>
    keeps_bind (need_tidy illegalState_tidy) fun _ => keeps_bind settledAll_tidy fun _ => keeps_ite (keeps_pure _)
    (keeps_ite (upd_tidy (fun _ h2 => canonical_mk (dropResv_canonical h2))) (keeps_bind drained_tidy fun _ =>
    keeps_bind (need_tidy (stop_tidy trivial)) fun _ => upd_tidy (fun _ h2 =>
    canonical_mk (freed_canonical (dropResv_canonical h2))))))))) h

/-! Migration (R224-R229). -/

theorem execMigr_canonical {d a : Reg} {g : Guard} {la : Look} {s : State} (h : s.canonical = true) :
    (execMigr d a g la s).canonical :=
  long_canonical (keeps_bind rd_tidy fun _ => keeps_bind virt_tidy fun _ => keeps_bind check_tidy fun _ =>
    keeps_bind hereCell_tidy fun _ => keeps_get fun _ _ => keeps_bind (need_tidy illegalState_tidy) fun _ =>
    keeps_bind farDest_tidy fun _ => keeps_ite wrFar_tidy (keeps_bind settledAll_tidy fun _ => keeps_bind await_tidy fun _ =>
    upd_tidy (fun _ h2 => depart_canonical h2))) h

theorem execHome_canonical {g : Guard} {la : Look} {s : State} (h : s.canonical = true) : (execHome g la s).canonical :=
  long_canonical (keeps_get fun _ _ => keeps_ite (keeps_pure _) (keeps_bind settledAll_tidy fun _ => upd_tidy (fun _ h2 =>
    depart_canonical h2))) h

theorem landed_canonical {s : State} (h : s.canonical = true) : s.landed.canonical = true := canonical_mk h

theorem enterSlot_canonical {s : State} {core slot : Nat} (h : s.canonical = true) :
    (s.enterSlot core slot).canonical = true := by
  rw [State.enterSlot]
  split
  next heq => exact (finds_some (carried_canonical (landed_canonical (canonical_mk h))) heq :)
  · exact due_canonical (landed_canonical (canonical_mk h))

theorem backHome_canonical {s : State} (h : s.canonical = true) : s.backHome.canonical = true := canonical_mk h

theorem execMigrationArrival_canonical {s : State} (h : s.canonical = true) : (execMigrationArrival s).canonical := by
  rw [execMigrationArrival]
  refine out_ite ?_ ?_
  · split
    next heq => exact (finds_some (carried_canonical h) heq :)
    · exact due_canonical h
  · split
    · exact out_ite (endDoomed_canonical (backHome_canonical h)) (out_ite (backHome_canonical h) (out_ite (putRun_canonical h)
        (due_canonical h)))
    · exact h

/-! Slot filling (R241). -/

theorem startIn_canonical {s : State} {core slot : Nat} {r : Rec} (h : s.canonical = true) :
    (s.startIn core slot r).canonical = true :=
  putStrand_canonical h

theorem fillFromRun_canonical {s : State} {core slot : Nat} {e : RunEntry} {rest : List (Nat × RunEntry)}
    (h : s.canonical = true) :
    (s.fillFromRun core slot e rest).canonical = true := by
  unfold State.fillFromRun
  split
  · exact enterSlot_canonical (focus_canonical (due_canonical (canonical_mk h)))
  · exact startIn_canonical (due_canonical (canonical_mk h))

theorem fillFromTask_canonical {s : State} {cl : Nat} {die : Bool} {r : Rec} {core slot : Nat} (h : s.canonical = true) :
    (s.fillFromTask cl die r core slot).canonical = true :=
  startIn_canonical (refill_canonical (canonical_mk h))

theorem execSlotFill_canonical {s : State} (h : s.canonical = true) : (execSlotFill s).canonical := by
  rw [execSlotFill]
  refine out_ite h ?_
  dsimp only
  split
  · exact fillFromRun_canonical h
  · split
    · split
      · exact h
      · split
        · exact due_canonical (fillFromRun_canonical h)
        · exact due_canonical (fillFromTask_canonical h)
    · exact h

theorem execRecordAgeing_canonical {s : State} (h : s.canonical = true) : (execRecordAgeing s).canonical := by
  rw [execRecordAgeing]
  split
  · exact canonical_mk h
  · split
    · exact canonical_mk h
    · exact h

theorem wakeRec_canonical {s : State} {f : Nat × Rec → Bool} (h : s.canonical = true) : (s.wakeRec f).canonical = true := by
  rw [State.wakeRec]
  split
  · exact h
  · exact putTask_canonical (canonical_mk h)

theorem execWaitSetTimeWake_canonical {s : State} (h : s.canonical = true) : (execWaitSetTimeWake s).canonical :=
  wakeRec_canonical h

/-! Checks and accesses of a strand. -/

theorem fieldByte_tidy {right lo : Nat} {p : Nat × Nat} : Tidy (fieldByte right lo p) :=
  fun _ h => ends_ite trivial (ends_ite (checkByte_tidy _ h) (ends_ite h (vfault_tidy _ h)))

theorem fieldBytes_tidy {right lo : Nat} {r : List (Nat × Nat)} : Tidy (fieldBytes right lo r) := by
  induction r with
  | nil =>
    rw [fieldBytes]
    exact keeps_pure _
  | cons _ _ ih =>
    rw [fieldBytes]
    exact keeps_bind fieldByte_tidy fun _ => keeps_bind ih fun _ => keeps_pure _

theorem checkElem_tidy {right : Nat} {f : View} {n idx : Nat} : Tidy (checkElem right f n idx) :=
  keeps_get fun _ _ => fieldBytes_tidy

theorem writeWhole_tidy {tval : Word} {cs : List (Nat × Byte)} : Tidy (writeWhole tval cs) := by
  unfold writeWhole
  intro s h
  refine ends_ite trivial ?_
  split
  · exact setCells_canonical h
  · exact canonical_mk (logError_canonical h)

theorem putRuns_tidy {kind : Nat} {tval : Word} {r : List (List Hit)} {r1 : List Byte} : Tidy (putRuns kind tval r r1) := by
  induction r generalizing kind tval r1 with
  | nil =>
    rw [putRuns]
    exact keeps_pure _
  | cons _ _ ih =>
    rw [putRuns]
    refine keeps_get fun _ _ => ?_
    split
    · exact ih
    · split
      · exact keeps_bind writeWhole_tidy fun _ => ih
      · exact keeps_bind queueStore_tidy fun _ => ih

theorem putElem_tidy {f : View} {idx : Nat} {hs : List Hit} {bs : List Byte} : Tidy (putElem f idx hs bs) :=
  keeps_get fun _ _ => keeps_bind logWrite_tidy fun _ => keeps_bind logWrite_tidy fun _ => keeps_bind (upd_tidy (fun _ h1 =>
    counted_canonical h1)) fun _ => putRuns_tidy

theorem awaitWrites_tidy {la : Nat} {detached : Bool} : Tidy (awaitWrites la detached) :=
  keeps_get fun _ _ => keeps_ite await_tidy (keeps_pure _)

/-! Shared steps. -/

theorem fieldReady_tidy : Tidy fieldReady := fun _ h => ends_ite trivial h

theorem fieldOf_tidy {a : Word} {right : Right} : Tidy (fieldOf a right) :=
  keeps_get fun _ _ => keeps_bind useHandle_tidy fun _ => keeps_bind fieldReady_tidy fun _ => keeps_pure _

theorem planesOk_tidy {o : Obj} {c : Nat} {md : Bool} : Tidy (planesOk o c md) := keeps_ite (keeps_pure _) opFault_tidy

theorem indexOk_tidy {o : Obj} {b : Word} : Tidy (indexOk o b) := keeps_ite (keeps_pure _) opFault_tidy

theorem elemRead_tidy {tval : Word} {hs : List Hit} : Tidy (elemRead tval hs) :=
  keeps_get fun _ _ => keeps_ite readElem_tidy (keeps_bind readHits_tidy fun _ => keeps_pure _)

theorem readRest_tidy {f : View} {idx : Nat} : Tidy (readRest f idx) :=
  keeps_get fun _ _ => keeps_bind checkElem_tidy fun _ => keeps_bind elemRead_tidy fun _ => keeps_pure _

theorem readField_tidy {f : View} {c : Nat} {near : Bool} {idx : Nat} {hs : List Hit} : Tidy (readField f c near idx hs) :=
  keeps_get fun _ _ => keeps_bind elemRead_tidy fun _ => keeps_ite readRest_tidy (keeps_pure _)

/-! LDF and STF (R148). -/

theorem execLdf_canonical {d a b : Reg} {c : Fin 4} {md : Bool} {g : Guard} {la : Look} {s : State} (h : s.canonical = true) :
    (execLdf d a b c md g la s).canonical :=
  long_canonical (keeps_bind rd2_tidy fun _ => keeps_bind fieldOf_tidy fun _ => keeps_bind planesOk_tidy fun _ =>
    keeps_bind indexOk_tidy fun _ => keeps_bind checkElem_tidy fun _ => keeps_bind nearHome_tidy fun _ =>
    keeps_bind soFree_tidy fun _ => keeps_bind readField_tidy fun _ => keeps_ite (keeps_get fun _ _ =>
    keeps_bind wr_tidy fun _ => countFirst_tidy) (keeps_bind destOk_tidy fun _ => keeps_bind askAll_tidy fun _ =>
    keeps_bind await_tidy fun _ => keeps_bind markSo_tidy fun _ => countFirst_tidy)) h

theorem execStf_canonical {d a b : Reg} {c : Fin 4} {md : Bool} {g : Guard} {la : Look} {s : State} (h : s.canonical = true) :
    (execStf d a b c md g la s).canonical :=
  long_canonical (keeps_bind rd2_tidy fun _ => keeps_bind rd_tidy fun _ => keeps_bind fieldOf_tidy fun _ =>
    keeps_bind planesOk_tidy fun _ => keeps_bind (need_tidy opFault_tidy) fun _ => keeps_bind indexOk_tidy fun _ =>
    keeps_bind checkElem_tidy fun _ => keeps_bind nearHome_tidy fun _ => keeps_bind soFree_tidy fun _ =>
    keeps_bind putElem_tidy fun _ => keeps_bind awaitWrites_tidy fun _ => countFirst_tidy) h

/-! The line forms (R149, R150). -/

theorem lineIndices_tidy {o : Obj} {b : Word} : Tidy (lineIndices o b) :=
  keeps_get fun _ _ => keeps_bind (need_tidy opFault_tidy) fun _ => keeps_bind (need_tidy opFault_tidy) fun _ => keeps_pure _

theorem checkLanes_tidy {right : Nat} {f : View} {n : Nat} {r : List Nat} : Tidy (checkLanes right f n r) := by
  induction r with
  | nil =>
    rw [checkLanes]
    exact keeps_pure _
  | cons _ _ ih =>
    rw [checkLanes]
    exact keeps_ite (keeps_bind ih fun _ => keeps_pure _) (keeps_bind checkElem_tidy fun _ => keeps_bind ih fun _ =>
      keeps_pure _)

theorem fieldLine_canonical {i : Instr} {la : Look} {k : Option (Fin 8)} {body : M Unit} {s : State} (hbody : Tidy body)
    (h : s.canonical = true) :
    (fieldLine i la k body s).canonical :=
  legalIf_canonical (fun _ h1 => longLine_canonical (keeps_bind atHome_tidy fun _ => hbody) h1) h

theorem readFields_tidy {f : View} {c : Nat} {near : Bool} {is : List Nat} {hs : List (Option (List Hit))} :
    Tidy (readFields f c near is hs) := by
  fun_induction readFields f c near is hs with
  | case1 _ r t ih => exact keeps_bind ih fun _ => keeps_pure _
  | case2 i r h t ih => exact keeps_bind readField_tidy fun _ => keeps_bind ih fun _ => keeps_pure _
  | case3 => exact keeps_pure _

theorem execVldf_canonical {a b : Reg} {k : Fin 8} {c : Fin 4} {md : Bool} {la : Look} {s : State} (h : s.canonical = true) :
    (execVldf a b k c md la s).canonical :=
  fieldLine_canonical (keeps_bind rd2_tidy fun _ => keeps_bind fieldOf_tidy fun _ => keeps_bind planesOk_tidy fun _ =>
    keeps_bind (need_tidy opFault_tidy) fun _ => keeps_bind lineIndices_tidy fun _ => keeps_bind checkLanes_tidy fun _ =>
    keeps_bind soFree_tidy fun _ => keeps_bind readFields_tidy fun _ => keeps_bind settledK_tidy fun _ =>
    keeps_ite (keeps_get fun _ _ => keeps_bind wrLine_tidy fun _ => countFirst_tidy) (keeps_bind askAll_tidy fun _ =>
    keeps_bind await_tidy fun _ => keeps_bind (upd_tidy (fun _ h1 => openLine_canonical h1)) fun _ =>
    keeps_bind markSo_tidy fun _ => countFirst_tidy)) h

theorem writeLanes_tidy {f : View} {bytes : Nat → List Byte} {j : Nat} {is : List Nat} {hs : List (Option (List Hit))} :
    Tidy (writeLanes f bytes j is hs) := by
  fun_induction writeLanes f bytes j is hs with
  | case1 j _ r t ih => exact ih
  | case2 j i r h t ih => exact keeps_bind putElem_tidy fun _ => ih
  | case3 => exact keeps_pure _

theorem execVstf_canonical {a b : Reg} {k : Fin 8} {c : Fin 4} {md : Bool} {la : Look} {s : State} (h : s.canonical = true) :
    (execVstf a b k c md la s).canonical :=
  fieldLine_canonical (keeps_bind rd2_tidy fun _ => keeps_bind fieldOf_tidy fun _ => keeps_bind planesOk_tidy fun _ =>
    keeps_bind (need_tidy opFault_tidy) fun _ => keeps_bind lineIndices_tidy fun _ => keeps_bind checkLanes_tidy fun _ =>
    keeps_bind soFree_tidy fun _ => keeps_bind rdLine_tidy fun _ => keeps_bind writeLanes_tidy fun _ =>
    keeps_bind awaitWrites_tidy fun _ => countFirst_tidy) h

/-! Optimisers (R150). -/

theorem optHere_tidy {tval : Word} {hs : List Hit} {f : List Byte → List Byte} : Tidy (optHere tval hs f) :=
  keeps_get fun _ _ => keeps_ite (keeps_bind (stop_tidy trivial) fun _ => writeWhole_tidy) writeWhole_tidy

theorem optElem_tidy {op : Nat} {f : View} {coef g : Half} {idx : Nat} {hs : List Hit} : Tidy (optElem op f coef g idx hs) :=
  keeps_get fun _ _ => keeps_bind logWrite_tidy fun _ => keeps_bind logWrite_tidy fun _ => keeps_bind (upd_tidy (fun _ h1 =>
    counted_canonical h1)) fun _ => keeps_ite (keeps_bind trap_tidy fun _ => keeps_ite optHere_tidy queueStore_tidy)
    (keeps_ite optHere_tidy queueStore_tidy)

theorem optLanes_tidy {op : Nat} {f : View} {coef : Half} {v : Line} {j : Nat} {is : List Nat} {hs : List (Option (List Hit))}
    :
    Tidy (optLanes op f coef v j is hs) := by
  fun_induction optLanes op f coef v j is hs with
  | case1 j _ r t ih => exact ih
  | case2 j i r h t ih => exact keeps_bind optElem_tidy fun _ => ih
  | case3 => exact keeps_pure _

theorem optimiser_canonical {i : Instr} {op : Nat} {a b : Reg} {k : Fin 8} {la : Look} {s : State} (h : s.canonical = true) :
    (optimiser i op a b k la s).canonical :=
  fieldLine_canonical (keeps_bind rd2_tidy fun _ => keeps_bind fieldOf_tidy fun _ => keeps_bind (need_tidy opFault_tidy)
    fun _ => keeps_bind lineIndices_tidy fun _ => keeps_bind checkLanes_tidy fun _ => keeps_bind soFree_tidy fun _ =>
    keeps_bind rdLine_tidy fun _ => keeps_bind getE_tidy fun _ => keeps_bind optLanes_tidy fun _ => awaitWrites_tidy) h

theorem execPacc_canonical {a b : Reg} {k : Fin 8} {la : Look} {s : State} (h : s.canonical = true) :
    (execPacc a b k la s).canonical :=
  optimiser_canonical h

theorem execPaxpy_canonical {a b : Reg} {k : Fin 8} {la : Look} {s : State} (h : s.canonical = true) :
    (execPaxpy a b k la s).canonical :=
  optimiser_canonical h

theorem execPema_canonical {a b : Reg} {k : Fin 8} {la : Look} {s : State} (h : s.canonical = true) :
    (execPema a b k la s).canonical :=
  optimiser_canonical h

/-! What the other device does. -/

theorem serveReq_canonical {s : State} {r : Req} (h : s.canonical = true) : (s.serveReq r).canonical = true := by
  rw [State.serveReq]
  refine canonical_ite ?_ ?_
  · split
    · exact setCells_canonical h
    · exact canonical_ite (setCells_canonical h) h
    · exact h
  · refine setCells_canonical ?_
    split
    · exact setCells_canonical h
    · exact canonical_ite (setCells_canonical h) h
    · exact h

theorem execStaleReply_canonical {s : State} (h : s.canonical = true) : (execStaleReply s).canonical := stale_canonical h

/-! Acknowledgements. -/

theorem settleWrites_canonical {s : State} {sid : Nat} (h : s.canonical = true) : (s.settleWrites sid).canonical = true :=
  modStrand_canonical h

theorem closeReq_canonical {s : State} {k : Nat} {r : Req} (h : s.canonical = true) : (s.closeReq k r).canonical = true :=
  settleWrites_canonical (modStrand_canonical (dropReq_canonical h))

theorem failReq_canonical {s : State} {k : Nat} {r : Req} {cls : Nat} (h : s.canonical = true) :
    (s.failReq k r cls).canonical = true :=
  canonical_ite (modStrand_canonical (dropReq_canonical h)) (modStrand_canonical (closeReq_canonical h))

theorem execAcknowledgementArrival_canonical {s : State} (h : s.canonical = true) :
    (execAcknowledgementArrival s).canonical := by
  rw [execAcknowledgementArrival]
  split
  · exact stale_canonical h
  · refine out_ite ?_ (stale_canonical h)
    refine canonical_ite ?_ ?_
    · refine passOn_canonical ?_
      split
      · exact closeReq_canonical (serveReq_canonical h)
      · exact failReq_canonical (serveReq_canonical h)
    · split
      · exact closeReq_canonical (serveReq_canonical h)
      · exact failReq_canonical (serveReq_canonical h)

/-! Results that arrive (R26). -/

theorem restage_tidy {f : View} {c : Nat} {near : Bool} {l : List (Option Elem)} : Tidy (restage f c near l) := by
  induction l with
  | nil => exact keeps_pure _
  | cons x l ih =>
    cases x with
    | none => exact keeps_bind ih fun _ => keeps_pure _
    | some e =>
      rw [restage]
      split
      · exact keeps_get fun _ _ => keeps_bind readRest_tidy fun _ => keeps_bind ih fun _ => keeps_pure _
      · exact keeps_bind (keeps_pure _) fun _ => keeps_bind ih fun _ => keeps_pure _

theorem restaged_tidy {els : List (Option Elem)} {r : Shape} : Tidy (restaged els r) := by
  unfold restaged
  split
  · exact restage_tidy
  · exact restage_tidy
  · exact keeps_pure _

theorem deliverLine_tidy {p : Pending} {v : Line} : Tidy (deliverLine p v) := by
  rw [deliverLine]
  split
  · exact updMe_tidy
  · exact wrLine_tidy
  · exact keeps_pure _

theorem deliverFetch_tidy {p : Pending} {els : List (Option Elem)} {how : Shape} : Tidy (deliverFetch p els how) := by
  rw [deliverFetch]
  refine keeps_get fun _ _ => ?_
  split
  · exact deliver_tidy
  · exact deliverLine_tidy
  · exact deliver_tidy
  · exact deliverLine_tidy

theorem goOn_canonical {s : State} {p : Pending} {t : Strand} (h : s.canonical = true) : (goOn s p t).canonical = true := by
  rw [goOn]
  split
  · split
    · exact undelivered_canonical h
    next heq1 =>
      refine canonical_ite ?_ (canonical_ite (swapPend_canonical (askElems_canonical (ends_ok (restaged_tidy _ h) heq1 :)))
        (canonical_ite (swapPend_canonical (ends_ok (restaged_tidy _ h) heq1 :)) (swapPend_canonical
        (ends_ok (restaged_tidy _ h) heq1 :))))
      split
      next heq2 => exact (ends_ok (deliverFetch_tidy _ (canonical_mk (ends_ok (restaged_tidy _ h) heq1 :))) heq2 :)
      · exact undelivered_canonical h
  · exact h

theorem fillLines_canonical {s : State} {dev job : Nat} {r : List (Nat × Nat)} (h : s.canonical = true) :
    (s.fillLines dev job r).canonical = true := by
  induction r generalizing s with
  | nil =>
    rw [State.fillLines]
    exact h
  | cons _ _ ih =>
    rw [State.fillLines]
    exact ih (canonical_ite h (fillLine_canonical h))

theorem loadReply_canonical {s : State} {k : Nat} {r : Req} (h : s.canonical = true) : (loadReply s k r).canonical = true := by
  rw [loadReply]
  split
  · exact canonical_mk (focus_canonical (dropReq_canonical (canonical_ite (fillLines_canonical h) h)))
  · refine canonical_ite ?_ (canonical_mk (focus_canonical (dropReq_canonical (canonical_ite (fillLines_canonical h) h))))
    split
    · exact canonical_mk (focus_canonical (dropReq_canonical (canonical_ite (fillLines_canonical h) h)))
    · exact goOn_canonical (canonical_mk (focus_canonical (dropReq_canonical (canonical_ite (fillLines_canonical h) h))))

theorem atomicReply_canonical {s : State} {r : Req} {p : Pending} {t : Strand} {op : Nat} {b c : Word}
    (h : s.canonical = true) :
    (atomicReply s r p t op b c).canonical = true := by
  rw [atomicReply]
  split
  · exact canonical_ite (passOn_canonical (canonical_mk (swapPend_canonical h))) (swapPend_canonical h)
  · exact complete_canonical (canonical_ite (acquireSpan_canonical h) (canonical_ite h (setCells_canonical (setCells_canonical
      h))))

theorem lrwReply_canonical {s : State} {k : Nat} {r : Req} {p : Pending} {t : Strand} {b c : Word} (h : s.canonical = true) :
    (lrwReply s k r p t b c).canonical = true := by
  rw [lrwReply]
  split
  · exact atomicReply_canonical (hold_canonical (dropReq_canonical h))
  · exact canonical_ite (atomicReply_canonical (hold_canonical (dropReq_canonical h))) (canonical_ite h
      (canonical_ite (due_canonical (queueUp_canonical h)) (queueUp_canonical h)))

theorem execResultArrival_canonical {s : State} (h : s.canonical = true) : (execResultArrival s).canonical := by
  rw [execResultArrival]
  refine out_ite ?_ ?_
  · dsimp only
    split
    · exact stale_canonical h
    · refine out_ite (stale_canonical h) ?_
      refine out_ite (loadReply_canonical h) ?_
      split
      · exact dropReq_canonical (focus_canonical h)
      · split
        · exact canonical_ite (lrwReply_canonical (focus_canonical h)) (atomicReply_canonical (dropReq_canonical
            (focus_canonical h)))
        · exact dropReq_canonical (focus_canonical h)
  · split
    · exact completeNow_canonical h
    · split
      · exact goOn_canonical h
      · exact h

/-! Timeouts (R298). -/

theorem lostAmo_canonical {s : State} {k : Nat} {r : Req} (h : s.canonical = true) : (s.lostAmo k r).canonical = true := by
  rw [State.lostAmo]
  split
  · exact canonical_ite h (setCells_canonical h)
  · exact h

theorem giveUp_canonical {s : State} {k : Nat} {r : Req} (h : s.canonical = true) : (s.giveUp k r).canonical = true :=
  count_canonical (canonical_mk (dropReq_canonical h))

theorem execRequestTimeout_canonical {s : State} (h : s.canonical = true) : (execRequestTimeout s).canonical := by
  rw [execRequestTimeout]
  dsimp only
  split
  · exact h
  · refine out_ite (modStrand_canonical (giveUp_canonical h)) ?_
    refine out_ite (modStrand_canonical (canonical_ite (due_canonical (unwait_canonical (giveUp_canonical
      (canonical_ite (lostAmo_canonical h) h)))) (unwait_canonical (giveUp_canonical (canonical_ite (lostAmo_canonical h)
      h))))) ?_
    refine out_ite ?_ (hwSend_canonical (modStrand_canonical (closeReq_canonical (canonical_ite (passOn_canonical
      (giveUp_canonical (canonical_ite (serveReq_canonical h) h))) (giveUp_canonical (canonical_ite (serveReq_canonical h)
      h))))))
    split
    · exact setSend_canonical (focus_canonical (giveUp_canonical h))
    · exact focus_canonical (giveUp_canonical h)

theorem execPacketAgeDiscard_canonical {s : State} (h : s.canonical = true) : (execPacketAgeDiscard s).canonical :=
  count_canonical (canonical_mk h)

/-! Requests from other devices (R284). -/

theorem replyTo_canonical {s : State} {a : Arg} {b : Nat} {bs : List Byte} (h : s.canonical = true) :
    (s.replyTo a b bs).canonical = true :=
  canonical_mk h

theorem farReserve_canonical {s : State} {a : Arg} {line : Nat} (h : s.canonical = true) :
    (s.farReserve a line).canonical = true :=
  canonical_ite (canonical_mk (canonical_mk h)) (canonical_ite (due_canonical (canonical_mk (canonical_mk h)))
    (canonical_mk (canonical_mk h)))

theorem execRemoteAccessRequest_canonical {s : State} (h : s.canonical = true) : (execRemoteAccessRequest s).canonical := by
  rw [execRemoteAccessRequest]
  split
  · exact replyTo_canonical h
  · refine out_ite (due_canonical (counted_canonical h)) ?_
    refine out_ite (farReserve_canonical (counted_canonical h)) ?_
    refine canonical_ite ?_ ?_
    · refine passOn_canonical ?_
      split
      · exact replyTo_canonical (canonical_ite (setCells_canonical (logError_canonical (counted_canonical h)))
          (logError_canonical (counted_canonical h)))
      · exact replyTo_canonical (canonical_ite (counted_canonical h) (setCells_canonical (counted_canonical h)))
    · split
      · exact replyTo_canonical (canonical_ite (setCells_canonical (logError_canonical (counted_canonical h)))
          (logError_canonical (counted_canonical h)))
      · exact replyTo_canonical (canonical_ite (counted_canonical h) (setCells_canonical (counted_canonical h)))

/-! Queued stores. -/

theorem sendStore_canonical {s : State} {p : PendStore} (h : s.canonical = true) :
    Finds (fun x => x.canonical = true) (s.sendStore p) := by
  rw [State.sendStore]
  split
  · exact trivial
  next heq =>
    exact canonical_ite (canonical_mk (finds_some (request_canonical h) heq :))
      (canonical_mk (finds_some (request_canonical h) heq :))

theorem execStorePerform_canonical {s : State} (h : s.canonical = true) : (execStorePerform s).canonical := by
  rw [execStorePerform]
  split
  · exact canonical_ite h (due_canonical h)
  · split
    · exact h
    · exact out_ite (performApert_canonical (canonical_mk h)) (out_ite (perform_canonical (canonical_mk h))
        (out_ite (due_canonical h) (finds_getD (sendStore_canonical (canonical_mk h)) (due_canonical h))))

/-! PAGE_WALK (R282, R283). -/

theorem execPageWalk_canonical {s : State} (h : s.canonical = true) : (execPageWalk s).canonical := by
  rw [execPageWalk]
  split
  · exact h
  next heq => exact (finds_some (lookup_canonical h) heq :)

/-! Replicas. -/

theorem setFieldTab_canonical {s : State} {f : FieldTab} (h : s.canonical = true) : (s.setFieldTab f).canonical = true :=
  canonical_mk h

theorem logChange_canonical {s : State} {key call : Nat} {change : Change} {f : Obj → Obj} (h : s.canonical = true) :
    (s.logChange key call change f).canonical = true :=
  modObj_canonical (canonical_mk h)

theorem fieldApply_canonical {s : State} {job die : Nat} (h : s.canonical = true) : (s.fieldApply job die).canonical = true := by
  rw [State.fieldApply]
  split
  · exact h
  · split
    · exact h
    · exact canonical_ite h (canonical_ite (due_canonical (setFieldTab_canonical h)) (setFieldTab_canonical h))

theorem fieldReport_canonical {s : State} {job die : Nat} (h : s.canonical = true) :
    (s.fieldReport job die).canonical = true := by
  rw [State.fieldReport]
  split
  · exact h
  · split
    · exact h
    · exact setFieldTab_canonical h

theorem takeUps_canonical {s : State} (h : s.canonical = true) : s.takeUps.canonical = true := canonical_mk h

/-! Exclusion (R257, R258). -/

theorem fieldExclude_canonical {s : State} {job die : Nat} {tell : Bool} (h : s.canonical = true) :
    (s.fieldExclude job die tell).canonical = true := by
  rw [State.fieldExclude]
  split
  · exact h
  · exact canonical_ite h (canonical_ite (hwSend_canonical (canonical_mk h)) (canonical_mk h))

/-! Requests. -/

theorem startRemap_canonical {s : State} {r : Remap} (h : s.canonical = true) : (s.startRemap r).canonical = true :=
  logChange_canonical (canonical_mk h)

theorem startRemaps_canonical {r : Nat} {s : State} (h : s.canonical = true) : (State.startRemaps r s).canonical = true := by
  induction r generalizing s with
  | zero =>
    rw [State.startRemaps]
    exact h
  | succ _ ih =>
    rw [State.startRemaps]
    refine canonical_ite h ?_
    split
    · exact h
    · exact canonical_ite (ih (startRemap_canonical h)) h

theorem requestRemap_canonical {s : State} {key : Nat} {o : Obj} {swaps : List (Nat × Nat)} (h : s.canonical = true) :
    (s.requestRemap key o swaps).1.canonical = true := by
  rw [State.requestRemap]
  split
  · exact logChange_canonical h
  · exact logChange_canonical (canonical_mk h)

/-! The end of a remap. -/

theorem endTicket_canonical {s : State} {t : Nat} (h : s.canonical = true) : (s.endTicket t).canonical = true :=
  canonical_mk h

theorem dropRemap_canonical {s : State} {r : Remap} (h : s.canonical = true) : (s.dropRemap r).canonical = true :=
  endTicket_canonical (canonical_mk h)

theorem stopRemaps_canonical {s : State} {key : Nat} (h : s.canonical = true) : (s.stopRemaps key).canonical = true :=
  canonical_foldl (canonical_mk h) (fun _ _ h1 => endTicket_canonical h1) _

theorem freeEnded_canonical {s : State} (h : s.canonical = true) : s.freeEnded.canonical = true :=
  canonical_foldl h (fun _ _ h1 => modObj_canonical (dropRemap_canonical h1)) _

/-! Groups (R273). -/

theorem setRemap_canonical {s : State} {r : Remap} (h : s.canonical = true) : (s.setRemap r).canonical = true :=
  canonical_mk h

theorem remapError_canonical {s : State} {r : Remap} {k va : Nat} (h : s.canonical = true) :
    (s.remapError r k va).canonical = true :=
  canonical_foldl (canonical_mk (setRemap_canonical (hwSend_canonical (logError_canonical h)))) (fun _ _ h1 =>
    due_canonical h1) _

theorem remapHeld_canonical {s : State} {r : Remap} {m : Mover} {va : Nat} (h : s.canonical = true) :
    (s.remapHeld r m va).canonical = true :=
  due_canonical (hwSend_canonical (setRemap_canonical h))

theorem groupDone_canonical {s : State} {r : Remap} {m : Mover} {g : List Nat} (h : s.canonical = true) :
    (s.groupDone r m g).canonical = true :=
  setRemap_canonical h

theorem execRemapGroupMove_canonical {s : State} (h : s.canonical = true) : (execRemapGroupMove s).canonical := by
  rw [execRemapGroupMove]
  split
  · exact h
  next r m _ =>
    split
    · dsimp only
      split
      · exact h
      · split
        · exact groupDone_canonical (canonical_mk h)
        · split
          · exact remapHeld_canonical (canonical_mk h)
          · split
            · exact canonical_mk h
            · split
              · exact remapError_canonical (canonical_mk h)
              · exact setRemap_canonical (canonical_mk h)
    · dsimp only
      split
      · exact setRemap_canonical h
      · exact setRemap_canonical h
    · split
      · exact h
      · exact groupDone_canonical (setCells_canonical h)
    · exact setRemap_canonical h

theorem execRemapPassEnd_canonical {s : State} (h : s.canonical = true) : (execRemapPassEnd s).canonical := by
  rw [execRemapPassEnd]
  split
  · exact h
  · exact out_ite h (logChange_canonical (setRemap_canonical h))

theorem execRemapCommit_canonical {s : State} (h : s.canonical = true) : (execRemapCommit s).canonical := by
  rw [execRemapCommit]
  split
  · exact h
  · exact out_ite h (dropRemap_canonical (logChange_canonical h))

theorem execRemapGroupRetry_canonical {s : State} (h : s.canonical = true) : (execRemapGroupRetry s).canonical := by
  rw [execRemapGroupRetry]
  split
  · exact h
  · split
    · exact h
    · exact setRemap_canonical h

theorem retryRemaps_canonical {s : State} (h : s.canonical = true) : s.retryRemaps.canonical = true := canonical_mk h

end Sys2Proof.Machine
end

section
/-! SUPPORT. Canonical memory is kept: the engines and the OPMU. -/

namespace Sys2Proof.Machine
open Sys2Proof.Num

/-! Accesses of engines. -/

theorem engHit_tidy {cl job right va : Nat} {p : Nat × Nat} : UnitTidy (engHit cl job right va p) := by
  unfold engHit
  intro s h
  refine ends_ite ?_ h
  split
  · exact trivial
  next heq => exact ends_ite (finds_some (lookup_canonical h) heq :) trivial

theorem engFrom_tidy {cl job right va : Nat} {r : List (Nat × Nat)} : UnitTidy (engFrom cl job right va r) := by
  induction r with
  | nil =>
    rw [engFrom]
    exact keeps_pure _
  | cons _ _ ih =>
    rw [engFrom]
    exact keeps_bind engHit_tidy fun _ => keeps_bind ih fun _ => keeps_pure _

theorem engHits_tidy {cl job right : Nat} {ps : List (Nat × Nat)} : UnitTidy (engHits cl job right ps) :=
  keeps_bind engFrom_tidy fun _ => fun _ h => ends_ite trivial h

theorem engRead_tidy {cl job : Nat} {ps : List (Nat × Nat)} : UnitTidy (engRead cl job ps) := by
  rw [engRead]
  refine keeps_bind engHits_tidy fun _ => ?_
  intro s h
  refine ends_ite trivial ?_
  dsimp only
  split
  · exact trivial
  · exact counted_canonical (canonical_foldl h (fun _ _ h1 => fetchHit_canonical h1) _)

theorem engLog_tidy {cl job va : Nat} : UnitTidy (engLog cl job va) := by
  unfold engLog
  intro s h
  beta_reduce
  split
  · exact h
  · refine ends_ite h ?_
    split
    · exact trivial
    next heq1 => exact canonical_mk (finds_some (appendLog_canonical h) heq1 :)

theorem engLogs_tidy {cl job : Nat} {r : List (Nat × Nat)} : UnitTidy (engLogs cl job r) := by
  induction r with
  | nil =>
    rw [engLogs]
    exact keeps_pure _
  | cons _ _ ih =>
    rw [engLogs]
    exact keeps_bind engLog_tidy fun _ => ih

theorem farWrite_canonical {s : State} {job : Nat} {hs : List Hit} {bs : List Byte} (h : s.canonical = true) :
    (s.farWrite job hs bs).canonical = true := by
  rw [State.farWrite]
  split
  · exact h
  · exact canonical_ite (toGroup_canonical (canonical_mk h)) (canonical_mk h)

theorem engWrite_tidy {cl job : Nat} {ps : List (Nat × Nat)} {bs : List Byte} : UnitTidy (engWrite cl job ps bs) := by
  rw [engWrite]
  refine keeps_bind engHits_tidy fun _ => ?_
  refine keeps_bind engLogs_tidy fun _ => ?_
  intro s h
  refine ends_ite trivial ?_
  split
  · exact h
  · exact counted_canonical (farWrite_canonical (setCells_canonical h))

/-! Units without a strand. -/

theorem unitRead_canonical {s : State} {cl job va n : Nat} (h : s.canonical = true) :
    Ends (fun _ => True) (fun x => x.2.canonical = true) (s.unitRead cl job va n) :=
  engRead_tidy _ h

theorem unitPieces_canonical {s : State} {cl job n r r1 : Nat} (h : s.canonical = true) :
    Ends (fun _ => True) (fun x => x.2.canonical = true) (s.unitPieces cl job n r r1) := by
  induction r generalizing s cl job n r1 with
  | zero =>
    rw [State.unitPieces]
    exact h
  | succ _ ih =>
    rw [State.unitPieces]
    split
    · exact trivial
    next heq =>
      split
      · exact trivial
      next heq1 => exact (ends_ok (ih (ends_ok (unitRead_canonical h) heq :)) heq1 :)

theorem engAdd_tidy {cl job va n : Nat} : UnitTidy (engAdd cl job va n) := by
  rw [engAdd]
  refine keeps_get fun _ _ => ?_
  refine keeps_bind engHits_tidy fun _ => ?_
  refine keeps_ite (fun _ h1 => engWrite_tidy _ h1) ?_
  refine keeps_bind engLogs_tidy fun _ => ?_
  intro s1 h1
  split
  · exact h1
  · exact counted_canonical (canonical_ite (toGroup_canonical (canonical_mk (setCells_canonical h1)))
      (canonical_mk (setCells_canonical h1)))

theorem addWord_canonical {s : State} {cl job va n : Nat} (h : s.canonical = true) :
    (s.addWord cl job va n).canonical = true := by
  rw [State.addWord]
  split
  next heq => exact (ends_ok (engAdd_tidy _ h) heq :)
  next heq => exact logError_canonical (ends_ok (engAdd_tidy _ h) heq :)
  · exact canonical_ite (canonical_mk h) h

theorem retryAdds_canonical {s : State} (h : s.canonical = true) : s.retryAdds.canonical = true :=
  canonical_foldl (canonical_mk h) (fun _ _ h1 => addWord_canonical h1) _

/-! Elements of fields. -/

theorem engCode_tidy {cl : Nat} {f : View} {idx : Nat} : UnitTidy (engCode cl f idx) :=
  keeps_get fun _ _ => keeps_bind engRead_tidy fun _ => keeps_pure _

theorem engValue_tidy {cl : Nat} {f : View} {idx : Nat} : UnitTidy (engValue cl f idx) :=
  keeps_ite (keeps_pure _) (keeps_bind engCode_tidy fun _ => keeps_pure _)

theorem engBytes_tidy {cl : Nat} {f : View} {idx : Nat} {bs : List Byte} : UnitTidy (engBytes cl f idx bs) :=
  keeps_ite (keeps_pure _) (keeps_get fun _ _ => engWrite_tidy)

theorem attempt_tidy {first : Option EngErr} {x : EM (Option EngErr)} (hx : UnitTidy x) : UnitTidy (attempt first x) := by
  unfold attempt
  intro s h
  beta_reduce
  split
  next heq => exact (ends_ok (hx _ h) heq :)
  · exact ends_ite trivial h

/-! Which release a command is (R344). -/

theorem issueFor_tidy {far : Bool} : Tidy (issueFor far) := keeps_ite releasedSpan_tidy released_tidy

/-! Slots (R179, Table 10.2). -/

theorem setRow_canonical {s : State} {cl slot j f : Nat} {l : List Nat} (h : s.canonical = true) :
    (s.setRow cl slot j f l).canonical = true :=
  canonical_mk h

theorem setTags_canonical {s : State} {cl s0 f n : Nat} (h : s.canonical = true) : (s.setTags cl s0 f n).canonical = true :=
  canonical_mk h

theorem dropBufs_canonical {s : State} {cl s0 n : Nat} (h : s.canonical = true) : (s.dropBufs cl s0 n).canonical = true :=
  canonical_mk h

/-! Elements of a command. -/

theorem readAll_tidy {cl : Nat} {f : View} {r : List Nat} : UnitTidy (readAll cl f r) := by
  induction r with
  | nil =>
    rw [readAll]
    exact keeps_pure _
  | cons _ _ ih =>
    rw [readAll]
    exact keeps_bind engValue_tidy fun _ => keeps_bind ih fun _ => keeps_pure _

theorem add_tidy {w : Work} {x : EM (List (Nat × Nat × List Byte))} (hx : UnitTidy x) : UnitTidy (w.add x) := by
  unfold Work.add
  intro s h
  beta_reduce
  split
  next heq => exact (ends_ok (hx _ h) heq :)
  · exact ends_ite trivial h

theorem result_tidy {c : Cmd} {y : View} {idx : Nat} {r : List Half} : UnitTidy (result c y idx r) :=
  keeps_ite (keeps_bind engValue_tidy fun _ => keeps_bind (keeps_pure _) fun _ => keeps_pure _) (keeps_bind (keeps_pure _)
    fun _ => keeps_pure _)

/-! APPLY and APPLYC (R167, R170). -/

theorem outputs_tidy {c : Cmd} {y : View} {yi : Nat} {f : Nat → EM (List (Nat × Nat × List Byte))} {r : List Nat} {r1 : Work}
    (hf : ∀ (a : Nat), UnitTidy (f a)) :
    UnitTidy (outputs c y yi f r r1) := by
  induction r generalizing c y yi r1 with
  | nil =>
    rw [outputs]
    exact keeps_pure _
  | cons _ _ ih =>
    rw [outputs]
    exact keeps_get fun _ _ => keeps_ite (keeps_bind (add_tidy (hf _)) fun _ => ih) (keeps_bind (keeps_pure _) fun _ => ih)

theorem applyUnit_tidy {c : Cmd} {beta : Nat} : UnitTidy (applyUnit c beta) := by
  unfold applyUnit
  intro s h
  refine ends_ite h ?_
  refine ends_ite (ends_ite h ((outputs_tidy (fun _ => keeps_bind engValue_tidy fun _ => keeps_pure _)) _ h)) ?_
  split
  · exact ends_ite trivial h
  next heq => exact (outputs_tidy (fun _ => keeps_get fun _ _ => result_tidy)) _ (ends_ok (readAll_tidy _ h) heq :)

/-! PHASE (R184). -/

theorem phaseUnit_tidy {c : Cmd} {idx : Nat} : UnitTidy (phaseUnit c idx) :=
  keeps_get fun _ _ => keeps_ite (keeps_pure _) (add_tidy (keeps_bind engValue_tidy fun _ => keeps_pure _))

/-! DSCALE, REDB and MAXB (R185-R187). -/

theorem dscaleUnit_tidy {c : Cmd} {idx : Nat} : UnitTidy (dscaleUnit c idx) :=
  keeps_get fun _ _ => keeps_ite (keeps_pure _) (add_tidy (keeps_bind engValue_tidy fun _ => keeps_bind engValue_tidy fun _ =>
    result_tidy))

theorem redbUnit_tidy {c : Cmd} {beta : Nat} : UnitTidy (redbUnit c beta) :=
  keeps_get fun _ _ => keeps_ite (keeps_pure _) (add_tidy (keeps_bind readAll_tidy fun _ => result_tidy))

theorem maxbUnit_tidy {c : Cmd} {beta : Nat} : UnitTidy (maxbUnit c beta) :=
  keeps_get fun _ _ => keeps_ite (keeps_pure _) (add_tidy (keeps_bind readAll_tidy fun _ => keeps_pure _))

/-! OPLD and OPGEN (R182, R183). -/

theorem opldUnit_tidy {c : Cmd} {n : Nat} : UnitTidy (opldUnit c n) := by
  rw [opldUnit]
  refine keeps_get fun _ _ => ?_
  refine keeps_ite (fun _ h1 => setRow_canonical h1) ?_
  intro s1 h1
  dsimp only
  split
  · exact ends_ite trivial h1
  next heq =>
    exact setRow_canonical (ends_ok ((keeps_mapM (fun _ => keeps_ite (keeps_ite (keeps_pure _) engCode_tidy)
      (keeps_bind engValue_tidy fun _ => keeps_pure _)) _) _ h1) heq :)

theorem opgenUnit_tidy {c : Cmd} {n : Nat} : UnitTidy (opgenUnit c n) := by
  intro s h
  unfold opgenUnit
  generalize List.range 256 = l
  dsimp only
  split
  · exact canonical_foldl h (fun _ _ ht => setRow_canonical ht) _
  · exact setRow_canonical h

/-! Units of a command. -/

theorem unit_tidy {c : Cmd} {n : Nat} : UnitTidy (c.unit n) := by
  rw [Cmd.unit]
  split
  · exact applyUnit_tidy
  · exact applyUnit_tidy
  · exact phaseUnit_tidy
  · exact dscaleUnit_tidy
  · exact redbUnit_tidy
  · exact maxbUnit_tidy
  · exact opldUnit_tidy
  · exact opgenUnit_tidy

theorem write_tidy {c : Cmd} {r : List (Nat × Nat × List Byte)} {r1 : Option EngErr} : UnitTidy (c.write r r1) := by
  induction r generalizing c r1 with
  | nil =>
    rw [Cmd.write]
    exact keeps_pure _
  | cons _ _ ih =>
    rw [Cmd.write]
    exact keeps_get fun _ _ => keeps_bind (attempt_tidy engBytes_tidy) fun _ => ih

/-! Checks at acceptance (R166, R181). -/

theorem opField_tidy {h : Nat} {right : Right} : Tidy (opField h right) := keeps_get fun _ _ => useHandle_tidy

theorem opY_tidy {c : Cmd} : Tidy (opY c) := keeps_bind opField_tidy fun _ => keeps_ite opField_tidy (keeps_pure _)

theorem fmtFault_tidy {α : Type} {h : Nat} : Tidy (fmtFault h : M α) := opFault_tidy

theorem opList_tidy {v : Word} {n lim : Nat} : Tidy (opList v n lim) := keeps_ite (keeps_pure _) opFault_tidy

theorem opPred_tidy {c : Cmd} : Tidy (opPred c) := need_tidy opFault_tidy

theorem planApply_tidy {c : Cmd} : Tidy (planApply c) := by
  rw [planApply]
  refine keeps_bind opField_tidy fun _ => ?_
  refine keeps_bind opY_tidy fun _ => ?_
  refine keeps_bind (need_tidy fmtFault_tidy) fun _ => ?_
  refine keeps_bind (need_tidy fmtFault_tidy) fun _ => ?_
  refine keeps_get fun _ _ => ?_
  split
  · exact opFault_tidy
  · exact keeps_bind (need_tidy fmtFault_tidy) fun _ => keeps_bind opList_tidy fun _ => keeps_bind opList_tidy fun _ =>
      keeps_bind opList_tidy fun _ => keeps_bind opList_tidy fun _ => keeps_bind (need_tidy opFault_tidy) fun _ =>
      keeps_bind (need_tidy opFault_tidy) fun _ => keeps_ite (keeps_bind opList_tidy fun _ =>
      keeps_bind (need_tidy opFault_tidy) fun _ => keeps_bind (need_tidy opFault_tidy) fun _ =>
      keeps_bind (need_tidy opFault_tidy) fun _ => keeps_bind (need_tidy opFault_tidy) fun _ =>
      keeps_bind (need_tidy opFault_tidy) fun _ => keeps_bind opPred_tidy fun _ => keeps_pure _)
      (keeps_bind (need_tidy opFault_tidy) fun _ => keeps_bind (need_tidy opFault_tidy) fun _ =>
      keeps_bind opPred_tidy fun _ => keeps_pure _)

theorem partList_tidy {c : Cmd} {y : Obj} : Tidy (partList c y) := opList_tidy

theorem planPhase_tidy {c : Cmd} : Tidy (planPhase c) :=
  keeps_bind opField_tidy fun _ => keeps_bind opY_tidy fun _ => keeps_bind (need_tidy fmtFault_tidy) fun _ =>
    keeps_bind (need_tidy fmtFault_tidy) fun _ => keeps_bind (need_tidy opFault_tidy) fun _ => keeps_bind opList_tidy fun _ =>
    keeps_bind opList_tidy fun _ => keeps_bind opList_tidy fun _ => keeps_bind partList_tidy fun _ =>
    keeps_bind (need_tidy opFault_tidy) fun _ => keeps_bind opPred_tidy fun _ => keeps_pure _

theorem planDscale_tidy {c : Cmd} : Tidy (planDscale c) :=
  keeps_bind opField_tidy fun _ => keeps_bind opY_tidy fun _ => keeps_bind opField_tidy fun _ =>
    keeps_bind (need_tidy fmtFault_tidy) fun _ => keeps_bind (need_tidy fmtFault_tidy) fun _ =>
    keeps_bind (need_tidy fmtFault_tidy) fun _ => keeps_bind opList_tidy fun _ => keeps_bind partList_tidy fun _ =>
    keeps_bind (need_tidy opFault_tidy) fun _ => keeps_bind (need_tidy opFault_tidy) fun _ => keeps_bind opPred_tidy fun _ =>
    keeps_pure _

theorem planReduce_tidy {c : Cmd} : Tidy (planReduce c) :=
  keeps_bind opField_tidy fun _ => keeps_bind opY_tidy fun _ => keeps_ite (keeps_bind opField_tidy fun _ =>
    keeps_bind (need_tidy fmtFault_tidy) fun _ => keeps_bind (need_tidy fmtFault_tidy) fun _ =>
    keeps_bind (need_tidy fmtFault_tidy) fun _ => keeps_bind (need_tidy opFault_tidy) fun _ => keeps_bind opList_tidy fun _ =>
    keeps_bind partList_tidy fun _ => keeps_bind (need_tidy opFault_tidy) fun _ => keeps_bind (need_tidy opFault_tidy)
    fun _ => keeps_bind opPred_tidy fun _ => keeps_pure _) (keeps_bind (keeps_pure _) fun _ =>
    keeps_bind (need_tidy fmtFault_tidy) fun _ => keeps_bind (need_tidy fmtFault_tidy) fun _ =>
    keeps_bind (need_tidy fmtFault_tidy) fun _ => keeps_bind (need_tidy opFault_tidy) fun _ => keeps_bind opList_tidy fun _ =>
    keeps_bind partList_tidy fun _ => keeps_bind (need_tidy opFault_tidy) fun _ => keeps_bind (need_tidy opFault_tidy)
    fun _ => keeps_bind opPred_tidy fun _ => keeps_pure _)

theorem planOpld_tidy {c : Cmd} : Tidy (planOpld c) :=
  keeps_bind opField_tidy fun _ => keeps_bind (need_tidy fmtFault_tidy) fun _ => keeps_bind (need_tidy opFault_tidy) fun _ =>
    keeps_bind (need_tidy opFault_tidy) fun _ => keeps_bind (need_tidy opFault_tidy) fun _ => keeps_bind opList_tidy fun _ =>
    keeps_bind opList_tidy fun _ => keeps_bind opList_tidy fun _ => keeps_bind (need_tidy opFault_tidy) fun _ =>
    keeps_bind (need_tidy opFault_tidy) fun _ => keeps_bind (need_tidy opFault_tidy) fun _ => keeps_bind opPred_tidy fun _ =>
    keeps_pure _

theorem planOpgen_tidy {c : Cmd} : Tidy (planOpgen c) :=
  keeps_bind (need_tidy opFault_tidy) fun _ => keeps_bind opPred_tidy fun _ => keeps_pure _

theorem plan_tidy {c : Cmd} : Tidy (plan c) := by
  rw [plan]
  split
  · exact planApply_tidy
  · exact planApply_tidy
  · exact planPhase_tidy
  · exact planDscale_tidy
  · exact planReduce_tidy
  · exact planReduce_tidy
  · exact planOpld_tidy
  · exact planOpgen_tidy

/-! The remap decision (R171). -/

theorem needSwaps_tidy {c : Cmd} {x : Nat × List Nat × List Nat} : Tidy (needSwaps c x) := by
  rw [needSwaps]
  refine keeps_get fun _ _ => ?_
  dsimp only
  split
  · exact keeps_pure _
  · refine keeps_ite opFault_tidy ?_
    split
    · exact keeps_pure _
    · exact opFault_tidy

theorem allSwaps_tidy {c : Cmd} {r : List (Nat × List Nat × List Nat)} : Tidy (allSwaps c r) := by
  induction r with
  | nil =>
    rw [allSwaps]
    exact keeps_pure _
  | cons _ _ ih =>
    rw [allSwaps]
    exact keeps_bind needSwaps_tidy fun _ => keeps_bind ih fun _ => keeps_pure _

theorem startAll_tidy {r : List (Nat × List (Nat × Nat))} : Tidy (startAll r) := by
  induction r with
  | nil =>
    rw [startAll]
    exact keeps_pure _
  | cons _ _ ih =>
    rw [startAll]
    exact keeps_get fun _ h => keeps_bind (keeps_set (requestRemap_canonical h)) fun _ => keeps_bind ih fun _ => keeps_pure _

/-! Acceptance (R160, R161, R163, R176). -/

theorem accept_tidy {c : Cmd} {p : Plan} {sw : List (Nat × List (Nat × Nat))} : Tidy (accept c p sw) := by
  rw [accept]
  refine keeps_bind startAll_tidy fun _ => ?_
  refine keeps_get fun _ h => ?_
  refine keeps_bind ?_ fun _ => keeps_bind updMe_tidy fun _ => keeps_bind waitFor_tidy fun _ => upd_tidy (fun _ h1 =>
    due_canonical h1)
  refine keeps_set ?_
  refine canonical_mk ?_
  split
  · exact setTags_canonical h
  · exact h

theorem serve_tidy : Tidy serve := upd_tidy (fun _ h => canonical_mk h)

theorem opwaitServed_tidy {x : Word} {la : Look} : Tidy (opwaitServed x la) := by
  rw [opwaitServed]
  refine keeps_get fun _ _ => ?_
  refine keeps_bind serve_tidy fun _ => ?_
  split
  · exact await_tidy
  · exact await_tidy

theorem presented_tidy {f : OpForm} {wait_ : M Unit} {free : State → Bool} (hwait_ : Tidy wait_) :
    Tidy (presented f wait_ free) :=
  keeps_bind atHome_tidy fun _ => keeps_bind rd3_tidy fun _ => keeps_get fun _ _ => keeps_ite (keeps_ite opwaitServed_tidy
    hwait_) (keeps_bind issueFor_tidy fun _ => keeps_ite (keeps_bind plan_tidy fun _ => keeps_bind allSwaps_tidy fun _ =>
    keeps_bind serve_tidy fun _ => accept_tidy) hwait_)

theorem engineCommand_canonical {i : Instr} {la : Look} {body : M Unit} {s : State} (hbody : Tidy body)
    (h : s.canonical = true) :
    (engineCommand i la body s).canonical :=
  legalIf_canonical (fun _ h1 => command_canonical (keeps_bind atHome_tidy fun _ => hbody) h1) h

theorem operator_canonical {i : Instr} {s : State} (h : s.canonical = true) : (operator i s).canonical := by
  rw [operator]
  split
  · exact h
  · exact engineCommand_canonical (presented_tidy (stop_tidy (canonical_mk h))) h

theorem execApply_canonical {a b c : Reg} {acc sat nomap : Bool} {la : Look} {s : State} (h : s.canonical = true) :
    (execApply a b c acc sat nomap la s).canonical :=
  operator_canonical h

theorem execApplyc_canonical {a b c : Reg} {acc sat nomap : Bool} {la : Look} {s : State} (h : s.canonical = true) :
    (execApplyc a b c acc sat nomap la s).canonical :=
  operator_canonical h

theorem execPhase_canonical {a b c : Reg} {nomap : Bool} {la : Look} {s : State} (h : s.canonical = true) :
    (execPhase a b c nomap la s).canonical :=
  operator_canonical h

theorem execDscale_canonical {a b : Reg} {acc sat nomap : Bool} {la : Look} {s : State} (h : s.canonical = true) :
    (execDscale a b acc sat nomap la s).canonical :=
  operator_canonical h

theorem execRedb_canonical {a b : Reg} {acc sat nomap : Bool} {la : Look} {s : State} (h : s.canonical = true) :
    (execRedb a b acc sat nomap la s).canonical :=
  operator_canonical h

theorem execMaxb_canonical {a b : Reg} {nomap : Bool} {la : Look} {s : State} (h : s.canonical = true) :
    (execMaxb a b nomap la s).canonical :=
  operator_canonical h

theorem execOpld_canonical {a b c : Reg} {sat : Bool} {la : Look} {s : State} (h : s.canonical = true) :
    (execOpld a b c sat la s).canonical :=
  operator_canonical h

theorem execOpgen_canonical {a : Reg} {la : Look} {s : State} (h : s.canonical = true) : (execOpgen a la s).canonical :=
  operator_canonical h

theorem execOpwait_canonical {a : Reg} {la : Look} {s : State} (h : s.canonical = true) : (execOpwait a la s).canonical :=
  operator_canonical h

/-! COMMAND_ACCEPT. -/

theorem served_canonical {s : State} {o : Offer} (h : s.canonical = true) : Finds (fun x => x.canonical) (s.served o) := by
  rw [State.served]
  split
  · exact trivial
  next f _ =>
    dsimp only
    split
    · exact trivial
    · exact finishLong_canonical (canonical_mk (focus_canonical h))
        (presented_tidy (stop_tidy (x := .wait) trivial) _ (issue_canonical (canonical_mk (focus_canonical h))))

theorem accepts_canonical {s : State} {cl : Nat} (h : s.canonical = true) : Finds (fun x => x.canonical) (s.accepts cl) := by
  rw [State.accepts]
  induction s.rotation cl with
  | nil => exact trivial
  | cons o l ih =>
    rw [List.findSome?_cons]
    split
    next x hx => exact (finds_some (served_canonical h) hx :)
    · exact ih

theorem execCommandAccept_canonical {s : State} (h : s.canonical = true) : (execCommandAccept s).canonical := by
  rw [execCommandAccept]
  split
  · exact h
  next o ho => exact finds_some (accepts_canonical h) ho

theorem pruneOffers_canonical {s : State} (h : s.canonical = true) : s.pruneOffers.canonical = true := canonical_mk h

/-! COMMAND_START and COMMAND_RETIRE. -/

theorem setCmd_canonical {s : State} {c : Cmd} (h : s.canonical = true) : (s.setCmd c).canonical = true := canonical_mk h

theorem retire_canonical {s : State} {c : Cmd} {status : Word} (h : s.canonical = true) :
    (s.retire c status).canonical = true :=
  due_canonical (setCmd_canonical h)

theorem begin_canonical {s : State} {c : Cmd} (h : s.canonical = true) : (s.begin c).canonical = true :=
  canonical_ite (canonical_foldl (setCmd_canonical h) (fun _ _ h1 => canonical_mk h1) _) (dropBufs_canonical (canonical_foldl
    (setCmd_canonical h) (fun _ _ h1 => canonical_mk h1) _))

theorem noteErr_canonical {s : State} {c : Cmd} {e : Option EngErr} (h : s.canonical = true) :
    (s.noteErr c e).1.canonical = true := by
  unfold State.noteErr
  split
  · exact h
  · exact canonical_ite (logError_canonical h) h

theorem work_canonical {s : State} {c : Cmd} (h : s.canonical = true) : (s.work c).canonical = true := by
  rw [State.work]
  split
  · exact retire_canonical (setTags_canonical h)
  · refine canonical_ite (due_canonical h) ?_
    refine canonical_ite ?_ ?_
    · split
      · exact due_canonical h
      next heq1 => exact due_canonical (setCmd_canonical (noteErr_canonical (ends_ok (write_tidy _ h) heq1 :)))
    · split
      · exact due_canonical h
      next heq1 => exact due_canonical (setCmd_canonical (noteErr_canonical (ends_ok (unit_tidy _ h) heq1 :)))

theorem execCommandStart_canonical {s : State} (h : s.canonical = true) : (execCommandStart s).canonical := by
  rw [execCommandStart]
  split
  · exact h
  · refine out_ite h ?_
    refine out_ite (out_ite (retire_canonical h) (work_canonical h)) ?_
    refine out_ite (due_canonical h) ?_
    split
    · exact retire_canonical h
    · exact due_canonical (begin_canonical h)

theorem execCommandRetire_canonical {s : State} (h : s.canonical = true) : (execCommandRetire s).canonical := by
  rw [execCommandRetire]
  split
  · exact h
  · exact out_ite h (canonical_ite (canonical_mk h) (canonical_foldl (canonical_mk h) (fun _ _ h1 => due_canonical h1) _))

theorem cancelCmds_canonical {s : State} {f : Cmd → Bool} (h : s.canonical = true) : (s.cancelCmds f).canonical = true :=
  canonical_foldl h (fun _ _ h1 => retire_canonical h1) _

theorem killCmds_canonical {s : State} {job : Nat} (h : s.canonical = true) : (s.killCmds job).canonical = true :=
  canonical_foldl h (fun _ _ h1 => retire_canonical (canonical_ite (setTags_canonical h1) (canonical_ite (setTags_canonical
    h1) h1))) _

end Sys2Proof.Machine
end

section
/-! SUPPORT. Canonical memory is kept: transfers, leases, page moves and launches. -/

namespace Sys2Proof.Machine
open Sys2Proof.Num

/-! Elements moved. -/

theorem engPlanes_tidy {cl : Nat} {a : Word} {f : View} {idx : Nat} : UnitTidy (engPlanes cl a f idx) :=
  keeps_get fun _ _ => keeps_bind engRead_tidy fun _ => keeps_ite (keeps_bind engCode_tidy fun _ => keeps_pure _)
    (keeps_bind (keeps_pure _) fun _ => keeps_pure _)

theorem readEnd_tidy {cl job : Nat} {a : Word} {x : End} {e : Nat} : UnitTidy (readEnd cl job a x e) := by
  rw [readEnd]
  refine keeps_get fun _ _ => ?_
  split
  · exact keeps_ite (keeps_pure _) (keeps_ite (keeps_bind engPlanes_tidy fun _ => keeps_pure _) (keeps_bind engCode_tidy
      fun _ => keeps_pure _))
  · exact keeps_bind engRead_tidy fun _ => keeps_pure _
  · exact keeps_bind engRead_tidy fun _ => keeps_pure _
  · exact keeps_bind engRead_tidy fun _ => keeps_bind engRead_tidy fun _ => keeps_pure _
  · exact keeps_bind engRead_tidy fun _ => keeps_pure _

theorem writeNibble_tidy {cl job : Nat} {lo side : Nat × Nat} {odd : Bool} {x : Moved} :
    UnitTidy (writeNibble cl job lo side odd x) := by
  rw [writeNibble]
  refine keeps_bind engRead_tidy fun _ => ?_
  refine keeps_bind engWrite_tidy fun _ => ?_
  split
  · exact keeps_pure _
  · exact keeps_bind engWrite_tidy fun _ => keeps_pure _

theorem writeEnd_tidy {cl job : Nat} {a : Word} {y : End} {e : Nat} {x : Moved} : UnitTidy (writeEnd cl job a y e x) := by
  rw [writeEnd]
  refine keeps_get fun _ _ => ?_
  split
  · refine keeps_ite (keeps_pure _) ?_
    refine keeps_ite ?_ engBytes_tidy
    split
    · exact writeNibble_tidy
    · exact keeps_pure _
  · exact engWrite_tidy
  · exact engWrite_tidy
  · exact writeNibble_tidy
  · exact engWrite_tidy

theorem moveElems_tidy {cl job : Nat} {a : Word} {x y : End} {r : List Nat} : UnitTidy (moveElems cl job a x y r) := by
  induction r with
  | nil =>
    rw [moveElems]
    exact keeps_pure _
  | cons _ _ ih =>
    rw [moveElems]
    exact keeps_bind readEnd_tidy fun _ => keeps_bind writeEnd_tidy fun _ => keeps_ite (keeps_pure _) ih

/-! Acceptance (R198, R199, R204). -/

theorem xferField_tidy {h : Nat} {right : Right} : Tidy (xferField h right) :=
  keeps_ite (keeps_pure _) (keeps_bind opField_tidy fun _ => keeps_pure _)

theorem baseOk_tidy {h : Nat} {b : Word} : Tidy (baseOk h b) :=
  keeps_ite (keeps_bind virt_tidy fun _ => keeps_pure _) (keeps_pure _)

theorem bitmapCore_tidy {e1 : Word} {n : Nat} : Tidy (bitmapCore e1 n) := by
  rw [bitmapCore]
  refine keeps_get fun _ h => ?_
  refine keeps_ite (keeps_pure _) ?_
  refine keeps_ite opFault_tidy ?_
  dsimp only
  split
  · exact keeps_pure _
  · exact trap_tidy
  · exact stop_tidy trivial
  next heq =>
    exact stop_tidy (ends_error ((keeps_foldlM (fun _ _ => keeps_bind laddr_tidy fun _ => keeps_pure _) _ _) _ h) heq :)

theorem xferSwaps_tidy {a : Word} {len : Nat} {e : End} : Tidy (xferSwaps a len e) := by
  rw [xferSwaps]
  refine keeps_get fun _ _ => ?_
  dsimp only
  split
  · refine keeps_ite (keeps_pure _) ?_
    split
    · exact keeps_pure _
    · split
      · exact keeps_pure _
      · exact opFault_tidy
  · exact keeps_pure _

theorem setOut_canonical {s : State} {cl v : Nat} (h : s.canonical = true) : (s.setOut cl v).canonical = true :=
  canonical_mk h

theorem xferAccept_tidy {w : XWait} : Tidy (xferAccept w) := by
  rw [xferAccept]
  refine keeps_get fun _ _ => ?_
  refine keeps_bind xferField_tidy fun _ => ?_
  refine keeps_bind xferField_tidy fun _ => ?_
  refine keeps_bind (need_tidy opFault_tidy) fun _ => ?_
  refine keeps_bind (need_tidy opFault_tidy) fun _ => ?_
  refine keeps_bind baseOk_tidy fun _ => ?_
  refine keeps_bind baseOk_tidy fun _ => ?_
  dsimp only
  split
  · refine keeps_bind (stop_tidy trivial) fun _ => ?_
    refine keeps_bind bitmapCore_tidy fun _ => ?_
    refine keeps_bind xferSwaps_tidy fun _ => ?_
    refine keeps_ite ?_ ?_
    · refine keeps_bind (keeps_pure _) fun _ => ?_
      split
      · exact stop_tidy trivial
      · exact keeps_bind startAll_tidy fun _ => keeps_ite (keeps_pure _) (keeps_bind (upd_tidy (fun _ h1 =>
          setOut_canonical (canonical_mk h1))) fun _ => keeps_pure _)
    · refine keeps_bind xferSwaps_tidy fun _ => ?_
      split
      · exact stop_tidy trivial
      · exact keeps_bind startAll_tidy fun _ => keeps_ite (keeps_pure _) (keeps_bind (upd_tidy (fun _ h1 =>
          setOut_canonical (canonical_mk h1))) fun _ => keeps_pure _)
  · refine keeps_bind (stop_tidy trivial) fun _ => ?_
    refine keeps_bind bitmapCore_tidy fun _ => ?_
    refine keeps_bind xferSwaps_tidy fun _ => ?_
    refine keeps_ite ?_ ?_
    · refine keeps_bind (keeps_pure _) fun _ => ?_
      split
      · exact stop_tidy trivial
      · exact keeps_bind startAll_tidy fun _ => keeps_ite (keeps_pure _) (keeps_bind (upd_tidy (fun _ h1 =>
          setOut_canonical (canonical_mk h1))) fun _ => keeps_pure _)
    · refine keeps_bind xferSwaps_tidy fun _ => ?_
      split
      · exact stop_tidy trivial
      · exact keeps_bind startAll_tidy fun _ => keeps_ite (keeps_pure _) (keeps_bind (upd_tidy (fun _ h1 =>
          setOut_canonical (canonical_mk h1))) fun _ => keeps_pure _)
  · refine keeps_bind bitmapCore_tidy fun _ => ?_
    refine keeps_bind xferSwaps_tidy fun _ => ?_
    refine keeps_ite ?_ ?_
    · refine keeps_bind (keeps_pure _) fun _ => ?_
      split
      · exact stop_tidy trivial
      · exact keeps_bind startAll_tidy fun _ => keeps_ite (keeps_pure _) (keeps_bind (upd_tidy (fun _ h1 =>
          setOut_canonical (canonical_mk h1))) fun _ => keeps_pure _)
    · refine keeps_bind xferSwaps_tidy fun _ => ?_
      split
      · exact stop_tidy trivial
      · exact keeps_bind startAll_tidy fun _ => keeps_ite (keeps_pure _) (keeps_bind (upd_tidy (fun _ h1 =>
          setOut_canonical (canonical_mk h1))) fun _ => keeps_pure _)

theorem xferBody_tidy {a b c : Word} {la : Look} : Tidy (xferBody a b c la) :=
  keeps_get fun _ _ => keeps_bind issueFor_tidy fun _ => keeps_ite (keeps_bind xferAccept_tidy fun _ => updMe_tidy)
    (keeps_bind await_tidy fun _ => upd_tidy (fun _ h1 => canonical_mk (openLine_canonical h1)))

theorem acceptXfer_canonical {s : State} {w : XWait} (h : s.canonical = true) : (s.acceptXfer w).canonical = true := by
  rw [State.acceptXfer]
  split
  · exact canonical_mk h
  · refine canonical_ite h ?_
    split
    next heq1 => exact focus_canonical (canonical_mk (ends_ok (xferAccept_tidy _ (focus_canonical h)) heq1 :))
    · exact focus_canonical (canonical_mk (focus_canonical h))
    · exact focus_canonical (canonical_mk (focus_canonical h))
    · exact h

theorem acceptXfers_canonical {s : State} (h : s.canonical = true) : s.acceptXfers.canonical = true :=
  canonical_foldl h (fun _ _ h1 => acceptXfer_canonical h1) _

theorem setXfer_canonical {s : State} {x : Xfer} (h : s.canonical = true) : (s.setXfer x).canonical = true := canonical_mk h

theorem freeXfer_canonical {s : State} {x : Xfer} (h : s.canonical = true) : (s.freeXfer x).canonical = true :=
  setOut_canonical (canonical_mk h)

theorem xferAnswer_tidy {w : Nat} {a b : Word} : Tidy (xferAnswer w a b) := by
  rw [xferAnswer]
  refine keeps_get fun _ _ => ?_
  refine keeps_bind (need_tidy trap_tidy) fun _ => ?_
  refine keeps_bind (need_tidy opFault_tidy) fun _ => ?_
  split
  · exact opFault_tidy
  · exact keeps_ite opFault_tidy (keeps_ite (keeps_bind (need_tidy opFault_tidy) fun _ => upd_tidy (fun _ h1 =>
      canonical_mk (setXfer_canonical (canonical_ite (setOut_canonical h1) h1)))) (upd_tidy (fun _ h1 =>
      canonical_mk (freeXfer_canonical h1))))

theorem xfer_canonical {i : Instr} {a b c : Reg} {la : Look} {s : State} (h : s.canonical = true) :
    (xfer i a b c la s).canonical :=
  engineCommand_canonical (keeps_bind rd3_tidy fun _ => keeps_ite (keeps_bind released_tidy fun _ => xferAnswer_tidy)
    xferBody_tidy) h

theorem execXfer_canonical {a b c : Reg} {la : Look} {s : State} (h : s.canonical = true) : (execXfer a b c la s).canonical :=
  xfer_canonical h

theorem execXferRetry_canonical {a b c : Reg} {la : Look} {s : State} (h : s.canonical = true) :
    (execXferRetry a b c la s).canonical :=
  xfer_canonical h

theorem execXferAbandon_canonical {a b c : Reg} {la : Look} {s : State} (h : s.canonical = true) :
    (execXferAbandon a b c la s).canonical :=
  xfer_canonical h

/-! CHUNK_COMPLETE and CHUNK_FAILED (R201, R208). -/

theorem execChunkComplete_canonical {s : State} (h : s.canonical = true) : (execChunkComplete s).canonical := by
  rw [execChunkComplete]
  dsimp only
  split
  · exact h
  · split
    · exact h
    · split
      · exact out_ite h (setXfer_canonical h)
      next heq2 => exact setXfer_canonical (ends_ok (moveElems_tidy _ h) heq2 :)
      next heq2 =>
        exact canonical_ite (freeXfer_canonical (setXfer_canonical (setOut_canonical (setByte_canonical
          (ends_ok (moveElems_tidy _ h) heq2 :))))) (setXfer_canonical (setOut_canonical (setByte_canonical
          (ends_ok (moveElems_tidy _ h) heq2 :))))

theorem execChunkFailed_canonical {s : State} (h : s.canonical = true) : (execChunkFailed s).canonical := by
  rw [execChunkFailed]
  split
  · exact h
  · split
    · exact h
    · exact hwPost_canonical (canonical_ite (logError_canonical (setXfer_canonical h)) (setXfer_canonical h))

/-! Code books (R205-R207). -/

theorem execCbld_canonical {a b : Reg} {la : Look} {s : State} (h : s.canonical = true) : (execCbld a b la s).canonical := by
  refine engineCommand_canonical ?_ h
  refine keeps_bind rd2_tidy fun p => ?_
  obtain ⟨x, y⟩ := p
  refine keeps_bind (need_tidy opFault_tidy) fun _ => ?_
  refine keeps_bind lineAddr_tidy fun e => ?_
  refine keeps_bind (aligned_tidy (a := e) (n := 2)) fun _ => ?_
  generalize 512 = n
  refine keeps_bind check_tidy fun hs => ?_
  refine keeps_bind issueFor_tidy fun _ => ?_
  refine keeps_get fun _ _ => ?_
  refine keeps_bind (need_tidy trap_tidy) fun _ => ?_
  refine keeps_ite (stop_tidy trivial) ?_
  refine keeps_bind (upd_tidy fun _ h => counted_canonical (canonical_foldl h (fun _ _ ht => fetchHit_canonical ht) _))
    fun _ => ?_
  refine keeps_bind promise_tidy fun _ => keeps_bind waitFor_tidy fun _ => upd_tidy fun _ h => due_canonical (canonical_mk h)

theorem execCodeBookLoaded_canonical {s : State} (h : s.canonical = true) : (execCodeBookLoaded s).canonical := by
  rw [execCodeBookLoaded]
  dsimp only
  split
  · exact h
  · split
    · exact allStrands_canonical (canonical_mk h)
    · exact out_ite (hwPost_canonical (logError_canonical (canonical_mk h))) (allStrands_canonical (logError_canonical
        (canonical_mk h)))

theorem stopXfers_canonical {s : State} {f : Xfer → Bool} (h : s.canonical = true) : (s.stopXfers f).canonical = true :=
  canonical_foldl h (fun _ _ h1 => freeXfer_canonical h1) _

/-! Steps (Table 17.4). -/

theorem setGraph_canonical {s : State} {g : CGraph} (h : s.canonical = true) : (s.setGraph g).canonical = true :=
  canonical_mk h

/-! Base addresses and places of a step (R310). -/

theorem clearTag_canonical {s : State} {tag : Nat} (h : s.canonical = true) : (s.clearTag tag).canonical = true :=
  canonical_mk h

theorem tellRun_canonical {s : State} {key : Nat} {f : Pending → Option Pending} (h : s.canonical = true) :
    (s.tellRun key f).canonical = true :=
  canonical_mk h

theorem cancelRun_canonical {s : State} {g : CGraph} {rank step : Nat} (h : s.canonical = true) :
    (s.cancelRun g rank step).canonical = true :=
  canonical_ite h (tellRun_canonical (canonical_ite (setObjFld_canonical (setGraph_canonical (canonical_foldl (canonical_foldl
    (canonical_mk h) (fun _ _ h1 => count_canonical h1) _) (fun _ _ h1 => canonical_ite (clearTag_canonical h1) h1) _)))
    (addWord_canonical (setObjFld_canonical (setGraph_canonical (canonical_foldl (canonical_foldl (canonical_mk h)
    (fun _ _ h1 => count_canonical h1) _) (fun _ _ h1 => canonical_ite (clearTag_canonical h1) h1) _))))))

theorem cancelRuns_canonical {s : State} {step : Nat} {f : CGraph → Bool} (h : s.canonical = true) :
    (s.cancelRuns step f).canonical = true :=
  canonical_foldl h (fun _ _ h1 => cancelRun_canonical h1) _

/-! Leaf entries. -/

theorem setPins_canonical {s : State} {pte n : Nat} (h : s.canonical = true) : (s.setPins pte n).canonical = true :=
  setNum_canonical h

theorem dropTr_canonical {s : State} {job base size : Nat} (h : s.canonical = true) :
    (s.dropTr job base size).canonical = true :=
  canonical_mk h

theorem settleUnmap_canonical {s : State} {pte : Nat} (h : s.canonical = true) : (s.settleUnmap pte).canonical = true :=
  canonical_ite h (canonical_foldl (canonical_mk h) (fun _ _ h1 => hwSend_canonical (dropTr_canonical h1)) _)

theorem pin_canonical {s : State} {owner job : Nat} {p : Page} (h : s.canonical = true) :
    Finds (fun x => x.canonical = true) (s.pin owner job p) :=
  finds_ite h (finds_ite trivial (canonical_mk (setPins_canonical h)))

theorem unpin_canonical {s : State} {x : Pin} (h : s.canonical = true) : (s.unpin x).canonical = true :=
  settleUnmap_canonical (setPins_canonical (canonical_mk h))

theorem pinAll_canonical {owner job : Nat} {r : List Page} {s : State} (h : s.canonical = true) :
    Ends (fun _ => True) (fun x => x.canonical = true) (State.pinAll owner job r s) := by
  induction r generalizing s with
  | nil =>
    rw [State.pinAll]
    exact h
  | cons _ _ ih =>
    rw [State.pinAll]
    split
    · exact trivial
    next heq => exact ih (finds_some (pin_canonical h) heq :)

theorem loadPinned_canonical {s : State} {owner job : Nat} {p : Page} {cl : Nat} (h : s.canonical = true) :
    (s.loadPinned owner job p cl).canonical = true := by
  rw [State.loadPinned]
  refine canonical_ite h ?_
  split
  · exact canonical_ite (canonical_mk h) h
  · exact canonical_ite h (canonical_mk h)

/-! LEASE (R288). -/

theorem unpinAll_canonical {job : Nat} {o : Obj} {s : State} (h : s.canonical = true) :
    (leaseOp.unpinAll job o s).canonical = true :=
  canonical_foldl h (fun _ _ h1 => canonical_ite h1 (canonical_mk (unpin_canonical h1))) _

theorem leaseOp_canonical {i : Instr} {a b c : Reg} {la : Look} {s : State} (h : s.canonical = true) :
    (leaseOp i a b c la s).canonical := by
  rw [leaseOp]
  refine command_canonical ?_ h
  refine keeps_bind rd3_tidy fun _ => ?_
  refine keeps_get fun _ _ => ?_
  refine keeps_bind useHandle_tidy fun _ => ?_
  refine keeps_get fun _ h2 => ?_
  refine keeps_bind (need_tidy opFault_tidy) fun _ => ?_
  refine keeps_ite (keeps_bind (upd_tidy (fun _ h3 => unpinAll_canonical h3)) fun _ => promiseFree_tidy) ?_
  split
  · split
    · exact keeps_bind trap_tidy fun _ => promiseFree_tidy
    · exact keeps_bind trap_tidy fun _ => promiseFree_tidy
  · split
    next heq1 =>
      exact keeps_bind (keeps_set (canonical_foldl (ends_ok (pinAll_canonical h2) heq1 :) (fun _ _ h3 =>
        canonical_foldl h3 (fun _ _ h4 => loadPinned_canonical h4) _) _)) fun _ => promiseFree_tidy
    · exact keeps_bind trap_tidy fun _ => promiseFree_tidy

theorem execLeasePin_canonical {a b c : Reg} {la : Look} {s : State} (h : s.canonical = true) :
    (execLeasePin a b c la s).canonical :=
  leaseOp_canonical h

theorem execLeaseUnpin_canonical {a b c : Reg} {la : Look} {s : State} (h : s.canonical = true) :
    (execLeaseUnpin a b c la s).canonical :=
  leaseOp_canonical h

/-! XINV (R291). -/

theorem execXinv_canonical {a b c : Reg} {la : Look} {s : State} (h : s.canonical = true) : (execXinv a b c la s).canonical :=
  command_canonical (keeps_bind rd3_tidy fun _ => keeps_bind pwHere_tidy fun _ => keeps_bind storesDone_tidy fun _ =>
    keeps_bind (upd_tidy (fun _ h1 => retryRemaps_canonical (canonical_mk h1))) fun _ => promiseFree_tidy) h

/-! DLOGH (R290). -/

theorem execDlogh_canonical {a : Reg} {la : Look} {s : State} (h : s.canonical = true) : (execDlogh a la s).canonical :=
  command_canonical (keeps_bind rd_tidy fun _ => keeps_get fun _ _ => keeps_bind promiseFree_tidy fun _ =>
    keeps_ite (keeps_pure _) waitFor_tidy) h

/-! PGMIG (R292). -/

theorem startMig_canonical {s : State} {m : Mig} (h : s.canonical = true) : (s.startMig m).canonical = true :=
  due_canonical (canonical_mk (setNum_canonical (setNum_canonical h)))

theorem execPgmig_canonical {a b c : Reg} {la : Look} {s : State} (h : s.canonical = true) :
    (execPgmig a b c la s).canonical := by
  rw [execPgmig]
  refine command_canonical ?_ h
  refine keeps_bind rd3_tidy fun _ => ?_
  refine keeps_get fun _ _ => ?_
  dsimp only
  split
  · exact opFault_tidy
  · exact keeps_bind (need_tidy opFault_tidy) fun _ => keeps_bind (need_tidy illegalState_tidy) fun _ =>
      keeps_ite (keeps_bind (stop_tidy trivial) fun _ => keeps_bind promiseFree_tidy fun _ => keeps_bind waitFor_tidy fun _ =>
      upd_tidy (fun _ h2 => startMig_canonical h2)) (keeps_bind promiseFree_tidy fun _ => keeps_bind waitFor_tidy fun _ =>
      upd_tidy (fun _ h2 => startMig_canonical h2))

theorem moveLines_canonical {s : State} {f : Nat → Nat} (h : s.canonical = true) : (s.moveLines f).canonical = true :=
  canonical_mk h

theorem setMig_canonical {s : State} {m : Mig} (h : s.canonical = true) : (s.setMig m).canonical = true := canonical_mk h

theorem copyLine_canonical {s : State} {swap : Bool} {src dst : Nat} (h : s.canonical = true) :
    (s.copyLine swap src dst).canonical = true :=
  canonical_ite (moveLines_canonical (setBytes_canonical (setBytes_canonical h))) (moveLines_canonical (setBytes_canonical h))

theorem endMig_canonical {s : State} {m : Mig} {f : Pending → Option Pending} (h : s.canonical = true) :
    (s.endMig m f).canonical = true := by
  rw [State.endMig]
  split
  · exact h
  · exact modStrand_canonical h

theorem commitMig_canonical {s : State} {m : Mig} (h : s.canonical = true) : (s.commitMig m).canonical = true :=
  endMig_canonical (dropTr_canonical (canonical_mk (setNum_canonical (setNum_canonical h))))

theorem failMig_canonical {s : State} {m : Mig} {bad i : Nat} (h : s.canonical = true) :
    (s.failMig m bad i).canonical = true :=
  endMig_canonical (canonical_mk (setNum_canonical (setNum_canonical (canonical_foldl (logError_canonical h) (fun _ _ h1 =>
    copyLine_canonical h1) _))))

theorem next_canonical {s : State} {m : Mig} {partner : Option Mig} {i : Nat} (h : s.canonical = true) :
    (execPageMigrationLineCopy.next s m partner i).canonical = true := by
  unfold execPageMigrationLineCopy.next
  refine due_canonical ?_
  split
  · exact setMig_canonical (setMig_canonical (copyLine_canonical h))
  · exact setMig_canonical (copyLine_canonical h)

theorem execPageMigrationLineCopy_canonical {s : State} (h : s.canonical = true) : (execPageMigrationLineCopy s).canonical := by
  rw [execPageMigrationLineCopy]
  split
  · exact h
  · refine out_ite ?_ ?_
    · split
      · exact commitMig_canonical (commitMig_canonical h)
      · exact commitMig_canonical h
    · refine out_ite (due_canonical h) ?_
      split
      · split
        · exact failMig_canonical (failMig_canonical h)
        · exact failMig_canonical h
      · refine out_ite ?_ (next_canonical h)
        split
        · exact failMig_canonical (failMig_canonical h)
        · exact failMig_canonical h
      · exact next_canonical h

/-! The tier policy (R293). -/

theorem promote_canonical {ls : List Leaf} {s : State} {l : Leaf} (h : s.canonical = true) :
    (State.promote ls s l).canonical = true := by
  rw [State.promote]
  refine canonical_ite h ?_
  split
  · exact canonical_mk h
  · exact hwSend_canonical (due_canonical (canonical_mk (setNum_canonical (setNum_canonical (setNum_canonical
      (setNum_canonical h))))))

theorem execTierEpochEnd_canonical {s : State} (h : s.canonical = true) : (execTierEpochEnd s).canonical :=
  out_ite (canonical_mk h) (canonical_ite (canonical_ite (canonical_foldl (canonical_mk h) (fun _ _ h1 =>
    promote_canonical h1) _) (canonical_mk (canonical_foldl (canonical_mk h) (fun _ _ h1 => promote_canonical h1) _)))
    (due_canonical (canonical_ite (canonical_foldl (canonical_mk h) (fun _ _ h1 => promote_canonical h1) _)
    (canonical_mk (canonical_foldl (canonical_mk h) (fun _ _ h1 => promote_canonical h1) _)))))

/-! Record fields (Tables 13.1 to 13.3). -/

theorem modJob_canonical {s : State} {job : Nat} {f : Obj → Obj} (h : s.canonical = true) :
    (s.modJob job f).canonical = true := by
  rw [State.modJob]
  split
  · exact h
  · exact modObj_canonical h

theorem bump_canonical {s : State} {die job h va : Nat} (hs : s.canonical = true) : (s.bump die job h va).canonical = true := by
  rw [State.bump]
  refine canonical_ite hs ?_
  split
  · exact canonical_ite (addWord_canonical hs) (hwSend_canonical hs)
  · exact addWord_canonical hs

theorem notify_canonical {s : State} {job w : Nat} {o : Vector Word 6} (h : s.canonical = true) :
    (s.notify job w o).canonical = true :=
  canonical_ite h (due_canonical (canonical_mk h))

/-! The start of a launch (R235). -/

theorem beginLaunch_canonical {s : State} {key die : Nat} (h : s.canonical = true) :
    (s.beginLaunch key die).canonical = true :=
  canonical_ite (canonical_mk (modJob_canonical (setObj_canonical h))) (due_canonical (canonical_mk (modJob_canonical
    (setObj_canonical h))))

/-! Graphs (R236). -/

theorem setGraphList_canonical {s : State} {g : Nat} {l : List Nat} (h : s.canonical = true) :
    (s.setGraphList g l).canonical = true :=
  canonical_mk h

theorem skipNodes_canonical {s : State} {g : Nat} {vs : List Nat} (h : s.canonical = true) :
    (s.skipNodes g vs).canonical = true :=
  modObj_canonical (setGraphList_canonical h)

theorem endGraph_canonical {s : State} {g : Nat} (h : s.canonical = true) : (s.endGraph g).canonical = true :=
  canonical_ite h (notify_canonical (canonical_mk (bump_canonical (canonical_mk (canonical_foldl (setObjFld_canonical h)
    (fun _ _ h1 => setObjFld_canonical h1) _)))))

theorem countNode_canonical {s : State} {g v : Nat} {ok : Bool} (h : s.canonical = true) :
    (s.countNode g v ok).canonical = true :=
  canonical_ite (setGraphList_canonical (modObj_canonical h)) (skipNodes_canonical (modObj_canonical h))

theorem startNode_canonical {s : State} {g v : Nat} (h : s.canonical = true) : (s.startNode g v).canonical = true :=
  canonical_ite h (canonical_ite (countNode_canonical h) (canonical_ite (beginLaunch_canonical h) (due_canonical h)))

theorem nodeDone_canonical {s : State} {g h : Nat} (hs : s.canonical = true) : (s.nodeDone g h).canonical = true := by
  rw [State.nodeDone]
  split
  · exact hs
  · exact canonical_ite hs (endGraph_canonical (canonical_ite (canonical_foldl (countNode_canonical hs) (fun _ _ h1 =>
      startNode_canonical h1) _) (countNode_canonical hs)))

/-! Completion (R240). -/

theorem unpinOwner_canonical {s : State} {key : Nat} (h : s.canonical = true) : (s.unpinOwner key).canonical = true :=
  canonical_mk (canonical_foldl h (fun _ _ h1 => unpin_canonical h1) _)

theorem setBitmap_canonical {s : State} {g v : Nat} (h : s.canonical = true) : (s.setBitmap g v).canonical = true :=
  canonical_mk h

theorem leavePort_canonical {s : State} {g port root : Nat} (h : s.canonical = true) :
    (s.leavePort g port root).canonical = true :=
  canonical_ite (canonical_mk (setBitmap_canonical h)) (setBitmap_canonical h)

theorem unsub_canonical {s : State} {die job g : Nat} (h : s.canonical = true) : (s.unsub die job g).canonical = true :=
  canonical_ite (canonical_ite (canonical_mk h) (leavePort_canonical (canonical_foldl (canonical_mk h) (fun _ _ h1 =>
    setObjFld_canonical h1) _))) h

theorem jobGone_canonical {s : State} {job : Nat} (h : s.canonical = true) : (s.jobGone job).canonical = true :=
  canonical_foldl (canonical_mk h) (fun _ _ h1 => unsub_canonical h1) _

theorem endJob_canonical {s : State} {job : Nat} (h : s.canonical = true) : (s.endJob job).canonical = true :=
  canonical_ite (jobGone_canonical (modJob_canonical h)) h

theorem warmed_canonical {s : State} {key : Nat} (h : s.canonical = true) : (s.warmed key).canonical = true := canonical_mk h

theorem completeLaunch_canonical {s : State} {key : Nat} (h : s.canonical = true) : (s.completeLaunch key).canonical = true :=
  endJob_canonical (canonical_mk (canonical_ite (notify_canonical (bump_canonical (canonical_mk (modJob_canonical
    (setObjFld_canonical (warmed_canonical (unpinOwner_canonical h))))))) (nodeDone_canonical (notify_canonical
    (bump_canonical (canonical_mk (modJob_canonical (setObjFld_canonical (warmed_canonical (unpinOwner_canonical h))))))))))

theorem execLaunchCompletion_canonical {s : State} (h : s.canonical = true) : (execLaunchCompletion s).canonical :=
  out_ite (completeLaunch_canonical h) h

/-! LAUNCH and GRUN. -/

theorem execLaunch_canonical {d a b : Reg} {g : Guard} {la : Look} {s : State} (h : s.canonical = true) :
    (execLaunch d a b g la s).canonical :=
  long_canonical (keeps_bind rd2_tidy fun _ => keeps_bind ownHandle_tidy fun _ => keeps_bind released_tidy fun _ =>
    keeps_get fun _ _ => keeps_ite wr_tidy (keeps_ite wr_tidy (keeps_ite (keeps_bind (upd_tidy (fun _ h2 =>
    due_canonical (setObjFld_canonical h2))) fun _ => wr_tidy) (keeps_bind (need_tidy opFault_tidy) fun _ =>
    keeps_bind (need_tidy opFault_tidy) fun _ => keeps_bind (need_tidy (stop_tidy trivial)) fun _ =>
    keeps_bind (upd_tidy (fun _ h2 => canonical_ite (completeLaunch_canonical (beginLaunch_canonical (canonical_ite h2
    (setObjFld_canonical h2)))) (beginLaunch_canonical (canonical_ite h2 (setObjFld_canonical h2))))) fun _ => wr_tidy)))) h

theorem nodeOk_tidy {job : Nat} {o : Obj} {v : Nat} : Tidy (nodeOk job o v) :=
  keeps_bind useHandle_tidy fun _ => keeps_get fun _ _ => keeps_bind (need_tidy opFault_tidy) fun _ => need_tidy opFault_tidy

theorem nodesOk_tidy {job : Nat} {o : Obj} {r : List Nat} : Tidy (nodesOk job o r) := by
  induction r with
  | nil =>
    rw [nodesOk]
    exact keeps_pure _
  | cons _ _ ih =>
    rw [nodesOk]
    exact keeps_bind nodeOk_tidy fun _ => ih

theorem edgesOf_tidy {die job va : Nat} : Tidy (edgesOf die job va) := by
  unfold edgesOf
  intro s h
  beta_reduce
  split
  · exact ends_ite trivial trivial
  next heq => exact (ends_ok (unitPieces_canonical h) heq :)

theorem execGrun_canonical {d a : Reg} {g : Guard} {la : Look} {s : State} (h : s.canonical = true) :
    (execGrun d a g la s).canonical := by
  rw [execGrun]
  refine long_canonical ?_ h
  refine keeps_bind rd_tidy fun _ => ?_
  refine keeps_bind ownHandle_tidy fun _ => ?_
  refine keeps_bind released_tidy fun _ => ?_
  refine keeps_get fun _ _ => ?_
  refine keeps_bind nodesOk_tidy fun _ => ?_
  refine keeps_bind edgesOf_tidy fun _ => ?_
  dsimp only
  split
  · exact opFault_tidy
  · exact keeps_ite wr_tidy (keeps_ite wr_tidy (keeps_bind (need_tidy opFault_tidy) fun _ =>
      keeps_bind (need_tidy (stop_tidy trivial)) fun _ => keeps_bind (upd_tidy (fun _ h2 =>
      canonical_foldl (canonical_foldl (setGraphList_canonical (canonical_mk (modObj_canonical h2))) (fun _ _ h3 =>
      setObjFld_canonical h3) _) (fun _ _ h3 => startNode_canonical h3) _)) fun _ => wr_tidy))

/-! Preparation (R238, R239). -/

theorem holdLaunch_canonical {s : State} {key kind : Nat} {x y : Word} (h : s.canonical = true) :
    (s.holdLaunch key kind x y).canonical = true :=
  hwSend_canonical (setObjFld_canonical h)

theorem placeImage_canonical {s : State} {die key : Nat} (h : s.canonical = true) :
    Ends (fun _ => True) (fun x => x.canonical = true) (s.placeImage die key) := by
  rw [State.placeImage]
  split
  · exact trivial
  next heq =>
    exact setObjFld_canonical (modJob_canonical (canonical_foldl (canonical_foldl (ends_ok (unitPieces_canonical h) heq :)
      (fun _ _ h1 => setObjFld_canonical h1) _) (fun _ _ h1 => setBytes_canonical h1) _))

theorem cacheRecord_canonical {s : State} {die key : Nat} (h : s.canonical = true) :
    (s.cacheRecord die key).canonical = true :=
  canonical_mk h

theorem prepare_canonical {s : State} {key : Nat} (h : s.canonical = true) : (s.prepare key).canonical = true := by
  rw [State.prepare]
  split
  · split
    · exact holdLaunch_canonical (cacheRecord_canonical h)
    · exact holdLaunch_canonical (cacheRecord_canonical h)
  · split
    · exact holdLaunch_canonical (cacheRecord_canonical h)
    next heq1 =>
      refine canonical_ite (setObjFld_canonical (canonical_mk (canonical_foldl
        (ends_ok (pinAll_canonical (cacheRecord_canonical h)) heq1 :) (fun _ _ h1 => canonical_foldl h1 (fun _ _ h2 =>
        loadPinned_canonical h2) _) _))) ?_
      split
      · exact holdLaunch_canonical (canonical_mk (cacheRecord_canonical h))
      · split
        · exact holdLaunch_canonical (canonical_mk (cacheRecord_canonical h))
        next heq3 =>
          exact setObjFld_canonical (ends_ok (placeImage_canonical (canonical_mk (canonical_foldl
            (ends_ok (pinAll_canonical (cacheRecord_canonical h)) heq1 :) (fun _ _ h1 => canonical_foldl h1 (fun _ _ h2 =>
            loadPinned_canonical h2) _) _))) heq3 :)

theorem execLaunchPreparation_canonical {s : State} (h : s.canonical = true) : (execLaunchPreparation s).canonical :=
  out_ite (out_ite h (endGraph_canonical (startNode_canonical h))) (out_ite (prepare_canonical h) h)

/-! Generation (R240). -/

theorem execRecordGeneration_canonical {s : State} (h : s.canonical = true) : (execRecordGeneration s).canonical := by
  rw [execRecordGeneration]
  split
  · exact h
  · exact setObjFld_canonical (canonical_mk (canonical_ite (putDie_canonical h) (putTask_canonical h)))

/-! CANCEL (R237, R244). -/

theorem cancelStrand_canonical {s : State} {sid : Nat} (h : s.canonical = true) : (s.cancelStrand sid).canonical = true := by
  rw [State.cancelStrand]
  split
  · exact h
  · refine canonical_ite h ?_
    split
    · exact h
    · exact modStrand_canonical h
    · exact canonical_ite (depart_canonical (canonical_mk (condemn_canonical (focus_canonical h)))) (condemn_canonical
        (focus_canonical h))
    · exact condemn_canonical (focus_canonical h)

theorem cancelStrands_canonical {s : State} {f : Strand → Bool} (h : s.canonical = true) :
    (s.cancelStrands f).canonical = true :=
  focus_canonical (canonical_foldl h (fun _ _ h1 => cancelStrand_canonical h1) _)

theorem discard_canonical {s : State} {key : Nat} (h : s.canonical = true) : (s.discard key).1.canonical = true :=
  refillAll_canonical (canonical_mk h)

theorem cancelEngines_canonical {s : State} {f : Option Nat → Bool} (h : s.canonical = true) :
    (s.cancelEngines f).canonical = true :=
  stopXfers_canonical (cancelCmds_canonical h)

theorem cancelLaunch_canonical {s : State} {key : Nat} (h : s.canonical = true) : (s.cancelLaunch key).canonical = true :=
  canonical_ite h (cancelStrands_canonical (countTasks_canonical (cancelRuns_canonical (cancelEngines_canonical
    (discard_canonical (setObjFld_canonical h))))))

theorem cancelGraph_canonical {s : State} {g : Nat} (h : s.canonical = true) : (s.cancelGraph g).canonical = true :=
  canonical_ite h (endGraph_canonical (cancelEngines_canonical (canonical_foldl (skipNodes_canonical (setObjFld_canonical h))
    (fun _ _ h1 => cancelLaunch_canonical h1) _)))

theorem cancelWait_tidy {d : Reg} {la job : Nat} {keys : List Nat} {own : Bool} : Tidy (cancelWait d la job keys own) :=
  keeps_ite (keeps_pure _) (keeps_ite wr_tidy await_tidy)

theorem cancel_canonical {i : Instr} {d a b : Reg} {g : Guard} {la : Look} {s : State} (h : s.canonical = true) :
    (cancel i d a b g la s).canonical := by
  rw [cancel]
  refine long_canonical ?_ h
  refine keeps_bind rd2_tidy fun _ => ?_
  refine keeps_get fun _ _ => ?_
  dsimp only
  split
  · exact keeps_bind ownHandle_tidy fun _ => keeps_ite wr_tidy (keeps_bind destOk_tidy fun _ =>
      keeps_bind (upd_tidy (fun _ h2 => cancelLaunch_canonical h2)) fun _ => cancelWait_tidy)
  · exact keeps_bind ownHandle_tidy fun _ => keeps_ite wr_tidy (keeps_bind destOk_tidy fun _ =>
      keeps_bind (upd_tidy (fun _ h2 => cancelGraph_canonical h2)) fun _ => cancelWait_tidy)
  · exact keeps_bind (need_tidy trap_tidy) fun _ => keeps_bind ownHandle_tidy fun _ =>
      keeps_ite wr_tidy (keeps_bind destOk_tidy fun _ => keeps_bind (upd_tidy (fun _ h2 =>
      endJob_canonical (cancelRuns_canonical (stopXfers_canonical (cancelCmds_canonical (canonical_foldl (canonical_foldl
      (setObjFld_canonical h2) (fun _ _ h3 => cancelGraph_canonical h3) _) (fun _ _ h3 => cancelLaunch_canonical h3) _))))))
      fun _ => cancelWait_tidy)
  · exact opFault_tidy

theorem execCancelLaunch_canonical {d a b : Reg} {g : Guard} {la : Look} {s : State} (h : s.canonical = true) :
    (execCancelLaunch d a b g la s).canonical :=
  cancel_canonical h

theorem execCancelGraph_canonical {d a b : Reg} {g : Guard} {la : Look} {s : State} (h : s.canonical = true) :
    (execCancelGraph d a b g la s).canonical :=
  cancel_canonical h

theorem execCancelJob_canonical {d a b : Reg} {g : Guard} {la : Look} {s : State} (h : s.canonical = true) :
    (execCancelJob d a b g la s).canonical :=
  cancel_canonical h

end Sys2Proof.Machine
end

section
/-! SUPPORT. Canonical memory is kept: replayed objects, tables, multicast and collective graphs. -/

namespace Sys2Proof.Machine
open Sys2Proof.Num

/-! Record fields (Table 14.1). -/

theorem setReplay_canonical {s : State} {r : Replay} (h : s.canonical = true) : (s.setReplay r).canonical = true :=
  canonical_mk h

/-! Methods (R252, R253). -/

theorem methodRun_canonical {i : Instr} :
    Finds (fun f : State → Out => ∀ s, s.canonical = true → (f s).canonical) (methodRun i) := by
  cases i with
  | add => exact fun _ h => execAdd_canonical h
  | sub => exact fun _ h => execSub_canonical h
  | mul => exact fun _ h => execMul_canonical h
  | mulh => exact fun _ h => execMulh_canonical h
  | mulhn => exact fun _ h => execMulhn_canonical h
  | div => exact fun _ h => execDiv_canonical h
  | divn => exact fun _ h => execDivn_canonical h
  | rem => exact fun _ h => execRem_canonical h
  | and => exact fun _ h => execAnd_canonical h
  | or => exact fun _ h => execOr_canonical h
  | xor => exact fun _ h => execXor_canonical h
  | andn => exact fun _ h => execAndn_canonical h
  | orn => exact fun _ h => execOrn_canonical h
  | xnor => exact fun _ h => execXnor_canonical h
  | min => exact fun _ h => execMin_canonical h
  | max => exact fun _ h => execMax_canonical h
  | shl => exact fun _ h => execShl_canonical h
  | shr => exact fun _ h => execShr_canonical h
  | sha => exact fun _ h => execSha_canonical h
  | rot => exact fun _ h => execRot_canonical h
  | minn => exact fun _ h => execMinn_canonical h
  | maxn => exact fun _ h => execMaxn_canonical h
  | clz => exact fun _ h => execClz_canonical h
  | popc => exact fun _ h => execPopc_canonical h
  | bext => exact fun _ h => execBext_canonical h
  | bdep => exact fun _ h => execBdep_canonical h
  | brev => exact fun _ h => execBrev_canonical h
  | scadd => exact fun _ h => execScadd_canonical h
  | sel => exact fun _ h => execSel_canonical h
  | lut3 => exact fun _ h => execLut3_canonical h
  | fsl => exact fun _ h => execFsl_canonical h
  | fsr => exact fun _ h => execFsr_canonical h
  | cmpeq => exact fun _ h => execCmpeq_canonical h
  | cmpne => exact fun _ h => execCmpne_canonical h
  | cmplt => exact fun _ h => execCmplt_canonical h
  | cmple => exact fun _ h => execCmple_canonical h
  | cmpltn => exact fun _ h => execCmpltn_canonical h
  | cmplen => exact fun _ h => execCmplen_canonical h
  | tst => exact fun _ h => execTst_canonical h
  | pand => exact fun _ h => execPand_canonical h
  | por => exact fun _ h => execPor_canonical h
  | pxor => exact fun _ h => execPxor_canonical h
  | pnot => exact fun _ h => execPnot_canonical h
  | addi => exact fun _ h => execAddi_canonical h
  | andi => exact fun _ h => execAndi_canonical h
  | ori => exact fun _ h => execOri_canonical h
  | xori => exact fun _ h => execXori_canonical h
  | shli => exact fun _ h => execShli_canonical h
  | shri => exact fun _ h => execShri_canonical h
  | shai => exact fun _ h => execShai_canonical h
  | cmpeqi => exact fun _ h => execCmpeqi_canonical h
  | cmplti => exact fun _ h => execCmplti_canonical h
  | cmpltni => exact fun _ h => execCmpltni_canonical h
  | lui => exact fun _ h => execLui_canonical h
  | addpc => exact fun _ h => execAddpc_canonical h
  | fadd => exact fun _ h => execFadd_canonical h
  | fsub => exact fun _ h => execFsub_canonical h
  | fmul => exact fun _ h => execFmul_canonical h
  | fma => exact fun _ h => execFma_canonical h
  | fdiv => exact fun _ h => execFdiv_canonical h
  | fsqrt => exact fun _ h => execFsqrt_canonical h
  | fmin => exact fun _ h => execFmin_canonical h
  | fmax => exact fun _ h => execFmax_canonical h
  | fcmpeq => exact fun _ h => execFcmpeq_canonical h
  | fcmplt => exact fun _ h => execFcmplt_canonical h
  | fcmple => exact fun _ h => execFcmple_canonical h
  | fcmpun => exact fun _ h => execFcmpun_canonical h
  | br => exact fun _ h => execBr_canonical h
  | brF => exact fun _ h => execBrF_canonical h
  | jr => exact fun _ h => execJr_canonical h
  | ret => exact fun _ h => execRet_canonical h
  | loop => exact fun _ h => execLoop_canonical h
  | trap => exact fun _ h => execTrap_canonical h
  | compactMov => exact fun _ h => execCompactMov_canonical h
  | compactAdd => exact fun _ h => execCompactAdd_canonical h
  | compactSub => exact fun _ h => execCompactSub_canonical h
  | compactAnd => exact fun _ h => execCompactAnd_canonical h
  | compactOr => exact fun _ h => execCompactOr_canonical h
  | compactXor => exact fun _ h => execCompactXor_canonical h
  | compactAndn => exact fun _ h => execCompactAndn_canonical h
  | compactShl => exact fun _ h => execCompactShl_canonical h
  | compactShr => exact fun _ h => execCompactShr_canonical h
  | compactSha => exact fun _ h => execCompactSha_canonical h
  | compactAddi => exact fun _ h => execCompactAddi_canonical h
  | compactShli => exact fun _ h => execCompactShli_canonical h
  | compactShri => exact fun _ h => execCompactShri_canonical h
  | compactShai => exact fun _ h => execCompactShai_canonical h
  | compactMovi => exact fun _ h => execCompactMovi_canonical h
  | compactCmpeq => exact fun _ h => execCompactCmpeq_canonical h
  | compactCmplt => exact fun _ h => execCompactCmplt_canonical h
  | compactCmpltn => exact fun _ h => execCompactCmpltn_canonical h
  | compactNop => exact fun _ h => execCompactNop_canonical h
  | compactRet => exact fun _ h => execCompactRet_canonical h
  | nop => exact fun _ h => execNop_canonical h
  | cvt => exact finds_ite trivial fun _ h => execCvt_canonical h
  | _ => exact trivial

theorem methodOut_canonical {s : State} {r : Out} (hr : r.canonical) :
    Ends (fun _ => True) (fun x => x.canonical = true) (methodOut s r) := by
  unfold methodOut
  split
  · exact ends_ite trivial (ends_ite trivial hr)
  · exact trivial

theorem methodM_canonical {α : Type} {s : State} {x : M α} (hx : Tidy x) (h : s.canonical = true) :
    Ends (fun _ => True) (fun y => y.2.canonical = true) (methodM s x) := by
  have hs := hx s h
  rw [methodM]
  split
  next heq => exact ends_ite trivial (ends_ok hs heq :)
  · exact trivial
  · exact trivial

/-- A method under way whose state is canonical. -/
def Method.canonical (m : Method) : Prop := m.s.canonical = true

theorem methodLoad_canonical {m : Method} {sbytes n : Nat} {al sx : Bool} {ds : List Reg} {addr : M Word} {o : Int}
    (haddr : Tidy addr) (h : m.s.canonical = true) :
    Ends (fun _ => True) Method.canonical (methodLoad m sbytes n al sx ds addr o) :=
  ends_bind (methodM_canonical haddr (issue_canonical h)) fun _ hx => ends_bind ends_true fun _ _ =>
    ends_bind (methodM_canonical wrAll_tidy hx) fun _ ht => ht

theorem methodStore_canonical {m : Method} {sbytes n : Nat} {al query : Bool} {addr : M (Word × List Byte)} {o : Int}
    (haddr : Tidy addr) (h : m.s.canonical = true) :
    Ends (fun _ => True) Method.canonical (methodStore m sbytes n al query addr o) :=
  ends_bind (methodM_canonical haddr (issue_canonical h)) fun _ hx => ends_ite trivial (ends_bind ends_true fun _ _ => hx)

theorem methodOut_canonical_step {m : Method} {r : Out} (hr : r.canonical) :
    Ends (fun _ => True) Method.canonical ((methodOut m.s r).map fun s => { m with s }) :=
  ends_map (methodOut_canonical hr) fun _ ht => ht

theorem methodStep_canonical {sbytes : Nat} {query : Bool} {m : Method} {i : Instr} (h : m.s.canonical = true) :
    Ends (fun _ => True) Method.canonical (methodStep sbytes query m i) := by
  unfold methodStep
  split
  · exact trivial
  · exact trivial
  · exact ends_ite trivial (methodOut_canonical_step (execCall_canonical h))
  · exact ends_ite trivial (methodOut_canonical_step (execCallr_canonical h))
  · exact methodLoad_canonical rd_tidy h
  · exact methodLoad_canonical rd_tidy h
  · exact ends_ite (issue_canonical h) (methodLoad_canonical (keeps_bind rd_tidy fun _ => keeps_bind rd_tidy fun _ =>
      keeps_pure _) h)
  · exact methodStore_canonical (keeps_bind rd_tidy fun _ => keeps_bind rd_tidy fun _ => keeps_pure _) h
  · refine methodStore_canonical (keeps_bind rd_tidy fun _ => keeps_bind rd_tidy fun _ => ?_) h
    split
    · exact keeps_bind rd_tidy fun _ => keeps_pure _
    · exact keeps_bind (keeps_pure _) fun _ => keeps_pure _
  · exact ends_ite (issue_canonical h)
      (methodStore_canonical (keeps_bind rd_tidy fun _ => keeps_bind rd_tidy fun _ => keeps_bind rd_tidy fun _ =>
        keeps_pure _) h)
  · split
    · exact trivial
    next hf => exact methodOut_canonical_step (finds_some methodRun_canonical hf _ h)

theorem methodLoop_canonical {image : List Byte} {imgOff sbytes : Nat} {query : Bool} {n : Nat} {m : Method}
    (h : m.s.canonical = true) : (methodLoop image imgOff sbytes query n m).2.canonical := by
  induction n generalizing m with
  | zero => exact h
  | succ n ih =>
    rw [methodLoop]
    split
    · exact h
    · split
      · exact h
      · split
        next hm => exact ih (ends_ok (methodStep_canonical h) hm :)
        · exact h

theorem runMethod_wf {s : State} {r : Replay} {p : Replica} {c : Call} {query : Bool} {pos : Nat} (h : s.canonical = true) :
    (s.runMethod r p c query pos).mem.wf = true := by
  have hm := methodLoop_canonical (image := r.image) (imgOff := (s.objAt r.key).imgOff) (sbytes := (s.objAt r.key).sbytes)
    (query := query) (n := methodBudget (r.methods.getD c.method 0))
    (m := { s := { s with me := methodStrand p.die ((s.objAt r.key).imgOff + methodEntry (r.methods.getD c.method 0)) c pos }
            block := p.block }) (canonical_mk h)
  rw [State.runMethod]
  split
  next hl => exact (canonical_iff.mp (hl ▸ hm :)).1
  next hl => exact (canonical_iff.mp (hl ▸ hm :)).1

/-! The log home. -/

theorem appendEntry_canonical {s : State} {key : Nat} {c : Call} (h : s.canonical = true) :
    (s.appendEntry key c).canonical = true := by
  rw [State.appendEntry]
  split
  · exact h
  · exact canonical_ite (setObjFld_canonical (setReplay_canonical h)) (allStrands_canonical (setObjFld_canonical
      (setReplay_canonical h)))

theorem wakeCalls_canonical {key r : Nat} {s : State} (h : s.canonical = true) : (State.wakeCalls key r s).canonical = true := by
  induction r generalizing s with
  | zero =>
    rw [State.wakeCalls]
    exact h
  | succ _ ih =>
    rw [State.wakeCalls]
    split
    · exact h
    · split
      · exact h
      · exact canonical_ite (ih (appendEntry_canonical (setReplay_canonical h))) h

theorem callArrives_canonical {s : State} {key : Nat} {c : Call} (h : s.canonical = true) :
    (s.callArrives key c).canonical = true := by
  rw [State.callArrives]
  split
  · exact h
  · exact canonical_ite (appendEntry_canonical h) (count_canonical (setReplay_canonical h))

theorem execLogAppend_canonical {s : State} (h : s.canonical = true) : (execLogAppend s).canonical := by
  rw [execLogAppend]
  split
  · exact h
  · refine out_ite ?_ ?_
    · refine out_ite (callArrives_canonical h) ?_
      refine out_ite ?_ h
      split
      · exact appendEntry_canonical (setReplay_canonical h)
      · exact appendEntry_canonical h
    · split
      · exact h
      · exact callArrives_canonical (setReplay_canonical h)

/-! Application. -/

theorem rejoined_canonical {s : State} {r : Replay} {p : Replica} (h : s.canonical = true) :
    (s.rejoined r p).canonical = true := by
  rw [State.rejoined]
  split
  · exact setReplay_canonical h
  · exact canonical_ite (setReplay_canonical h) (allStrands_canonical (setReplay_canonical h))

theorem closeReplay_canonical {s : State} {key : Nat} (h : s.canonical = true) : (s.closeReplay key).canonical = true := by
  rw [State.closeReplay]
  split
  · exact h
  · exact canonical_ite h (allStrands_canonical (canonical_mk (canonical_foldl h (fun _ _ h1 => allStrands_canonical h1) _)))

/-- What some strands of a die are told. -/
theorem allStrandsIf_canonical {p : Prop} [Decidable p] {s : State} {f : Strand → Strand} (h : s.canonical = true) :
    (if p then s.allStrands f else s).canonical = true :=
  canonical_ite (allStrands_canonical h) h

theorem execEntryApply_canonical {s : State} (h : s.canonical = true) : (execEntryApply s).canonical := by
  rw [execEntryApply]
  dsimp only
  split
  · exact canonical_ite (fieldApply_canonical h) h
  · split
    · exact h
    · split
      · exact h
      · split
        · exact h
        · refine closeReplay_canonical (canonical_ite (due_canonical ?_) ?_)
          · exact allStrandsIf_canonical (rejoined_canonical (canonical_withMem h (runMethod_wf h)))
          · exact allStrandsIf_canonical (rejoined_canonical (canonical_withMem h (runMethod_wf h)))

theorem retrim_canonical {s : State} {key : Nat} (h : s.canonical = true) : (s.retrim key).canonical = true := by
  rw [State.retrim]
  split
  · exact h
  · exact canonical_ite (wakeCalls_canonical (setObjFld_canonical (setReplay_canonical h))) (setReplay_canonical h)

theorem execReplicaReport_canonical {s : State} (h : s.canonical = true) : (execReplicaReport s).canonical := by
  rw [execReplicaReport]
  split
  · exact canonical_ite (fieldReport_canonical h) h
  · refine out_ite (retrim_canonical (setReplay_canonical h)) ?_
    split
    · exact h
    · exact retrim_canonical (setReplay_canonical h)

/-! Queries. -/

theorem execQueryRun_canonical {s : State} (h : s.canonical = true) : (execQueryRun s).canonical := by
  rw [execQueryRun]
  split
  · exact h
  · split
    · exact h
    · split
      · exact h
      · split
        · exact h
        · refine closeReplay_canonical (canonical_ite (allStrands_canonical ?_) (allStrands_canonical (canonical_withMem ?_
            (runMethod_wf h))))
          · exact canonical_ite (acquireSpan_canonical (setReplay_canonical h)) (setReplay_canonical h)
          · exact canonical_ite (acquireSpan_canonical (setReplay_canonical h)) (setReplay_canonical h)

/-! CALLM, CALLQ, CALLW. -/

theorem callObject_tidy {a : Word} {right : Right} : Tidy (callObject a right) :=
  keeps_bind ownHandle_tidy fun _ => keeps_get fun _ _ => keeps_pure _

theorem methodOk_tidy {key : Nat} {o : Obj} {a : Word} {mutates : Bool} : Tidy (methodOk key o a mutates) :=
  keeps_get fun _ _ => need_tidy opFault_tidy

theorem replicaOk_tidy {key : Nat} {o : Obj} {a : Word} : Tidy (replicaOk key o a) :=
  keeps_get fun _ _ => need_tidy illegalState_tidy

theorem callNumber_tidy : Tidy callNumber := fun _ h => canonical_mk h

theorem alsoOwe_tidy {ds : List Reg} {src : Owe} {la : Nat} : Tidy (alsoOwe ds src la) := updMe_tidy

theorem call_tidy {n : Nat} {a : Word} : Tidy (call n a) := keeps_get fun _ _ => keeps_pure _

theorem updReplay_tidy {key : Nat} {f : Replay → Replay} : Tidy (updReplay key f) := by
  rw [updReplay]
  refine upd_tidy ?_
  intro a h
  split
  · exact h
  · exact setReplay_canonical h

theorem execCallm_canonical {d a : Reg} {g : Guard} {la : Look} {s : State} (h : s.canonical = true) :
    (execCallm d a g la s).canonical :=
  long_canonical (keeps_bind rd_tidy fun _ => keeps_bind settledO_tidy fun _ => keeps_bind callObject_tidy fun _ =>
    keeps_bind methodOk_tidy fun _ => keeps_bind replicaOk_tidy fun _ => keeps_ite (keeps_bind releasedSpan_tidy fun _ =>
    keeps_bind destOk_tidy fun _ => keeps_bind pwHere_tidy fun _ => keeps_bind callNumber_tidy fun _ =>
    keeps_bind call_tidy fun _ => keeps_bind await_tidy fun _ => keeps_bind alsoOwe_tidy fun _ => keeps_bind alsoOwe_tidy
    fun _ => keeps_bind updReplay_tidy fun _ => upd_tidy (fun _ h1 => canonical_ite (due_canonical h1) (canonical_mk h1)))
    (keeps_bind released_tidy fun _ => keeps_bind destOk_tidy fun _ => keeps_bind pwHere_tidy fun _ =>
    keeps_bind callNumber_tidy fun _ => keeps_bind call_tidy fun _ => keeps_bind await_tidy fun _ => keeps_bind alsoOwe_tidy
    fun _ => keeps_bind alsoOwe_tidy fun _ => keeps_bind updReplay_tidy fun _ => upd_tidy (fun _ h1 =>
    canonical_ite (due_canonical h1) (canonical_mk h1)))) h

theorem execCallq_canonical {d a b : Reg} {g : Guard} {la : Look} {s : State} (h : s.canonical = true) :
    (execCallq d a b g la s).canonical :=
  long_canonical (keeps_bind rd2_tidy fun _ => keeps_bind settledO_tidy fun _ => keeps_bind callObject_tidy fun _ =>
    keeps_bind methodOk_tidy fun _ => keeps_bind replicaOk_tidy fun _ => keeps_bind destOk_tidy fun _ =>
    keeps_bind pwHere_tidy fun _ => keeps_bind callNumber_tidy fun _ => keeps_bind call_tidy fun _ =>
    keeps_bind await_tidy fun _ => keeps_bind alsoOwe_tidy fun _ => updReplay_tidy) h

theorem execCallw_canonical {a b : Reg} {g : Guard} {la : Look} {s : State} (h : s.canonical = true) :
    (execCallw a b g la s).canonical :=
  long_canonical (keeps_bind rd2_tidy fun _ => keeps_bind callObject_tidy fun _ => keeps_bind replicaOk_tidy fun _ =>
    keeps_bind callNumber_tidy fun _ => keeps_bind call_tidy fun _ => keeps_bind alsoOwe_tidy fun _ => updReplay_tidy) h

/-! Exclusion (R257). -/

theorem exclude_canonical {s : State} {key die : Nat} {tell : Bool} (h : s.canonical = true) :
    (s.exclude key die tell).canonical = true := by
  rw [State.exclude]
  split
  · exact h
  · split
    · exact h
    · exact canonical_ite h (closeReplay_canonical (retrim_canonical (canonical_ite (hwSend_canonical (canonical_foldl
        (setObjFld_canonical (setReplay_canonical h)) (fun _ _ h1 => allStrands_canonical h1) _)) (canonical_foldl
        (setObjFld_canonical (setReplay_canonical h)) (fun _ _ h1 => allStrands_canonical h1) _))))

theorem excludeDie_canonical {s : State} {die : Nat} {tell : Bool} (h : s.canonical = true) :
    (s.excludeDie die tell).canonical = true :=
  canonical_foldl (canonical_foldl h (fun _ _ h1 => exclude_canonical h1) _) (fun _ _ h1 => fieldExclude_canonical h1) _

theorem execReplicaExclusion_canonical {s : State} (h : s.canonical = true) : (execReplicaExclusion s).canonical := by
  rw [execReplicaExclusion]
  split
  · exact canonical_ite (fieldExclude_canonical (logError_canonical h)) (exclude_canonical (logError_canonical h))
  · exact excludeDie_canonical h
  · exact excludeDie_canonical h

/-! OBJNEW (R256). -/

theorem readVirt_tidy {a : Word} {n : Nat} : Tidy (readVirt a n) :=
  keeps_bind virt_tidy fun _ => keeps_bind check_tidy fun _ => keeps_get fun _ _ => keeps_bind (need_tidy trap_tidy) fun _ =>
    readHits_tidy

theorem installReplay_canonical {s : State} {key : Nat} {o : Obj} {methods image block : List Byte} (h : s.canonical = true) :
    (s.installReplay key o methods image block).canonical = true :=
  canonical_mk (canonical_foldl (setObj_canonical (canonical_mk h)) (fun _ _ h1 => setBytes_canonical h1) _)

theorem execObjnew_canonical {a b c : Reg} {la : Look} {s : State} (h : s.canonical = true) :
    (execObjnew a b c la s).canonical :=
  command_canonical (keeps_bind rd3_tidy fun _ => keeps_get fun _ _ => keeps_bind (need_tidy opFault_tidy) fun _ =>
    keeps_bind (need_tidy opFault_tidy) fun _ => keeps_bind readVirt_tidy fun _ => keeps_bind (need_tidy opFault_tidy)
    fun _ => keeps_bind readVirt_tidy fun _ => keeps_bind (need_tidy opFault_tidy) fun _ =>
    keeps_bind (need_tidy opFault_tidy) fun _ => keeps_bind (need_tidy illegalState_tidy) fun _ => keeps_bind readVirt_tidy
    fun _ => keeps_ite (keeps_bind (keeps_pure _) fun _ => keeps_bind (upd_tidy (fun _ h2 => installReplay_canonical h2))
    fun _ => promise_tidy) (keeps_bind readVirt_tidy fun _ => keeps_bind (upd_tidy (fun _ h2 => installReplay_canonical h2))
    fun _ => promise_tidy)) h

/-! OBJSYNC (R257). -/

theorem fieldReturn_canonical {s : State} {die : Nat} (h : s.canonical = true) : (s.fieldReturn die).canonical = true :=
  canonical_mk h

theorem execObjsync_canonical {a : Reg} {la : Look} {s : State} (h : s.canonical = true) : (execObjsync a la s).canonical := by
  rw [execObjsync]
  refine command_canonical ?_ h
  refine keeps_bind rd_tidy fun _ => ?_
  refine keeps_bind ownHandle_tidy fun _ => ?_
  refine keeps_bind promiseFree_tidy fun _ => ?_
  refine keeps_get fun _ _ => ?_
  split
  · exact keeps_pure _
  · refine keeps_ite (keeps_pure _) ?_
    split
    · exact stop_tidy trivial
    · exact keeps_bind waitFor_tidy fun _ => upd_tidy (fun _ h2 => rejoined_canonical (setObjFld_canonical
        (fieldReturn_canonical (canonical_mk h2))))

/-! OTSET (R266). -/

theorem tableRelease_tidy {job : Nat} : Tidy (tableRelease job) :=
  keeps_get fun _ _ => keeps_ite releasedSpan_tidy released_tidy

theorem coolRecords_canonical {s : State} {key kind : Nat} (h : s.canonical = true) :
    (s.coolRecords key kind).canonical = true :=
  canonical_mk h

theorem install_canonical {s : State} {key : Nat} {o : Obj} {rights : Nat} (h : s.canonical = true) :
    (s.install key o rights).canonical = true :=
  canonical_ite (setObj_canonical (canonical_mk (coolRecords_canonical (dropCached_canonical h)))) (setObj_canonical
    (coolRecords_canonical (dropCached_canonical h)))

/-! Calls on a field table (R258). -/

theorem twoLists_tidy {o : Obj} {y z : Word} : Tidy (twoLists o y z) :=
  keeps_bind (need_tidy opFault_tidy) fun _ => keeps_bind (need_tidy opFault_tidy) fun _ =>
    keeps_bind (need_tidy opFault_tidy) fun _ => keeps_pure _

theorem rename_canonical {s : State} {key n : Nat} {ps : List (Nat × Nat)} (h : s.canonical = true) :
    (s.rename key n ps).canonical = true :=
  logChange_canonical (canonical_mk h)

theorem fieldCall_tidy {a : Arg} : Tidy (fieldCall a) := by
  rw [fieldCall]
  refine keeps_get fun _ h => ?_
  split
  · exact keeps_bind (need_tidy opFault_tidy) fun _ => keeps_bind (need_tidy illegalState_tidy) fun _ =>
      keeps_bind (upd_tidy (fun _ h1 => logChange_canonical (stopRemaps_canonical h1))) fun _ => keeps_pure _
  · exact keeps_bind (upd_tidy (fun _ h1 => logChange_canonical (stopRemaps_canonical h1))) fun _ => keeps_pure _
  · exact keeps_bind (need_tidy opFault_tidy) fun _ => keeps_bind twoLists_tidy fun _ => keeps_bind (need_tidy opFault_tidy)
      fun _ => keeps_bind (need_tidy opFault_tidy) fun _ => keeps_bind (upd_tidy (fun _ h1 => rename_canonical h1)) fun _ =>
      keeps_pure _
  · exact keeps_bind (need_tidy opFault_tidy) fun _ => keeps_bind twoLists_tidy fun _ => keeps_bind (need_tidy opFault_tidy)
      fun _ => keeps_bind (keeps_set (requestRemap_canonical h)) fun _ => keeps_pure _

theorem makeCall_tidy {a : Arg} {la : Look} : Tidy (makeCall a la) := by
  rw [makeCall]
  refine keeps_get fun _ _ => ?_
  refine keeps_bind (upd_tidy (fun _ h1 => canonical_mk h1)) fun _ => ?_
  refine keeps_ite ?_ (keeps_bind await_tidy fun _ => upd_tidy (fun _ h1 => canonical_mk (openLine_canonical h1)))
  refine keeps_bind fieldCall_tidy fun _ => ?_
  dsimp only
  split
  · exact keeps_bind updMe_tidy fun _ => waitFor_tidy
  · exact waitFor_tidy

theorem wakeCall_canonical {s : State} {a : Arg} (h : s.canonical = true) : (s.wakeCall a).canonical = true := by
  unfold State.wakeCall
  extract_lets mine s0 u
  have h0 : s0.canonical = true := by
    dsimp only [s0]
    split
    · exact h
    · exact setFieldTab_canonical h
  have hu : u.canonical = true := focus_canonical h0
  split
  · exact h0
  · dsimp only
    split
    next heq => exact focus_canonical (canonical_mk (ends_ok (fieldCall_tidy u hu) heq :))
    · exact focus_canonical (canonical_mk hu)
    · exact focus_canonical (canonical_mk hu)

theorem wakeFields_canonical {s : State} (h : s.canonical = true) : s.wakeFields.canonical = true := by
  rw [State.wakeFields]
  refine canonical_foldl h ?_ _
  intro t a h1
  split
  · exact h1
  · exact canonical_ite (wakeCall_canonical h1) h1

/-! OTSET (R266). -/

theorem execOtset_canonical {a b c : Reg} {la : Look} {s : State} (h : s.canonical = true) :
    (execOtset a b c la s).canonical :=
  command_canonical (keeps_bind rd3_tidy fun _ => keeps_bind released_tidy fun _ => keeps_get fun _ _ =>
    keeps_bind (need_tidy opFault_tidy) fun _ => keeps_bind (need_tidy opFault_tidy) fun _ => keeps_bind virt_tidy fun _ =>
    keeps_bind aligned_tidy fun _ => keeps_bind readVirt_tidy fun _ => keeps_bind (need_tidy opFault_tidy) fun _ =>
    keeps_bind (need_tidy opFault_tidy) fun _ => keeps_bind (need_tidy opFault_tidy) fun _ =>
    keeps_bind (need_tidy opFault_tidy) fun _ => keeps_bind (need_tidy illegalState_tidy) fun _ =>
    keeps_bind (need_tidy illegalState_tidy) fun _ => keeps_bind (need_tidy illegalState_tidy) fun _ =>
    keeps_ite (keeps_bind tableRelease_tidy fun _ => keeps_bind promise_tidy fun _ => makeCall_tidy)
    (keeps_bind (upd_tidy (fun _ h2 => install_canonical h2)) fun _ => promise_tidy)) h

/-! OTGET (R267) and FINFO (R269). -/

theorem writePieces_tidy {w : Wait} {r : Nat} {r1 : Addr} {r2 : List Hit} {r3 : List Byte} :
    Tidy (writePieces w r r1 r2 r3) := by
  induction r generalizing w r1 r2 r3 with
  | zero =>
    rw [writePieces]
    exact keeps_pure _
  | succ _ ih =>
    rw [writePieces]
    exact keeps_bind writeHits_tidy fun _ => ih

theorem writeVirt_tidy {a : Word} {bs : List Byte} {la : Look} : Tidy (writeVirt a bs la) :=
  keeps_bind virt_tidy fun _ => keeps_bind aligned_tidy fun _ => keeps_bind check_tidy fun _ =>
    keeps_bind soFree_tidy fun _ => writePieces_tidy

theorem execOtget_canonical {a b : Reg} {la : Look} {s : State} (h : s.canonical = true) : (execOtget a b la s).canonical :=
  command_canonical (keeps_bind rd2_tidy fun _ => keeps_get fun _ _ => keeps_bind (need_tidy opFault_tidy) fun _ =>
    keeps_bind writeVirt_tidy fun _ => promiseFree_tidy) h

theorem execFinfo_canonical {a b : Reg} {la : Look} {s : State} (h : s.canonical = true) : (execFinfo a b la s).canonical :=
  command_canonical (keeps_bind rd2_tidy fun _ => keeps_get fun _ _ => keeps_bind useHandle_tidy fun _ =>
    keeps_bind writeVirt_tidy fun _ => keeps_ite (keeps_bind acquireSpan_tidy fun _ => promiseFree_tidy) promiseFree_tidy) h

/-! OTINV (R268, Table 15.3). -/

theorem dropQueue_canonical {s : State} {o : Obj} (h : s.canonical = true) : (s.dropQueue o).canonical = true := by
  rw [State.dropQueue]
  refine canonical_foldl (canonical_mk h) ?_ _
  intro t a h1
  split
  · exact countTasks_canonical h1
  · exact h1

theorem invalidate_canonical {s : State} {key : Nat} {o : Obj} (h : s.canonical = true) :
    (s.invalidate key o).canonical = true := by
  rw [State.invalidate]
  split
  · exact dropQueue_canonical (setObj_canonical (coolRecords_canonical (dropCached_canonical h)))
  · exact closeReplay_canonical (setObj_canonical (coolRecords_canonical (dropCached_canonical h)))
  · exact canonical_mk (setObjFld_canonical (setObj_canonical (coolRecords_canonical (dropCached_canonical h))))
  · exact setObj_canonical (coolRecords_canonical (dropCached_canonical h))

theorem execOtinv_canonical {a : Reg} {la : Look} {s : State} (h : s.canonical = true) : (execOtinv a la s).canonical :=
  command_canonical (keeps_bind rd_tidy fun _ => keeps_bind released_tidy fun _ => keeps_get fun _ _ =>
    keeps_bind (need_tidy opFault_tidy) fun _ => keeps_bind promiseFree_tidy fun _ => keeps_ite (keeps_pure _)
    (keeps_ite (keeps_bind tableRelease_tidy fun _ => makeCall_tidy) (keeps_bind (need_tidy illegalState_tidy) fun _ =>
    keeps_bind (upd_tidy (fun _ h2 => invalidate_canonical h2)) fun _ => keeps_get fun _ _ =>
    keeps_ite waitFor_tidy (keeps_pure _)))) h

/-! FRENAME (R270) and FPERM (R271). -/

theorem execFrename_canonical {a b c : Reg} {la : Look} {s : State} (h : s.canonical = true) :
    (execFrename a b c la s).canonical :=
  command_canonical (keeps_bind rd3_tidy fun _ => keeps_get fun _ _ => keeps_bind useHandle_tidy fun _ =>
    keeps_bind tableRelease_tidy fun _ => keeps_bind promiseFree_tidy fun _ => makeCall_tidy) h

theorem execFperm_canonical {a b c : Reg} {la : Look} {s : State} (h : s.canonical = true) :
    (execFperm a b c la s).canonical :=
  command_canonical (keeps_bind rd3_tidy fun _ => keeps_get fun _ _ => keeps_bind useHandle_tidy fun _ => makeCall_tidy) h

/-! Multicast (R300-R304). -/

theorem wordOperand_tidy {b : Word} : Tidy (wordOperand b) :=
  keeps_ite (keeps_pure _) (keeps_bind virt_tidy fun _ => keeps_bind aligned_tidy fun _ => keeps_bind check_tidy fun _ =>
    keeps_pure _)

theorem joinPort_canonical {s : State} {g port root : Nat} (h : s.canonical = true) :
    (s.joinPort g port root).canonical = true :=
  canonical_ite (canonical_mk (setBitmap_canonical h)) (setBitmap_canonical h)

theorem execSubs_canonical {a b : Reg} {la : Look} {s : State} (h : s.canonical = true) : (execSubs a b la s).canonical :=
  command_canonical (keeps_bind rd2_tidy fun _ => keeps_bind ownHandle_tidy fun _ => keeps_bind wordOperand_tidy fun _ =>
    keeps_get fun _ _ => keeps_bind (need_tidy illegalState_tidy) fun _ => keeps_bind (upd_tidy (fun _ h2 =>
    canonical_ite (joinPort_canonical (setObjFld_canonical (canonical_mk h2))) (canonical_mk h2))) fun _ => promiseFree_tidy)
    h

theorem execUnsub_canonical {a : Reg} {la : Look} {s : State} (h : s.canonical = true) : (execUnsub a la s).canonical :=
  command_canonical (keeps_bind rd_tidy fun _ => keeps_bind ownHandle_tidy fun _ => keeps_bind (upd_tidy (fun _ h1 =>
    unsub_canonical h1)) fun _ => promiseFree_tidy) h

theorem execJoinPacket_canonical {s : State} (h : s.canonical = true) : (execJoinPacket s).canonical := joinPort_canonical h

theorem execLeavePacket_canonical {s : State} (h : s.canonical = true) : (execLeavePacket s).canonical :=
  leavePort_canonical h

theorem deliverGroup_canonical {s : State} {a : Arg} (h : s.canonical = true) : (s.deliverGroup a).canonical = true := by
  rw [State.deliverGroup]
  refine canonical_ite (count_canonical h) ?_
  dsimp only
  split
  · exact h
  · refine canonical_ite (due_canonical h) ?_
    split
    · exact logError_canonical (counted_canonical h)
    · exact canonical_foldl (setCells_canonical (counted_canonical h)) (fun _ _ h1 => canonical_ite h1 (addWord_canonical h1))
        _

theorem execMulticastDelivery_canonical {s : State} (h : s.canonical = true) : (execMulticastDelivery s).canonical :=
  out_ite (deliverGroup_canonical h) (out_ite h (canonical_ite (deliverGroup_canonical (canonical_ite h (canonical_mk h)))
    (canonical_ite h (canonical_mk h))))

/-! Collective graphs. -/

theorem chunkWrite_canonical {s : State} {g : CGraph} {va : Nat} {bs : List Byte} (h : s.canonical = true) :
    Finds (fun x => x.canonical = true) (s.chunkWrite g va bs) := by
  rw [State.chunkWrite]
  split
  next heq => exact (ends_ok (engWrite_tidy _ h) heq :)
  next heq => exact logError_canonical (ends_ok (engWrite_tidy _ h) heq :)
  · exact trivial

theorem ackChunk_canonical {s : State} {g : CGraph} {rank b : Nat} (h : s.canonical = true) :
    (s.ackChunk g rank b).canonical = true :=
  canonical_ite h (canonical_mk h)

theorem writeChunk_canonical {s : State} {g : CGraph} {i : Nat} {x : CStep} {c : Chunk} (h : s.canonical = true) :
    Finds (fun x => x.canonical = true) (s.writeChunk g i x c) := by
  rw [State.writeChunk]
  split
  · exact trivial
  next heq =>
    exact setGraph_canonical (ackChunk_canonical (canonical_ite (count_canonical (finds_some (chunkWrite_canonical h) heq :))
      (finds_some (chunkWrite_canonical h) heq :)))

theorem writeHeld_canonical {s : State} {key i : Nat} {r : List Chunk} (h : s.canonical = true) :
    (s.writeHeld key i r).canonical = true := by
  induction r generalizing s with
  | nil =>
    rw [State.writeHeld]
    exact h
  | cons _ _ ih =>
    rw [State.writeHeld]
    refine ih ?_
    dsimp only
    split
    · exact h
    · refine canonical_ite ?_ h
      split
      · exact h
      · split
        next heq2 => exact (finds_some (writeChunk_canonical h) heq2 :)
        · exact due_canonical (setGraph_canonical h)

theorem shipRead_canonical {s : State} {g : CGraph} {x : CStep} (h : s.canonical = true) :
    Ends (fun _ => True) (fun x => x.2.canonical = true) (s.shipRead g x) := by
  rw [State.shipRead]
  split
  · exact trivial
  next heq =>
    split
    · exact trivial
    next heq1 => exact (ends_ok (unitRead_canonical (ends_ok (unitPieces_canonical h) heq :)) heq1 :)

theorem startStep_canonical {s : State} {key i : Nat} (h : s.canonical = true) : (s.startStep key i).canonical = true := by
  rw [State.startStep]
  dsimp only
  split
  · exact h
  · split
    · exact h
    · split
      · split
        · exact canonical_ite (logError_canonical (setGraph_canonical h)) (setGraph_canonical h)
        next heq3 =>
          exact canonical_ite (canonical_foldl (ends_ok (shipRead_canonical (setGraph_canonical h)) heq3 :) (fun _ _ h1 =>
            due_canonical h1) _) (canonical_mk (ends_ok (shipRead_canonical (setGraph_canonical h)) heq3 :))
      · exact writeHeld_canonical (setGraph_canonical h)
      · exact canonical_ite (setGraph_canonical (addWord_canonical (setGraph_canonical h))) (canonical_mk (setCells_canonical
          (setGraph_canonical h)))
      · exact setGraph_canonical h

/-! CGLD (R309). -/

theorem stepsOk_tidy {r : List (Nat × CStep → Bool)} {r1 : List (Nat × CStep)} : Tidy (stepsOk r r1) := by
  induction r with
  | nil =>
    rw [stepsOk]
    exact keeps_pure _
  | cons _ _ ih =>
    rw [stepsOk]
    split
    · exact opFault_tidy
    · exact ih

theorem execCgld_canonical {a : Reg} {la : Look} {s : State} (h : s.canonical = true) : (execCgld a la s).canonical :=
  command_canonical (keeps_bind rd_tidy fun _ => keeps_bind ownHandle_tidy fun _ => keeps_get fun _ _ =>
    keeps_bind (need_tidy illegalState_tidy) fun _ => keeps_bind (need_tidy opFault_tidy) fun _ => keeps_bind readVirt_tidy
    fun _ => keeps_bind readVirt_tidy fun _ => keeps_bind stepsOk_tidy fun _ => keeps_bind (need_tidy opFault_tidy) fun _ =>
    keeps_bind (need_tidy illegalState_tidy) fun _ => keeps_bind (upd_tidy (fun _ h2 =>
    setObjFld_canonical (canonical_mk h2))) fun _ => promiseFree_tidy) h

/-! CGRUN (R310). -/

theorem execCgrun_canonical {a b : Reg} {la : Look} {s : State} (h : s.canonical = true) : (execCgrun a b la s).canonical := by
  rw [execCgrun]
  refine command_canonical ?_ h
  refine keeps_bind rd2_tidy fun _ => ?_
  refine keeps_bind ownHandle_tidy fun _ => ?_
  refine keeps_bind (need_tidy illegalState_tidy) fun _ => ?_
  refine keeps_bind wordOperand_tidy fun _ => ?_
  refine keeps_get fun _ _ => ?_
  split
  · exact illegalState_tidy
  · exact keeps_bind issueFor_tidy fun _ => keeps_bind (need_tidy (stop_tidy trivial)) fun _ => keeps_bind promise_tidy
      fun _ => keeps_bind waitFor_tidy fun _ => upd_tidy (fun _ h2 =>
      canonical_foldl (setObjFld_canonical (setObjFld_canonical (setGraph_canonical h2))) (fun _ _ h3 =>
      canonical_ite (startStep_canonical h3) h3) _)

/-! Steps under way. -/

theorem execCollectiveChunkArrival_canonical {s : State} (h : s.canonical = true) :
    (execCollectiveChunkArrival s).canonical := by
  rw [execCollectiveChunkArrival]
  split
  · exact h
  · refine out_ite ?_ (out_ite (canonical_ite (setGraph_canonical h) (due_canonical h)) (count_canonical h))
    split
    · exact count_canonical h
    · split
      · exact h
      · refine out_ite (canonical_ite (setGraph_canonical h) (due_canonical h)) ?_
        refine out_ite (count_canonical h) ?_
        split
        next heq3 => exact (finds_some (writeChunk_canonical h) heq3 :)
        · exact due_canonical h

theorem execReduceChunk_canonical {s : State} (h : s.canonical = true) : (execReduceChunk s).canonical := by
  rw [execReduceChunk]
  split
  · exact h
  · split
    · exact h
    · refine out_ite h ?_
      split
      · exact h
      · refine out_ite ?_ (canonical_foldl (canonical_mk (setGraph_canonical h)) (fun _ _ h1 => ackChunk_canonical h1) _)
        split
        · exact due_canonical h
        next heq3 =>
          exact canonical_foldl (setGraph_canonical (finds_some (chunkWrite_canonical h) heq3 :)) (fun _ _ h1 =>
            ackChunk_canonical h1) _

theorem endRun_canonical {s : State} {key : Nat} (h : s.canonical = true) : (s.endRun key).canonical = true := by
  rw [State.endRun]
  split
  · exact h
  · exact canonical_ite (tellRun_canonical (canonical_ite (setObjFld_canonical (setGraph_canonical h)) (addWord_canonical
      (setObjFld_canonical (setGraph_canonical h))))) h

theorem execCollectiveStepComplete_canonical {s : State} (h : s.canonical = true) :
    (execCollectiveStepComplete s).canonical := by
  rw [execCollectiveStepComplete]
  split
  · exact h
  · split
    · exact h
    · refine out_ite ?_ h
      refine endRun_canonical ?_
      refine canonical_foldl (setGraph_canonical (canonical_ite (clearTag_canonical h) h)) ?_ _
      intro t a h1
      split
      · exact h1
      · exact canonical_ite (startStep_canonical h1) h1

theorem execCollectiveStepTimeout_canonical {s : State} (h : s.canonical = true) : (execCollectiveStepTimeout s).canonical := by
  rw [execCollectiveStepTimeout]
  split
  · exact h
  · split
    · exact h
    · exact canonical_ite (cancelRun_canonical h) h

theorem execCollectiveCancelPacket_canonical {s : State} (h : s.canonical = true) :
    (execCollectiveCancelPacket s).canonical := by
  rw [execCollectiveCancelPacket]
  split
  · exact h
  · exact canonical_ite (cancelRun_canonical h) h

end Sys2Proof.Machine
end

section
/-! SUPPORT. Canonical memory is kept: spills, boot, power, repair and failures. -/

namespace Sys2Proof.Machine
open Sys2Proof.Num

/-! The save area. -/

theorem checkArea_tidy {right : Nat} {a : Word} : Tidy (checkArea right a) :=
  keeps_bind (need_tidy trap_tidy) fun _ => keeps_bind virt_tidy fun _ => keeps_bind check_tidy fun _ =>
    keeps_bind check_tidy fun _ => keeps_get fun _ _ => keeps_bind (need_tidy trap_tidy) fun _ => keeps_pure _

/-! SPILL. -/

theorem takeBack_canonical {s : State} {src : Owe} (h : s.canonical = true) : (s.takeBack src).canonical = true := by
  unfold State.takeBack
  split
  · exact withdrawBar_canonical h
  · exact unwait_canonical h
  · exact canonical_mk h
  · exact canonical_mk h
  · exact h

theorem boundary_canonical {s : State} (h : s.canonical = true) : Finds (fun x => x.1.canonical = true) s.boundary := by
  rw [State.boundary]
  split
  · exact finds_ite h trivial
  · exact finds_ite (canonical_mk (takeBack_canonical h)) trivial

theorem writeArea_canonical {s : State} {x : Spill} {keys : List Nat} {bs : List Byte} (h : s.canonical = true) :
    (s.writeArea x keys bs).canonical = true := by
  rw [State.writeArea]
  split
  · exact canonical_ite (canonical_mk (setCells_canonical h)) (setCells_canonical h)
  · exact modStrand_canonical (logError_canonical (canonical_ite (canonical_mk (setCells_canonical h)) (setCells_canonical
      h)))

theorem save_canonical {s : State} {x : Spill} {keys : List Nat} {win : Option Nat} {rest : Bool} (h : s.canonical = true) :
    (s.save x keys win rest).canonical = true :=
  canonical_mk (writeArea_canonical h)

theorem spillStep_canonical {s : State} {resting : State → Bool} {x : Spill} (h : s.canonical = true) :
    (s.spillStep resting x).canonical = true := by
  rw [State.spillStep]
  refine focus_canonical ?_
  split
  · exact canonical_mk (focus_canonical h)
  · exact canonical_mk (focus_canonical h)
  · exact focus_canonical h
  · refine canonical_ite (canonical_mk (focus_canonical h)) ?_
    split
    · exact storeTrap_canonical (canonical_mk (focus_canonical h))
    · split
      · exact canonical_mk (focus_canonical h)
      next heq1 =>
        refine canonical_ite (goHome_canonical (canonical_mk (finds_some (boundary_canonical (canonical_mk (focus_canonical
          h))) heq1 :))) ?_
        split
        · exact canonical_mk (focus_canonical h)
        · exact canonical_ite (canonical_mk (focus_canonical h)) (canonical_mk (save_canonical (finds_some (boundary_canonical
            (canonical_mk (focus_canonical h))) heq1 :)))

theorem execSpill_canonical {a b : Reg} {la : Look} {s : State} (h : s.canonical = true) : (execSpill a b la s).canonical :=
  command_canonical (keeps_bind rd2_tidy fun _ => keeps_bind checkArea_tidy fun _ => keeps_bind logWrite_tidy fun _ =>
    keeps_get fun _ _ => keeps_bind (need_tidy opFault_tidy) fun _ => keeps_bind (need_tidy illegalState_tidy) fun _ =>
    keeps_bind (upd_tidy (fun _ h2 => canonical_mk h2)) fun _ => keeps_bind promiseFree_tidy fun _ => waitFor_tidy) h

/-! RESTORE. -/

theorem renameResv_canonical {s : State} {was new : Nat} (h : s.canonical = true) : (s.renameResv was new).canonical = true :=
  canonical_mk h

theorem clearSaved_canonical {s : State} {keys : List Nat} (h : s.canonical = true) : (s.clearSaved keys).canonical = true :=
  setByte_canonical h

theorem restore_canonical {s : State} {ws : List Word} {keys : List Nat} {core slot : Nat} (h : s.canonical = true) :
    (s.restore ws keys core slot).canonical = true := by
  rw [State.restore]
  split
  · exact clearSaved_canonical (canonical_ite (focus_canonical (endTask_canonical (focus_canonical h))) h)
  · exact clearSaved_canonical (renameResv_canonical (putStrand_canonical (canonical_ite (due_canonical (putStrand_canonical
      h)) h)))

theorem execRestore_canonical {a b : Reg} {la : Look} {s : State} (h : s.canonical = true) :
    (execRestore a b la s).canonical := by
  rw [execRestore]
  refine command_canonical ?_ h
  refine keeps_bind rd2_tidy fun _ => ?_
  refine keeps_bind checkArea_tidy fun _ => ?_
  refine keeps_get fun _ _ => ?_
  dsimp only
  split
  · exact vfault_tidy
  · split
    · refine keeps_bind (stop_tidy trivial) fun _ => ?_
      refine keeps_bind (need_tidy illegalState_tidy) fun _ => ?_
      refine keeps_bind (need_tidy opFault_tidy) fun _ => ?_
      split
      · exact illegalState_tidy
      · exact keeps_bind (upd_tidy (fun _ h2 => restore_canonical h2)) fun _ => promiseFree_tidy
    · refine keeps_bind (need_tidy illegalState_tidy) fun _ => ?_
      refine keeps_bind (need_tidy opFault_tidy) fun _ => ?_
      split
      · exact illegalState_tidy
      · exact keeps_bind (upd_tidy (fun _ h2 => restore_canonical h2)) fun _ => promiseFree_tidy

/-! Reset (R61, R118, R369, Tables 4.1, 7.1, 9.2, 10.1, 11.1, 12.1, 15.1). -/

theorem flush_canonical {s : State} (h : s.canonical = true) : s.flush.canonical = true :=
  canonical_foldl (canonical_mk h) (fun _ _ h1 => canonical_ite (performApert_canonical h1) (canonical_ite (perform_canonical
    h1) (finds_getD (sendStore_canonical h1) h1))) _

theorem killOn_canonical {s : State} {f : Nat → Bool} (h : s.canonical = true) : (s.killOn f).canonical = true :=
  focus_canonical (canonical_foldl h (fun _ _ h1 => endTask_canonical (flush_canonical (focus_canonical (canonical_mk h1))))
    _)

theorem lose_canonical {s : State} {rs : List Rec} (h : s.canonical = true) : (s.lose rs).canonical = true := by
  rw [State.lose]
  refine canonical_foldl h ?_ _
  intro t a h1
  split
  · exact countTasks_canonical h1
  · exact h1

theorem resetCores_canonical {s : State} {f : Nat → Bool} (h : s.canonical = true) : (s.resetCores f).canonical = true := by
  have hk := lose_canonical (rs := ((s.killOn f).queues.run.filter fun e => f e.1).flatMap fun e => e.2.rec?)
    (killOn_canonical (f := f) h)
  exact allStrands_canonical (canonical_of_mem hk (memory_wf_filter _ (canonical_iff.mp hk).1) rfl)

theorem resumeMovers_canonical {s : State} {f : Nat → Bool} (h : s.canonical = true) : (s.resumeMovers f).canonical = true :=
  canonical_mk h

theorem resetUnits_canonical {s : State} {cl : Nat} (h : s.canonical = true) : (s.resetUnits cl).canonical = true :=
  canonical_mk (resumeMovers_canonical (lose_canonical h))

theorem resetCluster_canonical {s : State} {cl : Nat} (h : s.canonical = true) : (s.resetCluster cl).canonical = true :=
  resetUnits_canonical (resetCores_canonical h)

theorem execClusterReset_canonical {s : State} (h : s.canonical = true) : (execClusterReset s).canonical :=
  resetCluster_canonical h

theorem resetDie_canonical {s : State} {die : Nat} (h : s.canonical = true) : (s.resetDie die).canonical = true :=
  canonical_mk (lose_canonical (resetCores_canonical (canonical_foldl h (fun _ _ h1 => resetCluster_canonical h1) _)))

/-! Boot (R371, R372). -/

theorem placeSection_canonical {s : State} {die : Nat} {body : List Byte} {x : Section} (h : s.canonical = true) :
    (s.placeSection die body x).canonical = true :=
  canonical_foldl h (fun _ _ h1 => setBytes_canonical h1) _

theorem startFirmware_canonical {s : State} {core pc : Nat} (h : s.canonical = true) :
    (s.startFirmware core pc).canonical = true :=
  putStrand_canonical h

theorem startTargets_canonical {s : State} {die : Nat} {secs : List Section} (h : s.canonical = true) :
    (s.startTargets die secs).canonical = true := by
  rw [State.startTargets]
  refine canonical_foldl h ?_ _
  intro t a h1
  split
  · exact h1
  · exact canonical_foldl h1 (fun _ _ h2 => startFirmware_canonical h2) _

theorem haltDie_canonical {s : State} {die : Nat} (h : s.canonical = true) : (s.haltDie die).canonical = true :=
  canonical_mk (report_canonical h)

theorem execPowerUpBoot_canonical {s : State} (h : s.canonical = true) : (execPowerUpBoot s).canonical := by
  rw [execPowerUpBoot]
  split
  · exact haltDie_canonical (canonical_ite (resetDie_canonical h) h)
  · exact out_ite (startTargets_canonical (canonical_foldl (canonical_mk (canonical_ite (resetDie_canonical h) h))
      (fun _ _ h1 => placeSection_canonical h1) _)) (haltDie_canonical (canonical_mk (canonical_ite (resetDie_canonical h)
      h)))

/-! Management (R373, R376). -/

theorem asked_canonical {s : State} (h : s.canonical = true) : s.asked.canonical = true := canonical_mk h

theorem execManagementStatus_canonical {s : State} (h : s.canonical = true) : (execManagementStatus s).canonical :=
  report_canonical (asked_canonical h)

theorem execManagementAttestation_canonical {s : State} (h : s.canonical = true) : (execManagementAttestation s).canonical :=
  report_canonical (asked_canonical h)

/-! Power (R377). -/

theorem execCapWindowEnd_canonical {s : State} (h : s.canonical = true) : (execCapWindowEnd s).canonical := canonical_mk h

/-! The Lehr state (R378-R380). -/

theorem lehrBegin_canonical {s : State} (h : s.canonical = true) : s.lehrBegin.canonical = true :=
  canonical_ite (due_canonical (canonical_mk h)) h

theorem lehrLeave_canonical {s : State} (h : s.canonical = true) : s.lehrLeave.canonical = true :=
  canonical_ite (due_canonical (canonical_mk h)) h

theorem execPwrWarnAssert_canonical {s : State} (h : s.canonical = true) : (execPwrWarnAssert s).canonical :=
  out_ite (due_canonical h) (out_ite (lehrBegin_canonical (canonical_mk h)) (hwSend_canonical (canonical_mk h)))

theorem execPwrWarnDeassert_canonical {s : State} (h : s.canonical = true) : (execPwrWarnDeassert s).canonical :=
  out_ite (due_canonical h) (out_ite (lehrLeave_canonical (canonical_mk h)) (canonical_mk h))

theorem execLehrEntryComplete_canonical {s : State} (h : s.canonical = true) : (execLehrEntryComplete s).canonical :=
  out_ite h (out_ite (due_canonical h) (canonical_mk (allStrands_canonical h)))

theorem execLehrExitComplete_canonical {s : State} (h : s.canonical = true) : (execLehrExitComplete s).canonical :=
  out_ite (canonical_mk (resumeMovers_canonical h)) h

theorem lehr_canonical {i : Instr} {a : Reg} {la : Look} {s : State} (h : s.canonical = true) : (lehr i a la s).canonical := by
  rw [lehr]
  refine command_canonical ?_ h
  refine keeps_bind rd_tidy fun _ => ?_
  refine keeps_get fun _ _ => ?_
  refine keeps_bind (need_tidy illegalState_tidy) fun _ => ?_
  refine keeps_bind (need_tidy (stop_tidy trivial)) fun _ => ?_
  refine keeps_bind promise_tidy fun _ => ?_
  split
  · exact keeps_bind (upd_tidy (fun _ h2 => lehrBegin_canonical h2)) fun _ => waitFor_tidy
  · exact keeps_bind (upd_tidy (fun _ h2 => lehrLeave_canonical h2)) fun _ => waitFor_tidy
  · exact upd_tidy (fun _ h2 => canonical_mk h2)
  · exact upd_tidy (fun _ h2 => canonical_mk h2)

theorem execLehrEnter_canonical {a : Reg} {la : Look} {s : State} (h : s.canonical = true) :
    (execLehrEnter a la s).canonical :=
  lehr_canonical h

theorem execLehrExit_canonical {a : Reg} {la : Look} {s : State} (h : s.canonical = true) : (execLehrExit a la s).canonical :=
  lehr_canonical h

theorem execLehrArm_canonical {a : Reg} {la : Look} {s : State} (h : s.canonical = true) : (execLehrArm a la s).canonical :=
  lehr_canonical h

theorem execLehrDisarm_canonical {a : Reg} {la : Look} {s : State} (h : s.canonical = true) :
    (execLehrDisarm a la s).canonical :=
  lehr_canonical h

/-! Repair in service (R381, R382). -/

theorem closeCluster_canonical {s : State} {cl : Nat} (h : s.canonical = true) : (s.closeCluster cl).canonical = true :=
  canonical_mk h

theorem moveRec_canonical {s : State} {cl : Nat} (h : s.canonical = true) :
    Finds (fun x => x.canonical = true) (s.moveRec cl) := by
  rw [State.moveRec]
  split
  · exact trivial
  · exact finds_ite (putDie_canonical (refill_canonical (canonical_mk h))) trivial

theorem moveWait_canonical {s : State} {cl : Nat} (h : s.canonical = true) :
    Finds (fun x => x.canonical = true) (s.moveWait cl) := by
  rw [State.moveWait]
  split
  · exact trivial
  · exact finds_map (fun _ _ => canonical_mk h)

theorem moveRun_canonical {s : State} {cl : Nat} (h : s.canonical = true) :
    Finds (fun x => x.canonical = true) (s.moveRun cl) := by
  rw [State.moveRun]
  split
  · exact trivial
  · exact finds_map (fun _ _ => putRun_canonical (canonical_mk h))

theorem movedAll_canonical {f : State → Option State} {r : Nat} {s : State} (hf : ∀ (a : State), a.canonical = true → Finds
    (fun x => x.canonical = true) (f a)) (h : s.canonical = true) :
    (movedAll f r s).canonical = true := by
  induction r generalizing s with
  | zero =>
    rw [movedAll]
    exact h
  | succ _ ih =>
    rw [movedAll]
    split
    · exact h
    next heq => exact ih (finds_some (hf _ h) heq :)

theorem moveEntries_canonical {s : State} {cl : Nat} (h : s.canonical = true) : (s.moveEntries cl).canonical = true :=
  movedAll_canonical (fun _ h1 => moveRun_canonical h1) (movedAll_canonical (fun _ h1 => moveWait_canonical h1)
    (movedAll_canonical (fun _ h1 => moveRec_canonical h1) h))

theorem moveStrand_canonical {s : State} {core slot : Nat} {win : Option Nat} (h : s.canonical = true) :
    (s.moveStrand core slot win).canonical = true :=
  renameResv_canonical (putStrand_canonical (canonical_mk h))

theorem evict_canonical {s : State} {sid : Nat} (h : s.canonical = true) : (s.evict sid).canonical = true := by
  rw [State.evict]
  refine focus_canonical ?_
  split
  · refine canonical_ite (canonical_mk (focus_canonical h)) ?_
    split
    · exact storeTrap_canonical (canonical_mk (focus_canonical h))
    · split
      · exact canonical_mk (focus_canonical h)
      next heq2 =>
        refine canonical_ite (goHome_canonical (canonical_mk (finds_some (boundary_canonical (canonical_mk (focus_canonical
          h))) heq2 :))) ?_
        split
        · exact canonical_mk (focus_canonical h)
        · exact moveStrand_canonical (finds_some (boundary_canonical (canonical_mk (focus_canonical h))) heq2 :)
  · refine canonical_ite (canonical_mk (focus_canonical h)) ?_
    split
    · exact storeTrap_canonical (canonical_mk (focus_canonical h))
    · split
      · exact canonical_mk (focus_canonical h)
      next heq2 =>
        refine canonical_ite (goHome_canonical (canonical_mk (finds_some (boundary_canonical (canonical_mk (focus_canonical
          h))) heq2 :))) ?_
        split
        · exact canonical_mk (focus_canonical h)
        · exact moveStrand_canonical (finds_some (boundary_canonical (canonical_mk (focus_canonical h))) heq2 :)
  · exact focus_canonical h

theorem drain_canonical {s : State} {cl : Nat} (h : s.canonical = true) : (s.drain cl).canonical = true :=
  canonical_ite h (canonical_ite (due_canonical (moveEntries_canonical (canonical_ite h (closeCluster_canonical h))))
    (canonical_ite (due_canonical (canonical_foldl (moveEntries_canonical (canonical_ite h (closeCluster_canonical h)))
    (fun _ _ h1 => evict_canonical h1) _)) (canonical_mk (canonical_foldl (moveEntries_canonical (canonical_ite h
    (closeCluster_canonical h))) (fun _ _ h1 => evict_canonical h1) _))))

theorem execClusterDrain_canonical {s : State} (h : s.canonical = true) : (execClusterDrain s).canonical :=
  drain_canonical (canonical_ite h (asked_canonical h))

theorem execClusterReturn_canonical {s : State} (h : s.canonical = true) : (execClusterReturn s).canonical :=
  due_canonical (canonical_ite (fieldReturn_canonical (canonical_mk (asked_canonical h))) (canonical_mk (asked_canonical h)))

theorem execDieDrain_canonical {s : State} (h : s.canonical = true) : (execDieDrain s).canonical :=
  out_ite (canonical_mk (excludeDie_canonical (canonical_ite h (asked_canonical h)))) (due_canonical (canonical_foldl
    (canonical_ite h (asked_canonical h)) (fun _ _ h1 => drain_canonical h1) _))

/-! Links and failures (R374, R383). -/

theorem execLinkKeyRenewal_canonical {s : State} (h : s.canonical = true) : (execLinkKeyRenewal s).canonical := canonical_mk h

theorem execLinkKeyAgreement_canonical {s : State} (h : s.canonical = true) : (execLinkKeyAgreement s).canonical :=
  out_ite (canonical_mk h) h

theorem execObituary_canonical {s : State} (h : s.canonical = true) : (execObituary s).canonical :=
  out_ite h (canonical_mk (cancelRuns_canonical h))

theorem mourn_canonical {s : State} {d : Nat} (h : s.canonical = true) : (s.mourn d).canonical = true := canonical_mk h

theorem execLinkLoss_canonical {s : State} (h : s.canonical = true) : (execLinkLoss s).canonical :=
  due_canonical (mourn_canonical h)

theorem execDeviceUnrecoverableFault_canonical {s : State} (h : s.canonical = true) :
    (execDeviceUnrecoverableFault s).canonical :=
  mourn_canonical h

/-! The kill of a job (R369). -/

theorem execJobKill_canonical {s : State} (h : s.canonical = true) : (execJobKill s).canonical :=
  endJob_canonical (cancelRuns_canonical (canonical_foldl (canonical_mk (stopXfers_canonical (killCmds_canonical
    (cancelStrands_canonical (canonical_foldl (canonical_foldl (modJob_canonical h) (fun _ _ h1 => cancelGraph_canonical h1)
    _) (fun _ _ h1 => cancelLaunch_canonical h1) _))))) (fun _ _ h1 => stopRemaps_canonical h1) _))

end Sys2Proof.Machine
end

section
/-! SUPPORT. Canonical memory is kept: fetch, issue, time and the step. -/

namespace Sys2Proof.Machine
open Sys2Proof.Num

/-! One arm for each constructor of Instr, each one direct call of its meaning. -/

theorem exec_canonical {i : Instr} {s : State} (h : s.canonical = true) : Out.canonical (exec i s) := by
  unfold exec
  cases i with
  | add => exact execAdd_canonical h
  | sub => exact execSub_canonical h
  | mul => exact execMul_canonical h
  | mulh => exact execMulh_canonical h
  | mulhn => exact execMulhn_canonical h
  | div => exact execDiv_canonical h
  | divn => exact execDivn_canonical h
  | rem => exact execRem_canonical h
  | and => exact execAnd_canonical h
  | or => exact execOr_canonical h
  | xor => exact execXor_canonical h
  | andn => exact execAndn_canonical h
  | orn => exact execOrn_canonical h
  | xnor => exact execXnor_canonical h
  | min => exact execMin_canonical h
  | max => exact execMax_canonical h
  | shl => exact execShl_canonical h
  | shr => exact execShr_canonical h
  | sha => exact execSha_canonical h
  | rot => exact execRot_canonical h
  | minn => exact execMinn_canonical h
  | maxn => exact execMaxn_canonical h
  | clz => exact execClz_canonical h
  | popc => exact execPopc_canonical h
  | bext => exact execBext_canonical h
  | bdep => exact execBdep_canonical h
  | brev => exact execBrev_canonical h
  | scadd => exact execScadd_canonical h
  | sel => exact execSel_canonical h
  | lut3 => exact execLut3_canonical h
  | fsl => exact execFsl_canonical h
  | fsr => exact execFsr_canonical h
  | cmpeq => exact execCmpeq_canonical h
  | cmpne => exact execCmpne_canonical h
  | cmplt => exact execCmplt_canonical h
  | cmple => exact execCmple_canonical h
  | cmpltn => exact execCmpltn_canonical h
  | cmplen => exact execCmplen_canonical h
  | tst => exact execTst_canonical h
  | pand => exact execPand_canonical h
  | por => exact execPor_canonical h
  | pxor => exact execPxor_canonical h
  | pnot => exact execPnot_canonical h
  | addi => exact execAddi_canonical h
  | andi => exact execAndi_canonical h
  | ori => exact execOri_canonical h
  | xori => exact execXori_canonical h
  | shli => exact execShli_canonical h
  | shri => exact execShri_canonical h
  | shai => exact execShai_canonical h
  | cmpeqi => exact execCmpeqi_canonical h
  | cmplti => exact execCmplti_canonical h
  | cmpltni => exact execCmpltni_canonical h
  | lui => exact execLui_canonical h
  | addpc => exact execAddpc_canonical h
  | fadd => exact execFadd_canonical h
  | fsub => exact execFsub_canonical h
  | fmul => exact execFmul_canonical h
  | fma => exact execFma_canonical h
  | fdiv => exact execFdiv_canonical h
  | fsqrt => exact execFsqrt_canonical h
  | fmin => exact execFmin_canonical h
  | fmax => exact execFmax_canonical h
  | fcmpeq => exact execFcmpeq_canonical h
  | fcmplt => exact execFcmplt_canonical h
  | fcmple => exact execFcmple_canonical h
  | fcmpun => exact execFcmpun_canonical h
  | cvt => exact execCvt_canonical h
  | dadd => exact execDadd_canonical h
  | dsub => exact execDsub_canonical h
  | dmul => exact execDmul_canonical h
  | dfma => exact execDfma_canonical h
  | ddiv => exact execDdiv_canonical h
  | dsqrt => exact execDsqrt_canonical h
  | srd => exact execSrd_canonical h
  | swr => exact execSwr_canonical h
  | ext => exact execExt_canonical h
  | rdcyc => exact execRdcyc_canonical h
  | trap => exact execTrap_canonical h
  | br => exact execBr_canonical h
  | brF => exact execBrF_canonical h
  | call => exact execCall_canonical h
  | jr => exact execJr_canonical h
  | callr => exact execCallr_canonical h
  | ret => exact execRet_canonical h
  | loop => exact execLoop_canonical h
  | susp => exact execSusp_canonical h
  | migr => exact execMigr_canonical h
  | home => exact execHome_canonical h
  | spawn => exact execSpawn_canonical h
  | spawnh => exact execSpawnh_canonical h
  | send => exact execSend_canonical h
  | qtest => exact execQtest_canonical h
  | launch => exact execLaunch_canonical h
  | grun => exact execGrun_canonical h
  | cancelLaunch => exact execCancelLaunch_canonical h
  | cancelGraph => exact execCancelGraph_canonical h
  | cancelJob => exact execCancelJob_canonical h
  | callm => exact execCallm_canonical h
  | callq => exact execCallq_canonical h
  | callw => exact execCallw_canonical h
  | stf => exact execStf_canonical h
  | ld => exact execLd_canonical h
  | st => exact execSt_canonical h
  | lda => exact execLda_canonical h
  | sta => exact execSta_canonical h
  | ldl => exact execLdl_canonical h
  | stl => exact execStl_canonical h
  | ldx => exact execLdx_canonical h
  | stx => exact execStx_canonical h
  | lrw => exact execLrw_canonical h
  | scv => exact execScv_canonical h
  | relq => exact execRelq_canonical h
  | fence => exact execFence_canonical h
  | ifence => exact execIfence_canonical h
  | vamoBf16 => exact execVamoBf16_canonical h
  | vamoFp32 => exact execVamoFp32_canonical h
  | amoadd => exact execAmoadd_canonical h
  | amoand => exact execAmoand_canonical h
  | amoor => exact execAmoor_canonical h
  | amoxor => exact execAmoxor_canonical h
  | amomin => exact execAmomin_canonical h
  | amomax => exact execAmomax_canonical h
  | amoswap => exact execAmoswap_canonical h
  | amocas => exact execAmocas_canonical h
  | vadd => exact execVadd_canonical h
  | vsub => exact execVsub_canonical h
  | vmul => exact execVmul_canonical h
  | vfma => exact execVfma_canonical h
  | vmin => exact execVmin_canonical h
  | vmax => exact execVmax_canonical h
  | vabs => exact execVabs_canonical h
  | vneg => exact execVneg_canonical h
  | vexp => exact execVexp_canonical h
  | vlog => exact execVlog_canonical h
  | vrcp => exact execVrcp_canonical h
  | vrsq => exact execVrsq_canonical h
  | vsin => exact execVsin_canonical h
  | vcos => exact execVcos_canonical h
  | vand => exact execVand_canonical h
  | vor => exact execVor_canonical h
  | vxor => exact execVxor_canonical h
  | vshl => exact execVshl_canonical h
  | vshr => exact execVshr_canonical h
  | vcmp => exact execVcmp_canonical h
  | vsel => exact execVsel_canonical h
  | vbcast => exact execVbcast_canonical h
  | vget => exact execVget_canonical h
  | vput => exact execVput_canonical h
  | vshuf => exact execVshuf_canonical h
  | vcmul => exact execVcmul_canonical h
  | vconj => exact execVconj_canonical h
  | vcvt => exact execVcvt_canonical h
  | vrnd => exact execVrnd_canonical h
  | vrsum => exact execVrsum_canonical h
  | vrmax => exact execVrmax_canonical h
  | vrmin => exact execVrmin_canonical h
  | vrmaxi => exact execVrmaxi_canonical h
  | vrmini => exact execVrmini_canonical h
  | vld => exact execVld_canonical h
  | vst => exact execVst_canonical h
  | vgath => exact execVgath_canonical h
  | vscat => exact execVscat_canonical h
  | strm => exact execStrm_canonical h
  | stre => exact execStre_canonical h
  | vldf => exact execVldf_canonical h
  | vstf => exact execVstf_canonical h
  | pacc => exact execPacc_canonical h
  | paxpy => exact execPaxpy_canonical h
  | pema => exact execPema_canonical h
  | ldf => exact execLdf_canonical h
  | apply => exact execApply_canonical h
  | applyc => exact execApplyc_canonical h
  | phase => exact execPhase_canonical h
  | dscale => exact execDscale_canonical h
  | redb => exact execRedb_canonical h
  | maxb => exact execMaxb_canonical h
  | opld => exact execOpld_canonical h
  | opgen => exact execOpgen_canonical h
  | opwait => exact execOpwait_canonical h
  | xfer => exact execXfer_canonical h
  | xferRetry => exact execXferRetry_canonical h
  | xferAbandon => exact execXferAbandon_canonical h
  | cbld => exact execCbld_canonical h
  | waitt => exact execWaitt_canonical h
  | waitc => exact execWaitc_canonical h
  | waitb => exact execWaitb_canonical h
  | waitp => exact execWaitp_canonical h
  | sig => exact execSig_canonical h
  | cntset => exact execCntset_canonical h
  | armt => exact execArmt_canonical h
  | barw => exact execBarw_canonical h
  | otset => exact execOtset_canonical h
  | otget => exact execOtget_canonical h
  | otinv => exact execOtinv_canonical h
  | frename => exact execFrename_canonical h
  | fperm => exact execFperm_canonical h
  | finfo => exact execFinfo_canonical h
  | objnew => exact execObjnew_canonical h
  | objsync => exact execObjsync_canonical h
  | leasePin => exact execLeasePin_canonical h
  | leaseUnpin => exact execLeaseUnpin_canonical h
  | xinv => exact execXinv_canonical h
  | dlogh => exact execDlogh_canonical h
  | pgmig => exact execPgmig_canonical h
  | subs => exact execSubs_canonical h
  | unsub => exact execUnsub_canonical h
  | cgld => exact execCgld_canonical h
  | cgrun => exact execCgrun_canonical h
  | spill => exact execSpill_canonical h
  | restore => exact execRestore_canonical h
  | barcfgConfigure => exact execBarcfgConfigure_canonical h
  | barcfgRelease => exact execBarcfgRelease_canonical h
  | lehrEnter => exact execLehrEnter_canonical h
  | lehrExit => exact execLehrExit_canonical h
  | lehrArm => exact execLehrArm_canonical h
  | lehrDisarm => exact execLehrDisarm_canonical h
  | compactMov => exact execCompactMov_canonical h
  | compactAdd => exact execCompactAdd_canonical h
  | compactSub => exact execCompactSub_canonical h
  | compactAnd => exact execCompactAnd_canonical h
  | compactOr => exact execCompactOr_canonical h
  | compactXor => exact execCompactXor_canonical h
  | compactAndn => exact execCompactAndn_canonical h
  | compactShl => exact execCompactShl_canonical h
  | compactShr => exact execCompactShr_canonical h
  | compactSha => exact execCompactSha_canonical h
  | compactAddi => exact execCompactAddi_canonical h
  | compactShli => exact execCompactShli_canonical h
  | compactShri => exact execCompactShri_canonical h
  | compactShai => exact execCompactShai_canonical h
  | compactMovi => exact execCompactMovi_canonical h
  | compactCmpeq => exact execCompactCmpeq_canonical h
  | compactCmplt => exact execCompactCmplt_canonical h
  | compactCmpltn => exact execCompactCmpltn_canonical h
  | compactLdl => exact execCompactLdl_canonical h
  | compactStl => exact execCompactStl_canonical h
  | compactVadd => exact execCompactVadd_canonical h
  | compactVmul => exact execCompactVmul_canonical h
  | compactVfma => exact execCompactVfma_canonical h
  | nop => exact execNop_canonical h
  | idle => exact execIdle_canonical h
  | rte => exact execRte_canonical h
  | endTask => exact execEndTask_canonical h
  | yield => exact execYield_canonical h
  | compactNop => exact execCompactNop_canonical h
  | compactEnd => exact execCompactEnd_canonical h
  | compactYield => exact execCompactYield_canonical h
  | compactRet => exact execCompactRet_canonical h
  | streamFetchAhead => exact execStreamFetchAhead_canonical h
  | trapEntry => exact execTrapEntry_canonical h
  | resultArrival => exact execResultArrival_canonical h
  | storePerform => exact execStorePerform_canonical h
  | pageWalk => exact execPageWalk_canonical h
  | remoteAccessRequest => exact execRemoteAccessRequest_canonical h
  | requestTimeout => exact execRequestTimeout_canonical h
  | staleReply => exact execStaleReply_canonical h
  | packetAgeDiscard => exact execPacketAgeDiscard_canonical h
  | messageArrival => exact execMessageArrival_canonical h
  | sendOfferAnswer => exact execSendOfferAnswer_canonical h
  | sendRetryLimit => exact execSendRetryLimit_canonical h
  | hardwareMessageDelivery => exact execHardwareMessageDelivery_canonical h
  | migrationArrival => exact execMigrationArrival_canonical h
  | reservationGrant => exact execReservationGrant_canonical h
  | slotFill => exact execSlotFill_canonical h
  | recordAgeing => exact execRecordAgeing_canonical h
  | waitSetTimeWake => exact execWaitSetTimeWake_canonical h
  | launchPreparation => exact execLaunchPreparation_canonical h
  | recordGeneration => exact execRecordGeneration_canonical h
  | launchCompletion => exact execLaunchCompletion_canonical h
  | commandAccept => exact execCommandAccept_canonical h
  | commandStart => exact execCommandStart_canonical h
  | commandRetire => exact execCommandRetire_canonical h
  | chunkComplete => exact execChunkComplete_canonical h
  | chunkFailed => exact execChunkFailed_canonical h
  | codeBookLoaded => exact execCodeBookLoaded_canonical h
  | remapGroupMove => exact execRemapGroupMove_canonical h
  | remapPassEnd => exact execRemapPassEnd_canonical h
  | remapCommit => exact execRemapCommit_canonical h
  | remapGroupRetry => exact execRemapGroupRetry_canonical h
  | logAppend => exact execLogAppend_canonical h
  | entryApply => exact execEntryApply_canonical h
  | queryRun => exact execQueryRun_canonical h
  | replicaReport => exact execReplicaReport_canonical h
  | replicaExclusion => exact execReplicaExclusion_canonical h
  | tierEpochEnd => exact execTierEpochEnd_canonical h
  | multicastDelivery => exact execMulticastDelivery_canonical h
  | joinPacket => exact execJoinPacket_canonical h
  | leavePacket => exact execLeavePacket_canonical h
  | reduceChunk => exact execReduceChunk_canonical h
  | collectiveChunkArrival => exact execCollectiveChunkArrival_canonical h
  | collectiveStepComplete => exact execCollectiveStepComplete_canonical h
  | collectiveStepTimeout => exact execCollectiveStepTimeout_canonical h
  | collectiveCancelPacket => exact execCollectiveCancelPacket_canonical h
  | deadlineExpiry => exact execDeadlineExpiry_canonical h
  | waittTimeReached => exact execWaittTimeReached_canonical h
  | promiseReached => exact execPromiseReached_canonical h
  | barrierArrival => exact execBarrierArrival_canonical h
  | barrierRelease => exact execBarrierRelease_canonical h
  | watchdogExpiry => exact execWatchdogExpiry_canonical h
  | capWindowEnd => exact execCapWindowEnd_canonical h
  | pwrWarnAssert => exact execPwrWarnAssert_canonical h
  | pwrWarnDeassert => exact execPwrWarnDeassert_canonical h
  | lehrEntryComplete => exact execLehrEntryComplete_canonical h
  | lehrExitComplete => exact execLehrExitComplete_canonical h
  | powerUpBoot => exact execPowerUpBoot_canonical h
  | clusterReset => exact execClusterReset_canonical h
  | managementStatus => exact execManagementStatus_canonical h
  | managementAttestation => exact execManagementAttestation_canonical h
  | clusterDrain => exact execClusterDrain_canonical h
  | clusterReturn => exact execClusterReturn_canonical h
  | dieDrain => exact execDieDrain_canonical h
  | linkKeyRenewal => exact execLinkKeyRenewal_canonical h
  | obituary => exact execObituary_canonical h
  | linkLoss => exact execLinkLoss_canonical h
  | jobKill => exact execJobKill_canonical h
  | deviceUnrecoverableFault => exact execDeviceUnrecoverableFault_canonical h
  | linkKeyAgreement => exact execLinkKeyAgreement_canonical h
  | acknowledgementArrival => exact execAcknowledgementArrival_canonical h
  | pageMigrationLineCopy => exact execPageMigrationLineCopy_canonical h

/-! Fetch and issue (R9, R15, R16, R39, R124, R137, R368). -/

theorem runAlone_canonical {s t : State} {len : Nat} (ht : t.canonical = true) : (s.runAlone t len).canonical = true := by
  rw [State.runAlone]
  split
  · exact ht
  · exact canonical_ite ht (canonical_ite (canonical_mk ht) (canonical_ite ht (canonical_mk ht)))

theorem map_canonical {f : State → State} {r : Out} (hf : ∀ (a : State), a.canonical = true → (f a).canonical = true)
    (hr : r.canonical) :
    (Out.map f r).canonical := by
  unfold Out.map
  split
  · exact hf _ hr
  · exact hr
  · exact hr

theorem issueFetched_canonical {f : Fetched} {s : State} (h : s.canonical = true) : (issueFetched f s).canonical := by
  unfold issueFetched
  split
  · exact raise_canonical h
  · exact raise_canonical (logError_canonical h)
  · exact raise_canonical h
  · exact map_canonical (fun _ h1 => runAlone_canonical h1) (exec_canonical h)

theorem issueNext_canonical {s : State} (h : s.canonical = true) : s.issueNext.canonical := by
  rw [State.issueNext]
  split
  · exact storeTrap_canonical h
  · exact issueFetched_canonical h

/-! Waits tested again. -/

theorem retest_canonical {p : Pending} {s : State} (h : s.canonical = true) : (retest p s).canonical = true := by
  rw [retest]
  split
  · split
    next heq1 => exact swapPend_canonical (canonical_mk (ends_ok (testWord_tidy _ h) heq1 :))
    · exact h
    · exact swapPend_canonical h
    · exact swapPend_canonical h
    · exact swapPend_canonical (logError_canonical h)
    · exact h
  · exact h

theorem retestOne_canonical {s : State} {t : Strand} (h : s.canonical = true) : (s.retestOne t).canonical = true :=
  focus_canonical (canonical_foldl (focus_canonical h) (fun _ _ h1 => retest_canonical h1) _)

theorem retestAll_canonical {s : State} (h : s.canonical = true) : s.retestAll.canonical = true :=
  canonical_foldl h (fun _ _ h1 => retestOne_canonical h1) _

theorem clearOver_canonical {s : State} (h : s.canonical = true) : s.clearOver.canonical = true := allStrands_canonical h

theorem leave_canonical {s : State} {sid : Nat} (h : s.canonical = true) : (s.leave sid).canonical = true := by
  rw [State.leave]
  split
  · exact focus_canonical h
  · exact canonical_ite (canonical_mk (focus_canonical h)) (canonical_ite (depart_canonical (canonical_mk (focus_canonical
      h))) (focus_canonical h))

theorem leaveAll_canonical {s : State} (h : s.canonical = true) : s.leaveAll.canonical = true :=
  focus_canonical (canonical_foldl h (fun _ _ h1 => leave_canonical h1) _)

theorem endAll_canonical {s : State} (h : s.canonical = true) : s.endAll.canonical = true :=
  focus_canonical (canonical_foldl h (fun _ _ h1 => endDoomed_canonical (focus_canonical h1)) _)

theorem settleUnits_canonical {s : State} (h : s.canonical = true) : s.settleUnits.canonical = true :=
  canonical_foldl (canonical_foldl (acceptXfers_canonical (pruneOffers_canonical (freeEnded_canonical (startRemaps_canonical
    (wakeFields_canonical (takeUps_canonical (retryAdds_canonical h))))))) (fun _ _ h1 => wakeCalls_canonical h1) _)
    (fun _ _ h1 => closeReplay_canonical h1) _

theorem settle_canonical {s : State} (h : s.canonical = true) : s.settle.canonical = true :=
  leaveAll_canonical (clearOver_canonical (endAll_canonical (canonical_foldl (canonical_ite (settleUnits_canonical
    (wakeRec_canonical (retestAll_canonical h))) h) (fun _ _ h1 => spillStep_canonical h1) _)))

theorem corrected_wf {s : State} {e : Option (Nat × Bool)} (h : s.canonical = true) : (s.corrected e).wf = true := by
  unfold State.corrected
  split
  · exact (canonical_iff.mp (count_canonical h)).1
  · exact (canonical_iff.mp h).1

/-! Time. -/

theorem tick_canonical {s : State} (h : s.canonical = true) : s.tick.canonical = true :=
  canonical_withMem (allStrands_canonical h) (corrected_wf h)

/-! What may move. -/

theorem point_canonical {s : State} {core slot : Nat} (h : s.canonical = true) : (s.point core slot).canonical = true :=
  canonical_mk h

theorem pointed_canonical {s t : State} (ht : t.canonical = true) : (s.pointed t).canonical = true :=
  canonical_ite ht (point_canonical ht)

/-! Moves made. -/

theorem shut_canonical {s : State} {d : Due} (h : s.canonical = true) : Finds (fun x => x.canonical = true) (s.shut d) := by
  rw [State.shut]
  refine finds_ite trivial ?_
  split
  · exact count_canonical h
  · exact count_canonical h
  · exact h
  · exact trivial

theorem makeOwed_canonical {s : State} {n : Nat} (h : s.canonical = true) : (s.makeOwed n).canonical := by
  rw [State.makeOwed]
  split
  · exact h
  · dsimp only
    split
    next heq1 => exact (finds_some (shut_canonical (canonical_mk h)) heq1 :)
    · exact exec_canonical (canonical_mk (focus_canonical (canonical_mk h)))

theorem make_canonical {s : State} {r : Move} (h : s.canonical = true) : (s.make r).canonical := by
  unfold State.make
  split
  · exact map_canonical (fun _ h1 => pointed_canonical h1) (issueNext_canonical (focus_canonical h))
  · exact exec_canonical (canonical_mk (focus_canonical h))
  · exact makeOwed_canonical h

theorem advance_canonical {s : State} (h : s.canonical = true) : s.advance.canonical := by
  rw [State.advance]
  split
  · exact map_canonical (fun _ h1 => tick_canonical (settle_canonical h1)) (make_canonical h)
  · exact out_ite trivial (tick_canonical h)

/-! The step of the machine, and a state in which it issues a given instruction next. -/

theorem step_canonical {s : State} (h : s.canonical = true) : Out.canonical (step s) := advance_canonical h

end Sys2Proof.Machine
end

section
/-! PROOFS. Memory and the object table stay canonical in every step. -/

namespace Sys2Proof.Machine

/-- Settles O59: what each function of the model returns is canonical where it gets a canonical state, and a step is a move
made, what it lets go settled, and a tick. -/
theorem memoryStaysCanonical : Obligations.MemoryStaysCanonical := by
  intro s t h hstep
  have hout := step_canonical h
  rw [hstep] at hout
  exact hout

end Sys2Proof.Machine
end
